-- ==== Sys2Proof/Word.lean ====
section
/-!
DEFINITION. The words of the device and sparse tables. Bit vectors stand for what the manual treats
as bits (R5: little-endian, bit 0 least significant); tables are sorted association lists, so that the
state is plain data.
-/
namespace Sys2Proof

/-- One byte of memory. -/
abbrev Byte := BitVec 8

/-- A 64-bit register, the width of x0 to x31 (R60). -/
abbrev W64 := BitVec 64

/-- A 512-bit vector register (R60, R104). -/
abbrev V512 := BitVec 512

/-- A table from a number (a register number, a core index, a node, an address) to a value, sorted by
key and listing each key at most once. -/
abbrev Tbl (α : Type) := List (Nat × α)

/-- A set of numbers, sorted and without repeats (poisoned lines, fenced units). -/
abbrev NSet := List Nat

end Sys2Proof
end

