-- ==== Sys2Proof/Syntax.lean ====
section
/-!
DEFINITION. The commands: one constructor of Instr for each row of spec/opcode_table.json, with the
operands that the row's step takes. Encoding fields that the spec requires to be zero are operands
too, so that a reserved form is a command and has its outcome (R61). What a host, another device, the
board or a unit's own error check contributes to a step is an operand of the step (log entries 1, 8).
-/
namespace Sys2Proof

/-- What the checks of Table 19.1 find while an instruction executes: nothing, a residue or datapath
failure whose replay passes, one whose replay fails too (R371), or a parity error in a register, tile or
tile-side word that the instruction reads (R372); or wrong bits in a word of the own local store that the
instruction reads (R170). -/
inductive Chk where
  | pass | transient | permanent | parity
  | stored (offset : BitVec 20) (wrong : BitVec 3)
  deriving DecidableEq, Repr

/-- The hardware thread that an instruction step belongs to, whether the instruction is one of the
16-bit forms of R73, what the unit's checks find, and how much of an instruction that goes in parts this step does: lanes of a gather
or scatter, rows of a tile access, iterations of a REP.I (log entry 12). -/
structure Hart where
  core : BitVec 11
  thr : BitVec 3
  compact : Bool
  chk : Chk
  slots : Nat
  deriving DecidableEq, Repr

/-- What a host's memory or another device answers where a step reads there, in the order in which the
step reads it; `code` is 0 for a successful answer and a status of Table 14.4 otherwise; `poison` is a
completion with EP = 1 or a poisoned payload (R373). -/
structure Ext where
  data : List (BitVec 8)
  poison : Bool
  code : Nat
  deriving DecidableEq, Repr

/-- The fields of format V, Table 5.2, but for the major and fn4. -/
structure VFields where
  vd : BitVec 5
  vs1 : BitVec 5
  vs2 : BitVec 5
  pg : BitVec 3
  ty : BitVec 3
  deriving DecidableEq, Repr

/-- The fields of TMEM, Table 7.3, but for the major and S, which the row fixes. -/
structure TMemFields where
  t : BitVec 3
  rs1 : BitVec 5
  rs2 : BitVec 5
  d : Bool
  mf : BitVec 5
  scm : BitVec 2
  rnd : Bool
  q : Bool
  z : BitVec 1
  deriving DecidableEq, Repr

/-- The fields of TCOMP, Table 7.5, but for the major and fn. -/
structure TCompFields where
  td : BitVec 3
  ta : BitVec 3
  tb : BitVec 3
  rs : BitVec 5
  scm : BitVec 2
  rnd : Bool
  z : BitVec 4
  deriving DecidableEq, Repr

/-- The fields of TCTL, Table 7.6, but for the major and fn. -/
structure TCtlFields where
  rd : BitVec 5
  rs1 : BitVec 5
  t : BitVec 3
  imm8 : BitVec 8
  deriving DecidableEq, Repr

/-- A command ring: port, function and ring number (R325). -/
structure RingRef where
  port : BitVec 1
  fn : BitVec 5
  ring : BitVec 4
  deriving DecidableEq, Repr

/-- What the code of a word or line finds when it is read (R170, R172, R301). -/
inductive EccFinding where
  | clean | corrected | uncorrectable
  deriving DecidableEq, Repr

/-- What a bench cache's checks find at a lookup (R293): nothing, a corrected data word, an
uncorrectable data word of the line that hits, or a tag parity error in a way of the set. -/
inductive CacheFinding where
  | clean | corrected | uncorrectable
  | tagParity (way : BitVec 4)
  deriving DecidableEq, Repr

/-- A home of transactional lines: an HBM home by stack, or a local store controller by physical core
index (R222). -/
inductive HomeId where
  | hbm (stack : BitVec 4)
  | store (core : BitVec 11)
  deriving DecidableEq, Repr

/-- The outputs of a router: its four links and its local port (R282). -/
inductive Dir where
  | north | south | east | west | here
  deriving DecidableEq, Repr

/-- The AtomicOps that a port completes or refuses (Table 16.1). -/
inductive PcieAtomic where
  | fetchAdd | swap | cas
  deriving DecidableEq, Repr

/-- Who writes a node register (R433, R434): a thread, whose store is the message `m` delivered to the
node, the management core, a command sequencer, the firmware acting for a command, or a host writing its PF's BAR0
registers, which stand under the endpoint's node. -/
inductive RegSource where
  | thread (m : Nat)
  | mgmt
  | sequencer (port : BitVec 1)
  | command (r : RingRef)
  | host (port : BitVec 1)
  deriving DecidableEq, Repr

/-- What the two ends of a link find in training (Table 18.3): whether the reference clock locks and a
peer is detected, the peer's capability word, and which of the choices of rate and width pass step 4:
`passes` lists (rate code, width code) pairs. -/
structure TrainResult where
  locked : Bool
  peerDev : BitVec 8
  peerPort : BitVec 3
  peerGen : BitVec 4
  peerRates : BitVec 3
  peerLanes : BitVec 8
  passes : List (Nat × Nat)
  deriving DecidableEq, Repr

/-- Why a link port retrains (R358). -/
inductive RetrainCause where
  | replays | lockLost | governor | laneFenced
  deriving DecidableEq, Repr

/-- An operation that a message carries over a link (R367). Tags name the request at its source. -/
inductive LinkOp where
  | read (addr : BitVec 43) (len : Nat)
  | write (addr : BitVec 43) (data : List (Nat × BitVec 8)) (poison : Bool)
  | atomic (addr : BitVec 43) (op : BitVec 4) (wide : Bool) (operand compare : BitVec 64)
  | counter (cell : BitVec 18) (dec : Bool) (amount : BitVec 32)
  | data (bytes : List (BitVec 8)) (poison : Bool)
  | ack
  | error (code : Nat)
  deriving DecidableEq, Repr

/-- A message on a link: its source and destination devices and nodes, its traffic class and set
(R362), the tag of its request, and the operation. -/
structure LinkMsg where
  srcDev : BitVec 8
  dstDev : BitVec 8
  srcNode : BitVec 8
  dstNode : BitVec 8
  cls : BitVec 2
  set1 : Bool
  tag : Nat
  op : LinkOp
  deriving DecidableEq, Repr

/-- A received link flit (R360): sequence number, acknowledged sequence number, credit returns per
virtual channel, its messages, and what the receiver's checks find: CRC good, codeword correctable and
how many symbols of each lane were corrected (R356). -/
structure LinkFlit where
  seqno : Nat
  ackno : Nat
  credits : List Nat
  msgs : List LinkMsg
  crcOk : Bool
  codewordOk : Bool
  symbols : List Nat
  deriving DecidableEq, Repr

/-- What the governor samples at a management tick (Table 20.1): bench temperatures in 1/16 °C by node,
stack temperatures in °C, READ_POUT of the twelve regulators (`none` where the read fails), droop events
and replica rates in M beats/s by node. Link errors, cache use, holds and PRECISION records are in the
device's own registers. -/
structure GovInputs where
  benchTemp : List (Nat × BitVec 16)
  stackTemp : List (Nat × Nat)
  pout : List (Option Nat)
  droops : List (Nat × Nat)
  rates : List (Nat × Nat)
  voutOk : BitVec 4
  deriving DecidableEq, Repr

/-- What the board and the flash present at a POWER_ON or DEVICE reset (Table 21.2): the twelve strap
pins in the order of Table 23.3, the levels of DEV_RST_N and of PERST# of each port, which reference clocks are present (two
PCIe, four HREF), and whether the flash is found and readable (step 1 of Table 21.10). -/
structure BoardInputs where
  straps : BitVec 12
  devRstN : Bool
  perst : BitVec 2
  refclk : BitVec 2
  href : BitVec 4
  flashOk : Bool
  fromPin : Bool
  deriving DecidableEq, Repr

/-- What starts a PORT reset (Table 21.1). -/
inductive PortResetCause where
  | perst | hotReset | dlDown
  deriving DecidableEq, Repr

/-- The steps of the device: one constructor per row of spec/opcode_table.json. -/
inductive Instr where
  /-- OP (R65). A register-to-register 64-bit operation of the OP major, selected by fn10, writes its result to rd. -/
  | op (h : Hart) (fn : BitVec 10) (rd rs1 rs2 : BitVec 5)
  /-- OP_32 (R65). A 32-bit register operation of the OP-32 major writes its sign-extended result to rd. -/
  | op32 (h : Hart) (fn : BitVec 10) (rd rs1 rs2 : BitVec 5)
  /-- BITS (R65). A one-source bit operation of the BITS major, such as CLZ, POPC or BSWAP, writes rd. -/
  | bits (h : Hart) (fn : BitVec 10) (rd rs1 rs2 : BitVec 5)
  /-- MULDIV (R66). A multiply, divide or remainder of the MULDIV major writes rd without faulting, after an operand-dependent latency for the divider. -/
  | muldiv (h : Hart) (fn : BitVec 10) (rd rs1 rs2 : BitVec 5)
  /-- ADDK (R67). Adds the sign-extended imm15 to rs1 and writes rd. -/
  | addk (h : Hart) (rd rs1 : BitVec 5) (imm : BitVec 15)
  /-- ANDK (R67). ANDs rs1 with the zero-extended imm15 and writes rd. -/
  | andk (h : Hart) (rd rs1 : BitVec 5) (imm : BitVec 15)
  /-- ORK (R67). ORs rs1 with the zero-extended imm15 and writes rd. -/
  | ork (h : Hart) (rd rs1 : BitVec 5) (imm : BitVec 15)
  /-- XORK (R67). XORs rs1 with the zero-extended imm15 and writes rd. -/
  | xork (h : Hart) (rd rs1 : BitVec 5) (imm : BitVec 15)
  /-- CMPLTK (R67). Writes 1 to rd if rs1 is below the sign-extended immediate as a signed value, and 0 otherwise. -/
  | cmpltk (h : Hart) (rd rs1 : BitVec 5) (imm : BitVec 15)
  /-- CMPLTUK (R67). Writes 1 to rd if rs1 is below the zero-extended immediate as an unsigned value, and 0 otherwise. -/
  | cmpltuk (h : Hart) (rd rs1 : BitVec 5) (imm : BitVec 15)
  /-- SHK (R67). Shifts or rotates rs1 by an immediate amount, with the function taken from imm15[14:12]. -/
  | shk (h : Hart) (rd rs1 : BitVec 5) (imm : BitVec 15)
  /-- ADDK_32 (R67). Adds the immediate to the low 32 bits of rs1 and sign-extends the result into rd. -/
  | addk32 (h : Hart) (rd rs1 : BitVec 5) (imm : BitVec 15)
  /-- LIH (R67). Loads the sign-extended imm20 shifted left by 16 into rd. -/
  | lih (h : Hart) (rd : BitVec 5) (imm : BitVec 20)
  /-- PCADDH (R67). Writes to rd the PC plus the sign-extended imm20 shifted left by 16. -/
  | pcaddh (h : Hart) (rd : BitVec 5) (imm : BitVec 20)
  /-- LB (R68). Loads a byte, sign-extended, from rs1 plus imm15. -/
  | lb (h : Hart) (rd rs1 : BitVec 5) (imm : BitVec 15)
  /-- LH (R68). Loads a halfword, sign-extended, from rs1 plus imm15. -/
  | lh (h : Hart) (rd rs1 : BitVec 5) (imm : BitVec 15)
  /-- LW (R68). Loads a word, sign-extended, from rs1 plus imm15. -/
  | lw (h : Hart) (rd rs1 : BitVec 5) (imm : BitVec 15)
  /-- LD (R68). Loads a doubleword from rs1 plus imm15. -/
  | ld (h : Hart) (rd rs1 : BitVec 5) (imm : BitVec 15)
  /-- LBU (R68). Loads a byte, zero-extended, from rs1 plus imm15. -/
  | lbu (h : Hart) (rd rs1 : BitVec 5) (imm : BitVec 15)
  /-- LHU (R68). Loads a halfword, zero-extended, from rs1 plus imm15. -/
  | lhu (h : Hart) (rd rs1 : BitVec 5) (imm : BitVec 15)
  /-- LWU (R68). Loads a word, zero-extended, from rs1 plus imm15. -/
  | lwu (h : Hart) (rd rs1 : BitVec 5) (imm : BitVec 15)
  /-- LOADX (R69). An indexed or post-increment load whose mode and size are taken from fn10. -/
  | loadx (h : Hart) (fn : BitVec 10) (rd rs1 rs2 : BitVec 5)
  /-- SB (R68). Stores a byte to rs1 plus imm15. -/
  | sb (h : Hart) (rs2 rs1 : BitVec 5) (imm : BitVec 15)
  /-- SH (R68). Stores a halfword to rs1 plus imm15. -/
  | sh (h : Hart) (rs2 rs1 : BitVec 5) (imm : BitVec 15)
  /-- SW (R68). Stores a word to rs1 plus imm15. -/
  | sw (h : Hart) (rs2 rs1 : BitVec 5) (imm : BitVec 15)
  /-- SD (R68). Stores a doubleword to rs1 plus imm15. -/
  | sd (h : Hart) (rs2 rs1 : BitVec 5) (imm : BitVec 15)
  /-- STOREX (R69). An indexed or post-increment store whose mode and size are taken from fn10. -/
  | storex (h : Hart) (fn : BitVec 10) (rs rs1 rs2 : BitVec 5)
  /-- BEQ (R70). Branches if rs1 equals rs2. -/
  | beq (h : Hart) (rs1 rs2 : BitVec 5) (imm : BitVec 15)
  /-- BNE (R70). Branches if rs1 differs from rs2. -/
  | bne (h : Hart) (rs1 rs2 : BitVec 5) (imm : BitVec 15)
  /-- BLT (R70). Branches if rs1 is below rs2, as signed values. -/
  | blt (h : Hart) (rs1 rs2 : BitVec 5) (imm : BitVec 15)
  /-- BGE (R70). Branches if rs1 is at or above rs2, as signed values. -/
  | bge (h : Hart) (rs1 rs2 : BitVec 5) (imm : BitVec 15)
  /-- BLTU (R70). Branches if rs1 is below rs2, as unsigned values. -/
  | bltu (h : Hart) (rs1 rs2 : BitVec 5) (imm : BitVec 15)
  /-- BGEU (R70). Branches if rs1 is at or above rs2, as unsigned values. -/
  | bgeu (h : Hart) (rs1 rs2 : BitVec 5) (imm : BitVec 15)
  /-- JAL (R70). Jumps by a halfword offset and writes the link value PC + 4 to rd. -/
  | jal (h : Hart) (rd : BitVec 5) (imm : BitVec 20)
  /-- JALR (R70). Jumps to rs1 plus imm15 and writes the link to rd; an odd target raises IALIGN. -/
  | jalr (h : Hart) (rd rs1 : BitVec 5) (imm : BitVec 15)
  /-- ATOMIC (R71). Sends an atomic operation on the address in rs1 to its home, and optionally returns the old value. -/
  | atomic (h : Hart) (fn : BitVec 10) (rd rs1 rs2 : BitVec 5)
  /-- SRD (R72). Reads a system register into rd, under the access rule of R75. -/
  | srd (h : Hart) (rd rs1 : BitVec 5) (sr : BitVec 12)
  /-- SWR (R72). Writes rs1 to a system register. -/
  | swr (h : Hart) (rd rs1 : BitVec 5) (sr : BitVec 12)
  /-- SRS (R72). Sets system register bits indivisibly and returns the old value. -/
  | srs (h : Hart) (rd rs1 : BitVec 5) (sr : BitVec 12)
  /-- SRC (R72). Clears system register bits indivisibly and returns the old value. -/
  | src (h : Hart) (rd rs1 : BitVec 5) (sr : BitVec 12)
  /-- ECALL (R96). A trap that enters the next privilege level's handler. -/
  | ecall (h : Hart) (rd rs1 : BitVec 5)
  /-- EBREAK (R96). A breakpoint trap, or a debug halt when a debugger is attached. -/
  | ebreak (h : Hart) (rd rs1 : BitVec 5)
  /-- ERET (R103). Checks the frame against the entry record and returns from the exception. -/
  | eret (h : Hart) (rd rs1 : BitVec 5)
  /-- WEDGE_L (R187). Makes the thread's earlier writes visible to the other threads of its core. -/
  | wedgeL (h : Hart) (rd rs1 : BitVec 5)
  /-- WEDGE_B (R187). Makes the thread's earlier writes visible to its bench. -/
  | wedgeB (h : Hart) (rd rs1 : BitVec 5)
  /-- WEDGE_D (R187). Makes the thread's earlier writes visible device-wide, including a write-back and invalidation pass of the bench cache. -/
  | wedgeD (h : Hart) (rd rs1 : BitVec 5)
  /-- WEDGE_S (R187). Makes the thread's earlier writes visible to the whole system, including a flush read on each host port used. -/
  | wedgeS (h : Hart) (rd rs1 : BitVec 5)
  /-- REP_I (R80). A repeat prefix that runs its follower a count of times, and can be interrupted between iterations. -/
  | repI (h : Hart) (src : Bool) (z : BitVec 2) (rs1 : BitVec 5) (count : BitVec 16) (follower : Instr)
  /-- REP_N (R83). A non-interruptible repeat of at most 64 iterations of a short follower. -/
  | repN (h : Hart) (src : Bool) (z : BitVec 2) (rs1 : BitVec 5) (count : BitVec 16) (follower : Instr)
  /-- TPUT (R91). Puts a word into a thread-channel, and waits while the channel is full. -/
  | tput (h : Hart) (rd rs1 rs2 : BitVec 5)
  /-- TPUT_PLACE (R91). A waiting TPUT places its word once its channel becomes empty. -/
  | tputPlace (core : BitVec 11) (thr : BitVec 3)
  /-- TGET (R91). Takes a word from the thread's own inbound channel, and waits while the channel is empty. -/
  | tget (h : Hart) (rd rs1 rs2 : BitVec 5)
  /-- TGET_DELIVER (R91). A waiting TGET receives the word that arrives in its channel. -/
  | tgetDeliver (core : BitVec 11) (thr : BitVec 3)
  /-- TTRYPUT (R88). Puts a word into a thread-channel without waiting, and reports whether the word was placed. -/
  | ttryput (h : Hart) (rd rs1 rs2 : BitVec 5)
  /-- TPOLL (R88). Returns a mask of the thread's inbound channels that hold a word. -/
  | tpoll (h : Hart) (rd rs1 rs2 : BitVec 5)
  /-- TSETR (R89). Sets a register of a held, halted or ended thread. -/
  | tsetr (h : Hart) (rd rs1 rs2 : BitVec 5)
  /-- TREL (R89). Releases a held, halted or ended thread at a PC and privilege level. -/
  | trel (h : Hart) (rd rs1 rs2 : BitVec 5)
  /-- TINFO (R88). Reads one item of another thread's state, chosen by a selector. -/
  | tinfo (h : Hart) (rd rs1 rs2 : BitVec 5)
  /-- TEND (R92). Ends the thread; for thread 0 it waits until every other thread is held, halted or ended. -/
  | tend (h : Hart) (rd rs1 rs2 : BitVec 5)
  /-- TEND_COMPLETE (R92). A waiting TEND of thread 0 ends the core's part of the kernel once the other threads have stopped. -/
  | tendComplete (core : BitVec 11) (thr : BitVec 3)
  /-- INTERRUPT_ENTRY (R95). A pending interrupt is taken at an instruction boundary of thread 0, and enters its handler. -/
  | interruptEntry (core : BitVec 11)
  /-- DEFERRED_FAULT (R190). An error response to an access that has already retired raises its fault at the thread's next instruction boundary. -/
  | deferredFault (core : BitVec 11) (thr : BitVec 3)
  /-- LOAD_RESPONSE (R183). Read data arrives, completes its access and frees the scoreboard entry. -/
  | loadResponse (m : Nat) (ext : Ext)
  /-- WRITE_ACKNOWLEDGEMENT (R186). A write is acknowledged at its acknowledgement point and its scoreboard entry is freed. -/
  | writeAcknowledgement (m : Nat)
  /-- VARITH (R108). A vector arithmetic or logic operation of the VARITH major, per active lane. -/
  | varith (h : Hart) (f : VFields) (fn : BitVec 4)
  /-- VFMA (R109). A fused multiply-add of the VFMA family, single or paired. -/
  | vfma (h : Hart) (f : VFields) (fn : BitVec 4)
  /-- VCMP (R108). A vector compare that writes a predicate. -/
  | vcmp (h : Hart) (f : VFields) (fn : BitVec 4)
  /-- PAND (R108). ANDs two predicates. -/
  | pand (h : Hart) (f : VFields)
  /-- POR (R108). ORs two predicates. -/
  | por (h : Hart) (f : VFields)
  /-- PXOR (R108). XORs two predicates. -/
  | pxor (h : Hart) (f : VFields)
  /-- PANDN (R108). ANDs one predicate with the complement of another. -/
  | pandn (h : Hart) (f : VFields)
  /-- PWHILE (R108). Sets predicate bit i where a + i < b. -/
  | pwhile (h : Hart) (f : VFields)
  /-- PCOUNT (R108). Counts the set bits of a predicate into an x register. -/
  | pcount (h : Hart) (f : VFields)
  /-- VLD (R110). An all-or-nothing contiguous vector load. -/
  | vld (h : Hart) (f : VFields)
  /-- VST (R110). An all-or-nothing contiguous vector store. -/
  | vst (h : Hart) (f : VFields)
  /-- VLDS (R110). A strided vector load. -/
  | vlds (h : Hart) (f : VFields)
  /-- VSTS (R110). A strided vector store. -/
  | vsts (h : Hart) (f : VFields)
  /-- VLDB (R110). Loads one element and broadcasts it to every active lane. -/
  | vldb (h : Hart) (f : VFields)
  /-- VLD2 (R110). Loads 128 bytes into an even register pair. -/
  | vld2 (h : Hart) (f : VFields)
  /-- VST2 (R110). Stores 128 bytes from an even register pair. -/
  | vst2 (h : Hart) (f : VFields)
  /-- VGATHER (R113). Gathers lanes by offset, recording its progress in VPROG. -/
  | vgather (h : Hart) (f : VFields)
  /-- VSCATTER (R113). Scatters lanes by offset, recording its progress in VPROG. -/
  | vscatter (h : Hart) (f : VFields)
  /-- VBCAST (R108). Broadcasts an x register into every active lane. -/
  | vbcast (h : Hart) (f : VFields)
  /-- VEXT (R108). Extracts one lane into an x register. -/
  | vext (h : Hart) (f : VFields)
  /-- VINS (R108). Inserts an x register into one lane. -/
  | vins (h : Hart) (f : VFields)
  /-- VCVT (R112). Converts lanes between vector types. -/
  | vcvt (h : Hart) (f : VFields)
  /-- VPERM (R108). Permutes lanes by index. -/
  | vperm (h : Hart) (f : VFields)
  /-- VREDSUM (R111). Sums the active lanes in ascending lane order into lane 0. -/
  | vredsum (h : Hart) (f : VFields)
  /-- VREDMIN (R111). Writes the minimum of the active lanes into lane 0. -/
  | vredmin (h : Hart) (f : VFields)
  /-- VREDMAX (R111). Writes the maximum of the active lanes into lane 0. -/
  | vredmax (h : Hart) (f : VFields)
  /-- VZGET (R116). Takes one entry from a stream operand, and waits while its queue is empty. -/
  | vzget (h : Hart) (f : VFields)
  /-- VZPUT (R116). Puts one entry into a stream operand, and waits while its queue is full. -/
  | vzput (h : Hart) (f : VFields)
  /-- VZPEEK (R116). Reads the head entry of a stream operand without taking it. -/
  | vzpeek (h : Hart) (f : VFields)
  /-- VZPOLL (R116). Reports whether a stream operand holds an entry and whether it has room. -/
  | vzpoll (h : Hart) (f : VFields)
  /-- VZFMA (R116). A fused multiply-add whose vs1 operand is taken from a stream queue. -/
  | vzfma (h : Hart) (f : VFields) (fn : BitVec 4)
  /-- STREAM_WAIT_DONE (R116). A waiting stream instruction completes once an entry or room arrives at its queue. -/
  | streamWaitDone (core : BitVec 11) (thr : BitVec 3)
  /-- TLOAD (R150). Loads a tile row by row from memory, converting as the memory format requires. -/
  | tload (h : Hart) (f : TMemFields)
  /-- TLOAD_STREAM (R151). Loads a tile from stream entries once the queue holds ROWS entries. -/
  | tloadStream (h : Hart) (f : TMemFields)
  /-- TSTORE (R152). Stores a tile row by row, narrowing and counting as the format requires. -/
  | tstore (h : Hart) (f : TMemFields)
  /-- TMMA (R157). Issues a tile matrix multiply-accumulate C ← C + A·Bᵀ to the core's array. -/
  | tmma (h : Hart) (f : TCompFields)
  /-- TMMA_COMPLETE (R158). The array writes C and its statistics word 4 beats after the last compute beat. -/
  | tmmaComplete (core : BitVec 11) (chk : Chk)
  /-- TCVT (R154). Converts one tile into another. -/
  | tcvt (h : Hart) (f : TCompFields)
  /-- TZERO (R155). Zeroes a tile's data, scale file and statistics word. -/
  | tzero (h : Hart) (f : TCompFields)
  /-- TCFG (R143). Configures the descriptors of the tiles selected by a mask. -/
  | tcfg (h : Hart) (f : TCtlFields)
  /-- TSTAT (R147). Reads a tile's statistics word. -/
  | tstat (h : Hart) (f : TCtlFields)
  /-- TSTAT_C (R147). Reads a tile's statistics word and clears it in the same step. -/
  | tstatC (h : Hart) (f : TCtlFields)
  /-- TSEED (R137). Seeds a tile's LFSR. -/
  | tseed (h : Hart) (f : TCtlFields)
  /-- TCBLD (R147). Loads a tile's codebook in one access. -/
  | tcbld (h : Hart) (f : TCtlFields)
  /-- TCFGR (R147). Reads back the packed descriptors of four tiles. -/
  | tcfgr (h : Hart) (f : TCtlFields)
  /-- PATROL_SCRUB (R172). A bank scrubber reads and corrects words, and poisons those it cannot correct. -/
  | patrolScrub (core : BitVec 11) (offset : BitVec 20) (wrong : BitVec 3)
  /-- GATHER_BUFFER_WRITEBACK (R178). A gather buffer entry whose line has taken no store for 8 beats is written to its bank. -/
  | gatherBufferWriteback (core : BitVec 11) (line : BitVec 14)
  /-- RETENTION_EXIT (R179). An access to the store of a gated bench completes once the store leaves retention. -/
  | retentionExit (node : BitVec 8)
  /-- CINC (R208). Sends a posted counter increment. -/
  | cinc (h : Hart) (rd rs1 rs2 : BitVec 5)
  /-- CINC_B (R209). Sends an increment once every earlier write of the thread has been acknowledged. -/
  | cincB (h : Hart) (rd rs1 rs2 : BitVec 5)
  /-- CDEC (R204). Sends a posted decrement to a CREDIT cell. -/
  | cdec (h : Hart) (rd rs1 rs2 : BitVec 5)
  /-- CWAIT (R205). Waits until a counter cell is at or beyond a target. -/
  | cwait (h : Hart) (rd rs1 rs2 : BitVec 5)
  /-- CWAIT_SATISFIED (R205). A waiting CWAIT completes when its cell takes a value that satisfies the target. -/
  | cwaitSatisfied (core : BitVec 11) (thr : BitVec 3)
  /-- CWAIT_POLL (R206). A CWAIT with no free wait entry reads its cell again every 256 pacer ticks. -/
  | cwaitPoll (core : BitVec 11) (thr : BitVec 3)
  /-- CREAD (R204). Reads a counter cell's value. -/
  | cread (h : Hart) (rd rs1 rs2 : BitVec 5)
  /-- COUNTER_APPLY (R208). A counter operation arrives and is applied at its cell, or refused. -/
  | counterApply (m : Nat)
  /-- QUIET_LIMIT_REACHED (R212). The Quiet Limit count of W2 expires, and W2 starts a confirming round. -/
  | quietLimitReached (ctx : BitVec 6)
  /-- CONTEXT_DEADLOCK (R212). A clean confirming round writes the snapshots, posts CONTEXT_DEADLOCK and applies the deadlock action. -/
  | contextDeadlock (ctx : BitVec 6)
  /-- TXB (R216). Begins a transaction, or nests it one level deeper. -/
  | txb (h : Hart) (rd rs1 rs2 : BitVec 5)
  /-- TXE (R224). Ends one level of a transaction, and at depth 1 commits it. -/
  | txe (h : Hart) (rd rs1 rs2 : BitVec 5)
  /-- TXA (R217). Aborts the whole transaction with EXPLICIT. -/
  | txa (h : Hart) (rd rs1 rs2 : BitVec 5)
  /-- TX_ABORT (R218). An asynchronous cause aborts an open transaction at an instruction boundary and continues at the fallback address. -/
  | txAbort (core : BitVec 11) (thr : BitVec 3)
  /-- TX_READ (R222). A transactional read reaches its home and places a watch there. -/
  | txRead (m : Nat) (wrong : BitVec 3)
  /-- LOCK_REQUEST (R224). A home grants or refuses the locks for a commit's written lines at prepare. -/
  | lockRequest (core : BitVec 11) (thr : BitVec 3) (home : HomeId)
  /-- WATCH_CHECK (R224). A home answers whether each of a thread's watches is intact. -/
  | watchCheck (core : BitVec 11) (thr : BitVec 3) (home : HomeId)
  /-- TX_APPLY (R225). A locking home writes a commit's staged lines, unlocks them and acknowledges. -/
  | txApply (core : BitVec 11) (thr : BitVec 3) (home : HomeId)
  /-- WATCH_RELEASE (R218). A home releases a thread's watches and locks. -/
  | watchRelease (core : BitVec 11) (thr : BitVec 3) (home : HomeId)
  /-- GROUP_OPEN (R229). Opens a command group on an FCP-3 ring. -/
  | groupOpen (r : RingRef)
  /-- GROUP_CLOSE (R231). Checks every group member again and applies all of them, or none. -/
  | groupClose (r : RingRef) (ext : Ext)
  /-- PORT_CREATE (R236). Makes a channel port live with its configuration. -/
  | portCreate (h : Hart) (rd rs1 rs2 : BitVec 5)
  /-- PORT_FREE (R244). Frees a channel port. -/
  | portFree (h : Hart) (rd rs1 rs2 : BitVec 5)
  /-- PORT_POP (R242). Takes entries from a port's queue. -/
  | portPop (h : Hart) (rd rs1 rs2 : BitVec 5)
  /-- DISPATCH (R243). Calls the handler that the head active message names. -/
  | dispatch (h : Hart) (rd rs1 rs2 : BitVec 5)
  /-- HSET (R237). Writes one entry of the handler table. -/
  | hset (h : Hart) (rd rs1 rs2 : BitVec 5)
  /-- OPEN (R238). Asks the target port's state and, if it is live, returns a handle. -/
  | chanOpen (h : Hart) (rd rs1 rs2 : BitVec 5)
  /-- CLOSE (R238). Frees a handle and discards its staged words. -/
  | chanClose (h : Hart) (rd rs1 rs2 : BitVec 5)
  /-- SEND (R240). A blocking one-word publication. -/
  | send (h : Hart) (rd rs1 rs2 : BitVec 5)
  /-- TSEND (R240). A non-blocking one-word publication. -/
  | tsend (h : Hart) (rd rs1 rs2 : BitVec 5)
  /-- SEND_M (R239). Stages one word in the thread's staging buffer. -/
  | sendM (h : Hart) (rd rs1 rs2 : BitVec 5)
  /-- SEND_END (R240). Stages the last word and publishes the tuple, blocking. -/
  | sendEnd (h : Hart) (rd rs1 rs2 : BitVec 5)
  /-- TSEND_END (R240). Stages the last word and publishes the tuple without blocking. -/
  | tsendEnd (h : Hart) (rd rs1 rs2 : BitVec 5)
  /-- PUBLICATION (R240). The channel monitor takes a published tuple, writes the entry or refuses it, and answers. -/
  | publication (m : Nat)
  /-- SEND_RETRY (R241). A blocking send refused as FULL publishes again after 64 pacer ticks. -/
  | sendRetry (core : BitVec 11) (thr : BitVec 3)
  /-- STALL_LIMIT_EXPIRY (R241). The Stall Limit runs out, and the send completes with STALLED. -/
  | stallLimitExpiry (core : BitVec 11) (thr : BitVec 3)
  /-- STREAM_ENTRY (R250). A stream entry arrives at its queue over the stream lanes. -/
  | streamEntry (node : BitVec 8) (queue : BitVec 5)
  /-- CREDIT_RETURN (R250). A consumer takes an entry, and the credit returns to its producer. -/
  | creditReturn (node : BitVec 8) (queue : BitVec 5)
  /-- SELECT (R253). A SELECT unit fires, passing the entry from the input that its token names. -/
  | select (node : BitVec 8) (unit : BitVec 3)
  /-- MERGE (R255). A MERGE unit fires, taking one input alternately and recording the order. -/
  | merge (node : BitVec 8) (unit : BitVec 3)
  /-- BRANCH (R253). A BRANCH unit fires, routing the entry to the output that its token names. -/
  | branch (node : BitVec 8) (unit : BitVec 3)
  /-- REPLICATE (R253). A REPLICATE unit fires, copying the entry to every output in use. -/
  | replicate (node : BitVec 8) (unit : BitVec 3)
  /-- FILTER (R253). A FILTER unit fires, passing or discarding the entry by its token. -/
  | filter (node : BitVec 8) (unit : BitVec 3)
  /-- STREAM_LOAD (R261). Copies, checks and loads a region image, then runs its FIRST section. -/
  | streamLoad (r : RingRef) (ext : Ext)
  /-- STREAM_SECTION (R262). Changes a region to a named section by drain and reconfiguration. -/
  | streamSection (r : RingRef)
  /-- STREAM_RECONFIG (R262). Drains a region, then replaces its image or unloads it. -/
  | streamReconfig (r : RingRef) (ext : Ext)
  /-- SECTION_ADVANCE (R262). The sequencer's wait on the section counter is satisfied, and the region starts the change to section NEXT. -/
  | sectionAdvance (region : BitVec 3)
  /-- DRAIN_COMPLETE (R263). Every queue holds only its marker, and the sequencer reconfigures and resumes the region. -/
  | drainComplete (region : BitVec 3)
  /-- DRAIN_LIMIT_EXPIRY (R264). The Drain Limit runs out, and the change is refused or the region is flushed. -/
  | drainLimitExpiry (region : BitVec 3)
  /-- HAUL_LAUNCH (R271). A write to HAUL_LAUNCH starts a descriptor chain on a channel, or is refused. -/
  | haulLaunch (w : RegSource) (node : BitVec 8) (ch : BitVec 4) (value : BitVec 64)
  /-- HAUL_COPY (R275). A COPY descriptor moves the source stream to the destination stream. -/
  | haulCopy (node : BitVec 8) (ch : BitVec 4)
  /-- HAUL_FILL (R275). A FILL descriptor writes the 8-byte pattern over the destination stream. -/
  | haulFill (node : BitVec 8) (ch : BitVec 4)
  /-- QIN (R275). A QIN descriptor writes entries taken from a stream queue to memory. -/
  | qin (node : BitVec 8) (ch : BitVec 4)
  /-- QOUT (R275). A QOUT descriptor puts the source stream into a queue as entries. -/
  | qout (node : BitVec 8) (ch : BitVec 4)
  /-- DESCRIPTOR_COMPLETION (R277). Once every write is acknowledged, a descriptor writes its check word, sends its counter increment, posts its record and starts the next descriptor. -/
  | descriptorCompletion (node : BitVec 8) (ch : BitVec 4)
  /-- HAUL_STOP (R281). A guarded write of HAUL_STOP stops the named channels. -/
  | haulStop (w : RegSource) (node : BitVec 8) (complement : Bool) (value : BitVec 64)
  /-- FLIT_HOP (R284). A router forwards a flit on the dimension-ordered route, using a credit of its class. -/
  | flitHop (node : BitVec 8) (dir : Dir)
  /-- MESH_REPLAY (R287). A receiver refuses a flit with a bad CRC, and the sender resends it and every later flit. -/
  | meshReplay (node : BitVec 8) (dir : Dir)
  /-- BC_READ (R291). A bench cache read lookup hits, or fetches the line. -/
  | bcRead (m : Nat) (found : CacheFinding)
  /-- BC_WRITE (R291). A bench cache write sets its bytes and dirty bits, and is accepted. -/
  | bcWrite (m : Nat) (found : CacheFinding)
  /-- BC_FILL (R291). A fetched line arrives and merges under its dirty bytes. -/
  | bcFill (m : Nat) (ext : Ext)
  /-- VICTIM_WRITEBACK (R292). A dirty victim's write-back is accepted, and the waiting fetch is sent. -/
  | victimWriteback (node : BitVec 8) (m : Nat)
  /-- BC_WRITEBACK_PASS (R295). A write-back and invalidation pass of the whole bench cache completes. -/
  | bcWritebackPass (node : BitVec 8) (line : Nat) (found : CacheFinding)
  /-- BC_WAYEN (R294). A guarded write of BC_WAYEN powers ways down or up. -/
  | bcWayen (w : RegSource) (node : BitVec 8) (complement : Bool) (value : BitVec 64)
  /-- WAY_POWER_DOWN (R294). The cleaned ways are powered off once their write-backs have been accepted. -/
  | wayPowerDown (node : BitVec 8)
  /-- SKIP_LAUNCH (R296). A write to SKIP_LAUNCH queues a skip-bus broadcast, or is refused. -/
  | skipLaunch (w : RegSource) (node : BitVec 8) (value : BitVec 64)
  /-- SKIP_TRANSFER (R297). The skip bus starts a queued transfer once every bus it names is free. -/
  | skipTransfer (quad : BitVec 2) (ext : Ext)
  /-- SKIP_COMPLETION (R298). A skip transfer completes with its counter increment and record. -/
  | skipCompletion (quad : BitVec 2)
  /-- HBM_READ (R300). A home performs a read and returns the line, marked if it is poisoned. -/
  | hbmRead (m : Nat) (wrong : BitVec 3)
  /-- HBM_WRITE (R300). A home takes a write into its write buffer and acknowledges it. -/
  | hbmWrite (m : Nat) (wrong : BitVec 3)
  /-- HOME_ATOMIC (R198). An atomic is performed at its home in the single order of its address. -/
  | homeAtomic (m : Nat) (wrong : BitVec 3)
  /-- WRITE_BUFFER_RETIRE (R304). A write buffer entry retires to the DRAM and is freed. -/
  | writeBufferRetire (stack : BitVec 4)
  /-- HBM_SCRUB (R301). The patrol scrubber corrects lines, and poisons those it cannot correct. -/
  | hbmScrub (stack : BitVec 4) (offset : BitVec 36) (wrong : BitVec 3)
  /-- HBM_REFRESH (R302). The stack is refreshed on the island clock. -/
  | hbmRefresh (stack : BitVec 4)
  /-- EVENT_RECORD (R305). An endpoint takes an event record and writes it to its ring, holds it, or spills it. -/
  | eventRecord (m : Nat)
  /-- TAILINGS (R351). Room returns on a ring, and the endpoint writes TAILINGS and then the spilled records in order. -/
  | tailings (ring : Nat)
  /-- DROPPED (R352). Once the tailings area has room again, each ring that lost records receives one DROPPED record. -/
  | dropped (ring : Nat)
  /-- RING_HEAD_POLL (R350). While an event ring is full, the endpoint reads its head word every 256 pacer ticks. -/
  | ringHeadPoll (ring : Nat) (head : BitVec 32)
  /-- MSI_X_MESSAGE (R353). An event ring sends its MSI-X message when the record count or the MODTIME delay is reached. -/
  | msiXMessage (ring : Nat)
  /-- HOST_WRITE_TIMEOUT (R306). A host-bound write that waits for credits past the limit is discarded and answered with an error. -/
  | hostWriteTimeout (m : Nat)
  /-- DOORBELL (R327). A host doorbell sets a ring's tail, or is discarded with BADTAIL. -/
  | doorbell (r : RingRef) (value : BitVec 64)
  /-- PACKET_READ (R327). A command packet read completes, is counted in CMD_HEAD and is dispatched. -/
  | packetRead (r : RingRef) (words : List (BitVec 64))
  /-- PACKET_READ_RETRY (R327). A failed packet read is made again, and the ring is disabled after three failures. -/
  | packetReadRetry (r : RingRef)
  /-- RING_CTL (R326). A write of RING_CTL enables or disables a command ring. -/
  | ringCtl (r : RingRef) (value : BitVec 64)
  /-- EVR_CTL (R326). A write of EVR_CTL enables or disables the device event ring. -/
  | evrCtl (port : BitVec 1) (value : BitVec 64)
  /-- BAR2_READ (R315). A host read through BAR2 is answered from the home, or with an abort. -/
  | bar2Read (port : BitVec 1) (fn : BitVec 5) (offset : BitVec 40) (len : Nat) (ext : Ext)
  /-- BAR2_WRITE (R315). A host write through BAR2 is performed or discarded. -/
  | bar2Write (port : BitVec 1) (fn : BitVec 5) (offset : BitVec 40) (data : List (BitVec 8)) (ep : Bool)
  /-- ATOMICOP (R309). A host PCIe AtomicOp to BAR2 HBM is performed at the home, or refused. -/
  | atomicop (port : BitVec 1) (fn : BitVec 5) (offset : BitVec 40) (op : PcieAtomic) (bits : Nat) (operand compare : BitVec 64)
  /-- FRONT_WINDOW_READ (R316). The endpoint answers a Front Window read from its own island. -/
  | frontWindowRead (port : BitVec 1) (fn : BitVec 5) (offset : BitVec 12) (len : Nat)
  /-- APERTURE_BASE (R313). A write of APERTURE_BASE moves the PF BAR2 aperture. -/
  | apertureBase (port : BitVec 1) (value : BitVec 64)
  /-- NODESEL (R441). A write of NODESEL selects the node that the BAR0 aperture reaches. -/
  | nodesel (port : BitVec 1) (value : BitVec 64)
  /-- APERTURE_WRITE (R441). A host write through the node aperture clears RW1C bits, or is discarded as DENIED. -/
  | apertureWrite (port : BitVec 1) (offset : BitVec 24) (len : Nat) (value : BitVec 64)
  /-- ATS_INVALIDATION (R35). A host ATS invalidation drops matching translations and completes once the accesses that used them have drained. -/
  | atsInvalidation (port : BitVec 1) (pasid : BitVec 20) (base : BitVec 64) (len : Nat)
  /-- ATS_RESPONSE (R34). The host's ATS translation answer is cached, or leads to a PRI page request. -/
  | atsResponse (req : Nat) (found : Bool) (r w : Bool) (page : BitVec 40) (len : Nat)
  /-- PAGE_RESPONSE (R34). A PRI page response resumes the access or raises PAGE. -/
  | pageResponse (req : Nat) (granted : Bool)
  /-- PAGE_REQUEST_TIMEOUT (R34). No page response within 1,048,576 pacer ticks raises PAGE. -/
  | pageRequestTimeout (req : Nat)
  /-- COMPLETION_TIMEOUT (R319). A device-issued read times out and is answered to its requester with an error. -/
  | completionTimeout (m : Nat)
  /-- D3HOT (R320). A function enters or leaves D3hot, holding or resuming ring reads and messages. -/
  | d3hot (port : BitVec 1) (fn : BitVec 5) (enter : Bool)
  /-- NOP (R334). A command that does nothing and completes. -/
  | nop (r : RingRef)
  /-- LAUNCH (R338). Starts a kernel on the named logical cores. -/
  | launch (r : RingRef)
  /-- LAUNCH_COMPLETION (R338). When every core's part has ended, the report is written and LAUNCH completes. -/
  | launchCompletion (r : RingRef) (ext : Ext)
  /-- SIGNAL (R339). Applies a counter increment for the host, and optionally raises a HOST interrupt. -/
  | signal (r : RingRef)
  /-- WAIT (R339). Waits until a weighbridge cell reaches a target. -/
  | wait (r : RingRef)
  /-- WAIT_TIMEOUT (R339). A WAIT's timeout expires, and it completes with TIMEOUT. -/
  | waitTimeout (r : RingRef)
  /-- FENCE (R343). Sends markers to every source of the context to order its records. -/
  | fence (r : RingRef)
  /-- FENCE_DONE (R343). Once every marker is acknowledged and the records are issued, FENCE_DONE is written. -/
  | fenceDone (r : RingRef)
  /-- CTX_CREATE (R337). Creates a context with its grant, settings and event ring. -/
  | ctxCreate (r : RingRef) (ext : Ext)
  /-- CTX_DESTROY (R342). Destroys a context and abandons its commands. -/
  | ctxDestroy (r : RingRef)
  /-- CTX_RESET (R408). Resets a context while it keeps its grant and mappings. -/
  | ctxReset (r : RingRef) (ext : Ext)
  /-- MAP (R32). Maps pages into a context, or grants a VF window slot. -/
  | map (r : RingRef)
  /-- UNMAP (R32). Unmaps pages from a context, or withdraws a VF window slot. -/
  | unmap (r : RingRef)
  /-- COPY (R333). Copies bytes between context virtual addresses. -/
  | copy (r : RingRef) (ext : Ext)
  /-- FILL (R333). Fills a context range with an 8-byte pattern. -/
  | fill (r : RingRef) (ext : Ext)
  /-- LOAD_IMAGE (R341). Loads a context image: code, store contents, core order, Counter Map, modes, handler table and vector base. -/
  | loadImage (r : RingRef) (ext : Ext)
  /-- STOP (R340). Ends every thread of a running LAUNCH. -/
  | stop (r : RingRef)
  /-- GET_INFO (R334). Writes the device information buffer. -/
  | getInfo (r : RingRef) (ext : Ext)
  /-- SET_POLICY (R334). Sets one policy parameter. -/
  | setPolicy (r : RingRef)
  /-- GET_HISTORY (R386). Writes Unit Records to a host buffer. -/
  | getHistory (r : RingRef) (ext : Ext)
  /-- FENCE_UNIT (R381). Fences a unit by the sequence of Table 19.6. -/
  | fenceUnit (r : RingRef)
  /-- UNFENCE_UNIT (R380). Returns a unit fenced in the field to service. -/
  | unfenceUnit (r : RingRef)
  /-- FW_PUSH (R425). Checks a host image, then starts it or writes it to the flash slot. -/
  | fwPush (r : RingRef) (ext : Ext)
  /-- TAKEOVER (R323). The non-primary port's PF becomes primary if the primary link has been down long enough. -/
  | takeover (r : RingRef)
  /-- RESET_DEVICE (R336). Writes its COMPLETION, then starts a DEVICE reset. -/
  | resetDevice (r : RingRef)
  /-- HALT (R340). Sets the debug-halt flag on the threads of the named cores. -/
  | halt (r : RingRef)
  /-- RESUME (R340). Clears the debug-halt flag. -/
  | resume (r : RingRef)
  /-- READ_STATE (R340). Writes a stopped core's state image to a buffer. -/
  | readState (r : RingRef) (ext : Ext)
  /-- LINK_TRAINING (R357). A link port trains, choosing its rate and width, and comes UP, DOWN or MISWIRED. -/
  | linkTraining (port : BitVec 3) (t : TrainResult)
  /-- LINK_TRAINING_RETRY (R357). A DOWN port with EN = 1 repeats training every 100 ms. -/
  | linkTrainingRetry (port : BitVec 3) (t : TrainResult)
  /-- LINK_RETRAIN (R358). A port retrains after repeated replays, loss of lock, a governor request or a lane fence. -/
  | linkRetrain (port : BitVec 3) (why : RetrainCause) (t : TrainResult)
  /-- LINK_FLIT (R360). A link flit is received, checked and acknowledged, and its messages are delivered or forwarded. -/
  | linkFlit (port : BitVec 3) (f : LinkFlit)
  /-- REPLAY_REQUEST (R361). A bad flit makes the receiver request a replay, and the sender resends from that flit. -/
  | replayRequest (port : BitVec 3) (seqno : Nat) (localEnd : Bool) (codewordBad : Bool)
  /-- LINK_WAIT_DISCARD (R359). A message waiting for a port that is not UP is discarded after 1,048,576 pacer ticks. -/
  | linkWaitDiscard (port : BitVec 3) (m : Nat)
  /-- REMOTE_RESPONSE_TIMEOUT (R359). A request whose remote response has not arrived within 2,097,152 pacer ticks is answered with an error. -/
  | remoteResponseTimeout (m : Nat)
  /-- INCOMING_ACCESS (R367). An access arriving over a link is performed at its home, or refused. -/
  | incomingAccess (m : Nat) (wrong : BitVec 3)
  /-- RELIABILITY_WINDOW (R379). A reliability window ends, and the per-window counts start again from zero. -/
  | reliabilityWindow
  /-- UNIT_RECORD_FLUSH (R386). Firmware writes a changed Unit Record to the flash within 10,000 management ticks. -/
  | unitRecordFlush (unit : BitVec 24)
  /-- MANAGEMENT_TICK (R53). A management tick begins, and the governor inputs are sampled. -/
  | managementTick (g : GovInputs)
  /-- SAFETY_LOOP (R393). Counts holds against HOLD_LIMIT and applies the thermal limits, each tick. -/
  | safetyLoop
  /-- PRECISION_LOOP (R398). Turns PRECISION records into HOST interrupt notices. -/
  | precisionLoop
  /-- VOLTAGE_LOOP (R391). Steps each quadrant's VCORE target against the power cap and the temperatures. -/
  | voltageLoop
  /-- CACHE_LOOP (R395). Sets the enabled bench cache ways from lookups and hit rates. -/
  | cacheLoop
  /-- LINK_LOOP (R396). Lowers or raises link rates, and fences lanes, from error counts. -/
  | linkLoop
  /-- HEALTH_LOOP (R397). Fences benches whose rate falls outside its bound. -/
  | healthLoop
  /-- PACER_CALIBRATION (R50). The management core calibrates a pacer and publishes PACER_CAL. -/
  | pacerCalibration (node : BitVec 8) (ticks : Nat)
  /-- REFERENCE_CLOCK_SWITCH (R54). The time source changes between the port A and port B reference clocks. -/
  | referenceClockSwitch (a b : Bool)
  /-- HREF_SWITCH (R449). HBM PHYs change to another HREF when theirs is lost or returns. -/
  | hrefSwitch (present : BitVec 4)
  /-- DROOP_HOLD (R45). A rail below 0.60 V holds every handshake of its quadrant until the rail recovers. -/
  | droopHold (quad : BitVec 2)
  /-- HEARTBEAT_WATCHDOG (R426). HEARTBEAT stalls for 100 management ticks, and SB sets firmware failed. -/
  | heartbeatWatchdog
  /-- POWER_ON (R404). PWRGOOD rises and the device boots by the sequence of Table 21.2. -/
  | powerOn (b : BoardInputs)
  /-- FUSE_BLOW (R423). Firmware started from flash blows rollback and revoke fuses. -/
  | fuseBlow
  /-- POWER_OFF (R403). PWRGOOD falls, ending every reset, and the device is Off. -/
  | powerOff
  /-- RAIL_FAULT (R448). A non-core rail below 90 % for more than 2 µs makes the device Off. -/
  | railFault (rail : Nat)
  /-- DEVICE_RESET (R405). DEV_RST_N or RESET_DEVICE resets the whole device while the rails stay up. -/
  | deviceReset (b : BoardInputs)
  /-- PORT_RESET (R406). PERST#, Hot Reset or DL_Down resets one port, its functions and their contexts. -/
  | portReset (port : BitVec 1) (cause : PortResetCause)
  /-- FLR (R407). A function level reset resets one function and its contexts. -/
  | flr (port : BitVec 1) (fn : BitVec 5)
  /-- BENCH_GATE (R410). Firmware gates an unused bench, keeping its stores in retention. -/
  | benchGate (node : BitVec 8)
  /-- IDLE_ENTRY (R412). After IDLE_ENTRY quiet ticks the device enters Idle. -/
  | idleEntry
  /-- DEEP_IDLE_ENTRY (R413). After DEEP_ENTRY ticks of Idle with no context, the device enters Deep Idle. -/
  | deepIdleEntry
  /-- IDLE_EXIT (R411). A doorbell, LAUNCH or access wakes the device from Idle. -/
  | idleExit
  /-- DEEP_IDLE_EXIT (R413). A doorbell, BAR2 access or link message wakes the device from Deep Idle. -/
  | deepIdleExit
  /-- THERMTRIP (R457). A sensor at 115 °C, or a stack at 105 °C, drives THERMTRIP_N low and holds every quadrant. -/
  | thermtrip (node : BitVec 8) (reading : BitVec 16)
  /-- REGISTER_WRITE (R433). A write to a node register that has no row of its own, checked for writer class, RWD and RW1C. -/
  | registerWrite (w : RegSource) (node : BitVec 8) (offset : BitVec 24) (len : Nat) (value : BitVec 64)
  /-- GUARD_TIMEOUT (R435). No complement arrives within 64 pacer ticks, and the pending guarded write is discarded. -/
  | guardTimeout (node : BitVec 8)
  /-- PARITY_SWEEP (R438). The sweep every 4,096 pacer ticks checks configuration parity and disables any failing block. -/
  | paritySweep (node : BitVec 8) (bad : Option (BitVec 24))
  /-- SMBUS_TEMPERATURE (R455). SMBus code 0x00 returns the highest bench sensor reading. -/
  | smbusTemperature
  /-- SMBUS_POWER (R455). SMBus code 0x01 returns the package power. -/
  | smbusPower
  /-- SMBUS_FW_STATE (R455). SMBus code 0x02 returns FW_STATE.STATE. -/
  | smbusFwState
  /-- SMBUS_HEARTBEAT (R455). SMBus code 0x03 returns HEARTBEAT. -/
  | smbusHeartbeat
  /-- SMBUS_UPTIME (R455). SMBus code 0x04 returns UPTIME. -/
  | smbusUptime
  /-- SMBUS_ALERTS (R455). SMBus code 0x05 returns the THERMTRIP_N, ALERT_N and hold bits. -/
  | smbusAlerts
  /-- GET_VERSION (R427). An SPDM GET_VERSION request is answered. -/
  | getVersion (port : BitVec 1) (req : List (BitVec 8))
  /-- GET_CAPABILITIES (R427). An SPDM GET_CAPABILITIES request is answered. -/
  | getCapabilities (port : BitVec 1) (req : List (BitVec 8))
  /-- NEGOTIATE_ALGORITHMS (R427). An SPDM NEGOTIATE_ALGORITHMS request is answered. -/
  | negotiateAlgorithms (port : BitVec 1) (req : List (BitVec 8))
  /-- GET_DIGESTS (R427). An SPDM GET_DIGESTS request is answered. -/
  | getDigests (port : BitVec 1) (req : List (BitVec 8))
  /-- GET_CERTIFICATE (R427). An SPDM GET_CERTIFICATE request is answered from slot 0. -/
  | getCertificate (port : BitVec 1) (req : List (BitVec 8))
  /-- CHALLENGE (R427). An SPDM CHALLENGE is answered with a signature by the identity key. -/
  | challenge (port : BitVec 1) (req : List (BitVec 8))
  /-- GET_MEASUREMENTS (R428). An SPDM GET_MEASUREMENTS request returns the measurement blocks. -/
  | getMeasurements (port : BitVec 1) (req : List (BitVec 8))
  /-- LOCAL_STORE_ACCESS (R179). A read or write from another core, a haul engine or the skip path arrives at a local store's mesh port and is performed by its controller, which acknowledges or answers it. -/
  | localStoreAccess (m : Nat) (wrong : BitVec 3)
  /-- HOLD_END (R45). A quadrant's rail comes back above 0.60 V, the droop monitors release every held handshake, and ALERT_N is released if HOLD_LIMIT had asserted it. -/
  | holdEnd (quad : BitVec 2)
  /-- PCIE_LINK_UP (R321). A host port's PCIe link finishes training and comes up, so traffic for the port flows again and PEER.PEERUP and DOWNTICKS change. -/
  | pcieLinkUp (port : BitVec 1)
  /-- PERST_RELEASE (R451). PERST# of a port is released, ending that port's reset, including one that outlasted a DEVICE reset. -/
  | perstRelease (port : BitVec 1)
  /-- DEV_RST_N_RELEASE (R450). DEV_RST_N returns high, and step 2 of Table 21.2 starts for a DEVICE reset or a POWER_ON that waited on it. -/
  | devRstNRelease
  /-- MSI_X_UNMASK (R353). A host unmasks an MSI-X vector whose pending bit is set, and the held message is sent. -/
  | msiXUnmask (port : BitVec 1) (fn : BitVec 5) (vector : BitVec 7)
  /-- DOE_DISCOVERY (R318). A DOE Discovery request arrives at a PF's DOE mailbox and is answered. -/
  | doeDiscovery (port : BitVec 1) (index : BitVec 8)
  deriving DecidableEq, Repr

end Sys2Proof
end

