-- ==== Sys2Proof/Decode.lean ====
section
/-!
DEFINITION. The instruction decoder of a hardware thread (R58, R61 to R64, R72, R73, R80, R108, R146, R147, R204, R215,
R237), an encoder of the same tables, and the opcode table's words. No row of spec/opcode_table.json gives bits to its step
(every row's fields are empty), so no word of that table spells a command.
-/
namespace Sys2Proof

/-- The command that a word spells by the opcode table's bits: none. -/
def decodeTableWord (_nbits _w : Nat) : Option Instr := none

/-- The fields of a repeat prefix, format P of Table 3.2. -/
structure RepFields where
  ni : Bool
  src : Bool
  z : BitVec 2
  rs1 : BitVec 5
  count : BitVec 16
  deriving DecidableEq, Repr

/-- What an encoding spells: an instruction, a repeat prefix, whose follower stands behind it, or nothing that the tables
assign (R61). -/
inductive Decoded where
  | instr (i : Instr)
  | rep (f : RepFields)
  | reserved
  deriving DecidableEq, Repr

/-! ### Fields (Tables 3.2, 3.3, 5.2, 7.3, 7.5, 7.6) -/

/-- Bits [30:25], the major opcode (R64). -/
def fMajor (w : BitVec 32) : BitVec 6 := w.extractLsb' 25 6
/-- Bits [24:20]: rd, vd, or the first register of formats S and B. -/
def fRd (w : BitVec 32) : BitVec 5 := w.extractLsb' 20 5
/-- Bits [19:15]: rs1, vs1, or the second register of formats S and B. -/
def fRs1 (w : BitVec 32) : BitVec 5 := w.extractLsb' 15 5
/-- Bits [14:10]: rs2 or vs2. -/
def fRs2 (w : BitVec 32) : BitVec 5 := w.extractLsb' 10 5
/-- Bits [9:0], fn10. -/
def fFn10 (w : BitVec 32) : BitVec 10 := w.extractLsb' 0 10
/-- Bits [14:0], imm15. -/
def fImm15 (w : BitVec 32) : BitVec 15 := w.extractLsb' 0 15
/-- Bits [19:0], imm20. -/
def fImm20 (w : BitVec 32) : BitVec 20 := w.extractLsb' 0 20
/-- Bits [14:12], fn3 of format SY. -/
def fFn3 (w : BitVec 32) : BitVec 3 := w.extractLsb' 12 3
/-- Bits [11:0], sr12 of format SY. -/
def fSr12 (w : BitVec 32) : BitVec 12 := w.extractLsb' 0 12
/-- Bits [3:0], fn4 of format V and fn of TCOMP and TCTL. -/
def fFn4 (w : BitVec 32) : BitVec 4 := w.extractLsb' 0 4
/-- The fields of format V. -/
def fV (w : BitVec 32) : VFields :=
  { vd := fRd w, vs1 := fRs1 w, vs2 := fRs2 w, pg := w.extractLsb' 7 3, ty := w.extractLsb' 4 3 }
/-- The fields of TMEM. -/
def fTMem (w : BitVec 32) : TMemFields :=
  { t := w.extractLsb' 22 3, rs1 := w.extractLsb' 17 5, rs2 := w.extractLsb' 12 5, d := w.getLsbD 10, mf := w.extractLsb' 5 5,
    scm := w.extractLsb' 3 2, rnd := w.getLsbD 2, q := w.getLsbD 1, z := w.extractLsb' 0 1 }
/-- The fields of TCOMP. -/
def fTComp (w : BitVec 32) : TCompFields :=
  { td := w.extractLsb' 22 3, ta := w.extractLsb' 19 3, tb := w.extractLsb' 16 3, rs := w.extractLsb' 11 5, scm := w.extractLsb' 9 2,
    rnd := w.getLsbD 8, z := w.extractLsb' 4 4 }
/-- The fields of TCTL. -/
def fTCtl (w : BitVec 32) : TCtlFields :=
  { rd := fRd w, rs1 := fRs1 w, t := w.extractLsb' 12 3, imm8 := w.extractLsb' 4 8 }
/-- The fields of format P. -/
def fRep (w : BitVec 32) : RepFields :=
  { ni := w.getLsbD 24, src := w.getLsbD 23, z := w.extractLsb' 21 2, rs1 := w.extractLsb' 16 5, count := w.extractLsb' 0 16 }

/-! ### The majors whose function field selects the row -/

/-- SYS (R72). -/
def decodeSys (h : Hart) (w : BitVec 32) : Decoded :=
  match fFn3 w with
  | 0#3 => .instr (.srd h (fRd w) (fRs1 w) (fSr12 w))
  | 1#3 => .instr (.swr h (fRd w) (fRs1 w) (fSr12 w))
  | 2#3 => .instr (.srs h (fRd w) (fRs1 w) (fSr12 w))
  | 3#3 => .instr (.src h (fRd w) (fRs1 w) (fSr12 w))
  | 4#3 => match fSr12 w with
    | 0x000#12 => .instr (.ecall h (fRd w) (fRs1 w))
    | 0x001#12 => .instr (.ebreak h (fRd w) (fRs1 w))
    | 0x002#12 => .instr (.eret h (fRd w) (fRs1 w))
    | 0x010#12 => .instr (.wedgeL h (fRd w) (fRs1 w))
    | 0x011#12 => .instr (.wedgeB h (fRd w) (fRs1 w))
    | 0x012#12 => .instr (.wedgeD h (fRd w) (fRs1 w))
    | 0x013#12 => .instr (.wedgeS h (fRd w) (fRs1 w))
    | _ => .reserved
  | _ => .reserved

/-- COUNTER (Table 10.4). -/
def decodeCounter (h : Hart) (w : BitVec 32) : Decoded :=
  match fFn10 w with
  | 0x000#10 => .instr (.cinc h (fRd w) (fRs1 w) (fRs2 w))
  | 0x001#10 => .instr (.cincB h (fRd w) (fRs1 w) (fRs2 w))
  | 0x002#10 => .instr (.cdec h (fRd w) (fRs1 w) (fRs2 w))
  | 0x003#10 => .instr (.cwait h (fRd w) (fRs1 w) (fRs2 w))
  | 0x004#10 => .instr (.cread h (fRd w) (fRs1 w) (fRs2 w))
  | _ => .reserved

/-- TX (Table 11.1). -/
def decodeTx (h : Hart) (w : BitVec 32) : Decoded :=
  match fFn10 w with
  | 0x000#10 => .instr (.txb h (fRd w) (fRs1 w) (fRs2 w))
  | 0x001#10 => .instr (.txe h (fRd w) (fRs1 w) (fRs2 w))
  | 0x002#10 => .instr (.txa h (fRd w) (fRs1 w) (fRs2 w))
  | _ => .reserved

/-- CHAN (Table 12.2). -/
def decodeChan (h : Hart) (w : BitVec 32) : Decoded :=
  match fFn10 w with
  | 0x000#10 => .instr (.portCreate h (fRd w) (fRs1 w) (fRs2 w))
  | 0x001#10 => .instr (.portFree h (fRd w) (fRs1 w) (fRs2 w))
  | 0x002#10 => .instr (.portPop h (fRd w) (fRs1 w) (fRs2 w))
  | 0x003#10 => .instr (.dispatch h (fRd w) (fRs1 w) (fRs2 w))
  | 0x004#10 => .instr (.hset h (fRd w) (fRs1 w) (fRs2 w))
  | 0x010#10 => .instr (.chanOpen h (fRd w) (fRs1 w) (fRs2 w))
  | 0x011#10 => .instr (.chanClose h (fRd w) (fRs1 w) (fRs2 w))
  | 0x012#10 => .instr (.send h (fRd w) (fRs1 w) (fRs2 w))
  | 0x013#10 => .instr (.tsend h (fRd w) (fRs1 w) (fRs2 w))
  | 0x014#10 => .instr (.sendM h (fRd w) (fRs1 w) (fRs2 w))
  | 0x015#10 => .instr (.sendEnd h (fRd w) (fRs1 w) (fRs2 w))
  | 0x016#10 => .instr (.tsendEnd h (fRd w) (fRs1 w) (fRs2 w))
  | _ => .reserved

/-- THREAD (Table 4.1). -/
def decodeThread (h : Hart) (w : BitVec 32) : Decoded :=
  match fFn10 w with
  | 0x000#10 => .instr (.tput h (fRd w) (fRs1 w) (fRs2 w))
  | 0x001#10 => .instr (.tget h (fRd w) (fRs1 w) (fRs2 w))
  | 0x002#10 => .instr (.ttryput h (fRd w) (fRs1 w) (fRs2 w))
  | 0x003#10 => .instr (.tpoll h (fRd w) (fRs1 w) (fRs2 w))
  | 0x010#10 => .instr (.tsetr h (fRd w) (fRs1 w) (fRs2 w))
  | 0x011#10 => .instr (.trel h (fRd w) (fRs1 w) (fRs2 w))
  | 0x012#10 => .instr (.tinfo h (fRd w) (fRs1 w) (fRs2 w))
  | 0x013#10 => .instr (.tend h (fRd w) (fRs1 w) (fRs2 w))
  | _ => .reserved

/-- VPRED (Table 5.5). -/
def decodeVpred (h : Hart) (w : BitVec 32) : Decoded :=
  match fFn4 w with
  | 0x0#4 | 0x1#4 | 0x2#4 | 0x3#4 | 0x4#4 | 0x5#4 | 0x6#4 => .instr (.vcmp h (fV w) (fFn4 w))
  | 0x8#4 => .instr (.pand h (fV w))
  | 0x9#4 => .instr (.por h (fV w))
  | 0xA#4 => .instr (.pxor h (fV w))
  | 0xB#4 => .instr (.pandn h (fV w))
  | 0xC#4 => .instr (.pwhile h (fV w))
  | 0xD#4 => .instr (.pcount h (fV w))
  | _ => .reserved

/-- VMEM (Table 5.6). -/
def decodeVmem (h : Hart) (w : BitVec 32) : Decoded :=
  match fFn4 w with
  | 0x0#4 => .instr (.vld h (fV w))
  | 0x1#4 => .instr (.vst h (fV w))
  | 0x2#4 => .instr (.vlds h (fV w))
  | 0x3#4 => .instr (.vsts h (fV w))
  | 0x4#4 => .instr (.vldb h (fV w))
  | 0x5#4 => .instr (.vld2 h (fV w))
  | 0x6#4 => .instr (.vst2 h (fV w))
  | 0x8#4 => .instr (.vgather h (fV w))
  | 0x9#4 => .instr (.vscatter h (fV w))
  | _ => .reserved

/-- VMOVE (Table 5.7). -/
def decodeVmove (h : Hart) (w : BitVec 32) : Decoded :=
  match fFn4 w with
  | 0x0#4 => .instr (.vbcast h (fV w))
  | 0x1#4 => .instr (.vext h (fV w))
  | 0x2#4 => .instr (.vins h (fV w))
  | 0x3#4 => .instr (.vcvt h (fV w))
  | 0x4#4 => .instr (.vperm h (fV w))
  | 0x8#4 => .instr (.vredsum h (fV w))
  | 0x9#4 => .instr (.vredmin h (fV w))
  | 0xA#4 => .instr (.vredmax h (fV w))
  | _ => .reserved

/-- VSTREAM (Table 5.8). -/
def decodeVstream (h : Hart) (w : BitVec 32) : Decoded :=
  match fFn4 w with
  | 0x0#4 => .instr (.vzget h (fV w))
  | 0x1#4 => .instr (.vzput h (fV w))
  | 0x2#4 => .instr (.vzpeek h (fV w))
  | 0x3#4 => .instr (.vzpoll h (fV w))
  | _ => .reserved

/-- VZFMA (Table 5.8). -/
def decodeVzfma (h : Hart) (w : BitVec 32) : Decoded :=
  match fFn4 w with
  | 0x0#4 | 0x1#4 | 0x2#4 | 0x3#4 => .instr (.vzfma h (fV w) (fFn4 w))
  | _ => .reserved

/-- TMEM (Table 7.3): bit S selects TSTORE; a TLOAD with Q = 1 takes its rows from a stream queue. -/
def decodeTmem (h : Hart) (w : BitVec 32) : Decoded :=
  if w.getLsbD 11 then .instr (.tstore h (fTMem w))
  else if w.getLsbD 1 then .instr (.tloadStream h (fTMem w))
  else .instr (.tload h (fTMem w))

/-- TCOMP (Table 7.5). -/
def decodeTcomp (h : Hart) (w : BitVec 32) : Decoded :=
  match fFn4 w with
  | 0x0#4 => .instr (.tmma h (fTComp w))
  | 0x1#4 => .instr (.tcvt h (fTComp w))
  | 0x2#4 => .instr (.tzero h (fTComp w))
  | _ => .reserved

/-- TCTL (Table 7.6). -/
def decodeTctl (h : Hart) (w : BitVec 32) : Decoded :=
  match fFn4 w with
  | 0x0#4 => .instr (.tcfg h (fTCtl w))
  | 0x1#4 => .instr (.tstat h (fTCtl w))
  | 0x2#4 => .instr (.tstatC h (fTCtl w))
  | 0x3#4 => .instr (.tseed h (fTCtl w))
  | 0x4#4 => .instr (.tcbld h (fTCtl w))
  | 0x5#4 => .instr (.tcfgr h (fTCtl w))
  | _ => .reserved

/-! ### The two widths -/

/-- The majors of Table 3.4. -/
def decodeMajor (h : Hart) (w : BitVec 32) : Decoded :=
  match fMajor w with
  | 0x00#6 => .instr (.op h (fFn10 w) (fRd w) (fRs1 w) (fRs2 w))
  | 0x01#6 => .instr (.op32 h (fFn10 w) (fRd w) (fRs1 w) (fRs2 w))
  | 0x02#6 => .instr (.muldiv h (fFn10 w) (fRd w) (fRs1 w) (fRs2 w))
  | 0x03#6 => .instr (.bits h (fFn10 w) (fRd w) (fRs1 w) (fRs2 w))
  | 0x04#6 => .instr (.addk h (fRd w) (fRs1 w) (fImm15 w))
  | 0x05#6 => .instr (.andk h (fRd w) (fRs1 w) (fImm15 w))
  | 0x06#6 => .instr (.ork h (fRd w) (fRs1 w) (fImm15 w))
  | 0x07#6 => .instr (.xork h (fRd w) (fRs1 w) (fImm15 w))
  | 0x08#6 => .instr (.cmpltk h (fRd w) (fRs1 w) (fImm15 w))
  | 0x09#6 => .instr (.cmpltuk h (fRd w) (fRs1 w) (fImm15 w))
  | 0x0A#6 => .instr (.shk h (fRd w) (fRs1 w) (fImm15 w))
  | 0x0B#6 => .instr (.addk32 h (fRd w) (fRs1 w) (fImm15 w))
  | 0x0C#6 => .instr (.lih h (fRd w) (fImm20 w))
  | 0x0D#6 => .instr (.pcaddh h (fRd w) (fImm20 w))
  | 0x10#6 => .instr (.lb h (fRd w) (fRs1 w) (fImm15 w))
  | 0x11#6 => .instr (.lh h (fRd w) (fRs1 w) (fImm15 w))
  | 0x12#6 => .instr (.lw h (fRd w) (fRs1 w) (fImm15 w))
  | 0x13#6 => .instr (.ld h (fRd w) (fRs1 w) (fImm15 w))
  | 0x14#6 => .instr (.lbu h (fRd w) (fRs1 w) (fImm15 w))
  | 0x15#6 => .instr (.lhu h (fRd w) (fRs1 w) (fImm15 w))
  | 0x16#6 => .instr (.lwu h (fRd w) (fRs1 w) (fImm15 w))
  | 0x17#6 => .instr (.loadx h (fFn10 w) (fRd w) (fRs1 w) (fRs2 w))
  | 0x18#6 => .instr (.sb h (fRd w) (fRs1 w) (fImm15 w))
  | 0x19#6 => .instr (.sh h (fRd w) (fRs1 w) (fImm15 w))
  | 0x1A#6 => .instr (.sw h (fRd w) (fRs1 w) (fImm15 w))
  | 0x1B#6 => .instr (.sd h (fRd w) (fRs1 w) (fImm15 w))
  | 0x1C#6 => .instr (.storex h (fFn10 w) (fRd w) (fRs1 w) (fRs2 w))
  | 0x20#6 => .instr (.beq h (fRd w) (fRs1 w) (fImm15 w))
  | 0x21#6 => .instr (.bne h (fRd w) (fRs1 w) (fImm15 w))
  | 0x22#6 => .instr (.blt h (fRd w) (fRs1 w) (fImm15 w))
  | 0x23#6 => .instr (.bge h (fRd w) (fRs1 w) (fImm15 w))
  | 0x24#6 => .instr (.bltu h (fRd w) (fRs1 w) (fImm15 w))
  | 0x25#6 => .instr (.bgeu h (fRd w) (fRs1 w) (fImm15 w))
  | 0x26#6 => .instr (.jal h (fRd w) (fImm20 w))
  | 0x27#6 => .instr (.jalr h (fRd w) (fRs1 w) (fImm15 w))
  | 0x28#6 => .instr (.atomic h (fFn10 w) (fRd w) (fRs1 w) (fRs2 w))
  | 0x29#6 => decodeSys h w
  | 0x2A#6 => decodeCounter h w
  | 0x2B#6 => decodeTx h w
  | 0x2C#6 => decodeChan h w
  | 0x2D#6 => decodeThread h w
  | 0x2E#6 => .rep (fRep w)
  | 0x30#6 => .instr (.varith h (fV w) (fFn4 w))
  | 0x31#6 => .instr (.vfma h (fV w) (fFn4 w))
  | 0x32#6 => decodeVpred h w
  | 0x33#6 => decodeVmem h w
  | 0x34#6 => decodeVmove h w
  | 0x36#6 => decodeVstream h w
  | 0x37#6 => decodeVzfma h w
  | 0x38#6 => decodeTmem h w
  | 0x39#6 => decodeTcomp h w
  | 0x3A#6 => decodeTctl h w
  | _ => .reserved

/-- A 32-bit encoding; bit 31 of every one is 1 (R58). 0xFFFF_FFFF names major 0x3F, which nothing is assigned to (R61). -/
def decode32 (h : Hart) (w : BitVec 32) : Decoded :=
  if w.getLsbD 31 then decodeMajor { h with compact := false } w else .reserved

/-- Bits [10:7] of a 16-bit encoding: rd, the data register, or rs of format CB (R63). -/
def cRd (w : BitVec 16) : BitVec 5 := (w.extractLsb' 7 4).setWidth 5
/-- Bits [6:3]: rs, or the base of format CM. -/
def cRs (w : BitVec 16) : BitVec 5 := (w.extractLsb' 3 4).setWidth 5
/-- Bits [2:0]: fn3 or imm3. -/
def cLow3 (w : BitVec 16) : BitVec 3 := w.extractLsb' 0 3
/-- Bits [6:0], imm7. -/
def cImm7 (w : BitVec 16) : BitVec 7 := w.extractLsb' 0 7

/-- C.ALU (Table 3.7): its fn3 gives fn10 of OP and whether rs1 is x0. -/
def decodeAlu (h : Hart) (w : BitVec 16) : Decoded :=
  let rd := cRd w
  let rs := cRs w
  match cLow3 w with
  | 0#3 => .instr (.op h 0 rd 0 rs)
  | 1#3 => .instr (.op h 0 rd rd rs)
  | 2#3 => .instr (.op h 1 rd rd rs)
  | 3#3 => .instr (.op h 2 rd rd rs)
  | 4#3 => .instr (.op h 3 rd rd rs)
  | 5#3 => .instr (.op h 4 rd rd rs)
  | 6#3 => .instr (.op h 6 rd rd rs)
  | 7#3 => .instr (.op h 7 rd rd rs)

/-- C.JMP (Table 3.7). -/
def decodeJmp (h : Hart) (w : BitVec 16) : Decoded :=
  if cRd w ≠ 0 then .reserved
  else match cLow3 w with
    | 0#3 => .instr (.jalr h 0 (cRs w) 0)
    | 1#3 => .instr (.jalr h 31 (cRs w) 0)
    | 2#3 => if cRs w = 0 then .instr (.jalr h 0 31 0) else .reserved
    | _ => .reserved

/-- The 16-bit instructions of Table 3.7, as the 32-bit instruction that each stands for. -/
def decodeCompact (h : Hart) (w : BitVec 16) : Decoded :=
  let rd := cRd w
  let base := cRs w
  let imm3 := (cLow3 w).setWidth 15
  let imm7 := cImm7 w
  match w.extractLsb' 11 4 with
  | 0x0#4 => decodeAlu h w
  | 0x1#4 => .instr (.addk h rd rd (imm7.signExtend 15))
  | 0x2#4 => .instr (.addk h rd 0 (imm7.signExtend 15))
  | 0x3#4 => .instr (.shk h rd rd ((w.extractLsb' 0 6).setWidth 15 ||| (if w.getLsbD 6 then 0x1000 else 0)))
  | 0x4#4 => .instr (.ld h rd base (imm3 <<< 3))
  | 0x5#4 => .instr (.sd h rd base (imm3 <<< 3))
  | 0x6#4 => .instr (.lw h rd base (imm3 <<< 2))
  | 0x7#4 => .instr (.sw h rd base (imm3 <<< 2))
  | 0x8#4 => .instr (.ld h rd 30 (imm7.setWidth 15 <<< 3))
  | 0x9#4 => .instr (.sd h rd 30 (imm7.setWidth 15 <<< 3))
  | 0xA#4 => .instr (.beq h rd 0 (imm7.signExtend 15))
  | 0xB#4 => .instr (.bne h rd 0 (imm7.signExtend 15))
  | 0xC#4 => .instr (.jal h 0 ((w.extractLsb' 0 11).signExtend 20))
  | 0xD#4 => .instr (.jal h 31 ((w.extractLsb' 0 11).signExtend 20))
  | 0xE#4 => decodeJmp h w
  | _ =>
    if imm7 ≠ 0 then .reserved
    else if rd = 0 then .instr (.ebreak h 0 0)
    else if rd = 1 then .instr (.wedgeL h 0 0)
    else .reserved

/-- A 16-bit encoding; its bit 15 is 0 (R58), and 0x0000 is reserved (R61). -/
def decode16 (h : Hart) (w : BitVec 16) : Decoded :=
  if w = 0 ∨ w.getLsbD 15 then .reserved else decodeCompact { h with compact := true } w

/-- The length of an instruction in bytes (R58). -/
def Hart.len (h : Hart) : Nat := if h.compact then 2 else 4

/-- The first halfword of an instruction begins one of 32 bits (R58). -/
def isLong (first : BitVec 16) : Bool := first.getLsbD 15

/-- The instruction whose halfwords stand at the PC and behind it (R58). -/
def decodeAt (h : Hart) (first second : BitVec 16) : Decoded :=
  if isLong first then decode32 h (first ++ second) else decode16 h first

/-! ### The thread and the encoding of an instruction -/

/-- The thread that an instruction belongs to; the other rows are no instructions. -/
def Instr.hart? : Instr → Option Hart
  | .pand h _ | .por h _ | .pxor h _ | .pandn h _ | .pwhile h _ | .pcount h _ => some h
  | .vld h _ | .vst h _ | .vlds h _ | .vsts h _ | .vldb h _ | .vld2 h _ => some h
  | .vst2 h _ | .vgather h _ | .vscatter h _ | .vbcast h _ | .vext h _ | .vins h _ => some h
  | .vcvt h _ | .vperm h _ | .vredsum h _ | .vredmin h _ | .vredmax h _ | .vzget h _ => some h
  | .vzput h _ | .vzpeek h _ | .vzpoll h _ | .tload h _ | .tloadStream h _ | .tstore h _ => some h
  | .tmma h _ | .tcvt h _ | .tzero h _ | .tcfg h _ | .tstat h _ | .tstatC h _ => some h
  | .tseed h _ | .tcbld h _ | .tcfgr h _ => some h
  | .lih h _ _ | .pcaddh h _ _ | .jal h _ _ | .ecall h _ _ | .ebreak h _ _ | .eret h _ _ => some h
  | .wedgeL h _ _ | .wedgeB h _ _ | .wedgeD h _ _ | .wedgeS h _ _ | .varith h _ _ | .vfma h _ _ => some h
  | .vcmp h _ _ | .vzfma h _ _ => some h
  | .addk h _ _ _ | .andk h _ _ _ | .ork h _ _ _ | .xork h _ _ _ | .cmpltk h _ _ _ | .cmpltuk h _ _ _ => some h
  | .shk h _ _ _ | .addk32 h _ _ _ | .lb h _ _ _ | .lh h _ _ _ | .lw h _ _ _ | .ld h _ _ _ => some h
  | .lbu h _ _ _ | .lhu h _ _ _ | .lwu h _ _ _ | .sb h _ _ _ | .sh h _ _ _ | .sw h _ _ _ => some h
  | .sd h _ _ _ | .beq h _ _ _ | .bne h _ _ _ | .blt h _ _ _ | .bge h _ _ _ | .bltu h _ _ _ => some h
  | .bgeu h _ _ _ | .jalr h _ _ _ | .srd h _ _ _ | .swr h _ _ _ | .srs h _ _ _ | .src h _ _ _ => some h
  | .tput h _ _ _ | .tget h _ _ _ | .ttryput h _ _ _ | .tpoll h _ _ _ | .tsetr h _ _ _ | .trel h _ _ _ => some h
  | .tinfo h _ _ _ | .tend h _ _ _ | .cinc h _ _ _ | .cincB h _ _ _ | .cdec h _ _ _ | .cwait h _ _ _ => some h
  | .cread h _ _ _ | .txb h _ _ _ | .txe h _ _ _ | .txa h _ _ _ | .portCreate h _ _ _ | .portFree h _ _ _ => some h
  | .portPop h _ _ _ | .dispatch h _ _ _ | .hset h _ _ _ | .chanOpen h _ _ _ | .chanClose h _ _ _ | .send h _ _ _ => some h
  | .tsend h _ _ _ | .sendM h _ _ _ | .sendEnd h _ _ _ | .tsendEnd h _ _ _ => some h
  | .op h _ _ _ _ | .op32 h _ _ _ _ | .bits h _ _ _ _ | .muldiv h _ _ _ _ | .loadx h _ _ _ _ | .storex h _ _ _ _ => some h
  | .atomic h _ _ _ _ => some h
  | .repN h _ _ _ _ _ => some h
  | .repI h _ _ _ _ _ => some h
  | _ => none

/-- Format R. -/
def encR (major : BitVec 6) (a b c : BitVec 5) (fn : BitVec 10) : BitVec 32 := 1#1 ++ major ++ a ++ b ++ c ++ fn
/-- Formats I, S and B. -/
def encI (major : BitVec 6) (a b : BitVec 5) (imm : BitVec 15) : BitVec 32 := 1#1 ++ major ++ a ++ b ++ imm
/-- Formats U and J. -/
def encU (major : BitVec 6) (a : BitVec 5) (imm : BitVec 20) : BitVec 32 := 1#1 ++ major ++ a ++ imm
/-- Format SY. -/
def encSy (fn3 : BitVec 3) (a b : BitVec 5) (sr : BitVec 12) : BitVec 32 := 1#1 ++ 0x29#6 ++ a ++ b ++ fn3 ++ sr
/-- Format V. -/
def encV (major : BitVec 6) (f : VFields) (fn : BitVec 4) : BitVec 32 := 1#1 ++ major ++ f.vd ++ f.vs1 ++ f.vs2 ++ f.pg ++ f.ty ++ fn
/-- TMEM. -/
def encTMem (store : Bool) (f : TMemFields) : BitVec 32 :=
  1#1 ++ 0x38#6 ++ f.t ++ f.rs1 ++ f.rs2 ++ BitVec.ofBool store ++ BitVec.ofBool f.d ++ f.mf ++ f.scm ++ BitVec.ofBool f.rnd ++ BitVec.ofBool f.q ++ f.z
/-- TCOMP. -/
def encTComp (f : TCompFields) (fn : BitVec 4) : BitVec 32 := 1#1 ++ 0x39#6 ++ f.td ++ f.ta ++ f.tb ++ f.rs ++ f.scm ++ BitVec.ofBool f.rnd ++ f.z ++ fn
/-- TCTL. -/
def encTCtl (f : TCtlFields) (fn : BitVec 4) : BitVec 32 := 1#1 ++ 0x3A#6 ++ f.rd ++ f.rs1 ++ f.t ++ f.imm8 ++ fn
/-- Format P. -/
def encRep (f : RepFields) : BitVec 32 := 1#1 ++ 0x2E#6 ++ BitVec.ofBool f.ni ++ BitVec.ofBool f.src ++ f.z ++ f.rs1 ++ f.count

/-- The 32-bit encoding of an instruction; a repeat's is its prefix's, and the rows that are no instructions have none. -/
def encode : Instr → Option (BitVec 32)
  | .op _ fn a b c => some (encR 0x00 a b c fn)
  | .op32 _ fn a b c => some (encR 0x01 a b c fn)
  | .muldiv _ fn a b c => some (encR 0x02 a b c fn)
  | .bits _ fn a b c => some (encR 0x03 a b c fn)
  | .loadx _ fn a b c => some (encR 0x17 a b c fn)
  | .storex _ fn a b c => some (encR 0x1C a b c fn)
  | .atomic _ fn a b c => some (encR 0x28 a b c fn)
  | .addk _ a b imm => some (encI 0x04 a b imm)
  | .andk _ a b imm => some (encI 0x05 a b imm)
  | .ork _ a b imm => some (encI 0x06 a b imm)
  | .xork _ a b imm => some (encI 0x07 a b imm)
  | .cmpltk _ a b imm => some (encI 0x08 a b imm)
  | .cmpltuk _ a b imm => some (encI 0x09 a b imm)
  | .shk _ a b imm => some (encI 0x0A a b imm)
  | .addk32 _ a b imm => some (encI 0x0B a b imm)
  | .lb _ a b imm => some (encI 0x10 a b imm)
  | .lh _ a b imm => some (encI 0x11 a b imm)
  | .lw _ a b imm => some (encI 0x12 a b imm)
  | .ld _ a b imm => some (encI 0x13 a b imm)
  | .lbu _ a b imm => some (encI 0x14 a b imm)
  | .lhu _ a b imm => some (encI 0x15 a b imm)
  | .lwu _ a b imm => some (encI 0x16 a b imm)
  | .sb _ a b imm => some (encI 0x18 a b imm)
  | .sh _ a b imm => some (encI 0x19 a b imm)
  | .sw _ a b imm => some (encI 0x1A a b imm)
  | .sd _ a b imm => some (encI 0x1B a b imm)
  | .beq _ a b imm => some (encI 0x20 a b imm)
  | .bne _ a b imm => some (encI 0x21 a b imm)
  | .blt _ a b imm => some (encI 0x22 a b imm)
  | .bge _ a b imm => some (encI 0x23 a b imm)
  | .bltu _ a b imm => some (encI 0x24 a b imm)
  | .bgeu _ a b imm => some (encI 0x25 a b imm)
  | .jalr _ a b imm => some (encI 0x27 a b imm)
  | .lih _ a imm => some (encU 0x0C a imm)
  | .pcaddh _ a imm => some (encU 0x0D a imm)
  | .jal _ a imm => some (encU 0x26 a imm)
  | .srd _ a b sr => some (encSy 0 a b sr)
  | .swr _ a b sr => some (encSy 1 a b sr)
  | .srs _ a b sr => some (encSy 2 a b sr)
  | .src _ a b sr => some (encSy 3 a b sr)
  | .ecall _ a b => some (encSy 4 a b 0x000)
  | .ebreak _ a b => some (encSy 4 a b 0x001)
  | .eret _ a b => some (encSy 4 a b 0x002)
  | .wedgeL _ a b => some (encSy 4 a b 0x010)
  | .wedgeB _ a b => some (encSy 4 a b 0x011)
  | .wedgeD _ a b => some (encSy 4 a b 0x012)
  | .wedgeS _ a b => some (encSy 4 a b 0x013)
  | .cinc _ a b c => some (encR 0x2A a b c 0x000)
  | .cincB _ a b c => some (encR 0x2A a b c 0x001)
  | .cdec _ a b c => some (encR 0x2A a b c 0x002)
  | .cwait _ a b c => some (encR 0x2A a b c 0x003)
  | .cread _ a b c => some (encR 0x2A a b c 0x004)
  | .txb _ a b c => some (encR 0x2B a b c 0x000)
  | .txe _ a b c => some (encR 0x2B a b c 0x001)
  | .txa _ a b c => some (encR 0x2B a b c 0x002)
  | .portCreate _ a b c => some (encR 0x2C a b c 0x000)
  | .portFree _ a b c => some (encR 0x2C a b c 0x001)
  | .portPop _ a b c => some (encR 0x2C a b c 0x002)
  | .dispatch _ a b c => some (encR 0x2C a b c 0x003)
  | .hset _ a b c => some (encR 0x2C a b c 0x004)
  | .chanOpen _ a b c => some (encR 0x2C a b c 0x010)
  | .chanClose _ a b c => some (encR 0x2C a b c 0x011)
  | .send _ a b c => some (encR 0x2C a b c 0x012)
  | .tsend _ a b c => some (encR 0x2C a b c 0x013)
  | .sendM _ a b c => some (encR 0x2C a b c 0x014)
  | .sendEnd _ a b c => some (encR 0x2C a b c 0x015)
  | .tsendEnd _ a b c => some (encR 0x2C a b c 0x016)
  | .tput _ a b c => some (encR 0x2D a b c 0x000)
  | .tget _ a b c => some (encR 0x2D a b c 0x001)
  | .ttryput _ a b c => some (encR 0x2D a b c 0x002)
  | .tpoll _ a b c => some (encR 0x2D a b c 0x003)
  | .tsetr _ a b c => some (encR 0x2D a b c 0x010)
  | .trel _ a b c => some (encR 0x2D a b c 0x011)
  | .tinfo _ a b c => some (encR 0x2D a b c 0x012)
  | .tend _ a b c => some (encR 0x2D a b c 0x013)
  | .repI _ src z rs1 count _ => some (encRep { ni := false, src := src, z := z, rs1 := rs1, count := count })
  | .repN _ src z rs1 count _ => some (encRep { ni := true, src := src, z := z, rs1 := rs1, count := count })
  | .varith _ f fn => some (encV 0x30 f fn)
  | .vfma _ f fn => some (encV 0x31 f fn)
  | .vcmp _ f fn => some (encV 0x32 f fn)
  | .vzfma _ f fn => some (encV 0x37 f fn)
  | .pand _ f => some (encV 0x32 f 0x8)
  | .por _ f => some (encV 0x32 f 0x9)
  | .pxor _ f => some (encV 0x32 f 0xA)
  | .pandn _ f => some (encV 0x32 f 0xB)
  | .pwhile _ f => some (encV 0x32 f 0xC)
  | .pcount _ f => some (encV 0x32 f 0xD)
  | .vld _ f => some (encV 0x33 f 0x0)
  | .vst _ f => some (encV 0x33 f 0x1)
  | .vlds _ f => some (encV 0x33 f 0x2)
  | .vsts _ f => some (encV 0x33 f 0x3)
  | .vldb _ f => some (encV 0x33 f 0x4)
  | .vld2 _ f => some (encV 0x33 f 0x5)
  | .vst2 _ f => some (encV 0x33 f 0x6)
  | .vgather _ f => some (encV 0x33 f 0x8)
  | .vscatter _ f => some (encV 0x33 f 0x9)
  | .vbcast _ f => some (encV 0x34 f 0x0)
  | .vext _ f => some (encV 0x34 f 0x1)
  | .vins _ f => some (encV 0x34 f 0x2)
  | .vcvt _ f => some (encV 0x34 f 0x3)
  | .vperm _ f => some (encV 0x34 f 0x4)
  | .vredsum _ f => some (encV 0x34 f 0x8)
  | .vredmin _ f => some (encV 0x34 f 0x9)
  | .vredmax _ f => some (encV 0x34 f 0xA)
  | .vzget _ f => some (encV 0x36 f 0x0)
  | .vzput _ f => some (encV 0x36 f 0x1)
  | .vzpeek _ f => some (encV 0x36 f 0x2)
  | .vzpoll _ f => some (encV 0x36 f 0x3)
  | .tload _ f => some (encTMem false f)
  | .tloadStream _ f => some (encTMem false f)
  | .tstore _ f => some (encTMem true f)
  | .tmma _ f => some (encTComp f 0x0)
  | .tcvt _ f => some (encTComp f 0x1)
  | .tzero _ f => some (encTComp f 0x2)
  | .tcfg _ f => some (encTCtl f 0x0)
  | .tstat _ f => some (encTCtl f 0x1)
  | .tstatC _ f => some (encTCtl f 0x2)
  | .tseed _ f => some (encTCtl f 0x3)
  | .tcbld _ f => some (encTCtl f 0x4)
  | .tcfgr _ f => some (encTCtl f 0x5)
  | _ => none

/-- A halfword of Table 3.3 from op4, the four bits [10:7] and the seven low bits. -/
def enc16 (op : BitVec 4) (a : BitVec 4) (rest : BitVec 7) : BitVec 16 := 0#1 ++ op ++ a ++ rest
/-- The four bits that name a register of the 16-bit formats. -/
def low4 (r : BitVec 5) : BitVec 4 := r.setWidth 4

/-- fn3 of C.ALU for a function of OP (Table 3.7). -/
def aluFn3 (fn : BitVec 10) : BitVec 3 :=
  match fn.toNat with
  | 0 => 1
  | 1 => 2
  | 2 => 3
  | 3 => 4
  | 4 => 5
  | n => BitVec.ofNat 3 n

/-- The 16-bit encoding of a load or store of 8 or 4 bytes. -/
def encMem (wide : BitVec 4) (stack : Option (BitVec 4)) (scale : Nat) (r base : BitVec 5) (imm : BitVec 15) : BitVec 16 :=
  match stack with
  | some op => if base = 30 then enc16 op (low4 r) ((imm >>> 3).setWidth 7) else enc16 wide (low4 r) (low4 base ++ (imm >>> scale).setWidth 3)
  | none => enc16 wide (low4 r) (low4 base ++ (imm >>> scale).setWidth 3)

/-- The 16-bit encoding of an instruction that has one (Table 3.7). -/
def encodeCompact : Instr → Option (BitVec 16)
  | .op _ fn rd rs1 rs2 => some (enc16 0x0 (low4 rd) (low4 rs2 ++ (if rs1 = rd then aluFn3 fn else 0#3)))
  | .addk _ rd rs1 imm => some (enc16 (if rs1 = rd then 0x1 else 0x2) (low4 rd) (imm.setWidth 7))
  | .shk _ rd _ imm => some (enc16 0x3 (low4 rd) (BitVec.ofBool (imm.getLsbD 12) ++ imm.setWidth 6))
  | .ld _ rd base imm => some (encMem 0x4 (some 0x8) 3 rd base imm)
  | .sd _ r base imm => some (encMem 0x5 (some 0x9) 3 r base imm)
  | .lw _ rd base imm => some (encMem 0x6 none 2 rd base imm)
  | .sw _ r base imm => some (encMem 0x7 none 2 r base imm)
  | .beq _ rs _ imm => some (enc16 0xA (low4 rs) (imm.setWidth 7))
  | .bne _ rs _ imm => some (enc16 0xB (low4 rs) (imm.setWidth 7))
  | .jal _ rd imm => some (0#1 ++ (if rd = 0 then 0xC#4 else 0xD#4) ++ imm.setWidth 11)
  | .jalr _ rd rs1 _ => some (if rs1 = 31 then enc16 0xE 0 2 else enc16 0xE 0 (low4 rs1 ++ (if rd = 0 then 0#3 else 1#3)))
  | .ebreak _ _ _ => some (enc16 0xF 0 0)
  | .wedgeL _ _ _ => some (enc16 0xF 1 0)
  | _ => none

/-- The bytes of a halfword where it stands in memory, its low byte first (R5). -/
def halfBytes (x : BitVec 16) : List (BitVec 8) := [x.setWidth 8, x.extractLsb' 8 8]

/-- The bytes of a 32-bit encoding: the halfword with bit 31 stands at the lower address (R58). -/
def wordBytes (w : BitVec 32) : List (BitVec 8) := halfBytes (w.extractLsb' 16 16) ++ halfBytes (w.setWidth 16)

/-- The bytes of an instruction where it stands in memory. -/
def instrBytes (i : Instr) : List (BitVec 8) :=
  if (i.hart?.map (·.compact)).getD false then ((encodeCompact i).map halfBytes).getD [] else ((encode i).map wordBytes).getD []

end Sys2Proof
end

