-- ==== Sys2Proof/Config.lean ====
section
/-!
DEFINITION. What the manual leaves free: constants with no body, so that no proof can rest on a value
of them. Each is named in an entry of notes/assumptions.
-/
namespace Sys2Proof

/-- Ticks that the pacer of a node advances by in the idle step numbered `k` (R49: a pacer's period
moves by a law that the manual does not give). Log entry 2. -/
opaque Config.pacerAdvance : (node k : Nat) → Nat

/-- Counts that the stamp counter of a port advances by in the idle step numbered `k` (R52, R47).
Log entry 2. -/
opaque Config.stampAdvance : (port k : Nat) → Nat

/-- Base of the shipped firmware's vector table, which the firmware puts into VBASE2 (R87). The manual
gives no value. Log entry 9. -/
opaque Config.fwVectorBase : BitVec 64

/-- Octet `i` of the signature that SB's signing engine makes over a digest with the fused identity key
(R427). The private key is not given. Log entry 21. -/
opaque Config.signOctet : (digest : List (BitVec 8)) → (i : Nat) → BitVec 8

/-- Octet `i` of the certificate chain of slot 0 (R427). The manual gives no contents. Log entry 21. -/
opaque Config.certOctet : (i : Nat) → BitVec 8

/-- Octets of the certificate chain of slot 0 after its first. Log entry 21. -/
opaque Config.certRest : Nat

/-- Length in octets of the certificate chain of slot 0, which holds at least one certificate. Log entry 21. -/
def Config.certLength : Nat := Config.certRest + 1

/-- Octet `i` of the nonce numbered `k` in an SPDM answer. Log entry 21. -/
opaque Config.nonceOctet : (k i : Nat) → BitVec 8

/-- Octet `i` of the digest of the boot ROM (R428, index 1). The manual does not give the ROM's text.
Log entry 21. -/
opaque Config.romDigest : (i : Nat) → BitVec 8

/-- Octet `i` of measurement 4 (fuses) or 5 (fence map) over its contents (Table 21.11): the manual does not give the octets that
are hashed. Log entry 21. -/
opaque Config.stateDigest : (index : Nat) → (contents : List Nat) → (i : Nat) → BitVec 8

/-- What CAPABILITIES reports beside the capabilities of R427: 0 CTExponent, 1 DataTransferSize, 2 MaxSPDMmsgSize. Log
entry 21. -/
opaque Config.spdmLimit : (field : Nat) → BitVec 32

/-- What an overlapped COPY takes for the shared bytes of the naturally aligned word `w` (address / 8): `true` the
value that an earlier stream position wrote, `false` the value from before (R276 leaves it open). Log entry 14. -/
opaque Config.copyOverlap : (k w : Nat) → Bool

/-- Firmware revision that the running image reports (Table 16.5 FWREV); the manual gives no number.
Log entry 9. -/
opaque Config.fwRevision : (imageDigest : List (BitVec 8)) → BitVec 16

/-- Octet `i` of the hash that the factory fused into key slot `k` (R421); the manual gives no contents.
Log entry 7. -/
opaque Config.factorySlotHash : (k i : Nat) → BitVec 8

/-- INT32 element that TCVT gives for a source value that is no INT32 value (R134 states no such conversion):
`kind` 0 a NaN, 1 an infinity, 2 the value (−1)^neg × m × 2^e. Log entry 19. -/
opaque Config.toInt32 : (kind : Nat) → (neg : Bool) → (m : Nat) → (e : Int) → BitVec 32

/-- Ticks of a node's pacer that the calibration at the boot numbered `k` counts (R50, step 6 of Table 21.2). Log entry 2. -/
opaque Config.bootTicks : (node k : Nat) → Nat

/-- The manufacturer identity that JEDEC assigns to Hitovas (R454); the manual gives no number. Log entry 29. -/
opaque Config.jedecId : BitVec 11

/-- IDCODE of the JTAG port (R454): version 1, part 0x4F70, manufacturer, 1. Nothing else of the device reads it. Log entry 29. -/
def Config.idcode : BitVec 32 := 1#4 ++ 0x4F70#16 ++ Config.jedecId ++ 1#1

end Sys2Proof
end

