-- ==== Sys2Proof/Machine/State.lean ====
section
/-!
DEFINITION. The state of the device, as plain data: everything the manual gives it, agent by agent, the
queue of waiting commands, and the state that follows power-on (the Reset columns, R7). Tables list only
what differs from the reset value that the accessor in Machine/Ops.lean supplies.
-/
namespace Sys2Proof.Machine

/-- Reasons for which the machine stops. No meaning raises one: every outcome that the manual gives is a
next state (R10), so this type holds only the stop that a step outside the device would be (safe). -/
inductive Fault where
  /-- Raised by no meaning; it stands for a step of something that is not part of the device. Safe. -/
  | outsideDevice
  deriving DecidableEq, Repr

/-- Reasons for which a command has no meaning. No command is refused. -/
inductive Refusal where
  /-- An arm of exec whose meaning is not written yet. Safe. -/
  | notModelled (mnemonic : String)
  deriving DecidableEq, Repr

/-- The four states of a thread (R86). -/
inductive RunState where
  | running | held | halted | ended
  deriving DecidableEq, Repr

/-- What a device address reaches (R19), with the remote device's own offset kept whole (R22). -/
inductive Target where
  | hbm (addr : Nat)
  | store (core off : Nat)
  | reg (node off : Nat)
  | host (port addr : Nat)
  | remote (dev off : Nat)
  deriving DecidableEq, Repr

/-- A counter cell (R199): a core cell, a weighbridge cell, or either on another device (R202, R203). -/
inductive CellId where
  | core (core cell : Nat)
  | wb (wb cell : Nat)
  | remote (dev : Nat) (code : Nat)
  deriving DecidableEq, Repr

/-- A translated address: what it reaches, NC, the page it was made through (context, 64 KiB page). -/
structure Xlat where
  tgt : Target
  nc : Bool
  page : Option (Nat × Nat)
  deriving DecidableEq, Repr

/-- What a completed access does to its thread (R183, R190): nothing, a register's new value, piece `i` of the instruction
that the thread is executing, or nothing because that instruction was abandoned. -/
inductive Sink where
  | none
  | load (rd : BitVec 5) (bytes : Nat) (signed : Bool)
  | old (rd : BitVec 5) (bytes : Nat)
  | part (i : Nat)
  | drop
  deriving DecidableEq, Repr

/-- Who receives the answer to a request: an access of a thread, a fetch or a write-back of a bench cache, a counter operation, a
device across a link, a haul channel, a wedge's flush read (R187), that of a LAUNCH (R194), a SIGNAL (R210), a host's BAR2
write (R195), or a unit that takes no notice of it. -/
inductive Requester where
  | access (core slot : Nat)
  | fetch (node line : Nat)
  | writeBack (node line : Nat)
  | counter (core thr name : Nat)
  | link (port tag srcDev srcNode : Nat)
  | haul (node ch tag : Nat)
  | flush (thr port : Nat)
  | kernelFlush (ring port : Nat)
  | signal (ring : Nat)
  | bar2 (port : Nat)
  | unit
  deriving DecidableEq, Repr

/-- An event record before it is written (R345): ring, type, source, sequence number, context, words 3 to
7, and the priority of Table 17.10. -/
structure Record where
  ring : Nat
  ty : Nat
  scls : Nat
  srcid : Nat
  seqno : BitVec 32
  ctx : Option Nat
  w3 : W64
  w4 : W64
  w5 : W64
  w6 : W64
  w7 : W64
  prio : Nat
  spilled : Bool
  deriving DecidableEq, Repr

/-- The payload of a mesh message (R282, Table 15.1). `cacheRead` and `cacheWrite` are the accesses that a
core hands to the bench cache of its own bench (R186, R289). -/
inductive Payload where
  | cacheRead (t : Target) (len ctx : Nat) (req : Requester)
  | cacheWrite (t : Target) (bytes : List Byte) (poison : Bool) (ctx bit : Nat) (req : Requester)
  | read (t : Target) (len : Nat) (req : Requester)
  | write (t : Target) (bytes : List (Nat × Byte)) (poison : Bool) (req : Requester)
  | atomic (t : Target) (op : Nat) (bytes : Nat) (operand compare : W64) (req : Requester)
  | counter (cell : CellId) (dec : Bool) (amount : Nat) (req : Requester)
  | txRead (t : Target) (len : Nat) (req : Requester)
  | publish (core port gen : Nat) (words : List W64) (sender : Nat) (held : Bool)
  | record (r : Record)
  | data (bytes : List Byte) (poison : Bool) (holder : Nat) (req : Requester)
  | ack (req : Requester)
  | error (code : Nat) (req : Requester)
  | overLink (m : LinkMsg)
  deriving DecidableEq, Repr

/-- A message in the mesh (R282 to R286), or handed over within a bench (class 0 to its cache, 5 back): its class, source and destination nodes, the node whose router
holds it, the input port it came in by, the flit that carries it there, its payload, and the pacer counts of its source when it was sent and
of its destination when it was delivered. -/
structure Msg where
  id : Nat
  cls : Nat
  src : Nat
  dst : Nat
  pos : Nat
  inp : Dir
  flit : Nat
  pay : Payload
  since : Nat
  arr : Nat
  deriving DecidableEq, Repr

/-- An exception to be raised: cause code, engine, CAUSE.INFO and FADDR (Table 4.6). -/
structure Exn where
  code : Nat
  engine : Nat
  info : BitVec 32
  faddr : W64
  deriving DecidableEq, Repr

/-- One access of an instruction that makes several (R110, R113, R150, R152): the lane or row that it belongs to, whether it
is side data, its address as given and translated, its length, and what it writes. -/
structure Part where
  place : Nat
  side : Bool
  va : W64
  x : Xlat
  len : Nat
  data : List Byte
  deriving DecidableEq, Repr

/-- What the instruction that a thread is executing over several steps is: one that has begun and waits (R99), a vector load or
store, a gather or scatter with its fields, or a tile load or store with its fields. -/
inductive JobKind where
  | hold
  | lanes
  | gather (f : VFields) (write : Bool)
  | rows (f : TMemFields) (store : Bool)
  deriving DecidableEq, Repr

/-- An instruction under way: its bytes as they were fetched, what it is, whether nothing may be taken before it completes, its
accesses in order, how many of them were sent, the answers and the errors by access, and the rows that are finished. -/
structure Job where
  enc : List Byte
  kind : JobKind
  firm : Bool
  parts : List Part
  sent : Nat
  got : Tbl (List Byte)
  bad : Tbl Exn
  rows : Nat
  deriving DecidableEq, Repr

/-- A channel handle (R238). -/
structure Handle where
  core : Nat
  port : Nat
  arity : Nat
  gen : Nat
  deriving DecidableEq, Repr

/-- A staged counter operation (R221, R225): its place in program order among the staged operations and tuples, its cell, the
amount and the name it was given. -/
structure StagedCtr where
  seq : Nat
  cell : CellId
  amount : Nat
  name : Nat
  deriving DecidableEq, Repr

/-- A staged channel tuple (R221, R225), with its place in program order. -/
structure StagedTuple where
  seq : Nat
  handle : Nat
  words : List W64
  deriving DecidableEq, Repr

/-- The bytes that a transaction has staged for one line (R222). -/
structure StagedLine where
  mask : BitVec 64
  data : V512
  deriving DecidableEq, Repr

/-- Where a thread's transaction stands (R216, Table 11.5). -/
inductive TxPhase where
  | open
  | prepare (todo : List HomeId)
  | check (todo : List HomeId)
  | apply (todo : List HomeId)
  deriving DecidableEq, Repr

/-- A thread's transaction: nesting depth, fallback, ledger, commit phase, the words staged before TXB
(R218), the homes whose releases are not yet acknowledged, and the port reservations held, by core, port and GEN (R224). -/
structure Tx where
  depth : Nat
  fallback : W64
  reads : List Nat
  writes : Tbl StagedLine
  ctrs : List StagedCtr
  tuples : List StagedTuple
  phase : TxPhase
  granted : List HomeId
  reserved : List (Nat × Nat × Nat)
  stagedBefore : Nat
  releases : List HomeId
  deriving DecidableEq, Repr

/-- An asynchronous abort cause that waits for the thread's next instruction boundary (R220), in the
order in which R220 takes them: CONFLICT, PEER, INTERRUPT, DEBUG; and the CAPACITY answer of R222. -/
structure AbortCause where
  code : Nat
  detail : Nat
  node : Nat
  deriving DecidableEq, Repr

/-- A stream instruction that waits on its queue (R116). -/
inductive StreamOp where
  | get | put | peek
  | fma (fn : BitVec 4)
  deriving DecidableEq, Repr

/-- The blocking instruction a thread waits in (R99, R211), with what completing it needs; `rep` marks a stream
instruction that is the follower of a REP.I (R82). -/
inductive Wait where
  | tput (thr chan : Nat) (word : W64)
  | tget (chan : Nat) (rd : BitVec 5)
  | tend
  | cwait (cell : CellId) (name target : W64) (entry met : Bool) (since : Nat)
  | send (rd : BitVec 5) (handle : Nat) (words : List W64) (fromStage blocking inFlight : Bool) (start : Nat) (paused : Option Nat)
  | stream (op : StreamOp) (f : VFields) (rep : Bool)
  | tloadStream (f : TMemFields)
  | tmma
  | pri (req : Nat)
  | commit
  | wedge (scope : Nat)
  deriving DecidableEq, Repr

/-- A tile register and its side state (R140): descriptor, data by row (64 bytes a row), scale bytes by
row, codebook, LFSR and statistics word. -/
structure Tile where
  desc : BitVec 16
  data : Tbl V512
  scales : Tbl (BitVec 64)
  codebook : BitVec 256
  cbBf16 : Bool
  lfsr : BitVec 32
  stats : W64
  deriving DecidableEq, Repr

/-- A tile at LAUNCH (R140). -/
def Tile.init : Tile :=
  { desc := 0, data := [], scales := [], codebook := 0, cbBf16 := false, lfsr := 1, stats := 0 }

/-- No transaction. -/
def Tx.none : Tx :=
  { depth := 0, fallback := 0, reads := [], writes := [], ctrs := [], tuples := [], phase := .open,
    granted := [], reserved := [], stagedBefore := 0, releases := [] }

/-- The system registers of a thread (Table 3.9). -/
structure SysRegs where
  tp : W64
  vprog : W64
  rpc : BitVec 16
  priv : BitVec 2
  mask : BitVec 2
  bks : Bool
  cause : W64
  faddr : W64
  vbase0 : W64
  vbase1 : W64
  vbase2 : W64
  precision : W64
  backstopSp : W64
  depth : Nat
  recs : BitVec 16
  bkLevel : BitVec 2
  bkRec : Bool
  instret : W64
  deriving DecidableEq, Repr

/-- The system registers at their Reset values: STATUS P1 (Table 4.3), PRECISION_CTL Table 7.9; those the
manual gives none for are 0 (log entry 4). -/
def SysRegs.init : SysRegs :=
  { tp := 0, vprog := 0, rpc := 0, priv := 1, mask := 0, bks := false, cause := 0, faddr := 0,
    vbase0 := 0, vbase1 := 0, vbase2 := 0, precision := 0x0000000201000148#64, backstopSp := 0,
    depth := 0, recs := 0, bkLevel := 0, bkRec := false, instret := 0 }

/-- A hardware thread (R60, R86 to R92, R222, R238, R239). -/
structure Thread where
  x : Tbl W64
  v : Tbl V512
  p : Tbl W64
  pc : W64
  run : RunState
  dbg : Bool
  sys : SysRegs
  wait : Option Wait
  job : Option Job
  chans : Tbl W64
  handles : Tbl Handle
  staged : List W64
  stageHandle : Option Nat
  tiles : Tbl Tile
  tx : Tx
  deferred : List Exn
  aborts : List AbortCause
  ctrOut : List Nat
  hostPorts : List Nat
  deriving DecidableEq, Repr

/-- A thread after a CORE reset (R409). -/
def Thread.init : Thread :=
  { x := [], v := [], p := [], pc := 0, run := .ended, dbg := false, sys := SysRegs.init, wait := none, job := none,
    chans := [], handles := [], staged := [], stageHandle := none, tiles := [], tx := Tx.none,
    deferred := [], aborts := [], ctrOut := [], hostPorts := [] }

/-- A gather buffer entry (R178): line of the core's store, byte mask, bytes. -/
structure GEntry where
  line : BitVec 14
  mask : BitVec 64
  data : V512
  deriving DecidableEq, Repr

/-- A scoreboard entry (R183): thread, kind, first and last line by device address, the address as the
instruction gave it, the engine and lane that an error's fault names, and what completing the access does. -/
structure SbEntry where
  thr : Nat
  write : Bool
  first : Nat
  last : Nat
  faddr : W64
  eng : Nat
  lane : Nat
  sink : Sink
  tx : Bool
  haul : Option Nat
  deriving DecidableEq, Repr

/-- A TMMA in the array's queue (R158). -/
structure TmmaJob where
  thr : Nat
  td : BitVec 3
  ta : BitVec 3
  tb : BitVec 3
  deriving DecidableEq, Repr

/-- A core (R84, R95, R158, R178, R183; Tables 4.5, 10.1, 22.9). `irqFw` is FIRMWARE pending: R95 gives no condition on which the
management core raises it, and no step sets it (DESIGN CHOICE, log entry 40). `notice` is one more than the management tick of its
last precision notice (R398), 0 for none. -/
structure Core where
  tpend : BitVec 8
  irqWake : Bool
  irqHost : Option (BitVec 32)
  irqFw : Bool
  mode : Nat
  ctx : Option Nat
  kernel : Option RingRef
  partEnded : Bool
  debugger : Bool
  gbuf : List GEntry
  sb : Tbl SbEntry
  array : List TmmaJob
  ctrMode : BitVec 48
  ctrDead : Bool
  wrap : BitVec 8
  notice : Nat
  deriving DecidableEq, Repr

/-- A core that no context holds. -/
def Core.init : Core :=
  { tpend := 0, irqWake := false, irqHost := none, irqFw := false, mode := 0, ctx := none, kernel := none,
    partEnded := false, debugger := false, gbuf := [], sb := [], array := [], ctrMode := 0,
    ctrDead := false, wrap := 0, notice := 0 }

/-- A pending guarded write (R434): offset, value, source and the pacer count it was accepted at. -/
structure Guard where
  off : Nat
  value : W64
  src : RegSource
  thr : Nat
  since : Nat
  deriving DecidableEq, Repr

/-- `lastCal` is one more than the management tick of the last calibration. What every node holds: pacer and sensors (Tables 2.3, 22.8), node info (Table 22.5), router
(Table 22.6), the flits in each link's replay buffer (R287) and the arbitration state (R285). -/
structure Node where
  pacer : W64
  calValid : Bool
  calSeq : BitVec 8
  period : BitVec 32
  temp : BitVec 16
  tempValid : Bool
  rate : BitVec 16
  droops : Nat
  gated : Bool
  errFlags : BitVec 4
  errOff : BitVec 24
  errKind : BitVec 8
  errSrc : BitVec 3
  cntGuard : Nat
  cntCfg : Nat
  cntParity : Nat
  cntDeny : Nat
  guard : Option Guard
  flits : W64
  replays : Tbl Nat
  resend : Tbl (List Nat)
  rtWrap : Bool
  turn : Tbl Nat
  starve : Tbl Nat
  lastCal : Nat
  deriving DecidableEq, Repr

/-- A node at its Reset values. -/
def Node.init : Node :=
  { pacer := 0, calValid := false, calSeq := 0, period := 0x007A1200#32, temp := 0, tempValid := false,
    rate := 0, droops := 0, gated := false, errFlags := 0, errOff := 0, errKind := 0, errSrc := 0,
    cntGuard := 0, cntCfg := 0, cntParity := 0, cntDeny := 0, guard := none, flits := 0, replays := [], resend := [],
    rtWrap := false, turn := [], starve := [], lastCal := 0 }

/-- A way of a bench cache (R290): line (device address / 64), filled bit, dirty mask, poison bit, last
writer's context, data. -/
structure Way where
  line : Nat
  filled : Bool
  dirty : BitVec 64
  poison : Bool
  ctx : Nat
  data : V512
  deriving DecidableEq, Repr

/-- A fetch in flight (R291, R292): the way it fills, the victim whose write-back must be accepted first,
whether the request has been sent, whether a pass has dropped the line meanwhile (R187), and the accesses that wait for it. -/
structure Fetch where
  line : Nat
  way : Nat
  victim : Option Way
  sent : Bool
  dead : Bool
  waiting : List Msg
  deriving DecidableEq, Repr

/-- A write-back and invalidation pass (R188): the dirty lines it has still to write back, and the
threads whose wedges complete with it. -/
structure WbPass where
  todo : List Nat
  wedges : List Nat
  deriving DecidableEq, Repr

/-- A cached translation (R31): context, virtual page (address / page size), log2 of the page size, and the
leaf entry; `ats` is a translation that the host answered: the page that it gave, and the untranslated page (R34, R35). -/
structure TuEntry where
  ctx : Nat
  vpage : Nat
  log2 : Nat
  pte : W64
  ats : Option (Nat × Nat)
  deriving DecidableEq, Repr

/-- A haul channel's host page (R34, R276): none is asked for, one is, or one was refused. -/
inductive ChainPage where
  | idle | asked | refused
  deriving DecidableEq, Repr

/-- What a haul channel has read and not yet written (R269): source bytes `n` to `n + len` of the stream, within one aligned
line at an address; the tag of the read that is to bring them, and the bytes and their mark once it has. -/
structure Staged where
  n : Nat
  len : Nat
  addr : Nat
  tag : Nat
  data : Option (List Byte)
  poison : Bool
  deriving DecidableEq, Repr

/-- A haul channel (R269, R273, Table 14.5): registers, launch parameters, the descriptors read and still to
run (address and eight words; no words while a command chain has not read it), and the running check, its kind
and whether poison went into it. Then the ring whose command launched it, its place among the chains launched, the page it
waits for, the tag of the descriptor read in flight, the staging buffer (R269), the stream bytes whose reads are issued, the
length of the stream, the writes in flight (tag, stream byte, address), the lowest failing position with its status and
address, and the check word's write: its tag while in flight, and whether it is acknowledged (R277). -/
structure HaulCh where
  state : Nat
  code : Nat
  psn : Bool
  srck : Nat
  core : Nat
  thr : Nat
  ctx : Nat
  done : Nat
  bytes : Nat
  desc : Nat
  faddr : Nat
  pri : Nat
  fw : Bool
  virt : Bool
  lvl : Nat
  chain : List (Nat × List W64)
  check : Nat
  checkKind : Nat
  checkPsn : Bool
  ring : Option Nat
  born : Nat
  page : ChainPage
  descRead : Option Nat
  buf : List Staged
  issued : Nat
  total : Nat
  outs : List (Nat × Nat × Nat)
  failAt : Option (Nat × Nat × Nat)
  checkTag : Option Nat
  checked : Bool
  deriving DecidableEq, Repr

/-- An idle haul channel. -/
def HaulCh.init : HaulCh :=
  { state := 0, code := 0, psn := false, srck := 0, core := 0, thr := 0, ctx := 0, done := 0, bytes := 0,
    desc := 0, faddr := 0, pri := 0, fw := false, virt := false, lvl := 0, chain := [], check := 0,
    checkKind := 0, checkPsn := false, ring := none, born := 0, page := .idle, descRead := none, buf := [], issued := 0,
    total := 0, outs := [], failAt := none, checkTag := none, checked := false }

/-- An entry of a stream queue or lane: data, marker bit, poison bit (R251). -/
structure SEntry where
  data : V512
  marker : Bool
  poison : Bool
  deriving DecidableEq, Repr

/-- A stream queue (R250): entries in the queue, entries on its lanes, credits on their way back, entries
flushed, whether its producer has closed (R263), and whether the marker still waits for a credit. -/
structure SQueue where
  q : List SEntry
  lane : List SEntry
  returning : Nat
  flushed : Nat
  closed : Bool
  owes : Bool
  deriving DecidableEq, Repr

/-- An empty queue. -/
def SQueue.init : SQueue := { q := [], lane := [], returning := 0, flushed := 0, closed := false, owes := false }

/-- A bench: cache (Table 15.5), translation unit and channel monitor (Table 22.7), haul engine
(Table 14.5), stream switch (Table 13.5). -/
structure Bench where
  ways : Tbl Way
  plru : Tbl (BitVec 16)
  fetches : List Fetch
  pass : Option WbPass
  bits : BitVec 64
  wayen : BitVec 16
  wayon : BitVec 16
  cleaning : Bool
  bypass : Bool
  hits : W64
  misses : W64
  wblines : W64
  bcCorr : Nat
  bcUncorr : Nat
  bcTagpar : Nat
  bcWrap : BitVec 4
  tu : List TuEntry
  tuCtr : List (Nat × Nat × W64)
  tuHits : W64
  tuMisses : W64
  tuWrap : BitVec 2
  pubs : W64
  refused : W64
  cmWrap : BitVec 2
  haul : Tbl HaulCh
  haulStop : BitVec 16
  haulBeats : W64
  haulWrap : Bool
  haulTurn : Tbl Nat
  ssEn : Bool
  ssRegion : Nat
  ssLoaded : Bool
  ssState : Nat
  ssSection : Nat
  ssWrap : W64
  qcfg : Tbl W64
  ucfg0 : Tbl W64
  ucfg1 : Tbl W64
  zbind : Tbl W64
  queues : Tbl SQueue
  qstall : Tbl W64
  ustall : Tbl W64
  mergeTurn : Tbl Nat
  lastHits : W64
  lastMisses : W64
  slowRuns : Nat
  zDone : NSet
  deriving DecidableEq, Repr

/-- A bench at its Reset values (BC_WAYEN and WAYON 0xFFFF, Table 15.5). -/
def Bench.init : Bench :=
  { ways := [], plru := [], fetches := [], pass := none, bits := 0, wayen := 0xFFFF, wayon := 0xFFFF,
    cleaning := false, bypass := false, hits := 0, misses := 0, wblines := 0, bcCorr := 0, bcUncorr := 0,
    bcTagpar := 0, bcWrap := 0, tu := [], tuCtr := [], tuHits := 0, tuMisses := 0, tuWrap := 0, pubs := 0,
    refused := 0, cmWrap := 0, haul := [], haulStop := 0, haulBeats := 0, haulWrap := false, haulTurn := [], ssEn := false,
    ssRegion := 0, ssLoaded := false, ssState := 0, ssSection := 0, ssWrap := 0, qcfg := [], ucfg0 := [],
    ucfg1 := [], zbind := [], queues := [], qstall := [], ustall := [], mergeTurn := [],
    lastHits := 0, lastMisses := 0, slowRuns := 0, zDone := [] }

/-- A watch (R222, R223): home, line, thread (core × 8 + number), whether it is broken, and the virtual page
it was made through (context, address / 64 KiB). -/
structure Watch where
  home : HomeId
  line : Nat
  thr : Nat
  broken : Bool
  page : Option (Nat × Nat)
  deriving DecidableEq, Repr

/-- A lock on a line (R224). -/
structure Lock where
  home : HomeId
  line : Nat
  thr : Nat
  deriving DecidableEq, Repr

/-- An HBM home and its stack (R299 to R304): lines in the write buffer not yet retired, refreshes done,
self-refresh, the doubled rate above 85 °C, and the stack temperature in °C. -/
structure Stack where
  wbuf : List Nat
  refreshes : Nat
  selfRefresh : Bool
  fast : Bool
  temp : Nat
  href : Nat
  deriving DecidableEq, Repr

/-- A skip transfer (R296 to R298): the launch value, the source of the launch, the ring of a command's, its descriptor once read,
how many beats of it have moved (R297), and its outcome. -/
structure SkipJob where
  value : W64
  srck : Nat
  core : Nat
  thr : Nat
  ring : Option Nat
  running : Bool
  code : Nat
  psn : Bool
  skipped : Nat
  beat : Nat
  words : List W64
  faddr : Nat
  deriving DecidableEq, Repr

/-- An event ring (R344 to R353): of a context (0 to 63) or a PF's device ring (64 and 65). -/
structure EvRing where
  en : Bool
  port : Nat
  base : Nat
  log2n : Nat
  vector : Nat
  modcount : Nat
  modtime : Nat
  written : Nat
  head : Nat
  drops : Nat
  dropPrio : List Nat
  sinceMsg : Nat
  firstStamp : Nat
  fence : Nat
  returning : Bool
  spilled : List (Record × Nat)
  firstSpill : W64
  lastPoll : Nat
  deriving DecidableEq, Repr

/-- A disabled event ring; LOG2N 6 (Table 17.1). -/
def EvRing.init : EvRing :=
  { en := false, port := 0, base := 0, log2n := 6, vector := 0, modcount := 0, modtime := 0, written := 0,
    head := 0, drops := 0, dropPrio := [0, 0, 0], sinceMsg := 0, firstStamp := 0, fence := 0, returning := false,
    spilled := [], firstSpill := 0, lastPoll := 0 }

/-- A command packet: its words, word 0 the header (Table 17.2). -/
abbrev Packet := List W64

/-- What a ring's running command waits for (R328, R338, R339, R343). -/
inductive CmdWait where
  | ready
  | begun
  | launched
  | waiting (cell : CellId) (target : W64) (met : Bool) (since limit : Nat)
  | fenced (todo : List Nat)
  | changing (region : Nat)
  | signalled
  | halting
  deriving DecidableEq, Repr

/-- A command ring (R325 to R331): registers of Table 17.1, tail, CMD_HEAD, failed attempts, the packet
dispatched with its progress, an open group (number, and members with the status of the check on their arrival, R231), the number of
a group discarded under R232 (0 none), and the order number of the packet's read (R329). -/
structure Ring where
  base : Nat
  en : Bool
  log2n : Nat
  gen : BitVec 2
  badtail : Bool
  cfgerr : Bool
  rderr : Bool
  tail : BitVec 32
  head : BitVec 32
  attempts : Nat
  cur : Option Packet
  st : CmdWait
  group : Option (Nat × List (Packet × Nat))
  discard : Nat
  readNo : Nat
  deriving DecidableEq, Repr

/-- A LAUNCH in progress (R338): context, cores named, report buffer, capacity, whether STOP ended it, and the host ports whose
flush reads are still out once its part has ended (R194). -/
structure Launch where
  ring : RingRef
  ctx : Nat
  tag : Nat
  cores : List Nat
  lost : List Nat
  report : W64
  cap : Nat
  stopped : Bool
  flush : Option (List Nat)
  deriving DecidableEq, Repr

/-- A context (R311, R337; Tables 10.7, 12.4, 13.8, 7.9, 17.5). `wbHeld` lists its weighbridge cells as
(weighbridge × 8192 + cell) × 2 + 1 for a CREDIT cell (R199, R200); `quietMark` is what the quiet count was
started on, and `acts` counts the commands, releases and cell operations that touched it (R212). -/
structure Ctx where
  port : Nat
  fn : Nat
  pasid : Nat
  mode : Nat
  virt : Bool
  grant : List Nat
  root : Nat
  frames : List Nat
  order : Option (List Nat)
  lcore : List Nat
  quiet : Nat
  wake : Bool
  stall : Nat
  drain : Nat
  thresh : BitVec 16
  minconv : BitVec 16
  event : Bool
  vbase1 : W64
  ended : Bool
  halted : Bool
  quietSince : Option Nat
  confirming : Bool
  wbHeld : List Nat
  quietMark : List Nat
  acts : Nat
  deriving DecidableEq, Repr

/-- A stream region (R247, R261, R262): context, rectangle, participating benches, image words, section, state, the ring and tag of
its STREAM_LOAD, the change in progress and the pacer count at the start of its step 2. -/
structure Region where
  ctx : Nat
  x0 : Nat
  y0 : Nat
  w : Nat
  h : Nat
  parts : List Nat
  image : List W64
  secno : Nat
  state : Nat
  ring : RingRef
  tag : Nat
  target : Option Nat
  newImage : Option (List W64)
  unload : Bool
  flush : Bool
  bycmd : Option RingRef
  since : Nat
  flushed : Nat
  met : Bool
  deriving DecidableEq, Repr

/-- What a host page is asked for (R34): an instruction of the thread, with the fault that a refusal raises; the frame or vector of
an exception entry, with the exception, whether it is an interrupt, and the PC of its frame; or a haul channel's chain. -/
inductive PageFor where
  | instr (fault : Exn)
  | entry (e : Exn) (intr : Bool) (pc : W64)
  | chain (ch : Nat)
  deriving DecidableEq, Repr

/-- A page request of R34: context, node, 4 KiB page (virtual and host), the thread that waits, whether PRI has been
sent and the pacer count it was sent at, and what the page is for. -/
structure PageReq where
  ctx : Nat
  node : Nat
  vpage : Nat
  hostPage : Nat
  core : Nat
  thr : Nat
  write : Bool
  pri : Bool
  since : Nat
  why : PageFor
  deriving DecidableEq, Repr

/-- A link port (R354 to R369, Table 18.6): registers, the link layer's sequence numbers, replay buffer, waiting
messages with the pacer count they came at, credits in use by virtual channel, and the messages received that wait in the island's FIFO (R55); `againSeq` and `again` are the
flit replayed last and how often in succession. -/
structure Link where
  en : Bool
  rate : BitVec 2
  dim : Bool
  peerv : Bool
  peerdev : BitVec 8
  peerport : BitVec 3
  state : Nat
  runRate : BitVec 2
  width : Nat
  laneOk : BitVec 8
  fenced : BitVec 8
  gotDev : BitVec 8
  gotPort : BitVec 3
  gotGen : BitVec 4
  feccor : W64
  fecunc : W64
  replay : W64
  retrains : Nat
  discards : Nat
  downs : Nat
  wrap : BitVec 3
  discardSeen : Bool
  nextTx : Nat
  nextRx : Nat
  unacked : List (Nat × LinkMsg)
  queue : List (LinkMsg × Nat)
  credits : Tbl Nat
  rx : List (List LinkMsg)
  needReplay : Option Nat
  lastUnc : W64
  lastCor : W64
  goodRuns : Nat
  trainedOnce : Bool
  again : Nat
  againSeq : Nat
  deriving DecidableEq, Repr

/-- A link port after reset. -/
def Link.init : Link :=
  { en := false, rate := 0, dim := false, peerv := false, peerdev := 0, peerport := 0, state := 0,
    runRate := 0, width := 0, laneOk := 0, fenced := 0, gotDev := 0, gotPort := 0, gotGen := 0, feccor := 0,
    fecunc := 0, replay := 0, retrains := 0, discards := 0, downs := 0, wrap := 0, discardSeen := false,
    nextTx := 0, nextRx := 0, unacked := [], queue := [], credits := [], rx := [], needReplay := none,
    lastUnc := 0, lastCor := 0, goodRuns := 0, trainedOnce := false,
    again := 0, againSeq := 0 }

/-- The exchange of R427 in `spdm` (0 none, 1 version, 2 capabilities, 3 algorithms) with the messages its signatures cover:
the first three pairs, certificates, and measurements. `sris`: the reference clock mode, SRIS or SRNS (R308). A host port's
endpoint (R307, R316, R320; Tables 16.4, 16.5, 22.10); `invDone`: the ATS invalidations completed (PASID, base, length; R35). -/
structure Port where
  linkUp : Bool
  perst : Bool
  sris : Bool
  stamp : W64
  downTicks : BitVec 32
  uptimeCopy : W64
  stateCopy : BitVec 4
  nctxCopy : List (Nat × Nat)
  goodCopy : Nat
  peerUp : Bool
  peerDown : BitVec 32
  aperture : BitVec 10
  apertureDead : Bool
  nodesel : BitVec 8
  errFlags : BitVec 4
  errOff : BitVec 24
  errKind : BitVec 8
  d3 : List Nat
  buf : List Record
  unmasked : NSet
  pendingVec : NSet
  aer : List Nat
  spdm : Nat
  vca : List Byte
  msgB : List Byte
  msgL : List Byte
  answer : List Byte
  answerStatus : Nat
  invDone : List (Nat × Nat × Nat)
  sent : List Nat
  deriving DecidableEq, Repr

/-- An endpoint at its Reset values. -/
def Port.init : Port :=
  { linkUp := false, perst := false, sris := true, stamp := 0, downTicks := 0, uptimeCopy := 0, stateCopy := 1, nctxCopy := [], goodCopy := 0,
    peerUp := false, peerDown := 0,
    aperture := 0, apertureDead := false, nodesel := 0, errFlags := 0, errOff := 0, errKind := 0, d3 := [],
    buf := [], unmasked := [], pendingVec := [], aer := [], spdm := 0, vca := [], msgB := [], msgL := [],
    answer := [], answerStatus := 0, invDone := [], sent := [] }

/-- A Unit Record (Table 19.8): counts, first and last stamps as (power-on cycle, management ticks), fence
stamp and reason, update sequence, whether a flash write is due and since when. -/
structure UnitRec where
  corr : Nat
  uncorr : Nat
  residue : Nat
  corrStamps : Option ((Nat × Nat) × (Nat × Nat))
  uncorrStamps : Option ((Nat × Nat) × (Nat × Nat))
  residueStamps : Option ((Nat × Nat) × (Nat × Nat))
  fenceStamp : Option (Nat × Nat)
  reason : Nat
  upd : Nat
  due : Option Nat
  deriving DecidableEq, Repr

/-- A unit with no event. -/
def UnitRec.init : UnitRec :=
  { corr := 0, uncorr := 0, residue := 0, corrStamps := none, uncorrStamps := none, residueStamps := none,
    fenceStamp := none, reason := 0, upd := 0, due := none }

/-- The governor (R389 to R398): the sample of the tick, package power, VCORE targets, what each regulator last took, both as they stood at the start of the tick, hold counts, which
conditions have been posted, PMBus failures, PRECISION records still to be sampled and those of the tick's sample (thread and tile), the tick at which firmware started, the SET_POLICY values as latched at
the start of the tick, the loops that have run in it, and each rail's last power (R390). -/
structure Gov where
  sample : Option GovInputs
  power : Nat
  target : Tbl Nat
  vout : Tbl Nat
  targetNow : Tbl Nat
  voutNow : Tbl Nat
  held : NSet
  holdTicks : Tbl Nat
  hotPosted : NSet
  capPosted : NSet
  pmbusFails : Nat
  pmbusPosted : Bool
  retry : NSet
  precision : List (Nat × Nat)
  precNow : List (Nat × Nat)
  started : Nat
  policyNow : Tbl Nat
  ran : NSet
  rails : Tbl Nat
  deriving DecidableEq, Repr

/-- The governor before its first tick; targets 800 mV (R416). -/
def Gov.init : Gov :=
  { sample := none, power := 0, target := [], vout := [], targetNow := [], voutNow := [], held := [], holdTicks := [], hotPosted := [], capPosted := [],
    pmbusFails := 0, pmbusPosted := false, retry := [], precision := [], precNow := [], started := 0, policyNow := [],
    ran := [], rails := [] }

/-- The boot flash (R418 to R420): board record and image slot as bytes, Unit Records as written. The fence
map stands in Dev.fenceMap. -/
structure Flash where
  board : List Byte
  image : List Byte
  records : Tbl UnitRec
  deriving DecidableEq, Repr

/-- The fuses (R421): slot hashes (32 octets; empty when unprogrammed), revoke bits, rollback counter. -/
structure Fuses where
  slots : Tbl (List Byte)
  revoke : BitVec 4
  rollback : Nat
  deriving DecidableEq, Repr

/-- The power states of Table 21.3. -/
inductive PowerState where
  | active | idle | deepIdle | off
  deriving DecidableEq, Repr

/-- Device-wide state: boot and firmware (R404, R417, R424), straps (R416), time (R53, R54), policy (R399),
fencing (R384), power states (R411), pins (R449, R450, R457). `hbmDue`: the HBM is still to be zeroed (step 5 of Table
21.2); `flashSeen`: the flash was read at step 4; `resetRing`: the ring whose RESET_DEVICE waits to start (R405). -/
structure Dev where
  fwState : BitVec 4
  heartbeat : W64
  uptime : W64
  ticks : Nat
  image : List Byte
  imgSrc : BitVec 2
  stage : BitVec 4
  fail : BitVec 8
  keyslot : BitVec 2
  svn : BitVec 7
  straps : BitVec 12
  refB : Bool
  noRef : Bool
  primary : Nat
  policy : Tbl Nat
  full : Bool
  devId : BitVec 8
  routes : Tbl (BitVec 8)
  fenceMap : NSet
  shipFenced : NSet
  windowStart : Nat
  window : Tbl Nat
  cycles : Nat
  power : PowerState
  idleTicks : Nat
  pwrgood : Bool
  devRstN : Bool
  waitRst : Option BoardInputs
  hbmDue : Bool
  flashSeen : Bool
  resetRing : Option Nat
  thermtrip : Bool
  alertHold : Bool
  alertFw : Bool
  alertHref : Bool
  href : BitVec 4
  blowDue : Bool
  smbus : List Byte
  deriving DecidableEq, Repr

/-- The state of the device. `hostPoison` lists the lines of host memory last written by a poisoned TLP (R280). -/
structure State where
  threads : Tbl Thread
  cores : Tbl Core
  nodes : Tbl Node
  benches : Tbl Bench
  hbm : Tbl Byte
  hbmPoison : NSet
  ls : Tbl Byte
  lsPoison : NSet
  coreCells : Tbl (BitVec 48)
  wbCells : Tbl (BitVec 48)
  wbWaits : List (Nat × Nat)
  watches : List Watch
  locks : List Lock
  hbmStacks : Tbl Stack
  skip : Tbl (List SkipJob)
  mesh : List Msg
  inbox : List Msg
  ctxs : Tbl Ctx
  rings : Tbl Ring
  evrings : Tbl EvRing
  seqs : Tbl (BitVec 32)
  launches : List Launch
  regions : Tbl Region
  pageReqs : Tbl PageReq
  slots : Tbl (Nat × Nat)
  ports : Tbl Port
  links : Tbl Link
  units : Tbl UnitRec
  hostMem : Tbl Byte
  hostPoison : NSet
  flash : Flash
  fuses : Fuses
  gov : Gov
  dev : Dev
  nextMsg : Nat
  fresh : Nat
  tick : Nat
  pending : List Instr
  deriving DecidableEq, Repr

/-- The device-wide state that follows power-on: FW_STATE 1 (Table 16.5), no image, straps not yet latched,
policies at their defaults, nothing fenced (log entry 7). -/
def Dev.init : Dev :=
  { fwState := 1, heartbeat := 0, uptime := 0, ticks := 0, image := [],
    imgSrc := 0, stage := 0, fail := 0, keyslot := 0, svn := 0, straps := 0, refB := false, noRef := false,
    primary := 0, policy := [], full := false, devId := 0, routes := [], fenceMap := [], shipFenced := [],
    windowStart := 0, window := [], cycles := 0, power := .active, idleTicks := 0, pwrgood := true,
    devRstN := true, waitRst := none, hbmDue := false, flashSeen := false, resetRing := none, thermtrip := false, alertHold := false,
    alertFw := false, alertHref := false, href := 15, blowDue := false, smbus := [] }

/-- The machine right after reset: every register at its Reset value, no context, nothing in flight, the
queue of commands empty; the boot of Table 21.2 has still to run (the command POWER_ON). -/
def State.reset : State :=
  { threads := [], cores := [], nodes := [], benches := [], hbm := [], hbmPoison := [], ls := [],
    lsPoison := [], coreCells := [], wbCells := [], wbWaits := [], watches := [], locks := [], hbmStacks := [],
    skip := [], mesh := [], inbox := [], ctxs := [], rings := [], evrings := [], seqs := [], launches := [],
    regions := [], pageReqs := [], slots := [], ports := [], links := [], units := [], hostMem := [], hostPoison := [],
    flash := { board := [], image := [], records := [] },
    fuses := { slots := (List.range 4).map fun k => (k, (List.range 32).map (Config.factorySlotHash k)),
               revoke := 0, rollback := 0 }, gov := Gov.init, dev := Dev.init, nextMsg := 0,
    fresh := 0, tick := 0, pending := [] }

/-- The outcome of a meaning. -/
abbrev Out := Host.Outcome State Fault Refusal

end Sys2Proof.Machine
end

