-- ==== Sys2Proof/Machine/Ops.lean ====
section
/-!
DEFINITION. The named operations over tables, registers, units and plain fields of the state, which every
meaning goes through.
-/
namespace Sys2Proof

/-- The entry of a table at a key. -/
def Tbl.get? {α : Type} : Tbl α → Nat → Option α
  | [], _ => none
  | (j, v) :: t, k => if j = k then some v else Tbl.get? t k

/-- The entry of a table at a key, or the default. -/
def Tbl.getD {α : Type} (t : Tbl α) (k : Nat) (d : α) : α := (Tbl.get? t k).getD d

/-- Set a table's entry, keeping the keys in rising order. -/
def Tbl.set {α : Type} : Tbl α → Nat → α → Tbl α
  | [], k, v => [(k, v)]
  | (j, w) :: t, k, v =>
    if k < j then (k, v) :: (j, w) :: t
    else if k = j then (k, v) :: t
    else (j, w) :: Tbl.set t k v

/-- Drop a table's entry. -/
def Tbl.erase {α : Type} : Tbl α → Nat → Tbl α
  | [], _ => []
  | (j, w) :: t, k => if j = k then t else (j, w) :: Tbl.erase t k

/-- The lowest number from `lo` up, trying `n` of them, at which the table has no entry. -/
def Tbl.free {α : Type} (t : Tbl α) (lo : Nat) : Nat → Option Nat
  | 0 => none
  | n + 1 => match Tbl.get? t lo with
    | none => some lo
    | some _ => Tbl.free t (lo + 1) n

/-- Membership in a set of numbers. -/
def NSet.has : NSet → Nat → Bool
  | [], _ => false
  | j :: t, k => if j = k then true else NSet.has t k

/-- Insert into a set, keeping it sorted and without repeats. -/
def NSet.add : NSet → Nat → NSet
  | [], k => [k]
  | j :: t, k => if k < j then k :: j :: t else if k = j then j :: t else j :: NSet.add t k

/-- Remove from a set. -/
def NSet.del : NSet → Nat → NSet
  | [], _ => []
  | j :: t, k => if j = k then t else j :: NSet.del t k

/-- A byte of memory; an address that is not listed reads as zero (R404 step 5, R174). -/
def memGet (m : Tbl Byte) (a : Nat) : Byte := Tbl.getD m a 0

/-- Write a byte of memory. Zero is what an unlisted address reads as, so it is never listed. -/
def memPut (m : Tbl Byte) (a : Nat) (b : Byte) : Tbl Byte :=
  if b = 0 then Tbl.erase m a else Tbl.set m a b

/-- The canonical form of a memory: addresses strictly rising, no entry equal to zero. -/
def memWf : Tbl Byte → Bool
  | [] => true
  | [(_, b)] => b != 0
  | (a, b) :: (a', b') :: t => (b != 0) && decide (a < a') && memWf ((a', b') :: t)

/-- The canonical form of a set of numbers. -/
def NSet.wf : NSet → Bool
  | [] => true
  | [_] => true
  | a :: b :: t => decide (a < b) && NSet.wf (b :: t)

/-- The number that bytes spell, byte 0 lowest (R5). -/
def leNat : List Byte → Nat
  | [] => 0
  | b :: t => b.toNat + 256 * leNat t

/-- The `n` low bytes of a number, byte 0 first (R5). -/
def leBytes : Nat → Nat → List Byte
  | 0, _ => []
  | n + 1, v => BitVec.ofNat 8 v :: leBytes n (v / 256)

/-- Bits [hi:lo] of a number. -/
def bits (v hi lo : Nat) : Nat := (v / 2 ^ lo) % 2 ^ (hi + 1 - lo)

/-- Bit i of a number. -/
def bit (v i : Nat) : Bool := v / 2 ^ i % 2 == 1

/-- A Bool as a number. -/
def b2n (b : Bool) : Nat := if b then 1 else 0

/-- Sign extension of the low `n` bits of a number to 64 bits. -/
def sext64 (n v : Nat) : W64 := ((BitVec.ofNat n v).signExtend 64)

/-- Replace the element at an index of a list. -/
def listSet {α : Type} : List α → Nat → α → List α
  | [], _, _ => []
  | _ :: t, 0, v => v :: t
  | a :: t, n + 1, v => a :: listSet t n v

namespace Machine

/-! ### Units and where they stand (R12, R13, Tables 1.1, 1.2) -/

/-- Node of HBM home Hn. -/
def homeNodes : List Nat :=
  [17, 22, 97, 102, 25, 30, 105, 110, 145, 150, 225, 230, 153, 158, 233, 238]

/-- Node of link port Ln. -/
def linkNodes : List Nat := [35, 84, 43, 92, 163, 212, 171, 220]

/-- Node of weighbridge Wn. -/
def wbNodes : List Nat := [53, 61, 181, 189]

/-- Node of the endpoint of a port (PA 66, PB 74). -/
def portNode (port : Nat) : Nat := if port = 0 then 66 else 74

/-- The management node MG. -/
def mgNode : Nat := 194

/-- The security and boot node SB. -/
def sbNode : Nat := 202

/-- Position of a number in a list. -/
def indexOf (l : List Nat) (n : Nat) : Option Nat :=
  match l with
  | [] => none
  | a :: t => if a = n then some 0 else (indexOf t n).map (· + 1)

/-- Kinds of node, as NODE_INFO.KIND numbers them (Table 22.5). -/
def nodeKind (n : Nat) : Nat :=
  if homeNodes.contains n then 1 else if linkNodes.contains n then 2
  else if n = 66 then 3 else if n = 74 then 4 else if n = mgNode then 5 else if n = sbNode then 6
  else if wbNodes.contains n then 7 else 0

/-- A bench (R13): every node that is not one of the 32 port nodes. -/
def isBench (n : Nat) : Bool := decide (n < 256) && nodeKind n == 0

/-- Quadrant of a node (R12). -/
def quadOf (n : Nat) : Nat := (n % 16) / 8 + 2 * (n / 16 / 8)

/-- A physical core index that names a core (R16). -/
def isCore (c : Nat) : Bool := isBench (c / 8)

/-- The benches of the device in ascending node ID. -/
def benches : List Nat := (List.range 256).filter isBench

/-- Every physical core index, ascending. -/
def allCores : List Nat := (List.range 2048).filter isCore

/-- Unit name [23:0] of Table 19.5. -/
def unitName (kind index : Nat) : Nat := kind + 256 * index

/-- A unit of this kind and index is in the fence map (R384). -/
def isFenced (s : State) (kind index : Nat) : Bool := NSet.has s.dev.fenceMap (unitName kind index)

/-- A core is out of service: itself fenced, or its bench (R380, R381). -/
def coreFenced (s : State) (c : Nat) : Bool := isFenced s 1 c || isFenced s 2 (c / 8)

/-- A good core (R2, R17). -/
def goodCore (s : State) (c : Nat) : Bool := isCore c && !coreFenced s c

/-- The device's good-core count (R2, R388). -/
def goodCount (s : State) : Nat := (allCores.filter (goodCore s)).length

/-! ### Reading and writing the tables of units -/

/-- A thread, by key core × 8 + number (its SRCID in Table 17.9). -/
def thr (s : State) (k : Nat) : Thread := Tbl.getD s.threads k Thread.init
/-- Update a thread. -/
def modThr (s : State) (k : Nat) (f : Thread → Thread) : State :=
  { s with threads := Tbl.set s.threads k (f (thr s k)) }
/-- Update a thread's system registers. -/
def modSys (s : State) (k : Nat) (f : SysRegs → SysRegs) : State :=
  modThr s k fun t => { t with sys := f t.sys }

/-- A core. -/
def core (s : State) (c : Nat) : Core := Tbl.getD s.cores c Core.init
/-- Update a core. -/
def modCore (s : State) (c : Nat) (f : Core → Core) : State :=
  { s with cores := Tbl.set s.cores c (f (core s c)) }

/-- A node's own registers. -/
def node (s : State) (n : Nat) : Node := Tbl.getD s.nodes n Node.init
/-- Update a node's own registers. -/
def modNode (s : State) (n : Nat) (f : Node → Node) : State :=
  { s with nodes := Tbl.set s.nodes n (f (node s n)) }

/-- A bench. -/
def bench (s : State) (n : Nat) : Bench := Tbl.getD s.benches n Bench.init
/-- Update a bench. -/
def modBench (s : State) (n : Nat) (f : Bench → Bench) : State :=
  { s with benches := Tbl.set s.benches n (f (bench s n)) }

/-- A haul channel. -/
def haulCh (s : State) (n c : Nat) : HaulCh := Tbl.getD (bench s n).haul c HaulCh.init
/-- Update a haul channel. -/
def modHaul (s : State) (n c : Nat) (f : HaulCh → HaulCh) : State :=
  modBench s n fun b => { b with haul := Tbl.set b.haul c (f (Tbl.getD b.haul c HaulCh.init)) }

/-- A stream queue. -/
def squeue (s : State) (n q : Nat) : SQueue := Tbl.getD (bench s n).queues q SQueue.init
/-- Update a stream queue. -/
def modQueue (s : State) (n q : Nat) (f : SQueue → SQueue) : State :=
  modBench s n fun b => { b with queues := Tbl.set b.queues q (f (Tbl.getD b.queues q SQueue.init)) }

/-- A host port. -/
def port (s : State) (p : Nat) : Port := Tbl.getD s.ports p Port.init
/-- Update a host port. -/
def modPort (s : State) (p : Nat) (f : Port → Port) : State :=
  { s with ports := Tbl.set s.ports p (f (port s p)) }

/-- A link port. -/
def link (s : State) (p : Nat) : Link := Tbl.getD s.links p Link.init
/-- Update a link port. -/
def modLink (s : State) (p : Nat) (f : Link → Link) : State :=
  { s with links := Tbl.set s.links p (f (link s p)) }

/-- An HBM home. -/
def stack (s : State) (n : Nat) : Stack :=
  Tbl.getD s.hbmStacks n { wbuf := [], refreshes := 0, selfRefresh := false, fast := false, temp := 0, href := n / 4 }
/-- Update an HBM home. -/
def modStack (s : State) (n : Nat) (f : Stack → Stack) : State :=
  { s with hbmStacks := Tbl.set s.hbmStacks n (f (stack s n)) }

/-- Update a context that exists. -/
def modCtx (s : State) (i : Nat) (f : Ctx → Ctx) : State :=
  match Tbl.get? s.ctxs i with
  | none => s
  | some c => { s with ctxs := Tbl.set s.ctxs i (f c) }

/-- Key of a command ring: the SRCID of class 0 (Table 17.9). -/
def ringKey (r : RingRef) : Nat := r.port.toNat * 512 + r.fn.toNat * 16 + r.ring.toNat

/-- GEN that STRAP_FCP gives (Table 21.6). -/
def strapGen (s : State) : BitVec 2 :=
  let g := bits s.dev.straps.toNat 9 8
  if g = 0 then 3#2 else BitVec.ofNat 2 g

/-- A command ring; GEN resets from the strap (Table 17.1). -/
def ring (s : State) (k : Nat) : Ring :=
  Tbl.getD s.rings k
    { base := 0, en := false, log2n := 4, gen := strapGen s, badtail := false, cfgerr := false,
      rderr := false, tail := 0, head := 0, attempts := 0, cur := none, st := .ready, group := none,
      discard := 0, readNo := 0 }
/-- Update a command ring. -/
def modRing (s : State) (k : Nat) (f : Ring → Ring) : State :=
  { s with rings := Tbl.set s.rings k (f (ring s k)) }

/-- An event ring: 0 to 63 of a context, 64 and 65 the device rings of ports A and B. -/
def evring (s : State) (k : Nat) : EvRing :=
  Tbl.getD s.evrings k { EvRing.init with port := if k = 65 then 1 else 0 }
/-- Update an event ring. -/
def modEvring (s : State) (k : Nat) (f : EvRing → EvRing) : State :=
  { s with evrings := Tbl.set s.evrings k (f (evring s k)) }

/-- A Unit Record. -/
def unitRec (s : State) (name : Nat) : UnitRec := Tbl.getD s.units name UnitRec.init
/-- Update a Unit Record. -/
def modUnit (s : State) (name : Nat) (f : UnitRec → UnitRec) : State :=
  { s with units := Tbl.set s.units name (f (unitRec s name)) }

/-- Update the device-wide state. -/
def modDev (s : State) (f : Dev → Dev) : State := { s with dev := f s.dev }

/-- The default of a SET_POLICY parameter (Tables 19.7, 20.3, 21.5, 16.7); 0x0001 stands in Dev.full. -/
def policyDefault : Nat → Nat
  | 0x0002 => 2000
  | 0x0100 => 1
  | 0x0101 => 36000000
  | 0x0102 => 8
  | 0x0103 => 2
  | 0x0104 => 4096
  | 0x0105 => 2
  | 0x0106 => 4
  | 0x0107 => 16384
  | 0x0108 => 1073741824
  | 0x0200 => 2200
  | 0x0201 => 800
  | 0x0202 => 600
  | 0x0203 => 95
  | 0x0204 => 90
  | 0x0205 => 1000
  | 0x0206 => 1
  | 0x0207 => 200
  | 0x0208 => 1
  | 0x0209 => 1000000
  | 0x020A => 16
  | 0x020B => 1
  | 0x020C => 10000
  | 0x020D => 1
  | 0x0300 => 100
  | _ => 0

/-- The value of a SET_POLICY parameter now in force; under STRAP_SAFEV, VMAX reads 650 until it is set (Table 21.6). -/
def policy (s : State) (p : Nat) : Nat :=
  if p = 0x0001 then b2n s.dev.full
  else Tbl.getD s.dev.policy p (if p = 0x0201 ∧ bit s.dev.straps.toNat 11 then 650 else policyDefault p)

/-- The device does nothing: Off, or waiting for its reset pin (R411, R450). -/
def dark (s : State) : Bool := s.dev.power == .off || s.dev.waitRst.isSome

/-- A quadrant does nothing: its rail is held (R45), or the device is dark. -/
def heldQuad (s : State) (q : Nat) : Bool := NSet.has s.gov.held q || dark s

/-- The quadrant of a node is held. -/
def held (s : State) (n : Nat) : Bool := heldQuad s (quadOf n)

/-! ### General, vector and predicate registers (R60) -/

/-- Read x register `r` of a thread; x0 reads as zero. -/
def rx (s : State) (k : Nat) (r : BitVec 5) : W64 :=
  if r = 0 then 0 else Tbl.getD (thr s k).x r.toNat 0

/-- Write x register `r` of a thread; writes to x0 are discarded. -/
def wx (s : State) (k : Nat) (r : BitVec 5) (v : W64) : State :=
  if r = 0 then s else modThr s k fun t => { t with x := Tbl.set t.x r.toNat v }

/-- Read vector register `r`. -/
def rv (s : State) (k r : Nat) : V512 := Tbl.getD (thr s k).v r 0
/-- Write vector register `r`. -/
def wv (s : State) (k r : Nat) (v : V512) : State :=
  modThr s k fun t => { t with v := Tbl.set t.v r v }

/-- Read predicate register `r`. -/
def rp (s : State) (k r : Nat) : W64 := Tbl.getD (thr s k).p r 0
/-- Write predicate register `r`. -/
def wp (s : State) (k r : Nat) (v : W64) : State :=
  modThr s k fun t => { t with p := Tbl.set t.p r v }

/-- Set a thread's PC. -/
def setPc (s : State) (k : Nat) (pc : W64) : State := modThr s k fun t => { t with pc := pc }

/-- The context whose code a thread's core runs. -/
def ctxOf (s : State) (k : Nat) : Option Nat := (core s (k / 8)).ctx

/-- The keys of the threads that a core in its mode has (R84). -/
def coreThreads (s : State) (c : Nat) : List Nat := (List.range (core s c).mode).map (c * 8 + ·)

/-- The cores of a context's grant that are good, ascending. -/
def grantCores (s : State) (x : Ctx) : List Nat :=
  ((x.grant.flatMap fun n => (List.range 8).map (n * 8 + ·))).filter (goodCore s)

/-- Draw a name for a message. -/
def newMsg (s : State) : Nat × State := (s.nextMsg, { s with nextMsg := s.nextMsg + 1 })

/-- The pacer count of a node (R49). -/
def pacerOf (s : State) (n : Nat) : Nat := (node s n).pacer.toNat

/-- Pacer ticks of node `n` since a recorded count, modulo 2⁶⁴ (R51). -/
def pacerSince (s : State) (n since : Nat) : Nat := (pacerOf s n + 2 ^ 64 - since) % 2 ^ 64

end Machine
end Sys2Proof
end

