-- ==== Sys2Proof/Machine/Crypto.lean ====
section
/-!
DEFINITION. The digests and signatures of the boot check (R421, R422): SHA-256 (FIPS 180-4), and RSASSA-PSS with
SHA-256, MGF1 with SHA-256 and a salt of 32 bytes (PKCS #1 v2.2), over lists of octets.
-/
namespace Sys2Proof

/-! ### SHA-256 -/

/-- The 256-bit numbers whose eight 32-bit fields, the highest first, are the round constants in order: the leading
32 fraction bits of the cube roots of the first 64 primes. -/
def shaRows : List Nat :=
  [0x428a2f9871374491b5c0fbcfe9b5dba53956c25b59f111f1923f82a4ab1c5ed5,
   0xd807aa9812835b01243185be550c7dc372be5d7480deb1fe9bdc06a7c19bf174,
   0xe49b69c1efbe47860fc19dc6240ca1cc2de92c6f4a7484aa5cb0a9dc76f988da,
   0x983e5152a831c66db00327c8bf597fc7c6e00bf3d5a7914706ca635114292967,
   0x27b70a852e1b21384d2c6dfc53380d13650a7354766a0abb81c2c92e92722c85,
   0xa2bfe8a1a81a664bc24b8b70c76c51a3d192e819d6990624f40e3585106aa070,
   0x19a4c1161e376c082748774c34b0bcb5391c0cb34ed8aa4a5b9cca4f682e6ff3,
   0x748f82ee78a5636f84c878148cc7020890befffaa4506cebbef9a3f7c67178f2]

/-- The eight 32-bit fields of a number, the highest first. -/
def fields8 (v : Nat) : List (BitVec 32) := (List.range 8).map fun i => BitVec.ofNat 32 (v >>> (224 - 32 * i))

/-- The number that octets spell, the first highest. -/
def beNat (b : List Byte) : Nat := b.foldl (fun a x => a * 256 + x.toNat) 0
/-- The `n` low octets of a number, the highest first. -/
def beBytes (n v : Nat) : List Byte := (leBytes n v).reverse

/-- The padded message. -/
def shaPad (m : List Byte) : List Byte :=
  m ++ [0x80] ++ List.replicate ((119 - m.length % 64) % 64) 0 ++ beBytes 8 (m.length * 8)

/-- The exclusive or of a word turned right by three amounts. -/
def turn3 (x : BitVec 32) (i j k : Nat) : BitVec 32 := (x.rotateRight i ^^^ x.rotateRight j) ^^^ x.rotateRight k
/-- The exclusive or of a word turned right by two amounts and shifted right by a third. -/
def turn2s (x : BitVec 32) (i j k : Nat) : BitVec 32 := (x.rotateRight i ^^^ x.rotateRight j) ^^^ (x >>> k)

/-- The compression works on two registers that each shift by a word a round: the last four words of the `a` sequence
and of the `e` sequence, the newest first. -/
structure ShaRegs where
  av : List (BitVec 32)
  ev : List (BitVec 32)
  deriving DecidableEq, Repr

/-- The word at a place of a register. -/
def nth32 (l : List (BitVec 32)) (i : Nat) : BitVec 32 := l.getD i 0

/-- Shift a word into a register. -/
def shiftIn (w : BitVec 32) (l : List (BitVec 32)) : List (BitVec 32) := w :: l.take 3

/-- Shift in the two words of a round; `kw` is the round constant plus the schedule word. -/
def ShaRegs.next (r : ShaRegs) (kw : BitVec 32) : ShaRegs :=
  let p := nth32 r.av
  let q := nth32 r.ev
  let choose := q 2 ^^^ (q 0 &&& (q 1 ^^^ q 2))
  let most := (p 0 &&& (p 1 ||| p 2)) ||| (p 1 &&& p 2)
  let t := kw + q 3 + choose + turn3 (q 0) 6 11 25
  { av := shiftIn (t + most + turn3 (p 0) 2 13 22) r.av, ev := shiftIn (p 3 + t) r.ev }

/-- Run the rounds for the constants left; `win` holds the sixteen schedule words that come next, and each round adds
the word sixteen places on. -/
def ShaRegs.run : List (BitVec 32) → List (BitVec 32) → ShaRegs → ShaRegs
  | [], _, r => r
  | k :: ks, win, r =>
    let w := nth32 win 0
    let far := w + turn2s (nth32 win 1) 7 18 3 + nth32 win 9 + turn2s (nth32 win 14) 17 19 10
    ShaRegs.run ks (win.drop 1 ++ [far]) (r.next (k + w))

/-- The sum of two registers, word by word. -/
def ShaRegs.sum (r t : ShaRegs) : ShaRegs := { av := r.av.zipWith (· + ·) t.av, ev := r.ev.zipWith (· + ·) t.ev }

/-- The big-endian 32-bit words of octets. -/
def words32 (b : List Byte) (n : Nat) : List (BitVec 32) :=
  (List.range n).map fun i => BitVec.ofNat 32 (beNat ((b.drop (4 * i)).take 4))

/-- Take in `n` blocks of 64 octets. -/
def shaBlocks : Nat → ShaRegs → List Byte → ShaRegs
  | 0, r, _ => r
  | n + 1, r, m => shaBlocks n (r.sum (ShaRegs.run (shaRows.flatMap fields8) (words32 m 16) r)) (m.drop 64)

/-- The registers before the first block: the leading 32 fraction bits of the square roots of the first eight primes. -/
def shaStart : ShaRegs :=
  let w := fields8 0x6a09e667bb67ae853c6ef372a54ff53a510e527f9b05688c1f83d9ab5be0cd19
  { av := w.take 4, ev := w.drop 4 }

/-- SHA-256 of a message. -/
def sha256 (m : List Byte) : List Byte :=
  let p := shaPad m
  let r := shaBlocks (p.length / 64) shaStart p
  (r.av ++ r.ev).flatMap fun w => beBytes 4 w.toNat

/-! ### RSASSA-PSS -/

/-- MGF1 with SHA-256. -/
def mgf1 (seed : List Byte) (len : Nat) : List Byte :=
  ((List.range ((len + 31) / 32)).flatMap fun i => sha256 (seed ++ beBytes 4 i)).take len

/-- Square a number `k` times modulo `n`. -/
def squareMod (n : Nat) : Nat → Nat → Nat
  | 0, v => v
  | k + 1, v => squareMod n k (v * v % n)

/-- RSA with exponent 65,537 = 2¹⁶ + 1. -/
def rsaOpen (n sig : Nat) : Nat := squareMod n 16 sig * sig % n

/-- EMSA-PSS-VERIFY for an RSA-3072 modulus: 384 octets, of whose first the top bit is unused. -/
def pssCheck (msgHash em : List Byte) : Bool :=
  let masked := em.take 351
  let hv := (em.drop 351).take 32
  let db := (masked.zip (mgf1 hv 351)).map fun p => p.1 ^^^ p.2
  let db := (db.headD 0 &&& 0x7F) :: db.drop 1
  em.drop 383 == [0xBC] && masked.headD 0 &&& 0x80 == 0 && db.take 319 == List.replicate 318 0 ++ [1] &&
    hv == sha256 (List.replicate 8 0 ++ msgHash ++ db.drop 319)

/-- A signature of 384 octets over a message is valid under a modulus of 384 octets (RFC 8017 8.1.2). -/
def rsaPssOk (modulus sig msg : List Byte) : Bool :=
  let n := beNat modulus
  let s := beNat sig
  decide (2 ^ 3071 ≤ n) && decide (n < 2 ^ 3072) && decide (s < n) && pssCheck (sha256 msg) (beBytes 384 (rsaOpen n s))

namespace Machine

/-! ### Firmware images (R420 to R422) -/

/-- Octets `lo` to `hi - 1` of an image. -/
def imgSpan (b : List Byte) (lo hi : Nat) : List Byte := (b.drop lo).take (hi - lo)
/-- A word of an image header. -/
def imgField (b : List Byte) (off : Nat) : Nat := leNat (imgSpan b off (off + 8))
/-- Word 1 of a header: HVER, KEYSLOT, SVN, COMMIT, REVOKE. -/
def imgFlags (b : List Byte) : Nat := imgField b 8
/-- KEYSLOT. -/
def imgSlot (b : List Byte) : Nat := bits (imgFlags b) 17 16
/-- SVN. -/
def imgSvn (b : List Byte) : Nat := bits (imgFlags b) 30 24
/-- BODYLEN. -/
def imgBodyLen (b : List Byte) : Nat := imgField b 0x10
/-- The header and body of an image, without what may follow them. -/
def imgWhole (b : List Byte) : List Byte := b.take (1024 + imgBodyLen b)

/-- Every octet of a span is zero. -/
def zeroSpan (b : List Byte) (lo hi : Nat) : Bool := (imgSpan b lo hi).all (· == 0)

/-- The field rules of Table 21.9 (step 2). -/
def imgHeaderOk (b : List Byte) : Bool :=
  let f := imgFlags b
  let n := imgBodyLen b
  decide (1024 ≤ b.length) && imgField b 0 == 0x4C41564F57454D46 && bits f 15 0 == 1 && bits f 23 18 == 0 && decide (bits f 30 24 ≤ 64) &&
    bits f 63 36 == 0 && !bit f (32 + imgSlot b) && n % 1024 == 0 && decide (1024 ≤ n) && decide (n ≤ 32 * 2 ^ 20 - 1024) &&
    decide (imgField b 0x18 < n) && imgField b 0x18 % 4 == 0 && beNat (imgSpan b 0x1C0 0x1C8) == 65537 && zeroSpan b 0x1C8 0x200 &&
    zeroSpan b 0x380 0x400

/-- The hash that a key slot holds; nothing where it is unprogrammed (R421). -/
def slotHash (s : State) (k : Nat) : Option (List Byte) :=
  match Tbl.get? s.fuses.slots k with
  | some h => if h.all (· == 0) then none else some h
  | none => none

/-- FAIL code of steps 2 to 7 of Table 21.10, 0 where all pass. -/
def imageFail (s : State) (b : List Byte) : Nat :=
  if !imgHeaderOk b then 2
  else match slotHash s (imgSlot b) with
    | none => 3
    | some h =>
      if bit s.fuses.revoke.toNat (imgSlot b) then 3
      else if sha256 (imgSpan b 0x40 0x1C8) ≠ h then 4
      else if !rsaPssOk (imgSpan b 0x40 0x1C0) (imgSpan b 0x200 0x380) (imgSpan b 0 0x200) then 5
      else if imgSvn b < s.fuses.rollback then 6
      else if b.length < 1024 + imgBodyLen b ∨ sha256 (imgSpan b 1024 (1024 + imgBodyLen b)) ≠ imgSpan b 0x20 0x40 then 7
      else 0

end Machine
end Sys2Proof
end

