-- ==== Sys2Proof/Machine/Events.lean ====
section
/-!
DEFINITION. Messages into the mesh and event records at their sources: who makes a record, its sequence
number, its ring and its priority (R282, R344 to R349, Tables 17.8 to 17.10), the COUNTER_WRAP rule of
R214, and the Unit Records' counting (R385).
-/
namespace Sys2Proof.Machine

/-! ### Messages (R282, R283, R286) -/

/-- Put a message of a class into the mesh at its source node's local port. Of the messages at a local port, the oldest stand in its
flit buffers and the others wait in their units (R283). -/
def sendMsg (s : State) (cls src dst : Nat) (pay : Payload) : State :=
  { s with mesh := s.mesh ++ [{ id := s.nextMsg, cls := cls, src := src, dst := dst, pos := src, inp := .here, flit := s.nextMsg, pay := pay, since := pacerOf s src, arr := 0 }]
           nextMsg := s.nextMsg + 1 }

/-- Hand a message to a unit of its own node without the mesh: a core to the bench cache of its bench. -/
def handMsg (s : State) (cls node : Nat) (pay : Payload) : State :=
  { s with inbox := s.inbox ++ [{ id := s.nextMsg, cls := cls, src := node, dst := node, pos := node, inp := .here, flit := s.nextMsg, pay := pay, since := pacerOf s node, arr := pacerOf s node }]
           nextMsg := s.nextMsg + 1 }

/-- A delivered message by its name. -/
def inboxGet (s : State) (m : Nat) : Option Msg := s.inbox.find? fun x => x.id == m

/-- A request to another device: it stays at its link port's node until the answer comes back. -/
def awaitsRemote : Payload → Bool
  | .read (.remote _ _) _ _ | .write (.remote _ _) _ _ _ | .atomic (.remote _ _) _ _ _ _ _ | .counter (.remote _ _) _ _ _ => true
  | _ => false

/-- A write that a host made through BAR2 of a port has not been performed at its home yet (R195). -/
def bar2Pending (s : State) (p : Nat) : Bool :=
  (s.mesh ++ s.inbox).any fun m => match m.pay with
    | .write _ _ _ (.bar2 q) => q == p
    | _ => false

/-- The bytes of this device's memory that an access touches: first and last, by core and offset or by HBM address. -/
def homeBytes : Payload → Option (Option Nat × Nat × Nat)
  | .read (.hbm a) n _ | .txRead (.hbm a) n _ | .atomic (.hbm a) _ n _ _ _ => some (none, a, a + n - 1)
  | .read (.store c o) n _ | .txRead (.store c o) n _ | .atomic (.store c o) _ n _ _ _ => some (some c, o, o + n - 1)
  | .write (.hbm a) bytes _ _ => some (none, a + bytes.foldl (fun m b => min m b.1) 64, a + bytes.foldl (fun m b => max m b.1) 0)
  | .write (.store c o) bytes _ _ => some (some c, o + bytes.foldl (fun m b => min m b.1) 64, o + bytes.foldl (fun m b => max m b.1) 0)
  | _ => none

/-- Two accesses touch a byte in common. -/
def shareByte (p q : Payload) : Bool :=
  match homeBytes p, homeBytes q with
  | some (c, a, b), some (d, e, f) => c == d && decide (a ≤ f) && decide (e ≤ b)
  | _, _ => false

/-- A delivered message that may be acted on now: every earlier one of its class and source went first (R284), and so did every access
to one of its bytes that arrived at the home before it (R300). -/
def arrived (s : State) (m : Nat) : Option Msg :=
  match inboxGet s m with
  | none => none
  | some x =>
    if (s.inbox.any fun y => y.id < x.id && y.cls == x.cls && y.src == x.src && y.dst == x.dst && !awaitsRemote y.pay) ||
        (s.inbox.takeWhile fun y => y.id != m).any fun y => y.dst == x.dst && shareByte y.pay x.pay then none
    else some x

/-- Answer a delivered request: the request is taken out, and a class 1 message goes back (Table 15.1). -/
def reply (s : State) (x : Msg) (pay : Payload) : State :=
  sendMsg { s with inbox := s.inbox.filter fun y => y.id != x.id } 1 x.dst x.src pay

/-- Take a delivered message out. -/
def inboxDrop (s : State) (m : Nat) : State := { s with inbox := s.inbox.filter fun x => x.id != m }

/-! ### Records -/

/-- Event ring of a context; 64 and 65 are the device rings of ports A and B. -/
def devRing (port : Nat) : Nat := 64 + port

/-- Priority of a record by type and source class (Table 17.10). -/
def recordPrio (ty scls : Nat) : Nat :=
  if ty = 1 then (if scls = 3 ∨ scls = 4 then 1 else 0)
  else if ty = 2 ∨ ty = 13 ∨ ty = 14 ∨ ty = 15 then 0
  else if ty = 3 ∨ ty = 4 ∨ ty = 5 ∨ ty = 6 ∨ ty = 11 then 1
  else if ty = 8 ∨ ty = 9 ∨ ty = 12 then 2 else 3

/-- Key of a source's sequence counter for a ring (R346). -/
def seqKey (rg scls srcid : Nat) : Nat := rg * 2 ^ 20 + scls * 2 ^ 16 + srcid

/-- A source makes a record for a ring (R346): it takes the next SEQ and goes to the ring's endpoint in
class 3 (Table 15.1). A record bound for a disabled ring is discarded and not counted (R344). -/
def makeRecord (s : State) (node rg scls srcid ty : Nat) (ctx : Option Nat) (w3 w4 w5 w6 w7 : W64) : State :=
  let e := evring s rg
  if e.en then
    let key := seqKey rg scls srcid
    let q := Tbl.getD s.seqs key 0
    let s := { s with seqs := Tbl.set s.seqs key (q + 1) }
    sendMsg s 3 node (portNode e.port)
      (.record { ring := rg, ty := ty, scls := scls, srcid := srcid, seqno := q, ctx := ctx, w3 := w3, w4 := w4,
                 w5 := w5, w6 := w6, w7 := w7, prio := recordPrio ty scls, spilled := false })
  else s

/-- A record for a context's ring (R344). -/
def recordCtx (s : State) (node scls srcid ctx ty : Nat) (w3 w4 w5 w6 w7 : W64) : State :=
  match Tbl.get? s.ctxs ctx with
  | none => s
  | some _ => makeRecord s node ctx scls srcid ty (some ctx) w3 w4 w5 w6 w7

/-- A device-wide record, one copy to each PF's enabled device ring (R344). -/
def recordDev (s : State) (node scls srcid ty : Nat) (w3 w4 w5 w6 w7 : W64) : State :=
  makeRecord (makeRecord s node 64 scls srcid ty none w3 w4 w5 w6 w7) node 65 scls srcid ty none w3 w4 w5 w6 w7

/-! ### Wrapping counters (R214) -/

/-- Add to a 64-bit counter; whether it wrapped. -/
def wrapAdd (v : W64) (n : Nat) : W64 × Bool := (v + BitVec.ofNat 64 n, decide (v.toNat + n ≥ 2 ^ 64))

/-- The COUNTER_WRAP record of a counter whose WRAP bit was 0 (R214, Table 17.10); firmware makes it (DEDUCED, log entry 26). -/
def recordWrap (s : State) (node off wbit : Nat) : State :=
  recordDev s mgNode 1 0 16 (BitVec.ofNat 64 (node + off * 256 + wbit * 2 ^ 32)) 0 0 0 0

/-- A thread retires `n` instructions (Table 3.9 INSTRET; CORE_WRAP, Table 22.9). -/
def countInstret (s : State) (k n : Nat) : State :=
  let r := wrapAdd (thr s k).sys.instret n
  let s := modSys s k fun y => { y with instret := r.1 }
  if r.2 then
    let old := (core s (k / 8)).wrap
    let one := BitVec.ofNat 8 (2 ^ (k % 8))
    let s := modCore s (k / 8) fun c => { c with wrap := old ||| one }
    if old &&& one = 0 then recordWrap s (k / 64) (0x80000 + (k / 8 % 8) * 0x10000 + 8) (k % 8) else s
  else s

/-- Count `n` on one of the counters of a bench's register block: the new value, the WRAP bit `w` of a
register of `ww` bits at `off`. -/
def countWrap (s : State) (node off w : Nat) (wrapped : Bool) (old : Nat) : State :=
  if wrapped && !bit old w then recordWrap s node off w else s

/-- Lookups of a translation unit found cached (hit) or not (Table 22.7). -/
def countTu (s : State) (n : Nat) (hit : Bool) : State :=
  let b := bench s n
  let r := wrapAdd (if hit then b.tuHits else b.tuMisses) 1
  let w := if hit then 0 else 1
  let s := modBench s n fun b => if hit then { b with tuHits := r.1 } else { b with tuMisses := r.1 }
  if r.2 then
    let old := (bench s n).tuWrap
    let s := modBench s n fun b => { b with tuWrap := b.tuWrap ||| BitVec.ofNat 2 (2 ^ w) }
    countWrap s n 0x40010 w true old.toNat
  else s

/-- The three counters of a bench cache (Table 15.5): 0 HITS, 1 MISSES, 2 WBLINES. -/
def countBc (s : State) (n which amount : Nat) : State :=
  let b := bench s n
  let r := wrapAdd (if which = 0 then b.hits else if which = 1 then b.misses else b.wblines) amount
  let s := modBench s n fun b =>
    if which = 0 then { b with hits := r.1 } else if which = 1 then { b with misses := r.1 } else { b with wblines := r.1 }
  if r.2 then
    let old := (bench s n).bcWrap
    let s := modBench s n fun b => { b with bcWrap := b.bcWrap ||| BitVec.ofNat 4 (2 ^ which) }
    countWrap s n 0x20030 which true old.toNat
  else s

/-- The channel monitor's counters (Table 22.7): answered OK, or refused. -/
def countCm (s : State) (n : Nat) (ok : Bool) : State :=
  let b := bench s n
  let r := wrapAdd (if ok then b.pubs else b.refused) 1
  let w := if ok then 0 else 1
  let s := modBench s n fun b => if ok then { b with pubs := r.1 } else { b with refused := r.1 }
  if r.2 then
    let old := (bench s n).cmWrap
    let s := modBench s n fun b => { b with cmWrap := b.cmWrap ||| BitVec.ofNat 2 (2 ^ w) }
    countWrap s n 0x60010 w true old.toNat
  else s

/-! ### Unit Records and reliability windows (R379, R385, Table 19.8) -/

/-- Now, as the Unit Records note it: power-on cycle and management ticks (R385). -/
def stampOf (s : State) : Nat × Nat := (s.dev.cycles, s.dev.ticks)

/-- First and last stamps after an event. -/
def stampNext (now : Nat × Nat) : Option ((Nat × Nat) × (Nat × Nat)) → Option ((Nat × Nat) × (Nat × Nat))
  | none => some (now, now)
  | some (f, _) => some (f, now)

/-- Count an event in a Unit Record, of kind 0 corrected, 1 uncorrected, 2 residue or datapath; counts stop at their largest value. `due` marks the flash write of R386. -/
def countUnit (s : State) (name kind n : Nat) : State :=
  let now := stampOf s
  modUnit s name fun u =>
    let u := { u with upd := u.upd + 1, due := some (u.due.getD s.dev.ticks) }
    if kind = 0 then { u with corr := min (u.corr + n) (2 ^ 32 - 1), corrStamps := stampNext now u.corrStamps }
    else if kind = 1 then { u with uncorr := min (u.uncorr + n) 65535, uncorrStamps := stampNext now u.uncorrStamps }
    else { u with residue := min (u.residue + n) 65535, residueStamps := stampNext now u.residueStamps }

/-- Key of a unit's count in the running window: unit name and the limit's parameter number. -/
def windowKey (name param : Nat) : Nat := name * 16 + (param - 0x0100)

/-- Add to a unit's count in the current window, and whether the limit of the parameter is reached
(R379: 0 disables; AUTOFENCE = 0 disables every limit). -/
def countWindow (s : State) (name param n : Nat) : State × Bool :=
  let v := Tbl.getD s.dev.window (windowKey name param) 0 + n
  let s := modDev s fun d => { d with window := Tbl.set d.window (windowKey name param) v }
  (s, policy s 0x0100 == 1 && policy s param != 0 && decide (policy s param ≤ v))

/-- An SDC record for a thread's failed check (R371, R387). -/
def recordSdc (s : State) (k check outcome : Nat) : State :=
  match ctxOf s k with
  | none => s
  | some c =>
    recordCtx s (k / 64) 2 k c 4 (BitVec.ofNat 64 (k + check * 2 ^ 16 + outcome * 2 ^ 24)) (thr s k).pc
      (BitVec.ofNat 64 (unitRec s (unitName 1 (k / 8))).residue) 0 0

end Sys2Proof.Machine
end

