-- ==== Sys2Proof/Machine/Address.lean ====
section
/-!
DEFINITION. The device address map (R19 to R23), the HBM interleave (R36), withdrawn pages (R37, R299)
and the homes of addresses.
-/
namespace Sys2Proof.Machine

/-- Start of the firmware reserve (R21). -/
def reserveBase : Nat := 0xFFC0000000

/-- First offset of a remote window that no remote access reaches (R23). -/
def remoteLimit : Nat := 0x10080000000

/-- Stack location of an HBM device address: stack × 2³⁶ + offset (R36, Table 1.8). -/
def hbmLoc (s : State) (a : Nat) : Nat :=
  if s.dev.full then
    (bits a 15 12 ^^^ bits a 23 20 ^^^ bits a 31 28 ^^^ bits a 39 36) * 2 ^ 36 + (bits a 39 16 * 4096 + bits a 11 0)
  else
    (4 * bits a 39 38 + (bits a 13 12 ^^^ bits a 21 20 ^^^ bits a 29 28)) * 2 ^ 36 + (bits a 37 14 * 4096 + bits a 11 0)

/-- The stack that holds an HBM device address. -/
def stackOf (s : State) (a : Nat) : Nat := hbmLoc s a / 2 ^ 36

/-- Pseudo-channel of a byte offset within its stack (R299). -/
def pcOf (o : Nat) : Nat := bits o 17 12 ^^^ bits o 23 18

/-- Index of the pseudo-channel that holds an HBM address (Table 19.5). -/
def pcIndex (s : State) (a : Nat) : Nat := 64 * (hbmLoc s a / 2 ^ 36) + pcOf (hbmLoc s a % 2 ^ 36)

/-- An HBM address lies on a withdrawn 64 KiB page: one of the page's 16 chunks is on a fenced
pseudo-channel, and the page is not of the firmware reserve (R37, R299, R383). -/
def withdrawn (s : State) (a : Nat) : Bool :=
  decide (a < reserveBase) &&
    (List.range 16).any fun i => isFenced s 3 (pcIndex s (a / 65536 * 65536 + i * 4096))

/-- The 64 KiB page, counted from device address 0, that holds a stack location (R36). -/
def pageOfLoc (full : Bool) (l : Nat) : Nat :=
  if full then l % 2 ^ 36 / 4096 else l / 2 ^ 36 / 4 * 2 ^ 22 + l % 2 ^ 36 / 4096 / 4

/-- A stack location lies in the firmware reserve (R21). -/
def locReserved (full : Bool) (l : Nat) : Bool := decide (reserveBase / 65536 ≤ pageOfLoc full l)

/-- Decode a device address below 2⁵¹ (R19). -/
def decodeLocal (s : State) (a : Nat) : Option Target :=
  if a < 2 ^ 40 then some (.hbm a)
  else if a < 0x10080000000 then
    if goodCore s ((a - 2 ^ 40) / 2 ^ 20) then some (.store ((a - 2 ^ 40) / 2 ^ 20) (a % 2 ^ 20)) else none
  else if 0x10200000000 ≤ a ∧ a < 0x10300000000 then some (.reg (bits a 31 24) (bits a 23 0))
  else if 0x20000000000 ≤ a ∧ a < 0x30000000000 then some (.host 0 (bits a 39 0))
  else if 0x30000000000 ≤ a ∧ a < 0x40000000000 then some (.host 1 (bits a 39 0))
  else none

/-- Decode a 64-bit value used as a device address; `none` is unbacked (R19, R20, R22, R23, R24). -/
def decodeAddr (s : State) (a : Nat) : Option Target :=
  if a ≥ 2 ^ 52 then none
  else if bit a 51 then
    if bits a 50 43 = s.dev.devId.toNat then decodeLocal s (a % 2 ^ 43)
    else if a % 2 ^ 43 < remoteLimit then some (.remote (bits a 50 43) (a % 2 ^ 43)) else none
  else decodeLocal s a

/-- A device address with the window of the device's own ID folded onto the addresses that it names (R22). -/
def foldOwn (s : State) (a : Nat) : Nat := if bit a 51 ∧ bits a 50 43 = s.dev.devId.toNat then a % 2 ^ 43 else a

/-- The device address of a target, by which accesses are compared (R181, R183). -/
def targetAddr : Target → Nat
  | .hbm a => a
  | .store c o => 2 ^ 40 + c * 2 ^ 20 + o
  | .reg n o => 0x10200000000 + n * 2 ^ 24 + o
  | .host p a => 0x20000000000 + p * 2 ^ 40 + a
  | .remote d o => 2 ^ 51 + d * 2 ^ 43 + o

/-- A target moved on by `n` bytes. -/
def targetAdd (t : Target) (n : Nat) : Target :=
  match t with
  | .hbm a => .hbm (a + n)
  | .store c o => .store c (o + n)
  | .reg m o => .reg m (o + n)
  | .host p a => .host p (a + n)
  | .remote d o => .remote d (o + n)

/-- The home of a target whose lines transactions may watch and lock (R222). -/
def homeOf (s : State) : Target → Option HomeId
  | .hbm a => some (.hbm (BitVec.ofNat 4 (stackOf s a)))
  | .store c _ => some (.store (BitVec.ofNat 11 c))
  | _ => none

/-- Node at which a home stands (R13, R16). -/
def homeNode : HomeId → Nat
  | .hbm n => homeNodes.getD n.toNat 0
  | .store c => c.toNat / 8

/-- The link port that a message for a device leaves through: ROUTE entry [3] VCSEL, [2:0] PORT and its
valid bit are kept as `routes` holds them (Table 18.7: V at bit 7). -/
def routePort (s : State) (d : Nat) : Option Nat :=
  let e := (Tbl.getD s.dev.routes d 0).toNat
  if bit e 7 then some (e % 8) else none

/-- Node that a thread's request to a target is sent to. -/
def targetNode (s : State) : Target → Nat
  | .hbm a => homeNodes.getD (stackOf s a) 0
  | .store c _ => c / 8
  | .reg n _ => n
  | .host p _ => portNode p
  | .remote d _ => linkNodes.getD ((routePort s d).getD 0) 0

/-- R173: what P0 and P1 may not do in the reserved area of a local store. -/
def reservedDenied (off : Nat) (readOnly : Bool) : Bool :=
  decide (0x78000 ≤ off ∧ off < 0x80000) && !(readOnly && decide (0x7A000 ≤ off ∧ off < 0x7A800))

end Sys2Proof.Machine
end

