-- ==== Sys2Proof/Machine/Memory.lean ====
section
/-!
DEFINITION. Memory at its homes: HBM and local stores by byte, poison by line (R171, R301, R374), the
gather buffer (R178), watches and locks on lines (R222 to R224, R228), and the bytes that hosts see.
-/
namespace Sys2Proof.Machine

/-! ### Reading at the home -/

/-- Byte `i` of a 512-bit line. -/
def lineByte (d : V512) (i : Nat) : Byte := BitVec.ofNat 8 (d.toNat / 2 ^ (8 * i))

/-- A 512-bit line from its bytes, byte 0 lowest. -/
def lineOf (bs : List Byte) : V512 := BitVec.ofNat 512 (leNat bs)

/-- Replace byte `i` of a line. -/
def lineSet (d : V512) (i : Nat) (b : Byte) : V512 :=
  BitVec.ofNat 512 (d.toNat - (d.toNat / 2 ^ (8 * i) % 256) * 2 ^ (8 * i) + b.toNat * 2 ^ (8 * i))

/-- A byte of HBM by device address. -/
def hbmByte (s : State) (a : Nat) : Byte := memGet s.hbm (hbmLoc s a)

/-- A byte of a local store, with the bytes its gather buffer holds (R178: every access sees them). -/
def storeByte (s : State) (c o : Nat) : Byte :=
  match (core s c).gbuf.find? fun e => e.line.toNat == o / 64 with
  | some e => if bit e.mask.toNat (o % 64) then lineByte e.data (o % 64) else memGet s.ls (c * 2 ^ 20 + o)
  | none => memGet s.ls (c * 2 ^ 20 + o)

/-- A byte of memory at its home; targets that are not memory of this device read as zero here. -/
def targetByte (s : State) (t : Target) (i : Nat) : Byte :=
  match t with
  | .hbm a => hbmByte s (a + i)
  | .store c o => storeByte s c (o + i)
  | _ => 0

/-- The bytes at a target's home. -/
def homeRead (s : State) (t : Target) (len : Nat) : List Byte := (List.range len).map (targetByte s t)

/-- The mark of poison on the line of a target (R171, R301); a withdrawn page reads as poisoned (R299). -/
def homePoison (s : State) : Target → Bool
  | .hbm a => NSet.has s.hbmPoison (hbmLoc s a / 64) || withdrawn s a
  | .store c o => NSet.has s.lsPoison (c * 2 ^ 14 + o / 64)
  | _ => false

/-- Who holds a poisoned line, as CAUSE.INFO.HOLDER names it (Table 19.4). -/
def holderOf : Target → Nat
  | .store _ _ => 1
  | .hbm _ => 3
  | .remote _ _ => 4
  | .host _ _ => 5
  | .reg _ _ => 7

/-! ### Watches and locks -/

/-- An asynchronous abort cause reaches a thread whose transaction is open (R220). -/
def addAbort (s : State) (k : Nat) (c : AbortCause) : State :=
  if (thr s k).tx.depth > 0 ∧ (thr s k).tx.phase = .open then
    modThr s k fun t => { t with aborts := t.aborts ++ [c] }
  else s

/-- Break the watches on a line held by other threads than `by`, and send their break notices (R223). -/
def breakWatches (s : State) (h : HomeId) (line : Nat) (by_ : Option Nat) : State :=
  let hit := s.watches.filter fun w => w.home == h && w.line == line && !w.broken && some w.thr != by_
  let s := { s with watches := s.watches.map fun w =>
    if w.home == h && w.line == line && some w.thr != by_ then { w with broken := true } else w }
  hit.foldl (fun s w => addAbort s w.thr { code := 1, detail := 1, node := homeNode h }) s

/-- The thread that holds the lock on a line, if any (R224). -/
def lockHolder (s : State) (h : HomeId) (line : Nat) : Option Nat :=
  (s.locks.find? fun l => l.home == h && l.line == line).map (·.thr)

/-- A plain access to the target must wait for a commit's apply or release (R228, Table 11.6). -/
def lineLocked (s : State) (t : Target) : Bool :=
  match homeOf s t with
  | some h => (lockHolder s h (targetAddr t / 64)).isSome
  | none => false

/-! ### Writing at the home -/

/-- Write bytes of HBM, each given with its offset from `a`, and keep the line's mark (R301, R374): a
whole line clears it, marked data sets it. A withdrawn page discards the write (R299). -/
def hbmWrite (s : State) (a : Nat) (bytes : List (Nat × Byte)) (poison : Bool) : State :=
  if withdrawn s a then s
  else
    let s := { s with hbm := bytes.foldl (fun m (p : Nat × Byte) => memPut m (hbmLoc s (a + p.1)) p.2) s.hbm }
    let line := hbmLoc s a / 64
    if poison then { s with hbmPoison := NSet.add s.hbmPoison line }
    else if bytes.length = 64 then { s with hbmPoison := NSet.del s.hbmPoison line }
    else s

/-- Write bytes into a store's bank, each given with its offset from `o`, and keep the line's mark (R171). -/
def bankWrite (s : State) (c o : Nat) (bytes : List (Nat × Byte)) (poison : Bool) : State :=
  let s := { s with ls := bytes.foldl (fun m (p : Nat × Byte) => memPut m (c * 2 ^ 20 + o + p.1) p.2) s.ls }
  let line := c * 2 ^ 14 + o / 64
  if poison then { s with lsPoison := NSet.add s.lsPoison line }
  else if bytes.length = 64 then { s with lsPoison := NSet.del s.lsPoison line }
  else s

/-- The bytes that a mask selects from a line, with their offsets. -/
def maskBytes (mask : BitVec 64) (d : V512) : List (Nat × Byte) :=
  ((List.range 64).filter fun i => bit mask.toNat i).map fun i => (i, lineByte d i)

/-- Write one gather buffer entry to its bank and free it (R178). -/
def gbufFlush (s : State) (c line : Nat) : State :=
  match (core s c).gbuf.find? fun e => e.line.toNat == line with
  | none => s
  | some e =>
    let s := modCore s c fun x => { x with gbuf := x.gbuf.filter fun e => e.line.toNat != line }
    bankWrite s c (line * 64) (maskBytes e.mask e.data) false

/-- Write every gather buffer entry of a core to its bank (R178, step 1 of Table 9.3). -/
def gbufFlushAll (s : State) (c : Nat) : State :=
  ((core s c).gbuf.map (·.line.toNat)).foldl (fun s l => gbufFlush s c l) s

/-- Merge a narrow store into its gather buffer entry, the bytes of one line (R178). -/
def gbufMerge (s : State) (c o : Nat) (bytes : List (Nat × Byte)) : State :=
  let line := o / 64
  let ins (mask : BitVec 64) (d : V512) : BitVec 64 × V512 :=
    bytes.foldl (fun (acc : BitVec 64 × V512) (p : Nat × Byte) =>
      (acc.1 ||| BitVec.ofNat 64 (2 ^ (o % 64 + p.1)), lineSet acc.2 (o % 64 + p.1) p.2)) (mask, d)
  match (core s c).gbuf.find? fun e => e.line.toNat == line with
  | some e =>
    let r := ins e.mask e.data
    let s := modCore s c fun x => { x with gbuf := x.gbuf.map fun e => if e.line.toNat == line then { e with mask := r.1, data := r.2 } else e }
    if r.1 = BitVec.allOnes 64 then gbufFlush s c line else s
  | none =>
    let s := if 8 ≤ (core s c).gbuf.length then
        match (core s c).gbuf with
        | [] => s
        | e :: _ => gbufFlush s c e.line.toNat
      else s
    let r := ins 0 0
    modCore s c fun x => { x with gbuf := x.gbuf ++ [{ line := BitVec.ofNat 14 line, mask := r.1, data := r.2 }] }

/-- A store of the core port to its own local store: a whole aligned line goes straight to its bank and
replaces the entry; anything narrower merges (R178). It breaks the watches on its line (R223). -/
def coreStore (s : State) (k o : Nat) (bytes : List (Nat × Byte)) : State :=
  let c := k / 8
  let s := breakWatches s (.store (BitVec.ofNat 11 c)) ((2 ^ 40 + c * 2 ^ 20 + o) / 64) (some k)
  if bytes.length = 64 then
    let s := modCore s c fun x => { x with gbuf := x.gbuf.filter fun e => e.line.toNat != o / 64 }
    bankWrite s c o bytes false
  else gbufMerge s c o bytes

/-- A write performed at its home by a requester other than the owning core's port, within one line
(R179, R300, R178): a buffered line is written to its bank first. It breaks the watches of every thread
but `by_` (R223). Host memory records what the device wrote, and whether the TLP was marked poisoned (R280); a write to a port whose link is down goes
nowhere (R321). -/
def homeWrite (s : State) (t : Target) (bytes : List (Nat × Byte)) (poison : Bool) (by_ : Option Nat) : State :=
  match t with
  | .hbm a => hbmWrite (breakWatches s (.hbm (BitVec.ofNat 4 (stackOf s a))) (a / 64) by_) a bytes poison
  | .store c o =>
    bankWrite (gbufFlush (breakWatches s (.store (BitVec.ofNat 11 c)) ((2 ^ 40 + c * 2 ^ 20 + o) / 64) by_) c (o / 64))
      c o bytes poison
  | .host p a =>
    if !(port s p).linkUp then s
    else
      let line := (p * 2 ^ 40 + a) / 64
      { s with hostMem := bytes.foldl (fun m (b : Nat × Byte) => memPut m (p * 2 ^ 40 + a + b.1) b.2) s.hostMem
               hostPoison := if poison then NSet.add s.hostPoison line else NSet.del s.hostPoison line }
  | _ => s

/-- Bytes with their offsets, in order. -/
def offsets (bs : List Byte) : List (Nat × Byte) := (List.range bs.length).zip bs

end Sys2Proof.Machine
end

