-- ==== Sys2Proof/Machine/Translate.lean ====
section
/-!
DEFINITION. Context virtual addressing (R24 to R34): windows, page walks in HBM, the translation unit's
cache, and what an access may do.
-/
namespace Sys2Proof.Machine

/-- What an access is for (R29). Atomics count as stores. -/
inductive Acc where
  | read | write | fetch
  deriving DecidableEq, Repr

/-- Who makes an access: context, level, its own core if it has one, and the bench whose translation unit
it uses (none for the firmware and the sequencers). -/
structure Who where
  ctx : Option Nat
  lvl : Nat
  self : Option Nat
  tu : Option Nat
  deriving DecidableEq, Repr

/-- Outcome of a translation: an address; an exception of Table 4.4; poison met on the walk, with the
address of the line (R375 WHERE 8); or a host translation still to be asked for (R34). -/
inductive XRes where
  | ok (x : Xlat)
  | fault (code : Nat)
  | poison (dev : Nat)
  | ats (log2 : Nat) (pte : W64) (hostPage : Nat)
  deriving DecidableEq, Repr

/-- Outcome of a page walk. -/
inductive Walk where
  | leaf (pte : W64) (log2 : Nat)
  | bad
  | poison (dev : Nat)
  deriving DecidableEq, Repr

/-! ### Page table entries (R28, R29) -/

/-- Reserved fields of an entry are zero, V = 1 and MINPRIV is valid. -/
def pteShape (p : Nat) : Bool :=
  bit p 0 && bits p 63 52 == 0 && bits p 15 10 == 0 && !bit p 3 && !bit p 1 && bits p 7 6 != 3

/-- The address that an entry carries. -/
def pteAddr (p : Nat) : Nat := bits p 51 16 * 65536

/-- R29 for a leaf's address: what contexts may map. The own-ID window is judged by its reduced address. -/
def leafTarget (s : State) (a : Nat) (ats : Bool) : Bool :=
  let a := if bit a 51 && bits a 50 43 == s.dev.devId.toNat then a % 2 ^ 43 else a
  if bit a 51 then decide (a % 2 ^ 43 < remoteLimit) && !ats
  else if a < reserveBase then !ats
  else decide (0x20000000000 ≤ a ∧ a < 0x40000000000)

/-- R29 for a leaf: aligned to its size and to a target that contexts may map. -/
def leafOk (s : State) (p log2 : Nat) : Bool :=
  pteAddr p % 2 ^ log2 == 0 && leafTarget s (pteAddr p) (bit p 9)

/-- Device address of a context's entry for `va` at the level whose index starts at bit `sh`. -/
def pteAt (table va sh : Nat) : Nat := table + 8 * (if sh = 16 then bits va 20 16 else bits va (sh + 8) sh)

/-- Read an entry of a page table, directly from HBM (R30). -/
def readPte (s : State) (a : Nat) : Nat := leNat (homeRead s (.hbm a) 8)

/-- Walk down the levels given by the bit at which each one's index starts (Table 1.6). -/
def walkFrom (s : State) (va : Nat) : Nat → List Nat → Walk
  | _, [] => .bad
  | table, sh :: rest =>
    let a := pteAt table va sh
    let p := readPte s a
    if homePoison s (.hbm a) then .poison (a / 64 * 64)
    else if !pteShape p then .bad
    else if bit p 2 then (if sh ≠ 39 ∧ leafOk s p sh then .leaf (BitVec.ofNat 64 p) sh else .bad)
    else if sh = 16 then .bad
    else walkFrom s va (pteAddr p) rest

/-- The walk of a context's tables (R27). -/
def walk (s : State) (ctx va : Nat) : Walk :=
  match Tbl.get? s.ctxs ctx with
  | none => .bad
  | some x => walkFrom s va x.root [39, 30, 21, 16]

/-! ### The translation unit (R31) -/

/-- The cached translation of a page, if there is one. -/
def tuFind (s : State) (n ctx va : Nat) : Option TuEntry :=
  (bench s n).tu.find? fun e => e.ctx == ctx && va / 2 ^ e.log2 == e.vpage

/-- Keep a translation; 2,048 entries, the oldest dropped (log entry 11). -/
def tuInsert (s : State) (n : Nat) (e : TuEntry) : State :=
  modBench s n fun b =>
    let l := b.tu.filter fun x => !(x.ctx == e.ctx && x.log2 == e.log2 && x.vpage == e.vpage)
    { b with tu := (if 2048 ≤ l.length then l.drop 1 else l) ++ [e] }

/-- The leaf for a page: cached, or walked. -/
def findLeaf (s : State) (tu : Option Nat) (ctx va : Nat) : Walk :=
  match tu.bind fun n => tuFind s n ctx va with
  | some e => .leaf e.pte e.log2
  | none => walk s ctx va

/-- The lookup's effect on the translation unit: its counters, and the new entry after a walk. -/
def tuTouch (s : State) (tu : Option Nat) (ctx va : Nat) : State :=
  match tu with
  | none => s
  | some n =>
    match tuFind s n ctx va with
    | some _ => countTu s n true
    | none =>
      let s := countTu s n false
      match walk s ctx va with
      | .leaf p l => tuInsert s n { ctx := ctx, vpage := va / 2 ^ l, log2 := l, pte := p, ats := none }
      | _ => s

/-! ### Translation -/

/-- A level with these permissions may make this access (R29). -/
def permits (p lvl : Nat) (acc : Acc) : Bool :=
  decide (bits p 7 6 ≤ lvl) &&
    (match acc with | .read => true | .write => bit p 4 | .fetch => bit p 5)

/-- The host translation that the translation unit holds for a page under ATS (R34); bit 63 of the kept
entry marks a translation without write permission. -/
def atsCached (s : State) (tu : Option Nat) (ctx va : Nat) (acc : Acc) : Option Nat :=
  match tu.bind fun n => tuFind s n ctx va with
  | none => none
  | some e => if acc = .write ∧ bit e.pte.toNat 63 then none else e.ats.map (·.1)

/-- The untranslated host page that a leaf, or a part of it that the translation unit holds, stands for (R34). -/
def untranslated (s : State) (tu : Option Nat) (ctx va p : Nat) : Nat :=
  match (tu.bind fun n => tuFind s n ctx va).bind (·.ats) with
  | some (_, u) => u
  | none => pteAddr p % 2 ^ 40

/-- Translate through the page tables (R27 to R29, R34). -/
def translatePage (s : State) (w : Who) (acc : Acc) (ctx va : Nat) : XRes :=
  match findLeaf s w.tu ctx va with
  | .bad => .fault 6
  | .poison d => .poison d
  | .leaf p0 log2 =>
    let p := p0.toNat % 2 ^ 63
    if !permits p w.lvl acc then .fault 5
    else
      let page := some (ctx, va / 65536)
      if bit p 9 && w.tu.isSome then
        match atsCached s w.tu ctx va acc with
        | none => .ats log2 p0 (untranslated s w.tu ctx va p)
        | some h => .ok { tgt := .host (if bit (pteAddr p) 40 then 1 else 0) (h + va % 2 ^ log2), nc := bit p 8, page := page }
      else
        match decodeAddr s (pteAddr p + va % 2 ^ log2) with
        | none => .fault 8
        | some t => .ok { tgt := t, nc := bit p 8, page := page }

/-- The core that holds a logical number now (R18, R26, R382): none above the count or while it is fenced. -/
def logicalCore (s : State) (ctx n : Nat) : Option Nat :=
  match Tbl.get? s.ctxs ctx with
  | none => none
  | some x => match x.lcore[n]? with
    | none => none
    | some c => if goodCore s c && (core s c).ctx == some ctx then some c else none

/-- The logical number of a core in a context (LCORE, R17): 0x7FF when it holds none. -/
def logicalOf (s : State) (ctx c : Nat) : Nat :=
  match Tbl.get? s.ctxs ctx with
  | none => 0x7FF
  | some x => match indexOf x.lcore c with
    | none => 0x7FF
    | some n => if goodCore s c && (core s c).ctx == some ctx then n else 0x7FF

/-- A context virtual address (R24 to R26, R173, Table 1.5). -/
def translateVirtual (s : State) (w : Who) (acc : Acc) (va : Nat) : XRes :=
  match w.ctx with
  | none => .fault 6
  | some ctx =>
    if va ≥ 2 ^ 48 then .fault 6
    else if va < 0x100000 then
      match w.self with
      | none => .fault 6
      | some c => if reservedDenied va (acc == .read) then .fault 5
                  else .ok { tgt := .store c va, nc := false, page := none }
    else if 0x80000000 ≤ va ∧ va < 0xF0000000 then
      if acc = .fetch then .fault 5
      else match logicalCore s ctx ((va - 0x80000000) / 2 ^ 20) with
        | none => .fault 6
        | some c => if reservedDenied (va % 2 ^ 20) (acc == .read) then .fault 5
                    else .ok { tgt := .store c (va % 2 ^ 20), nc := false, page := none }
    else translatePage s w acc ctx va

/-- What a P2 thread may fetch from: HBM and any local store (R59). -/
def fetchable : Target → Bool
  | .hbm _ => true
  | .store _ _ => true
  | _ => false

/-- A device address at P2 (R24, R59, R186: NC = 0). -/
def translateDevice (s : State) (acc : Acc) (a : Nat) : XRes :=
  match decodeAddr s a with
  | none => .fault 8
  | some t =>
    if acc = .fetch ∧ !fetchable t then .fault 5
    else .ok { tgt := t, nc := false, page := none }

/-- Translate an address (R24): device addresses at P2, virtual addresses below. -/
def translate (s : State) (w : Who) (acc : Acc) (a : W64) : XRes :=
  if w.lvl = 2 then translateDevice s acc a.toNat else translateVirtual s w acc a.toNat

/-- A translation that goes through page tables leaves its mark on the translation unit (R31). -/
def noteTranslate (s : State) (w : Who) (a : W64) : State :=
  if w.lvl = 2 ∨ a.toNat < 0x100000 ∨ 2 ^ 48 ≤ a.toNat ∨ (0x80000000 ≤ a.toNat ∧ a.toNat < 0xF0000000) then s
  else match w.ctx with
    | none => s
    | some ctx => tuTouch s w.tu ctx a.toNat

/-- The accesses of a thread at a level: its context, its own core, its bench's translation unit. -/
def threadWho (s : State) (k lvl : Nat) : Who :=
  { ctx := ctxOf s k, lvl := lvl, self := some (k / 8), tu := some (k / 64) }

/-- A thread's level. -/
def lvlOf (s : State) (k : Nat) : Nat := (thr s k).sys.priv.toNat

/-- The accesses of a command for its context, at P1 (R333). -/
def commandWho (ctx : Nat) : Who := { ctx := some ctx, lvl := 1, self := none, tu := none }

end Sys2Proof.Machine
end

