-- ==== Sys2Proof/Machine/Cache.lean ====
section
/-!
DEFINITION. The bench cache (R289 to R295): sets and ways, replacement and write-back; and the accesses that are whole within one
step, those of exception entries and of the firmware, which go through no bench cache or find their line at hand (log entry 12).
-/
namespace Sys2Proof.Machine

/-- Set of a line number (device address / 64), R290. -/
def bcSet (line : Nat) : Nat := bits line 10 0 ^^^ bits line 21 11 ^^^ bits line 32 22 ^^^ bits line 43 33

/-- The way of a set that holds a line. -/
def bcWayIn (b : Bench) (line : Nat) : List Nat → Option (Nat × Way)
  | [] => none
  | w :: rest => match Tbl.get? b.ways (bcSet line * 16 + w) with
    | some x => if x.line = line then some (bcSet line * 16 + w, x) else bcWayIn b line rest
    | none => bcWayIn b line rest

/-- The way that holds a line: its key (set × 16 + way) and contents. -/
def bcFind (b : Bench) (line : Nat) : Option (Nat × Way) := bcWayIn b line (List.range 16)

/-- Ways that may be allocated into: powered, enabled (R294). -/
def bcEnabled (b : Bench) (w : Nat) : Bool := bit (b.wayen &&& b.wayon).toNat w

/-- Tree pseudo-LRU over the enabled ways: from tree node `nd` covering `n` ways from `lo`, follow the
bits, passing over halves that hold no enabled way (R292). -/
def plruPick (b : Bench) (tree : BitVec 16) : Nat → Nat → Nat → Nat → Nat
  | 0, _, lo, _ => lo
  | f + 1, nd, lo, n =>
    let half := n / 2
    let left := (List.range half).any fun i => bcEnabled b (lo + i)
    let right := (List.range half).any fun i => bcEnabled b (lo + half + i)
    if (bit tree.toNat nd && right) || !left then plruPick b tree f (2 * nd + 1) (lo + half) half
    else plruPick b tree f (2 * nd) lo half

/-- The tree after a use of way `w`: every node on its path points away from it. -/
def plruUse (tree : BitVec 16) (w : Nat) : BitVec 16 :=
  let go (t : BitVec 16) (nd : Nat) (right : Bool) : BitVec 16 :=
    if right then t &&& ~~~ (BitVec.ofNat 16 (2 ^ nd)) else t ||| BitVec.ofNat 16 (2 ^ nd)
  let t := go tree 1 (bit w 3)
  let t := go t (2 + w / 8) (bit w 2)
  let t := go t (4 + w / 4) (bit w 1)
  go t (8 + w / 2) (bit w 0)

/-- Record a use of a way. -/
def bcTouch (s : State) (n key : Nat) : State :=
  modBench s n fun b => { b with plru := Tbl.set b.plru (key / 16) (plruUse (Tbl.getD b.plru (key / 16) 0) (key % 16)) }

/-- The way that a new line of a set takes: an invalid enabled way first, else the pseudo-LRU victim. -/
def bcVictim (b : Bench) (set : Nat) : Nat :=
  match (List.range 16).find? fun w => bcEnabled b w && (Tbl.get? b.ways (set * 16 + w)).isNone with
  | some w => set * 16 + w
  | none => set * 16 + plruPick b (Tbl.getD b.plru set 0) 4 1 0 16

/-- A device address of memory that a bench cache may hold, as a target. -/
def lineTarget (line : Nat) : Target :=
  let a := line * 64
  if a < 2 ^ 40 then .hbm a else if a < 0x30000000000 then .host 0 (a % 2 ^ 40) else .host 1 (a % 2 ^ 40)

/-- Write a way's dirty bytes back to the home, with its poison (R193, R292, R293), as the end of a kernel's context, a fence and
gating do, whole in their step; the way is clean after. -/
def bcWriteBack (s : State) (n key : Nat) : State :=
  match Tbl.get? (bench s n).ways key with
  | none => s
  | some w =>
    if w.dirty = 0 then s
    else
      let s := homeWrite s (lineTarget w.line) (maskBytes w.dirty w.data) w.poison none
      let s := countBc s n 2 1
      modBench s n fun b => { b with ways := Tbl.set b.ways key { w with dirty := 0 } }

/-- Drop a way. -/
def bcInvalidate (s : State) (n key : Nat) : State :=
  modBench s n fun b => { b with ways := Tbl.erase b.ways key }

/-- The way number of a write-back that frees no way for a fetch. -/
def noWay : Nat := 2 ^ 15

/-- Fetches whose request has been sent bring bytes read before now: they are not to be kept (R187, R191). -/
def deadFetches (l : List Fetch) : List Fetch := l.map fun f => if f.sent && f.victim.isNone then { f with dead := true } else f

/-- Every line is invalidated but its bytes that were written since and are still to be written back (step 3 of Table 9.3): clean
ways go, dirty ones keep only their dirty bytes, and what is being fetched is not kept. -/
def dropClean (b : Bench) : Bench :=
  { b with ways := b.ways.filterMap fun e =>
             if e.2.dirty = 0 then (if b.fetches.any fun f => f.way == e.1 then some e else none) else some (e.1, { e.2 with filled := false })
           fetches := deadFetches b.fetches }

/-- Write back every dirty line and invalidate every line. -/
def bcDrain (s : State) (n : Nat) : State :=
  let keys := (bench s n).ways.map (·.1)
  modBench (keys.foldl (fun s key => bcWriteBack s n key) s) n dropClean

/-- The whole cache written back and invalidated as one pass: its threads' bits are cleared as it begins
(R188). -/
def bcFlushAll (s : State) (n : Nat) : State :=
  bcDrain (modBench s n fun b => { b with bits := 0 }) n

/-- The cache has a line on its way: fetched, or in write-back (R188, R291, R292). -/
def bcBusy (b : Bench) (line : Nat) : Bool :=
  b.fetches.any fun f => f.line == line || (match f.victim with | some v => v.line == line | none => false)

/-- A read hits when every byte it wants is there (R291). -/
def bcHits (w : Way) (o len : Nat) : Bool :=
  w.filled || (List.range len).all fun i => bit w.dirty.toNat (o + i)

/-- A line's bytes from a way. -/
def wayBytes (w : Way) (o len : Nat) : List Byte := (List.range len).map fun i => lineByte w.data (o + i)

/-- Merge fetched bytes under the dirty bytes of a way (R291). -/
def mergeLine (w : Way) (fetched : List Byte) (poison : Bool) : Way :=
  let d := (List.range 64).map fun i => if bit w.dirty.toNat i then lineByte w.data i else fetched.getD i 0
  { w with filled := true, data := lineOf d, poison := w.poison || poison }

/-! ### Accesses whole within one step -/

/-- Outcome of reading within one line. `err` is a code of Table 4.4. -/
inductive Rd where
  | ok (bytes : List Byte) (poison : Bool) (holder : Nat) (s : State) (e : Ext)
  | wait
  | err (code : Nat)

/-- Outcome of writing within one line. -/
inductive Wr where
  | ok (s : State) (e : Ext)
  | wait
  | err (code : Nat)

/-- The cause that a status of Table 14.4 gives a thread. -/
def causeOfStatus : Nat → Nat
  | 2 => 6
  | 3 => 5
  | 4 => 7
  | 5 => 1
  | 6 => 1
  | 8 => 13
  | _ => 8

/-- The status of Table 14.4 of a cause. -/
def statusOfCause : Nat → Nat
  | 6 => 2
  | 5 => 3
  | 7 => 4
  | _ => 1

/-- Take the next bytes of what hosts and other devices answer; missing bytes are zero. -/
def extTake (e : Ext) (n : Nat) : List Byte × Ext :=
  ((List.range n).map fun i => e.data.getD i 0, { e with data := e.data.drop n })

/-- The status of a read or write that leaves the device for a target: an error at once while the port's
link is down (R321), else what was answered. -/
def farCode (s : State) (t : Target) (e : Ext) : Nat :=
  match t with
  | .host p _ => if (port s p).linkUp then e.code else 1
  | _ => e.code

/-- Set bytes of a way with their dirty bits (R291); a whole line clears the mark (R374). -/
def wayWrite (w : Way) (o : Nat) (bytes : List (Nat × Byte)) (poison : Bool) (ctx : Nat) : Way :=
  let r := bytes.foldl (fun (acc : BitVec 64 × V512) (p : Nat × Byte) =>
    (acc.1 ||| BitVec.ofNat 64 (2 ^ (o + p.1)), lineSet acc.2 (o + p.1) p.2)) (w.dirty, w.data)
  { w with dirty := r.1, data := r.2, ctx := ctx, poison := if poison then true else if bytes.length = 64 then false else w.poison }

/-- The cache has accepted a write of a thread of its bench (R188). -/
def bcAccepted (s : State) (n : Nat) (by_ : Option Nat) : State :=
  match by_ with
  | none => s
  | some k => modBench s n fun b => { b with bits := b.bits ||| BitVec.ofNat 64 (2 ^ (k % 64)) }

/-- The bench cache that an access to memory of this kind goes through (R186, R289, Table 22.3). -/
def cacheFor (s : State) (cache : Option Nat) (x : Xlat) : Option Nat :=
  match x.tgt with
  | .hbm _ | .host _ _ => if x.nc then none else cache.bind fun n => if (bench s n).bypass then none else some n
  | _ => none

/-- What a target's home lies behind is not held (R45): the quadrant of the store or of the HBM home. -/
def homeHeld (s : State) : Target → Bool
  | .store c _ => held s (c / 8)
  | .hbm a => held s (homeNodes.getD (stackOf s a) 0)
  | _ => false

/-- Read within one line, whole in this step; a held quadrant and a locked line make it wait (R45, R228). -/
def readPiece (s : State) (x : Xlat) (len : Nat) (e : Ext) : Rd :=
  match x.tgt with
  | .hbm _ | .store _ _ =>
    if lineLocked s x.tgt || homeHeld s x.tgt then .wait
    else
      let s := match x.tgt with | .store c o => gbufFlush s c (o / 64) | _ => s
      .ok (homeRead s x.tgt len) (homePoison s x.tgt) (holderOf x.tgt) s e
  | .host _ _ =>
    if farCode s x.tgt e ≠ 0 then .err (causeOfStatus (farCode s x.tgt e))
    else let r := extTake e len; .ok r.1 e.poison 5 s r.2
  | .remote d _ =>
    if (routePort s d).isNone then .err 8
    else if farCode s x.tgt e ≠ 0 then .err (causeOfStatus (farCode s x.tgt e))
    else let r := extTake e len; .ok r.1 e.poison 4 s r.2
  | .reg _ _ => .err 8

/-- A thread's write has gone through a host port (R187 step 4). -/
def noteHostPort (s : State) (by_ : Option Nat) (t : Target) : State :=
  match by_, t with
  | some k, .host p _ => modThr s k fun y => if y.hostPorts.contains p then y else { y with hostPorts := p :: y.hostPorts }
  | _, _ => s

/-- Write within one line, whole in this step; a write to another device goes out on its link (R186, R197). -/
def writePiece (s : State) (x : Xlat) (bytes : List (Nat × Byte)) (poison : Bool) (e : Ext) : Wr :=
  match x.tgt with
  | .hbm _ | .store _ _ => if lineLocked s x.tgt || homeHeld s x.tgt then .wait else .ok (homeWrite s x.tgt bytes poison none) e
  | .host _ _ =>
    if farCode s x.tgt e ≠ 0 then .err (causeOfStatus (farCode s x.tgt e)) else .ok (homeWrite s x.tgt bytes poison none) e
  | .remote d _ =>
    if (routePort s d).isNone then .err 8
    else .ok (sendMsg s 3 mgNode (targetNode s x.tgt) (.write x.tgt bytes poison .unit)) e
  | .reg _ _ => .err 8

/-- Cut a span of addresses at line boundaries: (offset from the start, length) pieces. -/
def pieces (a len : Nat) : List (Nat × Nat) :=
  let n := (a % 64 + len + 63) / 64
  (List.range n).filterMap fun i =>
    let lo := if i = 0 then 0 else i * 64 - a % 64
    let hi := min len ((i + 1) * 64 - a % 64)
    if lo < hi then some (lo, hi - lo) else none

end Sys2Proof.Machine
end

