-- ==== Sys2Proof/Machine/Tx.lean ====
section
/-!
DEFINITION. The ledger, commit and abort of transactions as operations on the state (R216 to R226), and
the retirement of an instruction.
-/
namespace Sys2Proof.Machine

/-- An instruction of `len` bytes retires: the PC advances and INSTRET counts one. -/
def retire (s : State) (k len : Nat) : State :=
  countInstret (setPc s k ((thr s k).pc + BitVec.ofNat 64 len)) k 1

/-- The memory that a ledger line (device address / 64) names. -/
def ledgerTarget (line : Nat) : Target :=
  let a := line * 64
  if a < 2 ^ 40 then .hbm a else .store ((a - 2 ^ 40) / 2 ^ 20) (a % 2 ^ 20)

/-- The home of a ledger line. -/
def ledgerHome (s : State) (line : Nat) : HomeId := (homeOf s (ledgerTarget line)).getD (.hbm 0)

/-- Order of homes: by node ID, and the store controllers of one node by core number (R224). -/
def homeKey : HomeId → Nat
  | .hbm n => homeNodes.getD n.toNat 0 * 8
  | .store c => c.toNat

/-- Insert a home into a list kept in ascending order without repeats. -/
def homeInsert (h : HomeId) : List HomeId → List HomeId
  | [] => [h]
  | a :: t => if a = h then a :: t else if homeKey h < homeKey a then h :: a :: t else a :: homeInsert h t

/-- The homes of a thread's written lines, ascending. -/
def writtenHomes (s : State) (k : Nat) : List HomeId :=
  (thr s k).tx.writes.foldl (fun l w => homeInsert (ledgerHome s w.1) l) []

/-- The homes that hold a watch of a thread. -/
def watchHomes (s : State) (k : Nat) : List HomeId :=
  (s.watches.filter fun w => w.thr == k).foldl (fun l w => homeInsert w.home l) []

/-- Every home and port core to which a thread's transaction has something to release (R218 step 2). -/
def releaseHomes (s : State) (k : Nat) : List HomeId :=
  let t := (thr s k).tx
  let l := t.granted.foldl (fun l h => homeInsert h l) (watchHomes s k)
  t.reserved.foldl (fun l r => homeInsert (.store (BitVec.ofNat 11 r.1)) l) l

/-- A watch entry placed at a line's home; `none` when the home's table is full (R222). -/
def placeWatch (s : State) (k line : Nat) (page : Option (Nat × Nat)) : Option State :=
  let h := ledgerHome s line
  if s.watches.any fun w => w.home == h && w.line == line && w.thr == k then some s
  else
    let cap := match h with | .hbm _ => 16384 | .store _ => 256
    if cap ≤ (s.watches.filter fun w => w.home == h).length then none
    else some { s with watches := s.watches ++ [{ home := h, line := line, thr := k, broken := false, page := page }] }

/-- Update a thread's transaction. -/
def modTx (s : State) (k : Nat) (f : Tx → Tx) : State := modThr s k fun t => { t with tx := f t.tx }

/-- The abort word (Table 11.2). -/
def abortWord (code user depth detail node : Nat) : W64 :=
  BitVec.ofNat 64 (code + user * 2 ^ 8 + depth * 2 ^ 16 + detail * 2 ^ 20 + node * 2 ^ 32)

/-- Take a thread's entry out of the weighbridges' wait entries (R206) and out of the page requests (R34). -/
def dropWait (s : State) (k : Nat) : State :=
  { s with wbWaits := s.wbWaits.filter fun w => w.2 != k
           pageReqs := s.pageReqs.filter fun r => !(r.2.core * 8 + r.2.thr == k) }

/-- Take a thread's TMMA out of the array's queue (R165). -/
def dropArray (s : State) (k : Nat) : State :=
  modCore s (k / 8) fun c => { c with array := c.array.filter fun j => j.thr != k % 8 }

/-- An access in flight whose result is discarded when its instruction is abandoned. -/
def dropEntry (k : Nat) (e : SbEntry) : SbEntry :=
  match e.sink with
  | .part _ => if e.thr = k then { e with sink := .drop } else e
  | _ => e

/-- The instruction that a thread is executing over several steps is over; what it still has in flight is discarded. -/
def dropJob (s : State) (k : Nat) : State :=
  match (thr s k).job with
  | none => s
  | some _ =>
    modThr (modCore s (k / 8) fun c => { c with sb := c.sb.map fun e => (e.1, dropEntry k e.2) }) k fun t => { t with job := none }

/-- Abort a thread's transaction (R218): staged work is discarded, releases are sent, TXDEPTH, RPC and
VPROG are zero, x1 holds the abort word and the PC is the fallback address. What the thread was waiting for or executing is
abandoned. -/
def abortTx (s : State) (k code user detail node : Nat) : State :=
  let t := thr s k
  let rel := t.tx.releases.foldl (fun l h => homeInsert h l) (releaseHomes s k)
  let kept := t.staged.take t.tx.stagedBefore
  let s := modCore s (k / 8) fun c => { c with sb := c.sb.map fun e =>
    if e.2.thr = k ∧ e.2.tx then (e.1, { e.2 with sink := .drop }) else e }
  let s := dropJob (dropArray (dropWait s k) k) k
  let s := modThr s k fun t =>
    { t with tx := { Tx.none with releases := rel, reserved := t.tx.reserved }
             staged := kept
             stageHandle := if kept.isEmpty then none else t.stageHandle
             sys := { t.sys with rpc := 0, vprog := 0 }
             aborts := []
             wait := none
             pc := t.tx.fallback }
  wx s k 1 (abortWord code user t.tx.depth detail node)

/-- Apply a commit's lines at one home, unlock them and acknowledge (step 5 of Table 11.5): each line as
one single-copy atomic unit (R225), breaking the watches of other threads (R223). -/
def applyHome (s : State) (k : Nat) (h : HomeId) : State :=
  let lines := (thr s k).tx.writes.filter fun w => ledgerHome s w.1 == h
  let s := lines.foldl (fun s w => homeWrite s (ledgerTarget w.1) (maskBytes w.2.mask w.2.data) false (some k)) s
  let s := match h with
    | .hbm n => modStack s n.toNat fun x => { x with wbuf := x.wbuf ++ lines.map fun (w : Nat × StagedLine) => w.1 }
    | .store _ => s
  { s with locks := s.locks.filter fun l => !(l.home == h && l.thr == k) }

/-- Node of a counter cell; a remote cell's operations leave through the link port of the route. -/
def cellNode (s : State) : CellId → Nat
  | .core c _ => c / 8
  | .wb w _ => wbNodes.getD w 0
  | .remote d _ => linkNodes.getD ((routePort s d).getD 0) 0

/-- Send a counter operation of a thread, class 3 (Table 15.1); the core keeps the name until it is
answered (Table 10.5). -/
def sendCounter (s : State) (k : Nat) (cell : CellId) (dec : Bool) (amount name : Nat) : State :=
  let s := modThr s k fun t => { t with ctrOut := t.ctrOut ++ [s.nextMsg] }
  sendMsg s 3 (k / 64) (cellNode s cell) (.counter cell dec amount (.counter (k / 8) (k % 8) name))

/-- Publish a tuple of a thread to a handle's port, class 4; `held` is a tuple of a commit, which has an entry
reserved for it (R225). -/
def sendTuple (s : State) (k : Nat) (h : Handle) (words : List W64) (held : Bool) : State :=
  sendMsg s 4 (k / 64) (h.core / 8) (.publish h.core h.port h.gen words k held)

/-- Send the staged operation or tuple that is `i`-th in program order. -/
def sendStaged (s : State) (k : Nat) (t : Tx) (i : Nat) : State :=
  match t.ctrs.find? fun c => c.seq == i with
  | some c => sendCounter s k c.cell false c.amount c.name
  | none =>
    match t.tuples.find? fun u => u.seq == i with
    | none => s
    | some u => match Tbl.get? (thr s k).handles u.handle with
      | none => s
      | some h => sendTuple s k h u.words true

/-- Steps 6 and 7 of Table 11.5: send the staged operations and tuples, release the watches, end the
transaction. TXE retires. -/
def commitEnd (s : State) (k : Nat) : State :=
  let t := (thr s k).tx
  let s := (List.range (t.ctrs.length + t.tuples.length)).foldl (fun s i => sendStaged s k t i) s
  let rel := t.releases.foldl (fun l h => homeInsert h l) (watchHomes s k)
  let s := modTx s k fun _ => { Tx.none with releases := rel }
  let s := modThr s k fun y => { y with wait := none, job := none }
  retire s k 4

/-- Complete a commit past its commit point at once (R225, step 2 of Table 19.6). -/
def commitFinish (s : State) (k : Nat) : State :=
  match (thr s k).tx.phase with
  | .apply todo => commitEnd (todo.foldl (fun s h => applyHome s k h) s) k
  | _ => s

end Sys2Proof.Machine
end

