-- ==== Sys2Proof/Machine/CellOps.lean ====
section
/-!
DEFINITION. Counter cells (R199, R200, R205, R207, R208): values and modes, what waits on a cell, and what an operation does at its
cell.
-/
namespace Sys2Proof.Machine

/-! ### Values and modes -/

/-- Index of a weighbridge cell. -/
def wbIndex (w c : Nat) : Nat := w * 8192 + c

/-- Value of a cell of this device. -/
def cellValue (s : State) : CellId → BitVec 48
  | .core c i => Tbl.getD s.coreCells (c * 64 + i) 0
  | .wb w i => Tbl.getD s.wbCells (wbIndex w i) 0
  | .remote _ _ => 0

/-- Set a cell of this device. -/
def setCell (s : State) (cell : CellId) (v : BitVec 48) : State :=
  match cell with
  | .core c i => { s with coreCells := Tbl.set s.coreCells (c * 64 + i) v }
  | .wb w i => { s with wbCells := Tbl.set s.wbCells (wbIndex w i) v }
  | .remote _ _ => s

/-- The context that holds a weighbridge cell, and whether the cell is CREDIT (R199, R200). -/
def wbHolder (s : State) (i : Nat) : Option (Nat × Bool) :=
  s.ctxs.findSome? fun e => (e.2.wbHeld.find? fun x => x / 2 == i).map fun x => (e.1, x % 2 == 1)

/-- A cell is CREDIT (R200). -/
def cellCredit (s : State) : CellId → Bool
  | .core c i => bit (core s c).ctrMode.toNat i
  | .wb w i => match wbHolder s (wbIndex w i) with | some (_, m) => m | none => false
  | .remote _ _ => false

/-- CELL of Table 10.3 with KIND at bit 17 (Table 17.10). -/
def cellCode : CellId → Nat
  | .core c i => c * 64 + i
  | .wb w i => 2 ^ 17 + w * 8192 + i
  | .remote _ code => code

/-- The cell that a code names. -/
def codeCell (code : Nat) : CellId := if bit code 17 then .wb (bits code 14 13) (code % 8192) else .core (bits code 16 6) (code % 64)

/-! ### What waits on a cell (R205) -/

/-- How a cell's value stands to a target. -/
inductive Reach where
  | satisfied | waits | range
  deriving DecidableEq, Repr

/-- The comparison of R205. -/
def reach (credit : Bool) (v : BitVec 48) (target : W64) : Reach :=
  let t := target.toNat
  if credit then (if 2 ^ 47 ≤ t then .range else if t ≤ v.toNat then .satisfied else .waits)
  else
    let d := (t + 2 ^ 48 - v.toNat) % 2 ^ 48
    if 2 ^ 48 ≤ t ∨ d = 2 ^ 47 then .range else if d = 0 ∨ 2 ^ 47 < d then .satisfied else .waits

/-- A word of a region image at a byte offset (Table 13.6). -/
def imgWord (img : List W64) (off : Nat) : Nat :=
  let lo := (img.getD (off / 8) 0).toNat
  let hi := (img.getD (off / 8 + 1) 0).toNat
  (lo + hi * 2 ^ 64) / 2 ^ (8 * (off % 8)) % 2 ^ 64

/-- Word `w` of the table entry of section `n` of an image. -/
def sectionWord (img : List W64) (n w : Nat) : Nat := imgWord img ((img.getD 1 0).toNat + 16 * n + 8 * w)

/-- A Counter Map entry (Table 10.3). -/
def mapEntryAt (s : State) (ctx v : Nat) : Nat := readPte s (0xFFF4000000 + ctx * 0x80000 + v * 8)

/-- The cell that a Counter Map entry names, or nothing where it is invalid or malformed (Table 10.3). -/
def entryCell (s : State) (e : Nat) : Option CellId :=
  let kind := bit e 60
  let remote := bit e 59
  let dev := bits e 58 51
  if !bit e 63 || decide (1 < bits e 62 61) || bits e 50 17 != 0 then none
  else if remote && !kind then none
  else if !remote && dev != 0 then none
  else if kind then
    if bits e 16 15 ≠ 0 then none
    else if remote && dev != s.dev.devId.toNat then some (.remote dev (2 ^ 17 + bits e 14 0))
    else some (.wb (bits e 14 13) (bits e 12 0))
  else if 47 < e % 64 ∨ !isCore (bits e 16 6) then none
  else some (.core (bits e 16 6) (e % 64))

/-- The weighbridge cell that the section a region runs waits on, with its target (R262). -/
def regionWait (s : State) (r : Region) : Option (CellId × W64) :=
  let w0 := sectionWord r.image r.secno 0
  if bits w0 13 12 ≠ 1 then none
  else (entryCell s (mapEntryAt s r.ctx (bits w0 47 16))).map fun c => (c, BitVec.ofNat 64 (sectionWord r.image r.secno 1 % 2 ^ 48))

/-- A cell's value satisfies a target. -/
def met (s : State) (cell : CellId) (target : W64) : Bool := reach (cellCredit s cell) (cellValue s cell) target == .satisfied

/-- A cell has taken a value: every wait that it satisfies is marked, so that a later value does not undo it
(R205). -/
def noteCell (s : State) (cell : CellId) : State :=
  let threads := s.threads.map fun (e : Nat × Thread) =>
    match e.2.wait with
    | some (.cwait c name t en m since) =>
      if c = cell ∧ met s cell t then (e.1, { e.2 with wait := some (.cwait c name t en true since) })
      else (e.1, { e.2 with wait := some (.cwait c name t en m since) })
    | _ => e
  let rings := s.rings.map fun (e : Nat × Ring) =>
    match e.2.st with
    | .waiting c t m since limit =>
      (e.1, { e.2 with st := .waiting c t (m || (decide (c = cell) && met s cell t)) since limit })
    | _ => e
  let regions := s.regions.map fun (e : Nat × Region) =>
    match regionWait s e.2 with
    | some (c, t) => (e.1, { e.2 with met := e.2.met || (decide (c = cell) && met s cell t) })
    | none => e
  { s with threads := threads, rings := rings, regions := regions }

/-! ### Operations at the cell (R207, R208, Table 10.5) -/

/-- The cells of a core answer: the core is good and its CTR_MODE is in force (R381, Table 22.3). -/
def cellAlive (s : State) : CellId → Bool
  | .core c _ => goodCore s c && !(core s c).ctrDead
  | _ => true

/-- Outcome of an operation at its cell: applied, or refused with a reason. -/
inductive Applied where
  | ok (s : State)
  | refused (reason : Nat)

/-- The context that a cell belongs to (R199). -/
def cellCtx (s : State) : CellId → Option Nat
  | .core c _ => (core s c).ctx
  | .wb w i => (wbHolder s (wbIndex w i)).map (·.1)
  | .remote _ _ => none

/-- Something touched a context (R212). -/
def noteAct (s : State) (ctx : Option Nat) : State :=
  match ctx with
  | some c => modCtx s c fun x => { x with acts := x.acts + 1 }
  | none => s

/-- A cell takes a value by an operation. -/
def putCell (s : State) (cell : CellId) (v : Nat) : State :=
  noteCell (setCell (noteAct s (cellCtx s cell)) cell (BitVec.ofNat 48 v)) cell

/-- Apply an increment or decrement at a cell of this device. -/
def applyCell (s : State) (cell : CellId) (dec : Bool) (amount : Nat) : Applied :=
  let v := (cellValue s cell).toNat
  if !cellAlive s cell then .refused 2
  else if !cellCredit s cell then (if dec then .refused 4 else .ok (putCell s cell (v + amount)))
  else if dec then (if v < amount then .refused 5 else .ok (putCell s cell (v - amount)))
  else if 2 ^ 47 ≤ v + amount then .refused 7
  else .ok (putCell s cell (v + amount))

/-- Post COUNTER_UNDERFLOW (reasons 4, 5) or COUNTER_RANGE (6, 7) on a context's ring (R207). -/
def counterRecord (s : State) (node scls srcid ctx : Nat) (cell : CellId) (operand : W64) (reason : Nat) : State :=
  if reason < 4 ∨ 7 < reason then s
  else recordCtx s node scls srcid ctx (if reason ≤ 5 then 8 else 9) (BitVec.ofNat 64 (cellCode cell))
    ((cellValue s cell).setWidth 64) operand (BitVec.ofNat 64 (srcid + reason * 2 ^ 16)) 0

end Sys2Proof.Machine
end

