-- ==== Sys2Proof/Machine/Context.lean ====
section
/-!
DEFINITION. What happens to threads, ports, channels, regions, haul chains and commands when a thread, a
kernel or a context stops, and the completion of commands (R332 to R347, R340, R342, R377, R381, R244).
-/
namespace Sys2Proof.Machine

/-! ### Packets and completions -/

/-- OPCODE of a packet (Table 17.2). -/
def pktOp (p : Packet) : Nat := bits (p.getD 0 0).toNat 7 0
/-- VER. -/
def pktVer (p : Packet) : Nat := bits (p.getD 0 0).toNat 9 8
/-- CTX. -/
def pktCtx (p : Packet) : Nat := bits (p.getD 0 0).toNat 15 10
/-- TAG. -/
def pktTag (p : Packet) : Nat := bits (p.getD 0 0).toNat 31 16
/-- GROUP. -/
def pktGroup (p : Packet) : Nat := bits (p.getD 0 0).toNat 39 32
/-- FLAGS. -/
def pktFlags (p : Packet) : Nat := bits (p.getD 0 0).toNat 47 40
/-- Parameter Pi; a parameter that the packet does not carry reads as zero (R330). -/
def pktP (p : Packet) (i : Nat) : W64 := p.getD (i + 1) 0

/-- The opcodes that name no context (R332): NOP, CTX_CREATE, the device class, GROUP_OPEN and GROUP_CLOSE. -/
def namesNoContext (op : Nat) : Bool := op == 0 || op == 0x10 || (decide (0x30 ≤ op) && decide (op ≤ 0x39))

/-- The function of a ring owns a context. -/
def ringOwns (s : State) (rk ctx : Nat) : Bool :=
  match Tbl.get? s.ctxs ctx with
  | none => false
  | some x => x.port == rk / 512 && x.fn == rk / 16 % 32

/-- The context that a packet names (R332). -/
def pktContext (s : State) (rk : Nat) (p : Packet) : Option Nat :=
  if namesNoContext (pktOp p) then none else if ringOwns s rk (pktCtx p) then some (pktCtx p) else none

/-- The event ring that a command's COMPLETION goes to, with the context it names (R332). -/
def answerRing (s : State) (rk : Nat) (p : Packet) : Option (Nat × Option Nat) :=
  match pktContext s rk p with
  | some c => some (c, some c)
  | none =>
    if rk / 16 % 32 = 0 then some (devRing (rk / 512), none)
    else (s.ctxs.find? fun e => e.2.port == rk / 512 && e.2.fn == rk / 16 % 32).map fun e => (e.1, none)

/-- Word 3 of a COMPLETION (Table 17.8). -/
def completionWord (tag op status rg reason : Nat) : W64 :=
  BitVec.ofNat 64 (tag + op * 2 ^ 16 + status * 2 ^ 24 + rg * 2 ^ 32 + reason * 2 ^ 40)

/-- The event ring that a CTX_CREATE's own P0 and P1 describe, where they can (R332): log2 N, vector, base. -/
def describedRing (p : Packet) : Option (Nat × Nat × Nat) :=
  let p0 := (pktP p 0).toNat
  let p1 := (pktP p 1).toNat
  if pktOp p = 0x10 ∧ 6 ≤ bits p0 28 24 ∧ bits p0 28 24 ≤ 20 ∧ p1 % 4096 = 0 ∧ p1 < 2 ^ 40 then some (bits p0 28 24, bits p0 38 32, p1) else none

/-- Event ring number for the ring that a refused CTX_CREATE of a command ring describes. -/
def ownRing (rk : Nat) : Nat := 128 + rk

/-- Write the record that answers a packet (R347: SCLASS 0 and the ring's SRCID); type 2 is FENCE_DONE. A refused
CTX_CREATE answers on the ring that it describes (R332). -/
def answerPacket (s : State) (rk : Nat) (p : Packet) (ty status reason : Nat) (w4 w5 w6 w7 : W64) : State :=
  let w3 := completionWord (pktTag p) (pktOp p) status (rk % 16) reason
  match describedRing p with
  | some (log2n, vec, base) =>
    let rg := ownRing rk
    let s := modEvring s rg fun _ => { EvRing.init with en := true, port := rk / 512, base := base, log2n := log2n, vector := vec }
    makeRecord { s with seqs := s.seqs.filter fun e => e.1 / 2 ^ 20 != rg } (portNode (rk / 512)) rg 0 rk ty none w3 w4 w5 w6 w7
  | none =>
  match answerRing s rk p with
  | none => s
  | some (rg, ctx) =>
    makeRecord s (portNode (rk / 512)) rg 0 rk ty ctx w3 w4 w5 w6 w7

/-- A ring's command begins or completes: every context of its function is touched (R211, R212). -/
def ringActs (s : State) (rk : Nat) : State :=
  { s with ctxs := s.ctxs.map fun e => (e.1, if ringOwns s rk e.1 then { e.2 with acts := e.2.acts + 1 } else e.2) }

/-- A ring's command completes: its record is made, and the ring may begin the next (R328). -/
def finish (s : State) (rk status reason : Nat) (w4 w5 w6 w7 : W64) : State :=
  match (ring s rk).cur with
  | none => s
  | some p =>
    let s := answerPacket (ringActs s rk) rk p 1 status reason w4 w5 w6 w7
    modRing s rk fun r => { r with cur := none, st := .ready }

/-- A ring's command completes with a status and no payload. -/
def finishWith (s : State) (rk status : Nat) : State := finish s rk status 0 0 0 0 0

/-! ### Channel ports (Table 12.1) -/

/-- Offset of a port record in its core's store. -/
def portOff (p w : Nat) : Nat := 0x7A000 + 64 * p + 8 * w

/-- Word `w` of the record of port `p`. -/
def portWord (s : State) (c p w : Nat) : Nat := leNat (homeRead s (.store c (portOff p w)) 8)

/-- Write a word of a port record. -/
def setPortWord (s : State) (c p w v : Nat) : State :=
  homeWrite s (.store c (portOff p w)) (offsets (leBytes 8 v)) false none

/-- COUNT, HEAD, RESV, LIVE, BLOCKED and GEN of a port. -/
def portCount (s : State) (c p : Nat) : Nat := bits (portWord s c p 0) 15 0
/-- HEAD. -/
def portHead (s : State) (c p : Nat) : Nat := bits (portWord s c p 0) 27 16
/-- RESV. -/
def portResv (s : State) (c p : Nat) : Nat := bits (portWord s c p 0) 47 32
/-- LIVE. -/
def portLive (s : State) (c p : Nat) : Bool := bit (portWord s c p 0) 48
/-- GEN. -/
def portGen (s : State) (c p : Nat) : Nat := bits (portWord s c p 0) 63 56
/-- The STATUS word from its fields. -/
def portStatus (count head resv : Nat) (live blocked : Bool) (gen : Nat) : Nat :=
  count + head * 2 ^ 16 + resv * 2 ^ 32 + b2n live * 2 ^ 48 + b2n blocked * 2 ^ 49 + gen * 2 ^ 56
/-- BLOCKED. -/
def portBlocked (s : State) (c p : Nat) : Bool := bit (portWord s c p 0) 49

/-- Entries that a port's queue holds, and the bytes of an entry (R234). -/
def portSize (s : State) (c p : Nat) : Nat := 2 ^ bits (portWord s c p 1) 23 20
/-- ARITY. -/
def portArity (s : State) (c p : Nat) : Nat := bits (portWord s c p 1) 26 24
/-- Bytes of an entry. -/
def entryBytes (arity : Nat) : Nat := if arity = 0 then 64 else 32
/-- Core offset of entry `i` of a port's queue. -/
def entryOff (s : State) (c p i : Nat) : Nat := bits (portWord s c p 1) 19 0 + i * entryBytes (portArity s c p)

/-- Add 1 modulo 2³² to a half of a record word, or stop at its largest value. -/
def bump32 (stop : Bool) (v : Nat) : Nat := if stop then min (v + 1) (2 ^ 32 - 1) else (v + 1) % 2 ^ 32

/-- Place an entry at the queue's end (R240); `held` gives up a reservation. -/
def placeEntry (s : State) (c p : Nat) (words : List W64) (held : Bool) : State :=
  let count := portCount s c p
  let i := (portHead s c p + count) % portSize s c p
  let o := entryOff s c p i
  let n := entryBytes (portArity s c p) / 8
  let s := homeWrite s (.store c o) (offsets (((List.range n).map fun j => words.getD j 0).flatMap fun w => leBytes 8 w.toNat)) false none
  let w3 := portWord s c p 3
  let s := setPortWord s c p 3 (bump32 false (w3 % 2 ^ 32) + w3 / 2 ^ 32 * 2 ^ 32)
  setPortWord s c p 0 (portStatus (count + 1) (portHead s c p) (portResv s c p - b2n held) (portLive s c p) false (portGen s c p))

/-- CTREN's increment of the owning core's cell, as a CINC (R240). One that is refused posts the record of R207, whose issuer is the
thread that sent the tuple; it raises no fault in that thread, whose send is answered OK (DESIGN CHOICE, log entry 36). -/
def portCounter (s : State) (c p sender : Nat) : State :=
  let cfg := portWord s c p 1
  if bit cfg 38 then
    match applyCell s (.core c (bits cfg 37 32)) false 1 with
    | .ok s => s
    | .refused reason => match (core s c).ctx with
      | some ctx => counterRecord s (c / 8) 2 sender ctx (.core c (bits cfg 37 32)) 1 reason
      | none => s
  else s

/-- A tuple of a thread enters a port's queue (R240). -/
def placeTuple (s : State) (c p : Nat) (words : List W64) (held : Bool) (sender : Nat) : State :=
  portCounter (placeEntry s c p words held) c p sender

/-- Tuples of commits past their commit point on their way to a port. -/
def heldFor (c p : Nat) (m : Msg) : Bool :=
  match m.pay with | .publish c' p' _ _ _ held => held && c' == c && p' == p | _ => false

/-- Place every such tuple at once (R244). -/
def placeHeld (s : State) (c p : Nat) : State :=
  let ms := (s.mesh ++ s.inbox).filter (heldFor c p)
  let s := ms.foldl (fun s m => match m.pay with | .publish _ _ _ words k _ => placeTuple s c p words true k | _ => s) s
  { s with mesh := s.mesh.filter fun m => !heldFor c p m, inbox := s.inbox.filter fun m => !heldFor c p m }

/-- Free a port (R236, R244): a commit before its commit point that holds a reservation there aborts with PEER,
DETAIL 3; the tuples of one past it are placed first; then LIVE and RESV are cleared. -/
def freePort (s : State) (c p : Nat) : State :=
  if !portLive s c p then s
  else
    let holders := (s.threads.filter fun t => t.2.tx.reserved.contains (c, p, portGen s c p)).map (·.1)
    let s := holders.foldl (fun s k =>
      match (thr s k).tx.phase with
      | .prepare _ | .check _ => abortTx s k 9 0 3 (c / 8)
      | .apply _ => commitFinish s k
      | .open => s) s
    let s := placeHeld s c p
    setPortWord s c p 0 (portStatus (portCount s c p) (portHead s c p) 0 false (portBlocked s c p) (portGen s c p))

/-- OWNER of a port. -/
def portOwner (s : State) (c p : Nat) : Nat := bits (portWord s c p 1) 42 40

/-- Free the ports of a core that a thread owns (R244), or every port of the core. -/
def freePorts (s : State) (c : Nat) (owner : Option Nat) : State :=
  (List.range 32).foldl (fun s p =>
    match owner with
    | some t => if portOwner s c p = t then freePort s c p else s
    | none => freePort s c p) s

/-! ### Waits -/

/-- A wait that an interrupt or debug halt abandons (R99, R241): not one whose answer is under way. -/
def abandonable : Wait → Bool
  | .tput _ _ _ | .tget _ _ | .tend | .cwait _ _ _ _ _ _ | .stream _ _ _ | .tloadStream _ | .pri _ | .tmma => true
  | .send _ _ _ _ _ inFlight _ _ => !inFlight
  | .commit | .wedge _ => false

/-- Accesses of an instruction under way that are not answered yet. -/
def Job.open (j : Job) : Nat := j.sent - j.got.length

/-- Nothing is taken now: the instruction that a thread is executing completes first, or the lanes of a gather or scatter that were
issued do (R99, R114). -/
def firmJob (s : State) (k : Nat) : Bool :=
  match (thr s k).job with
  | none => false
  | some j => j.firm || (match j.kind with | .gather _ _ => decide (j.open ≠ 0) | _ => false)

/-- Abandon the instruction that a thread waits in or executes in pieces: it issues again (R99). -/
def abandonWait (s : State) (k : Nat) : State :=
  let s := if firmJob s k then s else dropJob s k
  match (thr s k).wait with
  | some w => if abandonable w then modThr (dropArray (dropWait s k) k) k fun t => { t with wait := none } else s
  | none => s

/-- Raise a deferred fault at a thread's next instruction boundary (R190). -/
def addDeferred (s : State) (k : Nat) (e : Exn) : State :=
  modThr s k fun t => if t.run = .ended then t else { t with deferred := t.deferred ++ [e] }

/-- The debug-halt flag of a thread (R86, R340): it is taken at the thread's next boundary, where an open transaction aborts
first (R219, R220). -/
def debugHalt (s : State) (k : Nat) : State :=
  let s := if (thr s k).tx.depth > 0 then s else abandonWait s k
  modThr s k fun t => { t with dbg := true }

/-- A thread whose debug halt has been taken, or that issues nothing anyway (R340). -/
def stoppedThread (s : State) (k : Nat) : Bool :=
  let t := thr s k
  t.run != .running || (t.dbg && t.wait.isNone && t.job.isNone && t.tx.depth == 0)

/-- Every thread of every good core of a context's grant. -/
def contextThreads (s : State) (x : Ctx) : List Nat := (grantCores s x).flatMap fun c => coreThreads s c

/-- Halt a context, as the HALT command does (R102, R212). -/
def haltContext (s : State) (ctx : Nat) : State :=
  match Tbl.get? s.ctxs ctx with
  | none => s
  | some x =>
    let s := (contextThreads s x).foldl (fun s k => debugHalt s k) s
    modCtx s ctx fun x => { x with halted := true }

/-! ### Stopping threads, chains and regions -/

/-- Stop a thread (R340): a commit past its commit point completes, any other transaction aborts, staged
words are discarded and waits abandoned; the thread is ENDED. -/
def stopThread (s : State) (k : Nat) : State :=
  if (thr s k).run = .ended then s
  else
    let s := match (thr s k).tx.phase with
      | .apply _ => commitFinish s k
      | _ => if (thr s k).tx.depth > 0 then abortTx s k 7 0 0 0xFFFF else s
    let s := dropJob (dropArray (dropWait s k) k) k
    modThr s k fun t => { t with run := .ended, wait := none, staged := [], stageHandle := none, deferred := [], aborts := [] }

/-- The deferred fault of a thread whose chain ended with a status (R279). -/
def haulFault (ch code faddr : Nat) : Exn :=
  { code := causeOfStatus code, engine := 3, info := BitVec.ofNat 32 (code + ch * 2 ^ 8 + 2 ^ 31),
    faddr := BitVec.ofNat 64 faddr }

/-- A ring's command whose chain ended or was refused with a status completes with ADDRESS, the status as REASON (R272, R279,
R333). -/
def failCommand (s : State) (rk code bytes : Nat) : State :=
  if (ring s rk).cur.isSome then finish s rk 10 code (BitVec.ofNat 64 bytes) 0 0 0 else s

/-- A channel with nothing staged and nothing in flight. -/
def HaulCh.quit (h : HaulCh) : HaulCh :=
  { h with chain := [], page := .idle, descRead := none, buf := [], outs := [], failAt := none, checkTag := none, checked := false }

/-- End a channel's chain with a status of Table 14.4 (R279, R281): state 5 when stopped, 4 on an error.
The launching thread takes the deferred fault, and its scoreboard entries are freed; a command's chain reports the status in its
command's COMPLETION. -/
def haulEnd (s : State) (n ch code faddr : Nat) : State :=
  let h := haulCh s n ch
  let s := modHaul s n ch fun h => { h.quit with state := if code = 7 then 5 else 4, code := code, faddr := faddr }
  let s := modBench s n fun b => { b with haulStop := b.haulStop &&& ~~~(BitVec.ofNat 16 (2 ^ ch)) }
  if h.srck = 0 then
    let c := n * 8 + h.core
    let s := modCore s c fun x => { x with sb := x.sb.filter fun e => e.2.haul != some (n * 16 + ch) }
    addDeferred s (c * 8 + h.thr) (haulFault ch code faddr)
  else match h.ring with
    | some rk => failCommand s rk code h.bytes
    | none => s

/-- A chain is running on a channel. -/
def haulBusy (s : State) (n ch : Nat) : Bool :=
  let st := (haulCh s n ch).state
  st == 1 || st == 2 || st == 3

/-! ### A channel's accesses in flight (R269, R277, R279) -/

/-- Note a failing position of the running descriptor, with its status and address; the lowest one counts (R279). A queue
takes whole entries, so a QOUT fails at one's first byte. -/
def haulNote (s : State) (n ch pos st faddr : Nat) : State :=
  modHaul s n ch fun h =>
    let op := bits (((h.chain.headD (0, [])).2).getD 7 0).toNat 2 0
    let pos := if op = 3 then pos / 64 * 64 else pos
    { h with failAt := match h.failAt with
      | some (p, a) => if p ≤ pos then some (p, a) else some (pos, st, faddr)
      | none => some (pos, st, faddr) }

/-- What the channel's state says once an access is over: a failed descriptor ends the chain when every byte before the failing
position is written and no write is in flight; a descriptor whose whole stream is written and acknowledged is completing
(step 1 of Table 14.3). -/
def haulSettle (s : State) (n ch : Nat) : State :=
  let h := haulCh s n ch
  if !h.outs.isEmpty ∨ h.checkTag.isSome then s
  else match h.failAt with
    | some (p, st, fa) =>
      if p ≤ h.bytes ∨ st = 7 then haulEnd (modHaul s n ch fun h => { h with bytes := min p h.bytes }) n ch st fa else s
    | none => if h.state = 2 ∧ h.bytes = h.total then modHaul s n ch fun h => { h with state := 3, buf := [] } else s

/-- The descriptor read in flight brings its words. -/
def fillDesc (w : List W64) : List (Nat × List W64) → List (Nat × List W64)
  | [] => []
  | (a, []) :: rest => (a, w) :: rest
  | d :: rest => d :: fillDesc w rest

/-- The address of the descriptor being read. -/
def descWanted (l : List (Nat × List W64)) : Option Nat := (l.find? fun d => d.2.isEmpty).map (·.1)

/-- The eight words of 64 bytes. -/
def wordsOf (bs : List Byte) : List W64 := (List.range 8).map fun i => BitVec.ofNat 64 (leNat ((bs.drop (8 * i)).take 8))

/-- Data answers a read of a channel: a descriptor, or bytes for its staging buffer. An answer to a chain that is over matches no
tag and is discarded (R279). -/
def haulGot (s : State) (n ch tag : Nat) (bytes : List Byte) (psn : Bool) : State :=
  let h := haulCh s n ch
  if h.descRead = some tag then modHaul s n ch fun h => { h with descRead := none, chain := fillDesc (wordsOf bytes) h.chain }
  else modHaul s n ch fun h =>
    { h with buf := h.buf.map fun b => if b.tag = tag then { b with data := some bytes, poison := psn } else b }

/-- A write of a channel is acknowledged: its check word, or one of the stream. -/
def haulAcked (s : State) (n ch tag : Nat) : State :=
  let h := haulCh s n ch
  if h.checkTag = some tag then haulSettle (modHaul s n ch fun h => { h with checkTag := none, checked := true }) n ch
  else if h.outs.any fun o => o.1 == tag then haulSettle (modHaul s n ch fun h => { h with outs := h.outs.filter fun o => o.1 != tag }) n ch
  else s

/-- An error answers an access of a channel. -/
def haulFailed (s : State) (n ch tag code : Nat) : State :=
  let h := haulCh s n ch
  let st := statusOfCause (code % 256)
  if h.descRead = some tag then haulEnd s n ch st ((descWanted h.chain).getD 0)
  else if h.checkTag = some tag then haulEnd s n ch st ((((h.chain.headD (0, [])).2).getD 5 0).toNat)
  else match h.outs.find? fun o => o.1 == tag with
    | some o => haulAcked (haulNote s n ch o.2.1 st o.2.2) n ch tag
    | none => match h.buf.find? fun b => b.tag == tag && b.data.isNone with
      | some b => haulSettle (haulNote s n ch b.n st b.addr) n ch
      | none => s

/-- Stop a channel (R281): what is staged is discarded, and the chain ends once the writes issued are over; `now` where nothing
answers any more. -/
def haulStopCh (s : State) (n ch : Nat) (now : Bool) : State :=
  if !haulBusy s n ch then s
  else if now then haulEnd s n ch 7 (haulCh s n ch).desc
  else haulSettle (modHaul s n ch fun h => { h with buf := [], failAt := some (h.bytes, 7, h.desc) }) n ch

/-- Stop the channels of a bench whose chain satisfies a test. -/
def haulStopIf (s : State) (n : Nat) (now : Bool) (p : HaulCh → Bool) : State :=
  (List.range 16).foldl (fun s ch => if p (haulCh s n ch) then haulStopCh s n ch now else s) s

/-- The nodes of a region's rectangle. -/
def regionRect (r : Region) : List Nat :=
  (List.range r.h).flatMap fun y => (List.range r.w).map fun x => (r.y0 + y) * 16 + (r.x0 + x)

/-- The benches that take part in a region: those it was loaded on that are still good; every other node is a hole
(R248, R267). -/
def regionBenches (s : State) (r : Region) : List Nat :=
  r.parts.filter fun n => !isFenced s 2 n

/-- STREAM (R116): the operand z and the reason. -/
def streamExn (z reason : Nat) : Exn := { code := 13, engine := 1, info := BitVec.ofNat 32 (z + reason * 2 ^ 4), faddr := 0 }

/-- An exception of a TLOAD from a stream with a number of rows written: INFO is that of Table 7.11 (R166; log entry 31). -/
def tileStreamExn (code : Nat) (f : TMemFields) (rows : Nat) : Exn :=
  { code := code, engine := 2, info := BitVec.ofNat 32 (f.t.toNat * 2 ^ 8 + rows * 2 ^ 16), faddr := 0 }

/-- The stream operand that a thread waits on, with the STREAM that its instruction raises for a reason. -/
def streamWaitZ : Option Wait → Option (Nat × (Nat → Exn))
  | some (.stream _ f _) => some (f.vs1.toNat % 8, streamExn (f.vs1.toNat % 8))
  | some (.tloadStream f) => some (f.rs1.toNat % 8, fun _ => tileStreamExn 13 f 0)
  | _ => none

/-- Threads of a bench that wait on a stream operand raise STREAM with reason 3 (R265): the fault waits for the
boundary, and its PC is the instruction's. -/
def streamRelease (s : State) (n : Nat) : State :=
  (List.range 64).foldl (fun s i =>
    let k := n * 64 + i
    match streamWaitZ (thr s k).wait with
    | some (_, exn) => modThr s k fun t => { t with wait := none, deferred := t.deferred ++ [exn 3] }
    | none => s) s

/-- The queues of a bench emptied; the counts of flushed entries stay (R264). -/
def emptyQueues (t : Tbl SQueue) : Tbl SQueue := t.map fun e => (e.1, { SQueue.init with flushed := e.2.flushed })

/-- Unload a region at once, discarding every entry (R262). -/
def unloadRegion (s : State) (rid : Nat) : State :=
  match Tbl.get? s.regions rid with
  | none => s
  | some r =>
    let s := (regionBenches s r).foldl (fun s n =>
      let s := modBench s n fun b => { b with ssEn := false, ssLoaded := false, ssState := 0, ssSection := 0, ssRegion := 0, queues := emptyQueues b.queues, zDone := [] }
      streamRelease s n) s
    { s with regions := Tbl.erase s.regions rid }

/-- A COMPLETION with the tag of a region's STREAM_LOAD, that no command asked for (R264, R267, R347). -/
def regionRecord (s : State) (r : Region) (node scls srcid status : Nat) : State :=
  recordCtx s node scls srcid r.ctx 1
    (completionWord r.tag 0x28 status r.ring.ring.toNat 0) 0 0 0 0

/-- Unload a region with REGION_LOST (R267); a change in progress for a command completes with it too. -/
def loseRegion (s : State) (rid : Nat) : State :=
  match Tbl.get? s.regions rid with
  | none => s
  | some r =>
    let s := match r.bycmd with
      | some q => finishWith s (ringKey q) 18
      | none => s
    unloadRegion (regionRecord s r mgNode 1 0 18) rid

/-! ### Contexts -/

/-- A payload with its requester changed. -/
def mapReq (f : Requester → Requester) : Payload → Payload
  | .cacheRead t n x r => .cacheRead t n x (f r)
  | .cacheWrite t b p x n r => .cacheWrite t b p x n (f r)
  | .read t n r => .read t n (f r)
  | .write t b p r => .write t b p (f r)
  | .atomic t o n a b r => .atomic t o n a b (f r)
  | .counter c d a r => .counter c d a (f r)
  | .txRead t n r => .txRead t n (f r)
  | .data b p h r => .data b p h (f r)
  | .ack r => .ack (f r)
  | .error c r => .error c (f r)
  | p => p

/-- The requesters of the messages in flight, changed. -/
def mapInFlight (s : State) (f : Requester → Requester) : State :=
  let g (m : Msg) : Msg := { m with pay := mapReq f m.pay }
  let benches := s.benches.map fun (e : Nat × Bench) =>
    (e.1, { e.2 with fetches := e.2.fetches.map fun (x : Fetch) => { x with waiting := x.waiting.map g } })
  { s with mesh := s.mesh.map g, inbox := s.inbox.map g, benches := benches }

/-- A requester whose answer no one takes any more: its ring's command has been abandoned. -/
def orphanRing (rk : Nat) : Requester → Requester
  | .signal r => if r = rk then .unit else .signal r
  | .kernelFlush r p => if r = rk then .unit else .kernelFlush r p
  | r => r

/-- Abandon every command of a context in progress, but for the ring `but` (R342): each completes with
CONTEXT_LOST; a group that names the context is discarded (R232). `quiet` writes no record (FLR, PORT reset). -/
def abandonCommands (s : State) (ctx : Nat) (but : Option Nat) (quiet : Bool) : State :=
  let s := (s.rings.map (·.1)).foldl (fun s rk =>
    if some rk = but then s
    else
      let r := ring s rk
      let s := match r.group with
        | some (num, members) =>
          if members.any fun m => pktContext s rk m.1 == some ctx then
            let s := if quiet then s else members.foldl (fun s m =>
              answerPacket s rk m.1 1 (if pktContext s rk m.1 == some ctx then 15 else 19) 0 0 0 0 0) s
            modRing s rk fun r => { r with group := none, discard := num }
          else s
        | none => s
      match (ring s rk).cur with
      | some p =>
        if pktContext s rk p == some ctx then
          let s := if (ring s rk).st = .ready then s else mapInFlight s (orphanRing rk)
          if quiet then modRing s rk fun r => { r with cur := none, st := .ready } else finishWith s rk 15
        else s
      | none => s) s
  { s with launches := s.launches.filter fun l => l.ctx != ctx }

/-- Every haul chain of a context stops (R281). -/
def stopHauls (s : State) (ctx : Nat) : State :=
  (s.benches.map (·.1)).foldl (fun s n => haulStopIf s n true fun h => !h.fw && h.ctx == ctx) s

/-- Every region of a context is unloaded (R262). -/
def unloadRegions (s : State) (ctx : Nat) : State :=
  ((s.regions.filter fun r => r.2.ctx == ctx).map (·.1)).foldl (fun s rid => unloadRegion s rid) s

/-- CAUSE (Table 4.6). -/
def causeWord (code : Nat) (intr : Bool) (esc engine : Nat) (info : BitVec 32) : W64 :=
  BitVec.ofNat 64 (code + b2n intr * 2 ^ 8 + esc * 2 ^ 9 + engine * 2 ^ 12 + info.toNat * 2 ^ 16)

/-- Steps 2 to 4 of ending a context (R377): its threads stop, its regions and haul chains go, and its
commands complete with CONTEXT_LOST. -/
def endContextNow (s : State) (ctx : Nat) : State :=
  match Tbl.get? s.ctxs ctx with
  | none => s
  | some x =>
    let s := (contextThreads s x).foldl (fun s k => stopThread s k) s
    let s := (grantCores s x).foldl (fun s c => modCore s c fun y => { y with kernel := none, partEnded := false }) s
    let s := stopHauls (unloadRegions s ctx) ctx
    let s := abandonCommands s ctx none false
    modCtx s ctx fun x => { x with ended := true }

/-- End a context whose thread `k` consumed poison (R377, R387). -/
def endContext (s : State) (ctx k lvl : Nat) (cause faddr pc : W64) : State :=
  let info := bits cause.toNat 47 16
  endContextNow (recordCtx s (k / 64) 2 k ctx 5
    (BitVec.ofNat 64 (k + bits info 7 0 * 2 ^ 16 + bits info 11 8 * 2 ^ 24 + lvl * 2 ^ 32)) faddr pc cause 1) ctx

/-- A FAULT event of a thread (Table 17.10). -/
def faultEvent (s : State) (k lvl : Nat) (cause faddr pc : W64) : State :=
  match ctxOf s k with
  | none => s
  | some ctx =>
    recordCtx s (k / 64) 2 k ctx 3
      (BitVec.ofNat 64 (k % 8 + (k / 8) * 2 ^ 3 + lvl * 2 ^ 14)) cause faddr pc 0

/-- A thread other than thread 0 halts, with its TPEND bit set (R96 rule 5). -/
def haltThread (s : State) (k : Nat) : State :=
  let s := modThr s k fun t => { t with run := .halted, wait := none }
  modCore s (k / 8) fun c => { c with tpend := c.tpend ||| BitVec.ofNat 8 (2 ^ (k % 8)) }

/-! ### Fencing a core (R381, R382, R388) -/

/-- Remove from the logical core tables of contexts with no LAUNCH in progress the cores that are no longer
good (R382). -/
def trimTables (s : State) : State :=
  { s with ctxs := s.ctxs.map fun e =>
      if s.launches.any fun l => l.ctx == e.1 then e
      else (e.1, { e.2 with lcore := e.2.lcore.filter fun c => goodCore s c && (core s c).ctx == some e.1 }) }

/-- The UNIT_FENCED records of a unit (R388): a copy on each device ring and on the ring of every context
of `ctxs`, given with its pages withdrawn and the lowest virtual address withdrawn. -/
def fencedRecords (s : State) (name reason : Nat) (restored : Bool) (pages : Nat) (ctxs : List (Nat × Nat × Nat)) : State :=
  let w3 := BitVec.ofNat 64 name
  let w4 := BitVec.ofNat 64 (reason + b2n restored * 2 ^ 8)
  let w5 := BitVec.ofNat 64 (goodCount s)
  let s := recordDev s mgNode 1 0 13 w3 w4 w5 (BitVec.ofNat 64 pages) 0
  ctxs.foldl (fun s c => recordCtx s mgNode 1 0 c.1 13 w3 w4 w5 (BitVec.ofNat 64 c.2.1) (BitVec.ofNat 64 c.2.2)) s

/-- Contexts whose grant holds a bench. -/
def holders (s : State) (n : Nat) : List Nat := (s.ctxs.filter fun e => e.2.grant.contains n).map (·.1)

/-- A requester whose answer no one takes any more: it is a core's that has been reset or fenced. -/
def orphanReq (c : Nat) : Requester → Requester
  | .access c' slot => if c' = c then .unit else .access c' slot
  | .counter c' t name => if c' = c then .unit else .counter c' t name
  | r => r

/-- The accesses that a core has in flight go on without it: they take effect at their homes, and their answers are
taken by no thread (R409, step 3 of Table 19.6). -/
def orphanCore (s : State) (c : Nat) : State := mapInFlight s (orphanReq c)

/-- Stop everything of one core (steps 1 to 4 of Table 19.6), and report its threads to its LAUNCH as left
HALTED (step 6). -/
def quitCore (s : State) (c : Nat) : State :=
  let s := (coreThreads s c).foldl (fun s k => stopThread s k) s
  let s := haulStopIf s (c / 8) true fun h => h.srck == 0 && h.core == c % 8
  let s := { s with launches := s.launches.map fun l =>
    if l.cores.contains c then { l with lost := l.lost ++ coreThreads s c } else l }
  modCore (orphanCore s c) c fun x => { x with sb := [], array := [], partEnded := x.kernel.isSome }

/-- The regions in which a core has a stream operand bound in the section that runs. -/
def boundRegions (s : State) (c : Nat) : List Nat :=
  let b := bench s (c / 8)
  if b.ssLoaded && (Tbl.getD b.zbind (2 * (c % 8)) 0 != 0 || Tbl.getD b.zbind (2 * (c % 8) + 1) 0 != 0) then [b.ssRegion] else []

/-- Note a fence in the Unit Record, written to the flash at once (R386). -/
def noteFence (s : State) (name reason : Nat) : State :=
  let now := stampOf s
  let s := modUnit s name fun u => { u with fenceStamp := some now, reason := reason, upd := u.upd + 1, due := none }
  { s with flash := { s.flash with records := Tbl.set s.flash.records name (unitRec s name) } }

/-- Every commit past its commit point that has still to apply at one of these homes completes at once
(R225: the fence of a home waits for them). -/
def finishAt (s : State) (hs : List HomeId) : State :=
  ((s.threads.filter fun t => match t.2.tx.phase with
    | .apply todo => todo.any fun h => hs.contains h
    | _ => false).map (·.1)).foldl (fun s k => commitFinish s k) s

/-- What of a core a thread's open transaction uses, as the DETAIL of PEER: 1 a line of its store, 2 a cell, 3 a port (Table 11.3). -/
def peerDetail (s : State) (t : Thread) (c : Nat) : Option Nat :=
  let home := HomeId.store (BitVec.ofNat 11 c)
  if t.tx.depth = 0 ∨ t.tx.phase ≠ .open then none
  else if (t.tx.reads ++ t.tx.writes.map (·.1)).any fun l => ledgerHome s l == home then some 1
  else if t.tx.ctrs.any fun x => match x.cell with | .core c' _ => c' == c | _ => false then some 2
  else if t.tx.tuples.any fun x => ((Tbl.get? t.handles x.handle).map fun h => h.core == c).getD false then some 3
  else none

/-- The fence of a core is reported to every open transaction that uses it (R220, Table 11.3 PEER). -/
def peerReports (s : State) (c : Nat) : State :=
  s.threads.foldl (fun s e => match peerDetail s e.2 c with
    | some d => addAbort s e.1 { code := 9, detail := d, node := c / 8 }
    | none => s) s

/-- Fence a core (R381). A core already fenced stays as it is (R380). -/
def fenceCore (s : State) (c reason : Nat) : State :=
  let name := unitName 1 c
  if NSet.has s.dev.fenceMap name then s
  else
    let s := finishAt s [.store (BitVec.ofNat 11 c)]
    let s := peerReports (quitCore s c) c
    let s := (boundRegions s c).foldl (fun s rid => loseRegion s rid) s
    let s := modDev s fun d => { d with fenceMap := NSet.add d.fenceMap name }
    let s := noteFence (trimTables s) name reason
    fencedRecords s name reason false 0 ((holders s (c / 8)).map fun x => (x, 0, 0))

/-- A transient residue or datapath event of a core: counted, and fenced at CORE_TRANSIENT (R371, R379). -/
def coreTransient (s : State) (c : Nat) : State :=
  let name := unitName 1 c
  let r := countWindow (countUnit s name 2 1) name 0x0102 1
  if r.2 then fenceCore r.1 c 2 else r.1

/-- An uncorrected event of a core: counted, and fenced at CORE_UE (R372, R379). -/
def coreUncorrected (s : State) (c : Nat) : State :=
  let name := unitName 1 c
  let r := countWindow (countUnit s name 1 1) name 0x0103 1
  if r.2 then fenceCore r.1 c 3 else r.1

end Sys2Proof.Machine
end

