-- ==== Sys2Proof/Machine/Path.lean ====
section
/-!
DEFINITION. The way of one access of a thread within a line (R181 to R186, R193, R222): the scoreboard, the request for a
host's translation, and where a read or a write goes: the core's own store at once, the bench's cache, or its home over the
mesh, plain or inside a transaction. What answers a request is a command of its own.
-/
namespace Sys2Proof.Machine

/-- A thread is inside a transaction. -/
def inTx (s : State) (k : Nat) : Bool := decide ((thr s k).tx.depth > 0)

/-! ### The scoreboard (R183, R184) -/

/-- A line of a bench's HAUL_LAUNCH registers: a thread's write to it in flight may start a chain, whose lines are
not known yet (R185). -/
def launchLine (line : Nat) : Bool :=
  let a := line * 64
  decide (0x10200000000 ≤ a) && decide (a < 0x10300000000) && decide (0x30000 ≤ a % 2 ^ 24) && decide (a % 2 ^ 24 < 0x30080)

/-- An entry of a thread that an access to these lines must wait for. -/
def sbConflict (k first last : Nat) (write : Bool) (e : SbEntry) : Bool :=
  e.thr == k && ((decide (e.first ≤ last) && decide (first ≤ e.last) && (write || e.write)) || (e.write && e.haul.isNone && launchLine e.first))

/-- An access of thread `k` to these lines must wait: a line shared with an entry of the same thread and
either a write, or all 16 entries in use. -/
def sbBlocked (s : State) (k first last : Nat) (write : Bool) : Bool :=
  let sb := (core s (k / 8)).sb
  (sb.any fun e => sbConflict k first last write e.2) || decide (16 ≤ sb.length)

/-- An access shares a line with an entry of the thread, and either writes. -/
def sbOverlaps (s : State) (k first last : Nat) (write : Bool) : Bool :=
  (core s (k / 8)).sb.any fun e => sbConflict k first last write e.2

/-- Take a scoreboard entry: its number. -/
def sbTake (s : State) (c : Nat) (e : SbEntry) : Nat × State :=
  let i := (Tbl.free (core s c).sb 0 17).getD 16
  (i, modCore s c fun x => { x with sb := Tbl.set x.sb i e })

/-- Free a scoreboard entry. -/
def sbFree (s : State) (c i : Nat) : State := modCore s c fun x => { x with sb := Tbl.erase x.sb i }

/-- A thread has accesses in flight. -/
def inFlight (s : State) (k : Nat) : Bool := (core s (k / 8)).sb.any fun e => e.2.thr == k

/-- A thread has writes in flight, haul chains it launched and counter operations included (R209). -/
def writesInFlight (s : State) (k : Nat) : Bool :=
  ((core s (k / 8)).sb.any fun e => e.2.thr == k && e.2.write) || !(thr s k).ctrOut.isEmpty

/-- A thread's access waits for a host translation (R34): the request is made and the thread waits; `why` is what the page is
for. -/
def askHost (s : State) (k log2 : Nat) (hostPage : Nat) (va : W64) (write : Bool) (why : PageFor) : State :=
  let req := (Tbl.free s.pageReqs 0 (s.pageReqs.length + 1)).getD 0
  let r : PageReq :=
    { ctx := (ctxOf s k).getD 0, node := k / 64, vpage := va.toNat / 4096 * 4096,
      hostPage := (hostPage + va.toNat % 2 ^ log2) / 4096 * 4096, core := k / 8, thr := k % 8, write := write, pri := false,
      since := pacerOf s (k / 64), why := why }
  let s := { s with pageReqs := Tbl.set s.pageReqs req r }
  modThr s k fun t => { t with wait := some (.pri req) }

/-! ### Requests that leave the core -/

/-- Hold a scoreboard entry and send a request whose answer completes it. -/
def sendHeld (s : State) (k : Nat) (e : SbEntry) (cls : Nat) (dst : Nat) (pay : Requester → Payload) : State :=
  let r := sbTake s (k / 8) e
  sendMsg r.2 cls (k / 64) dst (pay (.access (k / 8) r.1))

/-- Hold a scoreboard entry and hand the access to the bench's own cache. -/
def handHeld (s : State) (k : Nat) (e : SbEntry) (cls : Nat) (pay : Requester → Payload) : State :=
  let r := sbTake s (k / 8) e
  handMsg r.2 cls (k / 64) (pay (.access (k / 8) r.1))

/-- The sizes that a register window accepts from a scalar load or store (R430). -/
def regSize (n : Nat) : Bool := n == 4 || n == 8

/-- Traffic class of a write (Table 15.1). -/
def writeClass : Target → Nat
  | .hbm _ => 2
  | _ => 3

/-! ### The ledger of a transaction (R221, R222) -/

/-- The staged bytes of a line laid over the home's bytes. -/
def overlay (s : State) (k : Nat) (t : Target) (bs : List Byte) : List Byte :=
  match Tbl.get? (thr s k).tx.writes (targetAddr t / 64) with
  | none => bs
  | some w => (offsets bs).map fun p =>
      let i := targetAddr t % 64 + p.1
      if bit w.mask.toNat i then lineByte w.data i else p.2

/-- Every byte wanted is staged. -/
def allStaged (s : State) (k : Nat) (t : Target) (n : Nat) : Bool :=
  match Tbl.get? (thr s k).tx.writes (targetAddr t / 64) with
  | none => false
  | some w => (List.range n).all fun i => bit w.mask.toNat (targetAddr t % 64 + i)

/-- A line is in the ledger. -/
def inLedger (s : State) (k line : Nat) : Bool :=
  (Tbl.get? (thr s k).tx.writes line).isSome || (thr s k).tx.reads.contains line

/-- Enter a line into the ledger as read; `none` when the read lines are full (R222). -/
def ledgerRead (s : State) (k line : Nat) : Option State :=
  if inLedger s k line then some s
  else if 512 ≤ (thr s k).tx.reads.length then none
  else some (modTx s k fun t => { t with reads := t.reads ++ [line] })

/-- Stage bytes of one line; `none` when the written lines are full (R222). -/
def ledgerWrite (s : State) (k : Nat) (t : Target) (bytes : List (Nat × Byte)) : Option State :=
  let line := targetAddr t / 64
  let o := targetAddr t % 64
  let old : StagedLine := Tbl.getD (thr s k).tx.writes line { mask := 0, data := 0 }
  if (Tbl.get? (thr s k).tx.writes line).isNone ∧ 128 ≤ (thr s k).tx.writes.length then none
  else
    let r := bytes.foldl (fun (acc : BitVec 64 × V512) (p : Nat × Byte) =>
      (acc.1 ||| BitVec.ofNat 64 (2 ^ (o + p.1)), lineSet acc.2 (o + p.1) p.2)) (old.mask, old.data)
    some (modTx s k fun t => { t with writes := Tbl.set t.writes line { mask := r.1, data := r.2 }
                                      reads := t.reads.filter fun l => l != line })

/-- Send a line's dirty bytes to its home, class 2 to HBM and class 3 to host memory (R292, R295). -/
def sendVictim (s : State) (n : Nat) (w : Way) : State :=
  let t := lineTarget w.line
  sendMsg (countBc s n 2 1) (writeClass t) n (targetNode s t) (.write t (maskBytes w.dirty w.data) w.poison (.writeBack n w.line))

/-- Drop a way; its dirty bytes, if it has any, are sent to the home first, and the line is in write-back until they are accepted
(R188, R193, R295). -/
def putBack (s : State) (n key : Nat) : State :=
  match Tbl.get? (bench s n).ways key with
  | none => s
  | some w =>
    let s := bcInvalidate s n key
    if w.dirty = 0 then s
    else sendVictim (modBench s n fun b => { b with fetches := b.fetches ++ [{ line := w.line, way := noWay, victim := some w, sent := true, dead := false, waiting := [] }] }) n w

/-- The bench cache has nothing of a line, so that a transactional access or an atomic may be sent (R193, R289): it may be now; the
line is in fetch or write-back; or its write-back has just been sent. -/
inductive Dropped where
  | ready (s : State)
  | busy
  | sent (s : State)

/-- Write back and drop a cached line before a transactional access or an atomic (R193, R289). -/
def dropCached (s : State) (k : Nat) (t : Target) : Dropped :=
  match t with
  | .hbm _ =>
    let n := k / 64
    let line := targetAddr t / 64
    if bcBusy (bench s n) line then .busy
    else match bcFind (bench s n) line with
      | none => .ready s
      | some (key, w) => if w.dirty = 0 then .ready (bcInvalidate s n key) else .sent (putBack s n key)
  | _ => .ready s

/-! ### One access -/

/-- What an access of a thread is: its address as given and translated, the engine and the lane that an error names, and what
completing it does. -/
structure Access1 where
  va : W64
  x : Xlat
  eng : Nat
  lane : Nat
  sink : Sink

/-- Its scoreboard entry. -/
def Access1.entry (a : Access1) (k : Nat) (write tx : Bool) : SbEntry :=
  { thr := k, write := write, first := targetAddr a.x.tgt / 64, last := targetAddr a.x.tgt / 64, faddr := a.va, eng := a.eng,
    lane := a.lane, sink := a.sink, tx := tx, haul := none }

/-- What an access leads to: it is complete at once, with the bytes read; its request has been sent; it consumed poison, of which
holder and device address; it is refused at the source with a cause; it aborts the transaction with a code, DETAIL and NODE; or
it must wait; or must wait for the write-back of its line, which has been sent. -/
inductive Went where
  | now (bytes : List Byte) (s : State)
  | sent (s : State)
  | poison (holder dev : Nat) (s : State)
  | err (code : Nat)
  | abort (code detail node : Nat)
  | wait
  | later (s : State)

/-- The abort that Table 11.4 gives an access to a target that transactions may not contain. -/
def txRefused : Target → Option Went
  | .host _ _ => some (.abort 10 0 0xFFFF)
  | .reg _ _ => some (.abort 10 0 0xFFFF)
  | .remote _ _ => some (.abort 11 0 0xFFFF)
  | _ => none

/-- A transactional read (R222): staged bytes at once, otherwise from the line's home under a watch. -/
def txReadOut (s : State) (k : Nat) (a : Access1) (n : Nat) : Went :=
  match txRefused a.x.tgt with
  | some r => r
  | none =>
    let line := targetAddr a.x.tgt / 64
    if allStaged s k a.x.tgt n then .now (overlay s k a.x.tgt ((List.range n).map fun _ => 0)) s
    else if sbBlocked s k line line false then .wait
    else match ledgerRead s k line with
      | none => .abort 2 2 0xFFFF
      | some s1 => match dropCached s1 k a.x.tgt with
        | .busy => .wait
        | .sent _ => (match dropCached s k a.x.tgt with | .sent s2 => .later s2 | _ => .wait)
        | .ready s2 => .sent (sendHeld s2 k (a.entry k false true) 3 (targetNode s2 a.x.tgt) (.txRead a.x.tgt n))

/-- A transactional write (R222): the bytes are staged, and a line that is not in the ledger is read under a watch. -/
def txWriteOut (s : State) (k : Nat) (a : Access1) (bytes : List Byte) : Went :=
  match txRefused a.x.tgt with
  | some r => r
  | none =>
    let line := targetAddr a.x.tgt / 64
    if sbBlocked s k line line true then .wait
    else match ledgerWrite s k a.x.tgt (offsets bytes) with
      | none => .abort 2 1 0xFFFF
      | some s1 =>
        if inLedger s k line then .now [] s1
        else match dropCached s1 k a.x.tgt with
          | .busy => .wait
          | .sent _ => (match dropCached s k a.x.tgt with | .sent s2 => .later s2 | _ => .wait)
          | .ready s2 => .sent (sendHeld s2 k (a.entry k false true) 3 (targetNode s2 a.x.tgt) (.txRead a.x.tgt bytes.length))

/-- A plain read (R175, R186, R228). -/
def plainReadOut (s : State) (k : Nat) (a : Access1) (n : Nat) : Went :=
  let t := a.x.tgt
  let line := targetAddr t / 64
  let far : Went := .sent (sendHeld s k (a.entry k false false) 3 (targetNode s t) (.read t n))
  if sbBlocked s k line line false then .wait
  else match t with
    | .store c _ =>
      if c = k / 8 then
        if lineLocked s t then .wait
        else if homePoison s t then .poison 1 (targetAddr t) s
        else .now (homeRead s t n) s
      else far
    | .reg _ _ => if regSize n then far else .err 8
    | .remote d _ => if (routePort s d).isNone then .err 8 else far
    | _ =>
      match cacheFor s (some (k / 64)) a.x with
      | some _ => .sent (handHeld s k (a.entry k false false) 0 (.cacheRead t n ((ctxOf s k).getD 0)))
      | none => far

/-- A plain write (R178, R186, R228); `bank` is the matrix path, which writes its own store's bank and not the gather buffer
(Table 9.2). -/
def plainWriteOut (s : State) (k : Nat) (a : Access1) (bytes : List Byte) (bank : Bool) : Went :=
  let t := a.x.tgt
  let line := targetAddr t / 64
  let far (s : State) : Went :=
    .sent (sendHeld s k (a.entry k true false) (writeClass t) (targetNode s t) (.write t (offsets bytes) false))
  if sbBlocked s k line line true then .wait
  else match t with
    | .store c o =>
      if c = k / 8 then
        if lineLocked s t then .wait
        else .now [] (if bank then homeWrite s t (offsets bytes) false (some k) else coreStore s k o (offsets bytes))
      else far s
    | .reg _ _ => if regSize bytes.length then far s else .err 8
    | .remote d _ => if (routePort s d).isNone then .err 8 else far s
    | _ =>
      let s := noteHostPort s (some k) t
      match cacheFor s (some (k / 64)) a.x with
      | some _ => .sent (handHeld s k (a.entry k true false) 0 (.cacheWrite t bytes false ((ctxOf s k).getD 0) (k % 64)))
      | none => far s

/-- A read within a line. -/
def readOut (s : State) (k : Nat) (a : Access1) (n : Nat) : Went :=
  if inTx s k then txReadOut s k a n else plainReadOut s k a n

/-- A write within a line. -/
def writeOut (s : State) (k : Nat) (a : Access1) (bytes : List Byte) (bank : Bool) : Went :=
  if inTx s k then txWriteOut s k a bytes else plainWriteOut s k a bytes bank

end Sys2Proof.Machine
end

