-- ==== Sys2Proof/Machine/Exceptions.lean ====
section
/-!
DEFINITION. Taking an exception and what becomes of it (R94 to R103): classes, routing, entry, escalation,
locking, and the shipped backstop's action.
-/
namespace Sys2Proof.Machine

/-- A register that a pending load or returning atomic of the thread will write (R182). -/
def busyReg (s : State) (k : Nat) (r : BitVec 5) : Bool :=
  r != 0 && (core s (k / 8)).sb.any fun e =>
    e.2.thr == k && (match e.2.sink with | .load rd _ _ => rd == r | .old rd _ => rd == r | _ => false)

/-- A register that an exception's frame holds, x28 to x30, is still to be written by an access in flight: like an
instruction that names it, the entry waits for it (R98, R182; log entry 20). -/
def frameBusy (s : State) (k : Nat) : Bool := busyReg s k 28 || busyReg s k 29 || busyReg s k 30

/-- Class of a cause (Table 4.4). -/
def exnClass : Nat → Nat
  | 1 | 2 | 3 | 9 | 10 | 11 | 12 | 15 | 26 => 1
  | 27 => 3
  | _ => 2

/-- POISON and FRAME_PRIV always escalate (Table 4.4). -/
def alwaysEscalates (code : Nat) : Bool := code == 16 || code == 17

/-- TMODE, as THREAD_ID[5:4] encodes the thread mode. -/
def tmodeField (n : Nat) : Nat := if n = 2 then 1 else if n = 4 then 2 else if n = 8 then 3 else 0

/-- STATUS (Table 4.3). -/
def statusWord (s : State) (k : Nat) : W64 :=
  let y := (thr s k).sys
  BitVec.ofNat 64 (y.priv.toNat + y.mask.toNat * 2 ^ 4 + tmodeField (core s (k / 8)).mode * 2 ^ 8 + b2n y.bks * 2 ^ 12)

/-- ENTRY_LEVEL (Table 4.11). -/
def entryLevel (y : SysRegs) : W64 :=
  BitVec.ofNat 64 (y.depth + y.recs.toNat * 2 ^ 8 + y.bkLevel.toNat * 2 ^ 24 + b2n y.bkRec * 2 ^ 26)

/-- A vector base, whose bits [11:0] are ignored (R98). -/
def vbaseOf (y : SysRegs) (lvl : Nat) : W64 :=
  (if lvl = 0 then y.vbase0 else if lvl = 1 then y.vbase1 else y.vbase2) &&& (0xFFFFFFFFFFFFF000 : W64)

/-- The shipped firmware's vector table, which firmware puts into VBASE2 (R87). -/
def shippedBase : W64 := Config.fwVectorBase &&& (0xFFFFFFFFFFFFF000 : W64)

/-- An address lies in the shipped firmware's vector table, from which P2 fetches never fault (log entry 9). -/
def inShipped (pc : W64) : Bool := decide ((pc - shippedBase).toNat < 0x1000)

/-- Outcome of fetching a halfword at a level: its bits, or that the state does not hold them (a host's memory, another device,
the shipped firmware); a fault; a line that must be waited for (R228); or a host page that must be asked for (R34). -/
inductive Fetch1 where
  | half (w : BitVec 16)
  | unseen
  | fault (e : Exn)
  | wait
  | ask (log2 hostPage : Nat)
  deriving DecidableEq, Repr

/-- CAUSE.INFO of POISON (Table 19.4). -/
def poisonInfo (where_ holder : Nat) (deferred : Bool) : BitVec 32 :=
  BitVec.ofNat 32 (where_ + holder * 2 ^ 8 + b2n deferred * 2 ^ 31)

/-- A scalar exception with no INFO. -/
def scalarExn (code : Nat) (faddr : W64) : Exn := { code := code, engine := 0, info := 0, faddr := faddr }

/-- POISON met by an access: where, who holds the line, and the line's device address (R376). -/
def poisonExn (engine where_ holder dev : Nat) : Exn :=
  { code := 16, engine := engine, info := poisonInfo where_ holder false, faddr := BitVec.ofNat 64 dev }

/-- A halfword of memory as a thread's fetch reads it: from its bench's cache where that holds it, else at its home, with the
line's mark and holder. A fetch leaves the cache as it was (log entry 20). -/
def fetchBytes (s : State) (k : Nat) (x : Xlat) : List Byte × Bool × Nat :=
  let home := (homeRead s x.tgt 2, homePoison s x.tgt, holderOf x.tgt)
  match cacheFor s (some (k / 64)) x with
  | none => home
  | some n => match bcFind (bench s n) (targetAddr x.tgt / 64) with
    | some (_, w) => if bcHits w (targetAddr x.tgt % 64) 2 then (wayBytes w (targetAddr x.tgt % 64) 2, w.poison, 2) else home
    | none => home

/-- The fetch of one halfword at a level (R59, R24, R228, R375 WHERE 4). -/
def fetchHalf (s : State) (k lvl : Nat) (pc : W64) : Fetch1 :=
  if lvl = 2 ∧ inShipped pc then .unseen
  else match translate s (threadWho s k lvl) .fetch pc with
    | .fault c => .fault (scalarExn c pc)
    | .poison _ => .fault { code := 16, engine := 0, info := poisonInfo 8 3 false, faddr := pc }
    | .ats l _ h => .ask l h
    | .ok x => match x.tgt with
      | .hbm _ | .store _ _ =>
        let r := fetchBytes s k x
        if lineLocked s x.tgt then .wait
        else if r.2.1 then .fault (poisonExn 0 4 r.2.2 (targetAddr x.tgt / 64 * 64))
        else .half (BitVec.ofNat 16 (leNat r.1))
      | _ => .unseen

/-- What a thread finds at an address that it fetches an instruction from: the halfwords, where the state holds them. -/
inductive Fetched where
  | bits (first second : BitVec 16)
  | unseen
  | fault (e : Exn)
  | wait
  | ask (log2 hostPage : Nat) (va : W64)
  deriving DecidableEq, Repr

/-- The fetch of an instruction at an address (R58, R59): bit 15 of its first halfword says whether there is a second one; where
the state does not hold that halfword, `compact` says it. -/
def fetchInstr (s : State) (k : Nat) (pc : W64) (compact : Bool) : Fetched :=
  let second (first : Option (BitVec 16)) : Fetched :=
    match fetchHalf s k (lvlOf s k) (pc + 2), first with
    | .half b, some a => .bits a b
    | .fault e, _ => .fault e
    | .wait, _ => .wait
    | .ask l h, _ => .ask l h (pc + 2)
    | _, _ => .unseen
  match fetchHalf s k (lvlOf s k) pc with
  | .half a => if isLong a then second (some a) else .bits a 0
  | .unseen => if compact then .unseen else second none
  | .fault e => .fault e
  | .wait => .wait
  | .ask l h => .ask l h pc

/-! ### The frame -/

/-- Outcome of storing a frame: done; the address of the access that fails; an access that must wait (R184, R228); or a host
page that must be asked for (R34). -/
inductive Stored where
  | ok (s : State)
  | bad (addr : W64)
  | wait
  | ask (log2 hostPage : Nat) (va : W64)

/-- Store one span of bytes as accesses of a thread at a level, line by line. -/
def storeSpan (s : State) (k lvl : Nat) (a : W64) (bs : List Byte) : List (Nat × Nat) → Stored
  | [] => .ok s
  | (o, n) :: rest =>
    let va := a + BitVec.ofNat 64 o
    let w := threadWho s k lvl
    match translate s w .write va with
    | .ok x =>
      match plainWriteOut (noteTranslate s w va) k { va := va, x := x, eng := 0, lane := 0, sink := .none } ((bs.drop o).take n) false with
      | .now _ s => storeSpan s k lvl a bs rest
      | .sent s => storeSpan s k lvl a bs rest
      | .wait => .wait
      | _ => .bad va
    | .ats l _ h => .ask l h va
    | _ => .bad va

/-- Store the eight words of a frame (Table 4.8). -/
def storeFrame (s : State) (k lvl : Nat) (a : W64) (words : List W64) : Stored :=
  storeSpan s k lvl a (words.flatMap fun w => leBytes 8 w.toNat) (pieces a.toNat 64)

/-- The frame of an exception: PC, STATUS, CAUSE, FADDR, RPC, VPROG and the two saved registers (Table 4.8). -/
def frameWords (s : State) (k : Nat) (pc cause faddr : W64) (switch : Bool) : List W64 :=
  let y := (thr s k).sys
  [pc, statusWord s k, cause, faddr, y.rpc.setWidth 64, y.vprog,
   if switch then rx s k 29 else rx s k 28, if switch then rx s k 30 else rx s k 29]

/-- Outcome of an entry: entered; failed with a reason of Table 4.9 at an address; or to be tried again in a state in which an
access of it is waited for. -/
inductive Entry where
  | ok (s : State)
  | failed (esc : Nat) (addr : W64)
  | wait (s : State)

/-- Push a level onto ENTRY_LEVEL. -/
def pushLevel (y : SysRegs) (l : Nat) : SysRegs :=
  { y with recs := y.recs &&& ~~~ (BitVec.ofNat 16 (3 * 4 ^ y.depth)) ||| BitVec.ofNat 16 (l * 4 ^ y.depth), depth := y.depth + 1 }

/-- Enter an exception at level `t` (R98, Table 4.7): frame PC `pc`, from the thread's level. -/
def enterAt (s : State) (k t : Nat) (e : Exn) (intr : Bool) (pc : W64) : Entry :=
  let y := (thr s k).sys
  let l := y.priv.toNat
  let switch := decide (t = 2 ∧ l < 2)
  let x30 := rx s k 30
  let frame := (if switch then y.backstopSp else x30) - 64
  let vector := vbaseOf y t + BitVec.ofNat 64 (0x40 * e.code)
  let cause := causeWord e.code intr 0 e.engine e.info
  if !switch && x30.toNat % 8 != 0 then .failed 2 x30
  else match storeFrame s k t frame (frameWords s k pc cause e.faddr switch) with
    | .bad va => .failed 2 va
    | .wait => .wait s
    | .ask l2 h va => .wait (askHost s k l2 h va true (.entry e intr pc))
    | .ok s1 =>
      if y.depth = 8 then .failed 3 frame
      else match fetchHalf s1 k t vector with
        | .fault _ => .failed 2 vector
        | .wait => .wait s
        | .ask l2 h => .wait (askHost s k l2 h vector false (.entry e intr pc))
        | _ =>
          let s2 := modSys s1 k fun y =>
            { pushLevel y l with cause := cause, faddr := e.faddr, priv := BitVec.ofNat 2 t,
                                 mask := BitVec.ofNat 2 (max y.mask.toNat (exnClass e.code)), rpc := 0, vprog := 0 }
          .ok (setPc (wx s2 k 30 frame) k vector)

/-- A thread locks (R102): a fault while BKS = 1, or, `entering`, in the backstop's own frame store. It keeps the
state in which it locks: P2, MASK 3, BKS = 1 and the backstop record. -/
def lockThread (s : State) (k : Nat) (e : Exn) (pc : W64) (entering : Bool) : State :=
  let l := lvlOf s k
  let cause := causeWord e.code false 7 e.engine e.info
  let s := faultEvent s k l cause e.faddr pc
  let s := if entering then
      modSys s k fun y => { y with priv := 2, mask := 3, bks := true, bkLevel := BitVec.ofNat 2 l, bkRec := true }
    else s
  if k % 8 ≠ 0 then haltThread s k
  else match ctxOf s k with
    | some c => haltContext s c
    | none => debugHalt s k

/-- What the shipped backstop does once entered (R102, R377), from the state `s0` that it interrupted. -/
def backstopAct (s0 s : State) (k : Nat) (code : Nat) (cause faddr pc : W64) : State :=
  let l := lvlOf s0 k
  if code = 16 then
    match ctxOf s k with
    | some c => endContext s c k l cause faddr pc
    | none => stopThread s k
  else
    let s := faultEvent s k l cause faddr pc
    if k % 8 ≠ 0 then
      let t0 := thr s0 k
      haltThread (modThr s k fun t =>
        { t with x := t0.x, pc := pc, sys := { t0.sys with cause := cause, faddr := faddr } }) k
    else match ctxOf s k with
      | some c => haltContext s c
      | none => debugHalt s k

/-- What taking an exception leads to: it is taken, or an access of its entry must be waited for, in the state given. -/
inductive Taken where
  | done (s : State)
  | wait (s : State)

/-- The state that it leads to. -/
def Taken.state : Taken → State
  | .done s => s
  | .wait s => s

/-- Escalate into the per-thread backstop (R101): `esc` is the reason, `addr` the address that failed
during an entry (ESC = 2). -/
def escalate (s : State) (k : Nat) (e : Exn) (intr : Bool) (pc : W64) (esc : Nat) (addr : W64) : Taken :=
  let y := (thr s k).sys
  let l := y.priv.toNat
  let x30 := rx s k 30
  let within := decide (l = 2 ∧ y.backstopSp.toNat ≤ x30.toNat + 0x400 ∧ x30.toNat < y.backstopSp.toNat)
  let frame := (if within then x30 else y.backstopSp) - 64
  let cause := causeWord e.code intr esc e.engine e.info
  let faddr := if esc = 2 then addr else e.faddr
  let vector := vbaseOf y 2 + 0x800
  if frame.toNat + 0x400 < y.backstopSp.toNat then .done (lockThread s k e pc true)
  else match storeFrame s k 2 frame (frameWords s k pc cause e.faddr true) with
    | .bad _ => .done (lockThread s k e pc true)
    | .wait => .wait s
    | .ask l2 h va => .wait (askHost s k l2 h va true (.entry e intr pc))
    | .ok s1 =>
      let s2 := modSys s1 k fun y =>
        { y with cause := cause, faddr := faddr, priv := 2, mask := 3, bks := true, rpc := 0, vprog := 0,
                 bkLevel := BitVec.ofNat 2 l, bkRec := true }
      let s3 := setPc (wx s2 k 30 frame) k vector
      .done (if vbaseOf y 2 = shippedBase then backstopAct s s3 k e.code cause faddr pc else s3)

/-- Enter at a level, or escalate when the entry fails (R98). -/
def enterOr (s : State) (k t : Nat) (e : Exn) (intr : Bool) (pc : W64) : Taken :=
  match enterAt s k t e intr pc with
  | .ok s => .done s
  | .failed esc addr => escalate s k e intr pc esc addr
  | .wait s => .wait s

/-- Route a synchronous fault or trap (R96). `pc` is the PC that the frame reports: the faulting
instruction's, or the following instruction's for a trap. -/
def route (s : State) (k : Nat) (e : Exn) (pc : W64) : Taken :=
  let y := (thr s k).sys
  let l := y.priv.toNat
  if y.bks then .done (lockThread s k e pc false)
  else if alwaysEscalates e.code then escalate s k e false pc 4 0
  else if exnClass e.code ≤ y.mask.toNat then escalate s k e false pc 1 0
  else if e.code = 9 then enterOr s k (if l = 0 then 1 else 2) e false pc
  else if exnClass e.code = 1 ∧ e.code ≠ 10 ∧ l = 0 ∧ y.vbase0 &&& 0xFFFFFFFFFFFFF000 ≠ 0 then enterOr s k 0 e false pc
  else if k % 8 ≠ 0 then
    .done (haltThread (modThr s k fun t =>
      { t with pc := pc, sys := { t.sys with cause := causeWord e.code false 0 e.engine e.info, faddr := e.faddr } }) k)
  else enterOr s k (max 1 l) e false pc

/-- Raise a fault or trap; where its entry must wait, nothing has happened and the instruction issues again. -/
def raise (s : State) (k : Nat) (e : Exn) (pc : W64) : State := (route s k e pc).state

/-- A transaction aborts and then a fault is raised, with the fallback address (R219). Where its entry must wait, the fault stays
pending at the thread's boundary. -/
def abortRaise (s : State) (k code : Nat) (e : Exn) : State :=
  let s1 := abortTx s k code 0 0 0xFFFF
  match route s1 k e (thr s1 k).pc with
  | .done t => t
  | .wait _ => modThr s1 k fun t => { t with deferred := e :: t.deferred }

/-- A fault at an instruction: inside a transaction it first aborts it, with POISON or FAULT, and is then
taken with the fallback address (R219). Where its entry must wait, an instruction under way stays so, and raises it again. -/
def faultAt (s : State) (k : Nat) (e : Exn) (pc : W64) : State :=
  if frameBusy s k then s
  else if (thr s k).tx.depth > 0 then abortRaise s k (if e.code = 16 then 8 else 3) e
  else match route (dropJob s k) k e pc with
    | .done t => t
    | .wait t => modThr t k fun y => { y with job := (thr s k).job }

/-! ### Interrupts (R95, R97) -/

/-- Pending interrupts of a core's thread 0, highest class first and lowest code within a class. -/
def pendingInterrupts (s : State) (c : Nat) : List (Nat × BitVec 32) :=
  let x := core s c
  let tp := bits x.tpend.toNat 7 1 % 2 ^ (x.mode - 1)
  (if x.irqFw then [(27, 0)] else []) ++ (if tp ≠ 0 then [(24, 0)] else []) ++
    (if x.irqWake then [(25, 0)] else []) ++
    (match x.irqHost with | some i => [(26, i)] | none => [])

/-- Target level of an interrupt (R95). -/
def irqTarget (code : Nat) : Nat := if code = 27 then 2 else 1

/-- The interrupt that thread 0 of a core may take now (R95, R97, R101). -/
def takeable (s : State) (c : Nat) : Option (Nat × BitVec 32) :=
  let y := (thr s (c * 8)).sys
  if y.bks then none
  else (pendingInterrupts s c).find? fun i => decide (y.mask.toNat < exnClass i.1) && decide (y.priv.toNat ≤ irqTarget i.1)

/-- An asynchronous cause waits for the thread's next boundary, so that no instruction issues before it:
a deferred fault (R190), or, in an open transaction, an abort cause, an interrupt or a debug halt (R220). -/
def boundaryWork (s : State) (k : Nat) : Bool :=
  let t := thr s k
  !t.deferred.isEmpty || !t.aborts.isEmpty ||
    (decide (t.tx.depth > 0) && k % 8 == 0 && (takeable s (k / 8)).isSome)

end Sys2Proof.Machine
end

