-- ==== Sys2Proof/Machine/PageTable.lean ====
section
/-!
DEFINITION. What firmware does to page tables (R30, R32, R37): frames in the firmware reserve, entries,
the leaves of a context, dropping translations, and the withdrawal of pages.
-/
namespace Sys2Proof.Machine

/-! ### Frames and entries -/

/-- Drop every byte of a memory in a span of addresses. -/
def eraseSpan (m : Tbl Byte) (lo n : Nat) : Tbl Byte := m.filter fun e => decide (e.1 < lo) || decide (lo + n ≤ e.1)

/-- Set a span of HBM that lies within one 4 KiB chunk to zero and clear its poison. -/
def zeroChunk (s : State) (a n : Nat) : State :=
  let l := hbmLoc s a
  { s with hbm := eraseSpan s.hbm l n
           hbmPoison := s.hbmPoison.filter fun p => decide (p < l / 64) || decide ((l + n) / 64 ≤ p) }

/-- Device address of table frame `i`: 64 KiB apart, so that an entry's ADDR names it (R28; log entry 10). -/
def frameAddr (i : Nat) : Nat := reserveBase + i * 65536

/-- Table frames that the firmware reserve has room for (log entry 10). -/
def frameCount : Nat := 13312

/-- Frames in use by any context. -/
def usedFrames (s : State) : List Nat := s.ctxs.flatMap fun e => e.2.frames

/-- Take a zeroed frame for a table of a context: its device address. -/
def newFrame (s : State) (ctx : Nat) : Option (Nat × State) :=
  let used := usedFrames s
  match (List.range frameCount).find? fun i => !used.contains (frameAddr i) with
  | none => none
  | some i =>
    let a := frameAddr i
    some (a, modCtx (zeroChunk s a 4096) ctx fun x => { x with frames := x.frames ++ [a] })

/-- Write an entry. -/
def setPte (s : State) (a v : Nat) : State := homeWrite s (.hbm a) (offsets (leBytes 8 v)) false none

/-- Entries of the table whose index starts at bit `sh` (Table 1.6). -/
def tableSize (sh : Nat) : Nat := if sh = 16 then 32 else 512

/-- A leaf of a context: virtual address, log2 of its size, entry, and the entry's own address. -/
structure Leaf where
  va : Nat
  log2 : Nat
  pte : Nat
  at_ : Nat
  deriving DecidableEq, Repr

/-- The leaves under a table whose levels' indexes start at the bits given. -/
def leavesUnder (s : State) : List Nat → Nat → Nat → List Leaf
  | [], _, _ => []
  | sh :: rest, table, va =>
    (List.range (tableSize sh)).flatMap fun i =>
      let a := table + 8 * i
      let p := readPte s a
      if !bit p 0 then []
      else if bit p 2 then [{ va := va + i * 2 ^ sh, log2 := sh, pte := p, at_ := a }]
      else leavesUnder s rest (pteAddr p) (va + i * 2 ^ sh)

/-- The leaves of a context's tables. -/
def leavesOf (s : State) (ctx : Nat) : List Leaf :=
  match Tbl.get? s.ctxs ctx with
  | none => []
  | some x => leavesUnder s [39, 30, 21, 16] x.root 0

/-- The leaves that a leaf of this size splits into: the bits at which the lower levels' indexes start. -/
def lowerLevels (log2 : Nat) : List Nat := if log2 = 30 then [21, 16] else if log2 = 21 then [16] else []

/-- The entry for part `i` of a leaf, at the level below. -/
def partPte (p i sh : Nat) : Nat := p + i * 2 ^ sh

/-! ### Dropping translations (R31, R32, R223) -/

/-- Every translation unit drops the translations of a range; every watch made through them is broken (R32, R223; log entry 11). -/
def dropRange (s : State) (ctx lo len : Nat) : State :=
  let hit (va log2 : Nat) : Bool := decide (va < lo + len) && decide (lo < va + 2 ^ log2)
  let keep (t : TuEntry) : Bool := !(t.ctx == ctx && hit (t.vpage * 2 ^ t.log2) t.log2)
  let benches := s.benches.map fun (e : Nat × Bench) => (e.1, { e.2 with tu := e.2.tu.filter keep })
  let cut := s.watches.filter fun (w : Watch) => !w.broken &&
    (match w.page with | some (c, v) => c == ctx && hit (v * 65536) 16 | none => false)
  let left := s.watches.map fun (w : Watch) => if cut.contains w then { w with broken := true } else w
  cut.foldl (fun (s : State) (w : Watch) => addAbort s w.thr { code := 1, detail := 1, node := homeNode w.home })
    { s with benches := benches, watches := left }

/-- Every translation unit drops everything of a context, Counter Map entries included. -/
def dropContext (s : State) (ctx : Nat) : State :=
  { s with benches := s.benches.map fun e =>
      (e.1, { e.2 with tu := e.2.tu.filter fun t => t.ctx != ctx, tuCtr := e.2.tuCtr.filter fun t => t.1 != ctx }) }

/-- A haul channel's accesses in flight at virtual addresses: reads, writes, its descriptor and its check word. -/
def haulVas (h : HaulCh) : List Nat :=
  (h.buf.filter fun b => b.data.isNone).map (·.addr) ++ h.outs.map (·.2.2) ++ (if h.descRead.isSome then [h.desc] else []) ++
    if h.checkTag.isSome then [(((h.chain.headD (0, [])).2).getD 5 0).toNat] else []

/-- Accesses of a context to a range are still under way (R32): in flight, still to be sent by an instruction that has translated
them, waiting for a page of the host, or of a haul chain. -/
def rangeInUse (s : State) (ctx lo len : Nat) : Bool :=
  let near (a : Nat) : Bool := decide (a < lo + len) && decide (lo ≤ a + 63)
  (s.cores.any fun c => c.2.ctx == some ctx && c.2.sb.any fun e => near e.2.faddr.toNat) ||
    (s.threads.any fun t => ctxOf s t.1 == some ctx && match t.2.job with
      | some j => (j.parts.drop j.sent).any fun p => near p.va.toNat
      | none => false) ||
    (s.pageReqs.any fun r => r.2.ctx == ctx && near r.2.vpage) ||
    s.benches.any fun b => b.2.haul.any fun h => h.2.virt && h.2.ctx == ctx && (haulVas h.2).any near

/-! ### Withdrawal (R37, R383) -/

/-- The device address of a leaf's page. -/
def Leaf.base (s : State) (l : Leaf) : Nat := foldOwn s (pteAddr l.pte)

/-- Tables that splitting a leaf to 64 KiB pages takes. -/
def Leaf.tables (l : Leaf) : Nat := if l.log2 = 30 then 513 else if l.log2 = 21 then 1 else 0

/-- The firmware reserve has room left to split every large leaf that maps HBM (R37). -/
def splitRoom (s : State) : Bool :=
  let need := ((s.ctxs.flatMap fun c => leavesOf s c.1).map fun l => if l.base s < 2 ^ 40 then l.tables else 0).sum
  decide ((usedFrames s).length + need ≤ frameCount)

/-- Withdraw the pages of one leaf that lie on withdrawn device pages, splitting it as R37 says; MAP keeps room for it. -/
def withdrawLeaf (ctx : Nat) : List Nat → State → Leaf → State
  | [], s, l => if withdrawn s (l.base s) then setPte s l.at_ 0 else s
  | sh :: rest, s, l =>
    let base := l.base s
    if !((List.range (2 ^ (l.log2 - 16))).any fun i => withdrawn s (base + i * 65536)) then s
    else match newFrame s ctx with
      | none => setPte s l.at_ 0
      | some (f, s) =>
        let s := (List.range (2 ^ (l.log2 - sh))).foldl (fun s i =>
          let p := partPte l.pte i sh
          withdrawLeaf ctx rest (setPte s (f + 8 * i) p) { va := l.va + i * 2 ^ sh, log2 := sh, pte := p, at_ := f + 8 * i }) s
        setPte s l.at_ (f + 1)

/-- Virtual addresses of a context's 64 KiB pages that lie on withdrawn device pages. -/
def withdrawnPages (s : State) (ls : List Leaf) : List Nat :=
  ls.flatMap fun l => ((List.range (2 ^ (l.log2 - 16))).filter fun i => withdrawn s (l.base s + i * 65536)).map
    fun i => l.va + i * 65536

/-- Withdraw pages from a context: the new state, with its pages withdrawn and the lowest of them. -/
def withdrawFrom (s : State) (ctx : Nat) : State × Nat × Nat :=
  let ls := (leavesOf s ctx).filter fun l => decide (l.base s < 2 ^ 40)
  let pages := withdrawnPages s ls
  let s := ls.foldl (fun s l => withdrawLeaf ctx (lowerLevels l.log2) s l) s
  let s := pages.foldl (fun s v => dropRange s ctx v 65536) s
  (s, pages.length, pages.foldl min (pages.headD 0))

/-- Device pages now withdrawn. -/
def withdrawnCount (s : State) : Nat :=
  if (List.range 1024).any fun i => isFenced s 3 i then
    ((List.range (reserveBase / 65536)).filter fun i => withdrawn s (i * 65536)).length
  else 0

end Sys2Proof.Machine
end

