-- ==== Sys2Proof/Machine/Fence.lean ====
section
/-!
DEFINITION. Error events and the fencing of benches, pseudo-channels and link lanes (R355, R358, R369,
R379 to R388); the fencing of a core stands in Machine/Context.lean.
-/
namespace Sys2Proof.Machine

/-! ### Link ports as the fences see them -/

/-- The widest width that the lanes of a mask give: its code and its lanes (R355). -/
def widest (ok : BitVec 8) : Option (Nat × BitVec 8) :=
  let has (m : BitVec 8) : Bool := ok &&& m == m
  if has 0xFF then some (0, 0xFF)
  else if has 0x0F then some (1, 0x0F)
  else if has 0xF0 then some (1, 0xF0)
  else if has 0x03 then some (2, 0x03)
  else if has 0x0C then some (2, 0x0C)
  else if has 0x30 then some (2, 0x30)
  else if has 0xC0 then some (2, 0xC0)
  else none

/-- A LINK record of a port (R369). -/
def linkRecord (s : State) (p ev : Nat) : State :=
  let l := link s p
  recordDev s (linkNodes.getD p 0) 8 p 12
    (BitVec.ofNat 64 (p + ev * 2 ^ 4 + l.gotDev.toNat * 2 ^ 8 + l.runRate.toNat * 2 ^ 16 + l.width * 2 ^ 18 + l.laneOk.toNat * 2 ^ 20))
    l.feccor l.fecunc l.replay (BitVec.ofNat 64 (l.retrains + l.discards * 2 ^ 16))

/-- A port enters DOWN or MISWIRED (Tables 18.6, 18.8). -/
def linkFall (s : State) (p state ev : Nat) : State :=
  let s := modLink s p fun l =>
    { l with state := state, width := 0, laneOk := 0, trainedOnce := false, downs := min (l.downs + 1) 65535 }
  linkRecord s p ev

/-! ### Fences -/

/-- Fence a bench (R381): its cores, then its cache, translation unit and haul channels. -/
def fenceBench (s : State) (n reason : Nat) : State :=
  let name := unitName 2 n
  if NSet.has s.dev.fenceMap name then s
  else
    let cs := (List.range 8).map (n * 8 + ·)
    let s := finishAt s (cs.map fun c => .store (BitVec.ofNat 11 c))
    let s := cs.foldl (fun s c => peerReports (quitCore s c) c) s
    let rids := (s.regions.filter fun r => (regionBenches s r.2).contains n).map (·.1)
    let s := rids.foldl (fun s rid => loseRegion s rid) s
    let s := bcFlushAll s n
    let s := modBench s n fun b => { b with tu := [], tuCtr := [] }
    let s := haulStopIf s n true fun _ => true
    let s := modDev s fun d => { d with fenceMap := NSet.add d.fenceMap name }
    let s := noteFence (trimTables s) name reason
    fencedRecords s name reason false 0 ((holders s n).map fun x => (x, 0, 0))

/-- Fence a pseudo-channel (R37, R383): commits past their commit point apply first; watches on withdrawn
lines break; the pages leave every context that held them. -/
def fencePc (s : State) (i reason : Nat) : State :=
  let name := unitName 3 i
  if NSet.has s.dev.fenceMap name then s
  else
    let s := finishAt s [.hbm (BitVec.ofNat 4 (i / 64))]
    let before := withdrawnCount s
    let s := modDev s fun d => { d with fenceMap := NSet.add d.fenceMap name }
    let lost := s.watches.filter fun w => !w.broken && decide (w.line * 64 < 2 ^ 40) && withdrawn s (w.line * 64)
    let left := s.watches.map fun (w : Watch) => if lost.contains w then { w with broken := true } else w
    let s := lost.foldl (fun (s : State) (w : Watch) => addAbort s w.thr { code := 1, detail := 1, node := homeNode w.home })
      { s with watches := left }
    let r := (s.ctxs.map (·.1)).foldl (fun (a : State × List (Nat × Nat × Nat)) c =>
      let w := withdrawFrom a.1 c
      (w.1, if w.2.1 = 0 then a.2 else a.2 ++ [(c, w.2.1, w.2.2)])) (s, [])
    let s := noteFence r.1 name reason
    fencedRecords s name reason false (withdrawnCount s - before) r.2

/-- Fence a lane (R380, R383): its port retrains, or goes DOWN when no usable width is left. -/
def fenceLane (s : State) (i reason : Nat) : State :=
  let name := unitName 4 i
  if NSet.has s.dev.fenceMap name then s
  else
    let p := i / 8
    let s := modDev s fun d => { d with fenceMap := NSet.add d.fenceMap name }
    let s := modLink s p fun l => { l with fenced := l.fenced ||| BitVec.ofNat 8 (2 ^ (i % 8)) }
    let s := if (link s p).state = 2 then
        if (widest (~~~ (link s p).fenced)).isNone then linkFall s p 3 2
        else modLink s p fun l => { l with state := 1 }
      else s
    fencedRecords (noteFence s name reason) name reason false 0 []

/-- Fence a unit by kind and index (Table 19.5). -/
def fenceUnitAt (s : State) (kind i reason : Nat) : State :=
  if kind = 1 then fenceCore s i reason
  else if kind = 2 then fenceBench s i reason
  else if kind = 3 then fencePc s i reason
  else if kind = 4 then fenceLane s i reason
  else s

/-! ### Error events and their limits (R379, Table 19.7) -/

/-- Count `n` events of a unit, and fence it when the limit of a parameter is reached. -/
def errorEvent (s : State) (kind i which n param reason : Nat) : State :=
  let name := unitName kind i
  let r := countWindow (countUnit s name which n) name param n
  if r.2 then fenceUnitAt r.1 kind i reason else r.1

/-- A corrected event of a core's local store. -/
def coreCorrected (s : State) (c : Nat) : State := errorEvent s 1 c 0 1 0x0104 4
/-- An uncorrectable data or tag parity event of a bench cache. -/
def benchUncorrected (s : State) (n : Nat) : State := errorEvent s 2 n 1 1 0x0105 3
/-- An uncorrectable codeword of a pseudo-channel. -/
def pcUncorrected (s : State) (i : Nat) : State := errorEvent s 3 i 1 1 0x0106 3
/-- A corrected codeword of a pseudo-channel. -/
def pcCorrected (s : State) (i : Nat) : State := errorEvent s 3 i 0 1 0x0107 4
/-- Corrected FEC symbols located on a lane. -/
def laneSymbols (s : State) (i n : Nat) : State := errorEvent s 4 i 0 n 0x0108 7

/-! ### What the code of a word or line finds (R170, R301) -/

/-- Table 8.2: what the code of a store's word finds in `wrong` bad bits. A-banks correct 1 bit and detect 2, W-banks correct 2 and
detect 3; the code does not guarantee to detect more (log entry 35). -/
def storeCode (o wrong : Nat) : EccFinding :=
  let most := if bit o 19 then 2 else 1
  if wrong = 0 ∨ most + 1 < wrong then .clean else if wrong ≤ most then .corrected else .uncorrectable

/-- R301: what the code of an HBM codeword finds in `wrong` bad symbols: any one is corrected, any two are detected. -/
def codewordCode (wrong : Nat) : EccFinding := if wrong = 1 then .corrected else if wrong = 2 then .uncorrectable else .clean

/-- The word of a target that is about to be read has `wrong` bad bits or symbols: a correctable error is corrected in place, one
that is only detected sets the mark of the line; each is counted (R170, R171, R301). -/
def meetWrong (s : State) (t : Target) (wrong : Nat) : State :=
  match t with
  | .store c o => match storeCode o wrong with
    | .clean => s
    | .corrected => coreCorrected s c
    | .uncorrectable => coreUncorrected { s with lsPoison := NSet.add s.lsPoison (c * 2 ^ 14 + o / 64) } c
  | .hbm a => match codewordCode wrong with
    | .clean => s
    | .corrected => pcCorrected s (pcIndex s a)
    | .uncorrectable => pcUncorrected { s with hbmPoison := NSet.add s.hbmPoison (hbmLoc s a / 64) } (pcIndex s a)
  | _ => s

end Sys2Proof.Machine
end

