-- ==== Sys2Proof/Machine/Issue.lean ====
section
/-!
DEFINITION. The issue of an instruction by a thread (R74, R85, R86, R96, R182, R184, R219, R220, R370 to
R372): when it may issue, what its unit's check leads to, and what its outcome does to the thread.
-/
namespace Sys2Proof.Machine

/-- Outcome of an instruction's own effect. -/
inductive Res where
  /-- It completes, and the thread goes on at the next instruction. -/
  | done (s : State)
  /-- It completes, and the thread goes on at an address. -/
  | jump (s : State) (pc : W64)
  /-- It raises a fault, reported with its own PC; `s` holds what its chapter lets it leave behind. -/
  | trap (s : State) (e : Exn)
  /-- It raises a trap, reported with the PC of the following instruction. -/
  | trapNext (s : State) (e : Exn)
  /-- It has not begun: its slot passes idle, or the thread waits for something that an interrupt abandons (R99). -/
  | wait (s : State)
  /-- It has begun and goes on at its next slot. -/
  | hold (s : State)
  /-- It aborts the thread's transaction with a code, DETAIL and NODE (Table 11.3). -/
  | abort (s : State) (code user detail node : Nat)
  /-- It completes, and the thread issues nothing after it. -/
  | ends (s : State)

/-- ILLEGAL at the instruction (R61). -/
def illegal (s : State) : Res := .trap s (scalarExn 1 0)

/-- The abort of an instruction that Table 11.4 forbids in a transaction. -/
def txIllegal (s : State) : Res := .abort s 10 0 0 0xFFFF

/-- A thread may issue its next instruction now. -/
def canIssue (s : State) (k : Nat) : Bool :=
  let t := thr s k
  decide (k % 8 < (core s (k / 8)).mode) && (t.run == .running) && !t.dbg && t.wait.isNone &&
    !boundaryWork s k && !held s (k / 64)

/-- A thread may go on with the instruction that it has begun: nothing that arises meanwhile stops one that must complete, and a
cause that waits for the boundary stops any other (R99). -/
def canGoOn (s : State) (k : Nat) : Bool :=
  let t := thr s k
  decide (k % 8 < (core s (k / 8)).mode) && (t.run == .running) && t.wait.isNone && !held s (k / 64) && t.aborts.isEmpty &&
    (firmJob s k || (!t.dbg && !boundaryWork s k))

/-- The CHECK that an SDC record names for an engine (R387). -/
def checkOf (engine : Nat) : Nat := if engine = 2 then 1 else if engine = 1 then 2 else 3

/-- A transient check failure whose replay passed (R371): counted, recorded, and fenced at the limit. -/
def transientEvent (s : State) (k engine : Nat) : State :=
  let name := unitName 1 (k / 8)
  let s := recordSdc (countUnit s name 2 1) k (checkOf engine) 1
  let r := countWindow s name 0x0102 1
  if r.2 then fenceCore r.1 (k / 8) 2 else r.1

/-- A check that fails on the replay too (R371): nothing is written and the core is fenced. -/
def permanentEvent (s : State) (k engine : Nat) : State :=
  fenceCore (recordSdc (countUnit s (unitName 1 (k / 8)) 2 1) k (checkOf engine) 2) (k / 8) 1

/-- A parity error in a register or tile word that the instruction reads (R372). -/
def parityEvent (s : State) (k engine : Nat) : State :=
  let s := dropJob (coreUncorrected s (k / 8)) k
  if (thr s k).run = .running then
    faultAt s k { code := 16, engine := engine, info := if engine = 2 then 0 else poisonInfo 9 7 false, faddr := 0 } (thr s k).pc
  else s

/-- An instruction has begun, or goes on: its bytes are kept with it. -/
def keepJob (s : State) (k : Nat) (enc : List Byte) : State :=
  modThr s k fun t =>
    { t with job := some (match t.job with
        | some j => { j with enc := enc }
        | none => { enc := enc, kind := .hold, firm := true, parts := [], sent := 0, got := [], bad := [], rows := 0 }) }

/-- What an instruction's outcome does to its thread: its length, and its bytes. -/
def applyRes (k len : Nat) (enc : List Byte) : Res → State
  | .done s => retire (dropJob s k) k len
  | .jump s pc => countInstret (setPc (dropJob s k) k pc) k 1
  | .trap s e => faultAt (if (thr s k).job.isSome then keepJob s k enc else s) k e (thr s k).pc
  | .trapNext s e =>
    if frameBusy s k then s
    else match route s k e ((thr s k).pc + BitVec.ofNat 64 len) with
      | .done t => countInstret t k 1
      | .wait t => t
  | .wait s => s
  | .hold s => keepJob s k enc
  | .abort s code user detail node => abortTx s k code user detail node
  | .ends s => countInstret (dropJob s k) k 1

/-- The instruction completed: a transient check's replay counts. -/
def completes : Res → Bool
  | .done _ | .jump _ _ | .trapNext _ _ | .ends _ => true
  | _ => false

/-- What an instruction's own read of the local store meets (R170), and whether its thread still runs then. -/
def meetChk (s : State) (k : Nat) : Chk → State × Bool
  | .stored o wrong =>
    let s := meetWrong s (.store (k / 8) o.toNat) wrong.toNat
    (s, (thr s k).run == .running)
  | _ => (s, true)

/-- An instruction that has been fetched and decoded runs, under what its unit's checks find (R371, R372); an error in a
word of the own store that it reads is met as the word is read (R170). -/
def runInstr (h : Hart) (engine : Nat) (enc : List Byte) (body : State → Nat → Res) (s : State) (k : Nat) : State :=
  match h.chk with
  | .parity => parityEvent s k engine
  | .permanent => permanentEvent s k engine
  | .pass => applyRes k h.len enc (body s k)
  | .stored _ _ =>
    let m := meetChk s k h.chk
    if m.2 then applyRes k h.len enc (body m.1 k) else m.1
  | .transient =>
    let r := body s k
    if completes r then transientEvent (applyRes k h.len enc r) k engine else applyRes k h.len enc r

/-- A thread fetches the halfwords at an address and goes on with them, or with `unseen` where the state does not hold them. -/
def fetchThen (s : State) (k : Nat) (compact : Bool) (pc : W64) (unseen : State) (go : BitVec 16 → BitVec 16 → State) : State :=
  match fetchInstr s k pc compact with
  | .fault e => faultAt s k e (thr s k).pc
  | .wait => s
  | .ask l hp va => if inTx s k then abortTx s k 10 0 0 0xFFFF else askHost s k l hp va false (.instr (scalarExn 7 va))
  | .unseen => unseen
  | .bits a b => go a b

/-- What a thread does at the instruction that it fetches: it raises ILLEGAL where the encoding is reserved (R61), it goes on with `go`
where it is the one that `want` gives, and otherwise a step of that one cannot occur (log entry 20). Where the state does not hold
the bytes, `want` is what was fetched. -/
def fetched (s : State) (k : Nat) (h : Hart) (want : Decoded) (pc : W64) (go : State) : State :=
  fetchThen s k h.compact pc go fun a b =>
    match decodeAt h a b with
    | .reserved => faultAt s k (scalarExn 1 0) (thr s k).pc
    | d => if d = want then go else s

/-- A thread issues an instruction (R85, R182), or goes on with it. -/
def issueThread (h : Hart) (i : Instr) (engine : Nat) (regs : List (BitVec 5)) (body : State → Nat → Res) (s : State) : State :=
  let k := h.core.toNat * 8 + h.thr.toNat
  let enc := instrBytes i
  match (thr s k).job with
  | some j => if j.enc = enc ∧ canGoOn s k then runInstr h engine enc body s k else s
  | none =>
    if !canIssue s k then s
    else fetched s k h (.instr i) (thr s k).pc (if regs.any (busyReg s k) then s else runInstr h engine enc body s k)

/-- The step of an instruction; a core that does not exist (R16) issues none. -/
def issue (h : Hart) (i : Instr) (engine : Nat) (regs : List (BitVec 5)) (body : State → Nat → Res) (s : State) : Out :=
  .next (if isCore h.core.toNat then issueThread h i engine regs body s else s)

/-! ### Steps of a thread that are not instructions -/

/-- The step of a thread named by core and number; a core that does not exist (R16) takes none. -/
def onThread (c : BitVec 11) (t : BitVec 3) (f : State → Nat → State) (s : State) : Out :=
  .next (if !isCore c.toNat || held s (c.toNat / 8) then s else f s (c.toNat * 8 + t.toNat))

/-- The step of a node. -/
def onNode (n : BitVec 8) (f : State → Nat → State) (s : State) : Out :=
  .next (if held s n.toNat then s else f s n.toNat)

/-- The step of a bench; a port node is no bench (R13) and takes none. -/
def onBench (n : BitVec 8) (f : State → Nat → State) (s : State) : Out :=
  .next (if !isBench n.toNat || held s n.toNat then s else f s n.toNat)

/-- The step of a core; a core that does not exist (R16) takes none. -/
def onCore (c : BitVec 11) (f : State → Nat → State) (s : State) : Out :=
  .next (if !isCore c.toNat || held s (c.toNat / 8) then s else f s c.toNat)

/-- A waiting thread's instruction completes: the wait is over and the instruction retires. -/
def completeWait (s : State) (k len : Nat) : State :=
  retire (modThr (dropJob s k) k fun t => { t with wait := none }) k len

/-- A waiting thread's instruction raises a fault after all. -/
def faultWait (s : State) (k : Nat) (e : Exn) : State :=
  faultAt (modThr s k fun t => { t with wait := none }) k e (thr s k).pc

end Sys2Proof.Machine
end

