-- ==== Sys2Proof/Machine/Operands.lean ====
section
/-!
DEFINITION. Operand forms of the scalar instructions: immediates (R67), register-to-register operations
(R65, R66), shifts, and the fn10 fields of LOADX, STOREX and ATOMIC (R69, R71).
-/
namespace Sys2Proof.Machine

/-- A sign-extended immediate. -/
def simm {n : Nat} (i : BitVec n) : W64 := i.signExtend 64

/-- A zero-extended immediate. -/
def zimm {n : Nat} (i : BitVec n) : W64 := i.setWidth 64

/-- The low 32 bits of a value, as the OP-32 operations take them. -/
def lo32 (a : W64) : BitVec 32 := a.setWidth 32

/-- A truth value as the compares write it (R65). -/
def truth (b : Bool) : W64 := if b then 1 else 0

/-- The OP major (Table 3.5); `none` is reserved. -/
def opFn (fn : BitVec 10) (a b : W64) : Option W64 :=
  let sh := b.toNat % 64
  match fn.toNat with
  | 0x000 => some (a + b)
  | 0x001 => some (a - b)
  | 0x002 => some (a &&& b)
  | 0x003 => some (a ||| b)
  | 0x004 => some (a ^^^ b)
  | 0x005 => some (a &&& ~~~ b)
  | 0x006 => some (a <<< sh)
  | 0x007 => some (a >>> sh)
  | 0x008 => some (a.sshiftRight sh)
  | 0x009 => some (a.rotateRight sh)
  | 0x00A => some (truth (a.slt b))
  | 0x00B => some (truth (a.ult b))
  | 0x00C => some (if a.slt b then a else b)
  | 0x00D => some (if a.slt b then b else a)
  | 0x00E => some (if a.ult b then a else b)
  | 0x00F => some (if a.ult b then b else a)
  | _ => none

/-- The OP-32 major (Table 3.5). -/
def op32Fn (fn : BitVec 10) (x y : W64) : Option W64 :=
  let a := lo32 x
  let b := lo32 y
  let sh := b.toNat % 32
  match fn.toNat with
  | 0x000 => some (simm (a + b))
  | 0x001 => some (simm (a - b))
  | 0x006 => some (simm (a <<< sh))
  | 0x007 => some (simm (a >>> sh))
  | 0x008 => some (simm (a.sshiftRight sh))
  | _ => none

/-- Leading zeros of a 64-bit value, 0 to 64. -/
def clz64 (a : W64) : Nat := if a = 0 then 64 else 63 - a.toNat.log2

/-- Trailing zeros of a 64-bit value, 0 to 64. -/
def ctz64 (a : W64) : Nat := if a = 0 then 64 else (a &&& (0 - a)).toNat.log2

/-- Number of 1 bits in the low `n` bits of a number. -/
def popCount (v : Nat) : Nat → Nat
  | 0 => 0
  | n + 1 => b2n (bit v n) + popCount v n

/-- A value with its bytes in reverse order. -/
def bswap64 (a : W64) : W64 := BitVec.ofNat 64 (leNat (leBytes 8 a.toNat).reverse)

/-- The BITS major (Table 3.5). -/
def bitsFn (fn : BitVec 10) (a : W64) : Option W64 :=
  match fn.toNat with
  | 0x000 => some (BitVec.ofNat 64 (clz64 a))
  | 0x001 => some (BitVec.ofNat 64 (ctz64 a))
  | 0x002 => some (BitVec.ofNat 64 (popCount a.toNat 64))
  | 0x003 => some (bswap64 a)
  | 0x004 => some (simm (a.setWidth 8))
  | 0x005 => some (simm (a.setWidth 16))
  | 0x006 => some (simm (lo32 a))
  | 0x007 => some (zimm (lo32 a))
  | _ => none

/-- The high half of a product of two 128-bit extended operands. -/
def highHalf (a b : BitVec 128) : W64 := (a * b).extractLsb' 64 64

/-- The MULDIV major (R66, Table 3.6): division by zero gives quotient 0 and the dividend as remainder. -/
def muldivFn (fn : BitVec 10) (a b : W64) : Option W64 :=
  let x := lo32 a
  let y := lo32 b
  match fn.toNat with
  | 0x000 => some (a * b)
  | 0x001 => some (highHalf (a.signExtend 128) (b.signExtend 128))
  | 0x002 => some (highHalf (a.setWidth 128) (b.setWidth 128))
  | 0x003 => some (highHalf (a.signExtend 128) (b.setWidth 128))
  | 0x004 => some (a.sdiv b)
  | 0x005 => some (if b = 0 then 0 else a / b)
  | 0x006 => some (a.srem b)
  | 0x007 => some (if b = 0 then a else a % b)
  | 0x008 => some (simm (x * y))
  | 0x009 => some (simm (x.sdiv y))
  | 0x00A => some (simm (if y = 0 then 0 else x / y))
  | 0x00B => some (simm (x.srem y))
  | 0x00C => some (simm (if y = 0 then x else x % y))
  | _ => none

/-- The functions of the divider (Table 3.12). -/
def isDivide (fn : BitVec 10) : Bool :=
  [0x004, 0x005, 0x006, 0x007, 0x009, 0x00A, 0x00B, 0x00C].contains fn.toNat

/-- SHK (R67): the function in imm15[14:12], the amount in imm15[5:0]. -/
def shkFn (imm : BitVec 15) (a : W64) : Option W64 :=
  let n := imm.toNat % 64
  let f := imm.toNat / 4096
  let x := lo32 a
  if imm.toNat / 64 % 64 ≠ 0 then none
  else if 4 ≤ f ∧ 32 ≤ n then none
  else match f with
    | 0 => some (a <<< n)
    | 1 => some (a >>> n)
    | 2 => some (a.sshiftRight n)
    | 3 => some (a.rotateRight n)
    | 4 => some (simm (x <<< n))
    | 5 => some (simm (x >>> n))
    | 6 => some (simm (x.sshiftRight n))
    | _ => none

/-! ### Access sizes -/

/-- How a LOADX or STOREX forms its address (R69). -/
inductive XMode where
  | index | scaled | postInc
  deriving DecidableEq, Repr

/-- MODE, size in bytes and sign extension of LOADX's fn10 (R69). -/
def xFields (fn : BitVec 10) : Option (XMode × Nat × Bool) :=
  let v := fn.toNat
  let size := v / 32 % 8
  if v % 32 ≠ 0 ∨ size = 7 then none
  else match v / 256 with
    | 0 => some (.index, 2 ^ (size % 4), decide (size < 4))
    | 1 => some (.scaled, 2 ^ (size % 4), decide (size < 4))
    | 2 => some (.postInc, 2 ^ (size % 4), decide (size < 4))
    | _ => none

/-- The address of an indexed or post-increment access. -/
def xAddress (m : XMode) (size : Nat) (a b : W64) : W64 :=
  match m with
  | .index => a + b
  | .scaled => a + (b <<< size.log2)
  | .postInc => a

/-- A loaded value, extended to 64 bits (R68). -/
def loadExtend (bytes : Nat) (signed : Bool) (v : Nat) : W64 :=
  if signed then sext64 (8 * bytes) v else BitVec.ofNat 64 (v % 2 ^ (8 * bytes))

/-- The fields of ATOMIC's fn10 (R71): operation, size in bytes, RET. -/
structure AtomicFields where
  op : Nat
  bytes : Nat
  ret : Bool
  deriving DecidableEq, Repr

/-- ATOMIC's fn10, with the combinations that R71 reserves refused. -/
def atomicFields (fn : BitVec 10) (rd : BitVec 5) : Option AtomicFields :=
  let v := fn.toNat
  let op := v / 64
  let size := v / 16 % 4
  let ret := bit v 3
  if v % 8 ≠ 0 ∨ 8 < op ∨ 2 ≤ size then none
  else if !ret && rd != 0 then none
  else if op = 7 ∧ !(size == 1 && ret) then none
  else if op = 8 ∧ size ≠ 0 then none
  else if op = 6 ∧ !ret then none
  else some { op := op, bytes := 4 * (size + 1), ret := ret }

end Sys2Proof.Machine
end

