-- ==== Sys2Proof/Machine/Access.lean ====
section
/-!
DEFINITION. The accesses of scalar loads, stores and atomics: checks at the source and what the instruction does with what its access
leads to (R68, R71, R181 to R186, R193, R221, R222).
-/
namespace Sys2Proof.Machine

/-- What an access finds at its source: an address, or the instruction's outcome. -/
inductive Found where
  | at (x : Xlat) (s : State)
  | stop (r : Res)

/-- Alignment and translation of a scalar access (R68, R24 to R34, R375 WHERE 8). -/
def findTarget (s : State) (k : Nat) (acc : Acc) (va : W64) (n : Nat) : Found :=
  if va.toNat % n ≠ 0 then .stop (.trap s (scalarExn 3 va))
  else
    let w := threadWho s k (lvlOf s k)
    match translate s w acc va with
    | .fault c => .stop (.trap (noteTranslate s w va) (scalarExn c va))
    | .poison _ => .stop (.trap s { code := 16, engine := 0, info := poisonInfo 8 3 false, faddr := va })
    | .ats l _ h => .stop (if inTx s k then txIllegal s else .wait (askHost s k l h va (acc == .write) (.instr (scalarExn 7 va))))
    | .ok x => .at x (noteTranslate s w va)

/-- What a load does with its value. -/
def sinkValue (s : State) (k : Nat) (sink : Sink) (v : Nat) : State :=
  match sink with
  | .load rd bytes signed => wx s k rd (loadExtend bytes signed v)
  | .old rd bytes => wx s k rd (loadExtend bytes true v)
  | _ => s

/-- The POISON that consuming a line raises, deferred (R375, R376). -/
def deferredPoison (where_ holder dev : Nat) : Exn :=
  { code := 16, engine := 0, info := poisonInfo where_ holder true, faddr := BitVec.ofNat 64 (dev / 64 * 64) }

/-! ### Loads, stores and atomics -/

/-- A scalar load (R68); `fin` is the base update of a post-increment form (R69). -/
def scalarLoad (s : State) (k : Nat) (va : W64) (n : Nat) (sink : Sink) (fin : State → State) : Res :=
  match findTarget s k .read va n with
  | .stop r => r
  | .at x s1 =>
    match readOut s1 k { va := va, x := x, eng := 0, lane := 0, sink := sink } n with
    | .now bs s2 => .done (fin (sinkValue s2 k sink (leNat bs)))
    | .sent s2 => .done (fin s2)
    | .poison holder dev s2 => .done (addDeferred (fin s2) k (deferredPoison 1 holder dev))
    | .err c => .trap s1 (scalarExn c va)
    | .abort c d node => .abort s1 c 0 d node
    | .wait => .wait s
    | .later s2 => .wait s2

/-- A scalar store (R68). -/
def scalarStore (s : State) (k : Nat) (va : W64) (n : Nat) (v : W64) (fin : State → State) : Res :=
  match findTarget s k .write va n with
  | .stop r => r
  | .at x s1 =>
    match writeOut s1 k { va := va, x := x, eng := 0, lane := 0, sink := .none } (leBytes n v.toNat) false with
    | .now _ s2 => .done (fin s2)
    | .sent s2 => .done (fin s2)
    | .poison holder dev s2 => .done (addDeferred (fin s2) k (deferredPoison 1 holder dev))
    | .err c => .trap s1 (scalarExn c va)
    | .abort c d node => .abort s1 c 0 d node
    | .wait => .wait s
    | .later s2 => .wait s2

/-- An atomic (R71, R198): host memory and register windows raise ADDRESS; the bench cache drops its line. -/
def scalarAtomic (s : State) (k : Nat) (va : W64) (f : AtomicFields) (rd : BitVec 5) (operand compare : W64) : Res :=
  if inTx s k then txIllegal s
  else match findTarget s k .write va f.bytes with
    | .stop r => r
    | .at x s1 =>
      let line := targetAddr x.tgt / 64
      let bad : Bool := match x.tgt with
        | .host _ _ => true
        | .reg _ _ => true
        | .remote d _ => (routePort s d).isNone
        | _ => false
      if bad then .trap s1 (scalarExn 8 va)
      else if sbBlocked s k line line true then .wait s
      else match dropCached s1 k x.tgt with
        | .busy => .wait s
        | .sent s2 => .wait s2
        | .ready s2 =>
          let a : Access1 := { va := va, x := x, eng := 0, lane := 0, sink := if f.ret then .old rd f.bytes else .none }
          .done (sendHeld s2 k (a.entry k true false) 3 (targetNode s2 x.tgt) (.atomic x.tgt f.op f.bytes operand compare))

end Sys2Proof.Machine
end

