-- ==== Sys2Proof/Machine/Cells.lean ====
section
/-!
DEFINITION. Counter names and the Counter Map (R201 to R203), what a refused operation raises (R207), and quiescence (R211, R212).
-/
namespace Sys2Proof.Machine

/-! ### COUNTER (R207) -/

/-- ID of Table 10.5: the name's CTR, or its VID. -/
def nameId (s : State) (k : Nat) (name : Nat) : Nat :=
  match (ctxOf s k).bind fun c => Tbl.get? s.ctxs c with
  | some x => if x.virt then name % 65536 else name % 64
  | none => name % 64

/-- COUNTER raised by thread `k` (Table 10.5). -/
def counterExn (s : State) (k name reason : Nat) (deferred : Bool) : Exn :=
  { code := 14, engine := 3, info := BitVec.ofNat 32 (reason + nameId s k name * 2 ^ 8 + b2n deferred * 2 ^ 31), faddr := 0 }

/-! ### Names (R201 to R203) -/

/-- What a counter name resolves to. -/
inductive Named where
  | ok (cell : CellId)
  | bad (reason : Nat)
  | poison
  deriving DecidableEq, Repr

/-- A core cell, if the core is one that may be named. -/
def namedCore (s : State) (c i : Nat) : Named := if goodCore s c then .ok (.core c i) else .bad 2

/-- A name under direct allocation (R202); `self` is the issuing core. -/
def directName (s : State) (ctx : Nat) (lvl : Nat) (self : Option Nat) (name : Nat) : Named :=
  let remote := bit name 28
  let dev := bits name 27 20
  let away := remote && dev != s.dev.devId.toNat
  if remote && lvl != 2 then .bad 3
  else if bits name 7 6 ≠ 0 ∨ bits name 63 29 ≠ 0 ∨ 47 < name % 64 then .bad 1
  else if !remote && dev != 0 then .bad 1
  else if bit name 19 then
    if away || bits name 18 8 != 0 then .bad 1
    else match self with
      | some c => namedCore s c (name % 64)
      | none => .bad 2
  else if away then .ok (.remote dev (bits name 18 8 * 64 + name % 64))
  else if lvl = 2 then namedCore s (bits name 18 8) (name % 64)
  else match logicalCore s ctx (bits name 18 8) with
    | some c => namedCore s c (name % 64)
    | none => .bad 2

/-- A name under virtual allocation (R203): the entry comes from the translation unit's cache or from HBM. -/
def virtualName (s : State) (ctx : Nat) (tu : Option Nat) (name : Nat) : Named :=
  if 65536 ≤ name then .bad 1
  else
    let cached := tu.bind fun n => ((bench s n).tuCtr.find? fun e => e.1 == ctx && e.2.1 == name).map (·.2.2.toNat)
    let judge (e : Nat) : Named :=
      match entryCell s e with
      | none => .bad 2
      | some (.core c i) => namedCore s c i
      | some cell => .ok cell
    match cached with
    | some e => judge e
    | none =>
      if homePoison s (.hbm (0xFFF4000000 + ctx * 0x80000 + name * 8)) then .poison
      else judge (mapEntryAt s ctx name)

/-- Resolve a counter name for a context at a level. -/
def resolveName (s : State) (ctx lvl : Nat) (self tu : Option Nat) (name : Nat) : Named :=
  match Tbl.get? s.ctxs ctx with
  | none => directName s ctx lvl self name
  | some x => if x.virt then virtualName s ctx tu name else directName s ctx lvl self name

/-- The translation unit keeps the Counter Map entry it has read: 512 entries, the oldest dropped. -/
def keepEntry (s : State) (n ctx name : Nat) : State :=
  match Tbl.get? s.ctxs ctx with
  | none => s
  | some x =>
    if !x.virt || decide (65536 ≤ name) then s
    else if (bench s n).tuCtr.any fun e => e.1 == ctx && e.2.1 == name then countTu s n true
    else
      let e := BitVec.ofNat 64 (mapEntryAt s ctx name)
      modBench (countTu s n false) n fun b =>
        { b with tuCtr := (if 512 ≤ b.tuCtr.length then b.tuCtr.drop 1 else b.tuCtr) ++ [(ctx, name, e)] }

/-- A thread's counter name. -/
def threadName (s : State) (k : Nat) (name : W64) : Named :=
  resolveName s ((ctxOf s k).getD 64) (lvlOf s k) (some (k / 8)) (some (k / 64)) name.toNat

/-! ### Quiescence (R211, R212) -/

/-- A thread's wait counts as waiting: a send does between its attempts and through each attempt after the first (R241). -/
def quietWait : Wait → Bool
  | .tput _ _ _ | .tget _ _ | .tend | .cwait _ _ _ _ _ _ | .stream _ _ _ | .tloadStream _ => true
  | .send _ _ _ _ blocking inFlight _ paused => blocking && (!inFlight || paused.isSome)
  | _ => false

/-- A thread counts as waiting (R211): it issues nothing until it is released, or it waits and nothing is due at its boundary. -/
def quietThread (t : Thread) : Bool :=
  (t.run != .running || ((match t.wait with | some w => quietWait w | none => false) && t.deferred.isEmpty)) && !t.dbg && t.ctrOut.isEmpty

/-- The rings of a context's function hold nothing but a WAIT or a LAUNCH of the context. -/
def quietRings (s : State) (ctx : Nat) : Bool :=
  s.rings.all fun r =>
    !ringOwns s r.1 ctx || (r.2.head == r.2.tail && r.2.group.isNone &&
      (match r.2.cur with | some p => pktOp p == 0x03 || (pktOp p == 0x01 && pktCtx p == ctx) | none => true))

/-- Nothing of a core's threads is under way. -/
def quietCore (s : State) (c : Nat) : Bool :=
  (core s c).sb.isEmpty && (core s c).array.isEmpty && (coreThreads s c).all fun k => quietThread (thr s k)

/-- A publication is a later attempt of a blocking send, which does not count as an entry in flight (R241). -/
def retried (s : State) (k : Nat) : Bool :=
  match (thr s k).wait with
  | some (.send _ _ _ _ true true _ paused) => paused.isSome
  | _ => false

/-- A message is a channel entry or a counter operation of a context in flight. -/
def ctxMessage (s : State) (x : Ctx) (m : Msg) : Bool :=
  match m.pay with
  | .publish c _ _ _ k _ => x.grant.contains (c / 8) && !retried s k
  | .counter (.core c _) _ _ _ => x.grant.contains (c / 8)
  | .counter (.wb w i) _ _ _ => x.wbHeld.any fun h => h / 2 == wbIndex w i
  | .counter (.remote _ _) _ _ _ => x.grant.contains m.src
  | _ => false

/-- No haul chain, no skip transfer, and no channel entry, stream entry or counter operation of a context is in flight. -/
def quietTraffic (s : State) (ctx : Nat) (x : Ctx) : Bool :=
  (s.benches.all fun b => (List.range 16).all fun ch => !(haulBusy s b.1 ch && (haulCh s b.1 ch).ctx == ctx && !(haulCh s b.1 ch).fw)) &&
    (s.skip.all fun e => e.2.all fun j => bit j.value.toNat 57 || bits j.value.toNat 63 58 != ctx) &&
    (s.regions.all fun r => r.2.ctx != ctx ||
      (regionBenches s r.2).all fun n => (bench s n).queues.all fun q => q.2.lane.isEmpty) &&
    (s.mesh ++ s.inbox).all fun m => !ctxMessage s x m

/-- A context is quiet (R211). -/
def ctxQuiet (s : State) (ctx : Nat) : Bool :=
  match Tbl.get? s.ctxs ctx with
  | none => false
  | some x =>
    let cs := grantCores s x
    (cs.all fun c => quietCore s c && !held s (c / 8)) &&
      (cs.any fun c => (coreThreads s c).any fun k => (thr s k).run != .ended) &&
      quietRings s ctx && quietTraffic s ctx x

/-- What shows that a context did something: the commands of its rings and the operations on its cells, and its threads' retired
instructions (R212). -/
def quietSign (s : State) (x : Ctx) : List Nat :=
  x.acts :: (grantCores s x).flatMap fun c => (coreThreads s c).map fun k => (thr s k).sys.instret.toNat

/-- The root weighbridge watches each context between commands (R212): the Quiet Limit counts from the
moment a context became quiet, and any change starts it again. -/
def watchQuiet (s : State) : State :=
  let now := pacerOf s (wbNodes.getD 2 0)
  let ctxs := s.ctxs.map fun (e : Nat × Ctx) =>
    if !ctxQuiet s e.1 then (e.1, { e.2 with quietSince := none, confirming := false })
    else
      let sign := quietSign s e.2
      if e.2.quietSince.isSome ∧ e.2.quietMark = sign then e
      else (e.1, { e.2 with quietSince := some now, quietMark := sign, confirming := false })
  { s with ctxs := ctxs }

end Sys2Proof.Machine
end

