-- ==== Sys2Proof/Machine/Flags.lean ====
section
/-!
DEFINITION. How register fields take writes (Table 0.5, R76, R437) and how counters stop (Tables 15.5,
22.5, 18.6): write-1-to-clear, disabled-only fields, saturation.
-/
namespace Sys2Proof.Machine

/-- A write-1-to-clear field: each 1 clears the matching bit (Table 0.5). -/
def rw1c {n : Nat} (old w : BitVec n) : BitVec n := old &&& ~~~ w

/-- A count that stops at its largest value. -/
def satAdd (width old n : Nat) : Nat := min (old + n) (2 ^ width - 1)

/-- The value of a register after a write of `len` bytes at byte `o` of it: the other half stays (R430). -/
def halfWrite (old : W64) (o len : Nat) (v : W64) : W64 :=
  if len = 8 then v
  else BitVec.ofNat 64 (old.toNat - old.toNat / 2 ^ (8 * o) % 2 ^ 32 * 2 ^ (8 * o) + v.toNat % 2 ^ 32 * 2 ^ (8 * o))

/-- The 1s that a write of `len` bytes at byte `o` of a register carries to its RW1C fields. -/
def clearMask (o len : Nat) (v : W64) : W64 :=
  if len = 8 then v else BitVec.ofNat 64 (v.toNat % 2 ^ 32 * 2 ^ (8 * o))

/-- A field of a register value. -/
def fld (v : W64) (hi lo : Nat) : Nat := bits v.toNat hi lo

end Sys2Proof.Machine
end

