-- ==== Sys2Proof/Machine/Counters.lean ====
section
/-!
DEFINITION. The counter instructions, the application of counter operations, and context deadlock (R204 to
R213, R221).
-/
namespace Sys2Proof.Machine

/-- The amount of CINC, CINC.B and CDEC (R204): 1 where the rs2 field is 0. -/
def ctrAmount (s : State) (k : Nat) (rs2 : BitVec 5) : Nat := if rs2 = 0 then 1 else (rx s k rs2).toNat

/-- COUNTER at the instruction. -/
def ctrFault (s : State) (k : Nat) (name : W64) (reason : Nat) : Res := .trap s (counterExn s k name.toNat reason false)

/-- POISON met on a Counter Map entry (Table 19.3 WHERE 8). -/
def ctrPoison (s : State) : Res := .trap s { code := 16, engine := 3, info := poisonInfo 8 3 false, faddr := 0 }

/-- Resolve a name, and go on with its cell. -/
def withCell (s : State) (k : Nat) (name : W64) (f : State → CellId → Res) : Res :=
  let r := threadName s k name
  let s := keepEntry s (k / 64) ((ctxOf s k).getD 64) name.toNat
  match r with
  | .bad reason => ctrFault s k name reason
  | .poison => ctrPoison s
  | .ok cell => f s cell

/-- Stage a counter operation in the ledger (R221, R222). -/
def stageCounter (s : State) (k : Nat) (cell : CellId) (amount : Nat) (name : W64) : Res :=
  match cell with
  | .remote _ _ => .abort s 11 0 0 0xFFFF
  | _ =>
    if 16 ≤ (thr s k).tx.ctrs.length then .abort s 2 0 4 0xFFFF
    else .done (modTx s k fun t => { t with ctrs := t.ctrs ++ [{ seq := t.ctrs.length + t.tuples.length, cell := cell, amount := amount, name := name.toNat }] })

/-- CINC and CINC.B (R204, R208, R209); `ordered` is the .B form, which sends nothing once an earlier access has come back with an
error: the fault is taken with its own PC. A remote cell of a device with no route is
an address error at the source (R365). -/
def bodyCinc (ordered : Bool) (rd rs1 rs2 : BitVec 5) (s : State) (k : Nat) : Res :=
  if rd ≠ 0 then illegal s
  else
    let name := rx s k rs1
    let amount := ctrAmount s k rs2
    if 2 ^ 32 ≤ amount then ctrFault s k name 1
    else withCell s k name fun s1 cell =>
      if inTx s k then stageCounter s1 k cell amount name
      else if ordered && !(thr s k).deferred.isEmpty then .wait (dropJob s k)
      else if ordered && writesInFlight s k then .hold s
      else match cell with
        | .remote d _ => if (routePort s d).isNone then .trap s1 (scalarExn 8 0) else .done (sendCounter s1 k cell false amount name.toNat)
        | _ => .done (sendCounter s1 k cell false amount name.toNat)

/-- CDEC (R204). -/
def bodyCdec (rd rs1 rs2 : BitVec 5) (s : State) (k : Nat) : Res :=
  if rd ≠ 0 then illegal s
  else if inTx s k then txIllegal s
  else
    let name := rx s k rs1
    let amount := ctrAmount s k rs2
    if 2 ^ 32 ≤ amount then ctrFault s k name 1
    else withCell s k name fun s1 cell =>
      match cell with
      | .remote d _ => if (routePort s d).isNone then .trap s1 (scalarExn 8 0) else .done (sendCounter s1 k cell true amount name.toNat)
      | _ => .done (sendCounter s1 k cell true amount name.toNat)

/-- The cells that a CWAIT may name (R206). -/
def waitable (k : Nat) : CellId → Bool
  | .core c _ => c == k / 8
  | .wb _ _ => true
  | .remote _ _ => false

/-- Node of a weighbridge. -/
def wbNode (w : Nat) : Nat := wbNodes.getD w 0

/-- CWAIT (R205, R206). -/
def bodyCwait (rd rs1 rs2 : BitVec 5) (s : State) (k : Nat) : Res :=
  if rd ≠ 0 then illegal s
  else if inTx s k then txIllegal s
  else
    let name := rx s k rs1
    let target := rx s k rs2
    withCell s k name fun s1 cell =>
      if !waitable k cell then ctrFault s1 k name 8
      else if !cellAlive s cell then ctrFault s1 k name 2
      else match reach (cellCredit s cell) (cellValue s cell) target with
        | .satisfied => .done s1
        | .range =>
          match ctxOf s k with
          | some c => ctrFault (counterRecord s1 (k / 64) 2 k c cell target 6) k name 6
          | none => ctrFault s1 k name 6
        | .waits =>
          match cell with
          | .wb w _ =>
            let entry := decide ((s.wbWaits.filter fun x => x.1 == w).length < 1024)
            let s2 := if entry then { s1 with wbWaits := s1.wbWaits ++ [(w, k)] } else s1
            .wait (modThr s2 k fun t => { t with wait := some (.cwait cell name target entry false (pacerOf s (wbNode w))) })
          | _ => .wait (modThr s1 k fun t => { t with wait := some (.cwait cell name target true false 0) })

/-- CREAD (R204): the value at the moment of the read, after the thread's own operations have been applied.
No link message reads a cell (R367), so a remote name resolves to no cell (log entry 13). -/
def bodyCread (rd rs1 rs2 : BitVec 5) (s : State) (k : Nat) : Res :=
  if rs2 ≠ 0 then illegal s
  else if inTx s k then txIllegal s
  else
    let name := rx s k rs1
    withCell s k name fun s1 cell =>
      match cell with
      | .remote _ _ => ctrFault s1 k name 2
      | _ =>
        if !cellAlive s cell then ctrFault s1 k name 2
        else if !(thr s k).ctrOut.isEmpty then .wait s
        else .done (wx s1 k rd ((cellValue s cell).setWidth 64))

/-- CINC. -/
def execCinc (h : Hart) (rd rs1 rs2 : BitVec 5) (s : State) : Out := issue h (.cinc h rd rs1 rs2) 3 [rs1, rs2] (bodyCinc false rd rs1 rs2) s
/-- CINC.B. -/
def execCincB (h : Hart) (rd rs1 rs2 : BitVec 5) (s : State) : Out := issue h (.cincB h rd rs1 rs2) 3 [rs1, rs2] (bodyCinc true rd rs1 rs2) s
/-- CDEC. -/
def execCdec (h : Hart) (rd rs1 rs2 : BitVec 5) (s : State) : Out := issue h (.cdec h rd rs1 rs2) 3 [rs1, rs2] (bodyCdec rd rs1 rs2) s
/-- CWAIT. -/
def execCwait (h : Hart) (rd rs1 rs2 : BitVec 5) (s : State) : Out := issue h (.cwait h rd rs1 rs2) 3 [rs1, rs2] (bodyCwait rd rs1 rs2) s
/-- CREAD. -/
def execCread (h : Hart) (rd rs1 rs2 : BitVec 5) (s : State) : Out := issue h (.cread h rd rs1 rs2) 3 [rd, rs1] (bodyCread rd rs1 rs2) s

/-! ### Waiting CWAITs -/

/-- A waiting CWAIT whose cell has taken a value that satisfies it completes (R205). -/
def cwaitSatisfied (s : State) (k : Nat) : State :=
  match (thr s k).wait with
  | some (.cwait _ _ _ true true _) => completeWait (dropWait s k) k 4
  | _ => s

/-- A CWAIT without a wait entry reads its cell again, every 256 pacer ticks of the weighbridge (R206). -/
def cwaitPoll (s : State) (k : Nat) : State :=
  match (thr s k).wait with
  | some (.cwait (.wb w i) name t false m since) =>
    if pacerSince s (wbNode w) since < 256 then s
    else if m || met s (.wb w i) t then completeWait s k 4
    else modThr s k fun y => { y with wait := some (.cwait (.wb w i) name t false m (pacerOf s (wbNode w))) }
  | _ => s

/-- CWAIT_SATISFIED (R205). -/
def execCwaitSatisfied (core : BitVec 11) (thr : BitVec 3) (s : State) : Out := onThread core thr cwaitSatisfied s
/-- CWAIT_POLL (R206). -/
def execCwaitPoll (core : BitVec 11) (thr : BitVec 3) (s : State) : Out := onThread core thr cwaitPoll s

/-! ### COUNTER_APPLY (R207, R208) -/

/-- Apply a delivered operation of a thread at its cell, and answer it. -/
def counterApply (s : State) (m : Nat) : State :=
  match arrived s m with
  | none => s
  | some x =>
    if held s x.dst then s
    else match x.pay with
    | .counter (.remote _ _) _ _ _ => s
    | .counter cell dec amount (.counter c t name) =>
      match applyCell s cell dec amount with
      | .ok s => reply s x (.ack (.counter c t name))
      | .refused reason =>
        let k := c * 8 + t
        let s := match ctxOf s k with
          | some ctx => counterRecord s (k / 64) 2 k ctx cell (BitVec.ofNat 64 amount) reason
          | none => s
        reply s x (.error (14 + reason * 256) (.counter c t name))
    | .counter cell dec amount .unit =>
      match applyCell s cell dec amount with
      | .ok s => inboxDrop s m
      | .refused _ => inboxDrop s m
    | _ => s

/-- COUNTER_APPLY (R208). -/
def execCounterApply (m : Nat) (s : State) : Out := .next (counterApply s m)

/-! ### Deadlock (R212, R213) -/

/-- Snapshot kind of a thread (Table 10.8). -/
def snapKind (t : Thread) : Nat :=
  match t.run with
  | .ended => 0
  | .held => 1
  | .halted => 2
  | .running => match t.wait with
    | some (.cwait _ _ _ _ _ _) => 3
    | some (.tget _ _) => 4
    | some (.tput _ _ _) => 5
    | some (.send _ _ _ _ _ _ _ _) => 6
    | some (.stream _ _ _) => 7
    | some .tend => 8
    | some (.tloadStream _) => 9
    | _ => 0

/-- The two words of a thread's snapshot record (Table 10.8). -/
def snapWords (s : State) (k : Nat) : List W64 :=
  let t := thr s k
  let object : Nat := match t.run, t.wait with
    | .running, some (.cwait _ name _ _ _ _) => name.toNat % 2 ^ 32
    | .running, some (.tget c _) => k % 8 + c * 16
    | .running, some (.tput d c _) => d % 8 + c * 16
    | .running, some (.send _ h _ _ _ _ _ _) => h
    | .running, some (.stream _ f _) => f.vs1.toNat % 8
    | .running, some (.tloadStream f) => f.rs1.toNat % 8
    | _, _ => 0
  let tv : Nat × Nat := match t.run, t.wait with
    | .running, some (.cwait c _ target _ _ _) => (target.toNat % 2 ^ 48, (cellValue s c).toNat % 2 ^ 32)
    | _, _ => (0, 0)
  [BitVec.ofNat 64 (snapKind t + (k % 8) * 16 + tv.1 * 2 ^ 16), BitVec.ofNat 64 (object + tv.2 * 2 ^ 32)]

/-- Write each core's snapshot (R213). -/
def writeSnapshots (s : State) (ks : List Nat) : State :=
  ks.foldl (fun s k =>
    homeWrite s (.store (k / 8) (0x7B800 + 16 * (k % 8))) (offsets ((snapWords s k).flatMap fun w => leBytes 8 w.toNat)) false none) s

/-- Words 3 to 5 of CONTEXT_DEADLOCK: thread counts by kind. -/
def deadlockWord (kinds : List Nat) (i : Nat) : W64 :=
  BitVec.ofNat 64 (((List.range 4).map fun j => (kinds.filter fun q => q == 4 * i + j).length % 65536 * 2 ^ (16 * j)).sum)

/-- The Quiet Limit of a context has run (R212): the root weighbridge starts a confirming round. -/
def quietLimitReached (s : State) (ctx : Nat) : State :=
  match Tbl.get? s.ctxs ctx with
  | none => s
  | some x =>
    match x.quietSince with
    | none => s
    | some t =>
      if x.quiet ≠ 0 ∧ x.quiet ≤ pacerSince s (wbNode 2) t ∧ ctxQuiet s ctx ∧ x.quietMark = quietSign s x then
        modCtx s ctx fun x => { x with confirming := true }
      else s

/-- A confirming round ends (R212): clean, it writes the snapshots, posts CONTEXT_DEADLOCK and acts; otherwise
the count starts again. -/
def contextDeadlock (s : State) (ctx : Nat) : State :=
  match Tbl.get? s.ctxs ctx with
  | none => s
  | some x =>
    if !x.confirming then s
    else
      let s := modCtx s ctx fun x => { x with confirming := false, quietSince := none }
      if !(ctxQuiet s ctx && decide (x.quietMark = quietSign s x)) then s
      else
        let ks := contextThreads s x
        let kinds := ks.map fun k => snapKind (thr s k)
        let s := writeSnapshots s ks
        let s := recordCtx s (wbNode 2) 5 2 ctx 6 (deadlockWord kinds 0) (deadlockWord kinds 1) (deadlockWord kinds 2) 0 0
        if x.wake then (grantCores s x).foldl (fun s c => modCore s c fun y => { y with irqWake := true }) s
        else haltContext s ctx

/-- QUIET_LIMIT_REACHED (R212). -/
def execQuietLimitReached (ctx : BitVec 6) (s : State) : Out := .next (quietLimitReached s ctx.toNat)
/-- CONTEXT_DEADLOCK (R212). -/
def execContextDeadlock (ctx : BitVec 6) (s : State) : Out := .next (contextDeadlock s ctx.toNat)

end Sys2Proof.Machine
end

