-- ==== Sys2Proof/Machine/Fp.lean ====
section
/-!
DEFINITION. Numbers exactly, and their rounding into formats (R106, R111, R112, R119 to R127, R133, R136):
every operation is computed on exact dyadic values and rounded once.
-/
namespace Sys2Proof.Machine

/-- A value: NaN, an infinity, or (−1)^neg × m × 2^e exactly. -/
inductive Fv where
  | nan
  | inf (neg : Bool)
  | fin (neg : Bool) (m : Nat) (e : Int)
  deriving DecidableEq, Repr

/-- A floating-point format: exponent bits, fraction bits, exponent bias. -/
structure Fmt where
  eb : Nat
  mb : Nat
  bias : Int
  deriving DecidableEq, Repr

/-- binary64. -/
def f64 : Fmt := { eb := 11, mb := 52, bias := 1023 }
/-- binary32. -/
def f32 : Fmt := { eb := 8, mb := 23, bias := 127 }
/-- bf16. -/
def bf16 : Fmt := { eb := 8, mb := 7, bias := 127 }
/-- binary16. -/
def f16 : Fmt := { eb := 5, mb := 10, bias := 15 }

/-- Exponent of the least significant bit of a format's subnormals. -/
def Fmt.low (f : Fmt) : Int := 1 - f.bias - f.mb

/-- Bit pattern of +∞, the first pattern past the largest finite one. -/
def Fmt.infBits (f : Fmt) : Nat := (2 ^ f.eb - 1) * 2 ^ f.mb

/-- The canonical quiet NaN of a format (R106). -/
def Fmt.nanBits (f : Fmt) : Nat := f.infBits + 2 ^ (f.mb - 1)

/-- The value of a magnitude pattern of a format that has no infinity: subnormals kept. -/
def magValue (f : Fmt) (neg : Bool) (v : Nat) : Fv :=
  let e := v / 2 ^ f.mb
  if e = 0 then .fin neg v f.low else .fin neg (2 ^ f.mb + v % 2 ^ f.mb) (f.low + e - 1)

/-- The value that an IEEE pattern stands for. -/
def unpack (f : Fmt) (v : Nat) : Fv :=
  let neg := bit v (f.eb + f.mb)
  let m := v % 2 ^ (f.eb + f.mb)
  if m = f.infBits then .inf neg else if m > f.infBits then .nan else magValue f neg m

/-- How a magnitude m × 2^e lies among the magnitudes of a format: the pattern at or below it, and the
fraction (rem, 2^sh) of the step to the next pattern (R133, R136). -/
def bracket (f : Fmt) (m : Nat) (e : Int) : Nat × Nat × Nat :=
  if m = 0 then (0, 0, 0)
  else
    let top : Int := max (e + m.log2) (1 - f.bias)
    let q : Int := top - f.mb
    let base := (top - (1 - f.bias)).toNat * 2 ^ f.mb
    if q ≤ e then (base + m * 2 ^ (e - q).toNat, 0, 0)
    else
      let sh := (q - e).toNat
      (base + m / 2 ^ sh, m % 2 ^ sh, sh)

/-- The nearest pattern, ties to the even one (R106, R133). -/
def nearest (b : Nat × Nat × Nat) : Nat :=
  let half := 2 ^ b.2.2
  if 2 * b.2.1 > half ∨ (2 * b.2.1 = half ∧ b.1 % 2 = 1) then b.1 + 1 else b.1

/-- Round a value into an IEEE pattern: to nearest, ties to even; overflow gives an infinity and every NaN
is canonical (R106). -/
def pack (f : Fmt) : Fv → Nat
  | .nan => f.nanBits
  | .inf neg => b2n neg * 2 ^ (f.eb + f.mb) + f.infBits
  | .fin neg m e => b2n neg * 2 ^ (f.eb + f.mb) + min (nearest (bracket f m e)) f.infBits

/-- A signed integer as an exact value. -/
def ofInt (v : Int) : Fv := .fin (decide (v < 0)) v.natAbs 0

/-! ### Arithmetic, exact -/

/-- Negation. -/
def Fv.neg : Fv → Fv
  | .nan => .nan
  | .inf n => .inf (!n)
  | .fin n m e => .fin (!n) m e

/-- Magnitude. -/
def Fv.abs : Fv → Fv
  | .nan => .nan
  | .inf _ => .inf false
  | .fin _ m e => .fin false m e

/-- The integer ±m × 2^(e − q), for q at or below e. -/
def aligned (n : Bool) (m : Nat) (e q : Int) : Int :=
  let v : Int := m * 2 ^ (e - q).toNat
  if n then -v else v

/-- Sum; an exact zero from operands of different signs is +0. -/
def Fv.add : Fv → Fv → Fv
  | .nan, _ => .nan
  | _, .nan => .nan
  | .inf a, .inf b => if a = b then .inf a else .nan
  | .inf a, _ => .inf a
  | _, .inf b => .inf b
  | .fin a m e, .fin b n f =>
    let q := min e f
    let v := aligned a m e q + aligned b n f q
    if v = 0 then .fin (a && b) 0 q else .fin (decide (v < 0)) v.natAbs q

/-- Product. -/
def Fv.mul : Fv → Fv → Fv
  | .nan, _ => .nan
  | _, .nan => .nan
  | .inf a, .inf b => .inf (xor a b)
  | .inf a, .fin b m _ => if m = 0 then .nan else .inf (xor a b)
  | .fin a m _, .inf b => if m = 0 then .nan else .inf (xor a b)
  | .fin a m e, .fin b n f => .fin (xor a b) (m * n) (e + f)

/-- Quotient, to 128 bits and a sticky bit below, more than any format keeps. -/
def Fv.div : Fv → Fv → Fv
  | .nan, _ => .nan
  | _, .nan => .nan
  | .inf _, .inf _ => .nan
  | .inf a, .fin b _ _ => .inf (xor a b)
  | .fin a _ _, .inf b => .fin (xor a b) 0 0
  | .fin a m e, .fin b n f =>
    if n = 0 then (if m = 0 then .nan else .inf (xor a b))
    else
      let q := m * 2 ^ 128 / n
      .fin (xor a b) (2 * q + b2n (m * 2 ^ 128 % n != 0)) (e - f - 129)

/-- Integer square root, bit by bit. -/
def isqrt (v : Nat) : Nat → Nat → Nat
  | 0, r => r
  | n + 1, r => if (r + 2 ^ n) * (r + 2 ^ n) ≤ v then isqrt v n (r + 2 ^ n) else isqrt v n r

/-- Square root, with a sticky bit below; √−0 is −0. -/
def Fv.sqrt : Fv → Fv
  | .nan => .nan
  | .inf n => if n then .nan else .inf false
  | .fin n m e =>
    if m = 0 then .fin n 0 e
    else if n then .nan
    else
      let odd := (e % 2).toNat
      let v := m * 2 ^ odd * 2 ^ 160
      let r := isqrt v 112 0
      .fin false (2 * r + b2n (r * r != v)) ((e - odd) / 2 - 81)

/-- Numeric comparison of two values that are not NaN; the zeros are equal. -/
def Fv.lt : Fv → Fv → Bool
  | .nan, _ => false
  | _, .nan => false
  | .inf a, .inf b => a && !b
  | .inf a, _ => a
  | _, .inf b => !b
  | .fin a m e, .fin b n f =>
    let q := min e f
    decide (aligned a m e q < aligned b n f q)

/-- A value is NaN. -/
def Fv.isNan : Fv → Bool
  | .nan => true
  | _ => false

/-- The sign of a value. -/
def Fv.sign : Fv → Bool
  | .nan => false
  | .inf n => n
  | .fin n _ _ => n

/-- Equality of two values; a NaN equals nothing. -/
def Fv.eq (a b : Fv) : Bool := !a.isNan && !b.isNan && !a.lt b && !b.lt a

/-- The lesser value: NaN if either is, and −0 below +0 (R106). -/
def Fv.min (a b : Fv) : Fv :=
  if a.isNan || b.isNan then .nan else if a.lt b || (a.eq b && a.sign) then a else b

/-- The greater value. -/
def Fv.max (a b : Fv) : Fv :=
  if a.isNan || b.isNan then .nan else if b.lt a || (a.eq b && !a.sign) then a else b

/-- Truncation toward zero (R112). -/
def truncMag (m : Nat) (e : Int) : Nat := if e ≥ 0 then m * 2 ^ e.toNat else m / 2 ^ (-e).toNat

/-- Rounding to the nearest integer, ties to even (R134). -/
def nearestInt (m : Nat) (e : Int) : Nat :=
  if e ≥ 0 then m * 2 ^ e.toNat
  else nearest (m / 2 ^ (-e).toNat, m % 2 ^ (-e).toNat, (-e).toNat)

/-- Clamp a signed integer to `w` bits. -/
def clampInt (w : Nat) (v : Int) : Int := max (-(2 ^ (w - 1))) (min v (2 ^ (w - 1) - 1))

/-- Floating to a signed integer of `w` bits: toward zero, saturating, NaN to 0 (R112). -/
def toInt (w : Nat) : Fv → Int
  | .nan => 0
  | .inf n => if n then -(2 ^ (w - 1)) else 2 ^ (w - 1) - 1
  | .fin n m e => let v : Int := truncMag m e; clampInt w (if n then -v else v)

/-- A signed integer as `w` bits. -/
def intBits (w : Nat) (v : Int) : Nat := (v % 2 ^ w).toNat

/-- The signed integer that `w` bits stand for. -/
def bitsInt (w v : Nat) : Int := if bit v (w - 1) then (v % 2 ^ w : Int) - 2 ^ w else (v % 2 ^ w : Int)

end Sys2Proof.Machine
end

