-- ==== Sys2Proof/Machine/Mesh.lean ====
section
/-!
DEFINITION. Routers (R282 to R287): the route, credits, arbitration, delivery and replays; and what a link
port node does with a message delivered to it (R362, R365, R367).
-/
namespace Sys2Proof.Machine

/-- Number of a direction. -/
def dirNum : Dir → Nat
  | .north => 0 | .south => 1 | .east => 2 | .west => 3 | .here => 4

/-- The direction a message takes from a node: along its row, then along its column (R284). -/
def routeDir (n dst : Nat) : Dir :=
  if n % 16 < dst % 16 then .east else if dst % 16 < n % 16 then .west
  else if n / 16 < dst / 16 then .south else if dst / 16 < n / 16 then .north else .here

/-- The neighbour of a node in a direction; the mesh edge has no link on its outer side (R282). -/
def neighbour (n : Nat) : Dir → Option Nat
  | .north => if n < 16 then none else some (n - 16)
  | .south => if n / 16 = 15 then none else some (n + 16)
  | .east => if n % 16 = 15 then none else some (n + 1)
  | .west => if n % 16 = 0 then none else some (n - 1)
  | .here => some n

/-- The input port by which a flit sent in a direction comes in. -/
def inputOf : Dir → Dir
  | .north => .south | .south => .north | .east => .west | .west => .east | .here => .here

/-- The home's park queue of 512 entries is full (R304): plain reads that wait for a locked line. -/
def parkFull (s : State) (n : Nat) : Bool :=
  decide (512 ≤ (s.inbox.filter fun x => x.dst == n && x.cls == 3 &&
    (match x.pay with | .read t _ _ => lineLocked s t | .atomic t _ _ _ _ _ => lineLocked s t | _ => false)).length)

/-- The next buffer has a credit for a flit of this class (R283): 8 flit buffers per input and class; an HBM home
takes no class 3 message while its park queue is full (R304). -/
def hasCredit (s : State) (n : Nat) (d : Dir) (cls : Nat) : Bool :=
  match d with
  | .here => !(cls == 3 && nodeKind n == 1 && parkFull s n)
  | d => match neighbour n d with
    | none => false
    | some m => decide (((s.mesh.filter fun x => x.pos == m && x.inp == inputOf d && x.cls == cls).map (·.flit)).eraseDups.length < 8)

/-- The messages of a class that are ready for an output: the oldest at each input. -/
def readyAt (s : State) (n : Nat) (d : Dir) (cls : Nat) : List Msg :=
  let here := s.mesh.filter fun x => x.pos == n && x.cls == cls && routeDir n x.dst == d
  if hasCredit s n d cls then
    [Dir.north, .south, .east, .west, .here].filterMap fun i => here.find? fun x => x.inp == i
  else []

/-- Round robin over inputs: the first input after the one served last. -/
def pickInput (last : Nat) (l : List Msg) : Option Msg :=
  ((List.range 5).map fun i => (last + 1 + i) % 5).findSome? fun i => l.find? fun x => dirNum x.inp == i

/-- The class that an output serves in a beat (R285): one that has waited 16 beats first, else the first of
1, 2, 3 and 4 with a ready flit. -/
def pickClass (s : State) (n : Nat) (d : Dir) : Option Nat :=
  let ready := [1, 2, 3, 4].filter fun c => !(readyAt s n d c).isEmpty
  match ready.find? fun c => decide (16 ≤ Tbl.getD (node s n).starve (dirNum d * 8 + c) 0) with
  | some c => some c
  | none => ready.head?

/-- Count the flit at the router (Table 22.6). -/
def countFlit (s : State) (n : Nat) : State :=
  let r := wrapAdd (node s n).flits 1
  let old := (node s n).rtWrap
  let s := modNode s n fun x => { x with flits := r.1, rtWrap := x.rtWrap || r.2 }
  if r.2 && !old then recordWrap s n 0x10010 0 else s

/-! ### Messages that leave over a link (R365, R367) -/

/-- The set on which a message leaves through a port (R365); `arr` is the port it arrived by and its set. -/
def leaveSet (s : State) (d p : Nat) (arr : Option (Nat × Bool)) : Bool :=
  let e := (Tbl.getD s.dev.routes d 0).toNat
  if bit e 3 then true
  else match arr with
    | some (q, set1) => if (link s q).dim == (link s p).dim then set1 else false
    | none => false

/-- Virtual channel of a message (R362). -/
def linkVc (m : LinkMsg) : Nat := m.cls.toNat * 2 + b2n m.set1

/-- A message may leave on a port now: its virtual channel holds a credit, one of 64 (R362). -/
def linkCredit (l : Link) (m : LinkMsg) : Bool := decide (Tbl.getD l.credits (linkVc m) 0 < 64)

/-- The waiting message that leaves next: the lowest class with a credit, the oldest within it (R285, R362). -/
def linkNext (l : Link) : Option (LinkMsg × Nat) :=
  [1, 2, 3].findSome? fun c => l.queue.find? fun e => e.1.cls.toNat == c && linkCredit l e.1 &&
    !(l.queue.takeWhile fun f => f != e).any fun f => linkVc f.1 == linkVc e.1

/-- Send waiting messages, one flit each, while the port is UP, its replay buffer of 1,024 flits has room and
credits allow (R360, R361; log entry 12). -/
def linkPump (s : State) (p : Nat) : Nat → State
  | 0 => s
  | f + 1 =>
    let l := link s p
    if l.state ≠ 2 ∨ 1024 ≤ l.unacked.length then s
    else match linkNext l with
      | none => s
      | some e =>
        linkPump (modLink s p fun l =>
          { l with queue := l.queue.erase e, unacked := l.unacked ++ [(l.nextTx, e.1)], nextTx := l.nextTx + 1,
                   credits := Tbl.set l.credits (linkVc e.1) (Tbl.getD l.credits (linkVc e.1) 0 + 1) }) p f

/-- Send everything that a port can send now. -/
def linkDrain (s : State) (p : Nat) : State := linkPump s p (link s p).queue.length

/-- Queue a message on its way to a device: through ROUTE[d].PORT; with V = 0 there is no way out, and the
message comes back as undeliverable (R365). -/
def linkSend (s : State) (m : LinkMsg) (arr : Option (Nat × Bool)) : Option State :=
  match routePort s m.dstDev.toNat with
  | none => none
  | some p =>
    let m := { m with set1 := leaveSet s m.dstDev.toNat p arr }
    some (linkDrain (modLink s p fun l => { l with queue := l.queue ++ [(m, pacerOf s (linkNodes.getD p 0))] }) p)

/-- The operation that a request to a remote target carries, with its device. -/
def remoteOp : Payload → Option (Nat × LinkOp)
  | .read (.remote d o) len _ => some (d, .read (BitVec.ofNat 43 o) len)
  | .write (.remote d o) bytes poison _ => some (d, .write (BitVec.ofNat 43 o) bytes poison)
  | .atomic (.remote d o) op n a b _ => some (d, .atomic (BitVec.ofNat 43 o) (BitVec.ofNat 4 op) (n == 8) a b)
  | .counter (.remote d c) dec amount _ => some (d, .counter (BitVec.ofNat 18 c) dec (BitVec.ofNat 32 amount))
  | _ => none

/-- The operation that an answer to a request from a link carries, with that request. -/
def answerOp : Payload → Option (LinkOp × Requester)
  | .data bytes poison _ r => some (.data bytes poison, r)
  | .ack r => some (.ack, r)
  | .error code r => some (.error code, r)
  | _ => none

/-- What a link port node does with a message delivered to it: a request to another device stays until it is
answered, and goes out on the link; an answer to a request from a link goes out and is gone; anything else
stays for its own step. -/
def linkDeliver (s : State) (x : Msg) : State :=
  let keep := { s with inbox := s.inbox ++ [x] }
  let out (op : LinkOp) (dev node tag : Nat) : LinkMsg :=
    { srcDev := s.dev.devId, dstDev := BitVec.ofNat 8 dev, srcNode := BitVec.ofNat 8 x.src,
      dstNode := BitVec.ofNat 8 node, cls := BitVec.ofNat 2 x.cls, set1 := false, tag := tag, op := op }
  match remoteOp x.pay with
  | some (d, op) =>
    match linkSend keep (out op d 0 x.id) none with
    | some s => s
    | none => keep
  | none => match x.pay with
    | .overLink m =>
      match linkSend s m ((indexOf linkNodes x.src).map fun p => (p, m.set1)) with
      | some s => s
      | none => s
    | p => match answerOp p with
      | some (op, .link _ tag dev nd) =>
        match linkSend s (out op dev nd tag) none with
        | some s => s
        | none => s
      | _ => keep

/-- Deliver a message to its unit. -/
def deliver (s : State) (x : Msg) : State :=
  let x := { x with pos := x.dst, arr := pacerOf s x.dst }
  let s := { s with mesh := s.mesh.filter fun y => y.id != x.id }
  if nodeKind x.dst = 2 then linkDeliver s x else { s with inbox := s.inbox ++ [x] }

/-- Bytes of a message's payload (R282). -/
def payBytes : Payload → Nat
  | .cacheRead _ _ _ _ | .read _ _ _ | .txRead _ _ _ | .ack _ | .error _ _ => 0
  | .atomic _ _ _ _ _ _ | .counter _ _ _ _ => 8
  | _ => 64

/-- The messages that a flit takes from those that wait: at most four, of at most 256 bytes together (R282). -/
def packFlit : Nat → Nat → List Msg → List Msg
  | _, _, [] => []
  | n, b, x :: rest => if n = 4 ∨ 256 < b + payBytes x.pay then [] else x :: packFlit (n + 1) (b + payBytes x.pay) rest

/-- The flit that a message leads: it packs what waits at the local input for the same output and class, and the messages of a flit
that came by a link go on together where their ways do. -/
def flitOf (s : State) (n : Nat) (d : Dir) (x : Msg) : List Msg :=
  let same := s.mesh.filter fun y => y.pos == n && y.inp == x.inp && y.cls == x.cls && routeDir n y.dst == d
  if x.inp = .here then packFlit 0 0 same else same.filter fun y => y.flit == x.flit

/-- A link's replay buffer takes a flit: it keeps the last 32 (R287). -/
def keepFlit (s : State) (n : Nat) (d : Dir) (f : Nat) : State :=
  modNode s n fun y =>
    let l := Tbl.getD y.resend (dirNum d) [] ++ [f]
    { y with resend := Tbl.set y.resend (dirNum d) (l.drop (l.length - 32)) }

/-- A router sends one flit on an output, on one of the link's two channels, which share the input's buffers (R282 to R285). Its
quadrant, and the next router's across a die edge, must not be held (R45, R286). -/
def flitHop (d : Dir) (s : State) (n : Nat) : State :=
  match neighbour n d with
  | none => s
  | some m =>
    if held s m then s
    else match pickClass s n d with
      | none => s
      | some c =>
        match pickInput (Tbl.getD (node s n).turn (dirNum d * 8 + c) 4) (readyAt s n d c) with
        | none => s
        | some x =>
          let waiting := [1, 2, 3, 4].filter fun e => e != c && !(readyAt s n d e).isEmpty
          let xs := flitOf s n d x
          let s := countFlit s n
          let s := modNode s n fun y =>
            { y with turn := Tbl.set y.turn (dirNum d * 8 + c) (dirNum x.inp)
                     starve := waiting.foldl (fun t e => Tbl.set t (dirNum d * 8 + e) (Tbl.getD t (dirNum d * 8 + e) 0 + 1))
                       (Tbl.erase y.starve (dirNum d * 8 + c)) }
          if d = .here then xs.foldl deliver s
          else
            let moved := s.mesh.filter fun y => !xs.contains y
            keepFlit { s with mesh := moved ++ xs.map fun y => { y with pos := m, inp := inputOf d, flit := x.id } } n d x.id

/-- FLIT_HOP (R284). -/
def execFlitHop (node : BitVec 8) (dir : Dir) (s : State) : Out := onNode node (flitHop dir) s

/-- The flits that a sender holds in the replay buffer of its link to node `n`, which come in by direction `d`. -/
def sentFlits (s : State) (n : Nat) (d : Dir) : List Nat :=
  match neighbour n d with
  | none => []
  | some m => Tbl.getD (node s m).resend (dirNum (inputOf d)) []

/-- A receiver refuses a flit with a bad CRC that came by the link of a direction (R287): the sender resends it and every flit after
it, in their order, from its replay buffer, and they come in again behind what the other inputs hold; the request is counted
(Table 22.6). -/
def meshReplay (d : Dir) (s : State) (n : Nat) : State :=
  match d with
  | .here => s
  | d =>
    if (sentFlits s n d).isEmpty then s
    else
      let again (x : Msg) : Bool := x.pos == n && x.inp == d && (sentFlits s n d).contains x.flit
      modNode { s with mesh := (s.mesh.filter fun x => !again x) ++ s.mesh.filter again } n fun x =>
        { x with replays := Tbl.set x.replays (dirNum d) (min (Tbl.getD x.replays (dirNum d) 0 + 1) 65535) }

/-- MESH_REPLAY (R287). -/
def execMeshReplay (node : BitVec 8) (dir : Dir) (s : State) : Out := onNode node (meshReplay dir) s

end Sys2Proof.Machine
end

