-- ==== Sys2Proof/Machine/Home.lean ====
section
/-!
DEFINITION. What homes do: HBM homes and local store controllers perform accesses, place watches, scrub,
refresh and retire (R170 to R172, R178, R179, R198, R222, R228, R299 to R304).
-/
namespace Sys2Proof.Machine

/-! ### Performing an access at its home -/

/-- The thread that a request belongs to. -/
def reqThread (s : State) : Requester → Option Nat
  | .access c slot => (Tbl.get? (core s c).sb slot).map (·.thr)
  | .counter c t _ => some (c * 8 + t)
  | _ => none

/-- A POISON error answer: where it was met and who holds the line (Tables 19.3, 19.4). -/
def poisonCode (where_ holder : Nat) : Nat := 16 + where_ * 2 ^ 8 + holder * 2 ^ 16

/-- An answer that aborts a transaction with a code and DETAIL (R222, R228). -/
def abortAnswer (code detail : Nat) : Nat := (code * 256 + detail) * 2 ^ 24

/-- The new value of an atomic (Table 9.5): `n` is the operand's size in bytes. -/
def atomicNew (op n old : Nat) (operand compare : W64) : Nat :=
  let w := 8 * n
  let o := operand.toNat % 2 ^ w
  match op with
  | 0 => (old + o) % 2 ^ w
  | 1 => if bitsInt w old ≤ bitsInt w o then old else o
  | 2 => if bitsInt w old ≤ bitsInt w o then o else old
  | 3 => old &&& o
  | 4 => old ||| o
  | 5 => old ^^^ o
  | 6 => o
  | 7 => if old = compare.toNat % 2 ^ w then o else old
  | _ => pack f32 ((unpack f32 old).add (unpack f32 o))

/-- A request comes from a firmware chain, which is exempt from R20 (R276). -/
def firmReq (s : State) : Requester → Bool
  | .haul n ch _ => (haulCh s n ch).fw
  | _ => false

/-- A local store controller's target is backed: its core is good (R20, R381). -/
def backed (s : State) (req : Requester) : Target → Bool
  | .store c _ => goodCore s c || firmReq s req
  | _ => true

/-- The bytes of a store's line leave the gather buffer before another requester's access is served (R178). -/
def settle (s : State) : Target → State
  | .store c o => gbufFlush s c (o / 64)
  | _ => s

/-- The page through which a transactional read was made (R223). -/
def watchPage (s : State) (req : Requester) : Option (Nat × Nat) :=
  match req with
  | .access c slot =>
    match Tbl.get? (core s c).sb slot with
    | some e => if lvlOf s e.thr = 2 then none else (ctxOf s e.thr).map fun x => (x, e.faddr.toNat / 65536)
    | none => none
  | _ => none

/-- Perform a read, write, atomic or transactional read at its home: the new state and the answer; nothing
while the line is locked by a commit (R228). -/
def performHome (s : State) (x : Msg) : Option (State × Payload) :=
  match x.pay with
  | .read t len req =>
    if !backed s req t then some (s, .error 8 req)
    else if lineLocked s t then none
    else let s := settle s t; some (s, .data (homeRead s t len) (homePoison s t) (holderOf t) req)
  | .write t bytes poison req =>
    if !backed s req t then some (s, .error 8 req)
    else if lineLocked s t then none
    else some (homeWrite s t bytes poison (reqThread s req), .ack req)
  | .atomic t op n operand compare req =>
    if !backed s req t then some (s, .error 8 req)
    else if lineLocked s t then none
    else
      let s := settle s t
      if homePoison s t then some (s, .error (poisonCode 5 (holderOf t)) req)
      else
        let old := homeRead s t n
        let new := atomicNew op n (leNat old) operand compare
        some (homeWrite s t (offsets (leBytes n new)) false (reqThread s req), .data old false (holderOf t) req)
  | .txRead t len req =>
    if !backed s req t then some (s, .error 8 req)
    else match reqThread s req with
      | none => some (s, .error 8 req)
      | some k =>
        if lineLocked s t then some (s, .error (abortAnswer 1 3) req)
        else
          let s := settle s t
          let answer := Payload.data (homeRead s t len) (homePoison s t) (holderOf t) req
          if (thr s k).tx.depth = 0 then some (s, answer)
          else match placeWatch s k (targetAddr t / 64) (watchPage s req) with
            | none => some (s, .error (abortAnswer 2 3) req)
            | some s => some (s, answer)
  | _ => none

/-- The target of an access message. -/
def accessTarget : Payload → Option (Target × Requester)
  | .read t _ r => some (t, r)
  | .write t _ _ r => some (t, r)
  | .atomic t _ _ _ _ r => some (t, r)
  | .txRead t _ r => some (t, r)
  | _ => none

/-- A request came over a link; INCOMING_ACCESS performs those. -/
def fromLink : Requester → Bool
  | .link _ _ _ _ => true
  | _ => false

/-- Perform a delivered message at its home and answer it; the word or line that it touches is read first, with `wrong` bad bits or
symbols in it. -/
def serve (wrong : BitVec 3) (s : State) (x : Msg) : State :=
  let met := match accessTarget x.pay with | some (t, _) => meetWrong s t wrong.toNat | none => s
  match performHome met x with
  | none => s
  | some (s, a) => reply s x a

/-- An incoming access that is refused with an address error (R367). -/
def incomingRefused (s : State) : Target → Bool
  | .hbm a => decide (reserveBase ≤ a) || withdrawn s a
  | .store c o => !goodCore s c || decide (0x78000 ≤ o ∧ o < 0x80000)
  | _ => true

/-- An access at a store of a gated bench waits until the store leaves retention (R179). -/
def gatedStore (s : State) : Target → Bool
  | .store c _ => (node s (c / 8)).gated
  | _ => false

/-! ### The rows -/

/-- A read or write at a local store's mesh port. -/
def localStoreAccess (wrong : BitVec 3) (s : State) (m : Nat) : State :=
  match arrived s m with
  | none => s
  | some x => match x.pay with
    | .read (.store c o) _ r | .write (.store c o) _ _ r =>
      if fromLink r || gatedStore s (.store c o) || held s x.dst then s else serve wrong s x
    | _ => s

/-- LOCAL_STORE_ACCESS (R179). -/
def execLocalStoreAccess (m : Nat) (wrong : BitVec 3) (s : State) : Out := .next (localStoreAccess wrong s m)

/-- A read of an HBM line at its home (R299 to R301). -/
def hbmReadAt (wrong : BitVec 3) (s : State) (m : Nat) : State :=
  match arrived s m with
  | none => s
  | some x => match x.pay with
    | .read (.hbm _) _ r => if fromLink r || held s x.dst then s else serve wrong s x
    | _ => s

/-- HBM_READ (R300). -/
def execHbmRead (m : Nat) (wrong : BitVec 3) (s : State) : Out := .next (hbmReadAt wrong s m)

/-- Entries of a home's write buffer in use or reserved by lock requests (R304). -/
def wbufUsed (s : State) (n : Nat) : Nat :=
  (stack s n).wbuf.length + (s.locks.filter fun l => l.home == .hbm (BitVec.ofNat 4 n)).length

/-- A write of an HBM line at its home: it takes an entry of the write buffer (R300, R304). -/
def hbmWriteAt (wrong : BitVec 3) (s : State) (m : Nat) : State :=
  match arrived s m with
  | none => s
  | some x => match x.pay with
    | .write (.hbm a) _ _ r =>
      let n := stackOf s a
      if fromLink r || held s x.dst || decide (4096 ≤ wbufUsed s n) || lineLocked s (.hbm a) then s
      else modStack (serve wrong s x) n fun y => { y with wbuf := y.wbuf ++ [a / 64] }
    | _ => s

/-- HBM_WRITE (R300). -/
def execHbmWrite (m : Nat) (wrong : BitVec 3) (s : State) : Out := .next (hbmWriteAt wrong s m)

/-- An atomic at its home (R198, R179). -/
def homeAtomic (wrong : BitVec 3) (s : State) (m : Nat) : State :=
  match arrived s m with
  | none => s
  | some x => match x.pay with
    | .atomic (.remote _ _) _ _ _ _ _ => s
    | .atomic t _ _ _ _ r => if fromLink r || gatedStore s t || held s x.dst then s else serve wrong s x
    | _ => s

/-- HOME_ATOMIC (R198). -/
def execHomeAtomic (m : Nat) (wrong : BitVec 3) (s : State) : Out := .next (homeAtomic wrong s m)

/-- A transactional read at its home (R222). -/
def txReadAt (wrong : BitVec 3) (s : State) (m : Nat) : State :=
  match arrived s m with
  | none => s
  | some x => match x.pay with
    | .txRead t _ _ => if gatedStore s t || held s x.dst then s else serve wrong s x
    | _ => s

/-- TX_READ (R222). -/
def execTxRead (m : Nat) (wrong : BitVec 3) (s : State) : Out := .next (txReadAt wrong s m)

/-- WRITE_BUFFER_RETIRE (R304): the oldest entry retires to the DRAM. -/
def execWriteBufferRetire (stack : BitVec 4) (s : State) : Out :=
  .next (modStack s stack.toNat fun y => { y with wbuf := y.wbuf.drop 1 })

/-- A patrol scrubber of a bank reads a word with `wrong` bad bits (R170, R172). -/
def patrolScrub (offset wrong : Nat) (s : State) (c : Nat) : State :=
  if goodCore s c then meetWrong s (.store c offset) wrong else s

/-- PATROL_SCRUB (R172). -/
def execPatrolScrub (core : BitVec 11) (offset : BitVec 20) (wrong : BitVec 3) (s : State) : Out :=
  onCore core (patrolScrub offset.toNat wrong.toNat) s

/-- GATHER_BUFFER_WRITEBACK (R178). -/
def execGatherBufferWriteback (core : BitVec 11) (line : BitVec 14) (s : State) : Out :=
  onCore core (fun s c => gbufFlush s c line.toNat) s

/-- A stack's patrol scrubber reads a line with `wrong` bad symbols (R301): events count against the pseudo-channel. -/
def hbmScrub (n o wrong : Nat) (s : State) : State :=
  let pc := 64 * n + pcOf o
  match codewordCode wrong with
  | .clean => s
  | .corrected => pcCorrected s pc
  | .uncorrectable => pcUncorrected { s with hbmPoison := NSet.add s.hbmPoison ((n * 2 ^ 36 + o) / 64) } pc

/-- HBM_SCRUB (R301). -/
def execHbmScrub (stack : BitVec 4) (offset : BitVec 36) (wrong : BitVec 3) (s : State) : Out :=
  .next (hbmScrub stack.toNat offset.toNat wrong.toNat s)

/-- HBM_REFRESH (R302, R56): the stack is refreshed; in self-refresh it refreshes itself. -/
def execHbmRefresh (stack : BitVec 4) (s : State) : Out :=
  .next (modStack s stack.toNat fun y =>
    if y.selfRefresh then y else { y with refreshes := y.refreshes + 1 })

end Sys2Proof.Machine
end

