-- ==== Sys2Proof/Machine/Lanes.lean ====
section
/-!
DEFINITION. Lanes and predicates of the vector registers (R104, R105, Table 5.1).
-/
namespace Sys2Proof.Machine

/-! ### Types and lanes (Table 5.1) -/

/-- Element size in bits of a type. -/
def vBits (ty : Nat) : Nat :=
  match ty with
  | 0 | 4 => 64
  | 1 | 5 => 32
  | 2 | 3 | 6 => 16
  | _ => 8

/-- Lanes of a type. -/
def vLanes (ty : Nat) : Nat := 512 / vBits ty

/-- A floating-point type. -/
def vFloat (ty : Nat) : Bool := decide (ty < 4)

/-- The format of a floating-point type. -/
def vFmt (ty : Nat) : Fmt := if ty = 0 then f64 else if ty = 1 then f32 else if ty = 2 then bf16 else f16

/-- Lane `i` of a register, of `e` bits. -/
def laneOf (e : Nat) (v : V512) (i : Nat) : Nat := v.toNat / 2 ^ (e * i) % 2 ^ e

/-- A register from its lanes. -/
def fromLanes (e : Nat) (f : Nat → Nat) : V512 :=
  BitVec.ofNat 512 ((List.range (512 / e)).foldr (fun i acc => f i % 2 ^ e + acc * 2 ^ e) 0)

/-- Lane `i` is active under a governing predicate (R105). -/
def laneActive (s : State) (k pg i : Nat) : Bool := pg == 0 || bit (rp s k pg).toNat i

/-- A register whose active lanes take new values and whose others keep the old (R105). -/
def mergeLanes (s : State) (k pg e : Nat) (old : V512) (f : Nat → Nat) : V512 :=
  fromLanes e fun i => if laneActive s k pg i then f i else laneOf e old i

/-- A predicate from its bits. -/
def fromBits (n : Nat) (f : Nat → Bool) : W64 :=
  BitVec.ofNat 64 (((List.range n).map fun i => b2n (f i) * 2 ^ i).sum)

/-- Write the lanes of a vector register by lane. -/
def wLanes (s : State) (k : Nat) (f : VFields) (g : Nat → Nat) : State :=
  wv s k f.vd.toNat (mergeLanes s k f.pg.toNat (vBits f.ty.toNat) (rv s k f.vd.toNat) g)

end Sys2Proof.Machine
end

