-- ==== Sys2Proof/Machine/Formats.lean ====
section
/-!
DEFINITION. The number formats of the matrix unit and their conversion (R119 to R138).
-/
namespace Sys2Proof.Machine

/-! ### Tile formats (Table 7.1) and memory formats (Tables 6.4, 7.4) -/

/-- Bits of an element of a tile format. -/
def tileBits (fmt : Nat) : Nat :=
  match fmt with
  | 0 => 4
  | 1 => 2
  | 8 | 9 => 16
  | 10 | 12 => 32
  | _ => 8

/-- Elements that share a scale; 0 for a format without scales. -/
def tileGroup (fmt : Nat) : Nat := if fmt < 6 then 32 else if fmt < 8 then 64 else 0

/-- Width multiple of a tile format in bytes. -/
def widthMultiple (fmt : Nat) : Nat :=
  match fmt with
  | 0 => 16
  | 1 => 8
  | 2 | 3 | 4 | 5 => 32
  | 6 | 7 => 64
  | _ => 8

/-- A memory format code that is not reserved. -/
def mfValid (mf : Nat) : Bool := decide (mf < 0xE) || [0x10, 0x11, 0x12, 0x14, 0x15, 0x16].contains mf

/-- Bits of an element in memory. -/
def mfBits (mf : Nat) : Nat :=
  match mf with
  | 0x00 | 0x02 | 0x10 | 0x14 => 4
  | 0x01 | 0x12 | 0x16 => 2
  | 0x03 | 0x04 => 6
  | 0x09 | 0x0A => 16
  | 0x0B | 0x0D => 32
  | 0x11 | 0x15 => 3
  | _ => 8

/-- The tile format that a memory format is loaded into as itself (R125); codes below 0x0E. -/
def mfTile (mf : Nat) : Nat := if mf < 2 then mf else if mf = 2 then 0 else mf - 1

/-- The memory form of a tile format. -/
def tileMf (fmt : Nat) : Nat := if fmt < 2 then fmt else fmt + 1

/-- Side data of a memory format: elements per unit and bytes per unit, none where there is none (R148). -/
def mfSide (mf : Nat) : Option (Nat × Nat) :=
  if mf < 7 then some (32, 1) else if mf < 9 then some (64, 1) else if 0x14 ≤ mf then some (32, 4) else none

/-- Block size in memory, in bytes (Table 6.4). -/
def mfBlock (mf : Nat) : Nat := match mfSide mf with | some (b, _) => b * mfBits mf / 8 | none => 8

/-! ### Element values (R120 to R127) -/

/-- Magnitude format of a memory format with element codes of its own. -/
def magFmt (mf : Nat) : Fmt :=
  match mf with
  | 1 => { eb := 1, mb := 0, bias := 1 }
  | 3 => { eb := 2, mb := 3, bias := 1 }
  | 4 => { eb := 3, mb := 2, bias := 3 }
  | 5 | 7 => { eb := 4, mb := 3, bias := 7 }
  | 6 | 8 => { eb := 5, mb := 2, bias := 15 }
  | _ => { eb := 2, mb := 1, bias := 1 }

/-- Magnitude code of MAXV (Table 6.5). -/
def maxCode (mf : Nat) : Nat :=
  match mf with
  | 1 => 1
  | 3 | 4 => 0x1F
  | 5 | 7 => 0x7E
  | 6 | 8 => 0x7B
  | _ => 7

/-- EMAX (Table 6.5). -/
def emaxOf (mf : Nat) : Int :=
  match mf with
  | 1 => 0
  | 4 => 4
  | 5 | 7 => 8
  | 6 | 8 => 15
  | _ => 2

/-- The element NaN of a block format, where it has one. -/
def nanCode (mf : Nat) : Option Nat :=
  match mf with
  | 0 => some 8
  | 1 => some 2
  | 5 | 7 => some 0x7F
  | 6 | 8 => some 0x7E
  | _ => none

/-- MAXV. -/
def maxV (mf : Nat) : Fv := magValue (magFmt mf) false (maxCode mf)

/-- An element of a tile format without its scale. -/
def elemValue (fmt v : Nat) : Fv :=
  match fmt with
  | 0 => if v % 16 = 8 then .nan else magValue (magFmt 0) (bit v 3) (v % 8)
  | 1 => if v % 4 = 2 then .nan else magValue (magFmt 1) (bit v 1) (v % 2)
  | 2 => magValue (magFmt 3) (bit v 5) (v % 32)
  | 3 => magValue (magFmt 4) (bit v 5) (v % 32)
  | 4 | 6 => if v % 128 = 0x7F then .nan else magValue (magFmt 5) (bit v 7) (v % 128)
  | 5 | 7 => unpack (magFmt 6) v
  | 8 => unpack bf16 v
  | 9 => unpack f16 v
  | 10 => unpack f32 v
  | 11 => ofInt (bitsInt 8 v)
  | _ => ofInt (bitsInt 32 v)

/-- A value under a block scale (R122). -/
def scaled (scale : Nat) : Fv → Fv
  | .fin n m e => if scale = 255 then .nan else .fin n m (e + scale - 127)
  | x => if scale = 255 then .nan else x

/-! ### Narrowing (R131 to R136) -/

/-- Counts of a narrowing conversion (R135). -/
structure Counts where
  conv : Nat
  clip : Nat
  ufl : Nat
  nan : Nat
  deriving DecidableEq, Repr

/-- No counts. -/
def Counts.zero : Counts := { conv := 0, clip := 0, ufl := 0, nan := 0 }

/-- Sum of counts. -/
def Counts.add (a b : Counts) : Counts := { conv := a.conv + b.conv, clip := a.clip + b.clip, ufl := a.ufl + b.ufl, nan := a.nan + b.nan }

/-- One step of a tile's LFSR (R136). -/
def lfsrStep (x : BitVec 32) : BitVec 32 := if bit x.toNat 0 then (x >>> 1) ^^^ 0x80200003#32 else x >>> 1

/-- Round a magnitude between two neighbours: to nearest, or by the LFSR's low 16 bits. -/
def roundMag (rnd : Bool) (state : BitVec 32) (b : Nat × Nat × Nat) : Nat :=
  if rnd then (if state.toNat % 65536 < 65536 * b.2.1 / 2 ^ b.2.2 then b.1 + 1 else b.1) else nearest b

/-- A value is zero. -/
def Fv.isZero : Fv → Bool
  | .fin _ 0 _ => true
  | _ => false

/-- One element of a block destination (R132), with the LFSR state after its step: its code, or nothing for a
NaN, and its counts. A zero under scale 0xFF is counted as converted and not as a NaN, as R135 says of zero sources (DEDUCED, log
entry 39). -/
def narrowElem (mf scale : Nat) (rnd : Bool) (state : BitVec 32) (x : Fv) : Option Nat × Counts :=
  let one : Counts := { Counts.zero with conv := 1 }
  let signBit := 2 ^ (mfBits mf - 1)
  if scale = 255 || x.isNan then (none, { one with nan := b2n (!x.isZero) })
  else match x with
    | .fin neg m e =>
      let y : Fv := .fin false m (e + 127 - scale)
      if (maxV mf).lt y then (some (b2n neg * signBit + maxCode mf), { one with clip := 1 })
      else
        let r := roundMag rnd state (bracket (magFmt mf) m (e + 127 - scale))
        if r = 0 then (some 0, { one with ufl := b2n (m != 0) }) else (some (b2n neg * signBit + r), one)
    | _ => (some (b2n x.sign * signBit + maxCode mf), { one with clip := 1 })

/-- floor(log2) of the largest magnitude among the finite non-zero elements, with that magnitude. -/
def largest (xs : List Fv) : Option Fv :=
  (xs.filter fun x => match x with | .fin _ m _ => m != 0 | _ => false).foldl (fun (a : Option Fv) x =>
    match a with
    | none => some x.abs
    | some y => if y.lt x.abs then some x.abs else some y) none

/-- The scale of a block (Table 6.7). -/
def chooseScale (mf scm given : Nat) (xs : List Fv) : Nat :=
  if scm = 2 then given
  else match largest xs with
    | some (.fin _ m e) =>
      if scm = 0 then (max 0 (min 254 (e + m.log2 - emaxOf mf + 127))).toNat
      else
        let a : Fv := .fin false m e
        ((List.range 255).find? fun t => !(scaled t (maxV mf)).lt a).getD 254
    | _ => 127

/-- What a narrowing conversion of a run of elements gives: codes, scale, LFSR state and counts. -/
structure Narrowed where
  codes : List Nat
  scale : Nat
  lfsr : BitVec 32
  counts : Counts
  deriving DecidableEq, Repr

/-- The LFSR state for the next element. -/
def nextLfsr (rnd : Bool) (x : BitVec 32) : BitVec 32 := if rnd then lfsrStep x else x

/-- Convert one block (R132), and the whole-block NaN of the formats that have no element NaN. -/
def narrowBlock (mf scm given : Nat) (rnd : Bool) (lfsr : BitVec 32) (xs : List Fv) : Narrowed :=
  let scale := chooseScale mf scm given xs
  let r := xs.foldl (fun (a : List (Option Nat) × BitVec 32 × Counts) x =>
    let st := nextLfsr rnd a.2.1
    let o := narrowElem mf scale rnd st x
    (a.1 ++ [o.1], st, a.2.2.add o.2)) ([], lfsr, Counts.zero)
  match nanCode mf with
  | some c => { codes := r.1.map fun o => o.getD c, scale := scale, lfsr := r.2.1, counts := r.2.2 }
  | none =>
    if r.1.any (·.isNone) then
      { codes := r.1.map fun _ => 0, scale := 255, lfsr := r.2.1,
        counts := { Counts.zero with conv := xs.length, nan := (xs.filter Fv.isNan).length } }
    else { codes := r.1.map fun o => o.getD 0, scale := scale, lfsr := r.2.1, counts := r.2.2 }

/-- An exact value outside the range of INT8. -/
def outsideInt8 (neg : Bool) (m : Nat) (e : Int) : Bool :=
  (Fv.fin false (if neg then 128 else 127) 0).lt (.fin false m e)

/-- One element of an INT8 destination (R134, R136): with RND = 1 it rounds stochastically, as R136 has it for every narrowing (DEDUCED,
log entry 39). -/
def narrowInt8 (rnd : Bool) (state : BitVec 32) (x : Fv) : Nat × Counts :=
  let one : Counts := { Counts.zero with conv := 1 }
  let bound (neg : Bool) : Nat := if neg then 0x80 else 0x7F
  match x with
  | .nan => (0, { one with nan := 1 })
  | .inf neg => (bound neg, { one with clip := 1 })
  | .fin neg m e =>
    if outsideInt8 neg m e then (bound neg, { one with clip := 1 })
    else
      let sh := (-e).toNat
      let r := if 0 ≤ e then m * 2 ^ e.toNat else roundMag rnd state (m / 2 ^ sh, m % 2 ^ sh, sh)
      if r = 0 then (0, { one with ufl := b2n (m != 0) }) else (intBits 8 (if neg then -(r : Int) else r), one)

/-- Convert a run of elements to INT8. -/
def narrowInts (rnd : Bool) (lfsr : BitVec 32) (xs : List Fv) : Narrowed :=
  let r := xs.foldl (fun (a : List Nat × BitVec 32 × Counts) x =>
    let st := nextLfsr rnd a.2.1
    let o := narrowInt8 rnd st x
    (a.1 ++ [o.1], st, a.2.2.add o.2)) ([], lfsr, Counts.zero)
  { codes := r.1, scale := 0, lfsr := r.2.1, counts := r.2.2 }

/-- A conversion that is not narrowing: to bf16, binary16, binary32 or INT32 (R134). -/
def plainElem (fmt : Nat) (x : Fv) : Nat :=
  match fmt with
  | 8 => pack bf16 x
  | 9 => pack f16 x
  | 10 => pack f32 x
  | _ => match x with
    | .nan => (Config.toInt32 0 false 0 0).toNat
    | .inf n => (Config.toInt32 1 n 0 0).toNat
    | .fin n m e =>
      let v : Int := if n then -(truncMag m e : Int) else truncMag m e
      let exact := x.eq (ofInt v) && decide (-(2 ^ 31) ≤ v) && decide (v < 2 ^ 31)
      if exact then intBits 32 v else (Config.toInt32 2 n m e).toNat

/-- A conversion to a memory format narrows: a block format or INT8 (R131). -/
def narrows (mf : Nat) : Bool := decide (mf < 9) || mf == 0xC

/-- Runs of `n` elements of a list. -/
def runsOf {α : Type} (n : Nat) (xs : List α) : List (List α) :=
  (List.range ((xs.length + n - 1) / n)).map fun i => (xs.drop (n * i)).take n

/-- Narrow a sequence of elements, block by block in ascending order: codes, one scale a block, LFSR, counts. -/
def narrowSeq (mf scm given : Nat) (rnd : Bool) (lfsr : BitVec 32) (xs : List Fv) : List Nat × List Nat × BitVec 32 × Counts :=
  if mf = 0xC then
    let r := narrowInts rnd lfsr xs
    (r.codes, [], r.lfsr, r.counts)
  else
    let b := match mfSide mf with | some (b, _) => b | none => 32
    (runsOf b xs).foldl (fun (a : List Nat × List Nat × BitVec 32 × Counts) run =>
      let r := narrowBlock mf scm given rnd a.2.2.1 run
      (a.1 ++ r.codes, a.2.1 ++ [r.scale], r.lfsr, a.2.2.2.add r.counts)) ([], [], lfsr, Counts.zero)

/-- HF4 to MXFP4 (R138): code for code, and a block with a NaN as a whole-block NaN of R132. Only the elements of such a block count as
converted (DEDUCED, log entry 39). -/
def hf4ToMx (codes : List Nat) (scale : Nat) : Narrowed :=
  if scale = 255 ∨ codes.any fun c => c == 8 then
    { codes := codes.map fun _ => 0, scale := 255, lfsr := 0,
      counts := { Counts.zero with conv := codes.length, nan := if scale = 255 then codes.length else (codes.filter fun c => c == 8).length } }
  else { codes := codes, scale := scale, lfsr := 0, counts := Counts.zero }

/-! ### Expansion of narrow integers (R128 to R130) -/

/-- A parameter word that R130 refuses, for elements of `n` bits. -/
def paramBad (n w : Nat) : Bool := bits w 31 24 != 0 || decide (2 ^ n ≤ bits w 23 16)

/-- round((q − z) × SCALE) in bf16. -/
def expandParam (w q : Nat) : Nat := pack bf16 ((ofInt ((q : Int) - bits w 23 16)).mul (unpack bf16 (bits w 15 0)))

/-- Elements of `w` bits packed from the low bits of a number (R123). -/
def unpackElems (w n v : Nat) : List Nat := (List.range n).map fun i => v / 2 ^ (w * i) % 2 ^ w

/-- The number that packed elements of `w` bits make. -/
def packElems (w : Nat) : List Nat → Nat
  | [] => 0
  | v :: t => v % 2 ^ w + packElems w t * 2 ^ w

end Sys2Proof.Machine
end

