-- ==== Sys2Proof/Machine/TileRegs.lean ====
section
/-!
DEFINITION. Tile registers (R139 to R142, R150, R166): descriptors, elements, rows, what a row that has been loaded puts into its
tile, and the matrix unit's exceptions.
-/
namespace Sys2Proof.Machine

/-! ### Tiles -/

/-- A tile of a thread. -/
def tile (s : State) (k t : Nat) : Tile := Tbl.getD (thr s k).tiles t Tile.init

/-- Update a tile. -/
def modTile (s : State) (k t : Nat) (f : Tile → Tile) : State :=
  modThr s k fun y => { y with tiles := Tbl.set y.tiles t (f (Tbl.getD y.tiles t Tile.init)) }

/-- ROWS, row width in bytes and FMT of a descriptor (Table 7.2). -/
def descRows (d : BitVec 16) : Nat := bits d.toNat 15 10
/-- Row width. -/
def descWidth (d : BitVec 16) : Nat := 8 * (bits d.toNat 9 7 + 1)
/-- FMT. -/
def descFmt (d : BitVec 16) : Nat := bits d.toNat 6 3
/-- Elements in a row. -/
def descElems (d : BitVec 16) : Nat := descWidth d * 8 / tileBits (descFmt d)

/-- Slot of a tile in the core's thread mode (R139). -/
def slotBytes (s : State) (k : Nat) : Nat := if (core s (k / 8)).mode = 8 then 1024 else 2048

/-- Element `i` of row `r`, as its code. -/
def tileCode (t : Tile) (r i : Nat) : Nat :=
  let w := tileBits (descFmt t.desc)
  (Tbl.getD t.data r 0).toNat / 2 ^ (w * i) % 2 ^ w

/-- Scale byte `b` of row `r`. -/
def tileScale (t : Tile) (r b : Nat) : Nat := (Tbl.getD t.scales r 0).toNat / 2 ^ (8 * b) % 256

/-- Element `i` of row `r`, as its value under its scale (R122, R141). -/
def tileValue (t : Tile) (r i : Nat) : Fv :=
  let fmt := descFmt t.desc
  let v := elemValue fmt (tileCode t r i)
  if tileGroup fmt = 0 then v else scaled (tileScale t r (i / tileGroup fmt)) v

/-- Every element of a tile as a value, rows ascending. -/
def tileValues (t : Tile) : List Fv :=
  (List.range (descRows t.desc)).flatMap fun r => (List.range (descElems t.desc)).map fun i => tileValue t r i

/-- Scale bytes of a row replaced from byte 0 on. -/
def setScales (old : BitVec 64) (bs : List Nat) : BitVec 64 :=
  BitVec.ofNat 64 (((List.range 8).map fun i =>
    (match bs[i]? with | some b => b % 256 | none => old.toNat / 2 ^ (8 * i) % 256) * 2 ^ (8 * i)).sum)

/-- Write a row's element codes. -/
def putRow (t : Tile) (r : Nat) (codes : List Nat) : Tile :=
  { t with data := Tbl.set t.data r (BitVec.ofNat 512 (packElems (tileBits (descFmt t.desc)) codes)) }

/-- Write a row's scale bytes. -/
def putScales (t : Tile) (r : Nat) (bs : List Nat) : Tile :=
  if bs.isEmpty then t else { t with scales := Tbl.set t.scales r (setScales (Tbl.getD t.scales r 0) bs) }

/-- Write every row of a tile from a flat list of codes and a flat list of scale bytes. -/
def putAll (t : Tile) (codes scales : List Nat) : Tile :=
  let e := descElems t.desc
  let g := tileGroup (descFmt t.desc)
  let n := if g = 0 then 0 else e / g
  (List.range (descRows t.desc)).foldl (fun t r => putScales (putRow t r ((codes.drop (e * r)).take e)) r ((scales.drop (n * r)).take n)) t

/-! ### Exceptions (R166, Tables 7.11, 7.12) -/

/-- CAUSE.INFO of the matrix unit. -/
def tileInfo (reason t rows : Nat) : Nat := reason + t * 2 ^ 8 + rows * 2 ^ 16

/-- TILE. -/
def tileExn (reason t rows : Nat) : Exn :=
  { code := 12, engine := 2, info := BitVec.ofNat 32 (tileInfo reason t rows), faddr := 0 }

/-- TILE at the instruction. -/
def tileFault (s : State) (reason t : Nat) : Res := .trap s (tileExn reason t 0)

/-- The first of some tiles that is unconfigured (R145). -/
def unconfigured (s : State) (k : Nat) (ts : List Nat) : Option Nat := ts.find? fun t => descRows (tile s k t).desc == 0

/-! ### Rows loaded (R129, R130, R150) -/

/-- A load that Table 6.8 permits, codebook type included. -/
def loadOk (mf : Nat) (t : Tile) : Bool :=
  let fmt := descFmt t.desc
  if mf < 0xE then mfTile mf == fmt
  else if mf < 0x14 then (fmt == 6 && !t.cbBf16) || (fmt == 8 && t.cbBf16)
  else fmt == 8

/-- A row's codes as they enter the tile; `none` where a parameter word is refused (R130). -/
def loadCodes (mf : Nat) (t : Tile) (elems side : List Byte) : Option (List Nat) :=
  let raw := unpackElems (mfBits mf) (descElems t.desc) (leNat elems)
  if mf = 2 then some (raw.map fun c => if c = 8 then 0 else c)
  else if mf < 0xE then some raw
  else if mf < 0x14 then
    some (raw.map fun q => if t.cbBf16 then bits t.codebook.toNat (16 * q + 15) (16 * q) else bits t.codebook.toNat (8 * q + 7) (8 * q))
  else
    let words := unpackElems 32 (side.length / 4) (leNat side)
    if words.any (paramBad (mfBits mf)) then none
    else some (raw.zipIdx.map fun p => expandParam (words.getD (p.2 / 32) 0) p.1)

/-- The scale bytes that a row's load gives. -/
def loadScales (mf : Nat) (side : List Byte) : List Nat :=
  if mf < 9 then side.map (·.toNat) else if 0x10 ≤ mf ∧ mf < 0x14 then (List.range 8).map fun _ => 0x7F else []

end Sys2Proof.Machine
end

