-- ==== Sys2Proof/Machine/Pieces.lean ====
section
/-!
DEFINITION. Instructions that make several accesses (R99, R110, R113 to R115, R150, R152): the check of a piece, the pieces of an
instruction under way, sending them, and what an answer to one does.
-/
namespace Sys2Proof.Machine

/-! ### The check of one piece -/

/-- An exception of an engine at a place that INFO names: the lane in [5:0] (R110), or the tile and row (R150, R166); the scalar
unit names none. -/
def placeExn (engine code place : Nat) (faddr : W64) : Exn :=
  { code := code, engine := engine, info := BitVec.ofNat 32 (if engine = 0 then 0 else if engine = 1 then place % 64 else place), faddr := faddr }

/-- POISON met by a piece: Table 19.4 lays INFO out for the scalar and vector engines, Table 7.11 for the matrix unit
(R166, R376; log entry 31). -/
def pieceExn (engine where_ holder dev place : Nat) : Exn :=
  if engine = 2 then placeExn 2 16 place (BitVec.ofNat 64 dev) else poisonExn engine where_ holder dev

/-- What the check of a piece finds: its address; a fault; a host page that must be asked for, with the fault that a refusal
raises; or an access that transactions may not contain. -/
inductive Checked where
  | at (x : Xlat)
  | bad (e : Exn)
  | ask (log2 hostPage : Nat) (e : Exn)
  | abort

/-- No piece may reach this target: a register window, or a device without a route (R110, R150, R357, R430). -/
def outOfReach (s : State) : Target → Bool
  | .reg _ _ => true
  | .remote d _ => (routePort s d).isNone
  | _ => false

/-- Check one piece: alignment to `n` bytes, translation, and what it reaches (R110, R150). -/
def checkPiece (s : State) (k engine place : Nat) (acc : Acc) (va : W64) (n : Nat) : Checked :=
  if va.toNat % n ≠ 0 then .bad (placeExn engine 3 place va)
  else match translate s (threadWho s k (lvlOf s k)) acc va with
    | .ok x => if !inTx s k && outOfReach s x.tgt then .bad (placeExn engine 8 place va) else .at x
    | .fault c => .bad (placeExn engine c place va)
    | .poison _ => .bad { pieceExn engine 8 3 0 place with faddr := va }
    | .ats l _ h => if inTx s k then .abort else .ask l h (placeExn engine 7 place va)

/-! ### The instruction under way -/

/-- An instruction that has not made an access yet. -/
def Job.start (kind : JobKind) (firm : Bool) (parts : List Part) : Job :=
  { enc := [], kind := kind, firm := firm, parts := parts, sent := 0, got := [], bad := [], rows := 0 }

/-- The instruction that a thread is executing over several steps. -/
def jobOf (s : State) (k : Nat) : Job := ((thr s k).job).getD (Job.start .hold true [])

/-- Update it. -/
def modJob (s : State) (k : Nat) (f : Job → Job) : State := modThr s k fun t => { t with job := some (f (jobOf s k)) }

/-- A place fails; the first failure found there stands. -/
def placeFailed (s : State) (k place : Nat) (e : Exn) : State :=
  modJob s k fun j => { j with bad := if (Tbl.get? j.bad place).isSome then j.bad else Tbl.set j.bad place e }

/-- The failure at the lowest place. -/
def lowestBad (j : Job) : Option Exn := ((j.bad.map (·.1)).min?).bind fun p => Tbl.get? j.bad p

/-- Every access sent has been answered. -/
def Job.quiet (j : Job) : Bool := decide (j.open = 0)

/-! ### What an answer does -/

/-- A lane of a gather or scatter completes (R113): a gathered lane is written, and its VPROG bit is set. -/
def laneDone (s : State) (k : Nat) (f : VFields) (write : Bool) (i : Nat) (bytes : List Byte) : State :=
  let e := vBits f.ty.toNat
  let s := if write then s
    else wv s k f.vd.toNat (fromLanes e fun j => if j = i then leNat bytes else laneOf e (rv s k f.vd.toNat) j)
  modSys s k fun y => { y with vprog := y.vprog ||| BitVec.ofNat 64 (2 ^ i) }

/-- Numbers of the accesses of a row. -/
def rowParts (j : Job) (r : Nat) : List (Nat × Part) :=
  ((List.range j.parts.length).zip j.parts).filter fun p => p.2.place % 2 ^ 22 / 2 ^ 16 == r

/-- Every access of a row has been answered. -/
def rowAnswered (j : Job) (r : Nat) : Bool :=
  let ps := rowParts j r
  !ps.isEmpty && ps.all fun p => (Tbl.get? j.got p.1).isSome

/-- The bytes that a row's accesses brought, of its elements or of its side data. -/
def rowGot (j : Job) (r : Nat) (side : Bool) : List Byte :=
  ((rowParts j r).filter fun p => p.2.side == side).flatMap fun p => Tbl.getD j.got p.1 []

/-- Place of row `r` of a tile in CAUSE.INFO (Table 7.11). -/
def rowPlace (t r : Nat) : Nat := tileInfo 0 t r

/-- Rows that are answered are finished in ascending order, before any higher row: a row loaded is written into its tile, or refused
for a parameter word (R130, R150, R152). -/
def settleRows (f : TMemFields) (store : Bool) (k : Nat) : Nat → State → State
  | 0, s => s
  | n + 1, s =>
    let j := jobOf s k
    let r := j.rows
    let t := f.t.toNat
    if !rowAnswered j r || (Tbl.get? j.bad (rowPlace t r)).isSome then s
    else if store then settleRows f store k n (modJob s k fun j => { j with rows := r + 1 })
    else match loadCodes f.mf.toNat (tile s k t) (rowGot j r false) (rowGot j r true) with
      | none => placeFailed s k (rowPlace t r) (tileExn 8 t r)
      | some codes =>
        settleRows f store k n
          (modJob (modTile s k t fun x => putScales (putRow x r codes) r (loadScales f.mf.toNat (rowGot j r true))) k fun j =>
            { j with rows := r + 1 })

/-- Access `i` of an instruction under way is answered. Inside a transaction a gather writes no lane before its end: an abort leaves
the instruction without effect (R221). -/
def partDone (s : State) (k i : Nat) (bytes : List Byte) : State :=
  let s := modJob s k fun j => { j with got := Tbl.set j.got i bytes }
  let j := jobOf s k
  match j.kind with
  | .gather f write => if inTx s k then s else laneDone s k f write ((j.parts[i]?.map (·.place)).getD 0) bytes
  | .rows f store => settleRows f store k 33 s
  | _ => s

/-- Access `i` of an instruction under way comes back with an error. -/
def partFailed (s : State) (k i : Nat) (e : Exn) : State :=
  placeFailed (modJob s k fun j => { j with got := Tbl.set j.got i [] }) k (((jobOf s k).parts[i]?.map (·.place)).getD 0) e

/-! ### Sending -/

/-- What sending leads to: the accesses that may go have gone, or the transaction aborts. -/
inductive Sent where
  | ok (s : State)
  | abort (s : State) (code detail node : Nat)

/-- Send the accesses of the instruction under way in order, until one must wait; a posted write is over for the instruction once it is
sent (R190). -/
def sendParts (k engine : Nat) (write posted : Bool) : Nat → State → Sent
  | 0, s => .ok s
  | n + 1, s =>
    let i := (jobOf s k).sent
    match (jobOf s k).parts[i]? with
    | none => .ok s
    | some p =>
      let a : Access1 := { va := p.va, x := p.x, eng := engine, lane := p.place, sink := if posted then .none else .part i }
      let mark (s : State) : State := modJob s k fun j => { j with sent := i + 1 }
      match if write then writeOut s k a p.data (engine == 2) else readOut s k a p.len with
      | .now bs s1 => sendParts k engine write posted n (partDone (mark s1) k i bs)
      | .sent s1 => sendParts k engine write posted n (if posted then partDone (mark s1) k i [] else mark s1)
      | .poison h d s1 => sendParts k engine write posted n (partFailed (mark s1) k i (pieceExn engine (engine + 1) h (d / 64 * 64) p.place))
      | .err c => sendParts k engine write posted n (partFailed (mark s) k i (placeExn engine c p.place p.va))
      | .abort c d node => .abort s c d node
      | .wait => .ok s
      | .later s1 => .ok s1

/-- Send what the instruction under way has still to send. -/
def sendAll (s : State) (k engine : Nat) (write posted : Bool) : Sent :=
  sendParts k engine write posted ((jobOf s k).parts.length + 1) s

/-! ### All-or-nothing accesses (R103, R110) -/

/-- Put a lane into a list of chunks, joining it to the last where it follows on within one line. -/
def addLane (n : Nat) (chunks : List (W64 × List Nat)) (lane : Nat × W64) : List (W64 × List Nat) :=
  match chunks with
  | (a, ls) :: rest =>
    if a + BitVec.ofNat 64 (n * ls.length) = lane.2 ∧ lane.2.toNat / 64 = a.toNat / 64 then (a, ls ++ [lane.1]) :: rest
    else (lane.2, [lane.1]) :: (a, ls) :: rest
  | [] => [(lane.2, [lane.1])]

/-- Contiguous lanes of one line together, in ascending order. -/
def laneChunks (n : Nat) (lanes : List (Nat × W64)) : List (W64 × List Nat) := (lanes.foldl (addLane n) []).reverse

/-- The first lane that fails its check, in ascending order. -/
def firstBad (s : State) (k engine : Nat) (acc : Acc) (n : Nat) : List (Nat × W64) → Option (W64 × Checked)
  | [] => none
  | (i, va) :: rest =>
    match checkPiece s k engine i acc va n with
    | .at _ => firstBad s k engine acc n rest
    | r => some (va, r)

/-- Outcome of a piece whose check fails before anything has been sent. -/
def badPiece (s : State) (k : Nat) (write : Bool) (va : W64) : Checked → Res
  | .bad e => .trap s e
  | .ask l h e => .wait (askHost s k l h va write (.instr e))
  | .abort => txIllegal s
  | .at _ => .wait s

/-- The accesses of checked lanes of `n` bytes, a chunk each; `data` gives a lane's bytes. -/
def chunkParts (s : State) (k engine n : Nat) (acc : Acc) (data : Nat → List Byte) (chunks : List (W64 × List Nat)) : List Part :=
  chunks.filterMap fun c => match checkPiece s k engine (c.2.headD 0) acc c.1 n with
    | .at x => some { place := c.2.headD 0, side := false, va := c.1, x := x, len := n * c.2.length, data := c.2.flatMap data }
    | _ => none

/-- The lookups of some accesses in the translation unit (R31). -/
def notePieces (s : State) (k : Nat) (vas : List W64) : State :=
  vas.foldl (fun s va => noteTranslate s (threadWho s k (lvlOf s k)) va) s

/-- An all-or-nothing access to lanes (R110): every lane is checked before any is read or written; then the accesses are sent, and
once every one is answered the instruction faults at the lowest lane that failed, or ends with `fin`. -/
def runLanes (s : State) (k engine n : Nat) (write posted firm : Bool) (lanes : List (Nat × W64)) (data : Nat → List Byte)
    (fin : State → Job → Res) : Res :=
  let acc : Acc := if write then .write else .read
  let go (s1 : State) : Res :=
    match (if (lowestBad (jobOf s1 k)).isSome then .ok s1 else sendAll s1 k engine write posted) with
    | .abort s2 c d node => .abort s2 c 0 d node
    | .ok s2 =>
      let j := jobOf s2 k
      if !j.quiet then .hold s2
      else match lowestBad j with
        | some e => .trap s2 e
        | none => if j.sent = j.parts.length then fin s2 j else if j.sent = 0 then .wait (dropJob s2 k) else .hold s2
  match (thr s k).job with
  | some _ => go s
  | none =>
    match firstBad s k engine acc n lanes with
    | some (va, r) => badPiece s k write va r
    | none =>
      let parts := chunkParts s k engine n acc data (laneChunks n lanes)
      go (modThr (notePieces s k (parts.map (·.va))) k fun t => { t with job := some (Job.start .lanes firm parts) })

/-- The bytes that each lane's access brought. -/
def lanesGot (j : Job) (n : Nat) (lanes : List (Nat × W64)) : List (Nat × List Byte) :=
  let chunks := laneChunks n lanes
  ((List.range chunks.length).zip chunks).flatMap fun c =>
    ((List.range c.2.2.length).zip c.2.2).map fun l => (l.2, ((Tbl.getD j.got c.1 []).drop (n * l.1)).take n)

end Sys2Proof.Machine
end

