-- ==== Sys2Proof/Machine/RegRead.lean ====
section
/-!
DEFINITION. What the registers of the node windows read as (Table 22.4 and the tables it names).
-/
namespace Sys2Proof.Machine

/-- NODE_INFO.UNIT: stack, link port or weighbridge number. -/
def nodeUnit (n : Nat) : Nat :=
  ((indexOf homeNodes n).orElse fun _ => (indexOf linkNodes n).orElse fun _ => indexOf wbNodes n).getD 0

/-- REG_ERR layout (Table 22.5). -/
def regErrWord (flags : BitVec 4) (off : BitVec 24) (kind : BitVec 8) (src : BitVec 3) : Nat :=
  flags.toNat + off.toNat * 2 ^ 8 + kind.toNat * 2 ^ 32 + src.toNat * 2 ^ 40

/-- Node info block (Table 22.5). -/
def readInfo (s : State) (n off : Nat) : Nat :=
  let x := node s n
  if off = 0x00 then n + nodeKind n * 2 ^ 8 + quadOf n * 2 ^ 12 + nodeUnit n * 2 ^ 16
  else if off = 0x08 then
    b2n (isFenced s 2 n) + b2n x.gated * 2 +
      (if isBench n then ((List.range 8).map fun c => b2n (goodCore s (n * 8 + c)) * 2 ^ (8 + c)).sum else 0)
  else if off = 0x10 then regErrWord x.errFlags x.errOff x.errKind x.errSrc
  else if off = 0x18 then x.cntGuard + x.cntCfg * 2 ^ 16 + x.cntParity * 2 ^ 32 + x.cntDeny * 2 ^ 48
  else if off = 0x20 then match x.guard with
    | some g => g.off + 2 ^ 63
    | none => 0
  else 0

/-- Router block (Table 22.6). -/
def readRouter (s : State) (n off : Nat) : Nat :=
  let x := node s n
  if off = 0x00 then x.flits.toNat
  else if off = 0x08 then
    Tbl.getD x.replays 0 0 + Tbl.getD x.replays 1 0 * 2 ^ 16 + Tbl.getD x.replays 2 0 * 2 ^ 32 + Tbl.getD x.replays 3 0 * 2 ^ 48
  else if off = 0x10 then b2n x.rtWrap
  else 0

/-- Bench cache block (Table 15.5). -/
def readCache (s : State) (n off : Nat) : Nat :=
  let b := bench s n
  if off = 0x00 then b.wayen.toNat
  else if off = 0x08 then b.wayon.toNat + b2n b.cleaning * 2 ^ 16 + b2n b.pass.isSome * 2 ^ 17
  else if off = 0x10 then b.hits.toNat
  else if off = 0x18 then b.misses.toNat
  else if off = 0x20 then b.wblines.toNat
  else if off = 0x28 then b.bcCorr + b.bcUncorr * 2 ^ 16 + b.bcTagpar * 2 ^ 32
  else if off = 0x30 then b.bcWrap.toNat
  else 0

/-- Haul engine block (Table 14.5); HAUL_LAUNCH reads zero. -/
def readHaul (s : State) (n off : Nat) : Nat :=
  let b := bench s n
  if 0x100 ≤ off ∧ off < 0x300 then
    let h := haulCh s n ((off - 0x100) / 32)
    let w := off % 32 / 8
    if w = 0 then
      h.state + h.code * 2 ^ 8 + b2n h.psn * 2 ^ 16 + h.srck * 2 ^ 17 + h.core * 2 ^ 19 + h.thr * 2 ^ 22 +
        h.ctx * 2 ^ 25 + h.done * 2 ^ 48
    else if w = 1 then h.bytes % 2 ^ 48
    else if w = 2 then h.desc % 2 ^ 52
    else h.faddr % 2 ^ 52
  else if off = 0x300 then b.haulStop.toNat
  else if off = 0x308 then b.haulBeats.toNat
  else if off = 0x310 then b2n b.haulWrap
  else 0

/-- Translation unit and channel monitor (Table 22.7). -/
def readTu (s : State) (n off : Nat) : Nat :=
  let b := bench s n
  if off = 0 then b.tuHits.toNat else if off = 8 then b.tuMisses.toNat else if off = 16 then b.tuWrap.toNat else 0
/-- Channel monitor (Table 22.7). -/
def readCm (s : State) (n off : Nat) : Nat :=
  let b := bench s n
  if off = 0 then b.pubs.toNat else if off = 8 then b.refused.toNat else if off = 16 then b.cmWrap.toNat else 0

/-- QSTAT of a queue (Table 13.5). -/
def qstat (q : SQueue) : Nat :=
  q.q.length + b2n (q.q.any (·.marker)) * 2 ^ 9 +
    (match q.q with
     | e :: _ => b2n e.marker * 2 ^ 10 + b2n e.poison * 2 ^ 11
     | [] => 0) + q.flushed * 2 ^ 16

/-- Stream switch block (Table 13.5). -/
def readStream (s : State) (n off : Nat) : Nat :=
  let b := bench s n
  if off = 0x00 then b2n b.ssEn
  else if off = 0x08 then b.ssRegion + b2n b.ssLoaded * 2 ^ 3 + b.ssState * 2 ^ 4 + b.ssSection * 2 ^ 16
  else if off = 0x10 then b.ssWrap.toNat
  else if 0x100 ≤ off ∧ off < 0x1C0 then qstat (squeue s n ((off - 0x100) / 8))
  else if 0x200 ≤ off ∧ off < 0x2C0 then (Tbl.getD b.qcfg ((off - 0x200) / 8) 0).toNat
  else if 0x300 ≤ off ∧ off < 0x380 then
    (if off % 16 = 0 then (Tbl.getD b.ucfg0 ((off - 0x300) / 16) 0).toNat else (Tbl.getD b.ucfg1 ((off - 0x300) / 16) 0).toNat)
  else if 0x400 ≤ off ∧ off < 0x480 then (Tbl.getD b.zbind ((off - 0x400) / 8) 0).toNat
  else if 0x1000 ≤ off ∧ off < 0x1180 then (Tbl.getD b.qstall ((off - 0x1000) / 8) 0).toNat
  else if 0x1200 ≤ off ∧ off < 0x1280 then (Tbl.getD b.ustall ((off - 0x1200) / 8) 0).toNat
  else if 0x2000 ≤ off ∧ off < 0x2600 then
    match (squeue s n ((off - 0x2000) / 64)).q with
    | e :: _ => e.data.toNat / 2 ^ (8 * (off % 64)) % 2 ^ 64
    | [] => 0
  else 0

/-- Pacer and sensors (Tables 2.3, 22.8). -/
def readPacer (s : State) (n off : Nat) : Nat :=
  let x := node s n
  if off = 0x00 then x.pacer.toNat
  else if off = 0x08 then x.period.toNat + x.calSeq.toNat * 2 ^ 48 + b2n x.calValid * 2 ^ 63
  else if off = 0x10 then x.temp.toNat + b2n x.tempValid * 2 ^ 16
  else if off = 0x18 then x.rate.toNat
  else if off = 0x20 then x.droops + b2n (NSet.has s.gov.held (quadOf n)) * 2 ^ 32
  else 0

/-- Per-core block (Table 22.9); a kernel runs on the core while its part has not ended. -/
def readCoreBlock (s : State) (c off : Nat) : Nat :=
  let x := core s c
  if off = 0x00 then
    b2n (coreFenced s c) + b2n (x.kernel.isSome && !x.partEnded) * 2 +
      (match x.ctx with
       | some i => (if x.mode = 2 then 1 else if x.mode = 4 then 2 else if x.mode = 8 then 3 else 0) * 4 + i * 16
       | none => 0)
  else if off = 0x08 then x.wrap.toNat
  else if off = 0x100 then x.ctrMode.toNat
  else 0

/-- Link port block (Table 18.6). -/
def readLink (s : State) (n off : Nat) : Nat :=
  let l := link s (nodeUnit n)
  if off = 0x00 then
    b2n l.en + l.rate.toNat * 2 + b2n l.dim * 2 ^ 3 + b2n l.peerv * 2 ^ 4 + l.peerdev.toNat * 2 ^ 8 + l.peerport.toNat * 2 ^ 16
  else if off = 0x08 then
    l.state + l.runRate.toNat * 2 ^ 3 + l.width * 2 ^ 5 + l.laneOk.toNat * 2 ^ 8 + l.gotDev.toNat * 2 ^ 16 +
      l.gotPort.toNat * 2 ^ 24 + l.gotGen.toNat * 2 ^ 28
  else if off = 0x10 then l.feccor.toNat
  else if off = 0x18 then l.fecunc.toNat
  else if off = 0x20 then l.replay.toNat
  else if off = 0x28 then l.retrains + l.discards * 2 ^ 16 + l.downs * 2 ^ 32
  else if off = 0x30 then l.wrap.toNat
  else 0

/-- Routing block of MG (Table 18.7). -/
def readRoutes (s : State) (off : Nat) : Nat :=
  if off = 0 then s.dev.devId.toNat
  else if 0x100 ≤ off ∧ off < 0x900 then (Tbl.getD s.dev.routes ((off - 0x100) / 8) 0).toNat else 0

/-- STRAP_STAT and BOOT_STATUS of SB (Table 21.7). -/
def readBoot (s : State) (off : Nat) : Nat :=
  let d := s.dev
  if off = 0 then d.straps.toNat + b2n d.refB * 2 ^ 16 + b2n d.noRef * 2 ^ 17 + d.imgSrc.toNat * 2 ^ 24
  else if off = 8 then d.stage.toNat + d.fail.toNat * 2 ^ 4 + d.keyslot.toNat * 2 ^ 12 + d.svn.toNat * 2 ^ 16 + s.fuses.rollback * 2 ^ 24
  else 0

/-- The blocks of a bench that a fence takes out of service (R14, Table 22.4). -/
def benchDead (s : State) (n : Nat) : Bool := isBench n && isFenced s 2 n

/-- Register at a multiple of 8 of a node's window (R431: an offset that names none reads as zero). -/
def regWord (s : State) (n off : Nat) : Nat :=
  let blk := off / 0x10000
  let o := off % 0x10000
  if blk = 0 then readInfo s n o
  else if blk = 1 then readRouter s n o
  else if blk = 7 then readPacer s n o
  else if isBench n then
    if benchDead s n then 0
    else if blk = 2 then readCache s n o
    else if blk = 3 then readHaul s n o
    else if blk = 4 then readTu s n o
    else if blk = 5 then readStream s n o
    else if blk = 6 then readCm s n o
    else if 8 ≤ blk ∧ blk < 16 then readCoreBlock s (n * 8 + (blk - 8)) o
    else 0
  else if blk = 10 then
    if nodeKind n = 2 then readLink s n o else if n = mgNode then readRoutes s o else 0
  else if blk = 11 ∧ n = sbNode then readBoot s o
  else 0

/-- A read of 4 or 8 bytes of a node's window (R430). -/
def regRead (s : State) (n off len : Nat) : Nat :=
  let w := regWord s n (off / 8 * 8)
  if len = 8 then w else w / 2 ^ (8 * (off % 8)) % 2 ^ 32

end Sys2Proof.Machine
end

