-- ==== Sys2Proof/Machine/Responses.lean ====
section
/-!
DEFINITION. Answers: what arrives for a scoreboard entry or a counter operation, what endpoints and register
blocks answer, and the deferred fault (R183, R186, R190, R219, R321, R375, R430).
-/
namespace Sys2Proof.Machine

/-- The deferred fault that an error answer gives the thread of an access (R190, R376); that of a posted vector store names its lane
(log entry 30). -/
def answerExn (e : SbEntry) (code : Nat) : Exn :=
  let c := code % 256
  if c = 16 then { deferredPoison (code / 2 ^ 8 % 256) (code / 2 ^ 16 % 16) (e.first * 64) with engine := e.eng }
  else if bit code 20 then { code := c, engine := 3, info := BitVec.ofNat 32 (code / 2 ^ 8 % 4096 + 2 ^ 31), faddr := e.faddr }
  else { code := c, engine := e.eng, info := BitVec.ofNat 32 (e.lane % 64 + 2 ^ 31), faddr := e.faddr }

/-- The fault that an error answer gives an instruction under way at the place of the access (R110, R114, R150, R152). -/
def partExn (e : SbEntry) (code : Nat) : Exn :=
  if code % 256 = 16 then pieceExn e.eng (code / 2 ^ 8 % 256) (code / 2 ^ 16 % 16) (e.first * 64) e.lane
  else placeExn e.eng (code % 256) e.lane e.faddr

/-- An error becomes the thread's: of the instruction under way whose access it answers, or deferred. -/
def errorTo (s : State) (e : SbEntry) (code : Nat) : State :=
  match e.sink with
  | .part i => partFailed s e.thr i (partExn e code)
  | _ => addDeferred s e.thr (answerExn e code)

/-- An error answers an access: the entry is freed; the access has no effect; the thread takes the fault at its
next boundary, or its transaction the abort (R190, R222, R228). -/
def failAccess (s : State) (c slot node code : Nat) : State :=
  match Tbl.get? (core s c).sb slot with
  | none => s
  | some e =>
    let s := sbFree s c slot
    if e.sink = .drop then s
    else if e.tx then
      if code ≥ 2 ^ 24 then addAbort s e.thr { code := code / 2 ^ 32, detail := code / 2 ^ 24 % 256, node := node }
      else if code % 256 = 8 then addAbort s e.thr { code := 9, detail := 1, node := node }
      else errorTo s e code
    else errorTo s e code

/-- The bytes of a transactional read with the staged bytes laid over them. -/
def overlayLine (s : State) (k line o : Nat) (bs : List Byte) : List Byte :=
  match Tbl.get? (thr s k).tx.writes line with
  | none => bs
  | some w => (offsets bs).map fun p => if bit w.mask.toNat (o + p.1) then lineByte w.data (o + p.1) else p.2

/-- A transactional read meets poison (R219, Table 19.3 WHERE 7): the transaction aborts, then the fault. -/
def txPoison (s : State) (k engine holder dev : Nat) : State := abortRaise s k 8 (poisonExn engine 7 holder (dev / 64 * 64))

/-- An access is answered with these bytes. -/
def answered (s : State) (e : SbEntry) (bytes : List Byte) : State :=
  match e.sink with
  | .part i => partDone s e.thr i bytes
  | sink => sinkValue s e.thr sink (leNat bytes)

/-- Data answers an access (R183, R375). -/
def finishAccess (s : State) (c slot : Nat) (bytes : List Byte) (poison : Bool) (holder : Nat) : State :=
  match Tbl.get? (core s c).sb slot with
  | none => s
  | some e =>
    let s := sbFree s c slot
    if e.sink = .drop then s
    else if e.tx then
      if poison then txPoison s e.thr e.eng holder (e.first * 64)
      else answered s e (overlayLine s e.thr e.first (e.faddr.toNat % 64) bytes)
    else if poison then errorTo s e (16 + (e.eng + 1) * 2 ^ 8 + holder * 2 ^ 16)
    else answered s e bytes

/-- A write is acknowledged. -/
def finishWrite (s : State) (c slot : Nat) : State :=
  match Tbl.get? (core s c).sb slot with
  | none => s
  | some e => match e.sink with
    | .part i => partDone (sbFree s c slot) e.thr i []
    | _ => sbFree s c slot

/-- An entry's answer brings data: a read, or an atomic that returns the old value. -/
def readsEntry (s : State) (c slot : Nat) : Bool :=
  match Tbl.get? (core s c).sb slot with
  | none => false
  | some e => !e.write || (match e.sink with | .old _ _ => true | _ => false)

/-- What an endpoint answers a read of its host's memory (R319, R321, R375). -/
def hostAnswer (s : State) (t : Target) (len : Nat) (req : Requester) (ext : Ext) : Payload :=
  if farCode s t ext ≠ 0 then .error (causeOfStatus (farCode s t ext)) req
  else .data (extTake ext len).1 ext.poison 5 req

/-- What a register block answers (R430, R431). -/
def registerAnswer (s : State) (n off len : Nat) (req : Requester) : Payload :=
  if regSize len ∧ off % len = 0 then .data (leBytes len (regRead s n off len)) false 7 req else .error 8 req

/-- A read of a block of a gated bench waits; the node info, router and pacer blocks stay in service (R439). -/
def gatedBlock (s : State) (n off : Nat) : Bool :=
  (node s n).gated && !([0, 1, 7].contains (off / 0x10000))

/-- The oldest access that waits at a gated bench completes once its store leaves retention (R179, R439). -/
def retentionExit (s : State) (n : Nat) : State :=
  if !(node s n).gated then s
  else match s.inbox.find? fun x => x.dst == n && (match accessTarget x.pay with
      | some (.store c o, _) => gatedStore s (.store c o)
      | some (.reg m off, _) => gatedBlock s m off
      | _ => false) with
    | none => s
    | some x => match x.pay with
      | .read (.reg m off) len req => reply s x (registerAnswer s m off len req)
      | _ => match accessTarget x.pay with
        | some (t, r) => if fromLink r && incomingRefused s t then reply s x (.error 8 r) else serve 0 s x
        | none => s

/-- RETENTION_EXIT (R179). -/
def execRetentionExit (node : BitVec 8) (s : State) : Out := onBench node (fun s n => if held s n then s else retentionExit s n) s

/-- A flush read of a wedge has come back (step 4 of Table 9.3): the wedge completes with the last. -/
def flushed (s : State) (k p : Nat) : State :=
  let s := modThr s k fun t => { t with hostPorts := t.hostPorts.erase p }
  if (thr s k).wait = some (.wedge 4) ∧ (thr s k).hostPorts = [] then completeWait s k 4 else s

/-- A flush read of a LAUNCH has come back (R194): `2 + p` in its list is one that is out. -/
def kernelFlushed (s : State) (rk p : Nat) : State :=
  { s with launches := s.launches.map fun l => if ringKey l.ring = rk then { l with flush := l.flush.map fun ps => ps.erase (2 + p) } else l }

/-- A read of a haul channel is in flight under a tag. -/
def haulReads (s : State) (n ch tag : Nat) : Bool :=
  let h := haulCh s n ch
  h.descRead == some tag || h.buf.any fun b => b.tag == tag && b.data.isNone

/-- Data, or an error in its place, reaches the unit that asked for it: a haul channel's staging buffer (R183, R269), or a flush
read's wedge or LAUNCH. -/
def unitData (s : State) (m : Nat) : Payload → State
  | .data bytes poison _ (.haul n ch tag) => haulGot (inboxDrop s m) n ch tag bytes poison
  | .error code (.haul n ch tag) => if haulReads s n ch tag then haulFailed (inboxDrop s m) n ch tag code else s
  | .data _ _ _ (.flush k p) | .error _ (.flush k p) => flushed (inboxDrop s m) k p
  | .data _ _ _ (.kernelFlush rk p) | .error _ (.kernelFlush rk p) => kernelFlushed (inboxDrop s m) rk p
  | _ => s

/-- Read data arrives for an access, or is answered by an endpoint or a register block. -/
def loadResponse (m : Nat) (ext : Ext) (s : State) : State :=
  match arrived s m with
  | none => s
  | some x => match x.pay with
    | .read (.host p a) len req => if fromLink req then s else reply s x (hostAnswer s (.host p a) len req ext)
    | .read (.reg n off) len req => if gatedBlock s n off then s else reply s x (registerAnswer s n off len req)
    | .data bytes poison holder (.access c slot) =>
      if readsEntry s c slot then finishAccess (inboxDrop s m) c slot bytes poison holder else s
    | .error code (.access c slot) => if readsEntry s c slot then failAccess (inboxDrop s m) c slot x.src code else s
    | pay => unitData s m pay

/-- LOAD_RESPONSE (R183). -/
def execLoadResponse (m : Nat) (ext : Ext) (s : State) : Out := .next (loadResponse m ext s)

/-- The answer to a thread's oldest counter operation. -/
def counterAnswered (s : State) (k : Nat) : State := modThr s k fun t => { t with ctrOut := t.ctrOut.drop 1 }

/-- The deferred fault of a counter operation that came back with an error (R190, R207, R359). -/
def counterFault (s : State) (k name code : Nat) : Exn :=
  if code % 256 = 14 then counterExn s k name (code / 256 % 256) true
  else { code := code % 256, engine := 3, info := BitVec.ofNat 32 (2 ^ 31), faddr := 0 }

/-- What an endpoint does with a write to host memory (R186, R321): accepted, or discarded while the link is
down. -/
def hostWriteAnswer (s : State) (x : Msg) (p a : Nat) (bytes : List (Nat × Byte)) (poison : Bool) (req : Requester) : State :=
  if (port s p).linkUp then reply (homeWrite s (.host p a) bytes poison none) x (.ack req)
  else reply s x (.error 8 req)

/-- The cell of a SIGNAL's increment answers (R210, R339): the command completes, or is refused with the reason. -/
def signalled (s : State) (rk status reason : Nat) : State :=
  if (ring s rk).st = .signalled then finish s rk status reason 0 0 0 0 else s

/-- An acknowledgement or an error reaches a haul channel, a SIGNAL, or a host's write through BAR2. -/
def unitAcked (s : State) (m : Nat) : Payload → State
  | .ack (.haul n ch tag) => haulAcked (inboxDrop s m) n ch tag
  | .error code (.haul n ch tag) => if haulReads s n ch tag then s else haulFailed (inboxDrop s m) n ch tag code
  | .ack (.signal rk) => signalled (inboxDrop s m) rk 0 0
  | .error code (.signal rk) => signalled (inboxDrop s m) rk (if code % 256 = 14 then 9 else 10) (if code % 256 = 14 then code / 256 % 256 else 1)
  | .ack (.bar2 _) | .error _ (.bar2 _) => inboxDrop s m
  | _ => s

/-- A write, an atomic without a result or a counter operation is answered; or an endpoint accepts a write. -/
def writeAcknowledgement (m : Nat) (s : State) : State :=
  match arrived s m with
  | none => s
  | some x => match x.pay with
    | .write (.host p a) bytes poison req => if fromLink req then s else hostWriteAnswer s x p a bytes poison req
    | .ack (.access c slot) => finishWrite (inboxDrop s m) c slot
    | .data _ _ _ (.access c slot) => if readsEntry s c slot then s else finishWrite (inboxDrop s m) c slot
    | .error code (.access c slot) => if readsEntry s c slot then s else failAccess (inboxDrop s m) c slot x.src code
    | .ack .unit | .error _ .unit | .data _ _ _ .unit => inboxDrop s m
    | .ack (.counter c t _) => counterAnswered (inboxDrop s m) (c * 8 + t)
    | .error code (.counter c t name) =>
      let k := c * 8 + t
      addDeferred (counterAnswered (inboxDrop s m) k) k (counterFault s k name code)
    | pay => unitAcked s m pay

/-- WRITE_ACKNOWLEDGEMENT (R186). -/
def execWriteAcknowledgement (m : Nat) (s : State) : Out := .next (writeAcknowledgement m s)

/-- The oldest deferred fault of a thread is raised at its boundary (R190): a wait that an interrupt would
abandon is abandoned; an open transaction aborts with FAULT or POISON first (R219). -/
def deferredFault (s : State) (k : Nat) : State :=
  let s1 := abandonWait s k
  let t := thr s1 k
  match t.deferred with
  | [] => s
  | e :: rest =>
    if t.run = .running ∧ !t.dbg ∧ t.wait.isNone ∧ t.job.isNone ∧ !frameBusy s k then
      let s2 := modThr s1 k fun t => { t with deferred := rest }
      if t.tx.depth > 0 then abortRaise s2 k (if e.code = 16 then 8 else 3) e
      else match route s2 k e t.pc with
        | .done u => u
        | .wait u => modThr u k fun t => { t with deferred := e :: rest }
    else s

/-- DEFERRED_FAULT (R190). -/
def execDeferredFault (core : BitVec 11) (thr : BitVec 3) (s : State) : Out := onThread core thr deferredFault s

end Sys2Proof.Machine
end

