-- ==== Sys2Proof/Machine/Registers.lean ====
section
/-!
DEFINITION. Writes to node registers (R429 to R437, R439): sources and writer classes, guarded pairs,
fields that change only while disabled, and the flags of REG_ERR.
-/
namespace Sys2Proof.Machine

/-! ### Flags -/

/-- A function is in D3hot (R320). -/
def inD3 (s : State) (p fn : Nat) : Bool := (port s p).d3.contains fn


/-- Flag an event of kind 1 GUARD_FAIL, 2 CFG_VIOL, 3 CONFIG_PARITY, 4 DENIED in a node (Table 22.5). -/
def regFlag (s : State) (n kind off src : Nat) : State :=
  modNode s n fun x =>
    { x with errFlags := x.errFlags ||| BitVec.ofNat 4 (2 ^ (kind - 1))
             errOff := BitVec.ofNat 24 off
             errKind := BitVec.ofNat 8 kind
             errSrc := BitVec.ofNat 3 src
             cntGuard := satAdd 16 x.cntGuard (b2n (kind == 1))
             cntCfg := satAdd 16 x.cntCfg (b2n (kind == 2))
             cntParity := satAdd 16 x.cntParity (b2n (kind == 3))
             cntDeny := satAdd 16 x.cntDeny (b2n (kind == 4)) }

/-- Flag an event in HREG_ERR of a port's PF (Table 22.10); its source is the host. -/
def hregFlag (s : State) (p kind off : Nat) : State :=
  modPort s p fun x =>
    { x with errFlags := x.errFlags ||| BitVec.ofNat 4 (2 ^ (kind - 1)), errOff := BitVec.ofNat 24 off, errKind := BitVec.ofNat 8 kind }

/-! ### Sources (R433, R434) -/

/-- SRC of a source in REG_ERR. -/
def srcCode : RegSource → Nat
  | .thread _ => 1
  | .mgmt => 0
  | .sequencer _ => 3
  | .command _ => 0
  | .host _ => 2

/-- The thread that sent a delivered write. -/
def srcThread (s : State) (m : Nat) : Nat :=
  match (inboxGet s m).bind fun x => accessTarget x.pay with
  | some (_, r) => (reqThread s r).getD 0
  | none => 0

/-- Identity of a source for a guard: a thread, the management core, or a sequencer. -/
def srcKey (s : State) : RegSource → Nat
  | .thread m => 16 + srcThread s m
  | .mgmt => 0
  | .sequencer p => 1 + p.toNat
  | .command _ => 0
  | .host p => 4 + p.toNat

/-- The source is firmware (class F). -/
def isF : RegSource → Bool
  | .thread _ => false
  | .host _ => false
  | _ => true

/-- A register write from a source: a thread's is the message that it names, which is answered with an
acknowledgement, or with the error that `act` gives where the write is refused. A host reaches a node's registers
through its aperture alone (APERTURE_WRITE). -/
def fromSourceE (s : State) (w : RegSource) (n off len : Nat) (v : W64) (act : State → Option Nat × State) : State :=
  match w with
  | .thread m =>
    match arrived s m with
    | none => s
    | some x => match x.pay with
      | .write (.reg n' o') bytes _ req =>
        if n' = n ∧ o' = off ∧ x.dst = n ∧ bytes.length = len ∧ leNat (bytes.map (·.2)) = v.toNat % 2 ^ (8 * len) then
          let r := act s
          reply r.2 x (match r.1 with | none => .ack req | some code => .error code req)
        else s
      | _ => s
  | .host _ => s
  | _ => (act s).2

/-- A register write from a source: `act` says whether it is accepted; a refusal is an address error (R433). -/
def fromSource (s : State) (w : RegSource) (n off len : Nat) (v : W64) (act : State → Bool × State) : State :=
  fromSourceE s w n off len v fun s => let r := act s; (if r.1 then none else some 8, r.2)

/-- The error answer of a refused launch (R272, R279): ILLEGAL from the haul engine, with status and channel. -/
def launchRefused (status ch : Nat) : Nat := 1 + status * 2 ^ 8 + ch * 2 ^ 16 + 2 ^ 20

/-- Why a launch value is refused (R272): `who` is the launching thread, if one launches. -/
def launchBad (s : State) (v : Nat) (n : Nat) (isThread : Bool) : Bool :=
  bits v 56 52 != 0 || bits v 1 0 != 0 || (!bit v 3 && bit v 2) || (bit v 57 && isThread) ||
    (!bit v 57 && (match Tbl.get? s.ctxs (bits v 63 58) with
      | none => true
      | some x => !x.grant.contains n))

/-- Who launches: 0 a thread, 1 a command, 2 the management core (Table 14.5 SRCK). -/
def launchKind : RegSource → Nat
  | .thread _ => 0
  | .sequencer _ => 1
  | .command _ => 1
  | .mgmt => 2
  | .host _ => 1

/-- The ring whose command a launch is made for. -/
def launchRing : RegSource → Option Nat
  | .command r => some (ringKey r)
  | _ => none

/-! ### Guarded pairs (R434 to R436) -/

/-- The first write of a guarded pair. -/
def guardFirst (w : RegSource) (n off len : Nat) (v : W64) (s : State) : Bool × State :=
  if len ≠ 8 then (false, regFlag s n 1 off (srcCode w))
  else if (node s n).guard.isSome then (true, regFlag s n 1 off (srcCode w))
  else (true, modNode s n fun x => { x with guard := some { off := off, value := v, src := w, thr := srcKey s w, since := pacerOf s n } })

/-- The guard of a node that a source's write to the word after `off` would complete. -/
def guardFor (s : State) (w : RegSource) (n off : Nat) : Option Guard :=
  match (node s n).guard with
  | none => none
  | some g => if g.off = off ∧ g.thr = srcKey s w then some g else none

/-- The complement of a guarded pair: `apply` gives the register its value. -/
def guardSecond (g : Guard) (w : RegSource) (n len : Nat) (v : W64) (apply : State → W64 → State) (s : State) : Bool × State :=
  let s1 := modNode s n fun x => { x with guard := none }
  if len = 8 ∧ v = ~~~ g.value ∧ pacerSince s n g.since ≤ 64 then (true, apply s1 g.value)
  else (true, regFlag s1 n 1 g.off (srcCode w))

/-- GUARD_TIMEOUT (R435): no complement within 64 pacer ticks of the node. -/
def guardTimeout (s : State) (n : Nat) : State :=
  match (node s n).guard with
  | none => s
  | some g =>
    if 64 < pacerSince s n g.since then regFlag (modNode s n fun x => { x with guard := none }) n 1 g.off (srcCode g.src) else s

/-- GUARD_TIMEOUT (R435). -/
def execGuardTimeout (node : BitVec 8) (s : State) : Out := onNode node guardTimeout s

/-! ### The registers that take writes -/

/-- BC_WAYEN (R294): a value with fewer than 2 ways is ignored; ways turned off are cleaned first, ways turned on
come up invalid. The write ends a bypass (Table 22.3). -/
def setWayen (n : Nat) (s : State) (v : W64) : State :=
  let ways := v.setWidth 16
  if popCount ways.toNat 16 < 2 then modBench s n fun b => { b with bcWrap := b.bcWrap ||| 8 }
  else modBench s n fun b =>
    { b with wayen := ways, wayon := b.wayon ||| ways, cleaning := (b.wayon &&& ~~~ ways) != 0, bypass := false }

/-- HAUL_STOP (R281): every channel named stops; its bit reads 1 until the stop is done. -/
def setHaulStop (n : Nat) (s : State) (v : W64) : State :=
  (List.range 16).foldl (fun s c =>
    if bit v.toNat c && haulBusy s n c then
      haulStopCh (modBench s n fun b => { b with haulStop := b.haulStop ||| BitVec.ofNat 16 (2 ^ c) }) n c false
    else s) s

/-- The value that a register write leaves in its RWD fields, and whether it is a violation (R437): `en` is the
enable before the write. -/
def rwd (en : Bool) (old mask : Nat) (o len : Nat) (v : W64) : Nat × Bool :=
  let new := (halfWrite (BitVec.ofNat 64 old) o len v).toNat &&& mask
  if en then (old, decide (new ≠ old &&& mask)) else (new, false)

/-- Every link port has EN = 0. -/
def anyLinkEn (s : State) : Bool := (List.range 8).any fun p => (link s p).en

/-- Write LINK_CTL (Table 18.6): EN going to 1 starts training, going to 0 disables the port; RATE 0b11 stays
DOWN. -/
def setLinkCtl (s : State) (p o len : Nat) (v : W64) : State × Bool :=
  let l := link s p
  let old := b2n l.en + l.rate.toNat * 2 + b2n l.dim * 2 ^ 3 + b2n l.peerv * 2 ^ 4 + l.peerdev.toNat * 2 ^ 8 + l.peerport.toNat * 2 ^ 16
  let new := (halfWrite (BitVec.ofNat 64 old) o len v).toNat
  let r := rwd l.en old 0x7FF1E o len v
  let en := bit new 0
  let s := modLink s p fun l =>
    { l with en := en
             rate := BitVec.ofNat 2 (bits r.1 2 1)
             dim := bit r.1 3
             peerv := bit r.1 4
             peerdev := BitVec.ofNat 8 (bits r.1 15 8)
             peerport := BitVec.ofNat 3 (bits r.1 18 16)
             state := if en then (if l.en then l.state else 1) else 0
             width := if en then l.width else 0
             laneOk := if en then l.laneOk else 0
             trainedOnce := en && l.trainedOnce }
  (if en && !l.en && decide (bits r.1 2 1 = 3) then linkFall s p 3 2 else s, r.2)

/-- A register of the stream switch (Table 13.5). -/
def setStream (s : State) (n o8 o len : Nat) (v : W64) : State × Bool :=
  let b := bench s n
  if o8 = 0 then ((if o = 0 ∨ len = 8 then modBench s n fun b => { b with ssEn := bit v.toNat 0 } else s), false)
  else if o8 = 0x10 then (modBench s n fun b => { b with ssWrap := rw1c b.ssWrap (clearMask o len v) }, false)
  else if 0x200 ≤ o8 ∧ o8 < 0x2C0 then
    let i := (o8 - 0x200) / 8
    let r := rwd b.ssEn (Tbl.getD b.qcfg i 0).toNat 0xF07FF o len v
    (modBench s n fun b => { b with qcfg := Tbl.set b.qcfg i (BitVec.ofNat 64 r.1) }, r.2)
  else if 0x300 ≤ o8 ∧ o8 < 0x380 then
    let i := (o8 - 0x300) / 16
    if o8 % 16 = 0 then
      let r := rwd b.ssEn (Tbl.getD b.ucfg0 i 0).toNat 0x9F9F9F07 o len v
      (modBench s n fun b => { b with ucfg0 := Tbl.set b.ucfg0 i (BitVec.ofNat 64 r.1) }, r.2)
    else
      let r := rwd b.ssEn (Tbl.getD b.ucfg1 i 0).toNat (2 ^ 64 - 1) o len v
      (modBench s n fun b => { b with ucfg1 := Tbl.set b.ucfg1 i (BitVec.ofNat 64 r.1) }, r.2)
  else if 0x400 ≤ o8 ∧ o8 < 0x480 then
    let i := (o8 - 0x400) / 8
    let r := rwd b.ssEn (Tbl.getD b.zbind i 0).toNat (2 ^ 64 - 1) o len v
    (modBench s n fun b => { b with zbind := Tbl.set b.zbind i (BitVec.ofNat 64 r.1) }, r.2)
  else (s, false)

/-- PACER_CAL (Table 2.3). -/
def setPacerCal (s : State) (n o len : Nat) (v : W64) : State :=
  let x := node s n
  let w := (halfWrite (BitVec.ofNat 64 (x.period.toNat + x.calSeq.toNat * 2 ^ 48 + b2n x.calValid * 2 ^ 63)) o len v).toNat
  modNode s n fun x => { x with period := BitVec.ofNat 32 (bits w 31 0), calSeq := BitVec.ofNat 8 (bits w 55 48), calValid := bit w 63 }

/-- Registers whose writable fields are write-1-to-clear only, by block and offset (class T, Table 22.4). -/
def clearRegister (s : State) (n blk o8 o len : Nat) (v : W64) : Option State :=
  let c := clearMask o len v
  if blk = 0 ∧ o8 = 0x10 then some (modNode s n fun x => { x with errFlags := rw1c x.errFlags (c.setWidth 4) })
  else if blk = 1 ∧ o8 = 0x10 then some (modNode s n fun x => { x with rtWrap := x.rtWrap && !bit c.toNat 0 })
  else if nodeKind n = 2 ∧ blk = 10 ∧ o8 = 0x30 then some (modLink s (nodeUnit n) fun l => { l with wrap := rw1c l.wrap (c.setWidth 3) })
  else if !isBench n then none
  else if blk = 2 ∧ o8 = 0x30 then some (modBench s n fun b => { b with bcWrap := rw1c b.bcWrap (c.setWidth 4) })
  else if blk = 3 ∧ o8 = 0x310 then some (modBench s n fun b => { b with haulWrap := b.haulWrap && !bit c.toNat 0 })
  else if blk = 4 ∧ o8 = 0x10 then some (modBench s n fun b => { b with tuWrap := rw1c b.tuWrap (c.setWidth 2) })
  else if blk = 5 ∧ o8 = 0x10 then some (setStream s n o8 o len v).1
  else if blk = 6 ∧ o8 = 0x10 then some (modBench s n fun b => { b with cmWrap := rw1c b.cmWrap (c.setWidth 2) })
  else if 8 ≤ blk ∧ blk < 16 ∧ o8 = 0x08 then
    some (modCore s (n * 8 + (blk - 8)) fun x => { x with wrap := rw1c x.wrap (c.setWidth 8) })
  else none

/-- Registers that firmware alone writes (class F), with whether the write is a violation of R437. -/
def setRegister (s : State) (n blk o8 o len : Nat) (v : W64) : Option (State × Bool) :=
  if blk = 7 ∧ o8 = 0x08 then some (setPacerCal s n o len v, false)
  else if nodeKind n = 2 ∧ blk = 10 ∧ o8 = 0 then some (setLinkCtl s (nodeUnit n) o len v)
  else if n = mgNode ∧ blk = 10 ∧ o8 = 0 then
    let r := rwd (anyLinkEn s) s.dev.devId.toNat 0xFF o len v
    some (modDev s fun d => { d with devId := BitVec.ofNat 8 r.1 }, r.2)
  else if n = mgNode ∧ blk = 10 ∧ 0x100 ≤ o8 ∧ o8 < 0x900 then
    let i := (o8 - 0x100) / 8
    let r := rwd (anyLinkEn s) (Tbl.getD s.dev.routes i 0).toNat 0xFF o len v
    some (modDev s fun d => { d with routes := Tbl.set d.routes i (BitVec.ofNat 8 r.1) }, r.2)
  else if isBench n ∧ blk = 5 then
    if o8 = 0 ∨ (0x200 ≤ o8 ∧ o8 < 0x2C0) ∨ (0x300 ≤ o8 ∧ o8 < 0x380) ∨ (0x400 ≤ o8 ∧ o8 < 0x480) then
      some (setStream s n o8 o len v) else none
  else if isBench n ∧ 8 ≤ blk ∧ blk < 16 ∧ o8 = 0x100 then
    some (modCore s (n * 8 + (blk - 8)) fun x =>
      { x with ctrMode := (halfWrite (x.ctrMode.setWidth 64) o len v).setWidth 48, ctrDead := false }, false)
  else none

/-- Registers that have a row of their own: the launch registers and the guarded ones. -/
def ownRow (n off : Nat) : Bool :=
  (isBench n && (off / 8 * 8 == 0x20000 || off / 8 * 8 == 0x30300 || (decide (0x30000 ≤ off) && decide (off < 0x30080)))) ||
    (nodeKind n == 1 && off / 8 * 8 == 0x90000)

/-- What a write to a register without a row of its own does: whether it is accepted, and the state after. -/
def registerWrite (w : RegSource) (n off len : Nat) (v : W64) (s : State) : Bool × State :=
  let blk := off / 0x10000
  let o8 := off % 0x10000 / 8 * 8
  let o := off % 8
  match guardFor s w n (off / 8 * 8 - 8) with
  | some g =>
    guardSecond g w n len v (fun s v => if g.off = 0x20000 then setWayen n s v else setHaulStop n s v) s
  | none =>
    if benchDead s n && !([0, 1, 7].contains blk) then (true, s)
    else match clearRegister s n blk o8 o len v with
      | some s => (true, s)
      | none => match setRegister s n blk o8 o len v with
        | none => (true, s)
        | some (s1, viol) =>
          if !isF w then (false, regFlag s n 4 off (srcCode w))
          else (true, if viol then regFlag s1 n 2 off (srcCode w) else s1)

/-! ### BAR0 of a PF (Tables 17.1, 22.10) -/

/-- A host reaches a port's functions: the device has power and the port's link is up. -/
def hostReaches (s : State) (p : Nat) : Bool := (port s p).linkUp && s.dev.power != .off

/-- Offset of RING_BASE of a ring in its port's BAR0. -/
def ringBlock (rk : Nat) : Nat := 0x10000 + 0x800 * (rk / 16 % 32) + 0x20 * (rk % 16)

/-- A function has a ring (R325). -/
def hasRing (rk : Nat) : Bool := rk / 16 % 32 == 0 || decide (rk % 16 < 4)

/-- A host's write of RING_BASE, EVR_BASE or HREG_ERR (Tables 17.1, 22.10, R437, R441); every other offset without a
row of its own ignores it (R312). -/
def hostRegister (s : State) (p off len : Nat) (v : W64) : State :=
  let o8 := off / 8 * 8
  let o := off % 8
  if o8 = 0x8000 then
    modPort s p fun x => { x with errFlags := x.errFlags &&& ~~~ (halfWrite 0 o len v).setWidth 4 }
  else if o8 = 0x10200 then
    let e := evring s (devRing p)
    let r := rwd e.en e.base 0xFFFFFFF000 o len v
    let s := modEvring s (devRing p) fun e => { e with base := r.1 }
    if r.2 then hregFlag s p 2 off else s
  else if 0x10000 ≤ off ∧ off < 0x20000 ∧ off % 0x800 < 0x200 ∧ o8 % 0x20 = 0 then
    let rk := p * 512 + (off - 0x10000) / 0x800 * 16 + off % 0x800 / 0x20
    if !hasRing rk then s
    else
      let r := rwd (ring s rk).en (ring s rk).base 0xFFFFFFF000 o len v
      let s := modRing s rk fun x => { x with base := r.1 }
      if r.2 then hregFlag s p 2 off else s
  else s

/-- REGISTER_WRITE (R433). -/
def execRegisterWrite (w : RegSource) (node : BitVec 8) (offset : BitVec 24) (len : Nat) (value : BitVec 64) (s : State) : Out :=
  let n := node.toNat
  let off := offset.toNat
  match w with
  | .host p =>
    .next (if n ≠ portNode p.toNat || !hostReaches s p.toNat || inD3 s p.toNat 0 || !(regSize len && off % len == 0) then s
           else hostRegister s p.toNat off len value)
  | _ =>
    .next (if held s n || ownRow n off || !(regSize len && off % len == 0) then s
           else fromSource s w n off len value (registerWrite w n off len value))

/-- A write of a guarded register (R434): `complement` is the second write of the pair, to the next word. -/
def guardedWrite (w : RegSource) (n off : Nat) (complement cls : Bool) (v : W64) (apply : State → W64 → State) (s : State) : State :=
  if complement then
    match guardFor s w n off with
    | none => fromSource s w n (off + 8) 8 v (registerWrite w n (off + 8) 8 v)
    | some g => fromSource s w n (off + 8) 8 v (guardSecond g w n 8 v apply)
  else if benchDead s n then fromSource s w n off 8 v fun s => (true, s)
  else if !cls && !isF w then fromSource s w n off 8 v fun s => (false, regFlag s n 4 off (srcCode w))
  else fromSource s w n off 8 v (guardFirst w n off 8 v)

/-- BC_WAYEN (R294, R434): class F. -/
def execBcWayen (w : RegSource) (node : BitVec 8) (complement : Bool) (value : BitVec 64) (s : State) : Out :=
  onBench node (fun s n => guardedWrite w n 0x20000 complement false value (setWayen n) s) s

/-- HAUL_STOP (R281, R434): class T. -/
def execHaulStop (w : RegSource) (node : BitVec 8) (complement : Bool) (value : BitVec 64) (s : State) : Out :=
  onBench node (fun s n => guardedWrite w n 0x30300 complement true value (setHaulStop n) s) s

/-- The ways that turn off are cleaned, each line once its fetch is over (step 2 of Table 15.4); once every write-back has been
accepted they are powered off (steps 3 and 4). -/
def wayPowerDown (s : State) (n : Nat) : State :=
  let b := bench s n
  if !b.cleaning then s
  else
    let off := b.ways.filter fun e => !bit b.wayen.toNat (e.1 % 16)
    if off.isEmpty then
      if b.fetches.any fun f => f.victim.isSome then s else modBench s n fun b => { b with wayon := b.wayen, cleaning := false }
    else (off.filter fun e => !b.fetches.any fun f => f.way == e.1).foldl (fun s e => putBack s n e.1) s

/-- WAY_POWER_DOWN (R294). -/
def execWayPowerDown (node : BitVec 8) (s : State) : Out := onBench node wayPowerDown s

end Sys2Proof.Machine
end

