-- ==== Sys2Proof/Machine/CacheRows.lean ====
section
/-!
DEFINITION. The bench cache's own steps: lookups, fills, victims and passes (R188, R289 to R295); and the
skip buses (R296 to R298).
-/
namespace Sys2Proof.Machine

/-! ### What the cache's checks find (R293) -/

/-- Count in BC_ERR: 0 CORR, 1 UNCORR, 2 TAGPAR. -/
def countBcErr (s : State) (n which : Nat) : State :=
  modBench s n fun b =>
    { b with bcCorr := satAdd 16 b.bcCorr (b2n (which == 0))
             bcUncorr := satAdd 16 b.bcUncorr (b2n (which == 1))
             bcTagpar := satAdd 16 b.bcTagpar (b2n (which == 2)) }

/-- A corrected event of a bench. -/
def benchCorrected (s : State) (n : Nat) : State := countUnit (countBcErr s n 0) (unitName 2 n) 0 1

/-- The contexts that have a dirty line in a cache. -/
def dirtyContexts (b : Bench) : List Nat :=
  b.ways.foldl (fun l e => if e.2.dirty = 0 ∨ l.contains e.2.ctx then l else l ++ [e.2.ctx]) []

/-- End a context as one that consumed poison does, for a line that its bench cache lost (R293, log entry 15). -/
def endByTag (s : State) (n ctx : Nat) : State :=
  match Tbl.get? s.ctxs ctx with
  | none => s
  | some x =>
    let k := ((grantCores s x).headD (n * 8)) * 8
    endContext s ctx k (lvlOf s k) (causeWord 16 false 4 0 (poisonInfo 1 2 false)) 0 (thr s k).pc

/-- What a finding does to the cache, before the lookup of a line goes on (R293): it concerns the line looked up, or the line whose
way the lookup takes. -/
def cacheFinding (s : State) (n line : Nat) (found : CacheFinding) : State :=
  let b := bench s n
  let busy (key : Nat) : Bool := b.fetches.any fun f => f.way == key
  let hit : Option (Nat × Way) :=
    match bcFind b line with
    | some r => some r
    | none => (Tbl.get? b.ways (bcVictim b (bcSet line))).map fun w => (bcVictim b (bcSet line), w)
  match found with
  | .clean => s
  | .corrected => if hit.isSome then benchCorrected s n else s
  | .uncorrectable =>
    match hit with
    | none => s
    | some (key, w) =>
      if busy key then s
      else if w.dirty = 0 then benchCorrected (bcInvalidate s n key) n
      else benchUncorrected (countBcErr (modBench s n fun b => { b with ways := Tbl.set b.ways key { w with poison := true } }) n 1) n
  | .tagParity way =>
    let key := bcSet line * 16 + way.toNat
    match Tbl.get? b.ways key with
    | none => s
    | some w =>
      if busy key then s
      else
        let lost := if w.dirty = 0 then [] else dirtyContexts b
        let s := benchUncorrected (countBcErr (bcInvalidate s n key) n 2) n
        lost.foldl (fun s c => endByTag s n c) s

/-! ### Lookups -/

/-- The answer of a cache to a message that was handed to it. -/
def handAnswer (s : State) (m n : Nat) (pay : Payload) : State := handMsg (inboxDrop s m) 5 n pay

/-- An access handed to the cache is a write. -/
def isCacheWrite (x : Msg) : Bool := match x.pay with | .cacheWrite _ _ _ _ _ _ => true | _ => false

/-- An entry of the cache's fetch slots is a fetch of a line: not a write-back alone, and not a write that waits for its way. -/
def fetchesLine (f : Fetch) : Bool := !f.waiting.isEmpty && !f.waiting.any isCacheWrite

/-- The 64 fetches that a cache can have in flight are in use (R291). -/
def fetchesFull (b : Bench) : Bool := decide (64 ≤ (b.fetches.filter fetchesLine).length)

/-- A way of a set to take for a new line: its key and, where it is dirty, its contents; nothing while that way is being
filled. -/
def takeWay (s : State) (n line : Nat) : Option (Nat × Option Way) :=
  let b := bench s n
  let key := bcVictim b (bcSet line)
  if b.fetches.any fun f => f.way == key then none
  else match Tbl.get? b.ways key with
    | none => some (key, none)
    | some w => some (key, if w.dirty = 0 then none else some w)

/-- Send the request for a line to its home. -/
def sendFetch (s : State) (n line : Nat) : State :=
  let t := lineTarget line
  sendMsg s 3 n (targetNode s t) (.read t 64 (.fetch n line))

/-- Start a fetch into a way for an access that waits; a dirty victim's write-back goes first (R292). -/
def startFetch (s : State) (n line key : Nat) (victim : Option Way) (x : Msg) : State :=
  let f : Fetch := { line := line, way := key, victim := victim, sent := victim.isNone, dead := false, waiting := [x] }
  let s := modBench s n fun b => { b with fetches := b.fetches ++ [f] }
  match victim with
  | some w => sendVictim s n w
  | none => if isCacheWrite x then s else sendFetch s n line

/-- A way that holds nothing of its line yet. -/
def emptyWay (line ctx : Nat) : Way := { line := line, filled := false, dirty := 0, poison := false, ctx := ctx, data := 0 }

/-- A read that a core or a haul channel handed to its bench cache (R291). -/
def bcReadStep (found : CacheFinding) (s : State) (x : Msg) (t : Target) (len : Nat) (req : Requester) : State :=
  let n := x.dst
  let line := targetAddr t / 64
  if (bench s n).bypass then sendMsg (inboxDrop s x.id) 3 n (targetNode s t) (.read t len req)
  else if bcBusy (bench s n) line then s
  else
    let s := cacheFinding s n line found
    let o := targetAddr t % 64
    match bcFind (bench s n) line with
    | some (key, w) =>
      if bcHits w o len then
        handAnswer (bcTouch (countBc s n 0 1) n key) x.id n (.data (wayBytes w o len) w.poison 2 req)
      else if fetchesFull (bench s n) then s
      else startFetch (bcTouch (countBc (inboxDrop s x.id) n 1 1) n key) n line key none x
    | none =>
      if fetchesFull (bench s n) then s
      else match takeWay s n line with
        | none => s
        | some (key, victim) =>
          let s := modBench (countBc (inboxDrop s x.id) n 1 1) n fun b => { b with ways := Tbl.set b.ways key (emptyWay line 0) }
          startFetch (bcTouch s n key) n line key victim x

/-- A message reaches a bench's cache: nothing happens while its quadrant is held; the cache of a fenced bench is out of service, and
what was handed to it is gone with the cores that sent it (R14, R381). -/
def atCache (s : State) (x : Msg) (act : State) : State :=
  if held s x.dst then s else if isFenced s 2 x.dst then inboxDrop s x.id else act

/-- BC_READ (R291). -/
def bcReadRow (s : State) (m : Nat) (found : CacheFinding) : State :=
  match inboxGet s m with
  | none => s
  | some x => match x.pay with
    | .cacheRead t len _ req => atCache s x (bcReadStep found s x t len req)
    | _ => s

/-- BC_READ (R291, R293). -/
def execBcRead (m : Nat) (found : CacheFinding) (s : State) : Out := .next (bcReadRow s m found)

/-- A write that has been handed to a cache: its target, bytes and mark, the context and the thread whose write it is, and who is
acknowledged. -/
structure CacheWrite where
  t : Target
  bytes : List Byte
  poison : Bool
  ctx : Nat
  bit : Nat
  req : Requester

/-- Put the bytes of an accepted write into its way and acknowledge it (R188, R291). -/
def acceptWrite (s : State) (n key : Nat) (w : Way) (c : CacheWrite) (m : Nat) : State :=
  let s := modBench s n fun b => { b with ways := Tbl.set b.ways key (wayWrite w (targetAddr c.t % 64) (offsets c.bytes) c.poison c.ctx) }
  handAnswer (bcAccepted (bcTouch s n key) n (some c.bit)) m n (.ack c.req)

/-- A write that a core or a haul channel handed to its bench cache (R291). -/
def bcWriteStep (found : CacheFinding) (s : State) (x : Msg) (c : CacheWrite) : State :=
  let n := x.dst
  let line := targetAddr c.t / 64
  if (bench s n).bypass then
    sendMsg (inboxDrop s x.id) (writeClass c.t) n (targetNode s c.t) (.write c.t (offsets c.bytes) c.poison c.req)
  else if bcBusy (bench s n) line then s
  else
    let s := cacheFinding s n line found
    match bcFind (bench s n) line with
    | some (key, w) => acceptWrite (countBc s n 0 1) n key w c x.id
    | none => match takeWay s n line with
      | none => s
      | some (key, none) => acceptWrite s n key (emptyWay line c.ctx) c x.id
      | some (key, some v) =>
        let s := modBench (inboxDrop s x.id) n fun b => { b with ways := Tbl.set b.ways key (emptyWay line c.ctx) }
        startFetch s n line key (some v) x

/-- BC_WRITE (R291). -/
def bcWriteRow (s : State) (m : Nat) (found : CacheFinding) : State :=
  match inboxGet s m with
  | none => s
  | some x => match x.pay with
    | .cacheWrite t bytes poison ctx bit req =>
      atCache s x (bcWriteStep found s x { t := t, bytes := bytes, poison := poison, ctx := ctx, bit := bit, req := req })
    | _ => s

/-- BC_WRITE (R291, R293). -/
def execBcWrite (m : Nat) (found : CacheFinding) (s : State) : Out := .next (bcWriteRow s m found)

/-! ### Fills and victims -/

/-- The fetch of a line, if one is in flight. -/
def fetchOf (s : State) (n line : Nat) : Option Fetch := (bench s n).fetches.find? fun f => f.line == line && f.way != noWay

/-- A fetch or a write-back is over. -/
def endFetch (s : State) (n : Nat) (f : Fetch) : State := modBench s n fun b => { b with fetches := b.fetches.erase f }

/-- Answer the accesses that waited for a fetch. -/
def answerWaiting (s : State) (n : Nat) (xs : List Msg) (pay : Target → Nat → Requester → Payload) : State :=
  xs.foldl (fun s x => match x.pay with
    | .cacheRead t len _ req => handMsg s 5 n (pay t len req)
    | _ => s) s

/-- A way whose fetch brought nothing that is kept is given up, unless it holds dirty bytes. -/
def giveUpWay (s : State) (n key : Nat) : State :=
  match Tbl.get? (bench s n).ways key with
  | some w => if w.dirty = 0 then bcInvalidate s n key else s
  | none => s

/-- A pass has dropped the line while it was being fetched (R187): what arrives is not kept, and the accesses that waited for it look
the line up again. -/
def dropFill (s : State) (n : Nat) (f : Fetch) : State :=
  let s := giveUpWay (endFetch s n f) n f.way
  { s with inbox := f.waiting ++ s.inbox }

/-- A fetched line merges under its dirty bytes, and the access that waited is answered (R291). -/
def mergeFill (s : State) (n line : Nat) (bytes : List Byte) (poison : Bool) (holder : Nat) : State :=
  match fetchOf s n line with
  | none => s
  | some f =>
    if f.dead then dropFill s n f
    else
      let w := mergeLine (match bcFind (bench s n) line with | some (_, w) => w | none => emptyWay line 0) bytes poison
      let s := modBench (endFetch s n f) n fun b => { b with ways := Tbl.set b.ways f.way w }
      answerWaiting s n f.waiting fun t len req => .data (wayBytes w (targetAddr t % 64) len) w.poison (if poison then holder else 2) req

/-- A fetch comes back with an error: the way is given up unless it holds dirty bytes, and the error goes on. -/
def failFill (s : State) (n line code : Nat) : State :=
  match fetchOf s n line with
  | none => s
  | some f =>
    if f.dead then dropFill s n f
    else answerWaiting (giveUpWay (endFetch s n f) n f.way) n f.waiting fun _ _ req => .error code req

/-- BC_FILL (R291): the line, or the endpoint's answer that carries it. -/
def bcFill (m : Nat) (ext : Ext) (s : State) : State :=
  match arrived s m with
  | none => s
  | some x =>
    match x.pay with
    | .read (.host p a) len (.fetch n line) => if held s x.dst then s else reply s x (hostAnswer s (.host p a) len (.fetch n line) ext)
    | .data bytes poison holder (.fetch n line) => atCache s x (mergeFill (inboxDrop s m) n line bytes poison holder)
    | .error code (.fetch n line) => atCache s x (failFill (inboxDrop s m) n line code)
    | _ => s

/-- BC_FILL (R291). -/
def execBcFill (m : Nat) (ext : Ext) (s : State) : Out := .next (bcFill m ext s)

/-- A victim's write-back has been accepted: the access that took its way goes on (R291, R292). -/
def victimGone (s : State) (n line : Nat) : State :=
  match (bench s n).fetches.find? fun f => match f.victim with | some v => v.line == line | none => false with
  | none => s
  | some f =>
    match f.waiting with
    | [] => endFetch s n f
    | x :: _ => match x.pay with
      | .cacheWrite t bytes poison ctx bit req =>
        acceptWrite (endFetch s n f) n f.way (emptyWay f.line ctx)
          { t := t, bytes := bytes, poison := poison, ctx := ctx, bit := bit, req := req } x.id
      | _ =>
        let s := modBench s n fun b => { b with fetches := b.fetches.map fun g => if g = f then { g with victim := none, sent := true } else g }
        sendFetch s n f.line

/-- VICTIM_WRITEBACK (R292): the acknowledgement `m` of a write-back reaches its cache. -/
def victimWriteback (m : Nat) (s : State) (n : Nat) : State :=
  match arrived s m with
  | none => s
  | some x =>
    if x.dst ≠ n then s
    else match x.pay with
    | .ack (.writeBack n' line) => if n' = n then victimGone (inboxDrop s m) n line else s
    | .error _ (.writeBack n' line) => if n' = n then victimGone (inboxDrop s m) n line else s
    | _ => s

/-- VICTIM_WRITEBACK (R292). -/
def execVictimWriteback (node : BitVec 8) (m : Nat) (s : State) : Out := onBench node (victimWriteback m) s

/-! ### Passes (R187, R188, R295) -/

/-- Step 4 of Table 9.3: a zero-length read through each host port that carried a write of the thread. -/
def sendFlushes (s : State) (k : Nat) : State :=
  (thr s k).hostPorts.foldl (fun s p => sendMsg s 3 (k / 64) (portNode p) (.read (.host p 0) 0 (.flush k p))) s

/-- A wedge's pass is over: it completes (step 5 of Table 9.3), but for a WEDGE.S whose thread wrote through a host port, which goes on
to step 4 and waits in scope 4. -/
def wedgeDone (s : State) (k : Nat) : State :=
  match (thr s k).wait with
  | some (.wedge scope) =>
    if scope = 3 ∧ (thr s k).hostPorts ≠ [] then sendFlushes (modThr s k fun t => { t with wait := some (.wedge 4) }) k
    else completeWait s k 4
  | _ => s

/-- A pass of a bench begins: every thread's bit is cleared, its dirty lines are to be written back, and every other line goes. -/
def beginPass (s : State) (n : Nat) (wedges : List Nat) : State :=
  modBench s n fun b =>
    { dropClean b with bits := 0, pass := some { todo := (b.ways.filter fun e => e.2.dirty != 0).map fun e => e.2.line, wedges := wedges } }

/-- A thread's wedge reaches its step 3: it joins the pass under way, waits for it to end, or starts one (R188). -/
def joinPass (s : State) (k : Nat) : State :=
  let n := k / 64
  match (bench s n).pass with
  | none => beginPass s n [k]
  | some p =>
    if bit (bench s n).bits.toNat (k % 64) then s
    else modBench s n fun b => { b with pass := some { p with wedges := p.wedges ++ [k] } }

/-- Threads of a bench whose wedge waits for a pass that it has not joined. -/
def wedgesWaiting (s : State) (n : Nat) : List Nat :=
  ((List.range 64).map (n * 64 + ·)).filter fun k => match (thr s k).wait with | some (.wedge scope) => scope != 4 | _ => false

/-- A pass sends one of its dirty lines to its home, in an order that R295 leaves open and the step names. -/
def passLine (s : State) (n line : Nat) (p : WbPass) (found : CacheFinding) : State :=
  let s := cacheFinding s n line found
  let s := modBench s n fun b => { b with pass := some { p with todo := p.todo.erase line } }
  match bcFind (bench s n) line with
  | some (key, w) => if w.dirty = 0 then s else putBack s n key
  | none => s

/-- A pass sends its next line, or completes once every line has been sent and accepted (R295): every line left is invalidated, the
wedges that joined it go on, and those that waited for it start a new one. -/
def bcWritebackPass (line : Nat) (found : CacheFinding) (s : State) (n : Nat) : State :=
  match (bench s n).pass with
  | none => s
  | some p =>
    if p.todo.contains line then passLine s n line p found
    else if !p.todo.isEmpty || (bench s n).fetches.any fun f => f.victim.isSome then s
    else
      let s := modBench s n fun b => { dropClean b with pass := none }
      let s := p.wedges.foldl (fun s k => wedgeDone s k) s
      match wedgesWaiting s n with
      | [] => s
      | ks => beginPass s n ks

/-- BC_WRITEBACK_PASS (R295, R293). -/
def execBcWritebackPass (node : BitVec 8) (line : Nat) (found : CacheFinding) (s : State) : Out :=
  onBench node (bcWritebackPass line found) s

/-! ### Skip buses -/

/-- The launches of a quadrant's bus, the oldest first. -/
def skipJobs (s : State) (q : Nat) : List SkipJob := Tbl.getD s.skip q []
/-- Set the launches of a bus. -/
def setSkip (s : State) (q : Nat) (l : List SkipJob) : State := { s with skip := Tbl.set s.skip q l }

/-- A write to SKIP_LAUNCH of a home (R296, R272): a launch that is refused is answered with an error, or fails its command. -/
def skipLaunch (w : RegSource) (n : Nat) (v : W64) (s : State) : Option Nat × State :=
  let q := quadOf n
  let x := v.toNat
  let k := match w with | .thread m => srcThread s m | _ => 0
  let isThread : Bool := !isF w
  let ctxBad : Bool := !bit x 57 && (Tbl.get? s.ctxs (bits x 63 58)).isNone
  let bad : Bool := bits x 56 52 != 0 || bits x 5 0 != 0 || ctxBad || (bit x 57 && isThread) || decide (8 ≤ (skipJobs s q).length)
  if bad || (isThread && quadOf (k / 64) != q) then
    (some (launchRefused 6 0), match launchRing w with | some rk => failCommand s rk 6 0 | none => s)
  else
    let j : SkipJob := { value := v, srck := launchKind w, core := k / 8, thr := k % 8, ring := launchRing w, running := false, code := 0
                         psn := false, skipped := 0, beat := 0, words := [], faddr := 0 }
    (none, setSkip s q (skipJobs s q ++ [j]))

/-- SKIP_LAUNCH (R296): a node that is no HBM home has no such register, and the write goes nowhere (R431). -/
def execSkipLaunch (w : RegSource) (node : BitVec 8) (value : BitVec 64) (s : State) : Out :=
  let n := node.toNat
  .next (if nodeKind n != 1 || held s n then s else fromSourceE s w n 0x90000 8 value (skipLaunch w n value))

/-- Cores that a skip descriptor names, in ascending order: benches of the target quadrants by mask, cores by mask. -/
def skipTargets (quads benchMask coreMask : Nat) : List Nat :=
  ((List.range 4).filter fun q => bit quads q).flatMap fun q =>
    let bs := benches.filter fun n => quadOf n == q
    ((List.range 56).filter fun i => bit benchMask i).flatMap fun i =>
      ((List.range 8).filter fun c => bit coreMask c).map fun c => bs.getD i 0 * 8 + c

/-- A field of a skip descriptor's word (Table 15.6). -/
def skipField (w : List W64) (i hi lo : Nat) : Nat := bits (w.getD i 0).toNat hi lo
/-- The cores that a descriptor's words name. -/
def skipCores (w : List W64) : List Nat := skipTargets (skipField w 4 3 0) (skipField w 3 55 0) (skipField w 3 63 56)
/-- SPLIT: the lines of a beat go to the four places D0 to D3. -/
def skipSplit (w : List W64) : Bool := skipField w 4 4 4 == 1
/-- LEN, in units of 256 bytes, which is the beats of a transfer. -/
def skipLen (w : List W64) : Nat := skipField w 1 11 0
/-- Dj in bytes. -/
def skipDest (w : List W64) (j : Nat) : Nat := skipField w 2 (16 * j + 15) (16 * j) * 64
/-- The bytes that each place of a transfer receives. -/
def skipSpan (w : List W64) : Nat := if skipSplit w then skipLen w * 64 else skipLen w * 256
/-- The HBM address that SRC names, directly or through the window of the device's own ID (R22). -/
def skipSrc (s : State) (w : List W64) : Option Nat :=
  match decodeAddr s (skipField w 0 51 0) with
  | some (.hbm a) => some a
  | _ => none

/-- The widths and zero fields of a skip descriptor (Table 15.6). -/
def skipFields (q : Nat) (w : List W64) : Bool :=
  (List.range 3).all (fun i => w.getD (5 + i) 0 == 0) && skipField w 0 63 52 == 0 && skipField w 0 7 0 == 0 && skipField w 1 63 12 == 0 &&
    decide (1 ≤ skipLen w ∧ skipLen w ≤ (if skipSplit w then 1024 else 2048)) && skipField w 4 31 7 == 0 && skipField w 4 63 61 == 0 &&
    bit (skipField w 4 3 0) q

/-- The destinations: within the store, clear of the reserved area, and with SPLIT each in a bank of its own (R297, R173). -/
def skipPlaces (w : List W64) : Bool :=
  let places := (if skipSplit w then [0, 1, 2, 3] else [0]).map (skipDest w)
  let n := skipSpan w
  places.all (fun d => decide (d + n ≤ 2 ^ 20) && (decide (d + n ≤ 0x78000) || decide (0x80000 ≤ d))) &&
    (!skipSplit w || (places.all (fun d => d / 65536 == (d + n - 1) / 65536) && (places.map (· / 65536)).eraseDups.length == 4))

/-- The source: HBM of the launching quadrant, chunk by chunk, and not the firmware's unless it launched the transfer (R297, R36, R21). -/
def skipSource (s : State) (q : Nat) (fw : Bool) (a len : Nat) : Bool :=
  (decide (a + len * 256 ≤ reserveBase) || fw) && decide (a + len * 256 ≤ 2 ^ 40) &&
    (List.range ((a % 4096 + len * 256 + 4095) / 4096)).all fun i =>
      quadOf (homeNodes.getD (stackOf s (a / 4096 * 4096 + i * 4096)) 0) == q

/-- A skip descriptor is well formed (R296, R297): every target bench is of the context's grant. -/
def skipShape (s : State) (q : Nat) (j : SkipJob) (w : List W64) : Bool :=
  let fw := bit j.value.toNat 57
  let granted (n : Nat) : Bool := match Tbl.get? s.ctxs (bits j.value.toNat 63 58) with | some x => x.grant.contains n | none => false
  skipFields q w && skipPlaces w && (fw || (skipCores w).all fun c => granted (c / 8)) &&
    match skipSrc s w with
    | some a => skipSource s q fw a (skipLen w)
    | none => false

/-- Where the line `i` of a transfer goes in a store (R297). -/
def skipOffset (w : List W64) (i : Nat) : Nat :=
  if skipSplit w then skipDest w (i % 4) + 64 * (i / 4) else skipDest w 0 + 64 * i

/-- Write line `i` of the source at `a` into one target core, with its mark (R297, R298). -/
def skipLine (s : State) (w : List W64) (a c i : Nat) : State :=
  let src := Target.hbm (a + 64 * i)
  homeWrite s (.store c (skipOffset w i)) (offsets (homeRead s src 64)) (homePoison s src) none

/-- The lines of a beat. -/
def beatLines (beat : Nat) : List Nat := (List.range 4).map fun i => 4 * beat + i

/-- One beat of a transfer: 256 bytes of the source into every target core that is in service (R297). -/
def skipBeat (s : State) (w : List W64) (a beat : Nat) : State :=
  ((skipCores w).filter (goodCore s)).foldl (fun s c => (beatLines beat).foldl (fun s i => skipLine s w a c i) s) s

/-- A beat must wait: one of its lines, at the source or at a target, is locked by a commit (R228), or a named quadrant is held (R45).
A store in retention leaves it for the beat (R179). -/
def skipStalls (s : State) (w : List W64) (a beat : Nat) : Bool :=
  ((List.range 4).any fun p => bit (skipField w 4 3 0) p && heldQuad s p) ||
    (beatLines beat).any fun i => lineLocked s (.hbm (a + 64 * i)) ||
      ((skipCores w).filter (goodCore s)).any fun c => lineLocked s (.store c (skipOffset w i))

/-- Read eight words of a descriptor at a device address; `none` where it is unbacked or answers with an error. -/
def readWords8 (s : State) (a : Nat) (ext : Ext) : Option (List W64) :=
  match decodeAddr s a with
  | none => none
  | some t =>
    let bs : Option (List Byte) := match t with
      | .hbm _ => some (homeRead s t 64)
      | .store _ _ => some (homeRead s t 64)
      | .reg _ _ => none
      | _ => if farCode s t ext = 0 then some (extTake ext 64).1 else none
    bs.map fun bs => (List.range 8).map fun i => BitVec.ofNat 64 (leNat ((bs.drop (8 * i)).take 8))

/-- A bus is taken by a transfer that runs on it, or by one that holds it from another quadrant (R297). -/
def skipTaken (s : State) (p : Nat) : Bool :=
  (List.range 4).any fun o => match skipJobs s o with
    | k :: _ => k.running && (o == p || bit (skipField k.words 4 3 0) p)
    | [] => false

/-- The oldest launch of a bus starts: its descriptor is read, and every bus that it names is taken once all of them are free
(R297). -/
def skipStart (s : State) (q : Nat) (ext : Ext) (j : SkipJob) (rest : List SkipJob) : State :=
  let a := bits j.value.toNat 51 6 * 64
  let fail (code : Nat) : State := setSkip s q ({ j with running := true, code := code, faddr := a } :: rest)
  match readWords8 s a ext with
  | none => fail 1
  | some w =>
    if !skipShape s q j w then fail 5
    else if (List.range 4).any fun p => bit (skipField w 4 3 0) p && skipTaken s p then s
    else setSkip s q ({ j with running := true, words := w, skipped := ((skipCores w).filter fun c => !goodCore s c).length } :: rest)

/-- A running transfer moves its next beat (R297); a poisoned source line is noted (R298). -/
def skipMove (s : State) (q : Nat) (j : SkipJob) (rest : List SkipJob) : State :=
  match skipSrc s j.words with
  | none => s
  | some a =>
    if j.code ≠ 0 ∨ skipLen j.words ≤ j.beat ∨ skipStalls s j.words a j.beat = true then s
    else
      let psn := j.psn || (beatLines j.beat).any fun i => homePoison s (.hbm (a + 64 * i))
      setSkip (skipBeat s j.words a j.beat) q ({ j with beat := j.beat + 1, psn := psn } :: rest)

/-- A bus starts its oldest launch, or moves the next beat of the one that runs. -/
def skipTransfer (s : State) (q : Nat) (ext : Ext) : State :=
  match skipJobs s q with
  | [] => s
  | j :: rest => if j.running then skipMove s q j rest else skipStart s q ext j rest

/-- SKIP_TRANSFER (R297). -/
def execSkipTransfer (quad : BitVec 2) (ext : Ext) (s : State) : Out :=
  .next (if heldQuad s quad.toNat then s else skipTransfer s quad.toNat ext)

/-- The fault of a thread whose skip transfer ended with a status (R298, R279). -/
def skipFault (code faddr : Nat) : Exn :=
  { code := causeOfStatus code, engine := 3, info := BitVec.ofNat 32 (code + 2 ^ 31), faddr := BitVec.ofNat 64 faddr }

/-- Send the increment of a unit that names its counter in bits [28:0] (Tables 14.3, 15.6); whether the name is
good; `tu` is the bench whose translation unit it uses (R31). A name that resolves to no cell sends nothing. -/
def unitIncrement (s : State) (n : Nat) (tu : Option Nat) (ctx lvl : Nat) (self : Option Nat) (name : Nat) : Bool × State :=
  let s1 := match tu with | some b => keepEntry s b ctx name | none => s
  match resolveName s ctx lvl self tu name with
  | .ok cell => (true, sendMsg s1 3 n (cellNode s1 cell) (.counter cell false 1 .unit))
  | _ => (false, s1)

/-- A transfer that ended with a status reports it to whoever launched it (R298, R279). -/
def skipFailed (s : State) (j : SkipJob) : State :=
  match j.ring with
  | some rk => failCommand s rk j.code (256 * j.beat)
  | none => if j.srck = 0 then addDeferred s (j.core * 8 + j.thr) (skipFault j.code j.faddr) else s

/-- A transfer has moved every line: its counter is incremented and its record posted (R298, Table 14.3). -/
def skipDone (s : State) (q : Nat) (j : SkipJob) : State :=
  let n := homeNodes.getD (4 * q) 0
  let ctx := bits j.value.toNat 63 58
  let s := if skipField j.words 4 5 5 = 1 then (unitIncrement s n none ctx 2 (if j.srck = 0 then some j.core else none) (skipField j.words 4 60 32)).2 else s
  if skipField j.words 4 6 6 = 1 then
    let w3 := completionWord 0 0 0 0 (b2n j.psn)
    let moved := BitVec.ofNat 64 (skipLen j.words * 256)
    if bit j.value.toNat 57 then makeRecord s n (devRing s.dev.primary) 4 q 1 none w3 moved (BitVec.ofNat 64 j.skipped) 0 0
    else recordCtx s n 4 q ctx 1 w3 moved (BitVec.ofNat 64 j.skipped) 0 0
  else s

/-- A skip transfer completes once its last beat has moved, and its buses are free (R298). -/
def skipCompletion (s : State) (q : Nat) : State :=
  match skipJobs s q with
  | [] => s
  | j :: rest =>
    if !j.running then s
    else if j.code ≠ 0 then skipFailed (setSkip s q rest) j
    else if j.beat < skipLen j.words then s
    else skipDone (setSkip s q rest) q j

/-- SKIP_COMPLETION (R298). -/
def execSkipCompletion (quad : BitVec 2) (s : State) : Out :=
  .next (if heldQuad s quad.toNat then s else skipCompletion s quad.toNat)

end Sys2Proof.Machine
end

