-- ==== Sys2Proof/Machine/Links.lean ====
section
/-!
DEFINITION. Chip-to-chip links: training, flits, replays, forwarding, discards, and accesses that arrive over a
link (R354 to R369).
-/
namespace Sys2Proof.Machine

/-- Node of a link port. -/
def linkNode (p : Nat) : Nat := linkNodes.getD p 0

/-! ### Training (R357, R358, Table 18.3) -/

/-- The widths that lanes usable at both ends give, widest first: code and lanes (R355). -/
def widthChoices (ok : BitVec 8) : List (Nat × BitVec 8) :=
  let has (m : BitVec 8) : Bool := ok &&& m == m
  let first (l : List (BitVec 8)) : Option (BitVec 8) := l.find? has
  [(0, first [0xFF]), (1, first [0x0F, 0xF0]), (2, first [0x03, 0x0C, 0x30, 0xC0])].filterMap fun w => w.2.map fun m => (w.1, m)

/-- The choices of rate and width in the order in which training tries them: the rates downwards at the widest
width, then each narrower width (log entry 17). -/
def trainChoices (l : Link) (t : TrainResult) : List (Nat × Nat × BitVec 8) :=
  let rates := (List.range 3).filter fun r => decide (l.rate.toNat ≤ r) && bit t.peerRates.toNat r
  (widthChoices (~~~ l.fenced &&& t.peerLanes)).flatMap fun w => rates.map fun r => (r, w.1, w.2)

/-- The first choice that passes step 4. -/
def trainPick (l : Link) (t : TrainResult) : Option (Nat × Nat × BitVec 8) :=
  if t.locked then (trainChoices l t).find? fun c => t.passes.contains (c.1, c.2.1) else none

/-- The peer is not the one expected, or is this device (step 6). -/
def miswired (s : State) (l : Link) (t : TrainResult) : Bool :=
  (l.peerv && (t.peerDev != l.peerdev || t.peerPort != l.peerport)) || t.peerDev == s.dev.devId

/-- The event of a port that has come UP: 3 at a lower rate, 4 at a narrower width, 7 unchanged, 1 otherwise
(Table 18.8; a higher code is a lower rate and a narrower width). -/
def upEvent (l : Link) (rate width : Nat) : Nat :=
  if !l.trainedOnce then 1
  else if l.runRate.toNat < rate then 3
  else if l.width < width then 4
  else if l.runRate.toNat = rate ∧ l.width = width then 7 else 1

/-- A port trains (Table 18.3). -/
def trainPort (s : State) (p : Nat) (t : TrainResult) : State :=
  let l := link s p
  let s := if t.locked then modLink s p fun l => { l with gotDev := t.peerDev, gotPort := t.peerPort, gotGen := t.peerGen } else s
  match trainPick l t with
  | none => linkFall s p 3 2
  | some (rate, width, lanes) =>
    if miswired s l t then linkFall s p 4 5
    else
      let s := modLink s p fun l =>
        { l with state := 2, runRate := BitVec.ofNat 2 rate, width := width, laneOk := lanes, trainedOnce := true,
                 discardSeen := false, needReplay := none, again := 0 }
      linkDrain (linkRecord s p (upEvent l rate width)) p

/-- The step of a link port on the fabric's side: its quadrant must not be held. -/
def onLink (p : BitVec 3) (f : State → Nat → State) (s : State) : Out :=
  .next (if held s (linkNode p.toNat) then s else f s p.toNat)

/-- The step of a link port's island, which waits on no quadrant (R55, R56). -/
def onIsland (p : BitVec 3) (f : State → Nat → State) (s : State) : Out := .next (f s p.toNat)

/-- LINK_TRAINING (R357): a port that EN = 1 has put into training. -/
def execLinkTraining (port : BitVec 3) (t : TrainResult) (s : State) : Out :=
  onIsland port (fun s p => if (link s p).state = 1 ∧ !(link s p).trainedOnce then trainPort s p t else s) s

/-- LINK_TRAINING_RETRY (R357): a DOWN port with EN = 1 trains again every 100 ms. -/
def execLinkTrainingRetry (port : BitVec 3) (t : TrainResult) (s : State) : Out :=
  onIsland port (fun s p => if (link s p).state = 3 ∧ (link s p).en ∧ (link s p).rate ≠ 3 then trainPort s p t else s) s

/-- A port retrains now for this cause (R358): 16 replays of one flit in succession, loss of lock, or a request of
the governor or of a lane's fence that has put it into training. -/
def retrains (l : Link) : RetrainCause → Bool
  | .replays => l.state == 2 && decide (16 ≤ l.again)
  | .lockLost => l.state == 2
  | .governor => l.state == 1 && l.trainedOnce
  | .laneFenced => l.state == 1 && l.trainedOnce

/-- LINK_RETRAIN (R358): the replay buffer and every credit count stay. -/
def execLinkRetrain (port : BitVec 3) (why : RetrainCause) (t : TrainResult) (s : State) : Out :=
  onIsland port (fun s p =>
    if retrains (link s p) why then
      trainPort (modLink s p fun l => { l with retrains := satAdd 16 l.retrains 1 }) p t
    else s) s

/-! ### Counters of the link layer (Table 18.6, R214) -/

/-- Count on LINK_FECCOR (0), LINK_FECUNC (1) or LINK_REPLAY (2). -/
def countLink (s : State) (p which n : Nat) : State :=
  let l := link s p
  let r := wrapAdd (if which = 0 then l.feccor else if which = 1 then l.fecunc else l.replay) n
  let s := modLink s p fun l =>
    if which = 0 then { l with feccor := r.1 } else if which = 1 then { l with fecunc := r.1 } else { l with replay := r.1 }
  if r.2 then
    let s := modLink s p fun l => { l with wrap := l.wrap ||| BitVec.ofNat 3 (2 ^ which) }
    countWrap s (linkNode p) 0xA0030 which true l.wrap.toNat
  else s

/-! ### Messages that arrive (R362, R365, R367) -/

/-- The answer that goes back over the links to the source of a request. -/
def linkAnswer (m : LinkMsg) (op : LinkOp) : LinkMsg :=
  { m with srcDev := m.dstDev, dstDev := m.srcDev, srcNode := m.dstNode, dstNode := m.srcNode, cls := 1, op := op }

/-- An operation is an answer. -/
def isAnswer : LinkOp → Bool
  | .data _ _ | .ack | .error _ => true
  | _ => false

/-- A request that this device sent is answered: the request that waits under its tag is taken out, and its
source gets the answer. -/
def answerTag (s : State) (tag : Nat) (pay : Requester → Payload) : State :=
  match inboxGet s tag with
  | none => s
  | some x =>
    if nodeKind x.dst ≠ 2 then s
    else match x.pay with
    | .read _ _ req | .write _ _ _ req | .atomic _ _ _ _ _ req | .counter _ _ _ req => reply s x (pay req)
    | _ => s

/-- Count a discard under R359 at a port, with its LINK record for the first since the port was UP. -/
def countDiscard (s : State) (p : Nat) : State :=
  let first := !(link s p).discardSeen
  let s := modLink s p fun l => { l with discards := satAdd 16 l.discards 1, discardSeen := true }
  if first then linkRecord s p 6 else s

/-- A message is discarded (R359): a request is answered at its source with an address error, a response is
dropped. -/
def discardMsg (s : State) (p : Nat) (m : LinkMsg) : State :=
  let s := countDiscard s p
  if isAnswer m.op then s
  else if m.srcDev = s.dev.devId then answerTag s m.tag (.error 8 ·)
  else (linkSend s (linkAnswer m (.error 8)) none).getD s

/-- The target of a remote access on this device: a device address below the end of the local stores (R23). -/
def remoteTarget (s : State) (a : BitVec 43) : Option Target :=
  if a.toNat < remoteLimit then decodeLocal s a.toNat else none

/-- A message for this device enters the mesh in its own class (R362); an address that reaches nothing is answered
at once (R367). -/
def linkArrive (s : State) (p : Nat) (m : LinkMsg) : State :=
  let req : Requester := .link p m.tag m.srcDev.toNat m.srcNode.toNat
  let toAt (a : BitVec 43) (pay : Target → Payload) : State :=
    match remoteTarget s a with
    | none => (linkSend s (linkAnswer m (.error 8)) none).getD s
    | some t => sendMsg s m.cls.toNat (linkNode p) (targetNode s t) (pay t)
  match m.op with
  | .read a len => toAt a fun t => .read t (min len 64) req
  | .write a bytes poison => toAt a fun t => .write t bytes poison req
  | .atomic a op wide o c => toAt a fun t => .atomic t op.toNat (if wide then 8 else 4) o c req
  | .counter cell dec amount => sendMsg s 3 (linkNode p) (cellNode s (codeCell cell.toNat)) (.counter (codeCell cell.toNat) dec amount.toNat req)
  | .data bytes poison => answerTag s m.tag (.data bytes poison 4 ·)
  | .ack => answerTag s m.tag (.ack ·)
  | .error code => answerTag s m.tag (.error code ·)

/-- One message of an accepted flit: for this device, or forwarded through ROUTE (R365). -/
def linkMessage (p : Nat) (s : State) (m : LinkMsg) : State :=
  if m.dstDev = s.dev.devId then linkArrive s p m
  else match routePort s m.dstDev.toNat with
    | none => discardMsg s p m
    | some q => sendMsg s m.cls.toNat (linkNode p) (linkNode q) (.overLink m)

/-- The sender learns what the peer has received, and takes its credit returns (R360, R362). -/
def linkAcked (s : State) (p ack : Nat) (credits : List Nat) : State :=
  let s := modLink s p fun l =>
    { l with unacked := l.unacked.filter fun e => decide (ack ≤ e.1)
             credits := (List.range 8).foldl (fun t vc => Tbl.set t vc (Tbl.getD t vc 0 - credits.getD vc 0)) l.credits }
  linkDrain s p

/-- Entries of the FIFO between a link's island and the fabric, in each direction (Table 2.4). -/
def linkFifo : Nat := 128

/-- The fabric takes the flits that wait in a link port's FIFO, in order, unless the port's quadrant is held (R45, R55). -/
def linkTake (s : State) (p : Nat) : State :=
  if held s (linkNode p) then s
  else (link s p).rx.foldl (fun s msgs => msgs.foldl (linkMessage p) s) (modLink s p fun l => { l with rx := [] })

/-- A received flit (R356, R360, R361): what the FEC corrected counts against the lanes; a bad flit and every
later one are discarded until the flit asked for arrives. A flit that the FIFO has no room for waits (R55). -/
def linkFlit (f : LinkFlit) (s : State) (p : Nat) : State :=
  if (link s p).state ≠ 2 ∨ linkFifo ≤ (link s p).rx.length then s
  else
    let s := (List.range 8).foldl (fun s i => if f.symbols.getD i 0 = 0 then s else laneSymbols s (p * 8 + i) (f.symbols.getD i 0)) s
    let s := if !f.codewordOk then countLink s p 1 1 else if f.symbols.all (· == 0) then s else countLink s p 0 1
    let next := (link s p).nextRx
    if !f.codewordOk || !f.crcOk then modLink s p fun l => { l with needReplay := some l.nextRx }
    else if f.seqno = next then
      let s := modLink s p fun l => { l with nextRx := next + 1, needReplay := none, rx := l.rx ++ [f.msgs] }
      linkTake (linkAcked s p f.ackno f.credits) p
    else if f.seqno < next then linkAcked s p f.ackno f.credits
    else modLink s p fun l => { l with needReplay := some l.nextRx }

/-- LINK_FLIT (R360). -/
def execLinkFlit (port : BitVec 3) (f : LinkFlit) (s : State) : Out := onIsland port (linkFlit f) s

/-- A replay (R361): this end asks for the flits from `nextRx`, or the peer asks for those from `seqno`, which are
sent again in order and counted. -/
def replayRequest (seqno : Nat) (localEnd codewordBad : Bool) (s : State) (p : Nat) : State :=
  if (link s p).state ≠ 2 then s
  else if localEnd then
    modLink (if codewordBad then countLink s p 1 1 else s) p fun l => { l with needReplay := some l.nextRx }
  else
    let s := modLink s p fun l =>
      { l with unacked := l.unacked.filter fun e => decide (seqno ≤ e.1)
               again := if l.againSeq = seqno then l.again + 1 else 1
               againSeq := seqno }
    countLink s p 2 (link s p).unacked.length

/-- REPLAY_REQUEST (R361). -/
def execReplayRequest (port : BitVec 3) (seqno : Nat) (localEnd : Bool) (codewordBad : Bool) (s : State) : Out :=
  onIsland port (replayRequest seqno localEnd codewordBad) s

/-- The `i`th message that waits for a port that is not UP has waited 1,048,576 pacer ticks (R359). -/
def linkWaitDiscard (i : Nat) (s : State) (p : Nat) : State :=
  match (link s p).queue[i]? with
  | none => s
  | some e =>
    if (link s p).state = 2 ∨ pacerSince s (linkNode p) e.2 < 1048576 then s
    else discardMsg (modLink s p fun l => { l with queue := l.queue.eraseIdx i }) p e.1

/-- LINK_WAIT_DISCARD (R359). -/
def execLinkWaitDiscard (port : BitVec 3) (m : Nat) (s : State) : Out := onLink port (linkWaitDiscard m) s

/-- A request that crossed a link has no response within 2,097,152 pacer ticks of its requester's bench (R359). -/
def remoteTimeout (m : Nat) (s : State) : State :=
  match inboxGet s m with
  | none => s
  | some x =>
    if nodeKind x.dst = 2 ∧ (remoteOp x.pay).isSome ∧ 2097152 < pacerSince s x.src x.since then answerTag s m (.error 8 ·)
    else s

/-- REMOTE_RESPONSE_TIMEOUT (R359). -/
def execRemoteResponseTimeout (m : Nat) (s : State) : Out := .next (remoteTimeout m s)

/-! ### Accesses that arrive over a link (R367) -/

/-- The context that holds a cell, for the records of R207. -/
def cellHolder (s : State) : CellId → Option Nat
  | .core c _ => (core s c).ctx
  | .wb w i => (wbHolder s (wbIndex w i)).map (·.1)
  | .remote _ _ => none

/-- A counter operation from another device at its cell (R367): a core cell of a fenced core and a weighbridge
cell that no context holds refuse with reason 2. -/
def incomingCounter (s : State) (x : Msg) (cell : CellId) (dec : Bool) (amount p : Nat) (req : Requester) : State :=
  let refuse (s : State) (reason : Nat) : State := reply s x (.error (14 + reason * 256) req)
  let dead : Bool := match cell with
    | .core c i => !goodCore s c || decide (47 < i)
    | .wb w i => (wbHolder s (wbIndex w i)).isNone
    | .remote _ _ => true
  if dead then refuse s 2
  else match applyCell s cell dec amount with
    | .ok s => reply s x (.ack req)
    | .refused reason =>
      refuse (match cellHolder s cell with
        | some ctx => counterRecord s x.dst 8 p ctx cell (BitVec.ofNat 64 amount) reason
        | none => s) reason

/-- An access from another device is performed at its home as a device-address access, or refused. -/
def incomingAccess (m : Nat) (wrong : BitVec 3) (s : State) : State :=
  match arrived s m with
  | none => s
  | some x =>
    if held s x.dst then s
    else match x.pay with
    | .counter cell dec amount (.link p tag d n) => incomingCounter s x cell dec amount p (.link p tag d n)
    | pay => match accessTarget pay with
      | none => s
      | some (t, r) =>
        if !fromLink r then s
        else if incomingRefused s t then reply s x (.error 8 r)
        else if gatedStore s t then s
        else match pay, t with
          | .write _ _ _ _, .hbm a =>
            if 4096 ≤ wbufUsed s (stackOf s a) ∨ lineLocked s t then s
            else modStack (serve wrong s x) (stackOf s a) fun y => { y with wbuf := y.wbuf ++ [a / 64] }
          | _, _ => serve wrong s x

/-- INCOMING_ACCESS (R367). -/
def execIncomingAccess (m : Nat) (wrong : BitVec 3) (s : State) : Out := .next (incomingAccess m wrong s)

end Sys2Proof.Machine
end

