-- ==== Sys2Proof/Machine/System.lean ====
section
/-!
DEFINITION. System registers, ECALL, EBREAK, ERET and the wedges (R72, R75 to R77, R96, R103, R187 to R189).
-/
namespace Sys2Proof.Machine

/-! ### System registers (Table 3.9) -/

/-- THREAD_ID. -/
def threadIdWord (s : State) (k : Nat) : Nat := k % 8 + tmodeField (core s (k / 8)).mode * 2 ^ 4

/-- PACER_CAL of a node (Table 2.3). -/
def pacerCalWord (s : State) (n : Nat) : Nat :=
  let x := node s n
  x.period.toNat + x.calSeq.toNat * 2 ^ 48 + b2n x.calValid * 2 ^ 63

/-- The context that a thread runs in uses virtual allocation (FEAT6.CURVIRT). -/
def curVirt (s : State) (k : Nat) : Bool :=
  match (ctxOf s k).bind fun c => Tbl.get? s.ctxs c with | some x => x.virt | none => false

/-- FEAT0 to FEAT7 (Table 3.10). -/
def featWord (s : State) (k : Nat) : Nat → Nat
  | 0 => 0x0000000308204002
  | 1 => 0x0000000083F20200
  | 2 => 0x000000000000FFFF
  | 3 => 0x00680878FF001014
  | 4 => 0x0000000000080407
  | 5 => 0x0000060802000080
  | 6 => if curVirt s k then 0x0000200000100730 else 0x0000200000100330
  | _ => 0

/-- The value of a system register; `none` where Table 3.9 lists no such number. CTX_ID of a core that runs no context reads 0 (DESIGN
CHOICE, log entry 40). -/
def readSr (s : State) (k n : Nat) : Option W64 :=
  let y := (thr s k).sys
  let w (v : Nat) : Option W64 := some (BitVec.ofNat 64 v)
  match n with
  | 0x000 => some y.tp
  | 0x001 => some y.vprog
  | 0x200 | 0x201 | 0x202 | 0x203 | 0x204 | 0x205 | 0x206 | 0x207 => w (featWord s k (n - 0x200))
  | 0x208 => w (k / 8)
  | 0x209 => w (match ctxOf s k with | some c => logicalOf s c (k / 8) | none => 0x7FF)
  | 0x20A => w (threadIdWord s k)
  | 0x20B => w (pacerOf s (k / 64))
  | 0x20C => w (pacerCalWord s (k / 64))
  | 0x20D => w ((ctxOf s k).getD 0)
  | 0x20E => w 0x00680878FF001014
  | 0x20F => w (thr s k).tx.depth
  | 0x210 => some y.instret
  | 0x400 => some (y.rpc.setWidth 64)
  | 0x401 => some (statusWord s k)
  | 0x402 => some y.cause
  | 0x403 => some y.faddr
  | 0x404 => some (y.vbase0 &&& 0xFFFFFFFFFFFFF000)
  | 0x405 => some y.precision
  | 0x406 => some ((core s (k / 8)).tpend.setWidth 64)
  | 0x800 => some (y.vbase1 &&& 0xFFFFFFFFFFFFF000)
  | 0x801 => some (y.vbase2 &&& 0xFFFFFFFFFFFFF000)
  | 0x802 => some y.backstopSp
  | 0xA00 => some (entryLevel y)
  | _ => none

/-- How SWR, SRS and SRC form what they write (R72). -/
inductive SrOp where
  | swr | srs | src
  deriving DecidableEq, Repr

/-- The new value of the ordinary fields of a register (R76). -/
def srNew (op : SrOp) (old v : W64) : W64 :=
  match op with
  | .swr => v
  | .srs => old ||| v
  | .src => old &&& ~~~ v

/-- The 1s that reach the write-1-to-clear fields (R76): SRS clears nothing. -/
def srClear (op : SrOp) (v : W64) : W64 := if op = .srs then 0 else v

/-- Write a system register that takes writes; reserved and read-only fields stay (Tables 3.9, 4.3, 4.5, 4.6, 7.9). -/
def writeSr (s : State) (k n : Nat) (op : SrOp) (old v : W64) : State :=
  let x := srNew op old v
  let c := srClear op v
  match n with
  | 0x000 => modSys s k fun y => { y with tp := x }
  | 0x001 => modSys s k fun y => { y with vprog := x }
  | 0x400 => modSys s k fun y => { y with rpc := x.setWidth 16 }
  | 0x401 => modSys s k fun y => { y with mask := x.extractLsb' 4 2 }
  | 0x402 => modSys s k fun y => { y with cause := x &&& 0x0000FFFFFFFFFFFF }
  | 0x403 => modSys s k fun y => { y with faddr := x }
  | 0x404 => modSys s k fun y => { y with vbase0 := x &&& 0xFFFFFFFFFFFFF000 }
  | 0x405 => modSys s k fun y =>
      { y with precision := (x &&& 0x00000002FFFFFFFF) ||| (y.precision &&& 0x0000000100000000 &&& ~~~ c) }
  | 0x406 => modCore s (k / 8) fun q => { q with tpend := q.tpend &&& ~~~ (c.setWidth 8) }
  | 0x800 => modSys s k fun y => { y with vbase1 := x &&& 0xFFFFFFFFFFFFF000 }
  | 0x801 => modSys s k fun y => { y with vbase2 := x &&& 0xFFFFFFFFFFFFF000 }
  | 0x802 => modSys s k fun y => { y with backstopSp := x }
  | _ => s

/-- The fault that an access to a system register number raises (R75, log entry 18). -/
def srFault (s : State) (k : Nat) (sr : BitVec 12) (write : Bool) : Option Nat :=
  if (readSr s k sr.toNat).isNone then some 1
  else if lvlOf s k < sr.toNat / 1024 then some 4
  else if write && bit sr.toNat 9 then some 1
  else none

/-- SRD (R72). -/
def bodySrd (rd rs1 : BitVec 5) (sr : BitVec 12) (s : State) (k : Nat) : Res :=
  if rs1 ≠ 0 then illegal s
  else match srFault s k sr false with
    | some c => .trap s (scalarExn c 0)
    | none => .done (wx s k rd ((readSr s k sr.toNat).getD 0))

/-- SWR, SRS and SRC (R72, R75, R76). -/
def bodySrWrite (op : SrOp) (rd rs1 : BitVec 5) (sr : BitVec 12) (s : State) (k : Nat) : Res :=
  if op = .swr ∧ rd ≠ 0 then illegal s
  else match srFault s k sr true with
    | some c => .trap s (scalarExn c 0)
    | none =>
      let old := (readSr s k sr.toNat).getD 0
      .done (wx (writeSr s k sr.toNat op old (rx s k rs1)) k rd old)

/-- SRD. -/
def execSrd (h : Hart) (rd rs1 : BitVec 5) (sr : BitVec 12) (s : State) : Out := issue h (.srd h rd rs1 sr) 0 [rd, rs1] (bodySrd rd rs1 sr) s
/-- SWR. -/
def execSwr (h : Hart) (rd rs1 : BitVec 5) (sr : BitVec 12) (s : State) : Out := issue h (.swr h rd rs1 sr) 0 [rd, rs1] (bodySrWrite .swr rd rs1 sr) s
/-- SRS. -/
def execSrs (h : Hart) (rd rs1 : BitVec 5) (sr : BitVec 12) (s : State) : Out := issue h (.srs h rd rs1 sr) 0 [rd, rs1] (bodySrWrite .srs rd rs1 sr) s
/-- SRC. -/
def execSrc (h : Hart) (rd rs1 : BitVec 5) (sr : BitVec 12) (s : State) : Out := issue h (.src h rd rs1 sr) 0 [rd, rs1] (bodySrWrite .src rd rs1 sr) s

/-! ### Traps and return -/

/-- ECALL (R96). -/
def bodyEcall (rd rs1 : BitVec 5) (s : State) (k : Nat) : Res :=
  if rd ≠ 0 ∨ rs1 ≠ 0 then illegal s
  else if inTx s k then txIllegal s
  else .trapNext s (scalarExn 9 0)

/-- EBREAK (R96, R219): with a debugger attached, and unless rule 1 of R96 applies, the thread halts at the EBREAK. -/
def bodyEbreak (rd rs1 : BitVec 5) (s : State) (k : Nat) : Res :=
  if rd ≠ 0 ∨ rs1 ≠ 0 then illegal s
  else if inTx s k then
    if (core s (k / 8)).debugger then .wait (modThr (abortTx s k 7 0 0 0xFFFF) k fun t => { t with dbg := true }) else txIllegal s
  else if (core s (k / 8)).debugger && !(thr s k).sys.bks && (thr s k).sys.mask == 0 then .wait (modThr s k fun t => { t with dbg := true })
  else .trapNext s (scalarExn 10 0)

/-- The level that the newest entry record holds, if there is one (R103). -/
def recordedLevel (y : SysRegs) : Option Nat :=
  if y.bks then (if y.bkRec then some y.bkLevel.toNat else none)
  else if y.depth = 0 then none else some (bits y.recs.toNat (2 * y.depth - 1) (2 * y.depth - 2))

/-- Return through a frame whose check has passed (R103). -/
def returnFrame (s : State) (k : Nat) (f : List W64) : State :=
  let y := (thr s k).sys
  let st := (f.getD 1 0).toNat
  let switch := y.bks || (decide (y.priv = 2) && decide (bits st 1 0 < 2))
  let x30 := rx s k 30
  let s := if switch then wx (wx s k 29 (f.getD 6 0)) k 30 (f.getD 7 0)
           else wx (wx (wx s k 28 (f.getD 6 0)) k 29 (f.getD 7 0)) k 30 (x30 + 64)
  modSys s k fun y =>
    { y with priv := BitVec.ofNat 2 (bits st 1 0), mask := BitVec.ofNat 2 (bits st 5 4), bks := false,
             rpc := (f.getD 4 0).setWidth 16, vprog := f.getD 5 0,
             depth := if y.bks then y.depth else y.depth - 1,
             recs := if y.bks then y.recs else y.recs &&& BitVec.ofNat 16 (4 ^ (y.depth - 1) - 1),
             bkLevel := if y.bks then 0 else y.bkLevel,
             bkRec := if y.bks then false else y.bkRec }

/-- Words of a frame from its bytes. -/
def frameOf (bs : List Byte) : List W64 := (List.range 8).map fun i => BitVec.ofNat 64 (leNat ((bs.drop (8 * i)).take 8))

/-- ERET (R103). -/
def bodyEret (rd rs1 : BitVec 5) (s : State) (k : Nat) : Res :=
  if rd ≠ 0 ∨ rs1 ≠ 0 then illegal s
  else if inTx s k then txIllegal s
  else
    let y := (thr s k).sys
    let x30 := rx s k 30
    match recordedLevel y with
    | none => .trap s (scalarExn 17 0)
    | some l =>
      if x30.toNat % 8 ≠ 0 then .trap s (scalarExn 3 x30)
      else
        let words := (List.range 8).map fun i => (i, x30 + BitVec.ofNat 64 (8 * i))
        runLanes s k 0 8 false false true words (fun _ => []) fun s1 j =>
          let f := frameOf ((lanesGot j 8 words).flatMap (·.2))
          let p := bits (f.getD 1 0).toNat 1 0
          if p = 3 ∨ l < p then .trap s1 (scalarExn 17 0)
          else .jump (returnFrame s1 k f) ((f.getD 0 0) &&& ~~~ 1)

/-- ECALL. -/
def execEcall (h : Hart) (rd rs1 : BitVec 5) (s : State) : Out := issue h (.ecall h rd rs1) 0 [] (bodyEcall rd rs1) s
/-- EBREAK. -/
def execEbreak (h : Hart) (rd rs1 : BitVec 5) (s : State) : Out := issue h (.ebreak h rd rs1) 0 [] (bodyEbreak rd rs1) s
/-- ERET. -/
def execEret (h : Hart) (rd rs1 : BitVec 5) (s : State) : Out := issue h (.eret h rd rs1) 0 [28, 29, 30] (bodyEret rd rs1) s

/-! ### Wedges (R187 to R189) -/

/-- Step 2 of Table 9.3, of every scope: an access or a counter operation of the thread is not performed yet. -/
def wedgeOpen (s : State) (k : Nat) : Bool := inFlight s k || !(thr s k).ctrOut.isEmpty

/-- A wedge of scope L, B, D or S (Table 9.3). -/
def bodyWedge (scope : Nat) (rd rs1 : BitVec 5) (s : State) (k : Nat) : Res :=
  if rd ≠ 0 ∨ rs1 ≠ 0 then illegal s
  else if inTx s k then txIllegal s
  else
    let s := gbufFlushAll s (k / 8)
    if wedgeOpen s k then .hold s
    else if scope < 2 then .done s
    else .wait (joinPass (modThr s k fun t => { t with wait := some (.wedge scope) }) k)

/-- WEDGE.L. -/
def execWedgeL (h : Hart) (rd rs1 : BitVec 5) (s : State) : Out := issue h (.wedgeL h rd rs1) 0 [] (bodyWedge 0 rd rs1) s
/-- WEDGE.B. -/
def execWedgeB (h : Hart) (rd rs1 : BitVec 5) (s : State) : Out := issue h (.wedgeB h rd rs1) 0 [] (bodyWedge 1 rd rs1) s
/-- WEDGE.D. -/
def execWedgeD (h : Hart) (rd rs1 : BitVec 5) (s : State) : Out := issue h (.wedgeD h rd rs1) 0 [] (bodyWedge 2 rd rs1) s
/-- WEDGE.S. -/
def execWedgeS (h : Hart) (rd rs1 : BitVec 5) (s : State) : Out := issue h (.wedgeS h rd rs1) 0 [] (bodyWedge 3 rd rs1) s

end Sys2Proof.Machine
end

