-- ==== Sys2Proof/Machine/Threads.lean ====
section
/-!
DEFINITION. The THREAD major, waiting thread instructions and interrupts (R86 to R92, R95, R97, R99).
-/
namespace Sys2Proof.Machine

/-! ### Thread-channels (R91) -/

/-- A channel of a thread holds a word. -/
def chanFull (s : State) (k c : Nat) : Bool := (Tbl.get? (thr s k).chans c).isSome

/-- Place a word into a channel. -/
def chanPut (s : State) (k c : Nat) (v : W64) : State := modThr s k fun t => { t with chans := Tbl.set t.chans c v }

/-- The destination of TPUT and TTRYPUT: thread and channel (R88). -/
def chanDest (s : State) (k : Nat) (v : W64) : Option (Nat × Nat) :=
  let t := v.toNat % 8
  if (core s (k / 8)).mode ≤ t ∨ v &&& ~~~ (0x37 : W64) ≠ 0 then none else some (k / 8 * 8 + t, bits v.toNat 5 4)

/-- TPUT (R91). -/
def bodyTput (rd rs1 rs2 : BitVec 5) (s : State) (k : Nat) : Res :=
  if rd ≠ 0 then illegal s
  else if inTx s k then txIllegal s
  else match chanDest s k (rx s k rs1) with
    | none => illegal s
    | some (d, c) =>
      if chanFull s d c then .wait (modThr s k fun t => { t with wait := some (.tput d c (rx s k rs2)) })
      else .done (chanPut s d c (rx s k rs2))

/-- TTRYPUT (R88). -/
def bodyTtryput (rd rs1 rs2 : BitVec 5) (s : State) (k : Nat) : Res :=
  if inTx s k then txIllegal s
  else match chanDest s k (rx s k rs1) with
    | none => illegal s
    | some (d, c) =>
      if chanFull s d c then .done (wx s k rd 0) else .done (wx (chanPut s d c (rx s k rs2)) k rd 1)

/-- TGET (R91). -/
def bodyTget (rd rs1 rs2 : BitVec 5) (s : State) (k : Nat) : Res :=
  if rs2 ≠ 0 then illegal s
  else if inTx s k then txIllegal s
  else
    let c := (rx s k rs1).toNat
    if 4 ≤ c then illegal s
    else match Tbl.get? (thr s k).chans c with
      | some v => .done (wx (modThr s k fun t => { t with chans := Tbl.erase t.chans c }) k rd v)
      | none => .wait (modThr s k fun t => { t with wait := some (.tget c rd) })

/-- TPOLL (R88). -/
def bodyTpoll (rd rs1 rs2 : BitVec 5) (s : State) (k : Nat) : Res :=
  if rs1 ≠ 0 ∨ rs2 ≠ 0 then illegal s
  else .done (wx s k rd (BitVec.ofNat 64 (((List.range 4).map fun c => b2n (chanFull s k c) * 2 ^ c).sum)))

/-- A waiting TPUT places its word; of two that wait for one channel the lower-numbered sender goes first. -/
def tputPlace (s : State) (k : Nat) : State :=
  match (thr s k).wait with
  | some (.tput d c v) =>
    let earlier := (List.range (k % 8)).any fun t =>
      match (thr s (k / 8 * 8 + t)).wait with | some (.tput d' c' _) => d' == d && c' == c | _ => false
    if chanFull s d c ∨ earlier then s else completeWait (chanPut s d c v) k 4
  | _ => s

/-- A waiting TGET receives the word in its channel. -/
def tgetDeliver (s : State) (k : Nat) : State :=
  match (thr s k).wait with
  | some (.tget c rd) =>
    match Tbl.get? (thr s k).chans c with
    | none => s
    | some v => completeWait (wx (modThr s k fun t => { t with chans := Tbl.erase t.chans c }) k rd v) k 4
  | _ => s

/-! ### TSETR, TREL, TINFO (R88 to R90) -/

/-- A thread operand: its key, or nothing where it is not a number from 0 to N − 1. -/
def threadOperand (s : State) (k : Nat) (v : W64) : Option Nat :=
  if v.toNat < (core s (k / 8)).mode then some (k / 8 * 8 + v.toNat) else none

/-- A thread that TSETR and TREL may target (R89). -/
def settable (s : State) (k d : Nat) : Bool := d % 8 != 0 && d != k && (thr s d).run != .running

/-- What TSETR, TREL and TINFO check alike, and then `act` on the target thread. -/
def onTarget (s : State) (k : Nat) (v : W64) (act : Nat → Res) : Res :=
  if lvlOf s k = 0 then .trap s (scalarExn 4 0)
  else match threadOperand s k v with
    | none => illegal s
    | some d => act d

/-- What a thread's accesses in flight would still write to a register is dropped: the value set after they were issued stays (R90). -/
def forgetLoads (s : State) (d : Nat) (rd : BitVec 5) : State :=
  modCore s (d / 8) fun c =>
    { c with sb := c.sb.map fun (e : Nat × SbEntry) =>
        let mine : Bool := e.2.thr == d && (match e.2.sink with | .load r _ _ => r == rd | .old r _ => r == rd | _ => false)
        (e.1, if mine then { e.2 with sink := .none } else e.2) }

/-- TSETR (R89, R90). -/
def bodyTsetr (rd rs1 rs2 : BitVec 5) (s : State) (k : Nat) : Res :=
  if inTx s k then txIllegal s
  else onTarget s k (rx s k rs1) fun d =>
    if !settable s k d then .trap s (scalarExn 11 0)
    else if rd = 0 then .done (modSys s d fun y => { y with rpc := (rx s k rs2).setWidth 16 })
    else .done (wx (if busyReg s d rd then forgetLoads s d rd else s) d rd (rx s k rs2))

/-- Release a thread at a PC and level (R89). -/
def release (s : State) (d : Nat) (pc : W64) (lvl : Nat) : State :=
  let s := modThr s d fun t =>
    { t with pc := pc &&& ~~~ 1, run := .running
             sys := { t.sys with priv := BitVec.ofNat 2 lvl, mask := 0, depth := 0, recs := 0, bkLevel := 0, bkRec := false, bks := false } }
  modCore s (d / 8) fun c => { c with tpend := c.tpend &&& ~~~ (BitVec.ofNat 8 (2 ^ (d % 8))) }

/-- TREL (R89). -/
def bodyTrel (rd rs1 rs2 : BitVec 5) (s : State) (k : Nat) : Res :=
  if 1 < rd.toNat then illegal s
  else if inTx s k then txIllegal s
  else onTarget s k (rx s k rs1) fun d =>
    if !settable s k d then .trap s (scalarExn 11 0)
    else if lvlOf s k < rd.toNat then .trap s (scalarExn 4 0)
    else .done (release s d (rx s k rs2) rd.toNat)

/-- The state field of TINFO selector 3 (Table 4.2). -/
def stateField (t : Thread) : Nat :=
  let holds : Bool := match t.job with | some j => j.kind == .hold | none => false
  (match t.run with | .running => 0 | .held => 1 | .halted => 2 | .ended => 3) + b2n t.dbg * 16 + b2n (t.wait.isSome || holds) * 32

/-- TINFO's item (Table 4.2). -/
def infoItem (s : State) (d sel : Nat) : W64 :=
  let t := thr s d
  match sel with
  | 0 => t.pc
  | 1 => t.sys.cause
  | 2 => t.sys.faddr
  | 3 => BitVec.ofNat 64 (stateField t)
  | 4 => t.sys.rpc.setWidth 64
  | 5 => t.sys.vprog
  | _ => statusWord s d

/-- TINFO (R88); the next instruction of the thread that executes it is the one behind it. -/
def bodyTinfo (rd rs1 rs2 : BitVec 5) (s : State) (k : Nat) : Res :=
  if 6 < rs2.toNat then illegal s
  else onTarget s k (rx s k rs1) fun d =>
    .done (wx s k rd (if d = k ∧ rs2 = 0 then (thr s k).pc + 4 else infoItem s d rs2.toNat))

/-! ### TEND (R92) -/

/-- Every other thread of the core is HELD, HALTED or ENDED. -/
def othersStopped (s : State) (k : Nat) : Bool := (coreThreads s (k / 8)).all fun d => d == k || (thr s d).run != .running

/-- An access of the thread, or a release of its transaction, has still to be answered (R190). -/
def owed (s : State) (k : Nat) : Bool := inFlight s k || !(thr s k).ctrOut.isEmpty

/-- The thread ends: its ports, handles and staged words are given up (R238, R239, R244); thread 0 ends the core's
part of the kernel. -/
def endThread (s : State) (k : Nat) : State :=
  let s := freePorts s (k / 8) (some (k % 8))
  let s := modThr s k fun t => { t with run := .ended, wait := none, handles := [], staged := [], stageHandle := none }
  if k % 8 = 0 then modCore s (k / 8) fun c => { c with partEnded := true } else s

/-- TEND. -/
def bodyTend (rd rs1 rs2 : BitVec 5) (s : State) (k : Nat) : Res :=
  if rd ≠ 0 ∨ rs1 ≠ 0 ∨ rs2 ≠ 0 then illegal s
  else if inTx s k then txIllegal s
  else if owed s k then .wait s
  else if k % 8 = 0 ∧ !othersStopped s k then .wait (modThr s k fun t => { t with wait := some .tend })
  else .ends (endThread s k)

/-- A waiting TEND of thread 0 completes (R92). -/
def tendComplete (s : State) (k : Nat) : State :=
  match (thr s k).wait with
  | some .tend => if othersStopped s k ∧ !owed s k then countInstret (endThread s k) k 1 else s
  | _ => s

/-! ### Interrupts (R95, R97, R99, R219) -/

/-- The pending condition of an interrupt that is taken goes; THREAD_FAULT is a level. -/
def clearInterrupt (s : State) (c code : Nat) : State :=
  modCore s c fun x =>
    { x with irqFw := x.irqFw && code != 27, irqWake := x.irqWake && code != 25,
             irqHost := if code = 26 then none else x.irqHost }

/-- Take an interrupt at a boundary of thread 0; it stays pending while its entry must wait. -/
def takeInterrupt (s : State) (c : Nat) (i : Nat × BitVec 32) : State :=
  let k := c * 8
  match enterOr s k (irqTarget i.1) { code := i.1, engine := 0, info := i.2, faddr := 0 } true (thr s k).pc with
  | .done t => clearInterrupt t c i.1
  | .wait t => t

/-- INTERRUPT_ENTRY (R95): a wait that R99 abandons is abandoned; an open transaction aborts with INTERRUPT first. -/
def interruptEntry (s : State) (c : Nat) : State :=
  let k := c * 8
  match takeable s c with
  | none => s
  | some i =>
    let s1 := abandonWait s k
    let t := thr s1 k
    if t.run ≠ .running ∨ (t.dbg ∧ t.tx.depth = 0) ∨ !t.deferred.isEmpty ∨ !t.aborts.isEmpty ∨ t.wait.isSome ∨ firmJob s k ∨ frameBusy s k then s
    else if t.tx.depth > 0 then takeInterrupt (abortTx s1 k 5 0 0 0xFFFF) c i
    else takeInterrupt s1 c i

/-- TPUT. -/
def execTput (h : Hart) (rd rs1 rs2 : BitVec 5) (s : State) : Out := issue h (.tput h rd rs1 rs2) 0 [rs1, rs2] (bodyTput rd rs1 rs2) s
/-- TPUT_PLACE. -/
def execTputPlace (core : BitVec 11) (thr : BitVec 3) (s : State) : Out := onThread core thr tputPlace s
/-- TGET. -/
def execTget (h : Hart) (rd rs1 rs2 : BitVec 5) (s : State) : Out := issue h (.tget h rd rs1 rs2) 0 [rd, rs1] (bodyTget rd rs1 rs2) s
/-- TGET_DELIVER. -/
def execTgetDeliver (core : BitVec 11) (thr : BitVec 3) (s : State) : Out := onThread core thr tgetDeliver s
/-- TTRYPUT. -/
def execTtryput (h : Hart) (rd rs1 rs2 : BitVec 5) (s : State) : Out := issue h (.ttryput h rd rs1 rs2) 0 [rd, rs1, rs2] (bodyTtryput rd rs1 rs2) s
/-- TPOLL. -/
def execTpoll (h : Hart) (rd rs1 rs2 : BitVec 5) (s : State) : Out := issue h (.tpoll h rd rs1 rs2) 0 [rd] (bodyTpoll rd rs1 rs2) s
/-- TSETR. -/
def execTsetr (h : Hart) (rd rs1 rs2 : BitVec 5) (s : State) : Out := issue h (.tsetr h rd rs1 rs2) 0 [rs1, rs2] (bodyTsetr rd rs1 rs2) s
/-- TREL. -/
def execTrel (h : Hart) (rd rs1 rs2 : BitVec 5) (s : State) : Out := issue h (.trel h rd rs1 rs2) 0 [rs1, rs2] (bodyTrel rd rs1 rs2) s
/-- TINFO. -/
def execTinfo (h : Hart) (rd rs1 rs2 : BitVec 5) (s : State) : Out := issue h (.tinfo h rd rs1 rs2) 0 [rd, rs1] (bodyTinfo rd rs1 rs2) s
/-- TEND. -/
def execTend (h : Hart) (rd rs1 rs2 : BitVec 5) (s : State) : Out := issue h (.tend h rd rs1 rs2) 0 [] (bodyTend rd rs1 rs2) s
/-- TEND_COMPLETE. -/
def execTendComplete (core : BitVec 11) (thr : BitVec 3) (s : State) : Out := onThread core thr tendComplete s
/-- INTERRUPT_ENTRY. -/
def execInterruptEntry (core : BitVec 11) (s : State) : Out := onCore core interruptEntry s

end Sys2Proof.Machine
end

