-- ==== Sys2Proof/Machine/TxRows.lean ====
section
/-!
DEFINITION. The TX major, asynchronous aborts, and the homes' part of a commit (R215 to R227).
-/
namespace Sys2Proof.Machine

/-! ### TXB, TXE, TXA -/

/-- TXB (R216). -/
def bodyTxb (rd rs1 rs2 : BitVec 5) (s : State) (k : Nat) : Res :=
  if rd ≠ 0 ∨ rs2 ≠ 0 then illegal s
  else
    let t := thr s k
    if t.tx.depth = 8 then .abort s 6 0 0 0xFFFF
    else if 0 < t.tx.depth then .done (modTx s k fun x => { x with depth := x.depth + 1 })
    else if inFlight s k || !t.tx.releases.isEmpty then .wait s
    else if bit (rx s k rs1).toNat 0 then .trap s (scalarExn 2 (rx s k rs1))
    else .done (modTx s k fun _ => { Tx.none with depth := 1, fallback := rx s k rs1, stagedBefore := t.staged.length })

/-- The homes that a commit prepares at: those of its written lines, and the cores of the ports its tuples go to
(step 2 of Table 11.5). -/
def prepareHomes (s : State) (k : Nat) : List HomeId :=
  (thr s k).tx.tuples.foldl (fun l u =>
    match Tbl.get? (thr s k).handles u.handle with
    | some h => homeInsert (.store (BitVec.ofNat 11 h.core)) l
    | none => l) (writtenHomes s k)

/-- Go on to the next step of Table 11.5 when a step has no home left. -/
def commitNext (s : State) (k : Nat) : State :=
  let s := if (thr s k).tx.phase = .prepare [] then modTx s k fun x => { x with phase := .check (watchHomes s k) } else s
  let s := if (thr s k).tx.phase = .check [] then modTx s k fun x => { x with phase := .apply (writtenHomes s k) } else s
  if (thr s k).tx.phase = .apply [] then commitEnd s k else s

/-- A transactional read of the thread is in flight. -/
def txInFlight (s : State) (k : Nat) : Bool := (core s (k / 8)).sb.any fun e => e.2.thr == k && e.2.tx

/-- TXE (R217, R224): at depth 1 the commit begins, and TXE retires when it ends. -/
def bodyTxe (rd rs1 rs2 : BitVec 5) (s : State) (k : Nat) : Res :=
  if rd ≠ 0 ∨ rs1 ≠ 0 ∨ rs2 ≠ 0 then illegal s
  else
    let t := thr s k
    if t.tx.depth = 0 then illegal s
    else if 1 < t.tx.depth then .done (modTx s k fun x => { x with depth := x.depth - 1 })
    else if txInFlight s k then .hold s
    else
      let s := modTx s k fun x => { x with phase := .prepare (prepareHomes s k) }
      .wait (commitNext (modThr s k fun t => { t with wait := some .commit }) k)

/-- TXA (R217). -/
def bodyTxa (rd rs1 rs2 : BitVec 5) (s : State) (k : Nat) : Res :=
  if rd ≠ 0 ∨ rs2 ≠ 0 then illegal s
  else if (thr s k).tx.depth = 0 then illegal s
  else .abort s 4 ((rx s k rs1).toNat % 256) 0 0xFFFF

/-- TXB. -/
def execTxb (h : Hart) (rd rs1 rs2 : BitVec 5) (s : State) : Out := issue h (.txb h rd rs1 rs2) 3 [rs1] (bodyTxb rd rs1 rs2) s
/-- TXE. -/
def execTxe (h : Hart) (rd rs1 rs2 : BitVec 5) (s : State) : Out := issue h (.txe h rd rs1 rs2) 3 [] (bodyTxe rd rs1 rs2) s
/-- TXA. -/
def execTxa (h : Hart) (rd rs1 rs2 : BitVec 5) (s : State) : Out := issue h (.txa h rd rs1 rs2) 3 [rs1] (bodyTxa rd rs1 rs2) s

/-! ### Asynchronous aborts (R220) -/

/-- The cause that goes first: CONFLICT, then the answer of a full watch table, then PEER. -/
def firstAbort (l : List AbortCause) : Option AbortCause :=
  [1, 2, 9].findSome? fun c => l.find? fun a => a.code == c

/-- TX_ABORT (R218 to R220): the abort for the cause that goes first, and for INTERRUPT the interrupt after it. An
instruction one of whose accesses was answered with the cause does not complete. -/
def txAbort (s : State) (k : Nat) : State :=
  let s1 := abandonWait s k
  let t := thr s1 k
  if t.tx.depth = 0 ∨ t.tx.phase ≠ .open ∨ t.run ≠ .running ∨ t.wait.isSome then s
  else match firstAbort t.aborts with
    | some a => abortTx s1 k a.code 0 a.detail a.node
    | none =>
      if firmJob s k then s
      else if k % 8 = 0 ∧ (takeable s (k / 8)).isSome then interruptEntry s (k / 8)
      else if t.dbg then abortTx s1 k 7 0 0 0xFFFF
      else s

/-- TX_ABORT. -/
def execTxAbort (core : BitVec 11) (thr : BitVec 3) (s : State) : Out := onThread core thr txAbort s

/-! ### The homes (Table 11.5) -/

/-- A home cannot be reached: a fenced core's store, or a line of the commit on a withdrawn page. -/
def homeGone (s : State) (h : HomeId) (lines : List Nat) : Bool :=
  match h with
  | .store c => !goodCore s c.toNat
  | .hbm _ => lines.any fun l => withdrawn s (l * 64)

/-- The written lines of a thread at a home. -/
def linesAt (s : State) (k : Nat) (h : HomeId) : List Nat :=
  ((thr s k).tx.writes.filter fun w => ledgerHome s w.1 == h).map (·.1)

/-- The ports of a core that a thread's staged tuples go to, one for each tuple, with the handle's GEN. -/
def tuplePorts (s : State) (k : Nat) (h : HomeId) : List (Nat × Nat × Nat) :=
  (thr s k).tx.tuples.filterMap fun u =>
    match Tbl.get? (thr s k).handles u.handle with
    | some q => if h = .store (BitVec.ofNat 11 q.core) then some (q.core, q.port, q.gen) else none
    | none => none

/-- What reserving a queue entry for each tuple at a core leads to: reserved, or the abort. -/
def reserveAll (s : State) (k : Nat) : List (Nat × Nat × Nat) → State × Option (Nat × Nat)
  | [] => (s, none)
  | (c, p, g) :: rest =>
    if !goodCore s c || !portLive s c p || portGen s c p != g then (s, some (9, 3))
    else if portSize s c p ≤ portCount s c p + portResv s c p then (s, some (1, 4))
    else
      let s := setPortWord s c p 0 (portStatus (portCount s c p) (portHead s c p) (portResv s c p + 1) true (portBlocked s c p) (portGen s c p))
      reserveAll (modTx s k fun x => { x with reserved := x.reserved ++ [(c, p, g)] }) k rest

/-- A home answers a lock request (step 2): it grants every lock or none, and reserves the entries of its write
buffer (R304); the ports at that core reserve their entries. -/
def lockRequest (h : HomeId) (s : State) (k : Nat) : State :=
  match (thr s k).tx.phase with
  | .prepare (h' :: rest) =>
    if h' ≠ h then s
    else
      let lines := linesAt s k h
      let room : Bool := match h with
        | .hbm n => decide (wbufUsed s n.toNat + lines.length ≤ 4096)
        | .store _ => true
      if homeGone s h lines then abortTx s k 9 0 (if lines.isEmpty then 3 else 1) (homeNode h)
      else if lines.any fun l => (lockHolder s h l).isSome then abortTx s k 1 0 2 (homeNode h)
      else if !room then s
      else
        let s := { s with locks := s.locks ++ lines.map fun (l : Nat) => ({ home := h, line := l, thr := k } : Lock) }
        let s := modTx s k fun x => { x with granted := x.granted ++ [h], phase := .prepare rest }
        match reserveAll s k (tuplePorts s k h) with
        | (s, some (code, detail)) => abortTx s k code 0 detail (homeNode h)
        | (s, none) => commitNext s k
  | _ => s

/-- A home answers a watch check (step 3). A watched line that another commit holds locked is not intact: its new bytes are
about to be applied, and two commits that each write what the other read could otherwise both go on (R227; log entry 34). -/
def watchCheck (h : HomeId) (s : State) (k : Nat) : State :=
  match (thr s k).tx.phase with
  | .check todo =>
    if !todo.contains h then s
    else if homeGone s h [] then abortTx s k 9 0 1 (homeNode h)
    else if s.watches.any fun w => w.home == h && w.thr == k &&
        (w.broken || ((lockHolder s h w.line).map (· != k)).getD false) then abortTx s k 1 0 1 (homeNode h)
    else commitNext (modTx s k fun x => { x with phase := .check (todo.filter fun q => q != h) }) k
  | _ => s

/-- A home applies a commit's lines (step 5). -/
def txApply (h : HomeId) (s : State) (k : Nat) : State :=
  match (thr s k).tx.phase with
  | .apply todo =>
    if !todo.contains h then s
    else commitNext (modTx (applyHome s k h) k fun x => { x with phase := .apply (todo.filter fun q => q != h) }) k
  | _ => s

/-- Give one reservation of a port back. -/
def unreserve (s : State) (c p : Nat) : State :=
  setPortWord s c p 0 (portStatus (portCount s c p) (portHead s c p) (portResv s c p - 1) (portLive s c p) (portBlocked s c p) (portGen s c p))

/-- A home takes a release of a thread's watches, locks and reservations (R218 step 2, step 7 of Table 11.5); a reservation of
a port that was freed meanwhile is gone with it. -/
def watchRelease (h : HomeId) (s : State) (k : Nat) : State :=
  if !(thr s k).tx.releases.contains h then s
  else
    let mine : List (Nat × Nat × Nat) := match h with
      | .store c => (thr s k).tx.reserved.filter fun r => r.1 == c.toNat
      | .hbm _ => []
    let s := mine.foldl (fun s r => if portLive s r.1 r.2.1 && portGen s r.1 r.2.1 == r.2.2 then unreserve s r.1 r.2.1 else s) s
    let s := { s with watches := s.watches.filter fun w => !(w.home == h && w.thr == k)
                      locks := s.locks.filter fun l => !(l.home == h && l.thr == k) }
    modTx s k fun x => { x with releases := x.releases.filter fun q => q != h, reserved := x.reserved.filter fun r => !mine.contains r }

/-- LOCK_REQUEST. -/
def execLockRequest (core : BitVec 11) (thr : BitVec 3) (home : HomeId) (s : State) : Out := onThread core thr (lockRequest home) s
/-- WATCH_CHECK. -/
def execWatchCheck (core : BitVec 11) (thr : BitVec 3) (home : HomeId) (s : State) : Out := onThread core thr (watchCheck home) s
/-- TX_APPLY. -/
def execTxApply (core : BitVec 11) (thr : BitVec 3) (home : HomeId) (s : State) : Out := onThread core thr (txApply home) s
/-- WATCH_RELEASE. -/
def execWatchRelease (core : BitVec 11) (thr : BitVec 3) (home : HomeId) (s : State) : Out := onThread core thr (watchRelease home) s

end Sys2Proof.Machine
end

