-- ==== Sys2Proof/Machine/Channels.lean ====
section
/-!
DEFINITION. Channels between cores (R233 to R246): the CHAN major, publications, retries and stalls.
-/
namespace Sys2Proof.Machine

/-- CHANNEL with a reason, and the port or handle concerned (R245). -/
def chanExn (reason obj : Nat) : Exn :=
  { code := 15, engine := 3, info := BitVec.ofNat 32 (reason + obj % 32 * 2 ^ 8), faddr := 0 }

/-- CHANNEL raised at the instruction. -/
def chanFault (s : State) (reason obj : Nat) : Res := .trap s (chanExn reason obj)

/-! ### Ports -/

/-- The span of a queue that a CONFIG value names. -/
def queueSpan (cfg : Nat) : Nat × Nat := (bits cfg 19 0, 2 ^ bits cfg 23 20 * entryBytes (bits cfg 26 24))

/-- A CONFIG operand that Table 12.1 and R234 allow. -/
def configOk (cfg : Nat) : Bool :=
  let q := queueSpan cfg
  decide (4 ≤ bits cfg 23 20 ∧ bits cfg 23 20 ≤ 12 ∧ bits cfg 26 24 ≤ 4 ∧ bits cfg 31 27 = 0 ∧ bits cfg 37 32 ≤ 47 ∧
    bits cfg 39 39 = 0 ∧ bits cfg 63 40 = 0 ∧ q.1 % q.2 = 0 ∧ q.1 + q.2 ≤ 0x78000)

/-- A queue overlaps that of another live port of the core. -/
def queueOverlaps (s : State) (c p cfg : Nat) : Bool :=
  let a := queueSpan cfg
  (List.range 32).any fun q => q != p && portLive s c q &&
    (let b := queueSpan (portWord s c q 1); decide (a.1 < b.1 + b.2 ∧ b.1 < a.1 + a.2))

/-- PORT_CREATE (R233, R234, R236). -/
def bodyPortCreate (rd rs1 rs2 : BitVec 5) (s : State) (k : Nat) : Res :=
  if rd ≠ 0 then illegal s
  else if inTx s k then txIllegal s
  else
    let c := k / 8
    let p := (rx s k rs1).toNat
    let cfg := (rx s k rs2).toNat
    if 31 < p ∨ !configOk cfg then chanFault s 1 p
    else if portLive s c p then chanFault s 2 p
    else if queueOverlaps s c p cfg then chanFault s 9 p
    else
      let gen := (portGen s c p + 1) % 256
      let s := [2, 3, 4, 5, 6, 7].foldl (fun s w => setPortWord s c p w 0) s
      .done (setPortWord (setPortWord s c p 1 (cfg + (k % 8) * 2 ^ 40)) c p 0 (portStatus 0 0 0 true false gen))

/-- A port that the thread owns, for PORT_FREE, PORT_POP and DISPATCH. -/
def ownPort (s : State) (k : Nat) (v : W64) (act : Nat → Res) : Res :=
  let p := v.toNat
  if 31 < p then chanFault s 1 p
  else if !portLive s (k / 8) p || portOwner s (k / 8) p != k % 8 then chanFault s 3 p
  else act p

/-- PORT_FREE (R244). -/
def bodyPortFree (rd rs1 rs2 : BitVec 5) (s : State) (k : Nat) : Res :=
  if rd ≠ 0 ∨ rs2 ≠ 0 then illegal s
  else if inTx s k then txIllegal s
  else ownPort s k (rx s k rs1) fun p => .done (freePort s (k / 8) p)

/-- PORT_POP (R242). -/
def bodyPortPop (rd rs1 rs2 : BitVec 5) (s : State) (k : Nat) : Res :=
  if rd ≠ 0 then illegal s
  else if inTx s k then txIllegal s
  else ownPort s k (rx s k rs1) fun p =>
    let c := k / 8
    let n := if rs2 = 0 then 1 else (rx s k rs2).toNat
    if n = 0 ∨ portCount s c p < n then chanFault s 4 p
    else
      let w3 := portWord s c p 3
      let s1 := setPortWord s c p 3 (w3 % 2 ^ 32 + (w3 / 2 ^ 32 + n) % 2 ^ 32 * 2 ^ 32)
      .done (setPortWord s1 c p 0 (portStatus (portCount s c p - n) ((portHead s c p + n) % portSize s c p) (portResv s c p) true
        (portBlocked s c p) (portGen s c p)))

/-- Core offset of a handler table entry (R243). -/
def handlerOff (h : Nat) : Nat := 0x7A800 + 8 * h

/-- DISPATCH (R243). -/
def bodyDispatch (rd rs1 rs2 : BitVec 5) (s : State) (k : Nat) : Res :=
  if rd ≠ 0 ∨ rs2 ≠ 0 then illegal s
  else if inTx s k then txIllegal s
  else ownPort s k (rx s k rs1) fun p =>
    let c := k / 8
    if portArity s c p ≠ 0 then chanFault s 3 p
    else if portCount s c p = 0 then .done (wx s k 10 0)
    else
      let o := entryOff s c p (portHead s c p)
      if lineLocked s (.store c o) then .wait s
      else if homePoison s (.store c o) then .trap s (poisonExn 3 1 1 (2 ^ 40 + c * 2 ^ 20 + o))
      else
        let h := (homeRead s (.store c o) 1).headD 0
        let e := leNat (homeRead s (.store c (handlerOff (h.toNat % 64))) 8)
        if lineLocked s (.store c (handlerOff (h.toNat % 64))) then .wait s
        else if e = 0 ∨ e % 2 = 1 then chanFault s 7 p
        else
          let a := if lvlOf s k = 2 then 2 ^ 40 + c * 2 ^ 20 + o else o
          let s1 := wx (wx s k 10 (BitVec.ofNat 64 a)) k 11 (BitVec.ofNat 64 p)
          .jump (wx s1 k 31 ((thr s k).pc + 4)) (BitVec.ofNat 64 e)

/-- HSET (R237); it waits while a commit holds the entry's line (R228). -/
def bodyHset (rd rs1 rs2 : BitVec 5) (s : State) (k : Nat) : Res :=
  if rd ≠ 0 then illegal s
  else if inTx s k then txIllegal s
  else if lvlOf s k = 0 then .trap s (scalarExn 4 0)
  else
    let i := (rx s k rs1).toNat
    if 63 < i then chanFault s 1 i
    else if lineLocked s (.store (k / 8) (handlerOff i)) then .wait s
    else .done (homeWrite s (.store (k / 8) (handlerOff i)) (offsets (leBytes 8 (rx s k rs2).toNat)) false none)

/-! ### Handles (R238) -/

/-- The core that an OPEN name names, if it is good. -/
def openCore (s : State) (k : Nat) (v : Nat) : Option Nat :=
  let c := bits v 15 5
  if bits v 63 17 ≠ 0 then none
  else if bit v 16 then (if c = 0 then (if goodCore s (k / 8) then some (k / 8) else none) else none)
  else if lvlOf s k = 2 then (if goodCore s c then some c else none)
  else (ctxOf s k).bind fun x => logicalCore s x c

/-- OPEN (R238): the target's monitor is asked within the step (log entry 12). -/
def bodyOpen (rd rs1 rs2 : BitVec 5) (s : State) (k : Nat) : Res :=
  if rs2 ≠ 0 then illegal s
  else if inTx s k then txIllegal s
  else
    let v := (rx s k rs1).toNat
    let p := v % 32
    match openCore s k v with
    | none => chanFault s 8 p
    | some c =>
      if !portLive s c p then .done (wx s k rd (BitVec.ofNat 64 (2 ^ 63 + 3)))
      else match Tbl.free (thr s k).handles 0 16 with
        | none => .done (wx s k rd (BitVec.ofNat 64 (2 ^ 63 + 4)))
        | some i =>
          let h : Handle := { core := c, port := p, arity := portArity s c p, gen := portGen s c p }
          .done (wx (modThr s k fun t => { t with handles := Tbl.set t.handles i h }) k rd (BitVec.ofNat 64 i))

/-- An open handle of a thread. -/
def withHandle (s : State) (k : Nat) (v : W64) (act : Nat → Handle → Res) : Res :=
  match Tbl.get? (thr s k).handles v.toNat with
  | none => chanFault s 5 v.toNat
  | some h => act v.toNat h

/-- CLOSE (R238). -/
def bodyClose (rd rs1 rs2 : BitVec 5) (s : State) (k : Nat) : Res :=
  if rd ≠ 0 ∨ rs2 ≠ 0 then illegal s
  else if inTx s k then txIllegal s
  else withHandle s k (rx s k rs1) fun i _ =>
    .done (modThr s k fun t =>
      { t with handles := Tbl.erase t.handles i
               staged := if t.stageHandle = some i then [] else t.staged
               stageHandle := if t.stageHandle = some i then none else t.stageHandle })

/-! ### Sending (R239 to R241) -/

/-- Words that a tuple of a handle has. -/
def tupleWords (h : Handle) : Nat := if h.arity = 0 then 8 else h.arity

/-- Stage a tuple in the ledger and empty the staging buffer (Table 11.4): what is staged from then on was staged after TXB
(R218). -/
def stageTuple (s : State) (k i : Nat) (words : List W64) (rd : BitVec 5) : Res :=
  if 8 ≤ (thr s k).tx.tuples.length then .abort s 2 0 5 0xFFFF
  else
    let s := modTx s k fun x =>
      { x with tuples := x.tuples ++ [{ seq := x.ctrs.length + x.tuples.length, handle := i, words := words }], stagedBefore := 0 }
    .done (wx (modThr s k fun t => { t with staged := [], stageHandle := none }) k rd 0)

/-- Publish a tuple: the instruction waits for the monitor's answer (R240); `paused` is the count at which the last attempt was
answered FULL, if there was one. -/
def publish (s : State) (k i : Nat) (h : Handle) (words : List W64) (rd : BitVec 5) (fromStage blocking : Bool) (start : Nat)
    (paused : Option Nat) : State :=
  sendTuple (modThr s k fun t => { t with wait := some (.send rd i words fromStage blocking true start paused) }) k h words false

/-- SEND and TSEND (R239). -/
def bodySend (blocking : Bool) (rd rs1 rs2 : BitVec 5) (s : State) (k : Nat) : Res :=
  withHandle s k (rx s k rs1) fun i h =>
    if !(thr s k).staged.isEmpty || h.arity != 1 then chanFault s 6 i
    else if inTx s k then stageTuple s k i [rx s k rs2] rd
    else .wait (publish s k i h [rx s k rs2] rd false blocking (pacerOf s (k / 64)) none)

/-- The staging buffer is free or bound to this handle. -/
def stageFor (s : State) (k i : Nat) : Bool := (thr s k).staged.isEmpty || (thr s k).stageHandle == some i

/-- SEND.M (R239). -/
def bodySendM (rd rs1 rs2 : BitVec 5) (s : State) (k : Nat) : Res :=
  if rd ≠ 0 then illegal s
  else withHandle s k (rx s k rs1) fun i h =>
    if !stageFor s k i || decide (tupleWords h ≤ (thr s k).staged.length) then chanFault s 6 i
    else .done (modThr s k fun t => { t with staged := t.staged ++ [rx s k rs2], stageHandle := some i })

/-- SEND.END and TSEND.END (R239): a full buffer is published as it is. -/
def bodySendEnd (blocking : Bool) (rd rs1 rs2 : BitVec 5) (s : State) (k : Nat) : Res :=
  withHandle s k (rx s k rs1) fun i h =>
    let st := (thr s k).staged
    let words := if st.length = tupleWords h then st else st ++ [rx s k rs2]
    if !stageFor s k i || words.length != tupleWords h then chanFault s 6 i
    else if inTx s k then stageTuple s k i words rd
    else
      let s := modThr s k fun t => { t with staged := words, stageHandle := some i }
      .wait (publish s k i h words rd true blocking (pacerOf s (k / 64)) none)

/-! ### The monitor (R240, R244) -/

/-- What a monitor answers (Table 12.3). -/
inductive PubAnswer where
  | ok | full | closed
  deriving DecidableEq, Repr

/-- Count in a half of record word 2: DROP (low) or REFUSED (high). -/
def countPort (s : State) (c p : Nat) (high : Bool) : State :=
  let w := portWord s c p 2
  setPortWord s c p 2 (if high then w % 2 ^ 32 + bump32 true (w / 2 ^ 32) * 2 ^ 32 else bump32 true (w % 2 ^ 32) + w / 2 ^ 32 * 2 ^ 32)

/-- A publication of a thread at its monitor. -/
def monitor (s : State) (c p gen : Nat) (words : List W64) (held : Bool) (sender : Nat) : State × PubAnswer :=
  if !goodCore s c || !portLive s c p || portGen s c p != gen then (countCm (countPort s c p false) (c / 8) false, .closed)
  else if !held && decide (portSize s c p ≤ portCount s c p + portResv s c p) then
    let s := countPort s c p true
    (countCm (setPortWord s c p 0 (portStatus (portCount s c p) (portHead s c p) (portResv s c p) true true (portGen s c p))) (c / 8) false, .full)
  else (countCm (placeTuple s c p words held sender) (c / 8) true, .ok)

/-- The answer reaches the sender (R240, R241, R239): a blocking send that is refused pauses, unless a debug halt abandons it there. -/
def pubAnswered (s : State) (k : Nat) (a : PubAnswer) : State :=
  match (thr s k).wait with
  | some (.send rd i words fromStage blocking true start _) =>
    let clear (s : State) : State := if fromStage then modThr s k fun t => { t with staged := [], stageHandle := none } else s
    match a with
    | .ok => completeWait (wx (clear s) k rd 0) k 4
    | .closed => completeWait (wx (clear s) k rd 3) k 4
    | .full =>
      if blocking then
        modThr s k fun t => { t with wait := if t.dbg then none else some (.send rd i words fromStage blocking false start (some (pacerOf s (k / 64)))) }
      else completeWait (wx (modThr s k fun t => { t with staged := words, stageHandle := some i }) k rd 1) k 4
  | _ => s

/-- PUBLICATION (R240): the answer reaches the sender in the same step, so it waits while the sender's quadrant is held (R45). -/
def publication (m : Nat) (s : State) : State :=
  match arrived s m with
  | none => s
  | some x => match x.pay with
    | .publish c p gen words sender kept =>
      if held s x.dst || held s (sender / 64) then s
      else
        let r := monitor (inboxDrop s m) c p gen words kept sender
        if kept then r.1 else pubAnswered r.1 sender r.2
    | _ => s

/-- The Stall Limit of the thread's context (Table 12.4). -/
def stallLimit (s : State) (k : Nat) : Nat :=
  match (ctxOf s k).bind fun c => Tbl.get? s.ctxs c with | some x => x.stall | none => 0

/-- A blocking send publishes again after 64 pacer ticks (R241). -/
def sendRetry (s : State) (k : Nat) : State :=
  match (thr s k).wait with
  | some (.send rd i words fromStage true false start (some paused)) =>
    if pacerSince s (k / 64) paused < 64 then s
    else match Tbl.get? (thr s k).handles i with
      | none => s
      | some h => publish s k i h words rd fromStage true start (some paused)
  | _ => s

/-- The Stall Limit runs out (R241): STALLED, with CHANNEL_STALL on the context's ring. -/
def stallLimitExpiry (s : State) (k : Nat) : State :=
  match (thr s k).wait with
  | some (.send rd i words _ true false start _) =>
    if stallLimit s k = 0 ∨ pacerSince s (k / 64) start < stallLimit s k then s
    else
      let h := Tbl.getD (thr s k).handles i { core := 0, port := 0, arity := 0, gen := 0 }
      let s := match ctxOf s k with
        | some c => recordCtx s (k / 64) 2 k c 7 (BitVec.ofNat 64 (k + i * 2 ^ 16 + h.core * 2 ^ 32 + h.port * 2 ^ 48)) 0 0 0 0
        | none => s
      completeWait (wx (modThr s k fun t => { t with staged := words, stageHandle := some i }) k rd 2) k 4
  | _ => s

/-- PORT_CREATE. -/
def execPortCreate (h : Hart) (rd rs1 rs2 : BitVec 5) (s : State) : Out := issue h (.portCreate h rd rs1 rs2) 3 [rs1, rs2] (bodyPortCreate rd rs1 rs2) s
/-- PORT_FREE. -/
def execPortFree (h : Hart) (rd rs1 rs2 : BitVec 5) (s : State) : Out := issue h (.portFree h rd rs1 rs2) 3 [rs1] (bodyPortFree rd rs1 rs2) s
/-- PORT_POP. -/
def execPortPop (h : Hart) (rd rs1 rs2 : BitVec 5) (s : State) : Out := issue h (.portPop h rd rs1 rs2) 3 [rs1, rs2] (bodyPortPop rd rs1 rs2) s
/-- DISPATCH. -/
def execDispatch (h : Hart) (rd rs1 rs2 : BitVec 5) (s : State) : Out := issue h (.dispatch h rd rs1 rs2) 3 [rs1, 10, 11, 31] (bodyDispatch rd rs1 rs2) s
/-- HSET. -/
def execHset (h : Hart) (rd rs1 rs2 : BitVec 5) (s : State) : Out := issue h (.hset h rd rs1 rs2) 3 [rs1, rs2] (bodyHset rd rs1 rs2) s
/-- OPEN. -/
def execChanOpen (h : Hart) (rd rs1 rs2 : BitVec 5) (s : State) : Out := issue h (.chanOpen h rd rs1 rs2) 3 [rd, rs1] (bodyOpen rd rs1 rs2) s
/-- CLOSE. -/
def execChanClose (h : Hart) (rd rs1 rs2 : BitVec 5) (s : State) : Out := issue h (.chanClose h rd rs1 rs2) 3 [rs1] (bodyClose rd rs1 rs2) s
/-- SEND. -/
def execSend (h : Hart) (rd rs1 rs2 : BitVec 5) (s : State) : Out := issue h (.send h rd rs1 rs2) 3 [rd, rs1, rs2] (bodySend true rd rs1 rs2) s
/-- TSEND. -/
def execTsend (h : Hart) (rd rs1 rs2 : BitVec 5) (s : State) : Out := issue h (.tsend h rd rs1 rs2) 3 [rd, rs1, rs2] (bodySend false rd rs1 rs2) s
/-- SEND.M. -/
def execSendM (h : Hart) (rd rs1 rs2 : BitVec 5) (s : State) : Out := issue h (.sendM h rd rs1 rs2) 3 [rs1, rs2] (bodySendM rd rs1 rs2) s
/-- SEND.END. -/
def execSendEnd (h : Hart) (rd rs1 rs2 : BitVec 5) (s : State) : Out := issue h (.sendEnd h rd rs1 rs2) 3 [rd, rs1, rs2] (bodySendEnd true rd rs1 rs2) s
/-- TSEND.END. -/
def execTsendEnd (h : Hart) (rd rs1 rs2 : BitVec 5) (s : State) : Out := issue h (.tsendEnd h rd rs1 rs2) 3 [rd, rs1, rs2] (bodySendEnd false rd rs1 rs2) s
/-- PUBLICATION. -/
def execPublication (m : Nat) (s : State) : Out := .next (publication m s)
/-- SEND_RETRY. -/
def execSendRetry (core : BitVec 11) (thr : BitVec 3) (s : State) : Out := onThread core thr sendRetry s
/-- STALL_LIMIT_EXPIRY. -/
def execStallLimitExpiry (core : BitVec 11) (thr : BitVec 3) (s : State) : Out := onThread core thr stallLimitExpiry s

end Sys2Proof.Machine
end

