-- ==== Sys2Proof/Machine/Vector.lean ====
section
/-!
DEFINITION. The vector unit on registers (R106 to R109, R111, R112): arithmetic,
compares, predicate logic, moves, conversions and reductions.
-/
namespace Sys2Proof.Machine

/-! ### Arithmetic on one lane -/

/-- A floating operation on two lanes of a type. -/
def fOp (ty : Nat) (op : Fv → Fv → Fv) (a b : Nat) : Nat := pack (vFmt ty) (op (unpack (vFmt ty) a) (unpack (vFmt ty) b))

/-- VARITH on a floating type (Table 5.3); `none` is reserved. -/
def arithFloat (ty fn : Nat) : Option (Nat → Nat → Nat) :=
  match fn with
  | 0 => some (fOp ty Fv.add)
  | 1 => some (fOp ty fun a b => a.add b.neg)
  | 2 => some (fOp ty Fv.mul)
  | 3 => some (fOp ty Fv.div)
  | 4 => some (fOp ty Fv.min)
  | 5 => some (fOp ty Fv.max)
  | 6 => some (fOp ty fun a _ => a.abs)
  | 7 => some (fOp ty fun a _ => a.neg)
  | 8 => some (fOp ty fun a _ => a.sqrt)
  | _ => none

/-- VARITH on an integer type of `e` bits (R107, Table 5.3). -/
def arithInt (e fn : Nat) : Option (Nat → Nat → Nat) :=
  let m := 2 ^ e
  match fn with
  | 0 => some fun a b => (a + b) % m
  | 1 => some fun a b => (a + m - b) % m
  | 2 => some fun a b => a * b % m
  | 4 => some fun a b => if bitsInt e a ≤ bitsInt e b then a else b
  | 5 => some fun a b => if bitsInt e a ≤ bitsInt e b then b else a
  | 6 => some fun a _ => if bit a (e - 1) then (m - a) % m else a
  | 7 => some fun a _ => (m - a) % m
  | 9 => some fun a b => a &&& b
  | 10 => some fun a b => a ||| b
  | 11 => some fun a b => a ^^^ b
  | 12 => some fun a b => a * 2 ^ (b % e) % m
  | 13 => some fun a b => a / 2 ^ (b % e)
  | 14 => some fun a b => intBits e (bitsInt e a / 2 ^ (b % e))
  | _ => none

/-- The lane function of a VARITH form. -/
def arithFn (ty fn : Nat) : Option (Nat → Nat → Nat) := if vFloat ty then arithFloat ty fn else arithInt (vBits ty) fn

/-- VABS, VNEG and VSQRT take one operand, and their vs2 field is zero. -/
def oneOperand (fn : Nat) : Bool := fn == 6 || fn == 7 || fn == 8

/-- VARITH (R106, R107). -/
def bodyVarith (f : VFields) (fn : BitVec 4) (s : State) (k : Nat) : Res :=
  let ty := f.ty.toNat
  if oneOperand fn.toNat ∧ f.vs2 ≠ 0 then illegal s
  else match arithFn ty fn.toNat with
    | none => illegal s
    | some g =>
      let a := rv s k f.vs1.toNat
      let b := rv s k f.vs2.toNat
      .done (wLanes s k f fun i => g (laneOf (vBits ty) a i) (laneOf (vBits ty) b i))

/-! ### The FMA family (R109, Table 5.4) -/

/-- One lane of VFMA (0), VFNMA (1), VFMS (2) or VFNMS (3): `d` + `a` × `b` with its signs. -/
def fmaLane (ty fn : Nat) (d a b : Nat) : Nat :=
  if vFloat ty then
    let u := unpack (vFmt ty)
    let p := (u a).mul (u b)
    let d := u d
    pack (vFmt ty) (match fn with
      | 0 => d.add p
      | 1 => d.add p.neg
      | 2 => p.add d.neg
      | _ => p.neg.add d.neg)
  else
    let m := 2 ^ vBits ty
    if fn = 0 then (d + a * b) % m else (d + m - a * b % m) % m

/-- A form of Table 5.4 that its type allows. -/
def fmaOk (ty fn : Nat) : Bool := decide (fn < 4) && (vFloat ty || decide (fn < 2))

/-- VFMA and its kin. -/
def bodyVfma (f : VFields) (fn : BitVec 4) (s : State) (k : Nat) : Res :=
  let ty := f.ty.toNat
  let e := vBits ty
  let paired := decide (8 ≤ fn.toNat)
  let op := fn.toNat % 8
  let d := f.vd.toNat
  let a := f.vs1.toNat
  let b := f.vs2.toNat
  if !fmaOk ty op then illegal s
  else
    let half (j : Nat) : V512 :=
      mergeLanes s k f.pg.toNat e (rv s k (d + j)) fun i =>
        fmaLane ty op (laneOf e (rv s k (d + j)) i) (laneOf e (rv s k (a + j)) i) (laneOf e (rv s k b) i)
    if paired then
      if d % 2 ≠ 0 ∨ a % 2 ≠ 0 ∨ b = d ∨ b = d + 1 then illegal s
      else .done (wv (wv s k d (half 0)) k (d + 1) (half 1))
    else .done (wv s k d (half 0))

/-! ### Compares and predicates (Table 5.5) -/

/-- The relation of a compare on one pair of lanes; `none` is reserved for the type. -/
def cmpFn (ty fn : Nat) : Option (Nat → Nat → Bool) :=
  let e := vBits ty
  if vFloat ty then
    let u := unpack (vFmt ty)
    match fn with
    | 0 => some fun a b => (u a).eq (u b)
    | 1 => some fun a b => !(u a).eq (u b)
    | 2 => some fun a b => (u a).lt (u b)
    | 3 => some fun a b => (u a).lt (u b) || (u a).eq (u b)
    | 6 => some fun a b => (u a).isNan || (u b).isNan
    | _ => none
  else
    match fn with
    | 0 => some fun a b => a == b
    | 1 => some fun a b => a != b
    | 2 => some fun a b => decide (bitsInt e a < bitsInt e b)
    | 3 => some fun a b => decide (bitsInt e a ≤ bitsInt e b)
    | 4 => some fun a b => decide (a < b)
    | 5 => some fun a b => decide (a ≤ b)
    | _ => none

/-- A field that names a predicate: its upper bits are zero (R108). -/
def isPred (f : BitVec 5) : Bool := decide (f.toNat < 8)

/-- VCMP (Table 5.5): the bit of a lane is 1 if the lane is active and the relation holds, and 0 otherwise, so an inactive lane's bit is
written 0 (DEDUCED, log entry 40: what R105 keeps is an inactive lane of a vector). -/
def bodyVcmp (f : VFields) (fn : BitVec 4) (s : State) (k : Nat) : Res :=
  let ty := f.ty.toNat
  let e := vBits ty
  if !isPred f.vd then illegal s
  else match cmpFn ty fn.toNat with
    | none => illegal s
    | some g =>
      let a := rv s k f.vs1.toNat
      let b := rv s k f.vs2.toNat
      .done (wp s k f.vd.toNat (fromBits (vLanes ty) fun i => laneActive s k f.pg.toNat i && g (laneOf e a i) (laneOf e b i)))

/-- Predicate logic: bits at or above the lane count are zero. -/
def bodyPred (op : W64 → W64 → W64) (f : VFields) (s : State) (k : Nat) : Res :=
  if !isPred f.vd || !isPred f.vs1 || !isPred f.vs2 || f.pg != 0 then illegal s
  else
    let v := op (rp s k f.vs1.toNat) (rp s k f.vs2.toNat)
    .done (wp s k f.vd.toNat (fromBits (vLanes f.ty.toNat) fun i => bit v.toNat i))

/-- PWHILE: bit i where a + i < b, signed and exact. -/
def bodyPwhile (f : VFields) (s : State) (k : Nat) : Res :=
  if !isPred f.vd || f.pg != 0 then illegal s
  else
    let a := (rx s k f.vs1).toInt
    let b := (rx s k f.vs2).toInt
    .done (wp s k f.vd.toNat (fromBits (vLanes f.ty.toNat) fun i => decide (a + i < b)))

/-- PCOUNT. -/
def bodyPcount (f : VFields) (s : State) (k : Nat) : Res :=
  if !isPred f.vs1 || f.vs2 != 0 || f.pg != 0 then illegal s
  else .done (wx s k f.vd (BitVec.ofNat 64 (popCount (rp s k f.vs1.toNat).toNat (vLanes f.ty.toNat))))

/-! ### Moves (Table 5.7) -/

/-- VBCAST. -/
def bodyVbcast (f : VFields) (s : State) (k : Nat) : Res :=
  if f.vs2 ≠ 0 then illegal s else .done (wLanes s k f fun _ => (rx s k f.vs1).toNat)

/-- VEXT: sign-extended for integers, zero-extended for floating types. -/
def bodyVext (f : VFields) (s : State) (k : Nat) : Res :=
  if f.pg ≠ 0 then illegal s
  else
    let ty := f.ty.toNat
    let v := laneOf (vBits ty) (rv s k f.vs1.toNat) ((rx s k f.vs2).toNat % vLanes ty)
    .done (wx s k f.vd (if vFloat ty then BitVec.ofNat 64 v else sext64 (vBits ty) v))

/-- VINS. -/
def bodyVins (f : VFields) (s : State) (k : Nat) : Res :=
  if f.pg ≠ 0 then illegal s
  else
    let ty := f.ty.toNat
    let n := (rx s k f.vs2).toNat % vLanes ty
    let old := rv s k f.vd.toNat
    .done (wv s k f.vd.toNat (fromLanes (vBits ty) fun i => if i = n then (rx s k f.vs1).toNat else laneOf (vBits ty) old i))

/-- One lane of a conversion (R112). -/
def cvtLane (src dst v : Nat) : Nat :=
  if vFloat src then
    let x := unpack (vFmt src) v
    if vFloat dst then pack (vFmt dst) x else intBits (vBits dst) (toInt (vBits dst) x)
  else
    let x := bitsInt (vBits src) v
    if vFloat dst then pack (vFmt dst) (ofInt x) else intBits (vBits dst) x

/-- VCVT (R112): an active lane at or above the source's lane count becomes zero. -/
def bodyVcvt (f : VFields) (s : State) (k : Nat) : Res :=
  let dst := f.ty.toNat
  let src := f.vs2.toNat
  if 8 ≤ src ∨ src = dst then illegal s
  else
    let a := rv s k f.vs1.toNat
    .done (wLanes s k f fun i => if i < vLanes src then cvtLane src dst (laneOf (vBits src) a i) else 0)

/-- VPERM. -/
def bodyVperm (f : VFields) (s : State) (k : Nat) : Res :=
  let ty := f.ty.toNat
  let e := vBits ty
  let a := rv s k f.vs1.toNat
  let b := rv s k f.vs2.toNat
  .done (wLanes s k f fun i => laneOf e a (laneOf e b i % vLanes ty))

/-! ### Reductions (R111) -/

/-- The identity and the step of a reduction: 0 VREDSUM, 1 VREDMIN, 2 VREDMAX. -/
def redFn (ty which : Nat) : Nat × (Nat → Nat → Nat) :=
  let e := vBits ty
  if vFloat ty then
    let f := vFmt ty
    match which with
    | 0 => (0, fOp ty Fv.add)
    | 1 => (pack f (.inf false), fOp ty Fv.min)
    | _ => (pack f (.inf true), fOp ty Fv.max)
  else
    match which with
    | 0 => (0, fun a b => (a + b) % 2 ^ e)
    | 1 => (2 ^ (e - 1) - 1, fun a b => if bitsInt e a ≤ bitsInt e b then a else b)
    | _ => (2 ^ (e - 1), fun a b => if bitsInt e a ≤ bitsInt e b then b else a)

/-- A reduction in ascending lane order; lanes 1 and up become zero. -/
def bodyVred (which : Nat) (f : VFields) (s : State) (k : Nat) : Res :=
  if f.vs2 ≠ 0 then illegal s
  else
    let ty := f.ty.toNat
    let a := rv s k f.vs1.toNat
    let g := redFn ty which
    let r := (List.range (vLanes ty)).foldl (fun acc i => if laneActive s k f.pg.toNat i then g.2 acc (laneOf (vBits ty) a i) else acc) g.1
    .done (wv s k f.vd.toNat (BitVec.ofNat 512 r))

/-- VARITH. -/
def execVarith (h : Hart) (f : VFields) (fn : BitVec 4) (s : State) : Out := issue h (.varith h f fn) 1 [] (bodyVarith f fn) s
/-- VFMA. -/
def execVfma (h : Hart) (f : VFields) (fn : BitVec 4) (s : State) : Out := issue h (.vfma h f fn) 1 [] (bodyVfma f fn) s
/-- VCMP. -/
def execVcmp (h : Hart) (f : VFields) (fn : BitVec 4) (s : State) : Out := issue h (.vcmp h f fn) 1 [] (bodyVcmp f fn) s
/-- PAND. -/
def execPand (h : Hart) (f : VFields) (s : State) : Out := issue h (.pand h f) 1 [] (bodyPred (fun a b => a &&& b) f) s
/-- POR. -/
def execPor (h : Hart) (f : VFields) (s : State) : Out := issue h (.por h f) 1 [] (bodyPred (fun a b => a ||| b) f) s
/-- PXOR. -/
def execPxor (h : Hart) (f : VFields) (s : State) : Out := issue h (.pxor h f) 1 [] (bodyPred (fun a b => a ^^^ b) f) s
/-- PANDN. -/
def execPandn (h : Hart) (f : VFields) (s : State) : Out := issue h (.pandn h f) 1 [] (bodyPred (fun a b => a &&& ~~~ b) f) s
/-- PWHILE. -/
def execPwhile (h : Hart) (f : VFields) (s : State) : Out := issue h (.pwhile h f) 1 [f.vs1, f.vs2] (bodyPwhile f) s
/-- PCOUNT. -/
def execPcount (h : Hart) (f : VFields) (s : State) : Out := issue h (.pcount h f) 1 [f.vd] (bodyPcount f) s
/-- VBCAST. -/
def execVbcast (h : Hart) (f : VFields) (s : State) : Out := issue h (.vbcast h f) 1 [f.vs1] (bodyVbcast f) s
/-- VEXT. -/
def execVext (h : Hart) (f : VFields) (s : State) : Out := issue h (.vext h f) 1 [f.vd, f.vs2] (bodyVext f) s
/-- VINS. -/
def execVins (h : Hart) (f : VFields) (s : State) : Out := issue h (.vins h f) 1 [f.vs1, f.vs2] (bodyVins f) s
/-- VCVT. -/
def execVcvt (h : Hart) (f : VFields) (s : State) : Out := issue h (.vcvt h f) 1 [] (bodyVcvt f) s
/-- VPERM. -/
def execVperm (h : Hart) (f : VFields) (s : State) : Out := issue h (.vperm h f) 1 [] (bodyVperm f) s
/-- VREDSUM. -/
def execVredsum (h : Hart) (f : VFields) (s : State) : Out := issue h (.vredsum h f) 1 [] (bodyVred 0 f) s
/-- VREDMIN. -/
def execVredmin (h : Hart) (f : VFields) (s : State) : Out := issue h (.vredmin h f) 1 [] (bodyVred 1 f) s
/-- VREDMAX. -/
def execVredmax (h : Hart) (f : VFields) (s : State) : Out := issue h (.vredmax h f) 1 [] (bodyVred 2 f) s

end Sys2Proof.Machine
end

