-- ==== Sys2Proof/Machine/VectorMem.lean ====
section
/-!
DEFINITION. Vector loads and stores, gathers and scatters (R110, R113 to R115, Table 5.6). A load, a gather and a scatter hold their
thread until every lane is answered; a store retires once its accesses are sent, and its errors are deferred faults (R190; log
entry 30).
-/
namespace Sys2Proof.Machine

/-! ### VLD, VST and their kin -/

/-- The active lanes of an access with their addresses; a pair's second register follows 64 bytes on. -/
def accessLanes (s : State) (k : Nat) (f : VFields) (strided pair : Bool) : List (Nat × W64) :=
  let e := vBits f.ty.toNat
  let base := rx s k f.vs1
  let o := rx s k f.vs2
  let one (j : Nat) : List (Nat × W64) := ((List.range (vLanes f.ty.toNat)).filter fun i => laneActive s k f.pg.toNat i).map fun i =>
    (j * vLanes f.ty.toNat + i, if strided then base + BitVec.ofNat 64 i * o else base + o + BitVec.ofNat 64 (64 * j + i * (e / 8)))
  if pair then one 0 ++ one 1 else one 0

/-- A register with the lanes that were read. -/
def putLanes (e : Nat) (old : V512) (first : Nat) (got : List (Nat × List Byte)) : V512 :=
  fromLanes e fun i => match got.find? fun g => g.1 == first + i with
    | some g => leNat g.2
    | none => laneOf e old i

/-- A contiguous or strided vector load. -/
def bodyVload (strided pair : Bool) (f : VFields) (s : State) (k : Nat) : Res :=
  if pair && f.vd.toNat % 2 != 0 then illegal s
  else
    let e := vBits f.ty.toNat
    let d := f.vd.toNat
    let lanes := accessLanes s k f strided pair
    runLanes s k 1 (e / 8) false false true lanes (fun _ => []) fun s j =>
      let got := lanesGot j (e / 8) lanes
      let s1 := wv s k d (putLanes e (rv s k d) 0 got)
      .done (if pair then wv s1 k (d + 1) (putLanes e (rv s k (d + 1)) (vLanes f.ty.toNat) got) else s1)

/-- A contiguous or strided vector store. -/
def bodyVstore (strided pair : Bool) (f : VFields) (s : State) (k : Nat) : Res :=
  if pair && f.vd.toNat % 2 != 0 then illegal s
  else
    let e := vBits f.ty.toNat
    let n := vLanes f.ty.toNat
    runLanes s k 1 (e / 8) true true true (accessLanes s k f strided pair)
      (fun i => leBytes (e / 8) (laneOf e (rv s k (f.vd.toNat + i / n)) (i % n))) fun s _ => .done s

/-- VLDB: one element into every active lane. -/
def bodyVldb (f : VFields) (s : State) (k : Nat) : Res :=
  let e := vBits f.ty.toNat
  match (List.range (vLanes f.ty.toNat)).find? fun i => laneActive s k f.pg.toNat i with
  | none => .done s
  | some i =>
    runLanes s k 1 (e / 8) false false true [(i, rx s k f.vs1 + rx s k f.vs2)] (fun _ => []) fun s j =>
      .done (wLanes s k f fun _ => leNat (Tbl.getD j.got 0 []))

/-! ### VGATHER and VSCATTER (R113 to R115) -/

/-- The address of a gather's lane. -/
def gatherAddr (s : State) (k : Nat) (f : VFields) (i : Nat) : W64 :=
  rx s k f.vs1 + sext64 (vBits f.ty.toNat) (laneOf (vBits f.ty.toNat) (rv s k f.vs2.toNat) i)

/-- The lane that a gather or scatter issues next: the lowest active one that is neither complete nor issued. -/
def nextLane (s : State) (k : Nat) (f : VFields) : Option Nat :=
  (List.range (vLanes f.ty.toNat)).find? fun i =>
    laneActive s k f.pg.toNat i && !bit (thr s k).sys.vprog.toNat i && !(jobOf s k).parts.any fun p => p.place == i

/-- A gather or scatter type, and VPROG clear above its lanes. -/
def gatherOk (s : State) (k : Nat) (f : VFields) : Bool :=
  (f.ty == 0 || f.ty == 1 || f.ty == 4 || f.ty == 5) && decide ((thr s k).sys.vprog.toNat < 2 ^ vLanes f.ty.toNat)

/-- Every lane is complete: inside a transaction the gathered lanes are written now, and VPROG is 0. -/
def gatherFin (s : State) (k : Nat) (f : VFields) (write : Bool) : State :=
  let j := jobOf s k
  let s := if inTx s k then
      ((List.range j.parts.length).zip j.parts).foldl (fun s p => laneDone s k f write p.2.place (Tbl.getD j.got p.1 [])) s
    else s
  modSys s k fun y => { y with vprog := 0 }

/-- Where a gather or scatter stands: lanes are in flight; it faults at the lowest lane that failed; it is complete; or it goes on. -/
def gatherEnd (s : State) (k : Nat) (f : VFields) (write : Bool) : Res :=
  if !(jobOf s k).quiet then .hold s
  else match lowestBad (jobOf s k) with
    | some e => .trap s e
    | none => if (nextLane s k f).isNone then .done (gatherFin s k f write) else .hold s

/-- Issue lanes in ascending order, up to a number of them: each only after every lower one has passed its checks, and none after one
that failed (R113, R114). A host page is asked for once the lanes issued are answered. -/
def gatherGo (f : VFields) (write : Bool) (k : Nat) : Nat → State → Res
  | 0, s => gatherEnd s k f write
  | n + 1, s =>
    match if (lowestBad (jobOf s k)).isSome then none else nextLane s k f with
    | none => gatherEnd s k f write
    | some i =>
      let e := vBits f.ty.toNat
      let va := gatherAddr s k f i
      match checkPiece s k 1 i (if write then .write else .read) va (e / 8) with
      | .bad x => gatherEnd (placeFailed s k i x) k f write
      | .abort => txIllegal s
      | .ask l h x => if (jobOf s k).quiet then .hold (askHost s k l h va write (.instr x)) else .hold s
      | .at x =>
        let p : Part := { place := i, side := false, va := va, x := x, len := e / 8, data := leBytes (e / 8) (laneOf e (rv s k f.vd.toNat) i) }
        let s1 := modJob (notePieces s k [va]) k fun j => { j with parts := j.parts ++ [p] }
        match sendParts k 1 write false 1 s1 with
        | .abort s2 c d node => .abort s2 c 0 d node
        | .ok s2 =>
          if (jobOf s2 k).sent = (jobOf s2 k).parts.length then gatherGo f write k n s2
          else gatherEnd (modJob s2 k fun j => { j with parts := j.parts.dropLast }) k f write

/-- VGATHER and VSCATTER; `slots` lanes at most are issued in this step. -/
def bodyGather (write : Bool) (f : VFields) (slots : Nat) (s : State) (k : Nat) : Res :=
  if !gatherOk s k f then illegal s
  else gatherGo f write k slots (modJob s k fun j => { j with kind := .gather f write, firm := false })

/-- VLD. -/
def execVld (h : Hart) (f : VFields) (s : State) : Out := issue h (.vld h f) 1 [f.vs1, f.vs2] (bodyVload false false f) s
/-- VST. -/
def execVst (h : Hart) (f : VFields) (s : State) : Out := issue h (.vst h f) 1 [f.vs1, f.vs2] (bodyVstore false false f) s
/-- VLDS. -/
def execVlds (h : Hart) (f : VFields) (s : State) : Out := issue h (.vlds h f) 1 [f.vs1, f.vs2] (bodyVload true false f) s
/-- VSTS. -/
def execVsts (h : Hart) (f : VFields) (s : State) : Out := issue h (.vsts h f) 1 [f.vs1, f.vs2] (bodyVstore true false f) s
/-- VLDB. -/
def execVldb (h : Hart) (f : VFields) (s : State) : Out := issue h (.vldb h f) 1 [f.vs1, f.vs2] (bodyVldb f) s
/-- VLD2. -/
def execVld2 (h : Hart) (f : VFields) (s : State) : Out := issue h (.vld2 h f) 1 [f.vs1, f.vs2] (bodyVload false true f) s
/-- VST2. -/
def execVst2 (h : Hart) (f : VFields) (s : State) : Out := issue h (.vst2 h f) 1 [f.vs1, f.vs2] (bodyVstore false true f) s
/-- VGATHER. -/
def execVgather (h : Hart) (f : VFields) (s : State) : Out := issue h (.vgather h f) 1 [f.vs1] (bodyGather false f h.slots) s
/-- VSCATTER. -/
def execVscatter (h : Hart) (f : VFields) (s : State) : Out := issue h (.vscatter h f) 1 [f.vs1] (bodyGather true f h.slots) s

end Sys2Proof.Machine
end

