-- ==== Sys2Proof/Machine/Streams.lean ====
section
/-!
DEFINITION. Stream regions (R247 to R268): queues and credits, steering units, the cores' stream operands
(R116, R256), and the change of section (Table 13.7). The commands that load and change regions stand in
Machine/StreamCmds.lean.
-/
namespace Sys2Proof.Machine

/-! ### Configuration fields (Tables 13.2 to 13.5) -/

/-- DEPTH of a queue. -/
def queueDepth (s : State) (n q : Nat) : Nat := bits (Tbl.getD (bench s n).qcfg q 0).toNat 8 0
/-- CKIND of a queue. -/
def queueCkind (s : State) (n q : Nat) : Nat := bits (Tbl.getD (bench s n).qcfg q 0).toNat 10 9
/-- CIDX of a queue. -/
def queueCidx (s : State) (n q : Nat) : Nat := bits (Tbl.getD (bench s n).qcfg q 0).toNat 19 16

/-- KIND of a unit. -/
def unitKind (s : State) (n u : Nat) : Nat := bits (Tbl.getD (bench s n).ucfg0 u 0).toNat 2 0

/-- Input `i` of a unit (0 IN0, 1 IN1, 2 CIN), where it is in use. -/
def unitIn (s : State) (n u i : Nat) : Option Nat :=
  let w := (Tbl.getD (bench s n).ucfg0 u 0).toNat
  if bit w (15 + 8 * i) then some (bits w (12 + 8 * i) (8 + 8 * i)) else none

/-- The queue that a reference of a region names: node and queue (Table 13.2). -/
def refQueue (r : Region) (ref : Nat) : Nat × Nat := ((r.y0 + bits ref 7 4) * 16 + r.x0 + bits ref 3 0, bits ref 12 8)

/-- The region that a bench takes part in. -/
def benchRegion (s : State) (n : Nat) : Option Region :=
  if (bench s n).ssLoaded then Tbl.get? s.regions (bench s n).ssRegion else none

/-- Output `i` of a unit, where it is in use. -/
def unitOut (s : State) (n u i : Nat) : Option (Nat × Nat) :=
  let ref := bits (Tbl.getD (bench s n).ucfg1 u 0).toNat (16 * i + 15) (16 * i)
  if bit ref 15 then (benchRegion s n).map fun r => refQueue r ref else none

/-- ZBIND of operand `z` of a core (Table 13.4). -/
def zbindOf (s : State) (c z : Nat) : Nat :=
  bits (Tbl.getD (bench s (c / 8)).zbind (2 * (c % 8) + z / 4) 0).toNat (16 * (z % 4) + 15) (16 * (z % 4))

/-- What an operand is bound to: nothing, an input queue of the bench, or an output queue. -/
inductive Bound where
  | none
  | input (q : Nat)
  | output (n q : Nat)
  deriving DecidableEq, Repr

/-- The binding of an operand in force (R256); a bench of no loaded region binds nothing (R265). -/
def boundTo (s : State) (c z : Nat) : Bound :=
  match benchRegion s (c / 8) with
  | none => .none
  | some r =>
    let b := zbindOf s c z
    if !bit b 15 then .none
    else if bit b 14 then let o := refQueue r b; .output o.1 o.2
    else .input (bits b 12 8)

/-! ### Stall counters (R259) -/

/-- Count a stall beat: `qu` true for a queue; `i` its number; `w` 0 for EMPTY or IN, 1 for FULL or OUT. -/
def countStall (s : State) (n : Nat) (qu : Bool) (i w : Nat) : State :=
  let b := bench s n
  if !b.ssEn then s
  else
    let r := wrapAdd (Tbl.getD (if qu then b.qstall else b.ustall) (2 * i + w) 0) 1
    let s := modBench s n fun b =>
      if qu then { b with qstall := Tbl.set b.qstall (2 * i + w) r.1 } else { b with ustall := Tbl.set b.ustall (2 * i + w) r.1 }
    if r.2 then
      let at_ := (if qu then 0 else 48) + 2 * i + w
      let old := (bench s n).ssWrap
      let s := modBench s n fun b => { b with ssWrap := b.ssWrap ||| BitVec.ofNat 64 (2 ^ at_) }
      countWrap s n 0x50010 at_ true old.toNat
    else s

/-! ### Entries and credits (R250, R251) -/

/-- The producer of a queue holds a credit. -/
def creditLeft (s : State) (n q : Nat) : Bool :=
  let x := squeue s n q
  decide (x.q.length + x.lane.length + x.returning < queueDepth s n q)

/-- The producer of a queue may put an entry: the switch runs, it holds a credit and is not closed. -/
def hasRoom (s : State) (n q : Nat) : Bool := (bench s n).ssEn && !(squeue s n q).closed && creditLeft s n q

/-- Put an entry onto a queue's lane. -/
def putEntry (s : State) (n q : Nat) (e : SEntry) : State := modQueue s n q fun x => { x with lane := x.lane ++ [e] }

/-- A tail marker. -/
def markerEntry : SEntry := { data := 0, marker := true, poison := false }

/-- The head of a queue. -/
def headOf (s : State) (n q : Nat) : Option SEntry := (squeue s n q).q.head?

/-- The head of a queue that its consumer may take: a running switch, and not a marker. -/
def headEntry (s : State) (n q : Nat) : Option SEntry :=
  if (bench s n).ssEn then (headOf s n q).filter fun e => !e.marker else none

/-- Take the head of a queue: its credit is on the way back. -/
def takeHead (s : State) (n q : Nat) : State := modQueue s n q fun x => { x with q := x.q.drop 1, returning := x.returning + 1 }

/-- Close a queue's producer, with its marker behind the entries it has put (R263): the marker waits for a
credit like an entry. -/
def closeQueue (s : State) (n q : Nat) : State :=
  if (squeue s n q).closed then s
  else if creditLeft s n q then putEntry (modQueue s n q fun x => { x with closed := true }) n q markerEntry
  else modQueue s n q fun x => { x with closed := true, owes := true }

/-! ### STREAM_ENTRY and CREDIT_RETURN -/

/-- The inputs and outputs that a core has bound. -/
def coreInputs (s : State) (c : Nat) : List Nat :=
  (List.range 8).filterMap fun z => match boundTo s c z with | .input q => some q | _ => none
/-- Its outputs. -/
def coreOutputs (s : State) (c : Nat) : List (Nat × Nat) :=
  (List.range 8).filterMap fun z => match boundTo s c z with | .output n q => some (n, q) | _ => none

/-- A thread waits on one of its core's inputs, or is ENDED (step 2 of Table 13.7). -/
def waitsOnInput (s : State) (k : Nat) : Bool :=
  (thr s k).run == .ended ||
    (match streamWaitZ (thr s k).wait with
     | some (z, _) => (match boundTo s (k / 8) z with | .input _ => true | _ => false)
     | none => false)

/-- A core with bound inputs closes its outputs (step 2 of Table 13.7). -/
def closesNow (s : State) (c : Nat) : Bool :=
  let ins := coreInputs s c
  !ins.isEmpty && (ins.all fun q => match headOf s (c / 8) q with | some e => e.marker | none => false) &&
    ((bench s (c / 8)).zDone.filter fun k => k / 8 == c).all (waitsOnInput s)

/-- The outputs that close by now in a draining region. -/
def settleRegion (s : State) (r : Region) : State :=
  if r.state ≠ 2 then s
  else (regionBenches s r).foldl (fun s n =>
    (List.range 8).foldl (fun s i =>
      let c := n * 8 + i
      if closesNow s c then (coreOutputs s c).foldl (fun s o => closeQueue s o.1 o.2) s else s) s) s

/-- The outputs that close by now in a bench's region. -/
def settleBench (s : State) (n : Nat) : State :=
  match benchRegion s n with
  | some r => settleRegion s r
  | none => s

/-- STREAM_ENTRY: the oldest entry on a queue's lane arrives. -/
def streamEntry (q : Nat) (s : State) (n : Nat) : State :=
  if !(bench s n).ssEn then s
  else match (squeue s n q).lane with
    | [] => s
    | e :: rest => settleBench (modQueue s n q fun x => { x with q := x.q ++ [e], lane := rest }) n

/-- CREDIT_RETURN: a credit reaches its producer, which sends a marker that it still owes. -/
def creditReturn (q : Nat) (s : State) (n : Nat) : State :=
  if (squeue s n q).returning = 0 then s
  else
    let s := modQueue s n q fun x => { x with returning := x.returning - 1 }
    if (squeue s n q).owes && creditLeft s n q then
      putEntry (modQueue s n q fun x => { x with owes := false }) n q markerEntry
    else s

/-- STREAM_ENTRY (R250). -/
def execStreamEntry (node : BitVec 8) (queue : BitVec 5) (s : State) : Out := onBench node (streamEntry queue.toNat) s
/-- CREDIT_RETURN (R250). -/
def execCreditReturn (node : BitVec 8) (queue : BitVec 5) (s : State) : Out := onBench node (creditReturn queue.toNat) s

/-! ### Steering units (R253 to R255) -/

/-- A firing: the inputs it takes and what it puts to which outputs. -/
structure Firing where
  takes : List Nat
  puts : List ((Nat × Nat) × SEntry)
  merged : Option Bool

/-- What a unit can do in a beat. -/
inductive Beat where
  | fires (f : Firing)
  | needs (q : Nat)
  | full (q : Nat × Nat)
  | none

/-- The entry that a firing puts: poisoned if any entry that it takes is (R251). -/
def passOn (data : V512) (taken : List SEntry) : SEntry :=
  { data := data, marker := false, poison := taken.any (·.poison) }

/-- A firing whose outputs all hold credits, or the output that does not. -/
def beatOf (s : State) (takes : List Nat) (outs : List ((Nat × Nat) × SEntry)) (merged : Option Bool) : Beat :=
  match outs.find? fun o => !hasRoom s o.1.1 o.1.2 with
  | some o => .full o.1
  | none => .fires { takes := takes, puts := outs, merged := merged }

/-- An entry put to outputs that must all be in use. -/
def toOutputs (outs : List (Option (Nat × Nat))) (e : SEntry) : Option (List ((Nat × Nat) × SEntry)) :=
  outs.foldr (fun o acc => match o, acc with | some x, some l => some ((x, e) :: l) | _, _ => Option.none) (some [])

/-- The control token that a unit waits for, and what follows from it. -/
def withToken (s : State) (n u : Nat) (f : Nat → SEntry → Bool → Beat) : Beat :=
  match unitIn s n u 2 with
  | none => .none
  | some cq => match headEntry s n cq with
    | none => .needs cq
    | some t => f cq t (bit t.data.toNat 0)

/-- The head of one of a unit's data inputs, and what follows from it. -/
def withInput (s : State) (n u i : Nat) (f : Nat → SEntry → Beat) : Beat :=
  match unitIn s n u i with
  | none => .none
  | some q => match headEntry s n q with
    | none => .needs q
    | some e => f q e

/-- Put to outputs, or never fire where one is not in use. -/
def fireTo (s : State) (takes : List Nat) (outs : List (Option (Nat × Nat))) (e : SEntry) : Beat :=
  match toOutputs outs e with
  | none => .none
  | some l => beatOf s takes l none

/-- SELECT (Table 13.3). -/
def beatSelect (s : State) (n u : Nat) : Beat :=
  withToken s n u fun cq t b => withInput s n u (b2n b) fun q e =>
    fireTo s [cq, q] [unitOut s n u 0] (passOn e.data [t, e])

/-- The beat of a MERGE that takes input `i`. -/
def mergeBeat (s : State) (n u : Nat) (i : Bool) (both : Bool) : Beat :=
  withInput s n u (b2n i) fun q e =>
    match unitOut s n u 0 with
    | none => .none
    | some o =>
      let order := match unitOut s n u 1 with
        | some o1 => [(o1, passOn (BitVec.ofNat 512 (b2n i)) [e])]
        | none => []
      beatOf s [q] ((o, passOn e.data [e]) :: order) (if both then some (!i) else none)

/-- MERGE (R255): alternating when both inputs have a head, starting with IN0. -/
def beatMerge (s : State) (n u : Nat) : Beat :=
  let has (i : Nat) : Bool := ((unitIn s n u i).bind fun q => headEntry s n q).isSome
  if has 0 && has 1 then mergeBeat s n u (Tbl.getD (bench s n).mergeTurn u 0 == 1) true
  else mergeBeat s n u (has 1) false

/-- BRANCH. -/
def beatBranch (s : State) (n u : Nat) : Beat :=
  withToken s n u fun cq t b => withInput s n u 0 fun q e =>
    fireTo s [cq, q] [unitOut s n u (b2n b)] (passOn e.data [t, e])

/-- REPLICATE. -/
def beatReplicate (s : State) (n u : Nat) : Beat :=
  withInput s n u 0 fun q e =>
    beatOf s [q] (((List.range 4).filterMap fun i => unitOut s n u i).map fun o => (o, passOn e.data [e])) none

/-- FILTER. -/
def beatFilter (s : State) (n u : Nat) : Beat :=
  withToken s n u fun cq t b => withInput s n u 0 fun q e =>
    if b then fireTo s [cq, q] [unitOut s n u 0] (passOn e.data [t, e])
    else beatOf s [cq, q] [] none

/-- Every input that a unit has in use holds a marker at its head (step 2 of Table 13.7). -/
def unitMarked (s : State) (n u : Nat) : Bool :=
  let ins := (List.range 3).filterMap fun i => unitIn s n u i
  !ins.isEmpty && ins.all fun q => match headOf s n q with | some e => e.marker | none => false

/-- The markers that a unit takes and passes on; what it puts them to is closed. -/
def beatMarker (s : State) (n u : Nat) : Beat :=
  let ins := (List.range 3).filterMap fun i => unitIn s n u i
  let outs := (List.range 4).filterMap fun i => unitOut s n u i
  match outs.find? fun o => !hasRoom s o.1 o.2 with
  | some o => .full o
  | none => .fires { takes := ins, puts := outs.map fun o => (o, markerEntry), merged := none }

/-- One beat of a unit of the kind commanded (R254): it fires, or its stall is counted. -/
def unitBeat (kind u : Nat) (beat : State → Nat → Nat → Beat) (s : State) (n : Nat) : State :=
  if !(bench s n).ssEn || unitKind s n u != kind then s
  else match (if unitMarked s n u then beatMarker s n u else beat s n u) with
    | .none => s
    | .needs q => countStall (countStall s n false u 0) n true q 0
    | .full o => countStall (countStall s n false u 1) o.1 true o.2 1
    | .fires f =>
      let s := f.takes.foldl (fun s q => takeHead s n q) s
      let s := f.puts.foldl (fun s p => if p.2.marker then closeQueue s p.1.1 p.1.2 else putEntry s p.1.1 p.1.2 p.2) s
      let s := match f.merged with
        | some b => modBench s n fun x => { x with mergeTurn := Tbl.set x.mergeTurn u (b2n b) }
        | none => s
      settleBench s n

/-- SELECT (R253). -/
def execSelect (node : BitVec 8) (unit : BitVec 3) (s : State) : Out := onBench node (unitBeat 1 unit.toNat beatSelect) s
/-- MERGE (R255). -/
def execMerge (node : BitVec 8) (unit : BitVec 3) (s : State) : Out := onBench node (unitBeat 2 unit.toNat beatMerge) s
/-- BRANCH (R253). -/
def execBranch (node : BitVec 8) (unit : BitVec 3) (s : State) : Out := onBench node (unitBeat 3 unit.toNat beatBranch) s
/-- REPLICATE (R253). -/
def execReplicate (node : BitVec 8) (unit : BitVec 3) (s : State) : Out := onBench node (unitBeat 4 unit.toNat beatReplicate) s
/-- FILTER (R253). -/
def execFilter (node : BitVec 8) (unit : BitVec 3) (s : State) : Out := onBench node (unitBeat 5 unit.toNat beatFilter) s

/-! ### Stream operands of a core (R116, R256) -/

/-- What an entry of queue `q` looks like to a core. -/
def presented (q : Nat) (v : V512) : V512 :=
  if q < 8 then (v.setWidth 64).setWidth 512 else if q < 16 then v else (v.setWidth 8).setWidth 512

/-- POISON of a stream entry (Table 19.3 WHERE 6, Table 19.4 HOLDER 6). -/
def streamPoison : Exn := { code := 16, engine := 1, info := poisonInfo 6 6 false, faddr := 0 }

/-- The thread has taken or put a stream entry in the section. -/
def markStream (s : State) (k : Nat) : State := modBench s (k / 64) fun b => { b with zDone := NSet.add b.zDone k }

/-- Outcome of a stream operation: completed, must wait, or faulted. -/
inductive Zres where
  | done (s : State)
  | wait (s : State)
  | fault (e : Exn)

/-- The head entry of operand `z` for a thread. -/
def zHead (s : State) (k z : Nat) (f : State → Nat → V512 → State) : Zres :=
  match boundTo s (k / 8) z with
  | .none => .fault (streamExn z 1)
  | .output _ _ => .fault (streamExn z 2)
  | .input q =>
    match headEntry s (k / 64) q with
    | none => .wait (countStall s (k / 64) true q 0)
    | some e => if e.poison then .fault streamPoison else .done (f s q (presented q e.data))

/-- Take the entry of an operand and write a result. -/
def zTake (s : State) (k z : Nat) (f : State → V512 → State) : Zres :=
  zHead s k z fun s q v => f (markStream (takeHead s (k / 64) q) k) v

/-- Put an entry to an operand. -/
def zPut (s : State) (k z : Nat) (v : V512) : Zres :=
  match boundTo s (k / 8) z with
  | .none => .fault (streamExn z 1)
  | .input _ => .fault (streamExn z 2)
  | .output n q =>
    if hasRoom s n q then .done (markStream (putEntry s n q { data := presented q v, marker := false, poison := false }) k)
    else .wait (countStall s n true q 1)

/-- The effect of a stream instruction now, whether issued or waiting. -/
def streamStep (s : State) (k : Nat) (op : StreamOp) (f : VFields) : Zres :=
  let z := f.vs1.toNat % 8
  match op with
  | .get => zTake s k z fun s v => wv s k f.vd.toNat v
  | .peek => zHead s k z fun s _ v => wv s k f.vd.toNat v
  | .put => zPut s k z (rv s k f.vd.toNat)
  | .fma fn =>
    let e := vBits f.ty.toNat
    zTake s k z fun s v => wLanes s k f fun i =>
      fmaLane f.ty.toNat fn.toNat (laneOf e (rv s k f.vd.toNat) i) (laneOf e v i) (laneOf e (rv s k f.vs2.toNat) i)

/-- A stream operand field: vs1[4:3] = 0. -/
def isZ (f : VFields) : Bool := decide (f.vs1.toNat < 8)

/-- Issue a stream instruction: it completes, waits or faults. -/
def bodyStream (op : StreamOp) (ok : Bool) (f : VFields) (s : State) (k : Nat) : Res :=
  if !isZ f || !ok then illegal s
  else if inTx s k then txIllegal s
  else match streamStep s k op f with
    | .done s => .done s
    | .fault e => .trap s e
    | .wait s => .wait (settleBench (modThr s k fun t => { t with wait := some (.stream op f false) }) (k / 64))

/-- VZPOLL. -/
def bodyVzpoll (f : VFields) (s : State) (k : Nat) : Res :=
  if !isZ f || !isPred f.vd || f.pg != 0 then illegal s
  else if inTx s k then txIllegal s
  else match boundTo s (k / 8) (f.vs1.toNat % 8) with
    | .none => .trap s (streamExn (f.vs1.toNat % 8) 1)
    | .input q => .done (wp s k f.vd.toNat (BitVec.ofNat 64 (b2n (headEntry s (k / 64) q).isSome)))
    | .output n q => .done (wp s k f.vd.toNat (BitVec.ofNat 64 (2 * b2n (hasRoom s n q))))

/-- VZGET. Table 5.8 requires nothing of its vs2 field, nor of that of VZPUT, VZPEEK and VZPOLL, and nothing reads it (DEDUCED, log
entry 40). -/
def execVzget (h : Hart) (f : VFields) (s : State) : Out := issue h (.vzget h f) 1 [] (bodyStream .get (f.pg == 0) f) s
/-- VZPUT. -/
def execVzput (h : Hart) (f : VFields) (s : State) : Out := issue h (.vzput h f) 1 [] (bodyStream .put (f.pg == 0) f) s
/-- VZPEEK. -/
def execVzpeek (h : Hart) (f : VFields) (s : State) : Out := issue h (.vzpeek h f) 1 [] (bodyStream .peek (f.pg == 0) f) s
/-- VZPOLL. -/
def execVzpoll (h : Hart) (f : VFields) (s : State) : Out := issue h (.vzpoll h f) 1 [] (bodyVzpoll f) s
/-- VZFMA and its kin. -/
def execVzfma (h : Hart) (f : VFields) (fn : BitVec 4) (s : State) : Out :=
  issue h (.vzfma h f fn) 1 [] (bodyStream (.fma fn) (fmaOk f.ty.toNat fn.toNat) f) s

/-! ### Change of section (R262 to R265, Table 13.7) -/

/-- The weighbridge that sequences a region: that of the quadrant that holds its origin. -/
def sequencerOf (r : Region) : Nat := quadOf (r.y0 * 16 + r.x0)

/-- Queues of a region that are in use. -/
def regionQueues (s : State) (r : Region) : List (Nat × Nat) :=
  (regionBenches s r).flatMap fun n => ((List.range 24).filter fun q => queueDepth s n q != 0).map fun q => (n, q)

/-- The queues that units and cores of a region feed; every other queue in use is fed by a haul channel (R250). -/
def unitFed (s : State) (r : Region) : List (Nat × Nat) :=
  (regionBenches s r).flatMap fun n =>
    (List.range 8).flatMap fun u => if unitKind s n u = 0 then [] else (List.range 4).filterMap fun i => unitOut s n u i
/-- The queues that cores feed. -/
def coreFed (s : State) (r : Region) : List (Nat × Nat) :=
  (regionBenches s r).flatMap fun n => (List.range 8).flatMap fun i => coreOutputs s (n * 8 + i)
/-- The queues that haul channels feed. -/
def haulFed (s : State) (r : Region) : List (Nat × Nat) :=
  let fed := unitFed s r ++ coreFed s r
  (regionQueues s r).filter fun q => !fed.contains q

/-- Set a region's state, and SS_STATUS.STATE of its benches. -/
def setRegionState (s : State) (rid st : Nat) : State :=
  match Tbl.get? s.regions rid with
  | none => s
  | some r =>
    (regionBenches s r).foldl (fun s n => modBench s n fun b => { b with ssState := st })
      { s with regions := Tbl.set s.regions rid { r with state := st } }

/-- A channel's running descriptor puts entries into a queue (Table 14.2: OP 3 QOUT). -/
def producesQueue (h : HaulCh) : Bool :=
  h.state == 2 && (match h.chain with
    | (_, ws) :: _ => !ws.isEmpty && bits (ws.getD 7 0).toNat 2 0 == 3
    | [] => false)

/-- Step 1: the sources close, and a QOUT under way is stopped (R281). -/
def closeSources (s : State) (r : Region) : State :=
  let s := (regionBenches s r).foldl (fun s n => haulStopIf s n false producesQueue) s
  let s := (haulFed s r).foldl (fun s q => closeQueue s q.1 q.2) s
  (regionBenches s r).foldl (fun s n =>
    (List.range 8).foldl (fun s i =>
      let c := n * 8 + i
      if (coreInputs s c).isEmpty then (coreOutputs s c).foldl (fun s o => closeQueue s o.1 o.2) s else s) s) s

/-- Start a change of section: what it changes to, for which command, and whether it may flush. -/
def beginChange (s : State) (rid : Nat) (target : Nat) (image : Option (List W64)) (unload flush : Bool) (cmd : Option RingRef) : State :=
  match Tbl.get? s.regions rid with
  | none => s
  | some r =>
    let r := { r with target := some target, newImage := image, unload := unload, flush := flush, bycmd := cmd,
                      since := pacerOf s (wbNode (sequencerOf r)), flushed := 0 }
    let s := setRegionState { s with regions := Tbl.set s.regions rid r } rid 2
    let s := closeSources s r
    match Tbl.get? s.regions rid with
    | some r => settleRegion s r
    | none => s

/-- SECTION_ADVANCE (R262): the sequencer's wait is satisfied and the change to NEXT starts. -/
def sectionAdvance (s : State) (rid : Nat) : State :=
  match Tbl.get? s.regions rid with
  | none => s
  | some r =>
    if held s (wbNode (sequencerOf r)) then s
    else if r.state = 1 ∧ (regionWait s r).isSome ∧ r.met then
      beginChange s rid (bits (sectionWord r.image r.secno 0) 11 0) none false false none
    else s

/-- Every queue in use holds exactly its marker, and no lane carries an entry (R263); of a queue that a unit consumes, the unit has
taken the marker on (step 2 of Table 13.7; DEDUCED, log entry 38). -/
def drained (s : State) (r : Region) : Bool :=
  (regionQueues s r).all fun q =>
    let x := squeue s q.1 q.2
    x.lane.isEmpty &&
      match x.q with
      | [e] => e.marker
      | [] => queueCkind s q.1 q.2 == 0 && x.closed && !x.owes
      | _ => false

/-- Byte offset in an image of the configuration of node (rx, ry) in a section (Table 13.6). -/
def configOff (img : List W64) (w h n rx ry : Nat) : Nat := (img.getD 2 0).toNat + (n * w * h + ry * w + rx) * 448

/-- The words of a table at an offset of an image: `i` counts registers of the 56. -/
def configWord (img : List W64) (off i : Nat) : W64 := BitVec.ofNat 64 (imgWord img (off + 8 * i))

/-- Step 4: a bench's 56 configuration registers. -/
def configBench (img : List W64) (off : Nat) (b : Bench) : Bench :=
  let w := configWord img off
  { b with qcfg := (List.range 24).map fun q => (q, w q)
           ucfg0 := (List.range 8).map fun u => (u, w (24 + 2 * u))
           ucfg1 := (List.range 8).map fun u => (u, w (25 + 2 * u))
           zbind := (List.range 16).map fun i => (i, w (40 + i))
           mergeTurn := [] }

/-- Configure a region's benches for a section and run it (steps 3 to 5). -/
def runSection (s : State) (rid sec : Nat) : State :=
  match Tbl.get? s.regions rid with
  | none => s
  | some r =>
    let s := (regionBenches s r).foldl (fun s n =>
      let off := configOff r.image r.w r.h sec (n % 16 - r.x0) (n / 16 - r.y0)
      modBench s n fun b =>
        { configBench r.image off { b with queues := emptyQueues b.queues, zDone := [] } with
          ssEn := true, ssState := 1, ssSection := sec, ssLoaded := true, ssRegion := rid }) s
    let r := { r with secno := sec, state := 1, target := none, newImage := none, unload := false, flush := false, bycmd := none, met := false }
    let s := { s with regions := Tbl.set s.regions rid r }
    let now := match regionWait s r with | some (c, t) => met s c t | none => false
    { s with regions := Tbl.set s.regions rid { r with met := now } }

/-- Each thread of a region's benches that waits on an operand which the new section leaves unbound, or bound the
other way, raises STREAM (R265). -/
def recheckWaits (s : State) (n : Nat) : State :=
  (List.range 64).foldl (fun s i =>
    let k := n * 64 + i
    match streamWaitZ (thr s k).wait with
    | none => s
    | some (z, exn) =>
      let isPut := match (thr s k).wait with | some (.stream .put _ _) => true | _ => false
      match boundTo s (k / 8) z with
      | .none => faultWait s k (exn 1)
      | .input _ => if isPut then faultWait s k (exn 2) else s
      | .output _ _ => if isPut then s else faultWait s k (exn 2)) s

/-- Steps 3 to 5: the region runs its new section, or is unloaded, and the command completes. -/
def finishChange (s : State) (rid : Nat) : State :=
  match Tbl.get? s.regions rid with
  | none => s
  | some r =>
    let benchesOf := regionBenches s r
    let s :=
      if r.unload then unloadRegion s rid
      else
        let s := { s with regions := Tbl.set s.regions rid { r with image := r.newImage.getD r.image } }
        benchesOf.foldl recheckWaits (runSection s rid (r.target.getD 0))
    match r.bycmd with
    | some q => finish s (ringKey q) 0 0 (BitVec.ofNat 64 r.flushed) 0 0 0
    | none => s

/-- Step 3 and the start of step 4: the switches stop, every queue is emptied, and the region is configuring; a region that is unloaded
ends here. -/
def beginConfig (s : State) (rid : Nat) : State :=
  match Tbl.get? s.regions rid with
  | none => s
  | some r =>
    if r.unload then finishChange s rid
    else
      setRegionState ((regionBenches s r).foldl (fun s n => modBench s n fun b => { b with ssEn := false, queues := emptyQueues b.queues }) s) rid 4

/-- DRAIN_COMPLETE (R263): the drain is found complete and the configuration begins; the next one finds it written and runs the section
(log entry 38). -/
def drainComplete (s : State) (rid : Nat) : State :=
  match Tbl.get? s.regions rid with
  | none => s
  | some r =>
    if held s (wbNode (sequencerOf r)) then s
    else if r.state = 4 then finishChange s rid
    else if r.state ≠ 2 then s
    else
      let s := settleRegion s r
      if drained s r then beginConfig s rid else s

/-- Entries of a queue, on its lane too, that are not markers. -/
def leftover (x : SQueue) : Nat := ((x.q ++ x.lane).filter fun e => !e.marker).length

/-- Discard and count every entry of a region (R264), with the number discarded. -/
def flushRegion (s : State) (r : Region) : State × Nat :=
  (regionQueues s r).foldl (fun a q =>
    let k := leftover (squeue a.1 q.1 q.2)
    (modQueue a.1 q.1 q.2 fun x => { x with flushed := min (x.flushed + k) 65535, q := x.q.filter (·.marker), lane := x.lane.filter (·.marker) },
     a.2 + k)) (s, 0)

/-- A channel's running descriptor produces into a queue or consumes one (Table 14.2: OP 2 QIN, 3 QOUT). -/
def usesQueue (h : HaulCh) : Bool :=
  match h.chain with
  | (_, ws) :: _ => !ws.isEmpty && [2, 3].contains (bits (ws.getD 7 0).toNat 2 0)
  | _ => false

/-- DRAIN_LIMIT_EXPIRY (R264). -/
def drainLimitExpiry (s : State) (rid : Nat) : State :=
  match Tbl.get? s.regions rid with
  | none => s
  | some r0 =>
    let wb := wbNode (sequencerOf r0)
    let limit := match Tbl.get? s.ctxs r0.ctx with | some x => x.drain | none => 125000
    if held s wb || r0.state != 2 || decide (pacerSince s wb r0.since < limit) then s
    else
      let s := settleRegion s r0
      if drained s r0 then beginConfig s rid
      else if r0.flush then
        let f := flushRegion s r0
        let s := (regionBenches f.1 r0).foldl (fun s n => haulStopIf s n false fun h => (h.state == 1 || h.state == 2 || h.state == 3) && usesQueue h) f.1
        let s := { s with regions := Tbl.set s.regions rid { r0 with flushed := f.2 } }
        beginConfig s rid
      else
        let s := setRegionState s rid 3
        match r0.bycmd with
        | some q =>
          let s := { s with regions := Tbl.set s.regions rid { (Tbl.getD s.regions rid r0) with bycmd := none, target := none, newImage := none, unload := false } }
          finishWith s (ringKey q) 16
        | none => regionRecord s r0 wb 5 (sequencerOf r0) 16

/-- The step of a region. -/
def execSectionAdvance (region : BitVec 3) (s : State) : Out := .next (sectionAdvance s region.toNat)
/-- DRAIN_COMPLETE (R263). -/
def execDrainComplete (region : BitVec 3) (s : State) : Out := .next (drainComplete s region.toNat)
/-- DRAIN_LIMIT_EXPIRY (R264). -/
def execDrainLimitExpiry (region : BitVec 3) (s : State) : Out := .next (drainLimitExpiry s region.toNat)

end Sys2Proof.Machine
end

