-- ==== Sys2Proof/Machine/Agent.lean ====
section
/-!
DEFINITION. Accesses of the units that move bytes without a thread (R275, R276, R333): addresses and streams of lines, which the
haul channels share with the firmware carrying out a command; moving one stream into another for a command; and the checks of R278.
-/
namespace Sys2Proof.Machine

/-! ### One access -/

/-- A mover: whose accesses it makes, whether its addresses are virtual, whether it is a firmware chain, and the bench cache that
it uses. -/
structure Agent where
  who : Who
  virt : Bool
  fw : Bool
  cache : Option Nat
  deriving DecidableEq, Repr

/-- The firmware acting for a context's command: virtual addresses at P1, no bench cache (R333, R186). -/
def commandAgent (ctx : Nat) : Agent := { who := commandWho ctx, virt := true, fw := false, cache := none }

/-- A virtual address in a window whose store offset is reserved (R173). -/
def windowReserved (a : Nat) : Bool :=
  (decide (a < 0x100000) || (decide (0x80000000 ≤ a) && decide (a < 0xF0000000))) &&
    decide (0x78000 ≤ a % 2 ^ 20) && decide (a % 2 ^ 20 < 0x80000)

/-- What an address of a mover comes to: a target, a status of Table 14.4, or a host page that must be asked for (R34). -/
inductive Reached where
  | at (x : Xlat)
  | bad (status : Nat)
  | ask (log2 : Nat) (pte : W64) (hostPage : Nat)

/-- The local store that a device address names, whether or not its core is good (R19): a firmware chain is exempt from R20. -/
def storeSlot (a : Nat) : Option Target :=
  if 2 ^ 40 ≤ a ∧ a < 0x10080000000 ∧ isBench ((a - 2 ^ 40) / 2 ^ 23) then some (.store ((a - 2 ^ 40) / 2 ^ 20) (a % 2 ^ 20)) else none

/-- Translate for a mover: through its context's pages, or a device address (R276). -/
def agentTranslate (s : State) (g : Agent) (acc : Acc) (a : Nat) : XRes :=
  if g.virt then translateVirtual s g.who acc a
  else match (if g.fw then storeSlot a else none) with
    | some t => .ok { tgt := t, nc := false, page := none }
    | none => translateDevice s acc a

/-- No mover may reach this target: a register window, a device without a route, or, but for a firmware chain, the reserved area of
a store (R173, R357, R430). -/
def agentBarred (s : State) (g : Agent) : Target → Bool
  | .reg _ _ => true
  | .remote d _ => (routePort s d).isNone
  | .store _ o => !g.fw && decide (0x78000 ≤ o % 2 ^ 20) && decide (o % 2 ^ 20 < 0x80000)
  | _ => false

/-- Resolve an address of a mover (R275, R276, R173). -/
def agentReach (s : State) (g : Agent) (acc : Acc) (a : Int) : Reached :=
  if a < 0 ∨ (if g.virt then 2 ^ 48 else 2 ^ 52) ≤ a then .bad 1
  else if g.virt && windowReserved a.toNat && !g.fw then .bad 1
  else match agentTranslate s g acc a.toNat with
    | .ok x => if agentBarred s g x.tgt then .bad 1 else .at x
    | .fault c => .bad (statusOfCause c)
    | .poison _ => .bad 2
    | .ats log2 p h => .ask log2 p h

/-- The same where the page of a host needs no translation of the host's: the firmware's own accesses for a command, which go
through no translation unit. -/
def agentXlat (s : State) (g : Agent) (acc : Acc) (a : Int) : Except Nat Xlat :=
  match agentReach s g acc a with
  | .at x => .ok x
  | .bad st => .error st
  | .ask log2 p h =>
    .ok { tgt := .host (if bit (pteAddr p.toNat) 40 then 1 else 0) (h + a.toNat % 2 ^ log2), nc := bit p.toNat 8, page := none }

/-- An address as a 52-bit register holds it: two's complement where it is negative (R275, Table 14.5). -/
def addr52 (a : Int) : Nat := (a % 2 ^ 52).toNat

/-- The lookup's effect on the translation unit that the mover uses (R31). -/
def agentNote (s : State) (g : Agent) (a : Int) : State :=
  if g.virt then noteTranslate s g.who (BitVec.ofInt 64 a) else s

/-- Outcome of reading some bytes of a stream: all of them; not now; or an error after some of them. -/
inductive Gath where
  | ok (bytes : List Byte) (psn : Bool) (s : State) (e : Ext)
  | wait
  | bad (bytes : List Byte) (psn : Bool) (s : State) (status faddr : Nat)

/-- Read within one line. -/
def agentRead (s : State) (g : Agent) (a : Int) (len : Nat) (e : Ext) : Gath :=
  match agentXlat s g .read a with
  | .error st => .bad [] false s st (addr52 a)
  | .ok x =>
    match readPiece (agentNote s g a) x len e with
    | .ok bs p _ s e => .ok bs p s e
    | .wait => .wait
    | .err c => .bad [] false s (if c = 8 then 1 else statusOfCause c) (addr52 a)

/-- Outcome of a write within one line. -/
inductive Put where
  | ok (s : State) (e : Ext)
  | wait
  | bad (status faddr : Nat)

/-- Write within one line. -/
def agentWrite (s : State) (g : Agent) (a : Int) (bytes : List Byte) (psn : Bool) (e : Ext) : Put :=
  match agentXlat s g .write a with
  | .error st => .bad st (addr52 a)
  | .ok x =>
    match writePiece (agentNote s g a) x (offsets bytes) psn e with
    | .ok s e => .ok s e
    | .wait => .wait
    | .err c => .bad (statusOfCause c) (addr52 a)

/-! ### Streams of lines (R275) -/

/-- Lines of a stream: the base address, the distance between lines, a line's length and how many there are. -/
structure Lines where
  base : Nat
  stride : Int
  len : Nat
  count : Nat
  deriving DecidableEq, Repr

/-- Bytes of the whole stream. -/
def Lines.total (l : Lines) : Nat := l.len * l.count

/-- Address of stream byte `n`. -/
def Lines.addr (l : Lines) (n : Nat) : Int := (l.base : Int) + ((n / l.len : Nat) : Int) * l.stride + ((n % l.len : Nat) : Int)

/-- Bytes from stream byte `n` on that stand in one line of the stream and in one aligned 64-byte line, at most `rest`. -/
def Lines.run (l : Lines) (n rest : Nat) : Nat := min rest (min (l.len - n % l.len) (64 - (l.addr n % 64).toNat))

/-- A COPY whose source and destination share bytes reads each shared byte either before or after earlier positions
were written, by its aligned word (R276; log entry 14): `old` and `new` are the bytes at address `a`. -/
def overlapped (k : Nat) (a : Int) (old new : List Byte) : List Byte :=
  if old = new then new
  else (List.range new.length).map fun i =>
    if Config.copyOverlap k ((a.toNat + i) / 8) then new.getD i 0 else old.getD i 0

/-- Read `rest` bytes of a stream from byte `n` on; `s0` is the state in which the descriptor began. -/
def gather (g : Agent) (l : Lines) (s0 : State) : Nat → State → Nat → Nat → Ext → List Byte → Bool → Gath
  | 0, s, _, _, e, acc, psn => .ok acc psn s e
  | f + 1, s, n, rest, e, acc, psn =>
    if rest = 0 then .ok acc psn s e
    else
      let r := l.run n rest
      match agentRead s g (l.addr n) r e with
      | .wait => .wait
      | .bad _ _ s st fa => .bad acc psn s st fa
      | .ok bs p s1 e1 =>
        let old := match agentRead s0 g (l.addr n) r e with | .ok o _ _ _ => o | _ => bs
        gather g l s0 f s1 (n + r) (rest - r) e1 (acc ++ overlapped s0.fresh (l.addr n) old bs) (psn || p)

/-- Where the bytes of a stream come from: `rest` bytes from byte `n` on. -/
abbrev Source := State → Nat → Nat → Ext → Gath

/-- The source stream of a COPY. -/
def copySource (g : Agent) (l : Lines) (s0 : State) : Source := fun s n rest e => gather g l s0 rest s n rest e [] false

/-- The source stream of a FILL. -/
def fillSource (pattern : W64) : Source := fun s n rest e =>
  .ok ((List.range rest).map fun i => BitVec.ofNat 8 (pattern.toNat / 2 ^ (8 * ((n + i) % 8)))) false s e

/-- A source stream that is at hand; its first byte is stream byte `n0`. -/
def heldSource (n0 : Nat) (bytes : List Byte) (psn : Bool) : Source := fun s n rest e =>
  .ok ((bytes.drop (n - n0)).take rest) psn s e

/-! ### Checks (R278) -/

/-- One byte into the CRC-32C register. -/
def crcByte (c : BitVec 32) (b : Byte) : BitVec 32 :=
  (List.range 8).foldl (fun (c : BitVec 32) _ => if c &&& 1 = 0 then c >>> 1 else (c >>> 1) ^^^ 0x82F63B78#32) (c ^^^ b.setWidth 32)

/-- Running check after bytes from stream byte `n` on: CHK 1 CRC-32C, 2 SUM64. -/
def checkBytes (chk n check : Nat) (bytes : List Byte) : Nat :=
  if chk = 1 then (bytes.foldl crcByte (BitVec.ofNat 32 check)).toNat
  else if chk = 2 then ((List.range bytes.length).foldl (fun v i => v + (bytes.getD i 0).toNat * 2 ^ (8 * ((n + i) % 8))) check) % 2 ^ 64
  else check

/-- Running check at the start. -/
def checkInit (chk : Nat) : Nat := if chk = 1 then 0xFFFFFFFF else 0

/-- The check word. -/
def checkWord (chk check : Nat) : Nat := if chk = 1 then check ^^^ 0xFFFFFFFF else check

/-! ### Moving -/

/-- How far a stream has gone: bytes written, and poison met. -/
structure Prog where
  n : Nat
  psn : Bool
  deriving DecidableEq, Repr

/-- Outcome of moving a stream. -/
inductive Moved where
  | all (s : State) (e : Ext) (p : Prog)
  | wait (s : State) (p : Prog)
  | bad (s : State) (p : Prog) (status faddr : Nat)

/-- Move a source stream into destination lines, one aligned destination line at a time (R275, R279, R280): every
byte before a failing position is written. -/
def moveAll (g : Agent) (src : Source) (dst : Lines) (total : Nat) : Nat → State → Ext → Prog → Moved
  | 0, s, e, p => .all s e p
  | f + 1, s, e, p =>
    if total ≤ p.n then .all s e p
    else
      let r := dst.run p.n (total - p.n)
      match src s p.n r e with
      | .wait => .wait s p
      | .bad bs psn s1 st fa =>
        if bs.isEmpty then .bad s1 p st fa
        else match agentWrite s1 g (dst.addr p.n) bs psn e with
          | .wait => .wait s p
          | .bad st fa => .bad s1 p st fa
          | .ok s2 _ => .bad s2 { n := p.n + bs.length, psn := p.psn || psn } st fa
      | .ok bs psn s1 e1 =>
        match agentWrite s1 g (dst.addr p.n) bs psn e1 with
        | .wait => .wait s p
        | .bad st fa => .bad s1 p st fa
        | .ok s2 e2 => moveAll g src dst total f s2 e2 { n := p.n + r, psn := p.psn || psn }

/-- Read a span of addresses whole. -/
def agentBytes (s : State) (g : Agent) (a len : Nat) (e : Ext) : Gath :=
  gather g { base := a, stride := 0, len := len, count := 1 } s len s 0 len e [] false

/-- Write a span of addresses whole. -/
def agentStore (s : State) (g : Agent) (a : Nat) (bytes : List Byte) (psn : Bool) (e : Ext) : Moved :=
  moveAll g (heldSource 0 bytes psn) { base := a, stride := 0, len := bytes.length, count := 1 } bytes.length bytes.length s e { n := 0, psn := false }

end Sys2Proof.Machine
end

