-- ==== Sys2Proof/Machine/Records.lean ====
section
/-!
DEFINITION. What an endpoint does with event records (R305, R344 to R353): its buffer, the rings in host memory,
spilling to the tailings area, drops, and MSI-X messages.
-/
namespace Sys2Proof.Machine

/-! ### Rings in host memory (R345, R350) -/

/-- Function that owns an event ring: of a context, of a PF, or of the ring whose CTX_CREATE describes it (R332). -/
def evFn (s : State) (rg : Nat) : Nat :=
  if rg < 64 then (match Tbl.get? s.ctxs rg with | some x => x.fn | none => 0)
  else if rg < 128 then 0 else (rg - 128) / 16 % 32

/-- Record slots of a ring. -/
def evSize (s : State) (rg : Nat) : Nat := 2 ^ (evring s rg).log2n

/-- Free slots of a ring, by the head word last read; a head above the write count counts as full. -/
def evRoom (s : State) (rg : Nat) : Nat :=
  let used := ((evring s rg).written + 2 ^ 32 - (evring s rg).head) % 2 ^ 32
  evSize s rg - used

/-- Word 0 of a record (Table 17.8). -/
def recordHead (s : State) (rg : Nat) (x : Record) : Nat :=
  let phase := b2n ((evring s rg).written / evSize s rg % 2 == 0)
  let c := match x.ctx with | some c => c * 2 ^ 32 + 2 ^ 38 | none => 0
  x.ty + x.scls * 2 ^ 8 + x.srcid * 2 ^ 16 + c + b2n x.spilled * 2 ^ 39 + phase * 2 ^ 63

/-- The 64 bytes of a record as its endpoint writes it now. -/
def recordBytes (s : State) (rg : Nat) (x : Record) : List Byte :=
  let e := evring s rg
  ([BitVec.ofNat 64 (recordHead s rg x), BitVec.ofNat 64 (min e.drops (2 ^ 32 - 1) * 2 ^ 32 + x.seqno.toNat), (port s e.port).stamp,
    x.w3, x.w4, x.w5, x.w6, x.w7] : List W64).flatMap fun w => leBytes 8 w.toNat

/-- Write a record into the next slot of its ring. -/
def writeRecord (s : State) (x : Record) : State :=
  let rg := x.ring
  let e := evring s rg
  let s1 := homeWrite s (.host e.port (e.base + 64 * (e.written % evSize s rg))) (offsets (recordBytes s rg x)) false none
  modEvring s1 rg fun e =>
    { e with written := (e.written + 1) % 2 ^ 32, drops := 0, sinceMsg := e.sinceMsg + 1
             firstStamp := if e.sinceMsg = 0 then (port s e.port).stamp.toNat else e.firstStamp }

/-- Records can be delivered to a ring now: its port's link is up and its function is not in D3hot. -/
def deliverable (s : State) (rg : Nat) : Bool :=
  (port s (evring s rg).port).linkUp && !inD3 s (evring s rg).port (evFn s rg)

/-- Write the records that wait in an endpoint's buffer for a ring, in order, while it has room; at most `f`. -/
def flushBuf (rg : Nat) : Nat → State → State
  | 0, s => s
  | f + 1, s =>
    let p := (evring s rg).port
    match (port s p).buf.findIdx? fun x => x.ring == rg with
    | none => s
    | some i =>
      if evRoom s rg = 0 || !deliverable s rg then s
      else match (port s p).buf[i]? with
        | none => s
        | some x => flushBuf rg f (modPort (writeRecord s x) p fun y => { y with buf := y.buf.eraseIdx i })

/-- Write what waits for a ring. -/
def flushRing (s : State) (rg : Nat) : State := flushBuf rg (port s (evring s rg).port).buf.length s

/-! ### Spilling and dropping (R305, R352) -/

/-- Free slots of the tailings area, of 1,048,576. -/
def tailingsFree (s : State) : Nat := 1048576 - (s.evrings.map fun e => e.2.spilled.length).sum

/-- Free slots that a record of a priority needs to spill. -/
def needSlots (prio : Nat) : Nat :=
  if prio = 0 then 1 else if prio = 1 then 589824 else if prio = 2 then 720896 else 851968

/-- Device address of a slot of the tailings area (R305). -/
def tailingsAddr (slot : Nat) : Nat := 0xFFF8000000 + 64 * slot

/-- The first slot of the tailings area that holds no record. -/
def tailingsSlot (s : State) : Nat :=
  let used := s.evrings.flatMap fun e => e.2.spilled.map (·.2)
  ((List.range (used.length + 1)).find? fun i => !used.contains i).getD 0

/-- A record goes to a slot of the tailings area, as it would be written now (R21, R305; log entry 10), or is dropped and counted. -/
def spillRecord (s : State) (x : Record) : State :=
  if tailingsFree s < needSlots x.prio then
    modEvring s x.ring fun e =>
      { e with drops := min (e.drops + 1) (2 ^ 32 - 1), dropPrio := listSet e.dropPrio (x.prio - 1) (e.dropPrio.getD (x.prio - 1) 0 + 1), fence := e.fence + 1 }
  else
    let slot := tailingsSlot s
    let x := { x with spilled := true }
    let s := homeWrite s (.hbm (tailingsAddr slot)) (offsets (recordBytes s x.ring x)) false none
    modEvring s x.ring fun e =>
      { e with spilled := e.spilled ++ [(x, slot)]
               firstSpill := if e.spilled.isEmpty then (port s e.port).stamp else e.firstSpill }

/-- A record of the same source has spilled and is not yet returned. -/
def sourceSpilled (s : State) (x : Record) : Bool :=
  (evring s x.ring).spilled.any fun y => y.1.scls == x.scls && y.1.srcid == x.srcid

/-- A record reaches its endpoint (R305, R344): written, held in the buffer, spilled or dropped. -/
def takeRecord (s : State) (x : Record) : State :=
  let e := evring s x.ring
  if !(port s e.port).linkUp || (!e.en && (x.ring == 64 || x.ring == 65)) then s
  else if decide (384 ≤ (port s e.port).buf.length) || sourceSpilled s x then spillRecord s x
  else flushRing (modPort s e.port fun y => { y with buf := y.buf ++ [x] }) x.ring

/-- Firmware holds a UNIT_FENCED back while it could not be spilled safely (R352). -/
def fencedWaits (s : State) (x : Record) : Bool := x.ty == 13 && decide (tailingsFree s < 589824)

/-- EVENT_RECORD (R305). -/
def eventRecord (m : Nat) (s : State) : State :=
  match arrived s m with
  | none => s
  | some x => match x.pay with
    | .record r => if held s x.dst || fencedWaits s r then s else takeRecord (inboxDrop s m) r
    | _ => s

/-- EVENT_RECORD (R305). -/
def execEventRecord (m : Nat) (s : State) : Out := .next (eventRecord m s)

/-! ### Coming back from the tailings area (R351, R352) -/

/-- A record that the endpoint of a ring makes itself, with its SEQ (SCLASS 6). -/
def endpointRecord (s : State) (rg ty : Nat) (w3 w4 : W64) : Record × State :=
  let p := (evring s rg).port
  let key := seqKey rg 6 p
  ({ ring := rg, ty := ty, scls := 6, srcid := p, seqno := Tbl.getD s.seqs key 0, ctx := if rg < 64 then some rg else none,
     w3 := w3, w4 := w4, w5 := 0, w6 := 0, w7 := 0, prio := 0, spilled := false },
   { s with seqs := Tbl.set s.seqs key (Tbl.getD s.seqs key 0 + 1) })

/-- Return spilled records to their ring while it has room, at most `f`: one whose line reads as poisoned is lost and counted
(Table 19.4). -/
def returnSpilled (rg : Nat) : Nat → State → State
  | 0, s => s
  | f + 1, s =>
    match (evring s rg).spilled with
    | [] => modEvring s rg fun e => { e with returning := false }
    | x :: rest =>
      if evRoom s rg = 0 then s
      else
        let s :=
          if homePoison s (.hbm (tailingsAddr x.2)) then modEvring s rg fun e => { e with drops := min (e.drops + 1) (2 ^ 32 - 1) }
          else writeRecord s x.1
        returnSpilled rg f (modEvring s rg fun e => { e with spilled := rest })

/-- TAILINGS (R351): the older records in the buffer first, then the TAILINGS record, then the spilled ones. -/
def tailingsRow (rg : Nat) (s : State) : State :=
  let s := if deliverable s rg then flushRing s rg else s
  let e := evring s rg
  if e.spilled.isEmpty || !deliverable s rg || evRoom s rg == 0 || (port s e.port).buf.any fun x => x.ring == rg then s
  else
    let s :=
      if e.returning then s
      else
        let r := endpointRecord s rg 14 (BitVec.ofNat 64 e.spilled.length) e.firstSpill
        modEvring (writeRecord r.2 r.1) rg fun e => { e with returning := true }
    returnSpilled rg (e.spilled.length + 1) s

/-- An event ring of the device: of a context, of a PF, or one that a CTX_CREATE described. -/
def isEvRing (s : State) (rg : Nat) : Bool := (Tbl.get? s.evrings rg).isSome

/-- The step of an event ring at its endpoint; a ring that does not exist has none. -/
def onEvRing (rg : Nat) (f : Nat → State → State) (s : State) : Out :=
  .next (if !isEvRing s rg || held s (portNode (evring s rg).port) then s else f rg s)

/-- TAILINGS (R351). -/
def execTailings (ring : Nat) (s : State) : Out := onEvRing ring tailingsRow s

/-- DROPPED (R352): a record of its own for a ring that lost records, once the area has room again. -/
def droppedRow (rg : Nat) (s : State) : State :=
  let e := evring s rg
  if tailingsFree s < 851968 || e.dropPrio.all (· == 0) || !e.en then s
  else
    let n (i : Nat) : W64 := BitVec.ofNat 64 (e.dropPrio.getD i 0)
    let s := makeRecord s (portNode e.port) rg 6 e.port 15 (if rg < 64 then some rg else none) (n 0) (n 1) (n 2) 0 0
    modEvring s rg fun e => { e with dropPrio := [0, 0, 0] }

/-- DROPPED (R352). -/
def execDropped (ring : Nat) (s : State) : Out := onEvRing ring droppedRow s

/-- RING_HEAD_POLL (R350): only while the ring is full, at most every 256 ticks of the endpoint's pacer. -/
def ringHeadPoll (head : BitVec 32) (rg : Nat) (s : State) : State :=
  let e := evring s rg
  let n := portNode e.port
  if evRoom s rg ≠ 0 || !deliverable s rg || decide (pacerSince s n e.lastPoll < 256) then s
  else flushRing (modEvring s rg fun e => { e with head := head.toNat, lastPoll := pacerOf s n }) rg

/-- RING_HEAD_POLL (R350). -/
def execRingHeadPoll (ring : Nat) (head : BitVec 32) (s : State) : Out := onEvRing ring (ringHeadPoll head) s

/-! ### MSI-X (R353) -/

/-- Key of a vector of a function. -/
def vecKey (fn vec : Nat) : Nat := fn * 128 + vec

/-- Send a vector's message, or set its pending bit while it is masked or its function is in D3hot (R320). -/
def sendVector (s : State) (p fn vec : Nat) : State :=
  if NSet.has (port s p).unmasked (vecKey fn vec) && !inD3 s p fn then modPort s p fun y => { y with sent := y.sent ++ [vecKey fn vec] }
  else modPort s p fun y => { y with pendingVec := NSet.add y.pendingVec (vecKey fn vec) }

/-- MSI_X_MESSAGE (R353): MODCOUNT + 1 records since the last message, or MODTIME µs since the first of them; an
endpoint stamp counts 1,000 a µs (R52). -/
def msiXMessage (rg : Nat) (s : State) : State :=
  let e := evring s rg
  let late : Bool := e.modtime != 0 && decide (e.modtime * 1000 ≤ ((port s e.port).stamp.toNat + 2 ^ 64 - e.firstStamp) % 2 ^ 64)
  if e.sinceMsg = 0 || !(port s e.port).linkUp || !(decide (e.modcount + 1 ≤ e.sinceMsg) || late) then s
  else sendVector (modEvring s rg fun e => { e with sinceMsg := 0 }) e.port (evFn s rg) e.vector

/-- MSI_X_MESSAGE (R353). -/
def execMsiXMessage (ring : Nat) (s : State) : Out := onEvRing ring msiXMessage s

/-- MSI_X_UNMASK (R353): a pending message is sent at once. -/
def msiXUnmask (p fn vec : Nat) (s : State) : State :=
  if !hostReaches s p then s
  else
    let s := modPort s p fun y => { y with unmasked := NSet.add y.unmasked (vecKey fn vec) }
    if NSet.has (port s p).pendingVec (vecKey fn vec) then
      sendVector (modPort s p fun y => { y with pendingVec := NSet.del y.pendingVec (vecKey fn vec) }) p fn vec
    else s

/-- MSI_X_UNMASK (R353): a VF has 8 vectors (Table 16.3). -/
def execMsiXUnmask (port : BitVec 1) (fn : BitVec 5) (vector : BitVec 7) (s : State) : Out :=
  .next (if fn ≠ 0 ∧ 8 ≤ vector.toNat then s else msiXUnmask port.toNat fn.toNat vector.toNat s)

/-! ### D3hot (R320) -/

/-- D3HOT (R320): on return to D0, records and pending messages of the function are delivered. -/
def d3hot (p fn : Nat) (enter : Bool) (s : State) : State :=
  if !hostReaches s p then s
  else if enter then modPort s p fun y => if y.d3.contains fn then y else { y with d3 := fn :: y.d3 }
  else
    let s := modPort s p fun y => { y with d3 := y.d3.filter fun f => f != fn }
    let rings := (s.evrings.map (·.1)).filter fun rg => (evring s rg).port == p && evFn s rg == fn
    let s := rings.foldl flushRing s
    let vecs := (port s p).pendingVec.filter fun v => v / 128 == fn && NSet.has (port s p).unmasked v
    vecs.foldl (fun s v => sendVector (modPort s p fun y => { y with pendingVec := NSet.del y.pendingVec v }) p fn (v % 128)) s

/-- D3HOT (R320). -/
def execD3hot (port : BitVec 1) (fn : BitVec 5) (enter : Bool) (s : State) : Out := .next (d3hot port.toNat fn.toNat enter s)

end Sys2Proof.Machine
end

