-- ==== Sys2Proof/Machine/HostRows.lean ====
section
/-!
DEFINITION. What a host does to the device through its port other than commands (R309 to R319, R441), host
translations (R34, R35), and the limits on traffic to a host (R306, R319).
-/
namespace Sys2Proof.Machine

/-! ### Answers -/

/-- Answer a host's read: status 0 successful, 1 Completer Abort, 2 Unsupported Request, 4 successful with EP = 1
(Table 16.6). -/
def answerHost (s : State) (p status : Nat) (bytes : List Byte) : State :=
  modPort s p fun x => { x with answer := bytes, answerStatus := status }

/-- Log an error of a port (R319): 1 Completer Abort, 2 Unsupported Request, 3 Poisoned TLP Received, 4 Completion
Timeout. -/
def logAer (s : State) (p code : Nat) : State := modPort s p fun x => { x with aer := x.aer ++ [code] }

/-- An Unsupported Request answer to a read. -/
def unsupported (s : State) (p : Nat) : State := logAer (answerHost s p 2 []) p 2
/-- A Completer Abort answer to a read, logged as advisory. -/
def completerAbort (s : State) (p : Nat) : State := logAer (answerHost s p 1 []) p 1

/-- The fabric answers now: the device is neither in Deep Idle nor Off (R413). -/
def fabricUp (s : State) : Bool := s.dev.power == .active || s.dev.power == .idle

/-- Size of a PF's BAR2, 64 GiB, and of a VF's window slot, 1 GiB / 16 (Table 16.2 defaults; log entry 6). -/
def pfBar2 : Nat := 2 ^ 36
/-- Size of a VF's window slot. -/
def slotSize : Nat := 2 ^ 26

/-! ### BAR2 (R313 to R315) -/

/-- Key of a VF's window slot. -/
def slotKey (p vf slot : Nat) : Nat := p * 512 + vf * 16 + slot

/-- HBM device address of a PF's BAR2 offset (R313). -/
def apertureAddr (s : State) (p off : Nat) : Nat := (port s p).aperture.toNat * 2 ^ 30 / pfBar2 * pfBar2 % 2 ^ 40 + off

/-- What one line of a BAR2 access reaches; nothing where it is unbacked or refused (R313 to R315). -/
def bar2At (s : State) (p fn off : Nat) (acc : Acc) : Option Xlat :=
  if fn = 0 then
    if pfBar2 ≤ off ∨ (port s p).apertureDead then none
    else
      let a := apertureAddr s p off
      if a < reserveBase then some { tgt := .hbm a, nc := true, page := none } else none
  else match Tbl.get? s.slots (slotKey p fn (off / slotSize)) with
    | none => none
    | some (ctx, v) =>
      let va := v + off % slotSize
      if off ≥ 16 * slotSize ∨ va < 0x100000 ∨ (0x80000000 ≤ va ∧ va < 0xF0000000) then none
      else match agentXlat s (commandAgent ctx) acc va with
        | .ok x => (match x.tgt with | .hbm _ => some x | .remote d _ => if (routePort s d).isNone then none else some x | _ => none)
        | .error _ => none

/-- Read the lines of a BAR2 access; poison in any of them marks the answer. -/
def bar2Lines (s : State) (p fn off : Nat) : List (Nat × Nat) → Ext → List Byte → Bool → Option (Gath)
  | [], e, acc, psn => some (.ok acc psn s e)
  | (o, n) :: rest, e, acc, psn =>
    match bar2At s p fn (off + o) .read with
    | none => none
    | some x => match readPiece s x n e with
      | .ok bs q _ _ e => bar2Lines s p fn off rest e (acc ++ bs) (psn || q)
      | .wait => some .wait
      | .err _ => none

/-- BAR2_READ (R315). -/
def bar2Read (p fn off len : Nat) (ext : Ext) (s : State) : State :=
  if !hostReaches s p || !fabricUp s || held s (portNode p) || bar2Pending s p then s
  else if inD3 s p fn then unsupported s p
  else match bar2Lines s p fn off (pieces off len) ext [] false with
    | none => completerAbort s p
    | some (.ok bs psn s _) => answerHost s p (if psn then 4 else 0) bs
    | some _ => s

/-- BAR2_READ (R315). -/
def execBar2Read (port : BitVec 1) (fn : BitVec 5) (offset : BitVec 40) (len : Nat) (ext : Ext) (s : State) : Out :=
  .next (bar2Read port.toNat fn.toNat offset.toNat len ext s)

/-- What the lines of a BAR2 write reach, with the bytes of each: nothing where one of them is refused (R315). -/
def bar2Targets (s : State) (p fn off : Nat) (data : List Byte) : List (Nat × Nat) → Option (List (Xlat × List Byte))
  | [] => some []
  | (o, n) :: rest =>
    match bar2At s p fn (off + o) .write, bar2Targets s p fn off data rest with
    | some x, some xs => some ((x, (data.drop o).take n) :: xs)
    | _, _ => none

/-- A line that a BAR2 write can be performed on in this step: one of this device that no commit holds locked, in no held quadrant. -/
def bar2Now (s : State) (x : Xlat) : Bool :=
  match x.tgt with
  | .hbm _ => !lineLocked s x.tgt && !homeHeld s x.tgt
  | _ => false

/-- One line of a BAR2 write: performed at its home at once, or sent there to wait (R195, R228). -/
def bar2Line (p : Nat) (ep now : Bool) (s : State) (l : Xlat × List Byte) : State :=
  if now then homeWrite s l.1.tgt (offsets l.2) ep none
  else sendMsg s 3 (portNode p) (targetNode s l.1.tgt) (.write l.1.tgt (offsets l.2) ep (.bar2 p))

/-- BAR2_WRITE (R195, R315): a refused write is discarded whole. The lines of one that meets a locked line or another device go to
their homes as messages, and so do those of every later one while such a message is on its way. -/
def bar2Write (p fn off : Nat) (data : List Byte) (ep : Bool) (s : State) : State :=
  if !hostReaches s p || !fabricUp s || held s (portNode p) then s
  else if inD3 s p fn then logAer s p 2
  else match bar2Targets s p fn off data (pieces off data.length) with
    | none => logAer s p 2
    | some ls =>
      let now := !bar2Pending s p && ls.all fun l => bar2Now s l.1
      let s := ls.foldl (bar2Line p ep now) s
      if ep then logAer s p 3 else s

/-- BAR2_WRITE (R315). -/
def execBar2Write (port : BitVec 1) (fn : BitVec 5) (offset : BitVec 40) (data : List (BitVec 8)) (ep : Bool) (s : State) : Out :=
  .next (bar2Write port.toNat fn.toNat offset.toNat data ep s)

/-- The AtomicOps that are completed (Table 16.1): FetchAdd and Swap at 32 and 64 bits, CAS at 64. -/
def pcieAtomicOk (op : PcieAtomic) (bits : Nat) : Bool :=
  match op with | .cas => bits == 64 | _ => bits == 32 || bits == 64

/-- Number of a PCIe AtomicOp among the device's own (Table 9.5): add, swap, compare and swap. -/
def pcieAtomicCode : PcieAtomic → Nat
  | .swap => 6
  | .fetchAdd => 0
  | .cas => 7

/-- ATOMICOP (R309): performed at the HBM home under R198. -/
def atomicop (p fn off : Nat) (op : PcieAtomic) (bits : Nat) (operand compare : W64) (s : State) : State :=
  if !hostReaches s p || !fabricUp s || held s (portNode p) || bar2Pending s p then s
  else if inD3 s p fn || !pcieAtomicOk op bits || off % (bits / 8) != 0 then unsupported s p
  else match bar2At s p fn off .write with
    | some { tgt := .hbm a, .. } =>
      let t := Target.hbm a
      let n := bits / 8
      if lineLocked s t || homeHeld s t then s
      else if homePoison s t then answerHost s p 4 (homeRead s t n)
      else
        let old := homeRead s t n
        let new := atomicNew (pcieAtomicCode op) n (leNat old) operand compare
        answerHost (homeWrite s t (offsets (leBytes n new)) false none) p 0 old
    | _ => unsupported s p

/-- ATOMICOP (R309). -/
def execAtomicop (port : BitVec 1) (fn : BitVec 5) (offset : BitVec 40) (op : PcieAtomic) (bits : Nat) (operand compare : BitVec 64) (s : State) : Out :=
  .next (atomicop port.toNat fn.toNat offset.toNat op bits operand compare s)

/-! ### The Front Window (R316, Table 16.5) -/

/-- A register of the Front Window. -/
def frontWord (s : State) (p fn off : Nat) : Nat :=
  let x := port s p
  if off = 0x000 then
    fn + p * 2 ^ 8 + b2n (s.dev.primary == p) * 2 ^ 9 + (if s.dev.image.isEmpty then 0 else (Config.fwRevision s.dev.image).toNat) * 2 ^ 16
  else if off = 0x008 then
    x.stateCopy.toNat + ((x.nctxCopy.find? fun e => e.1 == fn).map (·.2)).getD 0 * 2 ^ 8 + x.goodCopy * 2 ^ 32
  else if off = 0x010 then s.dev.heartbeat.toNat
  else if off = 0x018 then x.stamp.toNat
  else if off = 0x020 then x.uptimeCopy.toNat
  else if off = 0x028 then b2n x.peerUp + x.peerDown.toNat * 2 ^ 32
  else if 0x040 ≤ off ∧ off < 0x0C0 then
    let rk := p * 512 + fn * 16 + (off - 0x040) / 8
    if hasRing rk then (ring s rk).head.toNat else 0
  else 0

/-- FRONT_WINDOW_READ (R316): answered in every state of a powered device. -/
def frontWindowRead (p fn off len : Nat) (s : State) : State :=
  if !hostReaches s p then s
  else if inD3 s p fn then unsupported s p
  else if (len = 4 ∨ len = 8) ∧ off % len = 0 then
    answerHost s p 0 (leBytes len (frontWord s p fn (off / 8 * 8) / 2 ^ (8 * (off % 8))))
  else completerAbort s p

/-- FRONT_WINDOW_READ (R316). -/
def execFrontWindowRead (port : BitVec 1) (fn : BitVec 5) (offset : BitVec 12) (len : Nat) (s : State) : Out :=
  .next (frontWindowRead port.toNat fn.toNat offset.toNat len s)

/-! ### PF registers and the node aperture (R313, R440, R441) -/

/-- A PF's BAR0 takes a write now. -/
def pfWritable (s : State) (p : Nat) : Bool := hostReaches s p && fabricUp s && !inD3 s p 0

/-- APERTURE_BASE (R313): the write ends the disabling of Table 22.3. -/
def execApertureBase (port : BitVec 1) (value : BitVec 64) (s : State) : Out :=
  .next (if pfWritable s port.toNat then modPort s port.toNat fun x => { x with aperture := value.setWidth 10, apertureDead := false } else s)

/-- NODESEL (R441). -/
def execNodesel (port : BitVec 1) (value : BitVec 64) (s : State) : Out :=
  .next (if pfWritable s port.toNat then modPort s port.toNat fun x => { x with nodesel := value.setWidth 8 } else s)

/-- APERTURE_WRITE (R441): the primary port's PF clears RW1C bits; every other write is discarded and DENIED. -/
def apertureWrite (p off len : Nat) (v : W64) (s : State) : State :=
  let n := (port s p).nodesel.toNat
  if !pfWritable s p || held s n then s
  else
    let denied := logAer (hregFlag (regFlag s n 4 off 2) p 4 (0x800000 + off)) p 2
    if !(regSize len && off % len == 0) then logAer s p 2
    else if s.dev.primary ≠ p then denied
    else if benchDead s n && !([0, 1, 7].contains (off / 0x10000)) then s
    else match clearRegister s n (off / 0x10000) (off % 0x10000 / 8 * 8) (off % 8) len v with
      | some s => s
      | none => denied

/-- APERTURE_WRITE (R441). -/
def execApertureWrite (port : BitVec 1) (offset : BitVec 24) (len : Nat) (value : BitVec 64) (s : State) : Out :=
  .next (apertureWrite port.toNat offset.toNat len value s)

/-! ### Host translations (R34, R35) -/

/-- Contexts of a port that use a PASID. -/
def pasidContexts (s : State) (p pasid : Nat) : List Nat :=
  (s.ctxs.filter fun e => e.2.port == p && e.2.pasid == pasid).map (·.1)

/-- A cached host translation of these contexts whose untranslated page overlaps a range. -/
def atsHit (cs : List Nat) (lo len : Nat) (e : TuEntry) : Bool :=
  match e.ats with
  | none => false
  | some (_, a) => cs.contains e.ctx && decide (a < lo + len) && decide (lo < a + 2 ^ e.log2)

/-- ATS_INVALIDATION (R35): the translations go and the completion is returned to the host, once no access that used one is in
flight. -/
def atsInvalidation (p pasid lo len : Nat) (s : State) : State :=
  let cs := pasidContexts s p pasid
  let hits := s.benches.flatMap fun b => b.2.tu.filter (atsHit cs lo len)
  if !hostReaches s p || hits.any fun e => rangeInUse s e.ctx (e.vpage * 2 ^ e.log2) (2 ^ e.log2) then s
  else
    let drop (b : Bench) : Bench := { b with tu := b.tu.filter fun e => !atsHit cs lo len e }
    modPort { s with benches := s.benches.map fun b => (b.1, drop b.2) } p fun x => { x with invDone := x.invDone ++ [(pasid, lo, len)] }

/-- ATS_INVALIDATION (R35). -/
def execAtsInvalidation (port : BitVec 1) (pasid : BitVec 20) (base : BitVec 64) (len : Nat) (s : State) : Out :=
  .next (atsInvalidation port.toNat pasid.toNat base.toNat len s)

/-- The thread of a page request goes on: its instruction issues again. -/
def endPageReq (s : State) (req : Nat) (r : PageReq) : State :=
  let k := r.core * 8 + r.thr
  let s := { s with pageReqs := Tbl.erase s.pageReqs req }
  match r.why with
  | .chain ch => modHaul s r.node ch fun h => { h with page := .idle }
  | _ => if (thr s k).wait = some (.pri req) then modThr s k fun t => { t with wait := none } else s

/-- The translation that a host answered, kept in the bench's translation unit (R31, R34): bit 63 of the kept entry
marks one without write permission. -/
def keepHost (s : State) (r : PageReq) (w : Bool) (page len : Nat) : State :=
  match walk s r.ctx r.vpage with
  | .leaf p l =>
    let log2 := min l (max 12 len)
    let e : TuEntry :=
      { ctx := r.ctx, vpage := r.vpage / 2 ^ log2, log2 := log2, pte := if w then p else p ||| 0x8000000000000000#64,
        ats := some (page / 2 ^ log2 * 2 ^ log2, pteAddr p.toNat % 2 ^ 40 + r.vpage % 2 ^ l / 2 ^ log2 * 2 ^ log2) }
    let cover (x : TuEntry) : Bool := x.ctx == r.ctx && r.vpage / 2 ^ x.log2 == x.vpage
    tuInsert (modBench s r.node fun b => { b with tu := b.tu.filter fun x => !cover x }) r.node e
  | _ => s

/-- ATS_RESPONSE (R34): `len` is the log2 of the size translated. A translation that does not allow the access, or
none, leads to a PRI page request. -/
def atsResponse (req : Nat) (found rd wr : Bool) (page len : Nat) (s : State) : State :=
  match Tbl.get? s.pageReqs req with
  | none => s
  | some r =>
    if r.pri || held s r.node then s
    else if found && (if r.write then wr else rd) then endPageReq (keepHost s r wr page len) req r
    else { s with pageReqs := Tbl.set s.pageReqs req { r with pri := true, since := pacerOf s r.node } }

/-- ATS_RESPONSE (R34). -/
def execAtsResponse (req : Nat) (found : Bool) (r w : Bool) (page : BitVec 40) (len : Nat) (s : State) : Out :=
  .next (atsResponse req found r w page.toNat len s)

/-- The page is refused (R34): PAGE at the instruction that waits; an entry that needs it fails with ESC 2 (R101); a chain ends with
the fault. -/
def refusePage (s : State) (req : Nat) (r : PageReq) : State :=
  let k := r.core * 8 + r.thr
  let s := { s with pageReqs := Tbl.erase s.pageReqs req }
  match r.why with
  | .chain ch => modHaul s r.node ch fun h => { h with page := .refused }
  | why =>
    if (thr s k).wait != some (.pri req) then s
    else match why with
      | .entry e intr pc => (escalate (modThr s k fun t => { t with wait := none }) k e intr pc 2 (BitVec.ofNat 64 r.vpage)).state
      | .instr e => faultWait s k e
      | .chain _ => s

/-- PAGE_RESPONSE (R34). -/
def pageResponse (req : Nat) (granted : Bool) (s : State) : State :=
  match Tbl.get? s.pageReqs req with
  | none => s
  | some r => if !r.pri || held s r.node then s else if granted then endPageReq s req r else refusePage s req r

/-- PAGE_RESPONSE (R34). -/
def execPageResponse (req : Nat) (granted : Bool) (s : State) : Out := .next (pageResponse req granted s)

/-- PAGE_REQUEST_TIMEOUT (R34): 1,048,576 ticks of the bench's pacer. -/
def pageRequestTimeout (req : Nat) (s : State) : State :=
  match Tbl.get? s.pageReqs req with
  | none => s
  | some r => if !r.pri || held s r.node || decide (pacerSince s r.node r.since < 1048576) then s else refusePage s req r

/-- PAGE_REQUEST_TIMEOUT (R34). -/
def execPageRequestTimeout (req : Nat) (s : State) : Out := .next (pageRequestTimeout req s)

/-! ### Limits on traffic to a host (R306, R319) -/

/-- HOST_WRITE_TIMEOUT (R306): a write that has waited 1,048,576 ticks of the endpoint's pacer is answered with an
error. -/
def hostWriteTimeout (m : Nat) (s : State) : State :=
  match arrived s m with
  | none => s
  | some x => match x.pay with
    | .write (.host p _) _ _ req =>
      if (port s p).linkUp && decide (1048576 < pacerSince s x.dst x.arr) && !held s x.dst then reply s x (.error 8 req) else s
    | _ => s

/-- HOST_WRITE_TIMEOUT (R306). -/
def execHostWriteTimeout (m : Nat) (s : State) : Out := .next (hostWriteTimeout m s)

/-- COMPLETION_TIMEOUT (R319): a read of host memory is answered to its requester as an error. -/
def completionTimeout (m : Nat) (s : State) : State :=
  match arrived s m with
  | none => s
  | some x => match x.pay with
    | .read (.host p _) _ req => if held s x.dst then s else reply (logAer s p 4) x (.error 8 req)
    | _ => s

/-- COMPLETION_TIMEOUT (R319). -/
def execCompletionTimeout (m : Nat) (s : State) : Out := .next (completionTimeout m s)

end Sys2Proof.Machine
end

