-- ==== Sys2Proof/Machine/Rings.lean ====
section
/-!
DEFINITION. Command rings (R325 to R332, R335, R229 to R232): doorbells, packet reads, enabling rings, the checks
that every packet passes, and how a ring's command begins.
-/
namespace Sys2Proof.Machine

/-! ### Rings and doorbells (R325 to R327) -/

/-- Packet slots of a ring. -/
def ringSlots (r : Ring) : Nat := 2 ^ r.log2n

/-- A doorbell with tail `t` (R327): accepted, or discarded with BADTAIL; one for a ring that is not set up is
discarded (R312). -/
def doorbell (rk t : Nat) (s : State) : State :=
  let p := rk / 512
  let r := ring s rk
  if !hostReaches s p || held s (portNode p) then s
  else if inD3 s p (rk / 16 % 32) then logAer s p 2
  else if !hasRing rk || !r.en then s
  else
    let n := ringSlots r
    if (t + 2 ^ 32 - r.head.toNat) % 2 ^ 32 ≤ n ∧ (t + 2 ^ 32 - r.tail.toNat) % 2 ^ 32 ≤ n then
      modRing (ringActs s rk) rk fun r => { r with tail := BitVec.ofNat 32 t }
    else modRing s rk fun r => { r with badtail := true }

/-- DOORBELL (R327, R312): bits [31:0] give the tail. -/
def execDoorbell (r : RingRef) (value : BitVec 64) (s : State) : Out := .next (doorbell (ringKey r) (value.toNat % 2 ^ 32) s)

/-- What a host's write of RING_CTL does (R326, R437). -/
def ringCtl (rk : Nat) (v : W64) (s : State) : State :=
  let p := rk / 512
  if !pfWritable s p || !hasRing rk || held s (portNode p) then s
  else
    let x := v.toNat
    let r := ring s rk
    let log2n := bits x 4 1
    let gen := bits x 6 5
    let viol : Bool := r.en && (log2n != r.log2n || gen != r.gen.toNat)
    let r := { r with badtail := r.badtail && !bit x 8, cfgerr := r.cfgerr && !bit x 9, rderr := r.rderr && !bit x 10 }
    let r :=
      if r.en then (if bit x 0 then r else { r with en := false, attempts := 0 })
      else
        let r := { r with log2n := log2n, gen := BitVec.ofNat 2 gen }
        if !bit x 0 then r
        else if log2n < 4 ∨ 11 < log2n ∨ gen = 0 then { r with cfgerr := true }
        else { r with en := true, tail := 0, head := 0, attempts := 0 }
    let s := modRing s rk fun _ => r
    if viol then hregFlag s p 2 (ringBlock rk + 8) else s

/-- RING_CTL (R326). -/
def execRingCtl (r : RingRef) (value : BitVec 64) (s : State) : Out := .next (ringCtl (ringKey r) value s)

/-- A ring is enabled anew: its records count from 0 (R346, R350). -/
def freshRing (e : EvRing) : EvRing :=
  { e with written := 0, head := 0, drops := 0, dropPrio := [0, 0, 0], sinceMsg := 0, firstStamp := 0, fence := 0,
           returning := false, spilled := [], firstSpill := 0, lastPoll := 0 }

/-- Every source's SEQ for a ring starts again from 0 (R346). -/
def freshSeqs (s : State) (rg : Nat) : State := { s with seqs := s.seqs.filter fun e => e.1 / 2 ^ 20 != rg }

/-- What a host's write of EVR_CTL does (R326, R437). -/
def evrCtl (p : Nat) (v : W64) (s : State) : State :=
  if !pfWritable s p || held s (portNode p) then s
  else
    let x := v.toNat
    let rg := devRing p
    let e := evring s rg
    let viol : Bool := e.en && (bits x 5 1 != e.log2n || bits x 14 8 != e.vector || bits x 41 32 != e.modcount || bits x 63 48 != e.modtime)
    let s :=
      if e.en then modEvring s rg fun e => { e with en := bit x 0 }
      else
        let s := modEvring s rg fun e => { e with log2n := bits x 5 1, vector := bits x 14 8, modcount := bits x 41 32, modtime := bits x 63 48 }
        if bit x 0 ∧ 6 ≤ bits x 5 1 ∧ bits x 5 1 ≤ 20 then freshSeqs (modEvring s rg fun e => { freshRing e with en := true }) rg else s
    if viol then hregFlag s p 2 0x10208 else s

/-- EVR_CTL (R326); a LOG2N out of its range leaves EN at 0 (log entry 26). -/
def execEvrCtl (port : BitVec 1) (value : BitVec 64) (s : State) : Out := .next (evrCtl port.toNat value s)

/-! ### What a packet must satisfy (R330 to R332, R6) -/

/-- Generation of an opcode (Table 17.3). -/
def opGen (op : Nat) : Option Nat :=
  if [0x00, 0x01, 0x02, 0x03, 0x10, 0x11, 0x12, 0x18, 0x19, 0x1A, 0x1B, 0x20, 0x21, 0x28, 0x29, 0x2A, 0x30, 0x32, 0x35, 0x40, 0x41, 0x42].contains op then some 1
  else if op = 0x04 then some 2
  else if [0x31, 0x33, 0x34, 0x36, 0x37, 0x38, 0x39].contains op then some 3
  else none

/-- Parameter words that an opcode carries. -/
def opParams (op : Nat) : Nat :=
  if [0x12, 0x21, 0x28, 0x29, 0x30, 0x33, 0x34, 0x40, 0x41].contains op then 1
  else if [0x02, 0x20, 0x2A, 0x31, 0x35, 0x42].contains op then 2
  else if [0x03, 0x10, 0x18, 0x19, 0x1A, 0x1B, 0x32].contains op then 3
  else if op = 0x01 then 5 else if op = 0x36 ∨ op = 0x37 then 7 else 0

/-- The bits of a parameter word that carry a field; the others are reserved (R6; log entry 26). -/
def opMask (op i : Nat) (flag : Bool) : Nat :=
  let all := 2 ^ 64 - 1
  let span (hi lo : Nat) : Nat := 2 ^ (hi + 1) - 2 ^ lo
  match op, i with
  | 0x01, 2 => span 31 0
  | 0x01, 4 => span 31 0
  | 0x03, 1 => span 47 0
  | 0x10, 0 => span 28 0 + span 38 32
  | 0x18, 1 => if flag then span 4 0 + span 11 8 + span 21 16 else all
  | 0x18, 2 => if flag then 0 else span 39 0
  | 0x19, 1 => if flag then span 4 0 + span 11 8 + span 21 16 else 0
  | 0x19, 2 => if flag then 0 else span 39 0
  | 0x21, 0 => span 3 0 + span 31 16
  | 0x29, 0 => span 2 0 + span 27 16
  | 0x2A, 0 => span 2 0
  | 0x32, 1 => span 3 0 + span 23 8
  | 0x33, 0 => span 3 0 + span 23 8
  | 0x34, 0 => span 3 0 + span 23 8
  | _, _ => all

/-- The opcodes that have FLAGS[0]. -/
def opFlag (op : Nat) : Bool := [0x02, 0x18, 0x19, 0x29, 0x2A].contains op

/-- The commands that may be members of a group (R230). -/
def memberOp (op : Nat) : Bool := [0x18, 0x19, 0x31, 0x33, 0x34, 0x28].contains op

/-- The group field is as Table 17.2 says: a number on GROUP_OPEN, GROUP_CLOSE and members, zero otherwise. -/
def groupField (r : Ring) (p : Packet) : Bool :=
  let g := pktGroup p
  if r.gen ≠ 3 then g == 0
  else if pktOp p = 0x38 ∨ pktOp p = 0x39 then g != 0
  else g == 0 || (memberOp (pktOp p) && (r.group.isSome || r.discard == g))

/-- A field of a packet's header that must be zero is not (Table 17.2): an opcode that Table 17.3 does not list has no FLAGS. -/
def headerReserved (r : Ring) (p : Packet) : Bool :=
  bits (p.getD 0 0).toNat 63 48 != 0 || pktVer p != r.gen.toNat || pktFlags p != (if opFlag (pktOp p) then pktFlags p % 2 else 0) || !groupField r p

/-- A reserved bit of a listed opcode's parameter words is set (R6, R330). -/
def paramReserved (p : Packet) : Bool :=
  let op := pktOp p
  (opGen op).isSome && (List.range 7).any fun i =>
    ((pktP p i).toNat &&& (if i < opParams op then 2 ^ 64 - 1 - opMask op i (bit (pktFlags p) 0) else 2 ^ 64 - 1)) != 0

/-- MALFORMED or UNSUPPORTED (R330, R331), which need nothing but the packet and its ring. -/
def packetBad (r : Ring) (p : Packet) : Option Nat :=
  if headerReserved r p || paramReserved p then some 1
  else match opGen (pktOp p) with
    | none => some 2
    | some g => if g > r.gen.toNat then some 2 else none

/-- The commands of the sequencer (R329). -/
def seqOp (op : Nat) : Bool := decide (op ≤ 4)

/-- FW_PUSH and GET_INFO, which the boot ROM also serves. -/
def romOp (op : Nat) : Bool := op == 0x35 || op == 0x30

/-- The statuses that rank before a command's own checks: NOT_READY, BAD_CONTEXT, CONTEXT_LOST on an ended context
(R377), NOT_PRIMARY, GUARD_FAIL (R329, R332, R322, R336, R335). GET_INFO and GET_HISTORY are served to PFs alone (DEDUCED, log entry 26). -/
def headerStatus (s : State) (rk : Nat) (p : Packet) : Option Nat :=
  let op := pktOp p
  let fw := s.dev.fwState.toNat
  let fn := rk / 16 % 32
  let prim : Bool := rk / 512 == s.dev.primary && fn == 0
  if (fw = 1 ∨ fw = 2) ∧ !romOp op ∧ op ≠ 0 then some 4
  else if fw = 4 ∧ !seqOp op ∧ !romOp op then some 4
  else if (fw = 2 ∨ fw = 4) ∧ romOp op ∧ !(prim && rk % 16 == 0) then some 4
  else if (if namesNoContext op then pktCtx p != 0 else !ringOwns s rk (pktCtx p)) then some 3
  else if !namesNoContext op ∧ op ≠ 0x42 ∧ op ≠ 0x12 ∧ op ≠ 0x11 ∧ ((Tbl.get? s.ctxs (pktCtx p)).map (·.ended)).getD false then some 15
  else if [0x31, 0x33, 0x34, 0x35, 0x37].contains op ∧ !prim then some 5
  else if (op = 0x30 ∨ op = 0x32) ∧ fn ≠ 0 then some 5
  else if (op = 0x36 ∨ op = 0x37) ∧
      (!((List.range 6).all fun i => pktP p i == 0) || pktP p 6 != ~~~ (p.getD 0 0)) then some 6
  else none

/-! ### Reading packets (R327, R328) -/

/-- The answer to an earlier packet of a ring has not yet been issued to host memory. -/
def answerPending (s : State) (rk : Nat) : Bool :=
  let mine (x : Record) : Bool := x.scls == 0 && x.srcid == rk
  ((s.mesh ++ s.inbox).any fun m => match m.pay with | .record x => mine x | _ => false) ||
    (s.ports.any fun p => p.2.buf.any mine) || s.evrings.any fun e => e.2.spilled.any fun y => mine y.1

/-- The packet at CMD_HEAD can be read now: what the host wrote through BAR2 has been performed (R195). -/
def readable (s : State) (rk : Nat) : Bool :=
  let r := ring s rk
  let p := rk / 512
  r.en && r.cur.isNone && r.head != r.tail && (port s p).linkUp && s.dev.power == .active && !inD3 s p (rk / 16 % 32) && !held s (portNode p) &&
    hasRing rk && !answerPending s rk && !bar2Pending s p

/-- An open group fails (R230): its members complete with GROUP_ABORTED in order, then the refused packet with its
own status. -/
def groupFail (s : State) (rk status : Nat) : State :=
  let members := match (ring s rk).group with | some (_, ms) => ms | none => []
  let s := members.foldl (fun s m => answerPacket s rk m.1 1 19 0 0 0 0 0) s
  finishWith (modRing s rk fun r => { r with group := none }) rk status

/-- PACKET_READ (R327): counted in CMD_HEAD and dispatched; MALFORMED and UNSUPPORTED are answered at once. -/
def packetRead (rk : Nat) (words : List W64) (s : State) : State :=
  if !readable s rk then s
  else
    let n := if (ring s rk).gen = 1 then 4 else 8
    let pkt : Packet := (List.range n).map fun i => words.getD i 0
    let s := modRing { s with nextMsg := s.nextMsg + 1 } rk fun r =>
      { r with head := r.head + 1, attempts := 0, cur := some pkt, st := .ready, readNo := s.nextMsg }
    match packetBad (ring s rk) pkt with
    | some st => if (ring s rk).group.isSome then groupFail s rk st else finishWith s rk st
    | none => s

/-- PACKET_READ (R327). -/
def execPacketRead (r : RingRef) (words : List (BitVec 64)) (s : State) : Out := .next (packetRead (ringKey r) words s)

/-- PACKET_READ_RETRY (R327): a read that failed; the third failure disables the ring with RDERR. -/
def packetReadRetry (rk : Nat) (s : State) : State :=
  if !readable s rk then s
  else modRing s rk fun r =>
    if r.attempts < 2 then { r with attempts := r.attempts + 1 } else { r with attempts := 0, en := false, rderr := true }

/-- PACKET_READ_RETRY (R327). -/
def execPacketReadRetry (r : RingRef) (s : State) : Out := .next (packetReadRetry (ringKey r) s)

/-! ### How a command begins (R328, R329, R229 to R232) -/

/-- A firmware command waits for one read earlier on another ring (R329); FW_PUSH and GET_INFO wait in state 1. -/
def fwTurn (s : State) (rk : Nat) (p : Packet) : Bool :=
  if seqOp (pktOp p) then true
  else if s.dev.fwState = 1 ∧ romOp (pktOp p) then false
  else if headerStatus s rk p = some 4 then true
  else s.rings.all fun e =>
    e.1 == rk || e.2.st != .ready || decide ((ring s rk).readNo < e.2.readNo) ||
      (match e.2.cur with
        | none => true
        | some q => seqOp (pktOp q) || headerStatus s e.1 q == some 4)

/-- The sequencer that runs a fast-path command is not held (R45); the management core runs on through a hold, which it counts
(R393). -/
def cmdAwake (s : State) (rk : Nat) (p : Packet) : Bool :=
  s.dev.power == .active && !dark s && !(seqOp (pktOp p) && held s (portNode (rk / 512)))

/-- A packet while its ring's group is open (R230, R231): a member is checked and taken, with the status of its check; GROUP_CLOSE
goes on unless the header checks refuse it; anything else fails the group, and is refused with the first of its statuses
(R335). -/
def inGroup (check : State → Nat → Packet → Nat) (s : State) (rk : Nat) (p : Packet) (num : Nat) (members : List (Packet × Nat))
    (body : State → Nat → Packet → State) : State :=
  let status := headerStatus s rk p
  if memberOp (pktOp p) ∧ pktGroup p = num ∧ members.length < 64 then
    modRing s rk fun r => { r with cur := none, group := some (num, members ++ [(p, status.getD (check s rk p))]) }
  else if pktOp p = 0x39 ∧ pktGroup p = num then (match status with | some st => finishWith s rk st | none => body s rk p)
  else groupFail s rk (status.getD 20)

/-- The step of a ring's command with opcode `op` (R328, R335): checks that come first, then its own meaning, which
goes on for a command that has begun; `check` is the status of its own check as a member of a group, 0 where it passes. -/
def runChecked (check : State → Nat → Packet → Nat) (op : Nat) (r : RingRef) (body : State → Nat → Packet → State) (s : State) : State :=
  let rk := ringKey r
  match (ring s rk).cur with
  | none => s
  | some p =>
    if pktOp p ≠ op || !cmdAwake s rk p then s
    else if (ring s rk).st ≠ .ready then body s rk p
    else if !fwTurn s rk p then s
    else match (ring s rk).group with
      | some (num, members) => inGroup check s rk p num members body
      | none =>
        if headerStatus s rk p = some 4 then finishWith s rk 4
        else if pktGroup p ≠ 0 ∧ pktGroup p = (ring s rk).discard ∧ pktOp p ≠ 0x38 then
          finishWith (if pktOp p = 0x39 then modRing s rk fun r => { r with discard := 0 } else s) rk 20
        else match headerStatus s rk p with
          | some st => finishWith s rk st
          | none => body s rk p

/-- The step of a command that its own check cannot refuse as a member of a group. -/
def runCommand (op : Nat) (r : RingRef) (body : State → Nat → Packet → State) (s : State) : State := runChecked (fun _ _ _ => 0) op r body s

/-- What a command that takes one step answers: a refusal with status and REASON, not yet, or its effect with payload. -/
inductive Answer where
  | refuse (status reason : Nat)
  | later
  | done (s : State) (w4 w5 : W64)

/-- Finish a ring's command with its answer; one that must wait has begun. -/
def answer (s : State) (rk : Nat) : Answer → State
  | .refuse st reason => finish s rk st reason 0 0 0 0
  | .later => modRing s rk fun r => { r with st := .begun }
  | .done s w4 w5 => finish s rk 0 0 w4 w5 0 0

/-- NOP (R334). -/
def execNop (r : RingRef) (s : State) : Out := .next (runCommand 0x00 r (fun s rk _ => finishWith s rk 0) s)

end Sys2Proof.Machine
end

