-- ==== Sys2Proof/Machine/Commands.lean ====
section
/-!
DEFINITION. The sequencer's commands and those that act on running kernels (R338 to R340, R343): LAUNCH, SIGNAL,
WAIT, FENCE, STOP, HALT, RESUME, READ_STATE.
-/
namespace Sys2Proof.Machine

/-! ### LAUNCH (R338, R87, R194) -/

/-- The context that a packet names, which the header checks have found. -/
def cmdCtx (s : State) (p : Packet) : Option Ctx := Tbl.get? s.ctxs (pktCtx p)

/-- The cores that a LAUNCH names: a first logical core and a count, 0 for all from it. -/
def launchCores (x : Ctx) (p : Packet) : Option (List Nat) :=
  let w := (pktP p 2).toNat
  let first := bits w 15 0
  let cnt := bits w 31 16
  if first < x.lcore.length ∧ (cnt = 0 ∨ first + cnt ≤ x.lcore.length) then
    some (if cnt = 0 then x.lcore.drop first else (x.lcore.drop first).take cnt)
  else none

/-- PRECISION_CTL of a context's settings (R163). -/
def precisionOf (x : Ctx) : W64 := BitVec.ofNat 64 (x.thresh.toNat + x.minconv.toNat * 2 ^ 16 + b2n x.event * 2 ^ 33)

/-- A thread at LAUNCH (R87): entry `e`, argument `a`. Registers that the list of R87 does not name keep their value, but for the PC of
the threads that mode 8 leaves HELD, for which R87 gives no value: it is 0 (DESIGN CHOICE, log entry 37). What an aborted
transaction of the thread has still to release is released all the same (R218). -/
def startThread (s : State) (k mode : Nat) (e a : W64) (x : Ctx) : State :=
  let t := k % 8
  let c := k / 8
  let held : Bool := mode == 8 && t != 0
  modThr s k fun y =>
    { Thread.init with
      x := Tbl.set [] 10 a
      pc := if held then 0 else if mode = 8 then e else e + BitVec.ofNat 64 (4 * t)
      run := if held then .held else .running
      dbg := y.dbg
      tx := { Tx.none with releases := y.tx.releases, reserved := y.tx.reserved }
      sys := { y.sys with tp := 0, vprog := 0, rpc := 0, priv := 1, mask := 0, bks := false, vbase0 := 0, vbase1 := x.vbase1,
                          vbase2 := Config.fwVectorBase, precision := precisionOf x,
                          backstopSp := BitVec.ofNat 64 (2 ^ 40 + c * 2 ^ 20 + 0x78400 + 0x400 * t), depth := 0, recs := 0,
                          bkLevel := 0, bkRec := false } }

/-- Start a kernel on a core: its bench leaves gating, its ports are free (R233), its threads start. -/
def startCore (s : State) (r : RingRef) (c : Nat) (e a : W64) (x : Ctx) : State :=
  let s := modNode s (c / 8) fun n => { n with gated := false }
  let s := freePorts s c none
  let s := modCore s c fun y => { y with kernel := some r, partEnded := false, tpend := 0, array := [] }
  (coreThreads s c).foldl (fun s k => startThread s k (core s c).mode e a x) s

/-- LAUNCH (R338): a core that runs a kernel already, or is fenced, refuses with BUSY (Tables 17.4, 19.6). -/
def cmdLaunch (r : RingRef) (s : State) (rk : Nat) (p : Packet) : State :=
  match cmdCtx s p with
  | none => s
  | some x =>
    if (ring s rk).st ≠ .ready then s
    else match launchCores x p with
      | none => finishWith s rk 9
      | some cs =>
        if bit (pktP p 0).toNat 0 then finishWith s rk 9
        else if cs.any fun c => (core s c).kernel.isSome || !goodCore s c then finishWith s rk 23
        else
          let s := cs.foldl (fun s c => startCore s r c (pktP p 0) (pktP p 1) x) s
          let l : Launch := { ring := r, ctx := pktCtx p, tag := pktTag p, cores := cs, lost := [], report := pktP p 3, cap := (pktP p 4).toNat, stopped := false, flush := none }
          modRing { s with launches := s.launches ++ [l] } rk fun q => { q with st := .launched }

/-- LAUNCH (R338). -/
def execLaunch (r : RingRef) (s : State) : Out := .next (runCommand 0x01 r (cmdLaunch r) s)

/-- The launch that a ring runs. -/
def launchOf (s : State) (rk : Nat) : Option Launch := s.launches.find? fun l => ringKey l.ring == rk

/-- Threads of a launch left HALTED, those of a fenced core among them, in ascending order (R338, R381). -/
def haltedThreads (s : State) (l : Launch) : List Nat :=
  (l.cores.foldl (fun (acc : NSet) c =>
    (List.range 8).foldl (fun acc t =>
      let k := c * 8 + t
      if l.lost.contains k || (goodCore s c && decide (t < (core s c).mode) && (thr s k).run == .halted) then NSet.add acc k else acc) acc) [])

/-- The benches of some cores. -/
def benchesOf (cs : List Nat) : List Nat := (cs.map (· / 8)).eraseDups

/-- The bench caches that ran the kernel can be written back now (R194). -/
def cachesReady (s : State) (cs : List Nat) : Bool :=
  (benchesOf cs).all fun n =>
    (bench s n).pass.isNone && (bench s n).fetches.isEmpty && !(bench s n).ways.any fun e => e.2.dirty != 0 && lineLocked s (lineTarget e.2.line)

/-- The threads of a launch. -/
def launchThreads (s : State) (l : Launch) : List Nat := l.cores.flatMap fun c => coreThreads s c

/-- An access, a counter operation, a haul chain or a release of a thread of the kernel has still to be answered (R190, R194). -/
def kernelOwed (s : State) (l : Launch) : Bool :=
  (l.cores.any fun c => !(core s c).sb.isEmpty) || (launchThreads s l).any fun k => owed s k

/-- The host ports that carried a write of the kernel (R194). -/
def kernelPorts (s : State) (l : Launch) : List Nat := ((launchThreads s l).flatMap fun k => (thr s k).hostPorts).eraseDups

/-- Replace the launch of a ring. -/
def setLaunch (s : State) (rk : Nat) (f : Launch → Launch) : State :=
  { s with launches := s.launches.map fun l => if ringKey l.ring = rk then f l else l }

/-- A thread at the end of its kernel: its handles and staged words are given up (R238, R239). -/
def kernelThread (t : Thread) : Thread := { t with handles := [], staged := [], stageHandle := none, hostPorts := [] }

/-- The last core's part has ended (R194): its gather buffers are written back (R178), its ports, handles and staged words are given
up (R238, R239, R244), and every bench cache that ran the kernel begins to write back and invalidate. -/
def kernelEnds (s : State) (rk : Nat) (l : Launch) : State :=
  let ports := kernelPorts s l
  let s := l.cores.foldl (fun s c => freePorts (gbufFlushAll s c) c none) s
  let s := (launchThreads s l).foldl (fun s k => modThr s k kernelThread) s
  setLaunch ((benchesOf l.cores).foldl (fun s n => beginPass s n []) s) rk fun l => { l with flush := some ports }

/-- The caches are written back: a flush read goes out on each host port that carried a write of the kernel (R194). -/
def kernelFlushes (s : State) (rk : Nat) (l : Launch) (ports : List Nat) : State :=
  let n := (benchesOf l.cores).headD 0
  setLaunch (ports.foldl (fun s p => sendMsg s 3 n (portNode p) (.read (.host p 0) 0 (.kernelFlush rk p))) s) rk
    fun l => { l with flush := some (ports.map (2 + ·)) }

/-- The command ring that a STOP names. -/
def stopTarget (rk : Nat) (p : Packet) : Nat := rk / 16 * 16 + bits (pktP p 0).toNat 3 0

/-- The STOPs of a LAUNCH complete after it (R340). -/
def stopsDone (s : State) (rk : Nat) : State :=
  let mine (e : Nat × Ring) : Bool := e.2.st == .halting &&
    (match e.2.cur with | some p => pktOp p == 0x21 && stopTarget e.1 p == rk | none => false)
  ((s.rings.filter mine).map (·.1)).foldl (fun s q => finishWith s q 0) s

/-- LAUNCH completes (R338): its report, then its COMPLETION; nothing happens while the report cannot be written. -/
def launchReport (s0 : State) (rk : Nat) (l : Launch) (ext : Ext) : State :=
  let ks := haltedThreads s0 l
  let s := l.cores.foldl (fun s c => modCore s c fun y => { y with kernel := none, partEnded := false }) s0
  let s := trimTables { s with launches := s.launches.filter fun y => ringKey y.ring != rk }
  let out := if l.report = 0 then [] else ks.take l.cap
  let w4 := BitVec.ofNat 64 (ks.length + out.length * 2 ^ 32)
  let status := if l.stopped then 14 else if ks.isEmpty then 0 else 13
  match agentStore s (commandAgent l.ctx) l.report.toNat (out.flatMap fun k => leBytes 4 k) false ext with
  | .all s _ _ => stopsDone (finish s rk status 0 w4 0 0 0) rk
  | .bad s _ st _ => stopsDone (finish s rk 10 st 0 0 0 0) rk
  | .wait _ _ => s0

/-- The end of a LAUNCH, stage by stage (R194, R338): once every part has ended and every access of the kernel has been answered,
its caches are written back, its host ports flushed, and its report made. -/
def launchCompletion (r : RingRef) (ext : Ext) (s : State) : State :=
  let rk := ringKey r
  match launchOf s rk with
  | none => s
  | some l =>
    if held s (portNode (rk / 512)) || !(l.cores.all fun c => (core s c).partEnded) ||
        (benchesOf l.cores).any fun n => (bench s n).pass.isSome || held s n then s
    else match l.flush with
      | none => if kernelOwed s l then s else kernelEnds s rk l
      | some [] => launchReport s rk l ext
      | some (p :: ps) => if p < 2 then kernelFlushes s rk l (p :: ps) else s

/-- LAUNCH_COMPLETION (R338). -/
def execLaunchCompletion (r : RingRef) (ext : Ext) (s : State) : Out := .next (launchCompletion r ext s)

/-! ### SIGNAL and WAIT (R339) -/

/-- Node at which a cell of this device stands. -/
def cellHome : CellId → Nat
  | .core c _ => c / 8
  | .wb w _ => wbNode w
  | .remote _ _ => 0

/-- SIGNAL on a cell of another device: the increment is sent, and the command waits for the cell's answer (R210, R339); a device
without a route is an address error (R365). -/
def signalAway (s : State) (rk d : Nat) (cell : CellId) (amount : Nat) : State :=
  if (routePort s d).isNone then finish s rk 10 1 0 0 0 0
  else modRing (sendMsg s 3 (portNode (rk / 512)) (cellNode s cell) (.counter cell false amount (.signal rk))) rk fun q => { q with st := .signalled }

/-- SIGNAL (R339, R207): P1 of 0 gives 1; with NOTIFY the cell is a core cell. -/
def cmdSignal (s : State) (rk : Nat) (p : Packet) : State :=
  if (ring s rk).st ≠ .ready then s
  else
  let ctx := pktCtx p
  let notify := bit (pktFlags p) 0
  let amount := if pktP p 1 = 0 then 1 else (pktP p 1).toNat
  if 2 ^ 32 ≤ amount then finish s rk 9 1 0 0 0 0
  else match resolveName s ctx 1 none none (pktP p 0).toNat with
    | .bad reason => finish s rk 9 reason 0 0 0 0
    | .poison => finish s rk 10 2 0 0 0 0
    | .ok cell =>
      let isCore : Bool := match cell with | .core _ _ => true | _ => false
      if notify && !isCore then finishWith s rk 9
      else match cell with
        | .remote d _ => signalAway s rk d cell amount
        | _ =>
          if held s (cellHome cell) then s
          else match applyCell s cell false amount with
            | .refused reason =>
              finish (counterRecord s (portNode (rk / 512)) 0 rk ctx cell (BitVec.ofNat 64 amount) reason) rk 9 reason 0 0 0 0
            | .ok s =>
              let s := match cell with
                | .core c _ => if notify then modCore s c fun y => { y with irqHost := some (y.irqHost.getD 0) } else s
                | _ => s
              finishWith s rk 0

/-- SIGNAL (R339). -/
def execSignal (r : RingRef) (s : State) : Out := .next (runCommand 0x02 r cmdSignal s)

/-- WAIT (R339): begun, it completes when its cell has taken a value at or beyond the target. -/
def cmdWait (s : State) (rk : Nat) (p : Packet) : State :=
  match (ring s rk).st with
  | .waiting cell _ met _ _ => if met then finish s rk 0 0 ((cellValue s cell).setWidth 64) 0 0 0 else s
  | _ =>
    match resolveName s (pktCtx p) 1 none none (pktP p 0).toNat with
    | .bad reason => finish s rk 9 reason 0 0 0 0
    | .poison => finish s rk 10 2 0 0 0 0
    | .ok cell =>
      match cell with
      | .wb w _ =>
        match reach (cellCredit s cell) (cellValue s cell) (pktP p 1) with
        | .satisfied => finish s rk 0 0 ((cellValue s cell).setWidth 64) 0 0 0
        | .range => finish (counterRecord s (portNode (rk / 512)) 0 rk (pktCtx p) cell (pktP p 1) 6) rk 9 6 0 0 0 0
        | .waits => modRing s rk fun q => { q with st := .waiting cell (pktP p 1) false (pacerOf s (wbNode w)) (pktP p 2).toNat }
      | _ => finish s rk 9 8 0 0 0 0

/-- WAIT (R339). -/
def execWait (r : RingRef) (s : State) : Out := .next (runCommand 0x03 r cmdWait s)

/-- WAIT_TIMEOUT (R339): the timeout counts on the weighbridge's pacer. -/
def waitTimeout (rk : Nat) (s : State) : State :=
  match (ring s rk).st with
  | .waiting cell _ met since limit =>
    if limit = 0 || met || held s (cellHome cell) || decide (pacerSince s (cellHome cell) since < limit) then s
    else finish s rk 12 0 ((cellValue s cell).setWidth 64) 0 0 0
  | _ => s

/-- WAIT_TIMEOUT (R339). -/
def execWaitTimeout (r : RingRef) (s : State) : Out := .next (waitTimeout (ringKey r) s)

/-! ### FENCE (R343, Table 17.7) -/

/-- Name of a record among those of its ring. -/
def recordKey (x : Record) : Nat := (x.scls * 2 ^ 16 + x.srcid) * 2 ^ 32 + x.seqno.toNat

/-- The records of a ring that are made and not yet issued to host memory or dropped. -/
def outstanding (s : State) (rg : Nat) : List Nat :=
  let mine (l : List Record) : List Nat := (l.filter fun x => x.ring == rg).map recordKey
  mine ((s.mesh ++ s.inbox).filterMap fun m => match m.pay with | .record x => some x | _ => none) ++
    (s.ports.flatMap fun p => mine p.2.buf) ++ s.evrings.flatMap fun e => mine (e.2.spilled.map (·.1))

/-- FENCE (R343): it waits for every record made before it. -/
def cmdFence (s : State) (rk : Nat) (p : Packet) : State :=
  if (ring s rk).st = .ready then modRing s rk fun q => { q with st := .fenced (outstanding s (pktCtx p)) } else s

/-- FENCE (R343). -/
def execFence (r : RingRef) (s : State) : Out := .next (runCommand 0x04 r cmdFence s)

/-- FENCE_DONE (R343): its w4 holds the context's records dropped since the previous one. -/
def fenceDone (rk : Nat) (s : State) : State :=
  match (ring s rk).st, (ring s rk).cur with
  | .fenced todo, some p =>
    let left := outstanding s (pktCtx p)
    if held s (portNode (rk / 512)) || todo.any fun k => left.contains k then s
    else
      let dropped := (evring s (pktCtx p)).fence
      let s := modEvring s (pktCtx p) fun e => { e with fence := 0 }
      answerPacket (modRing s rk fun q => { q with cur := none, st := .ready }) rk p 2 0 0 (BitVec.ofNat 64 dropped) 0 0 0
  | _, _ => s

/-- FENCE_DONE (R343). -/
def execFenceDone (r : RingRef) (s : State) : Out := .next (fenceDone (ringKey r) s)

/-! ### STOP, HALT, RESUME (R340) -/

/-- STOP (R340): the LAUNCH with a ring and tag of the same function. It completes once that LAUNCH has. -/
def cmdStop (s : State) (rk : Nat) (p : Packet) : State :=
  match if (ring s rk).st = .ready then s.launches.find? fun l => ringKey l.ring == stopTarget rk p && l.tag == bits (pktP p 0).toNat 31 16
      else none with
  | none =>
    if (ring s rk).st = .ready then finishWith s rk 9
    else if s.launches.any fun l => ringKey l.ring == stopTarget rk p && l.stopped then s
    else finishWith s rk 0
  | some l =>
    let target := stopTarget rk p
    let s := (l.cores.flatMap fun c => coreThreads s c).foldl stopThread s
    let s := l.cores.foldl (fun s c => modCore s c fun y => { y with partEnded := true }) s
    let s := { s with launches := s.launches.map fun y => if ringKey y.ring = target then { y with stopped := true } else y }
    modRing s rk fun q => { q with st := .halting }

/-- STOP (R340). -/
def execStop (r : RingRef) (s : State) : Out := .next (runCommand 0x21 r cmdStop s)

/-- The cores that HALT, RESUME and READ_STATE name: one logical core, or with bit 63 every core of the context. -/
def namedCores (s : State) (ctx : Nat) (x : Ctx) (w : Nat) : Option (List Nat) :=
  if bit w 63 then some (grantCores s x) else (logicalCore s ctx w).map fun c => [c]

/-- HALT (R340, R99): complete when every such thread has stopped. -/
def cmdHalt (s : State) (rk : Nat) (p : Packet) : State :=
  match cmdCtx s p with
  | none => s
  | some x =>
    match namedCores s (pktCtx p) x (pktP p 0).toNat with
    | none => finishWith s rk 9
    | some cs =>
      let ks := cs.flatMap fun c => coreThreads s c
      let s := if (ring s rk).st = .ready then ks.foldl debugHalt s else s
      if ks.all (stoppedThread s) then finishWith s rk 0 else modRing s rk fun q => { q with st := .halting }

/-- HALT (R340). -/
def execHalt (r : RingRef) (s : State) : Out := .next (runCommand 0x40 r cmdHalt s)

/-- RESUME (R340). -/
def cmdResume (s : State) (rk : Nat) (p : Packet) : State :=
  match cmdCtx s p with
  | none => s
  | some x =>
    match namedCores s (pktCtx p) x (pktP p 0).toNat with
    | none => finishWith s rk 9
    | some cs =>
      let s := (cs.flatMap fun c => coreThreads s c).foldl (fun s k => modThr s k fun t => { t with dbg := false }) s
      finishWith (modCtx s (pktCtx p) fun y => { y with halted := false }) rk 0

/-- RESUME (R340). -/
def execResume (r : RingRef) (s : State) : Out := .next (runCommand 0x41 r cmdResume s)

/-! ### READ_STATE (R340, Table 17.6) -/

/-- Words as bytes, in a field of `n` bytes. -/
def wordsIn (n : Nat) (ws : List Nat) : List Byte :=
  let bs := ws.flatMap fun w => leBytes 8 w
  bs ++ List.replicate (n - bs.length) 0

/-- A handle word of READ_STATE. -/
def handleWord (h : Option Handle) : Nat :=
  match h with
  | none => 0
  | some h => h.core + h.port * 2 ^ 16 + h.gen * 2 ^ 24 + 2 ^ 63

/-- The 4 KiB of a thread. -/
def threadImage (s : State) (k : Nat) : List Byte :=
  let t := thr s k
  let y := t.sys
  wordsIn 0x100 ((List.range 32).map fun i => (rx s k (BitVec.ofNat 5 i)).toNat) ++
    wordsIn 0x50 [t.pc.toNat, (statusWord s k).toNat, y.cause.toNat, y.faddr.toNat, y.rpc.toNat, y.vprog.toNat, (core s (k / 8)).tpend.toNat,
      (entryLevel y).toNat, t.tx.depth, (infoItem s k 3).toNat] ++
    wordsIn 0xB0 ((List.range 8).map fun i => (rp s k i).toNat) ++
    ((List.range 32).flatMap fun i => leBytes 64 (rv s k i).toNat) ++
    wordsIn 0x40 ((List.range 4).map (fun c => (Tbl.getD t.chans c 0).toNat) ++
      [((List.range 4).map fun c => if (Tbl.get? t.chans c).isSome then 2 ^ c else 0).sum]) ++
    wordsIn 0xC0 ((List.range 8).map (fun i => (t.staged.getD i 0).toNat) ++ [t.stageHandle.getD 0, t.staged.length]) ++
    wordsIn 0x500 ((List.range 16).map fun i => handleWord (Tbl.get? t.handles i))

/-- Bytes of a core's store as a segment of the image, with the mark of their line (R171). -/
def storeSeg (s : State) (c o len : Nat) : List Byte × Bool :=
  let bs := homeRead s (.store c o) len
  (bs ++ List.replicate (64 - bs.length) 0, homePoison s (.store c o))

/-- The image of a core, in segments with their marks. -/
def stateImage (s : State) (c : Nat) : List (List Byte × Bool) :=
  let n := c / 8
  let b := bench s n
  [((List.range 8).flatMap fun t => if t < (core s c).mode then threadImage s (c * 8 + t) else List.replicate 0x1000 0, false)] ++
    ((List.range 128).map fun i => storeSeg s c (0x7A000 + 64 * i) 64) ++
    ((List.range 32).map fun p =>
      if portLive s c p && portCount s c p != 0 then storeSeg s c (entryOff s c p (portHead s c p)) (entryBytes (portArity s c p))
      else (List.replicate 64 0, false)) ++
    [(wordsIn 0x800 ([readStream s n 0x08] ++ ((List.range 24).map fun q => qstat (squeue s n q)) ++
      ((List.range 48).map fun i => (Tbl.getD b.qstall i 0).toNat) ++ ((List.range 16).map fun i => (Tbl.getD b.ustall i 0).toNat)) ++
    ((List.range 24).flatMap fun q => match (squeue s n q).q with
      | e :: _ => leBytes 64 e.data.toNat ++ leBytes 8 (b2n e.marker + 2 * b2n e.poison)
      | [] => List.replicate 72 0) ++
    List.replicate (0x10000 - 0xB000 - 72 * 24) 0, false)]

/-- Write the segments of an image one behind the other, each with its mark (R171). -/
def storeSegs (g : Agent) : List (List Byte × Bool) → Nat → State → Ext → Moved
  | [], _, s, e => .all s e { n := 0, psn := false }
  | (bs, psn) :: rest, a, s, e =>
    match agentStore s g a bs psn e with
    | .all s e _ => storeSegs g rest (a + bs.length) s e
    | r => r

/-- READ_STATE (R340): the core's threads must have stopped. -/
def cmdReadState (ext : Ext) (s : State) (rk : Nat) (p : Packet) : State :=
  match logicalCore s (pktCtx p) (pktP p 0).toNat with
  | none => finishWith s rk 9
  | some c =>
    if (coreThreads s c).any fun k => !stoppedThread s k then finishWith s rk 9
    else match storeSegs (commandAgent (pktCtx p)) (stateImage s c) (pktP p 1).toNat s ext with
      | .all s _ _ => finishWith s rk 0
      | .bad s _ st _ => finish s rk 10 st 0 0 0 0
      | .wait _ _ => s

/-- READ_STATE (R340). -/
def execReadState (r : RingRef) (ext : Ext) (s : State) : Out := .next (runCommand 0x42 r (cmdReadState ext) s)

end Sys2Proof.Machine
end

