-- ==== Sys2Proof/Machine/Lifecycle.lean ====
section
/-!
DEFINITION. The life of cores and contexts (R17, R174, R199, R311, R337, R342, R377, R406 to R409): CORE reset, what
a grant sets up, settings, the logical core table, stopping, resetting and destroying a context.
-/
namespace Sys2Proof.Machine

/-! ### Cores (R174, R236, R409) -/

/-- Set a span of a core's store to zero and clear the poison of its lines; a span of whole lines. -/
def zeroStore (s : State) (c lo n : Nat) : State :=
  let s := modCore s c fun x => { x with gbuf := x.gbuf.filter fun e => decide (e.line.toNat * 64 < lo) || decide (lo + n ≤ e.line.toNat * 64) }
  { s with ls := eraseSpan s.ls (c * 2 ^ 20 + lo) n
           lsPoison := s.lsPoison.filter fun p => decide (p < c * 2 ^ 14 + lo / 64) || decide (c * 2 ^ 14 + (lo + n) / 64 ≤ p) }

/-- Clear a span of a core's store with its port records, whose GEN stays (R236, Table 12.1). -/
def clearStore (s : State) (c lo n : Nat) : State :=
  let gens := (List.range 32).map fun p => (p, portGen s c p)
  gens.foldl (fun s g => if g.2 = 0 then s else setPortWord s c g.1 0 (g.2 * 2 ^ 56)) (zeroStore s c lo n)

/-- CORE reset (R409): its threads, tiles, channels and ports; the port records, fault reports and snapshots are set
as for a grant, and the handler table stays. Store and cells stay. What an aborted transaction has still to release is released
all the same (R218). -/
def coreReset (s : State) (c : Nat) : State :=
  let s := gbufFlushAll s c
  let s := (List.range 8).foldl (fun s t => stopThread s (c * 8 + t)) s
  let s := freePorts (orphanCore s c) c none
  let s := clearStore s c 0x7A000 0x800
  let s := zeroStore s c 0x7AA00 0x1600
  let s := modCore s c fun x =>
    { Core.init with mode := x.mode, ctx := x.ctx, debugger := x.debugger, gbuf := x.gbuf, ctrMode := x.ctrMode, ctrDead := x.ctrDead, wrap := x.wrap }
  { s with threads := s.threads.filterMap fun e =>
      if e.1 / 8 ≠ c then some e
      else if e.2.tx.releases.isEmpty then none
      else some (e.1, { Thread.init with tx := { Tx.none with releases := e.2.tx.releases, reserved := e.2.tx.reserved } }) }

/-- Set a core's counter cells to zero (R199). -/
def zeroCells (s : State) (c : Nat) : State := { s with coreCells := s.coreCells.filter fun e => e.1 / 64 != c }

/-- What the grant of a bench does to one of its good cores (R174, R199, R402): a CORE reset, a store of zeros, cells
at zero and MONO until an image says otherwise (R200). -/
def grantCore (s : State) (ctx mode c : Nat) : State :=
  let s := zeroCells (clearStore (coreReset s c) c 0 (2 ^ 20)) c
  modCore s c fun x => { x with ctx := some ctx, mode := mode, ctrMode := 0, ctrDead := false }

/-! ### Settings (R337, Table 17.5) -/

/-- The settings of a context and of its event ring's moderation. -/
structure Settings where
  quiet : Nat
  wake : Bool
  stall : Nat
  drain : Nat
  thresh : BitVec 16
  minconv : BitVec 16
  event : Bool
  modcount : Nat
  modtime : Nat
  deriving DecidableEq, Repr

/-- The defaults (Tables 10.7, 12.4, 13.8, 7.9; R337). -/
def Settings.default : Settings :=
  { quiet := 1250000, wake := false, stall := 250000, drain := 125000, thresh := 0x0148, minconv := 0x0100, event := true,
    modcount := 0, modtime := 0 }

/-- Word `i` of a context block. -/
def blockWord (b : List Byte) (i : Nat) : Nat := leNat ((b.drop (8 * i)).take 8)

/-- The reserved fields of a context block are zero (R6, Table 17.5). -/
def blockShape (b : List Byte) : Bool :=
  bits (blockWord b 4) 63 33 == 0 && bits (blockWord b 6) 63 33 == 0 && bits (blockWord b 7) 31 5 == 0 &&
    bits (blockWord b 7) 47 42 == 0 && (List.range 8).all fun i => blockWord b (8 + i) == 0

/-- The settings that a block gives; a setting whose VALID bit is 0 takes its default. Nothing where a value is out of
its range. -/
def blockSettings (b : List Byte) : Option Settings :=
  let w4 := blockWord b 4
  let w5 := blockWord b 5
  let w6 := blockWord b 6
  let w7 := blockWord b 7
  let d := Settings.default
  let v0 := bit w7 0
  let v3 := bit w7 3
  let v4 := bit w7 4
  let y : Settings :=
    { quiet := if v0 then bits w4 31 0 else d.quiet
      wake := if v0 then bit w4 32 else d.wake
      stall := if bit w7 1 then bits w5 31 0 else d.stall
      drain := if bit w7 2 then bits w5 63 32 else d.drain
      thresh := if v3 then BitVec.ofNat 16 w6 else d.thresh
      minconv := if v3 then BitVec.ofNat 16 (w6 / 2 ^ 16) else d.minconv
      event := if v3 then bit w6 32 else d.event
      modcount := if v4 then bits w7 41 32 else d.modcount
      modtime := if v4 then bits w7 63 48 else d.modtime }
  if (y.quiet = 0 ∨ 4096 ≤ y.quiet) ∧ (y.stall = 0 ∨ 1024 ≤ y.stall) ∧ 1024 ≤ y.drain then some y else none

/-- Benches that a block's GRANT names, ascending. -/
def blockGrant (b : List Byte) : List Nat := (List.range 256).filter fun n => bit (blockWord b (n / 64)) (n % 64)

/-- Put settings into force (R337). -/
def applySettings (s : State) (ctx : Nat) (y : Settings) : State :=
  let s := modEvring s ctx fun e => { e with modcount := y.modcount, modtime := y.modtime }
  modCtx s ctx fun x =>
    { x with quiet := y.quiet, wake := y.wake, stall := y.stall, drain := y.drain, thresh := y.thresh, minconv := y.minconv, event := y.event }

/-! ### The logical core table (R17) -/

/-- The table that an order gives over the good cores of a grant; a core returned to service is none of them until
CTX_RESET (R380). -/
def coreTable (s : State) (x : Ctx) (order : Option (List Nat)) : List Nat :=
  let good := (grantCores s x).filter fun c => (core s c).ctx.isSome
  let listed := (order.getD []).filter fun c => good.contains c
  listed ++ good.filter fun c => !listed.contains c

/-- An order that R17 accepts: cores of the grant, none twice. -/
def orderOk (x : Ctx) : List Nat → Bool
  | [] => true
  | c :: rest => isCore c && x.grant.contains (c / 8) && !rest.contains c && orderOk x rest

/-! ### Stopping, resetting and destroying contexts -/

/-- Step 1 of R408: threads stop, regions and haul chains go, and the context's commands in progress are abandoned,
but for the ring `but` (R342). -/
def stopContext (s : State) (ctx : Nat) (but : Option Nat) (quiet : Bool) : State :=
  match Tbl.get? s.ctxs ctx with
  | none => s
  | some x =>
    let s := (contextThreads s x).foldl stopThread s
    let s := (grantCores s x).foldl (fun s c => modCore s c fun y => { y with kernel := none, partEnded := false }) s
    abandonCommands (stopHauls (unloadRegions s ctx) ctx) ctx but quiet

/-- No access of a context's threads is in flight, and its bench caches can be written back now (R409). -/
def contextStill (s : State) (ctx : Nat) : Bool :=
  match Tbl.get? s.ctxs ctx with
  | none => true
  | some x => ((grantCores s x).all fun c => (core s c).sb.isEmpty) && cachesReady s (x.grant.map (· * 8))

/-- Every counter cell that a context holds is set to zero (R199). -/
def zeroContextCells (s : State) (x : Ctx) : State :=
  let s := (x.grant.flatMap fun n => (List.range 8).map (n * 8 + ·)).foldl zeroCells s
  { s with wbCells := s.wbCells.filter fun e => !x.wbHeld.any fun h => h / 2 == e.1 }

/-- Withdraw every window slot that names a context (R314). -/
def dropSlots (s : State) (ctx : Nat) : State := { s with slots := s.slots.filter fun e => e.2.1 != ctx }

/-- Steps 2 to 4 and 6 of R408: CORE resets, caches, cells, and the table rebuilt from the image's order. -/
def resetContext (s : State) (ctx : Nat) (y : Settings) : State :=
  match Tbl.get? s.ctxs ctx with
  | none => s
  | some x =>
    let s := (grantCores s x).foldl (fun s c => modCore (coreReset s c) c fun z => { z with ctx := some ctx, mode := x.mode }) s
    let s := dropSlots (zeroContextCells (x.grant.foldl bcFlushAll s) x) ctx
    let s := applySettings s ctx y
    modCtx s ctx fun x =>
      { x with lcore := coreTable s x x.order, ended := false, halted := false, quietSince := none, confirming := false, quietMark := [] }

/-- A context is no more: its cores, caches, cells, grant, mappings and window slots; its ring takes no further record
(R342, R406). `clear` clears its stores too (Table 21.4, PORT and FLR). -/
def eraseContext (s : State) (ctx : Nat) (clear : Bool) : State :=
  match Tbl.get? s.ctxs ctx with
  | none => s
  | some x =>
    let all := x.grant.flatMap fun n => (List.range 8).map (n * 8 + ·)
    let s := all.foldl (fun s c =>
      let s := coreReset s c
      let s := if clear then clearStore s c 0 (2 ^ 20) else zeroStore s c 0x7A800 0x200
      modCore s c fun z => { z with ctx := none, mode := 0, ctrMode := 0, ctrDead := false }) s
    let s := dropSlots (zeroContextCells (x.grant.foldl bcFlushAll s) x) ctx
    let s := modEvring (dropContext s ctx) ctx fun e => { e with en := false }
    { s with ctxs := Tbl.erase s.ctxs ctx }

/-- Destroy a context without a record (R405, R406, R407): records for its ring that have not left the device are
discarded. -/
def destroyQuietly (s : State) (ctx : Nat) : State :=
  let s := eraseContext (stopContext s ctx none true) ctx true
  let other (m : Msg) : Bool := match m.pay with | .record x => x.ring != ctx | _ => true
  let ports := s.ports.map fun (e : Nat × Port) => (e.1, { e.2 with buf := e.2.buf.filter fun x => x.ring != ctx })
  { s with mesh := s.mesh.filter other, inbox := s.inbox.filter other, ports := ports, evrings := Tbl.erase s.evrings ctx }

/-- The benches that no context holds any more leave their pending state; every context of these functions goes
(R406, R407). -/
def destroyOf (s : State) (p : Nat) (fns : Nat → Bool) : State :=
  ((s.ctxs.filter fun e => e.2.port == p && fns e.2.fn).map (·.1)).foldl destroyQuietly s

/-! ### Host buffers of the firmware (R333) -/

/-- The firmware reading and writing host memory through a command's port, with no PASID. -/
def hostAgent : Agent := { who := { ctx := none, lvl := 2, self := none, tu := none }, virt := false, fw := true, cache := none }

/-- Device address of a span of a port's host memory; out of the map where the span leaves it. -/
def hostAddr (rk a len : Nat) : Nat := if a + len ≤ 2 ^ 40 then (2 + rk / 512) * 2 ^ 40 + a else 2 ^ 52

/-- Bytes that a command reads from host memory, or the channel status of a failed access; poisoned data counts as a
failed access (log entry 27). -/
def hostBytes (s : State) (rk a len : Nat) (ext : Ext) : Except Nat (List Byte × Ext) :=
  match agentBytes s hostAgent (hostAddr rk a len) len ext with
  | .ok b psn _ e => if psn then .error 1 else .ok (b, e)
  | .bad _ _ _ st _ => .error st
  | .wait => .error 1

/-- Write bytes to host memory for a command, or the channel status of a failed access. -/
def hostStore (s : State) (rk a : Nat) (b : List Byte) (ext : Ext) : Except Nat State :=
  match agentStore s hostAgent (hostAddr rk a b.length) b false ext with
  | .all s _ _ => .ok s
  | .bad _ _ st _ => .error st
  | .wait _ _ => .error 1

end Sys2Proof.Machine
end

