-- ==== Sys2Proof/Machine/Boot.lean ====
section
/-!
DEFINITION. Boot (R404, R308, R416 to R424, Table 21.2), POWER_ON and DEVICE reset (R402 to R405, R450), fuses (R423) and the
pins and rails (R447, R448, R451). A boot is one step from the latching of the straps to FW_STATE.STATE = 2, 3 or 4.
-/
namespace Sys2Proof.Machine

/-! ### The board record (R419, R364) -/

/-- CRC-32C of octets (R278). -/
def crc32c (b : List Byte) : Nat := checkWord 1 (checkBytes 1 0 (checkInit 1) b)

/-- The board record of the flash, where it was read and is valid. -/
def boardRecord (s : State) : Option (List Byte) :=
  let b := s.flash.board
  if s.dev.flashSeen ∧ 0x118 ≤ b.length ∧ blockWord b 0 = 0x42524453 ∧ leNat (imgSpan b 0x110 0x114) = crc32c (b.take 0x110) then some b else none

/-- The code that LINK_CTL.RATE starts with (Table 21.6). -/
def strapRate (s : State) : Nat := let r := bits s.dev.straps.toNat 7 6; if r = 3 then 0 else r

/-- Lanes of a port that are in the fence map. -/
def fencedLanes (s : State) (p : Nat) : BitVec 8 :=
  BitVec.ofNat 8 (((List.range 8).map fun i => if isFenced s 4 (8 * p + i) then 2 ^ i else 0).sum)

/-- Load the device ID and the routes, and enable the link ports, which start training (step 6). -/
def loadBoard (s : State) : State :=
  match boardRecord s with
  | none => s
  | some b =>
    let s := modDev s fun d =>
      { d with devId := BitVec.ofNat 8 (blockWord b 1), routes := (List.range 256).map fun i => (i, b.getD (0x10 + i) 0) }
    (List.range 8).foldl (fun s p => modLink s p fun l => { l with en := true, state := 1 }) s

/-! ### Starting an image (R404 steps 5 to 7, R424) -/

/-- The period that a calibration sets, in femtoseconds: 655,360,000,000 over the ticks counted, to the nearest (R50). -/
def calPeriod (ticks : Nat) : BitVec 32 := BitVec.ofNat 32 ((2 * 655360000000 + ticks) / (2 * ticks))

/-- Calibrate every pacer (R50, step 6) by what its count gives. -/
def calibrateAll (s : State) : State :=
  if s.dev.noRef then s
  else
    let k := s.fresh
    (List.range 256).foldl (fun s n => modNode s n fun x =>
      { x with period := calPeriod (Config.bootTicks n k), calSeq := x.calSeq + 1, calValid := true, lastCal := s.dev.ticks + 1 })
      { s with fresh := k + 1 }

/-- The HREF that the stacks of quadrant `q` take: their own, or the first present of the others (R449). -/
def hrefFor (present : BitVec 4) (q : Nat) : Option Nat := ([0, 1, 2, 3].map fun i => (q + i) % 4).find? fun r => bit present.toNat r

/-- Stacks take their reference clocks. -/
def takeHref (s : State) : State :=
  (List.range 16).foldl (fun s n => match hrefFor s.dev.href (n / 4) with
    | some r => modStack s n fun y => { y with href := r }
    | none => s) s

/-- Zero HBM and clear its poison: what it holds after its contents are lost is 0 (log entry 5). -/
def loseHbm (s : State) : State := { s with hbm := [], hbmPoison := [] }

/-- Every HREF is absent: ALERT_N, state 4, and the HBM contents are lost (R449). -/
def hrefGone (s : State) : State :=
  modDev (loseHbm s) fun d => { d with alertHref := true, fwState := 4 }

/-- The firmware reserve is built anew under the mode in force (R38, step 6). -/
def buildReserve (s : State) : State :=
  { s with hbm := s.hbm.filter fun e => !locReserved s.dev.full e.1
           hbmPoison := s.hbmPoison.filter fun l => !locReserved s.dev.full (l * 64) }

/-- The governor as firmware starts it: its loops count from here (R390). -/
def startGov (s : State) : State := { s with gov := { s.gov with started := s.dev.ticks, policyNow := [], ran := [] } }

/-- VCORE targets at the start of firmware (Table 21.6). -/
def startVcore (s : State) : State :=
  let v := (List.range 4).map fun q => (q, policy s 0x0201)
  { s with gov := { s.gov with target := v, vout := v, targetNow := v, voutNow := v } }

/-- Fuses that the image's header would blow (R423). -/
def wantsBlow (s : State) (img : List Byte) : Bool :=
  (bit (imgFlags img) 31 && decide (s.fuses.rollback < imgSvn img)) || (bits (imgFlags img) 35 32 ||| s.fuses.revoke.toNat) != s.fuses.revoke.toNat

/-- State 3 is reached: ALERT_N of a firmware failure is released (R426). -/
def reachReady (s : State) : State :=
  modDev s fun d => { d with fwState := 3, alertFw := false, alertHref := false, blowDue := d.imgSrc == 1 && wantsBlow s d.image }

/-- Steps 5 to 7 of Table 21.2. -/
def firmwareUp (s : State) : State :=
  if s.dev.href = 0 then hrefGone s
  else
    let s := (List.range 16).foldl (fun s n => modStack s n fun y => { y with selfRefresh := false }) (takeHref (startVcore (startGov s)))
    let s := if s.dev.hbmDue then modDev (loseHbm s) fun d => { d with hbmDue := false } else s
    reachReady (loadBoard (calibrateAll (buildReserve s)))

/-- An image that has passed its check is loaded and started at step 8 of Table 21.10: 1 flash, 2 host push. -/
def startImage (s : State) (img : List Byte) (src : Nat) : State :=
  modDev s fun d =>
    { d with image := imgWhole img, imgSrc := BitVec.ofNat 2 src, keyslot := BitVec.ofNat 2 (imgSlot img), svn := BitVec.ofNat 7 (imgSvn img),
             stage := 8 }

/-- An image check ends at a step: BOOT_STATUS. -/
def checkEnds (s : State) (step : Nat) : State := modDev s fun d => { d with stage := BitVec.ofNat 4 step, fail := BitVec.ofNat 8 step }

/-! ### Steps 2 to 7 (Table 21.2) -/

/-- Step 2: latch the straps; the clocks and reset pins are as the board has them. -/
def latch (s : State) (b : BoardInputs) : State :=
  let s := modDev s fun d =>
    { d with straps := b.straps, primary := b2n (bit b.straps.toNat 5), full := bit b.straps.toNat 10, refB := b.refclk == 2, noRef := b.refclk == 0,
             href := b.href, waitRst := none, fwState := 1, flashSeen := b.flashOk }
  let s := [0, 1].foldl (fun s p => modPort s p fun x => { x with perst := !bit b.perst.toNat p }) s
  (List.range 8).foldl (fun s p => modLink s p fun l => { l with rate := BitVec.ofNat 2 (strapRate s), fenced := fencedLanes s p }) s

/-- The reference clock mode of each host port, before it first trains: the board record's bit, SRIS without one (R308, R419). -/
def clockModes (s : State) : State :=
  [0, 1].foldl (fun s p => modPort s p fun x =>
    { x with sris := match boardRecord s with | some b => bit (blockWord b 1) (8 + p) | none => true }) s

/-- Steps 2 to 7: a flash boot that fails a step, or STRAP_BOOT = 0b01, waits in state 2 (R422). -/
def bootFrom (s : State) (b : BoardInputs) : State :=
  let s := clockModes (latch s b)
  let wait (s : State) : State := modDev s fun d => { d with fwState := 2 }
  if bits b.straps.toNat 1 0 = 1 then wait s
  else if !b.flashOk then wait (checkEnds s 1)
  else match imageFail s s.flash.image with
    | 0 => firmwareUp (startImage s s.flash.image 1)
    | k => wait (checkEnds s k)

/-- What a boot starts from: everything at its Reset value but the fuses, the flash and the fences, the hosts' memory, and
the model's own counters and queue. -/
def bareState (s : State) : State :=
  { State.reset with
    hostMem := s.hostMem, flash := s.flash, fuses := s.fuses, units := s.flash.records, nextMsg := s.nextMsg, fresh := s.fresh, tick := s.tick,
    pending := s.pending
    dev := { Dev.init with fenceMap := s.dev.fenceMap, shipFenced := s.dev.shipFenced, cycles := s.dev.cycles } }

/-- The board waits with DEV_RST_N low: the device stands at step 2 (R450), with the clocks that the board gives (R54). -/
def bootOrWait (s : State) (b : BoardInputs) : State :=
  if b.devRstN then bootFrom (modDev s fun d => { d with devRstN := true }) b
  else modDev s fun d => { d with devRstN := false, waitRst := some b, refB := b.refclk == 2, noRef := b.refclk == 0 }

/-! ### POWER_ON (R404, R450) -/

/-- POWER_ON: PWRGOOD rises. It rises only after it has been low, or for the first time. -/
def powerOn (b : BoardInputs) (s : State) : State :=
  if s.dev.pwrgood && (s.dev.cycles != 0 || s.dev.power == .off) then s
  else bootOrWait (modDev (bareState s) fun d => { d with cycles := s.dev.cycles + 1, hbmDue := true }) b

/-- POWER_ON (R404). -/
def execPowerOn (b : BoardInputs) (s : State) : Out := .next (powerOn b s)

/-! ### DEVICE reset (R405) -/

/-- What a DEVICE reset keeps (Table 21.4): HBM with the bench caches' dirty lines, pacers, uptime, and what hardware holds. The stacks
go into self-refresh until step 5 (R302, R405); the pacers restart from zero where the reset ends Deep Idle (R49). -/
def keptState (s : State) : State :=
  let s := (s.benches.map (·.1)).foldl bcFlushAll s
  let x := bareState s
  let x := (List.range 16).foldl (fun s n => modStack s n fun y => { y with selfRefresh := true }) x
  { x with
    hbm := s.hbm, hbmPoison := s.hbmPoison
    nodes := s.nodes.map fun (e : Nat × Node) => (e.1, { Node.init with pacer := if s.dev.power = .deepIdle then 0 else e.2.pacer })
    gov := { Gov.init with held := s.gov.held, holdTicks := s.gov.holdTicks }
    dev := { x.dev with uptime := s.dev.uptime, ticks := s.dev.ticks, windowStart := s.dev.windowStart, window := s.dev.window, hbmDue := s.dev.hbmDue,
                        thermtrip := s.dev.thermtrip, alertHold := s.dev.alertHold, alertFw := s.dev.alertFw, alertHref := s.dev.alertHref } }

/-- DEVICE_RESET: from the pin, or from a RESET_DEVICE whose record has been issued (R405). -/
def deviceReset (b : BoardInputs) (s : State) : State :=
  if dark s then s
  else if b.fromPin then (if b.devRstN then s else bootOrWait (keptState s) b)
  else match s.dev.resetRing with
    | none => s
    | some rk => if answerPending s rk then s else bootOrWait (keptState s) b

/-- DEVICE_RESET (R405). -/
def execDeviceReset (b : BoardInputs) (s : State) : Out := .next (deviceReset b s)

/-- DEV_RST_N_RELEASE (R450): the boot goes on from step 2. -/
def devRstRelease (s : State) : State :=
  match s.dev.waitRst with
  | none => modDev s fun d => { d with devRstN := true }
  | some b => bootFrom (modDev s fun d => { d with devRstN := true }) { b with devRstN := true }

/-- DEV_RST_N_RELEASE (R450). -/
def execDevRstNRelease (s : State) : Out := .next (devRstRelease s)

/-! ### Off (R403, R448) -/

/-- The device is Off: nothing runs, and fuses and flash alone keep what they hold. -/
def goOff (s : State) (pwrgood : Bool) : State :=
  modDev (bareState s) fun d => { d with power := .off, pwrgood := pwrgood }

/-- POWER_OFF (R403): PWRGOOD falls. -/
def execPowerOff (s : State) : Out := .next (if s.dev.pwrgood then goOff s false else s)

/-- RAIL_FAULT (R448): the rails that the device watches have the PMBus numbers 4 to 11 (Table 23.9); a VCORE rail holds
its quadrant instead, and there is no other rail. -/
def execRailFault (rail : Nat) (s : State) : Out :=
  .next (if decide (rail < 4) || decide (11 < rail) || !s.dev.pwrgood || s.dev.power == .off then s else goOff s true)

/-! ### Fuses (R423) -/

/-- FUSE_BLOW: firmware started from the flash slot, in state 3. -/
def fuseBlow (s : State) : State :=
  if s.dev.fwState ≠ 3 ∨ s.dev.imgSrc ≠ 1 ∨ !s.dev.blowDue then s
  else
    let f := imgFlags s.dev.image
    let rb := if bit f 31 then max s.fuses.rollback (imgSvn s.dev.image) else s.fuses.rollback
    modDev { s with fuses := { s.fuses with revoke := s.fuses.revoke ||| BitVec.ofNat 4 (bits f 35 32), rollback := rb } } fun d => { d with blowDue := false }

/-- FUSE_BLOW (R423). -/
def execFuseBlow (s : State) : Out := .next (fuseBlow s)

end Sys2Proof.Machine
end

