-- ==== Sys2Proof/Machine/ContextCmds.lean ====
section
/-!
DEFINITION. The context commands of the firmware (R17, R32, R37, R199 to R203, R311, R314, R333, R337, R341, R342,
R408): CTX_CREATE, CTX_DESTROY, CTX_RESET, MAP, UNMAP, COPY, FILL, LOAD_IMAGE.
-/
namespace Sys2Proof.Machine

/-! ### CTX_CREATE (R311, R337) -/

/-- Thread mode that a TMODE code gives, with the strap's for 0 (R84, Table 21.6). -/
def threadMode (s : State) (code : Nat) : Nat :=
  let g := if code = 0 then bits s.dev.straps.toNat 3 2 else code
  if g = 1 then 2 else if g = 3 then 8 else 4

/-- Records of a ring number are still on their way. -/
def ringBusy (s : State) (rg : Nat) : Bool := !(outstanding s rg).isEmpty

/-- What a CTX_CREATE is refused with: parameters, then resources, then the PASID (R335). -/
def createBad (s : State) (rk : Nat) (p : Packet) (block : Option (List Byte)) : Option Nat :=
  let p0 := (pktP p 0).toNat
  let fn := rk / 16 % 32
  let own := (s.ctxs.filter fun e => e.2.port == rk / 512 && e.2.fn == fn).length
  if (block.map fun b => !blockShape b).getD false then some 1
  else if bits p0 23 22 = 3 ∨ (describedRing p).isNone ∨ (pktP p 2).toNat % 128 ≠ 0 ∨ (fn ≠ 0 ∧ 8 ≤ bits p0 38 32) then some 9
  else if (block.map fun b => (blockSettings b).isNone || (blockGrant b).any fun n => !isBench n).getD false then some 9
  else if 64 ≤ s.ctxs.length ∨ (fn ≠ 0 ∧ 4 ≤ own) then some 7
  else if (block.map fun b => (blockGrant b).any fun n => !(holders s n).isEmpty).getD false then some 7
  else if s.ctxs.any fun e => e.2.port == rk / 512 && e.2.pasid == bits p0 19 0 then some 8
  else none

/-- The new context, before its tables and settings. -/
def newContext (s : State) (rk : Nat) (p : Packet) (grant : List Nat) : Ctx :=
  let p0 := (pktP p 0).toNat
  { port := rk / 512, fn := rk / 16 % 32, pasid := bits p0 19 0, mode := threadMode s (bits p0 21 20),
    virt := if bits p0 23 22 = 0 then bit s.dev.straps.toNat 4 else bits p0 23 22 == 2,
    grant := grant, root := 0, frames := [], order := none, lcore := [], quiet := 0, wake := false, stall := 0, drain := 0,
    thresh := 0, minconv := 0, event := false, vbase1 := 0, ended := false, halted := false, quietSince := none,
    confirming := false, wbHeld := [], quietMark := [], acts := 0 }

/-- The Counter Map of a context starts with no valid entry (R203). -/
def clearMap (s : State) (ctx : Nat) : State :=
  (List.range 128).foldl (fun s i => zeroChunk s (0xFFF4000000 + ctx * 0x80000 + i * 4096) 4096) s

/-- Create a context under a free ID (R337, R174): its tables, ring, cores and settings. -/
def createContext (s : State) (rk : Nat) (p : Packet) (grant : List Nat) (y : Settings) (id : Nat) : Option State :=
  let x := newContext s rk p grant
  match newFrame { s with ctxs := Tbl.set s.ctxs id x } id with
  | none => none
  | some (root, s) =>
    let s := clearMap (modCtx s id fun x => { x with root := root }) id
    let e : EvRing := { freshRing EvRing.init with
      en := true, port := rk / 512, base := (pktP p 1).toNat, log2n := bits (pktP p 0).toNat 28 24, vector := bits (pktP p 0).toNat 38 32 }
    let s := applySettings (freshSeqs { s with evrings := Tbl.set s.evrings id e } id) id y
    let s := (grantCores s x).foldl (fun s c => grantCore s id x.mode c) s
    some (modCtx s id fun x => { x with lcore := coreTable s x none })

/-- CTX_CREATE (R337): its COMPLETION goes to the new context's ring with its ID (R332). -/
def cmdCtxCreate (ext : Ext) (s : State) (rk : Nat) (p : Packet) : State :=
  let block := hostBytes s rk (pktP p 2).toNat 128 ext
  match createBad s rk p (match block with | .ok b => some b.1 | .error _ => none) with
  | some st => finishWith s rk st
  | none =>
    match block with
    | .error st => finish s rk 10 st 0 0 0 0
    | .ok (b, _) =>
      match (List.range 64).find? fun i => (Tbl.get? s.ctxs i).isNone && !ringBusy s i with
      | none => answer s rk .later
      | some id =>
        if !cachesReady s ((blockGrant b).map (· * 8)) then answer s rk .later
        else match createContext s rk p (blockGrant b) ((blockSettings b).getD Settings.default) id with
          | none => finishWith s rk 7
          | some s =>
            let s := makeRecord s (portNode (rk / 512)) id 0 rk 1 (some id) (completionWord (pktTag p) 0x10 0 (rk % 16) 0) (BitVec.ofNat 64 id) 0 0 0
            modRing s rk fun r => { r with cur := none, st := .ready }

/-- CTX_CREATE (R337). -/
def execCtxCreate (r : RingRef) (ext : Ext) (s : State) : Out := .next (runCommand 0x10 r (cmdCtxCreate ext) s)

/-! ### CTX_DESTROY, CTX_RESET (R342, R408) -/

/-- CTX_DESTROY (R342): its COMPLETION is the last record of the context's ring. -/
def cmdCtxDestroy (s : State) (rk : Nat) (p : Packet) : State :=
  let ctx := pktCtx p
  let s := stopContext s ctx (some rk) false
  if !contextStill s ctx then answer s rk .later else eraseContext (finishWith s rk 0) ctx false

/-- CTX_DESTROY (R342). -/
def execCtxDestroy (r : RingRef) (s : State) : Out := .next (runCommand 0x11 r cmdCtxDestroy s)

/-- CTX_RESET (R408): P0 is a context block, whose words 0 to 3 are ignored, or 0 for the defaults. -/
def cmdCtxReset (ext : Ext) (s : State) (rk : Nat) (p : Packet) : State :=
  let ctx := pktCtx p
  let a := (pktP p 0).toNat
  let go (y : Settings) : State :=
    let s := stopContext s ctx (some rk) false
    if contextStill s ctx then finishWith (resetContext s ctx y) rk 0 else answer s rk .later
  if a = 0 then go Settings.default
  else if a % 128 ≠ 0 then finishWith s rk 9
  else match agentBytes s (commandAgent ctx) a 128 ext with
    | .wait => answer s rk .later
    | .bad _ _ _ st _ => finish s rk 10 st 0 0 0 0
    | .ok b psn _ _ =>
      if psn then finish s rk 10 1 0 0 0 0
      else if !blockShape b then finishWith s rk 1
      else match blockSettings b with
        | none => finishWith s rk 9
        | some y => go y

/-- CTX_RESET (R408). -/
def execCtxReset (r : RingRef) (ext : Ext) (s : State) : Out := .next (runCommand 0x12 r (cmdCtxReset ext) s)

/-! ### MAP and UNMAP (R25 to R37, R314) -/

/-- log2 of the page size of a MAP or UNMAP, and its page count. -/
def mapLog2 (w : Nat) : Nat := if bits w 1 0 = 1 then 21 else if bits w 1 0 = 2 then 30 else 16

/-- The range rules that MAP and UNMAP share: size, alignment, count, and the windows of Table 1.5 (R24, R25). -/
def rangeOk (va w : Nat) : Bool :=
  let n := bits w 39 8
  let hi := va + n * 2 ^ mapLog2 w
  bits w 1 0 != 3 && n != 0 && va % 2 ^ mapLog2 w == 0 && decide (hi ≤ 2 ^ 48) && decide (0x100000 ≤ va) &&
    (decide (hi ≤ 0x80000000) || decide (0xF0000000 ≤ va))

/-- A target page that MAP accepts (R29, R33, R37): nothing withdrawn, host memory of the owner's port only. -/
def targetOk (s : State) (x : Ctx) (log2 : Nat) (ats : Bool) (a : Nat) : Bool :=
  let b := foldOwn s a
  a % 2 ^ log2 == 0 && decide (a + 2 ^ log2 ≤ 2 ^ 52) && leafTarget s a ats && leafTarget s (a + 2 ^ log2 - 1) ats &&
    (bit b 51 || (decide (b < 2 ^ 40) && (List.range (2 ^ (log2 - 16))).all fun i => !withdrawn s (b + i * 65536)) ||
      (decide (2 ^ 40 ≤ b) && b / 2 ^ 40 == 2 + x.port))

/-- The leaf entry that MAP writes (Table 1.7). -/
def leafEntry (w a : Nat) : Nat :=
  a / 65536 * 65536 + b2n (bit w 7) * 2 ^ 9 + b2n (bit w 6) * 2 ^ 8 + bits w 5 4 * 2 ^ 6 + b2n (bit w 2) * 2 ^ 5 + b2n (bit w 3) * 2 ^ 4 + 5

/-- Give back the frames of a table and of the tables under it; `rest` are the levels below it. -/
def freeTables (ctx : Nat) : List Nat → State → Nat → State
  | [], s, _ => s
  | sh :: rest, s, table =>
    let s := (List.range (tableSize sh)).foldl (fun s i =>
      let e := readPte s (table + 8 * i)
      if bit e 0 && !bit e 2 then freeTables ctx rest s (pteAddr e) else s) s
    modCtx s ctx fun x => { x with frames := x.frames.filter (· != table) }

/-- The table that an entry leads to: the one it names, one made from the larger leaf that it holds (R37), or a new
one. -/
def enterTable (ctx : Nat) (s : State) (a sh below : Nat) : Option (Nat × State) :=
  let e := readPte s a
  if bit e 0 && !bit e 2 then some (pteAddr e, s)
  else match newFrame s ctx with
    | none => none
    | some (f, s) =>
      let s := if bit e 0 then
          (List.range (2 ^ (sh - below))).foldl (fun s i => setPte s (f + 8 * i) (partPte e i below)) s
        else s
      some (f, setPte s a (f + 1))

/-- Set the entry for a page of size 2^`log2`: 0 unmaps it. A page with no mapping that is unmapped is passed over. -/
def setLeaf (ctx va log2 v : Nat) : List Nat → State → Nat → Option State
  | [], _, _ => none
  | sh :: rest, s, table =>
    let a := pteAt table va sh
    let e := readPte s a
    if v = 0 ∧ !bit e 0 then some s
    else if sh = log2 then
      some (setPte (if bit e 0 && !bit e 2 then freeTables ctx rest s (pteAddr e) else s) a v)
    else match enterTable ctx s a sh (rest.headD 16) with
      | none => none
      | some (t, s) => setLeaf ctx va log2 v rest s t

/-- Set the entries of a range. -/
def setRange (ctx va log2 : Nat) (v : Nat → Nat) (n : Nat) (s : State) : Option State :=
  match Tbl.get? s.ctxs ctx with
  | none => none
  | some x => (List.range n).foldl (fun (o : Option State) i => o.bind fun s => setLeaf ctx (va + i * 2 ^ log2) log2 (v i) [39, 30, 21, 16] s x.root) (some s)

/-- WIN form of MAP and UNMAP (R314): on the PF's ring, for a context that the VF owns. -/
def slotOk (s : State) (rk : Nat) (p : Packet) : Bool :=
  let w := (pktP p 1).toNat
  rk / 16 % 32 == 0 && bits w 4 0 != 0 && (pktP p 0).toNat % slotSize == 0 &&
    decide ((pktP p 0).toNat + slotSize ≤ 2 ^ 48) &&
    (match Tbl.get? s.ctxs (bits w 21 16) with | some x => x.port == rk / 512 && x.fn == bits w 4 0 | none => false)

/-- Key of the slot that a WIN form names. -/
def slotOf (rk : Nat) (p : Packet) : Nat := slotKey (rk / 512) (bits (pktP p 1).toNat 4 0) (bits (pktP p 1).toNat 11 8)

/-- What a MAP or UNMAP is refused with, now (R231, R335). -/
def checkMap (s : State) (rk : Nat) (p : Packet) : Option Nat :=
  let w := (pktP p 2).toNat
  if bit (pktFlags p) 0 then (if slotOk s rk p then none else some 9)
  else match Tbl.get? s.ctxs (pktCtx p) with
    | none => some 3
    | some x =>
      if !rangeOk (pktP p 0).toNat w then some 9
      else if pktOp p = 0x18 ∧ (bits w 5 4 = 3 ∨
          !((List.range (bits w 39 8)).all fun i => targetOk s x (mapLog2 w) (bit w 7) ((pktP p 1).toNat + i * 2 ^ mapLog2 w))) then some 9
      else none

/-- No access that uses the range's old translations is in flight (R32). -/
def mapReady (s : State) (p : Packet) : Bool :=
  bit (pktFlags p) 0 || !rangeInUse s (pktCtx p) (pktP p 0).toNat (bits (pktP p 2).toNat 39 8 * 2 ^ mapLog2 (pktP p 2).toNat)

/-- A MAP's or UNMAP's effect; nothing where the firmware reserve has no room for a table, or would have none left for a split that a
withdrawal may need (R37, log entry 10). -/
def applyMap (s : State) (rk : Nat) (p : Packet) : Option State :=
  let w := (pktP p 2).toNat
  let va := (pktP p 0).toNat
  let n := bits w 39 8
  if bit (pktFlags p) 0 then
    some { s with slots := if pktOp p = 0x18 then Tbl.set s.slots (slotOf rk p) (bits (pktP p 1).toNat 21 16, va) else Tbl.erase s.slots (slotOf rk p) }
  else
    let v (i : Nat) : Nat := if pktOp p = 0x18 then leafEntry w ((pktP p 1).toNat + i * 2 ^ mapLog2 w) else 0
    match setRange (pktCtx p) va (mapLog2 w) v n s with
    | none => none
    | some s => if splitRoom s then some (dropRange s (pktCtx p) va (n * 2 ^ mapLog2 w)) else none

/-- What one member of a group, or a command of one step, comes to: a refusal with status, REASON and w4, not yet, or its
effect with w4. -/
inductive Effect where
  | refuse (status reason : Nat) (w4 : W64)
  | later
  | ok (s : State) (w4 : W64) (e : Ext)

/-- The status that an effect's check gives, 0 where it passes. -/
def Effect.status : Effect → Nat
  | .refuse st _ _ => st
  | _ => 0

/-- Complete a ring's command with its effect; one that must wait has begun. -/
def complete (s : State) (rk : Nat) : Effect → State
  | .refuse st reason w4 => finish s rk st reason w4 0 0 0
  | .later => answer s rk .later
  | .ok s w4 _ => finish s rk 0 0 w4 0 0 0

/-- A command of one step that may be a member of a group: its effect is also its check (R231). -/
def runMember (op : Nat) (r : RingRef) (eff : State → Nat → Packet → Effect) (s : State) : State :=
  runChecked (fun s rk p => (eff s rk p).status) op r (fun s rk p => complete s rk (eff s rk p)) s

/-- What a step of a host-independent member reads: nothing. -/
def noExt : Ext := { data := [], poison := false, code := 0 }

/-- MAP and UNMAP (R32). -/
def mapEffect (s : State) (rk : Nat) (p : Packet) (e : Ext) : Effect :=
  match checkMap s rk p with
  | some st => .refuse st 0 0
  | none => match applyMap s rk p with
    | none => .refuse 7 0 0
    | some t => if mapReady s p then .ok t 0 e else .later

/-- MAP (R32). -/
def execMap (r : RingRef) (s : State) : Out := .next (runMember 0x18 r (fun s rk p => mapEffect s rk p noExt) s)
/-- UNMAP (R32). -/
def execUnmap (r : RingRef) (s : State) : Out := .next (runMember 0x19 r (fun s rk p => mapEffect s rk p noExt) s)

/-! ### COPY and FILL (R333, R276) -/

/-- One span of addresses as a stream of one line. -/
def spanOf (a len : Nat) : Lines := { base := a, stride := 0, len := len, count := 1 }

/-- Move a source to the span that starts at P1; a stop refuses the rest with ADDRESS and its channel status. -/
def cmdMove (src : Nat → Source) (ext : Ext) (s : State) (rk : Nat) (p : Packet) : State :=
  let len := (pktP p 2).toNat
  let tell (s : State) (st reason : Nat) (g : Prog) : State :=
    finish s rk st reason (BitVec.ofNat 64 g.n) (BitVec.ofNat 64 (if pktOp p = 0x1A then b2n g.psn else 0)) 0 0
  match moveAll (commandAgent (pktCtx p)) (src len) (spanOf (pktP p 1).toNat len) len len s ext { n := 0, psn := false } with
  | .all s _ g => tell { s with fresh := s.fresh + 1 } 0 0 g
  | .bad s g st _ => tell { s with fresh := s.fresh + 1 } 10 st g
  | .wait _ _ => answer s rk .later

/-- COPY (R333). -/
def cmdCopy (ext : Ext) (s : State) (rk : Nat) (p : Packet) : State :=
  cmdMove (fun len => copySource (commandAgent (pktCtx p)) (spanOf (pktP p 0).toNat len) s) ext s rk p

/-- FILL (R333). -/
def cmdFill (ext : Ext) (s : State) (rk : Nat) (p : Packet) : State := cmdMove (fun _ => fillSource (pktP p 0)) ext s rk p

/-- COPY (R333). -/
def execCopy (r : RingRef) (ext : Ext) (s : State) : Out := .next (runCommand 0x1A r (cmdCopy ext) s)
/-- FILL (R333). -/
def execFill (r : RingRef) (ext : Ext) (s : State) : Out := .next (runCommand 0x1B r (cmdFill ext) s)

/-! ### LOAD_IMAGE (R341, R17, R199, R200, R203) -/

/-- A section of an image: kind, destination, and its bytes. -/
structure Section where
  kind : Nat
  dest : Nat
  data : List Byte
  deriving DecidableEq, Repr

/-- 64-bit words of a list of bytes. -/
def wordList (b : List Byte) : List Nat := (List.range (b.length / 8)).map fun i => blockWord b i

/-- The sections of an image; nothing where it is malformed. -/
def imageSections (b : List Byte) : Option (List Section) :=
  let w0 := blockWord b 0
  let n := w0 / 2 ^ 32
  let tab := blockWord b 1
  if b.length < 16 ∨ w0 % 2 ^ 32 ≠ 0x564F4C50 ∨ b.length < tab + 32 * n then none
  else
    let raw := (List.range n).map fun i => ((List.range 4).map fun j => leNat ((b.drop (tab + 32 * i + 8 * j)).take 8))
    if raw.all fun r => decide (r.getD 0 0 ≤ 6) && decide (r.getD 3 0 + r.getD 2 0 ≤ b.length) then
      some (raw.map fun r => { kind := r.getD 0 0, dest := r.getD 1 0, data := (b.drop (r.getD 3 0)).take (r.getD 2 0) })
    else none

/-- Sections of one kind. -/
def ofKind (l : List Section) (k : Nat) : List Section := l.filter fun x => x.kind == k

/-- The logical core order that an image states (kind 2). -/
def imageOrder (l : List Section) : Option (List Nat) :=
  match ofKind l 2 with
  | [] => none
  | ss => some (ss.flatMap fun x => (List.range (x.data.length / 2)).map fun i => leNat ((x.data.drop (2 * i)).take 2))

/-- The Counter Map entries of an image (kind 3): counter ID and entry. -/
def imageEntries (l : List Section) : List (Nat × Nat) :=
  (ofKind l 3).flatMap fun x => (List.range (x.data.length / 8)).map fun i => (x.dest + i, blockWord x.data i)

/-- The CTR_MODE words of an image (kind 4), one per logical core. -/
def imageModes (l : List Section) : List Nat := (ofKind l 4).flatMap fun x => wordList x.data

/-- Lengths and destinations that each kind needs. -/
def sectionOk (count : Nat) (x : Section) : Bool :=
  let n := x.data.length
  if x.kind = 1 then decide (x.dest + n ≤ 0x78000)
  else if x.kind = 2 then n % 2 == 0
  else if x.kind = 3 then n % 8 == 0 && decide (x.dest + n / 8 ≤ 65536)
  else if x.kind = 4 then n % 8 == 0 && decide (n / 8 ≤ count)
  else if x.kind = 5 then n == 512
  else if x.kind = 6 then n == 8 && blockWord x.data 0 % 4096 == 0
  else true

/-- Cells with the modes that an image's words give: `table` is the logical core table. -/
def wordModes (table ws : List Nat) : List (CellId × Bool) :=
  (table.zip ws).flatMap fun cw => (List.range 48).map fun i => (CellId.core cw.1 i, bit cw.2 i)

/-- Cells with the modes that Counter Map entries give. -/
def entryModes (s : State) (es : List Nat) : List (CellId × Bool) :=
  es.filterMap fun e => match entryCell s e with
    | some (.remote _ _) => none
    | some c => some (c, bits e 62 61 == 1)
    | none => none

/-- Two of the modes given differ for one cell (R200). -/
def modesClash : List (CellId × Bool) → Bool
  | [] => false
  | (c, m) :: rest => rest.any (fun x => decide (x.1 = c) && x.2 != m) || modesClash rest

/-- An entry names a cell that the context may not take (R341): a core cell outside its grant, or a weighbridge cell
that another context holds. -/
def entryTaken (s : State) (ctx : Nat) (x : Ctx) (e : Nat) : Bool :=
  match entryCell s e with
  | some (.core c _) => !x.grant.contains (c / 8)
  | some (.wb w i) => (match wbHolder s (wbIndex w i) with | some (o, _) => o != ctx | none => false)
  | _ => false

/-- What an image is refused with before anything of it takes effect (R335). -/
def imageBad (s : State) (ctx : Nat) (x : Ctx) (l : List Section) : Option Nat :=
  let order := imageOrder l
  let table := coreTable s x order
  let es := (imageEntries l).map (·.2)
  if !orderOk x (order.getD []) || l.any (fun y => !sectionOk table.length y) || decide (table.length < (imageModes l).length) then some 9
  else if modesClash (wordModes table (imageModes l) ++ entryModes s es) then some 9
  else if es.any (entryTaken s ctx x) then some 7
  else none

/-- The entries of a context's Counter Map. -/
def mapEntries (s : State) (ctx : Nat) : List Nat := (List.range 65536).map (mapEntryAt s ctx)

/-- CTR_MODE of a core from the modes given; a cell not named is MONO. -/
def modeWord (modes : List (CellId × Bool)) (c : Nat) : Nat :=
  ((List.range 48).map fun i => if ((modes.find? fun m => decide (m.1 = .core c i)).map (·.2)).getD false then 2 ^ i else 0).sum

/-- The Counter Map and the modes of an image take effect (R199, R200, R203): under virtual allocation a cell that an entry of the map
names takes that entry's MODE, the image's entries first, and any other core cell that of the CTR_MODE words; a weighbridge cell newly
held is set to zero. -/
def applyCounters (s : State) (ctx : Nat) (x : Ctx) (l : List Section) (table : List Nat) : State :=
  let es := imageEntries l
  let s := es.foldl (fun s e => setPte s (0xFFF4000000 + ctx * 0x80000 + e.1 * 8) e.2) s
  let words := wordModes table (imageModes l)
  let named := if x.virt then entryModes s (es.map (·.2)) ++ entryModes s (mapEntries s ctx) else []
  let modes := if x.virt then named ++ words else words
  let s := (grantCores s x).foldl (fun s c => modCore s c fun y => { y with ctrMode := BitVec.ofNat 48 (modeWord modes c), ctrDead := false }) s
  let heldNow : List Nat := named.foldl (fun (acc : List Nat) m => match m.1 with
    | .wb w i => if acc.any fun h => h / 2 == wbIndex w i then acc else acc ++ [wbIndex w i * 2 + b2n m.2]
    | _ => acc) []
  let isNew (i : Nat) : Bool := (heldNow.any fun h => h / 2 == i) && !(x.wbHeld.any fun h => h / 2 == i)
  let s := { s with wbCells := s.wbCells.filter fun e => !isNew e.1 }
  let drop (b : Bench) : Bench := { b with tuCtr := b.tuCtr.filter fun t => t.1 != ctx }
  modCtx { s with benches := s.benches.map fun b => (b.1, drop b.2) } ctx fun y => { y with wbHeld := if x.virt then heldNow else y.wbHeld }

/-- Write bytes into a core's store. -/
def storeBytes (s : State) (c o : Nat) (b : List Byte) : State :=
  (pieces o b.length).foldl (fun s pc => homeWrite s (.store c (o + pc.1)) (offsets ((b.drop pc.1).take pc.2)) false none) s

/-- Everything of an image but its writes to context memory. -/
def applyImage (s : State) (ctx : Nat) (x : Ctx) (l : List Section) : State :=
  let table := coreTable s x (imageOrder l)
  let s := modCtx s ctx fun y =>
    { y with order := imageOrder l, lcore := table, vbase1 := BitVec.ofNat 64 (((ofKind l 6).map fun z => blockWord z.data 0).getLast?.getD 0) }
  let s := (ofKind l 1).foldl (fun s z => table.foldl (fun s c => storeBytes s c z.dest z.data) s) s
  let s := (ofKind l 5).foldl (fun s z => (grantCores s x).foldl (fun s c => storeBytes s c 0x7A800 z.data) s) s
  applyCounters s ctx x l table

/-- The image's writes to context memory (kind 0); a failed one gives its status. -/
def imageWrites (g : Agent) : List Section → State → Ext → Except Nat State
  | [], s, _ => .ok s
  | z :: rest, s, e =>
    match agentStore s g z.dest z.data false e with
    | .all s e _ => imageWrites g rest s e
    | .bad _ _ st _ => .error st
    | .wait _ _ => .error 0

/-- LOAD_IMAGE (R341): every check comes before any effect. -/
def cmdLoadImage (ext : Ext) (s : State) (rk : Nat) (p : Packet) : State :=
  let ctx := pktCtx p
  match cmdCtx s p with
  | none => s
  | some x =>
    let busy := s.launches.any fun l => l.ctx == ctx
    let refuse (st reason : Nat) : State := if busy then finishWith s rk 23 else finish s rk st reason 0 0 0 0
    match agentBytes s (commandAgent ctx) (pktP p 0).toNat (pktP p 1).toNat ext with
    | .wait => answer s rk .later
    | .bad _ _ _ st _ => refuse 10 st
    | .ok b psn _ ext =>
      if psn then refuse 10 1
      else match imageSections b with
        | none => finishWith s rk 1
        | some l =>
          match imageBad s ctx x l with
          | some st => finishWith s rk st
          | none =>
            match imageWrites (commandAgent ctx) (ofKind l 0) s ext with
            | .error 0 => answer s rk .later
            | .error st => refuse 10 st
            | .ok s1 => if busy then finishWith s rk 23 else finishWith (applyImage s1 ctx x l) rk 0

/-- LOAD_IMAGE (R341). -/
def execLoadImage (r : RingRef) (ext : Ext) (s : State) : Out := .next (runCommand 0x20 r (cmdLoadImage ext) s)

end Sys2Proof.Machine
end

