-- ==== Sys2Proof/Machine/StreamCmds.lean ====
section
/-!
DEFINITION. The commands that load and change stream regions (R247, R248, R250, R261, R262, R266; Tables 13.2 to 13.6,
13.9): reading and checking a region image, STREAM_LOAD, STREAM_SECTION, STREAM_RECONFIG.
-/
namespace Sys2Proof.Machine

/-! ### A region image (Table 13.6) -/

/-- A region as an image would place it: context, rectangle, participating benches, sections, FIRST, image words. -/
structure Plan where
  ctx : Nat
  x0 : Nat
  y0 : Nat
  w : Nat
  h : Nat
  ns : Nat
  first : Nat
  img : List W64
  parts : List Nat
  deriving DecidableEq, Repr

/-- A bench takes part in regions of a context: it is good, of the grant, and its cores have joined (R248, R380). -/
def takesPart (s : State) (ctx n : Nat) : Bool :=
  isBench n && !isFenced s 2 n && (match Tbl.get? s.ctxs ctx with | some x => x.grant.contains n | none => false) &&
    (List.range 8).any fun i => (core s (n * 8 + i)).ctx == some ctx

/-- The nodes of a rectangle that lie in the mesh. -/
def rectNodes (x0 y0 w h : Nat) : List Nat :=
  ((List.range h).flatMap fun y => (List.range w).map fun x => (y0 + y, x0 + x)).filterMap fun p =>
    if p.1 < 16 ∧ p.2 < 16 then some (p.1 * 16 + p.2) else none

/-- The plan of an image whose first word is given. -/
def planOf (s : State) (ctx : Nat) (img : List W64) : Plan :=
  let w0 := (img.getD 0 0).toNat
  let x0 := bits w0 3 0
  let y0 := bits w0 7 4
  let w := bits w0 11 8 + 1
  let h := bits w0 15 12 + 1
  { ctx := ctx, x0 := x0, y0 := y0, w := w, h := h, ns := bits w0 27 16 + 1, first := bits w0 39 28, img := img,
    parts := (rectNodes x0 y0 w h).filter (takesPart s ctx) }

/-- Bytes of an image, by its header: to the end of the section table and of the configurations. -/
def imageLength (hd : List Byte) : Nat :=
  let w0 := blockWord hd 0
  let ns := bits w0 27 16 + 1
  max 24 (max (blockWord hd 1 + 16 * ns) (blockWord hd 2 + ns * (bits w0 11 8 + 1) * (bits w0 15 12 + 1) * 448))

/-- Word `i` of the 56 of node `n` in a section. -/
def Plan.reg (p : Plan) (sec n i : Nat) : Nat :=
  (configWord p.img (configOff p.img p.w p.h sec (n % 16 - p.x0) (n / 16 - p.y0)) i).toNat
/-- QCFG of a queue. -/
def Plan.qcfg (p : Plan) (sec n q : Nat) : Nat := p.reg sec n q
/-- UCFG0 of a unit. -/
def Plan.ucfg0 (p : Plan) (sec n u : Nat) : Nat := p.reg sec n (24 + 2 * u)
/-- Output reference `i` of a unit. -/
def Plan.out (p : Plan) (sec n u i : Nat) : Nat := bits (p.reg sec n (25 + 2 * u)) (16 * i + 15) (16 * i)
/-- ZBIND of operand `z` of core `c` of a bench. -/
def Plan.zbind (p : Plan) (sec n c z : Nat) : Nat := bits (p.reg sec n (40 + 2 * c + z / 4)) (16 * (z % 4) + 15) (16 * (z % 4))
/-- DEPTH of a queue. -/
def Plan.depth (p : Plan) (sec : Nat) (q : Nat × Nat) : Nat := bits (p.qcfg sec q.1 q.2) 8 0
/-- KIND of a unit. -/
def Plan.kind (p : Plan) (sec n u : Nat) : Nat := bits (p.ucfg0 sec n u) 2 0

/-- A connection: producer's bench, region column and row of the queue's bench, queue, YX. -/
structure Conn where
  src : Nat
  rx : Nat
  ry : Nat
  q : Nat
  yx : Bool
  deriving DecidableEq, Repr

/-- The connection of a reference in use. -/
def connOf (n ref : Nat) (yx : Bool) : Conn := { src := n, rx := bits ref 3 0, ry := bits ref 7 4, q := bits ref 12 8, yx := yx }

/-- Queue that a connection feeds. -/
def Plan.dst (p : Plan) (c : Conn) : Nat × Nat := ((p.y0 + c.ry) * 16 + p.x0 + c.rx, c.q)

/-- Connections of a unit. -/
def Plan.unitConns (p : Plan) (sec n u : Nat) : List Conn :=
  if p.kind sec n u = 0 then []
  else (List.range 4).filterMap fun i => let r := p.out sec n u i; if bit r 15 then some (connOf n r (bit r 14)) else none

/-- Connections of a bench's cores. -/
def Plan.coreConns (p : Plan) (sec n : Nat) : List Conn :=
  (List.range 64).filterMap fun i =>
    let b := p.zbind sec n (i / 8) (i % 8)
    if bit b 15 && bit b 14 then some (connOf n b (bit b 13)) else none

/-- Every connection of a section. -/
def Plan.conns (p : Plan) (sec : Nat) : List Conn :=
  p.parts.flatMap fun n => ((List.range 8).flatMap fun u => p.unitConns sec n u) ++ p.coreConns sec n

/-- Queues that the inputs of a unit name: IN0, IN1, CIN. -/
def Plan.unitIns (p : Plan) (sec n u : Nat) : List (Nat × Nat) :=
  if p.kind sec n u = 0 then []
  else (List.range 3).filterMap fun i =>
    let w := p.ucfg0 sec n u
    if bit w (15 + 8 * i) then some (i, bits w (12 + 8 * i) (8 + 8 * i)) else none

/-- Consumers of a bench's queues: queue, kind and number. -/
def Plan.consumers (p : Plan) (sec n : Nat) : List (Nat × Nat × Nat) :=
  ((List.range 8).flatMap fun u => (p.unitIns sec n u).map fun i => (i.2, 0, u)) ++
    (List.range 64).filterMap fun i =>
      let b := p.zbind sec n (i / 8) (i % 8)
      if bit b 15 && !bit b 14 then some (bits b 12 8, 1, i / 8) else none

/-! ### Checks (Table 13.9), each true where it refuses -/

/-- Bits of a word outside a mask. -/
def stray (w mask : Nat) : Bool := w &&& (2 ^ 64 - 1 - mask) != 0

/-- Some section and some configured node break a rule. -/
def Plan.anyNode (p : Plan) (f : Nat → Nat → Bool) : Bool := (List.range p.ns).any fun sec => p.parts.any fun n => f sec n

/-- Reason 1 for one configuration: reserved fields and kinds, and queue numbers that do not exist. -/
def Plan.badShape (p : Plan) (sec n : Nat) : Bool :=
  ((List.range 24).any fun q => stray (p.qcfg sec n q) 0xF07FF || bits (p.qcfg sec n q) 10 9 == 3) ||
  ((List.range 8).any fun u =>
    let w := p.ucfg0 sec n u
    stray w 0x9F9F9F07 || decide (5 < bits w 2 0) || (p.unitIns sec n u).any (fun i => decide (23 < i.2)) ||
      (List.range 4).any fun i => let r := p.out sec n u i; bit r 13 || (bit r 15 && decide (23 < bits r 12 8))) ||
  (List.range 64).any fun i =>
    let b := p.zbind sec n (i / 8) (i % 8)
    (bit b 15 && decide (23 < bits b 12 8)) || (bit b 15 && !bit b 14 && (bit b 13 || bits b 7 0 != 0))

/-- Reason 1 for a section's table entry. -/
def badSection (img : List W64) (sec : Nat) : Bool :=
  let w := sectionWord img sec 0
  decide (1 < bits w 13 12) || bits w 15 14 != 0 || bits w 63 48 != 0 || bits (sectionWord img sec 1) 63 48 != 0

/-- A hole of the rectangle has a slot that is not all zero (reason 5). -/
def Plan.holeSlot (p : Plan) (sec : Nat) : Bool :=
  (rectNodes p.x0 p.y0 p.w p.h).any fun n => !p.parts.contains n && (List.range 56).any fun i => p.reg sec n i != 0

/-- A connection that stays in the rectangle leads to a hole (reason 5). -/
def Plan.holeConn (p : Plan) (c : Conn) : Bool :=
  decide (c.rx < p.w) && decide (c.ry < p.h) && !p.parts.contains (p.dst c).1

/-- Network of a queue (Table 13.1): 0 scalar, 1 vector, 2 control. -/
def netOf (q : Nat) : Nat := q / 8

/-- A queue in use breaks the rule of one producer and one consumer (R250); a queue that no unit or core feeds is a haul
channel's (R257). -/
def Plan.badQueue (p : Plan) (sec : Nat) (cs : List Conn) (n q : Nat) : Bool :=
  let w := p.qcfg sec n q
  if bits w 8 0 = 0 then false
  else
    let users := ((p.consumers sec n).filter fun c => c.1 == q).map (·.2)
    let feeds := (cs.filter fun c => p.dst c == (n, q)).length
    decide (1 < feeds) ||
      (if bits w 10 9 = 2 then !users.isEmpty || netOf q != 1 else users != [(bits w 10 9, bits w 19 16)])

/-- A unit mixes networks, or its control input is not a control queue (R253). -/
def Plan.mixed (p : Plan) (sec n u : Nat) : Bool :=
  let ins := p.unitIns sec n u
  let outs := (List.range 4).filterMap fun i => let r := p.out sec n u i; if bit r 15 then some (i, bits r 12 8) else none
  let merge := p.kind sec n u == 2
  let data := ((ins.filter fun i => i.1 != 2) ++ outs.filter fun o => !(merge && o.1 == 1)).map fun i => netOf i.2
  p.kind sec n u != 0 &&
    ((ins.any fun i => i.1 == 2 && netOf i.2 != 2) || (merge && outs.any fun o => o.1 == 1 && netOf o.2 != 2) ||
      data.any fun a => a != data.headD 0)

/-- The links that a connection crosses: node left, direction (0 east, 1 west, 2 south, 3 north), network (R250). -/
def Plan.hops (p : Plan) (c : Conn) : List (Nat × Nat × Nat) :=
  let x := c.src % 16
  let y := c.src / 16
  let tx := p.x0 + c.rx
  let ty := p.y0 + c.ry
  let alongX (y : Nat) := if x ≤ tx then (List.range (tx - x)).map fun i => (y * 16 + x + i, 0, netOf c.q)
    else (List.range (x - tx)).map fun i => (y * 16 + x - i, 1, netOf c.q)
  let alongY (x : Nat) := if y ≤ ty then (List.range (ty - y)).map fun i => ((y + i) * 16 + x, 2, netOf c.q)
    else (List.range (y - ty)).map fun i => ((y - i) * 16 + x, 3, netOf c.q)
  if c.yx then alongY x ++ alongX ty else alongX y ++ alongY tx

/-- More connections on a link and direction than a network's lanes (reason 7). -/
def Plan.crowded (p : Plan) (cs : List Conn) : Bool :=
  let hs := cs.flatMap p.hops
  hs.any fun h => decide ((if h.2.2 = 1 then 2 else 4) < (hs.filter fun g => g == h).length)

/-- A depth above its network's maximum (reason 9). -/
def Plan.tooDeep (p : Plan) (sec n : Nat) : Bool :=
  (List.range 24).any fun q => decide ((if netOf q = 0 then 64 else if netOf q = 1 then 32 else 256) < p.depth sec (n, q))

/-- A queue that is used and has no depth (reason 9). -/
def Plan.shallow (p : Plan) (sec : Nat) : Bool :=
  ((p.conns sec).any fun c => p.depth sec (p.dst c) == 0) ||
    p.parts.any fun n => (p.consumers sec n).any fun c => p.depth sec (n, c.1) == 0

/-- ADV = 1 without virtual allocation, or a counter that is no weighbridge cell of the device (reason 11). -/
def Plan.badCounter (s : State) (p : Plan) (sec : Nat) : Bool :=
  let w := sectionWord p.img sec 0
  bits w 13 12 == 1 &&
    (!((Tbl.get? s.ctxs p.ctx).map (·.virt)).getD false || decide (65536 ≤ bits w 47 16) ||
      (match entryCell s (mapEntryAt s p.ctx (bits w 47 16)) with | some (.wb _ _) => false | _ => true))

/-- The reason for which an image is refused, the lowest that applies; `self` is the region that a STREAM_RECONFIG
replaces. -/
def Plan.reason (s : State) (p : Plan) (self : Option Nat) : Option Nat :=
  let nodes := rectNodes p.x0 p.y0 p.w p.h
  let secs := List.range p.ns
  let anySec (f : Nat → Bool) : Bool := secs.any f
  let inside (c : Conn) : Bool := decide (c.rx < p.w) && decide (c.ry < p.h)
  if bits (p.img.getD 0 0).toNat 63 40 ≠ 0 || anySec (badSection p.img) || p.anyNode p.badShape then some 1
  else if 16 < p.x0 + p.w ∨ 16 < p.y0 + p.h then some 2
  else if s.regions.any fun e => some e.1 != self && (regionRect e.2).any fun n => nodes.contains n then some 3
  else if self.isNone && decide (8 ≤ s.regions.length) then some 4
  else if anySec fun k => p.holeSlot k || (p.conns k).any p.holeConn then some 5
  else if anySec fun k => let cs := (p.conns k).filter inside
      p.parts.any fun n => (List.range 24).any (p.badQueue k cs n) || (List.range 8).any (p.mixed k n) then some 6
  else if anySec fun k => p.crowded ((p.conns k).filter inside) then some 7
  else if anySec fun k => (p.conns k).any fun c => !inside c then some 8
  else if p.anyNode p.tooDeep || anySec p.shallow then some 9
  else if decide (p.ns ≤ p.first) || anySec fun k => decide (p.ns ≤ bits (sectionWord p.img k 0) 11 0) then some 10
  else if anySec (p.badCounter s) then some 11
  else none

/-! ### Reading an image (R261) -/

/-- What reading an image for a command gives. -/
inductive ImageRd where
  | ok (p : Plan) (e : Ext)
  | bad (status reason : Nat)
  | wait

/-- Read some bytes of an image as a command of its context. -/
def imageBytes (s : State) (ctx a len : Nat) (e : Ext) : Except (Option Nat) (List Byte × Ext) :=
  match agentBytes s (commandAgent ctx) a len e with
  | .wait => .error none
  | .bad _ _ _ st _ => .error (some st)
  | .ok b psn _ e => if psn then .error (some 1) else .ok (b, e)

/-- Read the image at an address and form its plan: the header first, then the rest. -/
def readImage (s : State) (ctx a : Nat) (e : Ext) : ImageRd :=
  match imageBytes s ctx a 24 e with
  | .error none => .wait
  | .error (some st) => .bad 10 st
  | .ok (hd, e) =>
    if 32 * 2 ^ 20 < imageLength hd then .bad 17 1
    else match imageBytes s ctx (a + 24) (imageLength hd - 24) e with
      | .error none => .wait
      | .error (some st) => .bad 10 st
      | .ok (rest, e) =>
        let b := hd ++ rest
        .ok (planOf s ctx ((List.range ((b.length + 7) / 8)).map fun i => BitVec.ofNat 64 (blockWord b i))) e

/-! ### STREAM_LOAD -/

/-- Load a region and run its FIRST section: its benches leave gating, and their stall counters start at zero (R259). -/
def loadRegion (s : State) (rk : Nat) (p : Packet) (x : Plan) (rid : Nat) : State :=
  let ref : RingRef := { port := BitVec.ofNat 1 (rk / 512), fn := BitVec.ofNat 5 (rk / 16), ring := BitVec.ofNat 4 rk }
  let r : Region :=
    { ctx := x.ctx, x0 := x.x0, y0 := x.y0, w := x.w, h := x.h, parts := x.parts, image := x.img, secno := x.first,
      state := 1, ring := ref, tag := pktTag p, target := none, newImage := none, unload := false, flush := false,
      bycmd := none, since := 0, flushed := 0, met := false }
  let s := x.parts.foldl (fun s n =>
    modNode (modBench s n fun b => { b with qstall := [], ustall := [] }) n fun y => { y with gated := false }) s
  runSection { s with regions := Tbl.set s.regions rid r } rid x.first

/-- STREAM_LOAD (R261, R266): every check comes before any effect. -/
def loadEffect (s : State) (rk : Nat) (p : Packet) (ext : Ext) : Effect :=
  match readImage s (pktCtx p) (pktP p 0).toNat ext with
  | .wait => .later
  | .bad st reason => .refuse st reason 0
  | .ok x e =>
    match x.reason s none, Tbl.free s.regions 0 8 with
    | some reason, _ => .refuse 17 reason 0
    | none, some rid => .ok (loadRegion s rk p x rid) (BitVec.ofNat 64 rid) e
    | none, none => .refuse 17 4 0

/-- STREAM_LOAD (R261). -/
def execStreamLoad (r : RingRef) (ext : Ext) (s : State) : Out :=
  .next (runMember 0x28 r (fun s rk p => loadEffect s rk p ext) s)

/-! ### STREAM_SECTION and STREAM_RECONFIG (R262) -/

/-- The loaded region that a packet names, of its own context. -/
def pktRegion (s : State) (p : Packet) : Option (Nat × Region) :=
  let rid := (pktP p 0).toNat % 8
  match Tbl.get? s.regions rid with
  | some r => if r.ctx = pktCtx p then some (rid, r) else none
  | none => none

/-- Change a region for a ring's command, which completes with the change. -/
def changeFor (s : State) (rk rid target : Nat) (image : Option (List W64)) (unload : Bool) (p : Packet) (r : RingRef) : State :=
  beginChange (modRing s rk fun q => { q with st := .changing rid }) rid target image unload (bit (pktFlags p) 0) (some r)

/-- A command of a region that another change has: it is taken after that change ends. -/
def onRegion (s : State) (rk : Nat) (p : Packet) (f : Nat → Region → State) : State :=
  match (ring s rk).st with
  | .changing _ => s
  | _ => match pktRegion s p with
    | none => finishWith s rk 9
    | some (rid, r) => if r.state = 2 ∨ r.state = 4 then answer s rk .later else f rid r

/-- STREAM_SECTION (R262). -/
def cmdStreamSection (r : RingRef) (s : State) (rk : Nat) (p : Packet) : State :=
  onRegion s rk p fun rid x =>
    let sec := bits (pktP p 0).toNat 27 16
    if sec ≤ bits (x.image.getD 0 0).toNat 27 16 then changeFor s rk rid sec none false p r else finishWith s rk 9

/-- STREAM_SECTION (R262). -/
def execStreamSection (r : RingRef) (s : State) : Out := .next (runCommand 0x29 r (cmdStreamSection r) s)

/-- The image of a STREAM_RECONFIG replaces a region: an image of another rectangle is refused with INVALID. -/
def reconfigure (r : RingRef) (ext : Ext) (s : State) (rk : Nat) (p : Packet) (rid : Nat) (x : Region) : State :=
  match readImage s (pktCtx p) (pktP p 1).toNat ext with
  | .wait => answer s rk .later
  | .bad st reason => finish s rk st reason 0 0 0 0
  | .ok y _ =>
    if (y.x0, y.y0, y.w, y.h) ≠ (x.x0, x.y0, x.w, x.h) then finishWith s rk 9
    else match { y with parts := regionBenches s x }.reason s (some rid) with
      | some reason => finish s rk 17 reason 0 0 0 0
      | none => changeFor s rk rid y.first (some y.img) false p r

/-- STREAM_RECONFIG (R262): P1 = 0 unloads. -/
def cmdStreamReconfig (r : RingRef) (ext : Ext) (s : State) (rk : Nat) (p : Packet) : State :=
  onRegion s rk p fun rid x =>
    if pktP p 1 = 0 then changeFor s rk rid 0 none true p r else reconfigure r ext s rk p rid x

/-- STREAM_RECONFIG (R262). -/
def execStreamReconfig (r : RingRef) (ext : Ext) (s : State) : Out := .next (runCommand 0x2A r (cmdStreamReconfig r ext) s)

end Sys2Proof.Machine
end

