-- ==== Sys2Proof/Machine/DeviceCmds.lean ====
section
/-!
DEFINITION. The device class of commands and the command groups (R1, R2, R38, R322, R323, R334, R336, R378 to R386, R399,
R414, R424, R425, R229 to R232; Tables 16.7, 17.3, 19.5, 19.7, 19.8, 20.3, 21.5).
-/
namespace Sys2Proof.Machine

/-! ### GET_INFO (Table 17.3) -/

/-- Good cores at shipment (R2). -/
def shippedGood (s : State) : Nat := (allCores.filter fun c => !NSet.has s.dev.shipFenced (unitName 1 c)).length

/-- Grade of the part: the highest whose count it meets (R1); a part below every grade reports the lowest (log entry 26). -/
def gradeOf (good : Nat) : Nat := if 1792 ≤ good then 1792 else if 1664 ≤ good then 1664 else 1536

/-- The firmware revision in force, 0 while no image runs. -/
def fwRev (s : State) : Nat := if s.dev.image.isEmpty then 0 else (Config.fwRevision s.dev.image).toNat

/-- The information buffer. -/
def infoBytes (s : State) : List Byte :=
  let ship := shippedGood s
  let fence (i : Nat) : Nat := ((List.range 64).map fun j => if isCore (64 * i + j) && coreFenced s (64 * i + j) then 2 ^ j else 0).sum
  wordsIn 512 ([gradeOf ship + ship * 2 ^ 16 + goodCount s * 2 ^ 32, 2 ^ 40 - 2 ^ 30 - withdrawnCount s * 65536, readBoot s 0,
    fwRev s + s.dev.devId.toNat * 2 ^ 16, s.ctxs.length, 0, 0, 0] ++ (List.range 32).map fence)

/-- GET_INFO. -/
def cmdGetInfo (ext : Ext) (s : State) (rk : Nat) (p : Packet) : State :=
  match hostStore s rk (pktP p 0).toNat (infoBytes s) ext with
  | .error st => finish s rk 10 st 0 0 0 0
  | .ok s => finishWith s rk 0

/-- GET_INFO (R334). -/
def execGetInfo (r : RingRef) (ext : Ext) (s : State) : Out := .next (runCommand 0x30 r (cmdGetInfo ext) s)

/-! ### SET_POLICY (R38, R379, R399, R414) -/

/-- A value lies in the range of a parameter (Tables 16.7, 19.7, 20.3, 21.5); a number that no table lists has none. -/
def policyRange (n v : Nat) : Bool :=
  let r (lo hi : Nat) : Bool := decide (lo ≤ v) && decide (v ≤ hi)
  match n with
  | 0x0001 | 0x0100 | 0x0206 | 0x0208 | 0x020B | 0x020D => r 0 1
  | 0x0002 => r 100 600000
  | 0x0101 => r 10000 (2 ^ 32 - 1)
  | 0x0102 | 0x0104 | 0x0107 => r 0 65535
  | 0x0103 | 0x0105 | 0x0106 => r 0 255
  | 0x0108 => r 0 (2 ^ 32 - 1)
  | 0x0200 => r 800 2200
  | 0x0201 | 0x0202 => r 600 950
  | 0x0203 => r 70 100
  | 0x0204 => r 70 95
  | 0x0205 => r 1 10000
  | 0x0207 => r 1 500
  | 0x0209 => r 1 (2 ^ 32 - 1)
  | 0x020A => r 1 65535
  | 0x020C => r 0 600000
  | 0x0300 => v == 0 || r 10 600000
  | 0x0301 => v == 0 || r 1000 (2 ^ 32 - 1)
  | _ => false

/-- The parameters of SET_POLICY, ascending. -/
def policyNumbers : List Nat :=
  [0x0001, 0x0002] ++ (List.range 9).map (0x0100 + ·) ++ (List.range 14).map (0x0200 + ·) ++ [0x0300, 0x0301]

/-- A value that would leave VMIN above VMAX (R399). -/
def vminAbove (s : State) (n v : Nat) : Bool :=
  (n == 0x0201 && decide (v < policy s 0x0202)) || (n == 0x0202 && decide (policy s 0x0201 < v))

/-- Set a parameter. The interleave's change rebuilds the firmware reserve (R38). -/
def setPolicy (s : State) (n v : Nat) : State :=
  if n = 1 then (if b2n s.dev.full = v then s else buildReserve (modDev s fun d => { d with full := v == 1 }))
  else modDev s fun d => { d with policy := Tbl.set d.policy n v }

/-- SET_POLICY: w4 is the value then in force. -/
def policyEffect (s : State) (p : Packet) (e : Ext) : Effect :=
  let n := (pktP p 0).toNat
  let v := (pktP p 1).toNat
  let now (s : State) : W64 := BitVec.ofNat 64 (if policyNumbers.contains n then policy s n else 0)
  if !policyRange n v || vminAbove s n v then .refuse 9 0 (now s)
  else if n = 1 ∧ v ≠ b2n s.dev.full ∧ !s.ctxs.isEmpty then .refuse 11 0 (now s)
  else let s := setPolicy s n v; .ok s (now s) e

/-- SET_POLICY (R334). -/
def execSetPolicy (r : RingRef) (s : State) : Out := .next (runMember 0x31 r (fun s _ p => policyEffect s p noExt) s)

/-! ### GET_HISTORY (R385, R386, Table 19.8) -/

/-- A unit of Table 19.5 with a record. -/
def unitExists (kind i : Nat) : Bool :=
  match kind with
  | 1 => isCore i
  | 2 => isBench i
  | 3 => decide (i < 1024)
  | 4 => decide (i < 64)
  | 5 => decide (i < 256) && nodeKind i != 0
  | _ => false

/-- A stamp word: power-on cycle and uptime in management ticks. -/
def stampWord : Option (Nat × Nat) → Nat
  | none => 0
  | some (c, t) => c % 2 ^ 24 + t % 2 ^ 40 * 2 ^ 24

/-- A Unit Record's 128 bytes. -/
def unitBytes (s : State) (name : Nat) : List Byte :=
  let u := unitRec s name
  let w (l : Nat) (st : Option ((Nat × Nat) × (Nat × Nat))) : List Nat :=
    if l = 0 then [] else [stampWord (st.map (·.1)), stampWord (st.map (·.2))]
  let body := [name + 2 ^ 24 + b2n (NSet.has s.dev.fenceMap name) * 2 ^ 32 + b2n (NSet.has s.dev.shipFenced name) * 2 ^ 33 + u.reason * 2 ^ 34,
      u.corr + u.uncorr * 2 ^ 32 + u.residue * 2 ^ 48] ++ w 1 u.corrStamps ++ w 1 u.uncorrStamps ++ w 1 u.residueStamps ++
    [stampWord u.fenceStamp, 0, 0, 0, 0, 0, u.upd % 2 ^ 32]
  let bs := body.flatMap fun x => leBytes 8 x
  bs ++ leBytes 8 (crc32c bs)

/-- The records that a name selects, in ascending name order; nothing where the name names none. -/
def historyOf (name : Nat) : Option (List Nat) :=
  let kind := name % 16
  let i := bits name 23 8
  if bits name 7 4 ≠ 0 ∨ bits name 63 24 ≠ 0 then none
  else if kind = 0 then
    if i ≠ 0 then none
    else some ((List.range 2048).flatMap fun i => ([1, 2, 3, 4, 5].filter fun k => unitExists k i).map fun k => unitName k i)
  else if unitExists kind i then some [name] else none

/-- GET_HISTORY: as many bytes as the buffer takes. -/
def cmdGetHistory (ext : Ext) (s : State) (rk : Nat) (p : Packet) : State :=
  match historyOf (pktP p 1).toNat with
  | none => finishWith s rk 9
  | some names =>
    let bs := (names.flatMap (unitBytes s)).take (pktP p 2).toNat
    match hostStore s rk (pktP p 0).toNat bs ext with
    | .error st => finish s rk 10 st 0 0 0 0
    | .ok s => finish s rk 0 0 (BitVec.ofNat 64 bs.length) 0 0 0

/-- GET_HISTORY (R386). -/
def execGetHistory (r : RingRef) (ext : Ext) (s : State) : Out := .next (runCommand 0x32 r (cmdGetHistory ext) s)

/-! ### FENCE_UNIT and UNFENCE_UNIT (R380) -/

/-- Kind and index of a unit that may be fenced, by name. -/
def fenceName (name : Nat) : Option (Nat × Nat) :=
  let kind := name % 16
  let i := bits name 23 8
  if bits name 7 4 ≠ 0 ∨ bits name 63 24 ≠ 0 ∨ kind = 5 ∨ !unitExists kind i then none else some (kind, i)

/-- FENCE_UNIT: a unit already fenced stays as it is. -/
def fenceEffect (s : State) (p : Packet) (e : Ext) : Effect :=
  match fenceName (pktP p 0).toNat with
  | none => .refuse 9 0 0
  | some (kind, i) => .ok (fenceUnitAt s kind i 5) 0 e

/-- FENCE_UNIT (R381). -/
def execFenceUnit (r : RingRef) (s : State) : Out := .next (runMember 0x33 r (fun s _ p => fenceEffect s p noExt) s)

/-- A core comes back (R174, R380, R409): no context holds it, and its store and cells are zero. Its part of a kernel stays
counted as ended. -/
def returnCore (s : State) (c : Nat) : State :=
  let old := core s c
  let s := zeroCells (clearStore (coreReset s c) c 0 (2 ^ 20)) c
  modCore s c fun _ => { Core.init with debugger := old.debugger, kernel := old.kernel, partEnded := old.partEnded, wrap := old.wrap }

/-- The pages that a pseudo-channel's return gives back are zeroed and cleared of poison (R380). -/
def returnPages (before s : State) : State :=
  let back (l : Nat) : Bool :=
    let a := pageOfLoc s.dev.full l * 65536
    withdrawn before a && !withdrawn s a
  { s with hbm := s.hbm.filter fun e => !back e.1, hbmPoison := s.hbmPoison.filter fun l => !back (l * 64) }

/-- Return a unit to service. -/
def unfence (s : State) (kind i : Nat) : State :=
  let name := unitName kind i
  let before := s
  let s := modDev s fun d => { d with fenceMap := NSet.del d.fenceMap name }
  let s :=
    if kind = 1 then returnCore s i
    else if kind = 2 then ((List.range 8).map (i * 8 + ·)).foldl (fun s c => if isFenced s 1 c then s else returnCore s c) s
    else if kind = 3 then returnPages before s
    else
      let s := modLink s (i / 8) fun l => { l with fenced := l.fenced &&& ~~~ BitVec.ofNat 8 (2 ^ (i % 8)) }
      if (link s (i / 8)).state = 2 then modLink s (i / 8) fun l => { l with state := 1 } else s
  let node := if kind = 1 then i / 8 else i
  fencedRecords (noteFence s name 6) name 6 true 0 (if kind < 3 then (holders s node).map fun x => (x, 0, 0) else [])

/-- UNFENCE_UNIT: a core fenced at shipment, a core of a fenced bench and a unit that is not fenced are refused. -/
def unfenceEffect (s : State) (p : Packet) (e : Ext) : Effect :=
  match fenceName (pktP p 0).toNat with
  | none => .refuse 9 0 0
  | some (kind, i) =>
    let name := unitName kind i
    if !NSet.has s.dev.fenceMap name || NSet.has s.dev.shipFenced name || (kind == 1 && isFenced s 2 (i / 8)) then .refuse 9 0 0
    else .ok (unfence s kind i) 0 e

/-- UNFENCE_UNIT (R380). -/
def execUnfenceUnit (r : RingRef) (s : State) : Out := .next (runMember 0x34 r (fun s _ p => unfenceEffect s p noExt) s)

/-! ### FW_PUSH (R424, R425) -/

/-- An image started in state 4: every context is destroyed, and the governor policy takes its defaults. -/
def startFailed (s : State) : State :=
  let ids := s.ctxs.map (·.1)
  let s := ids.foldl (fun s c => stopContext s c none false) s
  let s := ids.foldl (fun s c => eraseContext s c false) s
  let s := modDev s fun d => { d with policy := d.policy.filter fun e => e.1 / 256 != 2 }
  if s.gov.target.isEmpty then firmwareUp s else if s.dev.href = 0 then hrefGone s else reachReady (startGov s)

/-- An image that has passed its check: written to the flash slot in state 3, started otherwise. -/
def takeImage (s : State) (rk : Nat) (b : List Byte) : State :=
  if s.dev.fwState = 3 then finishWith { s with flash := { s.flash with image := imgWhole b } } rk 0
  else
    let st := s.dev.fwState
    let s := startImage (finishWith s rk 0) b 2
    if st = 4 then startFailed s else firmwareUp s

/-- FW_PUSH: the image slot and the header bound an image to 32 MiB. -/
def cmdFwPush (ext : Ext) (s : State) (rk : Nat) (p : Packet) : State :=
  let len := (pktP p 1).toNat
  if len = 0 ∨ 32 * 2 ^ 20 < len then finishWith s rk 9
  else match hostBytes s rk (pktP p 0).toNat len ext with
    | .error st => finish s rk 10 st 0 0 0 0
    | .ok (b, _) => match imageFail s b with
      | 0 => takeImage s rk b
      | k => finishWith (checkEnds s k) rk 22

/-- FW_PUSH (R425). -/
def execFwPush (r : RingRef) (ext : Ext) (s : State) : Out := .next (runCommand 0x35 r (cmdFwPush ext) s)

/-! ### TAKEOVER and RESET_DEVICE (R323, R336) -/

/-- TAKEOVER: by the PF of the non-primary port, while the primary port's link has been down for the Takeover Window. -/
def cmdTakeover (s : State) (rk : Nat) (_ : Packet) : State :=
  let x := port s s.dev.primary
  if rk / 512 = s.dev.primary ∨ rk / 16 % 32 ≠ 0 ∨ x.linkUp ∨ x.downTicks.toNat < policy s 0x0002 then finishWith s rk 21
  else finishWith (modDev s fun d => { d with primary := rk / 512 }) rk 0

/-- TAKEOVER (R323). -/
def execTakeover (r : RingRef) (s : State) : Out := .next (runCommand 0x36 r cmdTakeover s)

/-- RESET_DEVICE: the reset starts once its record has been issued (R405). -/
def cmdResetDevice (s : State) (rk : Nat) (_ : Packet) : State := modDev (finishWith s rk 0) fun d => { d with resetRing := some rk }

/-- RESET_DEVICE (R336). -/
def execResetDevice (r : RingRef) (s : State) : Out := .next (runCommand 0x37 r cmdResetDevice s)

/-! ### Groups (R229 to R232) -/

/-- GROUP_OPEN: the group opens as the command completes; a group of that number that was discarded is forgotten. -/
def cmdGroupOpen (s : State) (rk : Nat) (p : Packet) : State :=
  finishWith (modRing s rk fun r => { r with group := some (pktGroup p, []), discard := 0 }) rk 0

/-- GROUP_OPEN (R229). -/
def execGroupOpen (r : RingRef) (s : State) : Out := .next (runCommand 0x38 r cmdGroupOpen s)

/-- A member of a group checked and carried out on a state. -/
def memberEffect (s : State) (rk : Nat) (p : Packet) (e : Ext) : Effect :=
  match headerStatus s rk p with
  | some st => .refuse st 0 0
  | none =>
    if pktOp p = 0x18 ∨ pktOp p = 0x19 then mapEffect s rk p e
    else if pktOp p = 0x31 then policyEffect s p e
    else if pktOp p = 0x33 then fenceEffect s p e
    else if pktOp p = 0x34 then unfenceEffect s p e
    else loadEffect s rk p e

/-- A member that has passed its check takes its effect after the earlier members' (R231): what an earlier one already did is not
done again, and one that can no longer take effect at all leaves things as they are (DESIGN CHOICE, log entry 32). -/
def memberApplied (s : State) (rk : Nat) (p : Packet) (e : Ext) : State × W64 × Ext :=
  match memberEffect s rk p e with
  | .ok s w4 e => (s, w4, e)
  | .refuse _ _ w4 => (s, w4, e)
  | .later => (s, 0, e)

/-- What checking the members of a group on the state as it is comes to: all pass, one must wait, or the failing member's index,
status, REASON and w4. -/
inductive GroupRes where
  | pass
  | later
  | fails (i status reason : Nat) (w4 : W64)

/-- Check the members in order on the state as it is (R231): one whose check failed on arrival fails with that status; STREAM_LOADs
take their own answers of a host from `e`. -/
def groupCheck (s : State) (rk : Nat) : List (Packet × Nat) → Nat → Ext → GroupRes
  | [], _, _ => .pass
  | (p, bad) :: rest, i, e =>
    if bad ≠ 0 then .fails i bad 0 0
    else match memberEffect s rk p e with
      | .refuse st reason w4 => .fails i st reason w4
      | .ok _ _ e => groupCheck s rk rest (i + 1) e
      | .later => match groupCheck s rk rest (i + 1) e with
        | .pass => .later
        | r => r

/-- Carry out the members in order; each one's w4. -/
def groupRun (rk : Nat) : List (Packet × Nat) → State → Ext → List W64 → State × List W64
  | [], s, _, acc => (s, acc)
  | (p, _) :: rest, s, e, acc =>
    let r := memberApplied s rk p e
    groupRun rk rest r.1 r.2.2 (acc ++ [r.2.1])

/-- Records of the members in order, and the group is closed. -/
def groupRecords (s : State) (rk : Nat) (members : List (Packet × Nat)) (f : Nat → Nat × Nat × W64) : State :=
  let s := ((List.range members.length).zip members).foldl (fun s m =>
    let a := f m.1
    answerPacket s rk m.2.1 1 a.1 a.2.1 a.2.2 0 0 0) s
  modRing s rk fun r => { r with group := none }

/-- GROUP_CLOSE: every member passes and takes effect, or none does (R231). -/
def cmdGroupClose (ext : Ext) (s : State) (rk : Nat) (_ : Packet) : State :=
  match (ring s rk).group with
  | none => finishWith (modRing s rk fun r => { r with discard := 0 }) rk 20
  | some (_, members) =>
    let fail (i st reason : Nat) (w4 : W64) : State :=
      finishWith (groupRecords s rk members fun j => if j = i then (st, reason, w4) else (19, 0, 0)) rk 19
    match groupCheck s rk members 0 ext with
    | .fails i st reason w4 => fail i st reason w4
    | .later => answer s rk .later
    | .pass =>
      let r := groupRun rk members s ext []
      finishWith (groupRecords r.1 rk members fun j => (0, 0, r.2.getD j 0)) rk 0

/-- GROUP_CLOSE (R231). -/
def execGroupClose (r : RingRef) (ext : Ext) (s : State) : Out := .next (runCommand 0x39 r (cmdGroupClose ext) s)

end Sys2Proof.Machine
end

