-- ==== Sys2Proof/Machine/Governor.lean ====
section
/-!
DEFINITION. The management tick (R53, R389), the governor's loops (R390 to R401), pacer calibration and reference clocks
(R50, R54, R449), droop holds (R45), the heartbeat watchdog (R426) and THERMTRIP_N (R457).
-/
namespace Sys2Proof.Machine

/-- Update the governor. -/
def modGov (s : State) (f : Gov → Gov) : State := { s with gov := f s.gov }

/-! ### The sample (Table 20.1) -/

/-- Power in mW that a rail counts for while it does not answer READ_POUT: its largest current at its nominal voltage. -/
def railMax (rail : Nat) : Nat := [127500, 168000, 45000, 6800, 4800, 34000, 24000, 1800].getD (rail - 4) 0

/-- The rails' powers after a sample: where a reading fails, a VCORE rail keeps its last one, and another rail counts at its
largest (R453, Table 23.9). -/
def sampleRails (old : Tbl Nat) (pout : List (Option Nat)) : Tbl Nat :=
  (List.range 12).map fun r => (r, match pout.getD r none with
    | some p => p
    | none => if r < 4 then Tbl.getD old r 0 else railMax r)

/-- What the sensors of a node read. -/
def sampleNode (g : GovInputs) (n : Nat) (x : Node) : Node :=
  let t := (g.benchTemp.find? fun e => e.1 == n).map (·.2)
  { x with temp := t.getD x.temp
           tempValid := t.isSome
           rate := match g.rates.find? (fun e => e.1 == n) with | some e => BitVec.ofNat 16 e.2 | none => x.rate
           droops := min (x.droops + (((g.droops.filter fun e => e.1 == n).map (·.2)).sum)) (2 ^ 32 - 1) }

/-- Store the sample of a tick in the sensor registers and for the loops (R389). -/
def takeSample (g : GovInputs) (s : State) : State :=
  let s := benches.foldl (fun s n => modNode s n (sampleNode g n)) s
  let s := g.stackTemp.foldl (fun s e => if e.1 < 16 then modStack s e.1 fun y => { y with temp := e.2, fast := decide (85 < e.2) } else s) s
  let rails := sampleRails s.gov.rails g.pout
  let latched := (List.range 14).map fun i => (0x0200 + i, policy s (0x0200 + i))
  modGov s fun v =>
    { v with sample := some g, rails := rails, power := (rails.map (·.2)).sum, policyNow := latched, precNow := v.precision, precision := [],
             targetNow := v.target, voutNow := v.vout, ran := [] }

/-! ### What each tick does beside (R53, R320, R321, R412, R426) -/

/-- No LAUNCH, no command on any ring, no haul and no skip transfer is in progress (R412). -/
def deviceQuiet (s : State) : Bool :=
  s.launches.isEmpty && (s.rings.all fun e => e.2.cur.isNone) && (s.skip.all fun e => e.2.isEmpty) &&
    s.benches.all fun e => e.2.haul.all fun h => !haulBusy s e.1 h.1

/-- Contexts that each function of a port holds. -/
def contextCounts (s : State) (p : Nat) : List (Nat × Nat) :=
  (List.range 17).filterMap fun fn =>
    let n := (s.ctxs.filter fun e => e.2.port == p && e.2.fn == fn).length
    if n = 0 then none else some (fn, n)

/-- The copies that an endpoint keeps for its Front Window, and its count of ticks without a link (Table 16.5). -/
def refreshPort (s : State) (p : Nat) : State :=
  let up := (port s p).linkUp
  let down := if up then 0 else if (port s p).downTicks = 0xFFFFFFFF then (port s p).downTicks else (port s p).downTicks + 1
  modPort s p fun x =>
    { x with uptimeCopy := s.dev.uptime, stateCopy := s.dev.fwState, nctxCopy := contextCounts s p, downTicks := down
             goodCopy := if s.dev.image.isEmpty then 0 else goodCount s }

/-- Each port learns of the other's link (R321). -/
def tellPeers (s : State) : State :=
  let a := port s 0
  let b := port s 1
  modPort (modPort s 0 fun x => { x with peerUp := b.linkUp, peerDown := b.downTicks }) 1 fun x => { x with peerUp := a.linkUp, peerDown := a.downTicks }

/-- MANAGEMENT_TICK (R53): ticks stop while no reference clock is present and while the device is Off; while its reset pin is low,
uptime alone goes on. -/
def managementTick (g : GovInputs) (s : State) : State :=
  if s.dev.power == .off || s.dev.noRef then s
  else if s.dev.waitRst.isSome then modDev s fun d => { d with ticks := d.ticks + 1, uptime := d.uptime + 10000 }
  else
    let s := modDev s fun d =>
      { d with ticks := d.ticks + 1
               uptime := d.uptime + 10000
               heartbeat := if d.fwState = 3 then d.heartbeat + 1 else d.heartbeat
               idleTicks := if deviceQuiet s then d.idleTicks + 1 else 0 }
    takeSample g (tellPeers (refreshPort (refreshPort s 0) 1))

/-- MANAGEMENT_TICK (R53, R389). -/
def execManagementTick (g : GovInputs) (s : State) : Out := .next (managementTick g s)

/-! ### When a loop runs (R390, R401) -/

/-- Periods of Table 20.2, in table order. -/
def loopPeriods : List Nat := [1, 1, 10, 1000, 1000, 10000]

/-- Loop `i` falls due in this tick. -/
def loopDue (s : State) (i : Nat) : Bool := (s.dev.ticks - s.gov.started) % (loopPeriods.getD i 1) == 0

/-- Loop `i` may run: firmware runs, its time has come, it has not run in this tick, and the loops before it have. -/
def loopReady (s : State) (i : Nat) : Bool :=
  s.dev.fwState == 3 && !s.dev.noRef && !dark s && s.gov.sample.isSome && loopDue s i && !NSet.has s.gov.ran i &&
    (List.range i).all fun j => !loopDue s j || NSet.has s.gov.ran j

/-- Run a loop on the tick's sample. -/
def runLoop (i : Nat) (f : GovInputs → State → State) (s : State) : State :=
  match s.gov.sample with
  | none => s
  | some g => if loopReady s i then modGov (f g s) fun v => { v with ran := NSet.add v.ran i } else s

/-- A policy value as it stood at the start of the tick. -/
def polNow (s : State) (p : Nat) : Nat := Tbl.getD s.gov.policyNow p (policyDefault p)

/-- The bench of a quadrant with the highest reading of the sample, and that reading in 1/16 °C (R43). -/
def quadTemp (g : GovInputs) (q : Nat) : Option (Nat × Int) :=
  g.benchTemp.foldl (fun best e =>
    if isBench e.1 && quadOf e.1 == q then
      match best with
      | some b => if b.2 < e.2.toInt then some (e.1, e.2.toInt) else best
      | none => some (e.1, e.2.toInt)
    else best) none

/-- Stacks of a quadrant with their readings in °C. -/
def quadStacks (g : GovInputs) (q : Nat) : List (Nat × Nat) := g.stackTemp.filter fun e => decide (e.1 < 16) && e.1 / 4 == q

/-- VCORE target of a quadrant in mV. -/
def targetOf (t : Tbl Nat) (q : Nat) : Nat := Tbl.getD t q 800

/-- A THERMAL record of the governor (R400, Table 17.9): event, quadrant, node, reading in °C, hold count. -/
def thermal (s : State) (ev q node : Nat) (reading : Int) (count : Nat) : State :=
  recordDev s mgNode 7 0 11
    (BitVec.ofNat 64 (ev + q * 2 ^ 8 + node * 2 ^ 16 + (reading % 256).toNat * 2 ^ 24))
    (BitVec.ofNat 64 (targetOf s.gov.target q + (s.gov.power / 1000 % 65536) * 2 ^ 16))
    (BitVec.ofNat 64 (polNow s 0x0200)) (BitVec.ofNat 64 (count % 2 ^ 32)) 0

/-- Set a quadrant's target and send it with VOUT_COMMAND; a failed write is made again at the next run (R392). -/
def writeTarget (g : GovInputs) (s : State) (q v : Nat) : State :=
  if bit g.voutOk.toNat q then
    modGov s fun x => { x with target := Tbl.set x.target q v, vout := Tbl.set x.vout q v, retry := NSet.del x.retry q }
  else modGov s fun x => { x with target := Tbl.set x.target q v, retry := NSet.add x.retry q }

/-! ### The safety loop (R393, R394) -/

/-- Count a hold; at HOLD_LIMIT: ALERT_N, THERMAL event 6, and the target written again. -/
def countHold (g : GovInputs) (s : State) (q : Nat) : State :=
  if NSet.has s.gov.held q then
    let n := Tbl.getD s.gov.holdTicks q 0 + 1
    let s := modGov s fun v => { v with holdTicks := Tbl.set v.holdTicks q n }
    if n = polNow s 0x0205 then
      thermal (writeTarget g (modDev s fun d => { d with alertHold := true }) q (targetOf s.gov.target q)) 6 q 0 0 n
    else s
  else s

/-- Note a reading against a limit: 5 above it, the quadrant's target is VMIN at once; 3 below it, the condition ends.
`key` names the condition. -/
def hotStep (g : GovInputs) (key q node ev limit : Nat) (t16 : Int) (s : State) : State :=
  if NSet.has s.gov.hotPosted key then
    if t16 ≤ 16 * ((limit : Int) - 3) then
      thermal (modGov s fun v => { v with hotPosted := NSet.del v.hotPosted key }) 2 q node (t16 / 16) 0
    else s
  else if 16 * ((limit : Int) + 5) ≤ t16 then
    let s := writeTarget g (modGov s fun v => { v with hotPosted := NSet.add v.hotPosted key }) q (polNow s 0x0202)
    thermal s ev q node (t16 / 16) 0
  else s

/-- The thermal limits of a quadrant (R394). -/
def hotQuad (g : GovInputs) (s : State) (q : Nat) : State :=
  let s := match quadTemp g q with
    | some (n, t) => hotStep g q q n 1 (polNow s 0x0203) t s
    | none => s
  (quadStacks g q).foldl (fun s e => hotStep g (4 + e.1) q (homeNodes.getD e.1 0) 3 (polNow s 0x0204) (16 * e.2) s) s

/-- SAFETY_LOOP on a sample. -/
def safetyRun (g : GovInputs) (s : State) : State :=
  [0, 1, 2, 3].foldl (hotQuad g) ([0, 1, 2, 3].foldl (countHold g) s)

/-- SAFETY_LOOP (R393, R394). -/
def execSafetyLoop (s : State) : Out := .next (runLoop 0 safetyRun s)

/-! ### The precision loop (R398) -/

/-- A PRECISION record raises a HOST interrupt on thread 0 of its core, but for one within PREC_HOLDOFF ticks of the last. -/
def precNotice (s : State) (e : Nat × Nat) : State :=
  let c := e.1 / 8
  let x := core s c
  if x.ctx.isSome && (x.notice == 0 || decide (polNow s 0x020C ≤ s.dev.ticks + 1 - x.notice)) then
    modCore s c fun x => { x with irqHost := some (BitVec.ofNat 32 (1 + e.1 % 8 * 2 ^ 8 + e.2 * 2 ^ 11)), notice := s.dev.ticks + 1 }
  else s

/-- PRECISION_LOOP on a sample. -/
def precisionRun (_ : GovInputs) (s : State) : State := if polNow s 0x020B = 1 then s.gov.precNow.foldl precNotice s else s

/-- PRECISION_LOOP (R398). -/
def execPrecisionLoop (s : State) : Out := .next (runLoop 1 precisionRun s)

/-! ### The voltage loop (R391, R392) -/

/-- The VCORE rails' readings of the sample. -/
def poutFails (g : GovInputs) : Option Nat := [0, 1, 2, 3].find? fun q => (g.pout.getD q none).isNone

/-- The package counts as over its cap (R391, R392). -/
def overCap (s : State) : Bool := decide (polNow s 0x0200 * 1000 < s.gov.power) || decide (3 ≤ s.gov.pmbusFails)

/-- Count a run whose PMBus reads fail; the third posts THERMAL event 7, once. -/
def countPmbus (g : GovInputs) (s : State) : State :=
  match poutFails g with
  | none => modGov s fun v => { v with pmbusFails := 0, pmbusPosted := false }
  | some q =>
    let s := modGov s fun v => { v with pmbusFails := v.pmbusFails + 1 }
    if 3 ≤ s.gov.pmbusFails ∧ !s.gov.pmbusPosted then thermal (modGov s fun v => { v with pmbusPosted := true }) 7 q 0 0 0 else s

/-- A safety condition of R394 holds for a quadrant. -/
def quadHot (s : State) (q : Nat) : Bool := NSet.has s.gov.hotPosted q || [0, 1, 2, 3].any fun i => NSet.has s.gov.hotPosted (4 + 4 * q + i)

/-- Post a condition that holds at VMIN when it begins (R391). -/
def postAtVmin (ev q node : Nat) (reading : Int) (now : Bool) (s : State) : State :=
  let key := q * 8 + ev
  if now then
    if NSet.has s.gov.capPosted key then s else thermal (modGov s fun v => { v with capPosted := NSet.add v.capPosted key }) ev q node reading 0
  else modGov s fun v => { v with capPosted := NSet.del v.capPosted key }

/-- The next target of a quadrant by the steps of R391: the target, the limits, and whether it is over and may rise. -/
def nextTarget (v vmin vmax : Nat) (hot room : Bool) : Nat :=
  if vmax < v then max (v - 25) vmax
  else if hot then max (v - 25) vmin
  else if room then min (v + 10) vmax
  else v

/-- One quadrant's step. A quadrant whose target R394 has set stays at VMIN. -/
def voltQuad (g : GovInputs) (s : State) (q : Nat) : State :=
  let v := targetOf s.gov.target q
  let temp := quadTemp g q
  let tj : Int := (polNow s 0x0203 : Int)
  let hotT := match temp with | some (_, t) => decide (16 * tj ≤ t) | none => false
  let hotS := (quadStacks g q).find? fun e => decide (polNow s 0x0204 ≤ e.2)
  let hot := overCap s || hotT || hotS.isSome
  let room := decide (s.gov.power + 50000 ≤ polNow s 0x0200 * 1000) && !overCap s &&
    (match temp with | some (_, t) => decide (t ≤ 16 * (tj - 3)) | none => false)
  let atMin := decide (v ≤ polNow s 0x0202)
  let s := if quadHot s q then s
    else
      let w := nextTarget v (polNow s 0x0202) (polNow s 0x0201) hot room
      if w ≠ v ∨ NSet.has s.gov.retry q then writeTarget g s q w else s
  let s := postAtVmin 4 q 0 0 (atMin && overCap s) s
  let s := postAtVmin 1 q ((temp.map (·.1)).getD 0) (((temp.map (·.2)).getD 0) / 16) (atMin && hotT) s
  postAtVmin 3 q (homeNodes.getD ((hotS.map (·.1)).getD 0) 0) ((hotS.map (·.2)).getD 0) (atMin && hotS.isSome) s

/-- VOLTAGE_LOOP on a sample. -/
def voltageRun (g : GovInputs) (s : State) : State := [0, 1, 2, 3].foldl (voltQuad g) (countPmbus g s)

/-- VOLTAGE_LOOP (R391, R392). -/
def execVoltageLoop (s : State) : Out := .next (runLoop 2 voltageRun s)

/-! ### The cache loop (R395) -/

/-- The lowest-numbered `k` of 16 ways. -/
def lowWays (k : Nat) : W64 := BitVec.ofNat 64 (2 ^ k - 1)

/-- The ways that the loop sets on a bench: its ways now, the lookups and hits of the period, and whether the package is over
its cap at VMIN. -/
def waysFor (ways look hits hitmin : Nat) (capped : Bool) : Nat :=
  let a := if look < 4096 ∨ (65536 ≤ look ∧ hits * 1000 < hitmin * look) then (if 8 < ways then 8 else 4)
    else if ways < 16 ∧ 2 * hitmin * look ≤ hits * 1000 then 16 else ways
  if capped ∧ look < 65536 then 4 else a

/-- One bench of the loop. -/
def cacheBench (gate capped : Bool) (s : State) (n : Nat) : State :=
  let b := bench s n
  let hits := (b.hits - b.lastHits).toNat
  let look := hits + (b.misses - b.lastMisses).toNat
  let s := modBench s n fun b => { b with lastHits := b.hits, lastMisses := b.misses }
  if isFenced s 2 n ∨ b.cleaning then s
  else
    let ways := popCount b.wayen.toNat 16
    let k := if gate then waysFor ways look hits (polNow s 0x0207) capped else 16
    if k = ways then s else setWayen n s (lowWays k)

/-- CACHE_LOOP on a sample. -/
def cacheRun (_ : GovInputs) (s : State) : State :=
  let capped := overCap s && [0, 1, 2, 3].all fun q => decide (targetOf s.gov.targetNow q ≤ polNow s 0x0202)
  benches.foldl (cacheBench (polNow s 0x0206 == 1) capped) s

/-- CACHE_LOOP (R395). -/
def execCacheLoop (s : State) : Out := .next (runLoop 3 cacheRun s)

/-! ### The link loop (R396) -/

/-- The lane of a port in service with the most corrected symbols. -/
def worstLane (s : State) (p : Nat) : Nat :=
  ((List.range 8).filter fun i => bit (link s p).laneOk.toNat i).foldl (fun (best : Nat × Nat) i =>
    let n := (unitRec s (unitName 4 (8 * p + i))).corr
    if best.2 < n + 1 then (i, n + 1) else best) (0, 0) |>.1

/-- One port of the loop. -/
def linkStep (s : State) (p : Nat) : State :=
  let l := link s p
  let unc := (l.fecunc - l.lastUnc).toNat
  let cor := (l.feccor - l.lastCor).toNat
  let good := if l.state = 2 ∧ unc = 0 then l.goodRuns + 1 else 0
  let s := modLink s p fun l => { l with lastUnc := l.fecunc, lastCor := l.feccor, goodRuns := good }
  if polNow s 0x0208 ≠ 1 ∨ l.state ≠ 2 ∨ l.gotDev.toNat ≤ s.dev.devId.toNat then s
  else if polNow s 0x020A ≤ unc ∨ polNow s 0x0209 ≤ cor then
    if l.runRate.toNat < 2 then modLink s p fun l => { l with rate := l.runRate + 1, state := 1 }
    else if polNow s 0x020D = 1 then fenceLane s (8 * p + worstLane s p) 8
    else s
  else if 10 ≤ good ∧ strapRate s < l.rate.toNat then modLink s p fun l => { l with rate := l.rate - 1, state := 1, goodRuns := 0 }
  else s

/-- LINK_LOOP on a sample. -/
def linkRun (_ : GovInputs) (s : State) : State := (List.range 8).foldl linkStep s

/-- LINK_LOOP (R396). -/
def execLinkLoop (s : State) : Out := .next (runLoop 4 linkRun s)

/-! ### The health loop (R397) -/

/-- Table 2.1: VCORE in mV and the typical rate in M beats/s. -/
def rateTable : List (Nat × Nat) := [(600, 1350), (650, 1600), (700, 1800), (800, 2200), (875, 2400), (950, 2600)]

/-- The two rows of Table 2.1 that a VCORE lies between. -/
def rateRows (v : Nat) : List (Nat × Nat) → (Nat × Nat) × (Nat × Nat)
  | a :: b :: rest => if v ≤ b.1 ∨ rest.isEmpty then (a, b) else rateRows v (b :: rest)
  | _ => ((600, 1350), (650, 1600))

/-- A replica rate lies below 0.92 × the typical rate of R42 and R43, exactly: VCORE in mV, temperature in 1/16 °C. -/
def rateLow (rate v : Nat) (t16 : Int) : Bool :=
  let r := rateRows v rateTable
  let dv : Int := (r.2.1 : Int) - r.1.1
  let typ : Int := r.1.2 * dv + ((v : Int) - r.1.1) * ((r.2.2 : Int) - r.1.2)
  decide ((rate : Int) * 100 * 160000 * dv < 92 * typ * (160000 - 12 * (t16 - 1120)))

/-- A bench's replica oscillator read low in the sample. -/
def benchSlow (g : GovInputs) (s : State) (n : Nat) : Bool :=
  match g.rates.find? (fun e => e.1 == n), quadTemp g (quadOf n) with
  | some e, some (_, t) => rateLow e.2 (targetOf s.gov.voutNow (quadOf n)) t
  | _, _ => false

/-- One bench of the loop. -/
def healthBench (g : GovInputs) (s : State) (n : Nat) : State :=
  if isFenced s 2 n then modBench s n fun b => { b with slowRuns := 0 }
  else
    let k := if benchSlow g s n then (bench s n).slowRuns + 1 else 0
    let s := modBench s n fun b => { b with slowRuns := if k < 3 then k else 0 }
    if k < 3 then s else fenceBench s n 8

/-- HEALTH_LOOP on a sample. -/
def healthRun (g : GovInputs) (s : State) : State := if polNow s 0x020D = 1 then benches.foldl (healthBench g) s else s

/-- HEALTH_LOOP (R397). -/
def execHealthLoop (s : State) : Out := .next (runLoop 5 healthRun s)

/-! ### Clocks (R50, R54, R449) -/

/-- PACER_CALIBRATION (R50): `ticks` of the pacer in 65,536 periods of the reference clock, at most once in a management tick. -/
def pacerCalibration (n ticks : Nat) (s : State) : State :=
  if s.dev.fwState ≠ 3 ∨ s.dev.noRef ∨ dark s ∨ s.dev.power = .deepIdle ∨ ticks = 0 ∨ (node s n).lastCal = s.dev.ticks + 1 then s
  else modNode s n fun x =>
    { x with period := calPeriod ticks, calSeq := x.calSeq + 1, calValid := true, lastCal := s.dev.ticks + 1 }

/-- PACER_CALIBRATION (R50). -/
def execPacerCalibration (node : BitVec 8) (ticks : Nat) (s : State) : Out := .next (pacerCalibration node.toNat ticks s)

/-- REFERENCE_CLOCK_SWITCH (R54): the clocks now present. With neither, the pacers run uncalibrated. While DEV_RST_N is low, the
boot that follows finds them too. -/
def clockSwitch (a b : Bool) (s : State) : State :=
  if s.dev.power = .off then s
  else
    let refclk : BitVec 2 := if a then 1 else if b then 2 else 0
    let s := modDev s fun d =>
      { d with refB := !a && b, noRef := !a && !b, waitRst := d.waitRst.map fun w => { w with refclk := refclk } }
    if a || b then s else { s with nodes := s.nodes.map fun (e : Nat × Node) => (e.1, { e.2 with calValid := false }) }

/-- REFERENCE_CLOCK_SWITCH (R54). -/
def execReferenceClockSwitch (a b : Bool) (s : State) : Out := .next (clockSwitch a b s)

/-- HREF_SWITCH (R449): the HREF clocks now present. -/
def hrefSwitch (present : BitVec 4) (s : State) : State :=
  if s.dev.power = .off then s
  else if s.dev.waitRst.isSome then
    modDev s fun d => { d with href := present, waitRst := d.waitRst.map fun w => { w with href := present } }
  else
    let s := modDev s fun d => { d with href := present }
    if present = 0 then (if s.dev.fwState = 3 ∨ s.dev.fwState = 4 then hrefGone s else s) else takeHref s

/-- HREF_SWITCH (R449). -/
def execHrefSwitch (present : BitVec 4) (s : State) : Out := .next (hrefSwitch present s)

/-! ### Holds (R45, R393) -/

/-- DROOP_HOLD (R45): the rail of a quadrant falls below 0.60 V. -/
def droopHold (q : Nat) (s : State) : State := if dark s then s else modGov s fun v => { v with held := NSet.add v.held q }

/-- DROOP_HOLD (R45). -/
def execDroopHold (quad : BitVec 2) (s : State) : Out := .next (droopHold quad.toNat s)

/-- Quadrants whose holds have reached HOLD_LIMIT. -/
def longHolds (s : State) : List Nat := [0, 1, 2, 3].filter fun q => decide (policy s 0x0205 ≤ Tbl.getD s.gov.holdTicks q 0)

/-- HOLD_END (R45, R393): the rail is back; ALERT_N stays while another hold has reached HOLD_LIMIT, and after a thermal trip
nothing is released (R457). What waited in the FIFOs of the quadrant's link ports goes on (R55). -/
def holdEnd (q : Nat) (s : State) : State :=
  if dark s ∨ s.dev.thermtrip ∨ !NSet.has s.gov.held q then s
  else
    let s := modGov s fun v => { v with held := NSet.del v.held q, holdTicks := Tbl.erase v.holdTicks q }
    let s := modDev s fun d => { d with alertHold := d.alertHold && !(longHolds s).isEmpty }
    (List.range 8).foldl linkTake s

/-- HOLD_END (R45). -/
def execHoldEnd (quad : BitVec 2) (s : State) : Out := .next (holdEnd quad.toNat s)

/-! ### The heartbeat and THERMTRIP_N (R426, R457) -/

/-- HEARTBEAT_WATCHDOG (R426): SB has seen no beat for 100 management ticks while it watched, in state 3 and in state 1 once an
image runs. -/
def heartbeatWatchdog (s : State) : State :=
  if (s.dev.fwState = 3 ∨ (s.dev.fwState = 1 ∧ !s.dev.image.isEmpty)) ∧ !dark s then modDev s fun d => { d with fwState := 4, alertFw := true } else s

/-- HEARTBEAT_WATCHDOG (R426). -/
def execHeartbeatWatchdog (s : State) : Out := .next (heartbeatWatchdog s)

/-- THERMTRIP (R457): a bench sensor's reading in 1/16 °C, or a home's stack reading in °C. -/
def execThermtrip (node : BitVec 8) (reading : BitVec 16) (s : State) : Out :=
  let n := node.toNat
  let hot : Bool := if isBench n then decide ((1840 : Int) ≤ reading.toInt)
    else (indexOf homeNodes n).isSome && decide ((105 : Int) ≤ reading.toInt)
  .next (if dark s ∨ !hot then s
      else modGov (modDev s fun d => { d with thermtrip := true }) fun v => { v with held := [0, 1, 2, 3] })

end Sys2Proof.Machine
end

