-- ==== Sys2Proof/Machine/Haul.lean ====
section
/-!
DEFINITION. The haul engine (R269 to R281): launching a chain, reading its descriptors, the beats of the four operations through
the staging buffers and the two ports, and what completing a descriptor does.
-/
namespace Sys2Proof.Machine

/-! ### Descriptors (Table 14.2) -/

/-- Word `i` of a descriptor. -/
def dw (w : List W64) (i : Nat) : Nat := (w.getD i 0).toNat

/-- OP. -/
def descOp (w : List W64) : Nat := bits (dw w 7) 2 0
/-- CHK. -/
def descChk (w : List W64) : Nat := bits (dw w 7) 4 3

/-- The lines that an address word, a stride and count word and a length give. -/
def descLines (base sw len : Nat) : Lines :=
  { base := base, stride := (BitVec.ofNat 48 sw).toInt, len := len, count := bits sw 63 48 }

/-- Source lines of a COPY or a QOUT. -/
def srcLines (w : List W64) : Lines := descLines (dw w 0) (dw w 2) (bits (dw w 4) 24 0)
/-- Destination lines. -/
def dstLines (w : List W64) : Lines := descLines (dw w 1) (dw w 3) (bits (dw w 4) 56 32)

/-- A line count and a length that Table 14.2 allows. -/
def linesOk (l : Lines) : Bool := decide (1 ≤ l.count) && decide (1 ≤ l.len) && decide (l.len ≤ 2 ^ 24)

/-- The launching core of a chain, which SELF names. -/
def haulSelf (n : Nat) (h : HaulCh) : Option Nat := if h.srck = 0 then some (n * 8 + h.core) else none

/-- The level at which a chain's direct counter names are read (R274). -/
def haulLvl (h : HaulCh) : Nat := if h.virt then h.lvl else 2

/-- A chain's counter name is well formed (R274). -/
def haulName (s : State) (n : Nat) (h : HaulCh) (name : Nat) : Bool :=
  !h.fw && (match resolveName s h.ctx (haulLvl h) (haulSelf n h) (some n) name with | .bad _ => false | _ => true)

/-- A descriptor is well formed for its channel (R274, R275, R278). QOUT's SRC is read as the address of its source
stream, as R275 and the examples use it (DEDUCED, log entry 25). -/
def descOk (s : State) (n : Nat) (h : HaulCh) (w : List W64) : Bool :=
  let op := descOp w
  let top (i : Nat) : Bool := bits (dw w i) 63 52 == 0
  let common : Bool :=
    decide (op ≤ 3) && descChk w != 3 && bits (dw w 7) 31 8 == 0 && bits (dw w 7) 63 61 == 0 && bits (dw w 4) 31 25 == 0 &&
      bits (dw w 4) 63 57 == 0 && top 5 && dw w 5 % 8 == 0 && (descChk w != 0 || dw w 5 == 0) && top 6 && dw w 6 % 64 == 0
  let src : Bool :=
    if op = 0 ∨ op = 3 then top 0 && linesOk (srcLines w)
    else dw w 2 == 0 && bits (dw w 4) 24 0 == 0 && (op == 1 || (decide (8 ≤ dw w 0) && decide (dw w 0 ≤ 15)))
  let dst : Bool :=
    if op = 3 then dw w 3 == 0 && bits (dw w 4) 56 32 == 0 && decide (dw w 1 < 65536) && !bit (dw w 1) 13 && (srcLines w).total % 64 == 0
    else top 1 && linesOk (dstLines w) && (op != 0 || (srcLines w).total == (dstLines w).total) && (op != 2 || (dstLines w).total % 64 == 0)
  let cont : Bool := !bit (dw w 7) 5 || (h.done != 0 && h.checkKind == descChk w)
  common && src && dst && cont && (!bit (dw w 7) 6 || haulName s n h (bits (dw w 7) 60 32))

/-! ### Chains -/

/-- The accesses of a channel's chain (R276): a thread's chain has the launching core, and its bench's cache. -/
def haulAgent (n : Nat) (h : HaulCh) : Agent :=
  { who := { ctx := if h.fw then none else some h.ctx, lvl := h.lvl, self := haulSelf n h, tu := some n }, virt := h.virt, fw := h.fw,
    cache := if h.srck = 0 then some n else none }

/-- The launching thread of a chain. -/
def haulThread (n : Nat) (h : HaulCh) : Nat := n * 64 + h.core * 8 + h.thr

/-- A span of lines, joined with another. -/
def joinSpan : Option (Nat × Nat) → Option (Nat × Nat) → Option (Nat × Nat)
  | none, b => b
  | a, none => a
  | some (a, b), some (c, d) => some (min a c, max b d)

/-- The last line of a span that conflicts with every line: that of a chain whose descriptors are not yet read. -/
def lastLine : Nat := 2 ^ 46

/-- Lines by device address of `len` bytes from an address, page by page where it is virtual. -/
def spanAt (s : State) (g : Agent) (acc : Acc) (a : Int) (len : Nat) : Option (Nat × Nat) :=
  let lo := a.toNat
  let hi := (a + (len : Int)).toNat
  if hi ≤ lo then none
  else if g.virt then
    (List.range ((hi - 1) / 65536 + 1 - lo / 65536)).foldl (fun sp i =>
      let p := max lo ((lo / 65536 + i) * 65536)
      let q := min hi ((lo / 65536 + i + 1) * 65536)
      match agentXlat s g acc p with
      | .ok x => joinSpan sp (some (targetAddr x.tgt / 64, (targetAddr x.tgt + (q - p) - 1) / 64))
      | .error _ => sp) none
  else
    let p := foldOwn s lo
    let q := foldOwn s (hi - 1)
    if q + lo = p + (hi - 1) then some (p / 64, q / 64) else some (0, lastLine)

/-- The lines of a stream, from the lowest to the highest (R273). -/
def spanLines (s : State) (g : Agent) (acc : Acc) (l : Lines) : Option (Nat × Nat) :=
  if l.count = 0 ∨ l.len = 0 then none
  else if g.virt then
    (List.range l.count).foldl (fun sp (r : Nat) => joinSpan sp (spanAt s g acc ((l.base : Int) + (r : Int) * l.stride) l.len)) none
  else
    let last := (l.base : Int) + ((l.count - 1 : Nat) : Int) * l.stride
    let lo := min (l.base : Int) last
    spanAt s g acc lo ((max (l.base : Int) last - lo).toNat + l.len)

/-- The lines that a descriptor reads. -/
def readSpan (s : State) (g : Agent) (w : List W64) : Option (Nat × Nat) :=
  if descOp w = 0 ∨ descOp w = 3 then spanLines s g .read (srcLines w) else none
/-- The lines that a descriptor writes, its check word among them. -/
def writeSpan (s : State) (g : Agent) (w : List W64) : Option (Nat × Nat) :=
  joinSpan (if descOp w = 3 then none else spanLines s g .write (dstLines w))
    (if descChk w = 0 then none else spanAt s g .write (dw w 5) 8)

/-- The entries of a channel's chain in its thread's scoreboard. -/
def chainEntry (n ch : Nat) (e : SbEntry) : Bool := e.haul == some (n * 16 + ch)

/-- Take the two scoreboard entries of a chain at its launch (R185): until its descriptors are read they span every line. -/
def takeSpans (s : State) (n ch k : Nat) : State :=
  let take (s : State) (write : Bool) : State :=
    (sbTake s (k / 8) { thr := k, write := write, first := 0, last := lastLine, faddr := 0, eng := 3, lane := 0, sink := .none, tx := false, haul := some (n * 16 + ch) }).2
  take (take s false) true

/-- Narrow the two entries to the lines that the chain reads and writes (R273); one that reads or writes nothing has an empty
span. -/
def narrowSpans (s : State) (n ch : Nat) : State :=
  let h := haulCh s n ch
  let g := haulAgent n h
  let rd := (h.chain.foldl (fun sp d => joinSpan sp (readSpan s g d.2)) none).getD (1, 0)
  let wr := (h.chain.foldl (fun sp d => joinSpan sp (writeSpan s g d.2)) none).getD (1, 0)
  let narrow (e : Nat × SbEntry) : Nat × SbEntry :=
    if chainEntry n ch e.2 then (e.1, { e.2 with first := (if e.2.write then wr else rd).1, last := (if e.2.write then wr else rd).2 })
    else e
  modCore s (n * 8 + h.core) fun x => { x with sb := x.sb.map narrow }

/-- An earlier access of the launching thread, or an earlier chain of it, is in flight on these lines (R184, R185): the chain sees
every earlier write of its thread. -/
def chainBlocked (s : State) (n ch first last : Nat) (write : Bool) : Bool :=
  let h := haulCh s n ch
  h.srck == 0 && (core s (n * 8 + h.core)).sb.any fun e =>
    e.2.thr == haulThread n h && decide (e.2.first ≤ last) && decide (first ≤ e.2.last) && (write || e.2.write) &&
      (match e.2.haul with
       | none => true
       | some i => i != n * 16 + ch && decide ((haulCh s (i / 16) (i % 16)).born < h.born))

/-- The chain's spans are clear of every earlier access of its thread. -/
def spansClear (s : State) (n ch : Nat) : Bool :=
  let h := haulCh s n ch
  h.srck != 0 || (core s (n * 8 + h.core)).sb.all fun e => !chainEntry n ch e.2 || !chainBlocked s n ch e.2.first e.2.last e.2.write

/-! ### Launching (R271 to R273) -/

/-- The channel at a launch; `born` is its place among the launches. -/
def launched (w : RegSource) (k v born : Nat) : HaulCh :=
  { HaulCh.init with
    state := 1, srck := launchKind w, core := if launchKind w = 0 then k / 8 % 8 else 0, thr := if launchKind w = 0 then k % 8 else 0,
    ctx := bits v 63 58, desc := bits v 51 6 * 64, pri := bits v 5 4, fw := bit v 57, virt := bit v 3, lvl := bits v 2 2,
    ring := launchRing w, born := born, chain := [(bits v 51 6 * 64, [])] }

/-- Room for the two entries of a thread's chain, once its launch has been answered. -/
def spansFree (s : State) (k : Nat) : Bool := decide ((core s (k / 8)).sb.length ≤ 15)

/-- What a write of HAUL_LAUNCH does: refused with an error, or the channel reads its chain. A refused launch made for a command
fails that command (R272). -/
def haulLaunch (w : RegSource) (n ch : Nat) (v : W64) (s : State) : Option Nat × State :=
  let k := match w with | .thread m => srcThread s m | _ => 0
  if (!isF w && (k / 64 != n || lvlOf s k != 2)) || haulBusy s n ch || isFenced s 2 n || launchBad s v.toNat n (!isF w) then
    (some (launchRefused 6 ch), match launchRing w with | some rk => failCommand s rk 6 0 | none => s)
  else
    let s1 := modHaul { s with fresh := s.fresh + 1 } n ch fun _ => launched w k v.toNat s.fresh
    (none, if launchKind w = 0 then takeSpans s1 n ch k else s1)

/-- A thread's launch cannot be acted on yet: its scoreboard has no room for the chain's entries. -/
def launchWaits (w : RegSource) (s : State) : Bool :=
  match w with
  | .thread m => !spansFree s (srcThread s m)
  | _ => false

/-- HAUL_LAUNCH (R271): a node that is no bench has no such register. -/
def execHaulLaunch (w : RegSource) (node : BitVec 8) (ch : BitVec 4) (value : BitVec 64) (s : State) : Out :=
  let n := node.toNat
  let c := ch.toNat
  .next (if !isBench n || held s n || launchWaits w s then s
         else fromSourceE s w n (0x30000 + 8 * c) 8 value (haulLaunch w n c value))

/-! ### A channel's accesses (R276) -/

/-- What an address comes to for a channel now: a target; a status; or nothing yet, the host's page having been asked for (R34). -/
inductive Way1 where
  | at (x : Xlat) (s : State)
  | bad (status : Nat) (s : State)
  | wait (s : State)

/-- Ask the host for the page of an address of a channel (R34). -/
def askChain (s : State) (n ch : Nat) (acc : Acc) (va log2 hostPage : Nat) : State :=
  let h := haulCh s n ch
  let req := (Tbl.free s.pageReqs 0 (s.pageReqs.length + 1)).getD 0
  let r : PageReq :=
    { ctx := h.ctx, node := n, vpage := va / 4096 * 4096, hostPage := (hostPage + va % 2 ^ log2) / 4096 * 4096, core := n * 8 + h.core,
      thr := h.thr, write := acc == .write, pri := false, since := pacerOf s n, why := .chain ch }
  modHaul { s with pageReqs := Tbl.set s.pageReqs req r } n ch fun h => { h with page := .asked }

/-- Resolve an address of a channel: a page that the host refused is status PAGE. -/
def haulReach (s : State) (n ch : Nat) (acc : Acc) (a : Int) : Way1 :=
  let h := haulCh s n ch
  let g := haulAgent n h
  match agentReach s g acc a with
  | .at x => .at x (agentNote s g a)
  | .bad st => .bad st s
  | .ask log2 _ hp => match h.page with
    | .idle => .wait (askChain s n ch acc a.toNat log2 hp)
    | .asked => .wait s
    | .refused => .bad 4 (modHaul s n ch fun h => { h with page := .idle })

/-- Send a channel's read, to its bench's cache or to the home; its tag is the number of its message. -/
def haulRead (s : State) (n ch : Nat) (x : Xlat) (len : Nat) : State :=
  let h := haulCh s n ch
  match cacheFor s (haulAgent n h).cache x with
  | some b => handMsg s 0 b (.cacheRead x.tgt len h.ctx (.haul n ch s.nextMsg))
  | none => sendMsg s 3 n (targetNode s x.tgt) (.read x.tgt len (.haul n ch s.nextMsg))

/-- Send a channel's write. -/
def haulWrite (s : State) (n ch : Nat) (x : Xlat) (bytes : List Byte) (psn : Bool) : State :=
  let h := haulCh s n ch
  let tag := s.nextMsg
  let s := noteHostPort s (if h.srck = 0 then some (haulThread n h) else none) x.tgt
  match cacheFor s (haulAgent n h).cache x with
  | some b => handMsg s 0 b (.cacheWrite x.tgt bytes psn h.ctx (haulThread n h % 64) (.haul n ch tag))
  | none => sendMsg s (writeClass x.tgt) n (targetNode s x.tgt) (.write x.tgt (offsets bytes) psn (.haul n ch tag))

/-! ### Reading the chain (R273) -/

/-- NEXT of the last descriptor of a list, where there is one to read. -/
def nextOf (l : List (Nat × List W64)) : Option Nat :=
  match l.getLast? with
  | some (_, w) => if w.isEmpty ∨ dw w 6 = 0 ∨ bits (dw w 6) 63 52 ≠ 0 ∨ dw w 6 % 64 ≠ 0 then none else some (dw w 6)
  | none => none

/-- A thread's chain has all its descriptors; a command's has the one that runs next. -/
def chainRead (h : HaulCh) : Bool := (descWanted h.chain).isNone && (h.srck != 0 || (nextOf h.chain).isNone)

/-- Send the read of the next descriptor that the channel wants; once a thread's chain is whole, its spans are known. -/
def readChain (s : State) (n ch : Nat) : State :=
  let h := haulCh s n ch
  if h.descRead.isSome then s
  else match descWanted h.chain with
    | some a =>
      match haulReach s n ch .read a with
      | .wait s => s
      | .bad st s => haulEnd s n ch st (a % 2 ^ 52)
      | .at x s1 =>
        let line := targetAddr x.tgt / 64
        if chainBlocked s n ch line line false then s
        else modHaul (haulRead s1 n ch x 64) n ch fun h => { h with descRead := some s1.nextMsg }
    | none =>
      if h.srck ≠ 0 then s
      else match nextOf h.chain with
        | some a => if 256 ≤ h.done + h.chain.length then haulEnd s n ch 5 (a % 2 ^ 52) else modHaul s n ch fun h => { h with chain := h.chain ++ [(a, [])] }
        | none => if (core s (n * 8 + h.core)).sb.any fun e => chainEntry n ch e.2 && e.2.last == lastLine then narrowSpans s n ch else s

/-! ### The running descriptor -/

/-- Count beats in which data moved (Table 14.5; one for each line segment, log entry 25). -/
def countHaul (s : State) (n k : Nat) : State :=
  let r := wrapAdd (bench s n).haulBeats k
  let s := modBench s n fun b => { b with haulBeats := r.1 }
  if r.2 then
    let old := (bench s n).haulWrap
    countWrap (modBench s n fun b => { b with haulWrap := true }) n 0x30310 0 true (b2n old)
  else s

/-- OP of the running descriptor. -/
def HaulCh.op (h : HaulCh) : Nat := descOp (h.chain.headD (0, [])).2

/-- The words of the running descriptor. -/
def HaulCh.words (h : HaulCh) : List W64 := (h.chain.headD (0, [])).2

/-- A queue reference names a queue in use of the running region that holds a bench (Table 14.4 code 8). -/
def haulQueue (s : State) (n ref : Nat) : Option (Nat × Nat) :=
  match benchRegion s n with
  | none => none
  | some r =>
    let q := refQueue r ref
    if bit ref 15 && decide (bits ref 3 0 < r.w) && decide (bits ref 7 4 < r.h) && (regionBenches s r).contains q.1 &&
        queueDepth s q.1 q.2 != 0 && (r.state == 1 || r.state == 2) then some q
    else none

/-- The queue of a descriptor cannot be used (Table 14.4 code 8): a QIN's must be consumed by this channel in the section that
runs, and a QOUT's must be a queue in use of a running region that holds the bench. -/
def queueBad (s : State) (n ch : Nat) (w : List W64) : Bool :=
  if descOp w = 2 then !(bench s n).ssEn || queueDepth s n (dw w 0) == 0 || queueCkind s n (dw w 0) != 2 || queueCidx s n (dw w 0) != ch
  else if descOp w = 3 then (haulQueue s n (dw w 1)).isNone else false

/-- Start the descriptor that runs next (R274, R278): nothing is staged, and the check goes on with CONT. -/
def beginDesc (op : Nat) (s : State) (n ch : Nat) : State :=
  let h := haulCh s n ch
  let w := h.words
  let a := (h.chain.headD (0, [])).1
  if h.state ≠ 1 ∨ w.isEmpty ∨ chainRead h = false ∨ spansClear s n ch = false then s
  else if !descOk s n h w then haulEnd s n ch 5 (a % 2 ^ 52)
  else if descOp w ≠ op then s
  else
    let keep : Bool := bit (dw w 7) 5
    modHaul s n ch fun h =>
      { h with state := 2, desc := a, bytes := 0, check := if keep then h.check else checkInit (descChk w),
               checkPsn := keep && h.checkPsn, buf := [], issued := 0, total := if op = 3 then (srcLines w).total else (dstLines w).total }

/-- The bytes of the stream from `pos` on that the staging buffer holds, `r` of them, with their mark. -/
def stagedTake : List Staged → Nat → Nat → Option (List Byte × Bool)
  | [], _, r => if r = 0 then some ([], false) else none
  | b :: rest, pos, r =>
    if r = 0 then some ([], false)
    else if b.n + b.len ≤ pos then stagedTake rest pos r
    else match b.data with
      | none => none
      | some d =>
        let m := min r (b.n + b.len - pos)
        match stagedTake rest (pos + m) (r - m) with
        | none => none
        | some (bs, p) => some ((d.drop (pos - b.n)).take m ++ bs, b.poison || p)

/-- Stream bytes that may still be written: those before a failing position. -/
def HaulCh.limit (h : HaulCh) : Nat := match h.failAt with | some (p, _) => p | none => h.total

/-- The length of a channel's next write: one queue entry, or what stands in one line of the destination and in one aligned line. -/
def writeLen (h : HaulCh) : Nat := if h.op = 3 then 64 else (dstLines h.words).run h.bytes (h.limit - h.bytes)

/-- The data of a channel's next write, if it is at hand: the pattern of a FILL, or what the staging buffer holds. -/
def writeData (h : HaulCh) : Option (List Byte × Bool) :=
  if h.op = 1 then
    some ((List.range (writeLen h)).map fun i => BitVec.ofNat 8 ((h.words.getD 0 0).toNat / 2 ^ (8 * ((h.bytes + i) % 8))), false)
  else stagedTake h.buf h.bytes (writeLen h)

/-- A channel is ready at the read port (R269): it has a read to issue and room in its buffer of 32 lines. -/
def readReady (s : State) (n ch : Nat) : Bool :=
  let h := haulCh s n ch
  h.state == 2 && h.failAt.isNone && h.page != .asked && decide (h.buf.length < 32) && decide (h.issued < h.total) &&
    (h.op == 0 || h.op == 3 || (h.op == 2 && (headOf s n (dw h.words 0)).isSome))

/-- A channel is ready at the write port (R269): its buffer holds the data for its next write. -/
def writeReady (s : State) (n ch : Nat) : Bool :=
  let h := haulCh s n ch
  h.state == 2 && h.page != .asked && decide (h.bytes + (if h.op = 3 then 63 else 0) < h.limit) && (writeData h).isSome &&
    (h.op != 3 || (match haulQueue s n (dw h.words 1) with | some q => hasRoom s q.1 q.2 | none => false))

/-- The channel that a port serves in this beat (R269, R270): of those ready, the highest priority, and of equal ones the next
after the one served last. Port 0 reads, port 1 writes. -/
def portPick (s : State) (n p : Nat) : Option Nat :=
  let ready := (List.range 16).filter fun c => if p = 0 then readReady s n c else writeReady s n c
  match (List.range 4).find? fun pri => ready.any fun c => (haulCh s n c).pri == pri with
  | none => none
  | some pri =>
    ((List.range 16).map fun i => (Tbl.getD (bench s n).haulTurn (4 * p + pri) 15 + 1 + i) % 16).find? fun c =>
      ready.contains c && (haulCh s n c).pri == pri

/-- A port has served a channel. -/
def portServed (s : State) (n p ch : Nat) : State :=
  modBench s n fun b => { b with haulTurn := Tbl.set b.haulTurn (4 * p + (haulCh s n ch).pri) ch }

/-- A beat of the read port (R275, R257): one line segment's read is issued, or one queue entry is taken; a tail marker ends a
QIN early. -/
def readBeat (s : State) (n ch : Nat) : State :=
  let h := haulCh s n ch
  let w := h.words
  if h.op = 2 then
    match headOf s n (dw w 0) with
    | none => s
    | some x =>
      if x.marker then haulSettle (modHaul s n ch fun h => { h with total := h.issued }) n ch
      else modHaul (takeHead s n (dw w 0)) n ch fun h =>
        { h with issued := h.issued + 64
                 buf := h.buf ++ [{ n := h.issued, len := 64, addr := 0, tag := 0, data := some ((List.range 64).map (lineByte x.data)), poison := x.poison }] }
  else
    let a := (srcLines w).addr h.issued
    let r := (srcLines w).run h.issued (h.total - h.issued)
    match haulReach s n ch .read a with
    | .wait s => s
    | .bad st s => haulSettle (haulNote s n ch h.issued st (addr52 a)) n ch
    | .at x s => modHaul (haulRead s n ch x r) n ch fun h =>
        { h with issued := h.issued + r, buf := h.buf ++ [{ n := h.issued, len := r, addr := addr52 a, tag := s.nextMsg, data := none, poison := false }] }

/-- The next bytes of the stream have left for their destination: the check runs over them (R278), and their lines leave the
staging buffer. -/
def wrote (s : State) (n ch : Nat) (bs : List Byte) (psn : Bool) : State :=
  modHaul s n ch fun h =>
    { h with bytes := h.bytes + bs.length, check := checkBytes (descChk h.words) h.bytes h.check bs, checkPsn := h.checkPsn || psn,
             psn := h.psn || psn, buf := h.buf.filter fun b => decide (h.bytes + bs.length < b.n + b.len) }

/-- A beat of the write port (R275, R280): one line segment is written, or one queue entry is put. -/
def writeBeat (s : State) (n ch : Nat) : State :=
  let h := haulCh s n ch
  let w := h.words
  match writeData h with
  | none => s
  | some (bs, psn) =>
    if h.op = 3 then
      match haulQueue s n (dw w 1) with
      | none => s
      | some q => haulSettle (wrote (putEntry s q.1 q.2 { data := presented q.2 (lineOf bs), marker := false, poison := psn }) n ch bs psn) n ch
    else
      let a := (dstLines w).addr h.bytes
      match haulReach s n ch .write a with
      | .wait s => s
      | .bad st s => haulSettle (haulNote s n ch h.bytes st (addr52 a)) n ch
      | .at x s1 =>
        wrote (modHaul (haulWrite s1 n ch x bs psn) n ch fun h => { h with outs := h.outs ++ [(s1.nextMsg, h.bytes, addr52 a)] }) n ch bs psn

/-- A full QOUT queue and an empty QIN queue stall their channel (Table 13.6). -/
def noteStall (s : State) (n ch : Nat) : State :=
  let h := haulCh s n ch
  if h.state ≠ 2 then s
  else if h.op = 2 then (if (headOf s n (dw h.words 0)).isNone then countStall s n true (dw h.words 0) 0 else s)
  else match (if h.op = 3 then haulQueue s n (dw h.words 1) else none) with
    | some q => if (writeData h).isSome && !hasRoom s q.1 q.2 then countStall s q.1 true q.2 1 else s
    | none => s

/-- The beats of a channel's running descriptor: each port that picks the channel serves it. -/
def channelBeat (s : State) (n ch : Nat) : State :=
  let rd := portPick s n 0 == some ch
  let wr := portPick s n 1 == some ch
  let s := noteStall s n ch
  let s1 := if wr then writeBeat (portServed s n 1 ch) n ch else s
  let s2 := if rd then readBeat (portServed s1 n 0 ch) n ch else s1
  if (haulCh s2 n ch).issued ≠ (haulCh s n ch).issued ∨ (haulCh s2 n ch).bytes ≠ (haulCh s n ch).bytes then countHaul s2 n 1 else s2

/-- One beat of a channel with an operation (R269, R270; log entry 25): a channel that reads its chain sends its next read; a
descriptor that is ready begins; a running one moves what the ports let it move. -/
def haulBeat (op ch : Nat) (s : State) (n : Nat) : State :=
  if !haulBusy s n ch then s
  else
    let s := beginDesc op (if (haulCh s n ch).state = 1 then readChain s n ch else s) n ch
    let h := haulCh s n ch
    if h.state ≠ 2 ∨ h.op ≠ op ∨ h.failAt.any (fun f => f.2.1 == 7) then s
    else if queueBad s n ch h.words then haulEnd s n ch 8 (h.desc % 2 ^ 52)
    else match (if op = 3 then haulQueue s n (dw h.words 1) else none) with
      | some q => if (squeue s q.1 q.2).closed then haulStopCh s n ch false else channelBeat s n ch
      | none => channelBeat s n ch

/-- HAUL_COPY (R275). -/
def execHaulCopy (node : BitVec 8) (ch : BitVec 4) (s : State) : Out := onBench node (haulBeat 0 ch.toNat) s
/-- HAUL_FILL (R275). -/
def execHaulFill (node : BitVec 8) (ch : BitVec 4) (s : State) : Out := onBench node (haulBeat 1 ch.toNat) s
/-- QIN (R275). -/
def execQin (node : BitVec 8) (ch : BitVec 4) (s : State) : Out := onBench node (haulBeat 2 ch.toNat) s
/-- QOUT (R275). -/
def execQout (node : BitVec 8) (ch : BitVec 4) (s : State) : Out := onBench node (haulBeat 3 ch.toNat) s

/-! ### Completion (R277, R280) -/

/-- Steps 3 to 5 of Table 14.3: the counter, the record, the next descriptor. -/
def descDone (s : State) (n ch : Nat) (a : Nat) (w : List W64) (rest : List (Nat × List W64)) : State :=
  let h := haulCh s n ch
  let s := if bit (dw w 7) 6 then (unitIncrement s n (some n) h.ctx (haulLvl h) (haulSelf n h) (bits (dw w 7) 60 32)).2 else s
  let s :=
    if bit (dw w 7) 7 then
      let w3 := completionWord 0 0 0 0 0
      let psn := BitVec.ofNat 64 (b2n h.psn)
      if h.fw then makeRecord s n (devRing s.dev.primary) 3 (n * 16 + ch) 1 none w3 (BitVec.ofNat 64 h.bytes) psn 0 0
      else recordCtx s n 3 (n * 16 + ch) h.ctx 1 w3 (BitVec.ofNat 64 h.bytes) psn 0 0
    else s
  let next := dw w 6
  let todo := if next = 0 then [] else if rest.isEmpty then [(next, [])] else rest
  let s := modHaul s n ch fun h =>
    { h with done := min (h.done + 1) 65535, checkKind := descChk w, chain := todo, checked := false, bytes := if next = 0 then h.bytes else 0, state := if next = 0 then 0 else 1, desc := if next = 0 then a else next }
  if next = 0 ∧ h.srck = 0 then
    modCore s (n * 8 + h.core) fun x => { x with sb := x.sb.filter fun e => e.2.haul != some (n * 16 + ch) }
  else s

/-- DESCRIPTOR_COMPLETION (R277): the check word is written, poisoned where the data was; once it is acknowledged, the rest of
Table 14.3. -/
def descriptorCompletion (ch : Nat) (s : State) (n : Nat) : State :=
  let h := haulCh s n ch
  match h.chain with
  | [] => s
  | (a, w) :: rest =>
    if h.state ≠ 3 ∨ h.checkTag.isSome then s
    else if descChk w = 0 ∨ h.checked then descDone s n ch a w rest
    else match haulReach s n ch .write (dw w 5) with
      | .wait s => s
      | .bad st s => haulEnd s n ch st (dw w 5)
      | .at x s1 =>
        modHaul (haulWrite s1 n ch x (leBytes 8 (checkWord (descChk w) h.check)) h.checkPsn) n ch fun h => { h with checkTag := some s1.nextMsg }

/-- DESCRIPTOR_COMPLETION (R277). -/
def execDescriptorCompletion (node : BitVec 8) (ch : BitVec 4) (s : State) : Out := onBench node (descriptorCompletion ch.toNat) s

end Sys2Proof.Machine
end

