-- ==== Sys2Proof/Machine/LoadStore.lean ====
section
/-!
DEFINITION. Scalar loads and stores, LOADX and STOREX, ATOMIC (R68, R69, R71).
-/
namespace Sys2Proof.Machine

/-- A load of `n` bytes at rs1 + sext(imm15) (R68). -/
def bodyLoad (n : Nat) (signed : Bool) (rd rs1 : BitVec 5) (imm : BitVec 15) (s : State) (k : Nat) : Res :=
  scalarLoad s k (rx s k rs1 + simm imm) n (.load rd n signed) id
/-- A store of the low `n` bytes of rs2 at rs1 + sext(imm15) (R68). -/
def bodyStore (n : Nat) (rs2 rs1 : BitVec 5) (imm : BitVec 15) (s : State) (k : Nat) : Res :=
  scalarStore s k (rx s k rs1 + simm imm) n (rx s k rs2) id
/-- LOADX (R69): post-increment with rd = rs1 is reserved. -/
def bodyLoadx (fn : BitVec 10) (rd rs1 rs2 : BitVec 5) (s : State) (k : Nat) : Res :=
  match xFields fn with
  | none => illegal s
  | some (m, n, signed) =>
    if m = .postInc ∧ rd = rs1 then illegal s
    else
      let a := rx s k rs1
      let b := rx s k rs2
      let fin (t : State) : State := if m = .postInc then wx t k rs1 (a + b) else t
      scalarLoad s k (xAddress m n a b) n (.load rd n signed) fin
/-- STOREX (R69): the sizes 0b000 to 0b011 only. -/
def bodyStorex (fn : BitVec 10) (rs rs1 rs2 : BitVec 5) (s : State) (k : Nat) : Res :=
  match xFields fn with
  | none => illegal s
  | some (m, n, signed) =>
    if !signed then illegal s
    else
      let a := rx s k rs1
      let b := rx s k rs2
      let fin (t : State) : State := if m = .postInc then wx t k rs1 (a + b) else t
      scalarStore s k (xAddress m n a b) n (rx s k rs) fin
/-- ATOMIC (R71): CAS compares memory with rd and writes rs2. -/
def bodyAtomic (fn : BitVec 10) (rd rs1 rs2 : BitVec 5) (s : State) (k : Nat) : Res :=
  match atomicFields fn rd with
  | none => illegal s
  | some f => scalarAtomic s k (rx s k rs1) f rd (rx s k rs2) (rx s k rd)

/-- LB. -/
def execLb (h : Hart) (rd rs1 : BitVec 5) (imm : BitVec 15) (s : State) : Out :=
  issue h (.lb h rd rs1 imm) 0 [rd, rs1] (bodyLoad 1 true rd rs1 imm) s
/-- LH. -/
def execLh (h : Hart) (rd rs1 : BitVec 5) (imm : BitVec 15) (s : State) : Out :=
  issue h (.lh h rd rs1 imm) 0 [rd, rs1] (bodyLoad 2 true rd rs1 imm) s
/-- LW. -/
def execLw (h : Hart) (rd rs1 : BitVec 5) (imm : BitVec 15) (s : State) : Out :=
  issue h (.lw h rd rs1 imm) 0 [rd, rs1] (bodyLoad 4 true rd rs1 imm) s
/-- LD. -/
def execLd (h : Hart) (rd rs1 : BitVec 5) (imm : BitVec 15) (s : State) : Out :=
  issue h (.ld h rd rs1 imm) 0 [rd, rs1] (bodyLoad 8 true rd rs1 imm) s
/-- LBU. -/
def execLbu (h : Hart) (rd rs1 : BitVec 5) (imm : BitVec 15) (s : State) : Out :=
  issue h (.lbu h rd rs1 imm) 0 [rd, rs1] (bodyLoad 1 false rd rs1 imm) s
/-- LHU. -/
def execLhu (h : Hart) (rd rs1 : BitVec 5) (imm : BitVec 15) (s : State) : Out :=
  issue h (.lhu h rd rs1 imm) 0 [rd, rs1] (bodyLoad 2 false rd rs1 imm) s
/-- LWU. -/
def execLwu (h : Hart) (rd rs1 : BitVec 5) (imm : BitVec 15) (s : State) : Out :=
  issue h (.lwu h rd rs1 imm) 0 [rd, rs1] (bodyLoad 4 false rd rs1 imm) s
/-- LOADX. -/
def execLoadx (h : Hart) (fn : BitVec 10) (rd rs1 rs2 : BitVec 5) (s : State) : Out :=
  issue h (.loadx h fn rd rs1 rs2) 0 [rd, rs1, rs2] (bodyLoadx fn rd rs1 rs2) s
/-- SB. -/
def execSb (h : Hart) (rs2 rs1 : BitVec 5) (imm : BitVec 15) (s : State) : Out :=
  issue h (.sb h rs2 rs1 imm) 0 [rs2, rs1] (bodyStore 1 rs2 rs1 imm) s
/-- SH. -/
def execSh (h : Hart) (rs2 rs1 : BitVec 5) (imm : BitVec 15) (s : State) : Out :=
  issue h (.sh h rs2 rs1 imm) 0 [rs2, rs1] (bodyStore 2 rs2 rs1 imm) s
/-- SW. -/
def execSw (h : Hart) (rs2 rs1 : BitVec 5) (imm : BitVec 15) (s : State) : Out :=
  issue h (.sw h rs2 rs1 imm) 0 [rs2, rs1] (bodyStore 4 rs2 rs1 imm) s
/-- SD. -/
def execSd (h : Hart) (rs2 rs1 : BitVec 5) (imm : BitVec 15) (s : State) : Out :=
  issue h (.sd h rs2 rs1 imm) 0 [rs2, rs1] (bodyStore 8 rs2 rs1 imm) s
/-- STOREX. -/
def execStorex (h : Hart) (fn : BitVec 10) (rs rs1 rs2 : BitVec 5) (s : State) : Out :=
  issue h (.storex h fn rs rs1 rs2) 0 [rs, rs1, rs2] (bodyStorex fn rs rs1 rs2) s
/-- ATOMIC. -/
def execAtomic (h : Hart) (fn : BitVec 10) (rd rs1 rs2 : BitVec 5) (s : State) : Out :=
  issue h (.atomic h fn rd rs1 rs2) 0 [rd, rs1, rs2] (bodyAtomic fn rd rs1 rs2) s

end Sys2Proof.Machine
end

