-- ==== Sys2Proof/Machine/Power.lean ====
section
/-!
DEFINITION. PORT reset and FLR (R321, R403, R406, R407), the pins of a port (R451), bench gating (R410) and the
power states Idle and Deep Idle (R411 to R414, Table 21.4).
-/
namespace Sys2Proof.Machine

/-! ### PORT reset and FLR (R406, R407) -/

/-- Function of a command ring. -/
def ringFn (rk : Nat) : Nat := rk / 16 % 32

/-- Records for an event ring are discarded with it (R406). -/
def dropRing (s : State) (rg : Nat) : State :=
  let other (m : Msg) : Bool := match m.pay with | .record x => x.ring != rg | _ => true
  let ports := s.ports.map fun (e : Nat × Port) => (e.1, { e.2 with buf := e.2.buf.filter fun x => x.ring != rg })
  { s with mesh := s.mesh.filter other, inbox := s.inbox.filter other, ports := ports, evrings := Tbl.erase s.evrings rg }

/-- Steps 1, 2 and 4 of R406 for the functions given: contexts, rings, window slots, MSI-X tables and power states; and for the
PF its device ring, its aperture, its logs and its exchange of R427. -/
def resetFns (s : State) (p : Nat) (fns : Nat → Bool) : State :=
  let s := destroyOf s p fns
  let gone (rk : Nat) : Bool := rk / 512 == p && fns (ringFn rk)
  let s := { s with rings := s.rings.filter fun e => !gone e.1
                    slots := s.slots.filter fun e => !(e.1 / 512 == p && fns (e.1 / 16 % 32)) }
  let s := modDev s fun d => { d with resetRing := d.resetRing.filter fun rk => !gone rk }
  let s := modPort s p fun x =>
    { x with d3 := x.d3.filter fun fn => !fns fn
             unmasked := x.unmasked.filter fun v => !fns (v / 128)
             pendingVec := x.pendingVec.filter fun v => !fns (v / 128) }
  if fns 0 then
    modPort (dropRing s (devRing p)) p fun x =>
      { x with aperture := 0, apertureDead := false, nodesel := 0, errFlags := 0, errOff := 0, errKind := 0, aer := [], spdm := 0, vca := [], msgB := [], msgL := [] }
  else s

/-- Accesses that wait at an endpoint when its link goes down are answered with an error (R321). -/
def failPort (s : State) (p : Nat) : State :=
  s.inbox.foldl (fun s x =>
    if x.dst ≠ portNode p then s
    else match accessTarget x.pay with
      | some (.host q _, req) => if q = p then reply s x (.error 8 req) else s
      | _ => s) s

/-- PORT_RESET: PERST#, Hot Reset or DL_Down. While the device waits for its reset pin, only the level of PERST# is noted. -/
def portReset (p : Nat) (cause : PortResetCause) (s : State) : State :=
  let pin : Bool := cause == .perst
  match s.dev.waitRst with
  | some b => if pin then modDev s fun d => { d with waitRst := some { b with perst := b.perst &&& ~~~ BitVec.ofNat 2 (2 ^ p) } } else s
  | none =>
    if dark s then s
    else
      let s := failPort (resetFns s p fun _ => true) p
      tellPeers (modPort s p fun x => { x with linkUp := false, stamp := 0, perst := x.perst || pin })

/-- PORT_RESET (R406). -/
def execPortReset (port : BitVec 1) (cause : PortResetCause) (s : State) : Out := .next (portReset port.toNat cause s)

/-- Functions that an FLR covers: a PF's covers every VF of its port (Table 21.1). -/
def flrScope (fn : Nat) (k : Nat) : Bool := fn == 0 || k == fn

/-- FLR (R407): of a function 0 to 16; no host can name another. -/
def execFlr (port : BitVec 1) (fn : BitVec 5) (s : State) : Out :=
  .next (if decide (16 < fn.toNat) || !hostReaches s port.toNat || dark s then s else resetFns s port.toNat (flrScope fn.toNat))

/-- PCIE_LINK_UP (R321): the link of a port out of reset finishes training. -/
def pcieLinkUp (p : Nat) (s : State) : State :=
  if dark s ∨ (port s p).perst then s else tellPeers (modPort s p fun x => { x with linkUp := true, downTicks := 0 })

/-- PCIE_LINK_UP (R321). -/
def execPcieLinkUp (port : BitVec 1) (s : State) : Out := .next (pcieLinkUp port.toNat s)

/-- PERST_RELEASE (R451): before step 3 of Table 21.2 it takes effect when the boot goes on. -/
def perstRelease (p : Nat) (s : State) : State :=
  match s.dev.waitRst with
  | some b => modDev s fun d => { d with waitRst := some { b with perst := b.perst ||| BitVec.ofNat 2 (2 ^ p) } }
  | none => if dark s then s else modPort s p fun x => { x with perst := false }

/-- PERST_RELEASE (R451). -/
def execPerstRelease (port : BitVec 1) (s : State) : Out := .next (perstRelease port.toNat s)

/-! ### Bench gating (R410) -/

/-- A bench is one of a loaded region's. -/
def inRegion (s : State) (n : Nat) : Bool := s.regions.any fun r => (regionBenches s r.2).contains n

/-- A haul or skip transfer involves a bench: its own channels, a transfer of a context that holds it, or a skip that one of its
cores launched or that writes their stores. -/
def transferInvolves (s : State) (n : Nat) : Bool :=
  (s.benches.any fun e => e.2.haul.any fun h => haulBusy s e.1 h.1 && (e.1 == n || (!h.2.fw && (holders s n).contains h.2.ctx))) ||
    s.skip.any fun e => e.2.any fun j =>
      (j.srck == 0 && j.core / 8 == n) || (!bit j.value.toNat 57 && (holders s n).contains (bits j.value.toNat 63 58)) ||
        (skipCores j.words).any fun c => c / 8 == n

/-- A bench is quiet enough to be gated. -/
def gateable (s : State) (n : Nat) : Bool :=
  let cs := (List.range 8).map (n * 8 + ·)
  !(node s n).gated && (cs.all fun c => (core s c).kernel.isNone && (core s c).sb.isEmpty) && !transferInvolves s n && cachesReady s cs

/-- The four steps of gating. -/
def gateBench (s : State) (n : Nat) : State :=
  let s := modBench (bcFlushAll s n) n fun b => { b with tu := [], tuCtr := [], wayon := b.wayen, cleaning := false }
  let s := ((List.range 8).map (n * 8 + ·)).foldl coreReset s
  modNode s n fun x => { x with gated := true }

/-- BENCH_GATE (R410): no context holds the bench, or the device is in Idle and no loaded region uses it. -/
def benchGate (n : Nat) (s : State) : State :=
  if s.dev.fwState ≠ 3 ∨ held s n ∨ !gateable s n then s
  else if (holders s n).isEmpty ∨ (s.dev.power = .idle ∧ !inRegion s n) then gateBench s n
  else s

/-- BENCH_GATE (R410). -/
def execBenchGate (node : BitVec 8) (s : State) : Out := onBench node (fun s n => benchGate n s) s

/-! ### Idle (R411, R412) -/

/-- IDLE_ENTRY: the device has been quiet for IDLE_ENTRY ticks; every bench that can be gated is. -/
def idleEntry (s : State) : State :=
  let limit := policy s 0x0300
  if s.dev.power ≠ .active ∨ dark s ∨ s.dev.fwState ≠ 3 ∨ limit = 0 ∨ s.dev.idleTicks < limit ∨ !deviceQuiet s then s
  else
    let s := modDev s fun d => { d with power := .idle, idleTicks := 0 }
    benches.foldl (fun s n => benchGate n s) s

/-- IDLE_ENTRY (R412). -/
def execIdleEntry (s : State) : Out := .next (idleEntry s)

/-- IDLE_EXIT: a doorbell, LAUNCH or access has arrived; the gated benches that a context holds leave retention. -/
def idleExit (s : State) : State :=
  if s.dev.power ≠ .idle then s
  else
    let nodes := s.nodes.map fun (e : Nat × Node) => (e.1, if (holders s e.1).isEmpty then e.2 else { e.2 with gated := false })
    modDev { s with nodes := nodes } fun d => { d with power := .active, idleTicks := 0 }

/-- IDLE_EXIT (R411). -/
def execIdleExit (s : State) : Out := .next (idleExit s)

/-! ### Deep Idle (R413) -/

/-- Every local store and core counter cell loses what it holds (Table 21.4, log entry 5). -/
def loseStores (s : State) : State := { s with ls := [], lsPoison := [], coreCells := [] }

/-- DEEP_IDLE_ENTRY: no context, and Idle has lasted DEEP_ENTRY ticks. -/
def deepIdleEntry (s : State) : State :=
  let limit := policy s 0x0301
  if s.dev.power ≠ .idle ∨ limit = 0 ∨ !s.ctxs.isEmpty ∨ s.dev.idleTicks < limit ∨ !(benches.all fun n => !held s n && (gateable s n || (node s n).gated)) then s
  else
    let s := loseStores (benches.foldl (fun s n => if (node s n).gated then s else gateBench s n) s)
    let s := (List.range 16).foldl (fun s n => modStack s n fun y => { y with selfRefresh := true }) s
    modDev s fun d => { d with power := .deepIdle }

/-- DEEP_IDLE_ENTRY (R413). -/
def execDeepIdleEntry (s : State) : Out := .next (deepIdleEntry s)

/-- A pacer count noted before the pacer restarted from zero, moved so that what has elapsed stays (R51). -/
def rebase (s : State) (n since : Nat) : Nat := (since + 2 ^ 64 - pacerOf s n) % 2 ^ 64

/-- Every pacer restarts from zero, uncalibrated (R49, R413). -/
def restartPacers (s : State) : State :=
  let move (m : Msg) : Msg := { m with since := rebase s m.src m.since, arr := rebase s m.dst m.arr }
  let links := s.links.map fun (e : Nat × Link) =>
    (e.1, { e.2 with queue := e.2.queue.map fun (q : LinkMsg × Nat) => (q.1, rebase s (linkNode e.1) q.2) })
  let nodes := s.nodes.map fun (e : Nat × Node) =>
    (e.1, { e.2 with pacer := 0, calValid := false, calSeq := 0, period := 0x007A1200#32, lastCal := 0
                     guard := e.2.guard.map fun g => { g with since := rebase s e.1 g.since } })
  { s with mesh := s.mesh.map move, inbox := s.inbox.map move, links := links, nodes := nodes }

/-- DEEP_IDLE_EXIT: a doorbell, BAR2 access or link message has arrived; every cache comes up with 16 ways. -/
def deepIdleExit (s : State) : State :=
  if s.dev.power ≠ .deepIdle then s
  else
    let s := benches.foldl (fun s n =>
      modNode (modBench s n fun b => { b with wayen := 0xFFFF, wayon := 0xFFFF, cleaning := false }) n fun x => { x with gated := false })
      (restartPacers s)
    let s := (List.range 16).foldl (fun s n => modStack s n fun y => { y with selfRefresh := false }) s
    modDev s fun d => { d with power := .active, idleTicks := 0 }

/-- DEEP_IDLE_EXIT (R413). -/
def execDeepIdleExit (s : State) : Out := .next (deepIdleExit s)

end Sys2Proof.Machine
end

