-- ==== Sys2Proof/Machine/Time.lean ====
section
/-!
DEFINITION. Time as the model has it (R47, R49, R52; log entry 2): on an empty queue every running pacer
and stamp counter advances by an amount that the manual leaves free, and the root weighbridge looks at each context
(R212).
-/
namespace Sys2Proof.Machine

/-- Pacers run in every power state but Deep Idle and Off (R49). -/
def pacersRun (s : State) : Bool := s.dev.power == .active || s.dev.power == .idle

/-- Advance the pacers of the nodes given. -/
def tickPacers (k : Nat) (nodes : List Nat) (s : State) : State :=
  nodes.foldl (fun s n => modNode s n fun x => { x with pacer := x.pacer + BitVec.ofNat 64 (Config.pacerAdvance n k) }) s

/-- Advance the stamp counters of the ports that are not in reset (R52). -/
def tickStamps (k : Nat) (s : State) : State :=
  [0, 1].foldl (fun s p => modPort s p fun x =>
    if x.perst then x else { x with stamp := x.stamp + BitVec.ofNat 64 (Config.stampAdvance p k) }) s

/-- The block idles for a moment: nothing but time moves. -/
def idle (s : State) : State :=
  let k := s.tick
  let s := { s with tick := k + 1 }
  let s := if dark s then s else tickStamps k s
  if pacersRun s then watchQuiet (tickPacers k (List.range 256) s) else s

end Sys2Proof.Machine
end

