-- ==== Sys2Proof/Machine/Reliability.lean ====
section
/-!
DEFINITION. Reliability windows and the flash copies of the Unit Records (R379, R386), and configuration parity (R438,
Table 22.3).
-/
namespace Sys2Proof.Machine

/-! ### Windows and Unit Records (R379, R386) -/

/-- RELIABILITY_WINDOW: WINDOW ticks have passed since the window began. -/
def reliabilityWindow (s : State) : State :=
  if dark s ∨ s.dev.ticks < s.dev.windowStart + policy s 0x0101 then s
  else modDev s fun d => { d with windowStart := d.windowStart + policy s 0x0101, window := [] }

/-- RELIABILITY_WINDOW (R379). -/
def execReliabilityWindow (s : State) : Out := .next (reliabilityWindow s)

/-- UNIT_RECORD_FLUSH: firmware writes a record that has changed to the flash. -/
def unitRecordFlush (name : Nat) (s : State) : State :=
  let u := unitRec s name
  if dark s ∨ s.dev.fwState ≠ 3 ∨ u.due.isNone then s
  else
    let u := { u with due := none }
    { s with units := Tbl.set s.units name u, flash := { s.flash with records := Tbl.set s.flash.records name u } }

/-- UNIT_RECORD_FLUSH (R386). -/
def execUnitRecordFlush (unit : BitVec 24) (s : State) : Out := .next (unitRecordFlush unit.toNat s)

/-! ### Configuration parity (R438) -/

/-- What a parity error is answered with: the state after, and the contexts named. -/
abbrev Parity := State × List Nat

/-- Disable a link port (Table 22.3). -/
def parityLink (s : State) (p : Nat) : State :=
  if !(link s p).en then s
  else linkRecord (modLink s p fun l => { l with en := false, state := 0, width := 0, laneOk := 0, trainedOnce := false }) p 2

/-- Disable the stream switch of a bench; its region is unloaded with REGION_LOST. -/
def parityStream (s : State) (n : Nat) : Parity :=
  let rs := s.regions.filter fun r => (regionBenches s r.2).contains n
  let s := rs.foldl (fun s r => loseRegion s r.1) (modBench s n fun b => { b with ssEn := false })
  (s, rs.map fun r => r.2.ctx)

/-- Disable the block of a register of a node's window; nothing where the offset holds no register with a parity bit. -/
def parityWindow (s : State) (n off : Nat) : Option Parity :=
  let core_ := n * 8 + (off / 0x10000 - 8)
  if off = 0x70008 then some (modNode s n fun x => { x with calValid := false, period := 0x007A1200#32 }, [])
  else if nodeKind n = 2 ∧ off = 0xA0000 then some (parityLink s (nodeUnit n), [])
  else if n = mgNode ∧ (off = 0xA0000 ∨ (0xA0100 ≤ off ∧ off < 0xA0900)) then some ((List.range 8).foldl parityLink s, [])
  else if !isBench n ∨ isFenced s 2 n then none
  else if off = 0x20000 then some (modBench (bcFlushAll s n) n fun b => { b with bypass := true }, [])
  else if off = 0x30300 then some (modBench s n fun b => { b with haulStop := 0 }, [])
  else if off = 0x50000 ∨ (0x50200 ≤ off ∧ off < 0x502C0) ∨ (0x50300 ≤ off ∧ off < 0x50380) ∨ (0x50400 ≤ off ∧ off < 0x50480) then some (parityStream s n)
  else if 0x80000 ≤ off ∧ off < 0x100000 ∧ off % 0x10000 = 0x100 then
    some (modCore s core_ fun x => { x with ctrDead := true }, (core s core_).ctx.toList)
  else none

/-- Disable the block of a register of a port's BAR0. -/
def parityBar0 (s : State) (p off : Nat) : Option State :=
  if off = 0x1100 then some (modPort s p fun x => { x with apertureDead := true })
  else if off = 0x8008 then some (modPort s p fun x => { x with nodesel := 0 })
  else if off = 0x10200 ∨ off = 0x10208 then some (modEvring s (devRing p) fun e => { e with en := false })
  else if 0x10000 ≤ off ∧ off < 0x20000 ∧ off % 0x800 < 0x200 ∧ (off % 0x20 = 0 ∨ off % 0x20 = 8) then
    let rk := p * 512 + (off - 0x10000) / 0x800 * 16 + off % 0x800 / 0x20
    if hasRing rk then some (modRing s rk fun r => { r with en := false, attempts := 0 }) else none
  else none

/-- The SDC record of a parity error (R438): on every enabled device ring and on the rings of the contexts named. -/
def paritySdc (s : State) (w4 : Nat) (ctxs : List Nat) : State :=
  let w3 : W64 := BitVec.ofNat 64 (4 * 2 ^ 16 + 3 * 2 ^ 24)
  ctxs.foldl (fun s c => recordCtx s mgNode 1 0 c 4 w3 (BitVec.ofNat 64 w4) 0 0 0)
    (recordDev s mgNode 1 0 4 w3 (BitVec.ofNat 64 w4) 0 0 0)

/-- One uncorrected event of a bench or port node. -/
def parityCount (s : State) (n : Nat) : State :=
  if isBench n then countUnit s (unitName 2 n) 1 1 else countUnit s (unitName 5 n) 1 1

/-- A parity error at an offset. At PA and PB the registers with parity that are not of the pacer stand in BAR0. -/
def parityError (n off : Nat) (s : State) : State :=
  if (n = 66 ∨ n = 74) ∧ off ≠ 0x70008 then
    let p := b2n (n == 74)
    match parityBar0 s p off with
    | none => s
    | some s => paritySdc (parityCount (hregFlag s p 3 off) n) (off + 2 ^ 63) []
  else match parityWindow s n off with
    | none => s
    | some (s, ctxs) => paritySdc (parityCount (regFlag s n 3 off 7) n) (targetAddr (.reg n off)) ctxs

/-- PARITY_SWEEP (R438): the sweep of a node, with the register whose parity failed, if one did. -/
def execParitySweep (node : BitVec 8) (bad : Option (BitVec 24)) (s : State) : Out :=
  .next (match bad with
    | none => s
    | some off => if dark s ∨ !pacersRun s then s else parityError node.toNat off.toNat s)

end Sys2Proof.Machine
end

