-- ==== Sys2Proof/Machine/Scalar.lean ====
section
/-!
DEFINITION. The scalar register operations, immediates, branches and jumps (R65 to R67, R70). A body gives
the instruction's own effect for thread `k`; an exec issues it.
-/
namespace Sys2Proof.Machine

/-- Write a result, or ILLEGAL where the function is reserved (R61). -/
def writeOr (s : State) (k : Nat) (rd : BitVec 5) : Option W64 → Res
  | some v => .done (wx s k rd v)
  | none => illegal s

/-- OP (R65). -/
def bodyOp (fn : BitVec 10) (rd rs1 rs2 : BitVec 5) (s : State) (k : Nat) : Res :=
  writeOr s k rd (opFn fn (rx s k rs1) (rx s k rs2))
/-- OP-32 (R65). -/
def bodyOp32 (fn : BitVec 10) (rd rs1 rs2 : BitVec 5) (s : State) (k : Nat) : Res :=
  writeOr s k rd (op32Fn fn (rx s k rs1) (rx s k rs2))
/-- BITS (R65): its rs2 field must be zero. -/
def bodyBits (fn : BitVec 10) (rd rs1 rs2 : BitVec 5) (s : State) (k : Nat) : Res :=
  if rs2 ≠ 0 then illegal s else writeOr s k rd (bitsFn fn (rx s k rs1))
/-- MULDIV (R66). -/
def bodyMuldiv (fn : BitVec 10) (rd rs1 rs2 : BitVec 5) (s : State) (k : Nat) : Res :=
  writeOr s k rd (muldivFn fn (rx s k rs1) (rx s k rs2))
/-- ADDK (R67). -/
def bodyAddk (rd rs1 : BitVec 5) (imm : BitVec 15) (s : State) (k : Nat) : Res :=
  .done (wx s k rd (rx s k rs1 + simm imm))
/-- ANDK (R67). -/
def bodyAndk (rd rs1 : BitVec 5) (imm : BitVec 15) (s : State) (k : Nat) : Res :=
  .done (wx s k rd (rx s k rs1 &&& zimm imm))
/-- ORK (R67). -/
def bodyOrk (rd rs1 : BitVec 5) (imm : BitVec 15) (s : State) (k : Nat) : Res :=
  .done (wx s k rd (rx s k rs1 ||| zimm imm))
/-- XORK (R67). -/
def bodyXork (rd rs1 : BitVec 5) (imm : BitVec 15) (s : State) (k : Nat) : Res :=
  .done (wx s k rd (rx s k rs1 ^^^ zimm imm))
/-- CMPLTK (R67). -/
def bodyCmpltk (rd rs1 : BitVec 5) (imm : BitVec 15) (s : State) (k : Nat) : Res :=
  .done (wx s k rd (truth ((rx s k rs1).slt (simm imm))))
/-- CMPLTUK (R67). -/
def bodyCmpltuk (rd rs1 : BitVec 5) (imm : BitVec 15) (s : State) (k : Nat) : Res :=
  .done (wx s k rd (truth ((rx s k rs1).ult (zimm imm))))
/-- SHK (R67). -/
def bodyShk (rd rs1 : BitVec 5) (imm : BitVec 15) (s : State) (k : Nat) : Res :=
  writeOr s k rd (shkFn imm (rx s k rs1))
/-- ADDK.32 (R67). -/
def bodyAddk32 (rd rs1 : BitVec 5) (imm : BitVec 15) (s : State) (k : Nat) : Res :=
  .done (wx s k rd (simm (lo32 (rx s k rs1) + lo32 (simm imm))))
/-- LIH (R67). -/
def bodyLih (rd : BitVec 5) (imm : BitVec 20) (s : State) (k : Nat) : Res :=
  .done (wx s k rd (simm imm <<< 16))
/-- PCADDH (R67). -/
def bodyPcaddh (rd : BitVec 5) (imm : BitVec 20) (s : State) (k : Nat) : Res :=
  .done (wx s k rd ((thr s k).pc + (simm imm <<< 16)))

/-- A conditional branch (R70): offsets count halfwords. -/
def branch (cond : W64 → W64 → Bool) (rs1 rs2 : BitVec 5) (imm : BitVec 15) (s : State) (k : Nat) : Res :=
  if cond (rx s k rs1) (rx s k rs2) then .jump s ((thr s k).pc + (simm imm <<< 1)) else .done s

/-- JAL (R70); the link is PC + 4, or PC + 2 for the compact forms (R73). -/
def bodyJal (compact : Bool) (rd : BitVec 5) (imm : BitVec 20) (s : State) (k : Nat) : Res :=
  let pc := (thr s k).pc
  .jump (wx s k rd (pc + (if compact then 2 else 4))) (pc + (simm imm <<< 1))
/-- JALR (R59, R70). -/
def bodyJalr (compact : Bool) (rd rs1 : BitVec 5) (imm : BitVec 15) (s : State) (k : Nat) : Res :=
  let target := rx s k rs1 + simm imm
  if bit target.toNat 0 then .trap s (scalarExn 2 target)
  else .jump (wx s k rd ((thr s k).pc + (if compact then 2 else 4))) target

/-- OP. -/
def execOp (h : Hart) (fn : BitVec 10) (rd rs1 rs2 : BitVec 5) (s : State) : Out :=
  issue h (.op h fn rd rs1 rs2) 0 [rd, rs1, rs2] (bodyOp fn rd rs1 rs2) s
/-- OP-32. -/
def execOp32 (h : Hart) (fn : BitVec 10) (rd rs1 rs2 : BitVec 5) (s : State) : Out :=
  issue h (.op32 h fn rd rs1 rs2) 0 [rd, rs1, rs2] (bodyOp32 fn rd rs1 rs2) s
/-- BITS. -/
def execBits (h : Hart) (fn : BitVec 10) (rd rs1 rs2 : BitVec 5) (s : State) : Out :=
  issue h (.bits h fn rd rs1 rs2) 0 [rd, rs1] (bodyBits fn rd rs1 rs2) s
/-- MULDIV. -/
def execMuldiv (h : Hart) (fn : BitVec 10) (rd rs1 rs2 : BitVec 5) (s : State) : Out :=
  issue h (.muldiv h fn rd rs1 rs2) 0 [rd, rs1, rs2] (bodyMuldiv fn rd rs1 rs2) s
/-- ADDK. -/
def execAddk (h : Hart) (rd rs1 : BitVec 5) (imm : BitVec 15) (s : State) : Out :=
  issue h (.addk h rd rs1 imm) 0 [rd, rs1] (bodyAddk rd rs1 imm) s
/-- ANDK. -/
def execAndk (h : Hart) (rd rs1 : BitVec 5) (imm : BitVec 15) (s : State) : Out :=
  issue h (.andk h rd rs1 imm) 0 [rd, rs1] (bodyAndk rd rs1 imm) s
/-- ORK. -/
def execOrk (h : Hart) (rd rs1 : BitVec 5) (imm : BitVec 15) (s : State) : Out :=
  issue h (.ork h rd rs1 imm) 0 [rd, rs1] (bodyOrk rd rs1 imm) s
/-- XORK. -/
def execXork (h : Hart) (rd rs1 : BitVec 5) (imm : BitVec 15) (s : State) : Out :=
  issue h (.xork h rd rs1 imm) 0 [rd, rs1] (bodyXork rd rs1 imm) s
/-- CMPLTK. -/
def execCmpltk (h : Hart) (rd rs1 : BitVec 5) (imm : BitVec 15) (s : State) : Out :=
  issue h (.cmpltk h rd rs1 imm) 0 [rd, rs1] (bodyCmpltk rd rs1 imm) s
/-- CMPLTUK. -/
def execCmpltuk (h : Hart) (rd rs1 : BitVec 5) (imm : BitVec 15) (s : State) : Out :=
  issue h (.cmpltuk h rd rs1 imm) 0 [rd, rs1] (bodyCmpltuk rd rs1 imm) s
/-- SHK. -/
def execShk (h : Hart) (rd rs1 : BitVec 5) (imm : BitVec 15) (s : State) : Out :=
  issue h (.shk h rd rs1 imm) 0 [rd, rs1] (bodyShk rd rs1 imm) s
/-- ADDK.32. -/
def execAddk32 (h : Hart) (rd rs1 : BitVec 5) (imm : BitVec 15) (s : State) : Out :=
  issue h (.addk32 h rd rs1 imm) 0 [rd, rs1] (bodyAddk32 rd rs1 imm) s
/-- LIH. -/
def execLih (h : Hart) (rd : BitVec 5) (imm : BitVec 20) (s : State) : Out :=
  issue h (.lih h rd imm) 0 [rd] (bodyLih rd imm) s
/-- PCADDH. -/
def execPcaddh (h : Hart) (rd : BitVec 5) (imm : BitVec 20) (s : State) : Out :=
  issue h (.pcaddh h rd imm) 0 [rd] (bodyPcaddh rd imm) s
/-- BEQ. -/
def execBeq (h : Hart) (rs1 rs2 : BitVec 5) (imm : BitVec 15) (s : State) : Out :=
  issue h (.beq h rs1 rs2 imm) 0 [rs1, rs2] (branch (fun a b => a == b) rs1 rs2 imm) s
/-- BNE. -/
def execBne (h : Hart) (rs1 rs2 : BitVec 5) (imm : BitVec 15) (s : State) : Out :=
  issue h (.bne h rs1 rs2 imm) 0 [rs1, rs2] (branch (fun a b => a != b) rs1 rs2 imm) s
/-- BLT. -/
def execBlt (h : Hart) (rs1 rs2 : BitVec 5) (imm : BitVec 15) (s : State) : Out :=
  issue h (.blt h rs1 rs2 imm) 0 [rs1, rs2] (branch (fun a b => a.slt b) rs1 rs2 imm) s
/-- BGE. -/
def execBge (h : Hart) (rs1 rs2 : BitVec 5) (imm : BitVec 15) (s : State) : Out :=
  issue h (.bge h rs1 rs2 imm) 0 [rs1, rs2] (branch (fun a b => !a.slt b) rs1 rs2 imm) s
/-- BLTU. -/
def execBltu (h : Hart) (rs1 rs2 : BitVec 5) (imm : BitVec 15) (s : State) : Out :=
  issue h (.bltu h rs1 rs2 imm) 0 [rs1, rs2] (branch (fun a b => a.ult b) rs1 rs2 imm) s
/-- BGEU. -/
def execBgeu (h : Hart) (rs1 rs2 : BitVec 5) (imm : BitVec 15) (s : State) : Out :=
  issue h (.bgeu h rs1 rs2 imm) 0 [rs1, rs2] (branch (fun a b => !a.ult b) rs1 rs2 imm) s
/-- JAL. -/
def execJal (h : Hart) (rd : BitVec 5) (imm : BitVec 20) (s : State) : Out :=
  issue h (.jal h rd imm) 0 [rd] (bodyJal h.compact rd imm) s
/-- JALR. -/
def execJalr (h : Hart) (rd rs1 : BitVec 5) (imm : BitVec 15) (s : State) : Out :=
  issue h (.jalr h rd rs1 imm) 0 [rd, rs1] (bodyJalr h.compact rd rs1 imm) s

end Sys2Proof.Machine
end

