-- ==== Sys2Proof/Machine/Tiles.lean ====
section
/-!
DEFINITION. The tile instructions that access no memory (R143 to R147, R154, R155, R157 to R165), TCVT and TMMA among
them: statistics and the precision check.
-/
namespace Sys2Proof.Machine

/-! ### TCFG (R143, R144) -/

/-- The reason for which a descriptor is refused. -/
def descBad (s : State) (k : Nat) (d : BitVec 16) : Option Nat :=
  let rows := descRows d
  let fmt := descFmt d
  if 32 < rows then some 1
  else if slotBytes s k < rows * descWidth d then some 2
  else if 12 < fmt ∨ bits d.toNat 2 0 ≠ 0 ∨ descWidth d % widthMultiple fmt ≠ 0 then some 3
  else none

/-- A tile takes a descriptor. -/
def retile (d : BitVec 16) (t : Tile) : Tile :=
  if t.desc = d then t else { t with desc := d, data := [], scales := [], stats := 0 }

/-- TCFG. -/
def bodyTcfg (f : TCtlFields) (s : State) (k : Nat) : Res :=
  if f.rd ≠ 0 ∨ f.t ≠ 0 ∨ (f.rs1 = 31 ∧ 16 ≤ f.imm8.toNat) then illegal s
  else
    let sel := ((List.range 8).filter fun i => bit f.imm8.toNat i).map fun i =>
      (i, BitVec.ofNat 16 (bits (rx s k (f.rs1 + BitVec.ofNat 5 (i / 4))).toNat (16 * (i % 4) + 15) (16 * (i % 4))))
    match sel.findSome? fun x => (descBad s k x.2).map fun r => (r, x.1) with
    | some (reason, t) => tileFault s reason t
    | none => .done (sel.foldl (fun s x => modTile s k x.1 (retile x.2)) s)

/-! ### TSTAT, TSEED, TCFGR, TZERO (R147, R155, R137) -/

/-- TSTAT and TSTAT.C. -/
def bodyTstat (clear : Bool) (f : TCtlFields) (s : State) (k : Nat) : Res :=
  if f.rs1 ≠ 0 ∨ f.imm8 ≠ 0 then illegal s
  else
    let t := f.t.toNat
    let s1 := wx s k f.rd (tile s k t).stats
    .done (if clear then modTile s1 k t fun x => { x with stats := 0 } else s1)

/-- TSEED. -/
def bodyTseed (f : TCtlFields) (s : State) (k : Nat) : Res :=
  if f.rd ≠ 0 ∨ f.imm8 ≠ 0 then illegal s
  else
    let v : BitVec 32 := (rx s k f.rs1).setWidth 32
    .done (modTile s k f.t.toNat fun x => { x with lfsr := if v = 0 then 1 else v })

/-- TCFGR. -/
def bodyTcfgr (f : TCtlFields) (s : State) (k : Nat) : Res :=
  if f.rs1 ≠ 0 ∨ f.imm8 ≠ 0 ∨ 1 < f.t.toNat then illegal s
  else
    .done (wx s k f.rd (BitVec.ofNat 64 (packElems 16 ((List.range 4).map fun i => (tile s k (4 * f.t.toNat + i)).desc.toNat))))

/-- TZERO. -/
def bodyTzero (f : TCompFields) (s : State) (k : Nat) : Res :=
  if f.ta ≠ 0 ∨ f.tb ≠ 0 ∨ f.rs ≠ 0 ∨ f.scm ≠ 0 ∨ f.rnd ∨ f.z ≠ 0 then illegal s
  else if (unconfigured s k [f.td.toNat]).isSome then tileFault s 4 f.td.toNat
  else .done (modTile s k f.td.toNat fun x => { x with data := [], scales := [], stats := 0 })

/-- TCFG. -/
def execTcfg (h : Hart) (f : TCtlFields) (s : State) : Out := issue h (.tcfg h f) 2 (if 16 ≤ f.imm8.toNat then [f.rs1, f.rs1 + 1] else [f.rs1]) (bodyTcfg f) s
/-- TSTAT. -/
def execTstat (h : Hart) (f : TCtlFields) (s : State) : Out := issue h (.tstat h f) 2 [f.rd] (bodyTstat false f) s
/-- TSTAT.C. -/
def execTstatC (h : Hart) (f : TCtlFields) (s : State) : Out := issue h (.tstatC h f) 2 [f.rd] (bodyTstat true f) s
/-- TSEED. -/
def execTseed (h : Hart) (f : TCtlFields) (s : State) : Out := issue h (.tseed h f) 2 [f.rs1] (bodyTseed f) s
/-- TCFGR. -/
def execTcfgr (h : Hart) (f : TCtlFields) (s : State) : Out := issue h (.tcfgr h f) 2 [f.rd] (bodyTcfgr f) s
/-- TZERO. -/
def execTzero (h : Hart) (f : TCompFields) (s : State) : Out := issue h (.tzero h f) 2 [] (bodyTzero f) s

/-! ### Statistics and precision (R162 to R164) -/

/-- A statistics word from its fields (Table 7.8), each stopping at its largest value. -/
def statsOf (maxexp anan ainf : Nat) (c : Counts) (ovf : Bool) : W64 :=
  BitVec.ofNat 64 (b2n ovf + min c.nan 15 * 2 + min c.ufl 511 * 2 ^ 5 + min c.clip 1023 * 2 ^ 14 +
    min c.conv 65535 * 2 ^ 24 + min ainf 255 * 2 ^ 40 + min anan 255 * 2 ^ 48 + maxexp * 2 ^ 56)

/-- The conversion counts of a statistics word. -/
def statsCounts (w : W64) : Counts :=
  { conv := bits w.toNat 39 24, clip := bits w.toNat 23 14, ufl := bits w.toNat 13 5, nan := bits w.toNat 4 1 }

/-- A statistics word with the counts of a conversion added. -/
def statsAdd (w : W64) (c : Counts) : W64 :=
  statsOf (bits w.toNat 63 56) (bits w.toNat 55 48) (bits w.toNat 47 40) ((statsCounts w).add c) (bit w.toNat 0)

/-- The precision check (R164): STICKY, and a PRECISION record on the context's ring, which firmware forwards to
the governor. -/
def precisionCheck (s : State) (k t : Nat) (c : Counts) : State :=
  let w := (thr s k).sys.precision
  let thresh := bits w.toNat 15 0
  if thresh = 0 ∨ c.conv < bits w.toNat 31 16 ∨ c.clip * 65536 ≤ thresh * c.conv ∨ bit w.toNat 32 then s
  else
    let s := modSys s k fun y => { y with precision := y.precision ||| BitVec.ofNat 64 (2 ^ 32) }
    match bit w.toNat 33, ctxOf s k with
    | true, some ctx =>
      let s := recordCtx s (k / 64) 2 k ctx 10 (BitVec.ofNat 64 (k + t * 2 ^ 16)) (BitVec.ofNat 64 c.conv) (BitVec.ofNat 64 c.clip) 0 0
      { s with gov := { s.gov with precision := s.gov.precision ++ [(k, t)] } }
    | _, _ => s

/-- A narrowing conversion completes: its counts are added to tile `t` and checked (R135, R152). -/
def countConversion (s : State) (k t : Nat) (c : Counts) (lfsr : BitVec 32) : State :=
  precisionCheck (modTile s k t fun x => { x with stats := statsAdd x.stats c, lfsr := lfsr }) k t c

/-! ### TCVT (R154) -/

/-- TCVT. SCM is not looked at for INT8, which takes no scale (DEDUCED, log entry 39). -/
def bodyTcvt (f : TCompFields) (s : State) (k : Nat) : Res :=
  if f.tb ≠ 0 ∨ f.z ≠ 0 ∨ f.scm = 3 ∨ (f.scm ≠ 2 ∧ f.rs ≠ 0) then illegal s
  else
    let d := f.td.toNat
    match unconfigured s k [d, f.ta.toNat] with
    | some t => tileFault s 4 t
    | none =>
      let src := tile s k f.ta.toNat
      let dst := tile s k d
      let fmt := descFmt dst.desc
      let mf := tileMf fmt
      if f.td = f.ta then tileFault s 9 d
      else if descRows src.desc ≠ descRows dst.desc ∨ descElems src.desc ≠ descElems dst.desc then tileFault s 5 d
      else if descFmt src.desc = fmt then tileFault s 7 d
      else if !narrows mf && (f.scm != 0 || f.rnd) then illegal s
      else
        let xs := tileValues src
        if narrows mf then
          let r := narrowSeq mf f.scm.toNat ((rx s k f.rs).toNat % 256) f.rnd dst.lfsr xs
          .done (countConversion (modTile s k d fun t => putAll t r.1 r.2.1) k d r.2.2.2 r.2.2.1)
        else .done (modTile s k d fun t => putAll t (xs.map (plainElem fmt)) [])

/-- TCVT. -/
def execTcvt (h : Hart) (f : TCompFields) (s : State) : Out := issue h (.tcvt h f) 2 [f.rs] (bodyTcvt f) s

/-! ### TMMA (R157 to R162) -/

/-- The format of C that a pair of operand formats accumulates into (Table 7.7). -/
def pairTarget (a b : Nat) : Option Nat :=
  if a < 2 ∧ b < 2 then some 10
  else if 2 ≤ a ∧ a < 8 ∧ 2 ≤ b ∧ b < 8 then some 10
  else if a ≠ b then none
  else if a = 11 then some 12
  else if a = 8 ∨ a = 9 ∨ a = 10 then some 10
  else none

/-- The reason for which a TMMA is refused. -/
def tmmaBad (c a b : Tile) (same : Bool) : Option Nat :=
  if same then some 9
  else if descRows c.desc ≠ descRows a.desc ∨ descElems c.desc ≠ descRows b.desc ∨ descElems a.desc ≠ descElems b.desc then some 5
  else if pairTarget (descFmt a.desc) (descFmt b.desc) ≠ some (descFmt c.desc) then some 6
  else none

/-- TMMA joins the array's queue. -/
def bodyTmma (f : TCompFields) (s : State) (k : Nat) : Res :=
  if f.rs ≠ 0 ∨ f.scm ≠ 0 ∨ f.rnd ∨ f.z ≠ 0 then illegal s
  else match unconfigured s k [f.td.toNat, f.ta.toNat, f.tb.toNat] with
    | some t => tileFault s 4 t
    | none =>
      match tmmaBad (tile s k f.td.toNat) (tile s k f.ta.toNat) (tile s k f.tb.toNat) (f.td == f.ta || f.td == f.tb) with
      | some reason => tileFault s reason f.td.toNat
      | none =>
        let s := modCore s (k / 8) fun c => { c with array := c.array ++ [{ thr := k % 8, td := f.td, ta := f.ta, tb := f.tb }] }
        .wait (modThr s k fun t => { t with wait := some .tmma })

/-- TMMA. -/
def execTmma (h : Hart) (f : TCompFields) (s : State) : Out := issue h (.tmma h f) 2 [] (bodyTmma f) s

/-- Sum of exact values. -/
def fvSum (ps : List Fv) : Fv := ps.foldl Fv.add (.fin false 0 0)

/-- A product or a sum that is not finite: NaN, or the infinity that decides (step 2 of R159). -/
def special (ps : List Fv) : Option Fv :=
  let pos := ps.contains (.inf false)
  let neg := ps.contains (.inf true)
  if ps.any Fv.isNan || (pos && neg) then some .nan
  else if pos then some (.inf false) else if neg then some (.inf true) else none

/-- Round to binary32. -/
def round32 (x : Fv) : Fv := unpack f32 (pack f32 x)

/-- A zero sum is +0. -/
def plusZero : Fv → Fv
  | .fin n m e => if m = 0 then .fin false 0 0 else .fin n m e
  | x => x

/-- v_j of a block of elements without scale, and the two scales (steps 1 to 3 of R159). -/
def blockValue (as bs : List Fv) (sa sb : Nat) : Fv :=
  let ps := List.zipWith Fv.mul as bs
  if sa = 255 || sb = 255 || as.any Fv.isNan || bs.any Fv.isNan then .nan
  else match special ps with
    | some v => v
    | none => match fvSum ps with
      | .fin n m e => round32 (plusZero (.fin n m (e + sa + sb - 254)))
      | x => x

/-- floor(log2) of a non-zero finite product. -/
def exponentOf : Fv → Option Int
  | .fin _ m e => if m = 0 then none else some (e + m.log2)
  | _ => none

/-- A product truncated toward zero to a multiple of 2^q. -/
def truncTo (q : Int) : Fv → Fv
  | .fin n m e => if q ≤ e then .fin n m e else .fin n (m / 2 ^ (q - e).toNat) q
  | x => x

/-- v_g of a group of 8 bf16 or binary16 elements (R160). -/
def groupValue (as bs : List Fv) : Fv :=
  let ps := List.zipWith Fv.mul as bs
  match special ps with
  | some v => v
  | none =>
    match ps.filterMap exponentOf with
    | [] => .fin false 0 0
    | x :: xs =>
      let top := xs.foldl (fun a b => max a b) x
      round32 (plusZero (fvSum (ps.map (truncTo (top - 47)))))

/-- Elements of row `r` of a tile without scales. -/
def rawRow (t : Tile) (r : Nat) : List Fv := (List.range (descElems t.desc)).map fun i => elemValue (descFmt t.desc) (tileCode t r i)

/-- The scale byte of 32-element block `j` of row `r` (R126). -/
def blockScale (t : Tile) (r j : Nat) : Nat := if tileGroup (descFmt t.desc) = 64 then tileScale t r (j / 2) else tileScale t r j

/-- One output element in binary32: the code of C[m][n], after the operation. -/
def dotFloat (a b : Tile) (m n : Nat) (c : Nat) : Nat :=
  let fmt := descFmt a.desc
  let ra := rawRow a m
  let rb := rawRow b n
  let start := unpack f32 c
  let result :=
    if fmt < 8 then
      ((List.zip (runsOf 32 ra) (runsOf 32 rb)).zipIdx).foldl (fun acc p =>
        round32 (acc.add (blockValue p.1.1 p.1.2 (blockScale a m p.2) (blockScale b n p.2)))) start
    else if fmt = 10 then
      (List.zip ra rb).foldl (fun acc p => round32 (acc.add (p.1.mul p.2))) start
    else
      (List.zip (runsOf 8 ra) (runsOf 8 rb)).foldl (fun acc p => round32 (acc.add (groupValue p.1 p.2))) start
  pack f32 result

/-- One output element in INT32, and whether the exact value overflows (R161). -/
def dotInt (a b : Tile) (m n : Nat) (c : Nat) : Nat × Bool :=
  let prod (i : Nat) : Int := bitsInt 8 (tileCode a m i) * bitsInt 8 (tileCode b n i)
  let v : Int := bitsInt 32 c + ((List.range (descElems a.desc)).map prod).foldl (· + ·) 0
  (intBits 32 v, decide (v < -(2 ^ 31)) || decide (2 ^ 31 ≤ v))

/-- Significant bits of a magnitude. -/
def sigBits (v : Nat) : Nat := if v = 0 then 0 else v.log2 + 1

/-- MAXEXP, ANAN and AINF of a tile C (Table 7.8). -/
def accStats (c : Tile) : Nat × Nat × Nat :=
  let codes := (List.range (descRows c.desc)).flatMap fun r => (List.range (descElems c.desc)).map fun i => tileCode c r i
  if descFmt c.desc = 12 then ((codes.map fun v => sigBits (bitsInt 32 v).natAbs).foldl max 0, 0, 0)
  else
    let expo (v : Nat) : Nat := bits v 30 23
    ((codes.map fun v => if expo v = 255 then 0 else expo v).foldl max 0,
     (codes.filter fun v => (unpack f32 v).isNan).length,
     (codes.filter fun v => expo v == 255 && v % 2 ^ 23 == 0).length)

/-- C and its statistics word after a TMMA. -/
def tmmaResult (c a b : Tile) : Tile :=
  let m := descRows c.desc
  let n := descElems c.desc
  let cells := (List.range m).flatMap fun i => (List.range n).map fun j => (i, j)
  let out := if descFmt c.desc = 12 then cells.map fun x => dotInt a b x.1 x.2 (tileCode c x.1 x.2)
    else cells.map fun x => (dotFloat a b x.1 x.2 (tileCode c x.1 x.2), false)
  let c1 := putAll c (out.map (·.1)) []
  let st := accStats c1
  { c1 with stats := statsOf st.1 st.2.1 st.2.2 (statsCounts c.stats) (bit c.stats.toNat 0 || out.any (·.2)) }

/-- The oldest TMMA of a core's array completes (R158): its checks are those of R167 and R372. -/
def tmmaComplete (chk : Chk) (s : State) (c : Nat) : State :=
  match (core s c).array with
  | [] => s
  | j :: rest =>
    let k := c * 8 + j.thr
    let drop := modCore s c fun x => { x with array := rest }
    match chk with
    | .parity => parityEvent (modThr drop k fun t => { t with wait := none }) k 2
    | .permanent => permanentEvent s k 2
    | _ =>
      let d := j.td.toNat
      let s1 := completeWait (modTile drop k d fun x => tmmaResult x (tile s k j.ta.toNat) (tile s k j.tb.toNat)) k 4
      if chk = .transient then transientEvent s1 k 2 else s1

/-- TMMA_COMPLETE (R158). -/
def execTmmaComplete (core : BitVec 11) (chk : Chk) (s : State) : Out := onCore core (tmmaComplete chk) s

end Sys2Proof.Machine
end

