-- ==== Sys2Proof/Machine/TileMem.lean ====
section
/-!
DEFINITION. TLOAD, TSTORE and TCBLD (R146 to R153), the stream-sourced TLOAD, and STREAM_WAIT_DONE (R116).
-/
namespace Sys2Proof.Machine

/-! ### Rows of an access (R148, R149) -/

/-- How a TLOAD or TSTORE lays its rows out. -/
structure Layout where
  mf : Nat
  rows : Nat
  elems : Nat
  base : W64
  strided : Bool
  stride : Int
  side : W64
  deriving DecidableEq, Repr

/-- Register `i` of the side group. -/
def sideReg (s : State) (k : Nat) (f : TMemFields) (i : Nat) : W64 := rx s k (f.rs2 + BitVec.ofNat 5 i)

/-- A form has side data in memory. -/
def hasSide (f : TMemFields) : Bool := (mfSide f.mf.toNat).isSome

/-- Registers of the side group that a form reads, by their place in it (R148): the stride, the side base, and the scale of
SCM = GIVEN, which stands behind both. -/
def groupRegs (f : TMemFields) (given : Bool) : List Nat :=
  (if f.d then [0] else []) ++ (if hasSide f then [b2n f.d] else []) ++ (if given then [1 + b2n f.d] else [])

/-- The registers that a form reads. -/
def memRegs (f : TMemFields) (given : Bool) : List (BitVec 5) := f.rs1 :: (groupRegs f given).map fun i => f.rs2 + BitVec.ofNat 5 i

/-- The layout of an access to a tile. -/
def layoutOf (s : State) (k : Nat) (f : TMemFields) (d : BitVec 16) : Layout :=
  { mf := f.mf.toNat, rows := descRows d, elems := descElems d, base := rx s k f.rs1, strided := f.d,
    stride := if f.d then (sideReg s k f 0).toInt else 0,
    side := if hasSide f then sideReg s k f (b2n f.d) else 0 }

/-- A form whose group passes x31, or whose unused rs2 is not zero (R148). -/
def groupBad (f : TMemFields) (given : Bool) : Bool :=
  if (groupRegs f given).isEmpty then f.rs2 != 0 else (groupRegs f given).any fun i => decide (31 < f.rs2.toNat + i)

/-- A base or stride that R149 refuses. -/
def misaligned (l : Layout) : Bool :=
  l.base.toNat % 8 != 0 || (l.strided && (l.stride % 8 != 0 || ((mfSide l.mf).isSome && l.stride % mfBlock l.mf != 0)))

/-- Address and length of a row's elements. -/
def rowElems (l : Layout) (r : Nat) : W64 × Nat :=
  let w := mfBits l.mf
  if l.strided then (l.base + BitVec.ofInt 64 (r * l.stride), (l.elems * w + 7) / 8)
  else (l.base + BitVec.ofNat 64 (r * l.elems * w / 8), ((r + 1) * l.elems * w + 7) / 8 - r * l.elems * w / 8)

/-- The first unit of side data that begins in a row, and how many do: with D = 0 the units run on over the ends of rows, and one is
moved with the row in which it begins; with D = 1 each row begins and ends its own (DEDUCED where a row holds no whole number of units,
log entry 39). -/
def rowUnits (l : Layout) (r : Nat) : Nat × Nat :=
  match mfSide l.mf with
  | none => (0, 0)
  | some (b, _) =>
    if l.strided then (0, (l.elems + b - 1) / b)
    else ((r * l.elems + b - 1) / b, ((r + 1) * l.elems + b - 1) / b - (r * l.elems + b - 1) / b)

/-- Address and length of a row's side data. -/
def rowSide (l : Layout) (r : Nat) : W64 × Nat :=
  match mfSide l.mf with
  | none => (0, 0)
  | some (_, q) =>
    let u := rowUnits l r
    if l.strided then (l.side + BitVec.ofInt 64 (r * (l.stride / mfBlock l.mf) * q), u.2 * q)
    else (l.side + BitVec.ofNat 64 (u.1 * q), u.2 * q)

/-! ### The rows of an instruction under way -/

/-- A span cut at lines: address and length of each piece. -/
def spanPieces (x : W64 × Nat) : List (W64 × Nat) := (pieces x.1.toNat x.2).map fun p => (x.1 + BitVec.ofNat 64 p.1, p.2)

/-- What the checks of a row find: its accesses; its first failure; a host page to ask for; or an access that transactions may not
contain. -/
inductive RowAt where
  | at (parts : List Part)
  | bad (e : Exn)
  | ask (log2 hostPage : Nat) (va : W64) (e : Exn)
  | abort

/-- Check some pieces in order and make accesses of them; `data` holds the bytes that a store writes. -/
def checkSpan (s : State) (k place : Nat) (acc : Acc) (side : Bool) (data : List Byte) : List (W64 × Nat) → RowAt
  | [] => .at []
  | (va, n) :: rest =>
    match checkPiece s k 2 place acc va 1 with
    | .at x =>
      match checkSpan s k place acc side (data.drop n) rest with
      | .at ps => .at ({ place := place, side := side, va := va, x := x, len := n, data := data.take n } :: ps)
      | r => r
    | .bad e => .bad e
    | .ask l h e => .ask l h va e
    | .abort => .abort

/-- Check every address of row `r`: elements, then side bytes, each from the lowest address up (R150). -/
def checkRow (s : State) (k t : Nat) (acc : Acc) (l : Layout) (r : Nat) (elems side : List Byte) : RowAt :=
  match checkSpan s k (rowPlace t r) acc false elems (spanPieces (rowElems l r)) with
  | .at pe =>
    match checkSpan s k (rowPlace t r) acc true side (spanPieces (rowSide l r)) with
    | .at ps => .at (pe ++ ps)
    | x => x
  | x => x

/-- The row that is checked and issued next. -/
def nextRow (j : Job) : Nat := match j.parts.getLast? with | some p => p.place % 2 ^ 22 / 2 ^ 16 + 1 | none => 0

/-- Where a tile access stands: every row is finished; it faults at the lowest row that failed, once those below are finished; or it
goes on. -/
def rowsEnd (l : Layout) (t k : Nat) (store : Bool) (fin : State → State) (s : State) : Res :=
  let j := jobOf s k
  if l.rows ≤ j.rows then .done (fin s)
  else match Tbl.get? j.bad (rowPlace t j.rows) with
    | some e => if store && !j.quiet then .hold s else .trap s e
    | none => .hold s

/-- Process rows in ascending order, up to a number of them (R150, R152): a row is issued after every lower one has passed its checks,
a row of a store once the lower ones are written, and none after a row that failed. A host page is asked for once the lower rows are
finished. `image` gives a stored row's element and side bytes. -/
def rowsGo (l : Layout) (t k : Nat) (store : Bool) (image : Nat → List Byte × List Byte) (fin : State → State) : Nat → State → Res
  | 0, s => rowsEnd l t k store fin s
  | n + 1, s =>
    match sendAll s k 2 store false with
    | .abort s1 c d node => .abort s1 c 0 d node
    | .ok s1 =>
      let j := jobOf s1 k
      let r := nextRow j
      if j.sent < j.parts.length || !j.bad.isEmpty || decide (l.rows ≤ r) || (store && decide (j.rows < r)) then rowsEnd l t k store fin s1
      else match checkRow s1 k t (if store then .write else .read) l r (image r).1 (image r).2 with
        | .abort => txIllegal s1
        | .bad e => rowsEnd l t k store fin (placeFailed s1 k (rowPlace t r) e)
        | .ask l2 h va e => if j.rows = r then .hold (askHost s1 k l2 h va store (.instr e)) else rowsEnd l t k store fin s1
        | .at ps =>
          match sendAll (modJob (notePieces s1 k (ps.map (·.va))) k fun j => { j with parts := j.parts ++ ps }) k 2 store false with
          | .abort s2 c d node => .abort s2 c 0 d node
          | .ok s2 => rowsGo l t k store image fin n s2

/-- The rows of a TLOAD or TSTORE; an interrupt or debug halt abandons it at once (R165). -/
def runRows (f : TMemFields) (l : Layout) (store : Bool) (image : Nat → List Byte × List Byte) (fin : State → State) (slots : Nat)
    (s : State) (k : Nat) : Res :=
  rowsGo l f.t.toNat k store image fin slots (modJob s k fun j => { j with kind := .rows f store, firm := false })

/-! ### TLOAD (R150) -/

/-- TLOAD. -/
def bodyTload (f : TMemFields) (slots : Nat) (s : State) (k : Nat) : Res :=
  let mf := f.mf.toNat
  let t := f.t.toNat
  if !mfValid mf || f.scm != 0 || f.rnd || f.z != 0 || groupBad f false then illegal s
  else if (unconfigured s k [t]).isSome then tileFault s 4 t
  else
    let d := (tile s k t).desc
    let l := layoutOf s k f d
    if !loadOk mf (tile s k t) then tileFault s 7 t
    else if 0x10 ≤ mf ∧ descWidth d ≠ 64 then tileFault s 3 t
    else if misaligned l then .trap s (placeExn 2 3 (tileInfo 0 t 0) l.base)
    else runRows f l false (fun _ => ([], [])) id slots s k

/-- TLOAD from memory. -/
def execTload (h : Hart) (f : TMemFields) (s : State) : Out :=
  issue h (.tload h f) 2 (memRegs f false) (bodyTload f h.slots) s

/-! ### TSTORE (R152) -/

/-- A store that Table 6.8 permits. -/
def storeOk (mf fmt : Nat) : Bool :=
  mf == tileMf fmt || (mf == 2 && fmt == 0) ||
    ((fmt == 8 || fmt == 9 || fmt == 10 || fmt == 12) && narrows mf) ||
    ((fmt == 10 || fmt == 12) && (mf == 9 || mf == 0xA))

/-- A store converts to a narrower form under SCM and RND. HF4 stored as MXFP4 takes neither (R138 calls it narrowing only for NaN;
DEDUCED, log entry 39). -/
def storeNarrows (mf fmt : Nat) : Bool := mf != tileMf fmt && narrows mf && !(mf == 2 && fmt == 0)

/-- The image of a stored tile: codes of every element, scale bytes by row, LFSR state and counts. -/
structure Image where
  codes : List Nat
  scales : List (List Nat)
  lfsr : BitVec 32
  counts : Counts
  deriving DecidableEq, Repr

/-- Codes and scale bytes of a row in its own form. -/
def ownRowImage (t : Tile) (r : Nat) : List Nat × List Nat :=
  let e := descElems t.desc
  let g := tileGroup (descFmt t.desc)
  ((List.range e).map fun i => tileCode t r i, if g = 0 then [] else (List.range (e / g)).map fun b => tileScale t r b)

/-- The image of an HF4 tile as MXFP4, block by block. -/
def mxRowImage (t : Tile) (r : Nat) : List Nat × List Nat × Counts :=
  let own := ownRowImage t r
  ((runsOf 32 own.1).zipIdx).foldl (fun (a : List Nat × List Nat × Counts) p =>
    let n := hf4ToMx p.1 (own.2.getD p.2 0)
    (a.1 ++ n.codes, a.2.1 ++ [n.scale], a.2.2.add n.counts)) ([], [], Counts.zero)

/-- The image of a tile stored in a memory format. Blocks are those of `rowUnits`, and a last block may be short (log entry 39). -/
def storeImage (l : Layout) (t : Tile) (scm given : Nat) (rnd : Bool) : Image :=
  let fmt := descFmt t.desc
  let rows := List.range l.rows
  if l.mf = tileMf fmt then
    { codes := rows.flatMap fun r => (ownRowImage t r).1, scales := rows.map fun r => (ownRowImage t r).2, lfsr := t.lfsr, counts := Counts.zero }
  else if l.mf = 2 ∧ fmt = 0 then
    { codes := rows.flatMap fun r => (mxRowImage t r).1, scales := rows.map fun r => (mxRowImage t r).2.1, lfsr := t.lfsr,
      counts := rows.foldl (fun a r => a.add (mxRowImage t r).2.2) Counts.zero }
  else if !narrows l.mf then
    { codes := (tileValues t).map (plainElem (mfTile l.mf)), scales := rows.map fun _ => [], lfsr := t.lfsr, counts := Counts.zero }
  else if l.strided then
    rows.foldl (fun (a : Image) r =>
      let n := narrowSeq l.mf scm given rnd a.lfsr ((List.range l.elems).map fun i => tileValue t r i)
      { codes := a.codes ++ n.1, scales := a.scales ++ [n.2.1], lfsr := n.2.2.1, counts := a.counts.add n.2.2.2 })
      { codes := [], scales := [], lfsr := t.lfsr, counts := Counts.zero }
  else
    let n := narrowSeq l.mf scm given rnd t.lfsr (tileValues t)
    { codes := n.1, scales := rows.map fun r => let u := rowUnits l r; (n.2.1.drop u.1).take u.2, lfsr := n.2.2.1, counts := n.2.2.2 }

/-- The bytes that a row of an image takes in memory. -/
def rowImage (l : Layout) (im : Image) (r : Nat) : List Byte :=
  let w := mfBits l.mf
  let n := (rowElems l r).2
  if l.strided then leBytes n (packElems w ((im.codes.drop (r * l.elems)).take l.elems))
  else leBytes n (packElems w im.codes / 2 ^ (8 * (r * l.elems * w / 8)))

/-- The elements and the side bytes of a stored row. -/
def rowBytes (l : Layout) (im : Image) (r : Nat) : List Byte × List Byte :=
  (rowImage l im r, (im.scales.getD r []).map (BitVec.ofNat 8))

/-- A store completes: its counts and LFSR state are written (R135, R137). -/
def storeEnds (mf fmt : Nat) (im : Image) (k t : Nat) (s : State) : State :=
  if storeNarrows mf fmt || im.counts != Counts.zero then countConversion s k t im.counts im.lfsr else s

/-- TSTORE. SCM is not looked at for INT8, which takes no scale (DEDUCED, log entry 39). -/
def bodyTstore (f : TMemFields) (slots : Nat) (s : State) (k : Nat) : Res :=
  let mf := f.mf.toNat
  let t := f.t.toNat
  let given := f.scm == 2
  if !mfValid mf || f.scm == 3 || f.q || f.z != 0 || groupBad f given then illegal s
  else if (unconfigured s k [t]).isSome then tileFault s 4 t
  else
    let x := tile s k t
    let fmt := descFmt x.desc
    let l := layoutOf s k f x.desc
    if !storeOk mf fmt then tileFault s 7 t
    else if !storeNarrows mf fmt && (f.scm != 0 || f.rnd) then illegal s
    else if misaligned l then .trap s (placeExn 2 3 (tileInfo 0 t 0) l.base)
    else
      let im := storeImage l x f.scm.toNat ((sideReg s k f (1 + b2n f.d)).toNat % 256) f.rnd
      runRows f l true (rowBytes l im) (storeEnds mf fmt im k t) slots s k

/-- TSTORE. -/
def execTstore (h : Hart) (f : TMemFields) (s : State) : Out :=
  issue h (.tstore h f) 2 (memRegs f (f.scm == 2)) (bodyTstore f h.slots) s

/-! ### TCBLD -/

/-- TCBLD: one all-or-nothing access, abandoned while it waits (R165). -/
def bodyTcbld (f : TCtlFields) (s : State) (k : Nat) : Res :=
  if f.rd ≠ 0 ∨ 1 < f.imm8.toNat then illegal s
  else
    let t := f.t.toNat
    runLanes s k 2 (if f.imm8 = 0 then 16 else 32) false false false [(tileInfo 0 t 0, rx s k f.rs1)] (fun _ => []) fun s j =>
      .done (modTile s k t fun x => { x with codebook := BitVec.ofNat 256 (leNat (Tbl.getD j.got 0 [])), cbBf16 := f.imm8 != 0 })

/-- TCBLD. -/
def execTcbld (h : Hart) (f : TCtlFields) (s : State) : Out := issue h (.tcbld h f) 2 [f.rs1] (bodyTcbld f) s

/-! ### TLOAD from a stream (R151) -/

/-- Take entries into rows, from row `r` on; a poisoned one stops at its row. -/
def takeRows (f : TMemFields) (k t q : Nat) : List Nat → State → Zres
  | [], s => .done s
  | r :: rest, s =>
    match headEntry s (k / 64) q with
    | none => .wait s
    | some e =>
      if e.poison then .fault (tileStreamExn 16 f r)
      else takeRows f k t q rest (modTile (takeHead s (k / 64) q) k t fun x => { x with data := Tbl.set x.data r (presented q e.data) })

/-- Rows that a stream can fill before its first poisoned entry. -/
def goodEntries (q : List SEntry) : Nat := (q.takeWhile fun e => !e.poison).length

/-- The effect of a stream-sourced TLOAD now: it takes nothing until ROWS entries are there. -/
def tloadStreamStep (s : State) (k : Nat) (f : TMemFields) : State × Zres :=
  let z := f.rs1.toNat % 8
  let t := f.t.toNat
  match boundTo s (k / 8) z with
  | .none => (s, .fault (tileStreamExn 13 f 0))
  | .output _ _ => (s, .fault (tileStreamExn 13 f 0))
  | .input q =>
    let rows := descRows (tile s k t).desc
    let ready := (squeue s (k / 64) q).q.takeWhile fun e => !e.marker
    if !(bench s (k / 64)).ssEn || decide (ready.length < rows) then (s, .wait (countStall s (k / 64) true q 0))
    else
      let n := min rows (goodEntries ready)
      match takeRows f k t q (List.range n) (markStream s k) with
      | .done s1 => if n < rows then (s1, .fault (tileStreamExn 16 f n)) else (s1, .done s1)
      | r => (s, r)

/-- TLOAD with Q = 1. -/
def bodyTloadStream (f : TMemFields) (s : State) (k : Nat) : Res :=
  let t := f.t.toNat
  let mf := f.mf.toNat
  if !mfValid mf || f.scm != 0 || f.rnd || f.z != 0 || f.d || f.rs2 != 0 || decide (8 ≤ f.rs1.toNat) then illegal s
  else if inTx s k then txIllegal s
  else if (unconfigured s k [t]).isSome then tileFault s 4 t
  else
    let d := (tile s k t).desc
    if tileGroup (descFmt d) ≠ 0 ∨ descWidth d ≠ 64 then tileFault s 10 t
    else if mf ≠ tileMf (descFmt d) then tileFault s 7 t
    else match tloadStreamStep s k f with
      | (_, .done s1) => .done s1
      | (s1, .fault e) => .trap s1 e
      | (_, .wait s1) => .wait (settleBench (modThr s1 k fun y => { y with wait := some (.tloadStream f) }) (k / 64))

/-- TLOAD from a stream queue. -/
def execTloadStream (h : Hart) (f : TMemFields) (s : State) : Out := issue h (.tloadStream h f) 2 [] (bodyTloadStream f) s

/-! ### STREAM_WAIT_DONE -/

/-- A waiting iteration of a REP.I completes: RPC falls by 1, and at 0 the thread goes on after the follower (R80,
R82). -/
def repWaitDone (s : State) (k : Nat) : State :=
  let s := modSys (modThr s k fun t => { t with wait := none }) k fun y => { y with rpc := y.rpc - 1 }
  let s := countInstret s k 1
  if (thr s k).sys.rpc = 0 then setPc s k ((thr s k).pc + 8) else s

/-- A thread's waiting stream instruction completes, faults, or waits on. -/
def streamWaitDone (s : State) (k : Nat) : State :=
  match (thr s k).wait with
  | some (.stream op f rep) =>
    match streamStep s k op f with
    | .done s1 => settleBench (if rep then repWaitDone s1 k else completeWait s1 k 4) (k / 64)
    | .fault e => faultWait s k e
    | .wait s1 => s1
  | some (.tloadStream f) =>
    match tloadStreamStep s k f with
    | (_, .done s1) => settleBench (completeWait s1 k 4) (k / 64)
    | (s1, .fault e) => faultWait s1 k e
    | (_, .wait s1) => s1
  | _ => s

/-- STREAM_WAIT_DONE (R116). -/
def execStreamWaitDone (core : BitVec 11) (thr : BitVec 3) (s : State) : Out := onThread core thr streamWaitDone s

end Sys2Proof.Machine
end

