-- ==== Sys2Proof/Machine/Repeat.lean ====
section
/-!
DEFINITION. The repeat prefix (R79 to R83).
-/
namespace Sys2Proof.Machine

/-- A follower that Table 3.12 permits: its engine, whether REP.N may run it, the registers that it names and its
own effect. -/
structure Follower where
  engine : Nat
  repN : Bool
  regs : List (BitVec 5)
  body : State → Nat → Res

/-- VDIV and VSQRT on a floating type. -/
def longVector (f : VFields) (fn : BitVec 4) : Bool := vFloat f.ty.toNat && (fn == 3 || fn == 8)

/-- The followers of Table 3.12; every other instruction is refused (R81). -/
def followerOf : Instr → Option Follower
  | .op _ fn rd a b => some ⟨0, true, [rd, a, b], bodyOp fn rd a b⟩
  | .op32 _ fn rd a b => some ⟨0, true, [rd, a, b], bodyOp32 fn rd a b⟩
  | .bits _ fn rd a b => some ⟨0, true, [rd, a], bodyBits fn rd a b⟩
  | .muldiv _ fn rd a b => some ⟨0, !isDivide fn, [rd, a, b], bodyMuldiv fn rd a b⟩
  | .addk _ rd a i => some ⟨0, true, [rd, a], bodyAddk rd a i⟩
  | .andk _ rd a i => some ⟨0, true, [rd, a], bodyAndk rd a i⟩
  | .ork _ rd a i => some ⟨0, true, [rd, a], bodyOrk rd a i⟩
  | .xork _ rd a i => some ⟨0, true, [rd, a], bodyXork rd a i⟩
  | .cmpltk _ rd a i => some ⟨0, true, [rd, a], bodyCmpltk rd a i⟩
  | .cmpltuk _ rd a i => some ⟨0, true, [rd, a], bodyCmpltuk rd a i⟩
  | .shk _ rd a i => some ⟨0, true, [rd, a], bodyShk rd a i⟩
  | .addk32 _ rd a i => some ⟨0, true, [rd, a], bodyAddk32 rd a i⟩
  | .lih _ rd i => some ⟨0, true, [rd], bodyLih rd i⟩
  | .pcaddh _ rd i => some ⟨0, true, [rd], bodyPcaddh rd i⟩
  | .lb _ rd a i => some ⟨0, false, [rd, a], bodyLoad 1 true rd a i⟩
  | .lh _ rd a i => some ⟨0, false, [rd, a], bodyLoad 2 true rd a i⟩
  | .lw _ rd a i => some ⟨0, false, [rd, a], bodyLoad 4 true rd a i⟩
  | .ld _ rd a i => some ⟨0, false, [rd, a], bodyLoad 8 true rd a i⟩
  | .lbu _ rd a i => some ⟨0, false, [rd, a], bodyLoad 1 false rd a i⟩
  | .lhu _ rd a i => some ⟨0, false, [rd, a], bodyLoad 2 false rd a i⟩
  | .lwu _ rd a i => some ⟨0, false, [rd, a], bodyLoad 4 false rd a i⟩
  | .loadx _ fn rd a b => some ⟨0, false, [rd, a, b], bodyLoadx fn rd a b⟩
  | .sb _ b a i => some ⟨0, false, [b, a], bodyStore 1 b a i⟩
  | .sh _ b a i => some ⟨0, false, [b, a], bodyStore 2 b a i⟩
  | .sw _ b a i => some ⟨0, false, [b, a], bodyStore 4 b a i⟩
  | .sd _ b a i => some ⟨0, false, [b, a], bodyStore 8 b a i⟩
  | .storex _ fn c a b => some ⟨0, false, [c, a, b], bodyStorex fn c a b⟩
  | .atomic _ fn rd a b => some ⟨0, false, [rd, a, b], bodyAtomic fn rd a b⟩
  | .varith _ f fn => some ⟨1, !longVector f fn, [], bodyVarith f fn⟩
  | .vfma _ f fn => some ⟨1, true, [], bodyVfma f fn⟩
  | .vcmp _ f fn => some ⟨1, true, [], bodyVcmp f fn⟩
  | .pand _ f => some ⟨1, true, [], bodyPred (fun a b => a &&& b) f⟩
  | .por _ f => some ⟨1, true, [], bodyPred (fun a b => a ||| b) f⟩
  | .pxor _ f => some ⟨1, true, [], bodyPred (fun a b => a ^^^ b) f⟩
  | .pandn _ f => some ⟨1, true, [], bodyPred (fun a b => a &&& ~~~ b) f⟩
  | .pwhile _ f => some ⟨1, true, [f.vs1, f.vs2], bodyPwhile f⟩
  | .pcount _ f => some ⟨1, true, [f.vd], bodyPcount f⟩
  | .vbcast _ f => some ⟨1, true, [f.vs1], bodyVbcast f⟩
  | .vext _ f => some ⟨1, true, [f.vd, f.vs2], bodyVext f⟩
  | .vins _ f => some ⟨1, true, [f.vs1, f.vs2], bodyVins f⟩
  | .vcvt _ f => some ⟨1, true, [], bodyVcvt f⟩
  | .vperm _ f => some ⟨1, true, [], bodyVperm f⟩
  | .vredsum _ f => some ⟨1, false, [], bodyVred 0 f⟩
  | .vredmin _ f => some ⟨1, false, [], bodyVred 1 f⟩
  | .vredmax _ f => some ⟨1, false, [], bodyVred 2 f⟩
  | .vld _ f => some ⟨1, false, [f.vs1, f.vs2], bodyVload false false f⟩
  | .vst _ f => some ⟨1, false, [f.vs1, f.vs2], bodyVstore false false f⟩
  | .vlds _ f => some ⟨1, false, [f.vs1, f.vs2], bodyVload true false f⟩
  | .vsts _ f => some ⟨1, false, [f.vs1, f.vs2], bodyVstore true false f⟩
  | .vldb _ f => some ⟨1, false, [f.vs1, f.vs2], bodyVldb f⟩
  | .vld2 _ f => some ⟨1, false, [f.vs1, f.vs2], bodyVload false true f⟩
  | .vst2 _ f => some ⟨1, false, [f.vs1, f.vs2], bodyVstore false true f⟩
  | .vgather h f => some ⟨1, false, [f.vs1], bodyGather false f h.slots⟩
  | .vscatter h f => some ⟨1, false, [f.vs1], bodyGather true f h.slots⟩
  | .vzget _ f => some ⟨1, false, [], bodyStream .get (f.pg == 0) f⟩
  | .vzput _ f => some ⟨1, false, [], bodyStream .put (f.pg == 0) f⟩
  | .vzpeek _ f => some ⟨1, false, [], bodyStream .peek (f.pg == 0) f⟩
  | .vzpoll _ f => some ⟨1, false, [], bodyVzpoll f⟩
  | .vzfma _ f fn => some ⟨1, false, [], bodyStream (.fma fn) (fmaOk f.ty.toNat fn.toNat) f⟩
  | .cinc _ rd a b => some ⟨3, false, [a, b], bodyCinc false rd a b⟩
  | .cincB _ rd a b => some ⟨3, false, [a, b], bodyCinc true rd a b⟩
  | .cdec _ rd a b => some ⟨3, false, [a, b], bodyCdec rd a b⟩
  | _ => none

/-- The follower's fields are refused (R81): its effect would be ILLEGAL, whatever VPROG holds. -/
def followerReserved (s : State) (k : Nat) (f : Follower) : Bool :=
  match f.body (modSys (modThr s k fun t => { t with job := none }) k fun y => { y with vprog := 0 }) k with
  | .trap _ e => e.code == 1
  | _ => false

/-- The PC is the prefix's between iterations, and the follower's own within one. -/
def backAt (p : W64) (k : Nat) (s : State) : State := if (thr s k).pc = p + 4 then setPc s k p else s

/-- A follower's outcome as the prefix sees it: the PC back at the prefix, and a stream wait marked. -/
def backRes (p : W64) (k : Nat) : Res → Res
  | .done s => .done (backAt p k s)
  | .jump s pc => .jump s pc
  | .trap s e => .trap (backAt p k s) e
  | .trapNext s e => .trapNext (backAt p k s) e
  | .hold s => .hold (backAt p k s)
  | .wait s =>
    .wait (modThr (backAt p k s) k fun t =>
      { t with wait := match t.wait with | some (.stream op f _) => some (.stream op f true) | w => w })
  | .abort s c u d n => .abort (backAt p k s) c u d n
  | .ends s => .ends (backAt p k s)

/-- One iteration (R80, R82): whether it completed. `enc` holds the bytes of the prefix and of its follower. -/
def repOnce (f : Follower) (chk : Chk) (p : W64) (enc : List Byte) (s : State) (k : Nat) : Bool × State :=
  match chk with
  | .parity => (false, parityEvent s k f.engine)
  | .permanent => (false, permanentEvent s k f.engine)
  | _ =>
    let m := meetChk s k chk
    if !m.2 then (false, m.1)
    else
    let s := m.1
    match backRes p k (f.body (setPc s k (p + 4)) k) with
    | .done s1 =>
      let s2 := countInstret (modSys (dropJob s1 k) k fun y => { y with rpc := y.rpc - 1 }) k 1
      let s3 := if (thr s2 k).sys.rpc = 0 then setPc s2 k (p + BitVec.ofNat 64 enc.length) else s2
      (true, if chk = .transient then transientEvent s3 k f.engine else s3)
    | r => (false, applyRes k enc.length enc r)

/-- Iterations, up to a number of them: an iteration under way goes on first, and between those of a REP.I the thread stops for what
waits at the boundary. -/
def repLoop (f : Follower) (repN : Bool) (p : W64) (enc : List Byte) (k : Nat) : Nat → Chk → State → State
  | 0, _, s => s
  | n + 1, chk, s =>
    if (thr s k).sys.rpc = 0 then s
    else if (thr s k).job.isNone && ((!repN && !canIssue s k) || f.regs.any (busyReg s k)) then s
    else
      let r := repOnce f chk p enc s k
      if r.1 then repLoop f repN p enc k n .pass r.2 else r.2

/-- The count that a prefix names, where it is not refused (R79). -/
def repCount (s : State) (k : Nat) (repN src : Bool) (rs1 : BitVec 5) (count : BitVec 16) : Option Nat :=
  let n := if src then (rx s k rs1).toNat else count.toNat
  if (if repN then 64 else 65535) < n then none else some n

/-- A prefix whose follower has been fetched runs (R80, R81). A count of 0 skips the follower and adds nothing to INSTRET: R80 says
of iterations only that each retires as one instruction (DESIGN CHOICE, log entry 33). -/
def repRun (repN : Bool) (h : Hart) (src : Bool) (z : BitVec 2) (rs1 : BitVec 5) (count : BitVec 16) (follower : Instr) (chk : Chk)
    (enc : List Byte) (s : State) (k : Nat) : State :=
  let p := (thr s k).pc
  let bad := faultAt s k (scalarExn 1 0) p
  let iterations := if repN then 64 else h.slots
  match followerOf follower with
  | none => bad
  | some f =>
    if (repN && !f.repN) || z != 0 || (src && count != 0) || followerReserved s k f then bad
    else
      let rpc := (thr s k).sys.rpc.toNat
      if rpc ≠ 0 then
        if repN ∧ 64 < rpc then bad else repLoop f repN p enc k iterations chk s
      else if src && busyReg s k rs1 then s
      else match repCount s k repN src rs1 count with
        | none => bad
        | some 0 => setPc s k (p + BitVec.ofNat 64 enc.length)
        | some n =>
          if f.regs.any (busyReg s k) then s
          else repLoop f repN p enc k iterations chk (modSys s k fun y => { y with rpc := BitVec.ofNat 16 n })

/-- A prefix with its follower (R80): both are fetched, and each is the one commanded, or is refused at the prefix where it is
reserved or a prefix itself. -/
def repThread (repN : Bool) (h : Hart) (src : Bool) (z : BitVec 2) (rs1 : BitVec 5) (count : BitVec 16) (follower : Instr) (s : State) : State :=
  let k := h.core.toNat * 8 + h.thr.toNat
  let p := (thr s k).pc
  match follower.hart? with
  | none => s
  | some fh =>
    let enc := wordBytes (encRep { ni := repN, src := src, z := z, rs1 := rs1, count := count }) ++ instrBytes follower
    let go := repRun repN h src z rs1 count follower fh.chk enc s k
    match (thr s k).job with
    | some j => if j.enc = enc ∧ canGoOn s k then go else s
    | none =>
      if !canIssue s k then s
      else fetched s k h (.rep { ni := repN, src := src, z := z, rs1 := rs1, count := count }) p
        (fetchThen s k fh.compact (p + 4) go fun a b =>
          match decodeAt fh a b with
          | .instr d => if d = follower then go else s
          | _ => faultAt s k (scalarExn 1 0) p)

/-- REP.I (R80). -/
def execRepI (h : Hart) (src : Bool) (z : BitVec 2) (rs1 : BitVec 5) (count : BitVec 16) (follower : Instr) (s : State) : Out :=
  .next (if isCore h.core.toNat then repThread false h src z rs1 count follower s else s)
/-- REP.N (R83). -/
def execRepN (h : Hart) (src : Bool) (z : BitVec 2) (rs1 : BitVec 5) (count : BitVec 16) (follower : Instr) (s : State) : Out :=
  .next (if isCore h.core.toNat then repThread true h src z rs1 count follower s else s)

end Sys2Proof.Machine
end

