-- ==== Sys2Proof/Machine/Sideband.lean ====
section
/-!
DEFINITION. The SMBus target (R455, Table 23.10), and the DOE mailbox of a PF with its responder of DMTF SPDM 1.2 (R318,
R427, R428). The message formats are those of DMTF DSP0274 and of the PCIe DOE capability (PRESUMED, log entry 21).
-/
namespace Sys2Proof.Machine

/-! ### SMBus (R455) -/

/-- A read that hardware serves in every state from the end of step 2, or that firmware serves while it runs. -/
def smbusRead (byFirmware : Bool) (len v : Nat) (s : State) : State :=
  if dark s then s
  else modDev s fun d => { d with smbus := leBytes len (if byFirmware ∧ d.fwState ≠ 3 then 0 else v) }

/-- The highest bench sensor reading, in 1/16 °C. -/
def highestReading (s : State) : Int :=
  let ts := (benches.filter fun n => (node s n).tempValid).map fun n => (node s n).temp.toInt
  ts.foldl max (ts.headD 0)

/-- SMBUS_TEMPERATURE, code 0x00. -/
def execSmbusTemperature (s : State) : Out := .next (smbusRead false 2 (highestReading s % 65536).toNat s)
/-- SMBUS_POWER, code 0x01. -/
def execSmbusPower (s : State) : Out := .next (smbusRead true 2 (s.gov.power / 1000 % 65536) s)
/-- SMBUS_FW_STATE, code 0x02. -/
def execSmbusFwState (s : State) : Out := .next (smbusRead false 1 s.dev.fwState.toNat s)
/-- SMBUS_HEARTBEAT, code 0x03. -/
def execSmbusHeartbeat (s : State) : Out := .next (smbusRead true 8 s.dev.heartbeat.toNat s)
/-- SMBUS_UPTIME, code 0x04. -/
def execSmbusUptime (s : State) : Out := .next (smbusRead true 8 s.dev.uptime.toNat s)

/-- ALERT_N is asserted, for whichever cause (R393, R426, R449). -/
def alertAsserted (s : State) : Bool := s.dev.alertHold || s.dev.alertFw || s.dev.alertHref

/-- SMBUS_ALERTS, code 0x05. -/
def execSmbusAlerts (s : State) : Out :=
  .next (smbusRead false 1 (b2n s.dev.thermtrip + b2n (alertAsserted s) * 2 + b2n (!s.gov.held.isEmpty) * 4) s)

/-! ### The DOE mailbox (R318) -/

/-- A DOE object of the PCI-SIG's own types: 0 discovery, 1 CMA/SPDM. -/
def doeObject (ty : Nat) (payload : List Byte) : List Byte :=
  let dw := (payload.length + 3) / 4
  leBytes 2 1 ++ leBytes 2 ty ++ leBytes 4 (dw + 2) ++ payload ++ List.replicate (dw * 4 - payload.length) 0

/-- A PF's mailbox answers: its port is reached, and boot ROM or firmware serves it (R427). -/
def doeServed (s : State) (p : Nat) : Bool := hostReaches s p && !dark s && s.dev.fwState != 1

/-- DOE_DISCOVERY: the object types that the mailbox carries, by index. -/
def doeDiscovery (p index : Nat) (s : State) : State :=
  if !doeServed s p then s
  else answerHost s p 0 (doeObject 0 (
    if index = 0 then leBytes 2 1 ++ [0, 1] else if index = 1 then leBytes 2 1 ++ [1, 0] else leBytes 2 0xFFFF ++ [0, 0]))

/-- DOE_DISCOVERY (R318). -/
def execDoeDiscovery (port : BitVec 1) (index : BitVec 8) (s : State) : Out := .next (doeDiscovery port.toNat index.toNat s)

/-! ### SPDM messages (R427) -/

/-- Octet of a request. -/
def rq (req : List Byte) (i : Nat) : Nat := (req.getD i 0).toNat

/-- An ERROR message of version 1.2. -/
def spdmError (code data : Nat) : List Byte := [0x12, 0x7F, BitVec.ofNat 8 code, BitVec.ofNat 8 data]

/-- The request codes that the responder serves. -/
def spdmServed : List Nat := [0x84, 0xE1, 0xE3, 0x81, 0x82, 0x83, 0xE0]

/-- The outcome of a request: an ERROR, or an answer with the exchange after it. -/
inductive Spdm where
  | error (code : Nat)
  | answer (bytes : List Byte) (s : State)

/-- A request at a PF's mailbox: one that the row does not name is not this step; an unserved code is answered with
UnsupportedRequest; then the version, the exchange's state and the length are checked. -/
def spdmStep (code ver least most len : Nat) (p : Nat) (req : List Byte) (body : State → Spdm) (s : State) : State :=
  let send (s : State) (b : List Byte) : State := answerHost s p 0 (doeObject 1 b)
  if !doeServed s p then s
  else if !spdmServed.contains (rq req 1) then send s (spdmError 0x07 (rq req 1))
  else if rq req 1 ≠ code then s
  else if req.length < 4 ∨ rq req 0 ≠ ver then send s (spdmError 0x41 0)
  else if (port s p).spdm < least ∨ most < (port s p).spdm then send s (spdmError 0x04 0)
  else if req.length < len then send s (spdmError 0x01 0)
  else match body s with
    | .error e => send s (spdmError e 0)
    | .answer b s => send s b

/-- The exchange goes to a state, and a pair of messages joins the first three. -/
def toVca (p st : Nat) (req ans : List Byte) (s : State) : Spdm :=
  .answer ans (modPort s p fun x => { x with spdm := st, vca := x.vca ++ req ++ ans, msgB := [], msgL := [] })

/-- GET_VERSION: version 1.2, and a new exchange. -/
def getVersion (p : Nat) (req : List Byte) (s : State) : Spdm :=
  toVca p 1 req [0x10, 0x04, 0, 0, 0, 1, 0x00, 0x12] (modPort s p fun x => { x with vca := [] })

/-- GET_VERSION (R427). -/
def execGetVersion (port : BitVec 1) (req : List (BitVec 8)) (s : State) : Out :=
  .next (spdmStep 0x84 0x10 0 3 4 port.toNat req (getVersion port.toNat req) s)

/-- CERT_CAP, CHAL_CAP and MEAS_CAP with signatures. -/
def spdmCaps : Nat := 2 ^ 1 + 2 ^ 2 + 2 * 2 ^ 3

/-- GET_CAPABILITIES. -/
def getCapabilities (p : Nat) (req : List Byte) (s : State) : Spdm :=
  let n (i : Nat) : Nat := (Config.spdmLimit i).toNat
  toVca p 2 req ([0x12, 0x61, 0, 0, 0, BitVec.ofNat 8 (n 0), 0, 0] ++ leBytes 4 spdmCaps ++ leBytes 4 (n 1) ++ leBytes 4 (n 2)) s

/-- GET_CAPABILITIES (R427). -/
def execGetCapabilities (port : BitVec 1) (req : List (BitVec 8)) (s : State) : Out :=
  .next (spdmStep 0xE1 0x12 1 1 20 port.toNat req (getCapabilities port.toNat req) s)

/-- NEGOTIATE_ALGORITHMS: TPM_ALG_RSAPSS_3072 and TPM_ALG_SHA_256, each taken where the requester offers it. -/
def negotiateAlgorithms (p : Nat) (req : List Byte) (s : State) : Spdm :=
  let spec := bit (rq req 6) 0
  let asym := bit (rq req 8) 3
  let hash := bit (rq req 12) 0
  toVca p 3 req ([0x12, 0x63, 0, 0] ++ leBytes 2 36 ++ [BitVec.ofNat 8 (b2n spec), 0] ++ leBytes 4 (if spec then 2 else 0) ++
    leBytes 4 (if asym then 8 else 0) ++ leBytes 4 (b2n hash) ++ List.replicate 16 0) s

/-- NEGOTIATE_ALGORITHMS (R427). -/
def execNegotiateAlgorithms (port : BitVec 1) (req : List (BitVec 8)) (s : State) : Out :=
  .next (spdmStep 0xE3 0x12 2 2 32 port.toNat req (negotiateAlgorithms port.toNat req) s)

/-! ### Certificates (R427) -/

/-- The octets of the certificate chain of slot 0 from an offset. -/
def certSpan (off len : Nat) : List Byte := (List.range len).map fun i => Config.certOctet (off + i)

/-- The digest of the certificate chain. -/
def chainDigest : List Byte := sha256 (certSpan 0 Config.certLength)

/-- A pair of messages about certificates joins what a CHALLENGE signs; a measurement exchange ends. -/
def toCerts (p : Nat) (req ans : List Byte) (s : State) : Spdm :=
  .answer ans (modPort s p fun x => { x with msgB := x.msgB ++ req ++ ans, msgL := [] })

/-- GET_DIGESTS: slot 0 alone. -/
def getDigests (p : Nat) (req : List Byte) (s : State) : Spdm := toCerts p req ([0x12, 0x01, 0, 1] ++ chainDigest) s

/-- GET_DIGESTS (R427). -/
def execGetDigests (port : BitVec 1) (req : List (BitVec 8)) (s : State) : Out :=
  .next (spdmStep 0x81 0x12 3 3 4 port.toNat req (getDigests port.toNat req) s)

/-- GET_CERTIFICATE: a portion of the chain of slot 0. -/
def getCertificate (p : Nat) (req : List Byte) (s : State) : Spdm :=
  let off := leNat ((req.drop 4).take 2)
  let want := leNat ((req.drop 6).take 2)
  if rq req 2 % 16 ≠ 0 ∨ Config.certLength ≤ off then .error 0x01
  else
    let n := min want (Config.certLength - off)
    toCerts p req ([0x12, 0x02, 0, 0] ++ leBytes 2 n ++ leBytes 2 (Config.certLength - off - n) ++ certSpan off n) s

/-- GET_CERTIFICATE (R427). -/
def execGetCertificate (port : BitVec 1) (req : List (BitVec 8)) (s : State) : Out :=
  .next (spdmStep 0x82 0x12 3 3 8 port.toNat req (getCertificate port.toNat req) s)

/-! ### Measurements (R428, Table 21.11) -/

/-- The SET_POLICY parameters, ascending. -/
def policyNumbersAll : List Nat :=
  [0x0001, 0x0002] ++ (List.range 9).map (0x0100 + ·) ++ (List.range 14).map (0x0200 + ·) ++ [0x0300, 0x0301]

/-- Digest of a measurement block. -/
def measured (s : State) (i : Nat) : List Byte :=
  let none_ := List.replicate 32 (0 : Byte)
  match i with
  | 1 => (List.range 32).map Config.romDigest
  | 2 => if s.dev.image.isEmpty then none_ else sha256 s.dev.image
  | 3 => if s.dev.image.isEmpty then none_ else sha256 (policyNumbersAll.flatMap fun q => leBytes 8 q ++ leBytes 8 (policy s q))
  | 4 =>
    let hashes := (List.range 4).flatMap fun k => (Tbl.getD s.fuses.slots k []).map (·.toNat)
    (List.range 32).map (Config.stateDigest 4 (hashes ++ [s.fuses.revoke.toNat, s.fuses.rollback]))
  | _ => (List.range 32).map (Config.stateDigest 5 s.dev.fenceMap)

/-- Value type of a measurement block. -/
def measureType (i : Nat) : Byte := [0x00, 0x01, 0x03, 0x02, 0x02].getD (i - 1) 0

/-- A measurement block as MEASUREMENTS carries it. -/
def measureBlock (s : State) (i : Nat) : List Byte :=
  [BitVec.ofNat 8 i, 1] ++ leBytes 2 35 ++ [measureType i] ++ leBytes 2 32 ++ measured s i

/-! ### Signatures (R427) -/

/-- Octets of an ASCII text. -/
def ascii (t : String) : List Byte := t.toList.map fun c => BitVec.ofNat 8 c.toNat

/-- What a signature is made over: the prefix of version 1.2, the context in 36 octets, and the hash of the messages. -/
def signInput (context : String) (messages : List Byte) : List Byte :=
  let p := ascii "dmtf-spdm-v1.2.*"
  let c := ascii context
  p ++ p ++ p ++ p ++ List.replicate (36 - c.length) 0 ++ c ++ sha256 messages

/-- A signature by the identity key. -/
def signature (context : String) (messages : List Byte) : List Byte :=
  (List.range 384).map (Config.signOctet (sha256 (signInput context messages)))

/-- The nonce of an answer. -/
def nonce (k : Nat) : List Byte := (List.range 32).map (Config.nonceOctet k)

/-- The measurements that a CHALLENGE summarises: 1 the ROM and the image, 0xFF every one. -/
def summaryBlocks (ty : Nat) : Option (List Nat) :=
  if ty = 0 then some [] else if ty = 1 then some [1, 2] else if ty = 0xFF then some [1, 2, 3, 4, 5] else none

/-- CHALLENGE: the answer is signed over the exchange's messages, which then start again. -/
def challenge (p : Nat) (req : List Byte) (s : State) : Spdm :=
  match summaryBlocks (rq req 3) with
  | none => .error 0x01
  | some bs =>
    if rq req 2 ≠ 0 then .error 0x01
    else
      let sum := if bs.isEmpty then [] else sha256 (bs.flatMap (measureBlock s))
      let body := [0x12, 0x03, 0, 1] ++ chainDigest ++ nonce s.fresh ++ sum ++ [0, 0]
      let x := port s p
      let sig := signature "responder-challenge_auth signing" (x.vca ++ x.msgB ++ req ++ body)
      .answer (body ++ sig) (modPort { s with fresh := s.fresh + 1 } p fun x => { x with msgB := [], msgL := [] })

/-- CHALLENGE (R427). -/
def execChallenge (port : BitVec 1) (req : List (BitVec 8)) (s : State) : Out :=
  .next (spdmStep 0x83 0x12 3 3 36 port.toNat req (challenge port.toNat req) s)

/-- Blocks that a GET_MEASUREMENTS asks for: 0 their number alone, 0xFF all, else one. -/
def askedBlocks (op : Nat) : Option (List Nat) :=
  if op = 0 then some [] else if op = 0xFF then some [1, 2, 3, 4, 5] else if op ≤ 5 then some [op] else none

/-- GET_MEASUREMENTS: signed where the request asks for it. -/
def getMeasurements (p : Nat) (req : List Byte) (s : State) : Spdm :=
  let sign := bit (rq req 2) 0
  match askedBlocks (rq req 3) with
  | none => .error 0x01
  | some bs =>
    if sign ∧ (req.length < 37 ∨ rq req 36 % 16 ≠ 0) then .error 0x01
    else
      let rec_ := bs.flatMap (measureBlock s)
      let head : List Byte := [0x12, 0x60, if rq req 3 = 0 then 5 else 0, 0, BitVec.ofNat 8 bs.length]
      let body := head ++ leBytes 3 rec_.length ++ rec_ ++ nonce s.fresh ++ [0, 0]
      let x := port s p
      let sig := if sign then signature "responder-measurements signing" (x.vca ++ x.msgL ++ req ++ body) else []
      .answer (body ++ sig) (modPort { s with fresh := s.fresh + 1 } p fun x =>
        { x with msgB := [], msgL := if sign then [] else x.msgL ++ req ++ body })

/-- GET_MEASUREMENTS (R428). -/
def execGetMeasurements (port : BitVec 1) (req : List (BitVec 8)) (s : State) : Out :=
  .next (spdmStep 0xE0 0x12 3 3 4 port.toNat req (getMeasurements port.toNat req) s)

end Sys2Proof.Machine
end

