-- ==== Sys2Proof/Machine/Dispatch.lean ====
section
/-!
DEFINITION. One arm per command, each a direct call of its meaning.
-/
namespace Sys2Proof.Machine

/-- The effect of a command on everything but the queue. -/
def exec (i : Instr) (s : State) : Host.Outcome State Fault Refusal :=
  match i with
  | .op h fn rd rs1 rs2 => Sys2Proof.Machine.execOp h fn rd rs1 rs2 s
  | .op32 h fn rd rs1 rs2 => Sys2Proof.Machine.execOp32 h fn rd rs1 rs2 s
  | .bits h fn rd rs1 rs2 => Sys2Proof.Machine.execBits h fn rd rs1 rs2 s
  | .muldiv h fn rd rs1 rs2 => Sys2Proof.Machine.execMuldiv h fn rd rs1 rs2 s
  | .addk h rd rs1 imm => Sys2Proof.Machine.execAddk h rd rs1 imm s
  | .andk h rd rs1 imm => Sys2Proof.Machine.execAndk h rd rs1 imm s
  | .ork h rd rs1 imm => Sys2Proof.Machine.execOrk h rd rs1 imm s
  | .xork h rd rs1 imm => Sys2Proof.Machine.execXork h rd rs1 imm s
  | .cmpltk h rd rs1 imm => Sys2Proof.Machine.execCmpltk h rd rs1 imm s
  | .cmpltuk h rd rs1 imm => Sys2Proof.Machine.execCmpltuk h rd rs1 imm s
  | .shk h rd rs1 imm => Sys2Proof.Machine.execShk h rd rs1 imm s
  | .addk32 h rd rs1 imm => Sys2Proof.Machine.execAddk32 h rd rs1 imm s
  | .lih h rd imm => Sys2Proof.Machine.execLih h rd imm s
  | .pcaddh h rd imm => Sys2Proof.Machine.execPcaddh h rd imm s
  | .lb h rd rs1 imm => Sys2Proof.Machine.execLb h rd rs1 imm s
  | .lh h rd rs1 imm => Sys2Proof.Machine.execLh h rd rs1 imm s
  | .lw h rd rs1 imm => Sys2Proof.Machine.execLw h rd rs1 imm s
  | .ld h rd rs1 imm => Sys2Proof.Machine.execLd h rd rs1 imm s
  | .lbu h rd rs1 imm => Sys2Proof.Machine.execLbu h rd rs1 imm s
  | .lhu h rd rs1 imm => Sys2Proof.Machine.execLhu h rd rs1 imm s
  | .lwu h rd rs1 imm => Sys2Proof.Machine.execLwu h rd rs1 imm s
  | .loadx h fn rd rs1 rs2 => Sys2Proof.Machine.execLoadx h fn rd rs1 rs2 s
  | .sb h rs2 rs1 imm => Sys2Proof.Machine.execSb h rs2 rs1 imm s
  | .sh h rs2 rs1 imm => Sys2Proof.Machine.execSh h rs2 rs1 imm s
  | .sw h rs2 rs1 imm => Sys2Proof.Machine.execSw h rs2 rs1 imm s
  | .sd h rs2 rs1 imm => Sys2Proof.Machine.execSd h rs2 rs1 imm s
  | .storex h fn rs rs1 rs2 => Sys2Proof.Machine.execStorex h fn rs rs1 rs2 s
  | .beq h rs1 rs2 imm => Sys2Proof.Machine.execBeq h rs1 rs2 imm s
  | .bne h rs1 rs2 imm => Sys2Proof.Machine.execBne h rs1 rs2 imm s
  | .blt h rs1 rs2 imm => Sys2Proof.Machine.execBlt h rs1 rs2 imm s
  | .bge h rs1 rs2 imm => Sys2Proof.Machine.execBge h rs1 rs2 imm s
  | .bltu h rs1 rs2 imm => Sys2Proof.Machine.execBltu h rs1 rs2 imm s
  | .bgeu h rs1 rs2 imm => Sys2Proof.Machine.execBgeu h rs1 rs2 imm s
  | .jal h rd imm => Sys2Proof.Machine.execJal h rd imm s
  | .jalr h rd rs1 imm => Sys2Proof.Machine.execJalr h rd rs1 imm s
  | .atomic h fn rd rs1 rs2 => Sys2Proof.Machine.execAtomic h fn rd rs1 rs2 s
  | .srd h rd rs1 sr => Sys2Proof.Machine.execSrd h rd rs1 sr s
  | .swr h rd rs1 sr => Sys2Proof.Machine.execSwr h rd rs1 sr s
  | .srs h rd rs1 sr => Sys2Proof.Machine.execSrs h rd rs1 sr s
  | .src h rd rs1 sr => Sys2Proof.Machine.execSrc h rd rs1 sr s
  | .ecall h rd rs1 => Sys2Proof.Machine.execEcall h rd rs1 s
  | .ebreak h rd rs1 => Sys2Proof.Machine.execEbreak h rd rs1 s
  | .eret h rd rs1 => Sys2Proof.Machine.execEret h rd rs1 s
  | .wedgeL h rd rs1 => Sys2Proof.Machine.execWedgeL h rd rs1 s
  | .wedgeB h rd rs1 => Sys2Proof.Machine.execWedgeB h rd rs1 s
  | .wedgeD h rd rs1 => Sys2Proof.Machine.execWedgeD h rd rs1 s
  | .wedgeS h rd rs1 => Sys2Proof.Machine.execWedgeS h rd rs1 s
  | .repI h src z rs1 count follower => Sys2Proof.Machine.execRepI h src z rs1 count follower s
  | .repN h src z rs1 count follower => Sys2Proof.Machine.execRepN h src z rs1 count follower s
  | .tput h rd rs1 rs2 => Sys2Proof.Machine.execTput h rd rs1 rs2 s
  | .tputPlace core thr => Sys2Proof.Machine.execTputPlace core thr s
  | .tget h rd rs1 rs2 => Sys2Proof.Machine.execTget h rd rs1 rs2 s
  | .tgetDeliver core thr => Sys2Proof.Machine.execTgetDeliver core thr s
  | .ttryput h rd rs1 rs2 => Sys2Proof.Machine.execTtryput h rd rs1 rs2 s
  | .tpoll h rd rs1 rs2 => Sys2Proof.Machine.execTpoll h rd rs1 rs2 s
  | .tsetr h rd rs1 rs2 => Sys2Proof.Machine.execTsetr h rd rs1 rs2 s
  | .trel h rd rs1 rs2 => Sys2Proof.Machine.execTrel h rd rs1 rs2 s
  | .tinfo h rd rs1 rs2 => Sys2Proof.Machine.execTinfo h rd rs1 rs2 s
  | .tend h rd rs1 rs2 => Sys2Proof.Machine.execTend h rd rs1 rs2 s
  | .tendComplete core thr => Sys2Proof.Machine.execTendComplete core thr s
  | .interruptEntry core => Sys2Proof.Machine.execInterruptEntry core s
  | .deferredFault core thr => Sys2Proof.Machine.execDeferredFault core thr s
  | .loadResponse m ext => Sys2Proof.Machine.execLoadResponse m ext s
  | .writeAcknowledgement m => Sys2Proof.Machine.execWriteAcknowledgement m s
  | .varith h f fn => Sys2Proof.Machine.execVarith h f fn s
  | .vfma h f fn => Sys2Proof.Machine.execVfma h f fn s
  | .vcmp h f fn => Sys2Proof.Machine.execVcmp h f fn s
  | .pand h f => Sys2Proof.Machine.execPand h f s
  | .por h f => Sys2Proof.Machine.execPor h f s
  | .pxor h f => Sys2Proof.Machine.execPxor h f s
  | .pandn h f => Sys2Proof.Machine.execPandn h f s
  | .pwhile h f => Sys2Proof.Machine.execPwhile h f s
  | .pcount h f => Sys2Proof.Machine.execPcount h f s
  | .vld h f => Sys2Proof.Machine.execVld h f s
  | .vst h f => Sys2Proof.Machine.execVst h f s
  | .vlds h f => Sys2Proof.Machine.execVlds h f s
  | .vsts h f => Sys2Proof.Machine.execVsts h f s
  | .vldb h f => Sys2Proof.Machine.execVldb h f s
  | .vld2 h f => Sys2Proof.Machine.execVld2 h f s
  | .vst2 h f => Sys2Proof.Machine.execVst2 h f s
  | .vgather h f => Sys2Proof.Machine.execVgather h f s
  | .vscatter h f => Sys2Proof.Machine.execVscatter h f s
  | .vbcast h f => Sys2Proof.Machine.execVbcast h f s
  | .vext h f => Sys2Proof.Machine.execVext h f s
  | .vins h f => Sys2Proof.Machine.execVins h f s
  | .vcvt h f => Sys2Proof.Machine.execVcvt h f s
  | .vperm h f => Sys2Proof.Machine.execVperm h f s
  | .vredsum h f => Sys2Proof.Machine.execVredsum h f s
  | .vredmin h f => Sys2Proof.Machine.execVredmin h f s
  | .vredmax h f => Sys2Proof.Machine.execVredmax h f s
  | .vzget h f => Sys2Proof.Machine.execVzget h f s
  | .vzput h f => Sys2Proof.Machine.execVzput h f s
  | .vzpeek h f => Sys2Proof.Machine.execVzpeek h f s
  | .vzpoll h f => Sys2Proof.Machine.execVzpoll h f s
  | .vzfma h f fn => Sys2Proof.Machine.execVzfma h f fn s
  | .streamWaitDone core thr => Sys2Proof.Machine.execStreamWaitDone core thr s
  | .tload h f => Sys2Proof.Machine.execTload h f s
  | .tloadStream h f => Sys2Proof.Machine.execTloadStream h f s
  | .tstore h f => Sys2Proof.Machine.execTstore h f s
  | .tmma h f => Sys2Proof.Machine.execTmma h f s
  | .tmmaComplete core chk => Sys2Proof.Machine.execTmmaComplete core chk s
  | .tcvt h f => Sys2Proof.Machine.execTcvt h f s
  | .tzero h f => Sys2Proof.Machine.execTzero h f s
  | .tcfg h f => Sys2Proof.Machine.execTcfg h f s
  | .tstat h f => Sys2Proof.Machine.execTstat h f s
  | .tstatC h f => Sys2Proof.Machine.execTstatC h f s
  | .tseed h f => Sys2Proof.Machine.execTseed h f s
  | .tcbld h f => Sys2Proof.Machine.execTcbld h f s
  | .tcfgr h f => Sys2Proof.Machine.execTcfgr h f s
  | .patrolScrub core offset wrong => Sys2Proof.Machine.execPatrolScrub core offset wrong s
  | .gatherBufferWriteback core line => Sys2Proof.Machine.execGatherBufferWriteback core line s
  | .retentionExit node => Sys2Proof.Machine.execRetentionExit node s
  | .cinc h rd rs1 rs2 => Sys2Proof.Machine.execCinc h rd rs1 rs2 s
  | .cincB h rd rs1 rs2 => Sys2Proof.Machine.execCincB h rd rs1 rs2 s
  | .cdec h rd rs1 rs2 => Sys2Proof.Machine.execCdec h rd rs1 rs2 s
  | .cwait h rd rs1 rs2 => Sys2Proof.Machine.execCwait h rd rs1 rs2 s
  | .cwaitSatisfied core thr => Sys2Proof.Machine.execCwaitSatisfied core thr s
  | .cwaitPoll core thr => Sys2Proof.Machine.execCwaitPoll core thr s
  | .cread h rd rs1 rs2 => Sys2Proof.Machine.execCread h rd rs1 rs2 s
  | .counterApply m => Sys2Proof.Machine.execCounterApply m s
  | .quietLimitReached ctx => Sys2Proof.Machine.execQuietLimitReached ctx s
  | .contextDeadlock ctx => Sys2Proof.Machine.execContextDeadlock ctx s
  | .txb h rd rs1 rs2 => Sys2Proof.Machine.execTxb h rd rs1 rs2 s
  | .txe h rd rs1 rs2 => Sys2Proof.Machine.execTxe h rd rs1 rs2 s
  | .txa h rd rs1 rs2 => Sys2Proof.Machine.execTxa h rd rs1 rs2 s
  | .txAbort core thr => Sys2Proof.Machine.execTxAbort core thr s
  | .txRead m wrong => Sys2Proof.Machine.execTxRead m wrong s
  | .lockRequest core thr home => Sys2Proof.Machine.execLockRequest core thr home s
  | .watchCheck core thr home => Sys2Proof.Machine.execWatchCheck core thr home s
  | .txApply core thr home => Sys2Proof.Machine.execTxApply core thr home s
  | .watchRelease core thr home => Sys2Proof.Machine.execWatchRelease core thr home s
  | .groupOpen r => Sys2Proof.Machine.execGroupOpen r s
  | .groupClose r ext => Sys2Proof.Machine.execGroupClose r ext s
  | .portCreate h rd rs1 rs2 => Sys2Proof.Machine.execPortCreate h rd rs1 rs2 s
  | .portFree h rd rs1 rs2 => Sys2Proof.Machine.execPortFree h rd rs1 rs2 s
  | .portPop h rd rs1 rs2 => Sys2Proof.Machine.execPortPop h rd rs1 rs2 s
  | .dispatch h rd rs1 rs2 => Sys2Proof.Machine.execDispatch h rd rs1 rs2 s
  | .hset h rd rs1 rs2 => Sys2Proof.Machine.execHset h rd rs1 rs2 s
  | .chanOpen h rd rs1 rs2 => Sys2Proof.Machine.execChanOpen h rd rs1 rs2 s
  | .chanClose h rd rs1 rs2 => Sys2Proof.Machine.execChanClose h rd rs1 rs2 s
  | .send h rd rs1 rs2 => Sys2Proof.Machine.execSend h rd rs1 rs2 s
  | .tsend h rd rs1 rs2 => Sys2Proof.Machine.execTsend h rd rs1 rs2 s
  | .sendM h rd rs1 rs2 => Sys2Proof.Machine.execSendM h rd rs1 rs2 s
  | .sendEnd h rd rs1 rs2 => Sys2Proof.Machine.execSendEnd h rd rs1 rs2 s
  | .tsendEnd h rd rs1 rs2 => Sys2Proof.Machine.execTsendEnd h rd rs1 rs2 s
  | .publication m => Sys2Proof.Machine.execPublication m s
  | .sendRetry core thr => Sys2Proof.Machine.execSendRetry core thr s
  | .stallLimitExpiry core thr => Sys2Proof.Machine.execStallLimitExpiry core thr s
  | .streamEntry node queue => Sys2Proof.Machine.execStreamEntry node queue s
  | .creditReturn node queue => Sys2Proof.Machine.execCreditReturn node queue s
  | .select node unit => Sys2Proof.Machine.execSelect node unit s
  | .merge node unit => Sys2Proof.Machine.execMerge node unit s
  | .branch node unit => Sys2Proof.Machine.execBranch node unit s
  | .replicate node unit => Sys2Proof.Machine.execReplicate node unit s
  | .filter node unit => Sys2Proof.Machine.execFilter node unit s
  | .streamLoad r ext => Sys2Proof.Machine.execStreamLoad r ext s
  | .streamSection r => Sys2Proof.Machine.execStreamSection r s
  | .streamReconfig r ext => Sys2Proof.Machine.execStreamReconfig r ext s
  | .sectionAdvance region => Sys2Proof.Machine.execSectionAdvance region s
  | .drainComplete region => Sys2Proof.Machine.execDrainComplete region s
  | .drainLimitExpiry region => Sys2Proof.Machine.execDrainLimitExpiry region s
  | .haulLaunch w node ch value => Sys2Proof.Machine.execHaulLaunch w node ch value s
  | .haulCopy node ch => Sys2Proof.Machine.execHaulCopy node ch s
  | .haulFill node ch => Sys2Proof.Machine.execHaulFill node ch s
  | .qin node ch => Sys2Proof.Machine.execQin node ch s
  | .qout node ch => Sys2Proof.Machine.execQout node ch s
  | .descriptorCompletion node ch => Sys2Proof.Machine.execDescriptorCompletion node ch s
  | .haulStop w node complement value => Sys2Proof.Machine.execHaulStop w node complement value s
  | .flitHop node dir => Sys2Proof.Machine.execFlitHop node dir s
  | .meshReplay node dir => Sys2Proof.Machine.execMeshReplay node dir s
  | .bcRead m found => Sys2Proof.Machine.execBcRead m found s
  | .bcWrite m found => Sys2Proof.Machine.execBcWrite m found s
  | .bcFill m ext => Sys2Proof.Machine.execBcFill m ext s
  | .victimWriteback node m => Sys2Proof.Machine.execVictimWriteback node m s
  | .bcWritebackPass node line found => Sys2Proof.Machine.execBcWritebackPass node line found s
  | .bcWayen w node complement value => Sys2Proof.Machine.execBcWayen w node complement value s
  | .wayPowerDown node => Sys2Proof.Machine.execWayPowerDown node s
  | .skipLaunch w node value => Sys2Proof.Machine.execSkipLaunch w node value s
  | .skipTransfer quad ext => Sys2Proof.Machine.execSkipTransfer quad ext s
  | .skipCompletion quad => Sys2Proof.Machine.execSkipCompletion quad s
  | .hbmRead m wrong => Sys2Proof.Machine.execHbmRead m wrong s
  | .hbmWrite m wrong => Sys2Proof.Machine.execHbmWrite m wrong s
  | .homeAtomic m wrong => Sys2Proof.Machine.execHomeAtomic m wrong s
  | .writeBufferRetire stack => Sys2Proof.Machine.execWriteBufferRetire stack s
  | .hbmScrub stack offset wrong => Sys2Proof.Machine.execHbmScrub stack offset wrong s
  | .hbmRefresh stack => Sys2Proof.Machine.execHbmRefresh stack s
  | .eventRecord m => Sys2Proof.Machine.execEventRecord m s
  | .tailings ring => Sys2Proof.Machine.execTailings ring s
  | .dropped ring => Sys2Proof.Machine.execDropped ring s
  | .ringHeadPoll ring head => Sys2Proof.Machine.execRingHeadPoll ring head s
  | .msiXMessage ring => Sys2Proof.Machine.execMsiXMessage ring s
  | .hostWriteTimeout m => Sys2Proof.Machine.execHostWriteTimeout m s
  | .doorbell r value => Sys2Proof.Machine.execDoorbell r value s
  | .packetRead r words => Sys2Proof.Machine.execPacketRead r words s
  | .packetReadRetry r => Sys2Proof.Machine.execPacketReadRetry r s
  | .ringCtl r value => Sys2Proof.Machine.execRingCtl r value s
  | .evrCtl port value => Sys2Proof.Machine.execEvrCtl port value s
  | .bar2Read port fn offset len ext => Sys2Proof.Machine.execBar2Read port fn offset len ext s
  | .bar2Write port fn offset data ep => Sys2Proof.Machine.execBar2Write port fn offset data ep s
  | .atomicop port fn offset op bits operand compare => Sys2Proof.Machine.execAtomicop port fn offset op bits operand compare s
  | .frontWindowRead port fn offset len => Sys2Proof.Machine.execFrontWindowRead port fn offset len s
  | .apertureBase port value => Sys2Proof.Machine.execApertureBase port value s
  | .nodesel port value => Sys2Proof.Machine.execNodesel port value s
  | .apertureWrite port offset len value => Sys2Proof.Machine.execApertureWrite port offset len value s
  | .atsInvalidation port pasid base len => Sys2Proof.Machine.execAtsInvalidation port pasid base len s
  | .atsResponse req found r w page len => Sys2Proof.Machine.execAtsResponse req found r w page len s
  | .pageResponse req granted => Sys2Proof.Machine.execPageResponse req granted s
  | .pageRequestTimeout req => Sys2Proof.Machine.execPageRequestTimeout req s
  | .completionTimeout m => Sys2Proof.Machine.execCompletionTimeout m s
  | .d3hot port fn enter => Sys2Proof.Machine.execD3hot port fn enter s
  | .nop r => Sys2Proof.Machine.execNop r s
  | .launch r => Sys2Proof.Machine.execLaunch r s
  | .launchCompletion r ext => Sys2Proof.Machine.execLaunchCompletion r ext s
  | .signal r => Sys2Proof.Machine.execSignal r s
  | .wait r => Sys2Proof.Machine.execWait r s
  | .waitTimeout r => Sys2Proof.Machine.execWaitTimeout r s
  | .fence r => Sys2Proof.Machine.execFence r s
  | .fenceDone r => Sys2Proof.Machine.execFenceDone r s
  | .ctxCreate r ext => Sys2Proof.Machine.execCtxCreate r ext s
  | .ctxDestroy r => Sys2Proof.Machine.execCtxDestroy r s
  | .ctxReset r ext => Sys2Proof.Machine.execCtxReset r ext s
  | .map r => Sys2Proof.Machine.execMap r s
  | .unmap r => Sys2Proof.Machine.execUnmap r s
  | .copy r ext => Sys2Proof.Machine.execCopy r ext s
  | .fill r ext => Sys2Proof.Machine.execFill r ext s
  | .loadImage r ext => Sys2Proof.Machine.execLoadImage r ext s
  | .stop r => Sys2Proof.Machine.execStop r s
  | .getInfo r ext => Sys2Proof.Machine.execGetInfo r ext s
  | .setPolicy r => Sys2Proof.Machine.execSetPolicy r s
  | .getHistory r ext => Sys2Proof.Machine.execGetHistory r ext s
  | .fenceUnit r => Sys2Proof.Machine.execFenceUnit r s
  | .unfenceUnit r => Sys2Proof.Machine.execUnfenceUnit r s
  | .fwPush r ext => Sys2Proof.Machine.execFwPush r ext s
  | .takeover r => Sys2Proof.Machine.execTakeover r s
  | .resetDevice r => Sys2Proof.Machine.execResetDevice r s
  | .halt r => Sys2Proof.Machine.execHalt r s
  | .resume r => Sys2Proof.Machine.execResume r s
  | .readState r ext => Sys2Proof.Machine.execReadState r ext s
  | .linkTraining port t => Sys2Proof.Machine.execLinkTraining port t s
  | .linkTrainingRetry port t => Sys2Proof.Machine.execLinkTrainingRetry port t s
  | .linkRetrain port why t => Sys2Proof.Machine.execLinkRetrain port why t s
  | .linkFlit port f => Sys2Proof.Machine.execLinkFlit port f s
  | .replayRequest port seqno localEnd codewordBad => Sys2Proof.Machine.execReplayRequest port seqno localEnd codewordBad s
  | .linkWaitDiscard port m => Sys2Proof.Machine.execLinkWaitDiscard port m s
  | .remoteResponseTimeout m => Sys2Proof.Machine.execRemoteResponseTimeout m s
  | .incomingAccess m wrong => Sys2Proof.Machine.execIncomingAccess m wrong s
  | .reliabilityWindow => Sys2Proof.Machine.execReliabilityWindow s
  | .unitRecordFlush unit => Sys2Proof.Machine.execUnitRecordFlush unit s
  | .managementTick g => Sys2Proof.Machine.execManagementTick g s
  | .safetyLoop => Sys2Proof.Machine.execSafetyLoop s
  | .precisionLoop => Sys2Proof.Machine.execPrecisionLoop s
  | .voltageLoop => Sys2Proof.Machine.execVoltageLoop s
  | .cacheLoop => Sys2Proof.Machine.execCacheLoop s
  | .linkLoop => Sys2Proof.Machine.execLinkLoop s
  | .healthLoop => Sys2Proof.Machine.execHealthLoop s
  | .pacerCalibration node ticks => Sys2Proof.Machine.execPacerCalibration node ticks s
  | .referenceClockSwitch a b => Sys2Proof.Machine.execReferenceClockSwitch a b s
  | .hrefSwitch present => Sys2Proof.Machine.execHrefSwitch present s
  | .droopHold quad => Sys2Proof.Machine.execDroopHold quad s
  | .heartbeatWatchdog => Sys2Proof.Machine.execHeartbeatWatchdog s
  | .powerOn b => Sys2Proof.Machine.execPowerOn b s
  | .fuseBlow => Sys2Proof.Machine.execFuseBlow s
  | .powerOff => Sys2Proof.Machine.execPowerOff s
  | .railFault rail => Sys2Proof.Machine.execRailFault rail s
  | .deviceReset b => Sys2Proof.Machine.execDeviceReset b s
  | .portReset port cause => Sys2Proof.Machine.execPortReset port cause s
  | .flr port fn => Sys2Proof.Machine.execFlr port fn s
  | .benchGate node => Sys2Proof.Machine.execBenchGate node s
  | .idleEntry => Sys2Proof.Machine.execIdleEntry s
  | .deepIdleEntry => Sys2Proof.Machine.execDeepIdleEntry s
  | .idleExit => Sys2Proof.Machine.execIdleExit s
  | .deepIdleExit => Sys2Proof.Machine.execDeepIdleExit s
  | .thermtrip node reading => Sys2Proof.Machine.execThermtrip node reading s
  | .registerWrite w node offset len value => Sys2Proof.Machine.execRegisterWrite w node offset len value s
  | .guardTimeout node => Sys2Proof.Machine.execGuardTimeout node s
  | .paritySweep node bad => Sys2Proof.Machine.execParitySweep node bad s
  | .smbusTemperature => Sys2Proof.Machine.execSmbusTemperature s
  | .smbusPower => Sys2Proof.Machine.execSmbusPower s
  | .smbusFwState => Sys2Proof.Machine.execSmbusFwState s
  | .smbusHeartbeat => Sys2Proof.Machine.execSmbusHeartbeat s
  | .smbusUptime => Sys2Proof.Machine.execSmbusUptime s
  | .smbusAlerts => Sys2Proof.Machine.execSmbusAlerts s
  | .getVersion port req => Sys2Proof.Machine.execGetVersion port req s
  | .getCapabilities port req => Sys2Proof.Machine.execGetCapabilities port req s
  | .negotiateAlgorithms port req => Sys2Proof.Machine.execNegotiateAlgorithms port req s
  | .getDigests port req => Sys2Proof.Machine.execGetDigests port req s
  | .getCertificate port req => Sys2Proof.Machine.execGetCertificate port req s
  | .challenge port req => Sys2Proof.Machine.execChallenge port req s
  | .getMeasurements port req => Sys2Proof.Machine.execGetMeasurements port req s
  | .localStoreAccess m wrong => Sys2Proof.Machine.execLocalStoreAccess m wrong s
  | .holdEnd quad => Sys2Proof.Machine.execHoldEnd quad s
  | .pcieLinkUp port => Sys2Proof.Machine.execPcieLinkUp port s
  | .perstRelease port => Sys2Proof.Machine.execPerstRelease port s
  | .devRstNRelease => Sys2Proof.Machine.execDevRstNRelease s
  | .msiXUnmask port fn vector => Sys2Proof.Machine.execMsiXUnmask port fn vector s
  | .doeDiscovery port index => Sys2Proof.Machine.execDoeDiscovery port index s

end Sys2Proof.Machine
end

