-- ==== Sys2Proof/Safety.lean ====
section
/-!
DEFINITION. What counts as a safe run: the canonical form of every memory and set of the state, a run that stops neither
with a fault nor with a refusal, when a thread may issue an instruction, and what a frame leaves unchanged.
-/
namespace Sys2Proof
open Sys2Proof.Machine

/-- Every memory and set of marks is in its canonical form. -/
def MemoryOk (s : State) : Prop :=
  memWf s.hbm = true ∧ memWf s.ls = true ∧ memWf s.hostMem = true ∧
    NSet.wf s.hbmPoison = true ∧ NSet.wf s.lsPoison = true

/-- A step goes on. -/
def Goes (o : Host.Outcome State Fault Refusal) : Prop := ∃ t, o = .next t

/-- The key of the thread that an instruction belongs to: core × 8 + number. -/
def Hart.key (h : Hart) : Nat := h.core.toNat * 8 + h.thr.toNat

/-- A thread may issue an instruction that names the registers `regs` now: the core exists (R16), the thread runs, waits for
nothing and has no instruction under way, no register is still to be written by an access in flight (R182), and the unit's checks
find nothing (R371). -/
def Ready (h : Hart) (regs : List (BitVec 5)) (s : State) : Prop :=
  isCore h.core.toNat = true ∧ canIssue s h.key = true ∧ (thr s h.key).job = none ∧
    (∀ r ∈ regs, busyReg s h.key r = false) ∧ h.chk = .pass

/-- What a thread fetches at an address is the instruction that `want` gives (R58, R59): its fetch is permitted, and the halfwords
there decode to it, where the state holds them. -/
def Stands (h : Hart) (want : Decoded) (pc : W64) (s : State) : Prop :=
  match fetchInstr s h.key pc h.compact with
  | .bits a b => decodeAt h a b = want
  | .unseen => True
  | _ => False

/-- The instruction stands at its thread's PC. -/
def Fetches (i : Instr) (s : State) : Prop :=
  match i.hart? with
  | some h => Stands h (.instr i) (thr s h.key).pc s
  | none => False

/-- Every byte of memory reads in `t` as it reads in `s`: HBM, every local store, and what hosts were sent. -/
def SameMemory (s t : State) : Prop :=
  (∀ a, hbmByte t a = hbmByte s a) ∧ (∀ c o, storeByte t c o = storeByte s c o) ∧
    (∀ a, memGet t.hostMem a = memGet s.hostMem a)

/-- Every register of thread `k` but the x registers of `dests`, its program counter, and its system register INSTRET, is
in `t` as in `s`. -/
def SameRegs (k : Nat) (dests : List (BitVec 5)) (s t : State) : Prop :=
  (∀ r, r ∉ dests → rx t k r = rx s k r) ∧ (∀ r, rv t k r = rv s k r) ∧ (∀ r, rp t k r = rp s k r) ∧
    { (thr t k).sys with instret := 0 } = { (thr s k).sys with instret := 0 } ∧ (thr t k).run = (thr s k).run ∧
    (thr t k).tx = (thr s k).tx ∧ (thr t k).tiles = (thr s k).tiles ∧ (thr t k).chans = (thr s k).chans ∧
    (thr t k).handles = (thr s k).handles ∧ (thr t k).staged = (thr s k).staged ∧ (thr t k).wait = (thr s k).wait

/-- Every thread but `k` is in `t` as in `s`, but for a break notice that waits for it (R223). -/
def SameOthers (k : Nat) (s t : State) : Prop :=
  ∀ j, j ≠ k → { thr t j with aborts := [] } = { thr s j with aborts := [] }

/-- Thread of `h` may access `n` bytes at `va` of its core's own store through the self window (Table 1.5): it runs below P2
in a context and outside transactions, the address is aligned and below the reserved area (R173), no access of its own in
flight shares the line (R183), no commit holds the line (R228), and the line is not poisoned. -/
def OwnStore (h : Hart) (va : W64) (n : Nat) (write : Bool) (s : State) : Prop :=
  let t := Target.store h.core.toNat va.toNat
  lvlOf s h.key < 2 ∧ (ctxOf s h.key).isSome = true ∧ (thr s h.key).tx.depth = 0 ∧ va.toNat % n = 0 ∧ va.toNat < 0x78000 ∧
    sbBlocked s h.key (targetAddr t / 64) (targetAddr t / 64) write = false ∧ lineLocked s t = false ∧ homePoison s t = false

/-- The store byte, byte `i` of a number, low byte first (R5). -/
def byteOf (v i : Nat) : Byte := BitVec.ofNat 8 (v / 256 ^ i)

/-- The eight bytes at an address of a core's store, as a word. -/
def storeWord (s : State) (c o : Nat) : W64 := BitVec.ofNat 64 (leNat ((List.range 8).map fun i => storeByte s c (o + i)))

/-- The 64 bytes from `o` of the own store of thread `k` hold no line that an access of the thread in flight shares (R184), that a
commit holds (R228) or that is poisoned (R171). -/
def FreeFrame (s : State) (k o : Nat) (write : Bool) : Prop :=
  ∀ i, i < 64 → let t := Target.store (k / 8) (o + i)
    lineLocked s t = false ∧ homePoison s t = false ∧ sbBlocked s k (targetAddr t / 64) (targetAddr t / 64) write = false

/-- A thread below P2 outside a transaction may enter an exception of class 1 at P1 with its frame and vector in its core's
own store (R98): the stack pointer is aligned and has room, no level mask holds the class off, fewer than eight entries are
recorded, the vector's line is neither poisoned nor held by a commit, and no access in flight writes a register that the frame
holds. -/
def EntryOk (h : Hart) (code : Nat) (s : State) : Prop :=
  let k := h.key
  let y := (thr s k).sys
  let x30 := (rx s k 30).toNat
  let vector := (y.vbase1 &&& 0xFFFFFFFFFFFFF000).toNat + 0x40 * code
  y.priv.toNat < 2 ∧ y.bks = false ∧ y.mask = 0 ∧ y.depth < 8 ∧ (thr s k).tx.depth = 0 ∧ (ctxOf s k).isSome = true ∧
    x30 % 8 = 0 ∧ 64 ≤ x30 ∧ x30 ≤ 0x78000 ∧ FreeFrame s k (x30 - 64) true ∧
    vector < 0x78000 ∧ homePoison s (.store h.core.toNat vector) = false ∧ lineLocked s (.store h.core.toNat vector) = false ∧ memWf s.ls = true ∧ frameBusy s k = false

/-- A thread below P2, in a context, outside a transaction and with no access of its own in flight, on a core whose scoreboard has
room (R184). -/
def OwnAccess (h : Hart) (s : State) : Prop :=
  lvlOf s h.key < 2 ∧ (ctxOf s h.key).isSome = true ∧ (thr s h.key).tx.depth = 0 ∧ inFlight s h.key = false ∧
    (Machine.core s h.core.toNat).sb.length < 16

/-- An address, aligned to `n`, of the core's own store below its reserved area, on a line that no commit holds and that is
not poisoned. -/
def OwnAddr (h : Hart) (s : State) (n : Nat) (a : W64) : Prop :=
  a.toNat % n = 0 ∧ a.toNat < 0x78000 ∧ lineLocked s (.store h.core.toNat a.toNat) = false ∧
    homePoison s (.store h.core.toNat a.toNat) = false

/-- The number that `n` bytes of a core's store spell. -/
def storeNat (s : State) (c o n : Nat) : Nat := leNat ((List.range n).map fun i => storeByte s c (o + i))

/-- Everything outside the threads is the same: contexts, counter cells, benches, nodes, stacks, links, ports, rings,
fuses, flash, governor, device-wide state and the queue. -/
def SameUnits (s t : State) : Prop :=
  t.ctxs = s.ctxs ∧ t.coreCells = s.coreCells ∧ t.wbCells = s.wbCells ∧ t.wbWaits = s.wbWaits ∧ t.benches = s.benches ∧
    t.nodes = s.nodes ∧ t.hbmStacks = s.hbmStacks ∧ t.links = s.links ∧ t.ports = s.ports ∧ t.rings = s.rings ∧
    t.evrings = s.evrings ∧ t.regions = s.regions ∧ t.launches = s.launches ∧ t.watches = s.watches ∧ t.locks = s.locks ∧
    t.units = s.units ∧ t.fuses = s.fuses ∧ t.flash = s.flash ∧ t.gov = s.gov ∧ t.dev = s.dev ∧ t.inbox = s.inbox ∧
    t.skip = s.skip ∧ t.slots = s.slots ∧ t.pageReqs = s.pageReqs ∧ t.tick = s.tick ∧ t.fresh = s.fresh ∧
    t.pending = s.pending

/-- Every context is in `t` as in `s`, but for the count of its rings' commands that no register shows (R212). -/
def SameCtxs (s t : State) : Prop :=
  ∀ c, (Tbl.get? t.ctxs c).map (fun x => { x with acts := 0 }) = (Tbl.get? s.ctxs c).map fun x => { x with acts := 0 }

/-- The last message that entered the mesh: its class, its source and destination nodes and its payload. -/
def LastSent (t : State) (cls src dst : Nat) (pay : Payload) : Prop :=
  ∃ y, t.mesh.getLast? = some y ∧ y.cls = cls ∧ y.src = src ∧ y.dst = dst ∧ y.pos = src ∧ y.pay = pay

/-- A bench cache hands back to its own bench the answer `pay` to the delivered message `m` of `s`, whose place it takes. -/
def HandsBack (s t : State) (m n : Nat) (pay : Payload) : Prop :=
  ∃ y, t.inbox = s.inbox.filter (fun x => x.id != m) ++ [y] ∧ y.cls = 5 ∧ y.dst = n ∧ y.pay = pay

/-- The word at an address of a port's host memory, as the device wrote it. -/
def hostWord (s : State) (p a : Nat) : W64 := BitVec.ofNat 64 (leNat ((List.range 8).map fun i => memGet s.hostMem (p * 2 ^ 40 + a + i)))

/-- The packet `p` is the next command of a ring and may begin now: it was read and dispatched (R328), its turn has come
(R329), no group is open and nothing that is checked before its own parameters refuses it (R332, R335). -/
def Begins (r : RingRef) (op : Nat) (p : Packet) (s : State) : Prop :=
  (ring s (ringKey r)).cur = some p ∧ pktOp p = op ∧ (ring s (ringKey r)).st = .ready ∧ (ring s (ringKey r)).group = none ∧
    (pktGroup p = 0 ∨ op = 0x38) ∧ cmdAwake s (ringKey r) p = true ∧ fwTurn s (ringKey r) p = true ∧
    headerStatus s (ringKey r) p = none

/-- The command `p` of a ring has completed: the ring may begin its next (R328), and where the event ring that it answers on
is enabled the last message in the mesh is its COMPLETION of Table 17.8 with the ring's next SEQ. -/
def Completed (r : RingRef) (p : Packet) (s t : State) (status reason : Nat) (w4 w5 : W64) : Prop :=
  (ring t (ringKey r)).cur = none ∧ (ring t (ringKey r)).st = .ready ∧
    ∀ rg ctx, answerRing s (ringKey r) p = some (rg, ctx) → (evring s rg).en = true →
      LastSent t 3 (portNode r.port.toNat) (portNode (evring s rg).port)
        (.record { ring := rg, ty := 1, scls := 0, srcid := ringKey r, seqno := Tbl.getD s.seqs (seqKey rg 0 (ringKey r)) 0, ctx := ctx,
                   w3 := BitVec.ofNat 64 (pktTag p + pktOp p * 2 ^ 16 + status * 2 ^ 24 + r.ring.toNat * 2 ^ 32 + reason * 2 ^ 40),
                   w4 := w4, w5 := w5, w6 := 0, w7 := 0, prio := 0, spilled := false })

/-- Nothing of a core is under way: its threads have ended, its ports are free and its gather buffer is empty. -/
def IdleCore (s : State) (c : Nat) : Prop :=
  (∀ i, i < 8 → (thr s (c * 8 + i)).run = .ended) ∧ (∀ p, p < 32 → portLive s c p = false) ∧ (Machine.core s c).gbuf = []

end Sys2Proof
end

