-- ==== Sys2Proof/WellFormed.lean ====
section
/-!
DEFINITION. Which terms of Instr name a command that can be sent: the units that its operands name exist, a 16-bit form is
one of Table 3.7, a repeat's follower is an instruction of the same thread, and an operand that the row fixes has the row's value. A term that
is not well formed is no command of the device; exec still answers it.
-/
namespace Sys2Proof

open Machine

/-- A core index of the device (R16). -/
def coreOk (c : BitVec 11) : Bool := isCore c.toNat

/-- The thread of an instruction that has a 16-bit form where `form` holds (R73). -/
def hartOk (h : Hart) (form : Bool) : Bool := coreOk h.core && (!h.compact || form)

/-- The thread of an instruction without a 16-bit form. -/
def wideHart (h : Hart) : Bool := hartOk h false

/-- A register that a 4-bit field names (R63). -/
def low (r : BitVec 5) : Bool := decide (r.toNat < 16)

/-- An immediate that a signed field of `n` bits holds. -/
def fits (n : Nat) {w : Nat} (imm : BitVec w) : Bool := decide (-(2 : Int) ^ (n - 1) ≤ imm.toInt) && decide (imm.toInt < (2 : Int) ^ (n - 1))

/-- C.ALU (Table 3.7): MV, or rd ← rd op rs with ADD, SUB, AND, OR, XOR, SHL or SHR. -/
def compactAlu (fn : BitVec 10) (rd rs1 rs2 : BitVec 5) : Bool :=
  low rd && low rs2 && ((fn == 0 && rs1 == 0 && !(rd == 0 && rs2 == 0)) || (rs1 == rd && [0, 1, 2, 3, 4, 6, 7].contains fn.toNat))

/-- C.ADDK and C.LK. -/
def compactAddk (rd rs1 : BitVec 5) (imm : BitVec 15) : Bool := low rd && (rs1 == rd || rs1 == 0) && fits 7 imm

/-- C.SHK: SHLK and SHRK. -/
def compactShk (rd rs1 : BitVec 5) (imm : BitVec 15) : Bool := low rd && rs1 == rd && (decide (imm.toNat < 64) || decide (imm.toNat / 64 = 64))

/-- C.LDD, C.STD, C.LDW, C.STW and, at base x30, C.LDS and C.STS. -/
def compactMem (bytes : Nat) (r base : BitVec 5) (imm : BitVec 15) : Bool :=
  low r && decide (imm.toNat % bytes = 0) &&
    ((low base && decide (imm.toNat < 8 * bytes)) || (bytes == 8 && base == 30 && decide (imm.toNat < 1024)))

/-- C.BZ and C.BNZ. -/
def compactBranch (rs1 rs2 : BitVec 5) (imm : BitVec 15) : Bool := low rs1 && rs2 == 0 && fits 7 imm

/-- C.BRA and C.CALL. -/
def compactJal (rd : BitVec 5) (imm : BitVec 20) : Bool := (rd == 0 || rd == 31) && fits 11 imm

/-- C.JMPR, C.CALLR and C.RET. -/
def compactJalr (rd rs1 : BitVec 5) (imm : BitVec 15) : Bool := imm == 0 && ((low rs1 && (rd == 0 || rd == 31)) || (rd == 0 && rs1 == 31))

/-- C.SYS: EBREAK and WEDGE.L. -/
def compactSys (rd rs1 : BitVec 5) : Bool := rd == 0 && rs1 == 0

/-- A function of a port: the PF, or VF 1 to 16 (R310). -/
def fnOk (fn : BitVec 5) : Bool := decide (fn.toNat ≤ 16)

/-- A command ring: 16 of a PF, 4 of a VF (R325). -/
def ringOk (r : RingRef) : Bool := fnOk r.fn && (r.fn == 0 || decide (r.ring.toNat < 4))

/-- A source of register writes. -/
def sourceOk : RegSource → Bool
  | .command r => ringOk r
  | _ => true

/-- A home of transactional lines. -/
def homeOk : HomeId → Bool
  | .hbm _ => true
  | .store c => coreOk c

/-- A register access has 4 or 8 bytes at a multiple of its length (R430). -/
def regLenOk (offset : BitVec 24) (len : Nat) : Bool := (len == 4 || len == 8) && decide (offset.toNat % len = 0)

/-- A flit names eight lanes and eight virtual channels (R355, R362). -/
def flitOk (f : LinkFlit) : Bool := f.symbols.length == 8 && f.credits.length == 8

/-- The follower of a repeat is an instruction of the same thread (R80). -/
def sameThread (h : Hart) : Instr → Bool
  | .op g _ _ _ _ => g.core == h.core && g.thr == h.thr
  | .op32 g _ _ _ _ => g.core == h.core && g.thr == h.thr
  | .bits g _ _ _ _ => g.core == h.core && g.thr == h.thr
  | .muldiv g _ _ _ _ => g.core == h.core && g.thr == h.thr
  | .addk g _ _ _ => g.core == h.core && g.thr == h.thr
  | .andk g _ _ _ => g.core == h.core && g.thr == h.thr
  | .ork g _ _ _ => g.core == h.core && g.thr == h.thr
  | .xork g _ _ _ => g.core == h.core && g.thr == h.thr
  | .cmpltk g _ _ _ => g.core == h.core && g.thr == h.thr
  | .cmpltuk g _ _ _ => g.core == h.core && g.thr == h.thr
  | .shk g _ _ _ => g.core == h.core && g.thr == h.thr
  | .addk32 g _ _ _ => g.core == h.core && g.thr == h.thr
  | .lih g _ _ => g.core == h.core && g.thr == h.thr
  | .pcaddh g _ _ => g.core == h.core && g.thr == h.thr
  | .lb g _ _ _ => g.core == h.core && g.thr == h.thr
  | .lh g _ _ _ => g.core == h.core && g.thr == h.thr
  | .lw g _ _ _ => g.core == h.core && g.thr == h.thr
  | .ld g _ _ _ => g.core == h.core && g.thr == h.thr
  | .lbu g _ _ _ => g.core == h.core && g.thr == h.thr
  | .lhu g _ _ _ => g.core == h.core && g.thr == h.thr
  | .lwu g _ _ _ => g.core == h.core && g.thr == h.thr
  | .loadx g _ _ _ _ => g.core == h.core && g.thr == h.thr
  | .sb g _ _ _ => g.core == h.core && g.thr == h.thr
  | .sh g _ _ _ => g.core == h.core && g.thr == h.thr
  | .sw g _ _ _ => g.core == h.core && g.thr == h.thr
  | .sd g _ _ _ => g.core == h.core && g.thr == h.thr
  | .storex g _ _ _ _ => g.core == h.core && g.thr == h.thr
  | .beq g _ _ _ => g.core == h.core && g.thr == h.thr
  | .bne g _ _ _ => g.core == h.core && g.thr == h.thr
  | .blt g _ _ _ => g.core == h.core && g.thr == h.thr
  | .bge g _ _ _ => g.core == h.core && g.thr == h.thr
  | .bltu g _ _ _ => g.core == h.core && g.thr == h.thr
  | .bgeu g _ _ _ => g.core == h.core && g.thr == h.thr
  | .jal g _ _ => g.core == h.core && g.thr == h.thr
  | .jalr g _ _ _ => g.core == h.core && g.thr == h.thr
  | .atomic g _ _ _ _ => g.core == h.core && g.thr == h.thr
  | .srd g _ _ _ => g.core == h.core && g.thr == h.thr
  | .swr g _ _ _ => g.core == h.core && g.thr == h.thr
  | .srs g _ _ _ => g.core == h.core && g.thr == h.thr
  | .src g _ _ _ => g.core == h.core && g.thr == h.thr
  | .ecall g _ _ => g.core == h.core && g.thr == h.thr
  | .ebreak g _ _ => g.core == h.core && g.thr == h.thr
  | .eret g _ _ => g.core == h.core && g.thr == h.thr
  | .wedgeL g _ _ => g.core == h.core && g.thr == h.thr
  | .wedgeB g _ _ => g.core == h.core && g.thr == h.thr
  | .wedgeD g _ _ => g.core == h.core && g.thr == h.thr
  | .wedgeS g _ _ => g.core == h.core && g.thr == h.thr
  | .repI g _ _ _ _ _ => g.core == h.core && g.thr == h.thr
  | .repN g _ _ _ _ _ => g.core == h.core && g.thr == h.thr
  | .tput g _ _ _ => g.core == h.core && g.thr == h.thr
  | .tputPlace _ _ => false
  | .tget g _ _ _ => g.core == h.core && g.thr == h.thr
  | .tgetDeliver _ _ => false
  | .ttryput g _ _ _ => g.core == h.core && g.thr == h.thr
  | .tpoll g _ _ _ => g.core == h.core && g.thr == h.thr
  | .tsetr g _ _ _ => g.core == h.core && g.thr == h.thr
  | .trel g _ _ _ => g.core == h.core && g.thr == h.thr
  | .tinfo g _ _ _ => g.core == h.core && g.thr == h.thr
  | .tend g _ _ _ => g.core == h.core && g.thr == h.thr
  | .tendComplete _ _ => false
  | .interruptEntry _ => false
  | .deferredFault _ _ => false
  | .loadResponse _ _ => false
  | .writeAcknowledgement _ => false
  | .varith g _ _ => g.core == h.core && g.thr == h.thr
  | .vfma g _ _ => g.core == h.core && g.thr == h.thr
  | .vcmp g _ _ => g.core == h.core && g.thr == h.thr
  | .pand g _ => g.core == h.core && g.thr == h.thr
  | .por g _ => g.core == h.core && g.thr == h.thr
  | .pxor g _ => g.core == h.core && g.thr == h.thr
  | .pandn g _ => g.core == h.core && g.thr == h.thr
  | .pwhile g _ => g.core == h.core && g.thr == h.thr
  | .pcount g _ => g.core == h.core && g.thr == h.thr
  | .vld g _ => g.core == h.core && g.thr == h.thr
  | .vst g _ => g.core == h.core && g.thr == h.thr
  | .vlds g _ => g.core == h.core && g.thr == h.thr
  | .vsts g _ => g.core == h.core && g.thr == h.thr
  | .vldb g _ => g.core == h.core && g.thr == h.thr
  | .vld2 g _ => g.core == h.core && g.thr == h.thr
  | .vst2 g _ => g.core == h.core && g.thr == h.thr
  | .vgather g _ => g.core == h.core && g.thr == h.thr
  | .vscatter g _ => g.core == h.core && g.thr == h.thr
  | .vbcast g _ => g.core == h.core && g.thr == h.thr
  | .vext g _ => g.core == h.core && g.thr == h.thr
  | .vins g _ => g.core == h.core && g.thr == h.thr
  | .vcvt g _ => g.core == h.core && g.thr == h.thr
  | .vperm g _ => g.core == h.core && g.thr == h.thr
  | .vredsum g _ => g.core == h.core && g.thr == h.thr
  | .vredmin g _ => g.core == h.core && g.thr == h.thr
  | .vredmax g _ => g.core == h.core && g.thr == h.thr
  | .vzget g _ => g.core == h.core && g.thr == h.thr
  | .vzput g _ => g.core == h.core && g.thr == h.thr
  | .vzpeek g _ => g.core == h.core && g.thr == h.thr
  | .vzpoll g _ => g.core == h.core && g.thr == h.thr
  | .vzfma g _ _ => g.core == h.core && g.thr == h.thr
  | .streamWaitDone _ _ => false
  | .tload g _ => g.core == h.core && g.thr == h.thr
  | .tloadStream g _ => g.core == h.core && g.thr == h.thr
  | .tstore g _ => g.core == h.core && g.thr == h.thr
  | .tmma g _ => g.core == h.core && g.thr == h.thr
  | .tmmaComplete _ _ => false
  | .tcvt g _ => g.core == h.core && g.thr == h.thr
  | .tzero g _ => g.core == h.core && g.thr == h.thr
  | .tcfg g _ => g.core == h.core && g.thr == h.thr
  | .tstat g _ => g.core == h.core && g.thr == h.thr
  | .tstatC g _ => g.core == h.core && g.thr == h.thr
  | .tseed g _ => g.core == h.core && g.thr == h.thr
  | .tcbld g _ => g.core == h.core && g.thr == h.thr
  | .tcfgr g _ => g.core == h.core && g.thr == h.thr
  | .patrolScrub _ _ _ => false
  | .gatherBufferWriteback _ _ => false
  | .retentionExit _ => false
  | .cinc g _ _ _ => g.core == h.core && g.thr == h.thr
  | .cincB g _ _ _ => g.core == h.core && g.thr == h.thr
  | .cdec g _ _ _ => g.core == h.core && g.thr == h.thr
  | .cwait g _ _ _ => g.core == h.core && g.thr == h.thr
  | .cwaitSatisfied _ _ => false
  | .cwaitPoll _ _ => false
  | .cread g _ _ _ => g.core == h.core && g.thr == h.thr
  | .counterApply _ => false
  | .quietLimitReached _ => false
  | .contextDeadlock _ => false
  | .txb g _ _ _ => g.core == h.core && g.thr == h.thr
  | .txe g _ _ _ => g.core == h.core && g.thr == h.thr
  | .txa g _ _ _ => g.core == h.core && g.thr == h.thr
  | .txAbort _ _ => false
  | .txRead _ _ => false
  | .lockRequest _ _ _ => false
  | .watchCheck _ _ _ => false
  | .txApply _ _ _ => false
  | .watchRelease _ _ _ => false
  | .groupOpen _ => false
  | .groupClose _ _ => false
  | .portCreate g _ _ _ => g.core == h.core && g.thr == h.thr
  | .portFree g _ _ _ => g.core == h.core && g.thr == h.thr
  | .portPop g _ _ _ => g.core == h.core && g.thr == h.thr
  | .dispatch g _ _ _ => g.core == h.core && g.thr == h.thr
  | .hset g _ _ _ => g.core == h.core && g.thr == h.thr
  | .chanOpen g _ _ _ => g.core == h.core && g.thr == h.thr
  | .chanClose g _ _ _ => g.core == h.core && g.thr == h.thr
  | .send g _ _ _ => g.core == h.core && g.thr == h.thr
  | .tsend g _ _ _ => g.core == h.core && g.thr == h.thr
  | .sendM g _ _ _ => g.core == h.core && g.thr == h.thr
  | .sendEnd g _ _ _ => g.core == h.core && g.thr == h.thr
  | .tsendEnd g _ _ _ => g.core == h.core && g.thr == h.thr
  | .publication _ => false
  | .sendRetry _ _ => false
  | .stallLimitExpiry _ _ => false
  | .streamEntry _ _ => false
  | .creditReturn _ _ => false
  | .select _ _ => false
  | .merge _ _ => false
  | .branch _ _ => false
  | .replicate _ _ => false
  | .filter _ _ => false
  | .streamLoad _ _ => false
  | .streamSection _ => false
  | .streamReconfig _ _ => false
  | .sectionAdvance _ => false
  | .drainComplete _ => false
  | .drainLimitExpiry _ => false
  | .haulLaunch _ _ _ _ => false
  | .haulCopy _ _ => false
  | .haulFill _ _ => false
  | .qin _ _ => false
  | .qout _ _ => false
  | .descriptorCompletion _ _ => false
  | .haulStop _ _ _ _ => false
  | .flitHop _ _ => false
  | .meshReplay _ _ => false
  | .bcRead _ _ => false
  | .bcWrite _ _ => false
  | .bcFill _ _ => false
  | .victimWriteback _ _ => false
  | .bcWritebackPass _ _ _ => false
  | .bcWayen _ _ _ _ => false
  | .wayPowerDown _ => false
  | .skipLaunch _ _ _ => false
  | .skipTransfer _ _ => false
  | .skipCompletion _ => false
  | .hbmRead _ _ => false
  | .hbmWrite _ _ => false
  | .homeAtomic _ _ => false
  | .writeBufferRetire _ => false
  | .hbmScrub _ _ _ => false
  | .hbmRefresh _ => false
  | .eventRecord _ => false
  | .tailings _ => false
  | .dropped _ => false
  | .ringHeadPoll _ _ => false
  | .msiXMessage _ => false
  | .hostWriteTimeout _ => false
  | .doorbell _ _ => false
  | .packetRead _ _ => false
  | .packetReadRetry _ => false
  | .ringCtl _ _ => false
  | .evrCtl _ _ => false
  | .bar2Read _ _ _ _ _ => false
  | .bar2Write _ _ _ _ _ => false
  | .atomicop _ _ _ _ _ _ _ => false
  | .frontWindowRead _ _ _ _ => false
  | .apertureBase _ _ => false
  | .nodesel _ _ => false
  | .apertureWrite _ _ _ _ => false
  | .atsInvalidation _ _ _ _ => false
  | .atsResponse _ _ _ _ _ _ => false
  | .pageResponse _ _ => false
  | .pageRequestTimeout _ => false
  | .completionTimeout _ => false
  | .d3hot _ _ _ => false
  | .nop _ => false
  | .launch _ => false
  | .launchCompletion _ _ => false
  | .signal _ => false
  | .wait _ => false
  | .waitTimeout _ => false
  | .fence _ => false
  | .fenceDone _ => false
  | .ctxCreate _ _ => false
  | .ctxDestroy _ => false
  | .ctxReset _ _ => false
  | .map _ => false
  | .unmap _ => false
  | .copy _ _ => false
  | .fill _ _ => false
  | .loadImage _ _ => false
  | .stop _ => false
  | .getInfo _ _ => false
  | .setPolicy _ => false
  | .getHistory _ _ => false
  | .fenceUnit _ => false
  | .unfenceUnit _ => false
  | .fwPush _ _ => false
  | .takeover _ => false
  | .resetDevice _ => false
  | .halt _ => false
  | .resume _ => false
  | .readState _ _ => false
  | .linkTraining _ _ => false
  | .linkTrainingRetry _ _ => false
  | .linkRetrain _ _ _ => false
  | .linkFlit _ _ => false
  | .replayRequest _ _ _ _ => false
  | .linkWaitDiscard _ _ => false
  | .remoteResponseTimeout _ => false
  | .incomingAccess _ _ => false
  | .reliabilityWindow => false
  | .unitRecordFlush _ => false
  | .managementTick _ => false
  | .safetyLoop => false
  | .precisionLoop => false
  | .voltageLoop => false
  | .cacheLoop => false
  | .linkLoop => false
  | .healthLoop => false
  | .pacerCalibration _ _ => false
  | .referenceClockSwitch _ _ => false
  | .hrefSwitch _ => false
  | .droopHold _ => false
  | .heartbeatWatchdog => false
  | .powerOn _ => false
  | .fuseBlow => false
  | .powerOff => false
  | .railFault _ => false
  | .deviceReset _ => false
  | .portReset _ _ => false
  | .flr _ _ => false
  | .benchGate _ => false
  | .idleEntry => false
  | .deepIdleEntry => false
  | .idleExit => false
  | .deepIdleExit => false
  | .thermtrip _ _ => false
  | .registerWrite _ _ _ _ _ => false
  | .guardTimeout _ => false
  | .paritySweep _ _ => false
  | .smbusTemperature => false
  | .smbusPower => false
  | .smbusFwState => false
  | .smbusHeartbeat => false
  | .smbusUptime => false
  | .smbusAlerts => false
  | .getVersion _ _ => false
  | .getCapabilities _ _ => false
  | .negotiateAlgorithms _ _ => false
  | .getDigests _ _ => false
  | .getCertificate _ _ => false
  | .challenge _ _ => false
  | .getMeasurements _ _ => false
  | .localStoreAccess _ _ => false
  | .holdEnd _ => false
  | .pcieLinkUp _ => false
  | .perstRelease _ => false
  | .devRstNRelease => false
  | .msiXUnmask _ _ _ => false
  | .doeDiscovery _ _ => false

/-- The term names a command. -/
def Instr.wf : Instr → Bool
  | .op h fn rd rs1 rs2 => hartOk h (compactAlu fn rd rs1 rs2)
  | .op32 h _ _ _ _ => wideHart h
  | .bits h _ _ _ _ => wideHart h
  | .muldiv h _ _ _ _ => wideHart h
  | .addk h rd rs1 imm => hartOk h (compactAddk rd rs1 imm)
  | .andk h _ _ _ => wideHart h
  | .ork h _ _ _ => wideHart h
  | .xork h _ _ _ => wideHart h
  | .cmpltk h _ _ _ => wideHart h
  | .cmpltuk h _ _ _ => wideHart h
  | .shk h rd rs1 imm => hartOk h (compactShk rd rs1 imm)
  | .addk32 h _ _ _ => wideHart h
  | .lih h _ _ => wideHart h
  | .pcaddh h _ _ => wideHart h
  | .lb h _ _ _ => wideHart h
  | .lh h _ _ _ => wideHart h
  | .lw h rd rs1 imm => hartOk h (compactMem 4 rd rs1 imm)
  | .ld h rd rs1 imm => hartOk h (compactMem 8 rd rs1 imm)
  | .lbu h _ _ _ => wideHart h
  | .lhu h _ _ _ => wideHart h
  | .lwu h _ _ _ => wideHart h
  | .loadx h _ _ _ _ => wideHart h
  | .sb h _ _ _ => wideHart h
  | .sh h _ _ _ => wideHart h
  | .sw h rs2 rs1 imm => hartOk h (compactMem 4 rs2 rs1 imm)
  | .sd h rs2 rs1 imm => hartOk h (compactMem 8 rs2 rs1 imm)
  | .storex h _ _ _ _ => wideHart h
  | .beq h rs1 rs2 imm => hartOk h (compactBranch rs1 rs2 imm)
  | .bne h rs1 rs2 imm => hartOk h (compactBranch rs1 rs2 imm)
  | .blt h _ _ _ => wideHart h
  | .bge h _ _ _ => wideHart h
  | .bltu h _ _ _ => wideHart h
  | .bgeu h _ _ _ => wideHart h
  | .jal h rd imm => hartOk h (compactJal rd imm)
  | .jalr h rd rs1 imm => hartOk h (compactJalr rd rs1 imm)
  | .atomic h _ _ _ _ => wideHart h
  | .srd h _ _ _ => wideHart h
  | .swr h _ _ _ => wideHart h
  | .srs h _ _ _ => wideHart h
  | .src h _ _ _ => wideHart h
  | .ecall h _ _ => wideHart h
  | .ebreak h rd rs1 => hartOk h (compactSys rd rs1)
  | .eret h _ _ => wideHart h
  | .wedgeL h rd rs1 => hartOk h (compactSys rd rs1)
  | .wedgeB h _ _ => wideHart h
  | .wedgeD h _ _ => wideHart h
  | .wedgeS h _ _ => wideHart h
  | .repI h _ _ _ _ follower => wideHart h && follower.wf && sameThread h follower
  | .repN h _ _ _ _ follower => wideHart h && follower.wf && sameThread h follower
  | .tput h _ _ _ => wideHart h
  | .tputPlace core _ => coreOk core
  | .tget h _ _ _ => wideHart h
  | .tgetDeliver core _ => coreOk core
  | .ttryput h _ _ _ => wideHart h
  | .tpoll h _ _ _ => wideHart h
  | .tsetr h _ _ _ => wideHart h
  | .trel h _ _ _ => wideHart h
  | .tinfo h _ _ _ => wideHart h
  | .tend h _ _ _ => wideHart h
  | .tendComplete core _ => coreOk core
  | .interruptEntry core => coreOk core
  | .deferredFault core _ => coreOk core
  | .loadResponse _ _ => true
  | .writeAcknowledgement _ => true
  | .varith h _ _ => wideHart h
  | .vfma h _ _ => wideHart h
  | .vcmp h _ fn => wideHart h && decide (fn.toNat < 7)
  | .pand h _ => wideHart h
  | .por h _ => wideHart h
  | .pxor h _ => wideHart h
  | .pandn h _ => wideHart h
  | .pwhile h _ => wideHart h
  | .pcount h _ => wideHart h
  | .vld h _ => wideHart h
  | .vst h _ => wideHart h
  | .vlds h _ => wideHart h
  | .vsts h _ => wideHart h
  | .vldb h _ => wideHart h
  | .vld2 h _ => wideHart h
  | .vst2 h _ => wideHart h
  | .vgather h _ => wideHart h
  | .vscatter h _ => wideHart h
  | .vbcast h _ => wideHart h
  | .vext h _ => wideHart h
  | .vins h _ => wideHart h
  | .vcvt h _ => wideHart h
  | .vperm h _ => wideHart h
  | .vredsum h _ => wideHart h
  | .vredmin h _ => wideHart h
  | .vredmax h _ => wideHart h
  | .vzget h _ => wideHart h
  | .vzput h _ => wideHart h
  | .vzpeek h _ => wideHart h
  | .vzpoll h _ => wideHart h
  | .vzfma h _ fn => wideHart h && decide (fn.toNat < 4)
  | .streamWaitDone core _ => coreOk core
  | .tload h f => wideHart h && !f.q
  | .tloadStream h f => wideHart h && f.q
  | .tstore h _ => wideHart h
  | .tmma h _ => wideHart h
  | .tmmaComplete core _ => coreOk core
  | .tcvt h _ => wideHart h
  | .tzero h _ => wideHart h
  | .tcfg h _ => wideHart h
  | .tstat h _ => wideHart h
  | .tstatC h _ => wideHart h
  | .tseed h _ => wideHart h
  | .tcbld h _ => wideHart h
  | .tcfgr h _ => wideHart h
  | .patrolScrub core _ _ => coreOk core
  | .gatherBufferWriteback core _ => coreOk core
  | .retentionExit node => isBench node.toNat
  | .cinc h _ _ _ => wideHart h
  | .cincB h _ _ _ => wideHart h
  | .cdec h _ _ _ => wideHart h
  | .cwait h _ _ _ => wideHart h
  | .cwaitSatisfied core _ => coreOk core
  | .cwaitPoll core _ => coreOk core
  | .cread h _ _ _ => wideHart h
  | .counterApply _ => true
  | .quietLimitReached _ => true
  | .contextDeadlock _ => true
  | .txb h _ _ _ => wideHart h
  | .txe h _ _ _ => wideHart h
  | .txa h _ _ _ => wideHart h
  | .txAbort core _ => coreOk core
  | .txRead _ _ => true
  | .lockRequest core _ home => coreOk core && homeOk home
  | .watchCheck core _ home => coreOk core && homeOk home
  | .txApply core _ home => coreOk core && homeOk home
  | .watchRelease core _ home => coreOk core && homeOk home
  | .groupOpen r => ringOk r
  | .groupClose r _ => ringOk r
  | .portCreate h _ _ _ => wideHart h
  | .portFree h _ _ _ => wideHart h
  | .portPop h _ _ _ => wideHart h
  | .dispatch h _ _ _ => wideHart h
  | .hset h _ _ _ => wideHart h
  | .chanOpen h _ _ _ => wideHart h
  | .chanClose h _ _ _ => wideHart h
  | .send h _ _ _ => wideHart h
  | .tsend h _ _ _ => wideHart h
  | .sendM h _ _ _ => wideHart h
  | .sendEnd h _ _ _ => wideHart h
  | .tsendEnd h _ _ _ => wideHart h
  | .publication _ => true
  | .sendRetry core _ => coreOk core
  | .stallLimitExpiry core _ => coreOk core
  | .streamEntry node _ => isBench node.toNat
  | .creditReturn node _ => isBench node.toNat
  | .select node _ => isBench node.toNat
  | .merge node _ => isBench node.toNat
  | .branch node _ => isBench node.toNat
  | .replicate node _ => isBench node.toNat
  | .filter node _ => isBench node.toNat
  | .streamLoad r _ => ringOk r
  | .streamSection r => ringOk r
  | .streamReconfig r _ => ringOk r
  | .sectionAdvance _ => true
  | .drainComplete _ => true
  | .drainLimitExpiry _ => true
  | .haulLaunch w node _ _ => isBench node.toNat && sourceOk w
  | .haulCopy node _ => isBench node.toNat
  | .haulFill node _ => isBench node.toNat
  | .qin node _ => isBench node.toNat
  | .qout node _ => isBench node.toNat
  | .descriptorCompletion node _ => isBench node.toNat
  | .haulStop w node _ _ => isBench node.toNat && sourceOk w
  | .flitHop _ _ => true
  | .meshReplay _ _ => true
  | .bcRead _ _ => true
  | .bcWrite _ _ => true
  | .bcFill _ _ => true
  | .victimWriteback node _ => isBench node.toNat
  | .bcWritebackPass node _ _ => isBench node.toNat
  | .bcWayen w node _ _ => isBench node.toNat && sourceOk w
  | .wayPowerDown node => isBench node.toNat
  | .skipLaunch w node _ => homeNodes.contains node.toNat && sourceOk w
  | .skipTransfer _ _ => true
  | .skipCompletion _ => true
  | .hbmRead _ _ => true
  | .hbmWrite _ _ => true
  | .homeAtomic _ _ => true
  | .writeBufferRetire _ => true
  | .hbmScrub _ _ _ => true
  | .hbmRefresh _ => true
  | .eventRecord _ => true
  | .tailings ring => decide (ring < 66)
  | .dropped ring => decide (ring < 66)
  | .ringHeadPoll ring _ => decide (ring < 66)
  | .msiXMessage ring => decide (ring < 66)
  | .hostWriteTimeout _ => true
  | .doorbell r _ => ringOk r
  | .packetRead r words => ringOk r && (words.length == 4 || words.length == 8)
  | .packetReadRetry r => ringOk r
  | .ringCtl r _ => ringOk r
  | .evrCtl _ _ => true
  | .bar2Read _ fn _ _ _ => fnOk fn
  | .bar2Write _ fn _ _ _ => fnOk fn
  | .atomicop _ fn _ _ wd _ _ => fnOk fn && [32, 64, 128].contains wd
  | .frontWindowRead _ fn _ _ => fnOk fn
  | .apertureBase _ _ => true
  | .nodesel _ _ => true
  | .apertureWrite _ _ _ _ => true
  | .atsInvalidation _ _ _ _ => true
  | .atsResponse _ _ _ _ _ _ => true
  | .pageResponse _ _ => true
  | .pageRequestTimeout _ => true
  | .completionTimeout _ => true
  | .d3hot _ fn _ => fnOk fn
  | .nop r => ringOk r
  | .launch r => ringOk r
  | .launchCompletion r _ => ringOk r
  | .signal r => ringOk r
  | .wait r => ringOk r
  | .waitTimeout r => ringOk r
  | .fence r => ringOk r
  | .fenceDone r => ringOk r
  | .ctxCreate r _ => ringOk r
  | .ctxDestroy r => ringOk r
  | .ctxReset r _ => ringOk r
  | .map r => ringOk r
  | .unmap r => ringOk r
  | .copy r _ => ringOk r
  | .fill r _ => ringOk r
  | .loadImage r _ => ringOk r
  | .stop r => ringOk r
  | .getInfo r _ => ringOk r
  | .setPolicy r => ringOk r
  | .getHistory r _ => ringOk r
  | .fenceUnit r => ringOk r
  | .unfenceUnit r => ringOk r
  | .fwPush r _ => ringOk r
  | .takeover r => ringOk r
  | .resetDevice r => ringOk r
  | .halt r => ringOk r
  | .resume r => ringOk r
  | .readState r _ => ringOk r
  | .linkTraining _ _ => true
  | .linkTrainingRetry _ _ => true
  | .linkRetrain _ _ _ => true
  | .linkFlit _ f => flitOk f
  | .replayRequest _ _ _ _ => true
  | .linkWaitDiscard _ _ => true
  | .remoteResponseTimeout _ => true
  | .incomingAccess _ _ => true
  | .reliabilityWindow => true
  | .unitRecordFlush _ => true
  | .managementTick _ => true
  | .safetyLoop => true
  | .precisionLoop => true
  | .voltageLoop => true
  | .cacheLoop => true
  | .linkLoop => true
  | .healthLoop => true
  | .pacerCalibration _ _ => true
  | .referenceClockSwitch _ _ => true
  | .hrefSwitch _ => true
  | .droopHold _ => true
  | .heartbeatWatchdog => true
  | .powerOn _ => true
  | .fuseBlow => true
  | .powerOff => true
  | .railFault rail => decide (rail < 12)
  | .deviceReset _ => true
  | .portReset _ _ => true
  | .flr _ fn => fnOk fn
  | .benchGate node => isBench node.toNat
  | .idleEntry => true
  | .deepIdleEntry => true
  | .idleExit => true
  | .deepIdleExit => true
  | .thermtrip node _ => (isBench node.toNat || homeNodes.contains node.toNat)
  | .registerWrite w _ offset len _ => sourceOk w && regLenOk offset len
  | .guardTimeout _ => true
  | .paritySweep _ _ => true
  | .smbusTemperature => true
  | .smbusPower => true
  | .smbusFwState => true
  | .smbusHeartbeat => true
  | .smbusUptime => true
  | .smbusAlerts => true
  | .getVersion _ _ => true
  | .getCapabilities _ _ => true
  | .negotiateAlgorithms _ _ => true
  | .getDigests _ _ => true
  | .getCertificate _ _ => true
  | .challenge _ _ => true
  | .getMeasurements _ _ => true
  | .localStoreAccess _ _ => true
  | .holdEnd _ => true
  | .pcieLinkUp _ => true
  | .perstRelease _ => true
  | .devRstNRelease => true
  | .msiXUnmask _ fn vector => fnOk fn && (fn == 0 || decide (vector.toNat < 8))
  | .doeDiscovery _ _ => true

end Sys2Proof
end

