-- ==== Sys2Proof/Certificates/Slice0/Obligations.lean ====
section
/-!
DEFINITION. The statements for the provers.
-/

open Sys2Proof Sys2Proof.Machine

/-! ### The queue, reset and the invariants of every step -/

/-- The step of a queue whose front is a command runs that command with the queue's rest. Choices of the model in it: log entry 1. -/
def Obligations.StepRunsFront : Prop :=
  ∀ (c : Instr) (rest : List Instr) (s : State), step { s with pending := c :: rest } = exec c { s with pending := rest }

/-! ### Scalar results (chapter 3) -/

/-- OP, Table 3.5: each of the sixteen functions writes rd from rs1 and rs2 and the instruction retires. -/
def Claims.OpResults : Prop :=
  ∀ (h : Hart) (rd rs1 rs2 : BitVec 5) (s : State), Ready h [rd, rs1, rs2] s →
    let k := h.key
    let a := rx s k rs1
    let b := rx s k rs2
    let n : Nat := b.toNat % 64
    let gives (fn : BitVec 10) (v : W64) : Prop :=
      Fetches (.op h fn rd rs1 rs2) s → exec (.op h fn rd rs1 rs2) s = .next (retire (wx s k rd v) k h.len)
    gives 0x000 (BitVec.ofNat 64 (a.toNat + b.toNat)) ∧ gives 0x001 (BitVec.ofInt 64 (a.toNat - b.toNat)) ∧
    gives 0x002 (a &&& b) ∧ gives 0x003 (a ||| b) ∧ gives 0x004 (a ^^^ b) ∧ gives 0x005 (a &&& ~~~ b) ∧
    gives 0x006 (BitVec.ofNat 64 (a.toNat * 2 ^ n)) ∧ gives 0x007 (BitVec.ofNat 64 (a.toNat / 2 ^ n)) ∧
    gives 0x008 (BitVec.ofInt 64 (a.toInt / 2 ^ n)) ∧
    gives 0x009 (BitVec.ofNat 64 (a.toNat / 2 ^ n + a.toNat % 2 ^ n * 2 ^ (64 - n))) ∧
    gives 0x00A (if a.toInt < b.toInt then 1 else 0) ∧ gives 0x00B (if a.toNat < b.toNat then 1 else 0) ∧
    gives 0x00C (BitVec.ofInt 64 (min a.toInt b.toInt)) ∧ gives 0x00D (BitVec.ofInt 64 (max a.toInt b.toInt)) ∧
    gives 0x00E (BitVec.ofNat 64 (min a.toNat b.toNat)) ∧ gives 0x00F (BitVec.ofNat 64 (max a.toNat b.toNat))

/-- OP-32 and BITS, Table 3.5: OP-32 works on bits [31:0] and sign-extends; BITS has one source. -/
def Claims.Op32AndBitsResults : Prop :=
  ∀ (h : Hart) (rd rs1 rs2 : BitVec 5) (s : State), Ready h [rd, rs1, rs2] s →
    let k := h.key
    let a := rx s k rs1
    let b := rx s k rs2
    let x : Nat := a.toNat % 2 ^ 32
    let n : Nat := b.toNat % 32
    let gives32 (fn : BitVec 10) (v : Int) : Prop :=
      Fetches (.op32 h fn rd rs1 rs2) s → exec (.op32 h fn rd rs1 rs2) s = .next (retire (wx s k rd (BitVec.ofInt 64 (Int.bmod v (2 ^ 32)))) k h.len)
    let givesBits (fn : BitVec 10) (p : W64 → Prop) : Prop :=
      Fetches (.bits h fn rd rs1 0) s → ∃ v, p v ∧ exec (.bits h fn rd rs1 0) s = .next (retire (wx s k rd v) k h.len)
    gives32 0x000 (a.toNat + b.toNat) ∧ gives32 0x001 ((a.toNat : Int) - b.toNat) ∧ gives32 0x006 (a.toNat * 2 ^ n) ∧
    gives32 0x007 (x / 2 ^ n) ∧ gives32 0x008 (Int.bmod a.toNat (2 ^ 32) / 2 ^ n) ∧
    givesBits 0x000 (fun v => v.toNat ≤ 64 ∧ a.toNat < 2 ^ (64 - v.toNat) ∧ (v.toNat < 64 → 2 ^ (63 - v.toNat) ≤ a.toNat)) ∧
    givesBits 0x001 (fun v => v.toNat ≤ 64 ∧ 2 ^ v.toNat ∣ a.toNat ∧ (a = 0 → v.toNat = 64) ∧ (a ≠ 0 → ¬ 2 ^ (v.toNat + 1) ∣ a.toNat)) ∧
    givesBits 0x002 (fun v => v.toNat = ((List.range 64).filter fun i => a.getLsbD i).length) ∧
    givesBits 0x003 (fun v => ∀ i < 8, v.toNat / 256 ^ i % 256 = a.toNat / 256 ^ (7 - i) % 256) ∧
    givesBits 0x004 (fun v => v.toInt = Int.bmod a.toNat (2 ^ 8)) ∧ givesBits 0x005 (fun v => v.toInt = Int.bmod a.toNat (2 ^ 16)) ∧
    givesBits 0x006 (fun v => v.toInt = Int.bmod a.toNat (2 ^ 32)) ∧ givesBits 0x007 (fun v => v.toNat = x)

/-- Table 3.5: the register operations OP, OP-32 and BITS write rd and retire. -/
def Obligations.OpAndBitsResults : Prop := Claims.OpResults ∧ Claims.Op32AndBitsResults

/-- R66 and Table 3.6: multiplication, division and remainder, of 64 and of 32 bits; none faults. -/
def Obligations.MuldivResults : Prop :=
  ∀ (h : Hart) (rd rs1 rs2 : BitVec 5) (s : State), Ready h [rd, rs1, rs2] s →
    let k := h.key
    let a := rx s k rs1
    let b := rx s k rs2
    let x : Int := Int.bmod a.toNat (2 ^ 32)
    let y : Int := Int.bmod b.toNat (2 ^ 32)
    let ux : Nat := a.toNat % 2 ^ 32
    let uy : Nat := b.toNat % 2 ^ 32
    let gives (fn : BitVec 10) (v : Int) : Prop :=
      Fetches (.muldiv h fn rd rs1 rs2) s → exec (.muldiv h fn rd rs1 rs2) s = .next (retire (wx s k rd (BitVec.ofInt 64 v)) k h.len)
    gives 0x000 (a.toNat * b.toNat) ∧ gives 0x001 (a.toInt * b.toInt / 2 ^ 64) ∧
    gives 0x002 (a.toNat * b.toNat / 2 ^ 64) ∧ gives 0x003 (a.toInt * b.toNat / 2 ^ 64) ∧
    gives 0x004 (if b = 0 then 0 else a.toInt.tdiv b.toInt) ∧ gives 0x005 (if b = 0 then 0 else a.toNat / b.toNat) ∧
    gives 0x006 (if b = 0 then a.toInt else a.toInt.tmod b.toInt) ∧
    gives 0x007 (if b = 0 then a.toNat else a.toNat % b.toNat) ∧
    gives 0x008 (Int.bmod (x * y) (2 ^ 32)) ∧ gives 0x009 (if y = 0 then 0 else Int.bmod (x.tdiv y) (2 ^ 32)) ∧
    gives 0x00A (if uy = 0 then 0 else Int.bmod (ux / uy) (2 ^ 32)) ∧
    gives 0x00B (if y = 0 then x else x.tmod y) ∧
    gives 0x00C (if uy = 0 then x else Int.bmod (ux % uy) (2 ^ 32))

/-- R67: the immediate operations, the shifts by a constant, LIH and PCADDH; the reserved forms of SHK raise ILLEGAL. -/
def Obligations.ImmediateResults : Prop :=
  ∀ (h : Hart) (rd rs1 : BitVec 5) (imm : BitVec 15) (imm20 : BitVec 20) (s : State), Ready h [rd, rs1] s →
    let k := h.key
    let a := rx s k rs1
    let x : Int := Int.bmod a.toNat (2 ^ 32)
    let n : Nat := imm.toNat % 64
    let gives (i : Instr) (v : Int) : Prop := Fetches i s → exec i s = .next (retire (wx s k rd (BitVec.ofInt 64 v)) k h.len)
    let shk (f : Nat) (v : Int) : Prop := imm.toNat = f * 4096 + n → gives (.shk h rd rs1 imm) v
    gives (.addk h rd rs1 imm) (a.toInt + imm.toInt) ∧
    gives (.andk h rd rs1 imm) (a.toNat &&& imm.toNat : Nat) ∧
    gives (.ork h rd rs1 imm) (a.toNat ||| imm.toNat : Nat) ∧
    gives (.xork h rd rs1 imm) (a.toNat ^^^ imm.toNat : Nat) ∧
    gives (.cmpltk h rd rs1 imm) (if a.toInt < imm.toInt then 1 else 0) ∧
    gives (.cmpltuk h rd rs1 imm) (if a.toNat < imm.toNat then 1 else 0) ∧
    gives (.addk32 h rd rs1 imm) (Int.bmod (a.toNat + imm.toInt) (2 ^ 32)) ∧
    gives (.lih h rd imm20) (imm20.toInt * 2 ^ 16) ∧
    gives (.pcaddh h rd imm20) ((thr s k).pc.toNat + imm20.toInt * 2 ^ 16) ∧
    shk 0 (a.toNat * 2 ^ n) ∧ shk 1 (a.toNat / 2 ^ n) ∧ shk 2 (a.toInt / 2 ^ n) ∧
    shk 3 (a.toNat / 2 ^ n + a.toNat % 2 ^ n * 2 ^ (64 - n) : Nat) ∧
    (n < 32 → shk 4 (Int.bmod (a.toNat * 2 ^ n) (2 ^ 32)) ∧ shk 5 (Int.bmod (a.toNat % 2 ^ 32 / 2 ^ n) (2 ^ 32)) ∧ shk 6 (x / 2 ^ n)) ∧
    (imm.toNat / 64 % 64 ≠ 0 ∨ imm.toNat / 4096 = 7 ∨ (4 ≤ imm.toNat / 4096 ∧ 32 ≤ n) →
      Fetches (.shk h rd rs1 imm) s → exec (.shk h rd rs1 imm) s = .next (faultAt s k (scalarExn 1 0) (thr s k).pc))

/-- R70 and R59: a taken branch adds its offset in halfwords to the PC, one not taken goes on; JAL and JALR link; a JALR
target whose bit 0 is 1 raises IALIGN. -/
def Obligations.BranchesAndJumps : Prop :=
  ∀ (h : Hart) (rd rs1 rs2 : BitVec 5) (imm : BitVec 15) (imm20 : BitVec 20) (s : State), Ready h [rd, rs1, rs2] s →
    let k := h.key
    let a := rx s k rs1
    let b := rx s k rs2
    let pc := (thr s k).pc
    let link := wx s k rd (pc + BitVec.ofNat 64 h.len)
    let target := a + BitVec.ofInt 64 imm.toInt
    let takes (i : Instr) (c : Prop) : Prop := Fetches i s →
      (c → exec i s = .next (countInstret (setPc s k (pc + BitVec.ofInt 64 (imm.toInt * 2))) k 1)) ∧
      (¬ c → exec i s = .next (retire s k h.len))
    takes (.beq h rs1 rs2 imm) (a = b) ∧ takes (.bne h rs1 rs2 imm) (a ≠ b) ∧
    takes (.blt h rs1 rs2 imm) (a.toInt < b.toInt) ∧ takes (.bge h rs1 rs2 imm) (b.toInt ≤ a.toInt) ∧
    takes (.bltu h rs1 rs2 imm) (a.toNat < b.toNat) ∧ takes (.bgeu h rs1 rs2 imm) (b.toNat ≤ a.toNat) ∧
    (Fetches (.jal h rd imm20) s → exec (.jal h rd imm20) s = .next (countInstret (setPc link k (pc + BitVec.ofInt 64 (imm20.toInt * 2))) k 1)) ∧
    (target.toNat % 2 = 0 → Fetches (.jalr h rd rs1 imm) s → exec (.jalr h rd rs1 imm) s = .next (countInstret (setPc link k target) k 1)) ∧
    (target.toNat % 2 = 1 → Fetches (.jalr h rd rs1 imm) s → exec (.jalr h rd rs1 imm) s = .next (faultAt s k (scalarExn 2 target) pc))

/-- Frame of the register operations, immediates, branches and jumps: but for rd, the PC and INSTRET, no register of the
thread, no other thread, no byte of memory and no other unit changes. -/
def Obligations.ScalarFrame : Prop :=
  ∀ (h : Hart) (fn : BitVec 10) (rd rs1 rs2 : BitVec 5) (imm : BitVec 15) (imm20 : BitVec 20) (s t : State),
    Ready h [rd, rs1, rs2] s →
    let k := h.key
    let keeps (dests : List (BitVec 5)) (i : Instr) : Prop :=
      Fetches i s → exec i s = .next t → SameRegs k dests s t ∧ SameOthers k s t ∧ SameMemory s t ∧ SameUnits s t
    (fn.toNat < 16 → keeps [rd] (.op h fn rd rs1 rs2)) ∧
    (fn.toNat = 0 ∨ fn.toNat = 1 ∨ fn.toNat = 6 ∨ fn.toNat = 7 ∨ fn.toNat = 8 → keeps [rd] (.op32 h fn rd rs1 rs2)) ∧
    (fn.toNat < 8 → keeps [rd] (.bits h fn rd rs1 0)) ∧ (fn.toNat < 13 → keeps [rd] (.muldiv h fn rd rs1 rs2)) ∧
    keeps [rd] (.addk h rd rs1 imm) ∧ keeps [rd] (.andk h rd rs1 imm) ∧ keeps [rd] (.ork h rd rs1 imm) ∧
    keeps [rd] (.xork h rd rs1 imm) ∧ keeps [rd] (.cmpltk h rd rs1 imm) ∧ keeps [rd] (.cmpltuk h rd rs1 imm) ∧
    (imm.toNat < 0x4000 → imm.toNat / 64 % 64 = 0 → keeps [rd] (.shk h rd rs1 imm)) ∧ keeps [rd] (.addk32 h rd rs1 imm) ∧
    keeps [rd] (.lih h rd imm20) ∧ keeps [rd] (.pcaddh h rd imm20) ∧
    keeps [] (.beq h rs1 rs2 imm) ∧ keeps [] (.bne h rs1 rs2 imm) ∧ keeps [] (.blt h rs1 rs2 imm) ∧
    keeps [] (.bge h rs1 rs2 imm) ∧ keeps [] (.bltu h rs1 rs2 imm) ∧ keeps [] (.bgeu h rs1 rs2 imm) ∧
    keeps [rd] (.jal h rd imm20) ∧
    ((rx s k rs1 + BitVec.ofInt 64 imm.toInt).toNat % 2 = 0 → keeps [rd] (.jalr h rd rs1 imm))

/-- R68 and R69: loads of the core's own store, in every size and form; a misaligned address raises ALIGNMENT. -/
def Obligations.LoadResults : Prop :=
  ∀ (h : Hart) (rd rs1 rs2 : BitVec 5) (imm : BitVec 15) (s : State), Ready h [rd, rs1, rs2] s →
    let k := h.key
    let a := rx s k rs1
    let b := rx s k rs2
    let word (va : W64) (n : Nat) : Nat := leNat ((List.range n).map fun i => storeByte s h.core.toNat (va.toNat + i))
    let value (va : W64) (n : Nat) (signed : Bool) : W64 :=
      if signed then BitVec.ofInt 64 (Int.bmod (word va n) (2 ^ (8 * n))) else BitVec.ofNat 64 (word va n)
    let gives (i : Instr) (va : W64) (n : Nat) (signed : Bool) : Prop := Fetches i s →
      (OwnStore h va n false s → exec i s = .next (retire (wx s k rd (value va n signed)) k h.len)) ∧
      (va.toNat % n ≠ 0 → exec i s = .next (faultAt s k (scalarExn 3 va) (thr s k).pc))
    let va := a + BitVec.ofInt 64 imm.toInt
    gives (.lb h rd rs1 imm) va 1 true ∧ gives (.lh h rd rs1 imm) va 2 true ∧ gives (.lw h rd rs1 imm) va 4 true ∧
    gives (.ld h rd rs1 imm) va 8 true ∧ gives (.lbu h rd rs1 imm) va 1 false ∧ gives (.lhu h rd rs1 imm) va 2 false ∧
    gives (.lwu h rd rs1 imm) va 4 false ∧
    ∀ size : Nat, size < 7 →
      let n := 2 ^ (size % 4)
      let signed := decide (size < 4)
      gives (.loadx h (BitVec.ofNat 10 (size * 32)) rd rs1 rs2) (a + b) n signed ∧
      gives (.loadx h (BitVec.ofNat 10 (256 + size * 32)) rd rs1 rs2) (a + BitVec.ofNat 64 (b.toNat * n)) n signed ∧
      (rd ≠ rs1 → OwnStore h a n false s → Fetches (.loadx h (BitVec.ofNat 10 (512 + size * 32)) rd rs1 rs2) s →
        exec (.loadx h (BitVec.ofNat 10 (512 + size * 32)) rd rs1 rs2) s = .next (retire (wx (wx s k rd (value a n signed)) k rs1 (a + b)) k h.len))

/-- R68, R69 and R178: stores to the core's own store. The bytes stored to read as the register's low bytes, low byte
first; every other byte of memory and every register but the one a post-increment form moves reads as before. -/
def Claims.StoreResults : Prop :=
  ∀ (h : Hart) (rs rs1 rs2 : BitVec 5) (imm : BitVec 15) (s : State), Ready h [rs, rs1, rs2] s → memWf s.ls = true →
    let k := h.key
    let a := rx s k rs1
    let b := rx s k rs2
    let stores (i : Instr) (va : W64) (n : Nat) (dests : List (BitVec 5)) (post : Bool) : Prop :=
      OwnStore h va n true s → Fetches i s → ∃ t, exec i s = .next t ∧ (thr t k).pc = (thr s k).pc + BitVec.ofNat 64 h.len ∧
        (∀ c o, o < 2 ^ 20 → storeByte t c o =
          if c = h.core.toNat ∧ va.toNat ≤ o ∧ o < va.toNat + n then BitVec.ofNat 8 ((rx s k rs).toNat / 256 ^ (o - va.toNat))
          else storeByte s c o) ∧
        (∀ x, hbmByte t x = hbmByte s x) ∧ t.hostMem = s.hostMem ∧ SameRegs k dests s t ∧ SameOthers k s t ∧
        (post = true → rs1 ≠ 0 → rx t k rs1 = a + b)
    let va := a + BitVec.ofInt 64 imm.toInt
    stores (.sb h rs rs1 imm) va 1 [] false ∧ stores (.sh h rs rs1 imm) va 2 [] false ∧
    stores (.sw h rs rs1 imm) va 4 [] false ∧ stores (.sd h rs rs1 imm) va 8 [] false ∧
    ∀ size : Nat, size < 4 →
      let n := 2 ^ size
      stores (.storex h (BitVec.ofNat 10 (size * 32)) rs rs1 rs2) (a + b) n [] false ∧
      stores (.storex h (BitVec.ofNat 10 (256 + size * 32)) rs rs1 rs2) (a + BitVec.ofNat 64 (b.toNat * n)) n [] false ∧
      stores (.storex h (BitVec.ofNat 10 (512 + size * 32)) rs rs1 rs2) a n [rs1] true

/-- R71 and R186: an atomic on the core's own store retires at once and sends the operation to the line's home, with the
address, the operand in rs2 and, for CAS, the value in rd; a scoreboard entry keeps rd for the old value where RET = 1. -/
def Claims.AtomicSends : Prop :=
  ∀ (h : Hart) (op size : Nat) (ret : Bool) (rd rs1 rs2 : BitVec 5) (s : State), Ready h [rd, rs1, rs2] s →
    let k := h.key
    let va := rx s k rs1
    let n := 4 * (size + 1)
    let home := Target.store h.core.toNat va.toNat
    op ≤ 8 → size < 2 → (ret = false → rd = 0) → (op = 6 → ret = true) → (op = 7 → size = 1 ∧ ret = true) → (op = 8 → size = 0) →
    OwnStore h va n true s → Fetches (.atomic h (BitVec.ofNat 10 (op * 64 + size * 16 + if ret then 8 else 0)) rd rs1 rs2) s →
    ∃ t m slot, exec (.atomic h (BitVec.ofNat 10 (op * 64 + size * 16 + if ret then 8 else 0)) rd rs1 rs2) s = .next t ∧
      m ∈ t.mesh ∧ m.cls = 3 ∧ m.src = h.core.toNat / 8 ∧ m.dst = h.core.toNat / 8 ∧
      m.pay = .atomic home op n (rx s k rs2) (rx s k rd) (.access h.core.toNat slot) ∧
      (Tbl.get? (Machine.core t h.core.toNat).sb slot).map (fun e => (e.thr, e.write, e.sink)) =
        some (k, true, if ret then .old rd n else .none) ∧
      (thr t k).pc = (thr s k).pc + BitVec.ofNat 64 h.len ∧ SameRegs k [] s t ∧ SameOthers k s t ∧ SameMemory s t

/-- R68, R69, R71, R178 and R186: stores, which write the core's own store, and atomics, which go to the home of their line. Choices of the model in it: log entry 12. -/
def Obligations.StoresAndAtomics : Prop := Claims.StoreResults ∧ Claims.AtomicSends

/-! ### System registers, traps and return, wedges, repeat (chapters 3, 4, 9) -/

/-- R72, R77 and Table 3.9: SRD of every system register, from a level that may read it, writes its value to rd. -/
def Claims.SystemRegisterReads : Prop :=
  ∀ (h : Hart) (rd : BitVec 5) (s : State), Ready h [rd] s →
    let k := h.key
    let y := (thr s k).sys
    let m := (Machine.core s h.core.toNat).mode
    let reads (n : Nat) (v : W64) : Prop :=
      n / 1024 ≤ y.priv.toNat → Fetches (.srd h rd 0 (BitVec.ofNat 12 n)) s → exec (.srd h rd 0 (BitVec.ofNat 12 n)) s = .next (retire (wx s k rd v) k h.len)
    reads 0x000 y.tp ∧ reads 0x001 y.vprog ∧ reads 0x200 0x0000000308204002 ∧ reads 0x201 0x0000000083F20200 ∧
    reads 0x202 0x000000000000FFFF ∧ reads 0x203 0x00680878FF001014 ∧ reads 0x204 0x0000000000080407 ∧
    reads 0x205 0x0000060802000080 ∧ reads 0x207 0 ∧
    (∀ c x, ctxOf s k = some c → Tbl.get? s.ctxs c = some x →
      reads 0x206 (if x.virt then 0x0000200000100730 else 0x0000200000100330) ∧ reads 0x20D (BitVec.ofNat 64 c)) ∧
    reads 0x208 (h.core.setWidth 64) ∧ (ctxOf s k = none → reads 0x209 0x7FF) ∧
    (∀ c x n, ctxOf s k = some c → Tbl.get? s.ctxs c = some x → x.lcore[n]? = some h.core.toNat →
      (∀ i, i < n → x.lcore[i]? ≠ some h.core.toNat) → goodCore s h.core.toNat = true → reads 0x209 (BitVec.ofNat 64 n)) ∧
    (m = 2 → reads 0x20A (h.thr.setWidth 64 + 0x10)) ∧ (m = 4 → reads 0x20A (h.thr.setWidth 64 + 0x20)) ∧
    (m = 8 → reads 0x20A (h.thr.setWidth 64 + 0x30)) ∧
    reads 0x20B (node s (h.core.toNat / 8)).pacer ∧
    (let x := node s (h.core.toNat / 8)
     reads 0x20C (x.period.setWidth 64 + (x.calSeq.setWidth 64 <<< 48) + (if x.calValid then 0x8000000000000000 else 0))) ∧
    reads 0x20E 0x00680878FF001014 ∧ reads 0x20F (BitVec.ofNat 64 (thr s k).tx.depth) ∧ reads 0x210 y.instret ∧
    reads 0x400 (y.rpc.setWidth 64) ∧
    reads 0x401 (y.priv.setWidth 64 + (y.mask.setWidth 64 <<< 4) +
      (if m = 2 then 0x100 else if m = 4 then 0x200 else if m = 8 then 0x300 else 0) + (if y.bks then 0x1000 else 0)) ∧
    reads 0x402 y.cause ∧ reads 0x403 y.faddr ∧ reads 0x404 (y.vbase0 &&& 0xFFFFFFFFFFFFF000) ∧ reads 0x405 y.precision ∧
    reads 0x406 ((Machine.core s h.core.toNat).tpend.setWidth 64) ∧ reads 0x800 (y.vbase1 &&& 0xFFFFFFFFFFFFF000) ∧
    reads 0x801 (y.vbase2 &&& 0xFFFFFFFFFFFFF000) ∧ reads 0x802 y.backstopSp ∧
    reads 0xA00 (BitVec.ofNat 64 y.depth + (y.recs.setWidth 64 <<< 8) + (y.bkLevel.setWidth 64 <<< 24) +
      (if y.bkRec then 0x4000000 else 0))

/-- R76: SWR writes rs1, SRS sets and SRC clears its 1s, under each field's type; write-1-to-clear fields go by the operand
alone; SRS and SRC return the old value. -/
def Claims.SystemRegisterWrites : Prop :=
  ∀ (h : Hart) (rd rs1 : BitVec 5) (s : State), Ready h [rd, rs1] s →
    let k := h.key
    let v := rx s k rs1
    let writes (i : Instr) (n : Nat) (w : W64) (dest : BitVec 5) (old : W64) : Prop :=
      Fetches i s → ∃ t, exec i s = .next t ∧ readSr t k n = some w ∧ rx t k dest = (if dest = 0 then 0 else old) ∧
        (thr t k).pc = (thr s k).pc + BitVec.ofNat 64 h.len ∧ ∀ q, q ≠ dest → rx t k q = rx s k q
    let acts (n : Nat) (swr srs src : W64 → W64) : Prop :=
      ∀ old, readSr s k n = some old → n / 1024 ≤ (thr s k).sys.priv.toNat →
        writes (.swr h 0 rs1 (BitVec.ofNat 12 n)) n (swr old) 0 0 ∧ writes (.srs h rd rs1 (BitVec.ofNat 12 n)) n (srs old) rd old ∧
        writes (.src h rd rs1 (BitVec.ofNat 12 n)) n (src old) rd old
    let plain (n : Nat) (mask : W64) : Prop :=
      acts n (fun _ => v &&& mask) (fun old => (old ||| v) &&& mask) (fun old => (old &&& ~~~ v) &&& mask)
    let sticky : W64 := 0x0000000100000000
    plain 0x000 (BitVec.allOnes 64) ∧ plain 0x001 (BitVec.allOnes 64) ∧ plain 0x400 0xFFFF ∧ plain 0x402 0x0000FFFFFFFFFFFF ∧
    plain 0x403 (BitVec.allOnes 64) ∧ plain 0x404 0xFFFFFFFFFFFFF000 ∧ plain 0x800 0xFFFFFFFFFFFFF000 ∧
    plain 0x801 0xFFFFFFFFFFFFF000 ∧ plain 0x802 (BitVec.allOnes 64) ∧
    acts 0x401 (fun old => (old &&& ~~~ 0x30) ||| (v &&& 0x30)) (fun old => old ||| (v &&& 0x30)) (fun old => old &&& ~~~ (v &&& 0x30)) ∧
    acts 0x405 (fun old => (v &&& 0x00000002FFFFFFFF) ||| (old &&& sticky &&& ~~~ v))
      (fun old => ((old ||| v) &&& 0x00000002FFFFFFFF) ||| (old &&& sticky))
      (fun old => ((old &&& ~~~ v) &&& 0x00000002FFFFFFFF) ||| (old &&& sticky &&& ~~~ v)) ∧
    acts 0x406 (fun old => old &&& ~~~ v) (fun old => old) (fun old => old &&& ~~~ v)

/-- R75: an access from too low a level raises PRIVILEGE; a write of a read-only number, and any access to a number that
Table 3.9 does not list, raises ILLEGAL; neither rd nor the register changes before the fault is taken. -/
def Claims.SystemRegisterFaults : Prop :=
  ∀ (h : Hart) (rd rs1 : BitVec 5) (sr : BitVec 12) (s : State), Ready h [rd, rs1] s →
    let k := h.key
    let listed : Prop := sr.toNat ∈ [0x000, 0x001, 0x200, 0x201, 0x202, 0x203, 0x204, 0x205, 0x206, 0x207, 0x208, 0x209, 0x20A,
      0x20B, 0x20C, 0x20D, 0x20E, 0x20F, 0x210, 0x400, 0x401, 0x402, 0x403, 0x404, 0x405, 0x406, 0x800, 0x801, 0x802, 0xA00]
    let level := (thr s k).sys.priv.toNat
    let raises (i : Instr) (code : Nat) : Prop := Fetches i s → exec i s = .next (faultAt s k (scalarExn code 0) (thr s k).pc)
    let all (code : Nat) : Prop :=
      raises (.swr h 0 rs1 sr) code ∧ raises (.srs h rd rs1 sr) code ∧ raises (.src h rd rs1 sr) code
    (¬ listed → sr.toNat / 1024 ≤ level → raises (.srd h rd 0 sr) 1 ∧ all 1) ∧
    (listed → level < sr.toNat / 1024 → raises (.srd h rd 0 sr) 4 ∧ (sr.toNat / 512 % 2 = 0 → all 4)) ∧
    (listed → sr.toNat / 1024 ≤ level → sr.toNat / 512 % 2 = 1 → all 1)

/-- R72 and R75 to R77: the system registers of Table 3.9, read, written, set and cleared, and the accesses that fault. Choices of the model in it: log entry 18. -/
def Obligations.SystemRegisters : Prop := Claims.SystemRegisterReads ∧ Claims.SystemRegisterWrites ∧ Claims.SystemRegisterFaults

/-- R96 and R98: ECALL from P0, and EBREAK in thread 0 with no debugger attached, enter at P1. The frame of Table 4.8 goes
below the stack pointer, the level is recorded, CAUSE, FADDR, PRIV, MASK, RPC and VPROG are set, x30 holds the frame's address
and the PC is VBASE1 + 0x40 × code; no other byte of memory and no other x register changes. -/
def Claims.TrapEntry : Prop :=
  ∀ (h : Hart) (s : State), Ready h [] s →
    let k := h.key
    let c := h.core.toNat
    let y := (thr s k).sys
    let sp := (rx s k 30).toNat - 64
    let enters (i : Instr) (code : Nat) : Prop :=
      Fetches i s → ∃ t, exec i s = .next t ∧ (thr t k).pc = (y.vbase1 &&& 0xFFFFFFFFFFFFF000) + BitVec.ofNat 64 (0x40 * code) ∧
        (thr t k).sys.priv = 1 ∧ (thr t k).sys.mask = 1 ∧ (thr t k).sys.cause = BitVec.ofNat 64 code ∧ (thr t k).sys.faddr = 0 ∧
        (thr t k).sys.rpc = 0 ∧ (thr t k).sys.vprog = 0 ∧ (thr t k).sys.depth = y.depth + 1 ∧
        bits (thr t k).sys.recs.toNat (2 * y.depth + 1) (2 * y.depth) = y.priv.toNat ∧
        (thr t k).sys.instret = y.instret + 1 ∧ rx t k 30 = BitVec.ofNat 64 sp ∧ (∀ r, r ≠ 30 → rx t k r = rx s k r) ∧
        storeWord t c sp = (thr s k).pc + BitVec.ofNat 64 h.len ∧ storeWord t c (sp + 8) = statusWord s k ∧
        storeWord t c (sp + 16) = BitVec.ofNat 64 code ∧ storeWord t c (sp + 24) = 0 ∧
        storeWord t c (sp + 32) = y.rpc.setWidth 64 ∧ storeWord t c (sp + 40) = y.vprog ∧
        storeWord t c (sp + 48) = rx s k 28 ∧ storeWord t c (sp + 56) = rx s k 29 ∧
        ∀ d o, o < 2 ^ 20 → ¬ (d = c ∧ sp ≤ o ∧ o < sp + 64) → storeByte t d o = storeByte s d o
    (EntryOk h 9 s → y.priv = 0 → enters (.ecall h 0 0) 9) ∧
    (EntryOk h 10 s → h.thr = 0 → (Machine.core s c).debugger = false → enters (.ebreak h 0 0) 10)

/-- R103: ERET through a frame in the core's own store restores PC, PRIV, MASK, RPC, VPROG, x28 and x29, pops the record and
the frame, and leaves every byte of memory and every other register. -/
def Claims.ReturnFromException : Prop :=
  ∀ (h : Hart) (s : State), Ready h [28, 29, 30] s →
    let k := h.key
    let c := h.core.toNat
    let y := (thr s k).sys
    let sp := (rx s k 30).toNat
    let status := (storeWord s c (sp + 8)).toNat
    y.priv.toNat < 2 → y.bks = false → 0 < y.depth → y.depth ≤ 8 → (thr s k).tx.depth = 0 → (ctxOf s k).isSome = true →
    sp % 8 = 0 → sp + 64 ≤ 0x78000 → FreeFrame s k sp false → Fetches (.eret h 0 0) s →
    status % 4 ≤ bits y.recs.toNat (2 * y.depth - 1) (2 * y.depth - 2) → status % 4 ≠ 3 →
    ∃ t, exec (.eret h 0 0) s = .next t ∧ (thr t k).pc = storeWord s c sp &&& ~~~ 1 ∧
      (thr t k).sys.priv.toNat = status % 4 ∧ (thr t k).sys.mask.toNat = status / 16 % 4 ∧
      (thr t k).sys.rpc = (storeWord s c (sp + 32)).setWidth 16 ∧ (thr t k).sys.vprog = storeWord s c (sp + 40) ∧
      (thr t k).sys.depth = y.depth - 1 ∧ (thr t k).sys.cause = y.cause ∧ (thr t k).sys.instret = y.instret + 1 ∧
      rx t k 28 = storeWord s c (sp + 48) ∧ rx t k 29 = storeWord s c (sp + 56) ∧ rx t k 30 = rx s k 30 + 64 ∧
      (∀ r, r ≠ 28 → r ≠ 29 → r ≠ 30 → rx t k r = rx s k r) ∧ SameMemory s t

/-- R187, R188 and Table 9.3: with nothing of the thread in flight, a wedge drains the core's gather buffer to its banks;
WEDGE.L and WEDGE.B then retire, WEDGE.D and WEDGE.S wait on a write-back pass of the bench cache. No byte of memory changes
as the threads read it. Choices of the model in it: log entry 16. -/
def Obligations.WedgeDrains : Prop :=
  ∀ (h : Hart) (s : State), Ready h [] s → memWf s.ls = true → (thr s h.key).tx.depth = 0 → inFlight s h.key = false →
    (thr s h.key).ctrOut = [] →
    let k := h.key
    let c := h.core.toNat
    let drains (i : Instr) (t : State) : Prop :=
      exec i s = .next t ∧ (Machine.core t c).gbuf = [] ∧ (∀ o, o < 2 ^ 20 → memGet t.ls (c * 2 ^ 20 + o) = storeByte s c o) ∧
        (∀ d o, o < 2 ^ 20 → storeByte t d o = storeByte s d o) ∧ t.hbm = s.hbm
    let retires (i : Instr) : Prop :=
      Fetches i s → ∃ t, drains i t ∧ (thr t k).pc = (thr s k).pc + BitVec.ofNat 64 h.len ∧ SameRegs k [] s t ∧ SameOthers k s t
    let waits (i : Instr) (scope : Nat) : Prop :=
      Fetches i s → ∃ t, drains i t ∧ (thr t k).pc = (thr s k).pc ∧ (thr t k).wait = some (.wedge scope) ∧
        (bench t (c / 8)).pass.isSome = true ∧ ((bench s (c / 8)).pass = none → ∃ p, (bench t (c / 8)).pass = some p ∧ p.wedges = [k])
    retires (.wedgeL h 0 0) ∧ retires (.wedgeB h 0 0) ∧ waits (.wedgeD h 0 0) 2 ∧ waits (.wedgeS h 0 0) 3

/-- R79 and R80: a repeat of ADDK whose destination is its source adds the constant as many times as the count says, leaves
RPC at 0 and the PC behind the follower, and counts each iteration in INSTRET; a count of 0 skips the follower and leaves INSTRET
(log entry 33). -/
def Obligations.RepeatRuns : Prop :=
  ∀ (h fh : Hart) (rd : BitVec 5) (imm : BitVec 15) (count : BitVec 16) (s : State),
    Ready h [rd] s → fh.core = h.core → fh.thr = h.thr → fh.chk = .pass → rd ≠ 0 → (Instr.addk fh rd rd imm).wf = true →
    Stands fh (.instr (.addk fh rd rd imm)) ((thr s h.key).pc + 4) s → (thr s h.key).sys.rpc = 0 → (thr s h.key).tx.depth = 0 →
    let k := h.key
    let stands (ni : Bool) : Prop := Stands h (.rep { ni := ni, src := false, z := 0, rs1 := 0, count := count }) (thr s k).pc s
    let runs (i : Instr) : Prop :=
      ∃ t, exec i s = .next t ∧ rx t k rd = rx s k rd + BitVec.ofNat 64 count.toNat * BitVec.ofInt 64 imm.toInt ∧
        (thr t k).pc = (thr s k).pc + 4 + BitVec.ofNat 64 fh.len ∧ (thr t k).sys.rpc = 0 ∧
        (thr t k).sys.instret = (thr s k).sys.instret + BitVec.ofNat 64 count.toNat ∧ (∀ r, r ≠ rd → rx t k r = rx s k r) ∧
        SameMemory s t
    (count.toNat ≤ 64 → stands true → runs (.repN h false 0 0 count (.addk fh rd rd imm))) ∧
    (count.toNat ≤ h.slots → stands false → runs (.repI h false 0 0 count (.addk fh rd rd imm))) ∧
    (64 < count.toNat → stands true → exec (.repN h false 0 0 count (.addk fh rd rd imm)) s =
      .next (faultAt s k (scalarExn 1 0) (thr s k).pc))

/-! ### Threads, waits and interrupts (chapter 4) -/

/-- R88, R91: TPUT places a word in an empty channel, TTRYPUT also says whether it did, TGET takes the word, TPOLL reports
which channels hold one; a TPUT to a full channel and a TGET of an empty one wait, and TPUT_PLACE and TGET_DELIVER complete
them. -/
def Claims.ThreadChannels : Prop :=
  ∀ (h : Hart) (rd rs1 rs2 : BitVec 5) (d : BitVec 3) (ch : BitVec 2) (s : State), Ready h [rd, rs1, rs2] s →
    (thr s h.key).tx.depth = 0 →
    let k := h.key
    let v := rx s k rs2
    let to_ := h.core.toNat * 8 + d.toNat
    let full (u : State) (j : Nat) (c : Nat) : Option W64 := Tbl.get? (thr u j).chans c
    (d.toNat < (Machine.core s h.core.toNat).mode → rx s k rs1 = d.setWidth 64 + (ch.setWidth 64 <<< 4) →
      (full s to_ ch.toNat = none →
        (Fetches (.tput h 0 rs1 rs2) s → ∃ t, exec (.tput h 0 rs1 rs2) s = .next t ∧ full t to_ ch.toNat = some v ∧
          (thr t k).pc = (thr s k).pc + BitVec.ofNat 64 h.len ∧ (∀ r, rx t k r = rx s k r)) ∧
        (Fetches (.ttryput h rd rs1 rs2) s → ∃ t, exec (.ttryput h rd rs1 rs2) s = .next t ∧ full t to_ ch.toNat = some v ∧
          (thr t k).pc = (thr s k).pc + BitVec.ofNat 64 h.len ∧ rx t k rd = if rd = 0 then 0 else 1)) ∧
      (∀ w, full s to_ ch.toNat = some w →
        (Fetches (.tput h 0 rs1 rs2) s → ∃ t, exec (.tput h 0 rs1 rs2) s = .next t ∧ t.cores = s.cores ∧ full t to_ ch.toNat = some w ∧
          (thr t k).pc = (thr s k).pc ∧ (thr t k).wait = some (.tput to_ ch.toNat v)) ∧
        (Fetches (.ttryput h rd rs1 rs2) s → exec (.ttryput h rd rs1 rs2) s = .next (retire (wx s k rd 0) k h.len)))) ∧
    (rx s k rs1 = ch.setWidth 64 → Fetches (.tget h rd rs1 0) s →
      (∀ w, full s k ch.toNat = some w →
        ∃ t, exec (.tget h rd rs1 0) s = .next t ∧ rx t k rd = (if rd = 0 then 0 else w) ∧
          full t k ch.toNat = Tbl.get? (Tbl.erase (thr s k).chans ch.toNat) ch.toNat ∧
          (thr t k).pc = (thr s k).pc + BitVec.ofNat 64 h.len) ∧
      (full s k ch.toNat = none →
        ∃ t, exec (.tget h rd rs1 0) s = .next t ∧ (thr t k).pc = (thr s k).pc ∧ (thr t k).wait = some (.tget ch.toNat rd))) ∧
    (Fetches (.tpoll h rd 0 0) s → exec (.tpoll h rd 0 0) s = .next (retire (wx s k rd (BitVec.ofNat 64
      ((if (full s k 0).isSome then 1 else 0) + (if (full s k 1).isSome then 2 else 0) +
       (if (full s k 2).isSome then 4 else 0) + (if (full s k 3).isSome then 8 else 0)))) k h.len))

/-- R91: the word of a waiting TPUT goes into its channel once the channel is empty, and of two senders the lower-numbered
goes first; a waiting TGET receives the word of its channel. Both then retire. -/
def Claims.ThreadChannelWaits : Prop :=
  ∀ (c : BitVec 11) (n : BitVec 3) (s : State), isCore c.toNat = true → held s (c.toNat / 8) = false →
    let k := c.toNat * 8 + n.toNat
    (∀ d ch v, (thr s k).wait = some (.tput d ch v) → Tbl.get? (thr s d).chans ch = none →
      (∀ i, i < n.toNat → ∀ w, (thr s (c.toNat * 8 + i)).wait ≠ some (.tput d ch w)) →
      ∃ t, exec (.tputPlace c n) s = .next t ∧ Tbl.get? (thr t d).chans ch = some v ∧ (thr t k).wait = none ∧
        (thr t k).pc = (thr s k).pc + 4 ∧ ∀ r, rx t k r = rx s k r) ∧
    (∀ d ch v i w, (thr s k).wait = some (.tput d ch v) → i < n.toNat →
      (thr s (c.toNat * 8 + i)).wait = some (.tput d ch w) → exec (.tputPlace c n) s = .next s) ∧
    (∀ ch rd v, (thr s k).wait = some (.tget ch rd) → Tbl.get? (thr s k).chans ch = some v →
      ∃ t, exec (.tgetDeliver c n) s = .next t ∧ rx t k rd = (if rd = 0 then 0 else v) ∧ (thr t k).wait = none ∧
        (thr t k).pc = (thr s k).pc + 4 ∧ ∀ r, r ≠ rd → rx t k r = rx s k r)

/-- R88 and R91: the channels between the threads of a core, and the instructions that wait on them. -/
def Obligations.ThreadMessages : Prop := Claims.ThreadChannels ∧ Claims.ThreadChannelWaits

/-- R88, R89: TSETR writes a register or RPC of a stopped thread, TREL releases one at a PC and level, TINFO reads an item of
any thread; a running target raises THREAD_STATE and P0 raises PRIVILEGE. -/
def Claims.ThreadRelease : Prop :=
  ∀ (h : Hart) (rd rs1 rs2 : BitVec 5) (d : BitVec 3) (s : State), Ready h [rd, rs1, rs2] s → (thr s h.key).tx.depth = 0 →
    rx s h.key rs1 = d.setWidth 64 → d.toNat < (Machine.core s h.core.toNat).mode →
    let k := h.key
    let j := h.core.toNat * 8 + d.toNat
    let v := rx s k rs2
    let lvl := (thr s k).sys.priv.toNat
    let raises (i : Instr) (code : Nat) : Prop := Fetches i s → exec i s = .next (faultAt s k (scalarExn code 0) (thr s k).pc)
    (lvl = 0 → raises (.tsetr h rd rs1 rs2) 4 ∧ (rd.toNat ≤ 1 → raises (.trel h rd rs1 rs2) 4) ∧ raises (.tinfo h rd rs1 0) 4) ∧
    (lvl ≠ 0 → (d = 0 ∨ j = k ∨ (thr s j).run = .running) →
      raises (.tsetr h rd rs1 rs2) 11 ∧ (rd.toNat ≤ 1 → raises (.trel h rd rs1 rs2) 11)) ∧
    (lvl ≠ 0 → d ≠ 0 → j ≠ k → (thr s j).run ≠ .running →
      (Fetches (.tsetr h rd rs1 rs2) s → ∃ t, exec (.tsetr h rd rs1 rs2) s = .next t ∧ (thr t k).pc = (thr s k).pc + BitVec.ofNat 64 h.len ∧
        (rd ≠ 0 → rx t j rd = v ∧ ∀ q, q ≠ rd → rx t j q = rx s j q) ∧
        (rd = 0 → (thr t j).sys.rpc = v.setWidth 16 ∧ ∀ q, rx t j q = rx s j q)) ∧
      (rd.toNat ≤ 1 → Fetches (.trel h rd rs1 rs2) s → ∃ t, exec (.trel h rd rs1 rs2) s = .next t ∧ (thr t k).pc = (thr s k).pc + BitVec.ofNat 64 h.len ∧
        (thr t j).run = .running ∧ (thr t j).pc = v &&& ~~~ 1 ∧ (thr t j).sys.priv = rd.setWidth 2 ∧ (thr t j).sys.mask = 0 ∧
        (thr t j).sys.bks = false ∧ (thr t j).sys.depth = 0 ∧ (thr t j).sys.bkRec = false ∧
        (Machine.core t h.core.toNat).tpend.getLsbD d.toNat = false ∧ (thr t j).sys.rpc = (thr s j).sys.rpc ∧
        (thr t j).sys.vprog = (thr s j).sys.vprog ∧ (thr t j).chans = (thr s j).chans ∧ ∀ q, rx t j q = rx s j q)) ∧
    (lvl ≠ 0 → let u := thr s j
      let item (i : BitVec 5) (w : W64) : Prop := Fetches (.tinfo h rd rs1 i) s → exec (.tinfo h rd rs1 i) s = .next (retire (wx s k rd w) k h.len)
      item 0 (if j = k then u.pc + 4 else u.pc) ∧ item 1 u.sys.cause ∧ item 2 u.sys.faddr ∧
      item 3 ((match u.run with | .running => 0 | .held => 1 | .halted => 2 | .ended => 3) + (if u.dbg then 16 else 0) +
        (if u.wait.isSome ∨ u.job.map (·.kind) = some .hold then 32 else 0)) ∧
      item 4 (u.sys.rpc.setWidth 64) ∧ item 5 u.sys.vprog ∧ item 6 (statusWord s j))

/-- R92: TEND with nothing owed ends a thread that is not thread 0; thread 0 ends once every other thread of the core has
stopped, and ends the core's part of the kernel, and until then it waits for TEND_COMPLETE. -/
def Claims.ThreadEnd : Prop :=
  (∀ (h : Hart) (s : State), Ready h [] s → Fetches (.tend h 0 0 0) s → (thr s h.key).tx.depth = 0 → inFlight s h.key = false →
    (thr s h.key).ctrOut = [] →
    let k := h.key
    let c := h.core.toNat
    let stopped : Prop := ∀ i, i < (Machine.core s c).mode → c * 8 + i ≠ k → (thr s (c * 8 + i)).run ≠ .running
    (h.thr ≠ 0 ∨ stopped → ∃ t, exec (.tend h 0 0 0) s = .next t ∧ (thr t k).run = .ended ∧ (thr t k).handles = [] ∧
      (thr t k).staged = [] ∧ (thr t k).sys.instret = (thr s k).sys.instret + 1 ∧
      (h.thr = 0 → (Machine.core t c).partEnded = true)) ∧
    (h.thr = 0 → ¬ stopped → ∃ t, exec (.tend h 0 0 0) s = .next t ∧ (thr t k).run = .running ∧ (thr t k).wait = some .tend)) ∧
  (∀ (c : BitVec 11) (s : State), isCore c.toNat = true → held s (c.toNat / 8) = false →
    let k := c.toNat * 8
    (thr s k).wait = some .tend → inFlight s k = false → (thr s k).ctrOut = [] →
    (∀ i, 0 < i → i < (Machine.core s c.toNat).mode → (thr s (k + i)).run ≠ .running) →
    ∃ t, exec (.tendComplete c 0) s = .next t ∧ (thr t k).run = .ended ∧ (thr t k).wait = none ∧
      (Machine.core t c.toNat).partEnded = true ∧ (thr t k).sys.instret = (thr s k).sys.instret + 1)

/-- R88, R89 and R92: releasing a thread, looking at it, and ending it. -/
def Obligations.ThreadLives : Prop := Claims.ThreadRelease ∧ Claims.ThreadEnd

/-- R95 and R98: a WAKE interrupt of a core (cause 25, class 2) that thread 0 does not mask is taken at P1 through the vector of its
cause, with INTR in CAUSE, and its pending condition goes; masked, nothing happens. -/
def Claims.InterruptTaken : Prop :=
  ∀ (c : BitVec 11) (s : State), isCore c.toNat = true → held s (c.toNat / 8) = false →
    let k := c.toNat * 8
    let y := (thr s k).sys
    let h : Hart := { core := c, thr := 0, compact := false, chk := .pass, slots := 0 }
    (Machine.core s c.toNat).irqWake = true → (Machine.core s c.toNat).irqFw = false → (Machine.core s c.toNat).tpend = 0 →
    (thr s k).run = .running → (thr s k).dbg = false → (thr s k).wait = none → (thr s k).job = none → (thr s k).deferred = [] →
    (thr s k).aborts = [] →
    (EntryOk h 25 s →
      ∃ t, exec (.interruptEntry c) s = .next t ∧ (thr t k).pc = (y.vbase1 &&& 0xFFFFFFFFFFFFF000) + 0x640 ∧
        (thr t k).sys.priv = 1 ∧ (thr t k).sys.mask = 2 ∧ (thr t k).sys.cause = 0x119 ∧ (thr t k).sys.faddr = 0 ∧
        (Machine.core t c.toNat).irqWake = false ∧ storeWord t c.toNat ((rx s k 30).toNat - 64) = (thr s k).pc) ∧
    (2 ≤ y.mask.toNat → (Machine.core s c.toNat).irqHost = none → exec (.interruptEntry c) s = .next s)

/-- R190 and R219: the oldest deferred fault of a thread that runs and waits for nothing is taken at its boundary, as a fault at its
PC, and the others stay; an open transaction first aborts with FAULT, or with POISON; where the entry itself must wait, the fault stays
pending. -/
def Claims.DeferredFaultTaken : Prop :=
  ∀ (c : BitVec 11) (n : BitVec 3) (e : Exn) (rest : List Exn) (s : State), isCore c.toNat = true → held s (c.toNat / 8) = false →
    let k := c.toNat * 8 + n.toNat
    (thr s k).deferred = e :: rest → (thr s k).run = .running → (thr s k).dbg = false → (thr s k).wait = none →
    (thr s k).job = none → frameBusy s k = false →
    ∃ u, (thr u k).deferred = rest ∧ (∀ j, j ≠ k → thr u j = thr s j) ∧ SameMemory s u ∧ u.cores = s.cores ∧ SameUnits s u ∧
      { thr u k with deferred := [] } = { thr s k with deferred := [] } ∧
      ((thr s k).tx.depth = 0 →
        (∀ t, route u k e (thr s k).pc = .done t → exec (.deferredFault c n) s = .next t) ∧
        (∀ w, route u k e (thr s k).pc = .wait w → ∃ t, exec (.deferredFault c n) s = .next t ∧ (thr t k).deferred = e :: rest)) ∧
      ((thr s k).tx.depth > 0 → exec (.deferredFault c n) s = .next (abortRaise u k (if e.code = 16 then 8 else 3) e))

/-- R95, R96, R98, R103 and R190: the entry that ECALL and EBREAK take, and the return from it; an interrupt and a deferred fault are
taken at an instruction boundary. -/
def Obligations.TrapsAndReturns : Prop :=
  Claims.TrapEntry ∧ Claims.ReturnFromException ∧ Claims.InterruptTaken ∧ Claims.DeferredFaultTaken

/-! ### The vector unit (chapter 5) -/

/-- R104, R105, R107 and Table 5.3: VARITH on an integer type, lane by lane: an active lane takes the result modulo the
lane's width, an inactive lane keeps its value, and no other register changes. -/
def Claims.VectorIntegerLanes : Prop :=
  ∀ (h : Hart) (f : VFields) (s : State), Ready h [] s → 4 ≤ f.ty.toNat →
    let k := h.key
    let e : Nat := 512 / 8 / 2 ^ (f.ty.toNat - 4)
    let a (i : Nat) : Nat := laneOf e (rv s k f.vs1.toNat) i
    let b (i : Nat) : Nat := laneOf e (rv s k f.vs2.toNat) i
    let sa (i : Nat) : Int := Int.bmod (a i) (2 ^ e)
    let sb (i : Nat) : Int := Int.bmod (b i) (2 ^ e)
    let lanes (fn : BitVec 4) (one : Bool) (g : Nat → Int) : Prop :=
      let f := if one then { f with vs2 := 0 } else f
      Fetches (.varith h f fn) s → ∃ t, exec (.varith h f fn) s = .next t ∧ (thr t k).pc = (thr s k).pc + BitVec.ofNat 64 h.len ∧
        (∀ i, i < 512 / e → (laneOf e (rv t k f.vd.toNat) i : Int) =
          if f.pg = 0 ∨ (rp s k f.pg.toNat).getLsbD i = true then g i % 2 ^ e else laneOf e (rv s k f.vd.toNat) i) ∧
        (∀ r, r ≠ f.vd.toNat → rv t k r = rv s k r) ∧ (∀ r, rx t k r = rx s k r) ∧ (∀ r, rp t k r = rp s k r) ∧ SameMemory s t
    lanes 0 false (fun i => a i + b i) ∧ lanes 1 false (fun i => (a i : Int) - b i) ∧ lanes 2 false (fun i => a i * b i) ∧
    lanes 4 false (fun i => min (sa i) (sb i)) ∧ lanes 5 false (fun i => max (sa i) (sb i)) ∧
    lanes 6 true (fun i => (sa i).natAbs) ∧ lanes 7 true (fun i => -sa i) ∧
    lanes 9 false (fun i => (a i &&& b i : Nat)) ∧ lanes 10 false (fun i => (a i ||| b i : Nat)) ∧
    lanes 11 false (fun i => (a i ^^^ b i : Nat)) ∧ lanes 12 false (fun i => (a i * 2 ^ (b i % e) : Nat)) ∧
    lanes 13 false (fun i => (a i / 2 ^ (b i % e) : Nat)) ∧ lanes 14 false (fun i => sa i / 2 ^ (b i % e))

/-- R106, R109 and Tables 5.3, 5.4: VARITH and the FMA family on a floating type round the exact result once in each active
lane; the paired form does the same on two registers, whose second operand is shared; integer VFMA and VFNMA wrap. -/
def Claims.VectorFloatLanes : Prop :=
  ∀ (h : Hart) (f : VFields) (s : State), Ready h [] s →
    let k := h.key
    let e := vBits f.ty.toNat
    let val (r i : Nat) : Fv := unpack (vFmt f.ty.toNat) (laneOf e (rv s k r) i)
    let writes (i : Instr) (n : Nat) (g : Nat → Nat → Nat) : Prop :=
      Fetches i s → ∃ t, exec i s = .next t ∧ (thr t k).pc = (thr s k).pc + BitVec.ofNat 64 h.len ∧
        (∀ j, j < n → ∀ l, l < vLanes f.ty.toNat → laneOf e (rv t k (f.vd.toNat + j)) l =
          if f.pg = 0 ∨ (rp s k f.pg.toNat).getLsbD l = true then g j l else laneOf e (rv s k (f.vd.toNat + j)) l) ∧
        (∀ r, (r < f.vd.toNat ∨ f.vd.toNat + n ≤ r) → rv t k r = rv s k r) ∧ (∀ r, rx t k r = rx s k r) ∧ SameMemory s t
    let two (fn : BitVec 4) (op : Fv → Fv → Fv) : Prop :=
      writes (.varith h f fn) 1 fun _ l => pack (vFmt f.ty.toNat) (op (val f.vs1.toNat l) (val f.vs2.toNat l))
    let one (fn : BitVec 4) (op : Fv → Fv) : Prop :=
      writes (.varith h { f with vs2 := 0 } fn) 1 fun _ l => pack (vFmt f.ty.toNat) (op (val f.vs1.toNat l))
    let fma (fn : BitVec 4) (op : Fv → Fv → Fv) : Prop :=
      let lane (j l : Nat) : Nat :=
        pack (vFmt f.ty.toNat) (op (val (f.vd.toNat + j) l) ((val (f.vs1.toNat + j) l).mul (val f.vs2.toNat l)))
      writes (.vfma h f fn) 1 lane ∧
      (f.vd.toNat % 2 = 0 → f.vs1.toNat % 2 = 0 → f.vs2 ≠ f.vd → f.vs2.toNat ≠ f.vd.toNat + 1 → writes (.vfma h f (fn + 8)) 2 lane)
    (f.ty.toNat < 4 →
      two 0 Fv.add ∧ two 1 (fun a b => a.add b.neg) ∧ two 2 Fv.mul ∧ two 3 Fv.div ∧ two 4 Fv.min ∧ two 5 Fv.max ∧
      one 6 Fv.abs ∧ one 7 Fv.neg ∧ one 8 Fv.sqrt ∧
      fma 0 (fun d p => d.add p) ∧ fma 1 (fun d p => d.add p.neg) ∧ fma 2 (fun d p => p.add d.neg) ∧
      fma 3 (fun d p => p.neg.add d.neg)) ∧
    (4 ≤ f.ty.toNat →
      let lane (r i : Nat) : Int := laneOf e (rv s k r) i
      writes (.vfma h f 0) 1 (fun _ l => ((lane f.vd.toNat l + lane f.vs1.toNat l * lane f.vs2.toNat l) % 2 ^ e).toNat) ∧
      writes (.vfma h f 1) 1 (fun _ l => ((lane f.vd.toNat l - lane f.vs1.toNat l * lane f.vs2.toNat l) % 2 ^ e).toNat))

/-- R104 to R109 and Tables 5.3 and 5.4: vector arithmetic, lane by lane. -/
def Obligations.VectorLanes : Prop := Claims.VectorIntegerLanes ∧ Claims.VectorFloatLanes

/-- R106: rounding is to the nearest value of the format: no finite pattern of the type lies nearer to an exact value than
the one that the operation gives, where it gives a finite one. -/
def Obligations.RoundsToNearest : Prop :=
  ∀ (ty : Nat) (neg : Bool) (m : Nat) (e : Int), ty < 4 →
    let f := vFmt ty
    let exact : ℚ := (if neg then -1 else 1) * m * (2 : ℚ) ^ e
    let value (v : Fv) : ℚ := match v with
      | .fin n m e => (if n then -1 else 1) * m * (2 : ℚ) ^ e
      | _ => 0
    let finite (p : Nat) : Prop := p % 2 ^ (f.eb + f.mb) < f.infBits
    finite (pack f (.fin neg m e)) →
      ∀ p, p < 2 ^ vBits ty → finite p → |value (unpack f (pack f (.fin neg m e))) - exact| ≤ |value (unpack f p) - exact|

/-- R108 and Table 5.5: compares and predicate logic write one bit for each lane and zero above, PWHILE compares exactly,
PCOUNT counts the bits of the lanes. -/
def Claims.VectorPredicates : Prop :=
  ∀ (h : Hart) (f : VFields) (s : State), Ready h [f.vs1, f.vs2, f.vd] s →
    let k := h.key
    let n := vLanes f.ty.toNat
    let e := vBits f.ty.toNat
    let a (i : Nat) : Nat := laneOf e (rv s k f.vs1.toNat) i
    let b (i : Nat) : Nat := laneOf e (rv s k f.vs2.toNat) i
    let p := rp s k f.vs1.toNat
    let q := rp s k f.vs2.toNat
    let sets (i : Instr) (g : Nat → Prop) : Prop :=
      Fetches i s → ∃ t, exec i s = .next t ∧ (thr t k).pc = (thr s k).pc + BitVec.ofNat 64 h.len ∧
        (∀ j, j < 64 → ((rp t k f.vd.toNat).getLsbD j = true ↔ j < n ∧ g j)) ∧
        (∀ r, r ≠ f.vd.toNat → rp t k r = rp s k r) ∧ (∀ r, rv t k r = rv s k r) ∧ (∀ r, rx t k r = rx s k r) ∧ SameMemory s t
    let on (g : Nat → Prop) (i : Nat) : Prop := (f.pg = 0 ∨ (rp s k f.pg.toNat).getLsbD i = true) ∧ g i
    let f0 := { f with pg := 0 }
    (f.vd.toNat < 8 →
      (4 ≤ f.ty.toNat →
        sets (.vcmp h f 0) (on fun i => a i = b i) ∧ sets (.vcmp h f 1) (on fun i => a i ≠ b i) ∧
        sets (.vcmp h f 2) (on fun i => Int.bmod (a i) (2 ^ e) < Int.bmod (b i) (2 ^ e)) ∧
        sets (.vcmp h f 3) (on fun i => Int.bmod (a i) (2 ^ e) ≤ Int.bmod (b i) (2 ^ e)) ∧
        sets (.vcmp h f 4) (on fun i => a i < b i) ∧ sets (.vcmp h f 5) (on fun i => a i ≤ b i)) ∧
      (f.ty.toNat < 4 →
        let u (v : Nat) : Fv := unpack (vFmt f.ty.toNat) v
        sets (.vcmp h f 0) (on fun i => (u (a i)).eq (u (b i)) = true) ∧ sets (.vcmp h f 1) (on fun i => (u (a i)).eq (u (b i)) = false) ∧
        sets (.vcmp h f 2) (on fun i => (u (a i)).lt (u (b i)) = true) ∧
        sets (.vcmp h f 3) (on fun i => (u (a i)).lt (u (b i)) = true ∨ (u (a i)).eq (u (b i)) = true) ∧
        sets (.vcmp h f 6) (on fun i => (u (a i)).isNan = true ∨ (u (b i)).isNan = true)) ∧
      (f.vs1.toNat < 8 → f.vs2.toNat < 8 →
        sets (.pand h f0) (fun i => p.getLsbD i = true ∧ q.getLsbD i = true) ∧
        sets (.por h f0) (fun i => p.getLsbD i = true ∨ q.getLsbD i = true) ∧
        sets (.pxor h f0) (fun i => p.getLsbD i ≠ q.getLsbD i) ∧
        sets (.pandn h f0) (fun i => p.getLsbD i = true ∧ q.getLsbD i = false)) ∧
      sets (.pwhile h f0) (fun i => (rx s k f.vs1).toInt + i < (rx s k f.vs2).toInt)) ∧
    (f.vs1.toNat < 8 → Fetches (.pcount h { f0 with vs2 := 0 }) s → exec (.pcount h { f0 with vs2 := 0 }) s =
      .next (retire (wx s k f.vd (BitVec.ofNat 64 ((List.range n).filter fun i => p.getLsbD i).length)) k h.len))

/-- R111, R112 and Table 5.7: VBCAST, VEXT, VINS, VPERM, VCVT and the reductions, which fold the active lanes in ascending
order and leave zero in every lane but lane 0. -/
def Claims.VectorMoves : Prop :=
  ∀ (h : Hart) (f : VFields) (s : State), Ready h [f.vd, f.vs1, f.vs2] s →
    let k := h.key
    let ty := f.ty.toNat
    let e := vBits ty
    let n := vLanes ty
    let lane (r i : Nat) : Nat := laneOf e (rv s k r) i
    let active (i : Nat) : Prop := f.pg = 0 ∨ (rp s k f.pg.toNat).getLsbD i = true
    let writes (i : Instr) (p : Nat → Prop) (g : Nat → Nat) : Prop :=
      Fetches i s → ∃ t, exec i s = .next t ∧ (thr t k).pc = (thr s k).pc + BitVec.ofNat 64 h.len ∧
        (∀ l, l < n → (p l → laneOf e (rv t k f.vd.toNat) l = g l) ∧ (¬ p l → laneOf e (rv t k f.vd.toNat) l = lane f.vd.toNat l)) ∧
        (∀ r, r ≠ f.vd.toNat → rv t k r = rv s k r) ∧ (∀ r, rx t k r = rx s k r) ∧ (∀ r, rp t k r = rp s k r) ∧ SameMemory s t
    let f0 := { f with pg := 0 }
    let sel := (rx s k f.vs2).toNat % n
    let one := { f with vs2 := 0 }
    let folds (i : Instr) (z : Nat) (op : Nat → Nat → Nat) : Prop :=
      writes i (fun _ => True) fun l => if l = 0 then
        (List.range n).foldl (fun acc i => if f.pg = 0 ∨ (rp s k f.pg.toNat).getLsbD i = true then op acc (lane f.vs1.toNat i) else acc) z
        else 0
    writes (.vbcast h one) active (fun _ => (rx s k f.vs1).toNat % 2 ^ e) ∧
    writes (.vins h f0) (fun l => l = sel) (fun _ => (rx s k f.vs1).toNat % 2 ^ e) ∧
    writes (.vperm h f) active (fun l => lane f.vs1.toNat (lane f.vs2.toNat l % n)) ∧
    (Fetches (.vext h f0) s → exec (.vext h f0) s = .next (retire (wx s k f.vd
      (if ty < 4 then BitVec.ofNat 64 (lane f.vs1.toNat sel) else BitVec.ofInt 64 (Int.bmod (lane f.vs1.toNat sel) (2 ^ e)))) k h.len)) ∧
    (f.vs2.toNat < 8 → f.vs2.toNat ≠ ty →
      let st := f.vs2.toNat
      let src (i : Nat) : Nat := laneOf (vBits st) (rv s k f.vs1.toNat) i
      writes (.vcvt h f) active fun l =>
        if vLanes st ≤ l then 0
        else if st < 4 then (if ty < 4 then pack (vFmt ty) (unpack (vFmt st) (src l))
          else (toInt e (unpack (vFmt st) (src l)) % 2 ^ e).toNat)
        else (if ty < 4 then pack (vFmt ty) (ofInt (Int.bmod (src l) (2 ^ vBits st)))
          else (Int.bmod (src l) (2 ^ vBits st) % 2 ^ e).toNat)) ∧
    (4 ≤ ty →
      let sg (v : Nat) : Int := Int.bmod v (2 ^ e)
      folds (.vredsum h one) 0 (fun a b => (a + b) % 2 ^ e) ∧
      folds (.vredmin h one) (2 ^ (e - 1) - 1) (fun a b => if sg a ≤ sg b then a else b) ∧
      folds (.vredmax h one) (2 ^ (e - 1)) (fun a b => if sg a ≤ sg b then b else a)) ∧
    (ty < 4 →
      let fm := vFmt ty
      let op (g : Fv → Fv → Fv) (a b : Nat) : Nat := pack fm (g (unpack fm a) (unpack fm b))
      folds (.vredsum h one) 0 (op Fv.add) ∧ folds (.vredmin h one) fm.infBits (op Fv.min) ∧
      folds (.vredmax h one) (2 ^ (fm.eb + fm.mb) + fm.infBits) (op Fv.max))

/-- R108, R111 and R112: compares, predicates, moves, conversions and reductions. -/
def Obligations.VectorPredicatesAndMoves : Prop := Claims.VectorPredicates ∧ Claims.VectorMoves

/-- R110, R113 and R114: vector loads of the core's own store. Every active lane takes the bytes at its address, low byte
first; the others keep theirs. -/
def Claims.VectorLoads : Prop :=
  ∀ (h : Hart) (f : VFields) (s : State), Ready h [f.vs1, f.vs2] s → OwnAccess h s →
    let k := h.key
    let e := vBits f.ty.toNat
    let n := vLanes f.ty.toNat
    let base := rx s k f.vs1
    let o := rx s k f.vs2
    let active (i : Nat) : Prop := f.pg = 0 ∨ (rp s k f.pg.toNat).getLsbD i = true
    let loads (i : Instr) (regs : Nat) (addr : Nat → Nat → W64) : Prop :=
      (∀ j l, j < regs → l < n → active l → OwnAddr h s (e / 8) (addr j l)) → Fetches i s →
      ∃ t, exec i s = .next t ∧ (thr t k).pc = (thr s k).pc + BitVec.ofNat 64 h.len ∧ (thr t k).sys.vprog = 0 ∧
        (∀ j l, j < regs → l < n →
          (active l → laneOf e (rv t k (f.vd.toNat + j)) l = storeNat s h.core.toNat (addr j l).toNat (e / 8)) ∧
          (¬ active l → laneOf e (rv t k (f.vd.toNat + j)) l = laneOf e (rv s k (f.vd.toNat + j)) l)) ∧
        (∀ r, (r < f.vd.toNat ∨ f.vd.toNat + regs ≤ r) → rv t k r = rv s k r) ∧ (∀ r, rx t k r = rx s k r) ∧ SameMemory s t
    (thr s k).sys.vprog = 0 →
    loads (.vld h f) 1 (fun _ l => base + o + BitVec.ofNat 64 (l * (e / 8))) ∧
    loads (.vlds h f) 1 (fun _ l => base + BitVec.ofNat 64 l * o) ∧
    loads (.vldb h f) 1 (fun _ _ => base + o) ∧
    (f.vd.toNat % 2 = 0 → loads (.vld2 h f) 2 (fun j l => base + o + BitVec.ofNat 64 (64 * j + l * (e / 8)))) ∧
    (f.ty.toNat % 4 < 2 → n ≤ h.slots → loads (.vgather h f) 1
      (fun _ l => base + BitVec.ofInt 64 (Int.bmod (laneOf e (rv s k f.vs2.toNat) l) (2 ^ e))))

/-- R110, R115 and R178: vector stores to the core's own store. Each byte that active lanes store to takes the byte of the
highest such lane, every other byte of memory and every register reads as before. -/
def Claims.VectorStores : Prop :=
  ∀ (h : Hart) (f : VFields) (s : State), Ready h [f.vs1, f.vs2] s → OwnAccess h s → memWf s.ls = true →
    let k := h.key
    let c := h.core.toNat
    let e := vBits f.ty.toNat
    let n := vLanes f.ty.toNat
    let base := rx s k f.vs1
    let o := rx s k f.vs2
    let active (i : Nat) : Prop := f.pg = 0 ∨ (rp s k f.pg.toNat).getLsbD (i % n) = true
    let stores (i : Instr) (regs : Nat) (addr : Nat → W64) : Prop :=
      let covers (l p : Nat) : Prop := l < regs * n ∧ active l ∧ (addr l).toNat ≤ p ∧ p < (addr l).toNat + e / 8
      (∀ l, l < regs * n → active l → OwnAddr h s (e / 8) (addr l)) → Fetches i s →
      ∃ t, exec i s = .next t ∧ (thr t k).pc = (thr s k).pc + BitVec.ofNat 64 h.len ∧
        (∀ l p, covers l p → (∀ m, l < m → ¬ covers m p) →
          storeByte t c p = byteOf (laneOf e (rv s k (f.vd.toNat + l / n)) (l % n)) (p - (addr l).toNat)) ∧
        (∀ d p, p < 2 ^ 20 → (d = c → ∀ l, ¬ covers l p) → storeByte t d p = storeByte s d p) ∧
        (∀ a, hbmByte t a = hbmByte s a) ∧ t.hostMem = s.hostMem ∧ SameRegs k [] s t
    (thr s k).sys.vprog = 0 →
    stores (.vst h f) 1 (fun l => base + o + BitVec.ofNat 64 (l * (e / 8))) ∧
    stores (.vsts h f) 1 (fun l => base + BitVec.ofNat 64 l * o) ∧
    (f.vd.toNat % 2 = 0 → stores (.vst2 h f) 2 (fun l => base + o + BitVec.ofNat 64 (64 * (l / n) + l % n * (e / 8)))) ∧
    (f.ty.toNat % 4 < 2 → n ≤ h.slots → stores (.vscatter h f) 1
      (fun l => base + BitVec.ofInt 64 (Int.bmod (laneOf e (rv s k f.vs2.toNat) l) (2 ^ e))))

/-- R110 and R113 to R115: vector loads and stores of the core's own store. Choices of the model in it: log entry 12. -/
def Obligations.VectorMemory : Prop := Claims.VectorLoads ∧ Claims.VectorStores

/-! ### The matrix unit (chapter 7) -/

/-- R143, R144, R137, R155 and Table 7.2: TCFG configures the selected tiles and clears those whose descriptor changes; TCFGR
reads four descriptors, TSTAT and TSTAT.C read (and clear) a statistics word, TSEED sets an LFSR, TZERO clears a tile. -/
def Claims.TileControl : Prop :=
  ∀ (h : Hart) (f : TCtlFields) (td : BitVec 3) (s : State), Ready h [f.rd, f.rs1, f.rs1 + 1] s →
    let k := h.key
    let old (i : Nat) : Tile := tile s k i
    let goes (i : Instr) (p : State → Prop) : Prop :=
      Fetches i s → ∃ t, exec i s = .next t ∧ (thr t k).pc = (thr s k).pc + BitVec.ofNat 64 h.len ∧ SameMemory s t ∧ p t
    let sel (i : Nat) : Prop := i < 8 ∧ f.imm8.getLsbD i = true
    let desc (i : Nat) : BitVec 16 := ((rx s k (f.rs1 + BitVec.ofNat 5 (i / 4))) >>> (16 * (i % 4))).setWidth 16
    let valid (d : BitVec 16) : Prop :=
      descRows d ≤ 32 ∧ descRows d * descWidth d ≤ (if (Machine.core s h.core.toNat).mode = 8 then 1024 else 2048) ∧ descFmt d ≤ 12 ∧
      d.toNat % 8 = 0 ∧ descWidth d % widthMultiple (descFmt d) = 0
    let same (t : State) (i : Nat) : Prop := tile t k i = old i
    ((f.rs1 = 31 → f.imm8.toNat < 16) → (∀ i, sel i → valid (desc i)) →
      goes (.tcfg h { f with rd := 0, t := 0 }) fun t => (∀ i, ¬ sel i → same t i) ∧
        (∀ i, sel i → (tile t k i).desc = desc i ∧ ((old i).desc = desc i → same t i) ∧
          ((old i).desc ≠ desc i → (tile t k i).data = [] ∧ (tile t k i).scales = [] ∧ (tile t k i).stats = 0))) ∧
    (f.t.toNat < 2 → Fetches (.tcfgr h { f with rs1 := 0, imm8 := 0 }) s →
      exec (.tcfgr h { f with rs1 := 0, imm8 := 0 }) s = .next (retire (wx s k f.rd
        (((old (4 * f.t.toNat)).desc.setWidth 64) + ((old (4 * f.t.toNat + 1)).desc.setWidth 64 <<< 16) +
          ((old (4 * f.t.toNat + 2)).desc.setWidth 64 <<< 32) + ((old (4 * f.t.toNat + 3)).desc.setWidth 64 <<< 48))) k h.len)) ∧
    (Fetches (.tstat h { f with rs1 := 0, imm8 := 0 }) s →
      exec (.tstat h { f with rs1 := 0, imm8 := 0 }) s = .next (retire (wx s k f.rd (old f.t.toNat).stats) k h.len)) ∧
    goes (.tstatC h { f with rs1 := 0, imm8 := 0 }) (fun t => rx t k f.rd = (if f.rd = 0 then 0 else (old f.t.toNat).stats) ∧
      (tile t k f.t.toNat).stats = 0 ∧ (tile t k f.t.toNat).data = (old f.t.toNat).data ∧ ∀ i, i ≠ f.t.toNat → same t i) ∧
    goes (.tseed h { f with rd := 0, imm8 := 0 }) (fun t => (tile t k f.t.toNat).lfsr =
      (if (rx s k f.rs1).toNat % 2 ^ 32 = 0 then 1 else (rx s k f.rs1).setWidth 32) ∧
      (tile t k f.t.toNat).data = (old f.t.toNat).data ∧ ∀ i, i ≠ f.t.toNat → same t i) ∧
    (descRows (old td.toNat).desc ≠ 0 →
      goes (.tzero h { td := td, ta := 0, tb := 0, rs := 0, scm := 0, rnd := false, z := 0 }) (fun t =>
        (∀ r i, tileCode (tile t k td.toNat) r i = 0 ∧ tileScale (tile t k td.toNat) r i = 0) ∧ (tile t k td.toNat).stats = 0 ∧
        (tile t k td.toNat).desc = (old td.toNat).desc ∧ ∀ i, i ≠ td.toNat → same t i))

/-- R157 to R161: TMMA with tiles that agree joins the core's array and its thread waits; TMMA_COMPLETE takes the oldest,
adds to each INT32 element of C the sum of the products of the signed bytes of a row of A and a row of B, modulo 2³², or for
binary32 rounds after each product in ascending order, and the thread goes on. -/
def Obligations.TileMultiply : Prop :=
  let agree (a b c : Tile) : Prop :=
    descRows c.desc = descRows a.desc ∧ descElems c.desc = descRows b.desc ∧ descElems a.desc = descElems b.desc ∧
    descRows a.desc ≠ 0 ∧ descRows b.desc ≠ 0
  (∀ (h : Hart) (f : TCompFields) (s : State), Ready h [] s →
    let k := h.key
    let a := tile s k f.ta.toNat
    let b := tile s k f.tb.toNat
    let c := tile s k f.td.toNat
    f.rs = 0 → f.scm = 0 → f.rnd = false → f.z = 0 → f.td ≠ f.ta → f.td ≠ f.tb → agree a b c →
    ((descFmt a.desc = 11 ∧ descFmt b.desc = 11 ∧ descFmt c.desc = 12) ∨
      (descFmt a.desc = descFmt b.desc ∧ (descFmt a.desc = 8 ∨ descFmt a.desc = 9 ∨ descFmt a.desc = 10) ∧ descFmt c.desc = 10)) →
    Fetches (.tmma h f) s → ∃ t, exec (.tmma h f) s = .next t ∧ (thr t k).wait = some .tmma ∧ (thr t k).pc = (thr s k).pc ∧
      (Machine.core t h.core.toNat).array = (Machine.core s h.core.toNat).array ++ [{ thr := h.thr.toNat, td := f.td, ta := f.ta, tb := f.tb }] ∧
      (∀ i, tile t k i = tile s k i) ∧ SameMemory s t) ∧
  (∀ (n : BitVec 11) (j : TmmaJob) (rest : List TmmaJob) (s : State), isCore n.toNat = true → held s (n.toNat / 8) = false →
    (Machine.core s n.toNat).array = j :: rest →
    let k := n.toNat * 8 + j.thr
    let a := tile s k j.ta.toNat
    let b := tile s k j.tb.toNat
    let c := tile s k j.td.toNat
    j.td ≠ j.ta → j.td ≠ j.tb → agree a b c →
    let done (value : Nat → Nat → Nat) : Prop :=
      ∃ t, exec (.tmmaComplete n .pass) s = .next t ∧ (Machine.core t n.toNat).array = rest ∧ (thr t k).wait = none ∧
        (thr t k).pc = (thr s k).pc + 4 ∧
        (∀ r i, r < descRows c.desc → i < descElems c.desc → tileCode (tile t k j.td.toNat) r i = value r i) ∧
        (∀ i, i ≠ j.td.toNat → tile t k i = tile s k i) ∧ SameMemory s t
    (descFmt a.desc = 11 → descFmt b.desc = 11 → descFmt c.desc = 12 →
      done fun r i => ((tileCode c r i + ((List.range (descElems a.desc)).map fun p =>
        Int.bmod (tileCode a r p) 256 * Int.bmod (tileCode b i p) 256).sum) % 2 ^ 32).toNat) ∧
    (descFmt a.desc = 10 → descFmt b.desc = 10 → descFmt c.desc = 10 →
      done fun r i => pack f32 ((List.range (descElems a.desc)).foldl (fun acc p => unpack f32 (pack f32
        (acc.add ((unpack f32 (tileCode a r p)).mul (unpack f32 (tileCode b i p)))))) (unpack f32 (tileCode c r i)))))

/-- R125, R148 to R152: TLOAD and TSTORE of a tile whose format is its own form in memory and has no side data, rows one
after another or at a stride, from and to the core's own store; TCBLD loads a codebook. Choices of the model in it: log entry 12. -/
def Obligations.TileMemory : Prop :=
  ∀ (h : Hart) (f : TMemFields) (s : State), Ready h [f.rs1, f.rs2] s → OwnAccess h s →
    let k := h.key
    let c := h.core.toNat
    let x := tile s k f.t.toNat
    let fmt := descFmt x.desc
    let w := tileBits fmt / 8
    let base := rx s k f.rs1
    let stride := rx s k f.rs2
    let row (r : Nat) : W64 :=
      if f.d then base + BitVec.ofNat 64 r * stride else base + BitVec.ofNat 64 (r * descWidth x.desc)
    let at_ (r i : Nat) : Nat := (row r).toNat + i * w
    let inRow (r p : Nat) : Prop := r < descRows x.desc ∧ (row r).toNat ≤ p ∧ p < (row r).toNat + descWidth x.desc
    8 ≤ fmt → fmt ≤ 12 → f.mf.toNat = fmt + 1 → f.scm = 0 → f.rnd = false → f.q = false → f.z = 0 → (f.d = false → f.rs2 = 0) →
    descRows x.desc ≠ 0 → descRows x.desc ≤ h.slots → base.toNat % 8 = 0 → (f.d = true → stride.toNat % 8 = 0) →
    (∀ r b, r < descRows x.desc → b < descWidth x.desc → OwnAddr h s 1 (row r + BitVec.ofNat 64 b)) →
    (Fetches (.tload h f) s → ∃ t, exec (.tload h f) s = .next t ∧ (thr t k).pc = (thr s k).pc + BitVec.ofNat 64 h.len ∧
      (∀ r i, r < descRows x.desc → i < descElems x.desc → tileCode (tile t k f.t.toNat) r i = storeNat s c (at_ r i) w) ∧
      (tile t k f.t.toNat).desc = x.desc ∧ (∀ i, i ≠ f.t.toNat → tile t k i = tile s k i) ∧ (∀ r, rx t k r = rx s k r) ∧
      SameMemory s t) ∧
    (memWf s.ls = true → Fetches (.tstore h f) s →
      ∃ t, exec (.tstore h f) s = .next t ∧ (thr t k).pc = (thr s k).pc + BitVec.ofNat 64 h.len ∧
        (∀ r p, inRow r p → (∀ q, r < q → ¬ inRow q p) →
          storeByte t c p = byteOf (tileCode x r ((p - (row r).toNat) / w)) ((p - (row r).toNat) % w)) ∧
        (∀ d p, p < 2 ^ 20 → (d = c → ∀ r, ¬ inRow r p) → storeByte t d p = storeByte s d p) ∧
        (∀ a, hbmByte t a = hbmByte s a) ∧ t.hostMem = s.hostMem ∧ SameRegs k [] s t)

/-- R154, R134: TCVT to bf16, binary16 or binary32 rounds each element's value; from INT32 to INT8 it saturates; R128: TCBLD
takes 16 or 32 bytes as a codebook. -/
def Claims.TileConversion : Prop :=
  ∀ (h : Hart) (td ta : BitVec 3) (s : State), Ready h [] s →
    let k := h.key
    let a := tile s k ta.toNat
    let d := tile s k td.toNat
    let fa := descFmt a.desc
    let fd := descFmt d.desc
    td ≠ ta → descRows a.desc ≠ 0 → descRows d.desc = descRows a.desc → descElems d.desc = descElems a.desc → fa ≠ fd →
    let i : Instr := .tcvt h { td := td, ta := ta, tb := 0, rs := 0, scm := 0, rnd := false, z := 0 }
    let gives (code : Nat → Nat → Nat) : Prop :=
      Fetches i s → ∃ t, exec i s = .next t ∧
        (thr t k).pc = (thr s k).pc + BitVec.ofNat 64 h.len ∧
        (∀ r i, r < descRows a.desc → i < descElems a.desc → tileCode (tile t k td.toNat) r i = code r i) ∧
        (∀ i, i ≠ td.toNat → tile t k i = tile s k i) ∧ (∀ r, rx t k r = rx s k r) ∧ SameMemory s t
    (fd = 8 → gives fun r i => pack bf16 (tileValue a r i)) ∧ (fd = 9 → gives fun r i => pack f16 (tileValue a r i)) ∧
    (fd = 10 → gives fun r i => pack f32 (tileValue a r i)) ∧
    (fd = 11 → fa = 12 → gives fun r i => (max (-128) (min 127 (Int.bmod (tileCode a r i) (2 ^ 32))) % 256).toNat) ∧
    (∀ (f : TCtlFields), busyReg s k f.rs1 = false → f.rd = 0 → f.imm8.toNat ≤ 1 → OwnAccess h s →
      let n : Nat := if f.imm8 = 0 then 16 else 32
      OwnAddr h s n (rx s k f.rs1) → Fetches (.tcbld h f) s →
      ∃ t, exec (.tcbld h f) s = .next t ∧ (thr t k).pc = (thr s k).pc + BitVec.ofNat 64 h.len ∧
        (tile t k f.t.toNat).codebook = BitVec.ofNat 256 (storeNat s h.core.toNat (rx s k f.rs1).toNat n) ∧
        (tile t k f.t.toNat).cbBf16 = (f.imm8 != 0) ∧ (tile t k f.t.toNat).data = (tile s k f.t.toNat).data ∧ SameMemory s t)

/-- R143, R144 and R154: the control instructions of tiles and the conversions between tiles. -/
def Obligations.TileControlAndConversion : Prop := Claims.TileControl ∧ Claims.TileConversion

/-! ### Accesses at their homes (chapters 8, 9, 15) -/

/-- R36, Table 1.8: the stack and the offset in it of an HBM device address, in both modes; the function maps device addresses one to one onto stack
locations; in the quadrant-local mode a 64 KiB page lies within one share and spans all four stacks of its quadrant. -/
def Obligations.Interleave : Prop :=
  (∀ (s : State) (a : Nat), a < 2 ^ 40 →
    let f (hi lo : Nat) : Nat := a / 2 ^ lo % 2 ^ (hi + 1 - lo)
    (s.dev.full = false → stackOf s a = 4 * f 39 38 + (f 13 12 ^^^ f 21 20 ^^^ f 29 28) ∧ hbmLoc s a % 2 ^ 36 = f 37 14 * 2 ^ 12 + f 11 0) ∧
    (s.dev.full = true → stackOf s a = f 15 12 ^^^ f 23 20 ^^^ f 31 28 ^^^ f 39 36 ∧ hbmLoc s a % 2 ^ 36 = f 39 16 * 2 ^ 12 + f 11 0)) ∧
  (∀ (s : State) (a b : Nat), a < 2 ^ 40 → b < 2 ^ 40 → hbmLoc s a = hbmLoc s b → a = b) ∧
  (∀ (s : State) (l : Nat), l < 2 ^ 40 → ∃ a, a < 2 ^ 40 ∧ hbmLoc s a = l) ∧
  ∀ (s : State) (a : Nat), a < 2 ^ 40 → s.dev.full = false →
    (∀ b, b / 2 ^ 16 = a / 2 ^ 16 → stackOf s b / 4 = a / 2 ^ 38) ∧
      ∀ q, q < 4 → ∃ b, b / 2 ^ 16 = a / 2 ^ 16 ∧ stackOf s b = 4 * (a / 2 ^ 38) + q

/-- R179, R186, R300 and R304: a read at a local store's mesh port or an HBM home answers with the bytes of the home and its
poison, a write stores its bytes, breaks other threads' watches of the line and is acknowledged; an HBM write also takes an
entry of the home's write buffer. -/
def Claims.HomeReadsAndWrites : Prop :=
  ∀ (m : Nat) (x : Msg) (core_ slot : Nat) (s : State), arrived s m = some x → held s x.dst = false →
    let req := Requester.access core_ slot
    let answered (t : State) (pay : Payload) : Prop :=
      t.inbox = s.inbox.filter (fun y => y.id != x.id) ∧
      ∃ y, t.mesh = s.mesh ++ [y] ∧ y.cls = 1 ∧ y.src = x.dst ∧ y.dst = x.src ∧ y.pos = x.dst ∧ y.pay = pay
    (∀ c o len, x.pay = .read (.store c o) len req → goodCore s c = true → lineLocked s (.store c o) = false →
      (node s (c / 8)).gated = false → memWf s.ls = true → o % 64 + len ≤ 64 →
      ∃ t, exec (.localStoreAccess m 0) s = .next t ∧
        answered t (.data ((List.range len).map fun i => storeByte s c (o + i)) (homePoison (gbufFlush s c (o / 64)) (.store c o)) 1 req) ∧
        ∀ d p, p < 2 ^ 20 → storeByte t d p = storeByte s d p) ∧
    (∀ c o bytes, x.pay = .write (.store c o) bytes false req → goodCore s c = true → lineLocked s (.store c o) = false →
      (node s (c / 8)).gated = false → memWf s.ls = true → o < 2 ^ 20 → (∀ b ∈ bytes, (o + b.1) / 64 = o / 64) →
      ∃ t, exec (.localStoreAccess m 0) s = .next t ∧ answered t (.ack req) ∧
        (∀ p, p < 2 ^ 20 → storeByte t c p = match bytes.reverse.find? fun b => o + b.1 == p with
          | some b => b.2 | none => storeByte s c p) ∧
        (∀ d p, d ≠ c → p < 2 ^ 20 → storeByte t d p = storeByte s d p) ∧ t.hbm = s.hbm ∧
        (∀ w ∈ s.watches, w.home = .store (BitVec.ofNat 11 c) → w.line = (2 ^ 40 + c * 2 ^ 20 + o) / 64 →
          some w.thr ≠ reqThread s req → { w with broken := true } ∈ t.watches)) ∧
    (∀ a len, x.pay = .read (.hbm a) len req → lineLocked s (.hbm a) = false →
      ∃ t, exec (.hbmRead m 0) s = .next t ∧
        answered t (.data ((List.range len).map fun i => hbmByte s (a + i)) (homePoison s (.hbm a)) 3 req) ∧ SameMemory s t) ∧
    (∀ a bytes, x.pay = .write (.hbm a) bytes false req → lineLocked s (.hbm a) = false → wbufUsed s (stackOf s a) < 4096 →
      withdrawn s a = false → memWf s.hbm = true → a < 2 ^ 40 → (∀ b ∈ bytes, (a + b.1) / 64 = a / 64) →
      ∃ t, exec (.hbmWrite m 0) s = .next t ∧ answered t (.ack req) ∧
        (stack t (stackOf s a)).wbuf = (stack s (stackOf s a)).wbuf ++ [a / 64] ∧
        (∀ p, p < 2 ^ 40 → hbmByte t p = match bytes.reverse.find? fun b => a + b.1 == p with
          | some b => b.2 | none => hbmByte s p) ∧ t.ls = s.ls)

/-- R198 and Table 9.5: an atomic at its home in a local store answers the old value and stores the new one, sized by the
form: sums wrap, minimum and maximum are signed, a compare-and-swap stores only on equality; a poisoned line is not changed
and the answer is an error. -/
def Claims.HomeAtomics : Prop :=
  ∀ (m : Nat) (x : Msg) (core_ slot c o op n : Nat) (operand compare : W64) (s : State), arrived s m = some x →
    held s x.dst = false → (node s (c / 8)).gated = false → goodCore s c = true → lineLocked s (.store c o) = false →
    memWf s.ls = true → o % n = 0 → o < 2 ^ 20 → n = 4 ∨ n = 8 →
    x.pay = .atomic (.store c o) op n operand compare (.access core_ slot) →
    let req := Requester.access core_ slot
    let old : Nat := storeNat s c o n
    let v : Nat := operand.toNat % 2 ^ (8 * n)
    let sg (a : Nat) : Int := Int.bmod a (2 ^ (8 * n))
    let becomes (new : Nat) : Prop :=
      homePoison s (.store c o) = false →
      ∃ t y, exec (.homeAtomic m 0) s = .next t ∧ t.mesh = s.mesh ++ [y] ∧ y.cls = 1 ∧ y.dst = x.src ∧
        y.pay = .data ((List.range n).map fun i => storeByte s c (o + i)) false 1 req ∧
        (∀ p, p < 2 ^ 20 → storeByte t c p = if o ≤ p ∧ p < o + n then byteOf new (p - o) else storeByte s c p) ∧
        (∀ d p, d ≠ c → p < 2 ^ 20 → storeByte t d p = storeByte s d p)
    (op = 0 → becomes (old + v)) ∧ (op = 1 → becomes (if sg old ≤ sg v then old else v)) ∧
    (op = 2 → becomes (if sg old ≤ sg v then v else old)) ∧ (op = 3 → becomes (old &&& v)) ∧ (op = 4 → becomes (old ||| v)) ∧
    (op = 5 → becomes (old ^^^ v)) ∧ (op = 6 → becomes v) ∧
    (op = 7 → becomes (if old = compare.toNat % 2 ^ (8 * n) then v else old)) ∧
    (op = 8 → n = 4 → becomes (pack f32 ((unpack f32 old).add (unpack f32 v)))) ∧
    (homePoison (gbufFlush s c (o / 64)) (.store c o) = true →
      ∃ t y, exec (.homeAtomic m 0) s = .next t ∧ t.mesh = s.mesh ++ [y] ∧ y.dst = x.src ∧
        y.pay = .error (16 + 5 * 2 ^ 8 + 2 ^ 16) req ∧ ∀ d p, p < 2 ^ 20 → storeByte t d p = storeByte s d p)

/-- R179, R186, R198, R300 and R304: reads, writes and atomics at the home of a line. -/
def Obligations.HomeAccesses : Prop := Claims.HomeReadsAndWrites ∧ Claims.HomeAtomics

/-- R183, R186 and R190: an answer frees the access's scoreboard entry; a load's data go to its register, extended as its size says, an
acknowledgement only frees it, and an error becomes a deferred fault of the thread. -/
def Obligations.AnswersReachThreads : Prop :=
  ∀ (m : Nat) (x : Msg) (c slot : Nat) (e : SbEntry) (ext : Ext) (s : State), arrived s m = some x →
    Tbl.get? (Machine.core s c).sb slot = some e → e.tx = false → (thr s e.thr).run ≠ .ended →
    let req := Requester.access c slot
    let freed (t : State) : Prop :=
      (Machine.core t c).sb = Tbl.erase (Machine.core s c).sb slot ∧ t.inbox = s.inbox.filter (fun y => y.id != x.id) ∧ SameMemory s t
    (∀ bytes holder rd n signed, x.pay = .data bytes false holder req → e.sink = .load rd n signed → e.write = false →
      leNat bytes < 2 ^ (8 * n) →
      ∃ t, exec (.loadResponse m ext) s = .next t ∧ freed t ∧ (∀ q, q ≠ rd → rx t e.thr q = rx s e.thr q) ∧
        (rd ≠ 0 → rx t e.thr rd = if signed then BitVec.ofInt 64 (Int.bmod (leNat bytes) (2 ^ (8 * n))) else BitVec.ofNat 64 (leNat bytes)) ∧
        (thr t e.thr).pc = (thr s e.thr).pc) ∧
    (∀ bytes holder rd n signed, x.pay = .data bytes true holder req → e.sink = .load rd n signed → e.write = false → e.eng = 0 →
      holder < 16 →
      ∃ t, exec (.loadResponse m ext) s = .next t ∧ freed t ∧ (∀ q, rx t e.thr q = rx s e.thr q) ∧
        (thr t e.thr).deferred = (thr s e.thr).deferred ++
          [{ code := 16, engine := 0, info := BitVec.ofNat 32 (1 + holder * 2 ^ 8 + 2 ^ 31), faddr := BitVec.ofNat 64 (e.first * 64) }]) ∧
    (x.pay = .ack req → (∀ i, e.sink ≠ .part i) → ∃ t, exec (.writeAcknowledgement m) s = .next t ∧ freed t ∧ t.threads = s.threads) ∧
    (x.pay = .error 8 req → e.write = true → e.sink = .none →
      ∃ t, exec (.writeAcknowledgement m) s = .next t ∧ freed t ∧
        (thr t e.thr).deferred = (thr s e.thr).deferred ++
          [{ code := 8, engine := e.eng, info := BitVec.ofNat 32 (e.lane % 64 + 2 ^ 31), faddr := e.faddr }])

/-- R170 to R172, R178, R179, R301, R302 and R304: scrubbing, refresh, write-buffer and gather-buffer rows, and the access
that waits at a gated bench. With automatic fencing off, what a scrubber finds is counted in the unit's record and a line
that is lost is marked poisoned: an A-bank's code corrects 1 bit and detects 2, a W-bank's corrects 2 and detects 3, HBM's
corrects one symbol of a codeword and detects two. Choices of the model in it: log entry 12. -/
def Obligations.StoreUpkeep : Prop :=
  ∀ (c : BitVec 11) (o : BitVec 20) (st : BitVec 4) (a : BitVec 36) (line : BitVec 14) (n : BitVec 8) (s : State),
    isCore c.toNat = true → held s (c.toNat / 8) = false → policy s 0x0100 = 0 →
    let core_ := unitName 1 c.toNat
    let pc := unitName 3 (64 * st.toNat + (bits a.toNat 17 12 ^^^ bits a.toNat 23 18))
    let most : BitVec 3 := if o.toNat < 2 ^ 19 then 1 else 2
    exec (.patrolScrub c o 0) s = .next s ∧ exec (.hbmScrub st a 0) s = .next s ∧
    (goodCore s c.toNat = true →
      (∀ wrong, 0 < wrong → wrong ≤ most → ∃ t, exec (.patrolScrub c o wrong) s = .next t ∧ (unitRec t core_).corr = min ((unitRec s core_).corr + 1) (2 ^ 32 - 1) ∧
        SameMemory s t ∧ t.lsPoison = s.lsPoison) ∧
      (∃ t, exec (.patrolScrub c o (most + 1)) s = .next t ∧ homePoison t (.store c.toNat o.toNat) = true ∧
        (unitRec t core_).uncorr = min ((unitRec s core_).uncorr + 1) 65535 ∧ SameMemory s t)) ∧
    (∃ t, exec (.hbmScrub st a 1) s = .next t ∧ (unitRec t pc).corr = min ((unitRec s pc).corr + 1) (2 ^ 32 - 1) ∧
      SameMemory s t ∧ t.hbmPoison = s.hbmPoison) ∧
    (∃ t, exec (.hbmScrub st a 2) s = .next t ∧ NSet.has t.hbmPoison ((st.toNat * 2 ^ 36 + a.toNat) / 64) = true ∧
      (unitRec t pc).uncorr = min ((unitRec s pc).uncorr + 1) 65535 ∧ SameMemory s t) ∧
    (∃ t, exec (.hbmRefresh st) s = .next t ∧ SameMemory s t ∧ (stack t st.toNat).refreshes =
      (stack s st.toNat).refreshes + if (stack s st.toNat).selfRefresh then 0 else 1) ∧
    (∃ t, exec (.writeBufferRetire st) s = .next t ∧ (stack t st.toNat).wbuf = (stack s st.toNat).wbuf.drop 1 ∧ SameMemory s t) ∧
    (memWf s.ls = true → ∃ t, exec (.gatherBufferWriteback c line) s = .next t ∧
      (∀ e ∈ (Machine.core t c.toNat).gbuf, e.line ≠ line) ∧
      (∀ p, p / 64 = line.toNat → memGet t.ls (c.toNat * 2 ^ 20 + p) = storeByte s c.toNat p) ∧
      ∀ d p, p < 2 ^ 20 → storeByte t d p = storeByte s d p) ∧
    (∀ x rest d p len co sl, s.inbox = x :: rest → x.dst = n.toNat → isBench n.toNat = true → held s n.toNat = false →
      (node s n.toNat).gated = true → x.pay = .read (.store d p) len (.access co sl) → d / 8 = n.toNat → goodCore s d = true →
      lineLocked s (.store d p) = false → memWf s.ls = true → p % 64 + len ≤ 64 →
      ∃ t y, exec (.retentionExit n) s = .next t ∧ t.mesh = s.mesh ++ [y] ∧ y.dst = x.src ∧
        y.pay = .data ((List.range len).map fun i => storeByte s d (p + i)) (homePoison (gbufFlush s d (p / 64)) (.store d p)) 1 (.access co sl))

/-! ### Bench caches, the mesh and the skip buses (chapter 15) -/

/-- R289 to R292: what a lookup of a bench cache does with a read and a write that a core handed to it. A read that finds its
bytes is answered from the way and counts a hit; one that finds no line takes a way and asks the line's home for it, a dirty
victim's bytes going home first; a write is put in a way without fetching the line and acknowledged; a bypassed cache passes
both on to the home. -/
def Claims.CacheLookups : Prop :=
  ∀ (m : Nat) (x : Msg) (t : Target) (len ctx by_ : Nat) (bytes : List Byte) (poison : Bool) (req : Requester) (s : State),
    inboxGet s m = some x → held s x.dst = false → isFenced s 2 x.dst = false → bcBusy (bench s x.dst) (targetAddr t / 64) = false →
    let n := x.dst
    let line := targetAddr t / 64
    let o := targetAddr t % 64
    (x.pay = .cacheRead t len ctx req →
      ((bench s n).bypass = true → ∃ u, exec (.bcRead m .clean) s = .next u ∧ LastSent u 3 n (targetNode s t) (.read t len req) ∧
        u.inbox = s.inbox.filter (fun y => y.id != m) ∧ u.benches = s.benches) ∧
      (∀ key w, (bench s n).bypass = false → bcFind (bench s n) line = some (key, w) → bcHits w o len = true →
        ∃ u, exec (.bcRead m .clean) s = .next u ∧ HandsBack s u m n (.data (wayBytes w o len) w.poison 2 req) ∧
          (bench u n).hits = (bench s n).hits + 1 ∧ (bench u n).ways = (bench s n).ways ∧ SameMemory s u) ∧
      (∀ key victim, (bench s n).bypass = false → bcFind (bench s n) line = none → fetchesFull (bench s n) = false →
        takeWay s n line = some (key, victim) →
        ∃ u f, exec (.bcRead m .clean) s = .next u ∧ u.inbox = s.inbox.filter (fun y => y.id != m) ∧
          (bench u n).misses = (bench s n).misses + 1 ∧ (bench u n).fetches = (bench s n).fetches ++ [f] ∧
          f.line = line ∧ f.way = key ∧ f.victim = victim ∧ f.waiting = [x] ∧
          (∃ w, Tbl.get? (bench u n).ways key = some w ∧ w.line = line ∧ w.filled = false ∧ w.dirty = 0) ∧
          (victim = none → LastSent u 3 n (targetNode s (lineTarget line)) (.read (lineTarget line) 64 (.fetch n line))) ∧
          (∀ v, victim = some v → LastSent u (writeClass (lineTarget v.line)) n (targetNode s (lineTarget v.line))
            (.write (lineTarget v.line) (maskBytes v.dirty v.data) v.poison (.writeBack n v.line))))) ∧
    (x.pay = .cacheWrite t bytes poison ctx by_ req →
      ((bench s n).bypass = true → ∃ u, exec (.bcWrite m .clean) s = .next u ∧
        LastSent u (writeClass t) n (targetNode s t) (.write t (offsets bytes) poison req) ∧
        u.inbox = s.inbox.filter (fun y => y.id != m) ∧ u.benches = s.benches) ∧
      (∀ key w, (bench s n).bypass = false → bcFind (bench s n) line = some (key, w) →
        ∃ u, exec (.bcWrite m .clean) s = .next u ∧ HandsBack s u m n (.ack req) ∧ (bench u n).hits = (bench s n).hits + 1 ∧
          Tbl.get? (bench u n).ways key = some (wayWrite w o (offsets bytes) poison ctx) ∧
          bit (bench u n).bits.toNat (by_ % 64) = true ∧ SameMemory s u) ∧
      (∀ key, (bench s n).bypass = false → bcFind (bench s n) line = none → takeWay s n line = some (key, none) →
        ∃ u, exec (.bcWrite m .clean) s = .next u ∧ HandsBack s u m n (.ack req) ∧ (bench u n).fetches = (bench s n).fetches ∧
          Tbl.get? (bench u n).ways key = some (wayWrite (emptyWay line ctx) o (offsets bytes) poison ctx) ∧
          bit (bench u n).bits.toNat (by_ % 64) = true ∧ SameMemory s u))

/-- R291 and R292: the line that a fetch brings merges under the dirty bytes of its way and answers the read that waits for it;
the acknowledgement of a victim's write-back lets the access that took its way go on. -/
def Claims.CacheFills : Prop :=
  ∀ (m : Nat) (node : BitVec 8) (x y : Msg) (f : Fetch) (ext : Ext) (s : State), arrived s m = some x → x.dst = node.toNat →
    held s node.toNat = false → isFenced s 2 node.toNat = false → f.waiting = [y] →
    let n := node.toNat
    (∀ bytes poison holder line w t len c req, x.pay = .data bytes poison holder (.fetch n line) → fetchOf s n line = some f → f.dead = false →
      bcFind (bench s n) line = some (f.way, w) → y.pay = .cacheRead t len c req →
      let w' := mergeLine w bytes poison
      ∃ u, exec (.bcFill m ext) s = .next u ∧ Tbl.get? (bench u n).ways f.way = some w' ∧
        (bench u n).fetches = (bench s n).fetches.erase f ∧ SameMemory s u ∧
        HandsBack s u m n (.data (wayBytes w' (targetAddr t % 64) len) w'.poison (if poison then holder else 2) req)) ∧
    (∀ line v, isBench n = true → x.pay = .ack (.writeBack n line) → f.victim = some v → v.line = line → (bench s n).fetches = [f] →
      (∀ t len c req, y.pay = .cacheRead t len c req →
        ∃ u, exec (.victimWriteback node m) s = .next u ∧ (bench u n).fetches = [{ f with victim := none, sent := true }] ∧
          LastSent u 3 n (targetNode s (lineTarget f.line)) (.read (lineTarget f.line) 64 (.fetch n f.line)) ∧
          u.inbox = s.inbox.filter (fun y => y.id != m)) ∧
      (∀ t bytes poison ctx by_ req, y.pay = .cacheWrite t bytes poison ctx by_ req →
        ∃ u, exec (.victimWriteback node m) s = .next u ∧ (bench u n).fetches = [] ∧
          Tbl.get? (bench u n).ways f.way = some (wayWrite (emptyWay f.line ctx) (targetAddr t % 64) (offsets bytes) poison ctx) ∧
          ∃ z ∈ u.inbox, z.cls = 5 ∧ z.dst = n ∧ z.pay = .ack req))

/-- R187, R188, R294 and R295: a write-back pass, and the cleaning of ways that are turned off, take a dirty line out of the cache and
send its dirty bytes to its home; once every write-back has been accepted a pass invalidates what is left and its wedge completes,
after step 4 where a WEDGE.S wrote through a host port, and the cleaned ways lose their power. -/
def Claims.CacheCleaning : Prop :=
  ∀ (node : BitVec 8) (key line : Nat) (w : Way) (s : State), isBench node.toNat = true → held s node.toNat = false →
    (bench s node.toNat).fetches = [] →
    let n := node.toNat
    let home := lineTarget w.line
    let goesHome (t : State) : Prop :=
      (bench t n).ways = [] ∧ (bench t n).wblines = (bench s n).wblines + 1 ∧ SameMemory s t ∧ bcBusy (bench t n) w.line = true ∧
      LastSent t (writeClass home) n (targetNode s home) (.write home (maskBytes w.dirty w.data) w.poison (.writeBack n w.line))
    (∀ p, (bench s n).ways = [(key, w)] → w.dirty ≠ 0 → bcFind (bench s n) w.line = some (key, w) →
      (bench s n).pass = some p → p.todo.contains w.line = true →
      ∃ t, exec (.bcWritebackPass node w.line .clean) s = .next t ∧ goesHome t ∧
        (bench t n).pass = some { p with todo := p.todo.erase w.line }) ∧
    (∀ p k scope, (bench s n).pass = some p → p.todo = [] → p.wedges = [k] → (thr s k).wait = some (.wedge scope) → scope ≠ 4 →
      (∀ j, j ≠ k → ∀ sc, (thr s j).wait ≠ some (.wedge sc)) →
      ∃ t, exec (.bcWritebackPass node line .clean) s = .next t ∧ (bench t n).pass = none ∧ SameMemory s t ∧
        (∀ e ∈ (bench t n).ways, e.2.dirty ≠ 0 ∧ e.2.filled = false) ∧
        (scope ≠ 3 ∨ (thr s k).hostPorts = [] → (thr t k).wait = none ∧ (thr t k).pc = (thr s k).pc + 4) ∧
        (∀ q rest, scope = 3 → (thr s k).hostPorts = q :: rest → (thr t k).wait = some (.wedge 4) ∧ (thr t k).pc = (thr s k).pc ∧
          ∃ y ∈ t.mesh, y.cls = 3 ∧ y.dst = portNode q ∧ y.pay = .read (.host q 0) 0 (.flush k q))) ∧
    ((bench s n).cleaning = true →
      ((bench s n).ways = [(key, w)] → w.dirty ≠ 0 → bit (bench s n).wayen.toNat (key % 16) = false →
        ∃ t, exec (.wayPowerDown node) s = .next t ∧ goesHome t ∧ (bench t n).cleaning = true) ∧
      ((∀ e ∈ (bench s n).ways, bit (bench s n).wayen.toNat (e.1 % 16) = true) →
        ∃ t, exec (.wayPowerDown node) s = .next t ∧ (bench t n).ways = (bench s n).ways ∧ (bench t n).wayon = (bench s n).wayen ∧
          (bench t n).cleaning = false ∧ SameMemory s t))

/-- R188 and R289 to R295: lookups, fills, write-backs and cleaning of a bench cache. Choices of the model in it: log entries 15, 16. -/
def Obligations.BenchCaches : Prop := Claims.CacheLookups ∧ Claims.CacheFills ∧ Claims.CacheCleaning

/-- R434 to R436, R294: the two writes of a guarded register by firmware. The first is held with its source and the pacer count;
the complement within 64 ticks gives BC_WAYEN its value, and cleaning begins; a value that is not the complement changes
nothing but raises GUARD_FAIL; a held write that is not completed in time is dropped. -/
def Claims.GuardedPairs : Prop :=
  ∀ (w : RegSource) (node : BitVec 8) (v : W64) (s : State), isF w = true → isBench node.toNat = true →
    held s node.toNat = false → isFenced s 2 node.toNat = false →
    let n := node.toNat
    let g : Guard := { off := 0x20000, value := v, src := w, thr := srcKey s w, since := pacerOf s n }
    ((Machine.node s n).guard = none →
      ∃ t, exec (.bcWayen w node false v) s = .next t ∧ (Machine.node t n).guard = some g ∧ t.benches = s.benches) ∧
    (∀ since, (Machine.node s n).guard = some { g with since := since } →
      (pacerSince s n since ≤ 64 → 2 ≤ popCount (v.setWidth 16).toNat 16 →
        ∃ t, exec (.bcWayen w node true (~~~ v)) s = .next t ∧ (Machine.node t n).guard = none ∧
          (bench t n).wayen = v.setWidth 16 ∧ (bench t n).wayon = (bench s n).wayon ||| v.setWidth 16 ∧
          (bench t n).cleaning = ((bench s n).wayon &&& ~~~ v.setWidth 16 != 0) ∧ (bench t n).ways = (bench s n).ways ∧
          (Machine.node t n).cntGuard = (Machine.node s n).cntGuard) ∧
      (∀ u, u ≠ ~~~ v → ∃ t, exec (.bcWayen w node true u) s = .next t ∧ (Machine.node t n).guard = none ∧
        t.benches = s.benches ∧ (Machine.node t n).cntGuard = min ((Machine.node s n).cntGuard + 1) 65535 ∧
        (Machine.node t n).errFlags = (Machine.node s n).errFlags ||| 1) ∧
      (64 < pacerSince s n since →
        ∃ t, exec (.guardTimeout node) s = .next t ∧ (Machine.node t n).guard = none ∧ t.benches = s.benches ∧
          (Machine.node t n).errFlags = (Machine.node s n).errFlags ||| 1 ∧ (Machine.node t n).errOff = 0x20000))

/-- R282 to R285: a router sends a flit, of the one message that waits there and has a credit, one hop along its row and then along its
column; at the message's destination the flit delivers it, with the pacer count. The flit is counted, and a link keeps it for replay. -/
def Claims.FlitHops : Prop :=
  ∀ (node : BitVec 8) (d : Dir) (m : Nat) (x : Msg) (s : State), held s node.toNat = false → neighbour node.toNat d = some m →
    let n := node.toNat
    s.mesh.filter (fun y => y.pos == n) = [x] → x.cls ∈ [1, 2, 3, 4] → routeDir n x.dst = d → held s m = false →
    hasCredit s n d x.cls = true →
    ∃ t, exec (.flitHop node d) s = .next t ∧ (Machine.node t n).flits = (Machine.node s n).flits + 1 ∧
      t.threads = s.threads ∧ SameMemory s t ∧
      (d ≠ .here → t.inbox = s.inbox ∧ t.mesh.getLast? = some { x with pos := m, inp := inputOf d, flit := x.id } ∧
        (∀ y ∈ t.mesh, y.pos = n → y.id = s.nextMsg ∨ y.id = s.nextMsg + 1) ∧ x.id ∈ Tbl.getD (Machine.node t n).resend (dirNum d) [] ∧
        (m % 16 = n % 16 ∨ m / 16 = n / 16)) ∧
      (d = .here → nodeKind n ≠ 2 → x.dst = n ∧ t.inbox = s.inbox ++ [{ x with pos := n, arr := pacerOf s n }] ∧
        ∀ y ∈ t.mesh, y.id ≠ x.id)

/-- R287 and Table 22.6: where the sender of a link holds flits for replay, a refused flit is resent with those after it, in their order:
they come in again behind the other messages, none is lost, and the request is counted at the receiver. -/
def Claims.MeshReplays : Prop :=
  ∀ (node : BitVec 8) (d : Dir) (s : State), held s node.toNat = false → d ≠ .here →
    let n := node.toNat
    sentFlits s n d ≠ [] →
    let again (x : Msg) : Bool := x.pos == n && x.inp == d && (sentFlits s n d).contains x.flit
    ∃ t, exec (.meshReplay node d) s = .next t ∧ t.inbox = s.inbox ∧ t.threads = s.threads ∧ SameMemory s t ∧
      (∀ x, x ∈ t.mesh ↔ x ∈ s.mesh) ∧ t.mesh.length = s.mesh.length ∧ t.mesh.filter again = s.mesh.filter again ∧
      (t.mesh.filter fun x => !again x) = (s.mesh.filter fun x => !again x) ∧
      Tbl.get? (Machine.node t n).replays (dirNum d) = some (min (Tbl.getD (Machine.node s n).replays (dirNum d) 0 + 1) 65535)

/-- R282 to R285 and R287: flits on the mesh, hop by hop, and their replays. -/
def Obligations.MeshHops : Prop := Claims.FlitHops ∧ Claims.MeshReplays

/-- R272 and R296: firmware's write of SKIP_LAUNCH at an HBM home, and a thread's from its own quadrant, queue the launch on the quadrant's
bus, behind those that wait, and a thread's write is acknowledged. -/
def Claims.SkipLaunches : Prop :=
  ∀ (node : BitVec 8) (v : W64) (s : State),
    let n := node.toNat
    let q := quadOf n
    nodeKind n = 1 → held s n = false → bits v.toNat 56 52 = 0 → bits v.toNat 5 0 = 0 → (skipJobs s q).length < 8 →
    (bit v.toNat 57 = true ∨ (Tbl.get? s.ctxs (bits v.toNat 63 58)).isSome = true) →
    let queued (t : State) (kind : Nat) : Prop :=
      ∃ j, skipJobs t q = skipJobs s q ++ [j] ∧ j.value = v ∧ j.srck = kind ∧ j.running = false ∧ j.beat = 0 ∧ SameMemory s t
    (∃ t, exec (.skipLaunch .mgmt node v) s = .next t ∧ queued t 2 ∧ t.mesh = s.mesh ∧ t.threads = s.threads) ∧
    (∀ m x bytes poison core_ slot e, arrived s m = some x → x.dst = n →
      x.pay = .write (.reg n 0x90000) bytes poison (.access core_ slot) → bytes.length = 8 → leNat (bytes.map (·.2)) = v.toNat →
      Tbl.get? (Machine.core s core_).sb slot = some e → quadOf (e.thr / 64) = q → bit v.toNat 57 = false →
      ∃ t, exec (.skipLaunch (.thread m) node v) s = .next t ∧ queued t 0 ∧ LastSent t 1 n x.src (.ack (.access core_ slot)) ∧
        ∀ j, (skipJobs t q).getLast? = some j → j.core = e.thr / 8 ∧ j.thr = e.thr % 8)

/-- R297: the oldest launch of a bus reads its descriptor and takes every bus that it names once they are free; a transfer that runs
writes 256 bytes of HBM in each step, in ascending order, to the same offset of every core in service that it names, and nothing else. -/
def Claims.SkipMoves : Prop :=
  ∀ (quad : BitVec 2) (ext : Ext) (j : SkipJob) (rest : List SkipJob) (w : List W64) (s : State),
    let q := quad.toNat
    heldQuad s q = false → skipJobs s q = j :: rest →
    (j.running = false → readWords8 s (bits j.value.toNat 51 6 * 64) ext = some w → skipShape s q j w = true →
      (∀ o, o < 4 → (skipJobs s o).head?.map (·.running) ≠ some true) →
      ∃ t, exec (.skipTransfer quad ext) s = .next t ∧ SameMemory s t ∧ skipJobs t q =
        { j with running := true, words := w, skipped := ((skipCores w).filter fun c => !goodCore s c).length } :: rest) ∧
    (∀ a, j.running = true → j.words = w → j.code = 0 → skipSrc s w = some a → j.beat < skipLen w → skipStalls s w a j.beat = false →
      memWf s.ls = true → skipSplit w = false → skipDest w 0 + 256 * (j.beat + 1) ≤ 2 ^ 20 →
      let dst := skipDest w 0 + 256 * j.beat
      ∃ t j', exec (.skipTransfer quad ext) s = .next t ∧ skipJobs t q = j' :: rest ∧ j'.beat = j.beat + 1 ∧ j'.running = true ∧
        t.hbm = s.hbm ∧
        (∀ c ∈ skipCores w, goodCore s c = true → ∀ p, p < 256 → storeByte t c (dst + p) = hbmByte s (a + 256 * j.beat + p)) ∧
        (∀ c p, p < 2 ^ 20 → (p < dst ∨ dst + 256 ≤ p ∨ c ∉ skipCores w ∨ goodCore s c = false) → storeByte t c p = storeByte s c p))

/-- R298 and R279: a transfer that has moved its last beat leaves its bus and sends its increment; one that ended with a status gives the
thread that launched it a deferred fault. -/
def Claims.SkipEnds : Prop :=
  ∀ (quad : BitVec 2) (j : SkipJob) (rest : List SkipJob) (s : State),
    let q := quad.toNat
    heldQuad s q = false → skipJobs s q = j :: rest → j.running = true →
    (j.code = 0 → skipLen j.words ≤ j.beat → skipField j.words 4 6 6 = 0 →
      ∃ t, exec (.skipCompletion quad) s = .next t ∧ skipJobs t q = rest ∧ SameMemory s t ∧ t.threads = s.threads ∧
        (skipField j.words 4 5 5 = 0 → t.mesh = s.mesh) ∧
        (∀ cell, skipField j.words 4 5 5 = 1 →
          resolveName s (bits j.value.toNat 63 58) 2 (if j.srck = 0 then some j.core else none) none (skipField j.words 4 60 32) = .ok cell →
          LastSent t 3 (homeNodes.getD (4 * q) 0) (cellNode s cell) (.counter cell false 1 .unit))) ∧
    (j.code ≠ 0 → j.srck = 0 → j.ring = none → (thr s (j.core * 8 + j.thr)).run ≠ .ended →
      ∃ t, exec (.skipCompletion quad) s = .next t ∧ skipJobs t q = rest ∧ SameMemory s t ∧
        (thr t (j.core * 8 + j.thr)).deferred = (thr s (j.core * 8 + j.thr)).deferred ++
          [{ code := causeOfStatus j.code, engine := 3, info := BitVec.ofNat 32 (j.code + 2 ^ 31), faddr := BitVec.ofNat 64 j.faddr }])

/-- R296 to R298: transfers of the skip buses, from launch to completion. -/
def Obligations.SkipTransfers : Prop := Claims.SkipLaunches ∧ Claims.SkipMoves ∧ Claims.SkipEnds

/-! ### Counters and transactions (chapters 10 and 11) -/

/-- R204, R205 and R208: CINC, CINC.B and CDEC send an operation to the cell that their name resolves to, with the amount of rs2 or
1; CREAD reads the cell once the thread's own operations have been applied; CWAIT completes at once where the cell's value already
reaches its target, by the cell's mode, and waits where it does not. -/
def Claims.CounterInstructions : Prop :=
  ∀ (h : Hart) (rd rs1 rs2 : BitVec 5) (cell : CellId) (ctx : Nat) (x : Ctx) (s : State), Ready h [rd, rs1, rs2] s →
    let k := h.key
    (thr s k).tx.depth = 0 → ctxOf s k = some ctx → Tbl.get? s.ctxs ctx = some x → x.virt = false →
    threadName s k (rx s k rs1) = .ok cell → (∀ d code, cell ≠ .remote d code) →
    let amount := if rs2 = 0 then 1 else (rx s k rs2).toNat
    let sent (i : Instr) (dec : Bool) : Prop :=
      Fetches i s → ∃ t y, exec i s = .next t ∧ y ∈ t.mesh ∧ y.id = s.nextMsg ∧ y.cls = 3 ∧ y.src = h.core.toNat / 8 ∧ y.dst = cellNode s cell ∧
        y.pay = .counter cell dec amount (.counter h.core.toNat h.thr.toNat (rx s k rs1).toNat) ∧
        (thr t k).ctrOut = (thr s k).ctrOut ++ [s.nextMsg] ∧ (thr t k).pc = (thr s k).pc + BitVec.ofNat 64 h.len ∧
        (∀ r, rx t k r = rx s k r) ∧ t.coreCells = s.coreCells ∧ t.wbCells = s.wbCells ∧ SameMemory s t
    (amount < 2 ^ 32 → sent (.cinc h 0 rs1 rs2) false ∧ sent (.cdec h 0 rs1 rs2) true ∧
      (writesInFlight s k = false → sent (.cincB h 0 rs1 rs2) false)) ∧
    (2 ^ 32 ≤ amount → Fetches (.cinc h 0 rs1 rs2) s → exec (.cinc h 0 rs1 rs2) s =
      .next (faultAt s k (counterExn s k (rx s k rs1).toNat 1 false) (thr s k).pc)) ∧
    (cellAlive s cell = true →
      ((thr s k).ctrOut = [] → Fetches (.cread h rd rs1 0) s → exec (.cread h rd rs1 0) s = .next (retire (wx s k rd ((cellValue s cell).setWidth 64)) k h.len)) ∧
      (waitable k cell = true →
        let v := (cellValue s cell).toNat
        let target := (rx s k rs2).toNat
        let d := (target + 2 ^ 48 - v) % 2 ^ 48
        let completes_ : Prop := Fetches (.cwait h 0 rs1 rs2) s → exec (.cwait h 0 rs1 rs2) s = .next (retire s k h.len)
        let waits_ : Prop := Fetches (.cwait h 0 rs1 rs2) s → ∃ t entry since, exec (.cwait h 0 rs1 rs2) s = .next t ∧ (thr t k).pc = (thr s k).pc ∧
          (thr t k).wait = some (.cwait cell (rx s k rs1) (rx s k rs2) entry false since) ∧ ∀ r, rx t k r = rx s k r
        (cellCredit s cell = true → target < 2 ^ 47 → (target ≤ v → completes_) ∧ (v < target → waits_)) ∧
        (cellCredit s cell = false → target < 2 ^ 48 → (d = 0 ∨ 2 ^ 47 < d → completes_) ∧ (0 < d → d < 2 ^ 47 → waits_))))

/-- R202: a direct counter name with bit 19 is the issuing core's own cell, and one without it is the cell of the logical core that it
names; a name with a reserved bit, or of a cell above 47, names none. -/
def Claims.CounterNames : Prop :=
  ∀ (k ctx i lc c : Nat) (x : Ctx) (s : State), ctxOf s k = some ctx → Tbl.get? s.ctxs ctx = some x → x.virt = false → lvlOf s k < 2 →
    (i < 48 → goodCore s (k / 8) = true → threadName s k (BitVec.ofNat 64 (0x80000 + i)) = .ok (.core (k / 8) i)) ∧
    (i < 48 → lc < 2048 → x.lcore[lc]? = some c → goodCore s c = true → (Machine.core s c).ctx = some ctx →
      threadName s k (BitVec.ofNat 64 (lc * 256 + i)) = .ok (.core c i)) ∧
    (48 ≤ i → i < 64 → threadName s k (BitVec.ofNat 64 (0x80000 + i)) = .bad 1) ∧
    (lc < 2048 → i < 48 → x.lcore[lc]? = none → threadName s k (BitVec.ofNat 64 (lc * 256 + i)) = .bad 2) ∧
    threadName s k 0x40 = .bad 1 ∧ threadName s k 0x10000000 = .bad 3

/-- R200, R207 and R208: an operation delivered at its cell. A MONO cell adds modulo 2^48 and refuses a decrement; a CREDIT cell adds
below 2^47 and subtracts what it holds. What is refused leaves the cell as it was and is answered with COUNTER and its reason; a unit's
operation has no answer. A CWAIT that the new value satisfies is marked. -/
def Claims.CounterOperations : Prop :=
  ∀ (m : Nat) (x : Msg) (c i : Nat) (dec : Bool) (amount cc ct name : Nat) (s : State), arrived s m = some x → held s x.dst = false →
    goodCore s c = true → (Machine.core s c).ctrDead = false →
    let req := Requester.counter cc ct name
    let cell := CellId.core c i
    let v := (cellValue s cell).toNat
    let credit := bit (Machine.core s c).ctrMode.toNat i
    let others (t : State) : Prop := t.wbCells = s.wbCells ∧ ∀ j, j ≠ c * 64 + i → Tbl.getD t.coreCells j 0 = Tbl.getD s.coreCells j 0
    (x.pay = .counter cell dec amount req →
      let becomes (w : Nat) : Prop := ∃ t, exec (.counterApply m) s = .next t ∧ cellValue t cell = BitVec.ofNat 48 w ∧ others t ∧
        LastSent t 1 x.dst x.src (.ack req) ∧
        ∀ k nm tg en since, (thr s k).wait = some (.cwait cell nm tg en false since) →
          (thr t k).wait = some (.cwait cell nm tg en (met t cell tg) since)
      let refused_ (reason : Nat) : Prop := ∃ t, exec (.counterApply m) s = .next t ∧ t.coreCells = s.coreCells ∧ t.wbCells = s.wbCells ∧
        LastSent t 1 x.dst x.src (.error (14 + reason * 256) req)
      (credit = false → dec = false → becomes (v + amount)) ∧ (credit = false → dec = true → refused_ 4) ∧
      (credit = true → dec = false → v + amount < 2 ^ 47 → becomes (v + amount)) ∧
      (credit = true → dec = false → 2 ^ 47 ≤ v + amount → refused_ 7) ∧
      (credit = true → dec = true → amount ≤ v → becomes (v - amount)) ∧ (credit = true → dec = true → v < amount → refused_ 5)) ∧
    (x.pay = .counter cell false amount .unit → credit = false →
      ∃ t, exec (.counterApply m) s = .next t ∧ cellValue t cell = BitVec.ofNat 48 (v + amount) ∧ others t ∧ t.mesh = s.mesh ∧
        t.inbox = s.inbox.filter (fun y => y.id != m))

/-- R200 to R208: counter names, the counter instructions and the operations at a cell. Choices of the model in it: log entry 10. -/
def Obligations.Counters : Prop := Claims.CounterInstructions ∧ Claims.CounterNames ∧ Claims.CounterOperations

/-- R205, R206, R211 and R212: a CWAIT whose target was met completes and one whose target was not goes on waiting; a CWAIT without an
entry at its weighbridge reads the cell again every 256 ticks; a context that stays quiet for its Quiet Limit goes through a confirming
round, writes its snapshots, and is woken or halted as its setting says. Choices of the model in it: log entries 2, 20. -/
def Obligations.WaitsAndDeadlock : Prop :=
  (∀ (c : BitVec 11) (n : BitVec 3) (s : State), isCore c.toNat = true → held s (c.toNat / 8) = false →
    let k := c.toNat * 8 + n.toNat
    let over_ (t : State) : Prop := (thr t k).wait = none ∧ (thr t k).pc = (thr s k).pc + 4 ∧ (∀ r, rx t k r = rx s k r) ∧
      t.coreCells = s.coreCells ∧ t.wbCells = s.wbCells
    (∀ cell nm tg since, (thr s k).wait = some (.cwait cell nm tg true true since) →
      ∃ t, exec (.cwaitSatisfied c n) s = .next t ∧ over_ t ∧ ∀ w ∈ t.wbWaits, w.2 ≠ k) ∧
    (∀ cell nm tg since, (thr s k).wait = some (.cwait cell nm tg true false since) → exec (.cwaitSatisfied c n) s = .next s) ∧
    (∀ w i nm tg since, (thr s k).wait = some (.cwait (.wb w i) nm tg false false since) →
      (256 ≤ pacerSince s (wbNode w) since → met s (.wb w i) tg = true → ∃ t, exec (.cwaitPoll c n) s = .next t ∧ over_ t) ∧
      (256 ≤ pacerSince s (wbNode w) since → met s (.wb w i) tg = false →
        ∃ t, exec (.cwaitPoll c n) s = .next t ∧ (thr t k).pc = (thr s k).pc ∧
          (thr t k).wait = some (.cwait (.wb w i) nm tg false false (pacerOf s (wbNode w)))) ∧
      (pacerSince s (wbNode w) since < 256 → exec (.cwaitPoll c n) s = .next s))) ∧
  (∀ (i : BitVec 6) (x : Ctx) (s : State), Tbl.get? s.ctxs i.toNat = some x →
    let ctx := i.toNat
    (∀ since, x.quietSince = some since → x.quiet ≠ 0 → x.quiet ≤ pacerSince s 181 since → ctxQuiet s ctx = true → x.quietMark = quietSign s x →
      ∃ t, exec (.quietLimitReached i) s = .next t ∧ Tbl.get? t.ctxs ctx = some { x with confirming := true } ∧ t.threads = s.threads) ∧
    (x.confirming = true → memWf s.ls = true →
      let s1 := modCtx s ctx fun x => { x with confirming := false, quietSince := none }
      (ctxQuiet s1 ctx = false → exec (.contextDeadlock i) s = .next s1) ∧
      (ctxQuiet s1 ctx = true → x.quietMark = quietSign s1 x →
        ∃ t, exec (.contextDeadlock i) s = .next t ∧
          (∀ k ∈ contextThreads s x, storeWord t (k / 8) (0x7B800 + 16 * (k % 8)) = (snapWords s k).getD 0 0 ∧
            storeWord t (k / 8) (0x7B808 + 16 * (k % 8)) = (snapWords s k).getD 1 0) ∧
          (x.wake = true → (∀ c ∈ grantCores s x, (Machine.core t c).irqWake = true) ∧ Tbl.get? t.ctxs ctx = some { x with confirming := false, quietSince := none }) ∧
          (x.wake = false → (∀ k ∈ contextThreads s x, (thr t k).dbg = true) ∧
            Tbl.get? t.ctxs ctx = some { x with confirming := false, quietSince := none, halted := true }))))

/-- R216 to R219, R222, R226: TXB opens a transaction with its fallback or nests one deeper; TXE of an inner level closes it, and of an
outermost one that wrote nothing ends the transaction, sends its staged counter operations and retires; TXA aborts with its user code. An
abort puts the abort word in x1, leaves at the fallback address, and clears RPC and VPROG. -/
def Obligations.TransactionInstructions : Prop :=
  ∀ (h : Hart) (rs1 : BitVec 5) (s : State), Ready h [rs1] s →
    let k := h.key
    let x := (thr s k).tx
    let same (t : State) : Prop := (thr t k).pc = (thr s k).pc + BitVec.ofNat 64 h.len ∧ (∀ r, rx t k r = rx s k r) ∧ SameMemory s t
    let aborted (t : State) (word : Nat) : Prop :=
      (thr t k).pc = x.fallback ∧ rx t k 1 = BitVec.ofNat 64 word ∧ (thr t k).tx.depth = 0 ∧ (thr t k).tx.writes = [] ∧
        (thr t k).tx.ctrs = [] ∧ (thr t k).tx.tuples = [] ∧ (thr t k).sys.rpc = 0 ∧ (thr t k).sys.vprog = 0 ∧
        (∀ r, r ≠ 1 → rx t k r = rx s k r) ∧ SameMemory s t
    (x.depth = 0 → inFlight s k = false → x.releases = [] → bit (rx s k rs1).toNat 0 = false → Fetches (.txb h 0 rs1 0) s →
      ∃ t, exec (.txb h 0 rs1 0) s = .next t ∧ same t ∧
        (thr t k).tx = { Tx.none with depth := 1, fallback := rx s k rs1, stagedBefore := (thr s k).staged.length }) ∧
    (0 < x.depth → x.depth < 8 →
      (Fetches (.txb h 0 rs1 0) s → ∃ t, exec (.txb h 0 rs1 0) s = .next t ∧ same t ∧ (thr t k).tx = { x with depth := x.depth + 1 }) ∧
      (1 < x.depth → Fetches (.txe h 0 0 0) s → ∃ t, exec (.txe h 0 0 0) s = .next t ∧ same t ∧ (thr t k).tx = { x with depth := x.depth - 1 })) ∧
    (x.depth = 8 → Fetches (.txb h 0 rs1 0) s → ∃ t, exec (.txb h 0 rs1 0) s = .next t ∧ aborted t (6 + 8 * 2 ^ 16 + 0xFFFF * 2 ^ 32)) ∧
    (x.depth = 1 → txInFlight s k = false → x.writes = [] → x.tuples = [] → (∀ w ∈ s.watches, w.thr ≠ k) →
      x.ctrs.map (·.seq) = List.range x.ctrs.length → Fetches (.txe h 0 0 0) s →
      ∃ t, exec (.txe h 0 0 0) s = .next t ∧ (thr t k).tx.depth = 0 ∧ (thr t k).wait = none ∧ (thr t k).pc = (thr s k).pc + 4 ∧
        (∀ r, rx t k r = rx s k r) ∧ SameMemory s t ∧
        ∀ q ∈ x.ctrs, ∃ y ∈ t.mesh, y.cls = 3 ∧ y.src = h.core.toNat / 8 ∧
          y.pay = .counter q.cell false q.amount (.counter h.core.toNat h.thr.toNat q.name)) ∧
    (0 < x.depth → x.depth ≤ 8 → Fetches (.txa h 0 rs1 0) s → ∃ t, exec (.txa h 0 rs1 0) s = .next t ∧
      aborted t (4 + (rx s k rs1).toNat % 256 * 2 ^ 8 + x.depth * 2 ^ 16 + 0xFFFF * 2 ^ 32))

/-- R220, R222 to R225, R228 and Table 11.5: a transactional read places a watch at its line's home and brings its bytes; a broken watch,
or a watched or written line that another commit holds locked, aborts with CONFLICT (of the watched one, log entry 34); a home grants the locks of a commit's lines, applies them and lets them go, and
drops the watches of a thread that releases it. -/
def Obligations.TransactionHomes : Prop :=
  (∀ (m core_ slot c o len : Nat) (x : Msg) (e : SbEntry) (s : State), arrived s m = some x → held s x.dst = false →
    x.pay = .txRead (.store c o) len (.access core_ slot) → Tbl.get? (Machine.core s core_).sb slot = some e → 0 < (thr s e.thr).tx.depth →
    goodCore s c = true → (node s (c / 8)).gated = false → memWf s.ls = true → o < 2 ^ 20 → o % 64 + len ≤ 64 →
    let home := HomeId.store (BitVec.ofNat 11 c)
    let line := (2 ^ 40 + c * 2 ^ 20 + o) / 64
    (lineLocked s (.store c o) = false → (s.watches.filter fun w => w.home == home).length < 256 →
      ∃ t, exec (.txRead m 0) s = .next t ∧ (∃ w ∈ t.watches, w.home = home ∧ w.line = line ∧ w.thr = e.thr) ∧
        LastSent t 1 x.dst x.src (.data ((List.range len).map fun i => storeByte s c (o + i)) (homePoison (gbufFlush s c (o / 64)) (.store c o)) 1 (.access core_ slot)) ∧
        ∀ d p, p < 2 ^ 20 → storeByte t d p = storeByte s d p) ∧
    (lineLocked s (.store c o) = true →
      ∃ t, exec (.txRead m 0) s = .next t ∧ t.watches = s.watches ∧ LastSent t 1 x.dst x.src (.error (259 * 2 ^ 24) (.access core_ slot)))) ∧
  (∀ (c : BitVec 11) (n : BitVec 3) (home : HomeId) (rest : List HomeId) (s : State), isCore c.toNat = true → held s (c.toNat / 8) = false →
    let k := c.toNat * 8 + n.toNat
    let x := (thr s k).tx
    let aborted (t : State) (code detail nd : Nat) : Prop :=
      (thr t k).pc = x.fallback ∧ (thr t k).tx.depth = 0 ∧ SameMemory s t ∧
        rx t k 1 = BitVec.ofNat 64 (code + x.depth * 2 ^ 16 + detail * 2 ^ 20 + nd * 2 ^ 32)
    (∀ d nd, 0 < x.depth → x.phase = .open → (thr s k).run = .running → (thr s k).wait = none → (thr s k).aborts = [⟨1, d, nd⟩] →
      ∃ t, exec (.txAbort c n) s = .next t ∧ aborted t 1 d nd) ∧
    (x.phase = .prepare (home :: rest) → rest ≠ [] → homeGone s home (linesAt s k home) = false →
      ((∀ l ∈ linesAt s k home, lockHolder s home l = none) → x.tuples = [] →
        (∀ i, home = .hbm i → wbufUsed s i.toNat + (linesAt s k home).length ≤ 4096) →
        ∃ t, exec (.lockRequest c n home) s = .next t ∧ (thr t k).tx.phase = .prepare rest ∧ SameMemory s t ∧
          t.locks = s.locks ++ (linesAt s k home).map (fun l => { home := home, line := l, thr := k })) ∧
      (∀ l ∈ linesAt s k home, (lockHolder s home l).isSome = true →
        ∃ t, exec (.lockRequest c n home) s = .next t ∧ aborted t 1 2 (homeNode home) ∧ t.locks = s.locks)) ∧
    (x.phase = .check (home :: rest) → rest ≠ [] → home ∉ rest → homeGone s home [] = false →
      ((∀ w ∈ s.watches, w.home = home → w.thr = k → w.broken = false ∧ (lockHolder s home w.line = none ∨ lockHolder s home w.line = some k)) →
        ∃ t, exec (.watchCheck c n home) s = .next t ∧ (thr t k).tx.phase = .check rest ∧ SameMemory s t) ∧
      (∀ w ∈ s.watches, w.home = home → w.thr = k → w.broken = true ∨ (∃ j, lockHolder s home w.line = some j ∧ j ≠ k) →
        ∃ t, exec (.watchCheck c n home) s = .next t ∧ aborted t 1 1 (homeNode home))) ∧
    (∀ line mask data d o, x.phase = .apply [home] → x.writes = [(line, ⟨mask, data⟩)] → x.ctrs = [] → x.tuples = [] →
      ledgerTarget line = .store d o → home = .store (BitVec.ofNat 11 d) → memWf s.ls = true →
      ∃ t, exec (.txApply c n home) s = .next t ∧ (thr t k).tx.depth = 0 ∧ (thr t k).wait = none ∧
        (thr t k).pc = (thr s k).pc + 4 ∧ (∀ l ∈ t.locks, l.home = home → l.thr ≠ k) ∧
        (∀ i, i < 64 → storeByte t d (o + i) = if bit mask.toNat i then lineByte data i else storeByte s d (o + i)) ∧
        (∀ b p, p < 2 ^ 20 → b ≠ d ∨ p / 64 ≠ o / 64 → storeByte t b p = storeByte s b p)) ∧
    (home ∈ x.releases → ∃ t, exec (.watchRelease c n home) s = .next t ∧ (∀ w ∈ t.watches, w.home = home → w.thr ≠ k) ∧
      (∀ l ∈ t.locks, l.home = home → l.thr ≠ k) ∧ home ∉ (thr t k).tx.releases))

/-! ### Channels between cores (chapter 12) -/

/-- R233, R234, R236, R237, R242, R243 and R244: PORT_CREATE writes the record of a free port with its configuration, owner and next
generation; PORT_FREE makes a port not live; PORT_POP takes entries from the front; DISPATCH jumps to the handler of the entry at the
front, with its address, the port and the return address in x10, x11 and x31, and writes 0 to x10 where there is no entry; HSET writes
the handler table from P1 and up. -/
def Claims.ChannelPorts : Prop :=
  ∀ (h : Hart) (rs1 rs2 : BitVec 5) (p : Nat) (s : State), Ready h [rs1, rs2, 10, 11, 31] s → (thr s h.key).tx.depth = 0 →
    memWf s.ls = true → p < 32 → rx s h.key rs1 = BitVec.ofNat 64 p →
    let k := h.key
    let c := h.core.toNat
    let cfg := (rx s k rs2).toNat
    let next_ (t : State) : Prop := (thr t k).pc = (thr s k).pc + BitVec.ofNat 64 h.len
    let raises (i : Instr) (e : Exn) : Prop := Fetches i s → exec i s = .next (faultAt s k e (thr s k).pc)
    let mine : Prop := portLive s c p = true ∧ portOwner s c p = h.thr.toNat
    let rest (t : State) : Prop := ∀ q w, q < 32 → w < 8 → q ≠ p → portWord t c q w = portWord s c q w
    (configOk cfg = true → portLive s c p = false → queueOverlaps s c p cfg = false → Fetches (.portCreate h 0 rs1 rs2) s →
      ∃ t, exec (.portCreate h 0 rs1 rs2) s = .next t ∧ next_ t ∧ portWord t c p 0 = 2 ^ 48 + (portGen s c p + 1) % 256 * 2 ^ 56 ∧
        portWord t c p 1 = cfg + h.thr.toNat * 2 ^ 40 ∧ (∀ w, 2 ≤ w → w < 8 → portWord t c p w = 0) ∧ rest t) ∧
    (configOk cfg = true → portLive s c p = true → raises (.portCreate h 0 rs1 rs2) (chanExn 2 p)) ∧
    (configOk cfg = true → portLive s c p = false → queueOverlaps s c p cfg = true → raises (.portCreate h 0 rs1 rs2) (chanExn 9 p)) ∧
    (mine → (∀ e ∈ s.threads, ∀ g, (c, p, g) ∉ e.2.tx.reserved) → (∀ m ∈ s.mesh ++ s.inbox, heldFor c p m = false) →
      Fetches (.portFree h 0 rs1 0) s →
      ∃ t, exec (.portFree h 0 rs1 0) s = .next t ∧ next_ t ∧ portLive t c p = false ∧ portResv t c p = 0 ∧
        portCount t c p = portCount s c p ∧ portGen t c p = portGen s c p ∧ rest t) ∧
    (¬ mine → raises (.portFree h 0 rs1 0) (chanExn 3 p) ∧ raises (.portPop h 0 rs1 rs2) (chanExn 3 p) ∧
      raises (.dispatch h 0 rs1 0) (chanExn 3 p)) ∧
    (let n := if rs2 = 0 then 1 else (rx s k rs2).toNat
     mine → portSize s c p ≤ 4096 → (0 < n → n ≤ portCount s c p → Fetches (.portPop h 0 rs1 rs2) s →
       ∃ t, exec (.portPop h 0 rs1 rs2) s = .next t ∧ next_ t ∧ portCount t c p = portCount s c p - n ∧
         portHead t c p = (portHead s c p + n) % portSize s c p ∧ portLive t c p = true ∧ portGen t c p = portGen s c p ∧
         portWord t c p 1 = portWord s c p 1 ∧ rest t) ∧
       (n = 0 ∨ portCount s c p < n → raises (.portPop h 0 rs1 rs2) (chanExn 4 p))) ∧
    (mine → portArity s c p = 0 →
      let o := entryOff s c p (portHead s c p)
      let v := 0x7A800 + 8 * ((storeByte s c o).toNat % 64)
      let e := storeNat s c v 8
      (portCount s c p = 0 → Fetches (.dispatch h 0 rs1 0) s → exec (.dispatch h 0 rs1 0) s = .next (retire (wx s k 10 0) k h.len)) ∧
      (portCount s c p ≠ 0 → lineLocked s (.store c o) = false → homePoison s (.store c o) = false → lineLocked s (.store c v) = false → e ≠ 0 → e % 2 = 0 →
        lvlOf s k < 2 → Fetches (.dispatch h 0 rs1 0) s →
        ∃ t, exec (.dispatch h 0 rs1 0) s = .next t ∧ (thr t k).pc = BitVec.ofNat 64 e ∧ rx t k 10 = BitVec.ofNat 64 o ∧
          rx t k 11 = BitVec.ofNat 64 p ∧ rx t k 31 = (thr s k).pc + 4 ∧ ∀ r, r ≠ 10 → r ≠ 11 → r ≠ 31 → rx t k r = rx s k r)) ∧
    (lvlOf s k ≠ 0 → lineLocked s (.store c (0x7A800 + 8 * p)) = false → Fetches (.hset h 0 rs1 rs2) s → ∃ t, exec (.hset h 0 rs1 rs2) s = .next t ∧ next_ t ∧ storeNat t c (0x7A800 + 8 * p) 8 = (rx s k rs2).toNat ∧
      ∀ d a, a < 2 ^ 20 → (d ≠ c ∨ a < 0x7A800 + 8 * p ∨ 0x7A808 + 8 * p ≤ a) → storeByte t d a = storeByte s d a) ∧
    (lvlOf s k = 0 → raises (.hset h 0 rs1 rs2) (scalarExn 4 0))

/-- R238, R239 and R240: OPEN gives the lowest free handle of a live port and CLOSE gives it up; SEND and TSEND publish one word and wait for
the monitor's answer; SEND.M stages a word, and SEND.END and TSEND.END publish the staged words with the last one. -/
def Claims.ChannelSends : Prop :=
  ∀ (h : Hart) (rd rs1 rs2 : BitVec 5) (s : State), Ready h [rd, rs1, rs2] s → (thr s h.key).tx.depth = 0 →
    let k := h.key
    let c := h.core.toNat
    let st := (thr s k).staged
    let next_ (t : State) : Prop := (thr t k).pc = (thr s k).pc + BitVec.ofNat 64 h.len
    (∀ p, p < 32 → rx s k rs1 = BitVec.ofNat 64 (0x10000 + p) → goodCore s c = true →
      (portLive s c p = true → ∀ i, Tbl.free (thr s k).handles 0 16 = some i → Fetches (.chanOpen h rd rs1 0) s →
        ∃ t, exec (.chanOpen h rd rs1 0) s = .next t ∧ next_ t ∧ rx t k rd = (if rd = 0 then 0 else BitVec.ofNat 64 i) ∧
          Tbl.get? (thr t k).handles i = some ⟨c, p, portArity s c p, portGen s c p⟩) ∧
      (portLive s c p = true → Tbl.free (thr s k).handles 0 16 = none → Fetches (.chanOpen h rd rs1 0) s →
        exec (.chanOpen h rd rs1 0) s = .next (retire (wx s k rd 0x8000000000000004) k h.len)) ∧
      (portLive s c p = false → Fetches (.chanOpen h rd rs1 0) s → exec (.chanOpen h rd rs1 0) s = .next (retire (wx s k rd 0x8000000000000003) k h.len))) ∧
    (∀ q, Tbl.get? (thr s k).handles (rx s k rs1).toNat = some q →
      let i := (rx s k rs1).toNat
      let published (j : Instr) (words : List W64) (fromStage blocking : Bool) : Prop :=
        Fetches j s → ∃ t, exec j s = .next t ∧ (thr t k).pc = (thr s k).pc ∧ (∀ r, rx t k r = rx s k r) ∧
          (thr t k).wait = some (.send rd i words fromStage blocking true (pacerOf s (c / 8)) none) ∧
          LastSent t 4 (c / 8) (q.core / 8) (.publish q.core q.port q.gen words k false)
      (Fetches (.chanClose h 0 rs1 0) s → ∃ t, exec (.chanClose h 0 rs1 0) s = .next t ∧ next_ t ∧ (thr t k).handles = Tbl.erase (thr s k).handles i) ∧
      (st = [] → q.arity = 1 → published (.send h rd rs1 rs2) [rx s k rs2] false true ∧ published (.tsend h rd rs1 rs2) [rx s k rs2] false false) ∧
      (st = [] ∨ (thr s k).stageHandle = some i →
        (st.length < (if q.arity = 0 then 8 else q.arity) → Fetches (.sendM h 0 rs1 rs2) s →
          ∃ t, exec (.sendM h 0 rs1 rs2) s = .next t ∧ next_ t ∧ (thr t k).staged = st ++ [rx s k rs2] ∧ (thr t k).stageHandle = some i) ∧
        (st.length + 1 = (if q.arity = 0 then 8 else q.arity) →
          published (.sendEnd h rd rs1 rs2) (st ++ [rx s k rs2]) true true ∧ published (.tsendEnd h rd rs1 rs2) (st ++ [rx s k rs2]) true false))) ∧
    (Tbl.get? (thr s k).handles (rx s k rs1).toNat = none →
      Fetches (.send h rd rs1 rs2) s → exec (.send h rd rs1 rs2) s = .next (faultAt s k (chanExn 5 (rx s k rs1).toNat) (thr s k).pc))

/-- R233 to R244: ports, handlers, handles and sends of the channel layer. -/
def Obligations.Channels : Prop := Claims.ChannelPorts ∧ Claims.ChannelSends

/-- R240, R241 and Table 12.3: a publication at its monitor is placed at the end of a live port's queue with the handle's generation and
answers 0; a full queue answers 1 to a TSEND and makes a SEND pause, and a port that is gone answers 3. A paused SEND publishes again
after 64 ticks, and at its Stall Limit ends with 2 and keeps its words staged. -/
def Obligations.Publications : Prop :=
  (∀ (m : Nat) (x : Msg) (c p gen k i start : Nat) (paused : Option Nat) (words : List W64) (rd : BitVec 5) (fromStage blocking : Bool) (s : State),
    arrived s m = some x → held s x.dst = false → held s (k / 64) = false → x.pay = .publish c p gen words k false → memWf s.ls = true → p < 32 →
    (thr s k).wait = some (.send rd i words fromStage blocking true start paused) →
    let answered (t : State) (v : W64) : Prop := (thr t k).wait = none ∧ (thr t k).pc = (thr s k).pc + 4 ∧
      (rd ≠ 0 → rx t k rd = v) ∧ (∀ r, r ≠ rd → rx t k r = rx s k r) ∧ t.inbox = s.inbox.filter (fun y => y.id != m)
    let o := entryOff s c p ((portHead s c p + portCount s c p) % portSize s c p)
    let len := entryBytes (portArity s c p)
    let live : Prop := goodCore s c = true ∧ portLive s c p = true ∧ portGen s c p = gen
    (live → portSize s c p ≤ 4096 → portCount s c p + portResv s c p < portSize s c p → o + len ≤ 0x78000 → o % 64 + len ≤ 64 →
      ∃ t, exec (.publication m) s = .next t ∧ answered t 0 ∧ portCount t c p = portCount s c p + 1 ∧
        portHead t c p = portHead s c p ∧ portLive t c p = true ∧
        (∀ j, j < len → storeByte t c (o + j) = byteOf (words.getD (j / 8) 0).toNat (j % 8)) ∧
        ∀ d a, a < 0x78000 → (d ≠ c ∨ a < o ∨ o + len ≤ a) → storeByte t d a = storeByte s d a) ∧
    (live → portSize s c p ≤ portCount s c p + portResv s c p →
      (blocking = false → ∃ t, exec (.publication m) s = .next t ∧ answered t 1 ∧ (thr t k).staged = words ∧
        (thr t k).stageHandle = some i) ∧
      (blocking = true → (thr s k).dbg = false → ∃ t, exec (.publication m) s = .next t ∧ (thr t k).pc = (thr s k).pc ∧
        (thr t k).wait = some (.send rd i words fromStage true false start (some (pacerOf s (k / 64))))) ∧
      (blocking = true → (thr s k).dbg = true → ∃ t, exec (.publication m) s = .next t ∧ (thr t k).pc = (thr s k).pc ∧ (thr t k).wait = none)) ∧
    (¬ live → ∃ t, exec (.publication m) s = .next t ∧ answered t 3)) ∧
  (∀ (c : BitVec 11) (n : BitVec 3) (rd : BitVec 5) (i start paused : Nat) (words : List W64) (fromStage : Bool) (s : State),
    isCore c.toNat = true → held s (c.toNat / 8) = false →
    let k := c.toNat * 8 + n.toNat
    (thr s k).wait = some (.send rd i words fromStage true false start (some paused)) →
    (∀ q, 64 ≤ pacerSince s (c.toNat / 8) paused → Tbl.get? (thr s k).handles i = some q →
      ∃ t, exec (.sendRetry c n) s = .next t ∧ LastSent t 4 (c.toNat / 8) (q.core / 8) (.publish q.core q.port q.gen words k false) ∧
        (thr t k).wait = some (.send rd i words fromStage true true start (some paused))) ∧
    (pacerSince s (c.toNat / 8) paused < 64 → exec (.sendRetry c n) s = .next s) ∧
    (∀ ctx x, ctxOf s k = some ctx → Tbl.get? s.ctxs ctx = some x → x.stall ≠ 0 → x.stall ≤ pacerSince s (c.toNat / 8) start →
      ∃ t, exec (.stallLimitExpiry c n) s = .next t ∧ (thr t k).wait = none ∧ (thr t k).pc = (thr s k).pc + 4 ∧
        (rd ≠ 0 → rx t k rd = 2) ∧ (thr t k).staged = words ∧ (thr t k).stageHandle = some i))

/-! ### Streams (chapter 13) -/

/-- R116, R251, R256 and R151: VZGET takes the head of the input queue that its operand is bound to, VZPEEK leaves it, VZFMA takes it as the
operand of its lanes, VZPUT puts an entry onto the lane of the output queue that its operand is bound to, VZPOLL says which could go on, and a
stream TLOAD takes one entry for each row. An empty queue or one without a credit makes them wait; an unbound operand, one of the other
direction and a poisoned entry raise a fault. A waiting VZGET completes when an entry is there. -/
def Obligations.StreamOperands : Prop :=
  (∀ (h : Hart) (f : VFields) (s : State), Ready h [] s → (thr s h.key).tx.depth = 0 → f.vs1.toNat < 8 →
    let k := h.key
    let n := h.core.toNat / 8
    let z := f.vs1.toNat
    let f0 := { f with pg := 0 }
    let next_ (t : State) : Prop := (thr t k).pc = (thr s k).pc + BitVec.ofNat 64 h.len ∧ ∀ r, rx t k r = rx s k r
    let raises (i : Instr) (e : Exn) : Prop := Fetches i s → exec i s = .next (faultAt s k e (thr s k).pc)
    let waits_ (i : Instr) (op : StreamOp) (g : VFields) : Prop := Fetches i s → ∃ t, exec i s = .next t ∧ (thr t k).pc = (thr s k).pc ∧
      (thr t k).wait = some (.stream op g false) ∧ (∀ r, rx t k r = rx s k r) ∧ ∀ r, rv t k r = rv s k r
    let taken (t : State) (q : Nat) : Prop := (squeue t n q).q = (squeue s n q).q.drop 1 ∧
      (squeue t n q).returning = (squeue s n q).returning + 1
    (∀ q e, boundTo s h.core.toNat z = .input q → headEntry s n q = some e → e.poison = false →
      (Fetches (.vzget h f0) s → ∃ t, exec (.vzget h f0) s = .next t ∧ next_ t ∧ rv t k f.vd.toNat = presented q e.data ∧ taken t q ∧
        ∀ r, r ≠ f.vd.toNat → rv t k r = rv s k r) ∧
      (Fetches (.vzpeek h f0) s → ∃ t, exec (.vzpeek h f0) s = .next t ∧ next_ t ∧ rv t k f.vd.toNat = presented q e.data ∧ squeue t n q = squeue s n q ∧
        ∀ r, r ≠ f.vd.toNat → rv t k r = rv s k r) ∧
      (f.vd.toNat < 8 → Fetches (.vzpoll h f0) s → exec (.vzpoll h f0) s = .next (retire (wp s k f.vd.toNat 1) k h.len)) ∧
      (∀ fn, fmaOk f.ty.toNat fn.toNat = true → Fetches (.vzfma h f fn) s →
        let b := vBits f.ty.toNat
        ∃ t, exec (.vzfma h f fn) s = .next t ∧ next_ t ∧ taken t q ∧ (∀ r, r ≠ f.vd.toNat → rv t k r = rv s k r) ∧
          ∀ l, l < vLanes f.ty.toNat → laneOf b (rv t k f.vd.toNat) l =
            if f.pg = 0 ∨ (rp s k f.pg.toNat).getLsbD l = true then
              fmaLane f.ty.toNat fn.toNat (laneOf b (rv s k f.vd.toNat) l) (laneOf b (presented q e.data) l)
                (laneOf b (rv s k f.vs2.toNat) l) % 2 ^ b
            else laneOf b (rv s k f.vd.toNat) l)) ∧
    (∀ q e, boundTo s h.core.toNat z = .input q → headEntry s n q = some e → e.poison = true → raises (.vzget h f0) (streamPoison)) ∧
    (∀ q, boundTo s h.core.toNat z = .input q → headEntry s n q = none →
      waits_ (.vzget h f0) .get f0 ∧ waits_ (.vzpeek h f0) .peek f0 ∧
      (f.vd.toNat < 8 → Fetches (.vzpoll h f0) s → exec (.vzpoll h f0) s = .next (retire (wp s k f.vd.toNat 0) k h.len))) ∧
    (∀ m q, boundTo s h.core.toNat z = .output m q →
      (hasRoom s m q = true → Fetches (.vzput h f0) s → ∃ t, exec (.vzput h f0) s = .next t ∧ next_ t ∧ (squeue t m q).q = (squeue s m q).q ∧
        (squeue t m q).lane = (squeue s m q).lane ++ [{ data := presented q (rv s k f.vd.toNat), marker := false, poison := false }]) ∧
      (hasRoom s m q = false → waits_ (.vzput h f0) .put f0) ∧
      (f.vd.toNat < 8 → Fetches (.vzpoll h f0) s → exec (.vzpoll h f0) s = .next (retire (wp s k f.vd.toNat (if hasRoom s m q then 2 else 0)) k h.len)) ∧
      raises (.vzget h f0) (streamExn z 2)) ∧
    (∀ q, boundTo s h.core.toNat z = .input q → raises (.vzput h f0) (streamExn z 2)) ∧
    (boundTo s h.core.toNat z = .none → raises (.vzget h f0) (streamExn z 1) ∧ raises (.vzput h f0) (streamExn z 1))) ∧
  (∀ (h : Hart) (t : BitVec 3) (z q : Nat) (s : State), Ready h [] s → (thr s h.key).tx.depth = 0 → z < 8 →
    let k := h.key
    let n := h.core.toNat / 8
    let x := tile s k t.toNat
    let rows := descRows x.desc
    let es := (squeue s n q).q.take rows
    let i : Instr := .tloadStream h { t := t, rs1 := BitVec.ofNat 5 z, rs2 := 0, d := false, mf := BitVec.ofNat 5 (tileMf (descFmt x.desc)), scm := 0,
                                      rnd := false, q := true, z := 0 }
    boundTo s h.core.toNat z = .input q → (bench s n).ssEn = true → es.length = rows → (∀ e ∈ es, e.marker = false ∧ e.poison = false) →
    rows ≠ 0 → descWidth x.desc = 64 → descFmt x.desc = 11 ∨ descFmt x.desc = 9 ∨ descFmt x.desc = 10 → Fetches i s →
    ∃ u, exec i s = .next u ∧ (thr u k).pc = (thr s k).pc + BitVec.ofNat 64 h.len ∧ (squeue u n q).q = (squeue s n q).q.drop rows ∧
      (∀ r e, es[r]? = some e → Tbl.get? (tile u k t.toNat).data r = some (presented q e.data)) ∧
      ∀ j, j ≠ t.toNat → tile u k j = tile s k j) ∧
  (∀ (c : BitVec 11) (m : BitVec 3) (f : VFields) (q : Nat) (e : SEntry) (s : State), isCore c.toNat = true → held s (c.toNat / 8) = false →
    let k := c.toNat * 8 + m.toNat
    (thr s k).wait = some (.stream .get f false) → boundTo s c.toNat (f.vs1.toNat % 8) = .input q → headEntry s (c.toNat / 8) q = some e →
    e.poison = false →
    ∃ t, exec (.streamWaitDone c m) s = .next t ∧ (thr t k).wait = none ∧ (thr t k).pc = (thr s k).pc + 4 ∧
      rv t k f.vd.toNat = presented q e.data ∧ ∀ r, r ≠ f.vd.toNat → rv t k r = rv s k r)

/-- R250 and R251: the oldest entry of a lane arrives at the end of its queue; a credit that comes back makes room at the producer. -/
def Claims.StreamQueues : Prop :=
  ∀ (node : BitVec 8) (queue : BitVec 5) (r : Region) (s : State), isBench node.toNat = true → held s node.toNat = false →
    let n := node.toNat
    let q := queue.toNat
    benchRegion s n = some r → r.state ≠ 2 →
    (∀ e rest, (bench s n).ssEn = true → (squeue s n q).lane = e :: rest →
      ∃ t, exec (.streamEntry node queue) s = .next t ∧
        squeue t n q = { squeue s n q with q := (squeue s n q).q ++ [e], lane := rest } ∧
        (∀ m p, m ≠ n ∨ p ≠ q → squeue t m p = squeue s m p) ∧ t.threads = s.threads) ∧
    ((squeue s n q).returning ≠ 0 → (squeue s n q).owes = false →
      ∃ t, exec (.creditReturn node queue) s = .next t ∧
        squeue t n q = { squeue s n q with returning := (squeue s n q).returning - 1 } ∧
        (∀ m p, m ≠ n ∨ p ≠ q → squeue t m p = squeue s m p) ∧ t.threads = s.threads)

/-- R253 to R255 and Table 13.3: the steering units. A unit with its inputs at hand and a credit at every output takes the head of each input
and puts the data, poisoned if any entry taken is, to the outputs that its kind names; a FILTER that drops puts nothing, and a MERGE with both
inputs at hand alternates, IN0 first. -/
def Claims.SteeringUnits : Prop :=
  ∀ (node : BitVec 8) (unit : BitVec 3) (r : Region) (s : State), isBench node.toNat = true → held s node.toNat = false →
    let n := node.toNat
    let u := unit.toNat
    (bench s n).ssEn = true → unitMarked s n u = false → benchRegion s n = some r → r.state ≠ 2 →
    let fires (i : Instr) (kind : Nat) (takes : List Nat) (puts : List ((Nat × Nat) × SEntry)) (p : State → Prop) : Prop :=
      unitKind s n u = kind → takes.Nodup → (puts.map (·.1)).Nodup → (∀ o ∈ puts, hasRoom s o.1.1 o.1.2 = true) →
      ∃ t, exec i s = .next t ∧ p t ∧
        (∀ q ∈ takes, (squeue t n q).q = (squeue s n q).q.drop 1 ∧ (squeue t n q).returning = (squeue s n q).returning + 1) ∧
        (∀ q, q ∉ takes → (squeue t n q).q = (squeue s n q).q) ∧
        (∀ o ∈ puts, (squeue t o.1.1 o.1.2).lane = (squeue s o.1.1 o.1.2).lane ++ [o.2]) ∧
        (∀ m q, (m, q) ∉ puts.map (·.1) → (squeue t m q).lane = (squeue s m q).lane) ∧ t.threads = s.threads
    let any_ : State → Prop := fun _ => True
    (∀ cq tk q e o, unitIn s n u 2 = some cq → headEntry s n cq = some tk → headEntry s n q = some e →
      let b : Nat := if tk.data.getLsbD 0 then 1 else 0
      let out : SEntry := { data := e.data, marker := false, poison := tk.poison || e.poison }
      (unitIn s n u b = some q → unitOut s n u 0 = some o → fires (.select node unit) 1 [cq, q] [(o, out)] any_) ∧
      (unitIn s n u 0 = some q → unitOut s n u b = some o → fires (.branch node unit) 3 [cq, q] [(o, out)] any_) ∧
      (unitIn s n u 0 = some q → unitOut s n u 0 = some o → tk.data.getLsbD 0 = true → fires (.filter node unit) 5 [cq, q] [(o, out)] any_) ∧
      (unitIn s n u 0 = some q → tk.data.getLsbD 0 = false → fires (.filter node unit) 5 [cq, q] [] any_)) ∧
    (∀ q e, unitIn s n u 0 = some q → headEntry s n q = some e →
      let out : SEntry := { data := e.data, marker := false, poison := e.poison }
      fires (.replicate node unit) 4 [q] (((List.range 4).filterMap fun i => unitOut s n u i).map fun o => (o, out)) any_ ∧
      (∀ o, unitOut s n u 0 = some o → unitOut s n u 1 = none →
        (unitIn s n u 1 = none → fires (.merge node unit) 2 [q] [(o, out)] any_) ∧
        (∀ q1 e1, unitIn s n u 1 = some q1 → headEntry s n q1 = some e1 → Tbl.getD (bench s n).mergeTurn u 0 = 0 →
          fires (.merge node unit) 2 [q] [(o, out)] fun t => Tbl.getD (bench t n).mergeTurn u 0 = 1) ∧
        (∀ q1 e1, unitIn s n u 1 = some q1 → headEntry s n q1 = some e1 → Tbl.getD (bench s n).mergeTurn u 0 = 1 →
          fires (.merge node unit) 2 [q1] [(o, { data := e1.data, marker := false, poison := e1.poison })] fun t =>
            Tbl.getD (bench t n).mergeTurn u 0 = 0)))

/-- R250 to R255: the queues of the stream switch and its steering units. Choices of the model in it: log entry 22. -/
def Obligations.StreamSwitch : Prop := Claims.StreamQueues ∧ Claims.SteeringUnits

/-- R262 and Table 13.7: a region whose sequencer's wait is met starts to drain towards NEXT, for no command and without a flush; while its
wait is not met it runs on. -/
def Claims.SectionAdvances : Prop :=
  ∀ (region : BitVec 3) (r : Region) (s : State), Tbl.get? s.regions region.toNat = some r → held s (wbNode (sequencerOf r)) = false →
    r.state = 1 →
    ((regionWait s r).isSome = true → r.met = true →
      ∃ t x, exec (.sectionAdvance region) s = .next t ∧ Tbl.get? t.regions region.toNat = some x ∧ x.state = 2 ∧
        x.target = some (bits (sectionWord r.image r.secno 0) 11 0) ∧ x.secno = r.secno ∧ x.bycmd = none ∧ x.flush = false ∧
        x.since = pacerOf s (wbNode (sequencerOf r)) ∧ ∀ n ∈ regionBenches s r, (bench t n).ssState = 2) ∧
    (r.met = false ∨ regionWait s r = none → exec (.sectionAdvance region) s = .next s)

/-- R263 and Table 13.7: a draining region whose queues are drained stops its switches, empties its queues and is configuring; from there it
runs the section that it changes to on every bench with empty, open queues; one that is not drained yet goes on draining, and one that is
being unloaded is no region any more once drained. -/
def Claims.DrainCompletes : Prop :=
  ∀ (region : BitVec 3) (r : Region) (s : State), Tbl.get? s.regions region.toNat = some r → held s (wbNode (sequencerOf r)) = false →
    let rid := region.toNat
    let empty_ (t : State) (n : Nat) : Prop := ∀ q, (squeue t n q).q = [] ∧ (squeue t n q).lane = [] ∧ (squeue t n q).closed = false
    (r.state = 2 → drained (settleRegion s r) r = true → r.unload = false →
      ∃ t, exec (.drainComplete region) s = .next t ∧ Tbl.get? t.regions rid = some { r with state := 4 } ∧
        ∀ n ∈ regionBenches s r, (bench t n).ssEn = false ∧ (bench t n).ssState = 4 ∧ empty_ t n) ∧
    (r.state = 2 → drained (settleRegion s r) r = true → r.unload = true → (∀ k, streamWaitZ (thr s k).wait = none) →
      ∃ t, exec (.drainComplete region) s = .next t ∧ Tbl.get? t.regions rid = none ∧
        ∀ n ∈ regionBenches s r, (bench t n).ssEn = false ∧ (bench t n).ssLoaded = false) ∧
    (r.state = 2 → drained (settleRegion s r) r = false → exec (.drainComplete region) s = .next (settleRegion s r)) ∧
    (r.state = 4 → r.unload = false → r.bycmd = none → (∀ k, streamWaitZ (thr s k).wait = none) →
      ∃ t x, exec (.drainComplete region) s = .next t ∧ Tbl.get? t.regions rid = some x ∧ x.state = 1 ∧ x.secno = r.target.getD 0 ∧
        x.target = none ∧ x.image = r.newImage.getD r.image ∧
        ∀ n ∈ regionBenches s r, (bench t n).ssEn = true ∧ (bench t n).ssState = 1 ∧ (bench t n).ssSection = r.target.getD 0 ∧ empty_ t n)

/-- R264: at the Drain Limit a region that is not drained and may not flush is left draining in error, its command ended with the status of a
limit; one that may flush discards its entries and is configuring; before the limit nothing happens. -/
def Claims.DrainLimits : Prop :=
  ∀ (region : BitVec 3) (r : Region) (x : Ctx) (s : State), Tbl.get? s.regions region.toNat = some r →
    held s (wbNode (sequencerOf r)) = false → Tbl.get? s.ctxs r.ctx = some x → r.state = 2 →
    let rid := region.toNat
    let over_ : Prop := x.drain ≤ pacerSince s (wbNode (sequencerOf r)) r.since
    (over_ → drained (settleRegion s r) r = false → r.flush = true → r.unload = false →
      ∃ t y, exec (.drainLimitExpiry region) s = .next t ∧ Tbl.get? t.regions rid = some y ∧ y.state = 4 ∧ y.target = r.target ∧
        ∀ n ∈ regionBenches s r, (bench t n).ssEn = false ∧ ∀ q, (squeue t n q).q = [] ∧ (squeue t n q).lane = []) ∧
    (over_ → drained (settleRegion s r) r = false → r.flush = false →
      ∃ t y, exec (.drainLimitExpiry region) s = .next t ∧ Tbl.get? t.regions rid = some y ∧ y.state = 3 ∧ y.bycmd = none ∧
        ∀ n ∈ regionBenches s r, (bench t n).ssState = 3) ∧
    (pacerSince s (wbNode (sequencerOf r)) r.since < x.drain → exec (.drainLimitExpiry region) s = .next s)

/-- R262 to R264 and Table 13.7: a region starts to change its section, drains, is configured and runs the new one, or comes to the Drain
Limit. Choices of the model in it: log entries 22, 38. -/
def Obligations.RegionChanges : Prop := Claims.SectionAdvances ∧ Claims.DrainCompletes ∧ Claims.DrainLimits

/-! ### Haul engines (chapter 14) -/

/-- R271 to R273, R281 and R434: a launch on a free channel of a good bench sets the channel up from the launch value with its first descriptor
still to be read; a P2 thread of the bench launches so with two scoreboard entries taken, and is acknowledged; a busy channel is not disturbed,
and a command whose launch it refuses fails. HAUL_STOP stops the channels that its guarded value names, each once its writes are over. -/
def Claims.HaulLaunches : Prop :=
  ∀ (w : RegSource) (node : BitVec 8) (ch : BitVec 4) (v : BitVec 64) (s : State), isBench node.toNat = true →
    held s node.toNat = false → isFenced s 2 node.toNat = false →
    let n := node.toNat
    let c := ch.toNat
    let x := v.toNat
    let set_ (h : HaulCh) : Prop := h.state = 1 ∧ h.desc = bits x 51 6 * 64 ∧ h.ctx = bits x 63 58 ∧ h.fw = bit x 57 ∧
      h.virt = bit x 3 ∧ h.lvl = bits x 2 2 ∧ h.pri = bits x 5 4 ∧ h.done = 0 ∧ h.code = 0 ∧ h.chain = [(bits x 51 6 * 64, [])]
    (isF w = true → launchBad s x n false = false → haulBusy s n c = false →
      ∃ t, exec (.haulLaunch w node ch v) s = .next t ∧ set_ (haulCh t n c) ∧
        (∀ d, d ≠ c → haulCh t n d = haulCh s n d) ∧ SameMemory s t) ∧
    (isF w = true → haulBusy s n c = true → launchRing w = none → exec (.haulLaunch w node ch v) s = .next s) ∧
    (∀ r p, w = .command r → haulBusy s n c = true → (ring s (ringKey r)).cur = some p →
      ∃ t, exec (.haulLaunch w node ch v) s = .next t ∧ (∀ d, haulCh t n d = haulCh s n d) ∧ Completed r p s t 10 6 0 0) ∧
    (∀ m msg bytes poison core_ slot e, w = .thread m → arrived s m = some msg → msg.dst = n →
      msg.pay = .write (.reg n (0x30000 + 8 * c)) bytes poison (.access core_ slot) → bytes.length = 8 → leNat (bytes.map (·.2)) = x →
      Tbl.get? (Machine.core s core_).sb slot = some e → e.thr / 64 = n → lvlOf s e.thr = 2 → spansFree s e.thr = true →
      launchBad s x n true = false → haulBusy s n c = false →
      ∃ t i j, exec (.haulLaunch w node ch v) s = .next t ∧ set_ (haulCh t n c) ∧
        (haulCh t n c).srck = 0 ∧ (haulCh t n c).core = e.thr / 8 % 8 ∧ (haulCh t n c).thr = e.thr % 8 ∧
        (∃ rd, Tbl.get? (Machine.core t (e.thr / 8)).sb i = some rd ∧ rd.thr = e.thr ∧ rd.write = false ∧ rd.haul = some (n * 16 + c)) ∧
        (∃ wr, Tbl.get? (Machine.core t (e.thr / 8)).sb j = some wr ∧ wr.thr = e.thr ∧ wr.write = true ∧ wr.haul = some (n * 16 + c)) ∧
        LastSent t 1 n msg.src (.ack (.access core_ slot))) ∧
    (∀ since, isF w = true → (Machine.node s n).guard = some { off := 0x30300, value := v, src := w, thr := srcKey s w, since := since } →
      pacerSince s n since ≤ 64 →
      ∃ t, exec (.haulStop w node true (~~~ v)) s = .next t ∧ (Machine.node t n).guard = none ∧
        ∀ d, d < 16 →
          let h := haulCh s n d
          (bit x d = true → haulBusy s n d = true →
            (h.outs = [] → h.checkTag = none → (haulCh t n d).state = 5 ∧ (haulCh t n d).code = 7 ∧ (haulCh t n d).chain = []) ∧
            (h.outs ≠ [] → haulCh t n d = { h with buf := [], failAt := some (h.bytes, 7, h.desc) })) ∧
          (bit x d = false ∨ haulBusy s n d = false → haulCh t n d = haulCh s n d))

/-- R273 and R274: a channel whose descriptor is not read yet sends its read; with its words at hand a descriptor that is well formed begins at
its first byte, and one that is not ends the chain with status 5. -/
def Claims.HaulBegins : Prop :=
  ∀ (node : BitVec 8) (ch : BitVec 4) (a : Nat) (w : List W64) (rest : List (Nat × List W64)) (s : State),
    isBench node.toNat = true → held s node.toNat = false →
    let n := node.toNat
    let c := ch.toNat
    let h := haulCh s n c
    h.chain = (a, w) :: rest → h.state = 1 → h.fw = true → h.virt = false → h.srck ≠ 0 → h.descRead = none → h.failAt = none →
    (w = [] → a < 2 ^ 40 →
      ∃ t, exec (.haulCopy node ch) s = .next t ∧ haulCh t n c = { h with descRead := some s.nextMsg } ∧
        LastSent t 3 n (targetNode s (.hbm a)) (.read (.hbm a) 64 (.haul n c s.nextMsg))) ∧
    (w ≠ [] → (∀ d ∈ rest, d.2 ≠ []) → descOk s n h w = false →
      ∃ t, exec (.haulCopy node ch) s = .next t ∧ (haulCh t n c).state = 4 ∧ (haulCh t n c).code = 5 ∧ (haulCh t n c).chain = []) ∧
    (w ≠ [] → (∀ d ∈ rest, d.2 ≠ []) → descOk s n h w = true → descOp w ≤ 1 → bit (dw w 7) 5 = false →
      let t := beginDesc (descOp w) s n c
      haulCh t n c = { h with state := 2, desc := a, bytes := 0, issued := 0, buf := [], check := checkInit (descChk w), checkPsn := false,
                              total := (dstLines w).total } ∧
      (portPick t n 0 ≠ some c → portPick t n 1 ≠ some c →
        exec (if descOp w = 0 then .haulCopy node ch else .haulFill node ch) s = .next t))

/-- R257, R269, R275 and R280: the beats of a running descriptor of a firmware chain that a port serves. COPY reads its next source line segment
into the staging buffer, and writes the staged bytes to the next destination line segment; FILL writes its repeated pattern; QIN takes an
entry of its queue into the buffer, and a tail marker ends it; QOUT puts staged bytes into its queue as an entry. -/
def Claims.HaulSteps : Prop :=
  ∀ (node : BitVec 8) (ch : BitVec 4) (a : Nat) (w : List W64) (rest : List (Nat × List W64)) (s : State),
    isBench node.toNat = true → held s node.toNat = false →
    let n := node.toNat
    let c := ch.toNat
    let h := haulCh s n c
    h.chain = (a, w) :: rest → w ≠ [] → h.state = 2 → h.fw = true → h.virt = false → h.srck ≠ 0 → h.failAt = none →
    let reads : Prop := portPick s n 0 = some c ∧ portPick s n 1 ≠ some c
    let writes : Prop := portPick s n 1 = some c ∧ portPick s n 0 ≠ some c
    let sends (t : State) (cls : Nat) (tgt : Target) (p : Payload) : Prop :=
      ∃ y ∈ t.mesh, y.cls = cls ∧ y.src = n ∧ y.dst = targetNode s tgt ∧ y.pay = p
    let sd := (srcLines w).addr h.issued
    let r := (srcLines w).run h.issued (h.total - h.issued)
    let dd := (dstLines w).addr h.bytes
    let inHbm (x : Int) : Prop := 0 ≤ x ∧ x < 2 ^ 40
    let wrote_ (t : State) (bs : List Byte) (psn : Bool) : Prop := (haulCh t n c).state = 2 ∧ (haulCh t n c).chain = h.chain ∧
      (haulCh t n c).bytes = h.bytes + bs.length ∧ (haulCh t n c).check = checkBytes (descChk w) h.bytes h.check bs ∧
      (haulCh t n c).outs = h.outs ++ [(s.nextMsg, h.bytes, addr52 dd)] ∧ SameMemory s t ∧
      sends t 2 (.hbm dd.toNat) (.write (.hbm dd.toNat) (offsets bs) psn (.haul n c s.nextMsg))
    (descOp w = 0 → reads → inHbm sd →
      ∃ t, exec (.haulCopy node ch) s = .next t ∧ SameMemory s t ∧
        haulCh t n c = { h with issued := h.issued + r
                                buf := h.buf ++ [{ n := h.issued, len := r, addr := addr52 sd, tag := s.nextMsg, data := none, poison := false }] } ∧
        sends t 3 (.hbm sd.toNat) (.read (.hbm sd.toNat) r (.haul n c s.nextMsg))) ∧
    (∀ bs psn, descOp w = 0 → writes → inHbm dd → writeData h = some (bs, psn) →
      ∃ t, exec (.haulCopy node ch) s = .next t ∧ wrote_ t bs psn) ∧
    (descOp w = 1 → writes → inHbm dd →
      ∃ t, exec (.haulFill node ch) s = .next t ∧
        wrote_ t ((List.range ((dstLines w).run h.bytes (h.total - h.bytes))).map fun i => byteOf (w.getD 0 0).toNat ((h.bytes + i) % 8)) false) ∧
    (∀ x, descOp w = 2 → queueBad s n c w = false → headOf s n (dw w 0) = some x →
      (x.marker = false → reads → ∃ t, exec (.qin node ch) s = .next t ∧ SameMemory s t ∧
        (squeue t n (dw w 0)).q = (squeue s n (dw w 0)).q.drop 1 ∧ (squeue t n (dw w 0)).returning = (squeue s n (dw w 0)).returning + 1 ∧
        haulCh t n c = { h with issued := h.issued + 64
                                buf := h.buf ++ [{ n := h.issued, len := 64, addr := 0, tag := 0, data := some ((List.range 64).map (lineByte x.data)), poison := x.poison }] }) ∧
      (x.marker = true → reads → h.outs = [] → h.checkTag = none → h.bytes = h.issued →
        ∃ t, exec (.qin node ch) s = .next t ∧ (haulCh t n c).state = 3 ∧ (haulCh t n c).total = h.issued ∧
          (squeue t n (dw w 0)).q = (squeue s n (dw w 0)).q)) ∧
    (∀ q bs psn, descOp w = 3 → writes → haulQueue s n (dw w 1) = some q → (squeue s q.1 q.2).closed = false → writeData h = some (bs, psn) →
      ∃ t, exec (.qout node ch) s = .next t ∧ (haulCh t n c).bytes = h.bytes + bs.length ∧ SameMemory s t ∧
        (squeue t q.1 q.2).lane = (squeue s q.1 q.2).lane ++ [{ data := presented q.2 (lineOf bs), marker := false, poison := psn }])

/-- R269, R277 and R279: the answers to a channel's accesses. Data fills its place in the staging buffer or is the descriptor awaited; the
acknowledgement of the last write of a stream that is whole leaves the descriptor completing. -/
def Claims.HaulAnswers : Prop :=
  ∀ (m n c tag : Nat) (x : Msg) (ext : Ext) (s : State), arrived s m = some x →
    let h := haulCh s n c
    (∀ bytes psn holder, x.pay = .data bytes psn holder (.haul n c tag) →
      (h.descRead ≠ some tag → ∃ t, exec (.loadResponse m ext) s = .next t ∧
        haulCh t n c = { h with buf := h.buf.map fun b => if b.tag = tag then { b with data := some bytes, poison := psn } else b } ∧
        t.inbox = s.inbox.filter (fun y => y.id != m)) ∧
      (∀ a, h.descRead = some tag → h.chain = [(a, [])] → ∃ t, exec (.loadResponse m ext) s = .next t ∧
        haulCh t n c = { h with descRead := none, chain := [(a, (List.range 8).map fun i => BitVec.ofNat 64 (leNat ((bytes.drop (8 * i)).take 8)))] })) ∧
    (∀ p fa, x.pay = .ack (.haul n c tag) → h.state = 2 → h.outs = [(tag, p, fa)] → h.checkTag = none → h.failAt = none → h.bytes = h.total →
      ∃ t, exec (.writeAcknowledgement m) s = .next t ∧ (haulCh t n c).state = 3 ∧ (haulCh t n c).outs = [] ∧ (haulCh t n c).bytes = h.bytes)

/-- R277, R278 and Table 14.3: a descriptor that has moved its bytes writes its check word; when that is over it sends its increment, counts itself
done, and starts the next descriptor of the chain, or ends the chain. -/
def Claims.HaulCompletion : Prop :=
  ∀ (node : BitVec 8) (ch : BitVec 4) (a : Nat) (w : List W64) (s : State), isBench node.toNat = true →
    held s node.toNat = false →
    let n := node.toNat
    let c := ch.toNat
    let h := haulCh s n c
    let w7 := (w.getD 7 0).toNat
    let next_ := (w.getD 6 0).toNat
    h.chain = [(a, w)] → h.state = 3 → h.virt = false → h.srck ≠ 0 → h.checkTag = none →
    let over_ (t : State) : Prop := (haulCh t n c).done = min (h.done + 1) 65535 ∧
      (next_ = 0 → (haulCh t n c).state = 0 ∧ (haulCh t n c).chain = [] ∧ (haulCh t n c).bytes = h.bytes) ∧
      (next_ ≠ 0 → (haulCh t n c).state = 1 ∧ (haulCh t n c).chain = [(next_, [])] ∧ (haulCh t n c).desc = next_ ∧ (haulCh t n c).bytes = 0)
    let ready : Prop := (descChk w = 0 ∨ h.checked = true) ∧ bit w7 7 = false
    (ready → bit w7 6 = false → ∃ t, exec (.descriptorCompletion node ch) s = .next t ∧ over_ t ∧ t.mesh = s.mesh ∧ SameMemory s t) ∧
    (∀ cell, ready → bit w7 6 = true → resolveName s h.ctx 2 none (some n) (bits w7 60 32) = .ok cell →
      ∃ t, exec (.descriptorCompletion node ch) s = .next t ∧ over_ t ∧ LastSent t 3 n (cellNode s cell) (.counter cell false 1 .unit)) ∧
    (let b := (w.getD 5 0).toNat
     descChk w ≠ 0 → h.checked = false → b + 8 ≤ 2 ^ 40 →
       ∃ t, exec (.descriptorCompletion node ch) s = .next t ∧ haulCh t n c = { h with checkTag := some s.nextMsg } ∧ SameMemory s t ∧
         LastSent t 2 n (targetNode s (.hbm b)) (.write (.hbm b)
           (offsets (leBytes 8 (if descChk w = 1 then h.check ^^^ 0xFFFFFFFF else h.check))) h.checkPsn (.haul n c s.nextMsg)))

/-- R269 to R281 and Table 14.3: launches of a haul channel, its descriptors, their beats and answers, and how they complete. Choices of the model
in it: log entries 12, 25. -/
def Obligations.Hauls : Prop :=
  Claims.HaulLaunches ∧ Claims.HaulBegins ∧ Claims.HaulSteps ∧ Claims.HaulAnswers ∧ Claims.HaulCompletion

/-! ### Links and reliability (chapters 18 and 19) -/

/-- R354 to R358: training brings a port UP at the first rate and width that pass, its own rate at the full width where the peer offers both; a
port that finds no lock goes DOWN, and one whose peer is not the expected one is MISWIRED. A DOWN port tries again, and a port retrains on its
causes with the retrain counted. -/
def Claims.LinkTrains : Prop :=
  ∀ (port_ : BitVec 3) (tr : TrainResult) (why : RetrainCause) (s : State),
    let p := port_.toNat
    let l := link s p
    let outcome (i : Instr) (retrains_ : Nat) : Prop :=
      (∀ r w lanes, trainPick l tr = some (r, w, lanes) → tr.locked = true →
        (miswired s l tr = false → ∃ t, exec i s = .next t ∧ (link t p).state = 2 ∧ (link t p).runRate = BitVec.ofNat 2 r ∧
          (link t p).width = w ∧ (link t p).laneOk = lanes ∧ (link t p).gotDev = tr.peerDev ∧ (link t p).retrains = retrains_ ∧ SameMemory s t) ∧
        (miswired s l tr = true → ∃ t, exec i s = .next t ∧ (link t p).state = 4 ∧ (link t p).width = 0 ∧
          (link t p).downs = min (l.downs + 1) 65535)) ∧
      (tr.locked = false → ∃ t, exec i s = .next t ∧ (link t p).state = 3 ∧ (link t p).width = 0 ∧ (link t p).laneOk = 0 ∧
        (link t p).downs = min (l.downs + 1) 65535)
    (l.state = 1 → l.trainedOnce = false → outcome (.linkTraining port_ tr) l.retrains) ∧
    (l.state = 3 → l.en = true → l.rate ≠ 3 → outcome (.linkTrainingRetry port_ tr) l.retrains) ∧
    (retrains l why = true → outcome (.linkRetrain port_ why tr) (min (l.retrains + 1) 65535)) ∧
    (tr.locked = true → l.fenced = 0 → tr.peerLanes = 0xFF → l.rate.toNat < 3 → tr.peerRates.getLsbD l.rate.toNat = true →
      (l.rate.toNat, 0) ∈ tr.passes → trainPick l tr = some (l.rate.toNat, 0, 0xFF))

/-- R360 to R362, R365 and R367: a good flit with the number awaited is accepted; its message goes into the mesh to its home, on to the port of
ROUTE, or back to the request that waits for it. A bad flit is not accepted and a replay is asked for; the sender counts the flits that it
sends again. -/
def Claims.LinkFlits : Prop :=
  ∀ (port_ : BitVec 3) (f : LinkFlit) (m : LinkMsg) (s : State), held s (linkNode port_.toNat) = false → (link s port_.toNat).state = 2 →
    (link s port_.toNat).rx = [] → (∀ i, f.symbols.getD i 0 = 0) → f.msgs = [m] →
    let p := port_.toNat
    let n := linkNode p
    (f.codewordOk = true → f.crcOk = true → f.seqno = (link s p).nextRx →
      let accepts (q : State → Prop) : Prop := ∃ t, exec (.linkFlit port_ f) s = .next t ∧ (link t p).nextRx = (link s p).nextRx + 1 ∧ SameMemory s t ∧ q t
      (∀ a len tgt, m.dstDev = s.dev.devId → m.op = .read a len → remoteTarget s a = some tgt →
        accepts fun t => LastSent t m.cls.toNat n (targetNode s tgt) (.read tgt (min len 64) (.link p m.tag m.srcDev.toNat m.srcNode.toNat))) ∧
      (∀ a bytes psn tgt, m.dstDev = s.dev.devId → m.op = .write a bytes psn → remoteTarget s a = some tgt →
        accepts fun t => LastSent t m.cls.toNat n (targetNode s tgt) (.write tgt bytes psn (.link p m.tag m.srcDev.toNat m.srcNode.toNat))) ∧
      (∀ cell dec amount, m.dstDev = s.dev.devId → m.op = .counter cell dec amount →
        accepts fun t => LastSent t 3 n (cellNode s (codeCell cell.toNat))
          (.counter (codeCell cell.toNat) dec amount.toNat (.link p m.tag m.srcDev.toNat m.srcNode.toNat))) ∧
      (∀ q, m.dstDev ≠ s.dev.devId → routePort s m.dstDev.toNat = some q →
        accepts fun t => LastSent t m.cls.toNat n (linkNode q) (.overLink m)) ∧
      (∀ x t0 len req bytes psn, m.dstDev = s.dev.devId → m.op = .data bytes psn → inboxGet s m.tag = some x → nodeKind x.dst = 2 →
        x.pay = .read t0 len req →
        accepts fun t => LastSent t 1 x.dst x.src (.data bytes psn 4 req) ∧ t.inbox = s.inbox.filter (fun y => y.id != x.id))) ∧
    (f.crcOk = false ∨ f.codewordOk = false →
      ∃ t, exec (.linkFlit port_ f) s = .next t ∧ (link t p).nextRx = (link s p).nextRx ∧ (link t p).needReplay = some (link s p).nextRx ∧
        t.inbox = s.inbox ∧ SameMemory s t) ∧
    (∀ seqno, ∃ t, exec (.replayRequest port_ seqno false false) s = .next t ∧
      (link t p).unacked = (link s p).unacked.filter (fun e => decide (seqno ≤ e.1)) ∧
      (link t p).replay = (link s p).replay + BitVec.ofNat 64 ((link s p).unacked.filter fun e => decide (seqno ≤ e.1)).length) ∧
    (∀ seqno, ∃ t, exec (.replayRequest port_ seqno true false) s = .next t ∧ (link t p).needReplay = some (link s p).nextRx ∧
      (link t p).unacked = (link s p).unacked)

/-- R359, R366 and R367: a message that waited too long for a port that is not UP is discarded and counted, and its request answered with an
address error; a request without a response for 2,097,152 ticks is answered so too; an access from another device is performed at its home, or
refused with an address error where it reaches no memory that remote devices may. -/
def Claims.RemoteAccesses : Prop :=
  (∀ (port_ : BitVec 3) (i : Nat) (e : LinkMsg × Nat) (x : Msg) (d o len : Nat) (req : Requester) (s : State),
    held s (linkNode port_.toNat) = false → (link s port_.toNat).queue[i]? = some e → (link s port_.toNat).state ≠ 2 →
    1048576 ≤ pacerSince s (linkNode port_.toNat) e.2 → isAnswer e.1.op = false → e.1.srcDev = s.dev.devId →
    inboxGet s e.1.tag = some x → nodeKind x.dst = 2 → x.pay = .read (.remote d o) len req →
    let p := port_.toNat
    ∃ t, exec (.linkWaitDiscard port_ i) s = .next t ∧ (link t p).queue = (link s p).queue.eraseIdx i ∧
      (link t p).discards = min ((link s p).discards + 1) 65535 ∧ LastSent t 1 x.dst x.src (.error 8 req) ∧
      t.inbox = s.inbox.filter (fun y => y.id != x.id)) ∧
  (∀ (m : Nat) (x : Msg) (d o len : Nat) (req : Requester) (s : State), inboxGet s m = some x → nodeKind x.dst = 2 →
    x.pay = .read (.remote d o) len req →
    (2097152 < pacerSince s x.src x.since → ∃ t, exec (.remoteResponseTimeout m) s = .next t ∧ LastSent t 1 x.dst x.src (.error 8 req) ∧
      t.inbox = s.inbox.filter (fun y => y.id != m)) ∧
    (pacerSince s x.src x.since ≤ 2097152 → exec (.remoteResponseTimeout m) s = .next s)) ∧
  (∀ (m p tag d n : Nat) (x : Msg) (s : State), arrived s m = some x → held s x.dst = false →
    let req := Requester.link p tag d n
    (∀ a len, x.pay = .read (.hbm a) len req → a < reserveBase → withdrawn s a = false → lineLocked s (.hbm a) = false →
      ∃ t, exec (.incomingAccess m 0) s = .next t ∧ SameMemory s t ∧
        LastSent t 1 x.dst x.src (.data ((List.range len).map fun i => hbmByte s (a + i)) (homePoison s (.hbm a)) 3 req)) ∧
    (∀ c o bytes psn, x.pay = .write (.store c o) bytes psn req → goodCore s c = true → o < 0x78000 → (node s (c / 8)).gated = false →
      lineLocked s (.store c o) = false → memWf s.ls = true → (∀ b ∈ bytes, (o + b.1) / 64 = o / 64) →
      ∃ t, exec (.incomingAccess m 0) s = .next t ∧ LastSent t 1 x.dst x.src (.ack req) ∧
        ∀ q, q < 2 ^ 20 → storeByte t c q = match bytes.reverse.find? fun b => o + b.1 == q with
          | some b => b.2 | none => storeByte s c q) ∧
    (∀ tgt len, x.pay = .read tgt len req → incomingRefused s tgt = true →
      ∃ t, exec (.incomingAccess m 0) s = .next t ∧ SameMemory s t ∧ LastSent t 1 x.dst x.src (.error 8 req)) ∧
    (∀ c i amount, x.pay = .counter (.core c i) false amount req → goodCore s c = true → i < 48 → (Machine.core s c).ctrDead = false →
      bit (Machine.core s c).ctrMode.toNat i = false →
      ∃ t, exec (.incomingAccess m 0) s = .next t ∧ LastSent t 1 x.dst x.src (.ack req) ∧
        cellValue t (.core c i) = BitVec.ofNat 48 ((cellValue s (.core c i)).toNat + amount)))

/-- R354 to R362 and R365 to R367: the training of a link port, the flits that it carries, and the accesses of other devices. Choices of the model in it: log entry 17. -/
def Obligations.Links : Prop := Claims.LinkTrains ∧ Claims.LinkFlits ∧ Claims.RemoteAccesses

/-- R379, R386 and R438: a reliability window that is over starts the counts of the next; a Unit Record that changed is written to the flash; a
parity error in PACER_CAL or CTR_MODE sets the block back, is counted in the node and the Unit Record, and a clean sweep changes nothing. Choices of the model in it: log entry 24. -/
def Obligations.Reliability : Prop :=
  ∀ (s : State), dark s = false →
    (s.dev.windowStart + policy s 0x0101 ≤ s.dev.ticks →
      ∃ t, exec .reliabilityWindow s = .next t ∧ t.dev.window = [] ∧ t.dev.windowStart = s.dev.windowStart + policy s 0x0101 ∧
        t.units = s.units ∧ SameMemory s t) ∧
    (s.dev.ticks < s.dev.windowStart + policy s 0x0101 → exec .reliabilityWindow s = .next s) ∧
    (∀ unit : BitVec 24, s.dev.fwState = 3 → (unitRec s unit.toNat).due.isSome = true →
      ∃ t, exec (.unitRecordFlush unit) s = .next t ∧ Tbl.get? t.flash.records unit.toNat = some { unitRec s unit.toNat with due := none } ∧
        unitRec t unit.toNat = { unitRec s unit.toNat with due := none } ∧ t.flash.board = s.flash.board ∧ SameMemory s t) ∧
    (∀ node_ : BitVec 8, exec (.paritySweep node_ none) s = .next s) ∧
    (∀ node_ : BitVec 8, pacersRun s = true →
      ∃ t, exec (.paritySweep node_ (some 0x70008)) s = .next t ∧ (node t node_.toNat).calValid = false ∧
        (node t node_.toNat).period = 0x007A1200 ∧ (node t node_.toNat).cntParity = min ((node s node_.toNat).cntParity + 1) 65535 ∧
        (node t node_.toNat).errFlags = (node s node_.toNat).errFlags ||| 4 ∧ SameMemory s t) ∧
    (∀ (node_ : BitVec 8) (i : BitVec 3), pacersRun s = true → isBench node_.toNat = true → isFenced s 2 node_.toNat = false →
      let c := node_.toNat * 8 + i.toNat
      let u := unitName 2 node_.toNat
      ∃ t, exec (.paritySweep node_ (some (BitVec.ofNat 24 (0x80100 + i.toNat * 0x10000)))) s = .next t ∧ (Machine.core t c).ctrDead = true ∧
        (unitRec t u).uncorr = min ((unitRec s u).uncorr + 1) 65535 ∧ SameMemory s t)

/-! ### Event rings and the host's accesses (chapters 16 and 17) -/

/-- R305, R344, R345 and R352: a record at its endpoint is written as Table 17.8 says into the ring's next slot, waits while the ring is
full, spills when the buffer is full, is dropped and counted when the tailings area has no room, and is discarded while the link is down. -/
def Claims.EventRecords : Prop :=
  ∀ (m rg : Nat) (x : Msg) (r : Record) (s : State), arrived s m = some x → x.pay = .record r → r.ring = rg → held s x.dst = false →
    r.ty ≠ 13 → (evring s rg).en = true →
    let e := evring s rg
    let p := e.port
    let taken (t : State) : Prop := exec (.eventRecord m) s = .next t ∧ t.inbox = s.inbox.filter (fun y => y.id != m)
    let room : Prop := (e.written + 2 ^ 32 - e.head) % 2 ^ 32 < 2 ^ e.log2n
    ((port s p).linkUp = true →
      (room → inD3 s p (evFn s rg) = false → (port s p).buf = [] → e.spilled = [] → memWf s.hostMem = true →
        let slot := e.base + 64 * (e.written % 2 ^ e.log2n)
        ∃ t, taken t ∧ (port t p).buf = [] ∧
          evring t rg = { e with written := (e.written + 1) % 2 ^ 32, drops := 0, sinceMsg := e.sinceMsg + 1,
                                 firstStamp := if e.sinceMsg = 0 then (port s p).stamp.toNat else e.firstStamp } ∧
          hostWord t p slot = BitVec.ofNat 64 (r.ty + r.scls * 2 ^ 8 + r.srcid * 2 ^ 16 +
            (match r.ctx with | some c => c * 2 ^ 32 + 2 ^ 38 | none => 0) + (if r.spilled then 2 ^ 39 else 0) +
            (if e.written / 2 ^ e.log2n % 2 = 0 then 2 ^ 63 else 0)) ∧
          hostWord t p (slot + 8) = BitVec.ofNat 64 (min e.drops (2 ^ 32 - 1) * 2 ^ 32 + r.seqno.toNat) ∧
          hostWord t p (slot + 16) = (port s p).stamp ∧ hostWord t p (slot + 24) = r.w3 ∧ hostWord t p (slot + 32) = r.w4 ∧
          hostWord t p (slot + 40) = r.w5 ∧ hostWord t p (slot + 48) = r.w6 ∧ hostWord t p (slot + 56) = r.w7 ∧
          (∀ a, ¬ (p * 2 ^ 40 + slot ≤ a ∧ a < p * 2 ^ 40 + slot + 64) → memGet t.hostMem a = memGet s.hostMem a) ∧
          t.hbm = s.hbm ∧ t.ls = s.ls) ∧
      (¬ room → (port s p).buf.length < 384 → sourceSpilled s r = false →
        ∃ t, taken t ∧ (port t p).buf = (port s p).buf ++ [r] ∧ evring t rg = e ∧ SameMemory s t) ∧
      (384 ≤ (port s p).buf.length → needSlots r.prio ≤ tailingsFree s → memWf s.hbm = true →
        let slot := tailingsSlot s
        let a := tailingsAddr slot
        ∃ t, taken t ∧ (evring t rg).spilled = e.spilled ++ [({ r with spilled := true }, slot)] ∧ (port t p).buf = (port s p).buf ∧
          (∀ i, i < 64 → hbmByte t (a + i) = (recordBytes s rg { r with spilled := true }).getD i 0) ∧
          (∀ b, b < 2 ^ 40 → b < a ∨ a + 64 ≤ b → hbmByte t b = hbmByte s b) ∧ t.ls = s.ls ∧ t.hostMem = s.hostMem) ∧
      (384 ≤ (port s p).buf.length → tailingsFree s < needSlots r.prio →
        ∃ t, taken t ∧ (evring t rg).spilled = e.spilled ∧ (evring t rg).drops = min (e.drops + 1) (2 ^ 32 - 1) ∧ SameMemory s t)) ∧
    ((port s p).linkUp = false → ∃ t, taken t ∧ t.evrings = s.evrings ∧ t.ports = s.ports ∧ SameMemory s t)

/-- R350 to R353 and R320: spilled records come back behind a TAILINGS record, lost ones are counted in a DROPPED record, the head word of a full
ring is read again, and a vector's message is sent, or waits while it is masked or its function is in D3hot. -/
def Claims.EventRings : Prop :=
  (∀ (rg : Nat) (s : State), (Tbl.get? s.evrings rg).isSome = true → held s (portNode (evring s rg).port) = false →
    let e := evring s rg
    let p := e.port
    let n := portNode p
    let used := (e.written + 2 ^ 32 - e.head) % 2 ^ 32
    let ready : Prop := (port s p).linkUp = true ∧ inD3 s p (evFn s rg) = false ∧ ∀ y ∈ (port s p).buf, y.ring ≠ rg
    (∀ y place, ready → e.written < 2 ^ 32 → e.head < 2 ^ 32 → used + 1 < 2 ^ e.log2n → e.spilled = [(y, place)] → y.ring = rg →
      e.returning = false → homePoison s (.hbm (tailingsAddr place)) = false → memWf s.hostMem = true →
      let slot (i : Nat) := e.base + 64 * ((e.written + i) % 2 ^ 32 % 2 ^ e.log2n)
      ∃ t, exec (.tailings rg) s = .next t ∧ (evring t rg).spilled = [] ∧ (evring t rg).returning = false ∧
        (evring t rg).written = (e.written + 2) % 2 ^ 32 ∧ (hostWord t p (slot 0)).toNat % 256 = 14 ∧ hostWord t p (slot 0 + 24) = 1 ∧
        hostWord t p (slot 0 + 32) = e.firstSpill ∧ (hostWord t p (slot 1)).toNat % 256 = y.ty % 256 ∧ hostWord t p (slot 1 + 24) = y.w3 ∧
        hostWord t p (slot 1 + 56) = y.w7) ∧
    (∀ a b c : Nat, 851968 ≤ tailingsFree s → e.en = true → e.dropPrio = [a, b, c] → a + b + c ≠ 0 →
      ∃ t, exec (.dropped rg) s = .next t ∧ (evring t rg).dropPrio = [0, 0, 0] ∧ SameMemory s t ∧
        LastSent t 3 n n (.record
          { ring := rg, ty := 15, scls := 6, srcid := p, seqno := Tbl.getD s.seqs (seqKey rg 6 p) 0, ctx := if rg < 64 then some rg else none,
            w3 := BitVec.ofNat 64 a, w4 := BitVec.ofNat 64 b, w5 := BitVec.ofNat 64 c, w6 := 0, w7 := 0, prio := 0, spilled := false })) ∧
    (∀ head : BitVec 32, ready → 2 ^ e.log2n ≤ used → 256 ≤ pacerSince s n e.lastPoll →
      ∃ t, exec (.ringHeadPoll rg head) s = .next t ∧ evring t rg = { e with head := head.toNat, lastPoll := pacerOf s n } ∧ SameMemory s t) ∧
    (∀ head : BitVec 32, used < 2 ^ e.log2n → exec (.ringHeadPoll rg head) s = .next s) ∧
    (let fn := evFn s rg
     (port s p).linkUp = true → e.modcount + 1 ≤ e.sinceMsg →
      ∃ t, exec (.msiXMessage rg) s = .next t ∧ (evring t rg).sinceMsg = 0 ∧ SameMemory s t ∧
        (NSet.has (port s p).unmasked (fn * 128 + e.vector) = true → inD3 s p fn = false →
          (port t p).sent = (port s p).sent ++ [fn * 128 + e.vector]) ∧
        (NSet.has (port s p).unmasked (fn * 128 + e.vector) = false ∨ inD3 s p fn = true →
          NSet.has (port t p).pendingVec (fn * 128 + e.vector) = true ∧ (port t p).sent = (port s p).sent)) ∧
    (e.sinceMsg = 0 → exec (.msiXMessage rg) s = .next s)) ∧
  (∀ (port_ : BitVec 1) (fn : BitVec 5) (v : BitVec 7) (s : State), hostReaches s port_.toNat = true →
    let p := port_.toNat
    let key := fn.toNat * 128 + v.toNat
    (fn = 0 ∨ v.toNat < 8 → ∃ t, exec (.msiXUnmask port_ fn v) s = .next t ∧ NSet.has (port t p).unmasked key = true ∧ SameMemory s t ∧
      (NSet.has (port s p).pendingVec key = true → inD3 s p fn.toNat = false → (port t p).sent = (port s p).sent ++ [key]) ∧
      (NSet.has (port s p).pendingVec key = false → (port t p).sent = (port s p).sent)) ∧
    (fn ≠ 0 → 8 ≤ v.toNat → exec (.msiXUnmask port_ fn v) s = .next s) ∧
    (∃ t, exec (.d3hot port_ fn true) s = .next t ∧ inD3 t p fn.toNat = true ∧ t.evrings = s.evrings ∧ SameMemory s t) ∧
    (∃ t, exec (.d3hot port_ fn false) s = .next t ∧ inD3 t p fn.toNat = false ∧
      ∀ w ∈ (port s p).pendingVec, w / 128 = fn.toNat → NSet.has (port s p).unmasked w = true → w ∈ (port t p).sent))

/-- R305, R320, R344 and R350 to R353: records, rings, spills and the messages to the host. Choices of the model in it: log entry 7. -/
def Obligations.EventRings : Prop := Claims.EventRecords ∧ Claims.EventRings

/-- R195, R309, R313, R315, Tables 16.1, 16.2 and 16.6: a PF reads and writes HBM through BAR2 at its APERTURE_BASE; a write that meets a
locked line, or follows one that waits, goes to its home as a message; a read of nothing is a Completer Abort, a refused write is discarded whole and logged; an AtomicOp answers the old value and stores the new one. -/
def Claims.Bar2 : Prop :=
  ∀ (port_ : BitVec 1) (off : BitVec 40) (ext : Ext) (s : State), hostReaches s port_.toNat = true →
    s.dev.power = .active ∨ s.dev.power = .idle → held s (portNode port_.toNat) = false → inD3 s port_.toNat 0 = false →
    (port s port_.toNat).apertureDead = false →
    let p := port_.toNat
    let a := (port s p).aperture.toNat / 64 * 2 ^ 36 + off.toNat
    let answered (t : State) (status : Nat) (bytes : List Byte) : Prop := (port t p).answer = bytes ∧ (port t p).answerStatus = status
    let backed : Prop := off.toNat < 2 ^ 36 ∧ a < 0xFFC0000000
    let free : Prop := bar2Pending s p = false ∧ lineLocked s (.hbm a) = false ∧ homeHeld s (.hbm a) = false
    (∀ len, backed → 0 < len → off.toNat % 64 + len ≤ 64 → free →
      ∃ t, exec (.bar2Read port_ 0 off len ext) s = .next t ∧ SameMemory s t ∧
        answered t (if homePoison s (.hbm a) then 4 else 0) ((List.range len).map fun i => hbmByte s (a + i))) ∧
    (∀ len, ¬ backed → 0 < len → bar2Pending s p = false → ∃ t, exec (.bar2Read port_ 0 off len ext) s = .next t ∧ answered t 1 [] ∧
      (port t p).aer = (port s p).aer ++ [1] ∧ SameMemory s t) ∧
    (∀ (data : List Byte) (ep : Bool), backed → 0 < data.length → off.toNat % 64 + data.length ≤ 64 → free →
      withdrawn s a = false → memWf s.hbm = true →
      ∃ t, exec (.bar2Write port_ 0 off data ep) s = .next t ∧ t.ls = s.ls ∧ (ep = true → homePoison t (.hbm a) = true) ∧
        ∀ q, q < 2 ^ 40 → hbmByte t q = if a ≤ q ∧ q < a + data.length then data.getD (q - a) 0 else hbmByte s q) ∧
    (∀ (data : List Byte) (ep : Bool), backed → 0 < data.length → off.toNat % 64 + data.length ≤ 64 → ¬ free →
      ∃ t, exec (.bar2Write port_ 0 off data ep) s = .next t ∧ SameMemory s t ∧
        LastSent t 3 (portNode p) (targetNode s (.hbm a)) (.write (.hbm a) (offsets data) ep (.bar2 p))) ∧
    (∀ (data : List Byte) (ep : Bool), ¬ backed → 0 < data.length → ∃ t, exec (.bar2Write port_ 0 off data ep) s = .next t ∧
      (port t p).aer = (port s p).aer ++ [2] ∧ SameMemory s t) ∧
    (∀ (op : PcieAtomic) (n : Nat) (operand compare : W64), backed → n = 4 ∨ n = 8 → (op = .cas → n = 8) → off.toNat % n = 0 →
      free → homePoison s (.hbm a) = false → memWf s.hbm = true →
      let old := leNat ((List.range n).map fun i => hbmByte s (a + i))
      let v := operand.toNat % 2 ^ (8 * n)
      let new := match op with | .fetchAdd => old + v | .swap => v | .cas => if old = compare.toNat then v else old
      ∃ t, exec (.atomicop port_ 0 off op (8 * n) operand compare) s = .next t ∧
        answered t 0 ((List.range n).map fun i => hbmByte s (a + i)) ∧
        ∀ q, q < 2 ^ 40 → hbmByte t q = if a ≤ q ∧ q < a + n then byteOf new (q - a) else hbmByte s q) ∧
    (∀ (n : Nat) (operand compare : W64), n ≠ 8 → bar2Pending s p = false →
      ∃ t, exec (.atomicop port_ 0 off .cas (8 * n) operand compare) s = .next t ∧ answered t 2 [] ∧ SameMemory s t)

/-- R316 and Table 16.5, R313, R440, R441, R306 and R319: the Front Window answers its registers in every state of a powered device; a PF's BAR0 takes
APERTURE_BASE and NODESEL; the node aperture clears RW1C bits for the primary port and denies every other write; traffic to a host that waits
too long is answered with an error. -/
def Claims.PortRegisters : Prop :=
  (∀ (port_ : BitVec 1) (fn : BitVec 5) (s : State), hostReaches s port_.toNat = true → inD3 s port_.toNat fn.toNat = false →
    let p := port_.toNat
    let x := port s p
    let reads (off : Nat) (v : Nat) : Prop :=
      ∃ t, exec (.frontWindowRead port_ fn (BitVec.ofNat 12 off) 8) s = .next t ∧ (port t p).answer = (List.range 8).map (byteOf v) ∧
        (port t p).answerStatus = 0 ∧ SameMemory s t
    reads 0x000 (fn.toNat + p * 2 ^ 8 + (if s.dev.primary = p then 2 ^ 9 else 0) +
      (if s.dev.image = [] then 0 else (Config.fwRevision s.dev.image).toNat * 2 ^ 16)) ∧
    (∀ k, x.nctxCopy = [(fn.toNat, k)] → reads 0x008 (x.stateCopy.toNat + k * 2 ^ 8 + x.goodCopy * 2 ^ 32)) ∧
    reads 0x010 s.dev.heartbeat.toNat ∧ reads 0x018 x.stamp.toNat ∧ reads 0x020 x.uptimeCopy.toNat ∧
    reads 0x028 ((if x.peerUp then 1 else 0) + x.peerDown.toNat * 2 ^ 32) ∧
    (∀ i : BitVec 4, fn = 0 ∨ i.toNat < 4 → reads (0x040 + 8 * i.toNat) (ring s (ringKey ⟨port_, fn, i⟩)).head.toNat) ∧ reads 0x030 0 ∧
    (∀ off : BitVec 12, ∃ t, exec (.frontWindowRead port_ fn off 3) s = .next t ∧ (port t p).answerStatus = 1)) ∧
  (∀ (port_ : BitVec 1) (v : W64) (s : State), hostReaches s port_.toNat = true → s.dev.power = .active → inD3 s port_.toNat 0 = false →
    let p := port_.toNat
    let n := (port s p).nodesel.toNat
    (∃ t, exec (.apertureBase port_ v) s = .next t ∧ (port t p).aperture = v.setWidth 10 ∧ (port t p).apertureDead = false ∧ SameMemory s t) ∧
    (∃ t, exec (.nodesel port_ v) s = .next t ∧ (port t p).nodesel = v.setWidth 8 ∧ SameMemory s t) ∧
    (held s n = false → s.dev.primary = p → ∃ t, exec (.apertureWrite port_ 0x10 8 v) s = .next t ∧
      (Machine.node t n).errFlags = (Machine.node s n).errFlags &&& ~~~ (v.setWidth 4) ∧ SameMemory s t) ∧
    (held s n = false → s.dev.primary ≠ p → ∃ t, exec (.apertureWrite port_ 0x10 8 v) s = .next t ∧
      (Machine.node t n).errFlags = (Machine.node s n).errFlags ||| 8 ∧ (port t p).aer = (port s p).aer ++ [2] ∧ SameMemory s t)) ∧
  (∀ (m : Nat) (x : Msg) (p a len : Nat) (req : Requester) (s : State), arrived s m = some x → held s x.dst = false →
    (∀ bytes psn, x.pay = .write (.host p a) bytes psn req → (port s p).linkUp = true → 1048576 < pacerSince s x.dst x.arr →
      ∃ t, exec (.hostWriteTimeout m) s = .next t ∧ LastSent t 1 x.dst x.src (.error 8 req) ∧ SameMemory s t) ∧
    (x.pay = .read (.host p a) len req → ∃ t, exec (.completionTimeout m) s = .next t ∧ LastSent t 1 x.dst x.src (.error 8 req) ∧
      (port t p).aer = (port s p).aer ++ [4] ∧ SameMemory s t))

/-- R34 and R35: a host's invalidation drops the translations that overlap it, once none is in use; a granted translation ends the wait of the thread
that asked; without one a page request is sent, whose refusal, or no answer in 1,048,576 ticks, raises PAGE at the waiting instruction; a haul
channel's chain goes on, or learns of the refusal, in the same way. Choices of the model in it: log entries 8, 12. -/
def Claims.HostTranslations : Prop :=
  (∀ (port_ : BitVec 1) (pasid : BitVec 20) (lo : W64) (len : Nat) (s : State), hostReaches s port_.toNat = true →
    let mine (e : TuEntry) : Prop := (∃ x, (e.ctx, x) ∈ s.ctxs ∧ x.port = port_.toNat ∧ x.pasid = pasid.toNat) ∧
      ∃ answer untranslated, e.ats = some (answer, untranslated) ∧ untranslated < lo.toNat + len ∧ lo.toNat < untranslated + 2 ^ e.log2
    let used (e : TuEntry) : Bool := rangeInUse s e.ctx (e.vpage * 2 ^ e.log2) (2 ^ e.log2)
    ((∀ b ∈ s.benches, ∀ e ∈ b.2.tu, mine e → used e = false) →
      ∃ t, exec (.atsInvalidation port_ pasid lo len) s = .next t ∧ SameMemory s t ∧ t.ctxs = s.ctxs ∧
        (port t port_.toNat).invDone = (port s port_.toNat).invDone ++ [(pasid.toNat, lo.toNat, len)] ∧
        ∀ n e, e ∈ (bench t n).tu ↔ e ∈ (bench s n).tu ∧ ¬ mine e) ∧
    ((∃ b ∈ s.benches, ∃ e ∈ b.2.tu, mine e ∧ used e = true) → exec (.atsInvalidation port_ pasid lo len) s = .next s)) ∧
  (∀ (req : Nat) (r : PageReq) (s : State), Tbl.get? s.pageReqs req = some r → held s r.node = false →
    let k := r.core * 8 + r.thr
    (∀ ch, r.why = .chain ch →
      (r.pri = false → ∀ page len, ∃ t, exec (.atsResponse req true true true page len) s = .next t ∧
        (haulCh t r.node ch).page = .idle ∧ t.pageReqs = Tbl.erase s.pageReqs req ∧ SameMemory s t) ∧
      (r.pri = true → ∃ t, exec (.pageResponse req true) s = .next t ∧ (haulCh t r.node ch).page = .idle ∧ SameMemory s t) ∧
      (r.pri = true → ∃ t, exec (.pageResponse req false) s = .next t ∧ (haulCh t r.node ch).page = .refused ∧ SameMemory s t)) ∧
    ((thr s k).wait = some (.pri req) → (∀ ch, r.why ≠ .chain ch) →
    (∀ (rd wr : Bool) (page : BitVec 40) (len : Nat), r.pri = false → (if r.write then wr else rd) = true →
      ∃ t, exec (.atsResponse req true rd wr page len) s = .next t ∧ (thr t k).wait = none ∧ (thr t k).pc = (thr s k).pc ∧
        t.pageReqs = Tbl.erase s.pageReqs req ∧ SameMemory s t) ∧
    (∀ (rd wr : Bool) (page : BitVec 40) (len : Nat), r.pri = false →
      ∃ t, exec (.atsResponse req false rd wr page len) s = .next t ∧ t.threads = s.threads ∧ SameMemory s t ∧
        Tbl.get? t.pageReqs req = some { r with pri := true, since := pacerOf s r.node }) ∧
    (r.pri = true →
      (∃ t, exec (.pageResponse req true) s = .next t ∧ (thr t k).wait = none ∧ (thr t k).pc = (thr s k).pc ∧
        t.pageReqs = Tbl.erase s.pageReqs req ∧ SameMemory s t) ∧
      (∀ e, r.why = .instr e →
       let raised := faultAt (modThr { s with pageReqs := Tbl.erase s.pageReqs req } k fun t => { t with wait := none }) k e (thr s k).pc
       exec (.pageResponse req false) s = .next raised ∧
       (1048576 ≤ pacerSince s r.node r.since → exec (.pageRequestTimeout req) s = .next raised) ∧
       (pacerSince s r.node r.since < 1048576 → exec (.pageRequestTimeout req) s = .next s)))))

/-- R34, R35, R306, R309, R313 to R319, R440 and R441: what a host reaches through the BARs of a port, and its answers to translation
requests. Choices of the model in it: log entries 6, 8, 12. -/
def Obligations.HostAccesses : Prop := Claims.Bar2 ∧ Claims.PortRegisters ∧ Claims.HostTranslations

/-! ### Command rings, groups and the commands for kernels (chapters 11 and 17) -/

/-- R312, R326 and R327: a doorbell moves the tail, or is discarded with BADTAIL where it would pass the ring; a packet is read and counted in
CMD_HEAD, and one of another generation or of an unknown opcode is answered at once; the third failed read disables the ring; RING_CTL enables a
ring whose settings are legal. -/
def Claims.CommandRings : Prop :=
  ∀ (r : RingRef) (v : W64) (words : List W64) (s : State), hostReaches s r.port.toNat = true → s.dev.power = .active →
    inD3 s r.port.toNat r.fn.toNat = false → held s (portNode r.port.toNat) = false → r.fn = 0 ∨ r.ring.toNat < 4 →
    let rk := ringKey r
    let x := ring s rk
    let pos := v.toNat % 2 ^ 32
    let fits : Prop := (pos + 2 ^ 32 - x.head.toNat) % 2 ^ 32 ≤ 2 ^ x.log2n ∧ (pos + 2 ^ 32 - x.tail.toNat) % 2 ^ 32 ≤ 2 ^ x.log2n
    let becomes (i : Instr) (y : Sys2Proof.Machine.Ring) : Prop := ∃ t, exec i s = .next t ∧ ring t rk = y ∧ SameMemory s t ∧ ∀ k, k ≠ rk → ring t k = ring s k
    (x.en = true → fits → becomes (.doorbell r v) { x with tail := v.setWidth 32 }) ∧
    (x.en = true → ¬ fits → becomes (.doorbell r v) { x with badtail := true }) ∧
    (x.en = false → exec (.doorbell r v) s = .next s) ∧
    (x.en = false → inD3 s r.port.toNat 0 = false → 4 ≤ bits v.toNat 4 1 → bits v.toNat 4 1 ≤ 11 → bits v.toNat 6 5 ≠ 0 → bit v.toNat 0 = true →
      becomes (.ringCtl r v)
        { x with log2n := bits v.toNat 4 1, gen := BitVec.ofNat 2 (bits v.toNat 6 5), en := true, tail := 0, head := 0, attempts := 0,
                 badtail := x.badtail && !bit v.toNat 8, cfgerr := x.cfgerr && !bit v.toNat 9, rderr := x.rderr && !bit v.toNat 10 }) ∧
    (x.en = false → inD3 s r.port.toNat 0 = false → bits v.toNat 4 1 < 4 ∨ 11 < bits v.toNat 4 1 ∨ bits v.toNat 6 5 = 0 → bit v.toNat 0 = true →
      ∃ t, exec (.ringCtl r v) s = .next t ∧ (ring t rk).en = false ∧ (ring t rk).cfgerr = true) ∧
    (inD3 s r.port.toNat 0 = false → (evring s (64 + r.port.toNat)).en = false → bit v.toNat 0 = true → 6 ≤ bits v.toNat 5 1 → bits v.toNat 5 1 ≤ 20 →
      ∃ t e, exec (.evrCtl r.port v) s = .next t ∧ evring t (64 + r.port.toNat) = e ∧ e.en = true ∧ e.log2n = bits v.toNat 5 1 ∧
        e.vector = bits v.toNat 14 8 ∧ e.modcount = bits v.toNat 41 32 ∧ e.modtime = bits v.toNat 63 48 ∧ e.written = 0 ∧ e.head = 0 ∧ e.drops = 0) ∧
    (x.en = true → x.cur = none → x.head ≠ x.tail → answerPending s rk = false → bar2Pending s r.port.toNat = false →
      let n := if x.gen = 1 then 4 else 8
      let pkt : Packet := (List.range n).map fun i => words.getD i 0
      let reads (t : State) : Prop := exec (.packetRead r words) s = .next t ∧ (ring t rk).head = x.head + 1 ∧ (ring t rk).attempts = 0 ∧
        (ring t rk).tail = x.tail
      (packetBad x pkt = none → ∃ t, reads t ∧ (ring t rk).cur = some pkt ∧ (ring t rk).st = .ready) ∧
      (x.group = none → pktVer pkt ≠ x.gen.toNat → pktOp pkt ≠ 0x10 → ∃ t, reads t ∧ Completed r pkt s t 1 0 0 0) ∧
      (x.group = none → pktVer pkt = x.gen.toNat → bits (pkt.getD 0 0).toNat 63 48 = 0 → pktGroup pkt = 0 → opGen (pktOp pkt) = none →
        (pktFlags pkt = 0 → ∃ t, reads t ∧ Completed r pkt s t 2 0 0 0) ∧ (pktFlags pkt ≠ 0 → ∃ t, reads t ∧ Completed r pkt s t 1 0 0 0)) ∧
      (x.attempts < 2 → becomes (.packetReadRetry r) { x with attempts := x.attempts + 1 }) ∧
      (2 ≤ x.attempts → becomes (.packetReadRetry r) { x with attempts := 0, en := false, rderr := true }))

/-- R229 to R231 and R334: NOP completes; GROUP_OPEN opens a group, whose members are taken without effect; GROUP_CLOSE carries them out where every
one passes, and otherwise none takes effect; a command that may not be a member fails the group. -/
def Claims.Groups : Prop :=
  ∀ (r : RingRef) (ext : Ext) (p : Packet) (s : State),
    let rk := ringKey r
    let inside (op num : Nat) (ms : List (Packet × Nat)) : Prop :=
      (ring s rk).cur = some p ∧ pktOp p = op ∧ (ring s rk).st = .ready ∧ (ring s rk).group = some (num, ms) ∧ cmdAwake s rk p = true ∧
        fwTurn s rk p = true
    (Begins r 0x00 p s → ∃ t, exec (.nop r) s = .next t ∧ Completed r p s t 0 0 0 0 ∧ SameMemory s t) ∧
    (Begins r 0x38 p s → ∃ t, exec (.groupOpen r) s = .next t ∧ Completed r p s t 0 0 0 0 ∧ (ring t rk).group = some (pktGroup p, [])) ∧
    (∀ num ms, inside 0x18 num ms → pktGroup p = num → ms.length < 64 →
      ∃ t, exec (.map r) s = .next t ∧ (ring t rk).cur = none ∧ t.mesh = s.mesh ∧ t.ctxs = s.ctxs ∧ SameMemory s t ∧
        ∃ st, (ring t rk).group = some (num, ms ++ [(p, st)]) ∧ ∀ h, headerStatus s rk p = some h → st = h) ∧
    (∀ num ms, inside 0x00 num ms → ∃ t, exec (.nop r) s = .next t ∧ (ring t rk).cur = none ∧ (ring t rk).group = none ∧ SameCtxs s t ∧ SameMemory s t) ∧
    (∀ num, inside 0x00 num [] → ∃ t, exec (.nop r) s = .next t ∧ Completed r p s t ((headerStatus s rk p).getD 20) 0 0 0) ∧
    (∀ num, inside 0x39 num [] → pktGroup p = num → headerStatus s rk p = none → ∃ t, exec (.groupClose r ext) s = .next t ∧ Completed r p s t 0 0 0 0 ∧
      (ring t rk).group = none) ∧
    (∀ num q n v, inside 0x39 num [(q, 0)] → pktGroup p = num → headerStatus s rk p = none → pktOp q = 0x31 → headerStatus s rk q = none →
      (pktP q 0).toNat = n → (pktP q 1).toNat = v →
      (0x0102 ≤ n → policyRange n v = true → vminAbove s n v = false →
        ∃ t, exec (.groupClose r ext) s = .next t ∧ policy t n = v ∧ (ring t rk).group = none ∧ (ring t rk).cur = none) ∧
      (policyRange n v = false →
        ∃ t, exec (.groupClose r ext) s = .next t ∧ t.dev = s.dev ∧ (ring t rk).group = none ∧ (ring t rk).cur = none)) ∧
    (∀ num q st, inside 0x39 num [(q, st)] → st ≠ 0 → pktGroup p = num → headerStatus s rk p = none →
      ∃ t, exec (.groupClose r ext) s = .next t ∧ t.dev = s.dev ∧ SameCtxs s t ∧ SameMemory s t ∧ (ring t rk).group = none ∧ (ring t rk).cur = none)

/-- R229 to R231, R312, R326 and R327: rings, packets and groups. Choices of the model in it: log entry 8. -/
def Obligations.CommandRings : Prop := Claims.CommandRings ∧ Claims.Groups

/-- R87, R194, R338 and R340: LAUNCH starts the threads of the cores that it names; once each part has ended and every access is answered the
kernel's caches are written back, its host ports flushed with a read each, and the LAUNCH completes; STOP ends every thread of a LAUNCH. -/
def Claims.Launches : Prop :=
  ∀ (r : RingRef) (ext : Ext) (p : Packet) (s : State),
    let rk := ringKey r
    (∀ x cs, Begins r 0x01 p s → cmdCtx s p = some x → launchCores x p = some cs →
      (bit (pktP p 0).toNat 0 = false → (∀ c ∈ cs, (Machine.core s c).kernel = none ∧ goodCore s c = true ∧ (Machine.core s c).mode ∈ [2, 4, 8] ∧ ∀ q, q < 32 → portLive s c q = false) →
        ∃ t, exec (.launch r) s = .next t ∧ (ring t rk).st = .launched ∧ (ring t rk).cur = some p ∧ SameMemory s t ∧
          t.launches = s.launches ++ [{ ring := r, ctx := pktCtx p, tag := pktTag p, cores := cs, lost := [], report := pktP p 3,
                                        cap := (pktP p 4).toNat, stopped := false, flush := none }] ∧
          ∀ c ∈ cs, (Machine.core t c).kernel = some r ∧ (Machine.node t (c / 8)).gated = false ∧
            ∀ i, i < (Machine.core s c).mode →
              let k := c * 8 + i
              (thr t k).run = (if (Machine.core s c).mode = 8 ∧ i ≠ 0 then .held else .running) ∧ rx t k 10 = pktP p 1 ∧
              (∀ q, q ≠ 10 → rx t k q = 0) ∧ (thr t k).sys.priv = 1 ∧ (thr t k).sys.mask = 0 ∧ (thr t k).sys.rpc = 0 ∧ (thr t k).wait = none ∧
              ((Machine.core s c).mode ≠ 8 → (thr t k).pc = pktP p 0 + BitVec.ofNat 64 (4 * i)) ∧
              ((Machine.core s c).mode = 8 → i = 0 → (thr t k).pc = pktP p 0)) ∧
      (bit (pktP p 0).toNat 0 = true → ∃ t, exec (.launch r) s = .next t ∧ Completed r p s t 9 0 0 0) ∧
      (bit (pktP p 0).toNat 0 = false → (∃ c ∈ cs, (Machine.core s c).kernel.isSome = true ∨ goodCore s c = false) →
        ∃ t, exec (.launch r) s = .next t ∧ Completed r p s t 23 0 0 0 ∧ t.threads = s.threads)) ∧
    (∀ l, launchOf s rk = some l → (ring s rk).cur = some p → pktOp p = 1 → held s (portNode r.port.toNat) = false →
      (∀ c ∈ l.cores, (Machine.core s c).partEnded = true) → (∀ n ∈ benchesOf l.cores, (bench s n).pass = none ∧ held s n = false) →
      (l.flush = none → kernelOwed s l = false → memWf s.ls = true → (∀ e ∈ s.threads, e.2.tx.reserved = []) →
        ∃ t, exec (.launchCompletion r ext) s = .next t ∧ launchOf t rk = some { l with flush := some (kernelPorts s l) } ∧
          (ring t rk).cur = some p ∧ (∀ k ∈ launchThreads s l, (thr t k).handles = [] ∧ (thr t k).staged = []) ∧
          ∀ c ∈ l.cores, (Machine.core t c).gbuf = [] ∧ ∀ q, q < 32 → portLive t c q = false) ∧
      (l.flush = none → kernelOwed s l = true → exec (.launchCompletion r ext) s = .next s) ∧
      (∀ port_, l.flush = some [port_] → port_ < 2 →
        ∃ t, exec (.launchCompletion r ext) s = .next t ∧ launchOf t rk = some { l with flush := some [2 + port_] } ∧ SameMemory s t ∧
          LastSent t 3 ((benchesOf l.cores).headD 0) (portNode port_) (.read (.host port_ 0) 0 (.kernelFlush rk port_))) ∧
      (l.flush = some [] → haltedThreads s l = [] → l.report = 0 → (∀ e ∈ s.rings, e.2.st ≠ .halting) →
        ∃ t, exec (.launchCompletion r ext) s = .next t ∧ Completed r p s t (if l.stopped then 14 else 0) 0 0 0 ∧
          t.launches = s.launches.filter (fun y => ringKey y.ring != rk) ∧ ∀ c ∈ l.cores, (Machine.core t c).kernel = none)) ∧
    (∀ l, launchOf s rk = some l → (∃ c ∈ l.cores, (Machine.core s c).partEnded = false) → exec (.launchCompletion r ext) s = .next s) ∧
    (Begins r 0x21 p s →
      (∀ l, (s.launches.find? fun l => ringKey l.ring == rk / 16 * 16 + bits (pktP p 0).toNat 3 0 && l.tag == bits (pktP p 0).toNat 31 16) = some l →
        ∃ t, exec (.stop r) s = .next t ∧ (ring t rk).st = .halting ∧ (∀ c ∈ l.cores, (Machine.core t c).partEnded = true ∧
          ∀ i, i < (Machine.core s c).mode → (thr t (c * 8 + i)).run = .ended)) ∧
      ((s.launches.find? fun l => ringKey l.ring == rk / 16 * 16 + bits (pktP p 0).toNat 3 0 && l.tag == bits (pktP p 0).toNat 31 16) = none →
        ∃ t, exec (.stop r) s = .next t ∧ Completed r p s t 9 0 0 0 ∧ t.threads = s.threads))

/-- R340 and Table 17.6: HALT sets the debug halt of every thread of the cores named and RESUME clears it; READ_STATE writes the image of a stopped core,
with each thread's x registers at 0, its PC at 0x100 and its vector registers at 0x200 of its 4 KiB. -/
def Claims.DebugCommands : Prop :=
  (∀ (r : RingRef) (p : Packet) (x : Ctx) (cs : List Nat) (s : State), cmdCtx s p = some x → namedCores s (pktCtx p) x (pktP p 0).toNat = some cs →
    let ks := cs.flatMap fun c => coreThreads s c
    (Begins r 0x40 p s → (∀ k ∈ ks, (thr s k).wait = none ∧ (thr s k).job = none ∧ (thr s k).tx.depth = 0) →
      ∃ t, exec (.halt r) s = .next t ∧ Completed r p s t 0 0 0 0 ∧ SameMemory s t ∧ ∀ k, thr t k = { thr s k with dbg := (thr s k).dbg || ks.contains k }) ∧
    (Begins r 0x41 p s →
      ∃ t, exec (.resume r) s = .next t ∧ Completed r p s t 0 0 0 0 ∧ SameMemory s t ∧
        (∀ k, thr t k = { thr s k with dbg := (thr s k).dbg && !ks.contains k }) ∧
        ∃ n, Tbl.get? t.ctxs (pktCtx p) = some { x with halted := false, acts := n })) ∧
  (∀ (r : RingRef) (ext : Ext) (p : Packet) (c : Nat) (s : State), Begins r 0x42 p s → logicalCore s (pktCtx p) (pktP p 0).toNat = some c →
    (∀ s1 e g, (∀ k ∈ coreThreads s c, stoppedThread s k = true) →
      storeSegs (commandAgent (pktCtx p)) (stateImage s c) (pktP p 1).toNat s ext = .all s1 e g →
      exec (.readState r ext) s = .next (finishWith s1 (ringKey r) 0)) ∧
    ((∃ k ∈ coreThreads s c, stoppedThread s k = false) →
      ∃ t, exec (.readState r ext) s = .next t ∧ Completed r p s t 9 0 0 0 ∧ SameMemory s t) ∧
    (∀ i, i < (Machine.core s c).mode → i < 8 →
      let at_ (o n : Nat) : Nat := leNat ((((stateImage s c).flatMap (·.1)).drop (i * 0x1000 + o)).take n)
      (∀ q : BitVec 5, at_ (8 * q.toNat) 8 = (rx s (c * 8 + i) q).toNat) ∧ at_ 0x100 8 = (thr s (c * 8 + i)).pc.toNat ∧
      ∀ q, q < 32 → at_ (0x200 + 64 * q) 64 = (rv s (c * 8 + i) q).toNat))

/-- R87, R194, R338 and R340: kernels and their debugging. Choices of the model in it: log entry 13. -/
def Obligations.KernelCommands : Prop := Claims.Launches ∧ Claims.DebugCommands

/-- R339, R343 and Table 17.7: SIGNAL adds to a counter cell and with NOTIFY interrupts its core, or sends its increment to another device; WAIT completes at once where the cell has reached the
target and otherwise waits until a later change or its timeout; FENCE waits for the records made before it and its own record counts the
dropped ones. Choices of the model in it: log entry 13. -/
def Obligations.SequencerCommands : Prop :=
  ∀ (r : RingRef) (p : Packet) (s : State),
    let rk := ringKey r
    (Begins r 0x02 p s → (pktP p 1).toNat < 2 ^ 32 → ∀ named, resolveName s (pktCtx p) 1 none none (pktP p 0).toNat = named →
      let amount := if pktP p 1 = 0 then 1 else (pktP p 1).toNat
      (∀ c i, named = .ok (.core c i) → held s (c / 8) = false → goodCore s c = true → (Machine.core s c).ctrDead = false → bit (Machine.core s c).ctrMode.toNat i = false →
        ∃ t, exec (.signal r) s = .next t ∧ Completed r p s t 0 0 0 0 ∧ SameMemory s t ∧
          cellValue t (.core c i) = BitVec.ofNat 48 ((cellValue s (.core c i)).toNat + amount) ∧
          (Machine.core t c).irqHost = if bit (pktFlags p) 0 then some ((Machine.core s c).irqHost.getD 0) else (Machine.core s c).irqHost) ∧
      (∀ d code, named = .ok (.remote d code) → bit (pktFlags p) 0 = false →
        ((routePort s d).isSome = true → ∃ t, exec (.signal r) s = .next t ∧ (ring t rk).st = .signalled ∧ (ring t rk).cur = some p ∧ SameMemory s t ∧
          LastSent t 3 (portNode r.port.toNat) (cellNode s (.remote d code)) (.counter (.remote d code) false amount (.signal rk))) ∧
        (routePort s d = none → ∃ t, exec (.signal r) s = .next t ∧ Completed r p s t 10 1 0 0 ∧ SameMemory s t)) ∧
      (∀ reason, named = .bad reason → ∃ t, exec (.signal r) s = .next t ∧ Completed r p s t 9 reason 0 0 ∧ t.coreCells = s.coreCells ∧ t.wbCells = s.wbCells)) ∧
    (∀ w i, Begins r 0x03 p s → resolveName s (pktCtx p) 1 none none (pktP p 0).toNat = .ok (.wb w i) →
      let v := cellValue s (.wb w i)
      (reach (cellCredit s (.wb w i)) v (pktP p 1) = .satisfied →
        ∃ t, exec (.wait r) s = .next t ∧ Completed r p s t 0 0 (v.setWidth 64) 0) ∧
      (reach (cellCredit s (.wb w i)) v (pktP p 1) = .waits →
        ∃ t, exec (.wait r) s = .next t ∧ (ring t rk).cur = some p ∧
          (ring t rk).st = .waiting (.wb w i) (pktP p 1) false (pacerOf s (wbNode w)) (pktP p 2).toNat ∧ t.mesh = s.mesh)) ∧
    (∀ w i target met since limit, (ring s rk).cur = some p → pktOp p = 0x03 → (ring s rk).st = .waiting (.wb w i) target met since limit →
      let v := cellValue s (.wb w i)
      (met = true → cmdAwake s rk p = true → ∃ t, exec (.wait r) s = .next t ∧ Completed r p s t 0 0 (v.setWidth 64) 0) ∧
      (met = false → exec (.wait r) s = .next s) ∧
      (met = false → held s (wbNode w) = false → limit ≠ 0 → limit ≤ pacerSince s (wbNode w) since →
        ∃ t, exec (.waitTimeout r) s = .next t ∧ Completed r p s t 12 0 (v.setWidth 64) 0) ∧
      (limit = 0 ∨ pacerSince s (wbNode w) since < limit → exec (.waitTimeout r) s = .next s)) ∧
    (Begins r 0x04 p s → ∃ t, exec (.fence r) s = .next t ∧ (ring t rk).st = .fenced (outstanding s (pktCtx p)) ∧ (ring t rk).cur = some p ∧ t.mesh = s.mesh) ∧
    (∀ todo, (ring s rk).cur = some p → pktOp p = 0x04 → (ring s rk).st = .fenced todo → held s (portNode r.port.toNat) = false →
      ringOwns s rk (pktCtx p) = true → (evring s (pktCtx p)).en = true →
      ((∀ k ∈ todo, k ∉ outstanding s (pktCtx p)) →
        ∃ t, exec (.fenceDone r) s = .next t ∧ (ring t rk).cur = none ∧ (ring t rk).st = .ready ∧ (evring t (pktCtx p)).fence = 0 ∧ SameMemory s t ∧
          ∃ x : Record, LastSent t 3 (portNode r.port.toNat) (portNode (evring s (pktCtx p)).port) (.record x) ∧ x.ty = 2 ∧ x.ring = pktCtx p ∧
            x.ctx = some (pktCtx p) ∧ x.w4 = BitVec.ofNat 64 (evring s (pktCtx p)).fence) ∧
      ((∃ k ∈ todo, k ∈ outstanding s (pktCtx p)) → exec (.fenceDone r) s = .next s))

/-! ### Commands for contexts, memory, regions and the device (chapter 17) -/

/-- R337: CTX_CREATE takes the lowest free ID and makes the context with its ring, settings and grant; its good cores join with stores and counter
cells of zero, and the COMPLETION on the new ring carries the ID. -/
def Claims.ContextCreation : Prop :=
  ∀ (r : RingRef) (ext e : Ext) (p : Packet) (b : List Byte) (id i : Nat) (s : State), Begins r 0x10 p s →
    hostBytes s (ringKey r) (pktP p 2).toNat 128 ext = .ok (b, e) → createBad s (ringKey r) p (some b) = none → id < 64 →
    Tbl.get? s.ctxs id = none → outstanding s id = [] → (∀ j, j < id → (Tbl.get? s.ctxs j).isSome = true ∨ outstanding s j ≠ []) →
    cachesReady s ((blockGrant b).map (· * 8)) = true → (∀ c, c / 8 ∈ blockGrant b → IdleCore s c) → i < frameCount → frameAddr i ∉ usedFrames s →
    let p0 := (pktP p 0).toNat
    let w (i : Nat) : Nat := blockWord b i
    let n := portNode r.port.toNat
    ∃ t x, exec (.ctxCreate r ext) s = .next t ∧ (ring t (ringKey r)).cur = none ∧ Tbl.get? t.ctxs id = some x ∧ x.port = r.port.toNat ∧
      x.fn = r.fn.toNat ∧ x.pasid = bits p0 19 0 ∧ x.grant = blockGrant b ∧ x.ended = false ∧ x.halted = false ∧
      (bits p0 21 20 = 1 → x.mode = 2) ∧ (bits p0 21 20 = 2 → x.mode = 4) ∧ (bits p0 21 20 = 3 → x.mode = 8) ∧
      (bits p0 23 22 = 1 → x.virt = false) ∧ (bits p0 23 22 = 2 → x.virt = true) ∧
      x.quiet = (if bit (w 7) 0 then bits (w 4) 31 0 else 1250000) ∧ x.stall = (if bit (w 7) 1 then bits (w 5) 31 0 else 250000) ∧
      x.drain = (if bit (w 7) 2 then bits (w 5) 63 32 else 125000) ∧
      x.lcore = ((blockGrant b).flatMap fun n => (List.range 8).map (n * 8 + ·)).filter (goodCore s) ∧
      (∀ c, c / 8 ∈ blockGrant b → goodCore s c = true →
        (Machine.core t c).ctx = some id ∧ (Machine.core t c).mode = x.mode ∧ (∀ o, o < 0x78000 → storeByte t c o = 0) ∧ ∀ j, j < 64 → cellValue t (.core c j) = 0) ∧
      (evring t id).en = true ∧ (evring t id).base = (pktP p 1).toNat ∧ (evring t id).log2n = bits p0 28 24 ∧ (evring t id).vector = bits p0 38 32 ∧
      LastSent t 3 n n (.record
        { ring := id, ty := 1, scls := 0, srcid := ringKey r, seqno := 0, ctx := some id,
          w3 := BitVec.ofNat 64 (pktTag p + 0x10 * 2 ^ 16 + r.ring.toNat * 2 ^ 32), w4 := BitVec.ofNat 64 id, w5 := 0, w6 := 0, w7 := 0,
          prio := 0, spilled := false })

/-- R342 and R408: once the context is still, CTX_RESET with P0 = 0 gives every setting its default and every core its reset, and keeps the grant;
CTX_DESTROY frees the grant, closes the ring and withdraws the window slots; both set the counter cells to zero. -/
def Claims.ContextEnds : Prop :=
  ∀ (r : RingRef) (ext : Ext) (p : Packet) (x : Ctx) (s : State), Tbl.get? s.ctxs (pktCtx p) = some x →
    contextStill (stopContext s (pktCtx p) (some (ringKey r)) false) (pktCtx p) = true → (s.ctxs.map (·.1)).Pairwise (· < ·) →
    let ctx := pktCtx p
    (Begins r 0x12 p s → pktP p 0 = 0 →
      ∃ t y, exec (.ctxReset r ext) s = .next t ∧ (ring t (ringKey r)).cur = none ∧ (ring t (ringKey r)).st = .ready ∧ Tbl.get? t.ctxs ctx = some y ∧
        y.quiet = 1250000 ∧ y.wake = false ∧ y.stall = 250000 ∧ y.drain = 125000 ∧ y.thresh = 0x0148 ∧ y.minconv = 0x0100 ∧ y.event = true ∧
        y.ended = false ∧ y.halted = false ∧ y.grant = x.grant ∧ y.port = x.port ∧ y.fn = x.fn ∧ y.root = x.root ∧
        ∀ c, c / 8 ∈ x.grant → goodCore s c = true → (Machine.core t c).ctx = some ctx ∧ (Machine.core t c).mode = x.mode ∧ (Machine.core t c).kernel = none ∧
          (∀ i, i < 8 → (thr t (c * 8 + i)).run = .ended) ∧ ∀ j, j < 64 → cellValue t (.core c j) = 0) ∧
    (Begins r 0x11 p s →
      ∃ t, exec (.ctxDestroy r) s = .next t ∧ (ring t (ringKey r)).cur = none ∧ Tbl.get? t.ctxs ctx = none ∧ (evring t ctx).en = false ∧
        (∀ e ∈ t.slots, e.2.1 ≠ ctx) ∧ ∀ c, c / 8 ∈ x.grant → (Machine.core t c).ctx = none ∧ ∀ j, j < 64 → cellValue t (.core c j) = 0)

/-- R337, R342 and R408: the life of a context. Choices of the model in it: log entries 4, 26. -/
def Obligations.ContextCommands : Prop := Claims.ContextCreation ∧ Claims.ContextEnds

/-- R28 to R32, R276, R314, R333 and R341: MAP writes the leaf entry of its page and UNMAP clears it, and every translation unit drops the range, once no
access through it is in flight; a MAP whose tables the reserve has no room for is refused; the WIN form binds a window slot; FILL repeats its pattern and COPY moves bytes, through the context's translations; LOAD_IMAGE writes a store section to every core
of the logical core table. Choices of the model in it: log entries 10, 12, 14, 27. -/
def Obligations.MemoryCommands : Prop :=
  ∀ (r : RingRef) (ext : Ext) (p : Packet) (x : Ctx) (s : State), Tbl.get? s.ctxs (pktCtx p) = some x → memWf s.hbm = true → memWf s.ls = true →
    let rk := ringKey r
    let ctx := pktCtx p
    let va := (pktP p 0).toNat
    let w2 := (pktP p 2).toNat
    let step_ (t : Nat) (sh : Nat) : Nat := pteAddr (readPte s (pteAt t va sh))
    let inner (t : Nat) (sh : Nat) : Prop := bit (readPte s (pteAt t va sh)) 0 = true ∧ bit (readPte s (pteAt t va sh)) 2 = false
    let t1 := step_ x.root 39
    let t2 := step_ t1 30
    let t3 := step_ t2 21
    let a := pteAt t3 va 16
    let walked : Prop := inner x.root 39 ∧ inner t1 30 ∧ inner t2 21 ∧ a + 8 ≤ 2 ^ 40 ∧ withdrawn s a = false ∧ mapReady s p = true ∧ (applyMap s rk p).isSome = true
    let onePage : Prop := bits w2 1 0 = 0 ∧ bits w2 39 8 = 1 ∧ bit (pktFlags p) 0 = false ∧ checkMap s rk p = none
    let writes (t : State) (a n : Nat) (g : Nat → Byte) : Prop := t.ls = s.ls ∧
      ∀ q, q < 2 ^ 40 → hbmByte t q = if a ≤ q ∧ q < a + n then g (q - a) else hbmByte s q
    let dropped (t : State) : Prop := ∀ n e, e ∈ (bench t n).tu → ¬ (e.ctx = ctx ∧ e.vpage * 2 ^ e.log2 < va + 65536 ∧ va < e.vpage * 2 ^ e.log2 + 2 ^ e.log2)
    let done (t : State) (w4 w5 : W64) : Prop := Completed r p s t 0 0 w4 w5
    (Begins r 0x18 p s → onePage → walked → ¬ inner t3 16 →
      ∃ t, exec (.map r) s = .next t ∧ done t 0 0 ∧ dropped t ∧ writes t a 8 (byteOf
        ((pktP p 1).toNat / 65536 * 65536 + (if bit w2 7 then 2 ^ 9 else 0) + (if bit w2 6 then 2 ^ 8 else 0) + bits w2 5 4 * 2 ^ 6 +
          (if bit w2 2 then 2 ^ 5 else 0) + (if bit w2 3 then 2 ^ 4 else 0) + 5))) ∧
    (Begins r 0x19 p s → onePage → walked → bit (readPte s a) 0 = true → bit (readPte s a) 2 = true →
      ∃ t, exec (.unmap r) s = .next t ∧ done t 0 0 ∧ dropped t ∧ writes t a 8 fun _ => 0) ∧
    (Begins r 0x18 p s → bit (pktFlags p) 0 = true → checkMap s rk p = none →
      ∃ t, exec (.map r) s = .next t ∧ done t 0 0 ∧ SameMemory s t ∧
        Tbl.get? t.slots (r.port.toNat * 512 + bits (pktP p 1).toNat 4 0 * 16 + bits (pktP p 1).toNat 11 8) = some (bits (pktP p 1).toNat 21 16, va)) ∧
    (Begins r 0x18 p s → checkMap s rk p = none → (applyMap s rk p).isSome = true → mapReady s p = false →
      ∃ t, exec (.map r) s = .next t ∧ (ring t rk).st = .begun ∧ (ring t rk).cur = some p ∧ SameMemory s t) ∧
    (Begins r 0x18 p s → checkMap s rk p = none → applyMap s rk p = none → ∃ t, exec (.map r) s = .next t ∧ Completed r p s t 7 0 0 0 ∧ SameMemory s t) ∧
    (Begins r 0x18 p s → checkMap s rk p = some 9 → ∃ t, exec (.map r) s = .next t ∧ Completed r p s t 9 0 0 0 ∧ SameMemory s t) ∧
    (∀ y d, agentXlat s (commandAgent ctx) .write ((pktP p 1).toNat : Int) = .ok y → y.tgt = .hbm d → d + w2 ≤ 2 ^ 40 → withdrawn s d = false →
      lineLocked s (.hbm d) = false → homeHeld s (.hbm d) = false → 0 < w2 → (pktP p 1).toNat % 64 + w2 ≤ 64 →
      (Begins r 0x1B p s → ∃ t, exec (.fill r ext) s = .next t ∧ done t (BitVec.ofNat 64 w2) 0 ∧ writes t d w2 fun i => byteOf va (i % 8)) ∧
      (∀ z b, agentXlat s (commandAgent ctx) .read (va : Int) = .ok z → z.tgt = .hbm b → lineLocked s (.hbm b) = false → homeHeld s (.hbm b) = false → va % 64 + w2 ≤ 64 →
        Begins r 0x1A p s → ∃ t, exec (.copy r ext) s = .next t ∧ (writes t d w2 fun i => hbmByte s (b + i)) ∧
          done t (BitVec.ofNat 64 w2) (if homePoison s (.hbm b) then 1 else 0))) ∧
    (∀ img e z, Begins r 0x20 p s → (∀ l ∈ s.launches, l.ctx ≠ ctx) → agentBytes s (commandAgent ctx) va (pktP p 1).toNat ext = .ok img false s e →
      imageSections img = some [z] → z.kind = 1 → imageBad s ctx x [z] = none →
      ∃ t, exec (.loadImage r ext) s = .next t ∧ done t 0 0 ∧ t.hbm = s.hbm ∧ ∀ c o, o < 0x78000 →
        storeByte t c o = if c ∈ coreTable s x none ∧ z.dest ≤ o ∧ o < z.dest + z.data.length then z.data.getD (o - z.dest) 0 else storeByte s c o)

/-- R261, R262 and R266: STREAM_LOAD places an image that no rule refuses and runs its FIRST section on its benches; STREAM_SECTION starts the change to a
section of the image, or waits for the change that is under way; STREAM_RECONFIG with P1 = 0 starts to unload; a section that is not there is INVALID. Choices of the model in it: log entry 22. -/
def Obligations.StreamCommands : Prop :=
  ∀ (r : RingRef) (ext : Ext) (p : Packet) (s : State),
    let rk := ringKey r
    (∀ x e, Begins r 0x28 p s → readImage s (pktCtx p) (pktP p 0).toNat ext = .ok x e →
      (∀ reason, x.reason s none = some reason → ∃ t, exec (.streamLoad r ext) s = .next t ∧ Completed r p s t 17 reason 0 0 ∧ t.regions = s.regions ∧
        t.benches = s.benches) ∧
      (∀ rid, x.reason s none = none → Tbl.free s.regions 0 8 = some rid →
        ∃ t y, exec (.streamLoad r ext) s = .next t ∧ Completed r p s t 0 0 (BitVec.ofNat 64 rid) 0 ∧ Tbl.get? t.regions rid = some y ∧ y.state = 1 ∧
          y.secno = x.first ∧ y.tag = pktTag p ∧ y.parts = x.parts ∧ SameMemory s t ∧
          ∀ n ∈ x.parts, isFenced s 2 n = false → (bench t n).ssEn = true ∧ (bench t n).ssLoaded = true ∧ (bench t n).ssState = 1 ∧
            (bench t n).ssSection = x.first ∧ (bench t n).ssRegion = rid ∧ (Machine.node t n).gated = false ∧ ∀ q, (squeue t n q).q = [])) ∧
    (∀ x, Tbl.get? s.regions (bits (pktP p 0).toNat 2 0) = some x → x.ctx = pktCtx p → x.state ≠ 2 → x.state ≠ 4 →
      let rid := bits (pktP p 0).toNat 2 0
      let sec := bits (pktP p 0).toNat 27 16
      let begins (i : Instr) (target : Nat) (unload : Bool) : Prop :=
        ∃ t y, exec i s = .next t ∧ (ring t rk).st = .changing rid ∧ (ring t rk).cur = some p ∧ Tbl.get? t.regions rid = some y ∧ y.state = 2 ∧
          y.target = some target ∧ y.unload = unload ∧ y.bycmd = some r ∧ y.flush = bit (pktFlags p) 0 ∧ y.secno = x.secno ∧
          ∀ n ∈ regionBenches s x, (bench t n).ssState = 2
      (Begins r 0x29 p s → sec ≤ bits (x.image.getD 0 0).toNat 27 16 → begins (.streamSection r) sec false) ∧
      (Begins r 0x29 p s → bits (x.image.getD 0 0).toNat 27 16 < sec →
        ∃ t, exec (.streamSection r) s = .next t ∧ Completed r p s t 9 0 0 0 ∧ t.regions = s.regions) ∧
      (Begins r 0x2A p s → pktP p 1 = 0 → begins (.streamReconfig r ext) 0 true)) ∧
    (∀ x, Tbl.get? s.regions (bits (pktP p 0).toNat 2 0) = some x → x.ctx = pktCtx p → x.state = 2 ∨ x.state = 4 → Begins r 0x29 p s →
      ∃ t, exec (.streamSection r) s = .next t ∧ (ring t rk).st = .begun ∧ (ring t rk).cur = some p ∧ t.regions = s.regions ∧ SameMemory s t)

/-- R334, R336, R380, R385, R386, R399, R405, R424 and R425: the device class. GET_INFO and GET_HISTORY write their words to host memory; SET_POLICY puts a value of the range into force and refuses any
other; FENCE_UNIT and UNFENCE_UNIT change the fence map; FW_PUSH checks an image before it is written to the flash slot; TAKEOVER moves the primary port while
its link is down; RESET_DEVICE completes and its reset waits for the record. Choices of the model in it: log entries 9, 26. -/
def Obligations.DeviceCommands : Prop :=
  ∀ (r : RingRef) (ext : Ext) (p : Packet) (s : State),
    let rk := ringKey r
    let port_ := r.port.toNat
    let p0 := (pktP p 0).toNat
    let hostOk (len : Nat) : Prop := (port s port_).linkUp = true ∧ ext.code = 0 ∧ p0 + len ≤ 2 ^ 40 ∧ memWf s.hostMem = true
    (Begins r 0x30 p s → hostOk 512 →
      ∃ t, exec (.getInfo r ext) s = .next t ∧ Completed r p s t 0 0 0 0 ∧ t.hbm = s.hbm ∧ t.ls = s.ls ∧
        hostWord t port_ p0 = BitVec.ofNat 64 ((if 1792 ≤ shippedGood s then 1792 else if 1664 ≤ shippedGood s then 1664 else 1536) +
          shippedGood s * 2 ^ 16 + goodCount s * 2 ^ 32) ∧
        hostWord t port_ (p0 + 8) = BitVec.ofNat 64 (2 ^ 40 - 2 ^ 30 - withdrawnCount s * 65536) ∧
        hostWord t port_ (p0 + 24) = BitVec.ofNat 64 (fwRev s + s.dev.devId.toNat * 2 ^ 16) ∧ hostWord t port_ (p0 + 32) = BitVec.ofNat 64 s.ctxs.length ∧
        ∀ a, a < port_ * 2 ^ 40 + p0 ∨ port_ * 2 ^ 40 + p0 + 512 ≤ a → memGet t.hostMem a = memGet s.hostMem a) ∧
    (Begins r 0x31 p s → let n := p0; let v := (pktP p 1).toNat
      (2 ≤ n → policyRange n v = true → vminAbove s n v = false →
        ∃ t, exec (.setPolicy r) s = .next t ∧ Completed r p s t 0 0 (BitVec.ofNat 64 v) 0 ∧ policy t n = v ∧ SameMemory s t ∧
          ∀ q, q ≠ n → policy t q = policy s q) ∧
      (policyNumbers.contains n = true → policyRange n v = false →
        ∃ t, exec (.setPolicy r) s = .next t ∧ Completed r p s t 9 0 (BitVec.ofNat 64 (policy s n)) 0 ∧ t.dev = s.dev)) ∧
    (∀ kind i : Nat, Begins r 0x32 p s → (pktP p 1).toNat = unitName kind i → kind < 16 → i < 65536 → unitExists kind i = true → pktP p 2 = 128 → hostOk 128 →
      let u := unitRec s (unitName kind i)
      ∃ t, exec (.getHistory r ext) s = .next t ∧ Completed r p s t 0 0 128 0 ∧
        hostWord t port_ (p0 + 8) = BitVec.ofNat 64 (u.corr + u.uncorr * 2 ^ 32 + u.residue * 2 ^ 48) ∧ hostWord t port_ (p0 + 112) = BitVec.ofNat 64 (u.upd % 2 ^ 32)) ∧
    (∀ kind i : Nat, p0 = unitName kind i → kind < 5 → i < 65536 → unitExists kind i = true → s.regions = [] →
      (Begins r 0x33 p s → isFenced s kind i = false → ∃ t, exec (.fenceUnit r) s = .next t ∧ Completed r p s t 0 0 0 0 ∧ isFenced t kind i = true ∧
        (unitRec t (unitName kind i)).reason = 5 ∧ ∀ k j, isFenced s k j = true → isFenced t k j = true) ∧
      (Begins r 0x33 p s → isFenced s kind i = true → ∃ t, exec (.fenceUnit r) s = .next t ∧ Completed r p s t 0 0 0 0 ∧ t.dev = s.dev) ∧
      (Begins r 0x34 p s → NSet.wf s.dev.fenceMap = true → isFenced s kind i = true → NSet.has s.dev.shipFenced (unitName kind i) = false →
        (kind = 1 → isFenced s 2 (i / 8) = false) →
        ∃ t, exec (.unfenceUnit r) s = .next t ∧ Completed r p s t 0 0 0 0 ∧ isFenced t kind i = false) ∧
      (Begins r 0x34 p s → isFenced s kind i = false → ∃ t, exec (.unfenceUnit r) s = .next t ∧ Completed r p s t 9 0 0 0 ∧ t.dev = s.dev)) ∧
    (∀ b e, Begins r 0x35 p s → 0 < (pktP p 1).toNat → (pktP p 1).toNat ≤ 32 * 2 ^ 20 → hostBytes s rk p0 (pktP p 1).toNat ext = .ok (b, e) →
      (s.dev.fwState = 3 → imageFail s b = 0 → ∃ t, exec (.fwPush r ext) s = .next t ∧ Completed r p s t 0 0 0 0 ∧
        t.flash.image = imgWhole b ∧ t.flash.board = s.flash.board ∧ t.fuses = s.fuses ∧ t.dev = s.dev) ∧
      (imageFail s b ≠ 0 → ∃ t, exec (.fwPush r ext) s = .next t ∧ Completed r p s t 22 0 0 0 ∧ t.flash = s.flash ∧ t.dev.fail = BitVec.ofNat 8 (imageFail s b) ∧
        t.dev.image = s.dev.image)) ∧
    (Begins r 0x36 p s →
      (port_ ≠ s.dev.primary → r.fn = 0 → (port s s.dev.primary).linkUp = false → policy s 0x0002 ≤ (port s s.dev.primary).downTicks.toNat →
        ∃ t, exec (.takeover r) s = .next t ∧ Completed r p s t 0 0 0 0 ∧ t.dev.primary = port_) ∧
      (port_ = s.dev.primary ∨ (port s s.dev.primary).linkUp = true → ∃ t, exec (.takeover r) s = .next t ∧ Completed r p s t 21 0 0 0 ∧ t.dev = s.dev)) ∧
    (Begins r 0x37 p s → ∃ t, exec (.resetDevice r) s = .next t ∧ Completed r p s t 0 0 0 0 ∧ t.dev = { s.dev with resetRing := some rk })

/-! ### The governor, the clocks and the safety path (chapters 2, 20, 21, 23) -/

/-- R53, R320, R321, R389 and R390: a management tick advances uptime by 10,000 µs, beats the heart of running firmware, copies what the endpoints keep, and
stores the sample; a sensor that gives no reading keeps its register with VALID = 0. -/
def Claims.ManagementTick : Prop :=
  ∀ (g : GovInputs) (s : State), s.dev.power ≠ .off → s.dev.noRef = false → s.dev.waitRst = none →
    ∃ t, exec (.managementTick g) s = .next t ∧ t.dev.ticks = s.dev.ticks + 1 ∧ t.dev.uptime = s.dev.uptime + 10000 ∧
      t.dev.heartbeat = (if s.dev.fwState = 3 then s.dev.heartbeat + 1 else s.dev.heartbeat) ∧ t.dev.fwState = s.dev.fwState ∧
      t.gov.sample = some g ∧ t.gov.ran = [] ∧ SameMemory s t ∧ t.threads = s.threads ∧
      (∀ p, p < 2 → (port t p).uptimeCopy = s.dev.uptime + 10000 ∧ (port t p).stateCopy = s.dev.fwState ∧
        (port t p).peerUp = (port s (1 - p)).linkUp ∧ ((port s p).linkUp = true → (port t p).downTicks = 0) ∧
        ((port s p).linkUp = false → (port t p).downTicks = if (port s p).downTicks = 0xFFFFFFFF then 0xFFFFFFFF else (port s p).downTicks + 1)) ∧
      (∀ n v, isBench n = true → g.benchTemp = [(n, v)] → (Machine.node t n).temp = v ∧ (Machine.node t n).tempValid = true ∧
        ∀ m, m ≠ n → isBench m = true → (Machine.node t m).temp = (Machine.node s m).temp ∧ (Machine.node t m).tempValid = false) ∧
      (∀ ps : List Nat, ps.length = 12 → g.pout = ps.map some → t.gov.power = ps.sum)

/-- R391 to R398 and Table 20.2: a loop that is due runs on the tick's sample and none else. The safety loop drops a hot quadrant to VMIN and counts holds, the precision loop
interrupts the core, the voltage loop steps every target by its rules, the cache loop sets the ways, the link loop slows a failing link, and the health loop
fences a bench whose oscillator reads low three times. -/
def Claims.Loops : Prop :=
  ∀ (g : GovInputs) (s : State), s.gov.sample = some g →
    let p (n : Nat) : Nat := polNow s n
    let runs (i : Instr) (n : Nat) (q : State → Prop) : Prop :=
      (loopReady s n = true → ∃ t, exec i s = .next t ∧ NSet.has t.gov.ran n = true ∧ SameMemory s t ∧ q t) ∧ (loopReady s n = false → exec i s = .next s)
    (∀ (q n : Nat) (T : Int), q < 4 → quadTemp g q = some (n, T) → quadStacks g q = [] → NSet.wf s.gov.hotPosted = true →
      runs .safetyLoop 0 fun t =>
        (16 * ((p 0x0203 : Int) + 5) ≤ T → NSet.has s.gov.hotPosted q = false → NSet.has s.gov.held q = false →
          NSet.has t.gov.hotPosted q = true ∧ targetOf t.gov.target q = p 0x0202) ∧
        (T ≤ 16 * ((p 0x0203 : Int) - 3) → NSet.has t.gov.hotPosted q = false) ∧
        (NSet.has s.gov.held q = true → Tbl.getD t.gov.holdTicks q 0 = Tbl.getD s.gov.holdTicks q 0 + 1 ∧
          (Tbl.getD s.gov.holdTicks q 0 + 1 = p 0x0205 → t.dev.alertHold = true))) ∧
    (∀ k tile : Nat, s.gov.precNow = [(k, tile)] → (Machine.core s (k / 8)).ctx.isSome = true → (Machine.core s (k / 8)).notice = 0 →
      runs .precisionLoop 1 fun t =>
        (p 0x020B = 1 → (Machine.core t (k / 8)).irqHost = some (BitVec.ofNat 32 (1 + k % 8 * 2 ^ 8 + tile * 2 ^ 11))) ∧
        (p 0x020B ≠ 1 → t.cores = s.cores)) ∧
    (poutFails g = none → runs .voltageLoop 2 fun t => ∀ q, q < 4 →
      let v := targetOf s.gov.target q
      let hotter : Prop := p 0x0200 * 1000 < s.gov.power ∨ (∃ n T, quadTemp g q = some (n, T) ∧ 16 * (p 0x0203 : Int) ≤ T) ∨
        ∃ e ∈ quadStacks g q, p 0x0204 ≤ e.2
      let room : Prop := s.gov.power + 50000 ≤ p 0x0200 * 1000 ∧ ∃ n T, quadTemp g q = some (n, T) ∧ T ≤ 16 * ((p 0x0203 : Int) - 3)
      (quadHot s q = true → targetOf t.gov.target q = v) ∧
      (quadHot s q = false → p 0x0201 < v → targetOf t.gov.target q = max (v - 25) (p 0x0201)) ∧
      (quadHot s q = false → v ≤ p 0x0201 → hotter → targetOf t.gov.target q = max (v - 25) (p 0x0202)) ∧
      (quadHot s q = false → v ≤ p 0x0201 → ¬ hotter → room → targetOf t.gov.target q = min (v + 10) (p 0x0201)) ∧
      (quadHot s q = false → v ≤ p 0x0201 → ¬ hotter → ¬ room → targetOf t.gov.target q = v)) ∧
    (∀ n, isBench n = true → isFenced s 2 n = false → (bench s n).cleaning = false → overCap s = false → p 0x0206 = 1 →
      runs .cacheLoop 3 fun t =>
        let b := bench s n
        let hits := (b.hits - b.lastHits).toNat
        let look := hits + (b.misses - b.lastMisses).toNat
        let ways := popCount b.wayen.toNat 16
        let poor : Prop := look < 4096 ∨ (65536 ≤ look ∧ hits * 1000 < p 0x0207 * look)
        let becomes (k : Nat) : Prop := (bench t n).wayen = if k = ways then b.wayen else BitVec.ofNat 16 (2 ^ k - 1)
        (bench t n).lastHits = b.hits ∧ (bench t n).lastMisses = b.misses ∧ (poor → becomes (if 8 < ways then 8 else 4)) ∧
        (¬ poor → ways < 16 → 2 * p 0x0207 * look ≤ hits * 1000 → becomes 16) ∧
        (¬ poor → 16 ≤ ways ∨ hits * 1000 < 2 * p 0x0207 * look → becomes ways)) ∧
    (∀ q, q < 8 → p 0x0208 = 1 → (link s q).state = 2 → s.dev.devId.toNat < (link s q).gotDev.toNat →
      let l := link s q
      let unc := (l.fecunc - l.lastUnc).toNat
      let cor := (l.feccor - l.lastCor).toNat
      runs .linkLoop 4 fun t =>
        (p 0x020A ≤ unc ∨ p 0x0209 ≤ cor → l.runRate.toNat < 2 → (link t q).rate = l.runRate + 1 ∧ (link t q).state = 1) ∧
        (unc < p 0x020A → cor < p 0x0209 → unc = 0 → 9 ≤ l.goodRuns → strapRate s < l.rate.toNat →
          (link t q).rate = l.rate - 1 ∧ (link t q).state = 1 ∧ (link t q).goodRuns = 0) ∧
        (unc < p 0x020A → cor < p 0x0209 → unc ≠ 0 → (link t q).rate = l.rate ∧ (link t q).state = 2 ∧ (link t q).goodRuns = 0)) ∧
    (∀ n, isBench n = true → isFenced s 2 n = false → p 0x020D = 1 →
      (loopReady s 5 = true → ∃ t, exec .healthLoop s = .next t ∧ NSet.has t.gov.ran 5 = true ∧
        (benchSlow g s n = false → (bench t n).slowRuns = 0) ∧
        (benchSlow g s n = true → (bench s n).slowRuns < 2 → (bench t n).slowRuns = (bench s n).slowRuns + 1 ∧ isFenced t 2 n = false) ∧
        (benchSlow g s n = true → 2 ≤ (bench s n).slowRuns → isFenced t 2 n = true ∧ (unitRec t (unitName 2 n)).reason = 8)) ∧
      (loopReady s 5 = false → exec .healthLoop s = .next s))

/-- R389 to R398: the management tick and the loops. Choices of the model in it: log entry 28. -/
def Obligations.GovernorLoops : Prop := Claims.ManagementTick ∧ Claims.Loops

/-- R45, R50, R54, R393, R426, R449 and R457: a calibration sets a pacer's period and counts itself, at most once in a management tick; without a reference clock every pacer is uncalibrated; a droop holds its
quadrant until the rail is back; a trip holds all four; a lost heart beat and the loss of every HREF put the firmware into state 4. Choices of the model in it: log entries 2, 28. -/
def Obligations.ClocksAndSafety : Prop :=
  ∀ s : State, dark s = false →
    (∀ (n : BitVec 8) (k : Nat), s.dev.fwState = 3 → s.dev.noRef = false → s.dev.power ≠ .deepIdle → k ≠ 0 → (Machine.node s n.toNat).lastCal ≠ s.dev.ticks + 1 →
      ∃ t, exec (.pacerCalibration n k) s = .next t ∧ SameMemory s t ∧ (∀ m, m ≠ n.toNat → Machine.node t m = Machine.node s m) ∧
        Machine.node t n.toNat = { Machine.node s n.toNat with period := BitVec.ofNat 32 ((2 * 655360000000 + k) / (2 * k)), calValid := true,
                                                               calSeq := (Machine.node s n.toNat).calSeq + 1, lastCal := s.dev.ticks + 1 }) ∧
    (∀ (n : BitVec 8) (k : Nat), (Machine.node s n.toNat).lastCal = s.dev.ticks + 1 → exec (.pacerCalibration n k) s = .next s) ∧
    (∀ a b : Bool, ∃ t, exec (.referenceClockSwitch a b) s = .next t ∧ t.dev.refB = (!a && b) ∧ t.dev.noRef = (!a && !b) ∧
      (a || b → t.nodes = s.nodes) ∧ ((a || b) = false → ∀ n, (Machine.node t n).calValid = false ∧ (Machine.node t n).pacer = (Machine.node s n).pacer)) ∧
    (∀ h : BitVec 4, h ≠ 0 → ∃ t, exec (.hrefSwitch h) s = .next t ∧ t.dev.href = h ∧ t.dev.fwState = s.dev.fwState ∧ SameMemory s t ∧
      ∀ n, n < 16 → bit h.toNat (n / 4) = true → (Machine.stack t n).href = n / 4) ∧
    (s.dev.fwState = 3 ∨ s.dev.fwState = 4 → ∃ t, exec (.hrefSwitch 0) s = .next t ∧ t.dev.fwState = 4 ∧ t.dev.alertHref = true ∧ t.hbm = [] ∧ t.ls = s.ls) ∧
    (∀ q : BitVec 2, ∃ t, exec (.droopHold q) s = .next t ∧ heldQuad t q.toNat = true ∧ (∀ r, r ≠ q.toNat → heldQuad t r = heldQuad s r) ∧ SameMemory s t) ∧
    (∀ q : BitVec 2, NSet.has s.gov.held q.toNat = true → NSet.wf s.gov.held = true → s.dev.thermtrip = false → (∀ p, (link s p).rx = []) →
      ∃ t, exec (.holdEnd q) s = .next t ∧ heldQuad t q.toNat = false ∧ (∀ r, r ≠ q.toNat → heldQuad t r = heldQuad s r) ∧ SameMemory s t) ∧
    (∀ q : BitVec 2, s.dev.thermtrip = true → exec (.holdEnd q) s = .next s) ∧
    (∀ (n : BitVec 8) (v : BitVec 16),
      (isBench n.toNat = true → 1840 ≤ v.toInt → ∃ t, exec (.thermtrip n v) s = .next t ∧ t.dev.thermtrip = true ∧ ∀ q, q < 4 → heldQuad t q = true) ∧
      (n.toNat ∈ homeNodes → 105 ≤ v.toInt → ∃ t, exec (.thermtrip n v) s = .next t ∧ t.dev.thermtrip = true ∧ ∀ q, q < 4 → heldQuad t q = true) ∧
      (isBench n.toNat = true → v.toInt < 1840 → exec (.thermtrip n v) s = .next s) ∧
      (isBench n.toNat = false → n.toNat ∉ homeNodes → exec (.thermtrip n v) s = .next s)) ∧
    (s.dev.fwState = 3 → exec .heartbeatWatchdog s = .next { s with dev := { s.dev with fwState := 4, alertFw := true } }) ∧
    (s.dev.fwState = 2 → exec .heartbeatWatchdog s = .next s)

/-! ### Reset, power and boot (chapter 21) -/

/-- R402 to R405, R416 to R425, R448 and R450: POWER_ON latches the straps and checks the image; the outcome is state 3 with the image running, or state 2 with the step that
failed; a DEVICE reset keeps uptime, pacers outside Deep Idle, fuses and flash; Off keeps fuses and flash alone; FUSE_BLOW only adds. -/
def Claims.Boot : Prop :=
  ∀ (b : BoardInputs) (s : State),
    let boots (i : Instr) (cycles_ : Nat) (q : State → Prop) : Prop :=
      ∃ t, exec i s = .next t ∧ t.threads = [] ∧ t.ctxs = [] ∧ t.rings = [] ∧ t.fuses = s.fuses ∧ t.flash = s.flash ∧ t.dev.cycles = cycles_ ∧
        t.dev.fenceMap = s.dev.fenceMap ∧ q t
    let outcome (t : State) : Prop :=
      (b.devRstN = false → t.dev.waitRst = some b ∧ t.dev.fwState = 1 ∧ t.dev.devRstN = false) ∧
      (b.devRstN = true → t.dev.straps = b.straps ∧ t.dev.full = bit b.straps.toNat 10 ∧ t.dev.waitRst = none ∧ t.dev.href = b.href ∧
        (bits b.straps.toNat 1 0 = 1 → t.dev.fwState = 2 ∧ t.dev.image = []) ∧
        (bits b.straps.toNat 1 0 ≠ 1 → b.flashOk = false → t.dev.fwState = 2 ∧ t.dev.stage = 1 ∧ t.dev.fail = 1) ∧
        (bits b.straps.toNat 1 0 ≠ 1 → b.flashOk = true → imageFail s s.flash.image ≠ 0 →
          t.dev.fwState = 2 ∧ t.dev.image = [] ∧ t.dev.fail = BitVec.ofNat 8 (imageFail s s.flash.image)) ∧
        (bits b.straps.toNat 1 0 ≠ 1 → b.flashOk = true → imageFail s s.flash.image = 0 → b.href ≠ 0 →
          t.dev.fwState = 3 ∧ t.dev.image = imgWhole s.flash.image ∧ t.dev.imgSrc = 1 ∧ t.dev.stage = 8))
    (s.dev.pwrgood = false ∨ (s.dev.cycles = 0 ∧ s.dev.power ≠ .off) → boots (.powerOn b) (s.dev.cycles + 1) fun t =>
      outcome t ∧ t.ls = [] ∧ t.hbm = [] ∧ t.dev.uptime = 0) ∧
    (s.dev.pwrgood = true → s.dev.cycles ≠ 0 → exec (.powerOn b) s = .next s) ∧
    (dark s = false → (b.fromPin = true ∧ b.devRstN = false) ∨ (b.fromPin = false ∧ ∃ rk, s.dev.resetRing = some rk ∧ answerPending s rk = false) →
      s.benches = [] → boots (.deviceReset b) s.dev.cycles fun t =>
        outcome t ∧ t.dev.uptime = s.dev.uptime ∧ t.ls = [] ∧
          ∀ n, (Machine.node t n).pacer = if s.dev.power = .deepIdle then 0 else (Machine.node s n).pacer) ∧
    (b.fromPin = false → s.dev.resetRing = none → exec (.deviceReset b) s = .next s) ∧
    (s.dev.waitRst = none → exec .devRstNRelease s = .next { s with dev := { s.dev with devRstN := true } }) ∧
    (∀ w, s.dev.waitRst = some w → bits w.straps.toNat 1 0 = 1 →
      ∃ t, exec .devRstNRelease s = .next t ∧ t.dev.waitRst = none ∧ t.dev.devRstN = true ∧ t.dev.straps = w.straps ∧ t.dev.fwState = 2) ∧
    (s.dev.pwrgood = true → ∃ t, exec .powerOff s = .next t ∧ t.dev.power = .off ∧ t.dev.pwrgood = false ∧ t.threads = [] ∧ t.hbm = [] ∧ t.ls = [] ∧
      t.fuses = s.fuses ∧ t.flash = s.flash) ∧
    (∀ rail : Nat, (4 ≤ rail → rail ≤ 11 → s.dev.pwrgood = true → s.dev.power ≠ .off →
        ∃ t, exec (.railFault rail) s = .next t ∧ t.dev.power = .off ∧ t.hbm = [] ∧ t.fuses = s.fuses ∧ t.flash = s.flash) ∧
      (rail < 4 → exec (.railFault rail) s = .next s) ∧ (11 < rail → exec (.railFault rail) s = .next s)) ∧
    (s.dev.fwState = 3 → s.dev.imgSrc = 1 → s.dev.blowDue = true →
      ∃ t, exec .fuseBlow s = .next t ∧ t.dev.blowDue = false ∧ t.fuses.slots = s.fuses.slots ∧ SameMemory s t ∧
        t.fuses.revoke = s.fuses.revoke ||| BitVec.ofNat 4 (bits (imgFlags s.dev.image) 35 32) ∧
        t.fuses.rollback = if bit (imgFlags s.dev.image) 31 then max s.fuses.rollback (imgSvn s.dev.image) else s.fuses.rollback)

/-- R179, R320, R321, R406, R407, R410 to R413 and R451: PORT reset and FLR end the contexts and rings of their functions; a port's link comes up out of
reset; a quiet bench is gated, and the device goes to Idle and to Deep Idle, where stores and cells lose what they hold, and back. -/
def Claims.PowerStates : Prop :=
  (∀ (port_ : BitVec 1) (cause : PortResetCause) (fn : BitVec 5) (s : State), dark s = false → s.dev.waitRst = none →
    (s.ctxs.map (·.1)).Pairwise (· < ·) →
    let p := port_.toNat
    (∃ t, exec (.portReset port_ cause) s = .next t ∧ (port t p).linkUp = false ∧ (port t p).stamp = 0 ∧ (port t p).aperture = 0 ∧
      ((port t p).perst = ((port s p).perst || cause == .perst)) ∧ (∀ id x, Tbl.get? t.ctxs id = some x → x.port ≠ p) ∧
      ∀ k, k / 512 = p → Tbl.get? t.rings k = none) ∧
    (hostReaches s p = true → fn.toNat ≤ 16 → ∃ t, exec (.flr port_ fn) s = .next t ∧ (port t p).linkUp = true ∧
      (∀ id x, Tbl.get? t.ctxs id = some x → x.port ≠ p ∨ (fn ≠ 0 ∧ x.fn ≠ fn.toNat)) ∧
      ∀ k, k / 512 = p → (fn = 0 ∨ k / 16 % 32 = fn.toNat) → Tbl.get? t.rings k = none) ∧
    (16 < fn.toNat → exec (.flr port_ fn) s = .next s) ∧
    ((port s p).perst = false → ∃ t, exec (.pcieLinkUp port_) s = .next t ∧ (port t p).linkUp = true ∧ (port t p).downTicks = 0 ∧
      (port t (1 - p)).peerUp = true ∧ SameMemory s t) ∧
    ((port s p).perst = true → exec (.pcieLinkUp port_) s = .next s) ∧
    (∃ t, exec (.perstRelease port_) s = .next t ∧ (port t p).perst = false ∧ (port t p).linkUp = (port s p).linkUp ∧ SameMemory s t)) ∧
  (∀ (n : BitVec 8) (s : State), dark s = false →
    (isBench n.toNat = true → held s n.toNat = false → s.dev.fwState = 3 → gateable s n.toNat = true → holders s n.toNat = [] →
      ∃ t, exec (.benchGate n) s = .next t ∧ (Machine.node t n.toNat).gated = true ∧ (bench t n.toNat).tu = []) ∧
    (isBench n.toNat = true → held s n.toNat = false → s.dev.power = .active → holders s n.toNat ≠ [] → exec (.benchGate n) s = .next s) ∧
    (s.dev.power = .active → s.dev.fwState = 3 → policy s 0x0300 ≠ 0 → policy s 0x0300 ≤ s.dev.idleTicks → deviceQuiet s = true →
      ∃ t, exec .idleEntry s = .next t ∧ t.dev.power = .idle ∧ t.dev.idleTicks = 0) ∧
    (s.dev.idleTicks < policy s 0x0300 ∨ deviceQuiet s = false → exec .idleEntry s = .next s) ∧
    (s.dev.power = .idle → ∃ t, exec .idleExit s = .next t ∧ t.dev.power = .active ∧ SameMemory s t ∧
      ∀ m, holders s m ≠ [] → (Machine.node t m).gated = false) ∧
    (s.dev.power = .idle → policy s 0x0301 ≠ 0 → policy s 0x0301 ≤ s.dev.idleTicks → s.ctxs = [] → (∀ m, isBench m = true → (Machine.node s m).gated = true ∧ held s m = false) →
      ∃ t, exec .deepIdleEntry s = .next t ∧ t.dev.power = .deepIdle ∧ t.ls = [] ∧ t.coreCells = [] ∧ t.hbm = s.hbm ∧
        ∀ k, k < 16 → (Machine.stack t k).selfRefresh = true) ∧
    (s.ctxs ≠ [] → exec .deepIdleEntry s = .next s) ∧
    (s.dev.power = .deepIdle → ∃ t, exec .deepIdleExit s = .next t ∧ t.dev.power = .active ∧ t.hbm = s.hbm ∧ t.ls = s.ls ∧
      (∀ k, k < 16 → (Machine.stack t k).selfRefresh = false) ∧ (∀ m, (Machine.node t m).pacer = 0 ∧ (Machine.node t m).calValid = false) ∧
      ∀ m, isBench m = true → (bench t m).wayen = 0xFFFF ∧ (Machine.node t m).gated = false))

/-- R402 to R413, R416 to R425, R448 and R450: boot, resets and power states. Choices of the model in it: log entries 5, 7, 23. -/
def Obligations.BootAndPower : Prop := Claims.Boot ∧ Claims.PowerStates

/-! ### Register writes and the sideband interfaces (chapters 21, 22 and 23) -/

/-- R430, R433, R437 and R441: firmware clears RW1C bits and writes class F registers; a thread's write of one is denied, flagged and answered with an address
error; a write of another size changes nothing; a host writes RING_BASE while its ring is disabled, and afterwards the write is a violation. -/
def Claims.RegisterWrites : Prop :=
  (∀ (w : RegSource) (node : BitVec 8) (v : W64) (s : State), held s node.toNat = false → (Machine.node s node.toNat).guard = none →
    let n := node.toNat
    (isF w = true → ∃ t, exec (.registerWrite w node 0x10 8 v) s = .next t ∧ SameMemory s t ∧
      Machine.node t n = { Machine.node s n with errFlags := (Machine.node s n).errFlags &&& ~~~ (v.setWidth 4) }) ∧
    (isF w = true → exec (.registerWrite w node 0x10 3 v) s = .next s) ∧
    (∀ i, i < 8 → isBench n = true → isFenced s 2 n = false →
      let off := BitVec.ofNat 24 (0x80100 + i * 0x10000)
      let c := n * 8 + i
      (isF w = true → ∃ t, exec (.registerWrite w node off 8 v) s = .next t ∧ SameMemory s t ∧
        Machine.core t c = { Machine.core s c with ctrMode := v.setWidth 48, ctrDead := false } ∧ ∀ d, d ≠ c → Machine.core t d = Machine.core s d) ∧
      (∀ m x bytes psn req, w = .thread m → arrived s m = some x → x.dst = n → x.pay = .write (.reg n off.toNat) bytes psn req → bytes.length = 8 →
        leNat (bytes.map (·.2)) = v.toNat →
        ∃ t, exec (.registerWrite w node off 8 v) s = .next t ∧ t.cores = s.cores ∧ LastSent t 1 n x.src (.error 8 req) ∧
          (Machine.node t n).errFlags = (Machine.node s n).errFlags ||| 8 ∧ (Machine.node t n).cntDeny = min ((Machine.node s n).cntDeny + 1) 65535))) ∧
  (∀ (r : RingRef) (v : W64) (s : State), hostReaches s r.port.toNat = true → inD3 s r.port.toNat 0 = false → r.fn = 0 ∨ r.ring.toNat < 4 →
    let i := Instr.registerWrite (.host r.port) (BitVec.ofNat 8 (portNode r.port.toNat)) (BitVec.ofNat 24 (ringBlock (ringKey r))) 8 v
    ((ring s (ringKey r)).en = false → ∃ t, exec i s = .next t ∧ SameMemory s t ∧
      ring t (ringKey r) = { ring s (ringKey r) with base := v.toNat &&& 0xFFFFFFF000 }) ∧
    ((ring s (ringKey r)).en = true → v.toNat &&& 0xFFFFFFF000 ≠ (ring s (ringKey r)).base &&& 0xFFFFFFF000 → ∃ t, exec i s = .next t ∧
      ring t (ringKey r) = ring s (ringKey r) ∧ (port t r.port.toNat).errFlags = (port s r.port.toNat).errFlags ||| 2))

/-- R430 and R433 to R437: guarded pairs and plain writes of node registers and host registers. -/
def Obligations.RegisterAccesses : Prop := Claims.GuardedPairs ∧ Claims.RegisterWrites

/-- R318, R427, R428, R455 and Tables 21.11 and 23.10: the SMBus target's six reads, the DOE mailbox's two object types, and the exchange of the responder:
version, capabilities and algorithms in that order, then digests, certificates, a challenge and measurements (the message formats are log entry 21). Choices of the model in it: log entry 21. -/
def Obligations.SidebandInterfaces : Prop :=
  (∀ s : State, dark s = false →
    let gives (i : Instr) (n v : Nat) : Prop := ∃ t, exec i s = .next t ∧ t.dev.smbus = (List.range n).map (byteOf v) ∧ SameMemory s t ∧ t.gov = s.gov
    (∀ n v, isBench n = true → (Machine.node s n).tempValid = true → (Machine.node s n).temp = v →
      (∀ m, isBench m = true → (Machine.node s m).tempValid = true → (Machine.node s m).temp.toInt ≤ v.toInt) → gives .smbusTemperature 2 v.toNat) ∧
    gives .smbusFwState 1 s.dev.fwState.toNat ∧ gives .smbusPower 2 (if s.dev.fwState = 3 then s.gov.power / 1000 % 65536 else 0) ∧
    gives .smbusHeartbeat 8 (if s.dev.fwState = 3 then s.dev.heartbeat.toNat else 0) ∧
    gives .smbusUptime 8 (if s.dev.fwState = 3 then s.dev.uptime.toNat else 0) ∧
    gives .smbusAlerts 1 ((if s.dev.thermtrip then 1 else 0) + (if s.dev.alertHold || s.dev.alertFw || s.dev.alertHref then 2 else 0) +
      (if s.gov.held = [] then 0 else 4))) ∧
  (∀ (port_ : BitVec 1) (req : List Byte) (s : State), doeServed s port_.toNat = true →
    let p := port_.toNat
    let x := port s p
    let o (i : Nat) : Nat := (req.getD i 0).toNat
    let replies (i : Instr) (q : List Byte → State → Prop) : Prop :=
      ∃ t a, exec i s = .next t ∧ (port t p).answer = doeObject 1 a ∧ (port t p).answerStatus = 0 ∧ SameMemory s t ∧ t.dev = s.dev ∧ q a t
    let error (i : Instr) (code data : Nat) : Prop := replies i fun a t => a = [0x12, 0x7F, BitVec.ofNat 8 code, BitVec.ofNat 8 data] ∧ (port t p).spdm = x.spdm
    (∃ t, exec (.doeDiscovery port_ 0) s = .next t ∧ (port t p).answer = [1, 0, 0, 0, 3, 0, 0, 0, 1, 0, 0, 1]) ∧
    (∃ t, exec (.doeDiscovery port_ 1) s = .next t ∧ (port t p).answer = [1, 0, 0, 0, 3, 0, 0, 0, 1, 0, 1, 0]) ∧
    (o 1 = 0x84 → o 0 = 0x10 → 4 ≤ req.length → x.spdm ≤ 3 →
      replies (.getVersion port_ req) fun a t => a = [0x10, 4, 0, 0, 0, 1, 0, 0x12] ∧ (port t p).spdm = 1 ∧ (port t p).vca = req ++ a) ∧
    (o 1 = 0xE1 → o 0 = 0x12 → 20 ≤ req.length →
      (x.spdm = 1 → replies (.getCapabilities port_ req) fun a t => (port t p).spdm = 2 ∧ a.take 2 = [0x12, 0x61] ∧ (a.drop 8).take 4 = [0x16, 0, 0, 0]) ∧
      (x.spdm ≠ 1 → error (.getCapabilities port_ req) 0x04 0)) ∧
    (o 1 = 0xE3 → o 0 = 0x12 → 32 ≤ req.length →
      (x.spdm = 2 → replies (.negotiateAlgorithms port_ req) fun a t => (port t p).spdm = 3 ∧ a.length = 36 ∧
        (o 6 % 2 = 1 → (a.drop 8).take 4 = [2, 0, 0, 0]) ∧ (o 8 / 8 % 2 = 1 → (a.drop 12).take 4 = [8, 0, 0, 0]) ∧
        (o 12 % 2 = 1 → (a.drop 16).take 4 = [1, 0, 0, 0])) ∧
      (x.spdm ≠ 2 → error (.negotiateAlgorithms port_ req) 0x04 0)) ∧
    (o 0 = 0x12 → 4 ≤ req.length →
      (o 1 = 0x81 → x.spdm = 3 → replies (.getDigests port_ req) fun a t => a = [0x12, 0x01, 0, 1] ++ chainDigest ∧ (port t p).msgB = x.msgB ++ req ++ a) ∧
      (∀ off want, o 1 = 0x82 → x.spdm = 3 → 8 ≤ req.length → o 2 % 16 = 0 → off = o 4 + 256 * o 5 → want = o 6 + 256 * o 7 → off < Config.certLength →
        let n := min want (Config.certLength - off)
        replies (.getCertificate port_ req) fun a t => (port t p).spdm = 3 ∧
          a = [0x12, 0x02, 0, 0] ++ leBytes 2 n ++ leBytes 2 (Config.certLength - off - n) ++ (List.range n).map fun i => Config.certOctet (off + i)) ∧
      (o 1 = 0x83 → x.spdm = 3 → 36 ≤ req.length → o 2 = 0 → o 3 = 0 →
        replies (.challenge port_ req) fun a t => a.take (4 + chainDigest.length) = [0x12, 0x03, 0, 1] ++ chainDigest ∧ (port t p).msgB = [] ∧ t.fresh = s.fresh + 1) ∧
      (o 1 = 0xE0 → x.spdm = 3 → o 2 = 0 → o 3 = 2 → s.dev.image ≠ [] →
        replies (.getMeasurements port_ req) fun a t => ∃ rest, a = [0x12, 0x60, 0, 0, 1] ++ leBytes 3 (7 + (sha256 s.dev.image).length) ++
          [2, 1, 35, 0, 1, 32, 0] ++ sha256 s.dev.image ++ rest ∧ (port t p).msgL = x.msgL ++ req ++ a) ∧
      (o 1 = 0x81 → x.spdm ≠ 3 → error (.getDigests port_ req) 0x04 0) ∧ (o 1 = 0x82 → x.spdm ≠ 3 → error (.getCertificate port_ req) 0x04 0) ∧
      (o 1 = 0x83 → x.spdm ≠ 3 → error (.challenge port_ req) 0x04 0) ∧ (o 1 = 0xE0 → x.spdm ≠ 3 → error (.getMeasurements port_ req) 0x04 0)) ∧
    (o 1 = 0x10 → error (.getVersion port_ req) 0x07 0x10))

/-! ### The whole machine -/

/-- The Reset columns (R7): what the manual gives a value at reset has it: no context, no thread running, no event ring enabled, FW_STATE 1, every bench cache with 16 ways,
PRECISION_CTL and the pacers' period at theirs; nothing waits, and every memory is in its canonical form with no byte listed (log entries 4 and 5). Choices of the model in it: log entries 4, 5, 7. -/
def Obligations.ResetState : Prop :=
  let s := State.reset
  MemoryOk s ∧ s.pending = [] ∧ s.dev.fwState = 1 ∧ s.dev.heartbeat = 0 ∧ s.dev.uptime = 0 ∧ s.ctxs = [] ∧ s.mesh = [] ∧ s.inbox = [] ∧
    (∀ k, (thr s k).run = .ended ∧ (thr s k).sys.priv = 1 ∧ (thr s k).sys.mask = 0 ∧ (thr s k).sys.precision = 0x0000000201000148 ∧ (thr s k).tx.depth = 0) ∧
    (∀ n, (bench s n).wayen = 0xFFFF ∧ (bench s n).wayon = 0xFFFF ∧ (bench s n).ssEn = false ∧ (Machine.node s n).period = 0x007A1200 ∧
      (Machine.node s n).calValid = false ∧ (Machine.node s n).pacer = 0) ∧
    (∀ k, (ring s k).en = false ∧ (ring s k).head = 0 ∧ (ring s k).tail = 0 ∧ (ring s k).gen = 3) ∧ (∀ k, (evring s k).en = false) ∧
    (∀ a, hbmByte s a = 0) ∧ (∀ c o, storeByte s c o = 0) ∧ ∀ q, policy s 0x0200 = 2200 ∧ isFenced s 1 q = false

/-- Every step keeps every memory and set of marks in its canonical form, from any state, whatever command runs. Choices of the model in it: log entry 5. -/
def Obligations.StepKeepsMemory : Prop :=
  ∀ s t : State, MemoryOk s → step s = .next t → MemoryOk t

/-- R421: "Fuses change only by R423 and cannot be cleared": no step but FUSE_BLOW changes them, and FUSE_BLOW only sets revoke bits and raises the rollback
counter. -/
def Obligations.FusesOnlyGrow : Prop :=
  ∀ s t : State, step s = .next t →
    (s.pending.head? ≠ some .fuseBlow → t.fuses = s.fuses) ∧ t.fuses.slots = s.fuses.slots ∧ s.fuses.rollback ≤ t.fuses.rollback ∧
      ∀ i, s.fuses.revoke.getLsbD i = true → t.fuses.revoke.getLsbD i = true

/-- A step takes the front command out of the queue and puts none in; on an empty queue time passes: the tick counts, the pacers advance by what Config gives (log entry 2), and
no memory and no thread changes. Choices of the model in it: log entry 2. -/
def Obligations.QueueAndTime : Prop :=
  (∀ s t : State, step s = .next t → t.pending = s.pending.drop 1) ∧
  (∀ s : State, s.pending = [] → ∃ t, step s = .next t ∧ t.tick = s.tick + 1 ∧ SameMemory s t ∧ t.threads = s.threads ∧ t.cores = s.cores ∧ t.mesh = s.mesh ∧
    t.dev = s.dev ∧
    (dark s = false → s.dev.power = .active → ∀ n, n < 256 → (Machine.node t n).pacer = (Machine.node s n).pacer + BitVec.ofNat 64 (Config.pacerAdvance n s.tick)) ∧
    (s.dev.power = .deepIdle → t.nodes = s.nodes))

/-- R61, R64, R72, R13, R16: an encoding that the tables do not assign, and a function of an assigned major that they do not, raise ILLEGAL with no
effect; a step of a core or bench that the device does not have cannot occur and changes nothing (log entry 1). Choices of the model in it: log entry 1. -/
def Obligations.ReservedEncodings : Prop :=
  (∀ (h : Hart) (fn : BitVec 10) (rd rs1 rs2 : BitVec 5) (s : State), Ready h [rd, rs1, rs2] s →
    let k := h.key
    let illegal_ (i : Instr) : Prop := Fetches i s → exec i s = .next (faultAt s k { code := 1, engine := 0, info := 0, faddr := 0 } (thr s k).pc)
    (0x010 ≤ fn.toNat → illegal_ (.op h fn rd rs1 rs2)) ∧ (fn.toNat ∉ [0, 1, 6, 7, 8] → illegal_ (.op32 h fn rd rs1 rs2)) ∧
    (0x008 ≤ fn.toNat → illegal_ (.bits h fn rd rs1 0)) ∧ (rs2 ≠ 0 → illegal_ (.bits h fn rd rs1 rs2)) ∧ (0x00D ≤ fn.toNat → illegal_ (.muldiv h fn rd rs1 rs2))) ∧
  (∀ (h : Hart) (a b : BitVec 16) (fn : BitVec 10) (rd rs1 rs2 : BitVec 5) (s : State), Ready h [] s →
    fetchInstr s h.key (thr s h.key).pc h.compact = .bits a b → decodeAt h a b = .reserved →
    exec (.op h fn rd rs1 rs2) s = .next (faultAt s h.key { code := 1, engine := 0, info := 0, faddr := 0 } (thr s h.key).pc)) ∧
  (∀ (h : Hart) (w : BitVec 32), w.getLsbD 31 = true →
    let major := w.toNat / 2 ^ 25 % 64
    (major ∈ [0x0E, 0x0F, 0x1D, 0x1E, 0x1F, 0x2F, 0x35, 0x3B, 0x3C, 0x3D, 0x3E, 0x3F] → decode32 h w = .reserved) ∧
    (major = 0x29 → 5 ≤ w.toNat / 2 ^ 12 % 8 → decode32 h w = .reserved) ∧
    (major = 0x2A → 5 ≤ w.toNat % 1024 → decode32 h w = .reserved)) ∧
  (∀ h : Hart, decode16 h 0 = .reserved) ∧
  (∀ (h : Hart) (fn : BitVec 10) (rd rs1 rs2 : BitVec 5) (s : State), isCore h.core.toNat = false →
    exec (.op h fn rd rs1 rs2) s = .next s ∧ exec (.ecall h 0 0) s = .next s ∧
    exec (.wedgeL h 0 0) s = .next s ∧ exec (.cinc h rs1 rs2 rd) s = .next s) ∧
  (∀ (n : BitVec 8) (s : State), isBench n.toNat = false → exec (.benchGate n) s = .next s ∧ exec (.retentionExit n) s = .next s)

/-- R58, R62 to R64, R72, R73, R108, R146, R147, R204, R215 and R237: for every well-formed instruction the halfwords of its encoding decode to it,
every operand at every value that the encoding admits; bit 31 of a 32-bit one is 1, and of a 16-bit one the halfword behind it says nothing. A repeat's is its prefix's. -/
def Obligations.EncodingsRoundTrip : Prop :=
  ∀ (i : Instr) (h : Hart), i.hart? = some h → i.wf = true →
    (h.compact = false → ∃ w, encode i = some w ∧ w.getLsbD 31 = true ∧
      decodeAt h (w.extractLsb' 16 16) (w.setWidth 16) =
        match i with
        | .repI _ src z rs1 count _ => .rep { ni := false, src := src, z := z, rs1 := rs1, count := count }
        | .repN _ src z rs1 count _ => .rep { ni := true, src := src, z := z, rs1 := rs1, count := count }
        | _ => .instr i) ∧
    (h.compact = true → ∃ c, encodeCompact i = some c ∧ c.getLsbD 15 = false ∧ ∀ b, decodeAt h c b = .instr i)
end

