-- ==== Sys2Proof/Laws/Tables.lean ====
section
/-!
SUPPORT. Laws of tables, sets and memories: what is read after a write, and that every write keeps the canonical
form.
-/
namespace Sys2Proof

/-! ### Tables -/

@[simp] theorem Tbl.get?_set_self {α : Type} (t : Tbl α) (k : Nat) (v : α) : Tbl.get? (Tbl.set t k v) k = some v := by
  induction t with
  | nil => simp [Tbl.set, Tbl.get?]
  | cons e t ih =>
    obtain ⟨j, w⟩ := e
    simp only [Tbl.set]
    split
    · simp [Tbl.get?]
    · split
      · simp [Tbl.get?]
      · rename_i h; simp [Tbl.get?, Ne.symm h, ih]

theorem Tbl.get?_set_ne {α : Type} (t : Tbl α) {k j : Nat} (v : α) (h : j ≠ k) : Tbl.get? (Tbl.set t k v) j = Tbl.get? t j := by
  induction t with
  | nil => simp [Tbl.set, Tbl.get?, Ne.symm h]
  | cons e t ih =>
    obtain ⟨i, w⟩ := e
    simp only [Tbl.set]
    split
    · simp [Tbl.get?, Ne.symm h]
    · split
      · subst_vars; simp [Tbl.get?, Ne.symm h]
      · simp [Tbl.get?, ih]

@[simp] theorem Tbl.getD_set_self {α : Type} (t : Tbl α) (k : Nat) (v d : α) : Tbl.getD (Tbl.set t k v) k d = v := by simp [Tbl.getD]

theorem Tbl.getD_set_ne {α : Type} (t : Tbl α) {k j : Nat} (v d : α) (h : j ≠ k) : Tbl.getD (Tbl.set t k v) j d = Tbl.getD t j d := by
  simp [Tbl.getD, Tbl.get?_set_ne t v h]

theorem Tbl.getD_set {α : Type} (t : Tbl α) (k j : Nat) (v d : α) :
    Tbl.getD (Tbl.set t k v) j d = if j = k then v else Tbl.getD t j d := by
  split
  · subst_vars; simp
  · rename_i h; exact Tbl.getD_set_ne t v d h

theorem Tbl.get?_erase_ne {α : Type} (t : Tbl α) {k j : Nat} (h : j ≠ k) : Tbl.get? (Tbl.erase t k) j = Tbl.get? t j := by
  induction t with
  | nil => rfl
  | cons e t ih =>
    obtain ⟨i, w⟩ := e
    simp only [Tbl.erase]
    split
    · subst_vars; simp [Tbl.get?, Ne.symm h]
    · simp [Tbl.get?, ih]

/-! ### The canonical form -/

/-- A memory is canonical when its addresses rise strictly and no entry is zero. -/
theorem memWf_iff (m : Tbl Byte) : memWf m = true ↔ m.Pairwise (fun a b => a.1 < b.1) ∧ ∀ e ∈ m, e.2 ≠ 0 := by
  induction m with
  | nil => simp [memWf]
  | cons e t ih =>
    cases t with
    | nil => obtain ⟨a, b⟩ := e; simp [memWf]
    | cons e' t' =>
      obtain ⟨a, b⟩ := e; obtain ⟨a', b'⟩ := e'
      simp only [memWf, Bool.and_eq_true, ih, bne_iff_ne, decide_eq_true_eq, List.pairwise_cons, List.mem_cons]
      constructor
      · rintro ⟨⟨hb, ha⟩, ⟨hp, hq⟩, hz⟩
        refine ⟨⟨?_, hp, hq⟩, ?_⟩
        · rintro x (rfl | hx)
          · exact ha
          · exact lt_trans ha (hp x hx)
        · rintro x (rfl | hx)
          · exact hb
          · exact hz x hx
      · rintro ⟨⟨h1, hp, hq⟩, hz⟩
        exact ⟨⟨hz _ (.inl rfl), h1 _ (.inl rfl)⟩, ⟨hp, hq⟩, fun x hx => hz x (.inr hx)⟩

theorem Tbl.get?_map {α β : Type} (f : Nat → α → β) (t : Tbl α) (k : Nat) :
    Tbl.get? (t.map fun e => (e.1, f e.1 e.2)) k = (Tbl.get? t k).map (f k) := by
  induction t with
  | nil => rfl
  | cons e t ih =>
    simp only [List.map_cons, Tbl.get?]
    split
    · rename_i h; subst h; rfl
    · exact ih

theorem Tbl.mem_set {α : Type} (t : Tbl α) (k : Nat) (v : α) {e : Nat × α} (h : e ∈ Tbl.set t k v) : e = (k, v) ∨ e ∈ t := by
  induction t with
  | nil => simp [Tbl.set] at h; exact .inl h
  | cons f t ih =>
    obtain ⟨j, w⟩ := f
    simp only [Tbl.set] at h
    split at h
    · simp only [List.mem_cons] at h ⊢; tauto
    · split at h
      · simp only [List.mem_cons] at h ⊢; tauto
      · simp only [List.mem_cons] at h ⊢
        rcases h with h | h
        · exact .inr (.inl h)
        · rcases ih h with h | h
          · exact .inl h
          · exact .inr (.inr h)

theorem Tbl.mem_erase {α : Type} (t : Tbl α) (k : Nat) {e : Nat × α} (h : e ∈ Tbl.erase t k) : e ∈ t := by
  induction t with
  | nil => exact h
  | cons f t ih =>
    obtain ⟨j, w⟩ := f
    simp only [Tbl.erase] at h
    split at h
    · exact List.mem_cons_of_mem _ h
    · simp only [List.mem_cons] at h ⊢
      rcases h with h | h
      · exact .inl h
      · exact .inr (ih h)

theorem Tbl.sorted_set {α : Type} (t : Tbl α) (k : Nat) (v : α) (h : t.Pairwise fun a b => a.1 < b.1) :
    (Tbl.set t k v).Pairwise fun a b => a.1 < b.1 := by
  induction t with
  | nil => simp [Tbl.set]
  | cons f t ih =>
    obtain ⟨j, w⟩ := f
    rw [List.pairwise_cons] at h
    simp only [Tbl.set]
    split
    · rename_i hk
      refine List.pairwise_cons.2 ⟨?_, List.pairwise_cons.2 h⟩
      intro e he
      simp only [List.mem_cons] at he
      rcases he with rfl | he
      · exact hk
      · exact lt_trans hk (h.1 e he)
    · split
      · rename_i hk; subst hk; exact List.pairwise_cons.2 h
      · rename_i h1 h2
        refine List.pairwise_cons.2 ⟨?_, ih h.2⟩
        intro e he
        rcases Tbl.mem_set t k v he with rfl | he
        · show j < k; omega
        · exact h.1 e he

theorem Tbl.sorted_erase {α : Type} (t : Tbl α) (k : Nat) (h : t.Pairwise fun a b => a.1 < b.1) :
    (Tbl.erase t k).Pairwise fun a b => a.1 < b.1 := by
  induction t with
  | nil => exact h
  | cons f t ih =>
    obtain ⟨j, w⟩ := f
    rw [List.pairwise_cons] at h
    simp only [Tbl.erase]
    split
    · exact h.2
    · exact List.pairwise_cons.2 ⟨fun e he => h.1 e (Tbl.mem_erase t k he), ih h.2⟩

/-- A write keeps a memory canonical. -/
theorem memWf_memPut (m : Tbl Byte) (a : Nat) (b : Byte) (h : memWf m = true) : memWf (memPut m a b) = true := by
  rw [memWf_iff] at h ⊢
  unfold memPut
  split
  · exact ⟨Tbl.sorted_erase m a h.1, fun e he => h.2 e (Tbl.mem_erase m a he)⟩
  · rename_i hb
    refine ⟨Tbl.sorted_set m a b h.1, fun e he => ?_⟩
    rcases Tbl.mem_set m a b he with rfl | he
    · exact hb
    · exact h.2 e he

/-- Dropping entries keeps a memory canonical. -/
theorem memWf_filter (m : Tbl Byte) (p : Nat × Byte → Bool) (h : memWf m = true) : memWf (m.filter p) = true := by
  rw [memWf_iff] at h ⊢
  exact ⟨h.1.filter p, fun e he => h.2 e (List.mem_filter.1 he).1⟩

theorem memWf_foldl {α : Type} (f : Tbl Byte → α → Tbl Byte) (hf : ∀ m x, memWf m = true → memWf (f m x) = true) (l : List α) :
    ∀ m, memWf m = true → memWf (l.foldl f m) = true := by
  induction l with
  | nil => intro m h; exact h
  | cons x l ih => intro m h; exact ih _ (hf m x h)

/-! ### Memory -/

theorem memGet_memPut_ne (m : Tbl Byte) {a c : Nat} (b : Byte) (h : c ≠ a) : memGet (memPut m a b) c = memGet m c := by
  unfold memGet memPut Tbl.getD
  split
  · rw [Tbl.get?_erase_ne m h]
  · rw [Tbl.get?_set_ne m b h]

theorem Tbl.get?_none_of_lt {α : Type} (t : Tbl α) (k : Nat) (h : ∀ e ∈ t, k < e.1) : Tbl.get? t k = none := by
  induction t with
  | nil => rfl
  | cons e t ih =>
    obtain ⟨j, w⟩ := e
    have h1 : k < j := h (j, w) (by simp)
    have h2 : ¬ j = k := by omega
    simp [Tbl.get?, h2, ih fun e he => h e (by simp [he])]

theorem Tbl.get?_erase_self {α : Type} (t : Tbl α) (k : Nat) (h : t.Pairwise fun a b => a.1 < b.1) : Tbl.get? (Tbl.erase t k) k = none := by
  induction t with
  | nil => rfl
  | cons e t ih =>
    obtain ⟨j, w⟩ := e
    rw [List.pairwise_cons] at h
    simp only [Tbl.erase]
    split
    · rename_i hj; subst hj; exact Tbl.get?_none_of_lt t j fun e he => h.1 e he
    · rename_i hj; simp [Tbl.get?, hj, ih h.2]

/-- A byte that was written reads back. -/
theorem memGet_memPut_self (m : Tbl Byte) (a : Nat) (b : Byte) (h : memWf m = true) : memGet (memPut m a b) a = b := by
  unfold memGet memPut Tbl.getD
  split
  · rename_i hb; rw [Tbl.get?_erase_self m a ((memWf_iff m).1 h).1, hb]; rfl
  · simp

/-! ### Sets -/

theorem NSet.wf_iff (l : NSet) : NSet.wf l = true ↔ l.Pairwise (· < ·) := by
  induction l with
  | nil => simp [NSet.wf]
  | cons a t ih =>
    cases t with
    | nil => simp [NSet.wf]
    | cons b t' =>
      simp only [NSet.wf, Bool.and_eq_true, ih, decide_eq_true_eq, List.pairwise_cons, List.mem_cons]
      constructor
      · rintro ⟨hab, hp, hq⟩
        refine ⟨?_, hp, hq⟩
        rintro x (rfl | hx)
        · exact hab
        · exact lt_trans hab (hp x hx)
      · rintro ⟨h1, hp, hq⟩
        exact ⟨h1 b (.inl rfl), hp, hq⟩

theorem NSet.mem_add (l : NSet) (k : Nat) {x : Nat} (h : x ∈ NSet.add l k) : x = k ∨ x ∈ l := by
  induction l with
  | nil => simp [NSet.add] at h; exact .inl h
  | cons a t ih =>
    simp only [NSet.add] at h
    split at h
    · simp only [List.mem_cons] at h ⊢; tauto
    · split at h
      · exact .inr h
      · simp only [List.mem_cons] at h ⊢
        rcases h with h | h
        · exact .inr (.inl h)
        · rcases ih h with h | h
          · exact .inl h
          · exact .inr (.inr h)

theorem NSet.wf_add (l : NSet) (k : Nat) (h : NSet.wf l = true) : NSet.wf (NSet.add l k) = true := by
  rw [NSet.wf_iff] at h ⊢
  induction l with
  | nil => simp [NSet.add]
  | cons a t ih =>
    have hc := List.pairwise_cons.1 h
    simp only [NSet.add]
    split
    · rename_i hk
      refine List.pairwise_cons.2 ⟨?_, h⟩
      intro x hx
      simp only [List.mem_cons] at hx
      rcases hx with rfl | hx
      · exact hk
      · exact lt_trans hk (hc.1 x hx)
    · split
      · exact h
      · rename_i h1 h2
        refine List.pairwise_cons.2 ⟨?_, ih hc.2⟩
        intro x hx
        rcases NSet.mem_add t k hx with rfl | hx
        · omega
        · exact hc.1 x hx

theorem NSet.mem_del (l : NSet) (k : Nat) {x : Nat} (h : x ∈ NSet.del l k) : x ∈ l := by
  induction l with
  | nil => exact h
  | cons a t ih =>
    simp only [NSet.del] at h
    split at h
    · exact List.mem_cons_of_mem _ h
    · simp only [List.mem_cons] at h ⊢
      rcases h with h | h
      · exact .inl h
      · exact .inr (ih h)

theorem NSet.wf_del (l : NSet) (k : Nat) (h : NSet.wf l = true) : NSet.wf (NSet.del l k) = true := by
  rw [NSet.wf_iff] at h ⊢
  induction l with
  | nil => exact h
  | cons a t ih =>
    have hc := List.pairwise_cons.1 h
    simp only [NSet.del]
    split
    · exact hc.2
    · exact List.pairwise_cons.2 ⟨fun x hx => hc.1 x (NSet.mem_del t k hx), ih hc.2⟩

theorem NSet.wf_filter (l : NSet) (p : Nat → Bool) (h : NSet.wf l = true) : NSet.wf (l.filter p) = true := by
  rw [NSet.wf_iff] at h ⊢
  exact h.filter p

@[simp] theorem NSet.has_add_self (l : NSet) (k : Nat) : NSet.has (NSet.add l k) k = true := by
  induction l with
  | nil => simp [NSet.add, NSet.has]
  | cons a t ih =>
    simp only [NSet.add]
    split
    · simp [NSet.has]
    · split
      · rename_i h; simp [NSet.has, h]
      · rename_i h; simp [NSet.has, Ne.symm h, ih]

theorem NSet.has_add_ne (l : NSet) {k j : Nat} (h : j ≠ k) : NSet.has (NSet.add l k) j = NSet.has l j := by
  induction l with
  | nil => simp [NSet.add, NSet.has, Ne.symm h]
  | cons a t ih =>
    simp only [NSet.add]
    split
    · simp [NSet.has, Ne.symm h]
    · split
      · rfl
      · simp [NSet.has, ih]

end Sys2Proof
end

