-- ==== Sys2Proof/Laws/State.lean ====
section
/-!
SUPPORT. Laws of the named updates of the state: one lemma per update and field it leaves alone, what each accessor
reads after each update, and what registers read after a write.
-/
namespace Sys2Proof.Machine

/-! ### modThr -/

@[simp] theorem modThr_cores (s : State) (k : Nat) (f : Thread → Thread) : (modThr s k f).cores = s.cores := rfl
@[simp] theorem modThr_nodes (s : State) (k : Nat) (f : Thread → Thread) : (modThr s k f).nodes = s.nodes := rfl
@[simp] theorem modThr_benches (s : State) (k : Nat) (f : Thread → Thread) : (modThr s k f).benches = s.benches := rfl
@[simp] theorem modThr_hbm (s : State) (k : Nat) (f : Thread → Thread) : (modThr s k f).hbm = s.hbm := rfl
@[simp] theorem modThr_hbmPoison (s : State) (k : Nat) (f : Thread → Thread) : (modThr s k f).hbmPoison = s.hbmPoison := rfl
@[simp] theorem modThr_ls (s : State) (k : Nat) (f : Thread → Thread) : (modThr s k f).ls = s.ls := rfl
@[simp] theorem modThr_lsPoison (s : State) (k : Nat) (f : Thread → Thread) : (modThr s k f).lsPoison = s.lsPoison := rfl
@[simp] theorem modThr_coreCells (s : State) (k : Nat) (f : Thread → Thread) : (modThr s k f).coreCells = s.coreCells := rfl
@[simp] theorem modThr_wbCells (s : State) (k : Nat) (f : Thread → Thread) : (modThr s k f).wbCells = s.wbCells := rfl
@[simp] theorem modThr_wbWaits (s : State) (k : Nat) (f : Thread → Thread) : (modThr s k f).wbWaits = s.wbWaits := rfl
@[simp] theorem modThr_watches (s : State) (k : Nat) (f : Thread → Thread) : (modThr s k f).watches = s.watches := rfl
@[simp] theorem modThr_locks (s : State) (k : Nat) (f : Thread → Thread) : (modThr s k f).locks = s.locks := rfl
@[simp] theorem modThr_hbmStacks (s : State) (k : Nat) (f : Thread → Thread) : (modThr s k f).hbmStacks = s.hbmStacks := rfl
@[simp] theorem modThr_skip (s : State) (k : Nat) (f : Thread → Thread) : (modThr s k f).skip = s.skip := rfl
@[simp] theorem modThr_mesh (s : State) (k : Nat) (f : Thread → Thread) : (modThr s k f).mesh = s.mesh := rfl
@[simp] theorem modThr_inbox (s : State) (k : Nat) (f : Thread → Thread) : (modThr s k f).inbox = s.inbox := rfl
@[simp] theorem modThr_ctxs (s : State) (k : Nat) (f : Thread → Thread) : (modThr s k f).ctxs = s.ctxs := rfl
@[simp] theorem modThr_rings (s : State) (k : Nat) (f : Thread → Thread) : (modThr s k f).rings = s.rings := rfl
@[simp] theorem modThr_evrings (s : State) (k : Nat) (f : Thread → Thread) : (modThr s k f).evrings = s.evrings := rfl
@[simp] theorem modThr_seqs (s : State) (k : Nat) (f : Thread → Thread) : (modThr s k f).seqs = s.seqs := rfl
@[simp] theorem modThr_launches (s : State) (k : Nat) (f : Thread → Thread) : (modThr s k f).launches = s.launches := rfl
@[simp] theorem modThr_regions (s : State) (k : Nat) (f : Thread → Thread) : (modThr s k f).regions = s.regions := rfl
@[simp] theorem modThr_pageReqs (s : State) (k : Nat) (f : Thread → Thread) : (modThr s k f).pageReqs = s.pageReqs := rfl
@[simp] theorem modThr_slots (s : State) (k : Nat) (f : Thread → Thread) : (modThr s k f).slots = s.slots := rfl
@[simp] theorem modThr_ports (s : State) (k : Nat) (f : Thread → Thread) : (modThr s k f).ports = s.ports := rfl
@[simp] theorem modThr_links (s : State) (k : Nat) (f : Thread → Thread) : (modThr s k f).links = s.links := rfl
@[simp] theorem modThr_units (s : State) (k : Nat) (f : Thread → Thread) : (modThr s k f).units = s.units := rfl
@[simp] theorem modThr_hostMem (s : State) (k : Nat) (f : Thread → Thread) : (modThr s k f).hostMem = s.hostMem := rfl
@[simp] theorem modThr_hostPoison (s : State) (k : Nat) (f : Thread → Thread) : (modThr s k f).hostPoison = s.hostPoison := rfl
@[simp] theorem modThr_flash (s : State) (k : Nat) (f : Thread → Thread) : (modThr s k f).flash = s.flash := rfl
@[simp] theorem modThr_fuses (s : State) (k : Nat) (f : Thread → Thread) : (modThr s k f).fuses = s.fuses := rfl
@[simp] theorem modThr_gov (s : State) (k : Nat) (f : Thread → Thread) : (modThr s k f).gov = s.gov := rfl
@[simp] theorem modThr_dev (s : State) (k : Nat) (f : Thread → Thread) : (modThr s k f).dev = s.dev := rfl
@[simp] theorem modThr_nextMsg (s : State) (k : Nat) (f : Thread → Thread) : (modThr s k f).nextMsg = s.nextMsg := rfl
@[simp] theorem modThr_fresh (s : State) (k : Nat) (f : Thread → Thread) : (modThr s k f).fresh = s.fresh := rfl
@[simp] theorem modThr_tick (s : State) (k : Nat) (f : Thread → Thread) : (modThr s k f).tick = s.tick := rfl
@[simp] theorem modThr_pending (s : State) (k : Nat) (f : Thread → Thread) : (modThr s k f).pending = s.pending := rfl

/-! ### modSys -/

@[simp] theorem modSys_cores (s : State) (k : Nat) (f : SysRegs → SysRegs) : (modSys s k f).cores = s.cores := rfl
@[simp] theorem modSys_nodes (s : State) (k : Nat) (f : SysRegs → SysRegs) : (modSys s k f).nodes = s.nodes := rfl
@[simp] theorem modSys_benches (s : State) (k : Nat) (f : SysRegs → SysRegs) : (modSys s k f).benches = s.benches := rfl
@[simp] theorem modSys_hbm (s : State) (k : Nat) (f : SysRegs → SysRegs) : (modSys s k f).hbm = s.hbm := rfl
@[simp] theorem modSys_hbmPoison (s : State) (k : Nat) (f : SysRegs → SysRegs) : (modSys s k f).hbmPoison = s.hbmPoison := rfl
@[simp] theorem modSys_ls (s : State) (k : Nat) (f : SysRegs → SysRegs) : (modSys s k f).ls = s.ls := rfl
@[simp] theorem modSys_lsPoison (s : State) (k : Nat) (f : SysRegs → SysRegs) : (modSys s k f).lsPoison = s.lsPoison := rfl
@[simp] theorem modSys_coreCells (s : State) (k : Nat) (f : SysRegs → SysRegs) : (modSys s k f).coreCells = s.coreCells := rfl
@[simp] theorem modSys_wbCells (s : State) (k : Nat) (f : SysRegs → SysRegs) : (modSys s k f).wbCells = s.wbCells := rfl
@[simp] theorem modSys_wbWaits (s : State) (k : Nat) (f : SysRegs → SysRegs) : (modSys s k f).wbWaits = s.wbWaits := rfl
@[simp] theorem modSys_watches (s : State) (k : Nat) (f : SysRegs → SysRegs) : (modSys s k f).watches = s.watches := rfl
@[simp] theorem modSys_locks (s : State) (k : Nat) (f : SysRegs → SysRegs) : (modSys s k f).locks = s.locks := rfl
@[simp] theorem modSys_hbmStacks (s : State) (k : Nat) (f : SysRegs → SysRegs) : (modSys s k f).hbmStacks = s.hbmStacks := rfl
@[simp] theorem modSys_skip (s : State) (k : Nat) (f : SysRegs → SysRegs) : (modSys s k f).skip = s.skip := rfl
@[simp] theorem modSys_mesh (s : State) (k : Nat) (f : SysRegs → SysRegs) : (modSys s k f).mesh = s.mesh := rfl
@[simp] theorem modSys_inbox (s : State) (k : Nat) (f : SysRegs → SysRegs) : (modSys s k f).inbox = s.inbox := rfl
@[simp] theorem modSys_ctxs (s : State) (k : Nat) (f : SysRegs → SysRegs) : (modSys s k f).ctxs = s.ctxs := rfl
@[simp] theorem modSys_rings (s : State) (k : Nat) (f : SysRegs → SysRegs) : (modSys s k f).rings = s.rings := rfl
@[simp] theorem modSys_evrings (s : State) (k : Nat) (f : SysRegs → SysRegs) : (modSys s k f).evrings = s.evrings := rfl
@[simp] theorem modSys_seqs (s : State) (k : Nat) (f : SysRegs → SysRegs) : (modSys s k f).seqs = s.seqs := rfl
@[simp] theorem modSys_launches (s : State) (k : Nat) (f : SysRegs → SysRegs) : (modSys s k f).launches = s.launches := rfl
@[simp] theorem modSys_regions (s : State) (k : Nat) (f : SysRegs → SysRegs) : (modSys s k f).regions = s.regions := rfl
@[simp] theorem modSys_pageReqs (s : State) (k : Nat) (f : SysRegs → SysRegs) : (modSys s k f).pageReqs = s.pageReqs := rfl
@[simp] theorem modSys_slots (s : State) (k : Nat) (f : SysRegs → SysRegs) : (modSys s k f).slots = s.slots := rfl
@[simp] theorem modSys_ports (s : State) (k : Nat) (f : SysRegs → SysRegs) : (modSys s k f).ports = s.ports := rfl
@[simp] theorem modSys_links (s : State) (k : Nat) (f : SysRegs → SysRegs) : (modSys s k f).links = s.links := rfl
@[simp] theorem modSys_units (s : State) (k : Nat) (f : SysRegs → SysRegs) : (modSys s k f).units = s.units := rfl
@[simp] theorem modSys_hostMem (s : State) (k : Nat) (f : SysRegs → SysRegs) : (modSys s k f).hostMem = s.hostMem := rfl
@[simp] theorem modSys_hostPoison (s : State) (k : Nat) (f : SysRegs → SysRegs) : (modSys s k f).hostPoison = s.hostPoison := rfl
@[simp] theorem modSys_flash (s : State) (k : Nat) (f : SysRegs → SysRegs) : (modSys s k f).flash = s.flash := rfl
@[simp] theorem modSys_fuses (s : State) (k : Nat) (f : SysRegs → SysRegs) : (modSys s k f).fuses = s.fuses := rfl
@[simp] theorem modSys_gov (s : State) (k : Nat) (f : SysRegs → SysRegs) : (modSys s k f).gov = s.gov := rfl
@[simp] theorem modSys_dev (s : State) (k : Nat) (f : SysRegs → SysRegs) : (modSys s k f).dev = s.dev := rfl
@[simp] theorem modSys_nextMsg (s : State) (k : Nat) (f : SysRegs → SysRegs) : (modSys s k f).nextMsg = s.nextMsg := rfl
@[simp] theorem modSys_fresh (s : State) (k : Nat) (f : SysRegs → SysRegs) : (modSys s k f).fresh = s.fresh := rfl
@[simp] theorem modSys_tick (s : State) (k : Nat) (f : SysRegs → SysRegs) : (modSys s k f).tick = s.tick := rfl
@[simp] theorem modSys_pending (s : State) (k : Nat) (f : SysRegs → SysRegs) : (modSys s k f).pending = s.pending := rfl

/-! ### modCore -/

@[simp] theorem modCore_threads (s : State) (c : Nat) (f : Core → Core) : (modCore s c f).threads = s.threads := rfl
@[simp] theorem modCore_nodes (s : State) (c : Nat) (f : Core → Core) : (modCore s c f).nodes = s.nodes := rfl
@[simp] theorem modCore_benches (s : State) (c : Nat) (f : Core → Core) : (modCore s c f).benches = s.benches := rfl
@[simp] theorem modCore_hbm (s : State) (c : Nat) (f : Core → Core) : (modCore s c f).hbm = s.hbm := rfl
@[simp] theorem modCore_hbmPoison (s : State) (c : Nat) (f : Core → Core) : (modCore s c f).hbmPoison = s.hbmPoison := rfl
@[simp] theorem modCore_ls (s : State) (c : Nat) (f : Core → Core) : (modCore s c f).ls = s.ls := rfl
@[simp] theorem modCore_lsPoison (s : State) (c : Nat) (f : Core → Core) : (modCore s c f).lsPoison = s.lsPoison := rfl
@[simp] theorem modCore_coreCells (s : State) (c : Nat) (f : Core → Core) : (modCore s c f).coreCells = s.coreCells := rfl
@[simp] theorem modCore_wbCells (s : State) (c : Nat) (f : Core → Core) : (modCore s c f).wbCells = s.wbCells := rfl
@[simp] theorem modCore_wbWaits (s : State) (c : Nat) (f : Core → Core) : (modCore s c f).wbWaits = s.wbWaits := rfl
@[simp] theorem modCore_watches (s : State) (c : Nat) (f : Core → Core) : (modCore s c f).watches = s.watches := rfl
@[simp] theorem modCore_locks (s : State) (c : Nat) (f : Core → Core) : (modCore s c f).locks = s.locks := rfl
@[simp] theorem modCore_hbmStacks (s : State) (c : Nat) (f : Core → Core) : (modCore s c f).hbmStacks = s.hbmStacks := rfl
@[simp] theorem modCore_skip (s : State) (c : Nat) (f : Core → Core) : (modCore s c f).skip = s.skip := rfl
@[simp] theorem modCore_mesh (s : State) (c : Nat) (f : Core → Core) : (modCore s c f).mesh = s.mesh := rfl
@[simp] theorem modCore_inbox (s : State) (c : Nat) (f : Core → Core) : (modCore s c f).inbox = s.inbox := rfl
@[simp] theorem modCore_ctxs (s : State) (c : Nat) (f : Core → Core) : (modCore s c f).ctxs = s.ctxs := rfl
@[simp] theorem modCore_rings (s : State) (c : Nat) (f : Core → Core) : (modCore s c f).rings = s.rings := rfl
@[simp] theorem modCore_evrings (s : State) (c : Nat) (f : Core → Core) : (modCore s c f).evrings = s.evrings := rfl
@[simp] theorem modCore_seqs (s : State) (c : Nat) (f : Core → Core) : (modCore s c f).seqs = s.seqs := rfl
@[simp] theorem modCore_launches (s : State) (c : Nat) (f : Core → Core) : (modCore s c f).launches = s.launches := rfl
@[simp] theorem modCore_regions (s : State) (c : Nat) (f : Core → Core) : (modCore s c f).regions = s.regions := rfl
@[simp] theorem modCore_pageReqs (s : State) (c : Nat) (f : Core → Core) : (modCore s c f).pageReqs = s.pageReqs := rfl
@[simp] theorem modCore_slots (s : State) (c : Nat) (f : Core → Core) : (modCore s c f).slots = s.slots := rfl
@[simp] theorem modCore_ports (s : State) (c : Nat) (f : Core → Core) : (modCore s c f).ports = s.ports := rfl
@[simp] theorem modCore_links (s : State) (c : Nat) (f : Core → Core) : (modCore s c f).links = s.links := rfl
@[simp] theorem modCore_units (s : State) (c : Nat) (f : Core → Core) : (modCore s c f).units = s.units := rfl
@[simp] theorem modCore_hostMem (s : State) (c : Nat) (f : Core → Core) : (modCore s c f).hostMem = s.hostMem := rfl
@[simp] theorem modCore_hostPoison (s : State) (c : Nat) (f : Core → Core) : (modCore s c f).hostPoison = s.hostPoison := rfl
@[simp] theorem modCore_flash (s : State) (c : Nat) (f : Core → Core) : (modCore s c f).flash = s.flash := rfl
@[simp] theorem modCore_fuses (s : State) (c : Nat) (f : Core → Core) : (modCore s c f).fuses = s.fuses := rfl
@[simp] theorem modCore_gov (s : State) (c : Nat) (f : Core → Core) : (modCore s c f).gov = s.gov := rfl
@[simp] theorem modCore_dev (s : State) (c : Nat) (f : Core → Core) : (modCore s c f).dev = s.dev := rfl
@[simp] theorem modCore_nextMsg (s : State) (c : Nat) (f : Core → Core) : (modCore s c f).nextMsg = s.nextMsg := rfl
@[simp] theorem modCore_fresh (s : State) (c : Nat) (f : Core → Core) : (modCore s c f).fresh = s.fresh := rfl
@[simp] theorem modCore_tick (s : State) (c : Nat) (f : Core → Core) : (modCore s c f).tick = s.tick := rfl
@[simp] theorem modCore_pending (s : State) (c : Nat) (f : Core → Core) : (modCore s c f).pending = s.pending := rfl

/-! ### modNode -/

@[simp] theorem modNode_threads (s : State) (n : Nat) (f : Node → Node) : (modNode s n f).threads = s.threads := rfl
@[simp] theorem modNode_cores (s : State) (n : Nat) (f : Node → Node) : (modNode s n f).cores = s.cores := rfl
@[simp] theorem modNode_benches (s : State) (n : Nat) (f : Node → Node) : (modNode s n f).benches = s.benches := rfl
@[simp] theorem modNode_hbm (s : State) (n : Nat) (f : Node → Node) : (modNode s n f).hbm = s.hbm := rfl
@[simp] theorem modNode_hbmPoison (s : State) (n : Nat) (f : Node → Node) : (modNode s n f).hbmPoison = s.hbmPoison := rfl
@[simp] theorem modNode_ls (s : State) (n : Nat) (f : Node → Node) : (modNode s n f).ls = s.ls := rfl
@[simp] theorem modNode_lsPoison (s : State) (n : Nat) (f : Node → Node) : (modNode s n f).lsPoison = s.lsPoison := rfl
@[simp] theorem modNode_coreCells (s : State) (n : Nat) (f : Node → Node) : (modNode s n f).coreCells = s.coreCells := rfl
@[simp] theorem modNode_wbCells (s : State) (n : Nat) (f : Node → Node) : (modNode s n f).wbCells = s.wbCells := rfl
@[simp] theorem modNode_wbWaits (s : State) (n : Nat) (f : Node → Node) : (modNode s n f).wbWaits = s.wbWaits := rfl
@[simp] theorem modNode_watches (s : State) (n : Nat) (f : Node → Node) : (modNode s n f).watches = s.watches := rfl
@[simp] theorem modNode_locks (s : State) (n : Nat) (f : Node → Node) : (modNode s n f).locks = s.locks := rfl
@[simp] theorem modNode_hbmStacks (s : State) (n : Nat) (f : Node → Node) : (modNode s n f).hbmStacks = s.hbmStacks := rfl
@[simp] theorem modNode_skip (s : State) (n : Nat) (f : Node → Node) : (modNode s n f).skip = s.skip := rfl
@[simp] theorem modNode_mesh (s : State) (n : Nat) (f : Node → Node) : (modNode s n f).mesh = s.mesh := rfl
@[simp] theorem modNode_inbox (s : State) (n : Nat) (f : Node → Node) : (modNode s n f).inbox = s.inbox := rfl
@[simp] theorem modNode_ctxs (s : State) (n : Nat) (f : Node → Node) : (modNode s n f).ctxs = s.ctxs := rfl
@[simp] theorem modNode_rings (s : State) (n : Nat) (f : Node → Node) : (modNode s n f).rings = s.rings := rfl
@[simp] theorem modNode_evrings (s : State) (n : Nat) (f : Node → Node) : (modNode s n f).evrings = s.evrings := rfl
@[simp] theorem modNode_seqs (s : State) (n : Nat) (f : Node → Node) : (modNode s n f).seqs = s.seqs := rfl
@[simp] theorem modNode_launches (s : State) (n : Nat) (f : Node → Node) : (modNode s n f).launches = s.launches := rfl
@[simp] theorem modNode_regions (s : State) (n : Nat) (f : Node → Node) : (modNode s n f).regions = s.regions := rfl
@[simp] theorem modNode_pageReqs (s : State) (n : Nat) (f : Node → Node) : (modNode s n f).pageReqs = s.pageReqs := rfl
@[simp] theorem modNode_slots (s : State) (n : Nat) (f : Node → Node) : (modNode s n f).slots = s.slots := rfl
@[simp] theorem modNode_ports (s : State) (n : Nat) (f : Node → Node) : (modNode s n f).ports = s.ports := rfl
@[simp] theorem modNode_links (s : State) (n : Nat) (f : Node → Node) : (modNode s n f).links = s.links := rfl
@[simp] theorem modNode_units (s : State) (n : Nat) (f : Node → Node) : (modNode s n f).units = s.units := rfl
@[simp] theorem modNode_hostMem (s : State) (n : Nat) (f : Node → Node) : (modNode s n f).hostMem = s.hostMem := rfl
@[simp] theorem modNode_hostPoison (s : State) (n : Nat) (f : Node → Node) : (modNode s n f).hostPoison = s.hostPoison := rfl
@[simp] theorem modNode_flash (s : State) (n : Nat) (f : Node → Node) : (modNode s n f).flash = s.flash := rfl
@[simp] theorem modNode_fuses (s : State) (n : Nat) (f : Node → Node) : (modNode s n f).fuses = s.fuses := rfl
@[simp] theorem modNode_gov (s : State) (n : Nat) (f : Node → Node) : (modNode s n f).gov = s.gov := rfl
@[simp] theorem modNode_dev (s : State) (n : Nat) (f : Node → Node) : (modNode s n f).dev = s.dev := rfl
@[simp] theorem modNode_nextMsg (s : State) (n : Nat) (f : Node → Node) : (modNode s n f).nextMsg = s.nextMsg := rfl
@[simp] theorem modNode_fresh (s : State) (n : Nat) (f : Node → Node) : (modNode s n f).fresh = s.fresh := rfl
@[simp] theorem modNode_tick (s : State) (n : Nat) (f : Node → Node) : (modNode s n f).tick = s.tick := rfl
@[simp] theorem modNode_pending (s : State) (n : Nat) (f : Node → Node) : (modNode s n f).pending = s.pending := rfl

/-! ### modBench -/

@[simp] theorem modBench_threads (s : State) (n : Nat) (f : Bench → Bench) : (modBench s n f).threads = s.threads := rfl
@[simp] theorem modBench_cores (s : State) (n : Nat) (f : Bench → Bench) : (modBench s n f).cores = s.cores := rfl
@[simp] theorem modBench_nodes (s : State) (n : Nat) (f : Bench → Bench) : (modBench s n f).nodes = s.nodes := rfl
@[simp] theorem modBench_hbm (s : State) (n : Nat) (f : Bench → Bench) : (modBench s n f).hbm = s.hbm := rfl
@[simp] theorem modBench_hbmPoison (s : State) (n : Nat) (f : Bench → Bench) : (modBench s n f).hbmPoison = s.hbmPoison := rfl
@[simp] theorem modBench_ls (s : State) (n : Nat) (f : Bench → Bench) : (modBench s n f).ls = s.ls := rfl
@[simp] theorem modBench_lsPoison (s : State) (n : Nat) (f : Bench → Bench) : (modBench s n f).lsPoison = s.lsPoison := rfl
@[simp] theorem modBench_coreCells (s : State) (n : Nat) (f : Bench → Bench) : (modBench s n f).coreCells = s.coreCells := rfl
@[simp] theorem modBench_wbCells (s : State) (n : Nat) (f : Bench → Bench) : (modBench s n f).wbCells = s.wbCells := rfl
@[simp] theorem modBench_wbWaits (s : State) (n : Nat) (f : Bench → Bench) : (modBench s n f).wbWaits = s.wbWaits := rfl
@[simp] theorem modBench_watches (s : State) (n : Nat) (f : Bench → Bench) : (modBench s n f).watches = s.watches := rfl
@[simp] theorem modBench_locks (s : State) (n : Nat) (f : Bench → Bench) : (modBench s n f).locks = s.locks := rfl
@[simp] theorem modBench_hbmStacks (s : State) (n : Nat) (f : Bench → Bench) : (modBench s n f).hbmStacks = s.hbmStacks := rfl
@[simp] theorem modBench_skip (s : State) (n : Nat) (f : Bench → Bench) : (modBench s n f).skip = s.skip := rfl
@[simp] theorem modBench_mesh (s : State) (n : Nat) (f : Bench → Bench) : (modBench s n f).mesh = s.mesh := rfl
@[simp] theorem modBench_inbox (s : State) (n : Nat) (f : Bench → Bench) : (modBench s n f).inbox = s.inbox := rfl
@[simp] theorem modBench_ctxs (s : State) (n : Nat) (f : Bench → Bench) : (modBench s n f).ctxs = s.ctxs := rfl
@[simp] theorem modBench_rings (s : State) (n : Nat) (f : Bench → Bench) : (modBench s n f).rings = s.rings := rfl
@[simp] theorem modBench_evrings (s : State) (n : Nat) (f : Bench → Bench) : (modBench s n f).evrings = s.evrings := rfl
@[simp] theorem modBench_seqs (s : State) (n : Nat) (f : Bench → Bench) : (modBench s n f).seqs = s.seqs := rfl
@[simp] theorem modBench_launches (s : State) (n : Nat) (f : Bench → Bench) : (modBench s n f).launches = s.launches := rfl
@[simp] theorem modBench_regions (s : State) (n : Nat) (f : Bench → Bench) : (modBench s n f).regions = s.regions := rfl
@[simp] theorem modBench_pageReqs (s : State) (n : Nat) (f : Bench → Bench) : (modBench s n f).pageReqs = s.pageReqs := rfl
@[simp] theorem modBench_slots (s : State) (n : Nat) (f : Bench → Bench) : (modBench s n f).slots = s.slots := rfl
@[simp] theorem modBench_ports (s : State) (n : Nat) (f : Bench → Bench) : (modBench s n f).ports = s.ports := rfl
@[simp] theorem modBench_links (s : State) (n : Nat) (f : Bench → Bench) : (modBench s n f).links = s.links := rfl
@[simp] theorem modBench_units (s : State) (n : Nat) (f : Bench → Bench) : (modBench s n f).units = s.units := rfl
@[simp] theorem modBench_hostMem (s : State) (n : Nat) (f : Bench → Bench) : (modBench s n f).hostMem = s.hostMem := rfl
@[simp] theorem modBench_hostPoison (s : State) (n : Nat) (f : Bench → Bench) : (modBench s n f).hostPoison = s.hostPoison := rfl
@[simp] theorem modBench_flash (s : State) (n : Nat) (f : Bench → Bench) : (modBench s n f).flash = s.flash := rfl
@[simp] theorem modBench_fuses (s : State) (n : Nat) (f : Bench → Bench) : (modBench s n f).fuses = s.fuses := rfl
@[simp] theorem modBench_gov (s : State) (n : Nat) (f : Bench → Bench) : (modBench s n f).gov = s.gov := rfl
@[simp] theorem modBench_dev (s : State) (n : Nat) (f : Bench → Bench) : (modBench s n f).dev = s.dev := rfl
@[simp] theorem modBench_nextMsg (s : State) (n : Nat) (f : Bench → Bench) : (modBench s n f).nextMsg = s.nextMsg := rfl
@[simp] theorem modBench_fresh (s : State) (n : Nat) (f : Bench → Bench) : (modBench s n f).fresh = s.fresh := rfl
@[simp] theorem modBench_tick (s : State) (n : Nat) (f : Bench → Bench) : (modBench s n f).tick = s.tick := rfl
@[simp] theorem modBench_pending (s : State) (n : Nat) (f : Bench → Bench) : (modBench s n f).pending = s.pending := rfl

/-! ### modHaul -/

@[simp] theorem modHaul_threads (s : State) (n c : Nat) (f : HaulCh → HaulCh) : (modHaul s n c f).threads = s.threads := rfl
@[simp] theorem modHaul_cores (s : State) (n c : Nat) (f : HaulCh → HaulCh) : (modHaul s n c f).cores = s.cores := rfl
@[simp] theorem modHaul_nodes (s : State) (n c : Nat) (f : HaulCh → HaulCh) : (modHaul s n c f).nodes = s.nodes := rfl
@[simp] theorem modHaul_hbm (s : State) (n c : Nat) (f : HaulCh → HaulCh) : (modHaul s n c f).hbm = s.hbm := rfl
@[simp] theorem modHaul_hbmPoison (s : State) (n c : Nat) (f : HaulCh → HaulCh) : (modHaul s n c f).hbmPoison = s.hbmPoison := rfl
@[simp] theorem modHaul_ls (s : State) (n c : Nat) (f : HaulCh → HaulCh) : (modHaul s n c f).ls = s.ls := rfl
@[simp] theorem modHaul_lsPoison (s : State) (n c : Nat) (f : HaulCh → HaulCh) : (modHaul s n c f).lsPoison = s.lsPoison := rfl
@[simp] theorem modHaul_coreCells (s : State) (n c : Nat) (f : HaulCh → HaulCh) : (modHaul s n c f).coreCells = s.coreCells := rfl
@[simp] theorem modHaul_wbCells (s : State) (n c : Nat) (f : HaulCh → HaulCh) : (modHaul s n c f).wbCells = s.wbCells := rfl
@[simp] theorem modHaul_wbWaits (s : State) (n c : Nat) (f : HaulCh → HaulCh) : (modHaul s n c f).wbWaits = s.wbWaits := rfl
@[simp] theorem modHaul_watches (s : State) (n c : Nat) (f : HaulCh → HaulCh) : (modHaul s n c f).watches = s.watches := rfl
@[simp] theorem modHaul_locks (s : State) (n c : Nat) (f : HaulCh → HaulCh) : (modHaul s n c f).locks = s.locks := rfl
@[simp] theorem modHaul_hbmStacks (s : State) (n c : Nat) (f : HaulCh → HaulCh) : (modHaul s n c f).hbmStacks = s.hbmStacks := rfl
@[simp] theorem modHaul_skip (s : State) (n c : Nat) (f : HaulCh → HaulCh) : (modHaul s n c f).skip = s.skip := rfl
@[simp] theorem modHaul_mesh (s : State) (n c : Nat) (f : HaulCh → HaulCh) : (modHaul s n c f).mesh = s.mesh := rfl
@[simp] theorem modHaul_inbox (s : State) (n c : Nat) (f : HaulCh → HaulCh) : (modHaul s n c f).inbox = s.inbox := rfl
@[simp] theorem modHaul_ctxs (s : State) (n c : Nat) (f : HaulCh → HaulCh) : (modHaul s n c f).ctxs = s.ctxs := rfl
@[simp] theorem modHaul_rings (s : State) (n c : Nat) (f : HaulCh → HaulCh) : (modHaul s n c f).rings = s.rings := rfl
@[simp] theorem modHaul_evrings (s : State) (n c : Nat) (f : HaulCh → HaulCh) : (modHaul s n c f).evrings = s.evrings := rfl
@[simp] theorem modHaul_seqs (s : State) (n c : Nat) (f : HaulCh → HaulCh) : (modHaul s n c f).seqs = s.seqs := rfl
@[simp] theorem modHaul_launches (s : State) (n c : Nat) (f : HaulCh → HaulCh) : (modHaul s n c f).launches = s.launches := rfl
@[simp] theorem modHaul_regions (s : State) (n c : Nat) (f : HaulCh → HaulCh) : (modHaul s n c f).regions = s.regions := rfl
@[simp] theorem modHaul_pageReqs (s : State) (n c : Nat) (f : HaulCh → HaulCh) : (modHaul s n c f).pageReqs = s.pageReqs := rfl
@[simp] theorem modHaul_slots (s : State) (n c : Nat) (f : HaulCh → HaulCh) : (modHaul s n c f).slots = s.slots := rfl
@[simp] theorem modHaul_ports (s : State) (n c : Nat) (f : HaulCh → HaulCh) : (modHaul s n c f).ports = s.ports := rfl
@[simp] theorem modHaul_links (s : State) (n c : Nat) (f : HaulCh → HaulCh) : (modHaul s n c f).links = s.links := rfl
@[simp] theorem modHaul_units (s : State) (n c : Nat) (f : HaulCh → HaulCh) : (modHaul s n c f).units = s.units := rfl
@[simp] theorem modHaul_hostMem (s : State) (n c : Nat) (f : HaulCh → HaulCh) : (modHaul s n c f).hostMem = s.hostMem := rfl
@[simp] theorem modHaul_hostPoison (s : State) (n c : Nat) (f : HaulCh → HaulCh) : (modHaul s n c f).hostPoison = s.hostPoison := rfl
@[simp] theorem modHaul_flash (s : State) (n c : Nat) (f : HaulCh → HaulCh) : (modHaul s n c f).flash = s.flash := rfl
@[simp] theorem modHaul_fuses (s : State) (n c : Nat) (f : HaulCh → HaulCh) : (modHaul s n c f).fuses = s.fuses := rfl
@[simp] theorem modHaul_gov (s : State) (n c : Nat) (f : HaulCh → HaulCh) : (modHaul s n c f).gov = s.gov := rfl
@[simp] theorem modHaul_dev (s : State) (n c : Nat) (f : HaulCh → HaulCh) : (modHaul s n c f).dev = s.dev := rfl
@[simp] theorem modHaul_nextMsg (s : State) (n c : Nat) (f : HaulCh → HaulCh) : (modHaul s n c f).nextMsg = s.nextMsg := rfl
@[simp] theorem modHaul_fresh (s : State) (n c : Nat) (f : HaulCh → HaulCh) : (modHaul s n c f).fresh = s.fresh := rfl
@[simp] theorem modHaul_tick (s : State) (n c : Nat) (f : HaulCh → HaulCh) : (modHaul s n c f).tick = s.tick := rfl
@[simp] theorem modHaul_pending (s : State) (n c : Nat) (f : HaulCh → HaulCh) : (modHaul s n c f).pending = s.pending := rfl

/-! ### modQueue -/

@[simp] theorem modQueue_threads (s : State) (n q : Nat) (f : SQueue → SQueue) : (modQueue s n q f).threads = s.threads := rfl
@[simp] theorem modQueue_cores (s : State) (n q : Nat) (f : SQueue → SQueue) : (modQueue s n q f).cores = s.cores := rfl
@[simp] theorem modQueue_nodes (s : State) (n q : Nat) (f : SQueue → SQueue) : (modQueue s n q f).nodes = s.nodes := rfl
@[simp] theorem modQueue_hbm (s : State) (n q : Nat) (f : SQueue → SQueue) : (modQueue s n q f).hbm = s.hbm := rfl
@[simp] theorem modQueue_hbmPoison (s : State) (n q : Nat) (f : SQueue → SQueue) : (modQueue s n q f).hbmPoison = s.hbmPoison := rfl
@[simp] theorem modQueue_ls (s : State) (n q : Nat) (f : SQueue → SQueue) : (modQueue s n q f).ls = s.ls := rfl
@[simp] theorem modQueue_lsPoison (s : State) (n q : Nat) (f : SQueue → SQueue) : (modQueue s n q f).lsPoison = s.lsPoison := rfl
@[simp] theorem modQueue_coreCells (s : State) (n q : Nat) (f : SQueue → SQueue) : (modQueue s n q f).coreCells = s.coreCells := rfl
@[simp] theorem modQueue_wbCells (s : State) (n q : Nat) (f : SQueue → SQueue) : (modQueue s n q f).wbCells = s.wbCells := rfl
@[simp] theorem modQueue_wbWaits (s : State) (n q : Nat) (f : SQueue → SQueue) : (modQueue s n q f).wbWaits = s.wbWaits := rfl
@[simp] theorem modQueue_watches (s : State) (n q : Nat) (f : SQueue → SQueue) : (modQueue s n q f).watches = s.watches := rfl
@[simp] theorem modQueue_locks (s : State) (n q : Nat) (f : SQueue → SQueue) : (modQueue s n q f).locks = s.locks := rfl
@[simp] theorem modQueue_hbmStacks (s : State) (n q : Nat) (f : SQueue → SQueue) : (modQueue s n q f).hbmStacks = s.hbmStacks := rfl
@[simp] theorem modQueue_skip (s : State) (n q : Nat) (f : SQueue → SQueue) : (modQueue s n q f).skip = s.skip := rfl
@[simp] theorem modQueue_mesh (s : State) (n q : Nat) (f : SQueue → SQueue) : (modQueue s n q f).mesh = s.mesh := rfl
@[simp] theorem modQueue_inbox (s : State) (n q : Nat) (f : SQueue → SQueue) : (modQueue s n q f).inbox = s.inbox := rfl
@[simp] theorem modQueue_ctxs (s : State) (n q : Nat) (f : SQueue → SQueue) : (modQueue s n q f).ctxs = s.ctxs := rfl
@[simp] theorem modQueue_rings (s : State) (n q : Nat) (f : SQueue → SQueue) : (modQueue s n q f).rings = s.rings := rfl
@[simp] theorem modQueue_evrings (s : State) (n q : Nat) (f : SQueue → SQueue) : (modQueue s n q f).evrings = s.evrings := rfl
@[simp] theorem modQueue_seqs (s : State) (n q : Nat) (f : SQueue → SQueue) : (modQueue s n q f).seqs = s.seqs := rfl
@[simp] theorem modQueue_launches (s : State) (n q : Nat) (f : SQueue → SQueue) : (modQueue s n q f).launches = s.launches := rfl
@[simp] theorem modQueue_regions (s : State) (n q : Nat) (f : SQueue → SQueue) : (modQueue s n q f).regions = s.regions := rfl
@[simp] theorem modQueue_pageReqs (s : State) (n q : Nat) (f : SQueue → SQueue) : (modQueue s n q f).pageReqs = s.pageReqs := rfl
@[simp] theorem modQueue_slots (s : State) (n q : Nat) (f : SQueue → SQueue) : (modQueue s n q f).slots = s.slots := rfl
@[simp] theorem modQueue_ports (s : State) (n q : Nat) (f : SQueue → SQueue) : (modQueue s n q f).ports = s.ports := rfl
@[simp] theorem modQueue_links (s : State) (n q : Nat) (f : SQueue → SQueue) : (modQueue s n q f).links = s.links := rfl
@[simp] theorem modQueue_units (s : State) (n q : Nat) (f : SQueue → SQueue) : (modQueue s n q f).units = s.units := rfl
@[simp] theorem modQueue_hostMem (s : State) (n q : Nat) (f : SQueue → SQueue) : (modQueue s n q f).hostMem = s.hostMem := rfl
@[simp] theorem modQueue_hostPoison (s : State) (n q : Nat) (f : SQueue → SQueue) : (modQueue s n q f).hostPoison = s.hostPoison := rfl
@[simp] theorem modQueue_flash (s : State) (n q : Nat) (f : SQueue → SQueue) : (modQueue s n q f).flash = s.flash := rfl
@[simp] theorem modQueue_fuses (s : State) (n q : Nat) (f : SQueue → SQueue) : (modQueue s n q f).fuses = s.fuses := rfl
@[simp] theorem modQueue_gov (s : State) (n q : Nat) (f : SQueue → SQueue) : (modQueue s n q f).gov = s.gov := rfl
@[simp] theorem modQueue_dev (s : State) (n q : Nat) (f : SQueue → SQueue) : (modQueue s n q f).dev = s.dev := rfl
@[simp] theorem modQueue_nextMsg (s : State) (n q : Nat) (f : SQueue → SQueue) : (modQueue s n q f).nextMsg = s.nextMsg := rfl
@[simp] theorem modQueue_fresh (s : State) (n q : Nat) (f : SQueue → SQueue) : (modQueue s n q f).fresh = s.fresh := rfl
@[simp] theorem modQueue_tick (s : State) (n q : Nat) (f : SQueue → SQueue) : (modQueue s n q f).tick = s.tick := rfl
@[simp] theorem modQueue_pending (s : State) (n q : Nat) (f : SQueue → SQueue) : (modQueue s n q f).pending = s.pending := rfl

/-! ### modPort -/

@[simp] theorem modPort_threads (s : State) (p : Nat) (f : Port → Port) : (modPort s p f).threads = s.threads := rfl
@[simp] theorem modPort_cores (s : State) (p : Nat) (f : Port → Port) : (modPort s p f).cores = s.cores := rfl
@[simp] theorem modPort_nodes (s : State) (p : Nat) (f : Port → Port) : (modPort s p f).nodes = s.nodes := rfl
@[simp] theorem modPort_benches (s : State) (p : Nat) (f : Port → Port) : (modPort s p f).benches = s.benches := rfl
@[simp] theorem modPort_hbm (s : State) (p : Nat) (f : Port → Port) : (modPort s p f).hbm = s.hbm := rfl
@[simp] theorem modPort_hbmPoison (s : State) (p : Nat) (f : Port → Port) : (modPort s p f).hbmPoison = s.hbmPoison := rfl
@[simp] theorem modPort_ls (s : State) (p : Nat) (f : Port → Port) : (modPort s p f).ls = s.ls := rfl
@[simp] theorem modPort_lsPoison (s : State) (p : Nat) (f : Port → Port) : (modPort s p f).lsPoison = s.lsPoison := rfl
@[simp] theorem modPort_coreCells (s : State) (p : Nat) (f : Port → Port) : (modPort s p f).coreCells = s.coreCells := rfl
@[simp] theorem modPort_wbCells (s : State) (p : Nat) (f : Port → Port) : (modPort s p f).wbCells = s.wbCells := rfl
@[simp] theorem modPort_wbWaits (s : State) (p : Nat) (f : Port → Port) : (modPort s p f).wbWaits = s.wbWaits := rfl
@[simp] theorem modPort_watches (s : State) (p : Nat) (f : Port → Port) : (modPort s p f).watches = s.watches := rfl
@[simp] theorem modPort_locks (s : State) (p : Nat) (f : Port → Port) : (modPort s p f).locks = s.locks := rfl
@[simp] theorem modPort_hbmStacks (s : State) (p : Nat) (f : Port → Port) : (modPort s p f).hbmStacks = s.hbmStacks := rfl
@[simp] theorem modPort_skip (s : State) (p : Nat) (f : Port → Port) : (modPort s p f).skip = s.skip := rfl
@[simp] theorem modPort_mesh (s : State) (p : Nat) (f : Port → Port) : (modPort s p f).mesh = s.mesh := rfl
@[simp] theorem modPort_inbox (s : State) (p : Nat) (f : Port → Port) : (modPort s p f).inbox = s.inbox := rfl
@[simp] theorem modPort_ctxs (s : State) (p : Nat) (f : Port → Port) : (modPort s p f).ctxs = s.ctxs := rfl
@[simp] theorem modPort_rings (s : State) (p : Nat) (f : Port → Port) : (modPort s p f).rings = s.rings := rfl
@[simp] theorem modPort_evrings (s : State) (p : Nat) (f : Port → Port) : (modPort s p f).evrings = s.evrings := rfl
@[simp] theorem modPort_seqs (s : State) (p : Nat) (f : Port → Port) : (modPort s p f).seqs = s.seqs := rfl
@[simp] theorem modPort_launches (s : State) (p : Nat) (f : Port → Port) : (modPort s p f).launches = s.launches := rfl
@[simp] theorem modPort_regions (s : State) (p : Nat) (f : Port → Port) : (modPort s p f).regions = s.regions := rfl
@[simp] theorem modPort_pageReqs (s : State) (p : Nat) (f : Port → Port) : (modPort s p f).pageReqs = s.pageReqs := rfl
@[simp] theorem modPort_slots (s : State) (p : Nat) (f : Port → Port) : (modPort s p f).slots = s.slots := rfl
@[simp] theorem modPort_links (s : State) (p : Nat) (f : Port → Port) : (modPort s p f).links = s.links := rfl
@[simp] theorem modPort_units (s : State) (p : Nat) (f : Port → Port) : (modPort s p f).units = s.units := rfl
@[simp] theorem modPort_hostMem (s : State) (p : Nat) (f : Port → Port) : (modPort s p f).hostMem = s.hostMem := rfl
@[simp] theorem modPort_hostPoison (s : State) (p : Nat) (f : Port → Port) : (modPort s p f).hostPoison = s.hostPoison := rfl
@[simp] theorem modPort_flash (s : State) (p : Nat) (f : Port → Port) : (modPort s p f).flash = s.flash := rfl
@[simp] theorem modPort_fuses (s : State) (p : Nat) (f : Port → Port) : (modPort s p f).fuses = s.fuses := rfl
@[simp] theorem modPort_gov (s : State) (p : Nat) (f : Port → Port) : (modPort s p f).gov = s.gov := rfl
@[simp] theorem modPort_dev (s : State) (p : Nat) (f : Port → Port) : (modPort s p f).dev = s.dev := rfl
@[simp] theorem modPort_nextMsg (s : State) (p : Nat) (f : Port → Port) : (modPort s p f).nextMsg = s.nextMsg := rfl
@[simp] theorem modPort_fresh (s : State) (p : Nat) (f : Port → Port) : (modPort s p f).fresh = s.fresh := rfl
@[simp] theorem modPort_tick (s : State) (p : Nat) (f : Port → Port) : (modPort s p f).tick = s.tick := rfl
@[simp] theorem modPort_pending (s : State) (p : Nat) (f : Port → Port) : (modPort s p f).pending = s.pending := rfl

/-! ### modLink -/

@[simp] theorem modLink_threads (s : State) (p : Nat) (f : Link → Link) : (modLink s p f).threads = s.threads := rfl
@[simp] theorem modLink_cores (s : State) (p : Nat) (f : Link → Link) : (modLink s p f).cores = s.cores := rfl
@[simp] theorem modLink_nodes (s : State) (p : Nat) (f : Link → Link) : (modLink s p f).nodes = s.nodes := rfl
@[simp] theorem modLink_benches (s : State) (p : Nat) (f : Link → Link) : (modLink s p f).benches = s.benches := rfl
@[simp] theorem modLink_hbm (s : State) (p : Nat) (f : Link → Link) : (modLink s p f).hbm = s.hbm := rfl
@[simp] theorem modLink_hbmPoison (s : State) (p : Nat) (f : Link → Link) : (modLink s p f).hbmPoison = s.hbmPoison := rfl
@[simp] theorem modLink_ls (s : State) (p : Nat) (f : Link → Link) : (modLink s p f).ls = s.ls := rfl
@[simp] theorem modLink_lsPoison (s : State) (p : Nat) (f : Link → Link) : (modLink s p f).lsPoison = s.lsPoison := rfl
@[simp] theorem modLink_coreCells (s : State) (p : Nat) (f : Link → Link) : (modLink s p f).coreCells = s.coreCells := rfl
@[simp] theorem modLink_wbCells (s : State) (p : Nat) (f : Link → Link) : (modLink s p f).wbCells = s.wbCells := rfl
@[simp] theorem modLink_wbWaits (s : State) (p : Nat) (f : Link → Link) : (modLink s p f).wbWaits = s.wbWaits := rfl
@[simp] theorem modLink_watches (s : State) (p : Nat) (f : Link → Link) : (modLink s p f).watches = s.watches := rfl
@[simp] theorem modLink_locks (s : State) (p : Nat) (f : Link → Link) : (modLink s p f).locks = s.locks := rfl
@[simp] theorem modLink_hbmStacks (s : State) (p : Nat) (f : Link → Link) : (modLink s p f).hbmStacks = s.hbmStacks := rfl
@[simp] theorem modLink_skip (s : State) (p : Nat) (f : Link → Link) : (modLink s p f).skip = s.skip := rfl
@[simp] theorem modLink_mesh (s : State) (p : Nat) (f : Link → Link) : (modLink s p f).mesh = s.mesh := rfl
@[simp] theorem modLink_inbox (s : State) (p : Nat) (f : Link → Link) : (modLink s p f).inbox = s.inbox := rfl
@[simp] theorem modLink_ctxs (s : State) (p : Nat) (f : Link → Link) : (modLink s p f).ctxs = s.ctxs := rfl
@[simp] theorem modLink_rings (s : State) (p : Nat) (f : Link → Link) : (modLink s p f).rings = s.rings := rfl
@[simp] theorem modLink_evrings (s : State) (p : Nat) (f : Link → Link) : (modLink s p f).evrings = s.evrings := rfl
@[simp] theorem modLink_seqs (s : State) (p : Nat) (f : Link → Link) : (modLink s p f).seqs = s.seqs := rfl
@[simp] theorem modLink_launches (s : State) (p : Nat) (f : Link → Link) : (modLink s p f).launches = s.launches := rfl
@[simp] theorem modLink_regions (s : State) (p : Nat) (f : Link → Link) : (modLink s p f).regions = s.regions := rfl
@[simp] theorem modLink_pageReqs (s : State) (p : Nat) (f : Link → Link) : (modLink s p f).pageReqs = s.pageReqs := rfl
@[simp] theorem modLink_slots (s : State) (p : Nat) (f : Link → Link) : (modLink s p f).slots = s.slots := rfl
@[simp] theorem modLink_ports (s : State) (p : Nat) (f : Link → Link) : (modLink s p f).ports = s.ports := rfl
@[simp] theorem modLink_units (s : State) (p : Nat) (f : Link → Link) : (modLink s p f).units = s.units := rfl
@[simp] theorem modLink_hostMem (s : State) (p : Nat) (f : Link → Link) : (modLink s p f).hostMem = s.hostMem := rfl
@[simp] theorem modLink_hostPoison (s : State) (p : Nat) (f : Link → Link) : (modLink s p f).hostPoison = s.hostPoison := rfl
@[simp] theorem modLink_flash (s : State) (p : Nat) (f : Link → Link) : (modLink s p f).flash = s.flash := rfl
@[simp] theorem modLink_fuses (s : State) (p : Nat) (f : Link → Link) : (modLink s p f).fuses = s.fuses := rfl
@[simp] theorem modLink_gov (s : State) (p : Nat) (f : Link → Link) : (modLink s p f).gov = s.gov := rfl
@[simp] theorem modLink_dev (s : State) (p : Nat) (f : Link → Link) : (modLink s p f).dev = s.dev := rfl
@[simp] theorem modLink_nextMsg (s : State) (p : Nat) (f : Link → Link) : (modLink s p f).nextMsg = s.nextMsg := rfl
@[simp] theorem modLink_fresh (s : State) (p : Nat) (f : Link → Link) : (modLink s p f).fresh = s.fresh := rfl
@[simp] theorem modLink_tick (s : State) (p : Nat) (f : Link → Link) : (modLink s p f).tick = s.tick := rfl
@[simp] theorem modLink_pending (s : State) (p : Nat) (f : Link → Link) : (modLink s p f).pending = s.pending := rfl

/-! ### modStack -/

@[simp] theorem modStack_threads (s : State) (n : Nat) (f : Stack → Stack) : (modStack s n f).threads = s.threads := rfl
@[simp] theorem modStack_cores (s : State) (n : Nat) (f : Stack → Stack) : (modStack s n f).cores = s.cores := rfl
@[simp] theorem modStack_nodes (s : State) (n : Nat) (f : Stack → Stack) : (modStack s n f).nodes = s.nodes := rfl
@[simp] theorem modStack_benches (s : State) (n : Nat) (f : Stack → Stack) : (modStack s n f).benches = s.benches := rfl
@[simp] theorem modStack_hbm (s : State) (n : Nat) (f : Stack → Stack) : (modStack s n f).hbm = s.hbm := rfl
@[simp] theorem modStack_hbmPoison (s : State) (n : Nat) (f : Stack → Stack) : (modStack s n f).hbmPoison = s.hbmPoison := rfl
@[simp] theorem modStack_ls (s : State) (n : Nat) (f : Stack → Stack) : (modStack s n f).ls = s.ls := rfl
@[simp] theorem modStack_lsPoison (s : State) (n : Nat) (f : Stack → Stack) : (modStack s n f).lsPoison = s.lsPoison := rfl
@[simp] theorem modStack_coreCells (s : State) (n : Nat) (f : Stack → Stack) : (modStack s n f).coreCells = s.coreCells := rfl
@[simp] theorem modStack_wbCells (s : State) (n : Nat) (f : Stack → Stack) : (modStack s n f).wbCells = s.wbCells := rfl
@[simp] theorem modStack_wbWaits (s : State) (n : Nat) (f : Stack → Stack) : (modStack s n f).wbWaits = s.wbWaits := rfl
@[simp] theorem modStack_watches (s : State) (n : Nat) (f : Stack → Stack) : (modStack s n f).watches = s.watches := rfl
@[simp] theorem modStack_locks (s : State) (n : Nat) (f : Stack → Stack) : (modStack s n f).locks = s.locks := rfl
@[simp] theorem modStack_skip (s : State) (n : Nat) (f : Stack → Stack) : (modStack s n f).skip = s.skip := rfl
@[simp] theorem modStack_mesh (s : State) (n : Nat) (f : Stack → Stack) : (modStack s n f).mesh = s.mesh := rfl
@[simp] theorem modStack_inbox (s : State) (n : Nat) (f : Stack → Stack) : (modStack s n f).inbox = s.inbox := rfl
@[simp] theorem modStack_ctxs (s : State) (n : Nat) (f : Stack → Stack) : (modStack s n f).ctxs = s.ctxs := rfl
@[simp] theorem modStack_rings (s : State) (n : Nat) (f : Stack → Stack) : (modStack s n f).rings = s.rings := rfl
@[simp] theorem modStack_evrings (s : State) (n : Nat) (f : Stack → Stack) : (modStack s n f).evrings = s.evrings := rfl
@[simp] theorem modStack_seqs (s : State) (n : Nat) (f : Stack → Stack) : (modStack s n f).seqs = s.seqs := rfl
@[simp] theorem modStack_launches (s : State) (n : Nat) (f : Stack → Stack) : (modStack s n f).launches = s.launches := rfl
@[simp] theorem modStack_regions (s : State) (n : Nat) (f : Stack → Stack) : (modStack s n f).regions = s.regions := rfl
@[simp] theorem modStack_pageReqs (s : State) (n : Nat) (f : Stack → Stack) : (modStack s n f).pageReqs = s.pageReqs := rfl
@[simp] theorem modStack_slots (s : State) (n : Nat) (f : Stack → Stack) : (modStack s n f).slots = s.slots := rfl
@[simp] theorem modStack_ports (s : State) (n : Nat) (f : Stack → Stack) : (modStack s n f).ports = s.ports := rfl
@[simp] theorem modStack_links (s : State) (n : Nat) (f : Stack → Stack) : (modStack s n f).links = s.links := rfl
@[simp] theorem modStack_units (s : State) (n : Nat) (f : Stack → Stack) : (modStack s n f).units = s.units := rfl
@[simp] theorem modStack_hostMem (s : State) (n : Nat) (f : Stack → Stack) : (modStack s n f).hostMem = s.hostMem := rfl
@[simp] theorem modStack_hostPoison (s : State) (n : Nat) (f : Stack → Stack) : (modStack s n f).hostPoison = s.hostPoison := rfl
@[simp] theorem modStack_flash (s : State) (n : Nat) (f : Stack → Stack) : (modStack s n f).flash = s.flash := rfl
@[simp] theorem modStack_fuses (s : State) (n : Nat) (f : Stack → Stack) : (modStack s n f).fuses = s.fuses := rfl
@[simp] theorem modStack_gov (s : State) (n : Nat) (f : Stack → Stack) : (modStack s n f).gov = s.gov := rfl
@[simp] theorem modStack_dev (s : State) (n : Nat) (f : Stack → Stack) : (modStack s n f).dev = s.dev := rfl
@[simp] theorem modStack_nextMsg (s : State) (n : Nat) (f : Stack → Stack) : (modStack s n f).nextMsg = s.nextMsg := rfl
@[simp] theorem modStack_fresh (s : State) (n : Nat) (f : Stack → Stack) : (modStack s n f).fresh = s.fresh := rfl
@[simp] theorem modStack_tick (s : State) (n : Nat) (f : Stack → Stack) : (modStack s n f).tick = s.tick := rfl
@[simp] theorem modStack_pending (s : State) (n : Nat) (f : Stack → Stack) : (modStack s n f).pending = s.pending := rfl

/-! ### modCtx -/

@[simp] theorem modCtx_threads (s : State) (i : Nat) (f : Ctx → Ctx) : (modCtx s i f).threads = s.threads := by unfold modCtx; split <;> rfl
@[simp] theorem modCtx_cores (s : State) (i : Nat) (f : Ctx → Ctx) : (modCtx s i f).cores = s.cores := by unfold modCtx; split <;> rfl
@[simp] theorem modCtx_nodes (s : State) (i : Nat) (f : Ctx → Ctx) : (modCtx s i f).nodes = s.nodes := by unfold modCtx; split <;> rfl
@[simp] theorem modCtx_benches (s : State) (i : Nat) (f : Ctx → Ctx) : (modCtx s i f).benches = s.benches := by unfold modCtx; split <;> rfl
@[simp] theorem modCtx_hbm (s : State) (i : Nat) (f : Ctx → Ctx) : (modCtx s i f).hbm = s.hbm := by unfold modCtx; split <;> rfl
@[simp] theorem modCtx_hbmPoison (s : State) (i : Nat) (f : Ctx → Ctx) : (modCtx s i f).hbmPoison = s.hbmPoison := by unfold modCtx; split <;> rfl
@[simp] theorem modCtx_ls (s : State) (i : Nat) (f : Ctx → Ctx) : (modCtx s i f).ls = s.ls := by unfold modCtx; split <;> rfl
@[simp] theorem modCtx_lsPoison (s : State) (i : Nat) (f : Ctx → Ctx) : (modCtx s i f).lsPoison = s.lsPoison := by unfold modCtx; split <;> rfl
@[simp] theorem modCtx_coreCells (s : State) (i : Nat) (f : Ctx → Ctx) : (modCtx s i f).coreCells = s.coreCells := by unfold modCtx; split <;> rfl
@[simp] theorem modCtx_wbCells (s : State) (i : Nat) (f : Ctx → Ctx) : (modCtx s i f).wbCells = s.wbCells := by unfold modCtx; split <;> rfl
@[simp] theorem modCtx_wbWaits (s : State) (i : Nat) (f : Ctx → Ctx) : (modCtx s i f).wbWaits = s.wbWaits := by unfold modCtx; split <;> rfl
@[simp] theorem modCtx_watches (s : State) (i : Nat) (f : Ctx → Ctx) : (modCtx s i f).watches = s.watches := by unfold modCtx; split <;> rfl
@[simp] theorem modCtx_locks (s : State) (i : Nat) (f : Ctx → Ctx) : (modCtx s i f).locks = s.locks := by unfold modCtx; split <;> rfl
@[simp] theorem modCtx_hbmStacks (s : State) (i : Nat) (f : Ctx → Ctx) : (modCtx s i f).hbmStacks = s.hbmStacks := by unfold modCtx; split <;> rfl
@[simp] theorem modCtx_skip (s : State) (i : Nat) (f : Ctx → Ctx) : (modCtx s i f).skip = s.skip := by unfold modCtx; split <;> rfl
@[simp] theorem modCtx_mesh (s : State) (i : Nat) (f : Ctx → Ctx) : (modCtx s i f).mesh = s.mesh := by unfold modCtx; split <;> rfl
@[simp] theorem modCtx_inbox (s : State) (i : Nat) (f : Ctx → Ctx) : (modCtx s i f).inbox = s.inbox := by unfold modCtx; split <;> rfl
@[simp] theorem modCtx_rings (s : State) (i : Nat) (f : Ctx → Ctx) : (modCtx s i f).rings = s.rings := by unfold modCtx; split <;> rfl
@[simp] theorem modCtx_evrings (s : State) (i : Nat) (f : Ctx → Ctx) : (modCtx s i f).evrings = s.evrings := by unfold modCtx; split <;> rfl
@[simp] theorem modCtx_seqs (s : State) (i : Nat) (f : Ctx → Ctx) : (modCtx s i f).seqs = s.seqs := by unfold modCtx; split <;> rfl
@[simp] theorem modCtx_launches (s : State) (i : Nat) (f : Ctx → Ctx) : (modCtx s i f).launches = s.launches := by unfold modCtx; split <;> rfl
@[simp] theorem modCtx_regions (s : State) (i : Nat) (f : Ctx → Ctx) : (modCtx s i f).regions = s.regions := by unfold modCtx; split <;> rfl
@[simp] theorem modCtx_pageReqs (s : State) (i : Nat) (f : Ctx → Ctx) : (modCtx s i f).pageReqs = s.pageReqs := by unfold modCtx; split <;> rfl
@[simp] theorem modCtx_slots (s : State) (i : Nat) (f : Ctx → Ctx) : (modCtx s i f).slots = s.slots := by unfold modCtx; split <;> rfl
@[simp] theorem modCtx_ports (s : State) (i : Nat) (f : Ctx → Ctx) : (modCtx s i f).ports = s.ports := by unfold modCtx; split <;> rfl
@[simp] theorem modCtx_links (s : State) (i : Nat) (f : Ctx → Ctx) : (modCtx s i f).links = s.links := by unfold modCtx; split <;> rfl
@[simp] theorem modCtx_units (s : State) (i : Nat) (f : Ctx → Ctx) : (modCtx s i f).units = s.units := by unfold modCtx; split <;> rfl
@[simp] theorem modCtx_hostMem (s : State) (i : Nat) (f : Ctx → Ctx) : (modCtx s i f).hostMem = s.hostMem := by unfold modCtx; split <;> rfl
@[simp] theorem modCtx_hostPoison (s : State) (i : Nat) (f : Ctx → Ctx) : (modCtx s i f).hostPoison = s.hostPoison := by unfold modCtx; split <;> rfl
@[simp] theorem modCtx_flash (s : State) (i : Nat) (f : Ctx → Ctx) : (modCtx s i f).flash = s.flash := by unfold modCtx; split <;> rfl
@[simp] theorem modCtx_fuses (s : State) (i : Nat) (f : Ctx → Ctx) : (modCtx s i f).fuses = s.fuses := by unfold modCtx; split <;> rfl
@[simp] theorem modCtx_gov (s : State) (i : Nat) (f : Ctx → Ctx) : (modCtx s i f).gov = s.gov := by unfold modCtx; split <;> rfl
@[simp] theorem modCtx_dev (s : State) (i : Nat) (f : Ctx → Ctx) : (modCtx s i f).dev = s.dev := by unfold modCtx; split <;> rfl
@[simp] theorem modCtx_nextMsg (s : State) (i : Nat) (f : Ctx → Ctx) : (modCtx s i f).nextMsg = s.nextMsg := by unfold modCtx; split <;> rfl
@[simp] theorem modCtx_fresh (s : State) (i : Nat) (f : Ctx → Ctx) : (modCtx s i f).fresh = s.fresh := by unfold modCtx; split <;> rfl
@[simp] theorem modCtx_tick (s : State) (i : Nat) (f : Ctx → Ctx) : (modCtx s i f).tick = s.tick := by unfold modCtx; split <;> rfl
@[simp] theorem modCtx_pending (s : State) (i : Nat) (f : Ctx → Ctx) : (modCtx s i f).pending = s.pending := by unfold modCtx; split <;> rfl

/-! ### modRing -/

@[simp] theorem modRing_threads (s : State) (k : Nat) (f : Ring → Ring) : (modRing s k f).threads = s.threads := rfl
@[simp] theorem modRing_cores (s : State) (k : Nat) (f : Ring → Ring) : (modRing s k f).cores = s.cores := rfl
@[simp] theorem modRing_nodes (s : State) (k : Nat) (f : Ring → Ring) : (modRing s k f).nodes = s.nodes := rfl
@[simp] theorem modRing_benches (s : State) (k : Nat) (f : Ring → Ring) : (modRing s k f).benches = s.benches := rfl
@[simp] theorem modRing_hbm (s : State) (k : Nat) (f : Ring → Ring) : (modRing s k f).hbm = s.hbm := rfl
@[simp] theorem modRing_hbmPoison (s : State) (k : Nat) (f : Ring → Ring) : (modRing s k f).hbmPoison = s.hbmPoison := rfl
@[simp] theorem modRing_ls (s : State) (k : Nat) (f : Ring → Ring) : (modRing s k f).ls = s.ls := rfl
@[simp] theorem modRing_lsPoison (s : State) (k : Nat) (f : Ring → Ring) : (modRing s k f).lsPoison = s.lsPoison := rfl
@[simp] theorem modRing_coreCells (s : State) (k : Nat) (f : Ring → Ring) : (modRing s k f).coreCells = s.coreCells := rfl
@[simp] theorem modRing_wbCells (s : State) (k : Nat) (f : Ring → Ring) : (modRing s k f).wbCells = s.wbCells := rfl
@[simp] theorem modRing_wbWaits (s : State) (k : Nat) (f : Ring → Ring) : (modRing s k f).wbWaits = s.wbWaits := rfl
@[simp] theorem modRing_watches (s : State) (k : Nat) (f : Ring → Ring) : (modRing s k f).watches = s.watches := rfl
@[simp] theorem modRing_locks (s : State) (k : Nat) (f : Ring → Ring) : (modRing s k f).locks = s.locks := rfl
@[simp] theorem modRing_hbmStacks (s : State) (k : Nat) (f : Ring → Ring) : (modRing s k f).hbmStacks = s.hbmStacks := rfl
@[simp] theorem modRing_skip (s : State) (k : Nat) (f : Ring → Ring) : (modRing s k f).skip = s.skip := rfl
@[simp] theorem modRing_mesh (s : State) (k : Nat) (f : Ring → Ring) : (modRing s k f).mesh = s.mesh := rfl
@[simp] theorem modRing_inbox (s : State) (k : Nat) (f : Ring → Ring) : (modRing s k f).inbox = s.inbox := rfl
@[simp] theorem modRing_ctxs (s : State) (k : Nat) (f : Ring → Ring) : (modRing s k f).ctxs = s.ctxs := rfl
@[simp] theorem modRing_evrings (s : State) (k : Nat) (f : Ring → Ring) : (modRing s k f).evrings = s.evrings := rfl
@[simp] theorem modRing_seqs (s : State) (k : Nat) (f : Ring → Ring) : (modRing s k f).seqs = s.seqs := rfl
@[simp] theorem modRing_launches (s : State) (k : Nat) (f : Ring → Ring) : (modRing s k f).launches = s.launches := rfl
@[simp] theorem modRing_regions (s : State) (k : Nat) (f : Ring → Ring) : (modRing s k f).regions = s.regions := rfl
@[simp] theorem modRing_pageReqs (s : State) (k : Nat) (f : Ring → Ring) : (modRing s k f).pageReqs = s.pageReqs := rfl
@[simp] theorem modRing_slots (s : State) (k : Nat) (f : Ring → Ring) : (modRing s k f).slots = s.slots := rfl
@[simp] theorem modRing_ports (s : State) (k : Nat) (f : Ring → Ring) : (modRing s k f).ports = s.ports := rfl
@[simp] theorem modRing_links (s : State) (k : Nat) (f : Ring → Ring) : (modRing s k f).links = s.links := rfl
@[simp] theorem modRing_units (s : State) (k : Nat) (f : Ring → Ring) : (modRing s k f).units = s.units := rfl
@[simp] theorem modRing_hostMem (s : State) (k : Nat) (f : Ring → Ring) : (modRing s k f).hostMem = s.hostMem := rfl
@[simp] theorem modRing_hostPoison (s : State) (k : Nat) (f : Ring → Ring) : (modRing s k f).hostPoison = s.hostPoison := rfl
@[simp] theorem modRing_flash (s : State) (k : Nat) (f : Ring → Ring) : (modRing s k f).flash = s.flash := rfl
@[simp] theorem modRing_fuses (s : State) (k : Nat) (f : Ring → Ring) : (modRing s k f).fuses = s.fuses := rfl
@[simp] theorem modRing_gov (s : State) (k : Nat) (f : Ring → Ring) : (modRing s k f).gov = s.gov := rfl
@[simp] theorem modRing_dev (s : State) (k : Nat) (f : Ring → Ring) : (modRing s k f).dev = s.dev := rfl
@[simp] theorem modRing_nextMsg (s : State) (k : Nat) (f : Ring → Ring) : (modRing s k f).nextMsg = s.nextMsg := rfl
@[simp] theorem modRing_fresh (s : State) (k : Nat) (f : Ring → Ring) : (modRing s k f).fresh = s.fresh := rfl
@[simp] theorem modRing_tick (s : State) (k : Nat) (f : Ring → Ring) : (modRing s k f).tick = s.tick := rfl
@[simp] theorem modRing_pending (s : State) (k : Nat) (f : Ring → Ring) : (modRing s k f).pending = s.pending := rfl

/-! ### modEvring -/

@[simp] theorem modEvring_threads (s : State) (k : Nat) (f : EvRing → EvRing) : (modEvring s k f).threads = s.threads := rfl
@[simp] theorem modEvring_cores (s : State) (k : Nat) (f : EvRing → EvRing) : (modEvring s k f).cores = s.cores := rfl
@[simp] theorem modEvring_nodes (s : State) (k : Nat) (f : EvRing → EvRing) : (modEvring s k f).nodes = s.nodes := rfl
@[simp] theorem modEvring_benches (s : State) (k : Nat) (f : EvRing → EvRing) : (modEvring s k f).benches = s.benches := rfl
@[simp] theorem modEvring_hbm (s : State) (k : Nat) (f : EvRing → EvRing) : (modEvring s k f).hbm = s.hbm := rfl
@[simp] theorem modEvring_hbmPoison (s : State) (k : Nat) (f : EvRing → EvRing) : (modEvring s k f).hbmPoison = s.hbmPoison := rfl
@[simp] theorem modEvring_ls (s : State) (k : Nat) (f : EvRing → EvRing) : (modEvring s k f).ls = s.ls := rfl
@[simp] theorem modEvring_lsPoison (s : State) (k : Nat) (f : EvRing → EvRing) : (modEvring s k f).lsPoison = s.lsPoison := rfl
@[simp] theorem modEvring_coreCells (s : State) (k : Nat) (f : EvRing → EvRing) : (modEvring s k f).coreCells = s.coreCells := rfl
@[simp] theorem modEvring_wbCells (s : State) (k : Nat) (f : EvRing → EvRing) : (modEvring s k f).wbCells = s.wbCells := rfl
@[simp] theorem modEvring_wbWaits (s : State) (k : Nat) (f : EvRing → EvRing) : (modEvring s k f).wbWaits = s.wbWaits := rfl
@[simp] theorem modEvring_watches (s : State) (k : Nat) (f : EvRing → EvRing) : (modEvring s k f).watches = s.watches := rfl
@[simp] theorem modEvring_locks (s : State) (k : Nat) (f : EvRing → EvRing) : (modEvring s k f).locks = s.locks := rfl
@[simp] theorem modEvring_hbmStacks (s : State) (k : Nat) (f : EvRing → EvRing) : (modEvring s k f).hbmStacks = s.hbmStacks := rfl
@[simp] theorem modEvring_skip (s : State) (k : Nat) (f : EvRing → EvRing) : (modEvring s k f).skip = s.skip := rfl
@[simp] theorem modEvring_mesh (s : State) (k : Nat) (f : EvRing → EvRing) : (modEvring s k f).mesh = s.mesh := rfl
@[simp] theorem modEvring_inbox (s : State) (k : Nat) (f : EvRing → EvRing) : (modEvring s k f).inbox = s.inbox := rfl
@[simp] theorem modEvring_ctxs (s : State) (k : Nat) (f : EvRing → EvRing) : (modEvring s k f).ctxs = s.ctxs := rfl
@[simp] theorem modEvring_rings (s : State) (k : Nat) (f : EvRing → EvRing) : (modEvring s k f).rings = s.rings := rfl
@[simp] theorem modEvring_seqs (s : State) (k : Nat) (f : EvRing → EvRing) : (modEvring s k f).seqs = s.seqs := rfl
@[simp] theorem modEvring_launches (s : State) (k : Nat) (f : EvRing → EvRing) : (modEvring s k f).launches = s.launches := rfl
@[simp] theorem modEvring_regions (s : State) (k : Nat) (f : EvRing → EvRing) : (modEvring s k f).regions = s.regions := rfl
@[simp] theorem modEvring_pageReqs (s : State) (k : Nat) (f : EvRing → EvRing) : (modEvring s k f).pageReqs = s.pageReqs := rfl
@[simp] theorem modEvring_slots (s : State) (k : Nat) (f : EvRing → EvRing) : (modEvring s k f).slots = s.slots := rfl
@[simp] theorem modEvring_ports (s : State) (k : Nat) (f : EvRing → EvRing) : (modEvring s k f).ports = s.ports := rfl
@[simp] theorem modEvring_links (s : State) (k : Nat) (f : EvRing → EvRing) : (modEvring s k f).links = s.links := rfl
@[simp] theorem modEvring_units (s : State) (k : Nat) (f : EvRing → EvRing) : (modEvring s k f).units = s.units := rfl
@[simp] theorem modEvring_hostMem (s : State) (k : Nat) (f : EvRing → EvRing) : (modEvring s k f).hostMem = s.hostMem := rfl
@[simp] theorem modEvring_hostPoison (s : State) (k : Nat) (f : EvRing → EvRing) : (modEvring s k f).hostPoison = s.hostPoison := rfl
@[simp] theorem modEvring_flash (s : State) (k : Nat) (f : EvRing → EvRing) : (modEvring s k f).flash = s.flash := rfl
@[simp] theorem modEvring_fuses (s : State) (k : Nat) (f : EvRing → EvRing) : (modEvring s k f).fuses = s.fuses := rfl
@[simp] theorem modEvring_gov (s : State) (k : Nat) (f : EvRing → EvRing) : (modEvring s k f).gov = s.gov := rfl
@[simp] theorem modEvring_dev (s : State) (k : Nat) (f : EvRing → EvRing) : (modEvring s k f).dev = s.dev := rfl
@[simp] theorem modEvring_nextMsg (s : State) (k : Nat) (f : EvRing → EvRing) : (modEvring s k f).nextMsg = s.nextMsg := rfl
@[simp] theorem modEvring_fresh (s : State) (k : Nat) (f : EvRing → EvRing) : (modEvring s k f).fresh = s.fresh := rfl
@[simp] theorem modEvring_tick (s : State) (k : Nat) (f : EvRing → EvRing) : (modEvring s k f).tick = s.tick := rfl
@[simp] theorem modEvring_pending (s : State) (k : Nat) (f : EvRing → EvRing) : (modEvring s k f).pending = s.pending := rfl

/-! ### modUnit -/

@[simp] theorem modUnit_threads (s : State) (n : Nat) (f : UnitRec → UnitRec) : (modUnit s n f).threads = s.threads := rfl
@[simp] theorem modUnit_cores (s : State) (n : Nat) (f : UnitRec → UnitRec) : (modUnit s n f).cores = s.cores := rfl
@[simp] theorem modUnit_nodes (s : State) (n : Nat) (f : UnitRec → UnitRec) : (modUnit s n f).nodes = s.nodes := rfl
@[simp] theorem modUnit_benches (s : State) (n : Nat) (f : UnitRec → UnitRec) : (modUnit s n f).benches = s.benches := rfl
@[simp] theorem modUnit_hbm (s : State) (n : Nat) (f : UnitRec → UnitRec) : (modUnit s n f).hbm = s.hbm := rfl
@[simp] theorem modUnit_hbmPoison (s : State) (n : Nat) (f : UnitRec → UnitRec) : (modUnit s n f).hbmPoison = s.hbmPoison := rfl
@[simp] theorem modUnit_ls (s : State) (n : Nat) (f : UnitRec → UnitRec) : (modUnit s n f).ls = s.ls := rfl
@[simp] theorem modUnit_lsPoison (s : State) (n : Nat) (f : UnitRec → UnitRec) : (modUnit s n f).lsPoison = s.lsPoison := rfl
@[simp] theorem modUnit_coreCells (s : State) (n : Nat) (f : UnitRec → UnitRec) : (modUnit s n f).coreCells = s.coreCells := rfl
@[simp] theorem modUnit_wbCells (s : State) (n : Nat) (f : UnitRec → UnitRec) : (modUnit s n f).wbCells = s.wbCells := rfl
@[simp] theorem modUnit_wbWaits (s : State) (n : Nat) (f : UnitRec → UnitRec) : (modUnit s n f).wbWaits = s.wbWaits := rfl
@[simp] theorem modUnit_watches (s : State) (n : Nat) (f : UnitRec → UnitRec) : (modUnit s n f).watches = s.watches := rfl
@[simp] theorem modUnit_locks (s : State) (n : Nat) (f : UnitRec → UnitRec) : (modUnit s n f).locks = s.locks := rfl
@[simp] theorem modUnit_hbmStacks (s : State) (n : Nat) (f : UnitRec → UnitRec) : (modUnit s n f).hbmStacks = s.hbmStacks := rfl
@[simp] theorem modUnit_skip (s : State) (n : Nat) (f : UnitRec → UnitRec) : (modUnit s n f).skip = s.skip := rfl
@[simp] theorem modUnit_mesh (s : State) (n : Nat) (f : UnitRec → UnitRec) : (modUnit s n f).mesh = s.mesh := rfl
@[simp] theorem modUnit_inbox (s : State) (n : Nat) (f : UnitRec → UnitRec) : (modUnit s n f).inbox = s.inbox := rfl
@[simp] theorem modUnit_ctxs (s : State) (n : Nat) (f : UnitRec → UnitRec) : (modUnit s n f).ctxs = s.ctxs := rfl
@[simp] theorem modUnit_rings (s : State) (n : Nat) (f : UnitRec → UnitRec) : (modUnit s n f).rings = s.rings := rfl
@[simp] theorem modUnit_evrings (s : State) (n : Nat) (f : UnitRec → UnitRec) : (modUnit s n f).evrings = s.evrings := rfl
@[simp] theorem modUnit_seqs (s : State) (n : Nat) (f : UnitRec → UnitRec) : (modUnit s n f).seqs = s.seqs := rfl
@[simp] theorem modUnit_launches (s : State) (n : Nat) (f : UnitRec → UnitRec) : (modUnit s n f).launches = s.launches := rfl
@[simp] theorem modUnit_regions (s : State) (n : Nat) (f : UnitRec → UnitRec) : (modUnit s n f).regions = s.regions := rfl
@[simp] theorem modUnit_pageReqs (s : State) (n : Nat) (f : UnitRec → UnitRec) : (modUnit s n f).pageReqs = s.pageReqs := rfl
@[simp] theorem modUnit_slots (s : State) (n : Nat) (f : UnitRec → UnitRec) : (modUnit s n f).slots = s.slots := rfl
@[simp] theorem modUnit_ports (s : State) (n : Nat) (f : UnitRec → UnitRec) : (modUnit s n f).ports = s.ports := rfl
@[simp] theorem modUnit_links (s : State) (n : Nat) (f : UnitRec → UnitRec) : (modUnit s n f).links = s.links := rfl
@[simp] theorem modUnit_hostMem (s : State) (n : Nat) (f : UnitRec → UnitRec) : (modUnit s n f).hostMem = s.hostMem := rfl
@[simp] theorem modUnit_hostPoison (s : State) (n : Nat) (f : UnitRec → UnitRec) : (modUnit s n f).hostPoison = s.hostPoison := rfl
@[simp] theorem modUnit_flash (s : State) (n : Nat) (f : UnitRec → UnitRec) : (modUnit s n f).flash = s.flash := rfl
@[simp] theorem modUnit_fuses (s : State) (n : Nat) (f : UnitRec → UnitRec) : (modUnit s n f).fuses = s.fuses := rfl
@[simp] theorem modUnit_gov (s : State) (n : Nat) (f : UnitRec → UnitRec) : (modUnit s n f).gov = s.gov := rfl
@[simp] theorem modUnit_dev (s : State) (n : Nat) (f : UnitRec → UnitRec) : (modUnit s n f).dev = s.dev := rfl
@[simp] theorem modUnit_nextMsg (s : State) (n : Nat) (f : UnitRec → UnitRec) : (modUnit s n f).nextMsg = s.nextMsg := rfl
@[simp] theorem modUnit_fresh (s : State) (n : Nat) (f : UnitRec → UnitRec) : (modUnit s n f).fresh = s.fresh := rfl
@[simp] theorem modUnit_tick (s : State) (n : Nat) (f : UnitRec → UnitRec) : (modUnit s n f).tick = s.tick := rfl
@[simp] theorem modUnit_pending (s : State) (n : Nat) (f : UnitRec → UnitRec) : (modUnit s n f).pending = s.pending := rfl

/-! ### modDev -/

@[simp] theorem modDev_threads (s : State) (f : Dev → Dev) : (modDev s f).threads = s.threads := rfl
@[simp] theorem modDev_cores (s : State) (f : Dev → Dev) : (modDev s f).cores = s.cores := rfl
@[simp] theorem modDev_nodes (s : State) (f : Dev → Dev) : (modDev s f).nodes = s.nodes := rfl
@[simp] theorem modDev_benches (s : State) (f : Dev → Dev) : (modDev s f).benches = s.benches := rfl
@[simp] theorem modDev_hbm (s : State) (f : Dev → Dev) : (modDev s f).hbm = s.hbm := rfl
@[simp] theorem modDev_hbmPoison (s : State) (f : Dev → Dev) : (modDev s f).hbmPoison = s.hbmPoison := rfl
@[simp] theorem modDev_ls (s : State) (f : Dev → Dev) : (modDev s f).ls = s.ls := rfl
@[simp] theorem modDev_lsPoison (s : State) (f : Dev → Dev) : (modDev s f).lsPoison = s.lsPoison := rfl
@[simp] theorem modDev_coreCells (s : State) (f : Dev → Dev) : (modDev s f).coreCells = s.coreCells := rfl
@[simp] theorem modDev_wbCells (s : State) (f : Dev → Dev) : (modDev s f).wbCells = s.wbCells := rfl
@[simp] theorem modDev_wbWaits (s : State) (f : Dev → Dev) : (modDev s f).wbWaits = s.wbWaits := rfl
@[simp] theorem modDev_watches (s : State) (f : Dev → Dev) : (modDev s f).watches = s.watches := rfl
@[simp] theorem modDev_locks (s : State) (f : Dev → Dev) : (modDev s f).locks = s.locks := rfl
@[simp] theorem modDev_hbmStacks (s : State) (f : Dev → Dev) : (modDev s f).hbmStacks = s.hbmStacks := rfl
@[simp] theorem modDev_skip (s : State) (f : Dev → Dev) : (modDev s f).skip = s.skip := rfl
@[simp] theorem modDev_mesh (s : State) (f : Dev → Dev) : (modDev s f).mesh = s.mesh := rfl
@[simp] theorem modDev_inbox (s : State) (f : Dev → Dev) : (modDev s f).inbox = s.inbox := rfl
@[simp] theorem modDev_ctxs (s : State) (f : Dev → Dev) : (modDev s f).ctxs = s.ctxs := rfl
@[simp] theorem modDev_rings (s : State) (f : Dev → Dev) : (modDev s f).rings = s.rings := rfl
@[simp] theorem modDev_evrings (s : State) (f : Dev → Dev) : (modDev s f).evrings = s.evrings := rfl
@[simp] theorem modDev_seqs (s : State) (f : Dev → Dev) : (modDev s f).seqs = s.seqs := rfl
@[simp] theorem modDev_launches (s : State) (f : Dev → Dev) : (modDev s f).launches = s.launches := rfl
@[simp] theorem modDev_regions (s : State) (f : Dev → Dev) : (modDev s f).regions = s.regions := rfl
@[simp] theorem modDev_pageReqs (s : State) (f : Dev → Dev) : (modDev s f).pageReqs = s.pageReqs := rfl
@[simp] theorem modDev_slots (s : State) (f : Dev → Dev) : (modDev s f).slots = s.slots := rfl
@[simp] theorem modDev_ports (s : State) (f : Dev → Dev) : (modDev s f).ports = s.ports := rfl
@[simp] theorem modDev_links (s : State) (f : Dev → Dev) : (modDev s f).links = s.links := rfl
@[simp] theorem modDev_units (s : State) (f : Dev → Dev) : (modDev s f).units = s.units := rfl
@[simp] theorem modDev_hostMem (s : State) (f : Dev → Dev) : (modDev s f).hostMem = s.hostMem := rfl
@[simp] theorem modDev_hostPoison (s : State) (f : Dev → Dev) : (modDev s f).hostPoison = s.hostPoison := rfl
@[simp] theorem modDev_flash (s : State) (f : Dev → Dev) : (modDev s f).flash = s.flash := rfl
@[simp] theorem modDev_fuses (s : State) (f : Dev → Dev) : (modDev s f).fuses = s.fuses := rfl
@[simp] theorem modDev_gov (s : State) (f : Dev → Dev) : (modDev s f).gov = s.gov := rfl
@[simp] theorem modDev_nextMsg (s : State) (f : Dev → Dev) : (modDev s f).nextMsg = s.nextMsg := rfl
@[simp] theorem modDev_fresh (s : State) (f : Dev → Dev) : (modDev s f).fresh = s.fresh := rfl
@[simp] theorem modDev_tick (s : State) (f : Dev → Dev) : (modDev s f).tick = s.tick := rfl
@[simp] theorem modDev_pending (s : State) (f : Dev → Dev) : (modDev s f).pending = s.pending := rfl

/-! ### wx -/

@[simp] theorem wx_cores (s : State) (k : Nat) (r : BitVec 5) (v : W64) : (wx s k r v).cores = s.cores := by unfold wx; split <;> rfl
@[simp] theorem wx_nodes (s : State) (k : Nat) (r : BitVec 5) (v : W64) : (wx s k r v).nodes = s.nodes := by unfold wx; split <;> rfl
@[simp] theorem wx_benches (s : State) (k : Nat) (r : BitVec 5) (v : W64) : (wx s k r v).benches = s.benches := by unfold wx; split <;> rfl
@[simp] theorem wx_hbm (s : State) (k : Nat) (r : BitVec 5) (v : W64) : (wx s k r v).hbm = s.hbm := by unfold wx; split <;> rfl
@[simp] theorem wx_hbmPoison (s : State) (k : Nat) (r : BitVec 5) (v : W64) : (wx s k r v).hbmPoison = s.hbmPoison := by unfold wx; split <;> rfl
@[simp] theorem wx_ls (s : State) (k : Nat) (r : BitVec 5) (v : W64) : (wx s k r v).ls = s.ls := by unfold wx; split <;> rfl
@[simp] theorem wx_lsPoison (s : State) (k : Nat) (r : BitVec 5) (v : W64) : (wx s k r v).lsPoison = s.lsPoison := by unfold wx; split <;> rfl
@[simp] theorem wx_coreCells (s : State) (k : Nat) (r : BitVec 5) (v : W64) : (wx s k r v).coreCells = s.coreCells := by unfold wx; split <;> rfl
@[simp] theorem wx_wbCells (s : State) (k : Nat) (r : BitVec 5) (v : W64) : (wx s k r v).wbCells = s.wbCells := by unfold wx; split <;> rfl
@[simp] theorem wx_wbWaits (s : State) (k : Nat) (r : BitVec 5) (v : W64) : (wx s k r v).wbWaits = s.wbWaits := by unfold wx; split <;> rfl
@[simp] theorem wx_watches (s : State) (k : Nat) (r : BitVec 5) (v : W64) : (wx s k r v).watches = s.watches := by unfold wx; split <;> rfl
@[simp] theorem wx_locks (s : State) (k : Nat) (r : BitVec 5) (v : W64) : (wx s k r v).locks = s.locks := by unfold wx; split <;> rfl
@[simp] theorem wx_hbmStacks (s : State) (k : Nat) (r : BitVec 5) (v : W64) : (wx s k r v).hbmStacks = s.hbmStacks := by unfold wx; split <;> rfl
@[simp] theorem wx_skip (s : State) (k : Nat) (r : BitVec 5) (v : W64) : (wx s k r v).skip = s.skip := by unfold wx; split <;> rfl
@[simp] theorem wx_mesh (s : State) (k : Nat) (r : BitVec 5) (v : W64) : (wx s k r v).mesh = s.mesh := by unfold wx; split <;> rfl
@[simp] theorem wx_inbox (s : State) (k : Nat) (r : BitVec 5) (v : W64) : (wx s k r v).inbox = s.inbox := by unfold wx; split <;> rfl
@[simp] theorem wx_ctxs (s : State) (k : Nat) (r : BitVec 5) (v : W64) : (wx s k r v).ctxs = s.ctxs := by unfold wx; split <;> rfl
@[simp] theorem wx_rings (s : State) (k : Nat) (r : BitVec 5) (v : W64) : (wx s k r v).rings = s.rings := by unfold wx; split <;> rfl
@[simp] theorem wx_evrings (s : State) (k : Nat) (r : BitVec 5) (v : W64) : (wx s k r v).evrings = s.evrings := by unfold wx; split <;> rfl
@[simp] theorem wx_seqs (s : State) (k : Nat) (r : BitVec 5) (v : W64) : (wx s k r v).seqs = s.seqs := by unfold wx; split <;> rfl
@[simp] theorem wx_launches (s : State) (k : Nat) (r : BitVec 5) (v : W64) : (wx s k r v).launches = s.launches := by unfold wx; split <;> rfl
@[simp] theorem wx_regions (s : State) (k : Nat) (r : BitVec 5) (v : W64) : (wx s k r v).regions = s.regions := by unfold wx; split <;> rfl
@[simp] theorem wx_pageReqs (s : State) (k : Nat) (r : BitVec 5) (v : W64) : (wx s k r v).pageReqs = s.pageReqs := by unfold wx; split <;> rfl
@[simp] theorem wx_slots (s : State) (k : Nat) (r : BitVec 5) (v : W64) : (wx s k r v).slots = s.slots := by unfold wx; split <;> rfl
@[simp] theorem wx_ports (s : State) (k : Nat) (r : BitVec 5) (v : W64) : (wx s k r v).ports = s.ports := by unfold wx; split <;> rfl
@[simp] theorem wx_links (s : State) (k : Nat) (r : BitVec 5) (v : W64) : (wx s k r v).links = s.links := by unfold wx; split <;> rfl
@[simp] theorem wx_units (s : State) (k : Nat) (r : BitVec 5) (v : W64) : (wx s k r v).units = s.units := by unfold wx; split <;> rfl
@[simp] theorem wx_hostMem (s : State) (k : Nat) (r : BitVec 5) (v : W64) : (wx s k r v).hostMem = s.hostMem := by unfold wx; split <;> rfl
@[simp] theorem wx_hostPoison (s : State) (k : Nat) (r : BitVec 5) (v : W64) : (wx s k r v).hostPoison = s.hostPoison := by unfold wx; split <;> rfl
@[simp] theorem wx_flash (s : State) (k : Nat) (r : BitVec 5) (v : W64) : (wx s k r v).flash = s.flash := by unfold wx; split <;> rfl
@[simp] theorem wx_fuses (s : State) (k : Nat) (r : BitVec 5) (v : W64) : (wx s k r v).fuses = s.fuses := by unfold wx; split <;> rfl
@[simp] theorem wx_gov (s : State) (k : Nat) (r : BitVec 5) (v : W64) : (wx s k r v).gov = s.gov := by unfold wx; split <;> rfl
@[simp] theorem wx_dev (s : State) (k : Nat) (r : BitVec 5) (v : W64) : (wx s k r v).dev = s.dev := by unfold wx; split <;> rfl
@[simp] theorem wx_nextMsg (s : State) (k : Nat) (r : BitVec 5) (v : W64) : (wx s k r v).nextMsg = s.nextMsg := by unfold wx; split <;> rfl
@[simp] theorem wx_fresh (s : State) (k : Nat) (r : BitVec 5) (v : W64) : (wx s k r v).fresh = s.fresh := by unfold wx; split <;> rfl
@[simp] theorem wx_tick (s : State) (k : Nat) (r : BitVec 5) (v : W64) : (wx s k r v).tick = s.tick := by unfold wx; split <;> rfl
@[simp] theorem wx_pending (s : State) (k : Nat) (r : BitVec 5) (v : W64) : (wx s k r v).pending = s.pending := by unfold wx; split <;> rfl

/-! ### wv -/

@[simp] theorem wv_cores (s : State) (k r : Nat) (v : V512) : (wv s k r v).cores = s.cores := rfl
@[simp] theorem wv_nodes (s : State) (k r : Nat) (v : V512) : (wv s k r v).nodes = s.nodes := rfl
@[simp] theorem wv_benches (s : State) (k r : Nat) (v : V512) : (wv s k r v).benches = s.benches := rfl
@[simp] theorem wv_hbm (s : State) (k r : Nat) (v : V512) : (wv s k r v).hbm = s.hbm := rfl
@[simp] theorem wv_hbmPoison (s : State) (k r : Nat) (v : V512) : (wv s k r v).hbmPoison = s.hbmPoison := rfl
@[simp] theorem wv_ls (s : State) (k r : Nat) (v : V512) : (wv s k r v).ls = s.ls := rfl
@[simp] theorem wv_lsPoison (s : State) (k r : Nat) (v : V512) : (wv s k r v).lsPoison = s.lsPoison := rfl
@[simp] theorem wv_coreCells (s : State) (k r : Nat) (v : V512) : (wv s k r v).coreCells = s.coreCells := rfl
@[simp] theorem wv_wbCells (s : State) (k r : Nat) (v : V512) : (wv s k r v).wbCells = s.wbCells := rfl
@[simp] theorem wv_wbWaits (s : State) (k r : Nat) (v : V512) : (wv s k r v).wbWaits = s.wbWaits := rfl
@[simp] theorem wv_watches (s : State) (k r : Nat) (v : V512) : (wv s k r v).watches = s.watches := rfl
@[simp] theorem wv_locks (s : State) (k r : Nat) (v : V512) : (wv s k r v).locks = s.locks := rfl
@[simp] theorem wv_hbmStacks (s : State) (k r : Nat) (v : V512) : (wv s k r v).hbmStacks = s.hbmStacks := rfl
@[simp] theorem wv_skip (s : State) (k r : Nat) (v : V512) : (wv s k r v).skip = s.skip := rfl
@[simp] theorem wv_mesh (s : State) (k r : Nat) (v : V512) : (wv s k r v).mesh = s.mesh := rfl
@[simp] theorem wv_inbox (s : State) (k r : Nat) (v : V512) : (wv s k r v).inbox = s.inbox := rfl
@[simp] theorem wv_ctxs (s : State) (k r : Nat) (v : V512) : (wv s k r v).ctxs = s.ctxs := rfl
@[simp] theorem wv_rings (s : State) (k r : Nat) (v : V512) : (wv s k r v).rings = s.rings := rfl
@[simp] theorem wv_evrings (s : State) (k r : Nat) (v : V512) : (wv s k r v).evrings = s.evrings := rfl
@[simp] theorem wv_seqs (s : State) (k r : Nat) (v : V512) : (wv s k r v).seqs = s.seqs := rfl
@[simp] theorem wv_launches (s : State) (k r : Nat) (v : V512) : (wv s k r v).launches = s.launches := rfl
@[simp] theorem wv_regions (s : State) (k r : Nat) (v : V512) : (wv s k r v).regions = s.regions := rfl
@[simp] theorem wv_pageReqs (s : State) (k r : Nat) (v : V512) : (wv s k r v).pageReqs = s.pageReqs := rfl
@[simp] theorem wv_slots (s : State) (k r : Nat) (v : V512) : (wv s k r v).slots = s.slots := rfl
@[simp] theorem wv_ports (s : State) (k r : Nat) (v : V512) : (wv s k r v).ports = s.ports := rfl
@[simp] theorem wv_links (s : State) (k r : Nat) (v : V512) : (wv s k r v).links = s.links := rfl
@[simp] theorem wv_units (s : State) (k r : Nat) (v : V512) : (wv s k r v).units = s.units := rfl
@[simp] theorem wv_hostMem (s : State) (k r : Nat) (v : V512) : (wv s k r v).hostMem = s.hostMem := rfl
@[simp] theorem wv_hostPoison (s : State) (k r : Nat) (v : V512) : (wv s k r v).hostPoison = s.hostPoison := rfl
@[simp] theorem wv_flash (s : State) (k r : Nat) (v : V512) : (wv s k r v).flash = s.flash := rfl
@[simp] theorem wv_fuses (s : State) (k r : Nat) (v : V512) : (wv s k r v).fuses = s.fuses := rfl
@[simp] theorem wv_gov (s : State) (k r : Nat) (v : V512) : (wv s k r v).gov = s.gov := rfl
@[simp] theorem wv_dev (s : State) (k r : Nat) (v : V512) : (wv s k r v).dev = s.dev := rfl
@[simp] theorem wv_nextMsg (s : State) (k r : Nat) (v : V512) : (wv s k r v).nextMsg = s.nextMsg := rfl
@[simp] theorem wv_fresh (s : State) (k r : Nat) (v : V512) : (wv s k r v).fresh = s.fresh := rfl
@[simp] theorem wv_tick (s : State) (k r : Nat) (v : V512) : (wv s k r v).tick = s.tick := rfl
@[simp] theorem wv_pending (s : State) (k r : Nat) (v : V512) : (wv s k r v).pending = s.pending := rfl

/-! ### wp -/

@[simp] theorem wp_cores (s : State) (k r : Nat) (v : W64) : (wp s k r v).cores = s.cores := rfl
@[simp] theorem wp_nodes (s : State) (k r : Nat) (v : W64) : (wp s k r v).nodes = s.nodes := rfl
@[simp] theorem wp_benches (s : State) (k r : Nat) (v : W64) : (wp s k r v).benches = s.benches := rfl
@[simp] theorem wp_hbm (s : State) (k r : Nat) (v : W64) : (wp s k r v).hbm = s.hbm := rfl
@[simp] theorem wp_hbmPoison (s : State) (k r : Nat) (v : W64) : (wp s k r v).hbmPoison = s.hbmPoison := rfl
@[simp] theorem wp_ls (s : State) (k r : Nat) (v : W64) : (wp s k r v).ls = s.ls := rfl
@[simp] theorem wp_lsPoison (s : State) (k r : Nat) (v : W64) : (wp s k r v).lsPoison = s.lsPoison := rfl
@[simp] theorem wp_coreCells (s : State) (k r : Nat) (v : W64) : (wp s k r v).coreCells = s.coreCells := rfl
@[simp] theorem wp_wbCells (s : State) (k r : Nat) (v : W64) : (wp s k r v).wbCells = s.wbCells := rfl
@[simp] theorem wp_wbWaits (s : State) (k r : Nat) (v : W64) : (wp s k r v).wbWaits = s.wbWaits := rfl
@[simp] theorem wp_watches (s : State) (k r : Nat) (v : W64) : (wp s k r v).watches = s.watches := rfl
@[simp] theorem wp_locks (s : State) (k r : Nat) (v : W64) : (wp s k r v).locks = s.locks := rfl
@[simp] theorem wp_hbmStacks (s : State) (k r : Nat) (v : W64) : (wp s k r v).hbmStacks = s.hbmStacks := rfl
@[simp] theorem wp_skip (s : State) (k r : Nat) (v : W64) : (wp s k r v).skip = s.skip := rfl
@[simp] theorem wp_mesh (s : State) (k r : Nat) (v : W64) : (wp s k r v).mesh = s.mesh := rfl
@[simp] theorem wp_inbox (s : State) (k r : Nat) (v : W64) : (wp s k r v).inbox = s.inbox := rfl
@[simp] theorem wp_ctxs (s : State) (k r : Nat) (v : W64) : (wp s k r v).ctxs = s.ctxs := rfl
@[simp] theorem wp_rings (s : State) (k r : Nat) (v : W64) : (wp s k r v).rings = s.rings := rfl
@[simp] theorem wp_evrings (s : State) (k r : Nat) (v : W64) : (wp s k r v).evrings = s.evrings := rfl
@[simp] theorem wp_seqs (s : State) (k r : Nat) (v : W64) : (wp s k r v).seqs = s.seqs := rfl
@[simp] theorem wp_launches (s : State) (k r : Nat) (v : W64) : (wp s k r v).launches = s.launches := rfl
@[simp] theorem wp_regions (s : State) (k r : Nat) (v : W64) : (wp s k r v).regions = s.regions := rfl
@[simp] theorem wp_pageReqs (s : State) (k r : Nat) (v : W64) : (wp s k r v).pageReqs = s.pageReqs := rfl
@[simp] theorem wp_slots (s : State) (k r : Nat) (v : W64) : (wp s k r v).slots = s.slots := rfl
@[simp] theorem wp_ports (s : State) (k r : Nat) (v : W64) : (wp s k r v).ports = s.ports := rfl
@[simp] theorem wp_links (s : State) (k r : Nat) (v : W64) : (wp s k r v).links = s.links := rfl
@[simp] theorem wp_units (s : State) (k r : Nat) (v : W64) : (wp s k r v).units = s.units := rfl
@[simp] theorem wp_hostMem (s : State) (k r : Nat) (v : W64) : (wp s k r v).hostMem = s.hostMem := rfl
@[simp] theorem wp_hostPoison (s : State) (k r : Nat) (v : W64) : (wp s k r v).hostPoison = s.hostPoison := rfl
@[simp] theorem wp_flash (s : State) (k r : Nat) (v : W64) : (wp s k r v).flash = s.flash := rfl
@[simp] theorem wp_fuses (s : State) (k r : Nat) (v : W64) : (wp s k r v).fuses = s.fuses := rfl
@[simp] theorem wp_gov (s : State) (k r : Nat) (v : W64) : (wp s k r v).gov = s.gov := rfl
@[simp] theorem wp_dev (s : State) (k r : Nat) (v : W64) : (wp s k r v).dev = s.dev := rfl
@[simp] theorem wp_nextMsg (s : State) (k r : Nat) (v : W64) : (wp s k r v).nextMsg = s.nextMsg := rfl
@[simp] theorem wp_fresh (s : State) (k r : Nat) (v : W64) : (wp s k r v).fresh = s.fresh := rfl
@[simp] theorem wp_tick (s : State) (k r : Nat) (v : W64) : (wp s k r v).tick = s.tick := rfl
@[simp] theorem wp_pending (s : State) (k r : Nat) (v : W64) : (wp s k r v).pending = s.pending := rfl

/-! ### setPc -/

@[simp] theorem setPc_cores (s : State) (k : Nat) (pc : W64) : (setPc s k pc).cores = s.cores := rfl
@[simp] theorem setPc_nodes (s : State) (k : Nat) (pc : W64) : (setPc s k pc).nodes = s.nodes := rfl
@[simp] theorem setPc_benches (s : State) (k : Nat) (pc : W64) : (setPc s k pc).benches = s.benches := rfl
@[simp] theorem setPc_hbm (s : State) (k : Nat) (pc : W64) : (setPc s k pc).hbm = s.hbm := rfl
@[simp] theorem setPc_hbmPoison (s : State) (k : Nat) (pc : W64) : (setPc s k pc).hbmPoison = s.hbmPoison := rfl
@[simp] theorem setPc_ls (s : State) (k : Nat) (pc : W64) : (setPc s k pc).ls = s.ls := rfl
@[simp] theorem setPc_lsPoison (s : State) (k : Nat) (pc : W64) : (setPc s k pc).lsPoison = s.lsPoison := rfl
@[simp] theorem setPc_coreCells (s : State) (k : Nat) (pc : W64) : (setPc s k pc).coreCells = s.coreCells := rfl
@[simp] theorem setPc_wbCells (s : State) (k : Nat) (pc : W64) : (setPc s k pc).wbCells = s.wbCells := rfl
@[simp] theorem setPc_wbWaits (s : State) (k : Nat) (pc : W64) : (setPc s k pc).wbWaits = s.wbWaits := rfl
@[simp] theorem setPc_watches (s : State) (k : Nat) (pc : W64) : (setPc s k pc).watches = s.watches := rfl
@[simp] theorem setPc_locks (s : State) (k : Nat) (pc : W64) : (setPc s k pc).locks = s.locks := rfl
@[simp] theorem setPc_hbmStacks (s : State) (k : Nat) (pc : W64) : (setPc s k pc).hbmStacks = s.hbmStacks := rfl
@[simp] theorem setPc_skip (s : State) (k : Nat) (pc : W64) : (setPc s k pc).skip = s.skip := rfl
@[simp] theorem setPc_mesh (s : State) (k : Nat) (pc : W64) : (setPc s k pc).mesh = s.mesh := rfl
@[simp] theorem setPc_inbox (s : State) (k : Nat) (pc : W64) : (setPc s k pc).inbox = s.inbox := rfl
@[simp] theorem setPc_ctxs (s : State) (k : Nat) (pc : W64) : (setPc s k pc).ctxs = s.ctxs := rfl
@[simp] theorem setPc_rings (s : State) (k : Nat) (pc : W64) : (setPc s k pc).rings = s.rings := rfl
@[simp] theorem setPc_evrings (s : State) (k : Nat) (pc : W64) : (setPc s k pc).evrings = s.evrings := rfl
@[simp] theorem setPc_seqs (s : State) (k : Nat) (pc : W64) : (setPc s k pc).seqs = s.seqs := rfl
@[simp] theorem setPc_launches (s : State) (k : Nat) (pc : W64) : (setPc s k pc).launches = s.launches := rfl
@[simp] theorem setPc_regions (s : State) (k : Nat) (pc : W64) : (setPc s k pc).regions = s.regions := rfl
@[simp] theorem setPc_pageReqs (s : State) (k : Nat) (pc : W64) : (setPc s k pc).pageReqs = s.pageReqs := rfl
@[simp] theorem setPc_slots (s : State) (k : Nat) (pc : W64) : (setPc s k pc).slots = s.slots := rfl
@[simp] theorem setPc_ports (s : State) (k : Nat) (pc : W64) : (setPc s k pc).ports = s.ports := rfl
@[simp] theorem setPc_links (s : State) (k : Nat) (pc : W64) : (setPc s k pc).links = s.links := rfl
@[simp] theorem setPc_units (s : State) (k : Nat) (pc : W64) : (setPc s k pc).units = s.units := rfl
@[simp] theorem setPc_hostMem (s : State) (k : Nat) (pc : W64) : (setPc s k pc).hostMem = s.hostMem := rfl
@[simp] theorem setPc_hostPoison (s : State) (k : Nat) (pc : W64) : (setPc s k pc).hostPoison = s.hostPoison := rfl
@[simp] theorem setPc_flash (s : State) (k : Nat) (pc : W64) : (setPc s k pc).flash = s.flash := rfl
@[simp] theorem setPc_fuses (s : State) (k : Nat) (pc : W64) : (setPc s k pc).fuses = s.fuses := rfl
@[simp] theorem setPc_gov (s : State) (k : Nat) (pc : W64) : (setPc s k pc).gov = s.gov := rfl
@[simp] theorem setPc_dev (s : State) (k : Nat) (pc : W64) : (setPc s k pc).dev = s.dev := rfl
@[simp] theorem setPc_nextMsg (s : State) (k : Nat) (pc : W64) : (setPc s k pc).nextMsg = s.nextMsg := rfl
@[simp] theorem setPc_fresh (s : State) (k : Nat) (pc : W64) : (setPc s k pc).fresh = s.fresh := rfl
@[simp] theorem setPc_tick (s : State) (k : Nat) (pc : W64) : (setPc s k pc).tick = s.tick := rfl
@[simp] theorem setPc_pending (s : State) (k : Nat) (pc : W64) : (setPc s k pc).pending = s.pending := rfl

/-! ### Accessors after an update of something else -/

@[simp] theorem thr_modCore (s : State) (c : Nat) (f : Core → Core) (a : Nat) : thr (modCore s c f) a = thr s a := rfl
@[simp] theorem thr_modNode (s : State) (n : Nat) (f : Node → Node) (a : Nat) : thr (modNode s n f) a = thr s a := rfl
@[simp] theorem thr_modBench (s : State) (n : Nat) (f : Bench → Bench) (a : Nat) : thr (modBench s n f) a = thr s a := rfl
@[simp] theorem thr_modHaul (s : State) (n c : Nat) (f : HaulCh → HaulCh) (a : Nat) : thr (modHaul s n c f) a = thr s a := rfl
@[simp] theorem thr_modQueue (s : State) (n q : Nat) (f : SQueue → SQueue) (a : Nat) : thr (modQueue s n q f) a = thr s a := rfl
@[simp] theorem thr_modPort (s : State) (p : Nat) (f : Port → Port) (a : Nat) : thr (modPort s p f) a = thr s a := rfl
@[simp] theorem thr_modLink (s : State) (p : Nat) (f : Link → Link) (a : Nat) : thr (modLink s p f) a = thr s a := rfl
@[simp] theorem thr_modStack (s : State) (n : Nat) (f : Stack → Stack) (a : Nat) : thr (modStack s n f) a = thr s a := rfl
@[simp] theorem thr_modCtx (s : State) (i : Nat) (f : Ctx → Ctx) (a : Nat) : thr (modCtx s i f) a = thr s a := by unfold modCtx; split <;> rfl
@[simp] theorem thr_modRing (s : State) (k : Nat) (f : Ring → Ring) (a : Nat) : thr (modRing s k f) a = thr s a := rfl
@[simp] theorem thr_modEvring (s : State) (k : Nat) (f : EvRing → EvRing) (a : Nat) : thr (modEvring s k f) a = thr s a := rfl
@[simp] theorem thr_modUnit (s : State) (n : Nat) (f : UnitRec → UnitRec) (a : Nat) : thr (modUnit s n f) a = thr s a := rfl
@[simp] theorem thr_modDev (s : State) (f : Dev → Dev) (a : Nat) : thr (modDev s f) a = thr s a := rfl

@[simp] theorem core_modThr (s : State) (k : Nat) (f : Thread → Thread) (a : Nat) : core (modThr s k f) a = core s a := rfl
@[simp] theorem core_modSys (s : State) (k : Nat) (f : SysRegs → SysRegs) (a : Nat) : core (modSys s k f) a = core s a := rfl
@[simp] theorem core_modNode (s : State) (n : Nat) (f : Node → Node) (a : Nat) : core (modNode s n f) a = core s a := rfl
@[simp] theorem core_modBench (s : State) (n : Nat) (f : Bench → Bench) (a : Nat) : core (modBench s n f) a = core s a := rfl
@[simp] theorem core_modHaul (s : State) (n c : Nat) (f : HaulCh → HaulCh) (a : Nat) : core (modHaul s n c f) a = core s a := rfl
@[simp] theorem core_modQueue (s : State) (n q : Nat) (f : SQueue → SQueue) (a : Nat) : core (modQueue s n q f) a = core s a := rfl
@[simp] theorem core_modPort (s : State) (p : Nat) (f : Port → Port) (a : Nat) : core (modPort s p f) a = core s a := rfl
@[simp] theorem core_modLink (s : State) (p : Nat) (f : Link → Link) (a : Nat) : core (modLink s p f) a = core s a := rfl
@[simp] theorem core_modStack (s : State) (n : Nat) (f : Stack → Stack) (a : Nat) : core (modStack s n f) a = core s a := rfl
@[simp] theorem core_modCtx (s : State) (i : Nat) (f : Ctx → Ctx) (a : Nat) : core (modCtx s i f) a = core s a := by unfold modCtx; split <;> rfl
@[simp] theorem core_modRing (s : State) (k : Nat) (f : Ring → Ring) (a : Nat) : core (modRing s k f) a = core s a := rfl
@[simp] theorem core_modEvring (s : State) (k : Nat) (f : EvRing → EvRing) (a : Nat) : core (modEvring s k f) a = core s a := rfl
@[simp] theorem core_modUnit (s : State) (n : Nat) (f : UnitRec → UnitRec) (a : Nat) : core (modUnit s n f) a = core s a := rfl
@[simp] theorem core_modDev (s : State) (f : Dev → Dev) (a : Nat) : core (modDev s f) a = core s a := rfl
@[simp] theorem core_wx (s : State) (k : Nat) (r : BitVec 5) (v : W64) (a : Nat) : core (wx s k r v) a = core s a := by unfold wx; split <;> rfl
@[simp] theorem core_wv (s : State) (k r : Nat) (v : V512) (a : Nat) : core (wv s k r v) a = core s a := rfl
@[simp] theorem core_wp (s : State) (k r : Nat) (v : W64) (a : Nat) : core (wp s k r v) a = core s a := rfl
@[simp] theorem core_setPc (s : State) (k : Nat) (pc : W64) (a : Nat) : core (setPc s k pc) a = core s a := rfl

@[simp] theorem node_modThr (s : State) (k : Nat) (f : Thread → Thread) (a : Nat) : node (modThr s k f) a = node s a := rfl
@[simp] theorem node_modSys (s : State) (k : Nat) (f : SysRegs → SysRegs) (a : Nat) : node (modSys s k f) a = node s a := rfl
@[simp] theorem node_modCore (s : State) (c : Nat) (f : Core → Core) (a : Nat) : node (modCore s c f) a = node s a := rfl
@[simp] theorem node_modBench (s : State) (n : Nat) (f : Bench → Bench) (a : Nat) : node (modBench s n f) a = node s a := rfl
@[simp] theorem node_modHaul (s : State) (n c : Nat) (f : HaulCh → HaulCh) (a : Nat) : node (modHaul s n c f) a = node s a := rfl
@[simp] theorem node_modQueue (s : State) (n q : Nat) (f : SQueue → SQueue) (a : Nat) : node (modQueue s n q f) a = node s a := rfl
@[simp] theorem node_modPort (s : State) (p : Nat) (f : Port → Port) (a : Nat) : node (modPort s p f) a = node s a := rfl
@[simp] theorem node_modLink (s : State) (p : Nat) (f : Link → Link) (a : Nat) : node (modLink s p f) a = node s a := rfl
@[simp] theorem node_modStack (s : State) (n : Nat) (f : Stack → Stack) (a : Nat) : node (modStack s n f) a = node s a := rfl
@[simp] theorem node_modCtx (s : State) (i : Nat) (f : Ctx → Ctx) (a : Nat) : node (modCtx s i f) a = node s a := by unfold modCtx; split <;> rfl
@[simp] theorem node_modRing (s : State) (k : Nat) (f : Ring → Ring) (a : Nat) : node (modRing s k f) a = node s a := rfl
@[simp] theorem node_modEvring (s : State) (k : Nat) (f : EvRing → EvRing) (a : Nat) : node (modEvring s k f) a = node s a := rfl
@[simp] theorem node_modUnit (s : State) (n : Nat) (f : UnitRec → UnitRec) (a : Nat) : node (modUnit s n f) a = node s a := rfl
@[simp] theorem node_modDev (s : State) (f : Dev → Dev) (a : Nat) : node (modDev s f) a = node s a := rfl
@[simp] theorem node_wx (s : State) (k : Nat) (r : BitVec 5) (v : W64) (a : Nat) : node (wx s k r v) a = node s a := by unfold wx; split <;> rfl
@[simp] theorem node_wv (s : State) (k r : Nat) (v : V512) (a : Nat) : node (wv s k r v) a = node s a := rfl
@[simp] theorem node_wp (s : State) (k r : Nat) (v : W64) (a : Nat) : node (wp s k r v) a = node s a := rfl
@[simp] theorem node_setPc (s : State) (k : Nat) (pc : W64) (a : Nat) : node (setPc s k pc) a = node s a := rfl

@[simp] theorem bench_modThr (s : State) (k : Nat) (f : Thread → Thread) (a : Nat) : bench (modThr s k f) a = bench s a := rfl
@[simp] theorem bench_modSys (s : State) (k : Nat) (f : SysRegs → SysRegs) (a : Nat) : bench (modSys s k f) a = bench s a := rfl
@[simp] theorem bench_modCore (s : State) (c : Nat) (f : Core → Core) (a : Nat) : bench (modCore s c f) a = bench s a := rfl
@[simp] theorem bench_modNode (s : State) (n : Nat) (f : Node → Node) (a : Nat) : bench (modNode s n f) a = bench s a := rfl
@[simp] theorem bench_modPort (s : State) (p : Nat) (f : Port → Port) (a : Nat) : bench (modPort s p f) a = bench s a := rfl
@[simp] theorem bench_modLink (s : State) (p : Nat) (f : Link → Link) (a : Nat) : bench (modLink s p f) a = bench s a := rfl
@[simp] theorem bench_modStack (s : State) (n : Nat) (f : Stack → Stack) (a : Nat) : bench (modStack s n f) a = bench s a := rfl
@[simp] theorem bench_modCtx (s : State) (i : Nat) (f : Ctx → Ctx) (a : Nat) : bench (modCtx s i f) a = bench s a := by unfold modCtx; split <;> rfl
@[simp] theorem bench_modRing (s : State) (k : Nat) (f : Ring → Ring) (a : Nat) : bench (modRing s k f) a = bench s a := rfl
@[simp] theorem bench_modEvring (s : State) (k : Nat) (f : EvRing → EvRing) (a : Nat) : bench (modEvring s k f) a = bench s a := rfl
@[simp] theorem bench_modUnit (s : State) (n : Nat) (f : UnitRec → UnitRec) (a : Nat) : bench (modUnit s n f) a = bench s a := rfl
@[simp] theorem bench_modDev (s : State) (f : Dev → Dev) (a : Nat) : bench (modDev s f) a = bench s a := rfl
@[simp] theorem bench_wx (s : State) (k : Nat) (r : BitVec 5) (v : W64) (a : Nat) : bench (wx s k r v) a = bench s a := by unfold wx; split <;> rfl
@[simp] theorem bench_wv (s : State) (k r : Nat) (v : V512) (a : Nat) : bench (wv s k r v) a = bench s a := rfl
@[simp] theorem bench_wp (s : State) (k r : Nat) (v : W64) (a : Nat) : bench (wp s k r v) a = bench s a := rfl
@[simp] theorem bench_setPc (s : State) (k : Nat) (pc : W64) (a : Nat) : bench (setPc s k pc) a = bench s a := rfl

@[simp] theorem haulCh_modThr (s : State) (k : Nat) (f : Thread → Thread) (a e : Nat) : haulCh (modThr s k f) a e = haulCh s a e := rfl
@[simp] theorem haulCh_modSys (s : State) (k : Nat) (f : SysRegs → SysRegs) (a e : Nat) : haulCh (modSys s k f) a e = haulCh s a e := rfl
@[simp] theorem haulCh_modCore (s : State) (c : Nat) (f : Core → Core) (a e : Nat) : haulCh (modCore s c f) a e = haulCh s a e := rfl
@[simp] theorem haulCh_modNode (s : State) (n : Nat) (f : Node → Node) (a e : Nat) : haulCh (modNode s n f) a e = haulCh s a e := rfl
@[simp] theorem haulCh_modPort (s : State) (p : Nat) (f : Port → Port) (a e : Nat) : haulCh (modPort s p f) a e = haulCh s a e := rfl
@[simp] theorem haulCh_modLink (s : State) (p : Nat) (f : Link → Link) (a e : Nat) : haulCh (modLink s p f) a e = haulCh s a e := rfl
@[simp] theorem haulCh_modStack (s : State) (n : Nat) (f : Stack → Stack) (a e : Nat) : haulCh (modStack s n f) a e = haulCh s a e := rfl
@[simp] theorem haulCh_modCtx (s : State) (i : Nat) (f : Ctx → Ctx) (a e : Nat) : haulCh (modCtx s i f) a e = haulCh s a e := by unfold modCtx; split <;> rfl
@[simp] theorem haulCh_modRing (s : State) (k : Nat) (f : Ring → Ring) (a e : Nat) : haulCh (modRing s k f) a e = haulCh s a e := rfl
@[simp] theorem haulCh_modEvring (s : State) (k : Nat) (f : EvRing → EvRing) (a e : Nat) : haulCh (modEvring s k f) a e = haulCh s a e := rfl
@[simp] theorem haulCh_modUnit (s : State) (n : Nat) (f : UnitRec → UnitRec) (a e : Nat) : haulCh (modUnit s n f) a e = haulCh s a e := rfl
@[simp] theorem haulCh_modDev (s : State) (f : Dev → Dev) (a e : Nat) : haulCh (modDev s f) a e = haulCh s a e := rfl
@[simp] theorem haulCh_wx (s : State) (k : Nat) (r : BitVec 5) (v : W64) (a e : Nat) : haulCh (wx s k r v) a e = haulCh s a e := by unfold wx; split <;> rfl
@[simp] theorem haulCh_wv (s : State) (k r : Nat) (v : V512) (a e : Nat) : haulCh (wv s k r v) a e = haulCh s a e := rfl
@[simp] theorem haulCh_wp (s : State) (k r : Nat) (v : W64) (a e : Nat) : haulCh (wp s k r v) a e = haulCh s a e := rfl
@[simp] theorem haulCh_setPc (s : State) (k : Nat) (pc : W64) (a e : Nat) : haulCh (setPc s k pc) a e = haulCh s a e := rfl

@[simp] theorem squeue_modThr (s : State) (k : Nat) (f : Thread → Thread) (a e : Nat) : squeue (modThr s k f) a e = squeue s a e := rfl
@[simp] theorem squeue_modSys (s : State) (k : Nat) (f : SysRegs → SysRegs) (a e : Nat) : squeue (modSys s k f) a e = squeue s a e := rfl
@[simp] theorem squeue_modCore (s : State) (c : Nat) (f : Core → Core) (a e : Nat) : squeue (modCore s c f) a e = squeue s a e := rfl
@[simp] theorem squeue_modNode (s : State) (n : Nat) (f : Node → Node) (a e : Nat) : squeue (modNode s n f) a e = squeue s a e := rfl
@[simp] theorem squeue_modPort (s : State) (p : Nat) (f : Port → Port) (a e : Nat) : squeue (modPort s p f) a e = squeue s a e := rfl
@[simp] theorem squeue_modLink (s : State) (p : Nat) (f : Link → Link) (a e : Nat) : squeue (modLink s p f) a e = squeue s a e := rfl
@[simp] theorem squeue_modStack (s : State) (n : Nat) (f : Stack → Stack) (a e : Nat) : squeue (modStack s n f) a e = squeue s a e := rfl
@[simp] theorem squeue_modCtx (s : State) (i : Nat) (f : Ctx → Ctx) (a e : Nat) : squeue (modCtx s i f) a e = squeue s a e := by unfold modCtx; split <;> rfl
@[simp] theorem squeue_modRing (s : State) (k : Nat) (f : Ring → Ring) (a e : Nat) : squeue (modRing s k f) a e = squeue s a e := rfl
@[simp] theorem squeue_modEvring (s : State) (k : Nat) (f : EvRing → EvRing) (a e : Nat) : squeue (modEvring s k f) a e = squeue s a e := rfl
@[simp] theorem squeue_modUnit (s : State) (n : Nat) (f : UnitRec → UnitRec) (a e : Nat) : squeue (modUnit s n f) a e = squeue s a e := rfl
@[simp] theorem squeue_modDev (s : State) (f : Dev → Dev) (a e : Nat) : squeue (modDev s f) a e = squeue s a e := rfl
@[simp] theorem squeue_wx (s : State) (k : Nat) (r : BitVec 5) (v : W64) (a e : Nat) : squeue (wx s k r v) a e = squeue s a e := by unfold wx; split <;> rfl
@[simp] theorem squeue_wv (s : State) (k r : Nat) (v : V512) (a e : Nat) : squeue (wv s k r v) a e = squeue s a e := rfl
@[simp] theorem squeue_wp (s : State) (k r : Nat) (v : W64) (a e : Nat) : squeue (wp s k r v) a e = squeue s a e := rfl
@[simp] theorem squeue_setPc (s : State) (k : Nat) (pc : W64) (a e : Nat) : squeue (setPc s k pc) a e = squeue s a e := rfl

@[simp] theorem port_modThr (s : State) (k : Nat) (f : Thread → Thread) (a : Nat) : port (modThr s k f) a = port s a := rfl
@[simp] theorem port_modSys (s : State) (k : Nat) (f : SysRegs → SysRegs) (a : Nat) : port (modSys s k f) a = port s a := rfl
@[simp] theorem port_modCore (s : State) (c : Nat) (f : Core → Core) (a : Nat) : port (modCore s c f) a = port s a := rfl
@[simp] theorem port_modNode (s : State) (n : Nat) (f : Node → Node) (a : Nat) : port (modNode s n f) a = port s a := rfl
@[simp] theorem port_modBench (s : State) (n : Nat) (f : Bench → Bench) (a : Nat) : port (modBench s n f) a = port s a := rfl
@[simp] theorem port_modHaul (s : State) (n c : Nat) (f : HaulCh → HaulCh) (a : Nat) : port (modHaul s n c f) a = port s a := rfl
@[simp] theorem port_modQueue (s : State) (n q : Nat) (f : SQueue → SQueue) (a : Nat) : port (modQueue s n q f) a = port s a := rfl
@[simp] theorem port_modLink (s : State) (p : Nat) (f : Link → Link) (a : Nat) : port (modLink s p f) a = port s a := rfl
@[simp] theorem port_modStack (s : State) (n : Nat) (f : Stack → Stack) (a : Nat) : port (modStack s n f) a = port s a := rfl
@[simp] theorem port_modCtx (s : State) (i : Nat) (f : Ctx → Ctx) (a : Nat) : port (modCtx s i f) a = port s a := by unfold modCtx; split <;> rfl
@[simp] theorem port_modRing (s : State) (k : Nat) (f : Ring → Ring) (a : Nat) : port (modRing s k f) a = port s a := rfl
@[simp] theorem port_modEvring (s : State) (k : Nat) (f : EvRing → EvRing) (a : Nat) : port (modEvring s k f) a = port s a := rfl
@[simp] theorem port_modUnit (s : State) (n : Nat) (f : UnitRec → UnitRec) (a : Nat) : port (modUnit s n f) a = port s a := rfl
@[simp] theorem port_modDev (s : State) (f : Dev → Dev) (a : Nat) : port (modDev s f) a = port s a := rfl
@[simp] theorem port_wx (s : State) (k : Nat) (r : BitVec 5) (v : W64) (a : Nat) : port (wx s k r v) a = port s a := by unfold wx; split <;> rfl
@[simp] theorem port_wv (s : State) (k r : Nat) (v : V512) (a : Nat) : port (wv s k r v) a = port s a := rfl
@[simp] theorem port_wp (s : State) (k r : Nat) (v : W64) (a : Nat) : port (wp s k r v) a = port s a := rfl
@[simp] theorem port_setPc (s : State) (k : Nat) (pc : W64) (a : Nat) : port (setPc s k pc) a = port s a := rfl

@[simp] theorem link_modThr (s : State) (k : Nat) (f : Thread → Thread) (a : Nat) : link (modThr s k f) a = link s a := rfl
@[simp] theorem link_modSys (s : State) (k : Nat) (f : SysRegs → SysRegs) (a : Nat) : link (modSys s k f) a = link s a := rfl
@[simp] theorem link_modCore (s : State) (c : Nat) (f : Core → Core) (a : Nat) : link (modCore s c f) a = link s a := rfl
@[simp] theorem link_modNode (s : State) (n : Nat) (f : Node → Node) (a : Nat) : link (modNode s n f) a = link s a := rfl
@[simp] theorem link_modBench (s : State) (n : Nat) (f : Bench → Bench) (a : Nat) : link (modBench s n f) a = link s a := rfl
@[simp] theorem link_modHaul (s : State) (n c : Nat) (f : HaulCh → HaulCh) (a : Nat) : link (modHaul s n c f) a = link s a := rfl
@[simp] theorem link_modQueue (s : State) (n q : Nat) (f : SQueue → SQueue) (a : Nat) : link (modQueue s n q f) a = link s a := rfl
@[simp] theorem link_modPort (s : State) (p : Nat) (f : Port → Port) (a : Nat) : link (modPort s p f) a = link s a := rfl
@[simp] theorem link_modStack (s : State) (n : Nat) (f : Stack → Stack) (a : Nat) : link (modStack s n f) a = link s a := rfl
@[simp] theorem link_modCtx (s : State) (i : Nat) (f : Ctx → Ctx) (a : Nat) : link (modCtx s i f) a = link s a := by unfold modCtx; split <;> rfl
@[simp] theorem link_modRing (s : State) (k : Nat) (f : Ring → Ring) (a : Nat) : link (modRing s k f) a = link s a := rfl
@[simp] theorem link_modEvring (s : State) (k : Nat) (f : EvRing → EvRing) (a : Nat) : link (modEvring s k f) a = link s a := rfl
@[simp] theorem link_modUnit (s : State) (n : Nat) (f : UnitRec → UnitRec) (a : Nat) : link (modUnit s n f) a = link s a := rfl
@[simp] theorem link_modDev (s : State) (f : Dev → Dev) (a : Nat) : link (modDev s f) a = link s a := rfl
@[simp] theorem link_wx (s : State) (k : Nat) (r : BitVec 5) (v : W64) (a : Nat) : link (wx s k r v) a = link s a := by unfold wx; split <;> rfl
@[simp] theorem link_wv (s : State) (k r : Nat) (v : V512) (a : Nat) : link (wv s k r v) a = link s a := rfl
@[simp] theorem link_wp (s : State) (k r : Nat) (v : W64) (a : Nat) : link (wp s k r v) a = link s a := rfl
@[simp] theorem link_setPc (s : State) (k : Nat) (pc : W64) (a : Nat) : link (setPc s k pc) a = link s a := rfl

@[simp] theorem stack_modThr (s : State) (k : Nat) (f : Thread → Thread) (a : Nat) : stack (modThr s k f) a = stack s a := rfl
@[simp] theorem stack_modSys (s : State) (k : Nat) (f : SysRegs → SysRegs) (a : Nat) : stack (modSys s k f) a = stack s a := rfl
@[simp] theorem stack_modCore (s : State) (c : Nat) (f : Core → Core) (a : Nat) : stack (modCore s c f) a = stack s a := rfl
@[simp] theorem stack_modNode (s : State) (n : Nat) (f : Node → Node) (a : Nat) : stack (modNode s n f) a = stack s a := rfl
@[simp] theorem stack_modBench (s : State) (n : Nat) (f : Bench → Bench) (a : Nat) : stack (modBench s n f) a = stack s a := rfl
@[simp] theorem stack_modHaul (s : State) (n c : Nat) (f : HaulCh → HaulCh) (a : Nat) : stack (modHaul s n c f) a = stack s a := rfl
@[simp] theorem stack_modQueue (s : State) (n q : Nat) (f : SQueue → SQueue) (a : Nat) : stack (modQueue s n q f) a = stack s a := rfl
@[simp] theorem stack_modPort (s : State) (p : Nat) (f : Port → Port) (a : Nat) : stack (modPort s p f) a = stack s a := rfl
@[simp] theorem stack_modLink (s : State) (p : Nat) (f : Link → Link) (a : Nat) : stack (modLink s p f) a = stack s a := rfl
@[simp] theorem stack_modCtx (s : State) (i : Nat) (f : Ctx → Ctx) (a : Nat) : stack (modCtx s i f) a = stack s a := by unfold modCtx; split <;> rfl
@[simp] theorem stack_modRing (s : State) (k : Nat) (f : Ring → Ring) (a : Nat) : stack (modRing s k f) a = stack s a := rfl
@[simp] theorem stack_modEvring (s : State) (k : Nat) (f : EvRing → EvRing) (a : Nat) : stack (modEvring s k f) a = stack s a := rfl
@[simp] theorem stack_modUnit (s : State) (n : Nat) (f : UnitRec → UnitRec) (a : Nat) : stack (modUnit s n f) a = stack s a := rfl
@[simp] theorem stack_modDev (s : State) (f : Dev → Dev) (a : Nat) : stack (modDev s f) a = stack s a := rfl
@[simp] theorem stack_wx (s : State) (k : Nat) (r : BitVec 5) (v : W64) (a : Nat) : stack (wx s k r v) a = stack s a := by unfold wx; split <;> rfl
@[simp] theorem stack_wv (s : State) (k r : Nat) (v : V512) (a : Nat) : stack (wv s k r v) a = stack s a := rfl
@[simp] theorem stack_wp (s : State) (k r : Nat) (v : W64) (a : Nat) : stack (wp s k r v) a = stack s a := rfl
@[simp] theorem stack_setPc (s : State) (k : Nat) (pc : W64) (a : Nat) : stack (setPc s k pc) a = stack s a := rfl

@[simp] theorem ring_modThr (s : State) (k : Nat) (f : Thread → Thread) (a : Nat) : ring (modThr s k f) a = ring s a := rfl
@[simp] theorem ring_modSys (s : State) (k : Nat) (f : SysRegs → SysRegs) (a : Nat) : ring (modSys s k f) a = ring s a := rfl
@[simp] theorem ring_modCore (s : State) (c : Nat) (f : Core → Core) (a : Nat) : ring (modCore s c f) a = ring s a := rfl
@[simp] theorem ring_modNode (s : State) (n : Nat) (f : Node → Node) (a : Nat) : ring (modNode s n f) a = ring s a := rfl
@[simp] theorem ring_modBench (s : State) (n : Nat) (f : Bench → Bench) (a : Nat) : ring (modBench s n f) a = ring s a := rfl
@[simp] theorem ring_modHaul (s : State) (n c : Nat) (f : HaulCh → HaulCh) (a : Nat) : ring (modHaul s n c f) a = ring s a := rfl
@[simp] theorem ring_modQueue (s : State) (n q : Nat) (f : SQueue → SQueue) (a : Nat) : ring (modQueue s n q f) a = ring s a := rfl
@[simp] theorem ring_modPort (s : State) (p : Nat) (f : Port → Port) (a : Nat) : ring (modPort s p f) a = ring s a := rfl
@[simp] theorem ring_modLink (s : State) (p : Nat) (f : Link → Link) (a : Nat) : ring (modLink s p f) a = ring s a := rfl
@[simp] theorem ring_modStack (s : State) (n : Nat) (f : Stack → Stack) (a : Nat) : ring (modStack s n f) a = ring s a := rfl
@[simp] theorem ring_modCtx (s : State) (i : Nat) (f : Ctx → Ctx) (a : Nat) : ring (modCtx s i f) a = ring s a := by unfold modCtx; split <;> rfl
@[simp] theorem ring_modEvring (s : State) (k : Nat) (f : EvRing → EvRing) (a : Nat) : ring (modEvring s k f) a = ring s a := rfl
@[simp] theorem ring_modUnit (s : State) (n : Nat) (f : UnitRec → UnitRec) (a : Nat) : ring (modUnit s n f) a = ring s a := rfl
@[simp] theorem ring_wx (s : State) (k : Nat) (r : BitVec 5) (v : W64) (a : Nat) : ring (wx s k r v) a = ring s a := by unfold wx; split <;> rfl
@[simp] theorem ring_wv (s : State) (k r : Nat) (v : V512) (a : Nat) : ring (wv s k r v) a = ring s a := rfl
@[simp] theorem ring_wp (s : State) (k r : Nat) (v : W64) (a : Nat) : ring (wp s k r v) a = ring s a := rfl
@[simp] theorem ring_setPc (s : State) (k : Nat) (pc : W64) (a : Nat) : ring (setPc s k pc) a = ring s a := rfl

@[simp] theorem evring_modThr (s : State) (k : Nat) (f : Thread → Thread) (a : Nat) : evring (modThr s k f) a = evring s a := rfl
@[simp] theorem evring_modSys (s : State) (k : Nat) (f : SysRegs → SysRegs) (a : Nat) : evring (modSys s k f) a = evring s a := rfl
@[simp] theorem evring_modCore (s : State) (c : Nat) (f : Core → Core) (a : Nat) : evring (modCore s c f) a = evring s a := rfl
@[simp] theorem evring_modNode (s : State) (n : Nat) (f : Node → Node) (a : Nat) : evring (modNode s n f) a = evring s a := rfl
@[simp] theorem evring_modBench (s : State) (n : Nat) (f : Bench → Bench) (a : Nat) : evring (modBench s n f) a = evring s a := rfl
@[simp] theorem evring_modHaul (s : State) (n c : Nat) (f : HaulCh → HaulCh) (a : Nat) : evring (modHaul s n c f) a = evring s a := rfl
@[simp] theorem evring_modQueue (s : State) (n q : Nat) (f : SQueue → SQueue) (a : Nat) : evring (modQueue s n q f) a = evring s a := rfl
@[simp] theorem evring_modPort (s : State) (p : Nat) (f : Port → Port) (a : Nat) : evring (modPort s p f) a = evring s a := rfl
@[simp] theorem evring_modLink (s : State) (p : Nat) (f : Link → Link) (a : Nat) : evring (modLink s p f) a = evring s a := rfl
@[simp] theorem evring_modStack (s : State) (n : Nat) (f : Stack → Stack) (a : Nat) : evring (modStack s n f) a = evring s a := rfl
@[simp] theorem evring_modCtx (s : State) (i : Nat) (f : Ctx → Ctx) (a : Nat) : evring (modCtx s i f) a = evring s a := by unfold modCtx; split <;> rfl
@[simp] theorem evring_modRing (s : State) (k : Nat) (f : Ring → Ring) (a : Nat) : evring (modRing s k f) a = evring s a := rfl
@[simp] theorem evring_modUnit (s : State) (n : Nat) (f : UnitRec → UnitRec) (a : Nat) : evring (modUnit s n f) a = evring s a := rfl
@[simp] theorem evring_modDev (s : State) (f : Dev → Dev) (a : Nat) : evring (modDev s f) a = evring s a := rfl
@[simp] theorem evring_wx (s : State) (k : Nat) (r : BitVec 5) (v : W64) (a : Nat) : evring (wx s k r v) a = evring s a := by unfold wx; split <;> rfl
@[simp] theorem evring_wv (s : State) (k r : Nat) (v : V512) (a : Nat) : evring (wv s k r v) a = evring s a := rfl
@[simp] theorem evring_wp (s : State) (k r : Nat) (v : W64) (a : Nat) : evring (wp s k r v) a = evring s a := rfl
@[simp] theorem evring_setPc (s : State) (k : Nat) (pc : W64) (a : Nat) : evring (setPc s k pc) a = evring s a := rfl

@[simp] theorem unitRec_modThr (s : State) (k : Nat) (f : Thread → Thread) (a : Nat) : unitRec (modThr s k f) a = unitRec s a := rfl
@[simp] theorem unitRec_modSys (s : State) (k : Nat) (f : SysRegs → SysRegs) (a : Nat) : unitRec (modSys s k f) a = unitRec s a := rfl
@[simp] theorem unitRec_modCore (s : State) (c : Nat) (f : Core → Core) (a : Nat) : unitRec (modCore s c f) a = unitRec s a := rfl
@[simp] theorem unitRec_modNode (s : State) (n : Nat) (f : Node → Node) (a : Nat) : unitRec (modNode s n f) a = unitRec s a := rfl
@[simp] theorem unitRec_modBench (s : State) (n : Nat) (f : Bench → Bench) (a : Nat) : unitRec (modBench s n f) a = unitRec s a := rfl
@[simp] theorem unitRec_modHaul (s : State) (n c : Nat) (f : HaulCh → HaulCh) (a : Nat) : unitRec (modHaul s n c f) a = unitRec s a := rfl
@[simp] theorem unitRec_modQueue (s : State) (n q : Nat) (f : SQueue → SQueue) (a : Nat) : unitRec (modQueue s n q f) a = unitRec s a := rfl
@[simp] theorem unitRec_modPort (s : State) (p : Nat) (f : Port → Port) (a : Nat) : unitRec (modPort s p f) a = unitRec s a := rfl
@[simp] theorem unitRec_modLink (s : State) (p : Nat) (f : Link → Link) (a : Nat) : unitRec (modLink s p f) a = unitRec s a := rfl
@[simp] theorem unitRec_modStack (s : State) (n : Nat) (f : Stack → Stack) (a : Nat) : unitRec (modStack s n f) a = unitRec s a := rfl
@[simp] theorem unitRec_modCtx (s : State) (i : Nat) (f : Ctx → Ctx) (a : Nat) : unitRec (modCtx s i f) a = unitRec s a := by unfold modCtx; split <;> rfl
@[simp] theorem unitRec_modRing (s : State) (k : Nat) (f : Ring → Ring) (a : Nat) : unitRec (modRing s k f) a = unitRec s a := rfl
@[simp] theorem unitRec_modEvring (s : State) (k : Nat) (f : EvRing → EvRing) (a : Nat) : unitRec (modEvring s k f) a = unitRec s a := rfl
@[simp] theorem unitRec_modDev (s : State) (f : Dev → Dev) (a : Nat) : unitRec (modDev s f) a = unitRec s a := rfl
@[simp] theorem unitRec_wx (s : State) (k : Nat) (r : BitVec 5) (v : W64) (a : Nat) : unitRec (wx s k r v) a = unitRec s a := by unfold wx; split <;> rfl
@[simp] theorem unitRec_wv (s : State) (k r : Nat) (v : V512) (a : Nat) : unitRec (wv s k r v) a = unitRec s a := rfl
@[simp] theorem unitRec_wp (s : State) (k r : Nat) (v : W64) (a : Nat) : unitRec (wp s k r v) a = unitRec s a := rfl
@[simp] theorem unitRec_setPc (s : State) (k : Nat) (pc : W64) (a : Nat) : unitRec (setPc s k pc) a = unitRec s a := rfl

@[simp] theorem rx_modCore (s : State) (c : Nat) (f : Core → Core) (a : Nat) (e : BitVec 5) : rx (modCore s c f) a e = rx s a e := rfl
@[simp] theorem rx_modNode (s : State) (n : Nat) (f : Node → Node) (a : Nat) (e : BitVec 5) : rx (modNode s n f) a e = rx s a e := rfl
@[simp] theorem rx_modBench (s : State) (n : Nat) (f : Bench → Bench) (a : Nat) (e : BitVec 5) : rx (modBench s n f) a e = rx s a e := rfl
@[simp] theorem rx_modHaul (s : State) (n c : Nat) (f : HaulCh → HaulCh) (a : Nat) (e : BitVec 5) : rx (modHaul s n c f) a e = rx s a e := rfl
@[simp] theorem rx_modQueue (s : State) (n q : Nat) (f : SQueue → SQueue) (a : Nat) (e : BitVec 5) : rx (modQueue s n q f) a e = rx s a e := rfl
@[simp] theorem rx_modPort (s : State) (p : Nat) (f : Port → Port) (a : Nat) (e : BitVec 5) : rx (modPort s p f) a e = rx s a e := rfl
@[simp] theorem rx_modLink (s : State) (p : Nat) (f : Link → Link) (a : Nat) (e : BitVec 5) : rx (modLink s p f) a e = rx s a e := rfl
@[simp] theorem rx_modStack (s : State) (n : Nat) (f : Stack → Stack) (a : Nat) (e : BitVec 5) : rx (modStack s n f) a e = rx s a e := rfl
@[simp] theorem rx_modCtx (s : State) (i : Nat) (f : Ctx → Ctx) (a : Nat) (e : BitVec 5) : rx (modCtx s i f) a e = rx s a e := by unfold modCtx; split <;> rfl
@[simp] theorem rx_modRing (s : State) (k : Nat) (f : Ring → Ring) (a : Nat) (e : BitVec 5) : rx (modRing s k f) a e = rx s a e := rfl
@[simp] theorem rx_modEvring (s : State) (k : Nat) (f : EvRing → EvRing) (a : Nat) (e : BitVec 5) : rx (modEvring s k f) a e = rx s a e := rfl
@[simp] theorem rx_modUnit (s : State) (n : Nat) (f : UnitRec → UnitRec) (a : Nat) (e : BitVec 5) : rx (modUnit s n f) a e = rx s a e := rfl
@[simp] theorem rx_modDev (s : State) (f : Dev → Dev) (a : Nat) (e : BitVec 5) : rx (modDev s f) a e = rx s a e := rfl

@[simp] theorem rv_modCore (s : State) (c : Nat) (f : Core → Core) (a e : Nat) : rv (modCore s c f) a e = rv s a e := rfl
@[simp] theorem rv_modNode (s : State) (n : Nat) (f : Node → Node) (a e : Nat) : rv (modNode s n f) a e = rv s a e := rfl
@[simp] theorem rv_modBench (s : State) (n : Nat) (f : Bench → Bench) (a e : Nat) : rv (modBench s n f) a e = rv s a e := rfl
@[simp] theorem rv_modHaul (s : State) (n c : Nat) (f : HaulCh → HaulCh) (a e : Nat) : rv (modHaul s n c f) a e = rv s a e := rfl
@[simp] theorem rv_modQueue (s : State) (n q : Nat) (f : SQueue → SQueue) (a e : Nat) : rv (modQueue s n q f) a e = rv s a e := rfl
@[simp] theorem rv_modPort (s : State) (p : Nat) (f : Port → Port) (a e : Nat) : rv (modPort s p f) a e = rv s a e := rfl
@[simp] theorem rv_modLink (s : State) (p : Nat) (f : Link → Link) (a e : Nat) : rv (modLink s p f) a e = rv s a e := rfl
@[simp] theorem rv_modStack (s : State) (n : Nat) (f : Stack → Stack) (a e : Nat) : rv (modStack s n f) a e = rv s a e := rfl
@[simp] theorem rv_modCtx (s : State) (i : Nat) (f : Ctx → Ctx) (a e : Nat) : rv (modCtx s i f) a e = rv s a e := by unfold modCtx; split <;> rfl
@[simp] theorem rv_modRing (s : State) (k : Nat) (f : Ring → Ring) (a e : Nat) : rv (modRing s k f) a e = rv s a e := rfl
@[simp] theorem rv_modEvring (s : State) (k : Nat) (f : EvRing → EvRing) (a e : Nat) : rv (modEvring s k f) a e = rv s a e := rfl
@[simp] theorem rv_modUnit (s : State) (n : Nat) (f : UnitRec → UnitRec) (a e : Nat) : rv (modUnit s n f) a e = rv s a e := rfl
@[simp] theorem rv_modDev (s : State) (f : Dev → Dev) (a e : Nat) : rv (modDev s f) a e = rv s a e := rfl

@[simp] theorem rp_modCore (s : State) (c : Nat) (f : Core → Core) (a e : Nat) : rp (modCore s c f) a e = rp s a e := rfl
@[simp] theorem rp_modNode (s : State) (n : Nat) (f : Node → Node) (a e : Nat) : rp (modNode s n f) a e = rp s a e := rfl
@[simp] theorem rp_modBench (s : State) (n : Nat) (f : Bench → Bench) (a e : Nat) : rp (modBench s n f) a e = rp s a e := rfl
@[simp] theorem rp_modHaul (s : State) (n c : Nat) (f : HaulCh → HaulCh) (a e : Nat) : rp (modHaul s n c f) a e = rp s a e := rfl
@[simp] theorem rp_modQueue (s : State) (n q : Nat) (f : SQueue → SQueue) (a e : Nat) : rp (modQueue s n q f) a e = rp s a e := rfl
@[simp] theorem rp_modPort (s : State) (p : Nat) (f : Port → Port) (a e : Nat) : rp (modPort s p f) a e = rp s a e := rfl
@[simp] theorem rp_modLink (s : State) (p : Nat) (f : Link → Link) (a e : Nat) : rp (modLink s p f) a e = rp s a e := rfl
@[simp] theorem rp_modStack (s : State) (n : Nat) (f : Stack → Stack) (a e : Nat) : rp (modStack s n f) a e = rp s a e := rfl
@[simp] theorem rp_modCtx (s : State) (i : Nat) (f : Ctx → Ctx) (a e : Nat) : rp (modCtx s i f) a e = rp s a e := by unfold modCtx; split <;> rfl
@[simp] theorem rp_modRing (s : State) (k : Nat) (f : Ring → Ring) (a e : Nat) : rp (modRing s k f) a e = rp s a e := rfl
@[simp] theorem rp_modEvring (s : State) (k : Nat) (f : EvRing → EvRing) (a e : Nat) : rp (modEvring s k f) a e = rp s a e := rfl
@[simp] theorem rp_modUnit (s : State) (n : Nat) (f : UnitRec → UnitRec) (a e : Nat) : rp (modUnit s n f) a e = rp s a e := rfl
@[simp] theorem rp_modDev (s : State) (f : Dev → Dev) (a e : Nat) : rp (modDev s f) a e = rp s a e := rfl

@[simp] theorem ctxOf_modThr (s : State) (k : Nat) (f : Thread → Thread) (a : Nat) : ctxOf (modThr s k f) a = ctxOf s a := rfl
@[simp] theorem ctxOf_modSys (s : State) (k : Nat) (f : SysRegs → SysRegs) (a : Nat) : ctxOf (modSys s k f) a = ctxOf s a := rfl
@[simp] theorem ctxOf_modNode (s : State) (n : Nat) (f : Node → Node) (a : Nat) : ctxOf (modNode s n f) a = ctxOf s a := rfl
@[simp] theorem ctxOf_modBench (s : State) (n : Nat) (f : Bench → Bench) (a : Nat) : ctxOf (modBench s n f) a = ctxOf s a := rfl
@[simp] theorem ctxOf_modHaul (s : State) (n c : Nat) (f : HaulCh → HaulCh) (a : Nat) : ctxOf (modHaul s n c f) a = ctxOf s a := rfl
@[simp] theorem ctxOf_modQueue (s : State) (n q : Nat) (f : SQueue → SQueue) (a : Nat) : ctxOf (modQueue s n q f) a = ctxOf s a := rfl
@[simp] theorem ctxOf_modPort (s : State) (p : Nat) (f : Port → Port) (a : Nat) : ctxOf (modPort s p f) a = ctxOf s a := rfl
@[simp] theorem ctxOf_modLink (s : State) (p : Nat) (f : Link → Link) (a : Nat) : ctxOf (modLink s p f) a = ctxOf s a := rfl
@[simp] theorem ctxOf_modStack (s : State) (n : Nat) (f : Stack → Stack) (a : Nat) : ctxOf (modStack s n f) a = ctxOf s a := rfl
@[simp] theorem ctxOf_modCtx (s : State) (i : Nat) (f : Ctx → Ctx) (a : Nat) : ctxOf (modCtx s i f) a = ctxOf s a := by unfold modCtx; split <;> rfl
@[simp] theorem ctxOf_modRing (s : State) (k : Nat) (f : Ring → Ring) (a : Nat) : ctxOf (modRing s k f) a = ctxOf s a := rfl
@[simp] theorem ctxOf_modEvring (s : State) (k : Nat) (f : EvRing → EvRing) (a : Nat) : ctxOf (modEvring s k f) a = ctxOf s a := rfl
@[simp] theorem ctxOf_modUnit (s : State) (n : Nat) (f : UnitRec → UnitRec) (a : Nat) : ctxOf (modUnit s n f) a = ctxOf s a := rfl
@[simp] theorem ctxOf_modDev (s : State) (f : Dev → Dev) (a : Nat) : ctxOf (modDev s f) a = ctxOf s a := rfl
@[simp] theorem ctxOf_wx (s : State) (k : Nat) (r : BitVec 5) (v : W64) (a : Nat) : ctxOf (wx s k r v) a = ctxOf s a := by unfold wx; split <;> rfl
@[simp] theorem ctxOf_wv (s : State) (k r : Nat) (v : V512) (a : Nat) : ctxOf (wv s k r v) a = ctxOf s a := rfl
@[simp] theorem ctxOf_wp (s : State) (k r : Nat) (v : W64) (a : Nat) : ctxOf (wp s k r v) a = ctxOf s a := rfl
@[simp] theorem ctxOf_setPc (s : State) (k : Nat) (pc : W64) (a : Nat) : ctxOf (setPc s k pc) a = ctxOf s a := rfl

@[simp] theorem coreThreads_modThr (s : State) (k : Nat) (f : Thread → Thread) (a : Nat) : coreThreads (modThr s k f) a = coreThreads s a := rfl
@[simp] theorem coreThreads_modSys (s : State) (k : Nat) (f : SysRegs → SysRegs) (a : Nat) : coreThreads (modSys s k f) a = coreThreads s a := rfl
@[simp] theorem coreThreads_modNode (s : State) (n : Nat) (f : Node → Node) (a : Nat) : coreThreads (modNode s n f) a = coreThreads s a := rfl
@[simp] theorem coreThreads_modBench (s : State) (n : Nat) (f : Bench → Bench) (a : Nat) : coreThreads (modBench s n f) a = coreThreads s a := rfl
@[simp] theorem coreThreads_modHaul (s : State) (n c : Nat) (f : HaulCh → HaulCh) (a : Nat) : coreThreads (modHaul s n c f) a = coreThreads s a := rfl
@[simp] theorem coreThreads_modQueue (s : State) (n q : Nat) (f : SQueue → SQueue) (a : Nat) : coreThreads (modQueue s n q f) a = coreThreads s a := rfl
@[simp] theorem coreThreads_modPort (s : State) (p : Nat) (f : Port → Port) (a : Nat) : coreThreads (modPort s p f) a = coreThreads s a := rfl
@[simp] theorem coreThreads_modLink (s : State) (p : Nat) (f : Link → Link) (a : Nat) : coreThreads (modLink s p f) a = coreThreads s a := rfl
@[simp] theorem coreThreads_modStack (s : State) (n : Nat) (f : Stack → Stack) (a : Nat) : coreThreads (modStack s n f) a = coreThreads s a := rfl
@[simp] theorem coreThreads_modCtx (s : State) (i : Nat) (f : Ctx → Ctx) (a : Nat) : coreThreads (modCtx s i f) a = coreThreads s a := by unfold modCtx; split <;> rfl
@[simp] theorem coreThreads_modRing (s : State) (k : Nat) (f : Ring → Ring) (a : Nat) : coreThreads (modRing s k f) a = coreThreads s a := rfl
@[simp] theorem coreThreads_modEvring (s : State) (k : Nat) (f : EvRing → EvRing) (a : Nat) : coreThreads (modEvring s k f) a = coreThreads s a := rfl
@[simp] theorem coreThreads_modUnit (s : State) (n : Nat) (f : UnitRec → UnitRec) (a : Nat) : coreThreads (modUnit s n f) a = coreThreads s a := rfl
@[simp] theorem coreThreads_modDev (s : State) (f : Dev → Dev) (a : Nat) : coreThreads (modDev s f) a = coreThreads s a := rfl
@[simp] theorem coreThreads_wx (s : State) (k : Nat) (r : BitVec 5) (v : W64) (a : Nat) : coreThreads (wx s k r v) a = coreThreads s a := by unfold wx; split <;> rfl
@[simp] theorem coreThreads_wv (s : State) (k r : Nat) (v : V512) (a : Nat) : coreThreads (wv s k r v) a = coreThreads s a := rfl
@[simp] theorem coreThreads_wp (s : State) (k r : Nat) (v : W64) (a : Nat) : coreThreads (wp s k r v) a = coreThreads s a := rfl
@[simp] theorem coreThreads_setPc (s : State) (k : Nat) (pc : W64) (a : Nat) : coreThreads (setPc s k pc) a = coreThreads s a := rfl

@[simp] theorem policy_modThr (s : State) (k : Nat) (f : Thread → Thread) (a : Nat) : policy (modThr s k f) a = policy s a := rfl
@[simp] theorem policy_modSys (s : State) (k : Nat) (f : SysRegs → SysRegs) (a : Nat) : policy (modSys s k f) a = policy s a := rfl
@[simp] theorem policy_modCore (s : State) (c : Nat) (f : Core → Core) (a : Nat) : policy (modCore s c f) a = policy s a := rfl
@[simp] theorem policy_modNode (s : State) (n : Nat) (f : Node → Node) (a : Nat) : policy (modNode s n f) a = policy s a := rfl
@[simp] theorem policy_modBench (s : State) (n : Nat) (f : Bench → Bench) (a : Nat) : policy (modBench s n f) a = policy s a := rfl
@[simp] theorem policy_modHaul (s : State) (n c : Nat) (f : HaulCh → HaulCh) (a : Nat) : policy (modHaul s n c f) a = policy s a := rfl
@[simp] theorem policy_modQueue (s : State) (n q : Nat) (f : SQueue → SQueue) (a : Nat) : policy (modQueue s n q f) a = policy s a := rfl
@[simp] theorem policy_modPort (s : State) (p : Nat) (f : Port → Port) (a : Nat) : policy (modPort s p f) a = policy s a := rfl
@[simp] theorem policy_modLink (s : State) (p : Nat) (f : Link → Link) (a : Nat) : policy (modLink s p f) a = policy s a := rfl
@[simp] theorem policy_modStack (s : State) (n : Nat) (f : Stack → Stack) (a : Nat) : policy (modStack s n f) a = policy s a := rfl
@[simp] theorem policy_modCtx (s : State) (i : Nat) (f : Ctx → Ctx) (a : Nat) : policy (modCtx s i f) a = policy s a := by unfold modCtx; split <;> rfl
@[simp] theorem policy_modRing (s : State) (k : Nat) (f : Ring → Ring) (a : Nat) : policy (modRing s k f) a = policy s a := rfl
@[simp] theorem policy_modEvring (s : State) (k : Nat) (f : EvRing → EvRing) (a : Nat) : policy (modEvring s k f) a = policy s a := rfl
@[simp] theorem policy_modUnit (s : State) (n : Nat) (f : UnitRec → UnitRec) (a : Nat) : policy (modUnit s n f) a = policy s a := rfl
@[simp] theorem policy_wx (s : State) (k : Nat) (r : BitVec 5) (v : W64) (a : Nat) : policy (wx s k r v) a = policy s a := by unfold wx; split <;> rfl
@[simp] theorem policy_wv (s : State) (k r : Nat) (v : V512) (a : Nat) : policy (wv s k r v) a = policy s a := rfl
@[simp] theorem policy_wp (s : State) (k r : Nat) (v : W64) (a : Nat) : policy (wp s k r v) a = policy s a := rfl
@[simp] theorem policy_setPc (s : State) (k : Nat) (pc : W64) (a : Nat) : policy (setPc s k pc) a = policy s a := rfl

@[simp] theorem dark_modThr (s : State) (k : Nat) (f : Thread → Thread)  : dark (modThr s k f) = dark s := rfl
@[simp] theorem dark_modSys (s : State) (k : Nat) (f : SysRegs → SysRegs)  : dark (modSys s k f) = dark s := rfl
@[simp] theorem dark_modCore (s : State) (c : Nat) (f : Core → Core)  : dark (modCore s c f) = dark s := rfl
@[simp] theorem dark_modNode (s : State) (n : Nat) (f : Node → Node)  : dark (modNode s n f) = dark s := rfl
@[simp] theorem dark_modBench (s : State) (n : Nat) (f : Bench → Bench)  : dark (modBench s n f) = dark s := rfl
@[simp] theorem dark_modHaul (s : State) (n c : Nat) (f : HaulCh → HaulCh)  : dark (modHaul s n c f) = dark s := rfl
@[simp] theorem dark_modQueue (s : State) (n q : Nat) (f : SQueue → SQueue)  : dark (modQueue s n q f) = dark s := rfl
@[simp] theorem dark_modPort (s : State) (p : Nat) (f : Port → Port)  : dark (modPort s p f) = dark s := rfl
@[simp] theorem dark_modLink (s : State) (p : Nat) (f : Link → Link)  : dark (modLink s p f) = dark s := rfl
@[simp] theorem dark_modStack (s : State) (n : Nat) (f : Stack → Stack)  : dark (modStack s n f) = dark s := rfl
@[simp] theorem dark_modCtx (s : State) (i : Nat) (f : Ctx → Ctx)  : dark (modCtx s i f) = dark s := by unfold modCtx; split <;> rfl
@[simp] theorem dark_modRing (s : State) (k : Nat) (f : Ring → Ring)  : dark (modRing s k f) = dark s := rfl
@[simp] theorem dark_modEvring (s : State) (k : Nat) (f : EvRing → EvRing)  : dark (modEvring s k f) = dark s := rfl
@[simp] theorem dark_modUnit (s : State) (n : Nat) (f : UnitRec → UnitRec)  : dark (modUnit s n f) = dark s := rfl
@[simp] theorem dark_wx (s : State) (k : Nat) (r : BitVec 5) (v : W64)  : dark (wx s k r v) = dark s := by unfold wx; split <;> rfl
@[simp] theorem dark_wv (s : State) (k r : Nat) (v : V512)  : dark (wv s k r v) = dark s := rfl
@[simp] theorem dark_wp (s : State) (k r : Nat) (v : W64)  : dark (wp s k r v) = dark s := rfl
@[simp] theorem dark_setPc (s : State) (k : Nat) (pc : W64)  : dark (setPc s k pc) = dark s := rfl

@[simp] theorem heldQuad_modThr (s : State) (k : Nat) (f : Thread → Thread) (a : Nat) : heldQuad (modThr s k f) a = heldQuad s a := rfl
@[simp] theorem heldQuad_modSys (s : State) (k : Nat) (f : SysRegs → SysRegs) (a : Nat) : heldQuad (modSys s k f) a = heldQuad s a := rfl
@[simp] theorem heldQuad_modCore (s : State) (c : Nat) (f : Core → Core) (a : Nat) : heldQuad (modCore s c f) a = heldQuad s a := rfl
@[simp] theorem heldQuad_modNode (s : State) (n : Nat) (f : Node → Node) (a : Nat) : heldQuad (modNode s n f) a = heldQuad s a := rfl
@[simp] theorem heldQuad_modBench (s : State) (n : Nat) (f : Bench → Bench) (a : Nat) : heldQuad (modBench s n f) a = heldQuad s a := rfl
@[simp] theorem heldQuad_modHaul (s : State) (n c : Nat) (f : HaulCh → HaulCh) (a : Nat) : heldQuad (modHaul s n c f) a = heldQuad s a := rfl
@[simp] theorem heldQuad_modQueue (s : State) (n q : Nat) (f : SQueue → SQueue) (a : Nat) : heldQuad (modQueue s n q f) a = heldQuad s a := rfl
@[simp] theorem heldQuad_modPort (s : State) (p : Nat) (f : Port → Port) (a : Nat) : heldQuad (modPort s p f) a = heldQuad s a := rfl
@[simp] theorem heldQuad_modLink (s : State) (p : Nat) (f : Link → Link) (a : Nat) : heldQuad (modLink s p f) a = heldQuad s a := rfl
@[simp] theorem heldQuad_modStack (s : State) (n : Nat) (f : Stack → Stack) (a : Nat) : heldQuad (modStack s n f) a = heldQuad s a := rfl
@[simp] theorem heldQuad_modCtx (s : State) (i : Nat) (f : Ctx → Ctx) (a : Nat) : heldQuad (modCtx s i f) a = heldQuad s a := by unfold modCtx; split <;> rfl
@[simp] theorem heldQuad_modRing (s : State) (k : Nat) (f : Ring → Ring) (a : Nat) : heldQuad (modRing s k f) a = heldQuad s a := rfl
@[simp] theorem heldQuad_modEvring (s : State) (k : Nat) (f : EvRing → EvRing) (a : Nat) : heldQuad (modEvring s k f) a = heldQuad s a := rfl
@[simp] theorem heldQuad_modUnit (s : State) (n : Nat) (f : UnitRec → UnitRec) (a : Nat) : heldQuad (modUnit s n f) a = heldQuad s a := rfl
@[simp] theorem heldQuad_wx (s : State) (k : Nat) (r : BitVec 5) (v : W64) (a : Nat) : heldQuad (wx s k r v) a = heldQuad s a := by unfold wx; split <;> rfl
@[simp] theorem heldQuad_wv (s : State) (k r : Nat) (v : V512) (a : Nat) : heldQuad (wv s k r v) a = heldQuad s a := rfl
@[simp] theorem heldQuad_wp (s : State) (k r : Nat) (v : W64) (a : Nat) : heldQuad (wp s k r v) a = heldQuad s a := rfl
@[simp] theorem heldQuad_setPc (s : State) (k : Nat) (pc : W64) (a : Nat) : heldQuad (setPc s k pc) a = heldQuad s a := rfl

@[simp] theorem held_modThr (s : State) (k : Nat) (f : Thread → Thread) (a : Nat) : held (modThr s k f) a = held s a := rfl
@[simp] theorem held_modSys (s : State) (k : Nat) (f : SysRegs → SysRegs) (a : Nat) : held (modSys s k f) a = held s a := rfl
@[simp] theorem held_modCore (s : State) (c : Nat) (f : Core → Core) (a : Nat) : held (modCore s c f) a = held s a := rfl
@[simp] theorem held_modNode (s : State) (n : Nat) (f : Node → Node) (a : Nat) : held (modNode s n f) a = held s a := rfl
@[simp] theorem held_modBench (s : State) (n : Nat) (f : Bench → Bench) (a : Nat) : held (modBench s n f) a = held s a := rfl
@[simp] theorem held_modHaul (s : State) (n c : Nat) (f : HaulCh → HaulCh) (a : Nat) : held (modHaul s n c f) a = held s a := rfl
@[simp] theorem held_modQueue (s : State) (n q : Nat) (f : SQueue → SQueue) (a : Nat) : held (modQueue s n q f) a = held s a := rfl
@[simp] theorem held_modPort (s : State) (p : Nat) (f : Port → Port) (a : Nat) : held (modPort s p f) a = held s a := rfl
@[simp] theorem held_modLink (s : State) (p : Nat) (f : Link → Link) (a : Nat) : held (modLink s p f) a = held s a := rfl
@[simp] theorem held_modStack (s : State) (n : Nat) (f : Stack → Stack) (a : Nat) : held (modStack s n f) a = held s a := rfl
@[simp] theorem held_modCtx (s : State) (i : Nat) (f : Ctx → Ctx) (a : Nat) : held (modCtx s i f) a = held s a := by unfold modCtx; split <;> rfl
@[simp] theorem held_modRing (s : State) (k : Nat) (f : Ring → Ring) (a : Nat) : held (modRing s k f) a = held s a := rfl
@[simp] theorem held_modEvring (s : State) (k : Nat) (f : EvRing → EvRing) (a : Nat) : held (modEvring s k f) a = held s a := rfl
@[simp] theorem held_modUnit (s : State) (n : Nat) (f : UnitRec → UnitRec) (a : Nat) : held (modUnit s n f) a = held s a := rfl
@[simp] theorem held_wx (s : State) (k : Nat) (r : BitVec 5) (v : W64) (a : Nat) : held (wx s k r v) a = held s a := by unfold wx; split <;> rfl
@[simp] theorem held_wv (s : State) (k r : Nat) (v : V512) (a : Nat) : held (wv s k r v) a = held s a := rfl
@[simp] theorem held_wp (s : State) (k r : Nat) (v : W64) (a : Nat) : held (wp s k r v) a = held s a := rfl
@[simp] theorem held_setPc (s : State) (k : Nat) (pc : W64) (a : Nat) : held (setPc s k pc) a = held s a := rfl

@[simp] theorem isFenced_modThr (s : State) (k : Nat) (f : Thread → Thread) (a e : Nat) : isFenced (modThr s k f) a e = isFenced s a e := rfl
@[simp] theorem isFenced_modSys (s : State) (k : Nat) (f : SysRegs → SysRegs) (a e : Nat) : isFenced (modSys s k f) a e = isFenced s a e := rfl
@[simp] theorem isFenced_modCore (s : State) (c : Nat) (f : Core → Core) (a e : Nat) : isFenced (modCore s c f) a e = isFenced s a e := rfl
@[simp] theorem isFenced_modNode (s : State) (n : Nat) (f : Node → Node) (a e : Nat) : isFenced (modNode s n f) a e = isFenced s a e := rfl
@[simp] theorem isFenced_modBench (s : State) (n : Nat) (f : Bench → Bench) (a e : Nat) : isFenced (modBench s n f) a e = isFenced s a e := rfl
@[simp] theorem isFenced_modHaul (s : State) (n c : Nat) (f : HaulCh → HaulCh) (a e : Nat) : isFenced (modHaul s n c f) a e = isFenced s a e := rfl
@[simp] theorem isFenced_modQueue (s : State) (n q : Nat) (f : SQueue → SQueue) (a e : Nat) : isFenced (modQueue s n q f) a e = isFenced s a e := rfl
@[simp] theorem isFenced_modPort (s : State) (p : Nat) (f : Port → Port) (a e : Nat) : isFenced (modPort s p f) a e = isFenced s a e := rfl
@[simp] theorem isFenced_modLink (s : State) (p : Nat) (f : Link → Link) (a e : Nat) : isFenced (modLink s p f) a e = isFenced s a e := rfl
@[simp] theorem isFenced_modStack (s : State) (n : Nat) (f : Stack → Stack) (a e : Nat) : isFenced (modStack s n f) a e = isFenced s a e := rfl
@[simp] theorem isFenced_modCtx (s : State) (i : Nat) (f : Ctx → Ctx) (a e : Nat) : isFenced (modCtx s i f) a e = isFenced s a e := by unfold modCtx; split <;> rfl
@[simp] theorem isFenced_modRing (s : State) (k : Nat) (f : Ring → Ring) (a e : Nat) : isFenced (modRing s k f) a e = isFenced s a e := rfl
@[simp] theorem isFenced_modEvring (s : State) (k : Nat) (f : EvRing → EvRing) (a e : Nat) : isFenced (modEvring s k f) a e = isFenced s a e := rfl
@[simp] theorem isFenced_modUnit (s : State) (n : Nat) (f : UnitRec → UnitRec) (a e : Nat) : isFenced (modUnit s n f) a e = isFenced s a e := rfl
@[simp] theorem isFenced_wx (s : State) (k : Nat) (r : BitVec 5) (v : W64) (a e : Nat) : isFenced (wx s k r v) a e = isFenced s a e := by unfold wx; split <;> rfl
@[simp] theorem isFenced_wv (s : State) (k r : Nat) (v : V512) (a e : Nat) : isFenced (wv s k r v) a e = isFenced s a e := rfl
@[simp] theorem isFenced_wp (s : State) (k r : Nat) (v : W64) (a e : Nat) : isFenced (wp s k r v) a e = isFenced s a e := rfl
@[simp] theorem isFenced_setPc (s : State) (k : Nat) (pc : W64) (a e : Nat) : isFenced (setPc s k pc) a e = isFenced s a e := rfl

@[simp] theorem coreFenced_modThr (s : State) (k : Nat) (f : Thread → Thread) (a : Nat) : coreFenced (modThr s k f) a = coreFenced s a := rfl
@[simp] theorem coreFenced_modSys (s : State) (k : Nat) (f : SysRegs → SysRegs) (a : Nat) : coreFenced (modSys s k f) a = coreFenced s a := rfl
@[simp] theorem coreFenced_modCore (s : State) (c : Nat) (f : Core → Core) (a : Nat) : coreFenced (modCore s c f) a = coreFenced s a := rfl
@[simp] theorem coreFenced_modNode (s : State) (n : Nat) (f : Node → Node) (a : Nat) : coreFenced (modNode s n f) a = coreFenced s a := rfl
@[simp] theorem coreFenced_modBench (s : State) (n : Nat) (f : Bench → Bench) (a : Nat) : coreFenced (modBench s n f) a = coreFenced s a := rfl
@[simp] theorem coreFenced_modHaul (s : State) (n c : Nat) (f : HaulCh → HaulCh) (a : Nat) : coreFenced (modHaul s n c f) a = coreFenced s a := rfl
@[simp] theorem coreFenced_modQueue (s : State) (n q : Nat) (f : SQueue → SQueue) (a : Nat) : coreFenced (modQueue s n q f) a = coreFenced s a := rfl
@[simp] theorem coreFenced_modPort (s : State) (p : Nat) (f : Port → Port) (a : Nat) : coreFenced (modPort s p f) a = coreFenced s a := rfl
@[simp] theorem coreFenced_modLink (s : State) (p : Nat) (f : Link → Link) (a : Nat) : coreFenced (modLink s p f) a = coreFenced s a := rfl
@[simp] theorem coreFenced_modStack (s : State) (n : Nat) (f : Stack → Stack) (a : Nat) : coreFenced (modStack s n f) a = coreFenced s a := rfl
@[simp] theorem coreFenced_modCtx (s : State) (i : Nat) (f : Ctx → Ctx) (a : Nat) : coreFenced (modCtx s i f) a = coreFenced s a := by unfold modCtx; split <;> rfl
@[simp] theorem coreFenced_modRing (s : State) (k : Nat) (f : Ring → Ring) (a : Nat) : coreFenced (modRing s k f) a = coreFenced s a := rfl
@[simp] theorem coreFenced_modEvring (s : State) (k : Nat) (f : EvRing → EvRing) (a : Nat) : coreFenced (modEvring s k f) a = coreFenced s a := rfl
@[simp] theorem coreFenced_modUnit (s : State) (n : Nat) (f : UnitRec → UnitRec) (a : Nat) : coreFenced (modUnit s n f) a = coreFenced s a := rfl
@[simp] theorem coreFenced_wx (s : State) (k : Nat) (r : BitVec 5) (v : W64) (a : Nat) : coreFenced (wx s k r v) a = coreFenced s a := by unfold wx; split <;> rfl
@[simp] theorem coreFenced_wv (s : State) (k r : Nat) (v : V512) (a : Nat) : coreFenced (wv s k r v) a = coreFenced s a := rfl
@[simp] theorem coreFenced_wp (s : State) (k r : Nat) (v : W64) (a : Nat) : coreFenced (wp s k r v) a = coreFenced s a := rfl
@[simp] theorem coreFenced_setPc (s : State) (k : Nat) (pc : W64) (a : Nat) : coreFenced (setPc s k pc) a = coreFenced s a := rfl

@[simp] theorem goodCore_modThr (s : State) (k : Nat) (f : Thread → Thread) (a : Nat) : goodCore (modThr s k f) a = goodCore s a := rfl
@[simp] theorem goodCore_modSys (s : State) (k : Nat) (f : SysRegs → SysRegs) (a : Nat) : goodCore (modSys s k f) a = goodCore s a := rfl
@[simp] theorem goodCore_modCore (s : State) (c : Nat) (f : Core → Core) (a : Nat) : goodCore (modCore s c f) a = goodCore s a := rfl
@[simp] theorem goodCore_modNode (s : State) (n : Nat) (f : Node → Node) (a : Nat) : goodCore (modNode s n f) a = goodCore s a := rfl
@[simp] theorem goodCore_modBench (s : State) (n : Nat) (f : Bench → Bench) (a : Nat) : goodCore (modBench s n f) a = goodCore s a := rfl
@[simp] theorem goodCore_modHaul (s : State) (n c : Nat) (f : HaulCh → HaulCh) (a : Nat) : goodCore (modHaul s n c f) a = goodCore s a := rfl
@[simp] theorem goodCore_modQueue (s : State) (n q : Nat) (f : SQueue → SQueue) (a : Nat) : goodCore (modQueue s n q f) a = goodCore s a := rfl
@[simp] theorem goodCore_modPort (s : State) (p : Nat) (f : Port → Port) (a : Nat) : goodCore (modPort s p f) a = goodCore s a := rfl
@[simp] theorem goodCore_modLink (s : State) (p : Nat) (f : Link → Link) (a : Nat) : goodCore (modLink s p f) a = goodCore s a := rfl
@[simp] theorem goodCore_modStack (s : State) (n : Nat) (f : Stack → Stack) (a : Nat) : goodCore (modStack s n f) a = goodCore s a := rfl
@[simp] theorem goodCore_modCtx (s : State) (i : Nat) (f : Ctx → Ctx) (a : Nat) : goodCore (modCtx s i f) a = goodCore s a := by unfold modCtx; split <;> rfl
@[simp] theorem goodCore_modRing (s : State) (k : Nat) (f : Ring → Ring) (a : Nat) : goodCore (modRing s k f) a = goodCore s a := rfl
@[simp] theorem goodCore_modEvring (s : State) (k : Nat) (f : EvRing → EvRing) (a : Nat) : goodCore (modEvring s k f) a = goodCore s a := rfl
@[simp] theorem goodCore_modUnit (s : State) (n : Nat) (f : UnitRec → UnitRec) (a : Nat) : goodCore (modUnit s n f) a = goodCore s a := rfl
@[simp] theorem goodCore_wx (s : State) (k : Nat) (r : BitVec 5) (v : W64) (a : Nat) : goodCore (wx s k r v) a = goodCore s a := by unfold wx; split <;> rfl
@[simp] theorem goodCore_wv (s : State) (k r : Nat) (v : V512) (a : Nat) : goodCore (wv s k r v) a = goodCore s a := rfl
@[simp] theorem goodCore_wp (s : State) (k r : Nat) (v : W64) (a : Nat) : goodCore (wp s k r v) a = goodCore s a := rfl
@[simp] theorem goodCore_setPc (s : State) (k : Nat) (pc : W64) (a : Nat) : goodCore (setPc s k pc) a = goodCore s a := rfl

@[simp] theorem goodCount_modThr (s : State) (k : Nat) (f : Thread → Thread)  : goodCount (modThr s k f) = goodCount s := rfl
@[simp] theorem goodCount_modSys (s : State) (k : Nat) (f : SysRegs → SysRegs)  : goodCount (modSys s k f) = goodCount s := rfl
@[simp] theorem goodCount_modCore (s : State) (c : Nat) (f : Core → Core)  : goodCount (modCore s c f) = goodCount s := rfl
@[simp] theorem goodCount_modNode (s : State) (n : Nat) (f : Node → Node)  : goodCount (modNode s n f) = goodCount s := rfl
@[simp] theorem goodCount_modBench (s : State) (n : Nat) (f : Bench → Bench)  : goodCount (modBench s n f) = goodCount s := rfl
@[simp] theorem goodCount_modHaul (s : State) (n c : Nat) (f : HaulCh → HaulCh)  : goodCount (modHaul s n c f) = goodCount s := rfl
@[simp] theorem goodCount_modQueue (s : State) (n q : Nat) (f : SQueue → SQueue)  : goodCount (modQueue s n q f) = goodCount s := rfl
@[simp] theorem goodCount_modPort (s : State) (p : Nat) (f : Port → Port)  : goodCount (modPort s p f) = goodCount s := rfl
@[simp] theorem goodCount_modLink (s : State) (p : Nat) (f : Link → Link)  : goodCount (modLink s p f) = goodCount s := rfl
@[simp] theorem goodCount_modStack (s : State) (n : Nat) (f : Stack → Stack)  : goodCount (modStack s n f) = goodCount s := rfl
@[simp] theorem goodCount_modCtx (s : State) (i : Nat) (f : Ctx → Ctx)  : goodCount (modCtx s i f) = goodCount s := by unfold modCtx; split <;> rfl
@[simp] theorem goodCount_modRing (s : State) (k : Nat) (f : Ring → Ring)  : goodCount (modRing s k f) = goodCount s := rfl
@[simp] theorem goodCount_modEvring (s : State) (k : Nat) (f : EvRing → EvRing)  : goodCount (modEvring s k f) = goodCount s := rfl
@[simp] theorem goodCount_modUnit (s : State) (n : Nat) (f : UnitRec → UnitRec)  : goodCount (modUnit s n f) = goodCount s := rfl
@[simp] theorem goodCount_wx (s : State) (k : Nat) (r : BitVec 5) (v : W64)  : goodCount (wx s k r v) = goodCount s := by unfold wx; split <;> rfl
@[simp] theorem goodCount_wv (s : State) (k r : Nat) (v : V512)  : goodCount (wv s k r v) = goodCount s := rfl
@[simp] theorem goodCount_wp (s : State) (k r : Nat) (v : W64)  : goodCount (wp s k r v) = goodCount s := rfl
@[simp] theorem goodCount_setPc (s : State) (k : Nat) (pc : W64)  : goodCount (setPc s k pc) = goodCount s := rfl

@[simp] theorem pacerOf_modThr (s : State) (k : Nat) (f : Thread → Thread) (a : Nat) : pacerOf (modThr s k f) a = pacerOf s a := rfl
@[simp] theorem pacerOf_modSys (s : State) (k : Nat) (f : SysRegs → SysRegs) (a : Nat) : pacerOf (modSys s k f) a = pacerOf s a := rfl
@[simp] theorem pacerOf_modCore (s : State) (c : Nat) (f : Core → Core) (a : Nat) : pacerOf (modCore s c f) a = pacerOf s a := rfl
@[simp] theorem pacerOf_modBench (s : State) (n : Nat) (f : Bench → Bench) (a : Nat) : pacerOf (modBench s n f) a = pacerOf s a := rfl
@[simp] theorem pacerOf_modHaul (s : State) (n c : Nat) (f : HaulCh → HaulCh) (a : Nat) : pacerOf (modHaul s n c f) a = pacerOf s a := rfl
@[simp] theorem pacerOf_modQueue (s : State) (n q : Nat) (f : SQueue → SQueue) (a : Nat) : pacerOf (modQueue s n q f) a = pacerOf s a := rfl
@[simp] theorem pacerOf_modPort (s : State) (p : Nat) (f : Port → Port) (a : Nat) : pacerOf (modPort s p f) a = pacerOf s a := rfl
@[simp] theorem pacerOf_modLink (s : State) (p : Nat) (f : Link → Link) (a : Nat) : pacerOf (modLink s p f) a = pacerOf s a := rfl
@[simp] theorem pacerOf_modStack (s : State) (n : Nat) (f : Stack → Stack) (a : Nat) : pacerOf (modStack s n f) a = pacerOf s a := rfl
@[simp] theorem pacerOf_modCtx (s : State) (i : Nat) (f : Ctx → Ctx) (a : Nat) : pacerOf (modCtx s i f) a = pacerOf s a := by unfold modCtx; split <;> rfl
@[simp] theorem pacerOf_modRing (s : State) (k : Nat) (f : Ring → Ring) (a : Nat) : pacerOf (modRing s k f) a = pacerOf s a := rfl
@[simp] theorem pacerOf_modEvring (s : State) (k : Nat) (f : EvRing → EvRing) (a : Nat) : pacerOf (modEvring s k f) a = pacerOf s a := rfl
@[simp] theorem pacerOf_modUnit (s : State) (n : Nat) (f : UnitRec → UnitRec) (a : Nat) : pacerOf (modUnit s n f) a = pacerOf s a := rfl
@[simp] theorem pacerOf_modDev (s : State) (f : Dev → Dev) (a : Nat) : pacerOf (modDev s f) a = pacerOf s a := rfl
@[simp] theorem pacerOf_wx (s : State) (k : Nat) (r : BitVec 5) (v : W64) (a : Nat) : pacerOf (wx s k r v) a = pacerOf s a := by unfold wx; split <;> rfl
@[simp] theorem pacerOf_wv (s : State) (k r : Nat) (v : V512) (a : Nat) : pacerOf (wv s k r v) a = pacerOf s a := rfl
@[simp] theorem pacerOf_wp (s : State) (k r : Nat) (v : W64) (a : Nat) : pacerOf (wp s k r v) a = pacerOf s a := rfl
@[simp] theorem pacerOf_setPc (s : State) (k : Nat) (pc : W64) (a : Nat) : pacerOf (setPc s k pc) a = pacerOf s a := rfl

/-! ### Accessors after an update of the same table -/

@[simp] theorem thr_modThr_self (s : State) (k : Nat) (f : Thread → Thread) : thr (modThr s k f) k = f (thr s k) :=
  Tbl.getD_set_self _ _ _ _
theorem thr_modThr_ne (s : State) {k j : Nat} (f : Thread → Thread) (h : j ≠ k) : thr (modThr s k f) j = thr s j :=
  Tbl.getD_set_ne _ _ _ h

@[simp] theorem core_modCore_self (s : State) (k : Nat) (f : Core → Core) : core (modCore s k f) k = f (core s k) :=
  Tbl.getD_set_self _ _ _ _
theorem core_modCore_ne (s : State) {k j : Nat} (f : Core → Core) (h : j ≠ k) : core (modCore s k f) j = core s j :=
  Tbl.getD_set_ne _ _ _ h

@[simp] theorem node_modNode_self (s : State) (k : Nat) (f : Node → Node) : node (modNode s k f) k = f (node s k) :=
  Tbl.getD_set_self _ _ _ _
theorem node_modNode_ne (s : State) {k j : Nat} (f : Node → Node) (h : j ≠ k) : node (modNode s k f) j = node s j :=
  Tbl.getD_set_ne _ _ _ h

@[simp] theorem bench_modBench_self (s : State) (k : Nat) (f : Bench → Bench) : bench (modBench s k f) k = f (bench s k) :=
  Tbl.getD_set_self _ _ _ _
theorem bench_modBench_ne (s : State) {k j : Nat} (f : Bench → Bench) (h : j ≠ k) : bench (modBench s k f) j = bench s j :=
  Tbl.getD_set_ne _ _ _ h

@[simp] theorem port_modPort_self (s : State) (k : Nat) (f : Port → Port) : port (modPort s k f) k = f (port s k) :=
  Tbl.getD_set_self _ _ _ _
theorem port_modPort_ne (s : State) {k j : Nat} (f : Port → Port) (h : j ≠ k) : port (modPort s k f) j = port s j :=
  Tbl.getD_set_ne _ _ _ h

@[simp] theorem link_modLink_self (s : State) (k : Nat) (f : Link → Link) : link (modLink s k f) k = f (link s k) :=
  Tbl.getD_set_self _ _ _ _
theorem link_modLink_ne (s : State) {k j : Nat} (f : Link → Link) (h : j ≠ k) : link (modLink s k f) j = link s j :=
  Tbl.getD_set_ne _ _ _ h

@[simp] theorem stack_modStack_self (s : State) (k : Nat) (f : Stack → Stack) : stack (modStack s k f) k = f (stack s k) :=
  Tbl.getD_set_self _ _ _ _
theorem stack_modStack_ne (s : State) {k j : Nat} (f : Stack → Stack) (h : j ≠ k) : stack (modStack s k f) j = stack s j :=
  Tbl.getD_set_ne _ _ _ h

@[simp] theorem ring_modRing_self (s : State) (k : Nat) (f : Ring → Ring) : ring (modRing s k f) k = f (ring s k) :=
  Tbl.getD_set_self _ _ _ _
theorem ring_modRing_ne (s : State) {k j : Nat} (f : Ring → Ring) (h : j ≠ k) : ring (modRing s k f) j = ring s j :=
  Tbl.getD_set_ne _ _ _ h

@[simp] theorem evring_modEvring_self (s : State) (k : Nat) (f : EvRing → EvRing) : evring (modEvring s k f) k = f (evring s k) :=
  Tbl.getD_set_self _ _ _ _
theorem evring_modEvring_ne (s : State) {k j : Nat} (f : EvRing → EvRing) (h : j ≠ k) : evring (modEvring s k f) j = evring s j :=
  Tbl.getD_set_ne _ _ _ h

@[simp] theorem unitRec_modUnit_self (s : State) (k : Nat) (f : UnitRec → UnitRec) : unitRec (modUnit s k f) k = f (unitRec s k) :=
  Tbl.getD_set_self _ _ _ _
theorem unitRec_modUnit_ne (s : State) {k j : Nat} (f : UnitRec → UnitRec) (h : j ≠ k) : unitRec (modUnit s k f) j = unitRec s j :=
  Tbl.getD_set_ne _ _ _ h

@[simp] theorem haulCh_modHaul_self (s : State) (n c : Nat) (f : HaulCh → HaulCh) :
    haulCh (modHaul s n c f) n c = f (haulCh s n c) := by simp [haulCh, modHaul]

@[simp] theorem squeue_modQueue_self (s : State) (n q : Nat) (f : SQueue → SQueue) :
    squeue (modQueue s n q f) n q = f (squeue s n q) := by simp [squeue, modQueue]

@[simp] theorem modDev_dev (s : State) (f : Dev → Dev) : (modDev s f).dev = f s.dev := rfl

theorem modCtx_self (s : State) (i : Nat) (f : Ctx → Ctx) {c : Ctx} (h : Tbl.get? s.ctxs i = some c) :
    Tbl.get? (modCtx s i f).ctxs i = some (f c) := by simp [modCtx, h]

/-! ### Registers -/

/-- The program counter after it is set. -/
@[simp] theorem setPc_pc (s : State) (k : Nat) (pc : W64) : (thr (setPc s k pc) k).pc = pc := by simp [setPc]

/-- Register x0 reads as zero in every state (R60). -/
@[simp] theorem rx_zero (s : State) (k : Nat) : rx s k 0 = 0 := rfl

/-- What an x register reads after a write: x0 still reads as zero (R60). -/
theorem rx_wx (s : State) (k : Nat) (r q : BitVec 5) (v : W64) :
    rx (wx s k r v) k q = if q = 0 then 0 else if q = r then v else rx s k q := by
  unfold rx
  split
  · rfl
  · rename_i hq
    unfold wx
    by_cases hr : r = 0
    · subst hr; simp only [if_true]; split
      · rename_i h; exact absurd h hq
      · rfl
    · simp only [hr, if_false, thr_modThr_self, Tbl.getD_set]
      by_cases h : q = r
      · simp [h]
      · have : ¬ q.toNat = r.toNat := fun e => h (BitVec.eq_of_toNat_eq e)
        simp [h, this]

/-- A write to another thread's registers changes nothing that a thread reads. -/
theorem rx_wx_ne (s : State) {k j : Nat} (r q : BitVec 5) (v : W64) (h : j ≠ k) : rx (wx s k r v) j q = rx s j q := by
  unfold rx wx
  split
  · rfl
  · split
    · rfl
    · rw [thr_modThr_ne s _ h]

/-- What a vector register reads after a write. -/
theorem rv_wv (s : State) (k r q : Nat) (v : V512) : rv (wv s k r v) k q = if q = r then v else rv s k q := by
  simp [rv, wv, Tbl.getD_set]

/-- What a predicate register reads after a write. -/
theorem rp_wp (s : State) (k r q : Nat) (v : W64) : rp (wp s k r v) k q = if q = r then v else rp s k q := by
  simp [rp, wp, Tbl.getD_set]

/-- A write of an x register leaves everything else of its thread alone. -/
theorem thr_wx (s : State) (k : Nat) (r : BitVec 5) (v : W64) :
    thr (wx s k r v) k = { thr s k with x := if r = 0 then (thr s k).x else Tbl.set (thr s k).x r.toNat v } := by
  unfold wx; split <;> simp

@[simp] theorem rx_modThr_pc (s : State) (k j : Nat) (r : BitVec 5) (pc : W64) : rx (setPc s k pc) j r = rx s j r := by
  unfold rx setPc
  by_cases h : j = k
  · subst h; simp
  · rw [thr_modThr_ne s _ h]

end Sys2Proof.Machine
end

