-- ==== Sys2Proof/Laws/Issue.lean ====
section
/-!
SUPPORT. What issuing an instruction does when the thread is ready, and everything that an instruction's retirement
can do.
-/
namespace Sys2Proof.Machine

/-- A thread that fetches what it is to run goes on with it. -/
theorem fetched_stands {h : Hart} {want : Decoded} {pc : W64} {s : State} (hs : Stands h want pc s) (hw : want ≠ .reserved) (go : State) :
    fetched s h.key h want pc go = go := by
  unfold Stands at hs
  unfold fetched fetchThen
  generalize fetchInstr s h.key pc h.compact = r at hs ⊢
  cases r with
  | bits a b =>
    dsimp only at hs ⊢
    rw [hs]
    cases want with
    | reserved => exact absurd rfl hw
    | instr i => exact if_pos rfl
    | rep f => exact if_pos rfl
  | unseen => rfl
  | fault e => exact hs.elim
  | wait => exact hs.elim
  | ask l p va => exact hs.elim

/-- A ready thread that fetches the instruction runs the instruction's own effect, and its outcome is applied. -/
theorem issue_ready {h : Hart} {i : Instr} {regs : List (BitVec 5)} {s : State} (hr : Ready h regs s) (hh : i.hart? = some h)
    (hf : Fetches i s) (engine : Nat) (body : State → Nat → Res) :
    issue h i engine regs body s = .next (applyRes h.key h.len (instrBytes i) (body s h.key)) := by
  obtain ⟨h1, h2, h3, h4, h5⟩ := hr
  have hb : regs.any (busyReg s h.key) = false := by simpa using h4
  simp only [Fetches, hh] at hf
  have e := fetched_stands hf (by simp) (runInstr h engine (instrBytes i) body s h.key)
  have r : runInstr h engine (instrBytes i) body s h.key = applyRes h.key h.len (instrBytes i) (body s h.key) := by
    simp [runInstr, h5]
  rw [r] at e
  simp only [Hart.key] at *
  simp [issue, issueThread, h1, h2, h3, hb, r, e]

/-- Without an instruction under way there is none to drop. -/
@[simp] theorem dropJob_none {s : State} {k : Nat} (h : (thr s k).job = none) : dropJob s k = s := by
  simp [dropJob, h]

/-- A thread that may issue runs. -/
theorem canIssue_run {s : State} {k : Nat} (h : canIssue s k = true) : (thr s k).run = .running ∧ (thr s k).wait = none ∧
    (thr s k).dbg = false ∧ boundaryWork s k = false ∧ held s (k / 64) = false := by
  simp only [canIssue, Bool.and_eq_true, decide_eq_true_eq, beq_iff_eq, Bool.not_eq_true', Option.isNone_iff_eq_none] at h
  obtain ⟨⟨⟨⟨⟨-, h2⟩, h3⟩, h4⟩, h5⟩, h6⟩ := h
  exact ⟨h2, h4, h3, h5, h6⟩

end Sys2Proof.Machine
end

