-- ==== Sys2Proof/Laws/Events.lean ====
section
/-!
SUPPORT. Everything that a message, an event record, a count and the retirement of an instruction can change: one lemma
per operation and field that it leaves alone, and what each does to the threads and cores.
-/
namespace Sys2Proof.Machine

/-! ### sendMsg -/

@[simp] theorem sendMsg_threads (s : State) (cls src dst : Nat) (pay : Payload) : (sendMsg s cls src dst pay).threads = s.threads := rfl
@[simp] theorem sendMsg_cores (s : State) (cls src dst : Nat) (pay : Payload) : (sendMsg s cls src dst pay).cores = s.cores := rfl
@[simp] theorem sendMsg_nodes (s : State) (cls src dst : Nat) (pay : Payload) : (sendMsg s cls src dst pay).nodes = s.nodes := rfl
@[simp] theorem sendMsg_benches (s : State) (cls src dst : Nat) (pay : Payload) : (sendMsg s cls src dst pay).benches = s.benches := rfl
@[simp] theorem sendMsg_hbm (s : State) (cls src dst : Nat) (pay : Payload) : (sendMsg s cls src dst pay).hbm = s.hbm := rfl
@[simp] theorem sendMsg_hbmPoison (s : State) (cls src dst : Nat) (pay : Payload) : (sendMsg s cls src dst pay).hbmPoison = s.hbmPoison := rfl
@[simp] theorem sendMsg_ls (s : State) (cls src dst : Nat) (pay : Payload) : (sendMsg s cls src dst pay).ls = s.ls := rfl
@[simp] theorem sendMsg_lsPoison (s : State) (cls src dst : Nat) (pay : Payload) : (sendMsg s cls src dst pay).lsPoison = s.lsPoison := rfl
@[simp] theorem sendMsg_coreCells (s : State) (cls src dst : Nat) (pay : Payload) : (sendMsg s cls src dst pay).coreCells = s.coreCells := rfl
@[simp] theorem sendMsg_wbCells (s : State) (cls src dst : Nat) (pay : Payload) : (sendMsg s cls src dst pay).wbCells = s.wbCells := rfl
@[simp] theorem sendMsg_wbWaits (s : State) (cls src dst : Nat) (pay : Payload) : (sendMsg s cls src dst pay).wbWaits = s.wbWaits := rfl
@[simp] theorem sendMsg_watches (s : State) (cls src dst : Nat) (pay : Payload) : (sendMsg s cls src dst pay).watches = s.watches := rfl
@[simp] theorem sendMsg_locks (s : State) (cls src dst : Nat) (pay : Payload) : (sendMsg s cls src dst pay).locks = s.locks := rfl
@[simp] theorem sendMsg_hbmStacks (s : State) (cls src dst : Nat) (pay : Payload) : (sendMsg s cls src dst pay).hbmStacks = s.hbmStacks := rfl
@[simp] theorem sendMsg_skip (s : State) (cls src dst : Nat) (pay : Payload) : (sendMsg s cls src dst pay).skip = s.skip := rfl
@[simp] theorem sendMsg_inbox (s : State) (cls src dst : Nat) (pay : Payload) : (sendMsg s cls src dst pay).inbox = s.inbox := rfl
@[simp] theorem sendMsg_ctxs (s : State) (cls src dst : Nat) (pay : Payload) : (sendMsg s cls src dst pay).ctxs = s.ctxs := rfl
@[simp] theorem sendMsg_rings (s : State) (cls src dst : Nat) (pay : Payload) : (sendMsg s cls src dst pay).rings = s.rings := rfl
@[simp] theorem sendMsg_evrings (s : State) (cls src dst : Nat) (pay : Payload) : (sendMsg s cls src dst pay).evrings = s.evrings := rfl
@[simp] theorem sendMsg_seqs (s : State) (cls src dst : Nat) (pay : Payload) : (sendMsg s cls src dst pay).seqs = s.seqs := rfl
@[simp] theorem sendMsg_launches (s : State) (cls src dst : Nat) (pay : Payload) : (sendMsg s cls src dst pay).launches = s.launches := rfl
@[simp] theorem sendMsg_regions (s : State) (cls src dst : Nat) (pay : Payload) : (sendMsg s cls src dst pay).regions = s.regions := rfl
@[simp] theorem sendMsg_pageReqs (s : State) (cls src dst : Nat) (pay : Payload) : (sendMsg s cls src dst pay).pageReqs = s.pageReqs := rfl
@[simp] theorem sendMsg_slots (s : State) (cls src dst : Nat) (pay : Payload) : (sendMsg s cls src dst pay).slots = s.slots := rfl
@[simp] theorem sendMsg_ports (s : State) (cls src dst : Nat) (pay : Payload) : (sendMsg s cls src dst pay).ports = s.ports := rfl
@[simp] theorem sendMsg_links (s : State) (cls src dst : Nat) (pay : Payload) : (sendMsg s cls src dst pay).links = s.links := rfl
@[simp] theorem sendMsg_units (s : State) (cls src dst : Nat) (pay : Payload) : (sendMsg s cls src dst pay).units = s.units := rfl
@[simp] theorem sendMsg_hostMem (s : State) (cls src dst : Nat) (pay : Payload) : (sendMsg s cls src dst pay).hostMem = s.hostMem := rfl
@[simp] theorem sendMsg_flash (s : State) (cls src dst : Nat) (pay : Payload) : (sendMsg s cls src dst pay).flash = s.flash := rfl
@[simp] theorem sendMsg_fuses (s : State) (cls src dst : Nat) (pay : Payload) : (sendMsg s cls src dst pay).fuses = s.fuses := rfl
@[simp] theorem sendMsg_gov (s : State) (cls src dst : Nat) (pay : Payload) : (sendMsg s cls src dst pay).gov = s.gov := rfl
@[simp] theorem sendMsg_dev (s : State) (cls src dst : Nat) (pay : Payload) : (sendMsg s cls src dst pay).dev = s.dev := rfl
@[simp] theorem sendMsg_fresh (s : State) (cls src dst : Nat) (pay : Payload) : (sendMsg s cls src dst pay).fresh = s.fresh := rfl
@[simp] theorem sendMsg_tick (s : State) (cls src dst : Nat) (pay : Payload) : (sendMsg s cls src dst pay).tick = s.tick := rfl
@[simp] theorem sendMsg_pending (s : State) (cls src dst : Nat) (pay : Payload) : (sendMsg s cls src dst pay).pending = s.pending := rfl

/-! ### handMsg -/

@[simp] theorem handMsg_threads (s : State) (cls n : Nat) (pay : Payload) : (handMsg s cls n pay).threads = s.threads := rfl
@[simp] theorem handMsg_cores (s : State) (cls n : Nat) (pay : Payload) : (handMsg s cls n pay).cores = s.cores := rfl
@[simp] theorem handMsg_nodes (s : State) (cls n : Nat) (pay : Payload) : (handMsg s cls n pay).nodes = s.nodes := rfl
@[simp] theorem handMsg_benches (s : State) (cls n : Nat) (pay : Payload) : (handMsg s cls n pay).benches = s.benches := rfl
@[simp] theorem handMsg_hbm (s : State) (cls n : Nat) (pay : Payload) : (handMsg s cls n pay).hbm = s.hbm := rfl
@[simp] theorem handMsg_hbmPoison (s : State) (cls n : Nat) (pay : Payload) : (handMsg s cls n pay).hbmPoison = s.hbmPoison := rfl
@[simp] theorem handMsg_ls (s : State) (cls n : Nat) (pay : Payload) : (handMsg s cls n pay).ls = s.ls := rfl
@[simp] theorem handMsg_lsPoison (s : State) (cls n : Nat) (pay : Payload) : (handMsg s cls n pay).lsPoison = s.lsPoison := rfl
@[simp] theorem handMsg_coreCells (s : State) (cls n : Nat) (pay : Payload) : (handMsg s cls n pay).coreCells = s.coreCells := rfl
@[simp] theorem handMsg_wbCells (s : State) (cls n : Nat) (pay : Payload) : (handMsg s cls n pay).wbCells = s.wbCells := rfl
@[simp] theorem handMsg_wbWaits (s : State) (cls n : Nat) (pay : Payload) : (handMsg s cls n pay).wbWaits = s.wbWaits := rfl
@[simp] theorem handMsg_watches (s : State) (cls n : Nat) (pay : Payload) : (handMsg s cls n pay).watches = s.watches := rfl
@[simp] theorem handMsg_locks (s : State) (cls n : Nat) (pay : Payload) : (handMsg s cls n pay).locks = s.locks := rfl
@[simp] theorem handMsg_hbmStacks (s : State) (cls n : Nat) (pay : Payload) : (handMsg s cls n pay).hbmStacks = s.hbmStacks := rfl
@[simp] theorem handMsg_skip (s : State) (cls n : Nat) (pay : Payload) : (handMsg s cls n pay).skip = s.skip := rfl
@[simp] theorem handMsg_mesh (s : State) (cls n : Nat) (pay : Payload) : (handMsg s cls n pay).mesh = s.mesh := rfl
@[simp] theorem handMsg_ctxs (s : State) (cls n : Nat) (pay : Payload) : (handMsg s cls n pay).ctxs = s.ctxs := rfl
@[simp] theorem handMsg_rings (s : State) (cls n : Nat) (pay : Payload) : (handMsg s cls n pay).rings = s.rings := rfl
@[simp] theorem handMsg_evrings (s : State) (cls n : Nat) (pay : Payload) : (handMsg s cls n pay).evrings = s.evrings := rfl
@[simp] theorem handMsg_seqs (s : State) (cls n : Nat) (pay : Payload) : (handMsg s cls n pay).seqs = s.seqs := rfl
@[simp] theorem handMsg_launches (s : State) (cls n : Nat) (pay : Payload) : (handMsg s cls n pay).launches = s.launches := rfl
@[simp] theorem handMsg_regions (s : State) (cls n : Nat) (pay : Payload) : (handMsg s cls n pay).regions = s.regions := rfl
@[simp] theorem handMsg_pageReqs (s : State) (cls n : Nat) (pay : Payload) : (handMsg s cls n pay).pageReqs = s.pageReqs := rfl
@[simp] theorem handMsg_slots (s : State) (cls n : Nat) (pay : Payload) : (handMsg s cls n pay).slots = s.slots := rfl
@[simp] theorem handMsg_ports (s : State) (cls n : Nat) (pay : Payload) : (handMsg s cls n pay).ports = s.ports := rfl
@[simp] theorem handMsg_links (s : State) (cls n : Nat) (pay : Payload) : (handMsg s cls n pay).links = s.links := rfl
@[simp] theorem handMsg_units (s : State) (cls n : Nat) (pay : Payload) : (handMsg s cls n pay).units = s.units := rfl
@[simp] theorem handMsg_hostMem (s : State) (cls n : Nat) (pay : Payload) : (handMsg s cls n pay).hostMem = s.hostMem := rfl
@[simp] theorem handMsg_flash (s : State) (cls n : Nat) (pay : Payload) : (handMsg s cls n pay).flash = s.flash := rfl
@[simp] theorem handMsg_fuses (s : State) (cls n : Nat) (pay : Payload) : (handMsg s cls n pay).fuses = s.fuses := rfl
@[simp] theorem handMsg_gov (s : State) (cls n : Nat) (pay : Payload) : (handMsg s cls n pay).gov = s.gov := rfl
@[simp] theorem handMsg_dev (s : State) (cls n : Nat) (pay : Payload) : (handMsg s cls n pay).dev = s.dev := rfl
@[simp] theorem handMsg_fresh (s : State) (cls n : Nat) (pay : Payload) : (handMsg s cls n pay).fresh = s.fresh := rfl
@[simp] theorem handMsg_tick (s : State) (cls n : Nat) (pay : Payload) : (handMsg s cls n pay).tick = s.tick := rfl
@[simp] theorem handMsg_pending (s : State) (cls n : Nat) (pay : Payload) : (handMsg s cls n pay).pending = s.pending := rfl

/-! ### inboxDrop -/

@[simp] theorem inboxDrop_threads (s : State) (m : Nat) : (inboxDrop s m).threads = s.threads := rfl
@[simp] theorem inboxDrop_cores (s : State) (m : Nat) : (inboxDrop s m).cores = s.cores := rfl
@[simp] theorem inboxDrop_nodes (s : State) (m : Nat) : (inboxDrop s m).nodes = s.nodes := rfl
@[simp] theorem inboxDrop_benches (s : State) (m : Nat) : (inboxDrop s m).benches = s.benches := rfl
@[simp] theorem inboxDrop_hbm (s : State) (m : Nat) : (inboxDrop s m).hbm = s.hbm := rfl
@[simp] theorem inboxDrop_hbmPoison (s : State) (m : Nat) : (inboxDrop s m).hbmPoison = s.hbmPoison := rfl
@[simp] theorem inboxDrop_ls (s : State) (m : Nat) : (inboxDrop s m).ls = s.ls := rfl
@[simp] theorem inboxDrop_lsPoison (s : State) (m : Nat) : (inboxDrop s m).lsPoison = s.lsPoison := rfl
@[simp] theorem inboxDrop_coreCells (s : State) (m : Nat) : (inboxDrop s m).coreCells = s.coreCells := rfl
@[simp] theorem inboxDrop_wbCells (s : State) (m : Nat) : (inboxDrop s m).wbCells = s.wbCells := rfl
@[simp] theorem inboxDrop_wbWaits (s : State) (m : Nat) : (inboxDrop s m).wbWaits = s.wbWaits := rfl
@[simp] theorem inboxDrop_watches (s : State) (m : Nat) : (inboxDrop s m).watches = s.watches := rfl
@[simp] theorem inboxDrop_locks (s : State) (m : Nat) : (inboxDrop s m).locks = s.locks := rfl
@[simp] theorem inboxDrop_hbmStacks (s : State) (m : Nat) : (inboxDrop s m).hbmStacks = s.hbmStacks := rfl
@[simp] theorem inboxDrop_skip (s : State) (m : Nat) : (inboxDrop s m).skip = s.skip := rfl
@[simp] theorem inboxDrop_mesh (s : State) (m : Nat) : (inboxDrop s m).mesh = s.mesh := rfl
@[simp] theorem inboxDrop_ctxs (s : State) (m : Nat) : (inboxDrop s m).ctxs = s.ctxs := rfl
@[simp] theorem inboxDrop_rings (s : State) (m : Nat) : (inboxDrop s m).rings = s.rings := rfl
@[simp] theorem inboxDrop_evrings (s : State) (m : Nat) : (inboxDrop s m).evrings = s.evrings := rfl
@[simp] theorem inboxDrop_seqs (s : State) (m : Nat) : (inboxDrop s m).seqs = s.seqs := rfl
@[simp] theorem inboxDrop_launches (s : State) (m : Nat) : (inboxDrop s m).launches = s.launches := rfl
@[simp] theorem inboxDrop_regions (s : State) (m : Nat) : (inboxDrop s m).regions = s.regions := rfl
@[simp] theorem inboxDrop_pageReqs (s : State) (m : Nat) : (inboxDrop s m).pageReqs = s.pageReqs := rfl
@[simp] theorem inboxDrop_slots (s : State) (m : Nat) : (inboxDrop s m).slots = s.slots := rfl
@[simp] theorem inboxDrop_ports (s : State) (m : Nat) : (inboxDrop s m).ports = s.ports := rfl
@[simp] theorem inboxDrop_links (s : State) (m : Nat) : (inboxDrop s m).links = s.links := rfl
@[simp] theorem inboxDrop_units (s : State) (m : Nat) : (inboxDrop s m).units = s.units := rfl
@[simp] theorem inboxDrop_hostMem (s : State) (m : Nat) : (inboxDrop s m).hostMem = s.hostMem := rfl
@[simp] theorem inboxDrop_flash (s : State) (m : Nat) : (inboxDrop s m).flash = s.flash := rfl
@[simp] theorem inboxDrop_fuses (s : State) (m : Nat) : (inboxDrop s m).fuses = s.fuses := rfl
@[simp] theorem inboxDrop_gov (s : State) (m : Nat) : (inboxDrop s m).gov = s.gov := rfl
@[simp] theorem inboxDrop_dev (s : State) (m : Nat) : (inboxDrop s m).dev = s.dev := rfl
@[simp] theorem inboxDrop_nextMsg (s : State) (m : Nat) : (inboxDrop s m).nextMsg = s.nextMsg := rfl
@[simp] theorem inboxDrop_fresh (s : State) (m : Nat) : (inboxDrop s m).fresh = s.fresh := rfl
@[simp] theorem inboxDrop_tick (s : State) (m : Nat) : (inboxDrop s m).tick = s.tick := rfl
@[simp] theorem inboxDrop_pending (s : State) (m : Nat) : (inboxDrop s m).pending = s.pending := rfl

/-! ### reply -/

@[simp] theorem reply_threads (s : State) (x : Msg) (pay : Payload) : (reply s x pay).threads = s.threads := rfl
@[simp] theorem reply_cores (s : State) (x : Msg) (pay : Payload) : (reply s x pay).cores = s.cores := rfl
@[simp] theorem reply_nodes (s : State) (x : Msg) (pay : Payload) : (reply s x pay).nodes = s.nodes := rfl
@[simp] theorem reply_benches (s : State) (x : Msg) (pay : Payload) : (reply s x pay).benches = s.benches := rfl
@[simp] theorem reply_hbm (s : State) (x : Msg) (pay : Payload) : (reply s x pay).hbm = s.hbm := rfl
@[simp] theorem reply_hbmPoison (s : State) (x : Msg) (pay : Payload) : (reply s x pay).hbmPoison = s.hbmPoison := rfl
@[simp] theorem reply_ls (s : State) (x : Msg) (pay : Payload) : (reply s x pay).ls = s.ls := rfl
@[simp] theorem reply_lsPoison (s : State) (x : Msg) (pay : Payload) : (reply s x pay).lsPoison = s.lsPoison := rfl
@[simp] theorem reply_coreCells (s : State) (x : Msg) (pay : Payload) : (reply s x pay).coreCells = s.coreCells := rfl
@[simp] theorem reply_wbCells (s : State) (x : Msg) (pay : Payload) : (reply s x pay).wbCells = s.wbCells := rfl
@[simp] theorem reply_wbWaits (s : State) (x : Msg) (pay : Payload) : (reply s x pay).wbWaits = s.wbWaits := rfl
@[simp] theorem reply_watches (s : State) (x : Msg) (pay : Payload) : (reply s x pay).watches = s.watches := rfl
@[simp] theorem reply_locks (s : State) (x : Msg) (pay : Payload) : (reply s x pay).locks = s.locks := rfl
@[simp] theorem reply_hbmStacks (s : State) (x : Msg) (pay : Payload) : (reply s x pay).hbmStacks = s.hbmStacks := rfl
@[simp] theorem reply_skip (s : State) (x : Msg) (pay : Payload) : (reply s x pay).skip = s.skip := rfl
@[simp] theorem reply_ctxs (s : State) (x : Msg) (pay : Payload) : (reply s x pay).ctxs = s.ctxs := rfl
@[simp] theorem reply_rings (s : State) (x : Msg) (pay : Payload) : (reply s x pay).rings = s.rings := rfl
@[simp] theorem reply_evrings (s : State) (x : Msg) (pay : Payload) : (reply s x pay).evrings = s.evrings := rfl
@[simp] theorem reply_seqs (s : State) (x : Msg) (pay : Payload) : (reply s x pay).seqs = s.seqs := rfl
@[simp] theorem reply_launches (s : State) (x : Msg) (pay : Payload) : (reply s x pay).launches = s.launches := rfl
@[simp] theorem reply_regions (s : State) (x : Msg) (pay : Payload) : (reply s x pay).regions = s.regions := rfl
@[simp] theorem reply_pageReqs (s : State) (x : Msg) (pay : Payload) : (reply s x pay).pageReqs = s.pageReqs := rfl
@[simp] theorem reply_slots (s : State) (x : Msg) (pay : Payload) : (reply s x pay).slots = s.slots := rfl
@[simp] theorem reply_ports (s : State) (x : Msg) (pay : Payload) : (reply s x pay).ports = s.ports := rfl
@[simp] theorem reply_links (s : State) (x : Msg) (pay : Payload) : (reply s x pay).links = s.links := rfl
@[simp] theorem reply_units (s : State) (x : Msg) (pay : Payload) : (reply s x pay).units = s.units := rfl
@[simp] theorem reply_hostMem (s : State) (x : Msg) (pay : Payload) : (reply s x pay).hostMem = s.hostMem := rfl
@[simp] theorem reply_flash (s : State) (x : Msg) (pay : Payload) : (reply s x pay).flash = s.flash := rfl
@[simp] theorem reply_fuses (s : State) (x : Msg) (pay : Payload) : (reply s x pay).fuses = s.fuses := rfl
@[simp] theorem reply_gov (s : State) (x : Msg) (pay : Payload) : (reply s x pay).gov = s.gov := rfl
@[simp] theorem reply_dev (s : State) (x : Msg) (pay : Payload) : (reply s x pay).dev = s.dev := rfl
@[simp] theorem reply_fresh (s : State) (x : Msg) (pay : Payload) : (reply s x pay).fresh = s.fresh := rfl
@[simp] theorem reply_tick (s : State) (x : Msg) (pay : Payload) : (reply s x pay).tick = s.tick := rfl
@[simp] theorem reply_pending (s : State) (x : Msg) (pay : Payload) : (reply s x pay).pending = s.pending := rfl

/-! ### makeRecord -/

@[simp] theorem makeRecord_threads (s : State) (n rg scls srcid ty : Nat) (ctx : Option Nat) (w3 w4 w5 w6 w7 : W64) : (makeRecord s n rg scls srcid ty ctx w3 w4 w5 w6 w7).threads = s.threads := by unfold makeRecord; simp only []; split <;> rfl
@[simp] theorem makeRecord_cores (s : State) (n rg scls srcid ty : Nat) (ctx : Option Nat) (w3 w4 w5 w6 w7 : W64) : (makeRecord s n rg scls srcid ty ctx w3 w4 w5 w6 w7).cores = s.cores := by unfold makeRecord; simp only []; split <;> rfl
@[simp] theorem makeRecord_nodes (s : State) (n rg scls srcid ty : Nat) (ctx : Option Nat) (w3 w4 w5 w6 w7 : W64) : (makeRecord s n rg scls srcid ty ctx w3 w4 w5 w6 w7).nodes = s.nodes := by unfold makeRecord; simp only []; split <;> rfl
@[simp] theorem makeRecord_benches (s : State) (n rg scls srcid ty : Nat) (ctx : Option Nat) (w3 w4 w5 w6 w7 : W64) : (makeRecord s n rg scls srcid ty ctx w3 w4 w5 w6 w7).benches = s.benches := by unfold makeRecord; simp only []; split <;> rfl
@[simp] theorem makeRecord_hbm (s : State) (n rg scls srcid ty : Nat) (ctx : Option Nat) (w3 w4 w5 w6 w7 : W64) : (makeRecord s n rg scls srcid ty ctx w3 w4 w5 w6 w7).hbm = s.hbm := by unfold makeRecord; simp only []; split <;> rfl
@[simp] theorem makeRecord_hbmPoison (s : State) (n rg scls srcid ty : Nat) (ctx : Option Nat) (w3 w4 w5 w6 w7 : W64) : (makeRecord s n rg scls srcid ty ctx w3 w4 w5 w6 w7).hbmPoison = s.hbmPoison := by unfold makeRecord; simp only []; split <;> rfl
@[simp] theorem makeRecord_ls (s : State) (n rg scls srcid ty : Nat) (ctx : Option Nat) (w3 w4 w5 w6 w7 : W64) : (makeRecord s n rg scls srcid ty ctx w3 w4 w5 w6 w7).ls = s.ls := by unfold makeRecord; simp only []; split <;> rfl
@[simp] theorem makeRecord_lsPoison (s : State) (n rg scls srcid ty : Nat) (ctx : Option Nat) (w3 w4 w5 w6 w7 : W64) : (makeRecord s n rg scls srcid ty ctx w3 w4 w5 w6 w7).lsPoison = s.lsPoison := by unfold makeRecord; simp only []; split <;> rfl
@[simp] theorem makeRecord_coreCells (s : State) (n rg scls srcid ty : Nat) (ctx : Option Nat) (w3 w4 w5 w6 w7 : W64) : (makeRecord s n rg scls srcid ty ctx w3 w4 w5 w6 w7).coreCells = s.coreCells := by unfold makeRecord; simp only []; split <;> rfl
@[simp] theorem makeRecord_wbCells (s : State) (n rg scls srcid ty : Nat) (ctx : Option Nat) (w3 w4 w5 w6 w7 : W64) : (makeRecord s n rg scls srcid ty ctx w3 w4 w5 w6 w7).wbCells = s.wbCells := by unfold makeRecord; simp only []; split <;> rfl
@[simp] theorem makeRecord_wbWaits (s : State) (n rg scls srcid ty : Nat) (ctx : Option Nat) (w3 w4 w5 w6 w7 : W64) : (makeRecord s n rg scls srcid ty ctx w3 w4 w5 w6 w7).wbWaits = s.wbWaits := by unfold makeRecord; simp only []; split <;> rfl
@[simp] theorem makeRecord_watches (s : State) (n rg scls srcid ty : Nat) (ctx : Option Nat) (w3 w4 w5 w6 w7 : W64) : (makeRecord s n rg scls srcid ty ctx w3 w4 w5 w6 w7).watches = s.watches := by unfold makeRecord; simp only []; split <;> rfl
@[simp] theorem makeRecord_locks (s : State) (n rg scls srcid ty : Nat) (ctx : Option Nat) (w3 w4 w5 w6 w7 : W64) : (makeRecord s n rg scls srcid ty ctx w3 w4 w5 w6 w7).locks = s.locks := by unfold makeRecord; simp only []; split <;> rfl
@[simp] theorem makeRecord_hbmStacks (s : State) (n rg scls srcid ty : Nat) (ctx : Option Nat) (w3 w4 w5 w6 w7 : W64) : (makeRecord s n rg scls srcid ty ctx w3 w4 w5 w6 w7).hbmStacks = s.hbmStacks := by unfold makeRecord; simp only []; split <;> rfl
@[simp] theorem makeRecord_skip (s : State) (n rg scls srcid ty : Nat) (ctx : Option Nat) (w3 w4 w5 w6 w7 : W64) : (makeRecord s n rg scls srcid ty ctx w3 w4 w5 w6 w7).skip = s.skip := by unfold makeRecord; simp only []; split <;> rfl
@[simp] theorem makeRecord_inbox (s : State) (n rg scls srcid ty : Nat) (ctx : Option Nat) (w3 w4 w5 w6 w7 : W64) : (makeRecord s n rg scls srcid ty ctx w3 w4 w5 w6 w7).inbox = s.inbox := by unfold makeRecord; simp only []; split <;> rfl
@[simp] theorem makeRecord_ctxs (s : State) (n rg scls srcid ty : Nat) (ctx : Option Nat) (w3 w4 w5 w6 w7 : W64) : (makeRecord s n rg scls srcid ty ctx w3 w4 w5 w6 w7).ctxs = s.ctxs := by unfold makeRecord; simp only []; split <;> rfl
@[simp] theorem makeRecord_rings (s : State) (n rg scls srcid ty : Nat) (ctx : Option Nat) (w3 w4 w5 w6 w7 : W64) : (makeRecord s n rg scls srcid ty ctx w3 w4 w5 w6 w7).rings = s.rings := by unfold makeRecord; simp only []; split <;> rfl
@[simp] theorem makeRecord_evrings (s : State) (n rg scls srcid ty : Nat) (ctx : Option Nat) (w3 w4 w5 w6 w7 : W64) : (makeRecord s n rg scls srcid ty ctx w3 w4 w5 w6 w7).evrings = s.evrings := by unfold makeRecord; simp only []; split <;> rfl
@[simp] theorem makeRecord_launches (s : State) (n rg scls srcid ty : Nat) (ctx : Option Nat) (w3 w4 w5 w6 w7 : W64) : (makeRecord s n rg scls srcid ty ctx w3 w4 w5 w6 w7).launches = s.launches := by unfold makeRecord; simp only []; split <;> rfl
@[simp] theorem makeRecord_regions (s : State) (n rg scls srcid ty : Nat) (ctx : Option Nat) (w3 w4 w5 w6 w7 : W64) : (makeRecord s n rg scls srcid ty ctx w3 w4 w5 w6 w7).regions = s.regions := by unfold makeRecord; simp only []; split <;> rfl
@[simp] theorem makeRecord_pageReqs (s : State) (n rg scls srcid ty : Nat) (ctx : Option Nat) (w3 w4 w5 w6 w7 : W64) : (makeRecord s n rg scls srcid ty ctx w3 w4 w5 w6 w7).pageReqs = s.pageReqs := by unfold makeRecord; simp only []; split <;> rfl
@[simp] theorem makeRecord_slots (s : State) (n rg scls srcid ty : Nat) (ctx : Option Nat) (w3 w4 w5 w6 w7 : W64) : (makeRecord s n rg scls srcid ty ctx w3 w4 w5 w6 w7).slots = s.slots := by unfold makeRecord; simp only []; split <;> rfl
@[simp] theorem makeRecord_ports (s : State) (n rg scls srcid ty : Nat) (ctx : Option Nat) (w3 w4 w5 w6 w7 : W64) : (makeRecord s n rg scls srcid ty ctx w3 w4 w5 w6 w7).ports = s.ports := by unfold makeRecord; simp only []; split <;> rfl
@[simp] theorem makeRecord_links (s : State) (n rg scls srcid ty : Nat) (ctx : Option Nat) (w3 w4 w5 w6 w7 : W64) : (makeRecord s n rg scls srcid ty ctx w3 w4 w5 w6 w7).links = s.links := by unfold makeRecord; simp only []; split <;> rfl
@[simp] theorem makeRecord_units (s : State) (n rg scls srcid ty : Nat) (ctx : Option Nat) (w3 w4 w5 w6 w7 : W64) : (makeRecord s n rg scls srcid ty ctx w3 w4 w5 w6 w7).units = s.units := by unfold makeRecord; simp only []; split <;> rfl
@[simp] theorem makeRecord_hostMem (s : State) (n rg scls srcid ty : Nat) (ctx : Option Nat) (w3 w4 w5 w6 w7 : W64) : (makeRecord s n rg scls srcid ty ctx w3 w4 w5 w6 w7).hostMem = s.hostMem := by unfold makeRecord; simp only []; split <;> rfl
@[simp] theorem makeRecord_flash (s : State) (n rg scls srcid ty : Nat) (ctx : Option Nat) (w3 w4 w5 w6 w7 : W64) : (makeRecord s n rg scls srcid ty ctx w3 w4 w5 w6 w7).flash = s.flash := by unfold makeRecord; simp only []; split <;> rfl
@[simp] theorem makeRecord_fuses (s : State) (n rg scls srcid ty : Nat) (ctx : Option Nat) (w3 w4 w5 w6 w7 : W64) : (makeRecord s n rg scls srcid ty ctx w3 w4 w5 w6 w7).fuses = s.fuses := by unfold makeRecord; simp only []; split <;> rfl
@[simp] theorem makeRecord_gov (s : State) (n rg scls srcid ty : Nat) (ctx : Option Nat) (w3 w4 w5 w6 w7 : W64) : (makeRecord s n rg scls srcid ty ctx w3 w4 w5 w6 w7).gov = s.gov := by unfold makeRecord; simp only []; split <;> rfl
@[simp] theorem makeRecord_dev (s : State) (n rg scls srcid ty : Nat) (ctx : Option Nat) (w3 w4 w5 w6 w7 : W64) : (makeRecord s n rg scls srcid ty ctx w3 w4 w5 w6 w7).dev = s.dev := by unfold makeRecord; simp only []; split <;> rfl
@[simp] theorem makeRecord_fresh (s : State) (n rg scls srcid ty : Nat) (ctx : Option Nat) (w3 w4 w5 w6 w7 : W64) : (makeRecord s n rg scls srcid ty ctx w3 w4 w5 w6 w7).fresh = s.fresh := by unfold makeRecord; simp only []; split <;> rfl
@[simp] theorem makeRecord_tick (s : State) (n rg scls srcid ty : Nat) (ctx : Option Nat) (w3 w4 w5 w6 w7 : W64) : (makeRecord s n rg scls srcid ty ctx w3 w4 w5 w6 w7).tick = s.tick := by unfold makeRecord; simp only []; split <;> rfl
@[simp] theorem makeRecord_pending (s : State) (n rg scls srcid ty : Nat) (ctx : Option Nat) (w3 w4 w5 w6 w7 : W64) : (makeRecord s n rg scls srcid ty ctx w3 w4 w5 w6 w7).pending = s.pending := by unfold makeRecord; simp only []; split <;> rfl

/-! ### recordCtx -/

@[simp] theorem recordCtx_threads (s : State) (n scls srcid ctx ty : Nat) (w3 w4 w5 w6 w7 : W64) : (recordCtx s n scls srcid ctx ty w3 w4 w5 w6 w7).threads = s.threads := by unfold recordCtx; split <;> simp
@[simp] theorem recordCtx_cores (s : State) (n scls srcid ctx ty : Nat) (w3 w4 w5 w6 w7 : W64) : (recordCtx s n scls srcid ctx ty w3 w4 w5 w6 w7).cores = s.cores := by unfold recordCtx; split <;> simp
@[simp] theorem recordCtx_nodes (s : State) (n scls srcid ctx ty : Nat) (w3 w4 w5 w6 w7 : W64) : (recordCtx s n scls srcid ctx ty w3 w4 w5 w6 w7).nodes = s.nodes := by unfold recordCtx; split <;> simp
@[simp] theorem recordCtx_benches (s : State) (n scls srcid ctx ty : Nat) (w3 w4 w5 w6 w7 : W64) : (recordCtx s n scls srcid ctx ty w3 w4 w5 w6 w7).benches = s.benches := by unfold recordCtx; split <;> simp
@[simp] theorem recordCtx_hbm (s : State) (n scls srcid ctx ty : Nat) (w3 w4 w5 w6 w7 : W64) : (recordCtx s n scls srcid ctx ty w3 w4 w5 w6 w7).hbm = s.hbm := by unfold recordCtx; split <;> simp
@[simp] theorem recordCtx_hbmPoison (s : State) (n scls srcid ctx ty : Nat) (w3 w4 w5 w6 w7 : W64) : (recordCtx s n scls srcid ctx ty w3 w4 w5 w6 w7).hbmPoison = s.hbmPoison := by unfold recordCtx; split <;> simp
@[simp] theorem recordCtx_ls (s : State) (n scls srcid ctx ty : Nat) (w3 w4 w5 w6 w7 : W64) : (recordCtx s n scls srcid ctx ty w3 w4 w5 w6 w7).ls = s.ls := by unfold recordCtx; split <;> simp
@[simp] theorem recordCtx_lsPoison (s : State) (n scls srcid ctx ty : Nat) (w3 w4 w5 w6 w7 : W64) : (recordCtx s n scls srcid ctx ty w3 w4 w5 w6 w7).lsPoison = s.lsPoison := by unfold recordCtx; split <;> simp
@[simp] theorem recordCtx_coreCells (s : State) (n scls srcid ctx ty : Nat) (w3 w4 w5 w6 w7 : W64) : (recordCtx s n scls srcid ctx ty w3 w4 w5 w6 w7).coreCells = s.coreCells := by unfold recordCtx; split <;> simp
@[simp] theorem recordCtx_wbCells (s : State) (n scls srcid ctx ty : Nat) (w3 w4 w5 w6 w7 : W64) : (recordCtx s n scls srcid ctx ty w3 w4 w5 w6 w7).wbCells = s.wbCells := by unfold recordCtx; split <;> simp
@[simp] theorem recordCtx_wbWaits (s : State) (n scls srcid ctx ty : Nat) (w3 w4 w5 w6 w7 : W64) : (recordCtx s n scls srcid ctx ty w3 w4 w5 w6 w7).wbWaits = s.wbWaits := by unfold recordCtx; split <;> simp
@[simp] theorem recordCtx_watches (s : State) (n scls srcid ctx ty : Nat) (w3 w4 w5 w6 w7 : W64) : (recordCtx s n scls srcid ctx ty w3 w4 w5 w6 w7).watches = s.watches := by unfold recordCtx; split <;> simp
@[simp] theorem recordCtx_locks (s : State) (n scls srcid ctx ty : Nat) (w3 w4 w5 w6 w7 : W64) : (recordCtx s n scls srcid ctx ty w3 w4 w5 w6 w7).locks = s.locks := by unfold recordCtx; split <;> simp
@[simp] theorem recordCtx_hbmStacks (s : State) (n scls srcid ctx ty : Nat) (w3 w4 w5 w6 w7 : W64) : (recordCtx s n scls srcid ctx ty w3 w4 w5 w6 w7).hbmStacks = s.hbmStacks := by unfold recordCtx; split <;> simp
@[simp] theorem recordCtx_skip (s : State) (n scls srcid ctx ty : Nat) (w3 w4 w5 w6 w7 : W64) : (recordCtx s n scls srcid ctx ty w3 w4 w5 w6 w7).skip = s.skip := by unfold recordCtx; split <;> simp
@[simp] theorem recordCtx_inbox (s : State) (n scls srcid ctx ty : Nat) (w3 w4 w5 w6 w7 : W64) : (recordCtx s n scls srcid ctx ty w3 w4 w5 w6 w7).inbox = s.inbox := by unfold recordCtx; split <;> simp
@[simp] theorem recordCtx_ctxs (s : State) (n scls srcid ctx ty : Nat) (w3 w4 w5 w6 w7 : W64) : (recordCtx s n scls srcid ctx ty w3 w4 w5 w6 w7).ctxs = s.ctxs := by unfold recordCtx; split <;> simp
@[simp] theorem recordCtx_rings (s : State) (n scls srcid ctx ty : Nat) (w3 w4 w5 w6 w7 : W64) : (recordCtx s n scls srcid ctx ty w3 w4 w5 w6 w7).rings = s.rings := by unfold recordCtx; split <;> simp
@[simp] theorem recordCtx_evrings (s : State) (n scls srcid ctx ty : Nat) (w3 w4 w5 w6 w7 : W64) : (recordCtx s n scls srcid ctx ty w3 w4 w5 w6 w7).evrings = s.evrings := by unfold recordCtx; split <;> simp
@[simp] theorem recordCtx_launches (s : State) (n scls srcid ctx ty : Nat) (w3 w4 w5 w6 w7 : W64) : (recordCtx s n scls srcid ctx ty w3 w4 w5 w6 w7).launches = s.launches := by unfold recordCtx; split <;> simp
@[simp] theorem recordCtx_regions (s : State) (n scls srcid ctx ty : Nat) (w3 w4 w5 w6 w7 : W64) : (recordCtx s n scls srcid ctx ty w3 w4 w5 w6 w7).regions = s.regions := by unfold recordCtx; split <;> simp
@[simp] theorem recordCtx_pageReqs (s : State) (n scls srcid ctx ty : Nat) (w3 w4 w5 w6 w7 : W64) : (recordCtx s n scls srcid ctx ty w3 w4 w5 w6 w7).pageReqs = s.pageReqs := by unfold recordCtx; split <;> simp
@[simp] theorem recordCtx_slots (s : State) (n scls srcid ctx ty : Nat) (w3 w4 w5 w6 w7 : W64) : (recordCtx s n scls srcid ctx ty w3 w4 w5 w6 w7).slots = s.slots := by unfold recordCtx; split <;> simp
@[simp] theorem recordCtx_ports (s : State) (n scls srcid ctx ty : Nat) (w3 w4 w5 w6 w7 : W64) : (recordCtx s n scls srcid ctx ty w3 w4 w5 w6 w7).ports = s.ports := by unfold recordCtx; split <;> simp
@[simp] theorem recordCtx_links (s : State) (n scls srcid ctx ty : Nat) (w3 w4 w5 w6 w7 : W64) : (recordCtx s n scls srcid ctx ty w3 w4 w5 w6 w7).links = s.links := by unfold recordCtx; split <;> simp
@[simp] theorem recordCtx_units (s : State) (n scls srcid ctx ty : Nat) (w3 w4 w5 w6 w7 : W64) : (recordCtx s n scls srcid ctx ty w3 w4 w5 w6 w7).units = s.units := by unfold recordCtx; split <;> simp
@[simp] theorem recordCtx_hostMem (s : State) (n scls srcid ctx ty : Nat) (w3 w4 w5 w6 w7 : W64) : (recordCtx s n scls srcid ctx ty w3 w4 w5 w6 w7).hostMem = s.hostMem := by unfold recordCtx; split <;> simp
@[simp] theorem recordCtx_flash (s : State) (n scls srcid ctx ty : Nat) (w3 w4 w5 w6 w7 : W64) : (recordCtx s n scls srcid ctx ty w3 w4 w5 w6 w7).flash = s.flash := by unfold recordCtx; split <;> simp
@[simp] theorem recordCtx_fuses (s : State) (n scls srcid ctx ty : Nat) (w3 w4 w5 w6 w7 : W64) : (recordCtx s n scls srcid ctx ty w3 w4 w5 w6 w7).fuses = s.fuses := by unfold recordCtx; split <;> simp
@[simp] theorem recordCtx_gov (s : State) (n scls srcid ctx ty : Nat) (w3 w4 w5 w6 w7 : W64) : (recordCtx s n scls srcid ctx ty w3 w4 w5 w6 w7).gov = s.gov := by unfold recordCtx; split <;> simp
@[simp] theorem recordCtx_dev (s : State) (n scls srcid ctx ty : Nat) (w3 w4 w5 w6 w7 : W64) : (recordCtx s n scls srcid ctx ty w3 w4 w5 w6 w7).dev = s.dev := by unfold recordCtx; split <;> simp
@[simp] theorem recordCtx_fresh (s : State) (n scls srcid ctx ty : Nat) (w3 w4 w5 w6 w7 : W64) : (recordCtx s n scls srcid ctx ty w3 w4 w5 w6 w7).fresh = s.fresh := by unfold recordCtx; split <;> simp
@[simp] theorem recordCtx_tick (s : State) (n scls srcid ctx ty : Nat) (w3 w4 w5 w6 w7 : W64) : (recordCtx s n scls srcid ctx ty w3 w4 w5 w6 w7).tick = s.tick := by unfold recordCtx; split <;> simp
@[simp] theorem recordCtx_pending (s : State) (n scls srcid ctx ty : Nat) (w3 w4 w5 w6 w7 : W64) : (recordCtx s n scls srcid ctx ty w3 w4 w5 w6 w7).pending = s.pending := by unfold recordCtx; split <;> simp

/-! ### recordDev -/

@[simp] theorem recordDev_threads (s : State) (n scls srcid ty : Nat) (w3 w4 w5 w6 w7 : W64) : (recordDev s n scls srcid ty w3 w4 w5 w6 w7).threads = s.threads := by simp [recordDev]
@[simp] theorem recordDev_cores (s : State) (n scls srcid ty : Nat) (w3 w4 w5 w6 w7 : W64) : (recordDev s n scls srcid ty w3 w4 w5 w6 w7).cores = s.cores := by simp [recordDev]
@[simp] theorem recordDev_nodes (s : State) (n scls srcid ty : Nat) (w3 w4 w5 w6 w7 : W64) : (recordDev s n scls srcid ty w3 w4 w5 w6 w7).nodes = s.nodes := by simp [recordDev]
@[simp] theorem recordDev_benches (s : State) (n scls srcid ty : Nat) (w3 w4 w5 w6 w7 : W64) : (recordDev s n scls srcid ty w3 w4 w5 w6 w7).benches = s.benches := by simp [recordDev]
@[simp] theorem recordDev_hbm (s : State) (n scls srcid ty : Nat) (w3 w4 w5 w6 w7 : W64) : (recordDev s n scls srcid ty w3 w4 w5 w6 w7).hbm = s.hbm := by simp [recordDev]
@[simp] theorem recordDev_hbmPoison (s : State) (n scls srcid ty : Nat) (w3 w4 w5 w6 w7 : W64) : (recordDev s n scls srcid ty w3 w4 w5 w6 w7).hbmPoison = s.hbmPoison := by simp [recordDev]
@[simp] theorem recordDev_ls (s : State) (n scls srcid ty : Nat) (w3 w4 w5 w6 w7 : W64) : (recordDev s n scls srcid ty w3 w4 w5 w6 w7).ls = s.ls := by simp [recordDev]
@[simp] theorem recordDev_lsPoison (s : State) (n scls srcid ty : Nat) (w3 w4 w5 w6 w7 : W64) : (recordDev s n scls srcid ty w3 w4 w5 w6 w7).lsPoison = s.lsPoison := by simp [recordDev]
@[simp] theorem recordDev_coreCells (s : State) (n scls srcid ty : Nat) (w3 w4 w5 w6 w7 : W64) : (recordDev s n scls srcid ty w3 w4 w5 w6 w7).coreCells = s.coreCells := by simp [recordDev]
@[simp] theorem recordDev_wbCells (s : State) (n scls srcid ty : Nat) (w3 w4 w5 w6 w7 : W64) : (recordDev s n scls srcid ty w3 w4 w5 w6 w7).wbCells = s.wbCells := by simp [recordDev]
@[simp] theorem recordDev_wbWaits (s : State) (n scls srcid ty : Nat) (w3 w4 w5 w6 w7 : W64) : (recordDev s n scls srcid ty w3 w4 w5 w6 w7).wbWaits = s.wbWaits := by simp [recordDev]
@[simp] theorem recordDev_watches (s : State) (n scls srcid ty : Nat) (w3 w4 w5 w6 w7 : W64) : (recordDev s n scls srcid ty w3 w4 w5 w6 w7).watches = s.watches := by simp [recordDev]
@[simp] theorem recordDev_locks (s : State) (n scls srcid ty : Nat) (w3 w4 w5 w6 w7 : W64) : (recordDev s n scls srcid ty w3 w4 w5 w6 w7).locks = s.locks := by simp [recordDev]
@[simp] theorem recordDev_hbmStacks (s : State) (n scls srcid ty : Nat) (w3 w4 w5 w6 w7 : W64) : (recordDev s n scls srcid ty w3 w4 w5 w6 w7).hbmStacks = s.hbmStacks := by simp [recordDev]
@[simp] theorem recordDev_skip (s : State) (n scls srcid ty : Nat) (w3 w4 w5 w6 w7 : W64) : (recordDev s n scls srcid ty w3 w4 w5 w6 w7).skip = s.skip := by simp [recordDev]
@[simp] theorem recordDev_inbox (s : State) (n scls srcid ty : Nat) (w3 w4 w5 w6 w7 : W64) : (recordDev s n scls srcid ty w3 w4 w5 w6 w7).inbox = s.inbox := by simp [recordDev]
@[simp] theorem recordDev_ctxs (s : State) (n scls srcid ty : Nat) (w3 w4 w5 w6 w7 : W64) : (recordDev s n scls srcid ty w3 w4 w5 w6 w7).ctxs = s.ctxs := by simp [recordDev]
@[simp] theorem recordDev_rings (s : State) (n scls srcid ty : Nat) (w3 w4 w5 w6 w7 : W64) : (recordDev s n scls srcid ty w3 w4 w5 w6 w7).rings = s.rings := by simp [recordDev]
@[simp] theorem recordDev_evrings (s : State) (n scls srcid ty : Nat) (w3 w4 w5 w6 w7 : W64) : (recordDev s n scls srcid ty w3 w4 w5 w6 w7).evrings = s.evrings := by simp [recordDev]
@[simp] theorem recordDev_launches (s : State) (n scls srcid ty : Nat) (w3 w4 w5 w6 w7 : W64) : (recordDev s n scls srcid ty w3 w4 w5 w6 w7).launches = s.launches := by simp [recordDev]
@[simp] theorem recordDev_regions (s : State) (n scls srcid ty : Nat) (w3 w4 w5 w6 w7 : W64) : (recordDev s n scls srcid ty w3 w4 w5 w6 w7).regions = s.regions := by simp [recordDev]
@[simp] theorem recordDev_pageReqs (s : State) (n scls srcid ty : Nat) (w3 w4 w5 w6 w7 : W64) : (recordDev s n scls srcid ty w3 w4 w5 w6 w7).pageReqs = s.pageReqs := by simp [recordDev]
@[simp] theorem recordDev_slots (s : State) (n scls srcid ty : Nat) (w3 w4 w5 w6 w7 : W64) : (recordDev s n scls srcid ty w3 w4 w5 w6 w7).slots = s.slots := by simp [recordDev]
@[simp] theorem recordDev_ports (s : State) (n scls srcid ty : Nat) (w3 w4 w5 w6 w7 : W64) : (recordDev s n scls srcid ty w3 w4 w5 w6 w7).ports = s.ports := by simp [recordDev]
@[simp] theorem recordDev_links (s : State) (n scls srcid ty : Nat) (w3 w4 w5 w6 w7 : W64) : (recordDev s n scls srcid ty w3 w4 w5 w6 w7).links = s.links := by simp [recordDev]
@[simp] theorem recordDev_units (s : State) (n scls srcid ty : Nat) (w3 w4 w5 w6 w7 : W64) : (recordDev s n scls srcid ty w3 w4 w5 w6 w7).units = s.units := by simp [recordDev]
@[simp] theorem recordDev_hostMem (s : State) (n scls srcid ty : Nat) (w3 w4 w5 w6 w7 : W64) : (recordDev s n scls srcid ty w3 w4 w5 w6 w7).hostMem = s.hostMem := by simp [recordDev]
@[simp] theorem recordDev_flash (s : State) (n scls srcid ty : Nat) (w3 w4 w5 w6 w7 : W64) : (recordDev s n scls srcid ty w3 w4 w5 w6 w7).flash = s.flash := by simp [recordDev]
@[simp] theorem recordDev_fuses (s : State) (n scls srcid ty : Nat) (w3 w4 w5 w6 w7 : W64) : (recordDev s n scls srcid ty w3 w4 w5 w6 w7).fuses = s.fuses := by simp [recordDev]
@[simp] theorem recordDev_gov (s : State) (n scls srcid ty : Nat) (w3 w4 w5 w6 w7 : W64) : (recordDev s n scls srcid ty w3 w4 w5 w6 w7).gov = s.gov := by simp [recordDev]
@[simp] theorem recordDev_dev (s : State) (n scls srcid ty : Nat) (w3 w4 w5 w6 w7 : W64) : (recordDev s n scls srcid ty w3 w4 w5 w6 w7).dev = s.dev := by simp [recordDev]
@[simp] theorem recordDev_fresh (s : State) (n scls srcid ty : Nat) (w3 w4 w5 w6 w7 : W64) : (recordDev s n scls srcid ty w3 w4 w5 w6 w7).fresh = s.fresh := by simp [recordDev]
@[simp] theorem recordDev_tick (s : State) (n scls srcid ty : Nat) (w3 w4 w5 w6 w7 : W64) : (recordDev s n scls srcid ty w3 w4 w5 w6 w7).tick = s.tick := by simp [recordDev]
@[simp] theorem recordDev_pending (s : State) (n scls srcid ty : Nat) (w3 w4 w5 w6 w7 : W64) : (recordDev s n scls srcid ty w3 w4 w5 w6 w7).pending = s.pending := by simp [recordDev]

/-! ### recordWrap -/

@[simp] theorem recordWrap_threads (s : State) (n off wbit : Nat) : (recordWrap s n off wbit).threads = s.threads := by simp [recordWrap]
@[simp] theorem recordWrap_cores (s : State) (n off wbit : Nat) : (recordWrap s n off wbit).cores = s.cores := by simp [recordWrap]
@[simp] theorem recordWrap_nodes (s : State) (n off wbit : Nat) : (recordWrap s n off wbit).nodes = s.nodes := by simp [recordWrap]
@[simp] theorem recordWrap_benches (s : State) (n off wbit : Nat) : (recordWrap s n off wbit).benches = s.benches := by simp [recordWrap]
@[simp] theorem recordWrap_hbm (s : State) (n off wbit : Nat) : (recordWrap s n off wbit).hbm = s.hbm := by simp [recordWrap]
@[simp] theorem recordWrap_hbmPoison (s : State) (n off wbit : Nat) : (recordWrap s n off wbit).hbmPoison = s.hbmPoison := by simp [recordWrap]
@[simp] theorem recordWrap_ls (s : State) (n off wbit : Nat) : (recordWrap s n off wbit).ls = s.ls := by simp [recordWrap]
@[simp] theorem recordWrap_lsPoison (s : State) (n off wbit : Nat) : (recordWrap s n off wbit).lsPoison = s.lsPoison := by simp [recordWrap]
@[simp] theorem recordWrap_coreCells (s : State) (n off wbit : Nat) : (recordWrap s n off wbit).coreCells = s.coreCells := by simp [recordWrap]
@[simp] theorem recordWrap_wbCells (s : State) (n off wbit : Nat) : (recordWrap s n off wbit).wbCells = s.wbCells := by simp [recordWrap]
@[simp] theorem recordWrap_wbWaits (s : State) (n off wbit : Nat) : (recordWrap s n off wbit).wbWaits = s.wbWaits := by simp [recordWrap]
@[simp] theorem recordWrap_watches (s : State) (n off wbit : Nat) : (recordWrap s n off wbit).watches = s.watches := by simp [recordWrap]
@[simp] theorem recordWrap_locks (s : State) (n off wbit : Nat) : (recordWrap s n off wbit).locks = s.locks := by simp [recordWrap]
@[simp] theorem recordWrap_hbmStacks (s : State) (n off wbit : Nat) : (recordWrap s n off wbit).hbmStacks = s.hbmStacks := by simp [recordWrap]
@[simp] theorem recordWrap_skip (s : State) (n off wbit : Nat) : (recordWrap s n off wbit).skip = s.skip := by simp [recordWrap]
@[simp] theorem recordWrap_inbox (s : State) (n off wbit : Nat) : (recordWrap s n off wbit).inbox = s.inbox := by simp [recordWrap]
@[simp] theorem recordWrap_ctxs (s : State) (n off wbit : Nat) : (recordWrap s n off wbit).ctxs = s.ctxs := by simp [recordWrap]
@[simp] theorem recordWrap_rings (s : State) (n off wbit : Nat) : (recordWrap s n off wbit).rings = s.rings := by simp [recordWrap]
@[simp] theorem recordWrap_evrings (s : State) (n off wbit : Nat) : (recordWrap s n off wbit).evrings = s.evrings := by simp [recordWrap]
@[simp] theorem recordWrap_launches (s : State) (n off wbit : Nat) : (recordWrap s n off wbit).launches = s.launches := by simp [recordWrap]
@[simp] theorem recordWrap_regions (s : State) (n off wbit : Nat) : (recordWrap s n off wbit).regions = s.regions := by simp [recordWrap]
@[simp] theorem recordWrap_pageReqs (s : State) (n off wbit : Nat) : (recordWrap s n off wbit).pageReqs = s.pageReqs := by simp [recordWrap]
@[simp] theorem recordWrap_slots (s : State) (n off wbit : Nat) : (recordWrap s n off wbit).slots = s.slots := by simp [recordWrap]
@[simp] theorem recordWrap_ports (s : State) (n off wbit : Nat) : (recordWrap s n off wbit).ports = s.ports := by simp [recordWrap]
@[simp] theorem recordWrap_links (s : State) (n off wbit : Nat) : (recordWrap s n off wbit).links = s.links := by simp [recordWrap]
@[simp] theorem recordWrap_units (s : State) (n off wbit : Nat) : (recordWrap s n off wbit).units = s.units := by simp [recordWrap]
@[simp] theorem recordWrap_hostMem (s : State) (n off wbit : Nat) : (recordWrap s n off wbit).hostMem = s.hostMem := by simp [recordWrap]
@[simp] theorem recordWrap_flash (s : State) (n off wbit : Nat) : (recordWrap s n off wbit).flash = s.flash := by simp [recordWrap]
@[simp] theorem recordWrap_fuses (s : State) (n off wbit : Nat) : (recordWrap s n off wbit).fuses = s.fuses := by simp [recordWrap]
@[simp] theorem recordWrap_gov (s : State) (n off wbit : Nat) : (recordWrap s n off wbit).gov = s.gov := by simp [recordWrap]
@[simp] theorem recordWrap_dev (s : State) (n off wbit : Nat) : (recordWrap s n off wbit).dev = s.dev := by simp [recordWrap]
@[simp] theorem recordWrap_fresh (s : State) (n off wbit : Nat) : (recordWrap s n off wbit).fresh = s.fresh := by simp [recordWrap]
@[simp] theorem recordWrap_tick (s : State) (n off wbit : Nat) : (recordWrap s n off wbit).tick = s.tick := by simp [recordWrap]
@[simp] theorem recordWrap_pending (s : State) (n off wbit : Nat) : (recordWrap s n off wbit).pending = s.pending := by simp [recordWrap]

/-! ### countInstret -/

@[simp] theorem countInstret_nodes (s : State) (k n : Nat) : (countInstret s k n).nodes = s.nodes := by simp only [countInstret]; repeat (first | split | simp)
@[simp] theorem countInstret_benches (s : State) (k n : Nat) : (countInstret s k n).benches = s.benches := by simp only [countInstret]; repeat (first | split | simp)
@[simp] theorem countInstret_hbm (s : State) (k n : Nat) : (countInstret s k n).hbm = s.hbm := by simp only [countInstret]; repeat (first | split | simp)
@[simp] theorem countInstret_hbmPoison (s : State) (k n : Nat) : (countInstret s k n).hbmPoison = s.hbmPoison := by simp only [countInstret]; repeat (first | split | simp)
@[simp] theorem countInstret_ls (s : State) (k n : Nat) : (countInstret s k n).ls = s.ls := by simp only [countInstret]; repeat (first | split | simp)
@[simp] theorem countInstret_lsPoison (s : State) (k n : Nat) : (countInstret s k n).lsPoison = s.lsPoison := by simp only [countInstret]; repeat (first | split | simp)
@[simp] theorem countInstret_coreCells (s : State) (k n : Nat) : (countInstret s k n).coreCells = s.coreCells := by simp only [countInstret]; repeat (first | split | simp)
@[simp] theorem countInstret_wbCells (s : State) (k n : Nat) : (countInstret s k n).wbCells = s.wbCells := by simp only [countInstret]; repeat (first | split | simp)
@[simp] theorem countInstret_wbWaits (s : State) (k n : Nat) : (countInstret s k n).wbWaits = s.wbWaits := by simp only [countInstret]; repeat (first | split | simp)
@[simp] theorem countInstret_watches (s : State) (k n : Nat) : (countInstret s k n).watches = s.watches := by simp only [countInstret]; repeat (first | split | simp)
@[simp] theorem countInstret_locks (s : State) (k n : Nat) : (countInstret s k n).locks = s.locks := by simp only [countInstret]; repeat (first | split | simp)
@[simp] theorem countInstret_hbmStacks (s : State) (k n : Nat) : (countInstret s k n).hbmStacks = s.hbmStacks := by simp only [countInstret]; repeat (first | split | simp)
@[simp] theorem countInstret_skip (s : State) (k n : Nat) : (countInstret s k n).skip = s.skip := by simp only [countInstret]; repeat (first | split | simp)
@[simp] theorem countInstret_inbox (s : State) (k n : Nat) : (countInstret s k n).inbox = s.inbox := by simp only [countInstret]; repeat (first | split | simp)
@[simp] theorem countInstret_ctxs (s : State) (k n : Nat) : (countInstret s k n).ctxs = s.ctxs := by simp only [countInstret]; repeat (first | split | simp)
@[simp] theorem countInstret_rings (s : State) (k n : Nat) : (countInstret s k n).rings = s.rings := by simp only [countInstret]; repeat (first | split | simp)
@[simp] theorem countInstret_evrings (s : State) (k n : Nat) : (countInstret s k n).evrings = s.evrings := by simp only [countInstret]; repeat (first | split | simp)
@[simp] theorem countInstret_launches (s : State) (k n : Nat) : (countInstret s k n).launches = s.launches := by simp only [countInstret]; repeat (first | split | simp)
@[simp] theorem countInstret_regions (s : State) (k n : Nat) : (countInstret s k n).regions = s.regions := by simp only [countInstret]; repeat (first | split | simp)
@[simp] theorem countInstret_pageReqs (s : State) (k n : Nat) : (countInstret s k n).pageReqs = s.pageReqs := by simp only [countInstret]; repeat (first | split | simp)
@[simp] theorem countInstret_slots (s : State) (k n : Nat) : (countInstret s k n).slots = s.slots := by simp only [countInstret]; repeat (first | split | simp)
@[simp] theorem countInstret_ports (s : State) (k n : Nat) : (countInstret s k n).ports = s.ports := by simp only [countInstret]; repeat (first | split | simp)
@[simp] theorem countInstret_links (s : State) (k n : Nat) : (countInstret s k n).links = s.links := by simp only [countInstret]; repeat (first | split | simp)
@[simp] theorem countInstret_units (s : State) (k n : Nat) : (countInstret s k n).units = s.units := by simp only [countInstret]; repeat (first | split | simp)
@[simp] theorem countInstret_hostMem (s : State) (k n : Nat) : (countInstret s k n).hostMem = s.hostMem := by simp only [countInstret]; repeat (first | split | simp)
@[simp] theorem countInstret_flash (s : State) (k n : Nat) : (countInstret s k n).flash = s.flash := by simp only [countInstret]; repeat (first | split | simp)
@[simp] theorem countInstret_fuses (s : State) (k n : Nat) : (countInstret s k n).fuses = s.fuses := by simp only [countInstret]; repeat (first | split | simp)
@[simp] theorem countInstret_gov (s : State) (k n : Nat) : (countInstret s k n).gov = s.gov := by simp only [countInstret]; repeat (first | split | simp)
@[simp] theorem countInstret_dev (s : State) (k n : Nat) : (countInstret s k n).dev = s.dev := by simp only [countInstret]; repeat (first | split | simp)
@[simp] theorem countInstret_fresh (s : State) (k n : Nat) : (countInstret s k n).fresh = s.fresh := by simp only [countInstret]; repeat (first | split | simp)
@[simp] theorem countInstret_tick (s : State) (k n : Nat) : (countInstret s k n).tick = s.tick := by simp only [countInstret]; repeat (first | split | simp)
@[simp] theorem countInstret_pending (s : State) (k n : Nat) : (countInstret s k n).pending = s.pending := by simp only [countInstret]; repeat (first | split | simp)

/-! ### retire -/

@[simp] theorem retire_nodes (s : State) (k len : Nat) : (retire s k len).nodes = s.nodes := by simp [retire]
@[simp] theorem retire_benches (s : State) (k len : Nat) : (retire s k len).benches = s.benches := by simp [retire]
@[simp] theorem retire_hbm (s : State) (k len : Nat) : (retire s k len).hbm = s.hbm := by simp [retire]
@[simp] theorem retire_hbmPoison (s : State) (k len : Nat) : (retire s k len).hbmPoison = s.hbmPoison := by simp [retire]
@[simp] theorem retire_ls (s : State) (k len : Nat) : (retire s k len).ls = s.ls := by simp [retire]
@[simp] theorem retire_lsPoison (s : State) (k len : Nat) : (retire s k len).lsPoison = s.lsPoison := by simp [retire]
@[simp] theorem retire_coreCells (s : State) (k len : Nat) : (retire s k len).coreCells = s.coreCells := by simp [retire]
@[simp] theorem retire_wbCells (s : State) (k len : Nat) : (retire s k len).wbCells = s.wbCells := by simp [retire]
@[simp] theorem retire_wbWaits (s : State) (k len : Nat) : (retire s k len).wbWaits = s.wbWaits := by simp [retire]
@[simp] theorem retire_watches (s : State) (k len : Nat) : (retire s k len).watches = s.watches := by simp [retire]
@[simp] theorem retire_locks (s : State) (k len : Nat) : (retire s k len).locks = s.locks := by simp [retire]
@[simp] theorem retire_hbmStacks (s : State) (k len : Nat) : (retire s k len).hbmStacks = s.hbmStacks := by simp [retire]
@[simp] theorem retire_skip (s : State) (k len : Nat) : (retire s k len).skip = s.skip := by simp [retire]
@[simp] theorem retire_inbox (s : State) (k len : Nat) : (retire s k len).inbox = s.inbox := by simp [retire]
@[simp] theorem retire_ctxs (s : State) (k len : Nat) : (retire s k len).ctxs = s.ctxs := by simp [retire]
@[simp] theorem retire_rings (s : State) (k len : Nat) : (retire s k len).rings = s.rings := by simp [retire]
@[simp] theorem retire_evrings (s : State) (k len : Nat) : (retire s k len).evrings = s.evrings := by simp [retire]
@[simp] theorem retire_launches (s : State) (k len : Nat) : (retire s k len).launches = s.launches := by simp [retire]
@[simp] theorem retire_regions (s : State) (k len : Nat) : (retire s k len).regions = s.regions := by simp [retire]
@[simp] theorem retire_pageReqs (s : State) (k len : Nat) : (retire s k len).pageReqs = s.pageReqs := by simp [retire]
@[simp] theorem retire_slots (s : State) (k len : Nat) : (retire s k len).slots = s.slots := by simp [retire]
@[simp] theorem retire_ports (s : State) (k len : Nat) : (retire s k len).ports = s.ports := by simp [retire]
@[simp] theorem retire_links (s : State) (k len : Nat) : (retire s k len).links = s.links := by simp [retire]
@[simp] theorem retire_units (s : State) (k len : Nat) : (retire s k len).units = s.units := by simp [retire]
@[simp] theorem retire_hostMem (s : State) (k len : Nat) : (retire s k len).hostMem = s.hostMem := by simp [retire]
@[simp] theorem retire_flash (s : State) (k len : Nat) : (retire s k len).flash = s.flash := by simp [retire]
@[simp] theorem retire_fuses (s : State) (k len : Nat) : (retire s k len).fuses = s.fuses := by simp [retire]
@[simp] theorem retire_gov (s : State) (k len : Nat) : (retire s k len).gov = s.gov := by simp [retire]
@[simp] theorem retire_dev (s : State) (k len : Nat) : (retire s k len).dev = s.dev := by simp [retire]
@[simp] theorem retire_fresh (s : State) (k len : Nat) : (retire s k len).fresh = s.fresh := by simp [retire]
@[simp] theorem retire_tick (s : State) (k len : Nat) : (retire s k len).tick = s.tick := by simp [retire]
@[simp] theorem retire_pending (s : State) (k len : Nat) : (retire s k len).pending = s.pending := by simp [retire]

/-! ### countTu -/

@[simp] theorem countTu_threads (s : State) (n : Nat) (hit : Bool) : (countTu s n hit).threads = s.threads := by simp only [countTu, countWrap]; repeat (first | split | simp)
@[simp] theorem countTu_cores (s : State) (n : Nat) (hit : Bool) : (countTu s n hit).cores = s.cores := by simp only [countTu, countWrap]; repeat (first | split | simp)
@[simp] theorem countTu_nodes (s : State) (n : Nat) (hit : Bool) : (countTu s n hit).nodes = s.nodes := by simp only [countTu, countWrap]; repeat (first | split | simp)
@[simp] theorem countTu_hbm (s : State) (n : Nat) (hit : Bool) : (countTu s n hit).hbm = s.hbm := by simp only [countTu, countWrap]; repeat (first | split | simp)
@[simp] theorem countTu_hbmPoison (s : State) (n : Nat) (hit : Bool) : (countTu s n hit).hbmPoison = s.hbmPoison := by simp only [countTu, countWrap]; repeat (first | split | simp)
@[simp] theorem countTu_ls (s : State) (n : Nat) (hit : Bool) : (countTu s n hit).ls = s.ls := by simp only [countTu, countWrap]; repeat (first | split | simp)
@[simp] theorem countTu_lsPoison (s : State) (n : Nat) (hit : Bool) : (countTu s n hit).lsPoison = s.lsPoison := by simp only [countTu, countWrap]; repeat (first | split | simp)
@[simp] theorem countTu_coreCells (s : State) (n : Nat) (hit : Bool) : (countTu s n hit).coreCells = s.coreCells := by simp only [countTu, countWrap]; repeat (first | split | simp)
@[simp] theorem countTu_wbCells (s : State) (n : Nat) (hit : Bool) : (countTu s n hit).wbCells = s.wbCells := by simp only [countTu, countWrap]; repeat (first | split | simp)
@[simp] theorem countTu_wbWaits (s : State) (n : Nat) (hit : Bool) : (countTu s n hit).wbWaits = s.wbWaits := by simp only [countTu, countWrap]; repeat (first | split | simp)
@[simp] theorem countTu_watches (s : State) (n : Nat) (hit : Bool) : (countTu s n hit).watches = s.watches := by simp only [countTu, countWrap]; repeat (first | split | simp)
@[simp] theorem countTu_locks (s : State) (n : Nat) (hit : Bool) : (countTu s n hit).locks = s.locks := by simp only [countTu, countWrap]; repeat (first | split | simp)
@[simp] theorem countTu_hbmStacks (s : State) (n : Nat) (hit : Bool) : (countTu s n hit).hbmStacks = s.hbmStacks := by simp only [countTu, countWrap]; repeat (first | split | simp)
@[simp] theorem countTu_skip (s : State) (n : Nat) (hit : Bool) : (countTu s n hit).skip = s.skip := by simp only [countTu, countWrap]; repeat (first | split | simp)
@[simp] theorem countTu_inbox (s : State) (n : Nat) (hit : Bool) : (countTu s n hit).inbox = s.inbox := by simp only [countTu, countWrap]; repeat (first | split | simp)
@[simp] theorem countTu_ctxs (s : State) (n : Nat) (hit : Bool) : (countTu s n hit).ctxs = s.ctxs := by simp only [countTu, countWrap]; repeat (first | split | simp)
@[simp] theorem countTu_rings (s : State) (n : Nat) (hit : Bool) : (countTu s n hit).rings = s.rings := by simp only [countTu, countWrap]; repeat (first | split | simp)
@[simp] theorem countTu_evrings (s : State) (n : Nat) (hit : Bool) : (countTu s n hit).evrings = s.evrings := by simp only [countTu, countWrap]; repeat (first | split | simp)
@[simp] theorem countTu_launches (s : State) (n : Nat) (hit : Bool) : (countTu s n hit).launches = s.launches := by simp only [countTu, countWrap]; repeat (first | split | simp)
@[simp] theorem countTu_regions (s : State) (n : Nat) (hit : Bool) : (countTu s n hit).regions = s.regions := by simp only [countTu, countWrap]; repeat (first | split | simp)
@[simp] theorem countTu_pageReqs (s : State) (n : Nat) (hit : Bool) : (countTu s n hit).pageReqs = s.pageReqs := by simp only [countTu, countWrap]; repeat (first | split | simp)
@[simp] theorem countTu_slots (s : State) (n : Nat) (hit : Bool) : (countTu s n hit).slots = s.slots := by simp only [countTu, countWrap]; repeat (first | split | simp)
@[simp] theorem countTu_ports (s : State) (n : Nat) (hit : Bool) : (countTu s n hit).ports = s.ports := by simp only [countTu, countWrap]; repeat (first | split | simp)
@[simp] theorem countTu_links (s : State) (n : Nat) (hit : Bool) : (countTu s n hit).links = s.links := by simp only [countTu, countWrap]; repeat (first | split | simp)
@[simp] theorem countTu_units (s : State) (n : Nat) (hit : Bool) : (countTu s n hit).units = s.units := by simp only [countTu, countWrap]; repeat (first | split | simp)
@[simp] theorem countTu_hostMem (s : State) (n : Nat) (hit : Bool) : (countTu s n hit).hostMem = s.hostMem := by simp only [countTu, countWrap]; repeat (first | split | simp)
@[simp] theorem countTu_flash (s : State) (n : Nat) (hit : Bool) : (countTu s n hit).flash = s.flash := by simp only [countTu, countWrap]; repeat (first | split | simp)
@[simp] theorem countTu_fuses (s : State) (n : Nat) (hit : Bool) : (countTu s n hit).fuses = s.fuses := by simp only [countTu, countWrap]; repeat (first | split | simp)
@[simp] theorem countTu_gov (s : State) (n : Nat) (hit : Bool) : (countTu s n hit).gov = s.gov := by simp only [countTu, countWrap]; repeat (first | split | simp)
@[simp] theorem countTu_dev (s : State) (n : Nat) (hit : Bool) : (countTu s n hit).dev = s.dev := by simp only [countTu, countWrap]; repeat (first | split | simp)
@[simp] theorem countTu_fresh (s : State) (n : Nat) (hit : Bool) : (countTu s n hit).fresh = s.fresh := by simp only [countTu, countWrap]; repeat (first | split | simp)
@[simp] theorem countTu_tick (s : State) (n : Nat) (hit : Bool) : (countTu s n hit).tick = s.tick := by simp only [countTu, countWrap]; repeat (first | split | simp)
@[simp] theorem countTu_pending (s : State) (n : Nat) (hit : Bool) : (countTu s n hit).pending = s.pending := by simp only [countTu, countWrap]; repeat (first | split | simp)

/-! ### countBc -/

@[simp] theorem countBc_threads (s : State) (n which amount : Nat) : (countBc s n which amount).threads = s.threads := by simp only [countBc, countWrap]; repeat (first | split | simp)
@[simp] theorem countBc_cores (s : State) (n which amount : Nat) : (countBc s n which amount).cores = s.cores := by simp only [countBc, countWrap]; repeat (first | split | simp)
@[simp] theorem countBc_nodes (s : State) (n which amount : Nat) : (countBc s n which amount).nodes = s.nodes := by simp only [countBc, countWrap]; repeat (first | split | simp)
@[simp] theorem countBc_hbm (s : State) (n which amount : Nat) : (countBc s n which amount).hbm = s.hbm := by simp only [countBc, countWrap]; repeat (first | split | simp)
@[simp] theorem countBc_hbmPoison (s : State) (n which amount : Nat) : (countBc s n which amount).hbmPoison = s.hbmPoison := by simp only [countBc, countWrap]; repeat (first | split | simp)
@[simp] theorem countBc_ls (s : State) (n which amount : Nat) : (countBc s n which amount).ls = s.ls := by simp only [countBc, countWrap]; repeat (first | split | simp)
@[simp] theorem countBc_lsPoison (s : State) (n which amount : Nat) : (countBc s n which amount).lsPoison = s.lsPoison := by simp only [countBc, countWrap]; repeat (first | split | simp)
@[simp] theorem countBc_coreCells (s : State) (n which amount : Nat) : (countBc s n which amount).coreCells = s.coreCells := by simp only [countBc, countWrap]; repeat (first | split | simp)
@[simp] theorem countBc_wbCells (s : State) (n which amount : Nat) : (countBc s n which amount).wbCells = s.wbCells := by simp only [countBc, countWrap]; repeat (first | split | simp)
@[simp] theorem countBc_wbWaits (s : State) (n which amount : Nat) : (countBc s n which amount).wbWaits = s.wbWaits := by simp only [countBc, countWrap]; repeat (first | split | simp)
@[simp] theorem countBc_watches (s : State) (n which amount : Nat) : (countBc s n which amount).watches = s.watches := by simp only [countBc, countWrap]; repeat (first | split | simp)
@[simp] theorem countBc_locks (s : State) (n which amount : Nat) : (countBc s n which amount).locks = s.locks := by simp only [countBc, countWrap]; repeat (first | split | simp)
@[simp] theorem countBc_hbmStacks (s : State) (n which amount : Nat) : (countBc s n which amount).hbmStacks = s.hbmStacks := by simp only [countBc, countWrap]; repeat (first | split | simp)
@[simp] theorem countBc_skip (s : State) (n which amount : Nat) : (countBc s n which amount).skip = s.skip := by simp only [countBc, countWrap]; repeat (first | split | simp)
@[simp] theorem countBc_inbox (s : State) (n which amount : Nat) : (countBc s n which amount).inbox = s.inbox := by simp only [countBc, countWrap]; repeat (first | split | simp)
@[simp] theorem countBc_ctxs (s : State) (n which amount : Nat) : (countBc s n which amount).ctxs = s.ctxs := by simp only [countBc, countWrap]; repeat (first | split | simp)
@[simp] theorem countBc_rings (s : State) (n which amount : Nat) : (countBc s n which amount).rings = s.rings := by simp only [countBc, countWrap]; repeat (first | split | simp)
@[simp] theorem countBc_evrings (s : State) (n which amount : Nat) : (countBc s n which amount).evrings = s.evrings := by simp only [countBc, countWrap]; repeat (first | split | simp)
@[simp] theorem countBc_launches (s : State) (n which amount : Nat) : (countBc s n which amount).launches = s.launches := by simp only [countBc, countWrap]; repeat (first | split | simp)
@[simp] theorem countBc_regions (s : State) (n which amount : Nat) : (countBc s n which amount).regions = s.regions := by simp only [countBc, countWrap]; repeat (first | split | simp)
@[simp] theorem countBc_pageReqs (s : State) (n which amount : Nat) : (countBc s n which amount).pageReqs = s.pageReqs := by simp only [countBc, countWrap]; repeat (first | split | simp)
@[simp] theorem countBc_slots (s : State) (n which amount : Nat) : (countBc s n which amount).slots = s.slots := by simp only [countBc, countWrap]; repeat (first | split | simp)
@[simp] theorem countBc_ports (s : State) (n which amount : Nat) : (countBc s n which amount).ports = s.ports := by simp only [countBc, countWrap]; repeat (first | split | simp)
@[simp] theorem countBc_links (s : State) (n which amount : Nat) : (countBc s n which amount).links = s.links := by simp only [countBc, countWrap]; repeat (first | split | simp)
@[simp] theorem countBc_units (s : State) (n which amount : Nat) : (countBc s n which amount).units = s.units := by simp only [countBc, countWrap]; repeat (first | split | simp)
@[simp] theorem countBc_hostMem (s : State) (n which amount : Nat) : (countBc s n which amount).hostMem = s.hostMem := by simp only [countBc, countWrap]; repeat (first | split | simp)
@[simp] theorem countBc_flash (s : State) (n which amount : Nat) : (countBc s n which amount).flash = s.flash := by simp only [countBc, countWrap]; repeat (first | split | simp)
@[simp] theorem countBc_fuses (s : State) (n which amount : Nat) : (countBc s n which amount).fuses = s.fuses := by simp only [countBc, countWrap]; repeat (first | split | simp)
@[simp] theorem countBc_gov (s : State) (n which amount : Nat) : (countBc s n which amount).gov = s.gov := by simp only [countBc, countWrap]; repeat (first | split | simp)
@[simp] theorem countBc_dev (s : State) (n which amount : Nat) : (countBc s n which amount).dev = s.dev := by simp only [countBc, countWrap]; repeat (first | split | simp)
@[simp] theorem countBc_fresh (s : State) (n which amount : Nat) : (countBc s n which amount).fresh = s.fresh := by simp only [countBc, countWrap]; repeat (first | split | simp)
@[simp] theorem countBc_tick (s : State) (n which amount : Nat) : (countBc s n which amount).tick = s.tick := by simp only [countBc, countWrap]; repeat (first | split | simp)
@[simp] theorem countBc_pending (s : State) (n which amount : Nat) : (countBc s n which amount).pending = s.pending := by simp only [countBc, countWrap]; repeat (first | split | simp)

/-! ### countCm -/

@[simp] theorem countCm_threads (s : State) (n : Nat) (ok : Bool) : (countCm s n ok).threads = s.threads := by simp only [countCm, countWrap]; repeat (first | split | simp)
@[simp] theorem countCm_cores (s : State) (n : Nat) (ok : Bool) : (countCm s n ok).cores = s.cores := by simp only [countCm, countWrap]; repeat (first | split | simp)
@[simp] theorem countCm_nodes (s : State) (n : Nat) (ok : Bool) : (countCm s n ok).nodes = s.nodes := by simp only [countCm, countWrap]; repeat (first | split | simp)
@[simp] theorem countCm_hbm (s : State) (n : Nat) (ok : Bool) : (countCm s n ok).hbm = s.hbm := by simp only [countCm, countWrap]; repeat (first | split | simp)
@[simp] theorem countCm_hbmPoison (s : State) (n : Nat) (ok : Bool) : (countCm s n ok).hbmPoison = s.hbmPoison := by simp only [countCm, countWrap]; repeat (first | split | simp)
@[simp] theorem countCm_ls (s : State) (n : Nat) (ok : Bool) : (countCm s n ok).ls = s.ls := by simp only [countCm, countWrap]; repeat (first | split | simp)
@[simp] theorem countCm_lsPoison (s : State) (n : Nat) (ok : Bool) : (countCm s n ok).lsPoison = s.lsPoison := by simp only [countCm, countWrap]; repeat (first | split | simp)
@[simp] theorem countCm_coreCells (s : State) (n : Nat) (ok : Bool) : (countCm s n ok).coreCells = s.coreCells := by simp only [countCm, countWrap]; repeat (first | split | simp)
@[simp] theorem countCm_wbCells (s : State) (n : Nat) (ok : Bool) : (countCm s n ok).wbCells = s.wbCells := by simp only [countCm, countWrap]; repeat (first | split | simp)
@[simp] theorem countCm_wbWaits (s : State) (n : Nat) (ok : Bool) : (countCm s n ok).wbWaits = s.wbWaits := by simp only [countCm, countWrap]; repeat (first | split | simp)
@[simp] theorem countCm_watches (s : State) (n : Nat) (ok : Bool) : (countCm s n ok).watches = s.watches := by simp only [countCm, countWrap]; repeat (first | split | simp)
@[simp] theorem countCm_locks (s : State) (n : Nat) (ok : Bool) : (countCm s n ok).locks = s.locks := by simp only [countCm, countWrap]; repeat (first | split | simp)
@[simp] theorem countCm_hbmStacks (s : State) (n : Nat) (ok : Bool) : (countCm s n ok).hbmStacks = s.hbmStacks := by simp only [countCm, countWrap]; repeat (first | split | simp)
@[simp] theorem countCm_skip (s : State) (n : Nat) (ok : Bool) : (countCm s n ok).skip = s.skip := by simp only [countCm, countWrap]; repeat (first | split | simp)
@[simp] theorem countCm_inbox (s : State) (n : Nat) (ok : Bool) : (countCm s n ok).inbox = s.inbox := by simp only [countCm, countWrap]; repeat (first | split | simp)
@[simp] theorem countCm_ctxs (s : State) (n : Nat) (ok : Bool) : (countCm s n ok).ctxs = s.ctxs := by simp only [countCm, countWrap]; repeat (first | split | simp)
@[simp] theorem countCm_rings (s : State) (n : Nat) (ok : Bool) : (countCm s n ok).rings = s.rings := by simp only [countCm, countWrap]; repeat (first | split | simp)
@[simp] theorem countCm_evrings (s : State) (n : Nat) (ok : Bool) : (countCm s n ok).evrings = s.evrings := by simp only [countCm, countWrap]; repeat (first | split | simp)
@[simp] theorem countCm_launches (s : State) (n : Nat) (ok : Bool) : (countCm s n ok).launches = s.launches := by simp only [countCm, countWrap]; repeat (first | split | simp)
@[simp] theorem countCm_regions (s : State) (n : Nat) (ok : Bool) : (countCm s n ok).regions = s.regions := by simp only [countCm, countWrap]; repeat (first | split | simp)
@[simp] theorem countCm_pageReqs (s : State) (n : Nat) (ok : Bool) : (countCm s n ok).pageReqs = s.pageReqs := by simp only [countCm, countWrap]; repeat (first | split | simp)
@[simp] theorem countCm_slots (s : State) (n : Nat) (ok : Bool) : (countCm s n ok).slots = s.slots := by simp only [countCm, countWrap]; repeat (first | split | simp)
@[simp] theorem countCm_ports (s : State) (n : Nat) (ok : Bool) : (countCm s n ok).ports = s.ports := by simp only [countCm, countWrap]; repeat (first | split | simp)
@[simp] theorem countCm_links (s : State) (n : Nat) (ok : Bool) : (countCm s n ok).links = s.links := by simp only [countCm, countWrap]; repeat (first | split | simp)
@[simp] theorem countCm_units (s : State) (n : Nat) (ok : Bool) : (countCm s n ok).units = s.units := by simp only [countCm, countWrap]; repeat (first | split | simp)
@[simp] theorem countCm_hostMem (s : State) (n : Nat) (ok : Bool) : (countCm s n ok).hostMem = s.hostMem := by simp only [countCm, countWrap]; repeat (first | split | simp)
@[simp] theorem countCm_flash (s : State) (n : Nat) (ok : Bool) : (countCm s n ok).flash = s.flash := by simp only [countCm, countWrap]; repeat (first | split | simp)
@[simp] theorem countCm_fuses (s : State) (n : Nat) (ok : Bool) : (countCm s n ok).fuses = s.fuses := by simp only [countCm, countWrap]; repeat (first | split | simp)
@[simp] theorem countCm_gov (s : State) (n : Nat) (ok : Bool) : (countCm s n ok).gov = s.gov := by simp only [countCm, countWrap]; repeat (first | split | simp)
@[simp] theorem countCm_dev (s : State) (n : Nat) (ok : Bool) : (countCm s n ok).dev = s.dev := by simp only [countCm, countWrap]; repeat (first | split | simp)
@[simp] theorem countCm_fresh (s : State) (n : Nat) (ok : Bool) : (countCm s n ok).fresh = s.fresh := by simp only [countCm, countWrap]; repeat (first | split | simp)
@[simp] theorem countCm_tick (s : State) (n : Nat) (ok : Bool) : (countCm s n ok).tick = s.tick := by simp only [countCm, countWrap]; repeat (first | split | simp)
@[simp] theorem countCm_pending (s : State) (n : Nat) (ok : Bool) : (countCm s n ok).pending = s.pending := by simp only [countCm, countWrap]; repeat (first | split | simp)

/-! ### countUnit -/

@[simp] theorem countUnit_threads (s : State) (name kind n : Nat) : (countUnit s name kind n).threads = s.threads := rfl
@[simp] theorem countUnit_cores (s : State) (name kind n : Nat) : (countUnit s name kind n).cores = s.cores := rfl
@[simp] theorem countUnit_nodes (s : State) (name kind n : Nat) : (countUnit s name kind n).nodes = s.nodes := rfl
@[simp] theorem countUnit_benches (s : State) (name kind n : Nat) : (countUnit s name kind n).benches = s.benches := rfl
@[simp] theorem countUnit_hbm (s : State) (name kind n : Nat) : (countUnit s name kind n).hbm = s.hbm := rfl
@[simp] theorem countUnit_hbmPoison (s : State) (name kind n : Nat) : (countUnit s name kind n).hbmPoison = s.hbmPoison := rfl
@[simp] theorem countUnit_ls (s : State) (name kind n : Nat) : (countUnit s name kind n).ls = s.ls := rfl
@[simp] theorem countUnit_lsPoison (s : State) (name kind n : Nat) : (countUnit s name kind n).lsPoison = s.lsPoison := rfl
@[simp] theorem countUnit_coreCells (s : State) (name kind n : Nat) : (countUnit s name kind n).coreCells = s.coreCells := rfl
@[simp] theorem countUnit_wbCells (s : State) (name kind n : Nat) : (countUnit s name kind n).wbCells = s.wbCells := rfl
@[simp] theorem countUnit_wbWaits (s : State) (name kind n : Nat) : (countUnit s name kind n).wbWaits = s.wbWaits := rfl
@[simp] theorem countUnit_watches (s : State) (name kind n : Nat) : (countUnit s name kind n).watches = s.watches := rfl
@[simp] theorem countUnit_locks (s : State) (name kind n : Nat) : (countUnit s name kind n).locks = s.locks := rfl
@[simp] theorem countUnit_hbmStacks (s : State) (name kind n : Nat) : (countUnit s name kind n).hbmStacks = s.hbmStacks := rfl
@[simp] theorem countUnit_skip (s : State) (name kind n : Nat) : (countUnit s name kind n).skip = s.skip := rfl
@[simp] theorem countUnit_mesh (s : State) (name kind n : Nat) : (countUnit s name kind n).mesh = s.mesh := rfl
@[simp] theorem countUnit_inbox (s : State) (name kind n : Nat) : (countUnit s name kind n).inbox = s.inbox := rfl
@[simp] theorem countUnit_ctxs (s : State) (name kind n : Nat) : (countUnit s name kind n).ctxs = s.ctxs := rfl
@[simp] theorem countUnit_rings (s : State) (name kind n : Nat) : (countUnit s name kind n).rings = s.rings := rfl
@[simp] theorem countUnit_evrings (s : State) (name kind n : Nat) : (countUnit s name kind n).evrings = s.evrings := rfl
@[simp] theorem countUnit_seqs (s : State) (name kind n : Nat) : (countUnit s name kind n).seqs = s.seqs := rfl
@[simp] theorem countUnit_launches (s : State) (name kind n : Nat) : (countUnit s name kind n).launches = s.launches := rfl
@[simp] theorem countUnit_regions (s : State) (name kind n : Nat) : (countUnit s name kind n).regions = s.regions := rfl
@[simp] theorem countUnit_pageReqs (s : State) (name kind n : Nat) : (countUnit s name kind n).pageReqs = s.pageReqs := rfl
@[simp] theorem countUnit_slots (s : State) (name kind n : Nat) : (countUnit s name kind n).slots = s.slots := rfl
@[simp] theorem countUnit_ports (s : State) (name kind n : Nat) : (countUnit s name kind n).ports = s.ports := rfl
@[simp] theorem countUnit_links (s : State) (name kind n : Nat) : (countUnit s name kind n).links = s.links := rfl
@[simp] theorem countUnit_hostMem (s : State) (name kind n : Nat) : (countUnit s name kind n).hostMem = s.hostMem := rfl
@[simp] theorem countUnit_flash (s : State) (name kind n : Nat) : (countUnit s name kind n).flash = s.flash := rfl
@[simp] theorem countUnit_fuses (s : State) (name kind n : Nat) : (countUnit s name kind n).fuses = s.fuses := rfl
@[simp] theorem countUnit_gov (s : State) (name kind n : Nat) : (countUnit s name kind n).gov = s.gov := rfl
@[simp] theorem countUnit_dev (s : State) (name kind n : Nat) : (countUnit s name kind n).dev = s.dev := rfl
@[simp] theorem countUnit_nextMsg (s : State) (name kind n : Nat) : (countUnit s name kind n).nextMsg = s.nextMsg := rfl
@[simp] theorem countUnit_fresh (s : State) (name kind n : Nat) : (countUnit s name kind n).fresh = s.fresh := rfl
@[simp] theorem countUnit_tick (s : State) (name kind n : Nat) : (countUnit s name kind n).tick = s.tick := rfl
@[simp] theorem countUnit_pending (s : State) (name kind n : Nat) : (countUnit s name kind n).pending = s.pending := rfl

/-! ### recordSdc -/

@[simp] theorem recordSdc_threads (s : State) (k check outcome : Nat) : (recordSdc s k check outcome).threads = s.threads := by unfold recordSdc; split <;> simp
@[simp] theorem recordSdc_cores (s : State) (k check outcome : Nat) : (recordSdc s k check outcome).cores = s.cores := by unfold recordSdc; split <;> simp
@[simp] theorem recordSdc_nodes (s : State) (k check outcome : Nat) : (recordSdc s k check outcome).nodes = s.nodes := by unfold recordSdc; split <;> simp
@[simp] theorem recordSdc_benches (s : State) (k check outcome : Nat) : (recordSdc s k check outcome).benches = s.benches := by unfold recordSdc; split <;> simp
@[simp] theorem recordSdc_hbm (s : State) (k check outcome : Nat) : (recordSdc s k check outcome).hbm = s.hbm := by unfold recordSdc; split <;> simp
@[simp] theorem recordSdc_hbmPoison (s : State) (k check outcome : Nat) : (recordSdc s k check outcome).hbmPoison = s.hbmPoison := by unfold recordSdc; split <;> simp
@[simp] theorem recordSdc_ls (s : State) (k check outcome : Nat) : (recordSdc s k check outcome).ls = s.ls := by unfold recordSdc; split <;> simp
@[simp] theorem recordSdc_lsPoison (s : State) (k check outcome : Nat) : (recordSdc s k check outcome).lsPoison = s.lsPoison := by unfold recordSdc; split <;> simp
@[simp] theorem recordSdc_coreCells (s : State) (k check outcome : Nat) : (recordSdc s k check outcome).coreCells = s.coreCells := by unfold recordSdc; split <;> simp
@[simp] theorem recordSdc_wbCells (s : State) (k check outcome : Nat) : (recordSdc s k check outcome).wbCells = s.wbCells := by unfold recordSdc; split <;> simp
@[simp] theorem recordSdc_wbWaits (s : State) (k check outcome : Nat) : (recordSdc s k check outcome).wbWaits = s.wbWaits := by unfold recordSdc; split <;> simp
@[simp] theorem recordSdc_watches (s : State) (k check outcome : Nat) : (recordSdc s k check outcome).watches = s.watches := by unfold recordSdc; split <;> simp
@[simp] theorem recordSdc_locks (s : State) (k check outcome : Nat) : (recordSdc s k check outcome).locks = s.locks := by unfold recordSdc; split <;> simp
@[simp] theorem recordSdc_hbmStacks (s : State) (k check outcome : Nat) : (recordSdc s k check outcome).hbmStacks = s.hbmStacks := by unfold recordSdc; split <;> simp
@[simp] theorem recordSdc_skip (s : State) (k check outcome : Nat) : (recordSdc s k check outcome).skip = s.skip := by unfold recordSdc; split <;> simp
@[simp] theorem recordSdc_inbox (s : State) (k check outcome : Nat) : (recordSdc s k check outcome).inbox = s.inbox := by unfold recordSdc; split <;> simp
@[simp] theorem recordSdc_ctxs (s : State) (k check outcome : Nat) : (recordSdc s k check outcome).ctxs = s.ctxs := by unfold recordSdc; split <;> simp
@[simp] theorem recordSdc_rings (s : State) (k check outcome : Nat) : (recordSdc s k check outcome).rings = s.rings := by unfold recordSdc; split <;> simp
@[simp] theorem recordSdc_evrings (s : State) (k check outcome : Nat) : (recordSdc s k check outcome).evrings = s.evrings := by unfold recordSdc; split <;> simp
@[simp] theorem recordSdc_launches (s : State) (k check outcome : Nat) : (recordSdc s k check outcome).launches = s.launches := by unfold recordSdc; split <;> simp
@[simp] theorem recordSdc_regions (s : State) (k check outcome : Nat) : (recordSdc s k check outcome).regions = s.regions := by unfold recordSdc; split <;> simp
@[simp] theorem recordSdc_pageReqs (s : State) (k check outcome : Nat) : (recordSdc s k check outcome).pageReqs = s.pageReqs := by unfold recordSdc; split <;> simp
@[simp] theorem recordSdc_slots (s : State) (k check outcome : Nat) : (recordSdc s k check outcome).slots = s.slots := by unfold recordSdc; split <;> simp
@[simp] theorem recordSdc_ports (s : State) (k check outcome : Nat) : (recordSdc s k check outcome).ports = s.ports := by unfold recordSdc; split <;> simp
@[simp] theorem recordSdc_links (s : State) (k check outcome : Nat) : (recordSdc s k check outcome).links = s.links := by unfold recordSdc; split <;> simp
@[simp] theorem recordSdc_units (s : State) (k check outcome : Nat) : (recordSdc s k check outcome).units = s.units := by unfold recordSdc; split <;> simp
@[simp] theorem recordSdc_hostMem (s : State) (k check outcome : Nat) : (recordSdc s k check outcome).hostMem = s.hostMem := by unfold recordSdc; split <;> simp
@[simp] theorem recordSdc_flash (s : State) (k check outcome : Nat) : (recordSdc s k check outcome).flash = s.flash := by unfold recordSdc; split <;> simp
@[simp] theorem recordSdc_fuses (s : State) (k check outcome : Nat) : (recordSdc s k check outcome).fuses = s.fuses := by unfold recordSdc; split <;> simp
@[simp] theorem recordSdc_gov (s : State) (k check outcome : Nat) : (recordSdc s k check outcome).gov = s.gov := by unfold recordSdc; split <;> simp
@[simp] theorem recordSdc_dev (s : State) (k check outcome : Nat) : (recordSdc s k check outcome).dev = s.dev := by unfold recordSdc; split <;> simp
@[simp] theorem recordSdc_fresh (s : State) (k check outcome : Nat) : (recordSdc s k check outcome).fresh = s.fresh := by unfold recordSdc; split <;> simp
@[simp] theorem recordSdc_tick (s : State) (k check outcome : Nat) : (recordSdc s k check outcome).tick = s.tick := by unfold recordSdc; split <;> simp
@[simp] theorem recordSdc_pending (s : State) (k check outcome : Nat) : (recordSdc s k check outcome).pending = s.pending := by unfold recordSdc; split <;> simp

/-! ### What retiring does to threads and cores -/

theorem thr_of_threads {s t : State} (h : t.threads = s.threads) (k : Nat) : thr t k = thr s k := by simp [thr, h]

theorem core_of_cores {s t : State} (h : t.cores = s.cores) (c : Nat) : core t c = core s c := by simp [core, h]

/-- Counting retired instructions changes one register of one thread: INSTRET (R214). -/
theorem countInstret_threads (s : State) (k n : Nat) :
    (countInstret s k n).threads =
      (modSys s k fun y => { y with instret := y.instret + BitVec.ofNat 64 n }).threads := by
  simp only [countInstret, wrapAdd]; repeat (first | split | simp)
  all_goals rfl

theorem countInstret_thr_self (s : State) (k n : Nat) :
    thr (countInstret s k n) k =
      { thr s k with sys := { (thr s k).sys with instret := (thr s k).sys.instret + BitVec.ofNat 64 n } } := by
  rw [thr_of_threads (countInstret_threads s k n)]; simp [modSys]

theorem countInstret_thr_ne (s : State) {k j : Nat} (n : Nat) (h : j ≠ k) : thr (countInstret s k n) j = thr s j := by
  rw [thr_of_threads (countInstret_threads s k n)]; exact thr_modThr_ne s _ h

/-- Counting retired instructions changes nothing of a core but its WRAP bits (Table 22.9). -/
theorem countInstret_core (s : State) (k n c : Nat) :
    core (countInstret s k n) c = { core s c with wrap := (core (countInstret s k n) c).wrap } := by
  have hk : ∀ (f : Core → Core) (u : State), u.cores = s.cores → (∀ x : Core, f x = { x with wrap := (f x).wrap }) →
      core (modCore u (k / 8) f) c = { core s c with wrap := (core (modCore u (k / 8) f) c).wrap } := by
    intro f u hu hf
    by_cases h : c = k / 8
    · subst h; rw [core_modCore_self, core_of_cores hu]; exact hf _
    · rw [core_modCore_ne _ _ h, core_of_cores hu]
  simp only [countInstret]
  split
  · split
    · rw [core_of_cores (recordWrap_cores _ _ _ _)]; exact hk _ _ (by simp) fun _ => rfl
    · exact hk _ _ (by simp) fun _ => rfl
  · simp

/-- The thread that retires an instruction: its PC moves past it and INSTRET counts one. -/
theorem retire_thr_self (s : State) (k len : Nat) :
    thr (retire s k len) k =
      { thr s k with pc := (thr s k).pc + BitVec.ofNat 64 len, sys := { (thr s k).sys with instret := (thr s k).sys.instret + 1 } } := by
  simp [retire, countInstret_thr_self, setPc]

theorem retire_thr_ne (s : State) {k j : Nat} (len : Nat) (h : j ≠ k) : thr (retire s k len) j = thr s j := by
  simp [retire, countInstret_thr_ne _ _ h, setPc, thr_modThr_ne _ _ h]

theorem retire_core (s : State) (k len c : Nat) :
    core (retire s k len) c = { core s c with wrap := (core (retire s k len) c).wrap } := by
  simpa [retire] using countInstret_core (setPc s k ((thr s k).pc + BitVec.ofNat 64 len)) k 1 c

@[simp] theorem rx_retire (s : State) (k len j : Nat) (r : BitVec 5) : rx (retire s k len) j r = rx s j r := by
  unfold rx
  by_cases h : j = k
  · subst h; simp [retire_thr_self]
  · simp [retire_thr_ne s len h]

@[simp] theorem rv_retire (s : State) (k len j r : Nat) : rv (retire s k len) j r = rv s j r := by
  unfold rv
  by_cases h : j = k
  · subst h; simp [retire_thr_self]
  · simp [retire_thr_ne s len h]

@[simp] theorem rp_retire (s : State) (k len j r : Nat) : rp (retire s k len) j r = rp s j r := by
  unfold rp
  by_cases h : j = k
  · subst h; simp [retire_thr_self]
  · simp [retire_thr_ne s len h]

end Sys2Proof.Machine
end

