-- ==== Sys2Proof/Laws/Memory.lean ====
section
/-!
SUPPORT. Every operation that writes memory keeps its canonical form, and what each byte reads as after it.
-/
namespace Sys2Proof.Machine

/-! ### The canonical form -/

/-- Writing a list of bytes keeps a memory's canonical form. -/
theorem memWf_puts (key : Nat → Nat) (bytes : List (Nat × Byte)) (m : Tbl Byte) (h : memWf m = true) :
    memWf (bytes.foldl (fun m (p : Nat × Byte) => memPut m (key p.1) p.2) m) = true :=
  memWf_foldl (fun m (p : Nat × Byte) => memPut m (key p.1) p.2) (fun m p => memWf_memPut m (key p.1) p.2) bytes m h

/-- A state with the same five memories is as canonical. -/
theorem MemoryOk.of_eq {s t : State} (h : MemoryOk s) (h1 : t.hbm = s.hbm) (h2 : t.ls = s.ls) (h3 : t.hostMem = s.hostMem)
    (h4 : t.hbmPoison = s.hbmPoison) (h5 : t.lsPoison = s.lsPoison) : MemoryOk t := by
  simpa only [MemoryOk, h1, h2, h3, h4, h5] using h

theorem addAbort_memoryOk {s : State} (k : Nat) (c : AbortCause) (h : MemoryOk s) : MemoryOk (addAbort s k c) := by
  unfold addAbort; split <;> exact h

theorem breakWatches_memoryOk {s : State} (hm : HomeId) (line : Nat) (by_ : Option Nat) (h : MemoryOk s) :
    MemoryOk (breakWatches s hm line by_) := by
  unfold breakWatches
  generalize (s.watches.filter _) = l
  have h0 : MemoryOk { s with watches := s.watches.map fun w => if w.home == hm && w.line == line && some w.thr != by_ then { w with broken := true } else w } := h
  revert h0
  generalize ({ s with watches := _ } : State) = u
  intro h0
  induction l generalizing u with
  | nil => exact h0
  | cons w l ih => exact ih _ (addAbort_memoryOk _ _ h0)

theorem hbmWrite_memoryOk {s : State} (a : Nat) (bytes : List (Nat × Byte)) (poison : Bool) (h : MemoryOk s) : MemoryOk (hbmWrite s a bytes poison) := by
  obtain ⟨h1, h2, h3, h4, h5⟩ := h
  have w := memWf_puts (fun i => hbmLoc s (a + i)) bytes s.hbm h1
  unfold hbmWrite
  split
  · exact ⟨h1, h2, h3, h4, h5⟩
  · simp only
    split
    · exact ⟨w, h2, h3, NSet.wf_add _ _ h4, h5⟩
    · split
      · exact ⟨w, h2, h3, NSet.wf_del _ _ h4, h5⟩
      · exact ⟨w, h2, h3, h4, h5⟩

theorem bankWrite_memoryOk {s : State} (c o : Nat) (bytes : List (Nat × Byte)) (poison : Bool) (h : MemoryOk s) : MemoryOk (bankWrite s c o bytes poison) := by
  obtain ⟨h1, h2, h3, h4, h5⟩ := h
  have w := memWf_puts (fun i => c * 2 ^ 20 + o + i) bytes s.ls h2
  unfold bankWrite
  simp only
  split
  · exact ⟨h1, w, h3, h4, NSet.wf_add _ _ h5⟩
  · split
    · exact ⟨h1, w, h3, h4, NSet.wf_del _ _ h5⟩
    · exact ⟨h1, w, h3, h4, h5⟩

theorem gbufFlush_memoryOk {s : State} (c line : Nat) (h : MemoryOk s) : MemoryOk (gbufFlush s c line) := by
  unfold gbufFlush
  split
  · exact h
  · exact bankWrite_memoryOk _ _ _ _ h

theorem gbufFlushAll_memoryOk {s : State} (c : Nat) (h : MemoryOk s) : MemoryOk (gbufFlushAll s c) := by
  unfold gbufFlushAll
  generalize ((core s c).gbuf.map _) = l
  induction l generalizing s with
  | nil => exact h
  | cons x l ih => exact ih (gbufFlush_memoryOk c x h)

theorem gbufMerge_memoryOk {s : State} (c o : Nat) (bytes : List (Nat × Byte)) (h : MemoryOk s) : MemoryOk (gbufMerge s c o bytes) := by
  unfold gbufMerge
  simp only
  split
  · split
    · exact gbufFlush_memoryOk _ _ h
    · exact h
  · split
    · split
      · exact h
      · exact gbufFlush_memoryOk _ _ h
    · exact h

/-- A store of a core's own port keeps the canonical form. -/
theorem coreStore_memoryOk {s : State} (k o : Nat) (bytes : List (Nat × Byte)) (h : MemoryOk s) : MemoryOk (coreStore s k o bytes) := by
  unfold coreStore
  simp only
  split
  · exact bankWrite_memoryOk _ _ _ _ (breakWatches_memoryOk _ _ _ h)
  · exact gbufMerge_memoryOk _ _ _ (breakWatches_memoryOk _ _ _ h)

/-- A write at its home keeps the canonical form. -/
theorem homeWrite_memoryOk {s : State} (t : Target) (bytes : List (Nat × Byte)) (poison : Bool) (by_ : Option Nat) (h : MemoryOk s) :
    MemoryOk (homeWrite s t bytes poison by_) := by
  unfold homeWrite
  split
  · exact hbmWrite_memoryOk _ _ _ (breakWatches_memoryOk _ _ _ h)
  · exact bankWrite_memoryOk _ _ _ _ (gbufFlush_memoryOk _ _ (breakWatches_memoryOk _ _ _ h))
  · split
    · exact h
    · rename_i p a _
      obtain ⟨h1, h2, h3, h4, h5⟩ := h
      exact ⟨h1, h2, memWf_puts (fun i => p * 2 ^ 40 + a + i) bytes s.hostMem h3, h4, h5⟩
  · exact h

theorem zeroChunk_memoryOk {s : State} (a n : Nat) (h : MemoryOk s) : MemoryOk (zeroChunk s a n) := by
  obtain ⟨h1, h2, h3, h4, h5⟩ := h
  exact ⟨memWf_filter _ _ h1, h2, h3, NSet.wf_filter _ _ h4, h5⟩

theorem zeroStore_memoryOk {s : State} (c lo n : Nat) (h : MemoryOk s) : MemoryOk (zeroStore s c lo n) := by
  obtain ⟨h1, h2, h3, h4, h5⟩ := h
  exact ⟨h1, memWf_filter _ _ h2, h3, h4, NSet.wf_filter _ _ h5⟩

/-! ### What a byte reads as -/

/-- HBM after a write that no withdrawn page discards: each byte written reads as the last written there. -/
theorem hbm_after_put (s : State) (a q : Nat) (b : Byte) (h : memWf s.hbm = true) :
    memGet (memPut s.hbm (hbmLoc s a) b) q = if q = hbmLoc s a then b else memGet s.hbm q := by
  split
  · subst_vars; exact memGet_memPut_self _ _ _ h
  · rename_i hq; exact memGet_memPut_ne _ _ hq

/-- A store without a gather buffer entry on a line reads from its bank. -/
theorem storeByte_bank {s : State} {c o : Nat} (h : ∀ e ∈ (core s c).gbuf, e.line.toNat ≠ o / 64) : storeByte s c o = memGet s.ls (c * 2 ^ 20 + o) := by
  unfold storeByte
  split
  · rename_i e he
    have := List.find?_some he
    have hm := List.mem_of_find?_eq_some he
    simp only [beq_iff_eq] at this
    exact absurd this (h e hm)
  · rfl

/-- The bytes of memory depend on four fields alone. -/
theorem sameMemory_of_eq {s t : State} (h1 : t.hbm = s.hbm) (h2 : t.ls = s.ls) (h3 : t.hostMem = s.hostMem) (h4 : t.cores = s.cores) (h5 : t.dev.full = s.dev.full) :
    SameMemory s t := by
  refine ⟨fun a => ?_, fun c o => ?_, fun a => by rw [h3]⟩
  · simp only [hbmByte, hbmLoc, h1, h5]
  · simp only [storeByte, core, h2, h4]

end Sys2Proof.Machine
end

