-- ==== Sys2Proof/Laws/Access.lean ====
section
/-!
SUPPORT. A scalar access of a thread to its own store: its translation, its bytes and what it leaves alone.
-/
namespace Sys2Proof.Machine

theorem key_div (h : Hart) : h.key / 8 = h.core.toNat := by have := h.thr.isLt; simp only [Hart.key]; omega

/-- A number read from bytes fits in them. -/
theorem leNat_lt (l : List Byte) : leNat l < 2 ^ (8 * l.length) := by
  induction l with
  | nil => simp [leNat]
  | cons b t ih =>
    simp only [leNat, List.length_cons]
    have := b.isLt
    have e : 2 ^ (8 * (t.length + 1)) = 256 * 2 ^ (8 * t.length) := by rw [Nat.mul_add, pow_add]; ring
    rw [e]; omega

/-- Sign extension of a loaded value is its value as a signed number. -/
theorem loadExtend_eq (v n : Nat) (sg : Bool) (hv : v < 2 ^ (8 * n)) :
    loadExtend n sg v = if sg then BitVec.ofInt 64 (Int.bmod v (2 ^ (8 * n))) else BitVec.ofNat 64 v := by
  unfold loadExtend sext64
  split
  · simp [BitVec.signExtend, BitVec.toInt_eq_toNat_bmod]
    congr 1
    exact Int.emod_bmod _ _
  · rw [Nat.mod_eq_of_lt hv]

/-- An address below 1 MiB is the thread's own store (Table 1.9), and its translation is not counted. -/
theorem own_translate {h : Hart} {va : W64} {n : Nat} {w : Bool} {s : State} (ho : OwnStore h va n w s) (acc : Acc) :
    Machine.translate s (threadWho s h.key (lvlOf s h.key)) acc va = .ok { tgt := .store h.core.toNat va.toNat, nc := false, page := none } ∧
      noteTranslate s (threadWho s h.key (lvlOf s h.key)) va = s := by
  obtain ⟨h1, h2, -, -, h5, -⟩ := ho
  obtain ⟨c, hc⟩ := Option.isSome_iff_exists.mp h2
  have : ¬ lvlOf s h.key = 2 := by omega
  have h6 : va.toNat < 0x100000 := by omega
  constructor
  · simp only [Machine.translate, threadWho, this, if_false, translateVirtual, hc, h6, key_div]
    simp only [ge_iff_le, show ¬ (2 ^ 48 ≤ va.toNat) by omega, if_false, if_true, reservedDenied, show ¬ (491520 ≤ va.toNat) by omega, false_and]
    simp
  · simp [noteTranslate, h6]

/-- A load of the own store gives the bytes there at once. -/
theorem scalarLoad_own {h : Hart} {s : State} {va : W64} {n : Nat} (sink : Sink) (fin : State → State) (ho : OwnStore h va n false s) :
    scalarLoad s h.key va n sink fin = .done (fin (sinkValue s h.key sink (leNat (homeRead s (.store h.core.toNat va.toNat) n)))) := by
  have ⟨h1, h2⟩ := own_translate ho .read
  dsimp only [OwnStore] at ho
  obtain ⟨-, -, h3, h4, -, h6, h7, h8⟩ := ho
  have e : findTarget s h.key .read va n = .at { tgt := .store h.core.toNat va.toNat, nc := false, page := none } s := by
    simp [findTarget, h4, h1, h2]
  unfold scalarLoad
  rw [e]
  simp only [readOut, inTx, h3, plainReadOut]
  rw [h6, h7, h8]
  simp [key_div]

/-- A load of an address that is not a multiple of its width raises ALIGN (R61). -/
theorem scalarLoad_misaligned {s : State} {k : Nat} {va : W64} {n : Nat} (sink : Sink) (fin : State → State) (ho : va.toNat % n ≠ 0) :
    scalarLoad s k va n sink fin = .trap s (scalarExn 3 va) := by
  unfold scalarLoad findTarget
  simp [ho]

end Sys2Proof.Machine
end

