-- ==== Sys2Proof/Laws/Commands.lean ====
section
/-!
SUPPORT. What a step of a unit does once for all units, what a ring's command does when it may begin, and everything that its
completion can do.
-/
namespace Sys2Proof.Machine

/-! ### Steps of units -/

/-- A step of a core that exists and is not held. -/
theorem onCore_next {c : BitVec 11} {s : State} (f : State → Nat → State) (h : isCore c.toNat = true) (hh : held s (c.toNat / 8) = false) : onCore c f s = .next (f s c.toNat) := by
  simp [onCore, h, hh]

theorem onCore_none {c : BitVec 11} (f : State → Nat → State) (s : State) (h : isCore c.toNat = false) : onCore c f s = .next s := by
  simp [onCore, h]

/-- A step of a thread whose core exists and is not held. -/
theorem onThread_next {c : BitVec 11} {i : BitVec 3} {s : State} (f : State → Nat → State) (h : isCore c.toNat = true) (hh : held s (c.toNat / 8) = false) :
    onThread c i f s = .next (f s (c.toNat * 8 + i.toNat)) := by
  simp [onThread, h, hh]

/-- A step of a bench that is not held. -/
theorem onBench_next {n : BitVec 8} {s : State} (f : State → Nat → State) (h : isBench n.toNat = true) (hh : held s n.toNat = false) : onBench n f s = .next (f s n.toNat) := by
  simp [onBench, h, hh]

theorem onBench_none {n : BitVec 8} (f : State → Nat → State) (s : State) (h : isBench n.toNat = false) : onBench n f s = .next s := by
  simp [onBench, h]

theorem onNode_next {n : BitVec 8} {s : State} (f : State → Nat → State) (hh : held s n.toNat = false) : onNode n f s = .next (f s n.toNat) := by
  simp [onNode, hh]

/-! ### Rings -/

theorem ringKey_port (r : RingRef) : ringKey r / 512 = r.port.toNat := by have := r.fn.isLt; have := r.ring.isLt; simp only [ringKey]; omega
theorem ringKey_fn (r : RingRef) : ringKey r / 16 % 32 = r.fn.toNat := by have := r.fn.isLt; have := r.ring.isLt; simp only [ringKey]; omega
theorem ringKey_ring (r : RingRef) : ringKey r % 16 = r.ring.toNat := by have := r.fn.isLt; have := r.ring.isLt; simp only [ringKey]; omega

/-- A command that may begin runs its own meaning. -/
theorem runCommand_begins {r : RingRef} {op : Nat} {p : Packet} {s : State} (h : Begins r op p s) (body : State → Nat → Packet → State) :
    runCommand op r body s = body s (ringKey r) p := by
  obtain ⟨h1, h2, h3, h4, h5, h6, h7, h8⟩ := h
  have h9 : ¬ (pktGroup p ≠ 0 ∧ pktGroup p = (ring s (ringKey r)).discard ∧ pktOp p ≠ 0x38) := by
    rintro ⟨a, -, b⟩; rcases h5 with h5 | h5 <;> omega
  unfold runCommand runChecked
  simp only [h1, h2, h3, h4, h6, h7, h8]
  simp only [h2] at h9
  simp [h9]

/-- A record for an enabled ring is the last message in the mesh, with the source's next number (R346). -/
theorem makeRecord_sends {s : State} {rg : Nat} (node scls srcid ty : Nat) (ctx : Option Nat) (w3 w4 w5 w6 w7 : W64) (h : (evring s rg).en = true) :
    LastSent (makeRecord s node rg scls srcid ty ctx w3 w4 w5 w6 w7) 3 node (portNode (evring s rg).port)
      (.record { ring := rg, ty := ty, scls := scls, srcid := srcid, seqno := Tbl.getD s.seqs (seqKey rg scls srcid) 0, ctx := ctx, w3 := w3, w4 := w4, w5 := w5, w6 := w6,
                 w7 := w7, prio := recordPrio ty scls, spilled := false }) := by
  simp only [makeRecord, h, if_true, sendMsg, LastSent]
  exact ⟨_, List.getLast?_concat, rfl, rfl, rfl, rfl, rfl⟩

/-- What the answer to a packet that describes no ring does. -/
theorem answerPacket_plain {s : State} {rk : Nat} {p : Packet} (ty status reason : Nat) (w4 w5 w6 w7 : W64) (h : pktOp p ≠ 0x10) :
    answerPacket s rk p ty status reason w4 w5 w6 w7 =
      match answerRing s rk p with
      | none => s
      | some (rg, ctx) => makeRecord s (portNode (rk / 512)) rg 0 rk ty ctx (completionWord (pktTag p) (pktOp p) status (rk % 16) reason) w4 w5 w6 w7 := by
  unfold answerPacket
  have : describedRing p = none := by simp [describedRing, h]
  cases answerRing s rk p <;> simp only [this]

/-- What a command touches of its contexts changes no owner. -/
theorem ringOwns_ringActs (s : State) (rk q c : Nat) : ringOwns (ringActs s rk) q c = ringOwns s q c := by
  unfold ringOwns ringActs
  rw [Tbl.get?_map fun c (x : Ctx) => if ringOwns s rk c then { x with acts := x.acts + 1 } else x]
  cases Tbl.get? s.ctxs c with
  | none => rfl
  | some x => simp only [Option.map_some]; split <;> rfl

theorem answerRing_ringActs (s : State) (rk q : Nat) (p : Packet) : answerRing (ringActs s rk) q p = answerRing s q p := by
  unfold answerRing pktContext
  simp only [ringOwns_ringActs]
  have : ∀ l : Tbl Ctx, ((l.map fun e => (e.1, if ringOwns s rk e.1 then { e.2 with acts := e.2.acts + 1 } else e.2)).find? fun e =>
      e.2.port == q / 512 && e.2.fn == q / 16 % 32).map (fun e => (e.1, (none : Option Nat))) =
      (l.find? fun e => e.2.port == q / 512 && e.2.fn == q / 16 % 32).map fun e => (e.1, none) := by
    intro l
    induction l with
    | nil => rfl
    | cons e t ih =>
      have hp : (if ringOwns s rk e.1 then { e.2 with acts := e.2.acts + 1 } else e.2).port = e.2.port := by split <;> rfl
      have hf : (if ringOwns s rk e.1 then { e.2 with acts := e.2.acts + 1 } else e.2).fn = e.2.fn := by split <;> rfl
      simp only [List.map_cons, List.find?_cons, hp, hf]
      split
      · rfl
      · exact ih
  simp only [ringActs, this]

/-- Completing the command of a ring: the ring is ready for the next, and the COMPLETION is the last message. -/
theorem finish_completed {r : RingRef} {p : Packet} {s : State} (status reason : Nat) (w4 w5 : W64) (h : (ring s (ringKey r)).cur = some p) (hp : pktOp p ≠ 0x10) :
    Completed r p s (finish s (ringKey r) status reason w4 w5 0 0) status reason w4 w5 := by
  simp only [finish, h, answerPacket_plain _ _ _ _ _ _ _ hp, answerRing_ringActs]
  refine ⟨by simp, by simp, ?_⟩
  intro rg ctx ha he
  simp only [ha, ringKey_port, ringKey_ring]
  exact makeRecord_sends (s := ringActs s (ringKey r)) _ 0 _ 1 ctx _ w4 w5 0 0 he

end Sys2Proof.Machine
end

