-- ==== Sys2Proof/Laws/PerInstr.lean ====
section
/-!
SUPPORT. Statements about every command, by constructor.
-/
namespace Sys2Proof.Laws

end Sys2Proof.Laws
end

