-- ==== Sys2Proof/Tests/Slice0.lean ====
section
/-!
SUPPORT. The model's own tests: ill-formed terms that WellFormed refuses, worked examples of the manual, and for each statement of
Certificates/Slice0/Obligations.lean a small state that meets its hypotheses, with what one step there shows.
-/
namespace Sys2Proof.Tests

set_option Elab.async false

open Sys2Proof.Machine

/-- The state after a step, if it is a next state. -/
def nx : Out → Option State
  | .next t => some t
  | _ => none

/-- A step from `s` ends in a next state of which `p` holds. -/
def sees (o : Out) (p : State → Bool) : Bool := match o with | .next t => p t | _ => false

/-- A context of core 0 alone, in mode 2. -/
def cx : Ctx :=
  { port := 0, fn := 0, pasid := 0, mode := 2, virt := false, grant := [0], root := 0xFFC0000000, frames := [0], order := none, lcore := [0], quiet := 1250000,
    wake := false, stall := 0, drain := 0, thresh := 0, minconv := 0, event := false, vbase1 := 0, ended := false, halted := false, quietSince := none,
    confirming := false, wbHeld := [], quietMark := [], acts := 0 }

/-- A powered device without an image in its fuses. -/
def w0 : State := { State.reset with fuses := { slots := [], revoke := 0, rollback := 0 }, dev := { Dev.init with fwState := 3 } }

/-- Core 0 in mode 2 with context 0; thread 0 runs at P1 at 0x1000, x1 = 0x100, x2 = 7, x5 all ones, x30 = 0x2000. -/
def w : State :=
  { w0 with
    threads := [(0, { Thread.init with run := .running, pc := 0x1000, x := [(1, 0x100), (2, 7), (5, -1), (6, 0x101), (30, 0x2000)] })]
    cores := [(0, { Core.init with mode := 2, ctx := some 0 })]
    ctxs := [(0, cx)] }

/-- Thread 0 of core 0. -/
def h : Hart := { core := 0, thr := 0, compact := false, chk := .pass, slots := 0 }
/-- The same with room for every lane, row or iteration in one step. -/
def hs : Hart := { h with slots := 64 }

/-- The bytes of an instruction where its thread fetches them; a repeat's follower stands behind its prefix. -/
def codeBytes (i : Instr) : List Byte :=
  instrBytes i ++ match i with
    | .repI _ _ _ _ _ f => instrBytes f
    | .repN _ _ _ _ _ f => instrBytes f
    | _ => []

/-- `s` with an instruction at its thread's PC, in the core's own store. -/
def code (i : Instr) (s : State) : State :=
  match i.hart? with
  | some h => { s with ls := (codeBytes i).zipIdx.foldl (fun m b => memPut m (h.core.toNat * 2 ^ 20 + (thr s h.key).pc.toNat + b.2) b.1) s.ls }
  | none => s

/-- An instruction runs from where it stands. -/
def run (i : Instr) (s : State) : Out := exec i (code i s)

/-- What an instruction does where it stands, in one step. -/
def does (i : Instr) (s : State) (f : State → State) : Bool := decide (nx (run i s) = some (f (code i s)))

/-- What stands at an address, as one test. -/
def standsB (h : Hart) (d : Decoded) (pc : W64) (s : State) : Bool :=
  match fetchInstr s h.key pc h.compact with
  | .bits a b => decide (decodeAt h a b = d)
  | .unseen => true
  | _ => false

theorem stands_of {h : Hart} {d : Decoded} {pc : W64} {s : State} (e : standsB h d pc s = true) : Stands h d pc s := by
  unfold standsB at e
  unfold Stands
  generalize fetchInstr s h.key pc h.compact = f at e ⊢
  cases f <;> simp_all

theorem fetches_of {i : Instr} {s : State} (h : Hart) (eh : i.hart? = some h) (e : standsB h (.instr i) (thr s h.key).pc s = true) : Fetches i s := by
  unfold Fetches
  rw [eh]
  exact stands_of e

/-- What makes an instruction ready, as one test. -/
def readyB (h : Hart) (regs : List (BitVec 5)) (s : State) : Bool :=
  isCore h.core.toNat && canIssue s h.key && ((thr s h.key).job == none) && regs.all (fun r => !busyReg s h.key r) && (h.chk == .pass)

theorem ready_of {h : Hart} {regs : List (BitVec 5)} {s : State} (e : readyB h regs s = true) : Ready h regs s := by
  simp only [readyB, Bool.and_eq_true, List.all_eq_true, Bool.not_eq_true', beq_iff_eq] at e
  obtain ⟨⟨⟨⟨h1, h2⟩, h3⟩, h4⟩, h5⟩ := e
  exact ⟨h1, h2, h3, h4, h5⟩

/-- An instruction where it stands: its thread may issue it, and fetches it. -/
def fitB (h : Hart) (regs : List (BitVec 5)) (i : Instr) (s : State) : Bool :=
  readyB h regs (code i s) && standsB h (.instr i) (thr (code i s) h.key).pc (code i s)

theorem fit_of {h : Hart} {regs : List (BitVec 5)} {i : Instr} {s : State} (eh : i.hart? = some h) (e : fitB h regs i s = true) :
    Ready h regs (code i s) ∧ Fetches i (code i s) := by
  simp only [fitB, Bool.and_eq_true] at e
  exact ⟨ready_of e.1, fetches_of h eh e.2⟩

theorem test_ready : Ready h [1, 2, 3, 5, 6, 28, 29, 30] w ∧ Ready h [1, 2, 3] (code (.op h 0 3 1 2) w) ∧ Fetches (.op h 0 3 1 2) (code (.op h 0 3 1 2) w) :=
  ⟨ready_of (by decide +kernel), fit_of rfl (by decide +kernel)⟩

/-! ### Ill-formed terms -/

/-- Thread 0 of core 0 with a 16-bit form; a core that the device does not have. -/
def hc : Hart := { h with compact := true }
def hx : Hart := { h with core := 528 }
def vfld : VFields := { vd := 0, vs1 := 0, vs2 := 0, pg := 0, ty := 0 }
def flt (n : Nat) : LinkFlit := { seqno := 0, ackno := 0, credits := List.replicate n 0, msgs := [], crcOk := true, codewordOk := true, symbols := List.replicate 8 0 }

/-- A core that is not there; a 16-bit form that Table 3.7 does not have. -/
theorem test_wf_cores : (Instr.op h 0 1 1 2).wf = true ∧ (Instr.op hx 0 1 1 2).wf = false ∧ (Instr.op32 hc 0 1 1 2).wf = false ∧ (Instr.varith hx vfld 0).wf = false ∧
    (Instr.cwaitPoll 0 0).wf = true ∧ (Instr.cwaitPoll 528 0).wf = false := by decide
theorem test_wf_compact : (Instr.op hc 0 1 1 2).wf = true ∧ (Instr.op hc 0 1 2 3).wf = false ∧ (Instr.op hc 0 16 16 2).wf = false ∧ (Instr.addk hc 1 1 31).wf = true ∧ (Instr.addk hc 1 1 64).wf = false ∧
    (Instr.shk hc 1 1 63).wf = true ∧ (Instr.shk hc 1 1 128).wf = false ∧ (Instr.ld hc 1 2 56).wf = true ∧ (Instr.ld hc 1 2 57).wf = false ∧ (Instr.ld hc 1 30 1016).wf = true ∧ (Instr.lw hc 1 30 64).wf = false ∧
    (Instr.beq hc 1 0 5).wf = true ∧ (Instr.beq hc 1 2 5).wf = false ∧ (Instr.jal hc 31 5).wf = true ∧ (Instr.jal hc 30 5).wf = false ∧ (Instr.jalr hc 0 31 0).wf = true ∧ (Instr.jalr hc 1 31 0).wf = false ∧
    (Instr.ebreak hc 0 0).wf = true ∧ (Instr.ebreak hc 1 0).wf = false := by decide
/-- A repeat's follower is an instruction of the same thread, itself well formed. -/
theorem test_wf_repeat : (Instr.repI h false 0 0 4 (.op h 0 1 1 2)).wf = true ∧ (Instr.repI h false 0 0 4 (.op { h with thr := 1 } 0 1 1 2)).wf = false ∧ (Instr.repI h false 0 0 4 .idleEntry).wf = false ∧
    (Instr.repI h false 0 0 4 (.op32 hc 0 1 1 2)).wf = false := by decide
/-- Units and fields that the other commands name. -/
theorem test_wf_units : (Instr.benchGate 0).wf = true ∧ (Instr.benchGate 66).wf = false ∧ (Instr.lockRequest 0 0 (.store 528)).wf = false ∧ (Instr.lockRequest 528 0 (.hbm 1)).wf = false ∧
    (Instr.haulLaunch .mgmt 66 0 0).wf = false ∧ (Instr.skipLaunch .mgmt 0 0).wf = false ∧ (Instr.skipLaunch (.command ⟨0, 17, 0⟩) 17 0).wf = false ∧
    (Instr.tailings 65).wf = true ∧ (Instr.tailings 66).wf = false ∧ (Instr.doorbell ⟨0, 0, 15⟩ 0).wf = true ∧ (Instr.doorbell ⟨0, 1, 4⟩ 0).wf = false ∧ (Instr.doorbell ⟨0, 17, 0⟩ 0).wf = false ∧
    (Instr.packetRead ⟨0, 0, 0⟩ [0]).wf = false ∧ (Instr.msiXUnmask 0 1 8).wf = false ∧ (Instr.atomicop 0 0 0 .swap 16 0 0).wf = false ∧ (Instr.linkFlit 0 (flt 8)).wf = true ∧ (Instr.linkFlit 0 (flt 7)).wf = false ∧
    (Instr.railFault 12).wf = false ∧ (Instr.thermtrip 66 0).wf = false ∧ (Instr.registerWrite .mgmt 0 0x10 8 0).wf = true ∧ (Instr.registerWrite .mgmt 0 0x10 3 0).wf = false ∧
    (Instr.registerWrite .mgmt 0 0x14 8 0).wf = false := by decide
/-- A stream load's Q bit. -/
theorem test_wf_stream : let f : Bool → TMemFields := fun q => { t := 1, rs1 := 0, rs2 := 0, d := false, mf := 0, scm := 0, rnd := false, q := q, z := 0 }
    (Instr.tload h (f false)).wf = true ∧ (Instr.tload h (f true)).wf = false ∧ (Instr.tloadStream h (f false)).wf = false := by decide
/-- A function that no table assigns is no row of its major. -/
theorem test_wf_functions : (Instr.vcmp h vfld 6).wf = true ∧ (Instr.vcmp h vfld 7).wf = false ∧ (Instr.vzfma h vfld 3).wf = true ∧ (Instr.vzfma h vfld 4).wf = false := by decide

/-! ### Scalar instructions -/

/-- Each scalar form is fetched, decoded and ready in `w`. -/
theorem test_scalar_fits : ([.op h 9 3 1 2, .op32 h 8 3 5 2, .bits h 7 3 1 0, .muldiv h 12 3 2 1, .addk h 3 1 (-1), .andk h 3 1 0x7FFF, .ork h 3 1 1, .xork h 3 1 2, .cmpltk h 3 1 3,
    .cmpltuk h 3 1 4, .shk h 3 1 0x3005, .addk32 h 3 1 5, .lih h 3 0x80000, .pcaddh h 3 1, .beq h 1 2 (-2), .bne h 1 2 4, .blt h 1 2 6, .bge h 1 2 8, .bltu h 1 2 10, .bgeu h 1 2 0x3FFF,
    .jal h 1 (-4), .jalr h 1 1 2, .op hc 0 1 1 2, .addk hc 1 1 (-32), .shk hc 1 1 63, .beq hc 1 0 5, .jal hc 31 5, .jalr hc 0 31 0] : List Instr).all
      (fun i => match i.hart? with | some x => fitB x [1, 2, 3, 5, 31] i w | none => false) = true := by decide +kernel

theorem test_sub_wraps : does (.op h 1 3 2 1) w (fun s_ => (retire (wx s_ 0 3 (-0xF9)) 0 4)) = true := by decide +kernel
theorem test_min_signed : does (.op h 12 3 5 2) w (fun s_ => (retire (wx s_ 0 3 (-1)) 0 4)) = true := by decide +kernel
theorem test_op32_sra : does (.op32 h 8 3 5 2) w (fun s_ => (retire (wx s_ 0 3 (-1)) 0 4)) = true := by decide +kernel
theorem test_clz_zero : does (.bits h 0 3 0 0) w (fun s_ => (retire (wx s_ 0 3 64) 0 4)) = true := by decide +kernel
/-- R66: a divisor of zero, and the signed overflow. -/
theorem test_div_zero : does (.muldiv h 4 3 2 0) w (fun s_ => (retire (wx s_ 0 3 0) 0 4)) = true ∧
    does (.muldiv h 6 3 2 0) w (fun s_ => (retire (wx s_ 0 3 7) 0 4)) = true := by decide +kernel
theorem test_mulhi_su : does (.muldiv h 3 3 5 2) w (fun s_ => (retire (wx s_ 0 3 (-1)) 0 4)) = true := by decide +kernel
theorem test_shk_reserved : does (.shk h 3 1 0x40) w (fun s_ => (faultAt s_ 0 (scalarExn 1 0) 0x1000)) = true := by decide +kernel
theorem test_jalr_same_register : does (.jalr h 1 1 2) w (fun s_ => (countInstret (setPc (wx s_ 0 1 0x1004) 0 0x102) 0 1)) = true := by decide +kernel
theorem test_jalr_odd : does (.jalr h 3 6 0) w (fun s_ => (faultAt s_ 0 (scalarExn 2 0x101) 0x1000)) = true := by decide +kernel
theorem test_beq_taken : does (.beq h 1 1 (-2)) w (fun s_ => (countInstret (setPc s_ 0 0xFFC) 0 1)) = true := by decide +kernel
theorem test_bltu_not_taken : does (.bltu h 5 1 8) w (fun s_ => (retire s_ 0 4)) = true := by decide +kernel
theorem test_reserved_functions : does (.op h 0x010 3 1 2) w (fun s_ => (faultAt s_ 0 (scalarExn 1 0) 0x1000)) = true ∧
    does (.op32 h 2 3 1 2) w (fun s_ => (faultAt s_ 0 (scalarExn 1 0) 0x1000)) = true := by decide +kernel
theorem test_no_such_core : exec (.op { h with core := 66 * 8 } 0 1 2 3) w = .next w := by rfl

/-- w with bytes 0x80 to 0x87 in the store from 0x100 on, one of them still in the gather buffer. -/
def wm : State :=
  { w with ls := (List.range 8).map (fun i => (0x100 + i, BitVec.ofNat 8 (0x80 + i)))
           cores := [(0, { Core.init with mode := 2, ctx := some 0, gbuf := [{ line := 4, mask := 1, data := 0x99 }] })] }

/-- A store, a load or an atomic of the own store where it stands meets what its statement asks; so does the last doubleword below the reserved area. -/
theorem test_own_store : (∀ i ∈ ([.sd h 2 1 0, .ld h 3 1 0, .atomic h (7 * 64 + 16 + 8) 5 1 2] : List Instr), OwnStore h 0x100 8 true (code i wm) ∧ OwnStore h 0x77FF8 8 false (code i wm) ∧
    memWf (code i wm).ls = true ∧ Ready h [1, 2, 3, 5, 6] (code i wm)) ∧ Fetches (.sd h 2 1 0) (code (.sd h 2 1 0) wm) := by
  refine ⟨?_, fetches_of h rfl (by decide +kernel)⟩
  simp only [List.forall_mem_cons, List.not_mem_nil, false_implies, implies_true, and_true]
  refine ⟨⟨?_, ?_, ?_, ready_of ?_⟩, ⟨?_, ?_, ?_, ready_of ?_⟩, ?_, ?_, ?_, ready_of ?_⟩ <;> first | decide +kernel | (simp only [OwnStore]; decide +kernel)
theorem test_memory_fits : ([.lb h 3 1 0, .lh h 3 1 0, .lw h 3 1 0, .ld h 3 1 0, .lbu h 3 1 0, .lhu h 3 1 0, .lwu h 3 1 0, .loadx h (512 + 6 * 32) 3 1 2, .sb h 2 1 1, .sh h 2 1 2, .sw h 2 1 4, .sd h 2 1 8,
    .storex h (256 + 3 * 32) 2 1 3, .atomic h (8 * 64) 0 1 2, .ld hc 1 2 56, .sd hc 2 1 0, .sd hc 5 30 1016] : List Instr).all
      (fun i => match i.hart? with | some x => fitB x [1, 2, 3, 5] i wm | none => false) = true := by decide +kernel
theorem test_load_signed : does (.lh h 3 1 0) wm (fun s_ => (retire (wx s_ 0 3 (-0x7E67)) 0 4)) = true := by decide +kernel
theorem test_load_misaligned : does (.lw h 3 6 0) wm (fun s_ => (faultAt s_ 0 (scalarExn 3 0x101) 0x1000)) = true := by decide +kernel
theorem test_loadx_post_increment : does (.loadx h (512 + 5 * 32) 3 1 2) wm (fun s_ => (retire (wx (wx s_ 0 3 0x8199) 0 1 0x107) 0 4)) = true := by decide +kernel
theorem test_store_low_byte_first : sees (run (.sw h 2 1 4) wm) (fun t => storeByte t 0 0x104 == 7 && storeByte t 0 0x105 == 0 && storeByte t 0 0x107 == 0 &&
    storeByte t 0 0x108 == 0 && storeByte t 0 0x103 == 0x83 && storeByte t 0 0x100 == 0x99) = true := by decide +kernel
/-- R71: a compare-and-swap goes to its home with the operand of rs2 and the value of rd. -/
theorem test_atomic_sends : sees (run (.atomic h (7 * 64 + 16 + 8) 5 1 2) wm) (fun t =>
    t.mesh.map (fun m => (m.cls, m.src, m.dst, m.pay)) == [(3, 0, 0, .atomic (.store 0 0x100) 7 8 7 (-1) (.access 0 0))]) = true := by decide +kernel

/-! ### System registers, traps, wedges and repeats -/

theorem test_system_fits : ([.srd h 3 0 0xA00, .swr h 0 1 0x400, .srs h 3 1 0x401, .src h 3 1 0x405, .ecall h 0 0, .ebreak h 0 0, .eret h 0 0, .wedgeL h 0 0, .wedgeB h 0 0, .wedgeD h 0 0, .wedgeS h 0 0,
    .ebreak hc 0 0] : List Instr).all (fun i => match i.hart? with | some x => fitB x [1, 3, 28, 29, 30] i w | none => false) = true := by decide +kernel

theorem test_srd_core_id : does (.srd h 3 0 0x208) w (fun s_ => (retire (wx s_ 0 3 0) 0 4)) = true := by decide +kernel
theorem test_sr_from_context : ctxOf w 0 = some 0 ∧ Tbl.get? w.ctxs 0 = some cx ∧ cx.lcore[0]? = some 0 ∧ goodCore w 0 = true := by decide +kernel
theorem test_srs_old_value : sees (run (.srs h 3 2 0x400) w) (fun t => readSr t 0 0x400 == some 7 && rx t 0 3 == 0) = true := by decide +kernel
/-- R76: a write-1-to-clear field is cleared by SWR's ones alone, and SRS clears nothing. -/
theorem test_sticky : (let s := modSys w 0 fun y => { y with precision := 0x0000000300000000 }
    sees (run (.srs h 0 5 0x405) s) (fun t => readSr t 0 0x405 == some 0x00000003FFFFFFFF) &&
    sees (run (.swr h 0 0 0x405) s) (fun t => readSr t 0 0x405 == some 0x0000000100000000)) = true := by decide +kernel
theorem test_privilege : does (.srd h 3 0 0x800) w (fun s_ => (faultAt s_ 0 (scalarExn 4 0) 0x1000)) = true ∧
    does (.swr h 0 1 0x208) w (fun s_ => (faultAt s_ 0 (scalarExn 1 0) 0x1000)) = true ∧ does (.srd h 3 0 0x00F) w (fun s_ => (faultAt s_ 0 (scalarExn 1 0) 0x1000)) = true := by
  decide +kernel

/-- w at P0 with a vector base. -/
def wu : State := modSys w 0 fun y => { y with priv := 0, vbase1 := 0x4000 }

theorem test_entry_ok : EntryOk h 9 wu ∧ EntryOk h 10 wu ∧ (Machine.core wu 0).debugger = false ∧ Ready h [] wu := by
  refine ⟨?_, ?_, by decide +kernel, ready_of (by decide +kernel)⟩ <;> (simp only [EntryOk, FreeFrame]; decide +kernel)
theorem test_entry_ok_ecall : EntryOk h 9 (code (.ecall h 0 0) wu) ∧ (thr (code (.ecall h 0 0) wu) 0).sys.priv = 0 ∧ Fetches (.ecall h 0 0) (code (.ecall h 0 0) wu) := by
  refine ⟨?_, by decide +kernel, fetches_of h rfl (by decide +kernel)⟩
  simp only [EntryOk, FreeFrame]; decide +kernel
theorem test_ecall_frame : sees (run (.ecall h 0 0) wu) (fun t => (thr t 0).pc == 0x4240 && (thr t 0).sys.priv == 1 && (thr t 0).sys.mask == 1 &&
    rx t 0 30 == 0x1FC0 && storeWord t 0 0x1FC0 == 0x1004 && storeWord t 0 0x1FD0 == 9) = true := by decide +kernel

/-- The state in the handler of that ECALL. -/
def wt : State := (nx (run (.ecall h 0 0) wu)).getD wu

theorem test_eret_frame : (let y := (thr wt 0).sys
    y.priv = 1 ∧ y.bks = false ∧ y.depth = 1 ∧ (ctxOf wt 0).isSome = true ∧ inFlight wt 0 = false ∧ (storeWord wt 0 0x1FC8).toNat % 4 = 0 ∧ bits y.recs.toNat 1 0 = 0) ∧
    FreeFrame wt 0 0x1FC0 false ∧ Ready h [28, 29, 30] wt := by
  refine ⟨by decide +kernel, by simp only [FreeFrame]; decide +kernel, ready_of (by decide +kernel)⟩
theorem test_eret_returns : sees (run (.eret h 0 0) wt) (fun t => (thr t 0).pc == 0x1004 && (thr t 0).sys.priv == 0 && (thr t 0).sys.depth == 0 && rx t 0 30 == 0x2000) = true := by
  decide +kernel
theorem test_wedge : (thr wm 0).tx.depth = 0 ∧ inFlight wm 0 = false ∧ (thr wm 0).ctrOut = [] ∧ (bench wm 0).pass = none ∧
    sees (run (.wedgeL h 0 0) wm) (fun t => (Machine.core t 0).gbuf == [] && memGet t.ls 0x100 == 0x99 && (thr t 0).pc == 0x1004) = true ∧
    sees (run (.wedgeD h 0 0) wm) (fun t => (thr t 0).wait == some (.wedge 2) && (thr t 0).pc == 0x1000) = true := by decide +kernel
/-- A repeat prefix where it stands, with its follower behind it: REP.N of 64 iterations, of 65, and REP.I. -/
theorem test_repeat_ready : (let i : Instr := .repN h false 0 0 64 (.addk h 2 2 3)
    Stands h (.instr (.addk h 2 2 3)) 0x1004 (code i w) ∧ Stands h (.rep { ni := true, src := false, z := 0, rs1 := 0, count := 64 }) 0x1000 (code i w) ∧ (thr (code i w) 0).sys.rpc = 0 ∧ (thr (code i w) 0).tx.depth = 0) ∧
    Stands h (.rep { ni := true, src := false, z := 0, rs1 := 0, count := 65 }) 0x1000 (code (.repN h false 0 0 65 (.addk h 2 2 3)) w) ∧
    Stands hs (.rep { ni := false, src := false, z := 0, rs1 := 0, count := 3 }) 0x1000 (code (.repI hs false 0 0 3 (.addk h 2 2 3)) w) ∧ hs.slots = 64 := by
  refine ⟨⟨stands_of ?_, stands_of ?_, ?_, ?_⟩, stands_of ?_, stands_of ?_, rfl⟩ <;> decide +kernel
theorem test_repeat : sees (run (.repN h false 0 0 64 (.addk h 2 2 3)) w) (fun t => rx t 0 2 == 199 && (thr t 0).pc == 0x1008 && (thr t 0).sys.instret == 64) = true ∧
    sees (run (.repI h false 0 0 0 (.addk h 2 2 3)) w) (fun t => rx t 0 2 == 7 && (thr t 0).pc == 0x1008 && (thr t 0).sys.instret == 0) = true ∧
    sees (run (.repI hs false 0 0 3 (.addk h 2 2 3)) w) (fun t => rx t 0 2 == 16 && (thr t 0).pc == 0x1008 && (thr t 0).sys.instret == 3) = true ∧
    does (.repN h false 0 0 65 (.addk h 2 2 3)) w (fun s_ => (faultAt s_ 0 (scalarExn 1 0) 0x1000)) = true := by decide +kernel
/-! ### Threads, waits and interrupts -/

/-- w with thread 1 stopped, x3 = thread 1 and x4 = channel 2 of thread 1, and a word in channel 1 of thread 0. -/
def wc : State :=
  { w with threads := [(0, { thr w 0 with x := [(1, 1), (2, 0x21), (3, 0x1234), (4, 0x11), (30, 0x2000)], chans := [(1, 55)] }),
                       (1, { Thread.init with chans := [(1, 66)] })] }

theorem test_ready_channels : Ready h [1, 2, 3, 4, 0] wc ∧ (thr wc 0).tx.depth = 0 := ⟨ready_of (by decide +kernel), by decide +kernel⟩
theorem test_thread_fits : ([.tput h 0 2 3, .ttryput h 5 2 3, .tget h 5 1 0, .tpoll h 5 0 0, .tsetr h 7 1 3, .trel h 0 1 3, .tinfo h 5 1 6, .tend h 0 0 0] : List Instr).all
    (fun i => fitB h [1, 2, 3, 5, 7] i wc) = true := by decide +kernel
theorem test_tput_empty : rx wc 0 2 = 1 + (2 <<< 4) ∧ Tbl.get? (thr wc 1).chans 2 = none ∧
    sees (run (.tput h 0 2 3) wc) (fun t => Tbl.get? (thr t 1).chans 2 == some 0x1234 && (thr t 0).pc == 0x1004) = true ∧
    sees (run (.ttryput h 5 2 3) wc) (fun t => Tbl.get? (thr t 1).chans 2 == some 0x1234 && rx t 0 5 == 1) = true := by decide +kernel
theorem test_tput_full : rx wc 0 4 = 1 + (1 <<< 4) ∧ Tbl.get? (thr wc 1).chans 1 = some 66 ∧
    sees (run (.tput h 0 4 3) wc) (fun t => (thr t 0).wait == some (.tput 1 1 0x1234) && (thr t 0).pc == 0x1000) = true ∧
    does (.ttryput h 5 4 3) wc (fun s_ => (retire (wx s_ 0 5 0) 0 4)) = true := by decide +kernel
theorem test_tget : rx wc 0 1 = 1 ∧ sees (run (.tget h 5 1 0) wc) (fun t => rx t 0 5 == 55 && Tbl.get? (thr t 0).chans 1 == none) = true ∧
    sees (run (.tget h 5 0 0) wc) (fun t => (thr t 0).wait == some (.tget 0 5)) = true ∧
    does (.tpoll h 5 0 0) wc (fun s_ => (retire (wx s_ 0 5 2) 0 4)) = true := by decide +kernel

/-- Two threads wait to put into channel 0 of thread 1, and thread 1 waits for it. -/
def ww : State :=
  { w with cores := [(0, { Core.init with mode := 4, ctx := some 0 })]
           threads := [(0, { thr w 0 with wait := some (.tput 1 0 8) }), (1, { Thread.init with run := .running, wait := some (.tget 2 3), chans := [(2, 9)] }),
                       (2, { Thread.init with run := .running, wait := some (.tput 1 0 7) })] }

theorem test_wait_premises : isCore 0 = true ∧ held ww 0 = false ∧ (thr ww 0).wait = some (.tput 1 0 8) ∧ (thr ww 2).wait = some (.tput 1 0 7) ∧ Tbl.get? (thr ww 1).chans 0 = none ∧
    (thr ww 1).wait = some (.tget 2 3) ∧ Tbl.get? (thr ww 1).chans 2 = some 9 := by decide +kernel
theorem test_tput_place : sees (exec (.tputPlace 0 0) ww) (fun t => Tbl.get? (thr t 1).chans 0 == some 8 && (thr t 0).wait == none && (thr t 0).pc == 0x1004) = true ∧
    nx (exec (.tputPlace 0 2) ww) = some ww ∧
    sees (exec (.tgetDeliver 0 1) ww) (fun t => rx t 1 3 == 9 && (thr t 1).pc == 4 && (thr t 1).wait == none) = true := by decide +kernel
theorem test_trel : (thr wc 1).run = .ended ∧ (Machine.core wc 0).mode = 2 ∧
    sees (run (.trel h 0 1 3) wc) (fun t => (thr t 1).run == .running && (thr t 1).pc == 0x1234 && (thr t 1).sys.priv == 0) = true ∧
    sees (run (.tsetr h 7 1 3) wc) (fun t => rx t 1 7 == 0x1234) = true ∧ does (.tinfo h 5 1 3) wc (fun s_ => (retire (wx s_ 0 5 3) 0 4)) = true := by decide +kernel
theorem test_thread_state : does (.trel h 0 0 3) wc (fun s_ => (faultAt s_ 0 (scalarExn 11 0) 0x1000)) = true ∧
    does (.tsetr h 3 0 3) (modSys wc 0 fun y => { y with priv := 0 }) (fun s_ => (faultAt s_ 0 (scalarExn 4 0) 0x1000)) = true := by
  decide +kernel
theorem test_tend : inFlight w 0 = false ∧ (thr w 0).ctrOut = [] ∧ (thr w 1).run = .ended ∧
    sees (run (.tend h 0 0 0) w) (fun t => (thr t 0).run == .ended && (Machine.core t 0).partEnded) = true ∧
    sees (run (.tend h 0 0 0) (modThr w 1 fun t => { t with run := .running })) (fun t => (thr t 0).wait == some .tend) = true ∧
    sees (exec (.tendComplete 0 0) (modThr w 0 fun t => { t with wait := some .tend })) (fun t => (thr t 0).run == .ended && (Machine.core t 0).partEnded) = true := by
  decide +kernel

/-- w with a WAKE interrupt and a deferred fault of thread 1. -/
def wi : State :=
  { w with cores := [(0, { Core.init with mode := 2, ctx := some 0, irqWake := true })]
           threads := [(0, { thr w 0 with sys := { SysRegs.init with vbase1 := 0x4000 } }),
                       (1, { Thread.init with run := .running, pc := 0x3000, deferred := [scalarExn 12 5, scalarExn 5 6] })] }

theorem test_entry_ok_interrupt : EntryOk h 25 wi := by simp only [EntryOk, FreeFrame]; decide +kernel
theorem test_wake_premises : isCore 0 = true ∧ held wi 0 = false ∧ (Machine.core wi 0).irqWake = true ∧ (Machine.core wi 0).irqFw = false ∧ (Machine.core wi 0).tpend = 0 ∧ (thr wi 0).run = .running ∧
    (thr wi 0).dbg = false ∧ (thr wi 0).wait = none ∧ (thr wi 0).job = none ∧ (thr wi 0).deferred = [] ∧ (thr wi 0).aborts = [] := by decide +kernel
theorem test_wake_interrupt : (Machine.core wi 0).irqHost = none ∧
    sees (exec (.interruptEntry 0) wi) (fun t => (thr t 0).pc == 0x4640 && (thr t 0).sys.cause == 0x119 && (thr t 0).sys.mask == 2 && !(Machine.core t 0).irqWake) = true ∧
    (let m := modSys wi 0 fun y => { y with mask := 2 }; nx (exec (.interruptEntry 0) m) = some m) := by decide +kernel
theorem test_deferred : (thr wi 1).deferred = [scalarExn 12 5, scalarExn 5 6] ∧ (thr wi 1).run = .running ∧ (thr wi 1).dbg = false ∧ (thr wi 1).wait = none ∧ (thr wi 1).job = none ∧ frameBusy wi 1 = false ∧
    (thr wi 1).tx.depth = 0 ∧ (match route (modThr wi 1 fun t => { t with deferred := [scalarExn 5 6] }) 1 (scalarExn 12 5) 0x3000 with | .done _ => true | .wait _ => false) = true ∧
    sees (exec (.deferredFault 0 1) (modThr wi 1 fun t => { t with tx := { Tx.none with depth := 1, fallback := 0x3400 } })) (fun t => (thr t 1).tx.depth == 0 && (thr t 1).deferred == [scalarExn 5 6]) = true ∧
    sees (exec (.deferredFault 0 1) wi) (fun t => (thr t 1).deferred == [scalarExn 5 6] && (thr t 1).run == .halted && (thr t 1).pc == 0x3000 && (thr t 1).sys.cause == 12) = true := by decide +kernel
/-! ### Vectors -/

/-- Bytes of memory that spell a number, as cells from an address on. -/
def cells (a : Nat) (l : List Nat) : List (Nat × Byte) := (l.zipIdx.filter fun e => e.1 != 0).map fun e => (a + e.2, BitVec.ofNat 8 e.1)

/-- w with v1 = bytes 0, 1, …, 63, v2 = 3 in each INT32 lane, v4 = 1.5 in each binary32 lane, v6 a mixture, and p1 the even lanes. -/
def wv_ : State :=
  { w with
    threads := [(0, { thr w 0 with
      x := [(1, 0x100), (2, 7), (3, 4), (8, 0x200)]
      v := [(1, BitVec.ofNat 512 (leNat ((List.range 64).map (BitVec.ofNat 8)))), (2, BitVec.ofNat 512 (((List.range 16).map fun i => 3 * 2 ^ (32 * i)).sum)),
            (4, BitVec.ofNat 512 (((List.range 16).map fun i => 0x3FC00000 * 2 ^ (32 * i)).sum)), (6, BitVec.ofNat 512 (0x7FC00000 + 0xFF800000 * 2 ^ 32 + 2 ^ 64))]
      p := [(1, 0x5555555555555555)] })]
    ls := cells 0x100 ((List.range 128).map (· + 1)) }

/-- Fields of a vector instruction. -/
def vf (vd vs1 vs2 : BitVec 5) (pg ty : BitVec 3) : VFields := { vd := vd, vs1 := vs1, vs2 := vs2, pg := pg, ty := ty }

/-- No answer from outside. -/
def e0 : Ext := { data := [], poison := false, code := 0 }

/-- The state of a vector load and of a vector store where they stand. -/
def wvl : State := code (.vld h (vf 3 1 0 1 5)) wv_
def wvs : State := code (.vst h (vf 1 8 0 1 5)) wv_

theorem test_vector_ready : (Ready h [1, 2, 3, 8] wvl ∧ OwnAccess h wvl ∧ (thr wvl 0).sys.vprog = 0 ∧ Fetches (.vld h (vf 3 1 0 1 5)) wvl) ∧
    Ready h [1, 2, 3, 8] wvs ∧ OwnAccess h wvs ∧ (thr wvs 0).sys.vprog = 0 ∧ memWf wvs.ls = true ∧ Fetches (.vst h (vf 1 8 0 1 5)) wvs := by
  refine ⟨⟨ready_of ?_, ?_, ?_, fetches_of h rfl ?_⟩, ready_of ?_, ?_, ?_, ?_, fetches_of h rfl ?_⟩ <;> first | decide +kernel | (simp only [OwnAccess]; decide +kernel)
theorem test_vector_fits : ([.varith h (vf 3 1 2 1 5) 14, .vfma h (vf 10 12 4 0 1) 11, .vcmp h (vf 2 6 2 1 5) 6, .pand h (vf 2 1 1 0 5), .por h (vf 2 1 1 0 5), .pxor h (vf 2 1 1 0 5), .pandn h (vf 2 1 1 0 5),
    .pwhile h (vf 2 3 2 0 5), .pcount h (vf 9 1 0 0 5), .vld h (vf 3 1 0 1 5), .vst h (vf 1 8 0 1 5), .vlds h (vf 3 1 3 0 5), .vsts h (vf 1 8 0 0 5), .vldb h (vf 3 1 0 0 7), .vld2 h (vf 4 1 0 0 0),
    .vst2 h (vf 4 1 0 0 0), .vgather h (vf 3 1 9 1 5), .vscatter h (vf 3 1 9 1 4), .vbcast h (vf 3 2 0 1 7), .vext h (vf 9 6 0 0 7), .vins h (vf 1 2 3 0 5), .vcvt h (vf 3 4 1 0 5), .vperm h (vf 3 1 2 0 5),
    .vredsum h (vf 3 2 0 1 5), .vredmin h (vf 3 2 0 1 5), .vredmax h (vf 3 2 0 1 5)] : List Instr).all (fun i => fitB h [1, 2, 3, 8, 9] i wv_) = true := by decide +kernel
theorem test_varith_int : sees (run (.varith h (vf 3 1 2 1 5) 2) wv_) (fun t => laneOf 32 (rv t 0 3) 0 == 0x09060300 && laneOf 32 (rv t 0 3) 1 == 0 && laneOf 32 (rv t 0 3) 2 == 0x21_1E_1B_18) = true := by
  decide +kernel
theorem test_varith_abs_min : sees (run (.varith h (vf 3 6 0 0 5) 7) wv_) (fun t => laneOf 32 (rv t 0 3) 0 == 0x80400000 && laneOf 32 (rv t 0 3) 2 == 0xFFFFFFFF) = true := by decide +kernel
theorem test_varith_float : sees (run (.varith h (vf 3 4 4 0 1) 2) wv_) (fun t => laneOf 32 (rv t 0 3) 5 == 0x40100000) = true ∧
    sees (run (.varith h (vf 3 6 4 0 1) 0) wv_) (fun t => laneOf 32 (rv t 0 3) 0 == 0x7FC00000 && laneOf 32 (rv t 0 3) 1 == 0xFF800000 && laneOf 32 (rv t 0 3) 2 == 0x3FC00000) = true := by
  decide +kernel
theorem test_vfma_pair : sees (run (.vfma h (vf 10 12 4 0 1) 8) (modThr wv_ 0 fun t => { t with v := t.v ++ [(12, rv wv_ 0 4), (13, rv wv_ 0 4)] }))
    (fun t => laneOf 32 (rv t 0 10) 0 == 0x40100000 && laneOf 32 (rv t 0 11) 15 == 0x40100000) = true := by decide +kernel
theorem test_vfma_int_wraps : sees (run (.vfma h (vf 2 2 1 0 5) 1) wv_) (fun t => laneOf 32 (rv t 0 2) 0 == 2 ^ 32 + 3 - 0x09060300) = true := by decide +kernel
/-- R106: halves round to even, and 2⁻²⁴ is the least subnormal of binary16. -/
theorem test_rounding : pack (vFmt 3) (.fin false 2049 0) = 0x6800 ∧ pack (vFmt 3) (.fin false 2051 0) = 0x6802 ∧ pack (vFmt 3) (.fin false 1 (-24)) = 1 ∧
    pack (vFmt 3) (.fin false 1 (-25)) = 0 ∧ pack (vFmt 1) (.fin true 1 0) = 0xBF800000 := by decide +kernel
theorem test_vcmp : sees (run (.vcmp h (vf 2 6 2 1 5) 2) wv_) (fun t => rp t 0 2 == 0x5554) = true ∧
    sees (run (.vcmp h (vf 2 6 4 0 1) 6) wv_) (fun t => rp t 0 2 == 1) = true ∧
    sees (run (.pandn h (vf 2 1 1 0 5)) wv_) (fun t => rp t 0 2 == 0) = true ∧
    sees (run (.pwhile h (vf 2 3 2 0 5)) wv_) (fun t => rp t 0 2 == 7) = true ∧
    does (.pcount h (vf 9 1 0 0 5)) wv_ (fun s_ => (retire (wx s_ 0 9 8) 0 4)) = true := by decide +kernel
theorem test_moves : sees (run (.vbcast h (vf 3 2 0 1 7)) wv_) (fun t => laneOf 8 (rv t 0 3) 62 == 7 && laneOf 8 (rv t 0 3) 63 == 0) = true ∧
    sees (run (.vins h (vf 1 2 3 0 5)) wv_) (fun t => laneOf 32 (rv t 0 1) 4 == 7 && laneOf 32 (rv t 0 1) 3 == 0x0F0E0D0C) = true ∧
    does (.vext h (vf 9 6 0 0 7)) wv_ (fun s_ => (retire (wx s_ 0 9 0) 0 4)) = true ∧
    sees (run (.vperm h (vf 3 1 2 0 5)) wv_) (fun t => laneOf 32 (rv t 0 3) 9 == 0x0F0E0D0C) = true ∧
    sees (run (.vredsum h (vf 3 2 0 1 5)) wv_) (fun t => laneOf 32 (rv t 0 3) 0 == 24 && laneOf 32 (rv t 0 3) 1 == 0) = true ∧
    sees (run (.vcvt h (vf 3 4 1 0 5)) wv_) (fun t => laneOf 32 (rv t 0 3) 0 == 1) = true := by decide +kernel
theorem test_own_addresses : (∀ l : Fin 16, OwnAddr h wvl 4 (0x100 + BitVec.ofNat 64 (l.val * 4))) ∧ OwnAddr h wvl 4 0x77FFC ∧ (∀ l : Fin 16, OwnAddr h wvs 4 (0x200 + BitVec.ofNat 64 (l.val * 4))) := by
  simp only [OwnAddr]; decide +kernel
theorem test_vld : sees (run (.vld h (vf 3 1 0 1 5)) wv_) (fun t => laneOf 32 (rv t 0 3) 2 == 0x0C0B0A09 && laneOf 32 (rv t 0 3) 3 == 0) = true ∧
    sees (run (.vlds h (vf 3 1 3 0 5)) wv_) (fun t => laneOf 32 (rv t 0 3) 3 == 0x100F0E0D) = true ∧
    sees (run (.vgather hs (vf 3 1 9 1 5)) wv_) (fun t => laneOf 32 (rv t 0 3) 4 == 0x04030201 && laneOf 32 (rv t 0 3) 5 == 0) = true := by decide +kernel
/-- R115: of two lanes that store to one byte, the higher one's byte stays. -/
theorem test_vst : sees (run (.vst h (vf 1 8 0 1 5)) wv_) (fun t => storeByte t 0 0x208 == 8 && storeByte t 0 0x204 == 0) = true ∧
    sees (run (.vsts h (vf 1 8 0 0 5)) wv_) (fun t => storeByte t 0 0x200 == 60 && storeByte t 0 0x204 == 0) = true := by decide +kernel
/-! ### Tiles -/

/-- The eight values of the worked example of chapter 6, and 24 zeros. -/
def block6 : List Fv :=
  [.fin false 15 (-8), .fin true 19 (-10), .fin false 3 (-8), .fin false 1 (-10), .fin true 1 (-9), .fin false 15 (-9), .fin true 5 (-7), .fin false 5 (-10)] ++
    List.replicate 24 (.fin false 0 0)

/-- The worked example of chapter 6: the OCP store, and the FIT store. -/
theorem test_narrow_ocp : (let n := narrowBlock 0 0 0 false 1 block6
    packElems 4 n.codes = 0x1E6003C7 ∧ n.scale = 0x78 ∧ n.counts = { conv := 32, clip := 1, ufl := 2, nan := 0 }) := by decide +kernel
theorem test_narrow_fit : (let n := narrowBlock 0 1 0 false 1 block6
    packElems 4 n.codes = 0x1C4002A6 ∧ n.scale = 0x79 ∧ n.counts = { conv := 32, clip := 0, ufl := 2, nan := 0 }) := by decide +kernel

/-- A tile of a descriptor with rows of data and scale bytes. -/
def mkTile (desc : BitVec 16) (rows : List Nat) (scales : List Nat) : Tile :=
  { Tile.init with desc := desc, data := rows.zipIdx.map fun e => (e.2, BitVec.ofNat 512 e.1), scales := scales.zipIdx.map fun e => (e.2, BitVec.ofNat 64 e.1) }

/-- w with the first block of chapter 7's worked example in t0 (A, HF4), t1 (B) and t2 (C, binary32, 0x45000001 at [0][0]); t3 to t5 INT8, INT8 and INT32 tiles of one row,
t6 a binary32 tile of 1 × 2, t7 a bf16 tile of 1 × 4 and a store that starts with 1, 2, 3, …. -/
def wt7 : State :=
  { w with
    threads := [(0, { thr w 0 with x := [(1, 0x200), (2, 8), (8, 0x450), (9, 0x58)], tiles :=
      [(0, mkTile 0x0780 [0x24E17A53] [0x7C]), (1, mkTile 0x0B80 [0x11111111_11111111_11111111_B71D23F6] [0x76]), (2, mkTile 0x0450 [0x45000001] []),
       (3, mkTile 0x0458 [0xFF_80_7F_02] []), (4, mkTile 0x0858 [0x03_80_7F_05, 1] []), (5, mkTile 0x0460 [0xFFFFFFFF] []),
       (6, mkTile 0x0450 [0xC0100000_3FC00000] []), (7, mkTile 0x0440 [] [])] })]
    ls := cells 0x200 ((List.range 64).map (· + 1)) }

/-- A tile load from 0x200, and a tile store there, where they stand. -/
def wtl : State := code (.tload hs { t := 6, rs1 := 1, rs2 := 0, d := false, mf := 11, scm := 0, rnd := false, q := false, z := 0 }) wt7
def wts : State := code (.tstore hs { t := 6, rs1 := 1, rs2 := 2, d := true, mf := 11, scm := 0, rnd := false, q := false, z := 0 }) wt7

theorem test_tiles_ready : (Ready hs [1, 2, 8, 9] wtl ∧ OwnAccess hs wtl ∧ Fetches (.tload hs { t := 6, rs1 := 1, rs2 := 0, d := false, mf := 11, scm := 0, rnd := false, q := false, z := 0 }) wtl) ∧
    (Ready hs [1, 2, 8, 9] wts ∧ OwnAccess hs wts ∧ memWf wts.ls = true ∧ Fetches (.tstore hs { t := 6, rs1 := 1, rs2 := 2, d := true, mf := 11, scm := 0, rnd := false, q := false, z := 0 }) wts) ∧
    descRows (tile wtl 0 6).desc = 1 ∧ descFmt (tile wtl 0 6).desc = 10 := by
  refine ⟨⟨ready_of ?_, ?_, fetches_of hs rfl ?_⟩, ⟨ready_of ?_, ?_, ?_, fetches_of hs rfl ?_⟩, ?_, ?_⟩ <;> first | decide +kernel | (simp only [OwnAccess]; decide +kernel)
theorem test_tile_fits : ([.tcfg h { rd := 0, rs1 := 8, t := 0, imm8 := 0x11 }, .tcfgr h { rd := 3, rs1 := 0, t := 0, imm8 := 0 }, .tstat h { rd := 3, rs1 := 0, t := 1, imm8 := 0 },
    .tstatC h { rd := 3, rs1 := 0, t := 7, imm8 := 0 }, .tseed h { rd := 0, rs1 := 8, t := 1, imm8 := 0 }, .tcbld h { rd := 0, rs1 := 1, t := 2, imm8 := 1 },
    .tzero h { td := 2, ta := 0, tb := 0, rs := 0, scm := 0, rnd := false, z := 0 }, .tmma h { td := 5, ta := 3, tb := 4, rs := 0, scm := 0, rnd := false, z := 0 },
    .tcvt h { td := 3, ta := 6, tb := 0, rs := 0, scm := 0, rnd := false, z := 0 },
    .tloadStream h { t := 1, rs1 := 0, rs2 := 0, d := false, mf := 12, scm := 0, rnd := false, q := true, z := 0 }] : List Instr).all (fun i => fitB h [1, 2, 3, 8, 9] i wt7) = true := by decide +kernel
theorem test_tcfg : sees (run (.tcfg h { rd := 0, rs1 := 8, t := 0, imm8 := 1 }) wt7) (fun t => (tile t 0 0).desc == 0x450 && (tile t 0 0).data == [] && (tile t 0 1).desc == 0xB80) = true ∧
    sees (run (.tcfg h { rd := 0, rs1 := 8, t := 0, imm8 := 0x11 }) wt7) (fun t => (tile t 0 4).desc == 0x58) = true ∧
    does (.tcfgr h { rd := 3, rs1 := 0, t := 0, imm8 := 0 }) wt7 (fun s_ => (retire (wx s_ 0 3 0x0458_0450_0B80_0780) 0 4)) = true := by decide +kernel
theorem test_tstat_tseed_tzero : does (.tstat h { rd := 3, rs1 := 0, t := 1, imm8 := 0 }) wt7 (fun s_ => (retire (wx s_ 0 3 0) 0 4)) = true ∧
    sees (run (.tseed h { rd := 0, rs1 := 0, t := 1, imm8 := 0 }) wt7) (fun t => (tile t 0 1).lfsr == 1) = true ∧
    sees (run (.tzero h { td := 2, ta := 0, tb := 0, rs := 0, scm := 0, rnd := false, z := 0 }) wt7) (fun t => tileCode (tile t 0 2) 0 0 == 0 && (tile t 0 2).desc == 0x450) = true := by decide +kernel
/-- The worked example of chapter 7: C[0][0] goes from 0x45000001 to 0x45000000, by a tie to even. -/
theorem test_tmma_worked_example : sees (run (.tmma h { td := 2, ta := 0, tb := 1, rs := 0, scm := 0, rnd := false, z := 0 }) wt7) (fun t => (thr t 0).wait == some .tmma &&
    sees (exec (.tmmaComplete 0 .pass) t) (fun u => tileCode (tile u 0 2) 0 0 == 0x45000000 && (thr u 0).wait == none && (thr u 0).pc == 0x1004)) = true := by decide +kernel
theorem test_tmma_int8 : sees (run (.tmma h { td := 5, ta := 3, tb := 4, rs := 0, scm := 0, rnd := false, z := 0 }) wt7) (fun t => sees (exec (.tmmaComplete 0 .pass) t) (fun u =>
    tileCode (tile u 0 5) 0 0 == 10 + 127 * 127 + 128 * 128 - 3 - 1 && tileCode (tile u 0 5) 0 1 == 2)) = true ∧
    descRows (tile wt7 0 5).desc = descRows (tile wt7 0 3).desc ∧ descElems (tile wt7 0 5).desc = descRows (tile wt7 0 4).desc := by decide +kernel
theorem test_tile_row_addresses : ∀ b : Fin 8, OwnAddr hs wtl 1 (0x200 + BitVec.ofNat 64 b.val) := by simp only [OwnAddr]; decide +kernel
theorem test_tload_tstore : sees (run (.tload hs { t := 6, rs1 := 1, rs2 := 0, d := false, mf := 11, scm := 0, rnd := false, q := false, z := 0 }) wt7)
      (fun t => tileCode (tile t 0 6) 0 0 == 0x04030201 && tileCode (tile t 0 6) 0 1 == 0x08070605) = true ∧
    sees (run (.tstore hs { t := 6, rs1 := 1, rs2 := 2, d := true, mf := 11, scm := 0, rnd := false, q := false, z := 0 }) wt7)
      (fun t => storeByte t 0 0x203 == 0x3F && storeByte t 0 0x202 == 0xC0 && storeByte t 0 0x207 == 0xC0 && storeByte t 0 0x208 == 9) = true := by decide +kernel
theorem test_tcvt : sees (run (.tcvt h { td := 3, ta := 6, tb := 0, rs := 0, scm := 0, rnd := false, z := 0 }) (modThr wt7 0 fun t => { t with tiles := Tbl.set t.tiles 3 (mkTile 0x0440 [] []) }))
      (fun _ => true) = true ∧
    sees (run (.tcbld h { rd := 0, rs1 := 1, t := 2, imm8 := 0 }) wt7) (fun t => (tile t 0 2).codebook == 0x100F0E0D0C0B0A090807060504030201) = true := by decide +kernel
/-! ### Accesses at their homes -/

/-- The interleave of Table 1.8 in both modes. -/
theorem test_interleave : hbmLoc w 0x00_4000_3000 = 3 * 2 ^ 36 + 0x10000000 ∧ stackOf w 0xC0_1020_1000 = 12 + (1 ^^^ 2 ^^^ 1) ∧
    (let f := modDev w fun d => { d with full := true }; hbmLoc f 0x12_3456_789A = (7 ^^^ 5 ^^^ 3 ^^^ 1) * 2 ^ 36 + 0x123456 * 4096 + 0x89A) := by decide +kernel

/-- A delivered message for node 0 from node 1. -/
def msg (pay : Payload) : Msg := { id := 1, cls := 0, src := 1, dst := 0, pos := 0, inp := .here, flit := 0, pay := pay, since := 0, arr := 0 }

/-- A state with one delivered message. -/
def at_ (s : State) (pay : Payload) : State := { s with inbox := [msg pay] }

/-- wm with a byte in HBM. -/
def wh : State := { wm with hbm := [(hbmLoc wm 0x1000, 0x5A)], watches := [{ home := .store 0, line := (2 ^ 40 + 0x104) / 64, thr := 9, broken := false, page := none }] }

theorem test_home_premises : goodCore wh 0 = true ∧ lineLocked wh (.store 0 0x104) = false ∧ homePoison wh (.store 0 0x104) = false ∧ (node wh 0).gated = false ∧
    memWf wh.ls = true ∧ memWf wh.hbm = true ∧ held wh 0 = false ∧ withdrawn wh 0x1000 = false ∧ wbufUsed wh (stackOf wh 0x1000) = 0 ∧
    arrived (at_ wh (.read (.store 0 0x104) 4 (.access 8 2))) 1 = some (msg (.read (.store 0 0x104) 4 (.access 8 2))) := by decide +kernel
theorem test_store_read_home : sees (exec (.localStoreAccess 1 0) (at_ wh (.read (.store 0 0x100) 4 (.access 8 2)))) (fun t => t.inbox == [] &&
    t.mesh.map (fun y => (y.cls, y.src, y.dst, y.pay)) == [(1, 0, 1, .data [0x99, 0x81, 0x82, 0x83] false 1 (.access 8 2))]) = true := by decide +kernel
theorem test_store_write_home : sees (exec (.localStoreAccess 1 0) (at_ wh (.write (.store 0 0x104) [(0, 1), (3, 2)] false (.access 8 2)))) (fun t =>
    storeByte t 0 0x104 == 1 && storeByte t 0 0x105 == 0x85 && storeByte t 0 0x107 == 2 && t.watches.map (·.broken) == [true] && t.mesh.map (·.pay) == [.ack (.access 8 2)]) = true := by
  decide +kernel
theorem test_hbm_home : sees (exec (.hbmRead 1 0) (at_ wh (.read (.hbm 0x1000) 2 (.access 8 2)))) (fun t => t.mesh.map (·.pay) == [.data [0x5A, 0] false 3 (.access 8 2)]) = true ∧
    sees (exec (.hbmWrite 1 0) (at_ wh (.write (.hbm 0x1000) [(1, 7)] false (.access 8 2)))) (fun t => hbmByte t 0x1001 == 7 && hbmByte t 0x1000 == 0x5A &&
      (stack t (stackOf wh 0x1000)).wbuf == [0x40] && t.mesh.map (·.pay) == [.ack (.access 8 2)]) = true := by decide +kernel
/-- R198: minimum is signed and of the form's size; a compare-and-swap stores only on equality. -/
theorem test_home_atomic : sees (exec (.homeAtomic 1 0) (at_ wh (.atomic (.store 0 0x104) 1 4 5 0 (.access 8 2)))) (fun t => storeByte t 0 0x104 == 0x84 &&
      t.mesh.map (·.pay) == [.data [0x84, 0x85, 0x86, 0x87] false 1 (.access 8 2)]) = true ∧
    sees (exec (.homeAtomic 1 0) (at_ wh (.atomic (.store 0 0x104) 0 4 0x7C (0) (.access 8 2)))) (fun t => storeByte t 0 0x104 == 0 && storeByte t 0 0x105 == 0x86) = true ∧
    sees (exec (.homeAtomic 1 0) (at_ wh (.atomic (.store 0 0x108) 7 8 (-1) 1 (.access 8 2)))) (fun t => storeByte t 0 0x108 == 0) = true ∧
    sees (exec (.homeAtomic 1 0) (at_ { wh with lsPoison := [4] } (.atomic (.store 0 0x104) 0 4 1 0 (.access 8 2)))) (fun t => t.mesh.map (·.pay) == [.error (16 + 5 * 2 ^ 8 + 2 ^ 16) (.access 8 2)]) = true := by
  decide +kernel

/-- w with a load of x3 (2 bytes, signed) in entry 0 and a store in entry 1 of core 0's scoreboard. -/
def wsb : State :=
  { w with cores := [(0, { Core.init with mode := 2, ctx := some 0, sb :=
      [(0, { thr := 0, write := false, first := 0x40, last := 0x40, faddr := 0x1000, eng := 0, lane := 0, sink := .load 3 2 true, tx := false, haul := none }),
       (1, { thr := 0, write := true, first := 0x80, last := 0x80, faddr := 0x2000, eng := 0, lane := 0, sink := .none, tx := false, haul := none })] })] }

theorem test_load_answer : sees (exec (.loadResponse 1 e0) (at_ wsb (.data [0xFE, 0xFF] false 3 (.access 0 0)))) (fun t => rx t 0 3 == -2 && ((Machine.core t 0).sb.map (·.1)) == [1] && t.inbox == []) = true ∧
    sees (exec (.loadResponse 1 e0) (at_ wsb (.data [0xFE, 0xFF] true 3 (.access 0 0)))) (fun t => (thr t 0).deferred ==
      [{ code := 16, engine := 0, info := BitVec.ofNat 32 (1 + 3 * 2 ^ 8 + 2 ^ 31), faddr := 0x1000 }] && rx t 0 3 == 0) = true ∧
    sees (exec (.writeAcknowledgement 1) (at_ wsb (.ack (.access 0 1)))) (fun t => ((Machine.core t 0).sb.map (·.1)) == [0] && t.threads == wsb.threads) = true ∧
    sees (exec (.writeAcknowledgement 1) (at_ wsb (.error 8 (.access 0 1)))) (fun t => (thr t 0).deferred == [{ code := 8, engine := 0, info := 0x80000000, faddr := 0x2000 }]) = true := by
  decide +kernel

/-- wm with automatic fencing off. -/
def wfence : State := modDev wm fun d => { d with policy := [(0x0100, 0)] }

theorem test_scrubs : policy wfence 0x0100 = 0 ∧ sees (exec (.patrolScrub 0 0x100 1) wfence) (fun t => (unitRec t (unitName 1 0)).corr == 1 && t.lsPoison == []) = true ∧
    sees (exec (.patrolScrub 0 0x100 2) wfence) (fun t => homePoison t (.store 0 0x100) && (unitRec t (unitName 1 0)).uncorr == 1) = true ∧
    sees (exec (.hbmScrub 2 0x40000 2) wfence) (fun t => NSet.has t.hbmPoison ((2 * 2 ^ 36 + 0x40000) / 64) && (unitRec t (unitName 3 129)).uncorr == 1) = true := by decide +kernel
theorem test_upkeep : sees (exec (.hbmRefresh 2) wfence) (fun t => (stack t 2).refreshes == 1) = true ∧
    sees (exec (.writeBufferRetire 2) { wfence with hbmStacks := [(2, { stack wfence 2 with wbuf := [7, 8] })] }) (fun t => (stack t 2).wbuf == [8]) = true ∧
    sees (exec (.gatherBufferWriteback 0 4) wfence) (fun t => (Machine.core t 0).gbuf == [] && memGet t.ls 0x100 == 0x99) = true ∧
    sees (exec (.retentionExit 0) (at_ (modNode wfence 0 fun x => { x with gated := true }) (.read (.store 0 0x101) 2 (.access 8 2)))) (fun t =>
      t.mesh.map (·.pay) == [.data [0x81, 0x82] false 1 (.access 8 2)]) = true := by decide +kernel
/-! ### Bench caches, the mesh and the skip buses -/

/-- A read of 4 bytes at HBM 0x1000, and a write of one byte there, as core 0 hands them to its bench's cache. -/
def rd0 : Payload := .cacheRead (.hbm 0x1000) 4 0 (.access 0 0)
def wr0 : Payload := .cacheWrite (.hbm 0x1001) [7] false 0 3 (.access 0 0)
/-- The same with node 0 as source. -/
def mine (s : State) (pay : Payload) : State := { s with inbox := [{ msg pay with src := 0 }] }
/-- w after the miss of that read, and after the line has arrived. -/
def wmiss : State := (nx (exec (.bcRead 1 .clean) (mine w rd0))).getD w
def fillPay : Payload := .data ((List.range 64).map fun i => BitVec.ofNat 8 (i + 1)) false 3 (.fetch 0 0x40)
def wfill : State := (nx (exec (.bcFill 1 e0) (mine wmiss fillPay))).getD w

theorem test_bc_miss : (bench wmiss 0).misses = 1 ∧ (bench wmiss 0).fetches.map (fun f => (f.line, f.waiting.length)) = [(0x40, 1)] ∧
    wmiss.mesh.map (fun y => (y.cls, y.src, y.dst, y.pay)) = [(3, 0, homeNodes.getD (stackOf w 0x1000) 0, .read (.hbm 0x1000) 64 (.fetch 0 0x40))] ∧
    takeWay (mine w rd0) 0 0x40 = some ((bench wmiss 0).fetches.map (·.way) |>.getD 0 0, none) ∧ bcBusy (bench w 0) 0x40 = false := by decide +kernel
theorem test_bc_fill : (bench wfill 0).fetches = [] ∧ wfill.inbox.map (fun y => (y.cls, y.pay)) = [(5, .data [1, 2, 3, 4] false 2 (.access 0 0))] ∧
    (bcFind (bench wfill 0) 0x40).map (fun e => e.2.filled) = some true := by decide +kernel
theorem test_bc_hit : sees (exec (.bcRead 1 .clean) (mine wfill rd0)) (fun t => (bench t 0).hits == 1 && t.inbox.map (·.pay) == [.data [1, 2, 3, 4] false 2 (.access 0 0)]) = true ∧
    sees (exec (.bcWrite 1 .clean) (mine wfill wr0)) (fun t => (bcFind (bench t 0) 0x40).map (fun e => (e.2.dirty, lineByte e.2.data 1)) == some (2, 7) && bit (bench t 0).bits.toNat 3) = true := by
  decide +kernel
theorem test_bc_write_allocates : sees (exec (.bcWrite 1 .clean) (mine w wr0)) (fun t => (bench t 0).fetches == [] && (bcFind (bench t 0) 0x40).map (fun e => (e.2.filled, e.2.dirty)) == some (false, 2) &&
      t.inbox.map (fun y => (y.cls, y.pay)) == [(5, .ack (.access 0 0))]) = true ∧
    (let s := modBench w 0 fun b => { b with bypass := true }
     sees (exec (.bcWrite 1 .clean) (mine s wr0)) (fun t => t.mesh.map (·.pay) == [.write (.hbm 0x1001) [(0, 7)] false (.access 0 0)] && t.benches == s.benches)) = true := by decide +kernel

/-- A fetch of line 0x80 into way 5 whose victim, line 0x40, is being written back; the read or the write that waits. -/
def wvic (pay : Payload) : State :=
  modBench w 0 fun b => { b with
    ways := [(2053, { line := 0x80, filled := false, dirty := 0, poison := false, ctx := 0, data := 0 })]
    fetches := [{ line := 0x80, way := 2053, victim := some { line := 0x40, filled := true, dirty := 1, poison := false, ctx := 0, data := 9 }, sent := false, dead := false,
                  waiting := [{ msg pay with id := 9, src := 0 }] }] }

theorem test_victim : sees (exec (.victimWriteback 0 1) (at_ (wvic (.cacheRead (.hbm 0x2000) 4 0 (.access 0 0))) (.ack (.writeBack 0 0x40)))) (fun t =>
      t.mesh.map (·.pay) == [.read (.hbm 0x2000) 64 (.fetch 0 0x80)] && (bench t 0).fetches.map (fun f => (f.victim, f.sent)) == [(none, true)]) = true ∧
    sees (exec (.victimWriteback 0 1) (at_ (wvic (.cacheWrite (.hbm 0x2002) [8] false 0 0 (.access 0 0))) (.ack (.writeBack 0 0x40)))) (fun t =>
      (bench t 0).fetches == [] && t.inbox.map (·.pay) == [.ack (.access 0 0)] && (Tbl.get? (bench t 0).ways 2053).map (·.dirty) == some 4) = true := by decide +kernel

/-- A cache with one dirty line, which a wedge of thread 0 waits for; and the same with the line's way turned off. -/
def wpass : State :=
  modThr (modBench w 0 fun b => { b with ways := [(1029, { line := 0x40, filled := true, dirty := 2, poison := false, ctx := 0, data := 0x0900 })],
                                         pass := some { todo := [0x40], wedges := [0] } }) 0 fun t => { t with wait := some (.wedge 2) }
def wclean : State := modBench wpass 0 fun b => { b with pass := none, wayen := 0xFFDF, cleaning := true }

theorem test_writeback_pass : (bcFind (bench wpass 0) 0x40).map (·.1) = some 1029 ∧ (bench wpass 0).fetches = [] ∧
    sees (exec (.bcWritebackPass 0 0x40 .clean) wpass) (fun t => (bench t 0).ways == [] && (bench t 0).wblines == 1 && (bench t 0).pass == some { todo := [], wedges := [0] } &&
      t.mesh.map (fun y => (y.cls, y.pay)) == [(2, .write (.hbm 0x1000) [(1, 9)] false (.writeBack 0 0x40))]) = true ∧
    (let s := modBench wpass 0 fun b => { b with ways := [(1029, { line := 0x40, filled := true, dirty := 0, poison := false, ctx := 0, data := 0 })], pass := some { todo := [], wedges := [0] } }
     sees (exec (.bcWritebackPass 0 0 .clean) s) (fun t => (bench t 0).ways == [] && (bench t 0).pass == none && (thr t 0).wait == none && (thr t 0).pc == 0x1004)) = true ∧
    (let s := modThr (modBench wpass 0 fun b => { b with ways := [], pass := some { todo := [], wedges := [0] } }) 0 fun t => { t with wait := some (.wedge 3), hostPorts := [1] }
     sees (exec (.bcWritebackPass 0 0 .clean) s) (fun t => (thr t 0).wait == some (.wedge 4) && t.mesh.map (·.pay) == [.read (.host 1 0) 0 (.flush 0 1)])) = true ∧
    sees (exec (.wayPowerDown 0) wclean) (fun t => (bench t 0).ways == [] && (bench t 0).cleaning && (bench t 0).wayon == 0xFFFF && t.mesh.map (·.pay) == [.write (.hbm 0x1000) [(1, 9)] false (.writeBack 0 0x40)]) = true ∧
    sees (exec (.wayPowerDown 0) (modBench wclean 0 fun b => { b with ways := [] })) (fun t => (bench t 0).wayon == 0xFFDF && !(bench t 0).cleaning) = true := by decide +kernel

/-- The first write of a guarded pair to BC_WAYEN has been accepted from the management core. -/
def wguard : State := (nx (exec (.bcWayen .mgmt 0 false 0x00FF) w)).getD w

theorem test_guard : (Machine.node wguard 0).guard = some { off := 0x20000, value := 0x00FF, src := .mgmt, thr := 0, since := 0 } ∧
    sees (exec (.bcWayen .mgmt 0 true (~~~ 0x00FF)) wguard) (fun t => (bench t 0).wayen == 0x00FF && (bench t 0).cleaning && (Machine.node t 0).guard == none) = true ∧
    sees (exec (.bcWayen .mgmt 0 true 0x00FF) wguard) (fun t => (bench t 0).wayen == 0xFFFF && (Machine.node t 0).errFlags == 1 && (Machine.node t 0).cntGuard == 1) = true ∧
    sees (exec (.guardTimeout 0) (modNode wguard 0 fun x => { x with pacer := 65 })) (fun t => (Machine.node t 0).guard == none && (Machine.node t 0).errOff == 0x20000) = true ∧
    nx (exec (.guardTimeout 0) (modNode wguard 0 fun x => { x with pacer := 64 })) = some (modNode wguard 0 fun x => { x with pacer := 64 }) := by decide +kernel

/-- One flit at node 0 for node 0x21. -/
def wflit : State := { w with mesh := [{ msg (.ack .unit) with cls := 1, src := 0, dst := 0x21, pos := 0 }] }
/-- That flit one hop on. -/
def wflit1 : State := (nx (exec (.flitHop 0 .east) wflit)).getD wflit

theorem test_flit : routeDir 0 0x21 = .east ∧ neighbour 0 .east = some 1 ∧ hasCredit wflit 0 .east 1 = true ∧
    sees (exec (.flitHop 0 .east) wflit) (fun t => t.mesh.map (·.pos) == [1] && (Machine.node t 0).flits == 1) = true ∧
    (let s := { w with mesh := [{ msg (.ack .unit) with cls := 1, src := 0x21, dst := 0, pos := 0, inp := .east }] }
     sees (exec (.flitHop 0 .here) s) (fun t => t.mesh == [] && t.inbox.map (·.pos) == [0])) = true ∧
    wflit.mesh.filter (fun y => y.pos == 0) = wflit.mesh ∧ held wflit 1 = false ∧ sentFlits wflit1 1 .west = [1] ∧
    sees (exec (.meshReplay 1 .west) wflit1) (fun t => t.mesh == wflit1.mesh && Tbl.get? (Machine.node t 1).replays (dirNum .west) == some 1) = true := by decide +kernel

/-- A write of SKIP_LAUNCH by thread 0 of core 0, at the home node 17 of quadrant 0: context 0, descriptor at 0x100000. -/
def wsl : State :=
  { wsb with inbox := [{ msg (.write (.reg 17 0x90000) ((List.range 8).map fun i => (i, BitVec.ofNat 8 (0x100000 / 256 ^ i))) false (.access 0 1)) with src := 0, dst := 17 }] }
/-- The launch queued, with its descriptor: 4 lines from 0x10000 to offset 0x400 of core 0 of quadrant 0, with an increment of cell 2 of logical core 0. -/
def wsk : State :=
  let s := (nx (exec (.skipLaunch (.thread 1) 17 0x100000) wsl)).getD w
  { s with hbm := cells (hbmLoc w 0x10000) [9, 8, 7] ++ cells (hbmLoc w 0x100000) [0, 0, 1] ++ cells (hbmLoc w 0x100008) [1] ++ cells (hbmLoc w 0x100010) [0x10] ++
      cells (hbmLoc w 0x100018) [1, 0, 0, 0, 0, 0, 0, 1] ++ cells (hbmLoc w 0x100020) [0x21, 0, 0, 0, 2], mesh := [] }
def wsk2 : State := (nx (exec (.skipTransfer 0 e0) wsk)).getD w
/-- The transfer runs, and after its one beat of 256 bytes. -/
def wsk3 : State := (nx (exec (.skipTransfer 0 e0) wsk2)).getD w

theorem test_skip_launch : nodeKind 17 = 1 ∧ quadOf 17 = 0 ∧ sees (exec (.skipLaunch (.thread 1) 17 0x100000) wsl) (fun t =>
    (skipJobs t 0).map (fun j => (j.value, j.srck, j.core, j.thr, j.running)) == [(0x100000, 0, 0, 0, false)] && t.mesh.map (·.pay) == [.ack (.access 0 1)]) = true := by decide +kernel
theorem test_skip_premises : held wsl 17 = false ∧ (skipJobs wsl 0).length = 0 ∧ (Tbl.get? wsl.ctxs 0).isSome = true ∧ quadOf ((0 : Nat) / 64) = 0 ∧
    (match skipJobs wsk2 0 with | j :: _ => skipLen j.words == 1 && j.beat == 0 && (skipSrc wsk2 j.words).isSome && !skipStalls wsk2 j.words ((skipSrc wsk2 j.words).getD 0) 0 && !skipSplit j.words && skipDest j.words 0 == 0x400 | [] => false) = true ∧
    memWf wsk2.ls = true ∧ heldQuad wsk2 0 = false := by decide +kernel
theorem test_skip_transfer : (skipJobs wsk2 0).map (fun j => (j.running, j.code)) = [(true, 0)] ∧ storeByte wsk2 0 0x400 = 0 ∧ (skipJobs wsk3 0).map (·.beat) = [1] ∧ storeByte wsk3 0 0x400 = 9 ∧
    storeByte wsk3 0 0x402 = 7 ∧ storeByte wsk3 0 0x3FF = 0 ∧
    sees (exec (.skipCompletion 0) { wsk3 with skip := Tbl.set wsk3.skip 0 ((skipJobs wsk3 0).map fun j => { j with code := 8 }) }) (fun t => skipJobs t 0 == [] && (thr t 0).deferred.map (·.engine) == [3]) = true ∧
    sees (exec (.skipCompletion 0) wsk3) (fun t => skipJobs t 0 == [] && t.mesh.map (·.pay) == [.counter (.core 0 2) false 1 .unit]) = true := by decide +kernel
/-! ### Counters and transactions -/

/-- w with x3 the name of its own cell 2 (MONO, value 5), x4 that of its own cell 3 (CREDIT, value 6), x5 = 5, x6 = 9, x7 = 2^32. -/
def wq : State :=
  { w with
    threads := [(0, { thr w 0 with x := [(1, 0x5001), (2, 2 ^ 47 + 5), (3, 0x80002), (4, 0x80003), (5, 5), (6, 9), (7, 0x100000000), (8, 0x2000)] })]
    cores := [(0, { Core.init with mode := 2, ctx := some 0, ctrMode := 8 })]
    coreCells := [(2, 5), (3, 6)] }

theorem test_counter_premises : Ready h [1, 2, 3, 4, 5, 6, 7, 8] wq ∧ threadName wq 0 0x80002 = .ok (.core 0 2) ∧ cellAlive wq (.core 0 2) = true ∧ writesInFlight wq 0 = false ∧
    waitable 0 (.core 0 2) = true ∧ cellCredit wq (.core 0 2) = false ∧ cellCredit wq (.core 0 3) = true :=
  ⟨ready_of (by decide +kernel), by decide +kernel⟩
theorem test_counter_fits : ([.cinc h 0 3 0, .cincB h 0 3 5, .cdec h 0 4 5, .cread h 9 3 0, .cwait h 0 3 6, .txb h 0 8 0, .txe h 0 0 0, .txa h 0 5 0] : List Instr).all
    (fun i => fitB h [3, 4, 5, 6, 8, 9] i wq) = true ∧ ctxOf wq 0 = some 0 ∧ Tbl.get? wq.ctxs 0 = some cx ∧ cx.virt = false ∧ (thr wq 0).ctrOut = [] ∧ (thr wq 0).tx.depth = 0 := by decide +kernel
theorem test_cinc_cdec : sees (run (.cinc h 0 3 0) wq) (fun t => t.mesh.map (fun y => (y.cls, y.dst, y.pay)) == [(3, 0, .counter (.core 0 2) false 1 (.counter 0 0 0x80002))] &&
      (thr t 0).ctrOut == [0] && (thr t 0).pc == 0x1004 && t.coreCells == wq.coreCells) = true ∧
    sees (run (.cdec h 0 4 5) wq) (fun t => t.mesh.map (·.pay) == [.counter (.core 0 3) true 5 (.counter 0 0 0x80003)]) = true ∧
    sees (run (.cincB h 0 3 5) wq) (fun t => t.mesh.length == 1 && (thr t 0).pc == 0x1004) = true ∧
    does (.cinc h 0 3 7) wq (fun s_ => (faultAt s_ 0 (counterExn s_ 0 0x80002 1 false) 0x1000)) = true ∧
    does (.cread h 9 3 0) wq (fun s_ => (retire (wx s_ 0 9 5) 0 4)) = true := by decide +kernel
/-- R205 at its bounds: equal, one below, and 2⁴⁷ − 1 beyond for MONO; equal and one below for CREDIT. -/
theorem test_cwait : does (.cwait h 0 3 5) wq (fun s_ => (retire s_ 0 4)) = true ∧ sees (run (.cwait h 0 3 6) wq) (fun t => (thr t 0).wait.isSome && (thr t 0).pc == 0x1000) = true ∧
    does (.cwait h 0 3 8) (modThr wq 0 fun t => { t with x := [(3, 0x80002), (8, 2 ^ 47 + 6)] }) (fun s_ => (retire s_ 0 4)) = true ∧
    sees (run (.cwait h 0 3 8) (modThr wq 0 fun t => { t with x := [(3, 0x80002), (8, 2 ^ 47 + 4)] })) (fun t => (thr t 0).wait.isSome) = true ∧
    does (.cwait h 0 4 5) wq (fun s_ => (retire s_ 0 4)) = true ∧ sees (run (.cwait h 0 4 6) wq) (fun t => (thr t 0).wait.isSome) = true := by decide +kernel
theorem test_names : threadName wq 0 0x8002F = .ok (.core 0 47) ∧ threadName wq 0 0x80030 = .bad 1 ∧ threadName wq 0 0x0000F = .ok (.core 0 15) ∧
    threadName wq 0 0x0010F = .bad 2 ∧ threadName wq 0 0x40 = .bad 1 ∧ threadName wq 0 0x10000000 = .bad 3 ∧ lvlOf wq 0 < 2 := by decide +kernel

/-- An operation of thread 0 delivered at a cell of core 0. -/
def opAt (i : Nat) (dec : Bool) (n : Nat) : State := at_ wq (.counter (.core 0 i) dec n (.counter 0 0 0))

theorem test_counter_home : (arrived (opAt 2 false 1) 1).isSome = true ∧ held (opAt 2 false 1) 0 = false ∧ goodCore (opAt 2 false 1) 0 = true ∧ (Machine.core (opAt 2 false 1) 0).ctrDead = false := by decide +kernel
theorem test_counter_apply : sees (exec (.counterApply 1) (opAt 2 false (2 ^ 48 - 5))) (fun t => cellValue t (.core 0 2) == 0 && t.mesh.map (·.pay) == [.ack (.counter 0 0 0)]) = true ∧
    sees (exec (.counterApply 1) (opAt 2 true 1)) (fun t => t.coreCells == wq.coreCells && t.mesh.map (·.pay) == [.error (14 + 4 * 256) (.counter 0 0 0)]) = true ∧
    sees (exec (.counterApply 1) (opAt 3 false (2 ^ 47 - 7))) (fun t => cellValue t (.core 0 3) == 2 ^ 47 - 1) = true ∧
    sees (exec (.counterApply 1) (opAt 3 false (2 ^ 47 - 6))) (fun t => t.mesh.map (·.pay) == [.error (14 + 7 * 256) (.counter 0 0 0)]) = true ∧
    sees (exec (.counterApply 1) (opAt 3 true 6)) (fun t => cellValue t (.core 0 3) == 0) = true ∧
    sees (exec (.counterApply 1) (opAt 3 true 7)) (fun t => t.mesh.map (·.pay) == [.error (14 + 5 * 256) (.counter 0 0 0)]) = true ∧
    sees (exec (.counterApply 1) (at_ wq (.counter (.core 0 2) false 1 .unit))) (fun t => cellValue t (.core 0 2) == 6 && t.mesh == [] && t.inbox == []) = true := by decide +kernel

/-- wq with thread 0 waiting on a cell. -/
def waitsOn (cell : CellId) (tg : W64) (entry m : Bool) : State := modThr wq 0 fun t => { t with wait := some (.cwait cell 0 tg entry m 0) }

theorem test_cwait_ends : sees (exec (.cwaitSatisfied 0 0) (waitsOn (.core 0 2) 5 true true)) (fun t => (thr t 0).wait == none && (thr t 0).pc == 0x1004) = true ∧
    nx (exec (.cwaitSatisfied 0 0) (waitsOn (.core 0 2) 5 true false)) = some (waitsOn (.core 0 2) 5 true false) := by decide +kernel
theorem test_cwait_poll : wbNode 1 = 61 ∧
    sees (exec (.cwaitPoll 0 0) (modNode (waitsOn (.wb 1 7) 0 false false) 61 fun x => { x with pacer := 256 })) (fun t => (thr t 0).wait == none) = true ∧
    sees (exec (.cwaitPoll 0 0) (modNode (waitsOn (.wb 1 7) 1 false false) 61 fun x => { x with pacer := 256 })) (fun t => (thr t 0).wait == some (.cwait (.wb 1 7) 0 1 false false 256)) = true ∧
    nx (exec (.cwaitPoll 0 0) (waitsOn (.wb 1 7) 0 false false)) = some (waitsOn (.wb 1 7) 0 false false) := by decide +kernel

/-- A quiet context: its one thread waits on a cell, and its Quiet Limit of 1 has passed. -/
def wquiet (wake confirming : Bool) : State :=
  let s := modNode (waitsOn (.core 0 2) 9 true false) 181 fun x => { x with pacer := 5 }
  { s with ctxs := [(0, { cx with quiet := 1, wake := wake, quietSince := some 4, quietMark := quietSign s cx, confirming := confirming })] }

theorem test_quiet : ctxQuiet (wquiet false false) 0 = true ∧
    sees (exec (.quietLimitReached 0) (wquiet false false)) (fun t => (t.ctxs.map fun e => e.2.confirming) == [true]) = true ∧
    sees (exec (.contextDeadlock 0) (wquiet false true)) (fun t => (thr t 0).dbg && (t.ctxs.map fun e => (e.2.halted, e.2.confirming)) == [(true, false)] &&
      storeWord t 0 0x7B808 == (snapWords (wquiet false true) 0).getD 1 0) = true ∧
    sees (exec (.contextDeadlock 0) (wquiet true true)) (fun t => (Machine.core t 0).irqWake && !(thr t 0).dbg) = true := by decide +kernel

/-- wq inside a transaction at a depth, with a staged increment. -/
def wtx (d : Nat) : State :=
  modThr wq 0 fun t => { t with tx := { Tx.none with depth := d, fallback := 0x3000, ctrs := [{ seq := 0, cell := .core 0 2, amount := 4, name := 0x80002 }] } }

theorem test_transactions_ready : Ready h [8] wq ∧ Ready h [8] (wtx 1) ∧ Ready h [8] (wtx 8) ∧ inFlight wq 0 = false ∧ txInFlight (wtx 1) 0 = false :=
  ⟨ready_of (by decide +kernel), ready_of (by decide +kernel), ready_of (by decide +kernel), by decide +kernel, by decide +kernel⟩
theorem test_txb : sees (run (.txb h 0 8 0) wq) (fun t => (thr t 0).tx == { Tx.none with depth := 1, fallback := 0x2000 }) = true ∧
    sees (run (.txb h 0 8 0) (wtx 7)) (fun t => (thr t 0).tx.depth == 8 && (thr t 0).tx.fallback == 0x3000) = true ∧
    sees (run (.txb h 0 8 0) (wtx 8)) (fun t => (thr t 0).tx.depth == 0 && (thr t 0).pc == 0x3000 && rx t 0 1 == 0x0000FFFF00080006) = true := by decide +kernel
theorem test_txe : sees (run (.txe h 0 0 0) (wtx 2)) (fun t => (thr t 0).tx.depth == 1 && (thr t 0).pc == 0x1004) = true ∧
    sees (run (.txe h 0 0 0) (wtx 1)) (fun t => (thr t 0).tx.depth == 0 && (thr t 0).pc == 0x1004 && t.mesh.map (·.pay) == [.counter (.core 0 2) false 4 (.counter 0 0 0x80002)]) = true := by decide +kernel
theorem test_txa : sees (run (.txa h 0 5 0) (wtx 2)) (fun t => (thr t 0).pc == 0x3000 && rx t 0 1 == 0x0000FFFF00020504 && (thr t 0).tx.ctrs == [] && t.mesh == []) = true := by decide +kernel

/-- wtx 1 with a scoreboard entry of its read, and a lock of thread 9 on another line. -/
def wtr : State :=
  { wtx 1 with
    cores := [(0, { Core.init with mode := 2, ctx := some 0, sb := [(0, { thr := 0, write := false, first := 4, last := 4, faddr := 0x100, eng := 0, lane := 0, sink := .load 3 8 false, tx := true, haul := none })] })]
    locks := [{ home := .store 0, line := (2 ^ 40 + 0x140) / 64, thr := 9 }] }

theorem test_tx_read : sees (exec (.txRead 1 0) (at_ wtr (.txRead (.store 0 0x100) 8 (.access 0 0)))) (fun t => t.watches.map (fun x => (x.line, x.thr, x.broken)) == [((2 ^ 40 + 0x100) / 64, 0, false)] &&
      t.mesh.map (·.pay) == [.data [0, 0, 0, 0, 0, 0, 0, 0] false 1 (.access 0 0)]) = true ∧
    lineLocked wtr (.store 0 0x140) = true ∧
    sees (exec (.txRead 1 0) (at_ wtr (.txRead (.store 0 0x140) 8 (.access 0 0)))) (fun t => t.watches == [] && t.mesh.map (·.pay) == [.error (259 * 2 ^ 24) (.access 0 0)]) = true := by decide +kernel

/-- A commit of thread 0 that writes one line of its own store, at a phase. -/
def wcm (p : TxPhase) (rel : List HomeId) : State :=
  modThr wq 0 fun t => { t with wait := some .commit, tx := { Tx.none with depth := 1, fallback := 0x3000, writes := [((2 ^ 40 + 0x140) / 64, ⟨2, 0x0900⟩)], phase := p, releases := rel } }
def lk (thr : Nat) : Lock := { home := .store 0, line := (2 ^ 40 + 0x140) / 64, thr := thr }
def wt_ (broken : Bool) : Watch := { home := .store 0, line := 5, thr := 0, broken := broken, page := none }

theorem test_commit_premises : homeGone (wcm (.prepare [.store 0, .hbm 0]) []) (.store 0) [(2 ^ 40 + 0x140) / 64] = false ∧ homeGone (wcm (.check [.store 0, .hbm 0]) []) (.store 0) [] = false ∧
    ledgerTarget ((2 ^ 40 + 0x140) / 64) = .store 0 0x140 ∧ memWf (wcm (.apply [.store 0]) []).ls = true ∧
    lockHolder { wcm (.prepare [.store 0, .hbm 0]) [] with locks := [lk 9] } (.store 0) ((2 ^ 40 + 0x140) / 64) = some 9 := by decide +kernel
theorem test_commit : linesAt (wcm (.prepare [.store 0, .hbm 0]) []) 0 (.store 0) = [(2 ^ 40 + 0x140) / 64] ∧
    sees (exec (.lockRequest 0 0 (.store 0)) (wcm (.prepare [.store 0, .hbm 0]) [])) (fun t => t.locks == [lk 0] && (thr t 0).tx.phase == .prepare [.hbm 0]) = true ∧
    sees (exec (.lockRequest 0 0 (.store 0)) { wcm (.prepare [.store 0, .hbm 0]) [] with locks := [lk 9] }) (fun t => t.locks == [lk 9] && (thr t 0).pc == 0x3000 &&
      rx t 0 1 == BitVec.ofNat 64 (1 + 2 ^ 16 + 2 * 2 ^ 20 + homeNode (.store 0) * 2 ^ 32)) = true ∧
    sees (exec (.watchCheck 0 0 (.store 0)) { wcm (.check [.store 0, .hbm 0]) [] with watches := [wt_ false] }) (fun t => (thr t 0).tx.phase == .check [.hbm 0]) = true ∧
    sees (exec (.watchCheck 0 0 (.store 0)) { wcm (.check [.store 0, .hbm 0]) [] with watches := [wt_ true] }) (fun t => (thr t 0).pc == 0x3000 && (thr t 0).tx.depth == 0) = true ∧
    sees (exec (.watchCheck 0 0 (.store 0)) { wcm (.check [.store 0, .hbm 0]) [] with watches := [{ wt_ false with line := (2 ^ 40 + 0x140) / 64 }], locks := [lk 9] }) (fun t => (thr t 0).pc == 0x3000) = true ∧
    sees (exec (.txApply 0 0 (.store 0)) { wcm (.apply [.store 0]) [] with locks := [lk 0] }) (fun t => storeByte t 0 0x141 == 9 && t.locks == [] && (thr t 0).tx.depth == 0 && (thr t 0).pc == 0x1004) = true ∧
    sees (exec (.watchRelease 0 0 (.store 0)) { wcm .open [.store 0] with watches := [wt_ true], locks := [lk 0] }) (fun t => t.watches == [] && t.locks == [] && (thr t 0).tx.releases == []) = true := by
  decide +kernel
theorem test_conflict : sees (exec (.txAbort 0 0) (modThr (wtx 1) 0 fun t => { t with aborts := [⟨1, 1, 17⟩] })) (fun t => (thr t 0).pc == 0x3000 && rx t 0 1 == 0x0000001100110001) = true := by decide +kernel
/-! ### Channels -/

/-- Records of ports of core 0: port 1 live, of thread 0, arity 0, GEN 3, one entry at 0x8000 whose byte 0 is 5, 16 entries; port 2 free; the handler of 5 at 0x6000. -/
def wp_ : State :=
  { w with
    threads := [(0, { thr w 0 with
      x := [(1, 1), (2, 2), (3, 0x10000 + 0x400000), (4, 0x7F), (5, 0x10001), (6, 0x10002), (7, 0), (8, 0x400000 + 0x8000)]
      handles := [(0, ⟨0, 1, 0, 3⟩), (1, ⟨0, 4, 1, 9⟩)] })]
    ls := cells 0x7A040 [1, 0, 0, 0, 0, 0, 1, 3] ++ cells 0x7A048 [0, 0x80, 0x40] ++ cells 0x7A828 [0, 0x60] |> fun l => (0x8000, 5) :: l }

theorem test_channels_ready : Ready h [1, 2, 3, 4, 5, 6, 7, 8, 9, 10, 11, 31] wp_ ∧ memWf wp_.ls = true ∧ portLive wp_ 0 1 = true ∧ portOwner wp_ 0 1 = 0 ∧ portCount wp_ 0 1 = 1 ∧
    portGen wp_ 0 1 = 3 ∧ portSize wp_ 0 1 = 16 ∧ portArity wp_ 0 1 = 0 ∧ portLive wp_ 0 2 = false ∧ configOk (rx wp_ 0 3).toNat = true ∧ queueOverlaps wp_ 0 2 (rx wp_ 0 3).toNat = false ∧
    queueOverlaps wp_ 0 2 (rx wp_ 0 8).toNat = true :=
  ⟨ready_of (by decide +kernel), by decide +kernel⟩
theorem test_channel_fits : ([.portCreate h 0 2 3, .portFree h 0 1 0, .portPop h 0 1 0, .dispatch h 0 1 0, .hset h 0 1 4, .chanOpen h 9 5 0, .chanClose h 0 1 0, .send h 9 1 4, .tsend h 9 1 4, .sendM h 0 7 4,
    .sendEnd h 9 7 4, .tsendEnd h 9 7 4] : List Instr).all (fun i => fitB h [1, 2, 3, 4, 5, 7, 9, 10, 11, 31] i wp_) = true ∧ goodCore wp_ 0 = true ∧ entryOff wp_ 0 1 0 = 0x8000 ∧
    lineLocked wp_ (.store 0 0x8000) = false ∧ homePoison wp_ (.store 0 0x8000) = false ∧ lineLocked wp_ (.store 0 0x7A828) = false ∧ storeNat wp_ 0 0x7A828 8 = 0x6000 ∧
    (thr wp_ 0).tx.depth = 0 ∧ Tbl.free (thr wp_ 0).handles 0 16 = some 2 := by decide +kernel
theorem test_port_create : sees (run (.portCreate h 0 2 3) wp_) (fun t => portLive t 0 2 && portGen t 0 2 == 1 && portCount t 0 2 == 0 && portWord t 0 2 1 == 0x410000 && (thr t 0).pc == 0x1004 && portWord t 0 1 0 == portWord wp_ 0 1 0) = true ∧
    does (.portCreate h 0 1 3) wp_ (fun s_ => (faultAt s_ 0 (chanExn 2 1) 0x1000)) = true ∧ does (.portCreate h 0 2 8) wp_ (fun s_ => (faultAt s_ 0 (chanExn 9 2) 0x1000)) = true := by decide +kernel
theorem test_port_free : sees (run (.portFree h 0 1 0) wp_) (fun t => !portLive t 0 1 && portGen t 0 1 == 3 && portCount t 0 1 == 1) = true ∧
    does (.portFree h 0 2 0) wp_ (fun s_ => (faultAt s_ 0 (chanExn 3 2) 0x1000)) = true := by decide +kernel
theorem test_port_pop : sees (run (.portPop h 0 1 0) wp_) (fun t => portCount t 0 1 == 0 && portHead t 0 1 == 1 && portLive t 0 1) = true ∧
    does (.portPop h 0 1 2) wp_ (fun s_ => (faultAt s_ 0 (chanExn 4 1) 0x1000)) = true ∧ does (.portPop h 0 1 7) wp_ (fun s_ => (faultAt s_ 0 (chanExn 4 1) 0x1000)) = true := by decide +kernel
theorem test_dispatch : sees (run (.dispatch h 0 1 0) wp_) (fun t => (thr t 0).pc == 0x6000 && rx t 0 10 == 0x8000 && rx t 0 11 == 1 && rx t 0 31 == 0x1004) = true ∧
    (let s := setPortWord wp_ 0 1 0 (portStatus 0 1 0 true false 3); does (.dispatch h 0 1 0) s (fun s_ => (retire (wx s_ 0 10 0) 0 4)) = true) := by decide +kernel
theorem test_hset : sees (run (.hset h 0 1 4) wp_) (fun t => storeNat t 0 0x7A808 8 == 0x7F) = true ∧
    (let s := modSys wp_ 0 fun y => { y with priv := 0 }; does (.hset h 0 1 4) s (fun s_ => (faultAt s_ 0 (scalarExn 4 0) 0x1000)) = true) := by decide +kernel
theorem test_open_close : sees (run (.chanOpen h 9 5 0) wp_) (fun t => rx t 0 9 == 2 && Tbl.get? (thr t 0).handles 2 == some ⟨0, 1, 0, 3⟩) = true ∧
    does (.chanOpen h 9 6 0) wp_ (fun s_ => (retire (wx s_ 0 9 0x8000000000000003) 0 4)) = true ∧
    (let s := modThr wp_ 0 fun t => { t with handles := (List.range 16).map fun i => (i, ⟨0, 1, 0, 3⟩) }; does (.chanOpen h 9 5 0) s (fun s_ => (retire (wx s_ 0 9 0x8000000000000004) 0 4)) = true) ∧
    sees (run (.chanClose h 0 1 0) wp_) (fun t => ((thr t 0).handles.map (·.1)) == [0]) = true := by decide +kernel
theorem test_sends : sees (run (.send h 9 1 4) wp_) (fun t => t.mesh.map (fun y => (y.cls, y.dst, y.pay)) == [(4, 0, .publish 0 4 9 [0x7F] 0 false)] && (thr t 0).pc == 0x1000) = true ∧
    sees (run (.tsend h 9 1 4) wp_) (fun t => (thr t 0).wait == some (.send 9 1 [0x7F] false false true 0 none)) = true ∧
    sees (run (.sendM h 0 7 4) wp_) (fun t => (thr t 0).staged == [0x7F] && (thr t 0).stageHandle == some 0) = true ∧
    (let s := modThr wp_ 0 fun t => { t with staged := List.replicate 7 1, stageHandle := some 0 }
     sees (run (.sendEnd h 9 7 4) s) (fun t => t.mesh.map (·.pay) == [.publish 0 1 3 [1, 1, 1, 1, 1, 1, 1, 0x7F] 0 false]) &&
     sees (run (.tsendEnd h 9 7 4) s) (fun t => (thr t 0).wait == some (.send 9 0 [1, 1, 1, 1, 1, 1, 1, 0x7F] true false true 0 none))) = true ∧
    does (.send h 9 2 4) wp_ (fun s_ => (faultAt s_ 0 (chanExn 5 2) 0x1000)) = true := by decide +kernel

/-- Thread 0 waits for its publication to port 1 with a generation, which has arrived; the queue holds `n` entries. -/
def wpub (n gen : Nat) (blocking : Bool) : State :=
  at_ (modThr (setPortWord wp_ 0 1 0 (portStatus n 15 0 true false 3)) 0 fun t => { t with wait := some (.send 9 0 [8, 7] true blocking true 0 none) }) (.publish 0 1 gen [8, 7] 0 false)

theorem test_publication_premises : (arrived (wpub 1 3 true) 1).isSome = true ∧ held (wpub 1 3 true) 0 = false ∧ memWf (wpub 1 3 true).ls = true ∧ goodCore (wpub 1 3 true) 0 = true ∧
    portLive (wpub 1 3 true) 0 1 = true ∧ portGen (wpub 1 3 true) 0 1 = 3 ∧ portCount (wpub 1 3 true) 0 1 + portResv (wpub 1 3 true) 0 1 = 1 ∧ entryOff (wpub 1 3 true) 0 1 0 = 0x8000 ∧
    entryBytes 0 = 64 := by decide +kernel
theorem test_publication : sees (exec (.publication 1) (wpub 1 3 true)) (fun t => portCount t 0 1 == 2 && portHead t 0 1 == 15 && storeByte t 0 0x8000 == 8 && storeByte t 0 0x8008 == 7 && rx t 0 9 == 0 &&
      (thr t 0).pc == 0x1004 && (thr t 0).wait == none) = true ∧
    sees (exec (.publication 1) (wpub 16 3 false)) (fun t => rx t 0 9 == 1 && (thr t 0).staged == [8, 7]) = true ∧
    sees (exec (.publication 1) (wpub 16 3 true)) (fun t => (thr t 0).wait == some (.send 9 0 [8, 7] true true false 0 (some 0))) = true ∧
    sees (exec (.publication 1) (modThr (wpub 16 3 true) 0 fun t => { t with dbg := true })) (fun t => (thr t 0).wait == none && (thr t 0).pc == 0x1000) = true ∧
    sees (exec (.publication 1) (wpub 1 4 true)) (fun t => rx t 0 9 == 3) = true := by decide +kernel

/-- A SEND that pauses, at a pacer count. -/
def wpause (ticks : Nat) : State :=
  modNode { modThr wp_ 0 fun t => { t with wait := some (.send 9 0 [8, 7] true true false 0 (some 0)) } with ctxs := [(0, { cx with stall := 100 })] } 0 fun x => { x with pacer := BitVec.ofNat 64 ticks }

theorem test_paused_send : sees (exec (.sendRetry 0 0) (wpause 64)) (fun t => t.mesh.map (·.pay) == [.publish 0 1 3 [8, 7] 0 false]) = true ∧ nx (exec (.sendRetry 0 0) (wpause 63)) = some (wpause 63) ∧
    sees (exec (.stallLimitExpiry 0 0) (wpause 100)) (fun t => rx t 0 9 == 2 && (thr t 0).staged == [8, 7] && (thr t 0).wait == none) = true := by decide +kernel
/-! ### Streams -/

/-- A stream entry. -/
def en (v : Nat) : SEntry := { data := BitVec.ofNat 512 v, marker := false, poison := false }

/-- Region 0 of bench 0 alone, in section 0. -/
def rg : Region :=
  { ctx := 0, x0 := 0, y0 := 0, w := 1, h := 1, parts := [0], image := [], secno := 0, state := 1, ring := ⟨0, 0, 0⟩, tag := 0, target := none, newImage := none, unload := false, flush := false,
    bycmd := none, since := 0, flushed := 0, met := false }

/-- Bench 0 in region 0: queue 8 (tile word of 512 bits) holds two entries and feeds z0 of core 0; z1 feeds queue 0 (64 bits, depth 2); unit 0 of a kind reads queues 8, 9 and 0 (CIN) and
puts to queue 10; queue 9 holds 7. -/
def wz (kind : Nat) (cin : Nat) : State :=
  { w with
    threads := [(0, { thr w 0 with v := [(2, 0x3FF0000000000000), (3, 0xABCD)], tiles := [(1, mkTile 0x07D8 [] [])] })]
    regions := [(0, rg)]
    benches := [(0, { Bench.init with
      ssEn := true, ssLoaded := true, ssState := 1, qcfg := [(0, 2), (8, 4), (9, 4), (10, 4)], zbind := [(0, 0x8000 + 0x800 + (0xC000 <<< 16))]
      queues := [(0, { SQueue.init with q := [en cin] }), (8, { SQueue.init with q := [en 0x4000000000000000, en 6] }), (9, { SQueue.init with q := [en 7] })]
      ucfg0 := [(0, BitVec.ofNat 64 (kind + 0x88 * 2 ^ 8 + 0x89 * 2 ^ 16 + 0x80 * 2 ^ 24))], ucfg1 := [(0, 0x8000 + 0xA00)] })] }

theorem test_stream_ready : Ready h [] (wz 0 1) ∧ (thr (wz 0 1) 0).tx.depth = 0 := ⟨ready_of (by decide +kernel), by decide +kernel⟩
theorem test_stream_premises : boundTo (wz 0 1) 0 0 = .input 8 ∧ boundTo (wz 0 1) 0 1 = .output 0 0 ∧ boundTo (wz 0 1) 0 2 = .none ∧
    headEntry (wz 0 1) 0 8 = some (en 0x4000000000000000) ∧ hasRoom (wz 0 1) 0 0 = true ∧ benchRegion (wz 0 1) 0 = some rg ∧ unitKind (wz 3 1) 0 0 = 3 ∧
    unitIn (wz 3 1) 0 0 0 = some 8 ∧ unitIn (wz 3 1) 0 0 1 = some 9 ∧ unitIn (wz 3 1) 0 0 2 = some 0 ∧ unitOut (wz 3 1) 0 0 0 = some (0, 10) ∧ unitOut (wz 3 1) 0 0 1 = none ∧
    unitMarked (wz 3 1) 0 0 = false ∧ hasRoom (wz 3 1) 0 10 = true := by decide +kernel
theorem test_stream_fits : ([.vzget h (vf 4 0 0 0 0), .vzput h (vf 3 1 0 0 0), .vzpeek h (vf 4 0 0 0 0), .vzpoll h (vf 2 1 0 0 0), .vzfma h (vf 2 0 2 0 0) 3] : List Instr).all (fun i => fitB h [] i (wz 0 1)) = true := by decide +kernel
theorem test_vzget : sees (run (.vzget h (vf 4 0 0 0 0)) (wz 0 1)) (fun t => rv t 0 4 == 0x4000000000000000 && (squeue t 0 8).q == [en 6] && (squeue t 0 8).returning == 1) = true ∧
    sees (run (.vzpeek h (vf 4 0 0 0 0)) (wz 0 1)) (fun t => rv t 0 4 == 0x4000000000000000 && (squeue t 0 8).q.length == 2) = true ∧
    sees (run (.vzfma h (vf 2 0 2 0 0) 0) (wz 0 1)) (fun t => laneOf 64 (rv t 0 2) 0 == 0x4008000000000000) = true ∧
    sees (run (.vzput h (vf 3 1 0 0 0)) (wz 0 1)) (fun t => (squeue t 0 0).lane == [en 0xABCD]) = true ∧
    does (.vzpoll h (vf 2 1 0 0 0)) (wz 0 1) (fun s_ => (retire (wp s_ 0 2 2) 0 4)) = true ∧
    does (.vzget h (vf 4 2 0 0 0)) (wz 0 1) (fun s_ => (faultAt s_ 0 (streamExn 2 1) 0x1000)) = true ∧ does (.vzput h (vf 3 0 0 0 0)) (wz 0 1) (fun s_ => (faultAt s_ 0 (streamExn 0 2) 0x1000)) = true := by
  decide +kernel
theorem test_stream_waits : (let s := modQueue (modQueue (wz 0 1) 0 8 fun x => { x with q := [] }) 0 0 fun x => { x with q := [en 1, en 2] }
    headEntry s 0 8 = none ∧ hasRoom s 0 0 = false ∧ sees (run (.vzget h (vf 4 0 0 0 0)) s) (fun t => (thr t 0).wait == some (.stream .get (vf 4 0 0 0 0) false)) = true ∧
    sees (run (.vzput h (vf 3 1 0 0 0)) s) (fun t => (thr t 0).wait == some (.stream .put (vf 3 1 0 0 0) false)) = true) ∧
    sees (exec (.streamWaitDone 0 0) (modThr (wz 0 1) 0 fun t => { t with wait := some (.stream .get (vf 4 0 0 0 0) false) })) (fun t => (thr t 0).wait == none && rv t 0 4 == 0x4000000000000000) = true := by
  decide +kernel
theorem test_tload_stream : descRows (tile (wz 0 1) 0 1).desc = 1 ∧ descWidth (tile (wz 0 1) 0 1).desc = 64 ∧ descFmt (tile (wz 0 1) 0 1).desc = 11 ∧
    sees (run (.tloadStream h { t := 1, rs1 := 0, rs2 := 0, d := false, mf := BitVec.ofNat 5 (tileMf 11), scm := 0, rnd := false, q := true, z := 0 }) (wz 0 1))
      (fun t => Tbl.get? (tile t 0 1).data 0 == some 0x4000000000000000 && (squeue t 0 8).q == [en 6]) = true := by decide +kernel
theorem test_stream_queue : sees (exec (.streamEntry 0 9) (modQueue (wz 0 1) 0 9 fun x => { x with lane := [en 3, en 4] })) (fun t => (squeue t 0 9).q == [en 7, en 3] && (squeue t 0 9).lane == [en 4]) = true ∧
    sees (exec (.creditReturn 0 9) (modQueue (wz 0 1) 0 9 fun x => { x with returning := 2 })) (fun t => (squeue t 0 9).returning == 1) = true := by decide +kernel
/-- Table 13.3: SELECT takes IN1 on a control of 1, BRANCH has no output 1, FILTER drops on 0, MERGE alternates. -/
theorem test_units : sees (exec (.select 0 0) (wz 1 1)) (fun t => (squeue t 0 10).lane == [en 7] && (squeue t 0 8).q.length == 2 && (squeue t 0 0).q == []) = true ∧
    sees (exec (.branch 0 0) (wz 3 0)) (fun t => (squeue t 0 10).lane == [en 0x4000000000000000]) = true ∧
    sees (exec (.filter 0 0) (wz 5 0)) (fun t => (squeue t 0 10).lane == [] && (squeue t 0 8).q == [en 6]) = true ∧
    sees (exec (.filter 0 0) (wz 5 1)) (fun t => (squeue t 0 10).lane == [en 0x4000000000000000]) = true ∧
    sees (exec (.replicate 0 0) (wz 4 0)) (fun t => (squeue t 0 10).lane == [en 0x4000000000000000]) = true ∧
    sees (exec (.merge 0 0) (wz 2 0)) (fun t => (squeue t 0 10).lane == [en 0x4000000000000000] && sees (exec (.merge 0 0) t) (fun u => (squeue u 0 10).lane == [en 0x4000000000000000, en 7])) = true := by
  decide +kernel

/-- wz with the region draining, every queue in use with just its marker or one more entry. -/
def wdr (flush : Bool) (left : List SEntry) : State :=
  let mk : SEntry := { data := 0, marker := true, poison := false }
  let s := modBench (wz 0 0) 0 fun b => { b with ssState := 2, zbind := [], queues := [0, 8, 9, 10].map fun q => (q, { SQueue.init with q := left ++ [mk], closed := true }) }
  { s with regions := [(0, { rg with image := [0, 0x18, 0x58, 1, 0, 0, 0, 0, 0], state := 2, target := some 1, flush := flush })] }

/-- The same once drained: it is configuring. -/
def wcf : State := (nx (exec (.drainComplete 0) (wdr false []))).getD w

theorem test_region : (let s := { wz 0 0 with regions := [(0, { rg with image := [0, 0x18, 0x58, 0x1001, 9], met := true })], hbm := cells (hbmLoc w 0xFFF4000000) [5, 0x20, 0, 0, 0, 0, 0, 0x90] }
      (regionWait s { rg with image := [0, 0x18, 0x58, 0x1001, 9] }).isSome = true ∧
      sees (exec (.sectionAdvance 0) s) (fun t => t.regions.map (fun e => (e.2.state, e.2.target)) == [(2, some 1)] && (bench t 0).ssState == 2) = true) ∧
    nx (exec (.sectionAdvance 0) (wz 0 0)) = some (wz 0 0) ∧
    sees (exec (.drainComplete 0) (wdr false [])) (fun t => t.regions.map (fun e => (e.2.state, e.2.target)) == [(4, some 1)] && (squeue t 0 9).q == [] && (bench t 0).ssState == 4 && !(bench t 0).ssEn) = true ∧
    sees (exec (.drainComplete 0) wcf) (fun t => t.regions.map (fun e => (e.2.state, e.2.secno)) == [(1, 1)] && (squeue t 0 9).q == [] && (bench t 0).ssSection == 1 && (bench t 0).ssEn) = true ∧
    sees (exec (.drainComplete 0) { wdr false [] with regions := (wdr false []).regions.map fun e => (e.1, { e.2 with unload := true }) }) (fun t => t.regions == [] && !(bench t 0).ssLoaded) = true ∧
    drained (settleRegion (wdr false []) rg) { rg with image := [0, 0x18, 0x58, 1, 0, 0, 0, 0, 0], state := 2 } = true ∧ held (wdr false []) (wbNode (sequencerOf rg)) = false ∧
    sees (exec (.drainComplete 0) (wdr false [en 1])) (fun t => t.regions.map (fun e => e.2.state) == [2]) = true ∧
    sees (exec (.drainLimitExpiry 0) (wdr true [en 1])) (fun t => t.regions.map (fun e => (e.2.state, e.2.target)) == [(4, some 1)] && (squeue t 0 9).q == []) = true ∧
    sees (exec (.drainLimitExpiry 0) (wdr false [en 1])) (fun t => t.regions.map (fun e => e.2.state) == [3] && (bench t 0).ssState == 3) = true := by decide +kernel
/-! ### Haul engines -/

/-- The cells of eight words at an HBM address. -/
def words8 (a : Nat) (l : List Nat) : List (Nat × Byte) := l.zipIdx.flatMap fun e => cells (hbmLoc w (a + 8 * e.2)) ((List.range 8).map fun i => e.1 / 256 ^ i % 256)

/-- wsb at P2 with a COPY descriptor of 8 bytes at 0x100000, and the store of 0x100008 to HAUL_LAUNCH of channel 3 delivered to bench 0. -/
def wl : State :=
  { (modSys { wsb with hbm := words8 0x100000 [0x40000, 0x50000, 2 ^ 48, 2 ^ 48, 8 + 8 * 2 ^ 32, 0, 0, 0] } 0 fun y => { y with priv := 2 }) with
    inbox := [{ msg (.write (.reg 0 0x30018) ((List.range 8).map fun i => (i, BitVec.ofNat 8 (0x100000 / 256 ^ i))) false (.access 0 1)) with src := 0 }] }

theorem test_haul_launch : launchBad w 0x0200000000100000 0 false = false ∧ launchBad wl 0x100000 0 true = false ∧ spansFree wl 0 = true ∧ lvlOf wl 0 = 2 ∧
    sees (exec (.haulLaunch .mgmt 0 3 0x0200000000100030) w) (fun t => (haulCh t 0 3).state == 1 && (haulCh t 0 3).desc == 0x100000 && (haulCh t 0 3).fw && (haulCh t 0 3).pri == 3 &&
      (haulCh t 0 3).chain == [(0x100000, [])]) = true ∧
    sees (exec (.haulLaunch (.thread 1) 0 3 0x100000) wl) (fun t => (haulCh t 0 3).state == 1 && (haulCh t 0 3).srck == 0 && (haulCh t 0 3).chain == [(0x100000, [])] &&
      t.mesh.map (·.pay) == [.ack (.access 0 1)]) = true := by decide +kernel

/-- Channel 3 of bench 0 (in region 0) in a state, with a firmware chain of one descriptor: operation, source, destination, source and destination lengths, check, next. -/
def wch (state op src dst slen dlen w7 next : Nat) : State :=
  modHaul { (modBench (wz 0 1) 0 fun b => { b with qcfg := [(0, 2), (8, 0x30404), (9, 4), (10, 4)] }) with hbm := words8 0x40000 [0x0807060504030201] } 0 3 fun _ =>
    { HaulCh.init with
      state := state, srck := 2, fw := true, desc := 0x100000, bytes := if state = 3 then 8 else 0, check := 0x12345678,
      chain := [(0x100000, [BitVec.ofNat 64 src, BitVec.ofNat 64 dst, if slen = 0 then 0 else 0x0001000000000000, if dlen = 0 then 0 else 0x0001000000000000,
        BitVec.ofNat 64 (slen + dlen * 2 ^ 32), if bits w7 4 3 = 0 then 0 else 0x60000, BitVec.ofNat 64 next, BitVec.ofNat 64 (op + w7)])] }

theorem test_haul_stop : haulBusy (wch 1 0 0x40000 0x50000 8 8 0 0) 0 3 = true ∧
    (let s := modNode (wch 1 0 0x40000 0x50000 8 8 0 0) 0 fun x => { x with guard := some { off := 0x30300, value := 8, src := .mgmt, thr := 0, since := 0 } }
     sees (exec (.haulStop .mgmt 0 true (~~~ 8)) s) (fun t => (haulCh t 0 3).state == 5 && (haulCh t 0 3).code == 7 && (haulCh t 0 3).chain == [])) = true := by decide +kernel
theorem test_haul_premises : descOk (wch 1 0 0x40000 0x50000 8 8 0 0) 0 (haulCh (wch 1 0 0x40000 0x50000 8 8 0 0) 0 3) [0x40000, 0x50000, 0x0001000000000000, 0x0001000000000000, 0x800000008, 0, 0, 0] = true ∧
    withdrawn w 0x50000 = false ∧ queueCkind (wch 1 2 8 0x50000 0 64 0 0) 0 8 = 2 ∧ queueCidx (wch 1 2 8 0x50000 0 64 0 0) 0 8 = 3 ∧ haulQueue (wch 1 3 0x40000 0x8900 64 0 0 0) 0 0x8900 = some (0, 9) := by decide +kernel
/-- The beats of a COPY: its read has gone out, the data has come, the write has gone out, and its acknowledgement has come. -/
def wb1 : State := (nx (exec (.haulCopy 0 3) (wch 1 0 0x40000 0x50000 8 8 0 0))).getD w
def wb2 : State := (nx (exec (.loadResponse 1 e0) (at_ { wb1 with mesh := [] } (.data [1, 2, 3, 4, 5, 6, 7, 8] false 3 (.haul 0 3 0))))).getD w
def wb3 : State := (nx (exec (.haulCopy 0 3) wb2)).getD w
def wb4 : State := (nx (exec (.writeAcknowledgement 1) (at_ { wb3 with mesh := [] } (.ack (.haul 0 3 1))))).getD w

theorem test_haul_copy : (haulCh wb1 0 3).state = 2 ∧ wb1.mesh.map (fun y => (y.cls, y.pay)) = [(3, .read (.hbm 0x40000) 8 (.haul 0 3 0))] ∧ writeData (haulCh wb2 0 3) = some ([1, 2, 3, 4, 5, 6, 7, 8], false) ∧
    portPick wb2 0 1 = some 3 ∧ portPick wb2 0 0 ≠ some 3 ∧
    wb3.mesh.map (fun y => (y.cls, y.pay)) = [(2, .write (.hbm 0x50000) (offsets [1, 2, 3, 4, 5, 6, 7, 8]) false (.haul 0 3 1))] ∧ (haulCh wb3 0 3).outs = [(1, 0, 0x50000)] ∧
    (haulCh wb3 0 3).state = 2 ∧ (haulCh wb4 0 3).state = 3 ∧ (haulCh wb4 0 3).bytes = 8 := by decide +kernel
/-- The descriptor itself is read first; one that is not well formed ends the chain. -/
theorem test_haul_begins : (let s := modHaul (wch 1 0 0x40000 0x50000 8 8 0 0) 0 3 fun c => { c with chain := [(0x100000, [])] }
      sees (exec (.haulCopy 0 3) s) (fun t => (haulCh t 0 3).descRead == some 0 && t.mesh.map (·.pay) == [.read (.hbm 0x100000) 64 (.haul 0 3 0)])) = true ∧
    sees (exec (.haulCopy 0 3) (wch 1 5 0x40000 0x50000 8 8 0 0)) (fun t => (haulCh t 0 3).state == 4 && (haulCh t 0 3).code == 5 && (haulCh t 0 3).chain == []) = true ∧
    sees (exec (.haulFill 0 3) (wch 1 1 0x0A0B 0x50000 0 10 0 0)) (fun t => (haulCh t 0 3).bytes == 10 && t.mesh.map (·.pay) == [.write (.hbm 0x50000) (offsets [0x0B, 0x0A, 0, 0, 0, 0, 0, 0, 0x0B, 0x0A]) false (.haul 0 3 0)]) = true := by
  decide +kernel
/-- A QIN that has taken its entry; a QOUT whose line has come. -/
def wq1 : State := (nx (exec (.qin 0 3) (wch 1 2 8 0x50000 0 64 0 0))).getD w
def wo1 : State := (nx (exec (.qout 0 3) (wch 1 3 0x40000 0x8900 64 0 0 0))).getD w
def wo2 : State := (nx (exec (.loadResponse 1 e0) (at_ { wo1 with mesh := [] } (.data (leBytes 64 0x0807060504030201) false 3 (.haul 0 3 0))))).getD w
theorem test_qin_qout : (squeue wq1 0 8).q = [en 6] ∧ writeData (haulCh wq1 0 3) = some (leBytes 64 0x4000000000000000, false) ∧
    sees (exec (.qin 0 3) wq1) (fun t => t.mesh.map (·.pay) == [.write (.hbm 0x50000) (offsets (leBytes 64 0x4000000000000000)) false (.haul 0 3 0)]) = true ∧
    wo1.mesh.map (·.pay) = [.read (.hbm 0x40000) 64 (.haul 0 3 0)] ∧
    sees (exec (.qout 0 3) wo2) (fun t => (squeue t 0 9).lane == [en 0x0807060504030201] && (haulCh t 0 3).bytes == 64) = true := by decide +kernel
/-- A CRC of the state's check word is written first; then the descriptor completes and the next of the chain follows. -/
theorem test_descriptor_completion : sees (exec (.descriptorCompletion 0 3) (wch 3 0 0x40000 0x50000 8 8 0 0)) (fun t => (haulCh t 0 3).state == 0 && (haulCh t 0 3).done == 1 && t.mesh == []) = true ∧
    sees (exec (.descriptorCompletion 0 3) (wch 3 0 0x40000 0x50000 8 8 0x08 0x200000)) (fun t => (haulCh t 0 3).state == 3 && (haulCh t 0 3).checkTag == some 0 &&
      t.mesh.map (·.pay) == [.write (.hbm 0x60000) (offsets [0x87, 0xA9, 0xCB, 0xED, 0, 0, 0, 0]) false (.haul 0 3 0)]) = true ∧
    sees (exec (.descriptorCompletion 0 3) (modHaul (wch 3 0 0x40000 0x50000 8 8 0x08 0x200000) 0 3 fun c => { c with checked := true })) (fun t => (haulCh t 0 3).state == 1 &&
      (haulCh t 0 3).chain == [(0x200000, [])] && (haulCh t 0 3).done == 1) = true ∧
    sees (exec (.descriptorCompletion 0 3) (wch 3 0 0x40000 0x50000 8 8 (0x40 + 2 * 2 ^ 32) 0)) (fun t => t.mesh.map (·.pay) == [.counter (.core 0 2) false 1 .unit]) = true := by decide +kernel
/-! ### Links and reliability -/

/-- Port 0 in a state, at rate 1. -/
def wk (l : Link) : State := { w with links := [(0, l)] }
def l1 : Link := { Link.init with en := true, rate := 1, state := 1 }
def tr (locked : Bool) (dev : BitVec 8) : TrainResult := { locked := locked, peerDev := dev, peerPort := 2, peerGen := 1, peerRates := 7, peerLanes := 0xFF, passes := [(1, 0), (2, 0)] }

theorem test_training : trainPick l1 (tr true 5) = some (1, 0, 0xFF) ∧ miswired (wk l1) l1 (tr true 5) = false ∧ miswired (wk l1) l1 (tr true 0) = true ∧
    sees (exec (.linkTraining 0 (tr true 5)) (wk l1)) (fun t => (link t 0).state == 2 && (link t 0).runRate == 1 && (link t 0).gotDev == 5 && (link t 0).laneOk == 0xFF) = true ∧
    sees (exec (.linkTraining 0 (tr true 0)) (wk l1)) (fun t => (link t 0).state == 4 && (link t 0).downs == 1) = true ∧
    sees (exec (.linkTraining 0 (tr false 5)) (wk l1)) (fun t => (link t 0).state == 3 && (link t 0).downs == 1) = true ∧
    sees (exec (.linkTrainingRetry 0 (tr true 5)) (wk { l1 with state := 3 })) (fun t => (link t 0).state == 2) = true ∧
    retrains { l1 with state := 2 } .lockLost = true ∧ sees (exec (.linkRetrain 0 .lockLost (tr true 5)) (wk { l1 with state := 2 })) (fun t => (link t 0).retrains == 1 && (link t 0).state == 2) = true := by decide +kernel

/-- A message of node 4 of device 9 for a device, and the flit that carries it. -/
def lm (dst : BitVec 8) (op : LinkOp) : LinkMsg := { srcDev := 9, dstDev := dst, srcNode := 4, dstNode := 0, cls := 3, set1 := false, tag := 7, op := op }
def fl (ok : Bool) (m : LinkMsg) : LinkFlit := { seqno := 0, ackno := 0, credits := [], msgs := [m], crcOk := ok, codewordOk := true, symbols := [] }
/-- Port 0 UP, with two flits that are not acknowledged. -/
def wup : State := { wk { l1 with state := 2, unacked := [(0, lm 9 .ack), (1, lm 9 .ack)] } with dev := { w.dev with routes := [(9, 0x81), (8, 0x81)] } }

theorem test_flits : remoteTarget wup 0x1000 = some (.hbm 0x1000) ∧
    sees (exec (.linkFlit 0 (fl true (lm 0 (.read 0x1000 8)))) wup) (fun t => (link t 0).nextRx == 1 && t.mesh.map (fun y => (y.cls, y.src, y.pay)) == [(3, linkNode 0, .read (.hbm 0x1000) 8 (.link 0 7 9 4))]) = true ∧
    sees (exec (.linkFlit 0 (fl true (lm 0 (.write 0x1000 [(0, 5)] false)))) wup) (fun t => t.mesh.map (·.pay) == [.write (.hbm 0x1000) [(0, 5)] false (.link 0 7 9 4)]) = true ∧
    sees (exec (.linkFlit 0 (fl true (lm 0 (.counter (BitVec.ofNat 18 (0 * 64 + 2)) false 1)))) wup) (fun t => t.mesh.length == 1) = true ∧
    sees (exec (.linkFlit 0 (fl false (lm 0 (.read 0x1000 8)))) wup) (fun t => (link t 0).nextRx == 0 && (link t 0).needReplay == some 0 && t.mesh == []) = true := by decide +kernel
theorem test_routed_and_answers : (routePort wup 9).isSome = true ∧ sees (exec (.linkFlit 0 (fl true (lm 9 (.read 0x1000 8)))) wup) (fun t => t.mesh.map (·.pay) == [.overLink (lm 9 (.read 0x1000 8))]) = true ∧
    sees (exec (.linkFlit 0 (fl true (lm 0 (.data [1, 2] false)))) { wup with inbox := [{ msg (.read (.remote 9 0x1000) 2 (.access 0 0)) with id := 7, dst := linkNode 1 }] }) (fun t =>
      t.inbox == [] && t.mesh.map (·.pay) == [.data [1, 2] false 4 (.access 0 0)]) = true := by decide +kernel
theorem test_replay : sees (exec (.replayRequest 0 1 false false) wup) (fun t => ((link t 0).unacked.map (·.1)) == [1] && (link t 0).replay == 1) = true ∧
    sees (exec (.replayRequest 0 1 true false) wup) (fun t => (link t 0).needReplay == some 0 && (link t 0).unacked.length == 2) = true := by decide +kernel

/-- A read of another device that waits at a port node, with the port down and its message queued since count 0. -/
def wrem (ticks : Nat) : State :=
  modNode (modNode { wk { l1 with state := 3, queue := [({ lm 9 (.read 0x1000 2) with srcDev := 0, tag := 7 }, 0)] } with inbox := [{ msg (.read (.remote 9 0x1000) 2 (.access 0 0)) with id := 7, dst := linkNode 0 }] }
    (linkNode 0) fun x => { x with pacer := BitVec.ofNat 64 ticks }) 1 fun x => { x with pacer := BitVec.ofNat 64 ticks }

theorem test_remote_limits : sees (exec (.linkWaitDiscard 0 0) (wrem 1048576)) (fun t => (link t 0).queue == [] && (link t 0).discards == 1 && t.mesh.map (·.pay) == [.error 8 (.access 0 0)] && t.inbox == []) = true ∧
    sees (exec (.remoteResponseTimeout 7) (wrem 2097153)) (fun t => t.mesh.map (·.pay) == [.error 8 (.access 0 0)]) = true ∧ nx (exec (.remoteResponseTimeout 7) (wrem 2097152)) = some (wrem 2097152) := by decide +kernel
theorem test_incoming : sees (exec (.incomingAccess 1 0) (at_ wh (.read (.hbm 0x1000) 1 (.link 0 7 9 4)))) (fun t => t.mesh.map (·.pay) == [.data [0x5A] false 3 (.link 0 7 9 4)]) = true ∧
    sees (exec (.incomingAccess 1 0) (at_ wh (.write (.store 0 0x104) [(0, 6)] false (.link 0 7 9 4)))) (fun t => storeByte t 0 0x104 == 6 && t.mesh.map (·.pay) == [.ack (.link 0 7 9 4)]) = true ∧
    incomingRefused wh (.store 0 0x78000) = true ∧ sees (exec (.incomingAccess 1 0) (at_ wh (.read (.store 0 0x78000) 8 (.link 0 7 9 4)))) (fun t => t.mesh.map (·.pay) == [.error 8 (.link 0 7 9 4)]) = true ∧
    sees (exec (.incomingAccess 1 0) (at_ wq (.counter (.core 0 2) false 3 (.link 0 7 9 4)))) (fun t => cellValue t (.core 0 2) == 8 && t.mesh.map (·.pay) == [.ack (.link 0 7 9 4)]) = true := by decide +kernel

/-- w with counts in the reliability window and a changed Unit Record. -/
def wrel (ticks : Nat) : State := { modDev w fun d => { d with window := [(5, 2)], ticks := ticks } with units := [(5, { UnitRec.init with corr := 3, due := some 0 })] }

theorem test_reliability : (let p := policy w 0x0101; sees (exec .reliabilityWindow (wrel p)) (fun t => t.dev.window == [] && t.dev.windowStart == p) = true ∧ nx (exec .reliabilityWindow (wrel (p - 1))) = some (wrel (p - 1))) ∧
    sees (exec (.unitRecordFlush 5) (wrel 0)) (fun t => t.flash.records == [(5, { UnitRec.init with corr := 3 })]) = true := by decide +kernel
theorem test_parity : nx (exec (.paritySweep 0 none) w) = some w ∧ pacersRun w = true ∧
    sees (exec (.paritySweep 0 (some 0x70008)) (modNode w 0 fun x => { x with calValid := true, period := 5 })) (fun t => !(node t 0).calValid && (node t 0).period == 0x007A1200 && (node t 0).errFlags == 4 && (node t 0).cntParity == 1) = true ∧
    sees (exec (.paritySweep 0 (some 0x090100)) w) (fun t => (Machine.core t 1).ctrDead && (unitRec t (unitName 2 0)).uncorr == 1) = true := by decide +kernel
/-! ### Event rings and the host -/

def rec0 : Record := { ring := 0, ty := 3, scls := 1, srcid := 5, seqno := 9, ctx := some 0, w3 := 1, w4 := 2, w5 := 3, w6 := 4, w7 := 5, prio := 0, spilled := false }
def ev0 : EvRing := { EvRing.init with en := true, base := 0x200000, vector := 3 }
/-- w with the link of port 0 up, and context 0's event ring. -/
def wev (e : EvRing) (buf : List Record) : State := { w with ports := [(0, { Port.init with linkUp := true, stamp := 77, buf := buf, unmasked := [3] })], evrings := [(0, e)] }
/-- The record delivered at port 0's node. -/
def wrec (e : EvRing) (buf : List Record) : State := { wev e buf with inbox := [{ msg (.record rec0) with dst := portNode 0 }] }

theorem test_event_record : hostReaches (wev ev0 []) 0 = true ∧ evFn (wev ev0 []) 0 = 0 ∧ held (wrec ev0 []) (portNode 0) = false ∧
    sees (exec (.eventRecord 1) (wrec ev0 [])) (fun t => (evring t 0).written == 1 && hostWord t 0 0x200000 == 0x8000004000050103 && hostWord t 0 0x200008 == 9 && hostWord t 0 0x200010 == 77 &&
      hostWord t 0 0x200018 == 1 && hostWord t 0 0x200038 == 5 && hostWord t 0 0x200040 == 0 && t.inbox == []) = true ∧
    sees (exec (.eventRecord 1) (wrec { ev0 with written := 64, head := 1, drops := 2 } [])) (fun t => (evring t 0).written == 65 && (evring t 0).drops == 0 && hostWord t 0 0x200000 == 0x0000004000050103 &&
      hostWord t 0 0x200008 == 0x0000000200000009) = true ∧
    sees (exec (.eventRecord 1) (wrec { ev0 with written := 64 } [])) (fun t => (port t 0).buf == [rec0] && t.hostMem == []) = true ∧
    sees (exec (.eventRecord 1) (wrec ev0 (List.replicate 384 rec0))) (fun t => (evring t 0).spilled == [({ rec0 with spilled := true }, 0)] && (port t 0).buf.length == 384 &&
      (List.range 8).map (fun i => hbmByte t (tailingsAddr 0 + i)) == (recordBytes w 0 { rec0 with spilled := true }).take 8) = true ∧
    sees (exec (.eventRecord 1) { wrec ev0 [] with ports := [] }) (fun t => t.inbox == [] && t.hostMem == []) = true := by decide +kernel
theorem tailings_full (l : List (Record × Nat)) (e : l.length = 1048576) : tailingsFree (wrec { ev0 with spilled := l } []) < needSlots 0 := by simp [tailingsFree, wrec, wev, needSlots, e]
theorem test_tailings_full : ∃ e, tailingsFree (wrec e []) < needSlots 0 := ⟨_, tailings_full (List.replicate 1048576 (rec0, 0)) List.length_replicate⟩
theorem test_event_rings : sees (exec (.tailings 0) (wev { ev0 with written := 3, spilled := [({ rec0 with spilled := true }, 0)], firstSpill := 55 } [])) (fun t => (evring t 0).written == 5 && (evring t 0).spilled == [] &&
      (hostWord t 0 0x2000C0).toNat % 256 == 14 && hostWord t 0 0x2000D8 == 1 && hostWord t 0 0x2000E0 == 55 && (hostWord t 0 0x200100).toNat % 256 == 3 && bit (hostWord t 0 0x200100).toNat 39) = true ∧
    sees (exec (.dropped 0) (wev { ev0 with dropPrio := [1, 2, 3] } [])) (fun t => (evring t 0).dropPrio == [0, 0, 0] && t.mesh.length == 1) = true ∧
    sees (exec (.ringHeadPoll 0 7) (modNode (wev { ev0 with written := 64 } []) (portNode 0) fun x => { x with pacer := 256 })) (fun t => (evring t 0).head == 7 && (evring t 0).lastPoll == 256) = true ∧
    nx (exec (.ringHeadPoll 0 7) (modNode (wev { ev0 with written := 64 } []) (portNode 0) fun x => { x with pacer := 255 })) = some (modNode (wev { ev0 with written := 64 } []) (portNode 0) fun x => { x with pacer := 255 }) ∧
    sees (exec (.msiXMessage 0) (wev { ev0 with sinceMsg := 1 } [])) (fun t => (port t 0).sent == [3] && (evring t 0).sinceMsg == 0) = true ∧
    sees (exec (.msiXMessage 0) (wev { ev0 with sinceMsg := 1, vector := 4 } [])) (fun t => (port t 0).sent == [] && (port t 0).pendingVec == [4]) = true ∧
    nx (exec (.msiXMessage 0) (wev ev0 [])) = some (wev ev0 []) := by decide +kernel
theorem test_msix : sees (exec (.msiXUnmask 0 0 127) (modPort (wev ev0 []) 0 fun p => { p with pendingVec := [127] })) (fun t => (port t 0).sent == [127] && (port t 0).unmasked == [3, 127]) = true ∧
    sees (exec (.msiXUnmask 0 1 7) (wev ev0 [])) (fun t => (port t 0).sent == [] && NSet.has (port t 0).unmasked 135) = true ∧ sees (exec (.msiXUnmask 0 1 8) (wev ev0 [])) (fun t => t == wev ev0 []) = true ∧
    sees (exec (.d3hot 0 0 true) (wev ev0 [])) (fun t => inD3 t 0 0) = true ∧
    sees (exec (.d3hot 0 0 false) (modPort (wev ev0 []) 0 fun p => { p with d3 := [0], pendingVec := [3, 4] })) (fun t => !inD3 t 0 0 && (port t 0).sent == [3] && (port t 0).pendingVec == [4]) = true := by decide +kernel

/-- Port 0 with its aperture at 64 (stack 1), and bytes of HBM at 2 ^ 36 + 64. -/
def wbar : State := { modPort (wev ev0 []) 0 fun p => { p with aperture := 64 } with hbm := cells (hbmLoc w (2 ^ 36 + 64)) [1, 2, 3, 4, 5, 6, 7, 8] }

theorem test_bar2 : lineLocked wbar (.hbm (2 ^ 36 + 64)) = false ∧ homePoison wbar (.hbm (2 ^ 36 + 64)) = false ∧ memWf wbar.hbm = true ∧
    sees (exec (.bar2Read 0 0 64 3 e0) wbar) (fun t => (port t 0).answer == [1, 2, 3] && (port t 0).answerStatus == 0) = true ∧
    sees (exec (.bar2Read 0 0 (2 ^ 36) 1 e0) wbar) (fun t => (port t 0).answerStatus == 1 && (port t 0).aer == [1]) = true ∧
    sees (exec (.bar2Write 0 0 72 [9, 8] true) wbar) (fun t => hbmByte t (2 ^ 36 + 72) == 9 && hbmByte t (2 ^ 36 + 73) == 8 && hbmByte t (2 ^ 36 + 71) == 8 && homePoison t (.hbm (2 ^ 36 + 64))) = true ∧
    sees (exec (.bar2Write 0 0 (2 ^ 36) [9] false) wbar) (fun t => (port t 0).aer == [2] && t.hbm == wbar.hbm) = true ∧
    sees (exec (.atomicop 0 0 64 .fetchAdd 32 0xFFFFFFFF 0) wbar) (fun t => (port t 0).answer == [1, 2, 3, 4] && hbmByte t (2 ^ 36 + 64) == 0 && hbmByte t (2 ^ 36 + 65) == 2 && hbmByte t (2 ^ 36 + 68) == 5) = true ∧
    sees (exec (.atomicop 0 0 64 .cas 64 7 0x0807060504030201) wbar) (fun t => (port t 0).answer == [1, 2, 3, 4, 5, 6, 7, 8] && hbmByte t (2 ^ 36 + 64) == 7 && hbmByte t (2 ^ 36 + 65) == 0) = true ∧
    sees (exec (.atomicop 0 0 64 .cas 32 7 0) wbar) (fun t => (port t 0).answerStatus == 2) = true := by decide +kernel
theorem test_front_window : sees (exec (.frontWindowRead 0 0 0x008 8) (modPort (wev ev0 []) 0 fun p => { p with nctxCopy := [(0, 2)], stateCopy := 3, goodCopy := 5 })) (fun t =>
      (port t 0).answer == [3, 2, 0, 0, 5, 0, 0, 0]) = true ∧ sees (exec (.frontWindowRead 0 16 0x040 8) (wev ev0 [])) (fun t => (port t 0).answer == List.replicate 8 0) = true ∧
    sees (exec (.frontWindowRead 0 0 0x018 3) (wev ev0 [])) (fun t => (port t 0).answerStatus == 1) = true := by decide +kernel
theorem test_bar0_registers : sees (exec (.apertureBase 0 0x1FFF) (wev ev0 [])) (fun t => (port t 0).aperture == 0x3FF) = true ∧ sees (exec (.nodesel 0 0x105) (wev ev0 [])) (fun t => (port t 0).nodesel == 5) = true ∧
    sees (exec (.apertureWrite 0 0x10 8 2) (modNode (wev ev0 []) 0 fun x => { x with errFlags := 7 })) (fun t => (node t 0).errFlags == 5) = true ∧
    sees (exec (.apertureWrite 0 0x10 8 2) (modDev (wev ev0 []) fun d => { d with primary := 1 })) (fun t => (node t 0).errFlags == 8 && (port t 0).aer == [2]) = true := by decide +kernel

/-- An access to host memory delivered at port 0's node. -/
def wht (pay : Payload) (ticks : BitVec 64) : State := modNode { wev ev0 [] with inbox := [{ msg pay with dst := portNode 0 }] } (portNode 0) fun x => { x with pacer := ticks }
theorem test_host_limits : sees (exec (.hostWriteTimeout 1) (wht (.write (.host 0 0x1000) [(0, 1)] false (.access 8 2)) 1048577)) (fun t => t.mesh.map (·.pay) == [.error 8 (.access 8 2)] && t.inbox == []) = true ∧
    sees (exec (.hostWriteTimeout 1) (wht (.write (.host 0 0x1000) [(0, 1)] false (.access 8 2)) 1048576)) (fun t => t.mesh == []) = true ∧
    sees (exec (.completionTimeout 1) (wht (.read (.host 0 0x1000) 4 (.access 8 2)) 0)) (fun t => t.mesh.map (·.pay) == [.error 8 (.access 8 2)] && (port t 0).aer == [4]) = true := by decide +kernel

/-- The PAGE fault of that request. -/
def pf : Exn := { code := 16, engine := 0, info := 0, faddr := 0x50000 }
/-- A translation of host page 0x50000 that bench 0 holds, and a request of thread 0 that a host has not answered. -/
def pr (pri : Bool) : PageReq := { ctx := 0, node := portNode 0, vpage := 5, hostPage := 0x50000, core := 0, thr := 0, write := false, pri := pri, since := 0, why := .instr pf }
def wats (pri : Bool) (ticks : BitVec 64) : State :=
  modNode { modBench (modThr (wev ev0 []) 0 fun t => { t with wait := some (.pri 6) }) 0 (fun b => { b with tu := [{ ctx := 0, vpage := 5, log2 := 16, pte := 0x20000050005, ats := some (0x50000, 0x50000) }] }) with pageReqs := [(6, pr pri)] }
    (portNode 0) fun x => { x with pacer := ticks }
theorem test_ats : (wats false 0).cores.all (fun e => e.2.sb.isEmpty) = true ∧
    sees (exec (.atsInvalidation 0 0 0x50000 1) (wats false 0)) (fun t => (bench t 0).tu == []) = true ∧
    sees (exec (.atsInvalidation 0 0 0x60000 1) (wats false 0)) (fun t => (bench t 0).tu.length == 1) = true ∧
    sees (exec (.atsInvalidation 0 1 0x50000 1) (wats false 0)) (fun t => (bench t 0).tu.length == 1) = true ∧
    sees (exec (.atsResponse 6 true true false 0x50000 65536) (wats false 0)) (fun t => (thr t 0).wait == none && t.pageReqs == []) = true ∧
    sees (exec (.atsResponse 6 false false false 0 0) (wats false 9)) (fun t => (thr t 0).wait.isSome && t.pageReqs.map (fun e => (e.2.pri, e.2.since)) == [(true, 9)]) = true ∧
    sees (exec (.pageResponse 6 true) (wats true 0)) (fun t => (thr t 0).wait == none && (thr t 0).pc == 0x1000) = true ∧
    nx (exec (.pageResponse 6 false) (wats true 0)) = some (faultAt (modThr { wats true 0 with pageReqs := [] } 0 fun t => { t with wait := none }) 0 pf 0x1000) ∧
    nx (exec (.pageRequestTimeout 6) (wats true 1048576)) = some (faultAt (modThr { wats true 1048576 with pageReqs := [] } 0 fun t => { t with wait := none }) 0 pf 0x1000) ∧
    nx (exec (.pageRequestTimeout 6) (wats true 1048575)) = some (wats true 1048575) ∧
    sees (exec (.atsInvalidation 0 0 0x50000 1) (wats false 0)) (fun t => (port t 0).invDone == [(0, 0x50000, 1)]) = true ∧
    rangeInUse (wats false 0) 0 (5 * 65536) 65536 = false ∧ hostReaches (wats false 0) 0 = true := by decide +kernel
/-- The request of channel 3 of node 0, which waits for its page. -/
def wch_ (pri : Bool) : State := { modHaul (wats pri 0) 0 3 fun c => { c with page := .asked } with pageReqs := [(6, { pr pri with node := 0, why := .chain 3 })] }
theorem test_ats_chain : sees (exec (.atsResponse 6 true true true 0x50000 65536) (wch_ false)) (fun t => (haulCh t 0 3).page == .idle && t.pageReqs == []) = true ∧
    sees (exec (.pageResponse 6 true) (wch_ true)) (fun t => (haulCh t 0 3).page == .idle) = true ∧ sees (exec (.pageResponse 6 false) (wch_ true)) (fun t => (haulCh t 0 3).page == .refused) = true := by decide +kernel
/-! ### Rings, groups and the commands for kernels -/

def r0 : RingRef := { port := 0, fn := 0, ring := 0 }
/-- A generation-3 packet with tag 7: opcode, context, group, flags, parameters. -/
def pk (op ctx group flags : Nat) (l : List W64) : Packet := (BitVec.ofNat 64 (op + 3 * 256 + ctx * 1024 + 7 * 65536 + group * 2 ^ 32 + flags * 2 ^ 40) :: l) ++ List.replicate (7 - l.length) 0
def rg0 : Machine.Ring := { ring w 0 with en := true, log2n := 4, gen := 3 }
/-- wev with ring 0 of port 0, and both event rings. -/
def wring (r : Machine.Ring) : State := { wev ev0 [] with rings := [(0, r)], evrings := [(0, ev0), (64, { ev0 with base := 0x300000 })] }
/-- A packet read and dispatched. -/
def wcmd (p : Packet) : State := wring { rg0 with cur := some p }
/-- The last message is the packet's COMPLETION on an event ring. -/
def ends (t : State) (rg op status reason : Nat) (w4 : W64) : Bool :=
  (ring t 0).cur == none && (match t.mesh.getLast? with
    | some y => (match y.pay with | .record x => x.ring == rg && x.ty == 1 && x.w3 == BitVec.ofNat 64 (7 + op * 2 ^ 16 + status * 2 ^ 24 + reason * 2 ^ 40) && x.w4 == w4 | _ => false)
    | none => false)
/-- A command ends with a status and an answer. -/
def ends' (o : Out) (rg op status reason : Nat) (w4 : W64) : Bool := sees o fun t => ends t rg op status reason w4
/-- `Begins`, as one test. -/
def beginsB (p : Packet) (s : State) : Bool := cmdAwake s 0 p && fwTurn s 0 p && headerStatus s 0 p == none

theorem begins_of {p : Packet} {s : State} (h1 : ring s 0 = { rg0 with cur := some p }) (h2 : beginsB p s = true) (h3 : pktGroup p = 0 ∨ pktOp p = 0x38) : Begins r0 (pktOp p) p s := by
  simp only [beginsB, Bool.and_eq_true, beq_iff_eq] at h2
  have e : ringKey r0 = 0 := by decide
  simp only [Begins, e, h1]
  exact ⟨trivial, trivial, rfl, rfl, h3, h2.1.1, h2.1.2, h2.2⟩
theorem test_begins : Begins r0 0x01 (pk 1 0 0 0 [0x5000]) (wcmd (pk 1 0 0 0 [0x5000])) := begins_of (by decide +kernel) (by decide +kernel) (by decide)

theorem test_ring_registers : sees (exec (.doorbell r0 16) (wring rg0)) (fun t => (ring t 0).tail == 16 && !(ring t 0).badtail) = true ∧
    sees (exec (.doorbell r0 17) (wring rg0)) (fun t => (ring t 0).tail == 0 && (ring t 0).badtail) = true ∧
    sees (exec (.ringCtl r0 (1 + 2 * 11 + 32 * 3)) (wring { rg0 with en := false, head := 9 })) (fun t => (ring t 0).en && (ring t 0).log2n == 11 && (ring t 0).gen == 3 && (ring t 0).head == 0) = true ∧
    sees (exec (.ringCtl r0 (1 + 2 * 12 + 32 * 3)) (wring { rg0 with en := false })) (fun t => !(ring t 0).en && (ring t 0).cfgerr) = true ∧
    sees (exec (.evrCtl 0 (1 + 2 * 20 + 2 ^ 8 * 5 + 2 ^ 32 * 9)) (modEvring (wring rg0) 64 fun e => { e with en := false })) (fun t => (evring t 64).en && (evring t 64).log2n == 20 && (evring t 64).vector == 5 && (evring t 64).modcount == 9) = true := by decide +kernel
theorem test_packet_read : answerPending (wring { rg0 with tail := 1 }) 0 = false ∧
    sees (exec (.packetRead r0 (pk 1 0 0 0 [0x5000])) (wring { rg0 with tail := 1 })) (fun t => (ring t 0).cur == some (pk 1 0 0 0 [0x5000]) && (ring t 0).head == 1) = true ∧
    ends' (exec (.packetRead r0 (BitVec.ofNat 64 (2 * 256 + 7 * 65536) :: List.replicate 7 0)) (wring { rg0 with tail := 1 })) 64 0 1 0 0 = true ∧
    ends' (exec (.packetRead r0 (pk 0xFF 0 0 0 [])) (wring { rg0 with tail := 1 })) 0 0xFF 2 0 0 = true ∧
    sees (exec (.packetReadRetry r0) (wring { rg0 with tail := 1, attempts := 1 })) (fun t => (ring t 0).attempts == 2 && (ring t 0).en) = true ∧
    sees (exec (.packetReadRetry r0) (wring { rg0 with tail := 1, attempts := 2 })) (fun t => !(ring t 0).en && (ring t 0).rderr) = true := by decide +kernel

/-- A packet dispatched while group 5 is open. -/
def wgrp (p : Packet) (ms : List (Packet × Nat)) : State := wring { rg0 with cur := some p, group := some (5, ms) }
theorem test_groups : ends' (exec (.nop r0) (wcmd (pk 0 0 0 0 []))) 64 0 0 0 0 = true ∧
    sees (exec (.groupOpen r0) (wcmd (pk 0x38 0 5 0 []))) (fun t => ends t 64 0x38 0 0 0 && (ring t 0).group == some (5, [])) = true ∧
    sees (exec (.map r0) (wgrp (pk 0x18 0 5 0 [0x10000]) [])) (fun t => (ring t 0).group == some (5, [(pk 0x18 0 5 0 [0x10000], 9)]) && t.mesh == []) = true ∧
    sees (exec (.nop r0) (wgrp (pk 0 0 0 0 []) [])) (fun t => ends t 64 0 20 0 0 && (ring t 0).group == none) = true ∧
    sees (exec (.groupClose r0 e0) (wgrp (pk 0x39 0 5 0 []) [])) (fun t => ends t 64 0x39 0 0 0 && (ring t 0).group == none) = true ∧
    policyRange 0x0208 0 = true ∧ vminAbove (wgrp [] []) 0x0208 0 = false ∧ headerStatus (wgrp [] []) 0 (pk 0x31 0 5 0 [0x0208, 0]) = none ∧
    sees (exec (.groupClose r0 e0) (wgrp (pk 0x39 0 5 0 []) [(pk 0x31 0 5 0 [0x0208, 0], 0)])) (fun t => policy t 0x0208 == 0 && (ring t 0).group == none) = true ∧
    policyRange 0x0208 2 = false ∧ sees (exec (.groupClose r0 e0) (wgrp (pk 0x39 0 5 0 []) [(pk 0x31 0 5 0 [0x0208, 2], 0)])) (fun t => t.dev == (wgrp [] []).dev && (ring t 0).group == none) = true ∧
    sees (exec (.groupClose r0 e0) (wgrp (pk 0x39 0 5 0 []) [(pk 0x31 0 5 0 [0x0208, 0], 9)])) (fun t => t.dev == (wgrp [] []).dev && (ring t 0).group == none) = true := by decide +kernel

/-- A LAUNCH of context 0 dispatched, its core still, in a mode. -/
def wlaunch (mode pc : Nat) : State :=
  { wcmd (pk 1 0 0 0 [BitVec.ofNat 64 pc, 0x77]) with threads := [], cores := [(0, { Core.init with mode := mode, ctx := some 0 })], ctxs := [(0, { cx with mode := mode })], nodes := [(0, { Node.init with gated := true })] }
def lr0 : Launch := { ring := r0, ctx := 0, tag := 7, cores := [0], lost := [], report := 0, cap := 0, stopped := false, flush := none }
/-- The launch under way. -/
def wrun (ended : Bool) : State := { wring { rg0 with cur := some (pk 1 0 0 0 [0x5000]), st := .launched } with threads := [], launches := [lr0], cores := [(0, { Core.init with mode := 2, ctx := some 0, kernel := some r0, partEnded := ended })] }

theorem test_launch : launchCores cx (pk 1 0 0 0 [0x5000]) = some [0] ∧ goodCore (wlaunch 2 0x5000) 0 = true ∧ (List.range 32).all (fun q => !portLive (wlaunch 2 0x5000) 0 q) = true ∧
    sees (exec (.launch r0) (wlaunch 2 0x5000)) (fun t => (thr t 0).run == .running && (thr t 0).pc == 0x5000 && (thr t 1).pc == 0x5004 && rx t 1 10 == 0x77 && (thr t 2).run == .ended && !(node t 0).gated &&
      t.launches == [{ lr0 with report := 0 }] && (ring t 0).st == .launched) = true ∧
    sees (exec (.launch r0) (wlaunch 8 0x5000)) (fun t => (thr t 0).run == .running && (thr t 0).pc == 0x5000 && (thr t 7).run == .held) = true ∧
    ends' (exec (.launch r0) (wlaunch 2 0x5001)) 0 1 9 0 0 = true ∧
    ends' (exec (.launch r0) (modCore (wlaunch 2 0x5000) 0 fun x => { x with kernel := some r0 })) 0 1 23 0 0 = true := by decide +kernel
theorem test_launch_completion : launchOf (wrun true) 0 = some lr0 ∧ cachesReady (wrun true) [0] = true ∧ haltedThreads (wrun true) lr0 = [] ∧
    kernelOwed (wrun true) lr0 = false ∧
    sees (exec (.launchCompletion r0 e0) (wrun true)) (fun t => t.launches == [{ lr0 with flush := some [] }] && (ring t 0).cur.isSome) = true ∧
    sees (exec (.launchCompletion r0 e0) { wrun true with launches := [{ lr0 with flush := some [1] }] }) (fun t => t.launches == [{ lr0 with flush := some [3] }] &&
      t.mesh.map (·.pay) == [.read (.host 1 0) 0 (.kernelFlush 0 1)]) = true ∧
    sees (exec (.launchCompletion r0 e0) { wrun true with launches := [{ lr0 with flush := some [] }] }) (fun t => ends t 0 1 0 0 0 && t.launches == [] && (Machine.core t 0).kernel == none) = true ∧
    nx (exec (.launchCompletion r0 e0) (wrun false)) = some (wrun false) := by decide +kernel
/-- A STOP on ring 1 of the launch on ring 0. -/
def wstop (tag : Nat) : State := { wrun false with rings := [(0, (ring (wrun false) 0)), (1, { rg0 with cur := some (pk 0x21 0 0 0 [BitVec.ofNat 64 (tag * 2 ^ 16)]) })], threads := [(0, { Thread.init with run := .running })] }
def r1 : RingRef := { port := 0, fn := 0, ring := 1 }
theorem test_stop : sees (exec (.stop r1) (wstop 7)) (fun t => (ring t 1).st == .halting && (thr t 0).run == .ended && (Machine.core t 0).partEnded) = true ∧
    sees (exec (.stop r1) (wstop 8)) (fun t => (ring t 1).cur == none && t.mesh.length == 1 && (thr t 0).run == .running) = true := by decide +kernel

theorem test_debug : namedCores (wcmd (pk 0x40 0 0 0 [0])) 0 cx 0 = some [0] ∧
    sees (exec (.halt r0) (wcmd (pk 0x40 0 0 0 [0]))) (fun t => ends t 0 0x40 0 0 0 && (thr t 0).dbg && (thr t 1).dbg && !(thr t 2).dbg) = true ∧
    sees (exec (.resume r0) (modThr (wcmd (pk 0x41 0 0 0 [0])) 0 fun t => { t with dbg := true })) (fun t => ends t 0 0x41 0 0 0 && !(thr t 0).dbg) = true ∧
    ends' (exec (.readState r0 e0) (wcmd (pk 0x42 0 0 0 [0, 0x40000]))) 0 0x42 9 0 0 = true := by decide +kernel

/-- A WAIT for cell 7 of weighbridge 1 in progress, since count 0 with a limit. -/
def wwait (met : Bool) (limit : Nat) : State := wring { rg0 with cur := some (pk 3 0 0 0 [3, 9]), st := .waiting (.wb 1 7) 9 met 0 limit }
/-- A FENCE in progress. -/
def wfen (todo : List Nat) : State := { wring { rg0 with cur := some (pk 4 0 0 0 []), st := .fenced todo } with evrings := [(0, { ev0 with fence := 2 }), (64, ev0)] }
/-- Name 3 of context 0 is cell 7 of weighbridge 1. -/
def wwb (p : Packet) (v : BitVec 48) : State := { wcmd p with ctxs := [(0, { cx with virt := true, wbHeld := [(8192 + 7) * 2] })], wbCells := [(8192 + 7, v)], hbm := words8 0xFFF4000018 [2 ^ 63 + 2 ^ 60 + 8192 + 7] }

theorem test_signal : resolveName (wcmd []) 0 1 none none 2 = .ok (.core 0 2) ∧ resolveName (wcmd []) 0 1 none none 0x100 = .bad 2 ∧
    sees (exec (.signal r0) (wcmd (pk 2 0 0 1 [2, 0]))) (fun t => ends t 0 2 0 0 0 && cellValue t (.core 0 2) == 1 && (Machine.core t 0).irqHost == some 0) = true ∧
    sees (exec (.signal r0) (wcmd (pk 2 0 0 0 [2, 0xFFFFFFFF]))) (fun t => cellValue t (.core 0 2) == 0xFFFFFFFF && (Machine.core t 0).irqHost == none) = true ∧
    ends' (exec (.signal r0) (wcmd (pk 2 0 0 0 [0x100, 0]))) 0 2 9 2 0 = true := by decide +kernel
/-- Name 3 of context 0 is cell 7 of weighbridge 1 of device 9. -/
def wfar (p : Packet) (routes : Tbl (BitVec 8)) : State :=
  { modDev (wcmd p) fun d => { d with routes := routes } with ctxs := [(0, { cx with virt := true })], hbm := words8 0xFFF4000018 [2 ^ 63 + 2 ^ 60 + 2 ^ 59 + 9 * 2 ^ 51 + 8192 + 7] }
theorem test_signal_remote : resolveName (wfar [] []) 0 1 none none 3 = .ok (.remote 9 (2 ^ 17 + 8192 + 7)) ∧
    sees (exec (.signal r0) (wfar (pk 2 0 0 0 [3, 4]) [(9, 0x81)])) (fun t => (ring t 0).st == .signalled && t.mesh.map (·.pay) == [.counter (.remote 9 (2 ^ 17 + 8192 + 7)) false 4 (.signal 0)]) = true ∧
    ends' (exec (.signal r0) (wfar (pk 2 0 0 0 [3, 4]) [])) 0 2 10 1 0 = true := by decide +kernel
theorem test_wait : resolveName (wwb [] 9) 0 1 none none 3 = .ok (.wb 1 7) ∧ sees (exec (.wait r0) (wwb (pk 3 0 0 0 [3, 9]) 9)) (fun t => ends t 0 3 0 0 9) = true ∧
    sees (exec (.wait r0) (wwb (pk 3 0 0 0 [3, 9]) 8)) (fun t => (ring t 0).st == .waiting (.wb 1 7) 9 false 0 0 && t.mesh == []) = true ∧
    ends' (exec (.wait r0) (wwait true 0)) 0 3 0 0 0 = true ∧ nx (exec (.wait r0) (wwait false 0)) = some (wwait false 0) ∧
    ends' (exec (.waitTimeout r0) (modNode (wwait false 6) (wbNode 1) fun x => { x with pacer := 6 })) 0 3 12 0 0 = true ∧ nx (exec (.waitTimeout r0) (wwait false 6)) = some (wwait false 6) := by decide +kernel
theorem test_fence : sees (exec (.fence r0) (wcmd (pk 4 0 0 0 []))) (fun t => (ring t 0).st == .fenced [] && t.mesh == []) = true ∧
    sees (exec (.fenceDone r0) (wfen [])) (fun t => (ring t 0).cur == none && (evring t 0).fence == 0 && (match t.mesh.map (·.pay) with | [Payload.record x] => x.ty == 2 && x.w4 == 2 | _ => false)) = true ∧
    (let s := { wfen [4] with mesh := [{ msg (.record rec0) with id := 4 }] }; outstanding s 0 ≠ [] ∧ ((outstanding s 0).contains 4 = true → nx (exec (.fenceDone r0) s) = some s)) := by decide +kernel
/-! ### Commands for contexts, memory, regions and the device -/

/-- A part whose bench 0 has one good core. -/
def one (s : State) : State := modDev s fun d => { d with fenceMap := (List.range 7).map fun i => unitName 1 (i + 1) }
/-- A context's block: bench 0 granted, nothing else set. -/
def blk : List Byte := leBytes 8 1 ++ List.replicate 120 0
/-- A CTX_CREATE: PASID 5, an event ring of 2⁶ at 0x300000, and the block at 0x400000. -/
def pc : Packet := pk 0x10 0 0 0 [5 + 6 * 2 ^ 24, 0x300000, 0x400000]
def wnew : State := { one (wcmd pc) with threads := [], cores := [], ctxs := [], evrings := [(64, { ev0 with base := 0x300000 })] }
def eb : Ext := { data := blk, poison := false, code := 0 }

theorem test_create_premises : (match hostBytes wnew 0 0x400000 128 eb with | .ok (b, e) => b == blk && e.data == [] && createBad wnew 0 pc (some b) == none | _ => false) = true ∧ beginsB pc wnew = true ∧
    blockGrant blk = [0] ∧ outstanding wnew 0 = [] ∧ cachesReady wnew [0] = true ∧ usedFrames wnew = [] ∧ portLive wnew 7 31 = false := by decide +kernel
theorem test_create : sees (exec (.ctxCreate r0 eb) wnew) (fun t => (ring t 0).cur == none && t.ctxs.map (fun e => (e.1, e.2.pasid, e.2.grant, e.2.lcore, e.2.quiet)) == [(0, 5, [0], [0], 1250000)] &&
      (Machine.core t 0).ctx == some 0 && (evring t 0).en && (evring t 0).log2n == 6 && t.mesh.length == 1) = true := by decide +kernel

/-- Context 0 is still: no thread of it runs. -/
def wctx (p : Packet) : State := { one (wcmd p) with threads := [], slots := [(3, (0, 9)), (4, (1, 9))], coreCells := [(2, 5)] }
theorem test_context_ends : contextStill (stopContext (wctx (pk 0x12 0 0 0 [0])) 0 (some 0) false) 0 = true ∧ contextStill (stopContext (wctx (pk 0x11 0 0 0 [])) 0 (some 0) false) 0 = true ∧
    sees (exec (.ctxReset r0 e0) (wctx (pk 0x12 0 0 0 [0]))) (fun t => ends t 0 0x12 0 0 0 && t.ctxs.map (fun e => (e.1, e.2.thresh, e.2.event, e.2.grant)) == [(0, 0x0148, true, [0])] && cellValue t (.core 0 2) == 0) = true := by decide +kernel

/-- Virtual page 0x1000000 of context 0 is the page 0x40000 of HBM, which holds some bytes. -/
def wpt (p : Packet) (data : List Byte) : State :=
  { wcmd p with
    hbm := ((data.zipIdx.map fun e => (hbmLoc w (0x40000 + e.2), e.1)).filter fun e => e.2 != 0) ++ words8 0xFFC0000000 [0xFFC0010001] ++ words8 0xFFC0010000 [0xFFC0020001] ++
      words8 0xFFC0020040 [0xFFC0030001] ++ words8 0xFFC0030000 [0x40035] }

theorem test_walk_memory : memWf (wpt [] [1, 2]).hbm = true := by decide +kernel
theorem test_walk_address :
    (match agentXlat (wpt [] []) (commandAgent 0) .write 0x1000001 with | .ok y => y.tgt == .hbm 0x40001 | _ => false) = true := by decide +kernel
theorem test_walk : pteAddr (readPte (wpt [] []) (pteAt 0xFFC0020000 0x1000000 21)) = 0xFFC0030000 ∧ pteAt 0xFFC0030000 0x1000000 16 = 0xFFC0030000 ∧ readPte (wpt [] []) 0xFFC0030000 = 0x40035 := by decide +kernel
/-- A second context. -/
def addCtx (s : State) (x : Ctx) : State := { s with ctxs := s.ctxs ++ [(1, x)] }
theorem test_map_check : checkMap (wcmd []) 0 (pk 0x18 0 0 0 [0x1010000, 0x50000, 4 + 2 ^ 8]) = none := by decide +kernel
theorem test_map : sees (exec (.map r0) (wpt (pk 0x18 0 0 0 [0x1010000, 0x50000, 4 + 2 ^ 8]) [])) (fun t => ends t 0 0x18 0 0 0 && readPte t 0xFFC0030008 == 0x50025 && readPte t 0xFFC0030000 == 0x40035) = true := by decide +kernel
theorem test_unmap : sees (exec (.unmap r0) (wpt (pk 0x19 0 0 0 [0x1000000, 0, 2 ^ 8]) [])) (fun t => ends t 0 0x19 0 0 0 && readPte t 0xFFC0030000 == 0) = true := by decide +kernel
theorem test_map_misaligned : ends' (exec (.map r0) (wpt (pk 0x18 0 0 0 [0x1010001, 0x50000, 4 + 2 ^ 8]) [])) 0 0x18 9 0 0 = true := by decide +kernel
theorem test_map_slot : sees (exec (.map r0) (addCtx (wcmd (pk 0x18 0 0 1 [0x100000000, 3 + 2 * 2 ^ 8 + 2 ^ 16])) { cx with fn := 3 })) (fun t => ends t 0 0x18 0 0 0 && t.slots == [(50, (1, 0x100000000))]) = true := by decide +kernel
/-- A MAP of the page beside it; and one of 2 MiB while a page of the host is asked for there. -/
def pmap : Packet := pk 0x18 0 0 0 [0x1010000, 0x50000, 4 + 2 ^ 8]
theorem test_map_waits : (let p := pk 0x18 0 0 0 [0x400000, 0x800000, 4 + 1 + 2 ^ 8]
    let s := { wcmd p with hbm := words8 0xFFC0000000 [0xFFC0010001] ++ words8 0xFFC0010000 [0xFFC0020001], pageReqs := [(6, { pr false with vpage := 0x401000 })] }
    checkMap s 0 p = none ∧ (applyMap s 0 p).isSome = true ∧ mapReady s p = false) := by decide +kernel
/-- Context 0 holds frames, and its root is empty. -/
def wframes (fr : List Nat) : State := { wcmd pmap with ctxs := [(0, { cx with frames := fr })], hbm := [] }
theorem wframes_no_frame {fr : List Nat} (h : ∀ i, i < frameCount → frameAddr i ∈ fr) : newFrame (wframes fr) 0 = none := by
  have e : (List.range frameCount).find? (fun i => !(usedFrames (wframes fr)).contains (frameAddr i)) = none := by
    have u : usedFrames (wframes fr) = fr := List.append_nil fr
    rw [List.find?_eq_none, u]
    intro i hi
    rw [List.contains_iff_mem.mpr (h i (List.mem_range.mp hi))]
    exact Bool.false_ne_true
  unfold newFrame
  simp only [e]
theorem wframes_no_leaf {fr : List Nat} (h : ∀ i, i < frameCount → frameAddr i ∈ fr) (v : Nat) (hv : v ≠ 0) :
    setLeaf 0 0x1010000 16 v [39, 30, 21, 16] (wframes fr) 0xFFC0000000 = none := by
  have b : bit (readPte (wframes fr) (pteAt 0xFFC0000000 0x1010000 39)) 0 = false := by
    have r : readPte (wframes fr) (pteAt 0xFFC0000000 0x1010000 39) = readPte { w with hbm := [] } (pteAt 0xFFC0000000 0x1010000 39) := rfl
    rw [r]
    decide +kernel
  simp only [setLeaf, hv, false_and, if_false, enterTable, b, Bool.false_and, Bool.false_eq_true, wframes_no_frame h]
  rfl
/-- Every frame of the reserve holds a table: there is none for the tables that the page needs. -/
theorem test_map_no_room {fr : List Nat} (h : ∀ i, i < frameCount → frameAddr i ∈ fr) : applyMap (wframes fr) 0 pmap = none := by
  have f : bit (pktFlags pmap) 0 = false := by decide
  have g : Tbl.get? (wframes fr).ctxs 0 = some { cx with frames := fr } := rfl
  have r : List.range (bits (pktP pmap 2).toNat 39 8) = [0] := by decide
  simp only [applyMap, f, Bool.false_eq_true, if_false, setRange, show pktCtx pmap = 0 by decide, g, r, List.foldl_cons, List.foldl_nil, Option.bind_some,
    show (pktP pmap 0).toNat = 0x1010000 by decide, show mapLog2 (pktP pmap 2).toNat = 16 by decide, Nat.zero_mul, Nat.add_zero]
  rw [show cx.root = 0xFFC0000000 from rfl, wframes_no_leaf h _ (by decide)]
theorem wframes_checked : checkMap (wframes []) 0 pmap = none ∧ beginsB pmap (wframes []) = true := by decide +kernel
/-- Such frames there are; the check passes before any is looked for. -/
theorem test_map_no_room_premises : (∀ i, i < frameCount → frameAddr i ∈ (List.range frameCount).map frameAddr) ∧ (∀ fr, checkMap (wframes fr) 0 pmap = none ∧ beginsB pmap (wframes fr) = true) :=
  ⟨fun i hi => List.mem_map.mpr ⟨i, List.mem_range.mpr hi, rfl⟩, fun fr => ⟨(rfl : checkMap (wframes fr) 0 pmap = checkMap (wframes []) 0 pmap).trans wframes_checked.1,
    (rfl : beginsB pmap (wframes fr) = beginsB pmap (wframes [])).trans wframes_checked.2⟩⟩
theorem test_fill_copy : sees (exec (.fill r0 e0) (wpt (pk 0x1B 0 0 0 [0x0201, 0x1000003, 9]) [])) (fun t => ends t 0 0x1B 0 0 9 && hbmByte t 0x40002 == 0 && hbmByte t 0x40003 == 1 && hbmByte t 0x40004 == 2 &&
      hbmByte t 0x40005 == 0 && hbmByte t 0x4000B == 1 && hbmByte t 0x4000C == 0) = true ∧
    sees (exec (.copy r0 e0) (wpt (pk 0x1A 0 0 0 [0x1000000, 0x1000100, 3]) [7, 8, 9, 10])) (fun t => ends t 0 0x1A 0 0 3 && hbmByte t 0x40100 == 7 && hbmByte t 0x40102 == 9 && hbmByte t 0x40103 == 0) = true := by decide +kernel

/-- An image of one section: three bytes for the stores at 0x100. -/
def img1 : List Byte := leBytes 4 0x564F4C50 ++ leBytes 4 1 ++ leBytes 8 16 ++ leBytes 8 1 ++ leBytes 8 0x100 ++ leBytes 8 3 ++ leBytes 8 48 ++ [7, 8, 9]
theorem test_load_image : imageSections img1 = some [{ kind := 1, dest := 0x100, data := [7, 8, 9] }] ∧ imageBad w 0 cx [{ kind := 1, dest := 0x100, data := [7, 8, 9] }] = none ∧
    (match agentBytes (wpt [] img1) (commandAgent 0) 0x1000000 51 e0 with | .ok b p _ _ => b == img1 && !p | _ => false) = true ∧
    sees (exec (.loadImage r0 e0) (wpt (pk 0x20 0 0 0 [0x1000000, 51]) img1)) (fun t => ends t 0 0x20 0 0 0 && (List.range 5).map (fun i => storeByte t 0 (0xFF + i)) == [0, 7, 8, 9, 0]) = true := by decide +kernel

/-- A stream image for bench 0 alone, every queue and unit unused; and one whose rectangle leaves the mesh. -/
def img2 (w0 : Nat) : List Byte := leBytes 8 w0 ++ leBytes 8 24 ++ leBytes 8 40 ++ List.replicate 464 0
/-- The words of the first. -/
def plan2 (x0 w : Nat) : Plan := { ctx := 0, x0 := x0, y0 := 0, w := w, h := 1, ns := 1, first := 0, img := [BitVec.ofNat 64 (x0 + (w - 1) * 256), 24, 40] ++ List.replicate 58 0, parts := if x0 = 0 then [0] else [] }
theorem test_stream_load : (match readImage (wpt [] (img2 0)) 0 0x1000000 e0 with | .ok x _ => x == plan2 0 1 | _ => false) = true ∧ (plan2 0 1).reason (wpt [] (img2 0)) none = none ∧
    (plan2 15 2).reason (wpt [] (img2 0)) none = some 2 ∧ Tbl.free (wcmd []).regions 0 8 = some 0 := by decide +kernel
def wreg (p : Packet) : State := { wcmd p with regions := [(0, rg)] }
theorem test_stream_changes : sees (exec (.streamSection r0) (wreg (pk 0x29 0 0 0 [0]))) (fun t => (ring t 0).st == .changing 0 && t.regions.map (fun e => (e.2.state, e.2.target)) == [(2, some 0)] && (bench t 0).ssState == 2) = true ∧
    ends' (exec (.streamSection r0) (wreg (pk 0x29 0 0 0 [0x10000]))) 0 0x29 9 0 0 = true ∧
    sees (exec (.streamReconfig r0 e0) (wreg (pk 0x2A 0 0 0 [0, 0]))) (fun t => (ring t 0).st == .changing 0 && t.regions.map (fun e => (e.2.state, e.2.unload)) == [(2, true)]) = true := by decide +kernel

theorem test_stream_busy : sees (exec (.streamSection r0) { wcmd (pk 0x29 0 0 0 [0]) with regions := [(0, { rg with state := 2 })] }) (fun t =>
    (ring t 0).st == .begun && t.regions == [(0, { rg with state := 2 })]) = true := by decide +kernel
theorem test_get_info : beginsB (pk 0x30 0 0 0 [0x1000]) (wcmd (pk 0x30 0 0 0 [0x1000])) = true ∧ beginsB (pk 0x32 0 0 0 [0x1000, 5, 128]) (wcmd (pk 0x32 0 0 0 [0x1000, 5, 128])) = true ∧
    (port (wcmd []) 0).linkUp = true ∧ memWf (wcmd []).hostMem = true ∧ unitExists 1 5 = true := by decide +kernel
theorem test_set_policy : policyNumbers.contains 0x0208 = true ∧ sees (exec (.setPolicy r0) (wcmd (pk 0x31 0 0 0 [0x0208, 1]))) (fun t => ends t 64 0x31 0 0 1 && policy t 0x0208 == 1) = true ∧
    ends' (exec (.setPolicy r0) (wcmd (pk 0x31 0 0 0 [0x0208, 2]))) 64 0x31 9 0 (BitVec.ofNat 64 (policy (wcmd []) 0x0208)) = true := by decide +kernel
def un : W64 := BitVec.ofNat 64 (unitName 4 1)
theorem test_fence_unit : unitExists 4 1 = true ∧ sees (exec (.fenceUnit r0) (wcmd (pk 0x33 0 0 0 [un]))) (fun t => ends t 64 0x33 0 0 0 && isFenced t 4 1 && (unitRec t (unitName 4 1)).reason == 5) = true ∧
    sees (exec (.fenceUnit r0) (modDev (wcmd (pk 0x33 0 0 0 [un])) fun d => { d with fenceMap := [unitName 4 1] })) (fun t => ends t 64 0x33 0 0 0) = true ∧
    sees (exec (.unfenceUnit r0) (modDev (wcmd (pk 0x34 0 0 0 [un])) fun d => { d with fenceMap := [unitName 4 1] })) (fun t => ends t 64 0x34 0 0 0 && !isFenced t 4 1) = true ∧
    ends' (exec (.unfenceUnit r0) (wcmd (pk 0x34 0 0 0 [un]))) 64 0x34 9 0 0 = true := by decide +kernel
theorem test_fw_push_refused : imageFail w [1, 2] = 2 ∧ sees (exec (.fwPush r0 { e0 with data := [1, 2] }) (wcmd (pk 0x35 0 0 0 [0x1000, 2]))) (fun t => ends t 64 0x35 22 0 0 && t.dev.fail == 2 && t.flash == w.flash) = true := by decide +kernel
/-- A firmware image signed with a key made for this test: version 5, COMMIT, a body of 1,024 zero octets. -/
def modulus3072 : List Byte :=
  beBytes 128 0xbe059c1ce1cf3666adb50bebdc53f4df01418aef8320fe08e8b69af7e7b1e86f3c373c1297fb0430a41d431bd37e6a50ae932b5942a3214a7aff45652528d74ec8dff458252db3b3bff2fc3e3cc35c3bb0ab0711eab8f5eb1f11010b3a2bcf2fc15b6c7e443fc7f60bd2c85b04556e34e5c2f53a7aaa3b96e3e26fd005f86123 ++
  beBytes 128 0x927dfa1bdc0dd34e04f10cd569102f26c15a0027383fa7f3f10138b4bc85cdb56815889d81ebe29509c951d437f3eb184b8820e70fd20d1795d2a3efb7965a415d4fab3a0c3b6a5feb976c5bedd05f1b9118d0fdf0efe5163d6b87a48af6109ee8afc3ce3f1422754704811a1e2ee55002b7ca55b3fd62abf0ed7679cb854843 ++
  beBytes 128 0x99df2ae3b9e6f9362b0aae854f8808c2a4c8fc04c3f1f62ce46ca79351f75dc0dd0ceffc8fc828be910dec34aa79ca08ccd3c1063ee1fe8a0d80e01c77ada3718f200ace0be22a817413a7377be34509f42050709ae22582a876338ea1f245dde0b07f234352bbc9e2eb45d42f8efae51d9a3c9ccbbf7d5dbe3bbf976b8366bb
def signature3072 : List Byte :=
  beBytes 128 0xaafd24eabbf77d93e4ec2b1654ce97e4ffdb5f3f460940caea32bf578ad235db769f2d3cd133406949686cc71207be32cda741d9a6e18cc545f35f238db8908bf7d85ca13165a761efdac96f97fe9f128785f3aee722c38789c76c085106a000caab417e4a42fb821716c31290ff6b681dee35a45a88ee830c7c002429cf4ead ++
  beBytes 128 0xbe70c76771a291835dfbbe81fd969facbe4677a0e3694d5d4a9c98e7fc0ea45ddac525a0c06c440ab3be51897f580d191612564b0cd167488a19daff8e6fc4451bc1835bdfe577037049349570a0efba955b7f45488b41afab657676ebd110e4fcdeb5425ae95ba2ba0422dd55828e41a04d4e383c2dd06bc4ee4e918d23e089 ++
  beBytes 128 0xa7a66d0970455ab6dde8213a56aad99dca39328abfa01df9014f884ca7bcf99014d46194dad018c2d8a1bba2f48abc3f29336ec927a464cfb38f6b48ee684f9eff86f3b54785e44fae448d69be887a0292b39d30969692cce6c541eaaa1994fdef323b5624c2cd8b246400422cfad2549c3006b5980b66bc64e030989c04ce75
def img3 : List Byte :=
  leBytes 8 0x4C41564F57454D46 ++ leBytes 8 0x85000001 ++ leBytes 8 1024 ++ leBytes 8 0 ++ beBytes 32 0x5f70bf18a086007016e948b04aed3b82103a36bea41755b6cddfaf10ace3c6ef ++ modulus3072 ++ beBytes 8 65537 ++ List.replicate 56 0 ++ signature3072 ++
    List.replicate 128 0 ++ List.replicate 1024 0
/-- The fuses whose slot 0 holds that key's hash. -/
def fuses3 : Fuses := { slots := [(0, beBytes 32 0x35ff7d70cd2381bf92fb235aaabfaf59bc08c5723c6bbab4aec02d1435eacede)], revoke := 0, rollback := 5 }
theorem test_image_passes : imageFail { w with fuses := fuses3 } img3 = 0 := by decide +kernel
/-- The check of an image looks at the fuses alone. -/
theorem imageFail_of_fuses {s t : State} (e : s.fuses = t.fuses) (b : List Byte) : imageFail s b = imageFail t b := by
  simp only [imageFail, slotHash, e]
/-- An FW_PUSH of that image to running firmware, and a boot from it. -/
theorem test_image_premises : (let s := { wcmd (pk 0x35 0 0 0 [0x1000, 2048]) with fuses := fuses3 }
    beginsB (pk 0x35 0 0 0 [0x1000, 2048]) s = true ∧ s.dev.fwState = 3 ∧ imageFail s img3 = 0 ∧
      (match hostBytes s 0 0x1000 2048 { e0 with data := img3 } with | .ok r => r.1 == img3 | _ => false) = true) ∧
    (let s := { State.reset with fuses := fuses3, flash := { State.reset.flash with image := img3 } }; imageFail s s.flash.image = 0 ∧ s.dev.cycles = 0) :=
  ⟨⟨by decide +kernel, by decide +kernel, (imageFail_of_fuses rfl img3).trans test_image_passes, by decide +kernel⟩, (imageFail_of_fuses rfl img3).trans test_image_passes, by decide +kernel⟩
def guarded (op : Nat) : Packet := (pk op 0 0 0 []).take 7 ++ [~~~ ((pk op 0 0 0 []).getD 0 0)]
theorem test_takeover : policy w 0x0002 ≤ 0xFFFFFFFF ∧
    (let s := modPort (modDev (wcmd (guarded 0x36)) fun d => { d with primary := 1 }) 1 fun x => { x with downTicks := 0xFFFFFFFF }; beginsB (guarded 0x36) s = true ∧ sees (exec (.takeover r0) s) (fun t => ends t 64 0x36 0 0 0 && t.dev.primary == 0) = true) ∧
    ends' (exec (.takeover r0) (wcmd (guarded 0x36))) 64 0x36 21 0 0 = true ∧
    sees (exec (.resetDevice r0) (wcmd (guarded 0x37))) (fun t => ends t 64 0x37 0 0 0 && t.dev.resetRing == some 0) = true := by decide +kernel
/-! ### The governor, the clocks, boot and power -/

def gi : GovInputs := { benchTemp := [(0, 1600)], stackTemp := [], pout := (List.range 12).map fun _ => some 1000, droops := [], rates := [], voutOk := 15 }
/-- A management tick whose loops are due: the sample is taken and no loop has run. -/
def wg (g : GovInputs) : State := { w with gov := { w.gov with sample := some g, ran := [] } }

theorem test_tick : sees (exec (.managementTick gi) w) (fun t => t.dev.ticks == 1 && t.dev.uptime == 10000 && t.dev.heartbeat == 1 && (node t 0).temp == 1600 && (node t 0).tempValid && t.gov.power == 12000 &&
      (port t 1).downTicks == 1 && t.gov.sample == some gi) = true := by decide +kernel
theorem test_loop_order : loopReady (wg gi) 0 = true ∧ loopReady (wg gi) 1 = false ∧ nx (exec .precisionLoop (wg gi)) = some (wg gi) := by decide +kernel
/-- The loops before loop `n` have run. -/
def wl_ (g : GovInputs) (n : Nat) : State := { wg g with gov := { (wg g).gov with ran := List.range n } }
theorem test_safety_loop : quadTemp { gi with benchTemp := [(0, 1840)] } 0 = some (0, 1840) ∧ quadStacks gi 0 = [] ∧
    sees (exec .safetyLoop (wg { gi with benchTemp := [(0, 1840)] })) (fun t => t.gov.hotPosted == [0] && targetOf t.gov.target 0 == policy w 0x0202 && NSet.has t.gov.ran 0) = true ∧
    sees (exec .safetyLoop { wg gi with gov := { (wg gi).gov with held := [0], hotPosted := [0], holdTicks := [(0, 3)] } }) (fun t => Tbl.getD t.gov.holdTicks 0 0 == 4) = true := by decide +kernel
theorem test_precision_loop : (let s := { wl_ gi 1 with gov := { (wl_ gi 1).gov with precNow := [(0, 2)] } }
    loopReady s 1 = true ∧ (polNow s 0x020B = 1 → sees (exec .precisionLoop s) (fun t => (Machine.core t 0).irqHost == some 0x1001) = true)) := by decide +kernel
theorem test_voltage_loop : poutFails gi = none ∧ loopReady (wl_ gi 2) 2 = true ∧ quadHot (wl_ gi 2) 0 = false ∧
    sees (exec .voltageLoop (wl_ { gi with benchTemp := [(0, 16 * 100)] } 2)) (fun t => targetOf t.gov.target 0 ≤ policy w 0x0201) = true := by decide +kernel
theorem test_cache_loop : loopReady (wl_ gi 3) 3 = true ∧ overCap (wl_ gi 3) = false ∧ isFenced (wl_ gi 3) 2 0 = false ∧
    (polNow (wl_ gi 3) 0x0206 = 1 → sees (exec .cacheLoop (wl_ gi 3)) (fun t => (bench t 0).wayen == 0xFF) = true) := by decide +kernel
theorem test_link_loop : (let s := { wl_ gi 4 with links := [(0, { l1 with state := 2, runRate := 1, fecunc := 0xFFFFFFFF, gotDev := 5 })] }
    loopReady s 4 = true ∧ (polNow s 0x0208 = 1 → polNow s 0x020A ≤ 0xFFFFFFFF → sees (exec .linkLoop s) (fun t => (link t 0).rate == 2 && (link t 0).state == 1) = true)) := by decide +kernel

theorem test_clocks : dark w = false ∧ (node w 3).lastCal ≠ w.dev.ticks + 1 ∧ (let s := modNode w 3 fun x => { x with lastCal := 1 }; nx (exec (.pacerCalibration 3 65536) s) = some s) ∧ sees (exec (.pacerCalibration 3 65536) w) (fun t => (node t 3).period == 10000000 && (node t 3).calValid && (node t 3).calSeq == 1) = true ∧
    sees (exec (.referenceClockSwitch false true) w) (fun t => t.dev.refB && !t.dev.noRef) = true ∧
    sees (exec (.referenceClockSwitch false false) (modNode w 3 fun x => { x with calValid := true, pacer := 9 })) (fun t => t.dev.noRef && !(node t 3).calValid && (node t 3).pacer == 9) = true ∧
    sees (exec (.hrefSwitch 5) w) (fun t => t.dev.href == 5 && (Machine.stack t 9).href == 2) = true ∧ sees (exec (.hrefSwitch 0) w) (fun t => t.dev.fwState == 4 && t.dev.alertHref) = true := by decide +kernel
theorem test_safety_path : sees (exec (.droopHold 2) w) (fun t => heldQuad t 2 && !heldQuad t 1) = true ∧
    sees (exec (.holdEnd 2) { w with gov := { w.gov with held := [1, 2] } }) (fun t => !heldQuad t 2 && heldQuad t 1) = true ∧
    (let s := modDev { w with gov := { w.gov with held := [2] } } fun d => { d with thermtrip := true }; nx (exec (.holdEnd 2) s) = some s) ∧
    sees (exec (.thermtrip 0 1840) w) (fun t => t.dev.thermtrip && heldQuad t 3) = true ∧ nx (exec (.thermtrip 0 1839) w) = some w ∧
    sees (exec (.thermtrip 0x42 1840) w) (fun t => t == w) = true ∧
    sees (exec .heartbeatWatchdog w) (fun t => t.dev.fwState == 4 && t.dev.alertFw) = true := by decide +kernel

def bi : BoardInputs := { straps := 1, devRstN := true, perst := 3, refclk := 3, href := 15, flashOk := true, fromPin := false }
theorem test_power_on : sees (exec (.powerOn bi) State.reset) (fun t => t.dev.fwState == 2 && t.dev.straps == 1 && t.dev.cycles == 1) = true ∧
    sees (exec (.powerOn { bi with straps := 0x400, flashOk := false }) State.reset) (fun t => t.dev.fwState == 2 && t.dev.stage == 1 && t.dev.fail == 1 && t.dev.full) = true ∧
    sees (exec (.powerOn { bi with straps := 0 }) State.reset) (fun t => t.dev.fwState == 2 && t.dev.fail == 2) = true ∧ imageFail State.reset [] = 2 ∧
    sees (exec (.powerOn { bi with devRstN := false }) State.reset) (fun t => t.dev.waitRst.isSome && t.dev.fwState == 1) = true ∧
    nx (exec (.powerOn bi) (modDev w fun d => { d with cycles := 1 })) = some (modDev w fun d => { d with cycles := 1 }) := by decide +kernel
theorem test_resets : (let s := modDev w fun d => { d with resetRing := some 0, uptime := 5 }
    answerPending s 0 = false ∧ sees (exec (.deviceReset bi) s) (fun t => t.dev.fwState == 2 && t.dev.uptime == 5 && t.threads == [] && t.dev.resetRing == none) = true) ∧
    nx (exec (.deviceReset bi) w) = some w ∧
    sees (exec .devRstNRelease (modDev State.reset fun d => { d with waitRst := some bi })) (fun t => t.dev.waitRst == none && t.dev.fwState == 2) = true ∧
    sees (exec .powerOff w) (fun t => t.dev.power == .off && t.threads == []) = true ∧ sees (exec (.railFault 4) w) (fun t => t.dev.power == .off) = true ∧ nx (exec (.railFault 3) w) = some w ∧
    sees (exec (.railFault 12) w) (fun t => t == w) = true := by decide +kernel
theorem test_fuse_blow : (let s := { modDev w fun d => { d with imgSrc := 1, blowDue := true } with fuses := { slots := [], revoke := 2, rollback := 3 } }
    sees (exec .fuseBlow s) (fun t => !t.dev.blowDue && t.fuses.revoke == 2 && t.fuses.rollback == 3) = true) := by decide +kernel
theorem test_port_reset : (w.ctxs.map (·.1)) = [0] ∧ sees (exec (.portReset 0 .perst) { wev ev0 [] with threads := [], cores := [] , ctxs := [(0, { cx with grant := [] })] }) (fun t => !(port t 0).linkUp && (port t 0).perst && t.ctxs == []) = true ∧
    sees (exec (.flr 0 1) { wring rg0 with rings := [(0, rg0), (17, rg0)] }) (fun t => t.rings.map (·.1) == [0] && t.ctxs.length == 1) = true ∧
    sees (exec (.flr 0 17) w) (fun t => t == w) = true ∧
    sees (exec (.pcieLinkUp 0) w) (fun t => (port t 0).linkUp && (port t 1).peerUp) = true ∧ (let s := modPort w 0 fun p => { p with perst := true }; nx (exec (.pcieLinkUp 0) s) = some s) ∧
    sees (exec (.perstRelease 0) (modPort w 0 fun p => { p with perst := true })) (fun t => !(port t 0).perst && !(port t 0).linkUp) = true := by decide +kernel
/-- No context and nothing under way, idle for a number of management ticks. -/
def widle (p : PowerState) (ticks : Nat) : State := modDev { w with threads := [], cores := [], ctxs := [] } fun d => { d with power := p, idleTicks := ticks }
theorem test_power_states : gateable w 3 = true ∧ holders w 3 = [] ∧ nx (exec (.benchGate 0) w) = some w ∧ policy w 0x0300 ≠ 0 ∧ deviceQuiet (widle .active 0) = true ∧
    (let n := policy w 0x0300; nx (exec .idleEntry (widle .active (n - 1))) = some (widle .active (n - 1))) ∧
    sees (exec .idleExit (modNode (modDev w fun d => { d with power := .idle }) 0 fun x => { x with gated := true })) (fun t => t.dev.power == .active && !(node t 0).gated) = true := by decide +kernel
/-- Every bench gated. -/
def wd (p : PowerState) : State := { (modDev (widle p 5) fun d => { d with policy := [(0x0301, 5)] }) with nodes := (List.range 256).map fun n => (n, { Node.init with gated := isBench n, pacer := 9 }) }
theorem test_deep_idle : policy (wd .idle) 0x0301 = 5 ∧ (List.range 256).all (fun m => !isBench m || (node (wd .idle) m).gated) = true ∧ sees (exec .deepIdleEntry (wd .idle)) (fun t => t.dev.power == .deepIdle && (Machine.stack t 15).selfRefresh) = true ∧
    sees (exec .deepIdleExit (wd .deepIdle)) (fun t => t.dev.power == .active && (node t 0).pacer == 0 && !(node t 0).gated) = true := by decide +kernel
/-! ### Register writes, the sideband interfaces, the whole machine -/

theorem test_register_write : (node w 3).guard = none ∧ isF .mgmt = true ∧ isFenced w 2 0 = false ∧
    sees (exec (.registerWrite .mgmt 3 0x10 8 4) (modNode w 3 fun x => { x with errFlags := 7 })) (fun t => (node t 3).errFlags == 3) = true ∧ nx (exec (.registerWrite .mgmt 3 0x10 3 4) w) = some w ∧
    sees (exec (.registerWrite .mgmt 0 0xF0100 8 9) w) (fun t => (Machine.core t 7).ctrMode == 9 && (Machine.core t 6).ctrMode == 0) = true ∧
    sees (exec (.registerWrite (.thread 1) 0 0x80100 8 9) (at_ w (.write (.reg 0 0x80100) ((leBytes 8 9).zipIdx.map fun e => (e.2, e.1)) false (.access 8 2)))) (fun t =>
      t.mesh.map (·.pay) == [.error 8 (.access 8 2)] && (node t 0).errFlags == 8 && (node t 0).cntDeny == 1 && (Machine.core t 0).ctrMode == 0) = true ∧
    sees (exec (.registerWrite (.host 0) 66 0x10000 8 0x123456789ABC) (wring { rg0 with en := false })) (fun t => (ring t 0).base == 0x3456789000) = true ∧
    sees (exec (.registerWrite (.host 0) 66 0x10000 8 0x1000) (wring rg0)) (fun t => (ring t 0).base == 0 && (port t 0).errFlags == 2) = true := by decide +kernel
theorem test_smbus : sees (exec .smbusTemperature (modNode w 5 fun x => { x with temp := 0x1A3, tempValid := true })) (fun t => t.dev.smbus == [0xA3, 0x01]) = true ∧
    sees (exec .smbusFwState w) (fun t => t.dev.smbus == [3]) = true ∧ sees (exec .smbusPower { w with gov := { w.gov with power := 600000 } }) (fun t => t.dev.smbus == [0x58, 0x02]) = true ∧
    sees (exec .smbusHeartbeat (modDev w fun d => { d with heartbeat := 0x102 })) (fun t => t.dev.smbus == [2, 1, 0, 0, 0, 0, 0, 0]) = true ∧
    sees (exec .smbusUptime (modDev w fun d => { d with uptime := 7, fwState := 4 })) (fun t => t.dev.smbus == List.replicate 8 0) = true ∧
    sees (exec .smbusAlerts { (modDev w fun d => { d with thermtrip := true }) with gov := { w.gov with held := [2] } }) (fun t => t.dev.smbus == [5]) = true := by decide +kernel

/-- Port 0 at a stage of the exchange. -/
def wspdm (st : Nat) : State := modPort (wev ev0 []) 0 fun p => { p with spdm := st }
/-- The answer that a DOE request gets. -/
def says_ (o : Out) (st : Nat) (p : List Byte → Bool) : Bool := sees o fun t => (port t 0).spdm == st && p ((port t 0).answer.drop 8)
def sreq (ver code p1 p2 n : Nat) : List Byte := [BitVec.ofNat 8 ver, BitVec.ofNat 8 code, BitVec.ofNat 8 p1, BitVec.ofNat 8 p2] ++ List.replicate (n - 4) 0xFF

theorem test_doe : doeServed (wspdm 0) 0 = true ∧ 0 < Config.certLength ∧
    sees (exec (.doeDiscovery 0 0) (wspdm 0)) (fun t => (port t 0).answer == [1, 0, 0, 0, 3, 0, 0, 0, 1, 0, 0, 1]) = true ∧ sees (exec (.doeDiscovery 0 1) (wspdm 0)) (fun t => (port t 0).answer.drop 8 == [1, 0, 1, 0]) = true ∧
    says_ (exec (.getVersion 0 (sreq 0x10 0x84 0 0 4)) (wspdm 3)) 1 (fun a => a == [0x10, 4, 0, 0, 0, 1, 0, 0x12]) = true ∧
    says_ (exec (.getCapabilities 0 (sreq 0x12 0xE1 0 0 20)) (wspdm 1)) 2 (fun a => a.take 2 == [0x12, 0x61]) = true ∧
    says_ (exec (.getCapabilities 0 (sreq 0x12 0xE1 0 0 20)) (wspdm 2)) 2 (fun a => a == [0x12, 0x7F, 4, 0]) = true ∧
    says_ (exec (.negotiateAlgorithms 0 (sreq 0x12 0xE3 0 0 32)) (wspdm 2)) 3 (fun a => a.length == 36 && (a.drop 8).take 12 == [2, 0, 0, 0, 8, 0, 0, 0, 1, 0, 0, 0]) = true ∧
    says_ (exec (.getDigests 0 (sreq 0x12 0x81 0 0 4)) (wspdm 2)) 2 (fun a => a == [0x12, 0x7F, 4, 0]) = true ∧
    says_ (exec (.getVersion 0 (sreq 0x12 0x10 0 0 4)) (wspdm 3)) 3 (fun a => a == [0x12, 0x7F, 7, 0x10]) = true :=
  ⟨by decide +kernel, Nat.succ_pos _, by decide +kernel⟩
/-- The whole chain's first eight octets are asked for; a challenge of slot 0; a measurement of index 2. -/
theorem test_doe_premises : (let q : List Byte := [0x12, 0x82, 0, 0, 0, 0, 8, 0]; q.length = 8 ∧ q.getD 2 0 % 16 = 0 ∧ (q.getD 4 0).toNat + 256 * (q.getD 5 0).toNat = 0) ∧ (sreq 0x12 0x83 0 0 36).length = 36 ∧
    (wspdm 3).dev.fwState = 3 ∧ (modDev (wspdm 3) fun d => { d with image := [1] }).dev.image ≠ [] := by decide +kernel

theorem test_reset : memWf State.reset.hbm = true ∧ memWf State.reset.ls = true ∧ memWf State.reset.hostMem = true ∧ State.reset.dev.fwState = 1 ∧ (node State.reset 7).period = 0x007A1200 ∧ (bench State.reset 9).wayen = 0xFFFF ∧
    policy State.reset 0x0200 = 2200 := by decide +kernel
/-- The front command runs with the queue's rest; an empty queue lets time pass. -/
theorem test_step : sees (step { code (.op h 0 3 1 2) w with pending := [.op h 0 3 1 2, .smbusFwState] }) (fun t => t.pending == [.smbusFwState] && rx t 0 3 == 0x107) = true ∧ sees (step w) (fun t => t.tick == 1 && t.pending == []) = true ∧
    sees (step { w with pending := [.fuseBlow] }) (fun t => t.fuses == w.fuses) = true := by decide +kernel
theorem test_reserved : does (.op h 0x010 3 1 2) w (fun s_ => (faultAt s_ 0 { code := 1, engine := 0, info := 0, faddr := 0 } 0x1000)) = true ∧
    does (.muldiv h 0x00D 3 1 2) w (fun s_ => (faultAt s_ 0 { code := 1, engine := 0, info := 0, faddr := 0 } 0x1000)) = true ∧ isCore 528 = false ∧
    sees (exec (.op { h with core := 528 } 0 3 1 2) w) (fun t => t == w) = true ∧ isBench 0x42 = false := by decide +kernel
/-- The two bytes 0 at the PC of a thread that fetches 16 bits. -/
def wzero : State := { w with ls := [] }
theorem test_reserved_bytes : readyB hc [] wzero = true ∧ fetchInstr wzero 0 0x1000 true = .bits 0 0 ∧ decodeAt hc 0 0 = .reserved ∧
    sees (exec (.op hc 0 3 3 2) wzero) (fun t => t == faultAt wzero 0 { code := 1, engine := 0, info := 0, faddr := 0 } 0x1000) = true := by decide +kernel

/-! ### Words written from the formats of Tables 3.2, 3.3, 5.2, 7.3, 7.5 and 7.6 -/

/-- What a 32-bit word stands for. -/
def word (x : BitVec 32) : Decoded := decodeAt h (x.extractLsb' 16 16) (x.setWidth 16)
/-- What a 16-bit word stands for. -/
def half (x : BitVec 16) : Decoded := decodeAt hc x 0

theorem test_decode_table : decodeTableWord 32 0 = none ∧ w.withFetchWord 32 0 = w := by decide +kernel
/-- Formats R, I, U and J. -/
theorem test_decode_scalar :
    word 0b1_000000_00011_00001_00010_0000000000 = .instr (.op h 0 3 1 2) ∧ word 0b1_000001_00011_00001_00010_0000000111 = .instr (.op32 h 7 3 1 2) ∧
    word 0b1_000010_00011_00001_00010_0000000100 = .instr (.muldiv h 4 3 1 2) ∧ word 0b1_000011_00011_00001_00000_0000000001 = .instr (.bits h 1 3 1 0) ∧
    word 0b1_000100_00011_00001_111111111111111 = .instr (.addk h 3 1 0x7FFF) ∧ word 0b1_001010_00011_00001_001000000000101 = .instr (.shk h 3 1 0x1005) ∧
    word 0b1_001100_00011_10000000000000000001 = .instr (.lih h 3 0x80001) ∧ word 0b1_001101_00011_00000000000000000010 = .instr (.pcaddh h 3 2) ∧
    word 0b1_100110_11111_11111111111111111110 = .instr (.jal h 31 0xFFFFE) ∧ word 0b1_100111_00000_11111_000000000000000 = .instr (.jalr h 0 31 0) := by decide +kernel
/-- Formats S, B and SY; LOADX, STOREX and ATOMIC; the repeat prefix. -/
theorem test_decode_memory :
    word 0b1_010011_00011_00001_000000000001000 = .instr (.ld h 3 1 8) ∧ word 0b1_011011_00010_00001_000000000001000 = .instr (.sd h 2 1 8) ∧
    word 0b1_010111_00011_00001_00010_1011000000 = .instr (.loadx h 0x2C0 3 1 2) ∧ word 0b1_011100_00011_00001_00010_0101100000 = .instr (.storex h 0x160 3 1 2) ∧
    word 0b1_100000_00001_00010_000000000000100 = .instr (.beq h 1 2 4) ∧ word 0b1_101000_00101_00001_00010_0111011000 = .instr (.atomic h 0x1D8 5 1 2) ∧
    word 0b1_101001_00011_00000_000_001000001000 = .instr (.srd h 3 0 0x208) ∧ word 0b1_101001_00000_00000_100_000000000010 = .instr (.eret h 0 0) ∧
    word 0b1_101001_00000_00000_100_000000010011 = .instr (.wedgeS h 0 0) ∧ word 0b1_101001_00000_00000_100_000000000011 = .reserved ∧
    word 0b1_101110_1_0_00_00000_0000000001000000 = .rep { ni := true, src := false, z := 0, rs1 := 0, count := 64 } := by decide +kernel
/-- COUNTER, TX (the three words of chapter 11), CHAN and THREAD. -/
theorem test_decode_sync :
    word 0b1_101010_00000_00001_00010_0000000000 = .instr (.cinc h 0 1 2) ∧ word 0b1_101010_00011_00001_00000_0000000100 = .instr (.cread h 3 1 0) ∧
    word 0b1_101010_00011_00001_00000_0000000101 = .reserved ∧ word 0xD6028000 = .instr (.txb h 0 5 0) ∧ word 0xD6000001 = .instr (.txe h 0 0 0) ∧
    word 0xD6030002 = .instr (.txa h 0 6 0) ∧ word 0b1_101100_00011_00001_00010_0000000000 = .instr (.portCreate h 3 1 2) ∧
    word 0b1_101100_00011_00001_00010_0000010010 = .instr (.send h 3 1 2) ∧ word 0b1_101101_00000_00001_00010_0000000000 = .instr (.tput h 0 1 2) ∧
    word 0b1_101101_00000_00001_00000_0000010011 = .instr (.tend h 0 1 0) := by decide +kernel
/-- Format V. -/
theorem test_decode_vector : (let f : VFields := { vd := 3, vs1 := 1, vs2 := 2, pg := 5, ty := 6 }
    word 0b1_110000_00011_00001_00010_101_110_0001 = .instr (.varith h f 1) ∧ word 0b1_110001_00011_00001_00010_101_110_0000 = .instr (.vfma h f 0) ∧
    word 0b1_110010_00011_00001_00010_101_110_1100 = .instr (.pwhile h f) ∧ word 0b1_110010_00011_00001_00010_101_110_0111 = .reserved ∧
    word 0b1_110011_00011_00001_00010_101_110_1000 = .instr (.vgather h f) ∧ word 0b1_110100_00011_00001_00010_101_110_0011 = .instr (.vcvt h f) ∧
    word 0b1_110101_00011_00001_00010_101_110_0000 = .reserved ∧ word 0b1_110110_00011_00001_00010_101_110_0011 = .instr (.vzpoll h f) ∧
    word 0b1_110111_00011_00001_00010_101_110_0010 = .instr (.vzfma h f 2)) := by decide +kernel
/-- TMEM, TCOMP and TCTL. -/
theorem test_decode_tile : (let f : Bool → TMemFields := fun q => { t := 5, rs1 := 3, rs2 := 9, d := true, mf := 0x0A, scm := 2, rnd := true, q := q, z := 0 }
    word 0b1_111000_101_00011_01001_1_1_01010_10_1_0_0 = .instr (.tstore h (f false)) ∧ word 0b1_111000_101_00011_01001_0_1_01010_10_1_0_0 = .instr (.tload h (f false)) ∧
    word 0b1_111000_101_00011_01001_0_1_01010_10_1_1_0 = .instr (.tloadStream h (f true))) ∧
    word 0b1_111001_001_010_011_00100_01_1_0000_0001 = .instr (.tcvt h { td := 1, ta := 2, tb := 3, rs := 4, scm := 1, rnd := true, z := 0 }) ∧
    word 0b1_111010_00011_00001_101_11110000_0011 = .instr (.tseed h { rd := 3, rs1 := 1, t := 5, imm8 := 0xF0 }) ∧ word 0b1_111010_00011_00001_101_11110000_0110 = .reserved := by decide +kernel
/-- The formats of Table 3.3. -/
theorem test_decode_compact :
    half 0x0800 = .instr (.addk hc 0 0 0) ∧ half 0b0_0000_0011_0010_001 = .instr (.op hc 0 3 3 2) ∧ half 0b0_0010_0011_1111111 = .instr (.addk hc 3 0 0x7FFF) ∧
    half 0b0_0011_0011_1000101 = .instr (.shk hc 3 3 0x1005) ∧ half 0b0_0100_0011_0010_111 = .instr (.ld hc 3 2 56) ∧ half 0b0_0111_0011_0010_001 = .instr (.sw hc 3 2 4) ∧
    half 0b0_1001_0011_1111111 = .instr (.sd hc 3 30 1016) ∧ half 0b0_1010_0011_0000010 = .instr (.beq hc 3 0 2) ∧ half 0b0_1101_00000000100 = .instr (.jal hc 31 4) ∧
    half 0b0_1110_0000_0000_010 = .instr (.jalr hc 0 31 0) ∧ half 0b0_1110_0000_0001_010 = .reserved ∧ half 0b0_1111_0001_0000000 = .instr (.wedgeL hc 0 0) ∧
    half 0b0_1111_0010_0000000 = .reserved ∧ half 0 = .reserved ∧ word 0xFFFFFFFF = .reserved := by decide +kernel

end Sys2Proof.Tests
end

section
/-!
PROOFS. What every step keeps. `Keeps s₀ s` says of a state `s` on the way from `s₀` what every command but FUSE_BLOW keeps: the memories in
canonical form (R20, log entry 5), the fuses (R421) and the queue. An operation whose outcome is not a bare state has a predicate of its own
that says the same of every state the outcome holds. The sections behind this one have one lemma `f_keeps` for each operation `f` of the
model, in the model's order.
-/
namespace Sys2Proof.Machine

/-- What every step but FUSE_BLOW keeps on its way from `s₀` to `s`: the canonical form of the memories (R20, log entry 5), the fuses (R421) and
the queue of commands. -/
def Keeps (s₀ s : State) : Prop := (MemoryOk s₀ → MemoryOk s) ∧ s.fuses = s₀.fuses ∧ s.pending = s₀.pending

/-- What a partial operation answers, where it answers at all, satisfies `P`. -/
structure OnSome {α : Type} (P : α → Prop) (o : Option α) : Prop where
  elim : ∀ {a}, o = some a → P a

/-- What an operation answers that can fail, where it does not fail, satisfies `P`. -/
def OnOk {ε α : Type} (P : α → Prop) : Except ε α → Prop
  | .ok a => P a
  | .error _ => True

/-! ### Outcomes that hold a state -/

def OutKeeps (s₀ : State) : Out → Prop
  | .next s => Keeps s₀ s
  | _ => True

def Rd.Keeps (s₀ : State) : Rd → Prop
  | .ok _ _ _ s _ => Machine.Keeps s₀ s
  | _ => True

def Wr.Keeps (s₀ : State) : Wr → Prop
  | .ok s _ => Machine.Keeps s₀ s
  | _ => True

def Applied.Keeps (s₀ : State) : Applied → Prop
  | .ok s => Machine.Keeps s₀ s
  | .refused _ => True

def Dropped.Keeps (s₀ : State) : Dropped → Prop
  | .ready s | .sent s => Machine.Keeps s₀ s
  | .busy => True

def Went.Keeps (s₀ : State) : Went → Prop
  | .now _ s | .sent s | .poison _ _ s | .later s => Machine.Keeps s₀ s
  | _ => True

def Stored.Keeps (s₀ : State) : Stored → Prop
  | .ok s => Machine.Keeps s₀ s
  | _ => True

def Entry.Keeps (s₀ : State) : Entry → Prop
  | .ok s | .wait s => Machine.Keeps s₀ s
  | .failed _ _ => True

def Taken.Keeps (s₀ : State) : Taken → Prop
  | .done s | .wait s => Machine.Keeps s₀ s

def Res.Keeps (s₀ : State) : Res → Prop
  | .done s | .jump s _ | .trap s _ | .trapNext s _ | .wait s | .hold s | .abort s _ _ _ _ | .ends s => Machine.Keeps s₀ s

def Found.Keeps (s₀ : State) : Found → Prop
  | .at _ s => Machine.Keeps s₀ s
  | .stop r => r.Keeps s₀

def Sent.Keeps (s₀ : State) : Sent → Prop
  | .ok s | .abort s _ _ _ => Machine.Keeps s₀ s

def Zres.Keeps (s₀ : State) : Zres → Prop
  | .done s | .wait s => Machine.Keeps s₀ s
  | .fault _ => True

def Gath.Keeps (s₀ : State) : Gath → Prop
  | .ok _ _ s _ | .bad _ _ s _ _ => Machine.Keeps s₀ s
  | .wait => True

def Put.Keeps (s₀ : State) : Put → Prop
  | .ok s _ => Machine.Keeps s₀ s
  | _ => True

def Moved.Keeps (s₀ : State) : Moved → Prop
  | .all s _ _ | .wait s _ | .bad s _ _ _ => Machine.Keeps s₀ s

def Answer.Keeps (s₀ : State) : Answer → Prop
  | .done s _ _ => Machine.Keeps s₀ s
  | _ => True

def Effect.Keeps (s₀ : State) : Effect → Prop
  | .ok s _ _ => Machine.Keeps s₀ s
  | _ => True

def Way1.Keeps (s₀ : State) : Way1 → Prop
  | .at _ s | .bad _ s | .wait s => Machine.Keeps s₀ s

def Spdm.Keeps (s₀ : State) : Spdm → Prop
  | .answer _ s => Machine.Keeps s₀ s
  | .error _ => True

/-- The body of a repeat's follower keeps what every step keeps. -/
structure Follower.Keeps (s₀ : State) (f : Follower) : Prop where
  body : ∀ {s k}, Machine.Keeps s₀ s → (f.body s k).Keeps s₀

/-! ### Rules about `Keeps` -/

section
variable {s₀ s t : State}

theorem Keeps.refl (s : State) : Keeps s s := ⟨id, rfl, rfl⟩

theorem Keeps.memoryOk (h : Keeps s₀ s) (ok : MemoryOk s₀) : MemoryOk s := h.1 ok

theorem Keeps.ite {c : Prop} [Decidable c] {a b : State} (ha : Keeps s₀ a) (hb : Keeps s₀ b) : Keeps s₀ (if c then a else b) := by
  split
  · exact ha
  · exact hb

theorem Res.Keeps.ite {c : Prop} [Decidable c] {a b : Res} (ha : a.Keeps s₀) (hb : b.Keeps s₀) : Res.Keeps s₀ (if c then a else b) := by
  split
  · exact ha
  · exact hb

theorem Went.Keeps.ite {c : Prop} [Decidable c] {a b : Went} (ha : a.Keeps s₀) (hb : b.Keeps s₀) : Went.Keeps s₀ (if c then a else b) := by
  split
  · exact ha
  · exact hb

theorem OnSome.at_none {α : Type} {P : α → Prop} : OnSome P none := ⟨fun e => nomatch e⟩

theorem OnSome.at_some {α : Type} {P : α → Prop} {a : α} (h : P a) : OnSome P (some a) := ⟨fun e => Option.some.inj e ▸ h⟩

theorem OnSome.ite {α : Type} {P : α → Prop} {c : Prop} [Decidable c] {a b : Option α} (ha : OnSome P a) (hb : OnSome P b) :
    OnSome P (if c then a else b) := by
  split
  · exact ha
  · exact hb

theorem Keeps.foldl {α : Type} {f : State → α → State} {l : List α} (h : Keeps s₀ s) (hf : ∀ {s x}, Keeps s₀ s → Keeps s₀ (f s x)) :
    Keeps s₀ (l.foldl f s) := by
  induction l generalizing s with
  | nil => exact h
  | cons x l ih => exact ih (hf h)

theorem Keeps.foldl_fst {α β : Type} {f : State × β → α → State × β} {l : List α} {p : State × β} (h : Keeps s₀ p.1)
    (hf : ∀ {p x}, Keeps s₀ p.1 → Keeps s₀ (f p x).1) : Keeps s₀ (l.foldl f p).1 := by
  induction l generalizing p with
  | nil => exact h
  | cons x l ih => exact ih (hf h)

theorem Keeps.of_fst {α : Type} {p : State × α} {a : α} (h : Keeps s₀ p.1) (e : p = (s, a)) : Keeps s₀ s := by subst e; exact h

theorem OnSome.getD {o : Option State} (ho : OnSome (Keeps s₀) o) (h : Keeps s₀ s) : Keeps s₀ (o.getD s) := by
  cases o with
  | none => exact h
  | some t => exact ho.elim rfl

theorem OnOk.elim {ε α : Type} {P : α → Prop} {o : Except ε α} {a : α} (h : OnOk P o) (e : o = .ok a) : P a := by subst e; exact h

/-- An operation that changes memories alone and keeps their canonical form. -/
theorem Keeps.memory (h : Keeps s₀ s) (hm : MemoryOk s → MemoryOk t) (hf : t.fuses = s.fuses) (hp : t.pending = s.pending) : Keeps s₀ t := by
  obtain ⟨hok, hfuses, hpending⟩ := h
  exact ⟨fun ok => hm (hok ok), hf.trans hfuses, hp.trans hpending⟩

theorem Keeps.addLsPoison {n : Nat} (h : Keeps s₀ s) : Keeps s₀ { s with lsPoison := NSet.add s.lsPoison n } :=
  h.memory (fun ⟨hh, hl, ho, hp, hq⟩ => ⟨hh, hl, ho, hp, NSet.wf_add _ _ hq⟩) rfl rfl

theorem Keeps.addHbmPoison {n : Nat} (h : Keeps s₀ s) : Keeps s₀ { s with hbmPoison := NSet.add s.hbmPoison n } :=
  h.memory (fun ⟨hh, hl, ho, hp, hq⟩ => ⟨hh, hl, ho, NSet.wf_add _ _ hp, hq⟩) rfl rfl

theorem OnSome.foldl_bind {α : Type} {f : α → State → Option State} {l : List α} {o : Option State} (ho : OnSome (Keeps s₀) o)
    (hf : ∀ {x s}, Keeps s₀ s → OnSome (Keeps s₀) (f x s)) : OnSome (Keeps s₀) (l.foldl (fun o x => o.bind (f x)) o) := by
  induction l generalizing o with
  | nil => exact ho
  | cons x l ih =>
    refine ih ?_
    cases o with
    | none => exact .at_none
    | some s => exact hf (ho.elim rfl)

/-! ### The state in an outcome of a known form -/

theorem Rd.Keeps.of_ok {r : Rd} {bs p w x} (h : r.Keeps s₀) (e : r = .ok bs p w t x) : Machine.Keeps s₀ t := by subst e; exact h

theorem Wr.Keeps.of_ok {r : Wr} {x} (h : r.Keeps s₀) (e : r = .ok t x) : Machine.Keeps s₀ t := by subst e; exact h

theorem Applied.Keeps.of_ok {r : Applied} (h : r.Keeps s₀) (e : r = .ok t) : Machine.Keeps s₀ t := by subst e; exact h

theorem Dropped.Keeps.of_ready {r : Dropped} (h : r.Keeps s₀) (e : r = .ready t) : Machine.Keeps s₀ t := by subst e; exact h

theorem Dropped.Keeps.of_sent {r : Dropped} (h : r.Keeps s₀) (e : r = .sent t) : Machine.Keeps s₀ t := by subst e; exact h

theorem Went.Keeps.of_now {r : Went} {bs} (h : r.Keeps s₀) (e : r = .now bs t) : Machine.Keeps s₀ t := by subst e; exact h

theorem Went.Keeps.of_sent {r : Went} (h : r.Keeps s₀) (e : r = .sent t) : Machine.Keeps s₀ t := by subst e; exact h

theorem Went.Keeps.of_poison {r : Went} {a b} (h : r.Keeps s₀) (e : r = .poison a b t) : Machine.Keeps s₀ t := by subst e; exact h

theorem Went.Keeps.of_later {r : Went} (h : r.Keeps s₀) (e : r = .later t) : Machine.Keeps s₀ t := by subst e; exact h

theorem Stored.Keeps.of_ok {r : Stored} (h : r.Keeps s₀) (e : r = .ok t) : Machine.Keeps s₀ t := by subst e; exact h

theorem Entry.Keeps.of_ok {r : Entry} (h : r.Keeps s₀) (e : r = .ok t) : Machine.Keeps s₀ t := by subst e; exact h

theorem Entry.Keeps.of_wait {r : Entry} (h : r.Keeps s₀) (e : r = .wait t) : Machine.Keeps s₀ t := by subst e; exact h

theorem Taken.Keeps.of_done {r : Taken} (h : r.Keeps s₀) (e : r = .done t) : Machine.Keeps s₀ t := by subst e; exact h

theorem Taken.Keeps.of_wait {r : Taken} (h : r.Keeps s₀) (e : r = .wait t) : Machine.Keeps s₀ t := by subst e; exact h

theorem Res.Keeps.of_done {r : Res} (h : r.Keeps s₀) (e : r = .done t) : Machine.Keeps s₀ t := by subst e; exact h

theorem Found.Keeps.of_at {r : Found} {x} (h : r.Keeps s₀) (e : r = .at x t) : Machine.Keeps s₀ t := by subst e; exact h

theorem Found.Keeps.of_stop {r : Found} {q} (h : r.Keeps s₀) (e : r = .stop q) : q.Keeps s₀ := by subst e; exact h

theorem Sent.Keeps.of_ok {r : Sent} (h : r.Keeps s₀) (e : r = .ok t) : Machine.Keeps s₀ t := by subst e; exact h

theorem Sent.Keeps.of_abort {r : Sent} {a b c} (h : r.Keeps s₀) (e : r = .abort t a b c) : Machine.Keeps s₀ t := by subst e; exact h

theorem Zres.Keeps.of_done {r : Zres} (h : r.Keeps s₀) (e : r = .done t) : Machine.Keeps s₀ t := by subst e; exact h

theorem Zres.Keeps.of_wait {r : Zres} (h : r.Keeps s₀) (e : r = .wait t) : Machine.Keeps s₀ t := by subst e; exact h

theorem Gath.Keeps.of_ok {r : Gath} {bs p x} (h : r.Keeps s₀) (e : r = .ok bs p t x) : Machine.Keeps s₀ t := by subst e; exact h

theorem Gath.Keeps.of_bad {r : Gath} {bs p a b} (h : r.Keeps s₀) (e : r = .bad bs p t a b) : Machine.Keeps s₀ t := by subst e; exact h

theorem Put.Keeps.of_ok {r : Put} {x} (h : r.Keeps s₀) (e : r = .ok t x) : Machine.Keeps s₀ t := by subst e; exact h

theorem Moved.Keeps.of_all {r : Moved} {x p} (h : r.Keeps s₀) (e : r = .all t x p) : Machine.Keeps s₀ t := by subst e; exact h

theorem Moved.Keeps.of_bad {r : Moved} {p a b} (h : r.Keeps s₀) (e : r = .bad t p a b) : Machine.Keeps s₀ t := by subst e; exact h

theorem Effect.Keeps.of_ok {r : Effect} {a x} (h : r.Keeps s₀) (e : r = .ok t a x) : Machine.Keeps s₀ t := by subst e; exact h

theorem Way1.Keeps.of_at {r : Way1} {x} (h : r.Keeps s₀) (e : r = .at x t) : Machine.Keeps s₀ t := by subst e; exact h

theorem Way1.Keeps.of_bad {r : Way1} {a} (h : r.Keeps s₀) (e : r = .bad a t) : Machine.Keeps s₀ t := by subst e; exact h

theorem Way1.Keeps.of_wait {r : Way1} (h : r.Keeps s₀) (e : r = .wait t) : Machine.Keeps s₀ t := by subst e; exact h

theorem Spdm.Keeps.of_answer {r : Spdm} {bs} (h : r.Keeps s₀) (e : r = .answer bs t) : Machine.Keeps s₀ t := by subst e; exact h

/-! ### A write to a field that holds no memory, fuse or queue -/

theorem Keeps.setBenches {v} (h : Keeps s₀ s) : Keeps s₀ { s with benches := v } := h

theorem Keeps.setCtxs {v} (h : Keeps s₀ s) : Keeps s₀ { s with ctxs := v } := h

theorem Keeps.setEvrings {v} (h : Keeps s₀ s) : Keeps s₀ { s with evrings := v } := h

theorem Keeps.setFresh {v} (h : Keeps s₀ s) : Keeps s₀ { s with fresh := v } := h

theorem Keeps.setGov {v} (h : Keeps s₀ s) : Keeps s₀ { s with gov := v } := h

theorem Keeps.setInbox {v} (h : Keeps s₀ s) : Keeps s₀ { s with inbox := v } := h

theorem Keeps.setLaunches {v} (h : Keeps s₀ s) : Keeps s₀ { s with launches := v } := h

theorem Keeps.setLocks {v} (h : Keeps s₀ s) : Keeps s₀ { s with locks := v } := h

theorem Keeps.setMesh {v} (h : Keeps s₀ s) : Keeps s₀ { s with mesh := v } := h

theorem Keeps.setMeshInbox {v1 v2} (h : Keeps s₀ s) : Keeps s₀ { s with mesh := v1, inbox := v2 } := h

theorem Keeps.setMeshInboxEvringsPorts {v1 v2 v3 v4} (h : Keeps s₀ s) :
    Keeps s₀ { s with mesh := v1, inbox := v2, evrings := v3, ports := v4 } := h

theorem Keeps.setRegions {v} (h : Keeps s₀ s) : Keeps s₀ { s with regions := v } := h

theorem Keeps.setRingsSlots {v1 v2} (h : Keeps s₀ s) : Keeps s₀ { s with rings := v1, slots := v2 } := h

theorem Keeps.setThreads {v} (h : Keeps s₀ s) : Keeps s₀ { s with threads := v } := h

theorem Keeps.setWatches {v} (h : Keeps s₀ s) : Keeps s₀ { s with watches := v } := h

theorem Keeps.setWatchesLocks {v1 v2} (h : Keeps s₀ s) : Keeps s₀ { s with watches := v1, locks := v2 } := h

theorem Keeps.setWbCells {v} (h : Keeps s₀ s) : Keeps s₀ { s with wbCells := v } := h

end

end Sys2Proof.Machine
end

section
/-!
PROOFS. The parts of a state, its memories and what stands in front of them: the updates of one record of the state, the event records,
writes to HBM, the local stores and host memory, the bench caches, the transactions and the counter cells.
-/
namespace Sys2Proof.Machine

section
variable {s₀ s : State}

/-! ### Ops -/

theorem modThr_keeps {k f} (h : Keeps s₀ s) : Keeps s₀ (modThr s k f) := h

theorem modSys_keeps {k f} (h : Keeps s₀ s) : Keeps s₀ (modSys s k f) := h

theorem modCore_keeps {c f} (h : Keeps s₀ s) : Keeps s₀ (modCore s c f) := h

theorem modNode_keeps {n f} (h : Keeps s₀ s) : Keeps s₀ (modNode s n f) := h

theorem modBench_keeps {n f} (h : Keeps s₀ s) : Keeps s₀ (modBench s n f) := h

theorem modHaul_keeps {n c f} (h : Keeps s₀ s) : Keeps s₀ (modHaul s n c f) := h

theorem modPort_keeps {p f} (h : Keeps s₀ s) : Keeps s₀ (modPort s p f) := h

theorem modLink_keeps {p f} (h : Keeps s₀ s) : Keeps s₀ (modLink s p f) := h

theorem modStack_keeps {n f} (h : Keeps s₀ s) : Keeps s₀ (modStack s n f) := h

theorem modCtx_keeps {i f} (h : Keeps s₀ s) : Keeps s₀ (modCtx s i f) := by
  unfold modCtx
  split
  exacts [h, h]

theorem modRing_keeps {k f} (h : Keeps s₀ s) : Keeps s₀ (modRing s k f) := h

theorem modEvring_keeps {k f} (h : Keeps s₀ s) : Keeps s₀ (modEvring s k f) := h

theorem modDev_keeps {f} (h : Keeps s₀ s) : Keeps s₀ (modDev s f) := h

theorem wx_keeps {k r v} (h : Keeps s₀ s) : Keeps s₀ (wx s k r v) := .ite h h

theorem setPc_keeps {k pc} (h : Keeps s₀ s) : Keeps s₀ (setPc s k pc) := h

/-! ### Events -/

theorem sendMsg_keeps {cls src dst pay} (h : Keeps s₀ s) : Keeps s₀ (sendMsg s cls src dst pay) := h

theorem handMsg_keeps {cls node pay} (h : Keeps s₀ s) : Keeps s₀ (handMsg s cls node pay) := h

theorem reply_keeps {x pay} (h : Keeps s₀ s) : Keeps s₀ (reply s x pay) := h

theorem inboxDrop_keeps {m} (h : Keeps s₀ s) : Keeps s₀ (inboxDrop s m) := h

theorem makeRecord_keeps {node rg scls srcid ty ctx w3 w4 w5 w6 w7} (h : Keeps s₀ s) :
    Keeps s₀ (makeRecord s node rg scls srcid ty ctx w3 w4 w5 w6 w7) :=
  .ite h h

theorem recordCtx_keeps {node scls srcid ctx ty w3 w4 w5 w6 w7} (h : Keeps s₀ s) :
    Keeps s₀ (recordCtx s node scls srcid ctx ty w3 w4 w5 w6 w7) := by
  unfold recordCtx
  split
  exacts [h, makeRecord_keeps h]

theorem recordDev_keeps {node scls srcid ty w3 w4 w5 w6 w7} (h : Keeps s₀ s) : Keeps s₀ (recordDev s node scls srcid ty w3 w4 w5 w6 w7) :=
  makeRecord_keeps (makeRecord_keeps h)

theorem recordWrap_keeps {node off wbit} (h : Keeps s₀ s) : Keeps s₀ (recordWrap s node off wbit) := recordDev_keeps h

theorem countInstret_keeps {k n} (h : Keeps s₀ s) : Keeps s₀ (countInstret s k n) := .ite (.ite (recordWrap_keeps h) h) h

theorem countWrap_keeps {node off w wrapped old} (h : Keeps s₀ s) :
    Keeps s₀ (countWrap s node off w wrapped old) :=
  .ite (recordWrap_keeps h) h

theorem countTu_keeps {n hit} (h : Keeps s₀ s) : Keeps s₀ (countTu s n hit) := .ite (countWrap_keeps h) h

theorem countBc_keeps {n which amount} (h : Keeps s₀ s) : Keeps s₀ (countBc s n which amount) := .ite (countWrap_keeps h) h

theorem countCm_keeps {n ok} (h : Keeps s₀ s) : Keeps s₀ (countCm s n ok) := .ite (countWrap_keeps h) h

theorem countWindow_keeps {name param n} (h : Keeps s₀ s) : Keeps s₀ (countWindow s name param n).1 := h

theorem recordSdc_keeps {k check outcome} (h : Keeps s₀ s) : Keeps s₀ (recordSdc s k check outcome) := by
  unfold recordSdc
  split
  exacts [h, recordCtx_keeps h]

/-! ### Memory -/

theorem addAbort_keeps {k c} (h : Keeps s₀ s) : Keeps s₀ (addAbort s k c) := .ite h h

theorem breakWatches_keeps {x line by_} (h : Keeps s₀ s) : Keeps s₀ (breakWatches s x line by_) := Keeps.foldl h addAbort_keeps

theorem hbmWrite_keeps {n bytes poison} (h : Keeps s₀ s) : Keeps s₀ (hbmWrite s n bytes poison) := by
  refine h.memory (hbmWrite_memoryOk n bytes poison) ?_ ?_
  all_goals
    unfold hbmWrite
    repeat' split
  all_goals rfl

theorem bankWrite_keeps {c o bytes poison} (h : Keeps s₀ s) : Keeps s₀ (bankWrite s c o bytes poison) := by
  refine h.memory (bankWrite_memoryOk c o bytes poison) ?_ ?_
  all_goals
    unfold bankWrite
    dsimp only
    repeat' split
  all_goals rfl

theorem gbufFlush_keeps {c line} (h : Keeps s₀ s) : Keeps s₀ (gbufFlush s c line) := by
  unfold gbufFlush
  dsimp only
  split
  exacts [h, bankWrite_keeps h]

theorem gbufFlushAll_keeps {c} (h : Keeps s₀ s) : Keeps s₀ (gbufFlushAll s c) := Keeps.foldl h gbufFlush_keeps

theorem gbufMerge_keeps {c o bytes} (h : Keeps s₀ s) : Keeps s₀ (gbufMerge s c o bytes) := by
  unfold gbufMerge
  dsimp only
  split
  · exact .ite (gbufFlush_keeps h) h
  refine modCore_keeps (.ite ?_ h)
  split
  exacts [h, gbufFlush_keeps h]

theorem coreStore_keeps {k o bytes} (h : Keeps s₀ s) : Keeps s₀ (coreStore s k o bytes) :=
  .ite (bankWrite_keeps (modCore_keeps (breakWatches_keeps h))) (gbufMerge_keeps (breakWatches_keeps h))

theorem homeWrite_keeps {t bytes poison by_} (h : Keeps s₀ s) : Keeps s₀ (homeWrite s t bytes poison by_) := by
  unfold homeWrite
  split
  · exact hbmWrite_keeps (breakWatches_keeps h)
  · exact bankWrite_keeps (gbufFlush_keeps (breakWatches_keeps h))
  · refine .ite h (h.memory ?_ rfl rfl)
    rintro ⟨hh, hl, ho, hp, hq⟩
    exact ⟨hh, hl, memWf_puts _ bytes s.hostMem ho, hp, hq⟩
  · exact h

/-! ### Translate -/

theorem tuInsert_keeps {n e} (h : Keeps s₀ s) : Keeps s₀ (tuInsert s n e) := h

theorem tuTouch_keeps {tu ctx va} (h : Keeps s₀ s) : Keeps s₀ (tuTouch s tu ctx va) := by
  unfold tuTouch
  dsimp only
  split
  · exact h
  split
  · exact countTu_keeps h
  split
  exacts [tuInsert_keeps (countTu_keeps h), countTu_keeps h]

theorem noteTranslate_keeps {w x} (h : Keeps s₀ s) : Keeps s₀ (noteTranslate s w x) := by
  unfold noteTranslate
  refine .ite h ?_
  split
  exacts [h, tuTouch_keeps h]

/-! ### Cache -/

theorem bcTouch_keeps {n key} (h : Keeps s₀ s) : Keeps s₀ (bcTouch s n key) := h

theorem bcWriteBack_keeps {n key} (h : Keeps s₀ s) : Keeps s₀ (bcWriteBack s n key) := by
  unfold bcWriteBack
  dsimp only
  split
  exacts [h, .ite h (modBench_keeps (countBc_keeps (homeWrite_keeps h)))]

theorem bcDrain_keeps {n} (h : Keeps s₀ s) : Keeps s₀ (bcDrain s n) := modBench_keeps (Keeps.foldl h bcWriteBack_keeps)

theorem bcFlushAll_keeps {n} (h : Keeps s₀ s) : Keeps s₀ (bcFlushAll s n) := bcDrain_keeps h

theorem bcAccepted_keeps {n by_} (h : Keeps s₀ s) : Keeps s₀ (bcAccepted s n by_) := by
  unfold bcAccepted
  split
  exacts [h, h]

theorem readPiece_keeps {x len e} (h : Keeps s₀ s) : Rd.Keeps s₀ (readPiece s x len e) := by
  unfold readPiece
  dsimp only
  split
  · split
    · exact trivial
    split
    exacts [gbufFlush_keeps h, h]
  · split
    · exact trivial
    split
    exacts [gbufFlush_keeps h, h]
  · split
    exacts [trivial, h]
  · split
    · exact trivial
    split
    exacts [trivial, h]
  · exact trivial

theorem noteHostPort_keeps {by_ t} (h : Keeps s₀ s) : Keeps s₀ (noteHostPort s by_ t) := by
  unfold noteHostPort
  split
  exacts [h, h]

theorem writePiece_keeps {x bytes poison e} (h : Keeps s₀ s) : Wr.Keeps s₀ (writePiece s x bytes poison e) := by
  unfold writePiece
  split
  · split
    exacts [trivial, homeWrite_keeps h]
  · split
    exacts [trivial, homeWrite_keeps h]
  · split
    exacts [trivial, homeWrite_keeps h]
  · split
    exacts [trivial, h]
  · exact trivial

/-! ### Tx -/

theorem retire_keeps {k len} (h : Keeps s₀ s) : Keeps s₀ (retire s k len) := countInstret_keeps h

theorem placeWatch_keeps {k line page} (h : Keeps s₀ s) : OnSome (Keeps s₀) (placeWatch s k line page) :=
  .ite (OnSome.at_some h) (.ite OnSome.at_none (OnSome.at_some h))

theorem modTx_keeps {k f} (h : Keeps s₀ s) : Keeps s₀ (modTx s k f) := h

theorem dropWait_keeps {k} (h : Keeps s₀ s) : Keeps s₀ (dropWait s k) := h

theorem dropArray_keeps {k} (h : Keeps s₀ s) : Keeps s₀ (dropArray s k) := h

theorem dropJob_keeps {k} (h : Keeps s₀ s) : Keeps s₀ (dropJob s k) := by
  unfold dropJob
  split
  exacts [h, h]

theorem abortTx_keeps {k code user detail node} (h : Keeps s₀ s) : Keeps s₀ (abortTx s k code user detail node) :=
  wx_keeps (modThr_keeps (dropJob_keeps h))

theorem applyHome_keeps {k x} (h : Keeps s₀ s) : Keeps s₀ (applyHome s k x) := by
  unfold applyHome
  dsimp only
  split
  · exact Keeps.setLocks (modStack_keeps (Keeps.foldl h homeWrite_keeps))
  · exact Keeps.setLocks (Keeps.foldl h homeWrite_keeps)

theorem sendStaged_keeps {k t i} (h : Keeps s₀ s) : Keeps s₀ (sendStaged s k t i) := by
  unfold sendStaged
  split
  · exact h
  split
  · exact h
  split
  exacts [h, h]

theorem commitEnd_keeps {k} (h : Keeps s₀ s) :
    Keeps s₀ (commitEnd s k) :=
  retire_keeps (modThr_keeps (modTx_keeps (Keeps.foldl h sendStaged_keeps)))

theorem commitFinish_keeps {k} (h : Keeps s₀ s) : Keeps s₀ (commitFinish s k) := by
  unfold commitFinish
  split
  exacts [commitEnd_keeps (Keeps.foldl h applyHome_keeps), h]

/-! ### CellOps -/

theorem setCell_keeps {cell v} (h : Keeps s₀ s) : Keeps s₀ (setCell s cell v) := by
  unfold setCell
  split
  exacts [h, h, h]

theorem noteCell_keeps {cell} (h : Keeps s₀ s) : Keeps s₀ (noteCell s cell) := h

theorem noteAct_keeps {ctx} (h : Keeps s₀ s) : Keeps s₀ (noteAct s ctx) := by
  unfold noteAct
  split
  exacts [modCtx_keeps h, h]

theorem putCell_keeps {cell v} (h : Keeps s₀ s) : Keeps s₀ (putCell s cell v) := noteCell_keeps (setCell_keeps (noteAct_keeps h))

theorem applyCell_keeps {cell dec amount} (h : Keeps s₀ s) : Applied.Keeps s₀ (applyCell s cell dec amount) := by
  unfold applyCell
  dsimp only
  split
  · exact trivial
  split
  · split
    exacts [trivial, putCell_keeps h]
  split
  · split
    exacts [trivial, putCell_keeps h]
  split
  exacts [trivial, putCell_keeps h]

theorem counterRecord_keeps {node scls srcid ctx cell operand reason} (h : Keeps s₀ s) :
    Keeps s₀ (counterRecord s node scls srcid ctx cell operand reason) :=
  .ite h (recordCtx_keeps h)

end

end Sys2Proof.Machine
end

section
/-!
PROOFS. Contexts, paths to a home, exceptions, page tables and fencing: what a context brings and leaves, the way of an access, the entry to
a handler, page table entries and frames, and what fencing a unit discards.
-/
namespace Sys2Proof.Machine

section
variable {s₀ s : State}

/-! ### Context -/

theorem answerPacket_keeps {rk p ty status reason w4 w5 w6 w7} (h : Keeps s₀ s) :
    Keeps s₀ (answerPacket s rk p ty status reason w4 w5 w6 w7) := by
  unfold answerPacket
  dsimp only
  split
  · exact makeRecord_keeps h
  split
  exacts [h, makeRecord_keeps h]

theorem finish_keeps {rk status reason w4 w5 w6 w7} (h : Keeps s₀ s) : Keeps s₀ (finish s rk status reason w4 w5 w6 w7) := by
  unfold finish
  dsimp only
  split
  exacts [h, modRing_keeps (answerPacket_keeps h)]

theorem finishWith_keeps {rk status} (h : Keeps s₀ s) : Keeps s₀ (finishWith s rk status) := finish_keeps h

theorem setPortWord_keeps {c p w v} (h : Keeps s₀ s) : Keeps s₀ (setPortWord s c p w v) := homeWrite_keeps h

theorem placeEntry_keeps {c p words held} (h : Keeps s₀ s) : Keeps s₀ (placeEntry s c p words held) :=
  setPortWord_keeps (setPortWord_keeps (homeWrite_keeps h))

theorem portCounter_keeps {c p sender} (h : Keeps s₀ s) : Keeps s₀ (portCounter s c p sender) := by
  unfold portCounter
  refine .ite ?_ h
  split
  · exact (applyCell_keeps h).of_ok ‹_›
  split
  exacts [counterRecord_keeps h, h]

theorem placeTuple_keeps {c p words held sender} (h : Keeps s₀ s) : Keeps s₀ (placeTuple s c p words held sender) :=
  portCounter_keeps (placeEntry_keeps h)

theorem placeHeld_keeps {c p} (h : Keeps s₀ s) : Keeps s₀ (placeHeld s c p) := by
  unfold placeHeld
  refine Keeps.setMeshInbox (Keeps.foldl h ?_)
  intro s1 x1 h1
  split
  exacts [placeTuple_keeps h1, h1]

theorem freePort_keeps {c p} (h : Keeps s₀ s) : Keeps s₀ (freePort s c p) := by
  unfold freePort
  refine .ite h (setPortWord_keeps (placeHeld_keeps (Keeps.foldl h ?_)))
  intro s1 x1 h1
  split
  exacts [abortTx_keeps h1, abortTx_keeps h1, commitFinish_keeps h1, h1]

theorem freePorts_keeps {c owner} (h : Keeps s₀ s) : Keeps s₀ (freePorts s c owner) := by
  unfold freePorts
  refine Keeps.foldl h ?_
  intro s1 x1 h1
  split
  exacts [.ite (freePort_keeps h1) h1, freePort_keeps h1]

theorem abandonWait_keeps {k} (h : Keeps s₀ s) : Keeps s₀ (abandonWait s k) := by
  unfold abandonWait
  dsimp only
  split
  · exact .ite (modThr_keeps (dropArray_keeps (dropWait_keeps (.ite h (dropJob_keeps h))))) (.ite h (dropJob_keeps h))
  · exact .ite h (dropJob_keeps h)

theorem addDeferred_keeps {k e} (h : Keeps s₀ s) : Keeps s₀ (addDeferred s k e) := h

theorem debugHalt_keeps {k} (h : Keeps s₀ s) : Keeps s₀ (debugHalt s k) := modThr_keeps (.ite h (abandonWait_keeps h))

theorem haltContext_keeps {ctx} (h : Keeps s₀ s) : Keeps s₀ (haltContext s ctx) := by
  unfold haltContext
  dsimp only
  split
  exacts [h, modCtx_keeps (Keeps.foldl h debugHalt_keeps)]

theorem stopThread_keeps {k} (h : Keeps s₀ s) : Keeps s₀ (stopThread s k) := by
  unfold stopThread
  refine .ite h (modThr_keeps (dropJob_keeps (dropArray_keeps (dropWait_keeps ?_))))
  split
  exacts [commitFinish_keeps h, .ite (abortTx_keeps h) h]

theorem failCommand_keeps {rk code bytes} (h : Keeps s₀ s) : Keeps s₀ (failCommand s rk code bytes) := .ite (finish_keeps h) h

theorem haulEnd_keeps {n ch code faddr} (h : Keeps s₀ s) : Keeps s₀ (haulEnd s n ch code faddr) := by
  unfold haulEnd
  refine .ite h ?_
  dsimp only
  split
  exacts [failCommand_keeps h, h]

theorem haulNote_keeps {n ch pos st faddr} (h : Keeps s₀ s) : Keeps s₀ (haulNote s n ch pos st faddr) := h

theorem haulSettle_keeps {n ch} (h : Keeps s₀ s) : Keeps s₀ (haulSettle s n ch) := by
  unfold haulSettle
  refine .ite h ?_
  split
  exacts [.ite (haulEnd_keeps h) h, .ite h h]

theorem haulGot_keeps {n ch tag bytes psn} (h : Keeps s₀ s) : Keeps s₀ (haulGot s n ch tag bytes psn) := .ite h h

theorem haulAcked_keeps {n ch tag} (h : Keeps s₀ s) :
    Keeps s₀ (haulAcked s n ch tag) :=
  .ite (haulSettle_keeps h) (.ite (haulSettle_keeps h) h)

theorem haulFailed_keeps {n ch tag code} (h : Keeps s₀ s) : Keeps s₀ (haulFailed s n ch tag code) := by
  unfold haulFailed
  refine .ite (haulEnd_keeps h) (.ite (haulEnd_keeps h) ?_)
  split
  · exact haulAcked_keeps h
  split
  exacts [haulSettle_keeps h, h]

theorem haulStopCh_keeps {n ch now} (h : Keeps s₀ s) :
    Keeps s₀ (haulStopCh s n ch now) :=
  .ite h (.ite (haulEnd_keeps h) (haulSettle_keeps h))

theorem haulStopIf_keeps {n now p} (h : Keeps s₀ s) :
    Keeps s₀ (haulStopIf s n now p) :=
  Keeps.foldl h (fun h1 => .ite (haulStopCh_keeps h1) h1)

theorem streamRelease_keeps {n} (h : Keeps s₀ s) : Keeps s₀ (streamRelease s n) := by
  unfold streamRelease
  refine Keeps.foldl h ?_
  intro s1 x1 h1
  dsimp only
  split
  exacts [h1, h1]

theorem unloadRegion_keeps {rid} (h : Keeps s₀ s) : Keeps s₀ (unloadRegion s rid) := by
  unfold unloadRegion
  dsimp only
  split
  exacts [h, Keeps.setRegions (Keeps.foldl h (fun h1 => streamRelease_keeps h1))]

theorem regionRecord_keeps {r node scls srcid status} (h : Keeps s₀ s) :
    Keeps s₀ (regionRecord s r node scls srcid status) :=
  recordCtx_keeps h

theorem loseRegion_keeps {rid} (h : Keeps s₀ s) : Keeps s₀ (loseRegion s rid) := by
  unfold loseRegion
  dsimp only
  split
  · exact h
  refine unloadRegion_keeps (regionRecord_keeps ?_)
  split
  exacts [finishWith_keeps h, h]

theorem mapInFlight_keeps {f} (h : Keeps s₀ s) : Keeps s₀ (mapInFlight s f) := h

theorem abandonCommands_keeps {ctx but quiet} (h : Keeps s₀ s) : Keeps s₀ (abandonCommands s ctx but quiet) := by
  unfold abandonCommands
  refine Keeps.setLaunches (Keeps.foldl h ?_)
  intro s1 rk h1
  refine .ite h1 ?_
  extract_lets r s2
  have h2 : Keeps s₀ s2 := by
    unfold s2
    split
    · exact .ite (modRing_keeps (.ite h1 (.foldl h1 answerPacket_keeps))) h1
    · exact h1
  split
  · have h3 {c : Prop} [Decidable c] : Keeps s₀ (if c then s2 else mapInFlight s2 (orphanRing rk)) := .ite h2 (mapInFlight_keeps h2)
    exact .ite (.ite (modRing_keeps h3) (finishWith_keeps h3)) h2
  · exact h2

theorem stopHauls_keeps {ctx} (h : Keeps s₀ s) : Keeps s₀ (stopHauls s ctx) := Keeps.foldl h haulStopIf_keeps

theorem unloadRegions_keeps {ctx} (h : Keeps s₀ s) : Keeps s₀ (unloadRegions s ctx) := Keeps.foldl h unloadRegion_keeps

theorem endContextNow_keeps {ctx} (h : Keeps s₀ s) : Keeps s₀ (endContextNow s ctx) := by
  unfold endContextNow
  dsimp only
  split
  · exact h
  · exact modCtx_keeps (abandonCommands_keeps (stopHauls_keeps (unloadRegions_keeps (Keeps.foldl (Keeps.foldl h stopThread_keeps) (fun h1 => h1)))))

theorem endContext_keeps {ctx k lvl cause faddr pc} (h : Keeps s₀ s) : Keeps s₀ (endContext s ctx k lvl cause faddr pc) :=
  endContextNow_keeps (recordCtx_keeps h)

theorem faultEvent_keeps {k lvl cause faddr pc} (h : Keeps s₀ s) : Keeps s₀ (faultEvent s k lvl cause faddr pc) := by
  unfold faultEvent
  split
  exacts [h, recordCtx_keeps h]

theorem haltThread_keeps {k} (h : Keeps s₀ s) : Keeps s₀ (haltThread s k) := h

theorem trimTables_keeps (h : Keeps s₀ s) : Keeps s₀ (trimTables s) := h

theorem fencedRecords_keeps {name reason restored pages ctxs} (h : Keeps s₀ s) :
    Keeps s₀ (fencedRecords s name reason restored pages ctxs) :=
  Keeps.foldl (recordDev_keeps h) recordCtx_keeps

theorem orphanCore_keeps {c} (h : Keeps s₀ s) : Keeps s₀ (orphanCore s c) := h

theorem quitCore_keeps {c} (h : Keeps s₀ s) : Keeps s₀ (quitCore s c) := by
  unfold quitCore
  exact modCore_keeps (orphanCore_keeps (Keeps.setLaunches (haulStopIf_keeps (Keeps.foldl h stopThread_keeps))))

theorem noteFence_keeps {name reason} (h : Keeps s₀ s) : Keeps s₀ (noteFence s name reason) := h

theorem finishAt_keeps {l} (h : Keeps s₀ s) : Keeps s₀ (finishAt s l) := Keeps.foldl h commitFinish_keeps

theorem peerReports_keeps {c} (h : Keeps s₀ s) : Keeps s₀ (peerReports s c) := by
  unfold peerReports
  refine Keeps.foldl h ?_
  intro s1 x1 h1
  split
  exacts [addAbort_keeps h1, h1]

theorem fenceCore_keeps {c reason} (h : Keeps s₀ s) : Keeps s₀ (fenceCore s c reason) := by
  unfold fenceCore
  refine .ite ?_ ?_
  · exact h
  · exact fencedRecords_keeps (noteFence_keeps (trimTables_keeps (modDev_keeps (Keeps.foldl (peerReports_keeps (quitCore_keeps
      (finishAt_keeps h))) loseRegion_keeps))))

theorem coreUncorrected_keeps {c} (h : Keeps s₀ s) : Keeps s₀ (coreUncorrected s c) := .ite (fenceCore_keeps h) h

/-! ### Path -/

theorem sendHeld_keeps {k e cls dst pay} (h : Keeps s₀ s) : Keeps s₀ (sendHeld s k e cls dst pay) := h

theorem handHeld_keeps {k e cls pay} (h : Keeps s₀ s) : Keeps s₀ (handHeld s k e cls pay) := h

theorem ledgerRead_keeps {k line} (h : Keeps s₀ s) : OnSome (Keeps s₀) (ledgerRead s k line) :=
  .ite (OnSome.at_some h) (.ite OnSome.at_none (OnSome.at_some h))

theorem ledgerWrite_keeps {k t bytes} (h : Keeps s₀ s) :
    OnSome (Keeps s₀) (ledgerWrite s k t bytes) :=
  .ite OnSome.at_none (OnSome.at_some h)

theorem sendVictim_keeps {n w} (h : Keeps s₀ s) : Keeps s₀ (sendVictim s n w) := sendMsg_keeps (countBc_keeps h)

theorem putBack_keeps {n key} (h : Keeps s₀ s) : Keeps s₀ (putBack s n key) := by
  unfold putBack
  dsimp only
  split
  exacts [h, .ite h (sendVictim_keeps h)]

theorem dropCached_keeps {k t} (h : Keeps s₀ s) : Dropped.Keeps s₀ (dropCached s k t) := by
  unfold dropCached
  dsimp only
  split
  · split
    · exact trivial
    split
    · exact h
    split
    exacts [h, putBack_keeps h]
  · exact h

theorem txRefused_keeps {x} : OnSome (Went.Keeps s₀) (txRefused x) := by
  unfold txRefused
  split
  exacts [OnSome.at_some trivial, OnSome.at_some trivial, OnSome.at_some trivial, OnSome.at_none]

theorem txReadOut_keeps {k x n} (h : Keeps s₀ s) : Went.Keeps s₀ (txReadOut s k x n) := by
  unfold txReadOut
  dsimp only
  split
  · exact txRefused_keeps.elim ‹_›
  refine .ite h (.ite trivial ?_)
  split
  · exact trivial
  split
  · exact trivial
  · split
    exacts [(dropCached_keeps h).of_sent ‹_›, trivial]
  · exact sendHeld_keeps ((dropCached_keeps ((ledgerRead_keeps h).elim ‹_›)).of_ready ‹_›)

theorem txWriteOut_keeps {k x bytes} (h : Keeps s₀ s) : Went.Keeps s₀ (txWriteOut s k x bytes) := by
  unfold txWriteOut
  dsimp only
  split
  · exact txRefused_keeps.elim ‹_›
  refine .ite trivial ?_
  split
  · exact trivial
  refine .ite ((ledgerWrite_keeps h).elim ‹_›) ?_
  split
  · exact trivial
  · split
    exacts [(dropCached_keeps h).of_sent ‹_›, trivial]
  · exact sendHeld_keeps ((dropCached_keeps ((ledgerWrite_keeps h).elim ‹_›)).of_ready ‹_›)

theorem plainReadOut_keeps {k x n} (h : Keeps s₀ s) : Went.Keeps s₀ (plainReadOut s k x n) := by
  unfold plainReadOut
  refine .ite trivial ?_
  split
  · exact .ite (.ite trivial (.ite h h)) h
  · exact .ite h trivial
  · exact .ite trivial h
  split <;> exact h

theorem plainWriteOut_keeps {k x bytes bank} (h : Keeps s₀ s) : Went.Keeps s₀ (plainWriteOut s k x bytes bank) := by
  unfold plainWriteOut
  refine .ite trivial ?_
  dsimp only
  split
  · exact .ite (.ite trivial (Keeps.ite (homeWrite_keeps h) (coreStore_keeps h))) h
  · exact .ite h trivial
  · exact .ite trivial h
  split
  exacts [handHeld_keeps (noteHostPort_keeps h), sendHeld_keeps (noteHostPort_keeps h)]

theorem readOut_keeps {k x n} (h : Keeps s₀ s) : Went.Keeps s₀ (readOut s k x n) := .ite (txReadOut_keeps h) (plainReadOut_keeps h)

theorem writeOut_keeps {k x bytes bank} (h : Keeps s₀ s) : Went.Keeps s₀ (writeOut s k x bytes bank) :=
  .ite (txWriteOut_keeps h) (plainWriteOut_keeps h)

/-! ### Exceptions -/

theorem storeSpan_keeps {k lvl x bs l} (h : Keeps s₀ s) : Stored.Keeps s₀ (storeSpan s k lvl x bs l) := by
  induction l generalizing s with
  | nil => exact h
  | cons p l ih =>
    unfold storeSpan
    dsimp only
    split
    · split
      · exact ih ((plainWriteOut_keeps (noteTranslate_keeps h)).of_now ‹_›)
      · exact ih ((plainWriteOut_keeps (noteTranslate_keeps h)).of_sent ‹_›)
      all_goals trivial
    all_goals trivial

theorem storeFrame_keeps {k lvl x words} (h : Keeps s₀ s) : Stored.Keeps s₀ (storeFrame s k lvl x words) := storeSpan_keeps h

theorem enterAt_keeps {k t e intr pc} (h : Keeps s₀ s) : Entry.Keeps s₀ (enterAt s k t e intr pc) := by
  unfold enterAt
  dsimp only
  split
  · exact trivial
  split
  · exact trivial
  · exact h
  · exact h
  split
  · exact trivial
  split
  exacts [trivial, h, h, setPc_keeps (wx_keeps (modSys_keeps ((storeFrame_keeps h).of_ok ‹_›)))]

theorem lockThread_keeps {k e pc entering} (h : Keeps s₀ s) : Keeps s₀ (lockThread s k e pc entering) := by
  unfold lockThread
  refine .ite (haltThread_keeps (.ite (modSys_keeps (faultEvent_keeps h)) (faultEvent_keeps h))) ?_
  split
  · exact haltContext_keeps (.ite (modSys_keeps (faultEvent_keeps h)) (faultEvent_keeps h))
  · exact debugHalt_keeps (.ite (modSys_keeps (faultEvent_keeps h)) (faultEvent_keeps h))

theorem backstopAct_keeps {s0 k code cause faddr pc} (hs : Keeps s₀ s) : Keeps s₀ (backstopAct s0 s k code cause faddr pc) := by
  unfold backstopAct
  refine .ite ?_ ?_
  · split
    exacts [endContext_keeps hs, stopThread_keeps hs]
  refine .ite (haltThread_keeps (modThr_keeps (faultEvent_keeps hs))) ?_
  split
  exacts [haltContext_keeps (faultEvent_keeps hs), debugHalt_keeps (faultEvent_keeps hs)]

theorem Taken_state_keeps {x} (hx : Taken.Keeps s₀ x) : Keeps s₀ x.state := by
  unfold Taken.state
  split <;> exact hx

theorem escalate_keeps {k e intr pc esc addr} (h : Keeps s₀ s) : Taken.Keeps s₀ (escalate s k e intr pc esc addr) := by
  unfold escalate
  extract_lets y l x30 within frame cause faddr vector
  split
  · exact lockThread_keeps h
  split
  · exact lockThread_keeps h
  · exact h
  · exact h
  have h1 {f v} : Keeps s₀ (setPc (wx (modSys _ k f) k 30 frame) k v) := setPc_keeps (wx_keeps (modSys_keeps ((storeFrame_keeps h).of_ok ‹_›)))
  exact Keeps.ite (backstopAct_keeps h1) h1

theorem enterOr_keeps {k t e intr pc} (h : Keeps s₀ s) : Taken.Keeps s₀ (enterOr s k t e intr pc) := by
  unfold enterOr
  split
  exacts [(enterAt_keeps h).of_ok ‹_›, escalate_keeps h, (enterAt_keeps h).of_wait ‹_›]

theorem route_keeps {k e pc} (h : Keeps s₀ s) : Taken.Keeps s₀ (route s k e pc) := by
  unfold route
  dsimp only
  split
  · exact lockThread_keeps h
  split
  · exact escalate_keeps h
  split
  · exact escalate_keeps h
  split
  · exact enterOr_keeps h
  split
  · exact enterOr_keeps h
  split
  exacts [h, enterOr_keeps h]

theorem abortRaise_keeps {k code e} (h : Keeps s₀ s) : Keeps s₀ (abortRaise s k code e) := by
  unfold abortRaise
  dsimp only
  split
  exacts [(route_keeps (abortTx_keeps h)).of_done ‹_›, modThr_keeps (abortTx_keeps h)]

theorem faultAt_keeps {k e pc} (h : Keeps s₀ s) : Keeps s₀ (faultAt s k e pc) := by
  unfold faultAt
  refine .ite h (.ite (abortRaise_keeps h) ?_)
  split
  · exact (route_keeps (dropJob_keeps h)).of_done ‹_›
  · exact modThr_keeps ((route_keeps (dropJob_keeps h)).of_wait ‹_›)

/-! ### PageTable -/

theorem zeroChunk_keeps {n n2} (h : Keeps s₀ s) : Keeps s₀ (zeroChunk s n n2) := h.memory (zeroChunk_memoryOk n n2) rfl rfl

theorem newFrame_keeps {ctx} (h : Keeps s₀ s) : OnSome (fun p => Keeps s₀ p.2) (newFrame s ctx) := by
  unfold newFrame
  dsimp only
  split
  exacts [.at_none, .at_some (modCtx_keeps (zeroChunk_keeps h))]

theorem setPte_keeps {n v} (h : Keeps s₀ s) : Keeps s₀ (setPte s n v) := homeWrite_keeps h

theorem dropRange_keeps {ctx lo len} (h : Keeps s₀ s) : Keeps s₀ (dropRange s ctx lo len) := Keeps.foldl h addAbort_keeps

theorem dropContext_keeps {ctx} (h : Keeps s₀ s) : Keeps s₀ (dropContext s ctx) := h

theorem withdrawLeaf_keeps {ctx l x} (h : Keeps s₀ s) : Keeps s₀ (withdrawLeaf ctx l s x) := by
  induction l generalizing s x with
  | nil => exact .ite (setPte_keeps h) h
  | cons sh l ih =>
    -- Reducing to the branch by `whnf`: the equation of this case makes Lean run through `List.range (2 ^ 16)`.
    conv => arg 2; whnf
    generalize instDecidableEqBool _ true = d
    cases d with
    | isTrue => exact h
    | isFalse =>
      dsimp only
      split
      · exact setPte_keeps h
      · exact setPte_keeps (.foldl ((newFrame_keeps h).elim ‹_›) fun h1 => ih (setPte_keeps h1))

theorem withdrawFrom_keeps {ctx} (h : Keeps s₀ s) :
    Keeps s₀ (withdrawFrom s ctx).1 :=
  Keeps.foldl (Keeps.foldl h withdrawLeaf_keeps) dropRange_keeps

/-! ### Fence -/

theorem linkRecord_keeps {p ev} (h : Keeps s₀ s) : Keeps s₀ (linkRecord s p ev) := recordDev_keeps h

theorem linkFall_keeps {p state ev} (h : Keeps s₀ s) : Keeps s₀ (linkFall s p state ev) := linkRecord_keeps h

theorem fenceBench_keeps {n reason} (h : Keeps s₀ s) : Keeps s₀ (fenceBench s n reason) := by
  unfold fenceBench
  refine .ite ?_ ?_
  · exact h
  · exact fencedRecords_keeps (noteFence_keeps (trimTables_keeps (modDev_keeps (haulStopIf_keeps (modBench_keeps (bcFlushAll_keeps
      (Keeps.foldl (Keeps.foldl (finishAt_keeps h) (fun h1 => peerReports_keeps (quitCore_keeps h1))) loseRegion_keeps)))))))

theorem fencePc_keeps {i reason} (h : Keeps s₀ s) : Keeps s₀ (fencePc s i reason) := by
  unfold fencePc
  refine .ite ?_ ?_
  · exact h
  · exact fencedRecords_keeps (noteFence_keeps (Keeps.foldl_fst (Keeps.foldl (Keeps.setWatches (modDev_keeps
      (finishAt_keeps h))) addAbort_keeps) withdrawFrom_keeps))

theorem fenceLane_keeps {i reason} (h : Keeps s₀ s) : Keeps s₀ (fenceLane s i reason) :=
  .ite h (fencedRecords_keeps (noteFence_keeps (.ite (.ite (linkFall_keeps h) h) h)))

theorem fenceUnitAt_keeps {kind i reason} (h : Keeps s₀ s) : Keeps s₀ (fenceUnitAt s kind i reason) :=
  .ite (fenceCore_keeps h) (.ite (fenceBench_keeps h) (.ite (fencePc_keeps h) (.ite (fenceLane_keeps h) h)))

theorem errorEvent_keeps {kind i which n param reason} (h : Keeps s₀ s) : Keeps s₀ (errorEvent s kind i which n param reason) :=
  .ite (fenceUnitAt_keeps h) h

theorem coreCorrected_keeps {c} (h : Keeps s₀ s) : Keeps s₀ (coreCorrected s c) := errorEvent_keeps h

theorem benchUncorrected_keeps {n} (h : Keeps s₀ s) : Keeps s₀ (benchUncorrected s n) := errorEvent_keeps h

theorem pcUncorrected_keeps {i} (h : Keeps s₀ s) : Keeps s₀ (pcUncorrected s i) := errorEvent_keeps h

theorem pcCorrected_keeps {i} (h : Keeps s₀ s) : Keeps s₀ (pcCorrected s i) := errorEvent_keeps h

theorem laneSymbols_keeps {i n} (h : Keeps s₀ s) : Keeps s₀ (laneSymbols s i n) := errorEvent_keeps h

theorem meetWrong_keeps {t wrong} (h : Keeps s₀ s) : Keeps s₀ (meetWrong s t wrong) := by
  unfold meetWrong
  split
  · split
    exacts [h, coreCorrected_keeps h, coreUncorrected_keeps h.addLsPoison]
  · split
    exacts [h, pcCorrected_keeps h, pcUncorrected_keeps h.addHbmPoison]
  · exact h

end

end Sys2Proof.Machine
end

section
/-!
PROOFS. Issue, accesses, the mesh and the homes: what every instruction shares, then each message from its sender through the mesh to its
home and back.
-/
namespace Sys2Proof.Machine

section
variable {s₀ s : State}

/-! ### Issue -/

theorem illegal_keeps (h : Keeps s₀ s) : Res.Keeps s₀ (illegal s) := h

theorem txIllegal_keeps (h : Keeps s₀ s) : Res.Keeps s₀ (txIllegal s) := h

theorem transientEvent_keeps {k engine} (h : Keeps s₀ s) : Keeps s₀ (transientEvent s k engine) :=
  .ite (fenceCore_keeps (countWindow_keeps (recordSdc_keeps h))) (countWindow_keeps (recordSdc_keeps h))

theorem permanentEvent_keeps {k engine} (h : Keeps s₀ s) : Keeps s₀ (permanentEvent s k engine) := fenceCore_keeps (recordSdc_keeps h)

theorem parityEvent_keeps {k engine} (h : Keeps s₀ s) : Keeps s₀ (parityEvent s k engine) :=
  .ite (faultAt_keeps (dropJob_keeps (coreUncorrected_keeps h))) (dropJob_keeps (coreUncorrected_keeps h))

theorem applyRes_keeps {k len enc x} (hx : Res.Keeps s₀ x) : Keeps s₀ (applyRes k len enc x) := by
  unfold applyRes
  split
  · exact retire_keeps (dropJob_keeps hx)
  · exact countInstret_keeps (setPc_keeps (dropJob_keeps hx))
  · exact faultAt_keeps (.ite hx hx)
  · refine .ite hx ?_
    split
    exacts [countInstret_keeps ((route_keeps hx).of_done ‹_›), (route_keeps hx).of_wait ‹_›]
  · exact hx
  · exact hx
  · exact abortTx_keeps hx
  · exact countInstret_keeps (dropJob_keeps hx)

theorem meetChk_keeps {k x} (h : Keeps s₀ s) : Keeps s₀ (meetChk s k x).1 := by
  unfold meetChk
  dsimp only
  split
  exacts [meetWrong_keeps h, h]

theorem runInstr_keeps {hart engine enc body k} (hbody : ∀ {s : State} {n : Nat}, Keeps s₀ s → Res.Keeps s₀ (body s n)) (hs : Keeps s₀ s) :
    Keeps s₀ (runInstr hart engine enc body s k) := by
  unfold runInstr
  dsimp only
  split
  · exact parityEvent_keeps hs
  · exact permanentEvent_keeps hs
  · exact applyRes_keeps (hbody hs)
  · exact .ite (applyRes_keeps (hbody (meetChk_keeps hs))) (meetChk_keeps hs)
  · exact .ite (transientEvent_keeps (applyRes_keeps (hbody hs))) (applyRes_keeps (hbody hs))

theorem fetchThen_keeps {k compact pc unseen go} (h : Keeps s₀ s) (hunseen : Keeps s₀ unseen)
    (hgo : ∀ {x x2 : BitVec 16}, Keeps s₀ (go x x2)) :
    Keeps s₀ (fetchThen s k compact pc unseen go) := by
  unfold fetchThen
  split
  exacts [faultAt_keeps h, h, .ite (abortTx_keeps h) h, hunseen, hgo]

theorem fetched_keeps {k hart want pc go} (h : Keeps s₀ s) (hgo : Keeps s₀ go) : Keeps s₀ (fetched s k hart want pc go) := by
  unfold fetched
  refine fetchThen_keeps h hgo ?_
  intro x1 x21
  split
  exacts [faultAt_keeps h, .ite hgo h]

theorem issueThread_keeps {hart i engine regs body} (hbody : ∀ {s : State} {n : Nat}, Keeps s₀ s → Res.Keeps s₀ (body s n))
    (hs : Keeps s₀ s) :
    Keeps s₀ (issueThread hart i engine regs body s) := by
  unfold issueThread
  dsimp only
  split
  exacts [.ite (runInstr_keeps hbody hs) hs, .ite hs (fetched_keeps hs (.ite hs (runInstr_keeps hbody hs)))]

theorem issue_keeps {hart i engine regs body} (hbody : ∀ {s : State} {n : Nat}, Keeps s₀ s → Res.Keeps s₀ (body s n)) (hs : Keeps s₀ s) :
    OutKeeps s₀ (issue hart i engine regs body s) :=
  Keeps.ite (issueThread_keeps hbody hs) hs

theorem onThread_keeps {c t f} (hf : ∀ {s : State} {n : Nat}, Keeps s₀ s → Keeps s₀ (f s n)) (hs : Keeps s₀ s) :
    OutKeeps s₀ (onThread c t f s) :=
  Keeps.ite hs (hf hs)

theorem onNode_keeps {n f} (hf : ∀ {s : State} {n : Nat}, Keeps s₀ s → Keeps s₀ (f s n)) (hs : Keeps s₀ s) : OutKeeps s₀ (onNode n f s) :=
  Keeps.ite hs (hf hs)

theorem onBench_keeps {n f} (hf : ∀ {s : State} {n : Nat}, Keeps s₀ s → Keeps s₀ (f s n)) (hs : Keeps s₀ s) : OutKeeps s₀ (onBench n f s) :=
  Keeps.ite hs (hf hs)

theorem onCore_keeps {c f} (hf : ∀ {s : State} {n : Nat}, Keeps s₀ s → Keeps s₀ (f s n)) (hs : Keeps s₀ s) : OutKeeps s₀ (onCore c f s) :=
  Keeps.ite hs (hf hs)

theorem completeWait_keeps {k len} (h : Keeps s₀ s) : Keeps s₀ (completeWait s k len) := retire_keeps (modThr_keeps (dropJob_keeps h))

theorem faultWait_keeps {k e} (h : Keeps s₀ s) : Keeps s₀ (faultWait s k e) := faultAt_keeps h

/-! ### Access -/

theorem findTarget_keeps {k acc va n} (h : Keeps s₀ s) : Found.Keeps s₀ (findTarget s k acc va n) := by
  unfold findTarget
  dsimp only
  split
  · exact h
  split
  exacts [noteTranslate_keeps h, h, Res.Keeps.ite (txIllegal_keeps h) h, noteTranslate_keeps h]

theorem sinkValue_keeps {k sink v} (h : Keeps s₀ s) : Keeps s₀ (sinkValue s k sink v) := by
  unfold sinkValue
  split
  exacts [wx_keeps h, wx_keeps h, h]

theorem scalarLoad_keeps {k va n sink fin} (h : Keeps s₀ s) (hfin : ∀ {s : State}, Keeps s₀ s → Keeps s₀ (fin s)) :
    Res.Keeps s₀ (scalarLoad s k va n sink fin) := by
  unfold scalarLoad
  split
  · exact (findTarget_keeps h).of_stop ‹_›
  split
  exacts [hfin (sinkValue_keeps ((readOut_keeps ((findTarget_keeps h).of_at ‹_›)).of_now ‹_›)),
    hfin ((readOut_keeps ((findTarget_keeps h).of_at ‹_›)).of_sent ‹_›),
    addDeferred_keeps (hfin ((readOut_keeps ((findTarget_keeps h).of_at ‹_›)).of_poison ‹_›)),
    (findTarget_keeps h).of_at ‹_›, (findTarget_keeps h).of_at ‹_›, h,
    (readOut_keeps ((findTarget_keeps h).of_at ‹_›)).of_later ‹_›]

theorem scalarStore_keeps {k va n v fin} (h : Keeps s₀ s) (hfin : ∀ {s : State}, Keeps s₀ s → Keeps s₀ (fin s)) :
    Res.Keeps s₀ (scalarStore s k va n v fin) := by
  unfold scalarStore
  split
  · exact (findTarget_keeps h).of_stop ‹_›
  split
  exacts [hfin ((writeOut_keeps ((findTarget_keeps h).of_at ‹_›)).of_now ‹_›),
    hfin ((writeOut_keeps ((findTarget_keeps h).of_at ‹_›)).of_sent ‹_›),
    addDeferred_keeps (hfin ((writeOut_keeps ((findTarget_keeps h).of_at ‹_›)).of_poison ‹_›)),
    (findTarget_keeps h).of_at ‹_›, (findTarget_keeps h).of_at ‹_›, h,
    (writeOut_keeps ((findTarget_keeps h).of_at ‹_›)).of_later ‹_›]

theorem scalarAtomic_keeps {k va f rd operand compare} (h : Keeps s₀ s) : Res.Keeps s₀ (scalarAtomic s k va f rd operand compare) := by
  unfold scalarAtomic
  refine .ite (txIllegal_keeps h) ?_
  dsimp only
  split
  · exact (findTarget_keeps h).of_stop ‹_›
  refine .ite ((findTarget_keeps h).of_at ‹_›) (.ite h ?_)
  split
  · exact h
  · exact (dropCached_keeps ((findTarget_keeps h).of_at ‹_›)).of_sent ‹_›
  · exact sendHeld_keeps ((dropCached_keeps ((findTarget_keeps h).of_at ‹_›)).of_ready ‹_›)

/-! ### Cells -/

theorem keepEntry_keeps {n ctx name} (h : Keeps s₀ s) : Keeps s₀ (keepEntry s n ctx name) := by
  unfold keepEntry
  dsimp only
  split
  exacts [h, .ite h (.ite (countTu_keeps h) (modBench_keeps (countTu_keeps h)))]

theorem watchQuiet_keeps (h : Keeps s₀ s) : Keeps s₀ (watchQuiet s) := h

/-! ### Counters -/

theorem ctrFault_keeps {k name reason} (h : Keeps s₀ s) : Res.Keeps s₀ (ctrFault s k name reason) := h

theorem ctrPoison_keeps (h : Keeps s₀ s) : Res.Keeps s₀ (ctrPoison s) := h

theorem withCell_keeps {k name f} (h : Keeps s₀ s) (hf : ∀ {s : State} {x : CellId}, Keeps s₀ s → Res.Keeps s₀ (f s x)) :
    Res.Keeps s₀ (withCell s k name f) := by
  unfold withCell
  dsimp only
  split
  exacts [ctrFault_keeps (keepEntry_keeps h), ctrPoison_keeps (keepEntry_keeps h), hf (keepEntry_keeps h)]

theorem stageCounter_keeps {k cell amount name} (h : Keeps s₀ s) : Res.Keeps s₀ (stageCounter s k cell amount name) := by
  unfold stageCounter
  split
  exacts [h, .ite h h]

theorem bodyCinc_keeps {ordered rd rs1 rs2 k} (h : Keeps s₀ s) : Res.Keeps s₀ (bodyCinc ordered rd rs1 rs2 s k) := by
  unfold bodyCinc
  refine .ite (illegal_keeps h) (.ite (ctrFault_keeps h) (withCell_keeps h ?_))
  intro s1 x1 h1
  refine .ite (stageCounter_keeps h1) (.ite (dropJob_keeps h) (.ite h ?_))
  split
  exacts [.ite h1 h1, h1]

theorem bodyCdec_keeps {rd rs1 rs2 k} (h : Keeps s₀ s) : Res.Keeps s₀ (bodyCdec rd rs1 rs2 s k) := by
  unfold bodyCdec
  refine .ite (illegal_keeps h) (.ite (txIllegal_keeps h) (.ite (ctrFault_keeps h) (withCell_keeps h ?_)))
  intro s1 x1 h1
  split
  exacts [.ite h1 h1, h1]

theorem bodyCwait_keeps {rd rs1 rs2 k} (h : Keeps s₀ s) : Res.Keeps s₀ (bodyCwait rd rs1 rs2 s k) := by
  unfold bodyCwait
  refine .ite (illegal_keeps h) (.ite (txIllegal_keeps h) (withCell_keeps h ?_))
  intro s1 x1 h1
  refine .ite (ctrFault_keeps h1) (.ite (ctrFault_keeps h1) ?_)
  dsimp only
  split
  · exact h1
  · split
    exacts [ctrFault_keeps (counterRecord_keeps h1), ctrFault_keeps h1]
  split
  exacts [modThr_keeps (.ite h1 h1), h1]

theorem bodyCread_keeps {rd rs1 rs2 k} (h : Keeps s₀ s) : Res.Keeps s₀ (bodyCread rd rs1 rs2 s k) := by
  unfold bodyCread
  refine .ite (illegal_keeps h) (.ite (txIllegal_keeps h) (withCell_keeps h ?_))
  intro s1 x1 h1
  split
  exacts [ctrFault_keeps h1, .ite (ctrFault_keeps h1) (.ite h (wx_keeps h1))]

theorem cwaitSatisfied_keeps {k} (h : Keeps s₀ s) : Keeps s₀ (cwaitSatisfied s k) := by
  unfold cwaitSatisfied
  split
  exacts [completeWait_keeps h, h]

theorem cwaitPoll_keeps {k} (h : Keeps s₀ s) : Keeps s₀ (cwaitPoll s k) := by
  unfold cwaitPoll
  split
  exacts [.ite h (.ite (completeWait_keeps h) h), h]

theorem counterApply_keeps {m} (h : Keeps s₀ s) : Keeps s₀ (counterApply s m) := by
  unfold counterApply
  dsimp only
  split
  · exact h
  refine .ite h ?_
  split
  · exact h
  · split
    · exact reply_keeps ((applyCell_keeps h).of_ok ‹_›)
    refine reply_keeps ?_
    split
    exacts [counterRecord_keeps h, h]
  · split
    exacts [inboxDrop_keeps ((applyCell_keeps h).of_ok ‹_›), h]
  · exact h

theorem writeSnapshots_keeps {ks} (h : Keeps s₀ s) : Keeps s₀ (writeSnapshots s ks) := Keeps.foldl h homeWrite_keeps

theorem quietLimitReached_keeps {ctx} (h : Keeps s₀ s) : Keeps s₀ (quietLimitReached s ctx) := by
  unfold quietLimitReached
  split
  · exact h
  split
  exacts [h, .ite (modCtx_keeps h) h]

theorem contextDeadlock_keeps {ctx} (h : Keeps s₀ s) : Keeps s₀ (contextDeadlock s ctx) := by
  unfold contextDeadlock
  dsimp only
  split
  · exact h
  refine .ite h (.ite (modCtx_keeps h) (.ite ?_ ?_))
  · exact Keeps.foldl (recordCtx_keeps (writeSnapshots_keeps (modCtx_keeps h))) (fun h1 => h1)
  · exact haltContext_keeps (recordCtx_keeps (writeSnapshots_keeps (modCtx_keeps h)))

/-! ### Mesh -/

theorem countFlit_keeps {n} (h : Keeps s₀ s) : Keeps s₀ (countFlit s n) := .ite (recordWrap_keeps h) h

theorem linkPump_keeps {p n} (h : Keeps s₀ s) : Keeps s₀ (linkPump s p n) := by
  induction n generalizing s with
  | zero => exact h
  | succ n ih =>
    unfold linkPump
    refine .ite h ?_
    split
    exacts [h, ih h]

theorem linkDrain_keeps {p} (h : Keeps s₀ s) : Keeps s₀ (linkDrain s p) := linkPump_keeps h

theorem linkSend_keeps {m arr} (h : Keeps s₀ s) : OnSome (Keeps s₀) (linkSend s m arr) := by
  unfold linkSend
  dsimp only
  split
  exacts [OnSome.at_none, OnSome.at_some (linkDrain_keeps h)]

theorem linkDeliver_keeps {x} (h : Keeps s₀ s) : Keeps s₀ (linkDeliver s x) := by
  unfold linkDeliver
  dsimp only
  split
  · split
    exacts [(linkSend_keeps (Keeps.setInbox h)).elim ‹_›, h]
  split
  · split
    exacts [(linkSend_keeps h).elim ‹_›, h]
  split
  · split
    exacts [(linkSend_keeps h).elim ‹_›, h]
  · exact h

theorem deliver_keeps {x} (h : Keeps s₀ s) : Keeps s₀ (deliver s x) := .ite (linkDeliver_keeps h) h

theorem keepFlit_keeps {n d f} (h : Keeps s₀ s) : Keeps s₀ (keepFlit s n d f) := h

theorem flitHop_keeps {d n} (h : Keeps s₀ s) : Keeps s₀ (flitHop d s n) := by
  unfold flitHop
  dsimp only
  split
  · exact h
  refine .ite h ?_
  split
  · exact h
  split
  · exact h
  refine .ite ?_ ?_
  · exact Keeps.foldl (modNode_keeps (countFlit_keeps h)) deliver_keeps
  · exact keepFlit_keeps (Keeps.setMesh (modNode_keeps (countFlit_keeps h)))

theorem meshReplay_keeps {d n} (h : Keeps s₀ s) : Keeps s₀ (meshReplay d s n) := by
  unfold meshReplay
  dsimp only
  split
  exacts [h, .ite h h]

/-! ### Home -/

theorem settle_keeps {x} (h : Keeps s₀ s) : Keeps s₀ (settle s x) := by
  unfold settle
  split
  exacts [gbufFlush_keeps h, h]

theorem performHome_keeps {x} (h : Keeps s₀ s) : OnSome (fun p => Keeps s₀ p.1) (performHome s x) := by
  unfold performHome
  dsimp only
  split
  · exact .ite (OnSome.at_some h) (.ite OnSome.at_none (OnSome.at_some (settle_keeps h)))
  · exact .ite (OnSome.at_some h) (.ite OnSome.at_none (OnSome.at_some (homeWrite_keeps h)))
  · refine .ite ?_ ?_
    · exact OnSome.at_some h
    · exact .ite OnSome.at_none (.ite (OnSome.at_some (settle_keeps h)) (OnSome.at_some (homeWrite_keeps (settle_keeps h))))
  · refine .ite (OnSome.at_some h) ?_
    split
    · exact OnSome.at_some h
    refine .ite (OnSome.at_some h) (.ite (OnSome.at_some (settle_keeps h)) ?_)
    split
    exacts [OnSome.at_some (settle_keeps h), OnSome.at_some ((placeWatch_keeps (settle_keeps h)).elim ‹_›)]
  · exact OnSome.at_none

theorem serve_keeps {wrong x} (h : Keeps s₀ s) : Keeps s₀ (serve wrong s x) := by
  unfold serve
  dsimp only
  split
  · exact h
  refine (performHome_keeps (s := ?_) ?_).elim ‹_›
  split
  exacts [meetWrong_keeps h, h]

theorem localStoreAccess_keeps {wrong m} (h : Keeps s₀ s) : Keeps s₀ (localStoreAccess wrong s m) := by
  unfold localStoreAccess
  split
  · exact h
  split
  exacts [.ite h (serve_keeps h), .ite h (serve_keeps h), h]

theorem hbmReadAt_keeps {wrong m} (h : Keeps s₀ s) : Keeps s₀ (hbmReadAt wrong s m) := by
  unfold hbmReadAt
  split
  · exact h
  split
  exacts [.ite h (serve_keeps h), h]

theorem hbmWriteAt_keeps {wrong m} (h : Keeps s₀ s) : Keeps s₀ (hbmWriteAt wrong s m) := by
  unfold hbmWriteAt
  dsimp only
  split
  · exact h
  split
  exacts [.ite h (modStack_keeps (serve_keeps h)), h]

theorem homeAtomic_keeps {wrong m} (h : Keeps s₀ s) : Keeps s₀ (homeAtomic wrong s m) := by
  unfold homeAtomic
  split
  · exact h
  split
  exacts [h, .ite h (serve_keeps h), h]

theorem txReadAt_keeps {wrong m} (h : Keeps s₀ s) : Keeps s₀ (txReadAt wrong s m) := by
  unfold txReadAt
  split
  · exact h
  split
  exacts [.ite h (serve_keeps h), h]

theorem patrolScrub_keeps {offset wrong c} (h : Keeps s₀ s) : Keeps s₀ (patrolScrub offset wrong s c) := .ite (meetWrong_keeps h) h

theorem hbmScrub_keeps {n o wrong} (h : Keeps s₀ s) : Keeps s₀ (hbmScrub n o wrong s) := by
  unfold hbmScrub
  dsimp only
  split
  exacts [h, pcCorrected_keeps h, pcUncorrected_keeps h.addHbmPoison]

/-! ### TileRegs -/

theorem modTile_keeps {k t f} (h : Keeps s₀ s) : Keeps s₀ (modTile s k t f) := h

theorem tileFault_keeps {reason t} (h : Keeps s₀ s) : Res.Keeps s₀ (tileFault s reason t) := h

/-! ### Pieces -/

theorem modJob_keeps {k f} (h : Keeps s₀ s) : Keeps s₀ (modJob s k f) := h

theorem placeFailed_keeps {k place e} (h : Keeps s₀ s) : Keeps s₀ (placeFailed s k place e) := h

theorem laneDone_keeps {k f write i bytes} (h : Keeps s₀ s) : Keeps s₀ (laneDone s k f write i bytes) := modSys_keeps (.ite h h)

theorem settleRows_keeps {f store k n} (h : Keeps s₀ s) : Keeps s₀ (settleRows f store k n s) := by
  induction n generalizing s with
  | zero => exact h
  | succ n ih =>
    unfold settleRows
    refine .ite h (.ite (ih h) ?_)
    split
    exacts [placeFailed_keeps h, ih h]

theorem partDone_keeps {k i bytes} (h : Keeps s₀ s) : Keeps s₀ (partDone s k i bytes) := by
  unfold partDone
  dsimp only
  split
  exacts [.ite h (laneDone_keeps h), settleRows_keeps h, h]

theorem partFailed_keeps {k i e} (h : Keeps s₀ s) : Keeps s₀ (partFailed s k i e) := h

theorem sendParts_keeps {k engine write posted n} (h : Keeps s₀ s) : Sent.Keeps s₀ (sendParts k engine write posted n s) := by
  induction n generalizing s with
  | zero => exact h
  | succ n ih =>
    unfold sendParts
    dsimp only
    split
    · exact h
    have went {a : Access1} {bs m} : (if write then writeOut s k a bs (engine == 2) else readOut s k a m).Keeps s₀ :=
      .ite (writeOut_keeps h) (readOut_keeps h)
    split
    · exact ih (partDone_keeps (modJob_keeps (went.of_now ‹_›)))
    · exact ih (.ite (partDone_keeps (modJob_keeps (went.of_sent ‹_›))) (modJob_keeps (went.of_sent ‹_›)))
    · exact ih (partFailed_keeps (modJob_keeps (went.of_poison ‹_›)))
    · exact ih (partFailed_keeps h)
    · exact h
    · exact h
    · exact went.of_later ‹_›

theorem sendAll_keeps {k engine write posted} (h : Keeps s₀ s) : Sent.Keeps s₀ (sendAll s k engine write posted) := sendParts_keeps h

theorem badPiece_keeps {k write va x} (h : Keeps s₀ s) : Res.Keeps s₀ (badPiece s k write va x) := by
  unfold badPiece
  split
  exacts [h, h, txIllegal_keeps h, h]

theorem notePieces_keeps {k vas} (h : Keeps s₀ s) : Keeps s₀ (notePieces s k vas) := Keeps.foldl h noteTranslate_keeps

theorem sendLanes_keeps {k engine write posted} (h : Keeps s₀ s) :
    Sent.Keeps s₀ (if (lowestBad (jobOf s k)).isSome then .ok s else sendAll s k engine write posted) := by
  split
  exacts [h, sendAll_keeps h]

theorem runLanes_keeps {k engine n write posted firm lanes data fin} (h : Keeps s₀ s)
    (hfin : ∀ {s : State} {x : Job}, Keeps s₀ s → Res.Keeps s₀ (fin s x)) :
    Res.Keeps s₀ (runLanes s k engine n write posted firm lanes data fin) := by
  unfold runLanes
  dsimp only
  split
  · split
    · exact (sendLanes_keeps h).of_abort ‹_›
    have h2 := (sendLanes_keeps h).of_ok ‹_›
    refine .ite h2 ?_
    split
    exacts [h2, .ite (hfin h2) (.ite (dropJob_keeps h2) h2)]
  split
  · exact badPiece_keeps h
  have h1 {j va} : Keeps s₀ (modThr (notePieces s k va) k fun t => { t with job := j }) := notePieces_keeps h
  split
  · exact (sendLanes_keeps h1).of_abort ‹_›
  have h2 := (sendLanes_keeps h1).of_ok ‹_›
  refine .ite h2 ?_
  split
  exacts [h2, .ite (hfin h2) (.ite (dropJob_keeps h2) h2)]

/-! ### Responses -/

theorem errorTo_keeps {e code} (h : Keeps s₀ s) : Keeps s₀ (errorTo s e code) := by
  unfold errorTo
  split <;> exact h

theorem failAccess_keeps {c slot node code} (h : Keeps s₀ s) : Keeps s₀ (failAccess s c slot node code) := by
  unfold failAccess
  dsimp only
  split
  · exact h
  · exact .ite h (.ite (.ite (addAbort_keeps h) (.ite (addAbort_keeps h) (errorTo_keeps h))) (errorTo_keeps h))

theorem txPoison_keeps {k engine holder dev} (h : Keeps s₀ s) : Keeps s₀ (txPoison s k engine holder dev) := abortRaise_keeps h

theorem answered_keeps {e bytes} (h : Keeps s₀ s) : Keeps s₀ (answered s e bytes) := by
  unfold answered
  split
  exacts [partDone_keeps h, sinkValue_keeps h]

theorem finishAccess_keeps {c slot bytes poison holder} (h : Keeps s₀ s) : Keeps s₀ (finishAccess s c slot bytes poison holder) := by
  unfold finishAccess
  dsimp only
  split
  · exact h
  · exact .ite h (.ite (.ite (txPoison_keeps h) (answered_keeps h)) (.ite (errorTo_keeps h) (answered_keeps h)))

theorem finishWrite_keeps {c slot} (h : Keeps s₀ s) : Keeps s₀ (finishWrite s c slot) := by
  unfold finishWrite
  split
  · exact h
  split
  exacts [partDone_keeps h, h]

theorem retentionExit_keeps {n} (h : Keeps s₀ s) : Keeps s₀ (retentionExit s n) := by
  unfold retentionExit
  refine .ite h ?_
  split
  · exact h
  split
  · exact h
  split
  exacts [.ite h (serve_keeps h), h]

theorem flushed_keeps {k p} (h : Keeps s₀ s) : Keeps s₀ (flushed s k p) := .ite (completeWait_keeps h) h

theorem unitData_keeps {m x} (h : Keeps s₀ s) : Keeps s₀ (unitData s m x) := by
  unfold unitData
  split
  exacts [haulGot_keeps h, .ite (haulFailed_keeps h) h, flushed_keeps h, flushed_keeps h, h, h, h]

theorem loadResponse_keeps {m ext} (h : Keeps s₀ s) : Keeps s₀ (loadResponse m ext s) := by
  unfold loadResponse
  split
  · exact h
  split
  · exact .ite h h
  · exact .ite h h
  · exact .ite (finishAccess_keeps h) h
  · exact .ite (failAccess_keeps h) h
  · exact unitData_keeps h

theorem hostWriteAnswer_keeps {x p n bytes poison req} (h : Keeps s₀ s) : Keeps s₀ (hostWriteAnswer s x p n bytes poison req) :=
  .ite (reply_keeps (homeWrite_keeps h)) h

theorem signalled_keeps {rk status reason} (h : Keeps s₀ s) : Keeps s₀ (signalled s rk status reason) := .ite (finish_keeps h) h

theorem unitAcked_keeps {m x} (h : Keeps s₀ s) : Keeps s₀ (unitAcked s m x) := by
  unfold unitAcked
  split
  exacts [haulAcked_keeps h, .ite h (haulFailed_keeps h), signalled_keeps h, signalled_keeps h, h, h, h]

theorem writeAcknowledgement_keeps {m} (h : Keeps s₀ s) : Keeps s₀ (writeAcknowledgement m s) := by
  unfold writeAcknowledgement
  dsimp only
  split
  · exact h
  split
  exacts [.ite h (hostWriteAnswer_keeps h), finishWrite_keeps h, .ite h (finishWrite_keeps h),
    .ite h (failAccess_keeps h), h, h, h, h, h, unitAcked_keeps h]

theorem deferredFault_keeps {k} (h : Keeps s₀ s) : Keeps s₀ (deferredFault s k) := by
  unfold deferredFault
  dsimp only
  split
  · exact h
  refine .ite (.ite (abortRaise_keeps (modThr_keeps (abandonWait_keeps h))) ?_) h
  split
  · exact (route_keeps (modThr_keeps (abandonWait_keeps h))).of_done ‹_›
  · exact modThr_keeps ((route_keeps (modThr_keeps (abandonWait_keeps h))).of_wait ‹_›)

end

end Sys2Proof.Machine
end

section
/-!
PROOFS. Registers, bench caches, Skip Buses and links: register writes with their guards, the steps of a bench cache, the Skip Buses and the
links to other devices.
-/
namespace Sys2Proof.Machine

section
variable {s₀ s : State}

/-! ### Registers -/

theorem regFlag_keeps {n kind off src} (h : Keeps s₀ s) : Keeps s₀ (regFlag s n kind off src) := h

theorem hregFlag_keeps {p kind off} (h : Keeps s₀ s) : Keeps s₀ (hregFlag s p kind off) := h

theorem fromSourceE_keeps {w n off len v act} (h : Keeps s₀ s) (hact : ∀ {s : State}, Keeps s₀ s → Keeps s₀ (act s).2) :
    Keeps s₀ (fromSourceE s w n off len v act) := by
  unfold fromSourceE
  dsimp only
  split
  · split
    · exact h
    split
    exacts [.ite (reply_keeps (hact h)) h, h]
  · exact h
  · exact hact h

theorem fromSource_keeps {w n off len v act} (h : Keeps s₀ s) (hact : ∀ {s : State}, Keeps s₀ s → Keeps s₀ (act s).2) :
    Keeps s₀ (fromSource s w n off len v act) :=
  fromSourceE_keeps h hact

theorem guardFirst_keeps {w n off len v} (h : Keeps s₀ s) : Keeps s₀ (guardFirst w n off len v s).2 := by
  unfold guardFirst
  repeat' split
  all_goals exact h

theorem guardSecond_keeps {g w n len v apply} (happly : ∀ {s : State} {x : W64}, Keeps s₀ s → Keeps s₀ (apply s x)) (hs : Keeps s₀ s) :
    Keeps s₀ (guardSecond g w n len v apply s).2 := by
  unfold guardSecond
  dsimp only
  split
  exacts [happly hs, hs]

theorem guardTimeout_keeps {n} (h : Keeps s₀ s) : Keeps s₀ (guardTimeout s n) := by
  unfold guardTimeout
  split
  exacts [h, .ite h h]

theorem setWayen_keeps {n v} (h : Keeps s₀ s) : Keeps s₀ (setWayen n s v) := by
  unfold setWayen
  exact .ite h h

theorem setHaulStop_keeps {n v} (h : Keeps s₀ s) : Keeps s₀ (setHaulStop n s v) := by
  unfold setHaulStop
  exact Keeps.foldl h (fun h1 => .ite (haulStopCh_keeps h1) h1)

theorem setLinkCtl_keeps {p o len v} (h : Keeps s₀ s) : Keeps s₀ (setLinkCtl s p o len v).1 := .ite (linkFall_keeps h) h

theorem setStream_keeps {n o8 o len v} (h : Keeps s₀ s) : Keeps s₀ (setStream s n o8 o len v).1 := by
  unfold setStream
  dsimp only
  split
  · exact .ite h h
  repeat' split
  all_goals exact h

theorem clearRegister_keeps {n blk o8 o len v} (h : Keeps s₀ s) : OnSome (Keeps s₀) (clearRegister s n blk o8 o len v) :=
  .ite (.at_some h) (.ite (.at_some h) (.ite (.at_some h) (.ite .at_none (.ite (.at_some h) (.ite (.at_some h) (.ite (.at_some h)
    (.ite (.at_some (setStream_keeps h)) (.ite (.at_some h) (.ite (.at_some h) .at_none)))))))))

theorem setRegister_keeps {n blk o8 o len v} (h : Keeps s₀ s) : OnSome (fun p => Keeps s₀ p.1) (setRegister s n blk o8 o len v) := by
  unfold setRegister
  refine .ite (OnSome.at_some h) (.ite (OnSome.at_some (setLinkCtl_keeps h)) (.ite (OnSome.at_some h) (.ite ?_ ?_)))
  · exact OnSome.at_some h
  · exact .ite (.ite (OnSome.at_some (setStream_keeps h)) OnSome.at_none) (.ite (OnSome.at_some h) OnSome.at_none)

theorem registerWrite_keeps {w n off len v} (h : Keeps s₀ s) : Keeps s₀ (registerWrite w n off len v s).2 := by
  unfold registerWrite
  dsimp only
  split
  · exact guardSecond_keeps (fun h1 => .ite (setWayen_keeps h1) (setHaulStop_keeps h1)) h
  split
  · exact h
  split
  · exact (clearRegister_keeps h).elim ‹_›
  split
  · exact h
  split
  exacts [h, .ite (regFlag_keeps ((setRegister_keeps h).elim ‹_›)) ((setRegister_keeps h).elim ‹_›)]

theorem hostRegister_keeps {p off len v} (h : Keeps s₀ s) : Keeps s₀ (hostRegister s p off len v) :=
  .ite h (.ite (.ite h h) (.ite (.ite h (.ite h h)) h))

theorem execRegisterWrite_keeps {w node offset len value} (h : Keeps s₀ s) : OutKeeps s₀ (execRegisterWrite w node offset len value s) := by
  unfold execRegisterWrite
  dsimp only
  split
  exacts [Keeps.ite h (hostRegister_keeps h), Keeps.ite h (fromSource_keeps h registerWrite_keeps)]

theorem guardedWrite_keeps {w n off complement cls v apply} (happly : ∀ {s : State} {x : W64}, Keeps s₀ s → Keeps s₀ (apply s x))
    (hs : Keeps s₀ s) :
    Keeps s₀ (guardedWrite w n off complement cls v apply s) := by
  unfold guardedWrite
  refine .ite ?_ ?_
  · split
    exacts [fromSource_keeps hs registerWrite_keeps, fromSource_keeps hs (guardSecond_keeps happly)]
  refine .ite ?_ ?_
  · exact fromSource_keeps hs (fun h1 => h1)
  · exact .ite (fromSource_keeps hs (fun h1 => h1)) (fromSource_keeps hs guardFirst_keeps)

theorem wayPowerDown_keeps {n} (h : Keeps s₀ s) : Keeps s₀ (wayPowerDown s n) := .ite h (.ite (.ite h h) (Keeps.foldl h putBack_keeps))

/-! ### CacheRows -/

theorem endByTag_keeps {n ctx} (h : Keeps s₀ s) : Keeps s₀ (endByTag s n ctx) := by
  unfold endByTag
  dsimp only
  split
  exacts [h, endContext_keeps h]

theorem cacheFinding_keeps {n line found} (h : Keeps s₀ s) : Keeps s₀ (cacheFinding s n line found) := by
  unfold cacheFinding
  dsimp only
  split
  · exact h
  · exact .ite h h
  · split
    exacts [h, .ite h (.ite h (benchUncorrected_keeps h))]
  split
  exacts [h, .ite h (Keeps.foldl (benchUncorrected_keeps h) endByTag_keeps)]

theorem handAnswer_keeps {m n pay} (h : Keeps s₀ s) : Keeps s₀ (handAnswer s m n pay) := h

theorem startFetch_keeps {n line key victim x} (h : Keeps s₀ s) : Keeps s₀ (startFetch s n line key victim x) := by
  unfold startFetch
  dsimp only
  split
  exacts [sendVictim_keeps h, .ite h h]

theorem bcReadStep_keeps {found x t len req} (h : Keeps s₀ s) : Keeps s₀ (bcReadStep found s x t len req) := by
  unfold bcReadStep
  refine .ite h (.ite h ?_)
  dsimp only
  split
  · refine .ite ?_ ?_
    · exact handAnswer_keeps (bcTouch_keeps (countBc_keeps (cacheFinding_keeps h)))
    · exact .ite (cacheFinding_keeps h) (startFetch_keeps (bcTouch_keeps (countBc_keeps (inboxDrop_keeps (cacheFinding_keeps h)))))
  refine .ite (cacheFinding_keeps h) ?_
  split
  · exact cacheFinding_keeps h
  · exact startFetch_keeps (bcTouch_keeps (modBench_keeps (countBc_keeps (inboxDrop_keeps (cacheFinding_keeps h)))))

theorem atCache_keeps {x act} (h : Keeps s₀ s) (hact : Keeps s₀ act) : Keeps s₀ (atCache s x act) := .ite h (.ite h hact)

theorem bcReadRow_keeps {m found} (h : Keeps s₀ s) : Keeps s₀ (bcReadRow s m found) := by
  unfold bcReadRow
  split
  · exact h
  split
  exacts [atCache_keeps h (bcReadStep_keeps h), h]

theorem acceptWrite_keeps {n key w c m} (h : Keeps s₀ s) : Keeps s₀ (acceptWrite s n key w c m) := handAnswer_keeps (bcAccepted_keeps h)

theorem bcWriteStep_keeps {found x c} (h : Keeps s₀ s) : Keeps s₀ (bcWriteStep found s x c) := by
  unfold bcWriteStep
  refine .ite h (.ite h ?_)
  dsimp only
  split
  · exact acceptWrite_keeps (countBc_keeps (cacheFinding_keeps h))
  split
  · exact cacheFinding_keeps h
  · exact acceptWrite_keeps (cacheFinding_keeps h)
  · exact startFetch_keeps (modBench_keeps (inboxDrop_keeps (cacheFinding_keeps h)))

theorem bcWriteRow_keeps {m found} (h : Keeps s₀ s) : Keeps s₀ (bcWriteRow s m found) := by
  unfold bcWriteRow
  split
  · exact h
  split
  exacts [atCache_keeps h (bcWriteStep_keeps h), h]

theorem answerWaiting_keeps {n xs pay} (h : Keeps s₀ s) : Keeps s₀ (answerWaiting s n xs pay) := by
  unfold answerWaiting
  refine Keeps.foldl h ?_
  intro s1 x1 h1
  split
  exacts [h1, h1]

theorem giveUpWay_keeps {n key} (h : Keeps s₀ s) : Keeps s₀ (giveUpWay s n key) := by
  unfold giveUpWay
  split
  exacts [.ite h h, h]

theorem dropFill_keeps {n f} (h : Keeps s₀ s) : Keeps s₀ (dropFill s n f) := Keeps.setInbox (giveUpWay_keeps h)

theorem mergeFill_keeps {n line bytes poison holder} (h : Keeps s₀ s) : Keeps s₀ (mergeFill s n line bytes poison holder) := by
  unfold mergeFill
  dsimp only
  split
  exacts [h, .ite (dropFill_keeps h) (answerWaiting_keeps h)]

theorem failFill_keeps {n line code} (h : Keeps s₀ s) : Keeps s₀ (failFill s n line code) := by
  unfold failFill
  split
  exacts [h, .ite (dropFill_keeps h) (answerWaiting_keeps (giveUpWay_keeps h))]

theorem bcFill_keeps {m ext} (h : Keeps s₀ s) : Keeps s₀ (bcFill m ext s) := by
  unfold bcFill
  split
  · exact h
  split
  exacts [.ite h h, atCache_keeps h (mergeFill_keeps h), atCache_keeps h (failFill_keeps h), h]

theorem victimGone_keeps {n line} (h : Keeps s₀ s) : Keeps s₀ (victimGone s n line) := by
  unfold victimGone
  dsimp only
  split
  · exact h
  split
  · exact h
  split
  exacts [acceptWrite_keeps h, h]

theorem victimWriteback_keeps {m n} (h : Keeps s₀ s) : Keeps s₀ (victimWriteback m s n) := by
  unfold victimWriteback
  split
  · exact h
  refine .ite h ?_
  split
  exacts [.ite (victimGone_keeps h) h, .ite (victimGone_keeps h) h, h]

theorem sendFlushes_keeps {k} (h : Keeps s₀ s) : Keeps s₀ (sendFlushes s k) := Keeps.foldl h (fun h1 => h1)

theorem wedgeDone_keeps {k} (h : Keeps s₀ s) : Keeps s₀ (wedgeDone s k) := by
  unfold wedgeDone
  split
  exacts [.ite (sendFlushes_keeps h) (completeWait_keeps h), h]

theorem beginPass_keeps {n wedges} (h : Keeps s₀ s) : Keeps s₀ (beginPass s n wedges) := h

theorem joinPass_keeps {k} (h : Keeps s₀ s) : Keeps s₀ (joinPass s k) := by
  unfold joinPass
  dsimp only
  split
  exacts [h, .ite h h]

theorem passLine_keeps {n line p found} (h : Keeps s₀ s) : Keeps s₀ (passLine s n line p found) := by
  unfold passLine
  dsimp only
  split
  · exact .ite (modBench_keeps (cacheFinding_keeps h)) (putBack_keeps (modBench_keeps (cacheFinding_keeps h)))
  · exact modBench_keeps (cacheFinding_keeps h)

theorem bcWritebackPass_keeps {line found n} (h : Keeps s₀ s) : Keeps s₀ (bcWritebackPass line found s n) := by
  unfold bcWritebackPass
  dsimp only
  split
  · exact h
  refine .ite (passLine_keeps h) (.ite h ?_)
  split
  exacts [Keeps.foldl h wedgeDone_keeps, beginPass_keeps (Keeps.foldl h wedgeDone_keeps)]

theorem setSkip_keeps {q l} (h : Keeps s₀ s) : Keeps s₀ (setSkip s q l) := h

theorem skipLaunch_keeps {w n v} (h : Keeps s₀ s) : Keeps s₀ (skipLaunch w n v s).2 := by
  unfold skipLaunch
  dsimp only
  split
  · split <;> exact h
  split
  · split
    exacts [failCommand_keeps h, h]
  · exact h

theorem skipLine_keeps {w n c i} (h : Keeps s₀ s) : Keeps s₀ (skipLine s w n c i) := homeWrite_keeps h

theorem skipBeat_keeps {w n beat} (h : Keeps s₀ s) :
    Keeps s₀ (skipBeat s w n beat) :=
  Keeps.foldl h (fun h1 => Keeps.foldl h1 skipLine_keeps)

theorem skipStart_keeps {q ext j rest} (h : Keeps s₀ s) : Keeps s₀ (skipStart s q ext j rest) := by
  unfold skipStart
  dsimp only
  split
  exacts [h, .ite h (.ite h h)]

theorem skipMove_keeps {q j rest} (h : Keeps s₀ s) : Keeps s₀ (skipMove s q j rest) := by
  unfold skipMove
  dsimp only
  split
  exacts [h, .ite h (setSkip_keeps (skipBeat_keeps h))]

theorem skipTransfer_keeps {q ext} (h : Keeps s₀ s) : Keeps s₀ (skipTransfer s q ext) := by
  unfold skipTransfer
  split
  exacts [h, .ite (skipMove_keeps h) (skipStart_keeps h)]

theorem unitIncrement_keeps {n tu ctx lvl self name} (h : Keeps s₀ s) : Keeps s₀ (unitIncrement s n tu ctx lvl self name).2 := by
  unfold unitIncrement
  dsimp only
  split
  · refine sendMsg_keeps ?_
    split
    exacts [keepEntry_keeps h, h]
  split
  exacts [keepEntry_keeps h, h]

theorem skipFailed_keeps {j} (h : Keeps s₀ s) : Keeps s₀ (skipFailed s j) := by
  unfold skipFailed
  split
  exacts [failCommand_keeps h, .ite h h]

theorem skipDone_keeps {q j} (h : Keeps s₀ s) : Keeps s₀ (skipDone s q j) := by
  unfold skipDone
  refine .ite ?_ ?_
  · exact .ite (makeRecord_keeps (.ite (unitIncrement_keeps h) h)) (recordCtx_keeps (.ite (unitIncrement_keeps h) h))
  · exact .ite (unitIncrement_keeps h) h

theorem skipCompletion_keeps {q} (h : Keeps s₀ s) : Keeps s₀ (skipCompletion s q) := by
  unfold skipCompletion
  split
  exacts [h, .ite h (.ite (skipFailed_keeps h) (.ite h (skipDone_keeps h)))]

/-! ### Links -/

theorem trainPort_keeps {p t} (h : Keeps s₀ s) : Keeps s₀ (trainPort s p t) := by
  unfold trainPort
  dsimp only
  split
  · exact linkFall_keeps (.ite h h)
  · exact .ite (linkFall_keeps (.ite h h)) (linkDrain_keeps (linkRecord_keeps (modLink_keeps (.ite h h))))

theorem onLink_keeps {p f} (hf : ∀ {s : State} {n : Nat}, Keeps s₀ s → Keeps s₀ (f s n)) (hs : Keeps s₀ s) : OutKeeps s₀ (onLink p f s) :=
  Keeps.ite hs (hf hs)

theorem onIsland_keeps {p f} (hf : ∀ {s : State} {n : Nat}, Keeps s₀ s → Keeps s₀ (f s n)) (hs : Keeps s₀ s) :
    OutKeeps s₀ (onIsland p f s) :=
  hf hs

theorem countLink_keeps {p which n} (h : Keeps s₀ s) : Keeps s₀ (countLink s p which n) := .ite (countWrap_keeps h) h

theorem answerTag_keeps {tag pay} (h : Keeps s₀ s) : Keeps s₀ (answerTag s tag pay) := by
  unfold answerTag
  split
  · exact h
  refine .ite h ?_
  split
  exacts [h, h, h, h, h]

theorem countDiscard_keeps {p} (h : Keeps s₀ s) : Keeps s₀ (countDiscard s p) := .ite (linkRecord_keeps h) h

theorem discardMsg_keeps {p m} (h : Keeps s₀ s) : Keeps s₀ (discardMsg s p m) := by
  unfold discardMsg
  refine .ite (countDiscard_keeps h) (.ite ?_ ?_)
  · exact answerTag_keeps (countDiscard_keeps h)
  · exact OnSome.getD (linkSend_keeps (countDiscard_keeps h)) (countDiscard_keeps h)

theorem linkArrive_keeps {p m} (h : Keeps s₀ s) : Keeps s₀ (linkArrive s p m) := by
  unfold linkArrive
  dsimp only
  split
  · split
    exacts [OnSome.getD (linkSend_keeps h) h, h]
  · split
    exacts [OnSome.getD (linkSend_keeps h) h, h]
  · split
    exacts [OnSome.getD (linkSend_keeps h) h, h]
  · exact h
  · exact answerTag_keeps h
  · exact answerTag_keeps h
  · exact answerTag_keeps h

theorem linkMessage_keeps {p m} (h : Keeps s₀ s) : Keeps s₀ (linkMessage p s m) := by
  unfold linkMessage
  refine .ite (linkArrive_keeps h) ?_
  split
  exacts [discardMsg_keeps h, h]

theorem linkAcked_keeps {p ack credits} (h : Keeps s₀ s) : Keeps s₀ (linkAcked s p ack credits) := linkDrain_keeps h

theorem linkTake_keeps {p} (h : Keeps s₀ s) : Keeps s₀ (linkTake s p) := .ite h (Keeps.foldl h (fun h1 => Keeps.foldl h1 linkMessage_keeps))

theorem linkFlit_keeps {f p} (h : Keeps s₀ s) : Keeps s₀ (linkFlit f s p) := by
  unfold linkFlit
  refine .ite h ?_
  extract_lets s1 s2 next s3
  have h1 : Keeps s₀ s1 := .foldl h fun h1 => .ite h1 (laneSymbols_keeps h1)
  have h2 : Keeps s₀ s2 := .ite (countLink_keeps h1) (.ite h1 (countLink_keeps h1))
  exact .ite (modLink_keeps h2) (.ite (linkTake_keeps (linkAcked_keeps (modLink_keeps h2))) (.ite (linkAcked_keeps h2) (modLink_keeps h2)))

theorem replayRequest_keeps {seqno localEnd codewordBad p} (h : Keeps s₀ s) : Keeps s₀ (replayRequest seqno localEnd codewordBad s p) :=
  .ite h (.ite (modLink_keeps (.ite (countLink_keeps h) h)) (countLink_keeps h))

theorem linkWaitDiscard_keeps {i p} (h : Keeps s₀ s) : Keeps s₀ (linkWaitDiscard i s p) := by
  unfold linkWaitDiscard
  split
  exacts [h, .ite h (discardMsg_keeps h)]

theorem remoteTimeout_keeps {m} (h : Keeps s₀ s) : Keeps s₀ (remoteTimeout m s) := by
  unfold remoteTimeout
  split
  exacts [h, .ite (answerTag_keeps h) h]

theorem incomingCounter_keeps {x cell dec amount p req} (h : Keeps s₀ s) : Keeps s₀ (incomingCounter s x cell dec amount p req) := by
  unfold incomingCounter
  refine .ite h ?_
  split
  · exact reply_keeps ((applyCell_keeps h).of_ok ‹_›)
  refine reply_keeps ?_
  split
  exacts [counterRecord_keeps h, h]

theorem incomingAccess_keeps {m wrong} (h : Keeps s₀ s) : Keeps s₀ (incomingAccess m wrong s) := by
  unfold incomingAccess
  split
  · exact h
  refine .ite h ?_
  split
  · exact incomingCounter_keeps h
  split
  · exact h
  refine .ite h (.ite h (.ite h ?_))
  split
  exacts [.ite h (modStack_keeps (serve_keeps h)), serve_keeps h]

end

end Sys2Proof.Machine
end

section
/-!
PROOFS. System instructions, threads, transactions and channels: the instructions and hardware steps of chapters 4, 9, 11 and 12.
-/
namespace Sys2Proof.Machine

section
variable {s₀ s : State}

/-! ### System -/

theorem writeSr_keeps {k n op old v} (h : Keeps s₀ s) : Keeps s₀ (writeSr s k n op old v) := by
  unfold writeSr
  dsimp only
  split
  exacts [h, h, h, h, h, h, h, h, h, h, h, h, h]

theorem bodySrd_keeps {rd rs1 sr k} (h : Keeps s₀ s) : Res.Keeps s₀ (bodySrd rd rs1 sr s k) := by
  unfold bodySrd
  refine .ite (illegal_keeps h) ?_
  split
  exacts [h, wx_keeps h]

theorem bodySrWrite_keeps {op rd rs1 sr k} (h : Keeps s₀ s) : Res.Keeps s₀ (bodySrWrite op rd rs1 sr s k) := by
  unfold bodySrWrite
  refine .ite (illegal_keeps h) ?_
  dsimp only
  split
  exacts [h, wx_keeps (writeSr_keeps h)]

theorem bodyEcall_keeps {rd rs1 k} (h : Keeps s₀ s) :
    Res.Keeps s₀ (bodyEcall rd rs1 s k) :=
  .ite (illegal_keeps h) (.ite (txIllegal_keeps h) h)

theorem bodyEbreak_keeps {rd rs1 k} (h : Keeps s₀ s) : Res.Keeps s₀ (bodyEbreak rd rs1 s k) :=
  .ite (illegal_keeps h) (.ite (.ite (modThr_keeps (abortTx_keeps h)) (txIllegal_keeps h)) (.ite h h))

theorem returnFrame_keeps {k f} (h : Keeps s₀ s) : Keeps s₀ (returnFrame s k f) :=
  modSys_keeps (.ite (wx_keeps (wx_keeps h)) (wx_keeps (wx_keeps (wx_keeps h))))

theorem bodyEret_keeps {rd rs1 k} (h : Keeps s₀ s) : Res.Keeps s₀ (bodyEret rd rs1 s k) := by
  unfold bodyEret
  refine .ite (illegal_keeps h) (.ite (txIllegal_keeps h) ?_)
  dsimp only
  split
  exacts [h, .ite h (runLanes_keeps h (fun h1 => .ite h1 (returnFrame_keeps h1)))]

theorem bodyWedge_keeps {scope rd rs1 k} (h : Keeps s₀ s) : Res.Keeps s₀ (bodyWedge scope rd rs1 s k) := by
  unfold bodyWedge
  refine .ite (illegal_keeps h) (.ite ?_ ?_)
  · exact txIllegal_keeps h
  · exact .ite (gbufFlushAll_keeps h) (.ite (gbufFlushAll_keeps h) (joinPass_keeps (modThr_keeps (gbufFlushAll_keeps h))))

/-! ### Threads -/

theorem bodyTput_keeps {rd rs1 rs2 k} (h : Keeps s₀ s) : Res.Keeps s₀ (bodyTput rd rs1 rs2 s k) := by
  unfold bodyTput
  refine .ite (illegal_keeps h) (.ite (txIllegal_keeps h) ?_)
  split
  exacts [illegal_keeps h, .ite h h]

theorem bodyTtryput_keeps {rd rs1 rs2 k} (h : Keeps s₀ s) : Res.Keeps s₀ (bodyTtryput rd rs1 rs2 s k) := by
  unfold bodyTtryput
  refine .ite (txIllegal_keeps h) ?_
  split
  exacts [illegal_keeps h, .ite (wx_keeps h) (wx_keeps h)]

theorem bodyTget_keeps {rd rs1 rs2 k} (h : Keeps s₀ s) : Res.Keeps s₀ (bodyTget rd rs1 rs2 s k) := by
  unfold bodyTget
  refine .ite (illegal_keeps h) (.ite (txIllegal_keeps h) (.ite (illegal_keeps h) ?_))
  split
  exacts [wx_keeps h, h]

theorem bodyTpoll_keeps {rd rs1 rs2 k} (h : Keeps s₀ s) : Res.Keeps s₀ (bodyTpoll rd rs1 rs2 s k) := .ite (illegal_keeps h) (wx_keeps h)

theorem tputPlace_keeps {k} (h : Keeps s₀ s) : Keeps s₀ (tputPlace s k) := by
  unfold tputPlace
  dsimp only
  split
  exacts [.ite h (completeWait_keeps h), h]

theorem tgetDeliver_keeps {k} (h : Keeps s₀ s) : Keeps s₀ (tgetDeliver s k) := by
  unfold tgetDeliver
  split
  · split
    exacts [h, completeWait_keeps (wx_keeps h)]
  · exact h

theorem onTarget_keeps {k v act} (h : Keeps s₀ s) (hact : ∀ {n : Nat}, Res.Keeps s₀ (act n)) : Res.Keeps s₀ (onTarget s k v act) := by
  unfold onTarget
  refine .ite h ?_
  split
  exacts [illegal_keeps h, hact]

theorem bodyTsetr_keeps {rd rs1 rs2 k} (h : Keeps s₀ s) : Res.Keeps s₀ (bodyTsetr rd rs1 rs2 s k) :=
  .ite (txIllegal_keeps h) (onTarget_keeps h (.ite h (.ite h (wx_keeps (.ite h h)))))

theorem bodyTrel_keeps {rd rs1 rs2 k} (h : Keeps s₀ s) : Res.Keeps s₀ (bodyTrel rd rs1 rs2 s k) :=
  .ite (illegal_keeps h) (.ite (txIllegal_keeps h) (onTarget_keeps h (.ite h (.ite h h))))

theorem bodyTinfo_keeps {rd rs1 rs2 k} (h : Keeps s₀ s) : Res.Keeps s₀ (bodyTinfo rd rs1 rs2 s k) :=
  .ite (illegal_keeps h) (onTarget_keeps h (wx_keeps h))

theorem endThread_keeps {k} (h : Keeps s₀ s) : Keeps s₀ (endThread s k) :=
  .ite (modCore_keeps (modThr_keeps (freePorts_keeps h))) (modThr_keeps (freePorts_keeps h))

theorem bodyTend_keeps {rd rs1 rs2 k} (h : Keeps s₀ s) : Res.Keeps s₀ (bodyTend rd rs1 rs2 s k) :=
  .ite (illegal_keeps h) (.ite (txIllegal_keeps h) (.ite h (.ite h (endThread_keeps h))))

theorem tendComplete_keeps {k} (h : Keeps s₀ s) : Keeps s₀ (tendComplete s k) := by
  unfold tendComplete
  split
  exacts [.ite (countInstret_keeps (endThread_keeps h)) h, h]

theorem clearInterrupt_keeps {c code} (h : Keeps s₀ s) : Keeps s₀ (clearInterrupt s c code) := h

theorem takeInterrupt_keeps {c i} (h : Keeps s₀ s) : Keeps s₀ (takeInterrupt s c i) := by
  unfold takeInterrupt
  dsimp only
  split
  exacts [clearInterrupt_keeps ((enterOr_keeps h).of_done ‹_›), (enterOr_keeps h).of_wait ‹_›]

theorem interruptEntry_keeps {c} (h : Keeps s₀ s) : Keeps s₀ (interruptEntry s c) := by
  unfold interruptEntry
  dsimp only
  split
  · exact h
  · exact .ite h (.ite (takeInterrupt_keeps (abortTx_keeps (abandonWait_keeps h))) (takeInterrupt_keeps (abandonWait_keeps h)))

/-! ### TxRows -/

theorem bodyTxb_keeps {rd rs1 rs2 k} (h : Keeps s₀ s) : Res.Keeps s₀ (bodyTxb rd rs1 rs2 s k) :=
  .ite (illegal_keeps h) (.ite h (.ite h (.ite h (.ite h h))))

theorem commitNext_keeps {k} (h : Keeps s₀ s) : Keeps s₀ (commitNext s k) :=
  .ite (commitEnd_keeps (.ite (modTx_keeps (.ite h h)) (.ite h h))) (.ite (modTx_keeps (.ite h h)) (.ite h h))

theorem bodyTxe_keeps {rd rs1 rs2 k} (h : Keeps s₀ s) : Res.Keeps s₀ (bodyTxe rd rs1 rs2 s k) :=
  .ite (illegal_keeps h) (.ite (illegal_keeps h) (.ite h (.ite h (commitNext_keeps h))))

theorem bodyTxa_keeps {rd rs1 rs2 k} (h : Keeps s₀ s) :
    Res.Keeps s₀ (bodyTxa rd rs1 rs2 s k) :=
  .ite (illegal_keeps h) (.ite (illegal_keeps h) h)

theorem txAbort_keeps {k} (h : Keeps s₀ s) : Keeps s₀ (txAbort s k) := by
  unfold txAbort
  refine .ite h ?_
  split
  · exact abortTx_keeps (abandonWait_keeps h)
  · exact .ite h (.ite (interruptEntry_keeps h) (.ite (abortTx_keeps (abandonWait_keeps h)) h))

theorem reserveAll_keeps {k l} (h : Keeps s₀ s) : Keeps s₀ (reserveAll s k l).1 := by
  induction l generalizing s with
  | nil => exact h
  | cons x l ih =>
    unfold reserveAll
    dsimp only
    split
    · exact h
    split
    exacts [h, ih (modTx_keeps (setPortWord_keeps h))]

theorem lockRequest_keeps {x k} (h : Keeps s₀ s) : Keeps s₀ (lockRequest x s k) := by
  unfold lockRequest
  dsimp only
  split
  · refine .ite h (.ite (abortTx_keeps h) (.ite (abortTx_keeps h) (.ite h ?_)))
    split
    · exact abortTx_keeps ((reserveAll_keeps (modTx_keeps (Keeps.setLocks h))).of_fst ‹_›)
    · exact commitNext_keeps ((reserveAll_keeps (modTx_keeps (Keeps.setLocks h))).of_fst ‹_›)
  · exact h

theorem watchCheck_keeps {x k} (h : Keeps s₀ s) : Keeps s₀ (watchCheck x s k) := by
  unfold watchCheck
  split
  exacts [.ite h (.ite (abortTx_keeps h) (.ite (abortTx_keeps h) (commitNext_keeps h))), h]

theorem txApply_keeps {x k} (h : Keeps s₀ s) : Keeps s₀ (txApply x s k) := by
  unfold txApply
  split
  exacts [.ite h (commitNext_keeps (modTx_keeps (applyHome_keeps h))), h]

theorem unreserve_keeps {c p} (h : Keeps s₀ s) : Keeps s₀ (unreserve s c p) := setPortWord_keeps h

theorem watchRelease_keeps {x k} (h : Keeps s₀ s) : Keeps s₀ (watchRelease x s k) :=
  .ite h (modTx_keeps (Keeps.setWatchesLocks (Keeps.foldl h (fun h1 => .ite (unreserve_keeps h1) h1))))

/-! ### Channels -/

theorem chanFault_keeps {reason obj} (h : Keeps s₀ s) : Res.Keeps s₀ (chanFault s reason obj) := h

theorem bodyPortCreate_keeps {rd rs1 rs2 k} (h : Keeps s₀ s) : Res.Keeps s₀ (bodyPortCreate rd rs1 rs2 s k) := by
  unfold bodyPortCreate
  refine .ite (illegal_keeps h) (.ite (txIllegal_keeps h) (.ite (chanFault_keeps h) (.ite ?_ ?_)))
  · exact chanFault_keeps h
  · exact .ite (chanFault_keeps h) (setPortWord_keeps (setPortWord_keeps (Keeps.foldl h setPortWord_keeps)))

theorem ownPort_keeps {k v act} (h : Keeps s₀ s) (hact : ∀ {n : Nat}, Res.Keeps s₀ (act n)) : Res.Keeps s₀ (ownPort s k v act) :=
  .ite (chanFault_keeps h) (.ite (chanFault_keeps h) hact)

theorem bodyPortFree_keeps {rd rs1 rs2 k} (h : Keeps s₀ s) : Res.Keeps s₀ (bodyPortFree rd rs1 rs2 s k) :=
  .ite (illegal_keeps h) (.ite (txIllegal_keeps h) (ownPort_keeps h (freePort_keeps h)))

theorem bodyPortPop_keeps {rd rs1 rs2 k} (h : Keeps s₀ s) : Res.Keeps s₀ (bodyPortPop rd rs1 rs2 s k) := by
  unfold bodyPortPop
  refine .ite ?_ ?_
  · exact illegal_keeps h
  · exact .ite (txIllegal_keeps h) (ownPort_keeps h (.ite (chanFault_keeps h) (setPortWord_keeps (setPortWord_keeps h))))

theorem bodyDispatch_keeps {rd rs1 rs2 k} (h : Keeps s₀ s) : Res.Keeps s₀ (bodyDispatch rd rs1 rs2 s k) := by
  unfold bodyDispatch
  refine .ite (illegal_keeps h) (.ite (txIllegal_keeps h) (ownPort_keeps h ?_))
  intro p
  refine .ite (chanFault_keeps h) (.ite (wx_keeps h) ?_)
  dsimp only
  generalize homeRead s (.store (k / 8) (handlerOff _)) 8 = entry
  exact .ite h (.ite h (.ite h (.ite (chanFault_keeps h) (wx_keeps (wx_keeps (wx_keeps h))))))

theorem bodyHset_keeps {rd rs1 rs2 k} (h : Keeps s₀ s) : Res.Keeps s₀ (bodyHset rd rs1 rs2 s k) :=
  .ite (illegal_keeps h) (.ite (txIllegal_keeps h) (.ite h (.ite (chanFault_keeps h) (.ite h (homeWrite_keeps h)))))

theorem bodyOpen_keeps {rd rs1 rs2 k} (h : Keeps s₀ s) : Res.Keeps s₀ (bodyOpen rd rs1 rs2 s k) := by
  unfold bodyOpen
  refine .ite (illegal_keeps h) (.ite (txIllegal_keeps h) ?_)
  dsimp only
  split
  · exact chanFault_keeps h
  refine .ite (wx_keeps h) ?_
  split
  exacts [wx_keeps h, wx_keeps h]

theorem withHandle_keeps {k v act} (h : Keeps s₀ s) (hact : ∀ {n : Nat} {x : Handle}, Res.Keeps s₀ (act n x)) :
    Res.Keeps s₀ (withHandle s k v act) := by
  unfold withHandle
  split
  exacts [chanFault_keeps h, hact]

theorem bodyClose_keeps {rd rs1 rs2 k} (h : Keeps s₀ s) : Res.Keeps s₀ (bodyClose rd rs1 rs2 s k) :=
  .ite (illegal_keeps h) (.ite (txIllegal_keeps h) (withHandle_keeps h h))

theorem stageTuple_keeps {k i words rd} (h : Keeps s₀ s) : Res.Keeps s₀ (stageTuple s k i words rd) := .ite h (wx_keeps h)

theorem bodySend_keeps {blocking rd rs1 rs2 k} (h : Keeps s₀ s) : Res.Keeps s₀ (bodySend blocking rd rs1 rs2 s k) :=
  withHandle_keeps h (.ite (chanFault_keeps h) (.ite (stageTuple_keeps h) h))

theorem bodySendM_keeps {rd rs1 rs2 k} (h : Keeps s₀ s) : Res.Keeps s₀ (bodySendM rd rs1 rs2 s k) :=
  .ite (illegal_keeps h) (withHandle_keeps h (.ite (chanFault_keeps h) h))

theorem bodySendEnd_keeps {blocking rd rs1 rs2 k} (h : Keeps s₀ s) : Res.Keeps s₀ (bodySendEnd blocking rd rs1 rs2 s k) :=
  withHandle_keeps h (.ite (chanFault_keeps h) (.ite (stageTuple_keeps h) h))

theorem countPort_keeps {c p high} (h : Keeps s₀ s) : Keeps s₀ (countPort s c p high) := setPortWord_keeps h

theorem monitor_keeps {c p gen words held sender} (h : Keeps s₀ s) : Keeps s₀ (monitor s c p gen words held sender).1 := by
  unfold monitor
  split
  · exact countCm_keeps (countPort_keeps h)
  split
  · dsimp only
    refine countCm_keeps ?_
    refine setPortWord_keeps ?_
    exact countPort_keeps h
  · exact countCm_keeps (placeTuple_keeps h)

theorem pubAnswered_keeps {k x} (h : Keeps s₀ s) : Keeps s₀ (pubAnswered s k x) := by
  unfold pubAnswered
  dsimp only
  split
  · split
    · exact completeWait_keeps (wx_keeps (.ite h h))
    · exact completeWait_keeps (wx_keeps (.ite h h))
    · exact .ite h (completeWait_keeps (wx_keeps h))
  · exact h

theorem publication_keeps {m} (h : Keeps s₀ s) : Keeps s₀ (publication m s) := by
  unfold publication
  dsimp only
  split
  · exact h
  split
  exacts [.ite h (.ite (monitor_keeps h) (pubAnswered_keeps (monitor_keeps h))), h]

theorem sendRetry_keeps {k} (h : Keeps s₀ s) : Keeps s₀ (sendRetry s k) := by
  unfold sendRetry
  split
  · refine .ite h ?_
    split
    exacts [h, h]
  · exact h

theorem stallLimitExpiry_keeps {k} (h : Keeps s₀ s) : Keeps s₀ (stallLimitExpiry s k) := by
  unfold stallLimitExpiry
  dsimp only
  split
  · refine .ite h (completeWait_keeps (wx_keeps (modThr_keeps ?_)))
    split
    exacts [recordCtx_keeps h, h]
  · exact h

end

end Sys2Proof.Machine
end

section
/-!
PROOFS. Vectors and streams: the vector instructions, their accesses, and the streaming regions.
-/
namespace Sys2Proof.Machine

section
variable {s₀ s : State}

/-! ### Vector -/

theorem bodyVarith_keeps {f fn k} (h : Keeps s₀ s) : Res.Keeps s₀ (bodyVarith f fn s k) := by
  unfold bodyVarith
  refine .ite (illegal_keeps h) ?_
  dsimp only
  split
  exacts [illegal_keeps h, h]

theorem bodyVfma_keeps {f fn k} (h : Keeps s₀ s) :
    Res.Keeps s₀ (bodyVfma f fn s k) :=
  .ite (illegal_keeps h) (.ite (.ite (illegal_keeps h) h) h)

theorem bodyVcmp_keeps {f fn k} (h : Keeps s₀ s) : Res.Keeps s₀ (bodyVcmp f fn s k) := by
  unfold bodyVcmp
  refine .ite (illegal_keeps h) ?_
  dsimp only
  split
  exacts [illegal_keeps h, h]

theorem bodyPred_keeps {op f k} (h : Keeps s₀ s) : Res.Keeps s₀ (bodyPred op f s k) := .ite (illegal_keeps h) h

theorem bodyPwhile_keeps {f k} (h : Keeps s₀ s) : Res.Keeps s₀ (bodyPwhile f s k) := .ite (illegal_keeps h) h

theorem bodyPcount_keeps {f k} (h : Keeps s₀ s) : Res.Keeps s₀ (bodyPcount f s k) := .ite (illegal_keeps h) (wx_keeps h)

theorem bodyVbcast_keeps {f k} (h : Keeps s₀ s) : Res.Keeps s₀ (bodyVbcast f s k) := .ite (illegal_keeps h) h

theorem bodyVext_keeps {f k} (h : Keeps s₀ s) : Res.Keeps s₀ (bodyVext f s k) := .ite (illegal_keeps h) (wx_keeps h)

theorem bodyVins_keeps {f k} (h : Keeps s₀ s) : Res.Keeps s₀ (bodyVins f s k) := .ite (illegal_keeps h) h

theorem bodyVcvt_keeps {f k} (h : Keeps s₀ s) : Res.Keeps s₀ (bodyVcvt f s k) := .ite (illegal_keeps h) h

theorem bodyVperm_keeps {f k} (h : Keeps s₀ s) : Res.Keeps s₀ (bodyVperm f s k) := h

theorem bodyVred_keeps {which f k} (h : Keeps s₀ s) : Res.Keeps s₀ (bodyVred which f s k) := .ite (illegal_keeps h) h

/-! ### VectorMem -/

theorem bodyVload_keeps {strided pair f k} (h : Keeps s₀ s) : Res.Keeps s₀ (bodyVload strided pair f s k) :=
  .ite (illegal_keeps h) (runLanes_keeps h (fun h1 => Keeps.ite h1 h1))

theorem bodyVstore_keeps {strided pair f k} (h : Keeps s₀ s) : Res.Keeps s₀ (bodyVstore strided pair f s k) :=
  .ite (illegal_keeps h) (runLanes_keeps h (fun h1 => h1))

theorem bodyVldb_keeps {f k} (h : Keeps s₀ s) : Res.Keeps s₀ (bodyVldb f s k) := by
  unfold bodyVldb
  dsimp only
  split
  exacts [h, runLanes_keeps h (fun h1 => h1)]

theorem gatherFin_keeps {k f write} (h : Keeps s₀ s) :
    Keeps s₀ (gatherFin s k f write) :=
  modSys_keeps (.ite (Keeps.foldl h laneDone_keeps) h)

theorem gatherEnd_keeps {k f write} (h : Keeps s₀ s) : Res.Keeps s₀ (gatherEnd s k f write) := by
  unfold gatherEnd
  refine .ite h ?_
  split
  exacts [h, .ite (gatherFin_keeps h) h]

theorem gatherGo_keeps {f write k n} (h : Keeps s₀ s) : Res.Keeps s₀ (gatherGo f write k n s) := by
  induction n generalizing s with
  | zero => exact gatherEnd_keeps h
  | succ n ih =>
    unfold gatherGo
    split
    · exact gatherEnd_keeps h
    dsimp only
    split
    · exact gatherEnd_keeps (placeFailed_keeps h)
    · exact txIllegal_keeps h
    · exact .ite h h
    split
    · exact (sendParts_keeps (modJob_keeps (notePieces_keeps h))).of_abort ‹_›
    have h2 := (sendParts_keeps (modJob_keeps (notePieces_keeps h))).of_ok ‹_›
    exact .ite (ih h2) (gatherEnd_keeps h2)

theorem bodyGather_keeps {write f slots k} (h : Keeps s₀ s) : Res.Keeps s₀ (bodyGather write f slots s k) :=
  .ite (illegal_keeps h) (gatherGo_keeps h)

/-! ### Streams -/

theorem countStall_keeps {n qu i w} (h : Keeps s₀ s) : Keeps s₀ (countStall s n qu i w) := .ite h (.ite (countWrap_keeps h) h)

theorem takeHead_keeps {n q} (h : Keeps s₀ s) : Keeps s₀ (takeHead s n q) := h

theorem closeQueue_keeps {n q} (h : Keeps s₀ s) : Keeps s₀ (closeQueue s n q) := .ite h (.ite h h)

theorem settleRegion_keeps {r} (h : Keeps s₀ s) : Keeps s₀ (settleRegion s r) :=
  .ite h (Keeps.foldl h (fun h1 => Keeps.foldl h1 (fun h2 => .ite (Keeps.foldl h2 closeQueue_keeps) h2)))

theorem settleBench_keeps {n} (h : Keeps s₀ s) : Keeps s₀ (settleBench s n) := by
  unfold settleBench
  split
  exacts [settleRegion_keeps h, h]

theorem streamEntry_keeps {q n} (h : Keeps s₀ s) : Keeps s₀ (streamEntry q s n) := by
  unfold streamEntry
  refine .ite h ?_
  split
  exacts [h, settleBench_keeps h]

theorem creditReturn_keeps {q n} (h : Keeps s₀ s) : Keeps s₀ (creditReturn q s n) := .ite h (.ite h h)

theorem unitBeat_keeps {kind u beat n} (h : Keeps s₀ s) : Keeps s₀ (unitBeat kind u beat s n) := by
  unfold unitBeat
  refine .ite h ?_
  dsimp only
  split
  · exact h
  · exact countStall_keeps (countStall_keeps h)
  · exact countStall_keeps (countStall_keeps h)
  refine settleBench_keeps ?_
  split
  · exact modBench_keeps (Keeps.foldl (Keeps.foldl h (fun h1 => h1)) (fun h1 => .ite (closeQueue_keeps h1) h1))
  · exact Keeps.foldl (Keeps.foldl h (fun h1 => h1)) (fun h1 => .ite (closeQueue_keeps h1) h1)

theorem markStream_keeps {k} (h : Keeps s₀ s) : Keeps s₀ (markStream s k) := h

theorem zHead_keeps {k z f} (h : Keeps s₀ s) (hf : ∀ {s : State} {n : Nat} {x : V512}, Keeps s₀ s → Keeps s₀ (f s n x)) :
    Zres.Keeps s₀ (zHead s k z f) := by
  unfold zHead
  split
  · exact trivial
  · exact trivial
  split
  · exact countStall_keeps h
  split
  exacts [trivial, hf h]

theorem zTake_keeps {k z f} (h : Keeps s₀ s) (hf : ∀ {s : State} {x : V512}, Keeps s₀ s → Keeps s₀ (f s x)) :
    Zres.Keeps s₀ (zTake s k z f) :=
  zHead_keeps h (fun h1 => hf h1)

theorem zPut_keeps {k z v} (h : Keeps s₀ s) : Zres.Keeps s₀ (zPut s k z v) := by
  unfold zPut
  split
  · exact trivial
  · exact trivial
  split
  exacts [h, countStall_keeps h]

theorem streamStep_keeps {k op f} (h : Keeps s₀ s) : Zres.Keeps s₀ (streamStep s k op f) := by
  unfold streamStep
  dsimp only
  split
  · exact zTake_keeps h (fun h1 => h1)
  · exact zHead_keeps h (fun h1 => h1)
  · exact zPut_keeps h
  · exact zTake_keeps h (fun h1 => h1)

theorem bodyStream_keeps {op ok f k} (h : Keeps s₀ s) : Res.Keeps s₀ (bodyStream op ok f s k) := by
  unfold bodyStream
  refine .ite (illegal_keeps h) (.ite (txIllegal_keeps h) ?_)
  split
  · exact (streamStep_keeps h).of_done ‹_›
  · exact h
  · exact settleBench_keeps (modThr_keeps ((streamStep_keeps h).of_wait ‹_›))

theorem bodyVzpoll_keeps {f k} (h : Keeps s₀ s) : Res.Keeps s₀ (bodyVzpoll f s k) := by
  unfold bodyVzpoll
  refine .ite (illegal_keeps h) (.ite (txIllegal_keeps h) ?_)
  split
  exacts [h, h, h]

theorem setRegionState_keeps {rid st} (h : Keeps s₀ s) : Keeps s₀ (setRegionState s rid st) := by
  unfold setRegionState
  split
  exacts [h, Keeps.foldl h (fun h1 => h1)]

theorem closeSources_keeps {r} (h : Keeps s₀ s) : Keeps s₀ (closeSources s r) :=
  Keeps.foldl (Keeps.foldl (Keeps.foldl h haulStopIf_keeps) closeQueue_keeps) (fun h1 => Keeps.foldl h1 (fun h2 => .ite
      (Keeps.foldl h2 closeQueue_keeps) h2))

theorem beginChange_keeps {rid target image unload flush cmd} (h : Keeps s₀ s) :
    Keeps s₀ (beginChange s rid target image unload flush cmd) := by
  unfold beginChange
  dsimp only
  split
  · exact h
  split
  · exact settleRegion_keeps (closeSources_keeps (setRegionState_keeps h))
  · exact closeSources_keeps (setRegionState_keeps h)

theorem sectionAdvance_keeps {rid} (h : Keeps s₀ s) : Keeps s₀ (sectionAdvance s rid) := by
  unfold sectionAdvance
  split
  exacts [h, .ite h (.ite (beginChange_keeps h) h)]

theorem runSection_keeps {rid sec} (h : Keeps s₀ s) : Keeps s₀ (runSection s rid sec) := by
  unfold runSection
  dsimp only
  split
  exacts [h, Keeps.setRegions (Keeps.foldl h (fun h1 => h1))]

theorem recheckWaits_keeps {n} (h : Keeps s₀ s) : Keeps s₀ (recheckWaits s n) := by
  unfold recheckWaits
  refine Keeps.foldl h ?_
  intro s1 x1 h1
  dsimp only
  split
  · exact h1
  split
  exacts [faultWait_keeps h1, .ite (faultWait_keeps h1) h1, .ite h1 (faultWait_keeps h1)]

theorem finishChange_keeps {rid} (h : Keeps s₀ s) : Keeps s₀ (finishChange s rid) := by
  unfold finishChange
  dsimp only
  split
  · exact h
  split
  · exact finish_keeps (.ite (unloadRegion_keeps h) (Keeps.foldl (runSection_keeps h) recheckWaits_keeps))
  · exact .ite (unloadRegion_keeps h) (Keeps.foldl (runSection_keeps h) recheckWaits_keeps)

theorem beginConfig_keeps {rid} (h : Keeps s₀ s) : Keeps s₀ (beginConfig s rid) := by
  unfold beginConfig
  split
  exacts [h, .ite (finishChange_keeps h) (setRegionState_keeps (Keeps.foldl h (fun h1 => h1)))]

theorem drainComplete_keeps {rid} (h : Keeps s₀ s) : Keeps s₀ (drainComplete s rid) := by
  unfold drainComplete
  dsimp only
  split
  · exact h
  refine .ite ?_ ?_
  · exact h
  · exact .ite (finishChange_keeps h) (.ite h (.ite (beginConfig_keeps (settleRegion_keeps h)) (settleRegion_keeps h)))

theorem flushRegion_keeps {r} (h : Keeps s₀ s) : Keeps s₀ (flushRegion s r).1 := Keeps.foldl_fst h (fun h1 => h1)

theorem drainLimitExpiry_keeps {rid} (h : Keeps s₀ s) : Keeps s₀ (drainLimitExpiry s rid) := by
  unfold drainLimitExpiry
  dsimp only
  split
  · exact h
  refine .ite h (.ite (beginConfig_keeps (settleRegion_keeps h)) ?_)
  refine .ite (beginConfig_keeps (Keeps.setRegions (Keeps.foldl (flushRegion_keeps (settleRegion_keeps h)) haulStopIf_keeps))) ?_
  split
  · exact finishWith_keeps (Keeps.setRegions (setRegionState_keeps (settleRegion_keeps h)))
  · exact regionRecord_keeps (setRegionState_keeps (settleRegion_keeps h))

end

end Sys2Proof.Machine
end

section
/-!
PROOFS. The host interface: the command processor's accesses, event rings, the BARs, command rings and the commands that concern a launch.
-/
namespace Sys2Proof.Machine

section
variable {s₀ s : State}

/-! ### Agent -/

theorem agentNote_keeps {g x} (h : Keeps s₀ s) : Keeps s₀ (agentNote s g x) := .ite (noteTranslate_keeps h) h

theorem agentRead_keeps {g x len e} (h : Keeps s₀ s) : Gath.Keeps s₀ (agentRead s g x len e) := by
  unfold agentRead
  split
  · exact h
  split
  exacts [(readPiece_keeps (agentNote_keeps h)).of_ok ‹_›, trivial, h]

theorem agentWrite_keeps {g x bytes psn e} (h : Keeps s₀ s) : Put.Keeps s₀ (agentWrite s g x bytes psn e) := by
  unfold agentWrite
  split
  · exact trivial
  split
  exacts [(writePiece_keeps (agentNote_keeps h)).of_ok ‹_›, trivial, trivial]

theorem gather_keeps {g l s0 n n2 n3 x l2 b} (h : Keeps s₀ s) : Gath.Keeps s₀ (gather g l s0 n s n2 n3 x l2 b) := by
  induction n generalizing s n2 n3 x l2 b with
  | zero => exact h
  | succ n ih =>
    unfold gather
    dsimp only
    split
    · exact h
    split
    exacts [trivial, (agentRead_keeps h).of_bad ‹_›, ih ((agentRead_keeps h).of_ok ‹_›)]

theorem moveAll_keeps {g src dst total n x x2} (hsrc : ∀ {s : State} {n n2 : Nat} {x : Ext}, Keeps s₀ s → Gath.Keeps s₀ (src s n n2 x))
    (h : Keeps s₀ s) : Moved.Keeps s₀ (moveAll g src dst total n s x x2) := by
  induction n generalizing s x x2 with
  | zero => exact h
  | succ n ih =>
    unfold moveAll
    dsimp only
    split
    · exact h
    split
    · exact h
    · have h1 := (hsrc h).of_bad ‹_›
      split
      · exact h1
      split
      exacts [h, h1, (agentWrite_keeps h1).of_ok ‹_›]
    · have h1 := (hsrc h).of_ok ‹_›
      split
      exacts [h, h1, ih ((agentWrite_keeps h1).of_ok ‹_›)]

theorem agentStore_keeps {g n bytes psn e} (h : Keeps s₀ s) :
    Moved.Keeps s₀ (agentStore s g n bytes psn e) :=
  moveAll_keeps (fun h1 => h1) h

/-! ### Records -/

theorem writeRecord_keeps {x} (h : Keeps s₀ s) : Keeps s₀ (writeRecord s x) := modEvring_keeps (homeWrite_keeps h)

theorem flushBuf_keeps {rg n} (h : Keeps s₀ s) : Keeps s₀ (flushBuf rg n s) := by
  induction n generalizing s with
  | zero => exact h
  | succ n ih =>
    unfold flushBuf
    dsimp only
    split
    · exact h
    refine .ite h ?_
    split
    exacts [h, ih (writeRecord_keeps h)]

theorem flushRing_keeps {rg} (h : Keeps s₀ s) : Keeps s₀ (flushRing s rg) := flushBuf_keeps h

theorem spillRecord_keeps {x} (h : Keeps s₀ s) : Keeps s₀ (spillRecord s x) := .ite h (modEvring_keeps (homeWrite_keeps h))

theorem takeRecord_keeps {x} (h : Keeps s₀ s) : Keeps s₀ (takeRecord s x) := .ite h (.ite (spillRecord_keeps h) (flushRing_keeps h))

theorem eventRecord_keeps {m} (h : Keeps s₀ s) : Keeps s₀ (eventRecord m s) := by
  unfold eventRecord
  split
  · exact h
  split
  exacts [.ite h (takeRecord_keeps h), h]

theorem endpointRecord_keeps {rg ty w3 w4} (h : Keeps s₀ s) : Keeps s₀ (endpointRecord s rg ty w3 w4).2 := h

theorem returnSpilled_keeps {rg n} (h : Keeps s₀ s) : Keeps s₀ (returnSpilled rg n s) := by
  induction n generalizing s with
  | zero => exact h
  | succ n ih =>
    unfold returnSpilled
    split
    · exact h
    · exact .ite h (ih (.ite h (writeRecord_keeps h)))

theorem tailingsRow_keeps {rg} (h : Keeps s₀ s) : Keeps s₀ (tailingsRow rg s) := by
  unfold tailingsRow
  refine .ite (.ite (flushRing_keeps h) h) (returnSpilled_keeps (.ite ?_ ?_))
  · exact .ite (flushRing_keeps h) h
  · exact modEvring_keeps (writeRecord_keeps (endpointRecord_keeps (.ite (flushRing_keeps h) h)))

theorem onEvRing_keeps {rg f} (hf : ∀ {n : Nat} {s : State}, Keeps s₀ s → Keeps s₀ (f n s)) (hs : Keeps s₀ s) :
    OutKeeps s₀ (onEvRing rg f s) :=
  Keeps.ite hs (hf hs)

theorem droppedRow_keeps {rg} (h : Keeps s₀ s) : Keeps s₀ (droppedRow rg s) := .ite h (modEvring_keeps (makeRecord_keeps h))

theorem ringHeadPoll_keeps {head rg} (h : Keeps s₀ s) : Keeps s₀ (ringHeadPoll head rg s) := .ite h (flushRing_keeps h)

theorem sendVector_keeps {p fn vec} (h : Keeps s₀ s) : Keeps s₀ (sendVector s p fn vec) := .ite h h

theorem msiXMessage_keeps {rg} (h : Keeps s₀ s) : Keeps s₀ (msiXMessage rg s) := .ite h (sendVector_keeps h)

theorem msiXUnmask_keeps {p fn vec} (h : Keeps s₀ s) : Keeps s₀ (msiXUnmask p fn vec s) := .ite h (.ite (sendVector_keeps h) h)

theorem d3hot_keeps {p fn enter} (h : Keeps s₀ s) : Keeps s₀ (d3hot p fn enter s) :=
  .ite h (.ite h (Keeps.foldl (Keeps.foldl h flushRing_keeps) (fun h1 => sendVector_keeps h1)))

/-! ### HostRows -/

theorem answerHost_keeps {p status bytes} (h : Keeps s₀ s) : Keeps s₀ (answerHost s p status bytes) := h

theorem logAer_keeps {p code} (h : Keeps s₀ s) : Keeps s₀ (logAer s p code) := h

theorem bar2Lines_keeps {p fn off l x l2 b} (h : Keeps s₀ s) : OnSome (Gath.Keeps s₀) (bar2Lines s p fn off l x l2 b) := by
  induction l generalizing x l2 b with
  | nil => exact .at_some h
  | cons r l ih =>
    unfold bar2Lines
    split
    · exact .at_none
    split
    exacts [ih, .at_some trivial, .at_none]

theorem bar2Read_keeps {p fn off len ext} (h : Keeps s₀ s) : Keeps s₀ (bar2Read p fn off len ext s) := by
  unfold bar2Read
  refine .ite h (.ite h ?_)
  split
  exacts [h, answerHost_keeps (((bar2Lines_keeps h).elim ‹_›).of_ok rfl), h]

theorem bar2Line_keeps {p ep now l} (h : Keeps s₀ s) : Keeps s₀ (bar2Line p ep now s l) := .ite (homeWrite_keeps h) h

theorem bar2Write_keeps {p fn off data ep} (h : Keeps s₀ s) : Keeps s₀ (bar2Write p fn off data ep s) := by
  unfold bar2Write
  refine .ite h (.ite h ?_)
  dsimp only
  split
  exacts [h, .ite (logAer_keeps (Keeps.foldl h bar2Line_keeps)) (Keeps.foldl h bar2Line_keeps)]

theorem atomicop_keeps {p fn off op bits operand compare} (h : Keeps s₀ s) : Keeps s₀ (atomicop p fn off op bits operand compare s) := by
  unfold atomicop
  refine .ite h (.ite h ?_)
  dsimp only
  split
  exacts [.ite h (.ite h (answerHost_keeps (homeWrite_keeps h))), h]

theorem frontWindowRead_keeps {p fn off len} (h : Keeps s₀ s) : Keeps s₀ (frontWindowRead p fn off len s) := .ite h (.ite h (.ite h h))

theorem apertureWrite_keeps {p off len v} (h : Keeps s₀ s) : Keeps s₀ (apertureWrite p off len v s) := by
  unfold apertureWrite
  refine .ite h (.ite h (.ite h (.ite h ?_)))
  split
  exacts [(clearRegister_keeps h).elim ‹_›, h]

theorem atsInvalidation_keeps {p pasid lo len} (h : Keeps s₀ s) : Keeps s₀ (atsInvalidation p pasid lo len s) := .ite h h

theorem endPageReq_keeps {req r} (h : Keeps s₀ s) : Keeps s₀ (endPageReq s req r) := by
  unfold endPageReq
  dsimp only
  split
  exacts [h, .ite h h]

theorem keepHost_keeps {r w page len} (h : Keeps s₀ s) : Keeps s₀ (keepHost s r w page len) := by
  unfold keepHost
  dsimp only
  split
  exacts [h, h]

theorem atsResponse_keeps {req found rd wr page len} (h : Keeps s₀ s) : Keeps s₀ (atsResponse req found rd wr page len s) := by
  unfold atsResponse
  split
  exacts [h, .ite h (.ite (endPageReq_keeps (keepHost_keeps h)) h)]

theorem refusePage_keeps {req r} (h : Keeps s₀ s) : Keeps s₀ (refusePage s req r) := by
  unfold refusePage
  dsimp only
  split
  · exact h
  refine .ite h ?_
  split
  exacts [Taken_state_keeps (escalate_keeps h), faultWait_keeps h, h]

theorem pageResponse_keeps {req granted} (h : Keeps s₀ s) : Keeps s₀ (pageResponse req granted s) := by
  unfold pageResponse
  split
  exacts [h, .ite h (.ite (endPageReq_keeps h) (refusePage_keeps h))]

theorem pageRequestTimeout_keeps {req} (h : Keeps s₀ s) : Keeps s₀ (pageRequestTimeout req s) := by
  unfold pageRequestTimeout
  split
  exacts [h, .ite h (refusePage_keeps h)]

theorem hostWriteTimeout_keeps {m} (h : Keeps s₀ s) : Keeps s₀ (hostWriteTimeout m s) := by
  unfold hostWriteTimeout
  split
  · exact h
  split
  exacts [.ite h h, h]

theorem completionTimeout_keeps {m} (h : Keeps s₀ s) : Keeps s₀ (completionTimeout m s) := by
  unfold completionTimeout
  split
  · exact h
  split
  exacts [.ite h h, h]

/-! ### Rings -/

theorem doorbell_keeps {rk t} (h : Keeps s₀ s) : Keeps s₀ (doorbell rk t s) := .ite h (.ite h (.ite h (.ite h h)))

theorem ringCtl_keeps {rk v} (h : Keeps s₀ s) : Keeps s₀ (ringCtl rk v s) := .ite h (.ite h h)

theorem freshSeqs_keeps {rg} (h : Keeps s₀ s) : Keeps s₀ (freshSeqs s rg) := h

theorem evrCtl_keeps {p v} (h : Keeps s₀ s) :
    Keeps s₀ (evrCtl p v s) :=
  .ite h (.ite (hregFlag_keeps (.ite h (.ite h h))) (.ite h (.ite h h)))

theorem groupFail_keeps {rk status} (h : Keeps s₀ s) : Keeps s₀ (groupFail s rk status) :=
  finishWith_keeps (modRing_keeps (Keeps.foldl h answerPacket_keeps))

theorem packetRead_keeps {rk words} (h : Keeps s₀ s) : Keeps s₀ (packetRead rk words s) := by
  unfold packetRead
  refine .ite h ?_
  dsimp only
  split
  exacts [.ite (groupFail_keeps h) (finishWith_keeps h), h]

theorem packetReadRetry_keeps {rk} (h : Keeps s₀ s) : Keeps s₀ (packetReadRetry rk s) := .ite h h

theorem inGroup_keeps {check rk p num members body} (h : Keeps s₀ s)
    (hbody : ∀ {s : State} {n : Nat} {x : Packet}, Keeps s₀ s → Keeps s₀ (body s n x)) :
    Keeps s₀ (inGroup check s rk p num members body) := by
  unfold inGroup
  refine .ite h (.ite ?_ (groupFail_keeps h))
  split
  exacts [finishWith_keeps h, hbody h]

theorem runChecked_keeps {check op r body} (hbody : ∀ {s : State} {n : Nat} {x : Packet}, Keeps s₀ s → Keeps s₀ (body s n x))
    (hs : Keeps s₀ s) :
    Keeps s₀ (runChecked check op r body s) := by
  unfold runChecked
  dsimp only
  split
  · exact hs
  refine .ite hs (.ite (hbody hs) (.ite hs ?_))
  split
  · exact inGroup_keeps hs hbody
  refine .ite (finishWith_keeps hs) (.ite (finishWith_keeps (.ite hs hs)) ?_)
  split
  exacts [finishWith_keeps hs, hbody hs]

theorem runCommand_keeps {op r body} (hbody : ∀ {s : State} {n : Nat} {x : Packet}, Keeps s₀ s → Keeps s₀ (body s n x)) (hs : Keeps s₀ s) :
    Keeps s₀ (runCommand op r body s) :=
  runChecked_keeps hbody hs

theorem answer_keeps {rk x} (h : Keeps s₀ s) (hx : Answer.Keeps s₀ x) : Keeps s₀ (answer s rk x) := by
  unfold answer
  split
  exacts [finish_keeps h, h, finish_keeps hx]

/-! ### Commands -/

theorem startCore_keeps {r c e x x2} (h : Keeps s₀ s) : Keeps s₀ (startCore s r c e x x2) :=
  Keeps.foldl (modCore_keeps (freePorts_keeps h)) (fun h1 => h1)

theorem cmdLaunch_keeps {r rk p} (h : Keeps s₀ s) : Keeps s₀ (cmdLaunch r s rk p) := by
  unfold cmdLaunch
  dsimp only
  split
  · exact h
  refine .ite h ?_
  split
  · exact finishWith_keeps h
  refine .ite ?_ ?_
  · exact finishWith_keeps h
  · exact .ite (finishWith_keeps h) (modRing_keeps (Keeps.setLaunches (Keeps.foldl h startCore_keeps)))

theorem setLaunch_keeps {rk f} (h : Keeps s₀ s) : Keeps s₀ (setLaunch s rk f) := h

theorem kernelEnds_keeps {rk l} (h : Keeps s₀ s) : Keeps s₀ (kernelEnds s rk l) :=
  setLaunch_keeps (Keeps.foldl (Keeps.foldl (Keeps.foldl h (fun h1 => freePorts_keeps (gbufFlushAll_keeps h1))) (fun h1 => h1)) (fun h1 => h1))

theorem kernelFlushes_keeps {rk l ports} (h : Keeps s₀ s) :
    Keeps s₀ (kernelFlushes s rk l ports) :=
  setLaunch_keeps (Keeps.foldl h (fun h1 => h1))

theorem stopsDone_keeps {rk} (h : Keeps s₀ s) : Keeps s₀ (stopsDone s rk) := Keeps.foldl h finishWith_keeps

theorem launchReport_keeps {s0 rk l ext} (h : Keeps s₀ s0) : Keeps s₀ (launchReport s0 rk l ext) := by
  unfold launchReport
  dsimp only
  split
  · exact stopsDone_keeps (finish_keeps ((agentStore_keeps (trimTables_keeps (Keeps.setLaunches (Keeps.foldl h modCore_keeps)))).of_all ‹_›))
  · exact stopsDone_keeps (finish_keeps ((agentStore_keeps (trimTables_keeps (Keeps.setLaunches (Keeps.foldl h modCore_keeps)))).of_bad ‹_›))
  · exact h

theorem launchCompletion_keeps {r ext} (h : Keeps s₀ s) : Keeps s₀ (launchCompletion r ext s) := by
  unfold launchCompletion
  dsimp only
  split
  · exact h
  refine .ite h ?_
  split
  exacts [.ite h (kernelEnds_keeps h), launchReport_keeps h, .ite (kernelFlushes_keeps h) h]

theorem signalAway_keeps {rk d cell amount} (h : Keeps s₀ s) : Keeps s₀ (signalAway s rk d cell amount) := .ite (finish_keeps h) h

theorem cmdSignal_keeps {rk p} (h : Keeps s₀ s) : Keeps s₀ (cmdSignal s rk p) := by
  unfold cmdSignal
  refine .ite h (.ite (finish_keeps h) ?_)
  dsimp only
  split
  · exact finish_keeps h
  · exact finish_keeps h
  refine .ite (finishWith_keeps h) ?_
  split
  · exact signalAway_keeps h
  refine .ite h ?_
  split
  · exact finish_keeps (counterRecord_keeps h)
  refine finishWith_keeps ?_
  split
  · exact .ite (modCore_keeps ((applyCell_keeps h).of_ok ‹_›)) ((applyCell_keeps h).of_ok ‹_›)
  · exact (applyCell_keeps h).of_ok ‹_›

theorem cmdWait_keeps {rk p} (h : Keeps s₀ s) : Keeps s₀ (cmdWait s rk p) := by
  unfold cmdWait
  split
  · exact .ite (finish_keeps h) h
  split
  · exact finish_keeps h
  · exact finish_keeps h
  split
  · split
    exacts [finish_keeps h, finish_keeps (counterRecord_keeps h), h]
  · exact finish_keeps h

theorem waitTimeout_keeps {rk} (h : Keeps s₀ s) : Keeps s₀ (waitTimeout rk s) := by
  unfold waitTimeout
  split
  exacts [.ite h (finish_keeps h), h]

theorem cmdFence_keeps {rk p} (h : Keeps s₀ s) : Keeps s₀ (cmdFence s rk p) := .ite h h

theorem fenceDone_keeps {rk} (h : Keeps s₀ s) : Keeps s₀ (fenceDone rk s) := by
  unfold fenceDone
  dsimp only
  split
  exacts [.ite h (answerPacket_keeps h), h]

theorem cmdStop_keeps {rk p} (h : Keeps s₀ s) : Keeps s₀ (cmdStop s rk p) := by
  unfold cmdStop
  dsimp only
  split
  · exact .ite (finishWith_keeps h) (.ite h (finishWith_keeps h))
  · exact modRing_keeps (Keeps.setLaunches (Keeps.foldl (Keeps.foldl h stopThread_keeps) (fun h1 => h1)))

theorem cmdHalt_keeps {rk p} (h : Keeps s₀ s) : Keeps s₀ (cmdHalt s rk p) := by
  unfold cmdHalt
  dsimp only
  split
  · exact h
  split
  · exact finishWith_keeps h
  refine .ite ?_ ?_
  · exact finishWith_keeps (.ite (Keeps.foldl h debugHalt_keeps) h)
  · exact modRing_keeps (.ite (Keeps.foldl h debugHalt_keeps) h)

theorem cmdResume_keeps {rk p} (h : Keeps s₀ s) : Keeps s₀ (cmdResume s rk p) := by
  unfold cmdResume
  dsimp only
  split
  · exact h
  split
  exacts [finishWith_keeps h, finishWith_keeps (modCtx_keeps (Keeps.foldl h (fun h1 => h1)))]

theorem storeSegs_keeps {g l n x} (h : Keeps s₀ s) : Moved.Keeps s₀ (storeSegs g l n s x) := by
  induction l generalizing s n x with
  | nil => exact h
  | cons p l ih =>
    unfold storeSegs
    split
    exacts [ih ((agentStore_keeps h).of_all ‹_›), agentStore_keeps h]

theorem cmdReadState_keeps {ext rk p} (h : Keeps s₀ s) : Keeps s₀ (cmdReadState ext s rk p) := by
  unfold cmdReadState
  split
  · exact finishWith_keeps h
  refine .ite (finishWith_keeps h) ?_
  split
  exacts [finishWith_keeps ((storeSegs_keeps h).of_all ‹_›), finish_keeps ((storeSegs_keeps h).of_bad ‹_›), h]

end

end Sys2Proof.Machine
end

section
/-!
PROOFS. Boot, resets and the commands of contexts, regions and the device: power and resets, and what each command packet does.
-/
namespace Sys2Proof.Machine

section
variable {s₀ s : State}

/-! ### Lifecycle -/

theorem zeroStore_keeps {c lo n} (h : Keeps s₀ s) : Keeps s₀ (zeroStore s c lo n) := h.memory (zeroStore_memoryOk c lo n) rfl rfl

theorem clearStore_keeps {c lo n} (h : Keeps s₀ s) : Keeps s₀ (clearStore s c lo n) :=
  Keeps.foldl (zeroStore_keeps h) (fun h1 => .ite h1 (setPortWord_keeps h1))

theorem coreReset_keeps {c} (h : Keeps s₀ s) : Keeps s₀ (coreReset s c) :=
  Keeps.setThreads (modCore_keeps (zeroStore_keeps (clearStore_keeps (freePorts_keeps (orphanCore_keeps (Keeps.foldl
      (gbufFlushAll_keeps h) stopThread_keeps))))))

theorem zeroCells_keeps {c} (h : Keeps s₀ s) : Keeps s₀ (zeroCells s c) := h

theorem grantCore_keeps {ctx mode c} (h : Keeps s₀ s) : Keeps s₀ (grantCore s ctx mode c) :=
  modCore_keeps (zeroCells_keeps (clearStore_keeps (coreReset_keeps h)))

theorem applySettings_keeps {ctx y} (h : Keeps s₀ s) : Keeps s₀ (applySettings s ctx y) := modCtx_keeps h

theorem stopContext_keeps {ctx but quiet} (h : Keeps s₀ s) : Keeps s₀ (stopContext s ctx but quiet) := by
  unfold stopContext
  dsimp only
  split
  · exact h
  · exact abandonCommands_keeps (stopHauls_keeps (unloadRegions_keeps (Keeps.foldl (Keeps.foldl h stopThread_keeps) (fun h1 => h1))))

theorem zeroContextCells_keeps {x} (h : Keeps s₀ s) : Keeps s₀ (zeroContextCells s x) := Keeps.setWbCells (Keeps.foldl h (fun h1 => h1))

theorem dropSlots_keeps {ctx} (h : Keeps s₀ s) : Keeps s₀ (dropSlots s ctx) := h

theorem resetContext_keeps {ctx y} (h : Keeps s₀ s) : Keeps s₀ (resetContext s ctx y) := by
  unfold resetContext
  dsimp only
  split
  · exact h
  · exact modCtx_keeps (applySettings_keeps (dropSlots_keeps (zeroContextCells_keeps (Keeps.foldl (Keeps.foldl h (fun h1 => modCore_keeps
      (coreReset_keeps h1))) bcFlushAll_keeps))))

theorem eraseContext_keeps {ctx clear} (h : Keeps s₀ s) : Keeps s₀ (eraseContext s ctx clear) := by
  unfold eraseContext
  dsimp only
  split
  · exact h
  · exact Keeps.setCtxs (modEvring_keeps (dropContext_keeps (dropSlots_keeps (zeroContextCells_keeps (Keeps.foldl (Keeps.foldl h
      (fun h1 => modCore_keeps (.ite (clearStore_keeps (coreReset_keeps h1)) (zeroStore_keeps (coreReset_keeps h1))))) bcFlushAll_keeps)))))

theorem destroyQuietly_keeps {ctx} (h : Keeps s₀ s) : Keeps s₀ (destroyQuietly s ctx) :=
  Keeps.setMeshInboxEvringsPorts (eraseContext_keeps (stopContext_keeps h))

theorem destroyOf_keeps {p fns} (h : Keeps s₀ s) : Keeps s₀ (destroyOf s p fns) := Keeps.foldl h destroyQuietly_keeps

theorem hostStore_keeps {rk n b ext} (h : Keeps s₀ s) : OnOk (Keeps s₀) (hostStore s rk n b ext) := by
  unfold hostStore
  split
  exacts [(agentStore_keeps h).of_all ‹_›, trivial, trivial]

/-! ### Boot -/

theorem loadBoard_keeps (h : Keeps s₀ s) : Keeps s₀ (loadBoard s) := by
  unfold loadBoard
  dsimp only
  split
  exacts [h, Keeps.foldl h (fun h1 => h1)]

theorem calibrateAll_keeps (h : Keeps s₀ s) : Keeps s₀ (calibrateAll s) := .ite h (Keeps.foldl h (fun h1 => h1))

theorem takeHref_keeps (h : Keeps s₀ s) : Keeps s₀ (takeHref s) := by
  unfold takeHref
  refine Keeps.foldl h ?_
  intro s1 x1 h1
  split
  exacts [h1, h1]

theorem loseHbm_keeps (h : Keeps s₀ s) : Keeps s₀ (loseHbm s) :=
  h.memory (fun ⟨_, hl, ho, _, hq⟩ => ⟨rfl, hl, ho, rfl, hq⟩) rfl rfl

theorem hrefGone_keeps (h : Keeps s₀ s) : Keeps s₀ (hrefGone s) := modDev_keeps (loseHbm_keeps h)

theorem buildReserve_keeps (h : Keeps s₀ s) : Keeps s₀ (buildReserve s) :=
  h.memory (fun ⟨hh, hl, ho, hp, hq⟩ => ⟨memWf_filter _ _ hh, hl, ho, NSet.wf_filter _ _ hp, hq⟩) rfl rfl

theorem startGov_keeps (h : Keeps s₀ s) : Keeps s₀ (startGov s) := h

theorem reachReady_keeps (h : Keeps s₀ s) : Keeps s₀ (reachReady s) := h

theorem firmwareUp_keeps (h : Keeps s₀ s) : Keeps s₀ (firmwareUp s) := by
  unfold firmwareUp
  refine .ite (hrefGone_keeps h) (reachReady_keeps (loadBoard_keeps (calibrateAll_keeps (buildReserve_keeps (.ite ?_ ?_)))))
  · exact modDev_keeps (loseHbm_keeps (Keeps.foldl (takeHref_keeps h) (fun h1 => h1)))
  · exact Keeps.foldl (takeHref_keeps h) (fun h1 => h1)

theorem startImage_keeps {img src} (h : Keeps s₀ s) : Keeps s₀ (startImage s img src) := h

theorem checkEnds_keeps {step} (h : Keeps s₀ s) : Keeps s₀ (checkEnds s step) := h

theorem latch_keeps {b} (h : Keeps s₀ s) : Keeps s₀ (latch s b) := Keeps.foldl (Keeps.foldl h (fun h1 => h1)) (fun h1 => h1)

theorem clockModes_keeps (h : Keeps s₀ s) : Keeps s₀ (clockModes s) := h

theorem bootFrom_keeps {b} (h : Keeps s₀ s) : Keeps s₀ (bootFrom s b) := by
  unfold bootFrom
  refine .ite (modDev_keeps (clockModes_keeps (latch_keeps h))) ?_
  refine .ite (modDev_keeps (checkEnds_keeps (clockModes_keeps (latch_keeps h)))) ?_
  split
  · exact firmwareUp_keeps (startImage_keeps (clockModes_keeps (latch_keeps h)))
  · exact modDev_keeps (checkEnds_keeps (clockModes_keeps (latch_keeps h)))

theorem bareState_keeps (h : Keeps s₀ s) : Keeps s₀ (bareState s) :=
  h.memory (fun ⟨_, _, ho, _, _⟩ => ⟨rfl, rfl, ho, rfl, rfl⟩) rfl rfl

theorem bootOrWait_keeps {b} (h : Keeps s₀ s) : Keeps s₀ (bootOrWait s b) := .ite (bootFrom_keeps h) h

theorem powerOn_keeps {b} (h : Keeps s₀ s) : Keeps s₀ (powerOn b s) := .ite h (bootOrWait_keeps (modDev_keeps (bareState_keeps h)))

/-- The stacks go into self-refresh, and nothing else changes. -/
theorem selfRefresh_keeps (h : Keeps s₀ s) (l : List Nat) :
    Keeps s₀ (l.foldl (fun s n => modStack s n fun y => { y with selfRefresh := true }) s) := .foldl h fun h1 => h1

/-- A DEVICE reset keeps HBM as the flushed caches leave it (Table 21.4); the local stores start empty. -/
theorem keptState_keeps (h : Keeps s₀ s) : Keeps s₀ (keptState s) := by
  unfold keptState
  dsimp only
  have hf : Keeps s₀ ((s.benches.map (·.1)).foldl bcFlushAll s) := .foldl h bcFlushAll_keeps
  revert hf
  generalize (s.benches.map (·.1)).foldl bcFlushAll s = u
  intro hf
  have hb := selfRefresh_keeps (Keeps.refl (bareState u)) (List.range 16)
  revert hb
  generalize (List.range 16).foldl _ (bareState u) = x
  rintro ⟨hx, hfuses, hpending⟩
  refine hf.memory (fun ok => ?_) hfuses hpending
  obtain ⟨hh, -, ho, hp, -⟩ := ok
  obtain ⟨-, hl, ho', -, hq⟩ := hx ⟨rfl, rfl, ho, rfl, rfl⟩
  exact ⟨hh, hl, ho', hp, hq⟩

theorem deviceReset_keeps {b} (h : Keeps s₀ s) : Keeps s₀ (deviceReset b s) := by
  unfold deviceReset
  refine .ite h (.ite (.ite h (bootOrWait_keeps (keptState_keeps h))) ?_)
  split
  exacts [h, .ite h (bootOrWait_keeps (keptState_keeps h))]

theorem devRstRelease_keeps (h : Keeps s₀ s) : Keeps s₀ (devRstRelease s) := by
  unfold devRstRelease
  split
  exacts [h, bootFrom_keeps h]

theorem goOff_keeps {pwrgood} (h : Keeps s₀ s) : Keeps s₀ (goOff s pwrgood) := modDev_keeps (bareState_keeps h)

/-- FUSE_BLOW alone changes the fuses (R421); the memories it leaves alone. -/
theorem fuseBlow_memoryOk (h : MemoryOk s) : MemoryOk (fuseBlow s) := by
  unfold fuseBlow
  split <;> exact h

/-! ### ContextCmds -/

theorem clearMap_keeps {ctx} (h : Keeps s₀ s) : Keeps s₀ (clearMap s ctx) := Keeps.foldl h zeroChunk_keeps

theorem createContext_keeps {rk p grant y id} (h : Keeps s₀ s) : OnSome (Keeps s₀) (createContext s rk p grant y id) := by
  unfold createContext
  dsimp only
  split
  · exact .at_none
  have h1 := (newFrame_keeps (Keeps.setCtxs h)).elim ‹_›
  exact .at_some (modCtx_keeps (.foldl (applySettings_keeps (freshSeqs_keeps (Keeps.setEvrings (clearMap_keeps (modCtx_keeps h1))))) grantCore_keeps))

theorem cmdCtxCreate_keeps {ext rk p} (h : Keeps s₀ s) : Keeps s₀ (cmdCtxCreate ext s rk p) := by
  unfold cmdCtxCreate
  dsimp only
  split
  · exact finishWith_keeps h
  split
  · exact finish_keeps h
  split
  · exact answer_keeps h trivial
  refine .ite (answer_keeps h trivial) ?_
  split
  exacts [finishWith_keeps h, makeRecord_keeps ((createContext_keeps h).elim ‹_›)]

theorem cmdCtxDestroy_keeps {rk p} (h : Keeps s₀ s) : Keeps s₀ (cmdCtxDestroy s rk p) :=
  .ite (answer_keeps (stopContext_keeps h) trivial) (eraseContext_keeps (finishWith_keeps (stopContext_keeps h)))

theorem cmdCtxReset_keeps {ext rk p} (h : Keeps s₀ s) : Keeps s₀ (cmdCtxReset ext s rk p) := by
  unfold cmdCtxReset
  refine .ite (.ite (finishWith_keeps (resetContext_keeps (stopContext_keeps h))) (answer_keeps (stopContext_keeps h) trivial)) ?_
  refine .ite (finishWith_keeps h) ?_
  dsimp only
  split
  · exact answer_keeps h trivial
  · exact finish_keeps h
  refine .ite (finish_keeps h) (.ite (finishWith_keeps h) ?_)
  split
  · exact finishWith_keeps h
  · exact .ite (finishWith_keeps (resetContext_keeps (stopContext_keeps h))) (answer_keeps (stopContext_keeps h) trivial)

theorem freeTables_keeps {ctx l n} (h : Keeps s₀ s) : Keeps s₀ (freeTables ctx l s n) := by
  induction l generalizing s n with
  | nil => exact h
  | cons sh l ih => exact modCtx_keeps (.foldl h fun h1 => .ite (ih h1) h1)

theorem enterTable_keeps {ctx n sh below} (h : Keeps s₀ s) : OnSome (fun p => Keeps s₀ p.2) (enterTable ctx s n sh below) := by
  unfold enterTable
  refine .ite (.at_some h) ?_
  split
  · exact .at_none
  have h1 := (newFrame_keeps h).elim ‹_›
  exact .at_some (setPte_keeps (.ite (.foldl h1 setPte_keeps) h1))

theorem setLeaf_keeps {ctx va log2 v l n} (h : Keeps s₀ s) : OnSome (Keeps s₀) (setLeaf ctx va log2 v l s n) := by
  induction l generalizing s n with
  | nil => exact .at_none
  | cons sh l ih =>
    unfold setLeaf
    refine .ite (.at_some h) (.ite (.at_some (setPte_keeps (.ite (freeTables_keeps h) h))) ?_)
    split
    exacts [.at_none, ih ((enterTable_keeps h).elim ‹_›)]

theorem setRange_keeps {ctx va log2 v n} (h : Keeps s₀ s) : OnSome (Keeps s₀) (setRange ctx va log2 v n s) := by
  unfold setRange
  split
  · exact .at_none
  refine .foldl_bind (.at_some h) fun h1 => setLeaf_keeps h1

theorem applyMap_keeps {rk p} (h : Keeps s₀ s) : OnSome (Keeps s₀) (applyMap s rk p) := by
  unfold applyMap
  refine .ite (OnSome.at_some h) ?_
  dsimp only
  split
  · exact OnSome.at_none
  · exact .ite (OnSome.at_some (dropRange_keeps ((setRange_keeps h).elim ‹_›))) OnSome.at_none

theorem complete_keeps {rk x} (h : Keeps s₀ s) (hx : Effect.Keeps s₀ x) : Keeps s₀ (complete s rk x) := by
  unfold complete
  split
  exacts [finish_keeps h, answer_keeps h trivial, finish_keeps hx]

theorem runMember_keeps {op r eff} (heff : ∀ {s : State} {n : Nat} {x : Packet}, Keeps s₀ s → Effect.Keeps s₀ (eff s n x))
    (hs : Keeps s₀ s) :
    Keeps s₀ (runMember op r eff s) :=
  runChecked_keeps (fun h1 => complete_keeps h1 (heff h1)) hs

theorem mapEffect_keeps {rk p e} (h : Keeps s₀ s) : Effect.Keeps s₀ (mapEffect s rk p e) := by
  unfold mapEffect
  split
  · exact trivial
  split
  · exact trivial
  split
  exacts [(applyMap_keeps h).elim ‹_›, trivial]

theorem cmdMove_keeps {src ext rk p}
    (hsrc : ∀ {n : Nat} {s : State} {n1 n2 : Nat} {x : Ext}, Keeps s₀ s → Gath.Keeps s₀ (src n s n1 n2 x)) (hs : Keeps s₀ s) :
    Keeps s₀ (cmdMove src ext s rk p) := by
  unfold cmdMove
  dsimp only
  split
  · exact finish_keeps (Keeps.setFresh ((moveAll_keeps hsrc hs).of_all ‹_›))
  · exact finish_keeps (Keeps.setFresh ((moveAll_keeps hsrc hs).of_bad ‹_›))
  · exact answer_keeps hs trivial

theorem cmdCopy_keeps {ext rk p} (h : Keeps s₀ s) : Keeps s₀ (cmdCopy ext s rk p) := cmdMove_keeps gather_keeps h

theorem cmdFill_keeps {ext rk p} (h : Keeps s₀ s) : Keeps s₀ (cmdFill ext s rk p) := cmdMove_keeps (fun h1 => h1) h

theorem applyCounters_keeps {ctx x l table} (h : Keeps s₀ s) : Keeps s₀ (applyCounters s ctx x l table) :=
  modCtx_keeps (Keeps.setBenches (Keeps.setWbCells (Keeps.foldl (Keeps.foldl h setPte_keeps) (fun h1 => h1))))

theorem storeBytes_keeps {c o b} (h : Keeps s₀ s) : Keeps s₀ (storeBytes s c o b) := Keeps.foldl h homeWrite_keeps

theorem applyImage_keeps {ctx x l} (h : Keeps s₀ s) : Keeps s₀ (applyImage s ctx x l) :=
  applyCounters_keeps (Keeps.foldl (Keeps.foldl (modCtx_keeps h) (fun h1 => Keeps.foldl h1 storeBytes_keeps))
      (fun h1 => Keeps.foldl h1 storeBytes_keeps))

theorem imageWrites_keeps {g l x} (h : Keeps s₀ s) : OnOk (Keeps s₀) (imageWrites g l s x) := by
  induction l generalizing s x with
  | nil => exact h
  | cons z l ih =>
    unfold imageWrites
    split
    exacts [ih ((agentStore_keeps h).of_all ‹_›), trivial, trivial]

theorem cmdLoadImage_keeps {ext rk p} (h : Keeps s₀ s) : Keeps s₀ (cmdLoadImage ext s rk p) := by
  unfold cmdLoadImage
  dsimp only
  split
  · exact h
  split
  · exact answer_keeps h trivial
  · exact .ite (finishWith_keeps h) (finish_keeps h)
  refine .ite (.ite (finishWith_keeps h) (finish_keeps h)) ?_
  split
  · exact finishWith_keeps h
  split
  · exact finishWith_keeps h
  split
  · exact answer_keeps h trivial
  · exact .ite (finishWith_keeps h) (finish_keeps h)
  · exact .ite (finishWith_keeps h) (finishWith_keeps (applyImage_keeps ((imageWrites_keeps h).elim ‹_›)))

/-! ### StreamCmds -/

theorem loadRegion_keeps {rk p x rid} (h : Keeps s₀ s) : Keeps s₀ (loadRegion s rk p x rid) :=
  runSection_keeps (Keeps.setRegions (Keeps.foldl h (fun h1 => h1)))

theorem loadEffect_keeps {rk p ext} (h : Keeps s₀ s) : Effect.Keeps s₀ (loadEffect s rk p ext) := by
  unfold loadEffect
  split
  · exact trivial
  · exact trivial
  split
  exacts [trivial, loadRegion_keeps h, trivial]

theorem changeFor_keeps {rk rid target image unload p r} (h : Keeps s₀ s) : Keeps s₀ (changeFor s rk rid target image unload p r) :=
  beginChange_keeps h

theorem onRegion_keeps {rk p f} (h : Keeps s₀ s) (hf : ∀ {n : Nat} {x : Region}, Keeps s₀ (f n x)) : Keeps s₀ (onRegion s rk p f) := by
  unfold onRegion
  split
  · exact h
  split
  exacts [finishWith_keeps h, .ite (answer_keeps h trivial) hf]

theorem cmdStreamSection_keeps {r rk p} (h : Keeps s₀ s) : Keeps s₀ (cmdStreamSection r s rk p) :=
  onRegion_keeps h (.ite (changeFor_keeps h) (finishWith_keeps h))

theorem reconfigure_keeps {r ext rk p rid x} (h : Keeps s₀ s) : Keeps s₀ (reconfigure r ext s rk p rid x) := by
  unfold reconfigure
  split
  · exact answer_keeps h trivial
  · exact finish_keeps h
  refine .ite (finishWith_keeps h) ?_
  split
  exacts [finish_keeps h, changeFor_keeps h]

theorem cmdStreamReconfig_keeps {r ext rk p} (h : Keeps s₀ s) : Keeps s₀ (cmdStreamReconfig r ext s rk p) :=
  onRegion_keeps h (.ite (changeFor_keeps h) (reconfigure_keeps h))

/-! ### DeviceCmds -/

theorem cmdGetInfo_keeps {ext rk p} (h : Keeps s₀ s) : Keeps s₀ (cmdGetInfo ext s rk p) := by
  unfold cmdGetInfo
  split
  exacts [finish_keeps h, finishWith_keeps ((hostStore_keeps h).elim ‹_›)]

theorem setPolicy_keeps {n v} (h : Keeps s₀ s) : Keeps s₀ (setPolicy s n v) := .ite (.ite h (buildReserve_keeps h)) h

theorem policyEffect_keeps {p e} (h : Keeps s₀ s) : Effect.Keeps s₀ (policyEffect s p e) := by
  unfold policyEffect
  dsimp only
  split
  · exact trivial
  split
  exacts [trivial, setPolicy_keeps h]

theorem cmdGetHistory_keeps {ext rk p} (h : Keeps s₀ s) : Keeps s₀ (cmdGetHistory ext s rk p) := by
  unfold cmdGetHistory
  dsimp only
  split
  · exact finishWith_keeps h
  split
  exacts [finish_keeps h, finish_keeps ((hostStore_keeps h).elim ‹_›)]

theorem fenceEffect_keeps {p e} (h : Keeps s₀ s) : Effect.Keeps s₀ (fenceEffect s p e) := by
  unfold fenceEffect
  split
  exacts [trivial, fenceUnitAt_keeps h]

theorem returnCore_keeps {c} (h : Keeps s₀ s) :
    Keeps s₀ (returnCore s c) :=
  modCore_keeps (zeroCells_keeps (clearStore_keeps (coreReset_keeps h)))

theorem returnPages_keeps {before} (h : Keeps s₀ s) : Keeps s₀ (returnPages before s) :=
  h.memory (fun ⟨hh, hl, ho, hp, hq⟩ => ⟨memWf_filter _ _ hh, hl, ho, NSet.wf_filter _ _ hp, hq⟩) rfl rfl

theorem unfence_keeps {kind i} (h : Keeps s₀ s) : Keeps s₀ (unfence s kind i) := by
  unfold unfence
  refine fencedRecords_keeps (noteFence_keeps (.ite ?_ ?_))
  · exact returnCore_keeps h
  · exact .ite (Keeps.foldl h (fun h1 => .ite h1 (returnCore_keeps h1))) (.ite (returnPages_keeps h) (.ite h h))

theorem unfenceEffect_keeps {p e} (h : Keeps s₀ s) : Effect.Keeps s₀ (unfenceEffect s p e) := by
  unfold unfenceEffect
  dsimp only
  split
  · exact trivial
  split
  exacts [trivial, unfence_keeps h]

theorem startFailed_keeps (h : Keeps s₀ s) : Keeps s₀ (startFailed s) := by
  unfold startFailed
  refine .ite (firmwareUp_keeps (modDev_keeps (Keeps.foldl (Keeps.foldl h stopContext_keeps) eraseContext_keeps))) (.ite ?_ ?_)
  · exact hrefGone_keeps (modDev_keeps (Keeps.foldl (Keeps.foldl h stopContext_keeps) eraseContext_keeps))
  · exact reachReady_keeps (startGov_keeps (modDev_keeps (Keeps.foldl (Keeps.foldl h stopContext_keeps) eraseContext_keeps)))

theorem takeImage_keeps {rk b} (h : Keeps s₀ s) : Keeps s₀ (takeImage s rk b) := by
  unfold takeImage
  refine .ite (finishWith_keeps h) (.ite ?_ ?_)
  · exact startFailed_keeps (startImage_keeps (finishWith_keeps h))
  · exact firmwareUp_keeps (startImage_keeps (finishWith_keeps h))

theorem cmdFwPush_keeps {ext rk p} (h : Keeps s₀ s) : Keeps s₀ (cmdFwPush ext s rk p) := by
  unfold cmdFwPush
  refine .ite (finishWith_keeps h) ?_
  split
  · exact finish_keeps h
  split
  exacts [takeImage_keeps h, finishWith_keeps h]

theorem cmdTakeover_keeps {rk x} (h : Keeps s₀ s) : Keeps s₀ (cmdTakeover s rk x) := .ite (finishWith_keeps h) (finishWith_keeps h)

theorem cmdResetDevice_keeps {rk x} (h : Keeps s₀ s) : Keeps s₀ (cmdResetDevice s rk x) := modDev_keeps (finishWith_keeps h)

theorem cmdGroupOpen_keeps {rk p} (h : Keeps s₀ s) : Keeps s₀ (cmdGroupOpen s rk p) := finishWith_keeps h

theorem memberEffect_keeps {rk p e} (h : Keeps s₀ s) : Effect.Keeps s₀ (memberEffect s rk p e) := by
  unfold memberEffect
  split
  · exact trivial
  split
  · exact mapEffect_keeps h
  split
  · exact policyEffect_keeps h
  split
  · exact fenceEffect_keeps h
  split
  exacts [unfenceEffect_keeps h, loadEffect_keeps h]

theorem memberApplied_keeps {rk p e} (h : Keeps s₀ s) : Keeps s₀ (memberApplied s rk p e).1 := by
  unfold memberApplied
  split
  exacts [(memberEffect_keeps h).of_ok ‹_›, h, h]

theorem groupRun_keeps {rk l x l2} (h : Keeps s₀ s) : Keeps s₀ (groupRun rk l s x l2).1 := by
  induction l generalizing s x l2 with
  | nil => exact h
  | cons p l ih => exact ih (memberApplied_keeps h)

theorem groupRecords_keeps {rk members f} (h : Keeps s₀ s) : Keeps s₀ (groupRecords s rk members f) :=
  modRing_keeps (Keeps.foldl h answerPacket_keeps)

theorem cmdGroupClose_keeps {ext rk x} (h : Keeps s₀ s) : Keeps s₀ (cmdGroupClose ext s rk x) := by
  unfold cmdGroupClose
  dsimp only
  split
  · exact finishWith_keeps h
  split
  · exact finishWith_keeps (groupRecords_keeps h)
  · exact answer_keeps h trivial
  · exact finishWith_keeps (groupRecords_keeps (groupRun_keeps h))

end

end Sys2Proof.Machine
end

section
/-!
PROOFS. Governor, haul engines, power and reliability: the governor's loops, the haul engines, loads and stores, idle states, time and the
reliability rows.
-/
namespace Sys2Proof.Machine

section
variable {s₀ s : State}

/-! ### Governor -/

theorem modGov_keeps {f} (h : Keeps s₀ s) : Keeps s₀ (modGov s f) := h

theorem takeSample_keeps {g} (h : Keeps s₀ s) : Keeps s₀ (takeSample g s) :=
  modGov_keeps (Keeps.foldl (Keeps.foldl h (fun h1 => h1)) (fun h1 => .ite h1 h1))

theorem refreshPort_keeps {p} (h : Keeps s₀ s) : Keeps s₀ (refreshPort s p) := h

theorem tellPeers_keeps (h : Keeps s₀ s) : Keeps s₀ (tellPeers s) := h

theorem managementTick_keeps {g} (h : Keeps s₀ s) : Keeps s₀ (managementTick g s) := by
  unfold managementTick
  refine .ite h (.ite (modDev_keeps h) ?_)
  refine takeSample_keeps ?_
  refine tellPeers_keeps ?_
  refine refreshPort_keeps ?_
  refine refreshPort_keeps ?_
  exact modDev_keeps h

theorem runLoop_keeps {i f} (hf : ∀ {x : GovInputs} {s : State}, Keeps s₀ s → Keeps s₀ (f x s)) (hs : Keeps s₀ s) :
    Keeps s₀ (runLoop i f s) := by
  unfold runLoop
  split
  exacts [hs, .ite (modGov_keeps (hf hs)) hs]

theorem thermal_keeps {ev q node reading count} (h : Keeps s₀ s) : Keeps s₀ (thermal s ev q node reading count) := recordDev_keeps h

theorem writeTarget_keeps {g q v} (h : Keeps s₀ s) : Keeps s₀ (writeTarget g s q v) := .ite h h

theorem countHold_keeps {g q} (h : Keeps s₀ s) : Keeps s₀ (countHold g s q) := .ite (.ite (thermal_keeps (writeTarget_keeps h)) h) h

theorem hotStep_keeps {g key q node ev limit t16} (h : Keeps s₀ s) : Keeps s₀ (hotStep g key q node ev limit t16 s) :=
  .ite (.ite (thermal_keeps h) h) (.ite (thermal_keeps (writeTarget_keeps h)) h)

theorem hotQuad_keeps {g q} (h : Keeps s₀ s) : Keeps s₀ (hotQuad g s q) := by
  unfold hotQuad
  refine Keeps.foldl ?_ hotStep_keeps
  split
  exacts [hotStep_keeps h, h]

theorem safetyRun_keeps {g} (h : Keeps s₀ s) : Keeps s₀ (safetyRun g s) := Keeps.foldl (Keeps.foldl h countHold_keeps) hotQuad_keeps

theorem precNotice_keeps {e} (h : Keeps s₀ s) : Keeps s₀ (precNotice s e) := .ite h h

theorem precisionRun_keeps {x} (h : Keeps s₀ s) : Keeps s₀ (precisionRun x s) := .ite (Keeps.foldl h precNotice_keeps) h

theorem countPmbus_keeps {g} (h : Keeps s₀ s) : Keeps s₀ (countPmbus g s) := by
  unfold countPmbus
  dsimp only
  split
  exacts [h, .ite (thermal_keeps h) h]

theorem postAtVmin_keeps {ev q node reading now} (h : Keeps s₀ s) : Keeps s₀ (postAtVmin ev q node reading now s) :=
  .ite (.ite h (thermal_keeps h)) h

theorem voltQuad_keeps {g q} (h : Keeps s₀ s) : Keeps s₀ (voltQuad g s q) :=
  postAtVmin_keeps (postAtVmin_keeps (postAtVmin_keeps (.ite h (.ite (writeTarget_keeps h) h))))

theorem voltageRun_keeps {g} (h : Keeps s₀ s) : Keeps s₀ (voltageRun g s) := Keeps.foldl (countPmbus_keeps h) voltQuad_keeps

theorem cacheBench_keeps {gate capped n} (h : Keeps s₀ s) : Keeps s₀ (cacheBench gate capped s n) := .ite h (.ite h (setWayen_keeps h))

theorem cacheRun_keeps {x} (h : Keeps s₀ s) : Keeps s₀ (cacheRun x s) := Keeps.foldl h cacheBench_keeps

theorem linkStep_keeps {p} (h : Keeps s₀ s) : Keeps s₀ (linkStep s p) := .ite h (.ite (.ite h (.ite (fenceLane_keeps h) h)) (.ite h h))

theorem linkRun_keeps {x} (h : Keeps s₀ s) : Keeps s₀ (linkRun x s) := Keeps.foldl h linkStep_keeps

theorem healthBench_keeps {g n} (h : Keeps s₀ s) : Keeps s₀ (healthBench g s n) := .ite h (.ite h (fenceBench_keeps h))

theorem healthRun_keeps {g} (h : Keeps s₀ s) : Keeps s₀ (healthRun g s) := .ite (Keeps.foldl h healthBench_keeps) h

theorem pacerCalibration_keeps {n ticks} (h : Keeps s₀ s) : Keeps s₀ (pacerCalibration n ticks s) := .ite h h

theorem clockSwitch_keeps {b b2} (h : Keeps s₀ s) : Keeps s₀ (clockSwitch b b2 s) := .ite h (.ite h h)

theorem hrefSwitch_keeps {present} (h : Keeps s₀ s) : Keeps s₀ (hrefSwitch present s) :=
  .ite h (.ite h (.ite (.ite (hrefGone_keeps h) h) (takeHref_keeps h)))

theorem droopHold_keeps {q} (h : Keeps s₀ s) : Keeps s₀ (droopHold q s) := .ite h h

theorem holdEnd_keeps {q} (h : Keeps s₀ s) : Keeps s₀ (holdEnd q s) := .ite h (Keeps.foldl h linkTake_keeps)

theorem heartbeatWatchdog_keeps (h : Keeps s₀ s) : Keeps s₀ (heartbeatWatchdog s) := .ite h h

/-! ### Haul -/

theorem haulLaunch_keeps {w n ch v} (h : Keeps s₀ s) : Keeps s₀ (haulLaunch w n ch v s).2 := by
  unfold haulLaunch
  dsimp only
  split
  · split
    exacts [h, .ite h h]
  split
  · split
    exacts [failCommand_keeps h, h]
  · exact .ite h h

theorem haulReach_keeps {n ch acc x} (h : Keeps s₀ s) : Way1.Keeps s₀ (haulReach s n ch acc x) := by
  unfold haulReach
  dsimp only
  split
  · exact agentNote_keeps h
  · exact h
  split
  exacts [h, h, h]

theorem haulRead_keeps {n ch x len} (h : Keeps s₀ s) : Keeps s₀ (haulRead s n ch x len) := by
  unfold haulRead
  dsimp only
  split <;> exact h

theorem haulWrite_keeps {n ch x bytes psn} (h : Keeps s₀ s) : Keeps s₀ (haulWrite s n ch x bytes psn) := by
  unfold haulWrite
  dsimp only
  split
  exacts [handMsg_keeps (noteHostPort_keeps h), sendMsg_keeps (noteHostPort_keeps h)]

theorem readChain_keeps {n ch} (h : Keeps s₀ s) : Keeps s₀ (readChain s n ch) := by
  unfold readChain
  refine .ite h ?_
  dsimp only
  split
  · split
    · exact (haulReach_keeps h).of_wait ‹_›
    · exact haulEnd_keeps ((haulReach_keeps h).of_bad ‹_›)
    · exact .ite h (modHaul_keeps (haulRead_keeps ((haulReach_keeps h).of_at ‹_›)))
  refine .ite h ?_
  split
  exacts [.ite (haulEnd_keeps h) h, .ite h h]

theorem countHaul_keeps {n k} (h : Keeps s₀ s) : Keeps s₀ (countHaul s n k) := .ite (countWrap_keeps h) h

theorem beginDesc_keeps {op n ch} (h : Keeps s₀ s) : Keeps s₀ (beginDesc op s n ch) := .ite h (.ite (haulEnd_keeps h) (.ite h h))

theorem portServed_keeps {n p ch} (h : Keeps s₀ s) : Keeps s₀ (portServed s n p ch) := h

theorem readBeat_keeps {n ch} (h : Keeps s₀ s) : Keeps s₀ (readBeat s n ch) := by
  unfold readBeat
  refine .ite ?_ ?_
  · split
    exacts [h, .ite (haulSettle_keeps h) h]
  dsimp only
  split
  · exact (haulReach_keeps h).of_wait ‹_›
  · exact haulSettle_keeps (haulNote_keeps ((haulReach_keeps h).of_bad ‹_›))
  · exact modHaul_keeps (haulRead_keeps ((haulReach_keeps h).of_at ‹_›))

theorem wrote_keeps {n ch bs psn} (h : Keeps s₀ s) : Keeps s₀ (wrote s n ch bs psn) := h

theorem writeBeat_keeps {n ch} (h : Keeps s₀ s) : Keeps s₀ (writeBeat s n ch) := by
  unfold writeBeat
  dsimp only
  split
  · exact h
  refine .ite ?_ ?_
  · split
    exacts [h, haulSettle_keeps h]
  split
  · exact (haulReach_keeps h).of_wait ‹_›
  · exact haulSettle_keeps (haulNote_keeps ((haulReach_keeps h).of_bad ‹_›))
  · exact wrote_keeps (modHaul_keeps (haulWrite_keeps ((haulReach_keeps h).of_at ‹_›)))

theorem noteStall_keeps {n ch} (h : Keeps s₀ s) : Keeps s₀ (noteStall s n ch) := by
  unfold noteStall
  refine .ite h (.ite (.ite (countStall_keeps h) h) ?_)
  split
  exacts [.ite (countStall_keeps h) h, h]

theorem channelBeat_keeps {n ch} (h : Keeps s₀ s) : Keeps s₀ (channelBeat s n ch) := by
  unfold channelBeat
  refine .ite ?_ ?_
  · refine countHaul_keeps (.ite ?_ ?_)
    · exact readBeat_keeps (portServed_keeps (.ite (writeBeat_keeps (portServed_keeps (noteStall_keeps h))) (noteStall_keeps h)))
    · exact .ite (writeBeat_keeps (portServed_keeps (noteStall_keeps h))) (noteStall_keeps h)
  refine .ite ?_ ?_
  · exact readBeat_keeps (portServed_keeps (.ite (writeBeat_keeps (portServed_keeps (noteStall_keeps h))) (noteStall_keeps h)))
  · exact .ite (writeBeat_keeps (portServed_keeps (noteStall_keeps h))) (noteStall_keeps h)

theorem haulBeat_keeps {op ch n} (h : Keeps s₀ s) : Keeps s₀ (haulBeat op ch s n) := by
  unfold haulBeat
  refine .ite h ?_
  refine .ite (beginDesc_keeps (.ite (readChain_keeps h) h)) (.ite (haulEnd_keeps (beginDesc_keeps (.ite (readChain_keeps h) h))) ?_)
  split
  · refine .ite ?_ ?_
    · exact haulStopCh_keeps (beginDesc_keeps (.ite (readChain_keeps h) h))
    · exact channelBeat_keeps (beginDesc_keeps (.ite (readChain_keeps h) h))
  · exact channelBeat_keeps (beginDesc_keeps (.ite (readChain_keeps h) h))

theorem descDone_keeps {n ch n2 w rest} (h : Keeps s₀ s) : Keeps s₀ (descDone s n ch n2 w rest) := by
  unfold descDone
  refine .ite ?_ ?_
  · refine modCore_keeps (modHaul_keeps (.ite ?_ ?_))
    · exact .ite (makeRecord_keeps (.ite (unitIncrement_keeps h) h)) (recordCtx_keeps (.ite (unitIncrement_keeps h) h))
    · exact .ite (unitIncrement_keeps h) h
  refine modHaul_keeps (.ite ?_ ?_)
  · exact .ite (makeRecord_keeps (.ite (unitIncrement_keeps h) h)) (recordCtx_keeps (.ite (unitIncrement_keeps h) h))
  · exact .ite (unitIncrement_keeps h) h

theorem descriptorCompletion_keeps {ch n} (h : Keeps s₀ s) : Keeps s₀ (descriptorCompletion ch s n) := by
  unfold descriptorCompletion
  dsimp only
  split
  · exact h
  refine .ite h (.ite (descDone_keeps h) ?_)
  split
  · exact (haulReach_keeps h).of_wait ‹_›
  · exact haulEnd_keeps ((haulReach_keeps h).of_bad ‹_›)
  · exact modHaul_keeps (haulWrite_keeps ((haulReach_keeps h).of_at ‹_›))

/-! ### LoadStore -/

theorem bodyLoad_keeps {n signed rd rs1 imm k} (h : Keeps s₀ s) :
    Res.Keeps s₀ (bodyLoad n signed rd rs1 imm s k) :=
  scalarLoad_keeps h (fun h1 => h1)

theorem bodyStore_keeps {n rs2 rs1 imm k} (h : Keeps s₀ s) :
    Res.Keeps s₀ (bodyStore n rs2 rs1 imm s k) :=
  scalarStore_keeps h (fun h1 => h1)

theorem bodyLoadx_keeps {fn rd rs1 rs2 k} (h : Keeps s₀ s) : Res.Keeps s₀ (bodyLoadx fn rd rs1 rs2 s k) := by
  unfold bodyLoadx
  dsimp only
  split
  exacts [illegal_keeps h, .ite (illegal_keeps h) (scalarLoad_keeps h (fun h1 => .ite (wx_keeps h1) h1))]

theorem bodyStorex_keeps {fn rs rs1 rs2 k} (h : Keeps s₀ s) : Res.Keeps s₀ (bodyStorex fn rs rs1 rs2 s k) := by
  unfold bodyStorex
  dsimp only
  split
  exacts [illegal_keeps h, .ite (illegal_keeps h) (scalarStore_keeps h (fun h1 => .ite (wx_keeps h1) h1))]

theorem bodyAtomic_keeps {fn rd rs1 rs2 k} (h : Keeps s₀ s) : Res.Keeps s₀ (bodyAtomic fn rd rs1 rs2 s k) := by
  unfold bodyAtomic
  split
  exacts [illegal_keeps h, scalarAtomic_keeps h]

/-! ### Power -/

theorem dropRing_keeps {rg} (h : Keeps s₀ s) : Keeps s₀ (dropRing s rg) := h

theorem resetFns_keeps {p fns} (h : Keeps s₀ s) : Keeps s₀ (resetFns s p fns) := by
  unfold resetFns
  refine .ite ?_ ?_
  · exact modPort_keeps (dropRing_keeps (modPort_keeps (modDev_keeps (Keeps.setRingsSlots (destroyOf_keeps h)))))
  · exact modPort_keeps (modDev_keeps (Keeps.setRingsSlots (destroyOf_keeps h)))

theorem failPort_keeps {p} (h : Keeps s₀ s) : Keeps s₀ (failPort s p) := by
  unfold failPort
  refine Keeps.foldl h ?_
  intro s1 x1 h1
  refine .ite h1 ?_
  split
  exacts [.ite h1 h1, h1]

theorem portReset_keeps {p cause} (h : Keeps s₀ s) : Keeps s₀ (portReset p cause s) := by
  unfold portReset
  dsimp only
  split
  exacts [.ite h h, .ite h (tellPeers_keeps (modPort_keeps (failPort_keeps (resetFns_keeps h))))]

theorem pcieLinkUp_keeps {p} (h : Keeps s₀ s) : Keeps s₀ (pcieLinkUp p s) := .ite h h

theorem perstRelease_keeps {p} (h : Keeps s₀ s) : Keeps s₀ (perstRelease p s) := by
  unfold perstRelease
  split
  exacts [h, .ite h h]

theorem gateBench_keeps {n} (h : Keeps s₀ s) : Keeps s₀ (gateBench s n) :=
  modNode_keeps (Keeps.foldl (modBench_keeps (bcFlushAll_keeps h)) coreReset_keeps)

theorem benchGate_keeps {n} (h : Keeps s₀ s) : Keeps s₀ (benchGate n s) := .ite h (.ite (gateBench_keeps h) h)

theorem idleEntry_keeps (h : Keeps s₀ s) : Keeps s₀ (idleEntry s) := .ite h (Keeps.foldl h benchGate_keeps)

theorem idleExit_keeps (h : Keeps s₀ s) : Keeps s₀ (idleExit s) := .ite h h

theorem loseStores_keeps (h : Keeps s₀ s) : Keeps s₀ (loseStores s) :=
  h.memory (fun ⟨hh, _, ho, hp, _⟩ => ⟨hh, rfl, ho, hp, rfl⟩) rfl rfl

theorem deepIdleEntry_keeps (h : Keeps s₀ s) : Keeps s₀ (deepIdleEntry s) := by
  unfold deepIdleEntry
  refine .ite ?_ ?_
  · exact h
  · exact modDev_keeps (Keeps.foldl (loseStores_keeps (Keeps.foldl h (fun h1 => .ite h1 (gateBench_keeps h1)))) (fun h1 => h1))

theorem deepIdleExit_keeps (h : Keeps s₀ s) : Keeps s₀ (deepIdleExit s) :=
  .ite h (modDev_keeps (Keeps.foldl (Keeps.foldl h (fun h1 => h1)) (fun h1 => h1)))

/-! ### Time -/

theorem tickPacers_keeps {k nodes} (h : Keeps s₀ s) : Keeps s₀ (tickPacers k nodes s) := Keeps.foldl h (fun h1 => h1)

theorem tickStamps_keeps {k} (h : Keeps s₀ s) : Keeps s₀ (tickStamps k s) := h

theorem idle_keeps (h : Keeps s₀ s) : Keeps s₀ (idle s) :=
  .ite (watchQuiet_keeps (tickPacers_keeps (.ite h (tickStamps_keeps h)))) (.ite h (tickStamps_keeps h))

/-! ### Reliability -/

theorem reliabilityWindow_keeps (h : Keeps s₀ s) : Keeps s₀ (reliabilityWindow s) := .ite h h

theorem unitRecordFlush_keeps {name} (h : Keeps s₀ s) : Keeps s₀ (unitRecordFlush name s) := .ite h h

theorem parityLink_keeps {p} (h : Keeps s₀ s) : Keeps s₀ (parityLink s p) := .ite h (linkRecord_keeps h)

theorem parityStream_keeps {n} (h : Keeps s₀ s) : Keeps s₀ (parityStream s n).1 := Keeps.foldl h loseRegion_keeps

/-- The links that are up go down, each with its record. -/
theorem parityLinks_keeps {l : List Nat} (h : Keeps s₀ s) : Keeps s₀ (l.foldl parityLink s) := .foldl h parityLink_keeps

theorem parityWindow_keeps {n off} (h : Keeps s₀ s) : OnSome (fun p => Keeps s₀ p.1) (parityWindow s n off) := by
  unfold parityWindow
  have hlinks := parityLinks_keeps (l := List.range 8) h
  generalize (List.range 8).foldl parityLink s = u at hlinks ⊢
  refine .ite (.at_some (modNode_keeps h)) (.ite (.at_some (parityLink_keeps h)) (.ite (.at_some hlinks) (.ite .at_none ?_)))
  refine .ite (.at_some (modBench_keeps (bcFlushAll_keeps h))) (.ite (.at_some (modBench_keeps h)) ?_)
  exact .ite (.at_some (parityStream_keeps h)) (.ite (.at_some (modCore_keeps h)) .at_none)

theorem parityBar0_keeps {p off} (h : Keeps s₀ s) : OnSome (Keeps s₀) (parityBar0 s p off) := by
  unfold parityBar0
  refine .ite ?_ ?_
  · exact OnSome.at_some h
  · exact .ite (OnSome.at_some h) (.ite (OnSome.at_some h) (.ite (.ite (OnSome.at_some h) OnSome.at_none) OnSome.at_none))

theorem paritySdc_keeps {w4 ctxs} (h : Keeps s₀ s) : Keeps s₀ (paritySdc s w4 ctxs) := Keeps.foldl (recordDev_keeps h) recordCtx_keeps

theorem parityCount_keeps {n} (h : Keeps s₀ s) : Keeps s₀ (parityCount s n) := .ite h h

theorem parityError_keeps {n off} (h : Keeps s₀ s) : Keeps s₀ (parityError n off s) := by
  unfold parityError
  refine .ite ?_ ?_
  · dsimp only
    split
    exacts [h, paritySdc_keeps (parityCount_keeps (hregFlag_keeps ((parityBar0_keeps h).elim ‹_›)))]
  split
  exacts [h, paritySdc_keeps (parityCount_keeps (regFlag_keeps ((parityWindow_keeps h).elim ‹_›)))]

theorem execParitySweep_keeps {node bad} (h : Keeps s₀ s) : OutKeeps s₀ (execParitySweep node bad s) := by
  unfold execParitySweep
  split
  exacts [h, Keeps.ite h (parityError_keeps h)]

end

end Sys2Proof.Machine
end

section
/-!
PROOFS. Scalar instructions, tiles, repeats and the sideband: the scalar and tile instructions, the repeats of an instruction, SMBus and
SPDM.
-/
namespace Sys2Proof.Machine

section
variable {s₀ s : State}

/-! ### Scalar -/

theorem writeOr_keeps {k rd x} (h : Keeps s₀ s) : Res.Keeps s₀ (writeOr s k rd x) := by
  unfold writeOr
  split
  exacts [wx_keeps h, illegal_keeps h]

theorem bodyOp_keeps {fn rd rs1 rs2 k} (h : Keeps s₀ s) : Res.Keeps s₀ (bodyOp fn rd rs1 rs2 s k) := writeOr_keeps h

theorem bodyOp32_keeps {fn rd rs1 rs2 k} (h : Keeps s₀ s) : Res.Keeps s₀ (bodyOp32 fn rd rs1 rs2 s k) := writeOr_keeps h

theorem bodyBits_keeps {fn rd rs1 rs2 k} (h : Keeps s₀ s) :
    Res.Keeps s₀ (bodyBits fn rd rs1 rs2 s k) :=
  .ite (illegal_keeps h) (writeOr_keeps h)

theorem bodyMuldiv_keeps {fn rd rs1 rs2 k} (h : Keeps s₀ s) : Res.Keeps s₀ (bodyMuldiv fn rd rs1 rs2 s k) := writeOr_keeps h

theorem bodyAddk_keeps {rd rs1 imm k} (h : Keeps s₀ s) : Res.Keeps s₀ (bodyAddk rd rs1 imm s k) := wx_keeps h

theorem bodyAndk_keeps {rd rs1 imm k} (h : Keeps s₀ s) : Res.Keeps s₀ (bodyAndk rd rs1 imm s k) := wx_keeps h

theorem bodyOrk_keeps {rd rs1 imm k} (h : Keeps s₀ s) : Res.Keeps s₀ (bodyOrk rd rs1 imm s k) := wx_keeps h

theorem bodyXork_keeps {rd rs1 imm k} (h : Keeps s₀ s) : Res.Keeps s₀ (bodyXork rd rs1 imm s k) := wx_keeps h

theorem bodyCmpltk_keeps {rd rs1 imm k} (h : Keeps s₀ s) : Res.Keeps s₀ (bodyCmpltk rd rs1 imm s k) := wx_keeps h

theorem bodyCmpltuk_keeps {rd rs1 imm k} (h : Keeps s₀ s) : Res.Keeps s₀ (bodyCmpltuk rd rs1 imm s k) := wx_keeps h

theorem bodyShk_keeps {rd rs1 imm k} (h : Keeps s₀ s) : Res.Keeps s₀ (bodyShk rd rs1 imm s k) := writeOr_keeps h

theorem bodyAddk32_keeps {rd rs1 imm k} (h : Keeps s₀ s) : Res.Keeps s₀ (bodyAddk32 rd rs1 imm s k) := wx_keeps h

theorem bodyLih_keeps {rd imm k} (h : Keeps s₀ s) : Res.Keeps s₀ (bodyLih rd imm s k) := wx_keeps h

theorem bodyPcaddh_keeps {rd imm k} (h : Keeps s₀ s) : Res.Keeps s₀ (bodyPcaddh rd imm s k) := wx_keeps h

theorem branch_keeps {cond rs1 rs2 imm k} (h : Keeps s₀ s) : Res.Keeps s₀ (branch cond rs1 rs2 imm s k) := .ite h h

theorem bodyJal_keeps {compact rd imm k} (h : Keeps s₀ s) : Res.Keeps s₀ (bodyJal compact rd imm s k) := wx_keeps h

theorem bodyJalr_keeps {compact rd rs1 imm k} (h : Keeps s₀ s) : Res.Keeps s₀ (bodyJalr compact rd rs1 imm s k) := .ite h (wx_keeps h)

/-! ### Tiles -/

theorem bodyTcfg_keeps {f k} (h : Keeps s₀ s) : Res.Keeps s₀ (bodyTcfg f s k) := by
  unfold bodyTcfg
  refine .ite (illegal_keeps h) ?_
  dsimp only
  split
  exacts [tileFault_keeps h, Keeps.foldl h (fun h1 => h1)]

theorem bodyTstat_keeps {clear f k} (h : Keeps s₀ s) : Res.Keeps s₀ (bodyTstat clear f s k) :=
  .ite (illegal_keeps h) (Keeps.ite (modTile_keeps (wx_keeps h)) (wx_keeps h))

theorem bodyTseed_keeps {f k} (h : Keeps s₀ s) : Res.Keeps s₀ (bodyTseed f s k) := .ite (illegal_keeps h) h

theorem bodyTcfgr_keeps {f k} (h : Keeps s₀ s) : Res.Keeps s₀ (bodyTcfgr f s k) := .ite (illegal_keeps h) (wx_keeps h)

theorem bodyTzero_keeps {f k} (h : Keeps s₀ s) : Res.Keeps s₀ (bodyTzero f s k) := .ite (illegal_keeps h) (.ite (tileFault_keeps h) h)

theorem precisionCheck_keeps {k t c} (h : Keeps s₀ s) : Keeps s₀ (precisionCheck s k t c) := by
  unfold precisionCheck
  refine .ite h ?_
  dsimp only
  split
  exacts [Keeps.setGov (recordCtx_keeps h), h]

theorem countConversion_keeps {k t c lfsr} (h : Keeps s₀ s) : Keeps s₀ (countConversion s k t c lfsr) := precisionCheck_keeps h

theorem bodyTcvt_keeps {f k} (h : Keeps s₀ s) : Res.Keeps s₀ (bodyTcvt f s k) := by
  unfold bodyTcvt
  refine .ite (illegal_keeps h) ?_
  dsimp only
  split
  · exact tileFault_keeps h
  refine .ite ?_ ?_
  · exact tileFault_keeps h
  · exact .ite (tileFault_keeps h) (.ite (tileFault_keeps h) (.ite (illegal_keeps h) (.ite (countConversion_keeps h) h)))

theorem bodyTmma_keeps {f k} (h : Keeps s₀ s) : Res.Keeps s₀ (bodyTmma f s k) := by
  unfold bodyTmma
  refine .ite (illegal_keeps h) ?_
  dsimp only
  split
  · exact tileFault_keeps h
  split
  exacts [tileFault_keeps h, h]

theorem tmmaComplete_keeps {chk c} (h : Keeps s₀ s) : Keeps s₀ (tmmaComplete chk s c) := by
  unfold tmmaComplete
  dsimp only
  split
  · exact h
  split
  · exact parityEvent_keeps h
  · exact permanentEvent_keeps h
  · exact .ite (transientEvent_keeps (completeWait_keeps h)) (completeWait_keeps h)

/-! ### TileMem -/

theorem rowsEnd_keeps {l t k store fin} (hfin : ∀ {s : State}, Keeps s₀ s → Keeps s₀ (fin s)) (hs : Keeps s₀ s) :
    Res.Keeps s₀ (rowsEnd l t k store fin s) := by
  unfold rowsEnd
  refine .ite (hfin hs) ?_
  split
  exacts [.ite hs hs, hs]

theorem rowsGo_keeps {l t k store image fin n} (hfin : ∀ {s : State}, Keeps s₀ s → Keeps s₀ (fin s)) (h : Keeps s₀ s) :
    Res.Keeps s₀ (rowsGo l t k store image fin n s) := by
  induction n generalizing s with
  | zero => exact rowsEnd_keeps hfin h
  | succ n ih =>
    unfold rowsGo
    split
    · exact (sendAll_keeps h).of_abort ‹_›
    have h1 := (sendAll_keeps h).of_ok ‹_›
    refine .ite (rowsEnd_keeps hfin h1) ?_
    split
    · exact txIllegal_keeps h1
    · exact rowsEnd_keeps hfin (placeFailed_keeps h1)
    · exact .ite h1 (rowsEnd_keeps hfin h1)
    split
    exacts [(sendAll_keeps (modJob_keeps (notePieces_keeps h1))).of_abort ‹_›,
      ih ((sendAll_keeps (modJob_keeps (notePieces_keeps h1))).of_ok ‹_›)]

theorem runRows_keeps {f l store image fin slots k} (hfin : ∀ {s : State}, Keeps s₀ s → Keeps s₀ (fin s)) (hs : Keeps s₀ s) :
    Res.Keeps s₀ (runRows f l store image fin slots s k) :=
  rowsGo_keeps hfin hs

theorem bodyTload_keeps {f slots k} (h : Keeps s₀ s) : Res.Keeps s₀ (bodyTload f slots s k) := by
  unfold bodyTload
  refine .ite (illegal_keeps h) (.ite ?_ ?_)
  · exact tileFault_keeps h
  · exact .ite (tileFault_keeps h) (.ite (tileFault_keeps h) (.ite h (runRows_keeps (fun h1 => h1) h)))

theorem storeEnds_keeps {mf fmt im k t} (h : Keeps s₀ s) : Keeps s₀ (storeEnds mf fmt im k t s) := .ite (countConversion_keeps h) h

theorem bodyTstore_keeps {f slots k} (h : Keeps s₀ s) : Res.Keeps s₀ (bodyTstore f slots s k) := by
  unfold bodyTstore
  refine .ite ?_ ?_
  · exact illegal_keeps h
  · exact .ite (tileFault_keeps h) (.ite (tileFault_keeps h) (.ite (illegal_keeps h) (.ite h (runRows_keeps storeEnds_keeps h))))

theorem bodyTcbld_keeps {f k} (h : Keeps s₀ s) : Res.Keeps s₀ (bodyTcbld f s k) := .ite (illegal_keeps h) (runLanes_keeps h (fun h1 => h1))

theorem takeRows_keeps {f k t q l} (h : Keeps s₀ s) : Zres.Keeps s₀ (takeRows f k t q l s) := by
  induction l generalizing s with
  | nil => exact h
  | cons r l ih =>
    unfold takeRows
    split
    · exact h
    split
    exacts [trivial, ih (modTile_keeps (takeHead_keeps h))]

/-- The state of the answer keeps what the state beside it keeps. -/
theorem tloadStreamStep_keeps_answer {k f} (h : Keeps s₀ s) : Zres.Keeps s₀ (tloadStreamStep s k f).2 := by
  unfold tloadStreamStep
  dsimp only
  split
  · trivial
  · trivial
  split
  · exact countStall_keeps h
  have hrows {q l} : (takeRows f k f.t.toNat q l (markStream s k)).Keeps s₀ := takeRows_keeps (markStream_keeps h)
  split
  · split
    exacts [trivial, hrows.of_done ‹_›]
  · exact hrows

theorem tloadStreamStep_keeps {k f} (h : Keeps s₀ s) : Keeps s₀ (tloadStreamStep s k f).1 := by
  unfold tloadStreamStep
  dsimp only
  split
  · exact h
  · exact h
  split
  · exact h
  split
  · split <;> exact (takeRows_keeps (markStream_keeps h)).of_done ‹_›
  · exact h

theorem bodyTloadStream_keeps {f k} (h : Keeps s₀ s) : Res.Keeps s₀ (bodyTloadStream f s k) := by
  unfold bodyTloadStream
  refine .ite (illegal_keeps h) ?_
  refine .ite (txIllegal_keeps h) (.ite (tileFault_keeps h) (.ite (tileFault_keeps h) (.ite (tileFault_keeps h) ?_)))
  have answer := tloadStreamStep_keeps_answer (k := k) (f := f) h
  split
  · exact answer.of_done (congrArg Prod.snd ‹_›)
  · exact (tloadStreamStep_keeps h).of_fst ‹_›
  · exact settleBench_keeps (modThr_keeps (answer.of_wait (congrArg Prod.snd ‹_›)))

theorem repWaitDone_keeps {k} (h : Keeps s₀ s) :
    Keeps s₀ (repWaitDone s k) :=
  .ite (setPc_keeps (countInstret_keeps h)) (countInstret_keeps h)

theorem streamWaitDone_keeps {k} (h : Keeps s₀ s) : Keeps s₀ (streamWaitDone s k) := by
  unfold streamWaitDone
  split
  · split
    · have h1 := (streamStep_keeps h).of_done ‹_›
      exact settleBench_keeps (.ite (repWaitDone_keeps h1) (completeWait_keeps h1))
    · exact faultWait_keeps h
    · exact (streamStep_keeps h).of_wait ‹_›
  · have answer {f} := tloadStreamStep_keeps_answer (k := k) (f := f) h
    split
    · exact settleBench_keeps (completeWait_keeps (answer.of_done (congrArg Prod.snd ‹_›)))
    · exact faultWait_keeps ((tloadStreamStep_keeps h).of_fst ‹_›)
    · exact answer.of_wait (congrArg Prod.snd ‹_›)
  · exact h

/-! ### Repeat -/

theorem OnSome.follower {engine batched operands body} (hbody : ∀ {s k}, Keeps s₀ s → Res.Keeps s₀ (body s k)) :
    OnSome (Follower.Keeps s₀) (some ⟨engine, batched, operands, body⟩) := .at_some ⟨hbody⟩

theorem followerOf_keeps {x} : OnSome (Follower.Keeps s₀) (followerOf x) := by
  unfold followerOf
  split
  exacts [.follower bodyOp_keeps, .follower bodyOp32_keeps, .follower bodyBits_keeps,
    .follower bodyMuldiv_keeps, .follower bodyAddk_keeps, .follower bodyAndk_keeps,
    .follower bodyOrk_keeps, .follower bodyXork_keeps, .follower bodyCmpltk_keeps,
    .follower bodyCmpltuk_keeps, .follower bodyShk_keeps, .follower bodyAddk32_keeps,
    .follower bodyLih_keeps, .follower bodyPcaddh_keeps, .follower bodyLoad_keeps,
    .follower bodyLoad_keeps, .follower bodyLoad_keeps, .follower bodyLoad_keeps,
    .follower bodyLoad_keeps, .follower bodyLoad_keeps, .follower bodyLoad_keeps,
    .follower bodyLoadx_keeps, .follower bodyStore_keeps, .follower bodyStore_keeps,
    .follower bodyStore_keeps, .follower bodyStore_keeps, .follower bodyStorex_keeps,
    .follower bodyAtomic_keeps, .follower bodyVarith_keeps, .follower bodyVfma_keeps,
    .follower bodyVcmp_keeps, .follower bodyPred_keeps, .follower bodyPred_keeps,
    .follower bodyPred_keeps, .follower bodyPred_keeps, .follower bodyPwhile_keeps,
    .follower bodyPcount_keeps, .follower bodyVbcast_keeps, .follower bodyVext_keeps,
    .follower bodyVins_keeps, .follower bodyVcvt_keeps, .follower bodyVperm_keeps,
    .follower bodyVred_keeps, .follower bodyVred_keeps, .follower bodyVred_keeps,
    .follower bodyVload_keeps, .follower bodyVstore_keeps, .follower bodyVload_keeps,
    .follower bodyVstore_keeps, .follower bodyVldb_keeps, .follower bodyVload_keeps,
    .follower bodyVstore_keeps, .follower bodyGather_keeps, .follower bodyGather_keeps,
    .follower bodyStream_keeps, .follower bodyStream_keeps, .follower bodyStream_keeps,
    .follower bodyVzpoll_keeps, .follower bodyStream_keeps, .follower bodyCinc_keeps,
    .follower bodyCinc_keeps, .follower bodyCdec_keeps, .at_none]

theorem backAt_keeps {p k} (h : Keeps s₀ s) : Keeps s₀ (backAt p k s) := .ite h h

theorem backRes_keeps {p k x} (hx : Res.Keeps s₀ x) : Res.Keeps s₀ (backRes p k x) := by
  unfold backRes
  split
  exacts [backAt_keeps hx, hx, backAt_keeps hx, backAt_keeps hx, backAt_keeps hx, modThr_keeps (backAt_keeps hx),
    backAt_keeps hx, backAt_keeps hx]

theorem repOnce_keeps {f chk p enc k} (hf : Follower.Keeps s₀ f) (h : Keeps s₀ s) : Keeps s₀ (repOnce f chk p enc s k).2 := by
  unfold repOnce
  dsimp only
  split
  · exact parityEvent_keeps h
  · exact permanentEvent_keeps h
  split
  · exact meetChk_keeps h
  have back {pc} : (backRes p k (f.body (setPc (meetChk s k chk).1 k pc) k)).Keeps s₀ :=
    backRes_keeps (hf.body (setPc_keeps (meetChk_keeps h)))
  split
  · have h1 := dropJob_keeps (k := k) (back.of_done ‹_›)
    refine .ite (transientEvent_keeps ?_) ?_
    all_goals exact .ite (setPc_keeps (countInstret_keeps (modSys_keeps h1))) (countInstret_keeps (modSys_keeps h1))
  · exact applyRes_keeps back

theorem repLoop_keeps {f repN p enc k n x} (hf : Follower.Keeps s₀ f) (h : Keeps s₀ s) : Keeps s₀ (repLoop f repN p enc k n x s) := by
  induction n generalizing s x with
  | zero => exact h
  | succ n ih => exact .ite h (.ite h (.ite (ih (repOnce_keeps hf h)) (repOnce_keeps hf h)))

theorem repRun_keeps {repN hart src z rs1 count follower chk enc k} (h : Keeps s₀ s) :
    Keeps s₀ (repRun repN hart src z rs1 count follower chk enc s k) := by
  unfold repRun
  dsimp only
  split
  · exact faultAt_keeps h
  have hf := (followerOf_keeps (s₀ := s₀)).elim ‹_›
  refine .ite (faultAt_keeps h) (.ite (.ite (faultAt_keeps h) (repLoop_keeps hf h)) (.ite h ?_))
  split
  exacts [faultAt_keeps h, h, .ite h (repLoop_keeps hf h)]

theorem repThread_keeps {repN hart src z rs1 count follower} (h : Keeps s₀ s) :
    Keeps s₀ (repThread repN hart src z rs1 count follower s) := by
  unfold repThread
  dsimp only
  split
  · exact h
  split
  · exact .ite (repRun_keeps h) h
  refine .ite h (fetched_keeps h (fetchThen_keeps h (repRun_keeps h) ?_))
  intro x1 x21
  split
  exacts [.ite (repRun_keeps h) h, faultAt_keeps h]

/-! ### Sideband -/

theorem smbusRead_keeps {byFirmware len v} (h : Keeps s₀ s) : Keeps s₀ (smbusRead byFirmware len v s) := .ite h h

theorem doeDiscovery_keeps {p index} (h : Keeps s₀ s) : Keeps s₀ (doeDiscovery p index s) := .ite h h

theorem spdmStep_keeps {code ver least most len p req body} (hbody : ∀ {s : State}, Keeps s₀ s → Spdm.Keeps s₀ (body s)) (hs : Keeps s₀ s) :
    Keeps s₀ (spdmStep code ver least most len p req body s) := by
  unfold spdmStep
  refine .ite hs (.ite hs (.ite hs (.ite hs (.ite hs (.ite hs ?_)))))
  split
  exacts [hs, answerHost_keeps ((hbody hs).of_answer ‹_›)]

theorem toVca_keeps {p st req ans} (h : Keeps s₀ s) : Spdm.Keeps s₀ (toVca p st req ans s) := h

theorem getVersion_keeps {p req} (h : Keeps s₀ s) : Spdm.Keeps s₀ (getVersion p req s) := toVca_keeps h

theorem getCapabilities_keeps {p req} (h : Keeps s₀ s) : Spdm.Keeps s₀ (getCapabilities p req s) := toVca_keeps h

theorem negotiateAlgorithms_keeps {p req} (h : Keeps s₀ s) : Spdm.Keeps s₀ (negotiateAlgorithms p req s) := toVca_keeps h

theorem toCerts_keeps {p req ans} (h : Keeps s₀ s) : Spdm.Keeps s₀ (toCerts p req ans s) := h

theorem getDigests_keeps {p req} (h : Keeps s₀ s) : Spdm.Keeps s₀ (getDigests p req s) := toCerts_keeps h

theorem getCertificate_keeps {p req} (h : Keeps s₀ s) : Spdm.Keeps s₀ (getCertificate p req s) := by
  unfold getCertificate
  dsimp only
  split
  exacts [trivial, toCerts_keeps h]

theorem challenge_keeps {p req} (h : Keeps s₀ s) : Spdm.Keeps s₀ (challenge p req s) := by
  unfold challenge
  dsimp only
  split
  · exact trivial
  split
  exacts [trivial, h]

theorem getMeasurements_keeps {p req} (h : Keeps s₀ s) : Spdm.Keeps s₀ (getMeasurements p req s) := by
  unfold getMeasurements
  dsimp only
  split
  · exact trivial
  split
  exacts [trivial, h]

end

end Sys2Proof.Machine
end

section
/-!
PROOFS. Every command, every step, and the state at reset.
-/
namespace Sys2Proof.Machine

section
variable {s₀ s t : State}

/-- Every command but FUSE_BLOW keeps the memories canonical, the fuses and the queue. -/
theorem exec_keeps {i} (hi : i ≠ .fuseBlow) (h : Keeps s₀ s) : OutKeeps s₀ (exec i s) := by
  unfold exec
  cases i with
  | op => exact issue_keeps bodyOp_keeps h
  | op32 => exact issue_keeps bodyOp32_keeps h
  | bits => exact issue_keeps bodyBits_keeps h
  | muldiv => exact issue_keeps bodyMuldiv_keeps h
  | addk => exact issue_keeps bodyAddk_keeps h
  | andk => exact issue_keeps bodyAndk_keeps h
  | ork => exact issue_keeps bodyOrk_keeps h
  | xork => exact issue_keeps bodyXork_keeps h
  | cmpltk => exact issue_keeps bodyCmpltk_keeps h
  | cmpltuk => exact issue_keeps bodyCmpltuk_keeps h
  | shk => exact issue_keeps bodyShk_keeps h
  | addk32 => exact issue_keeps bodyAddk32_keeps h
  | lih => exact issue_keeps bodyLih_keeps h
  | pcaddh => exact issue_keeps bodyPcaddh_keeps h
  | lb => exact issue_keeps bodyLoad_keeps h
  | lh => exact issue_keeps bodyLoad_keeps h
  | lw => exact issue_keeps bodyLoad_keeps h
  | ld => exact issue_keeps bodyLoad_keeps h
  | lbu => exact issue_keeps bodyLoad_keeps h
  | lhu => exact issue_keeps bodyLoad_keeps h
  | lwu => exact issue_keeps bodyLoad_keeps h
  | loadx => exact issue_keeps bodyLoadx_keeps h
  | sb => exact issue_keeps bodyStore_keeps h
  | sh => exact issue_keeps bodyStore_keeps h
  | sw => exact issue_keeps bodyStore_keeps h
  | sd => exact issue_keeps bodyStore_keeps h
  | storex => exact issue_keeps bodyStorex_keeps h
  | beq => exact issue_keeps branch_keeps h
  | bne => exact issue_keeps branch_keeps h
  | blt => exact issue_keeps branch_keeps h
  | bge => exact issue_keeps branch_keeps h
  | bltu => exact issue_keeps branch_keeps h
  | bgeu => exact issue_keeps branch_keeps h
  | jal => exact issue_keeps bodyJal_keeps h
  | jalr => exact issue_keeps bodyJalr_keeps h
  | atomic => exact issue_keeps bodyAtomic_keeps h
  | srd => exact issue_keeps bodySrd_keeps h
  | swr => exact issue_keeps bodySrWrite_keeps h
  | srs => exact issue_keeps bodySrWrite_keeps h
  | src => exact issue_keeps bodySrWrite_keeps h
  | ecall => exact issue_keeps bodyEcall_keeps h
  | ebreak => exact issue_keeps bodyEbreak_keeps h
  | eret => exact issue_keeps bodyEret_keeps h
  | wedgeL => exact issue_keeps bodyWedge_keeps h
  | wedgeB => exact issue_keeps bodyWedge_keeps h
  | wedgeD => exact issue_keeps bodyWedge_keeps h
  | wedgeS => exact issue_keeps bodyWedge_keeps h
  | repI => exact Keeps.ite (repThread_keeps h) h
  | repN => exact Keeps.ite (repThread_keeps h) h
  | tput => exact issue_keeps bodyTput_keeps h
  | tputPlace => exact onThread_keeps tputPlace_keeps h
  | tget => exact issue_keeps bodyTget_keeps h
  | tgetDeliver => exact onThread_keeps tgetDeliver_keeps h
  | ttryput => exact issue_keeps bodyTtryput_keeps h
  | tpoll => exact issue_keeps bodyTpoll_keeps h
  | tsetr => exact issue_keeps bodyTsetr_keeps h
  | trel => exact issue_keeps bodyTrel_keeps h
  | tinfo => exact issue_keeps bodyTinfo_keeps h
  | tend => exact issue_keeps bodyTend_keeps h
  | tendComplete => exact onThread_keeps tendComplete_keeps h
  | interruptEntry => exact onCore_keeps interruptEntry_keeps h
  | deferredFault => exact onThread_keeps deferredFault_keeps h
  | loadResponse => exact loadResponse_keeps h
  | writeAcknowledgement => exact writeAcknowledgement_keeps h
  | varith => exact issue_keeps bodyVarith_keeps h
  | vfma => exact issue_keeps bodyVfma_keeps h
  | vcmp => exact issue_keeps bodyVcmp_keeps h
  | pand => exact issue_keeps bodyPred_keeps h
  | por => exact issue_keeps bodyPred_keeps h
  | pxor => exact issue_keeps bodyPred_keeps h
  | pandn => exact issue_keeps bodyPred_keeps h
  | pwhile => exact issue_keeps bodyPwhile_keeps h
  | pcount => exact issue_keeps bodyPcount_keeps h
  | vld => exact issue_keeps bodyVload_keeps h
  | vst => exact issue_keeps bodyVstore_keeps h
  | vlds => exact issue_keeps bodyVload_keeps h
  | vsts => exact issue_keeps bodyVstore_keeps h
  | vldb => exact issue_keeps bodyVldb_keeps h
  | vld2 => exact issue_keeps bodyVload_keeps h
  | vst2 => exact issue_keeps bodyVstore_keeps h
  | vgather => exact issue_keeps bodyGather_keeps h
  | vscatter => exact issue_keeps bodyGather_keeps h
  | vbcast => exact issue_keeps bodyVbcast_keeps h
  | vext => exact issue_keeps bodyVext_keeps h
  | vins => exact issue_keeps bodyVins_keeps h
  | vcvt => exact issue_keeps bodyVcvt_keeps h
  | vperm => exact issue_keeps bodyVperm_keeps h
  | vredsum => exact issue_keeps bodyVred_keeps h
  | vredmin => exact issue_keeps bodyVred_keeps h
  | vredmax => exact issue_keeps bodyVred_keeps h
  | vzget => exact issue_keeps bodyStream_keeps h
  | vzput => exact issue_keeps bodyStream_keeps h
  | vzpeek => exact issue_keeps bodyStream_keeps h
  | vzpoll => exact issue_keeps bodyVzpoll_keeps h
  | vzfma => exact issue_keeps bodyStream_keeps h
  | streamWaitDone => exact onThread_keeps streamWaitDone_keeps h
  | tload => exact issue_keeps bodyTload_keeps h
  | tloadStream => exact issue_keeps bodyTloadStream_keeps h
  | tstore => exact issue_keeps bodyTstore_keeps h
  | tmma => exact issue_keeps bodyTmma_keeps h
  | tmmaComplete => exact onCore_keeps tmmaComplete_keeps h
  | tcvt => exact issue_keeps bodyTcvt_keeps h
  | tzero => exact issue_keeps bodyTzero_keeps h
  | tcfg => exact issue_keeps bodyTcfg_keeps h
  | tstat => exact issue_keeps bodyTstat_keeps h
  | tstatC => exact issue_keeps bodyTstat_keeps h
  | tseed => exact issue_keeps bodyTseed_keeps h
  | tcbld => exact issue_keeps bodyTcbld_keeps h
  | tcfgr => exact issue_keeps bodyTcfgr_keeps h
  | patrolScrub => exact onCore_keeps patrolScrub_keeps h
  | gatherBufferWriteback => exact onCore_keeps gbufFlush_keeps h
  | retentionExit => exact onBench_keeps (fun h1 => .ite h1 (retentionExit_keeps h1)) h
  | cinc => exact issue_keeps bodyCinc_keeps h
  | cincB => exact issue_keeps bodyCinc_keeps h
  | cdec => exact issue_keeps bodyCdec_keeps h
  | cwait => exact issue_keeps bodyCwait_keeps h
  | cwaitSatisfied => exact onThread_keeps cwaitSatisfied_keeps h
  | cwaitPoll => exact onThread_keeps cwaitPoll_keeps h
  | cread => exact issue_keeps bodyCread_keeps h
  | counterApply => exact counterApply_keeps h
  | quietLimitReached => exact quietLimitReached_keeps h
  | contextDeadlock => exact contextDeadlock_keeps h
  | txb => exact issue_keeps bodyTxb_keeps h
  | txe => exact issue_keeps bodyTxe_keeps h
  | txa => exact issue_keeps bodyTxa_keeps h
  | txAbort => exact onThread_keeps txAbort_keeps h
  | txRead => exact txReadAt_keeps h
  | lockRequest => exact onThread_keeps lockRequest_keeps h
  | watchCheck => exact onThread_keeps watchCheck_keeps h
  | txApply => exact onThread_keeps txApply_keeps h
  | watchRelease => exact onThread_keeps watchRelease_keeps h
  | groupOpen => exact runCommand_keeps cmdGroupOpen_keeps h
  | groupClose => exact runCommand_keeps cmdGroupClose_keeps h
  | portCreate => exact issue_keeps bodyPortCreate_keeps h
  | portFree => exact issue_keeps bodyPortFree_keeps h
  | portPop => exact issue_keeps bodyPortPop_keeps h
  | dispatch => exact issue_keeps bodyDispatch_keeps h
  | hset => exact issue_keeps bodyHset_keeps h
  | chanOpen => exact issue_keeps bodyOpen_keeps h
  | chanClose => exact issue_keeps bodyClose_keeps h
  | send => exact issue_keeps bodySend_keeps h
  | tsend => exact issue_keeps bodySend_keeps h
  | sendM => exact issue_keeps bodySendM_keeps h
  | sendEnd => exact issue_keeps bodySendEnd_keeps h
  | tsendEnd => exact issue_keeps bodySendEnd_keeps h
  | publication => exact publication_keeps h
  | sendRetry => exact onThread_keeps sendRetry_keeps h
  | stallLimitExpiry => exact onThread_keeps stallLimitExpiry_keeps h
  | streamEntry => exact onBench_keeps streamEntry_keeps h
  | creditReturn => exact onBench_keeps creditReturn_keeps h
  | select => exact onBench_keeps unitBeat_keeps h
  | merge => exact onBench_keeps unitBeat_keeps h
  | branch => exact onBench_keeps unitBeat_keeps h
  | replicate => exact onBench_keeps unitBeat_keeps h
  | filter => exact onBench_keeps unitBeat_keeps h
  | streamLoad => exact runMember_keeps loadEffect_keeps h
  | streamSection => exact runCommand_keeps cmdStreamSection_keeps h
  | streamReconfig => exact runCommand_keeps cmdStreamReconfig_keeps h
  | sectionAdvance => exact sectionAdvance_keeps h
  | drainComplete => exact drainComplete_keeps h
  | drainLimitExpiry => exact drainLimitExpiry_keeps h
  | haulLaunch => exact Keeps.ite h (fromSourceE_keeps h haulLaunch_keeps)
  | haulCopy => exact onBench_keeps haulBeat_keeps h
  | haulFill => exact onBench_keeps haulBeat_keeps h
  | qin => exact onBench_keeps haulBeat_keeps h
  | qout => exact onBench_keeps haulBeat_keeps h
  | descriptorCompletion => exact onBench_keeps descriptorCompletion_keeps h
  | haulStop => exact onBench_keeps (guardedWrite_keeps setHaulStop_keeps) h
  | flitHop => exact onNode_keeps flitHop_keeps h
  | meshReplay => exact onNode_keeps meshReplay_keeps h
  | bcRead => exact bcReadRow_keeps h
  | bcWrite => exact bcWriteRow_keeps h
  | bcFill => exact bcFill_keeps h
  | victimWriteback => exact onBench_keeps victimWriteback_keeps h
  | bcWritebackPass => exact onBench_keeps bcWritebackPass_keeps h
  | bcWayen => exact onBench_keeps (guardedWrite_keeps setWayen_keeps) h
  | wayPowerDown => exact onBench_keeps wayPowerDown_keeps h
  | skipLaunch => exact Keeps.ite h (fromSourceE_keeps h skipLaunch_keeps)
  | skipTransfer => exact Keeps.ite h (skipTransfer_keeps h)
  | skipCompletion => exact Keeps.ite h (skipCompletion_keeps h)
  | hbmRead => exact hbmReadAt_keeps h
  | hbmWrite => exact hbmWriteAt_keeps h
  | homeAtomic => exact homeAtomic_keeps h
  | writeBufferRetire => exact h
  | hbmScrub => exact hbmScrub_keeps h
  | hbmRefresh => exact h
  | eventRecord => exact eventRecord_keeps h
  | tailings => exact onEvRing_keeps tailingsRow_keeps h
  | dropped => exact onEvRing_keeps droppedRow_keeps h
  | ringHeadPoll => exact onEvRing_keeps ringHeadPoll_keeps h
  | msiXMessage => exact onEvRing_keeps msiXMessage_keeps h
  | hostWriteTimeout => exact hostWriteTimeout_keeps h
  | doorbell => exact doorbell_keeps h
  | packetRead => exact packetRead_keeps h
  | packetReadRetry => exact packetReadRetry_keeps h
  | ringCtl => exact ringCtl_keeps h
  | evrCtl => exact evrCtl_keeps h
  | bar2Read => exact bar2Read_keeps h
  | bar2Write => exact bar2Write_keeps h
  | atomicop => exact atomicop_keeps h
  | frontWindowRead => exact frontWindowRead_keeps h
  | apertureBase => exact Keeps.ite h h
  | nodesel => exact Keeps.ite h h
  | apertureWrite => exact apertureWrite_keeps h
  | atsInvalidation => exact atsInvalidation_keeps h
  | atsResponse => exact atsResponse_keeps h
  | pageResponse => exact pageResponse_keeps h
  | pageRequestTimeout => exact pageRequestTimeout_keeps h
  | completionTimeout => exact completionTimeout_keeps h
  | d3hot => exact d3hot_keeps h
  | nop => exact runCommand_keeps finishWith_keeps h
  | launch => exact runCommand_keeps cmdLaunch_keeps h
  | launchCompletion => exact launchCompletion_keeps h
  | signal => exact runCommand_keeps cmdSignal_keeps h
  | wait => exact runCommand_keeps cmdWait_keeps h
  | waitTimeout => exact waitTimeout_keeps h
  | fence => exact runCommand_keeps cmdFence_keeps h
  | fenceDone => exact fenceDone_keeps h
  | ctxCreate => exact runCommand_keeps cmdCtxCreate_keeps h
  | ctxDestroy => exact runCommand_keeps cmdCtxDestroy_keeps h
  | ctxReset => exact runCommand_keeps cmdCtxReset_keeps h
  | map => exact runMember_keeps mapEffect_keeps h
  | unmap => exact runMember_keeps mapEffect_keeps h
  | copy => exact runCommand_keeps cmdCopy_keeps h
  | fill => exact runCommand_keeps cmdFill_keeps h
  | loadImage => exact runCommand_keeps cmdLoadImage_keeps h
  | stop => exact runCommand_keeps cmdStop_keeps h
  | getInfo => exact runCommand_keeps cmdGetInfo_keeps h
  | setPolicy => exact runMember_keeps policyEffect_keeps h
  | getHistory => exact runCommand_keeps cmdGetHistory_keeps h
  | fenceUnit => exact runMember_keeps fenceEffect_keeps h
  | unfenceUnit => exact runMember_keeps unfenceEffect_keeps h
  | fwPush => exact runCommand_keeps cmdFwPush_keeps h
  | takeover => exact runCommand_keeps cmdTakeover_keeps h
  | resetDevice => exact runCommand_keeps cmdResetDevice_keeps h
  | halt => exact runCommand_keeps cmdHalt_keeps h
  | resume => exact runCommand_keeps cmdResume_keeps h
  | readState => exact runCommand_keeps cmdReadState_keeps h
  | linkTraining => exact onIsland_keeps (fun h1 => .ite (trainPort_keeps h1) h1) h
  | linkTrainingRetry => exact onIsland_keeps (fun h1 => .ite (trainPort_keeps h1) h1) h
  | linkRetrain => exact onIsland_keeps (fun h1 => .ite (trainPort_keeps h1) h1) h
  | linkFlit => exact onIsland_keeps linkFlit_keeps h
  | replayRequest => exact onIsland_keeps replayRequest_keeps h
  | linkWaitDiscard => exact onLink_keeps linkWaitDiscard_keeps h
  | remoteResponseTimeout => exact remoteTimeout_keeps h
  | incomingAccess => exact incomingAccess_keeps h
  | reliabilityWindow => exact reliabilityWindow_keeps h
  | unitRecordFlush => exact unitRecordFlush_keeps h
  | managementTick => exact managementTick_keeps h
  | safetyLoop => exact runLoop_keeps safetyRun_keeps h
  | precisionLoop => exact runLoop_keeps precisionRun_keeps h
  | voltageLoop => exact runLoop_keeps voltageRun_keeps h
  | cacheLoop => exact runLoop_keeps cacheRun_keeps h
  | linkLoop => exact runLoop_keeps linkRun_keeps h
  | healthLoop => exact runLoop_keeps healthRun_keeps h
  | pacerCalibration => exact pacerCalibration_keeps h
  | referenceClockSwitch => exact clockSwitch_keeps h
  | hrefSwitch => exact hrefSwitch_keeps h
  | droopHold => exact droopHold_keeps h
  | heartbeatWatchdog => exact heartbeatWatchdog_keeps h
  | powerOn => exact powerOn_keeps h
  | fuseBlow => exact absurd rfl hi
  | powerOff => exact Keeps.ite (goOff_keeps h) h
  | railFault => exact Keeps.ite h (goOff_keeps h)
  | deviceReset => exact deviceReset_keeps h
  | portReset => exact portReset_keeps h
  | flr => exact Keeps.ite h (resetFns_keeps h)
  | benchGate => exact onBench_keeps benchGate_keeps h
  | idleEntry => exact idleEntry_keeps h
  | deepIdleEntry => exact deepIdleEntry_keeps h
  | idleExit => exact idleExit_keeps h
  | deepIdleExit => exact deepIdleExit_keeps h
  | thermtrip => exact Keeps.ite h h
  | registerWrite => exact execRegisterWrite_keeps h
  | guardTimeout => exact onNode_keeps guardTimeout_keeps h
  | paritySweep => exact execParitySweep_keeps h
  | smbusTemperature => exact smbusRead_keeps h
  | smbusPower => exact smbusRead_keeps h
  | smbusFwState => exact smbusRead_keeps h
  | smbusHeartbeat => exact smbusRead_keeps h
  | smbusUptime => exact smbusRead_keeps h
  | smbusAlerts => exact smbusRead_keeps h
  | getVersion => exact spdmStep_keeps getVersion_keeps h
  | getCapabilities => exact spdmStep_keeps getCapabilities_keeps h
  | negotiateAlgorithms => exact spdmStep_keeps negotiateAlgorithms_keeps h
  | getDigests => exact spdmStep_keeps getDigests_keeps h
  | getCertificate => exact spdmStep_keeps getCertificate_keeps h
  | challenge => exact spdmStep_keeps challenge_keeps h
  | getMeasurements => exact spdmStep_keeps getMeasurements_keeps h
  | localStoreAccess => exact localStoreAccess_keeps h
  | holdEnd => exact holdEnd_keeps h
  | pcieLinkUp => exact pcieLinkUp_keeps h
  | perstRelease => exact perstRelease_keeps h
  | devRstNRelease => exact devRstRelease_keeps h
  | msiXUnmask => exact Keeps.ite h (msiXUnmask_keeps h)
  | doeDiscovery => exact doeDiscovery_keeps h

/-- A command keeps the memories canonical, FUSE_BLOW among them. -/
theorem exec_memoryOk {i} (h : MemoryOk s) (e : exec i s = .next t) : MemoryOk t := by
  by_cases hi : i = .fuseBlow
  · subst hi
    cases e
    exact fuseBlow_memoryOk h
  · have hkeeps := exec_keeps hi (Keeps.refl s)
    rw [e] at hkeeps
    exact hkeeps.memoryOk h

theorem step_of_pending_nil (h : s.pending = []) : step s = .next (idle s) := by
  rw [step, h]

theorem step_of_pending_cons {c rest} (h : s.pending = c :: rest) : step s = exec c { s with pending := rest } := by
  rw [step, h]

theorem step_memoryOk (h : MemoryOk s) (e : step s = .next t) : MemoryOk t := by
  cases hq : s.pending with
  | nil =>
    rw [step_of_pending_nil hq] at e
    have hkeeps : Keeps s (idle s) := idle_keeps (Keeps.refl s)
    exact Host.Outcome.next.inj e ▸ hkeeps.memoryOk h
  | cons c rest =>
    rw [step_of_pending_cons hq] at e
    have hrest : MemoryOk { s with pending := rest } := h
    exact exec_memoryOk hrest e

end

/-- Settles O56: a time step by `idle_keeps`, a command by `exec_memoryOk`. -/
theorem stepKeepsMemory : Obligations.StepKeepsMemory := fun _ _ => step_memoryOk

theorem reset_memoryOk : MemoryOk State.reset := ⟨rfl, rfl, rfl, rfl, rfl⟩

/-- Settles O55: the state after reset lists no thread, bench, node, ring or byte, so each is at its initial value. -/
theorem resetState : Obligations.ResetState := by
  unfold Obligations.ResetState
  refine ⟨reset_memoryOk, rfl, rfl, rfl, rfl, rfl, rfl, rfl, ?threads, ?benches, ?rings, ?evrings, ?hbm, ?stores, ?policies⟩
  case threads => exact fun k => ⟨rfl, rfl, rfl, rfl, rfl⟩
  case benches => exact fun n => ⟨rfl, rfl, rfl, rfl, rfl, rfl⟩
  case rings => exact fun k => ⟨rfl, rfl, rfl, rfl⟩
  case evrings => exact fun k => rfl
  case hbm => exact fun a => rfl
  case stores => exact fun c o => rfl
  case policies => exact fun q => ⟨rfl, rfl⟩

end Sys2Proof.Machine
end

section
/-!
PROOFS. The HBM interleave (R36, Table 1.8): the stack and the offset in it of an address, and the address of a stack location.
-/
namespace Sys2Proof.Machine

section
variable {s : State} {a l : Nat}

theorem bits_lt (v hi lo : Nat) : bits v hi lo < 2 ^ (hi + 1 - lo) := Nat.mod_lt _ (by positivity)

/-- A field of a field is a field. -/
theorem bits_bits (v : Nat) {hi lo h l : Nat} (hh : h + lo ≤ hi) : bits (bits v hi lo) h l = bits v (h + lo) (l + lo) := by
  refine Nat.eq_of_testBit_eq fun i => ?_
  have hwidth : h + lo + 1 - (l + lo) = h + 1 - l := by omega
  simp only [bits, hwidth, Nat.testBit_mod_two_pow, Nat.testBit_div_two_pow]
  rw [Nat.add_assoc, Nat.add_comm l lo]
  by_cases hi' : i < h + 1 - l
  · have hin : i + l < hi + 1 - lo := by omega
    simp [hi', hin]
  · simp [hi']

/-! ### The stack and the offset of an address -/

theorem interleave_half_lt (a : Nat) : bits a 13 12 ^^^ bits a 21 20 ^^^ bits a 29 28 < 4 :=
  Nat.xor_lt_two_pow (n := 2) (Nat.xor_lt_two_pow (bits_lt a 13 12) (bits_lt a 21 20)) (bits_lt a 29 28)

theorem interleave_full_lt (a : Nat) : bits a 15 12 ^^^ bits a 23 20 ^^^ bits a 31 28 ^^^ bits a 39 36 < 16 :=
  Nat.xor_lt_two_pow (n := 4) (Nat.xor_lt_two_pow (Nat.xor_lt_two_pow (bits_lt a 15 12) (bits_lt a 23 20)) (bits_lt a 31 28)) (bits_lt a 39 36)

theorem hbmLoc_half (hf : s.dev.full = false) :
    hbmLoc s a = (4 * bits a 39 38 + (bits a 13 12 ^^^ bits a 21 20 ^^^ bits a 29 28)) * 2 ^ 36 + (bits a 37 14 * 4096 + bits a 11 0) := by
  rw [hbmLoc, hf]
  rfl

theorem hbmLoc_full (hf : s.dev.full = true) :
    hbmLoc s a = (bits a 15 12 ^^^ bits a 23 20 ^^^ bits a 31 28 ^^^ bits a 39 36) * 2 ^ 36 + (bits a 39 16 * 4096 + bits a 11 0) := by
  rw [hbmLoc, hf]
  rfl

theorem stackOf_half (hf : s.dev.full = false) : stackOf s a = 4 * bits a 39 38 + (bits a 13 12 ^^^ bits a 21 20 ^^^ bits a 29 28) := by
  have hx := interleave_half_lt a
  have ht := bits_lt a 37 14
  have ho := bits_lt a 11 0
  rw [stackOf, hbmLoc_half hf]
  omega

theorem stackOf_full (hf : s.dev.full = true) : stackOf s a = bits a 15 12 ^^^ bits a 23 20 ^^^ bits a 31 28 ^^^ bits a 39 36 := by
  have hx := interleave_full_lt a
  have ht := bits_lt a 39 16
  have ho := bits_lt a 11 0
  rw [stackOf, hbmLoc_full hf]
  omega

theorem hbmLoc_mod_half (hf : s.dev.full = false) : hbmLoc s a % 2 ^ 36 = bits a 37 14 * 2 ^ 12 + bits a 11 0 := by
  have ht := bits_lt a 37 14
  have ho := bits_lt a 11 0
  rw [hbmLoc_half hf]
  omega

theorem hbmLoc_mod_full (hf : s.dev.full = true) : hbmLoc s a % 2 ^ 36 = bits a 39 16 * 2 ^ 12 + bits a 11 0 := by
  have ht := bits_lt a 39 16
  have ho := bits_lt a 11 0
  rw [hbmLoc_full hf]
  omega

/-! ### The address of a stack location -/

/-- Address bits [15:12], or [13:12] in the quadrant-local mode, of a stack location: what the exclusive or gave the stack, taken back. -/
def locChan (full : Bool) (l : Nat) : Nat :=
  let n := l / 2 ^ 36
  let t := l % 2 ^ 36 / 2 ^ 12
  if full then n ^^^ bits t 7 4 ^^^ bits t 15 12 ^^^ bits t 23 20 else n % 4 ^^^ bits t 7 6 ^^^ bits t 15 14

/-- The inverse of the interleave: the device address of a stack location, in the interleaved mode or the quadrant-local one. -/
def locAddr (full : Bool) (l : Nat) : Nat :=
  let t := l % 2 ^ 36 / 2 ^ 12
  if full then t * 2 ^ 16 + locChan true l * 2 ^ 12 + l % 2 ^ 12
  else l / 2 ^ 36 / 4 * 2 ^ 38 + t * 2 ^ 14 + locChan false l * 2 ^ 12 + l % 2 ^ 12

theorem locChan_half_lt (l : Nat) : locChan false l < 4 :=
  Nat.xor_lt_two_pow (n := 2) (Nat.xor_lt_two_pow (Nat.mod_lt _ (by decide)) (bits_lt _ 7 6)) (bits_lt _ 15 14)

theorem locChan_full_lt (hl : l < 2 ^ 40) : locChan true l < 16 :=
  Nat.xor_lt_two_pow (n := 4) (Nat.xor_lt_two_pow (Nat.xor_lt_two_pow (by omega) (bits_lt _ 7 4)) (bits_lt _ 15 12)) (bits_lt _ 23 20)

theorem locAddr_lt (full : Bool) (hl : l < 2 ^ 40) : locAddr full l < 2 ^ 40 := by
  have hhalf := locChan_half_lt l
  have hfull := locChan_full_lt hl
  cases full <;> simp only [locAddr, Bool.false_eq_true, if_false, if_true] <;> omega

theorem xor_pair_cancel (x p q : Nat) : x ^^^ p ^^^ q ^^^ p ^^^ q = x := by
  rw [Nat.xor_right_comm _ q p, Nat.xor_xor_cancel_right, Nat.xor_xor_cancel_right]

theorem xor_triple_cancel (x p q r : Nat) : x ^^^ p ^^^ q ^^^ r ^^^ p ^^^ q ^^^ r = x := by
  rw [Nat.xor_right_comm _ r p, Nat.xor_right_comm _ r q, Nat.xor_xor_cancel_right, xor_pair_cancel]

theorem hbmLoc_row_half (hf : s.dev.full = false) : hbmLoc s a % 2 ^ 36 / 2 ^ 12 = bits a 37 14 := by
  have ho := bits_lt a 11 0
  rw [hbmLoc_mod_half hf]
  omega

theorem hbmLoc_row_full (hf : s.dev.full = true) : hbmLoc s a % 2 ^ 36 / 2 ^ 12 = bits a 39 16 := by
  have ho := bits_lt a 11 0
  rw [hbmLoc_mod_full hf]
  omega

theorem hbmLoc_low (s : State) (a : Nat) : hbmLoc s a % 2 ^ 12 = bits a 11 0 := by
  have ho := bits_lt a 11 0
  cases hf : s.dev.full with
  | false => rw [hbmLoc_half hf]; omega
  | true => rw [hbmLoc_full hf]; omega

theorem locAddr_hbmLoc (s : State) (ha : a < 2 ^ 40) : locAddr s.dev.full (hbmLoc s a) = a := by
  cases hf : s.dev.full with
  | false =>
    have hn : hbmLoc s a / 2 ^ 36 = _ := stackOf_half hf
    have hx := interleave_half_lt a
    have hquad : hbmLoc s a / 2 ^ 36 / 4 = bits a 39 38 := by omega
    have hchan : hbmLoc s a / 2 ^ 36 % 4 = bits a 13 12 ^^^ bits a 21 20 ^^^ bits a 29 28 := by omega
    simp only [locAddr, locChan, Bool.false_eq_true, if_false, hquad, hchan, hbmLoc_row_half hf, hbmLoc_low,
      bits_bits a (show 7 + 14 ≤ 37 by decide), bits_bits a (show 15 + 14 ≤ 37 by decide), xor_pair_cancel]
    simp only [bits, Nat.reduceAdd, Nat.reduceSub, Nat.reducePow]
    omega
  | true =>
    have hn : hbmLoc s a / 2 ^ 36 = _ := stackOf_full hf
    simp only [locAddr, locChan, if_true, hn, hbmLoc_row_full hf, hbmLoc_low, bits_bits a (show 7 + 16 ≤ 39 by decide),
      bits_bits a (show 15 + 16 ≤ 39 by decide), bits_bits a (show 23 + 16 ≤ 39 by decide), xor_triple_cancel]
    simp only [bits, Nat.reduceAdd, Nat.reduceSub, Nat.reducePow]
    omega

/-- No two device addresses share a stack location. -/
theorem hbmLoc_inj {b : Nat} (ha : a < 2 ^ 40) (hb : b < 2 ^ 40) (h : hbmLoc s a = hbmLoc s b) : a = b := by
  rw [← locAddr_hbmLoc s ha, h, locAddr_hbmLoc s hb]

theorem hbmLoc_locAddr (s : State) (hl : l < 2 ^ 40) : hbmLoc s (locAddr s.dev.full l) = l := by
  have hlt := locAddr_lt s.dev.full hl
  cases hf : s.dev.full with
  | false =>
    rw [hf] at hlt
    have hx : l / 2 ^ 36 % 4 ^^^ bits (l % 2 ^ 36 / 2 ^ 12) 7 6 ^^^ bits (l % 2 ^ 36 / 2 ^ 12) 15 14 = locChan false l := rfl
    have hxlt := locChan_half_lt l
    have hdef : locAddr false l = l / 2 ^ 36 / 4 * 2 ^ 38 + l % 2 ^ 36 / 2 ^ 12 * 2 ^ 14 + locChan false l * 2 ^ 12 + l % 2 ^ 12 := rfl
    generalize locChan false l = x at hx hxlt hdef
    generalize locAddr false l = a at hdef hlt
    have hquad : bits a 39 38 = l / 2 ^ 36 / 4 := by
      have hq : l / 2 ^ 36 / 4 < 4 := by omega
      have ht : l % 2 ^ 36 / 2 ^ 12 < 2 ^ 24 := by omega
      have ho : l % 2 ^ 12 < 2 ^ 12 := by omega
      generalize l / 2 ^ 36 / 4 = q, l % 2 ^ 36 / 2 ^ 12 = t, l % 2 ^ 12 = o at hdef hq ht ho ⊢
      simp only [bits, Nat.reduceAdd, Nat.reduceSub, Nat.reducePow]
      omega
    have hrow : bits a 37 14 = l % 2 ^ 36 / 2 ^ 12 := by simp only [bits, Nat.reduceAdd, Nat.reduceSub, Nat.reducePow]; omega
    have hchan : bits a 13 12 = x := by simp only [bits, Nat.reduceAdd, Nat.reduceSub, Nat.reducePow]; omega
    have hlow : bits a 11 0 = l % 2 ^ 12 := by simp only [bits, Nat.reduceAdd, Nat.reduceSub, Nat.reducePow]; omega
    have h1 := bits_bits a (lo := 14) (h := 7) (l := 6) (show 7 + 14 ≤ 37 by decide)
    have h2 := bits_bits a (lo := 14) (h := 15) (l := 14) (show 15 + 14 ≤ 37 by decide)
    rw [hrow] at h1 h2
    rw [hbmLoc_half hf, ← h1, ← h2, hquad, hrow, hchan, hlow, ← hx, xor_pair_cancel]
    omega
  | true =>
    rw [hf] at hlt
    have hx : l / 2 ^ 36 ^^^ bits (l % 2 ^ 36 / 2 ^ 12) 7 4 ^^^ bits (l % 2 ^ 36 / 2 ^ 12) 15 12 ^^^ bits (l % 2 ^ 36 / 2 ^ 12) 23 20 = locChan true l := rfl
    have hxlt := locChan_full_lt hl
    have hdef : locAddr true l = l % 2 ^ 36 / 2 ^ 12 * 2 ^ 16 + locChan true l * 2 ^ 12 + l % 2 ^ 12 := rfl
    generalize locChan true l = x at hx hxlt hdef
    generalize locAddr true l = a at hdef hlt
    have hrow : bits a 39 16 = l % 2 ^ 36 / 2 ^ 12 := by simp only [bits, Nat.reduceAdd, Nat.reduceSub, Nat.reducePow]; omega
    have hchan : bits a 15 12 = x := by simp only [bits, Nat.reduceAdd, Nat.reduceSub, Nat.reducePow]; omega
    have hlow : bits a 11 0 = l % 2 ^ 12 := by simp only [bits, Nat.reduceAdd, Nat.reduceSub, Nat.reducePow]; omega
    have h1 := bits_bits a (lo := 16) (h := 7) (l := 4) (show 7 + 16 ≤ 39 by decide)
    have h2 := bits_bits a (lo := 16) (h := 15) (l := 12) (show 15 + 16 ≤ 39 by decide)
    have h3 := bits_bits a (lo := 16) (h := 23) (l := 20) (show 23 + 16 ≤ 39 by decide)
    rw [hrow] at h1 h2 h3
    rw [hbmLoc_full hf, ← h1, ← h2, ← h3, hrow, hchan, hlow, ← hx, xor_triple_cancel]
    omega

/-! ### A page of the quadrant-local mode -/

/-- The address of the page of `a` whose chunk is chosen so that the stack within the quadrant is `q`. -/
def pageChunk (a q : Nat) : Nat := a / 2 ^ 16 * 2 ^ 16 + (q ^^^ bits a 21 20 ^^^ bits a 29 28) * 2 ^ 12

theorem pageChunk_lt {q : Nat} (a : Nat) (hq : q < 4) : q ^^^ bits a 21 20 ^^^ bits a 29 28 < 4 :=
  Nat.xor_lt_two_pow (n := 2) (Nat.xor_lt_two_pow hq (bits_lt a 21 20)) (bits_lt a 29 28)

theorem pageChunk_page {q : Nat} (hq : q < 4) : pageChunk a q / 2 ^ 16 = a / 2 ^ 16 := by
  have hx := pageChunk_lt a hq
  simp only [pageChunk]
  omega

theorem stackOf_pageChunk {q : Nat} (hf : s.dev.full = false) (ha : a < 2 ^ 40) (hq : q < 4) :
    stackOf s (pageChunk a q) = 4 * (a / 2 ^ 38) + q := by
  have hpage := pageChunk_page (a := a) hq
  have e0 : bits (pageChunk a q) 13 12 = q ^^^ bits a 21 20 ^^^ bits a 29 28 := by
    have hx := pageChunk_lt a hq
    generalize hy : q ^^^ bits a 21 20 ^^^ bits a 29 28 = y at hx
    simp only [pageChunk, hy]
    simp only [bits, Nat.reduceAdd, Nat.reduceSub, Nat.reducePow]
    omega
  have e1 : bits (pageChunk a q) 21 20 = bits a 21 20 := by simp only [bits, Nat.reduceAdd, Nat.reduceSub, Nat.reducePow]; omega
  have e2 : bits (pageChunk a q) 29 28 = bits a 29 28 := by simp only [bits, Nat.reduceAdd, Nat.reduceSub, Nat.reducePow]; omega
  rw [stackOf_half hf, e0, e1, e2, xor_pair_cancel]
  simp only [bits, Nat.reduceAdd, Nat.reduceSub, Nat.reducePow]
  omega

/-- A page of the quadrant-local mode lies in one share. -/
theorem stackOf_share {b : Nat} (hf : s.dev.full = false) (ha : a < 2 ^ 40) (hpage : b / 2 ^ 16 = a / 2 ^ 16) : stackOf s b / 4 = a / 2 ^ 38 := by
  have hx := interleave_half_lt b
  rw [stackOf_half hf]
  generalize bits b 13 12 ^^^ bits b 21 20 ^^^ bits b 29 28 = x at hx
  simp only [bits, Nat.reduceAdd, Nat.reduceSub, Nat.reducePow]
  omega

end

/-- Settles O22: the interleave has the inverse `locAddr`, and `pageChunk` finds each stack of a page's quadrant. -/
theorem interleave : Obligations.Interleave := by
  unfold Obligations.Interleave
  refine ⟨?formula, fun s a b ha hb => hbmLoc_inj ha hb, ?onto, ?pages⟩
  case formula => exact fun s a _ => ⟨fun hf => ⟨stackOf_half hf, hbmLoc_mod_half hf⟩, fun hf => ⟨stackOf_full hf, hbmLoc_mod_full hf⟩⟩
  case onto => exact fun s l hl => ⟨locAddr s.dev.full l, locAddr_lt _ hl, hbmLoc_locAddr s hl⟩
  case pages =>
    intro s a ha hf
    exact ⟨fun b hpage => stackOf_share hf ha hpage, fun q hq => ⟨pageChunk a q, pageChunk_page hq, stackOf_pageChunk hf ha hq⟩⟩

end Sys2Proof.Machine
end

section
/-!
PROOFS. Reserved encodings and functions (R61, R64), and steps of units that do not exist (R13, R16; log entry 1).
-/
namespace Sys2Proof.Machine

/-! ### Reserved functions -/

theorem opFn_reserved {fn : BitVec 10} (h : 0x010 ≤ fn.toNat) (a b : W64) : opFn fn a b = none := by
  unfold opFn
  obtain ⟨n, hn⟩ := Nat.exists_eq_add_of_le' h
  rw [hn]
  rfl

theorem op32Fn_reserved {fn : BitVec 10} (h : fn.toNat ∉ [0, 1, 6, 7, 8]) (a b : W64) : op32Fn fn a b = none := by
  unfold op32Fn
  generalize fn.toNat = n at h
  dsimp only
  split
  case h_6 => rfl
  all_goals simp at h

theorem bitsFn_reserved {fn : BitVec 10} (h : 0x008 ≤ fn.toNat) (a : W64) : bitsFn fn a = none := by
  unfold bitsFn
  obtain ⟨n, hn⟩ := Nat.exists_eq_add_of_le' h
  rw [hn]
  rfl

theorem muldivFn_reserved {fn : BitVec 10} (h : 0x00D ≤ fn.toNat) (a b : W64) : muldivFn fn a b = none := by
  unfold muldivFn
  obtain ⟨n, hn⟩ := Nat.exists_eq_add_of_le' h
  rw [hn]
  rfl

/-! ### ILLEGAL at the issue -/

section
variable {h : Hart} {i : Instr} {regs : List (BitVec 5)} {s : State}

theorem ready_mono {few : List (BitVec 5)} (hr : Ready h regs s) (hsub : ∀ r ∈ few, r ∈ regs) : Ready h few s := by
  obtain ⟨hcore, hissue, hjob, hregs, hchk⟩ := hr
  exact ⟨hcore, hissue, hjob, fun r hr => hregs r (hsub r hr), hchk⟩

/-- A ready thread whose instruction's own meaning is ILLEGAL takes the fault at its PC, with no other effect (R61). -/
theorem issue_illegal (hr : Ready h regs s) (hh : i.hart? = some h) (hf : Fetches i s) (engine : Nat) {body : State → Nat → Res}
    (hbody : body s h.key = illegal s) :
    issue h i engine regs body s = .next (faultAt s h.key (scalarExn 1 0) (thr s h.key).pc) := by
  have ⟨_, _, hjob, _, _⟩ := hr
  rw [issue_ready hr hh hf, hbody]
  simp [illegal, applyRes, hjob]

/-- A thread that may issue and fetches a reserved encoding takes ILLEGAL, whatever instruction was to run (R61). -/
theorem issue_reserved {a b : BitVec 16} (hr : Ready h [] s) (hf : fetchInstr s h.key (thr s h.key).pc h.compact = .bits a b)
    (hres : decodeAt h a b = .reserved) (engine : Nat) (body : State → Nat → Res) :
    issue h i engine regs body s = .next (faultAt s h.key (scalarExn 1 0) (thr s h.key).pc) := by
  obtain ⟨hcore, hissue, hjob, -, -⟩ := hr
  simp only [Hart.key] at *
  simp [issue, issueThread, hcore, hissue, hjob, fetched, fetchThen, hf, hres]

/-- A core that does not exist issues nothing (R16). -/
theorem issue_noCore (hc : isCore h.core.toNat = false) (engine : Nat) (body : State → Nat → Res) :
    issue h i engine regs body s = .next s := by
  simp [issue, hc]

end

/-! ### Reserved majors and functions of the decoder -/

section
variable {h : Hart} {w : BitVec 32}

theorem fMajor_toNat (w : BitVec 32) : (fMajor w).toNat = w.toNat / 2 ^ 25 % 64 := by
  simp [fMajor, BitVec.extractLsb'_toNat, Nat.shiftRight_eq_div_pow]

theorem fFn3_toNat (w : BitVec 32) : (fFn3 w).toNat = w.toNat / 2 ^ 12 % 8 := by
  simp [fFn3, BitVec.extractLsb'_toNat, Nat.shiftRight_eq_div_pow]

theorem fFn10_toNat (w : BitVec 32) : (fFn10 w).toNat = w.toNat % 1024 := by
  simp [fFn10, BitVec.extractLsb'_toNat]

theorem decode32_long (hw : w.getLsbD 31 = true) : decode32 h w = decodeMajor { h with compact := false } w := if_pos hw

/-- The majors that Table 3.4 does not assign. -/
theorem decodeMajor_reserved (hm : (fMajor w).toNat ∈ [0x0E, 0x0F, 0x1D, 0x1E, 0x1F, 0x2F, 0x35, 0x3B, 0x3C, 0x3D, 0x3E, 0x3F]) :
    decodeMajor h w = .reserved := by
  have hv : fMajor w = BitVec.ofNat 6 (fMajor w).toNat := by simp
  unfold decodeMajor
  generalize (fMajor w).toNat = m at hm hv
  rw [hv]
  simp only [List.mem_cons, List.not_mem_nil, or_false] at hm
  rcases hm with rfl | rfl | rfl | rfl | rfl | rfl | rfl | rfl | rfl | rfl | rfl | rfl <;> rfl

theorem decodeMajor_sys (hm : (fMajor w).toNat = 0x29) : decodeMajor h w = decodeSys h w := by
  have hv : fMajor w = 0x29#6 := BitVec.eq_of_toNat_eq hm
  rw [decodeMajor, hv]
  rfl

theorem decodeMajor_counter (hm : (fMajor w).toNat = 0x2A) : decodeMajor h w = decodeCounter h w := by
  have hv : fMajor w = 0x2A#6 := BitVec.eq_of_toNat_eq hm
  rw [decodeMajor, hv]
  rfl

/-- SYS assigns fn3 0 to 4 (R72). -/
theorem decodeSys_reserved (hf : 5 ≤ (fFn3 w).toNat) : decodeSys h w = .reserved := by
  unfold decodeSys
  split
  case h_6 => rfl
  all_goals simp_all

/-- COUNTER assigns fn10 0 to 4 (Table 10.4). -/
theorem decodeCounter_reserved (hf : 5 ≤ (fFn10 w).toNat) : decodeCounter h w = .reserved := by
  unfold decodeCounter
  split
  case h_6 => rfl
  all_goals simp_all

end

/-- Settles O59: a reserved function is ILLEGAL by `issue_illegal`, a reserved encoding by `issue_reserved`. -/
theorem reservedEncodings : Obligations.ReservedEncodings := by
  unfold Obligations.ReservedEncodings
  refine ⟨?functions, ?encodings, ?majors, fun h => rfl, ?cores, ?benches⟩
  case functions =>
    intro h fn rd rs1 rs2 s hr
    have hbits : Ready h [rd, rs1] s := ready_mono hr (by simp)
    refine ⟨fun hfn hf => ?op, fun hfn hf => ?op32, fun hfn hf => ?bits, fun hrs hf => ?bitsRs2, fun hfn hf => ?muldiv⟩
    case op => exact issue_illegal hr rfl hf 0 (by simp [bodyOp, opFn_reserved hfn, writeOr])
    case op32 => exact issue_illegal hr rfl hf 0 (by simp [bodyOp32, op32Fn_reserved hfn, writeOr])
    case bits => exact issue_illegal hbits rfl hf 0 (by simp [bodyBits, bitsFn_reserved hfn, writeOr])
    case bitsRs2 => exact issue_illegal hbits rfl hf 0 (if_pos hrs)
    case muldiv => exact issue_illegal hr rfl hf 0 (by simp [bodyMuldiv, muldivFn_reserved hfn, writeOr])
  case encodings =>
    intro h a b fn rd rs1 rs2 s hr hf hres
    exact issue_reserved hr hf hres 0 _
  case majors =>
    intro h w hw
    dsimp only
    rw [decode32_long hw, ← fMajor_toNat, ← fFn3_toNat, ← fFn10_toNat]
    exact ⟨decodeMajor_reserved, fun hm hf => decodeMajor_sys hm ▸ decodeSys_reserved hf,
      fun hm hf => decodeMajor_counter hm ▸ decodeCounter_reserved hf⟩
  case cores =>
    intro h fn rd rs1 rs2 s hc
    exact ⟨issue_noCore hc 0 _, issue_noCore hc 0 _, issue_noCore hc 0 _, issue_noCore hc 3 _⟩
  case benches => exact fun n s hn =>
    ⟨onBench_none (fun s n => benchGate n s) s hn, onBench_none (fun s n => if held s n then s else retentionExit s n) s hn⟩

end Sys2Proof.Machine
end

section
/-!
PROOFS. Writes at the homes: what a write to HBM or to a local store changes beside its bytes, and what every byte reads as after it
(R178, R179, R223, R300).
-/
namespace Sys2Proof.Machine

/-! ### Lists of bytes -/

theorem offsets_concat (bs : List Byte) (b : Byte) : offsets (bs ++ [b]) = offsets bs ++ [(bs.length, b)] := by
  rw [offsets, offsets, List.length_append, List.length_singleton, List.range_succ, List.zip_append (by simp)]
  rfl

@[simp] theorem leBytes_length (n v : Nat) : (leBytes n v).length = n := by
  induction n generalizing v with
  | zero => rfl
  | succ n ih => rw [leBytes, List.length_cons, ih]

theorem leBytes_getD {n i : Nat} (v : Nat) (hi : i < n) : (leBytes n v).getD i 0 = byteOf v i := by
  induction n generalizing v i with
  | zero => omega
  | succ n ih =>
    cases i with
    | zero => simp [leBytes, byteOf]
    | succ i =>
      rw [leBytes, List.getD_cons_succ, ih _ (by omega), byteOf, byteOf, Nat.div_div_eq_div_mul, pow_succ']

theorem leBytes_eq_map (n v : Nat) : leBytes n v = (List.range n).map (byteOf v) := by
  refine List.ext_getElem (by simp) fun i hi _ => ?_
  have hget := leBytes_getD v (show i < n by simpa using hi)
  rw [List.getD_eq_getElem _ _ hi] at hget
  simpa using hget

section
variable {s : State} {m : Tbl Byte} {key : Nat → Nat} {q : Nat}

/-! ### Writing a list of bytes into a memory -/

/-- A memory after bytes are written at the addresses `key 0`, `key 1` and so on. -/
def putBytes (key : Nat → Nat) (bs : List Byte) (m : Tbl Byte) : Tbl Byte := (offsets bs).foldl (fun m (p : Nat × Byte) => memPut m (key p.1) p.2) m

theorem putBytes_concat (bs : List Byte) (b : Byte) : putBytes key (bs ++ [b]) m = memPut (putBytes key bs m) (key bs.length) b := by
  rw [putBytes, offsets_concat, List.foldl_append]
  rfl

theorem putBytes_memWf (bs : List Byte) (hm : memWf m = true) : memWf (putBytes key bs m) = true := memWf_puts key (offsets bs) m hm

/-- An address that is none of those written reads as before. -/
theorem memGet_putBytes_ne {bs : List Byte} (hq : ∀ i, i < bs.length → q ≠ key i) : memGet (putBytes key bs m) q = memGet m q := by
  induction bs using List.reverseRecOn with
  | nil => rfl
  | append_singleton bs b ih =>
    rw [putBytes_concat, memGet_memPut_ne _ _ (hq bs.length (by simp))]
    exact ih fun i hi => hq i (by simp; omega)

/-- The addresses written read as the bytes written there, where no two are the same. -/
theorem memGet_putBytes {bs : List Byte} {i : Nat} (hm : memWf m = true) (hi : i < bs.length)
    (hkey : ∀ i j, i < bs.length → j < bs.length → key i = key j → i = j) : memGet (putBytes key bs m) (key i) = bs.getD i 0 := by
  induction bs using List.reverseRecOn with
  | nil => simp at hi
  | append_singleton bs b ih =>
    simp only [List.length_append, List.length_singleton] at hi hkey
    rw [putBytes_concat]
    by_cases hlast : i = bs.length
    · rw [hlast, memGet_memPut_self _ _ _ (putBytes_memWf bs hm)]
      simp
    · have hib : i < bs.length := by omega
      rw [memGet_memPut_ne _ _ fun e => hlast (hkey i bs.length hi (by omega) e),
        ih hib fun i j hi hj => hkey i j (by omega) (by omega), List.getD_append _ _ _ _ hib]

/-! ### Breaking watches -/

theorem foldl_addAbort_shape {α : Type} (f : α → Nat) (g : α → AbortCause) (l : List α) (s : State) :
    ∃ ts, l.foldl (fun s w => addAbort s (f w) (g w)) s = { s with threads := ts } := by
  induction l generalizing s with
  | nil => exact ⟨s.threads, rfl⟩
  | cons w l ih =>
    have hone : ∃ ts, addAbort s (f w) (g w) = { s with threads := ts } := by
      unfold addAbort
      split
      · exact ⟨_, rfl⟩
      · exact ⟨s.threads, rfl⟩
    obtain ⟨ts, hts⟩ := hone
    obtain ⟨ts', hts'⟩ := ih (addAbort s (f w) (g w))
    exact ⟨ts', by rw [List.foldl_cons, hts', hts]⟩

/-- Breaking watches changes watches and abort notices (R223). -/
theorem breakWatches_shape (s : State) (h : HomeId) (line : Nat) (by_ : Option Nat) :
    ∃ ts ws, breakWatches s h line by_ = { s with threads := ts, watches := ws } := by
  obtain ⟨ts, hts⟩ := foldl_addAbort_shape (fun w : Watch => w.thr) (fun _ => { code := 1, detail := 1, node := homeNode h })
    (s.watches.filter fun w => w.home == h && w.line == line && !w.broken && some w.thr != by_)
    { s with watches := s.watches.map fun w => if w.home == h && w.line == line && some w.thr != by_ then { w with broken := true } else w }
  exact ⟨ts, _, hts⟩

/-- Dropping a range's translations changes the translation units, watches and abort notices (R32, R223). -/
theorem dropRange_shape (s : State) (ctx lo len : Nat) :
    ∃ ts ws, dropRange s ctx lo len =
      { s with threads := ts
               watches := ws
               benches := s.benches.map fun e => (e.1, { e.2 with tu := e.2.tu.filter fun t =>
                 !(t.ctx == ctx && (decide (t.vpage * 2 ^ t.log2 < lo + len) && decide (lo < t.vpage * 2 ^ t.log2 + 2 ^ t.log2))) }) } := by
  unfold dropRange
  obtain ⟨ts, hts⟩ := foldl_addAbort_shape (fun w : Watch => w.thr) (fun w => { code := 1, detail := 1, node := homeNode w.home }) _ _
  exact ⟨ts, _, hts⟩

/-! ### A write to HBM -/

/-- A write to HBM changes HBM, watches and abort notices. -/
theorem homeWrite_hbm_shape (s : State) (a : Nat) (bytes : List (Nat × Byte)) (psn : Bool) (by_ : Option Nat) :
    ∃ ts ws m ps, homeWrite s (.hbm a) bytes psn by_ = { s with threads := ts, watches := ws, hbm := m, hbmPoison := ps } := by
  obtain ⟨ts, ws, hbw⟩ := breakWatches_shape s (.hbm (BitVec.ofNat 4 (stackOf s a))) (a / 64) by_
  simp only [homeWrite, hbw, hbmWrite]
  split
  · exact ⟨ts, ws, s.hbm, s.hbmPoison, rfl⟩
  · split
    · exact ⟨ts, ws, _, _, rfl⟩
    · split
      · exact ⟨ts, ws, _, _, rfl⟩
      · exact ⟨ts, ws, _, s.hbmPoison, rfl⟩

theorem homeWrite_hbm_bytes {a : Nat} (bs : List Byte) (psn : Bool) (by_ : Option Nat) (hw : withdrawn s a = false) :
    (homeWrite s (.hbm a) (offsets bs) psn by_).hbm = putBytes (fun i => hbmLoc s (a + i)) bs s.hbm := by
  obtain ⟨ts, ws, hbw⟩ := breakWatches_shape s (.hbm (BitVec.ofNat 4 (stackOf s a))) (a / 64) by_
  have hw' : withdrawn { s with threads := ts, watches := ws } a = false := hw
  simp only [homeWrite, hbw, hbmWrite, hw', Bool.false_eq_true, if_false]
  split
  · rfl
  · split <;> rfl

theorem hbmByte_congr {t : State} (hm : t.hbm = s.hbm) (hd : t.dev = s.dev) (a : Nat) : hbmByte t a = hbmByte s a := by
  rw [hbmByte, hbmByte, hbmLoc, hbmLoc, hm, hd]

/-- Every byte of HBM after a write to a page that is not withdrawn. -/
theorem hbmByte_homeWrite {a : Nat} {bs : List Byte} (psn : Bool) (by_ : Option Nat) (hw : withdrawn s a = false) (hm : memWf s.hbm = true)
    (hlen : a + bs.length ≤ 2 ^ 40) (hq : q < 2 ^ 40) :
    hbmByte (homeWrite s (.hbm a) (offsets bs) psn by_) q = if a ≤ q ∧ q < a + bs.length then bs.getD (q - a) 0 else hbmByte s q := by
  have hbytes := homeWrite_hbm_bytes bs psn by_ hw
  obtain ⟨ts, ws, m, ps, hshape⟩ := homeWrite_hbm_shape s a (offsets bs) psn by_
  rw [hshape] at hbytes ⊢
  have hloc : hbmLoc { s with threads := ts, watches := ws, hbm := m, hbmPoison := ps } q = hbmLoc s q := rfl
  rw [hbmByte, hloc, show m = _ from hbytes]
  have hinj : ∀ i j, i < bs.length → j < bs.length → hbmLoc s (a + i) = hbmLoc s (a + j) → i = j := fun i j hi hj e => by
    have := hbmLoc_inj (show a + i < 2 ^ 40 by omega) (show a + j < 2 ^ 40 by omega) e
    omega
  split
  · next hin =>
    have hget := memGet_putBytes (key := fun i => hbmLoc s (a + i)) (i := q - a) hm (by omega) hinj
    rwa [show a + (q - a) = q by omega] at hget
  · next hout =>
    refine memGet_putBytes_ne (key := fun i => hbmLoc s (a + i)) fun i hi e => hout ?_
    have := hbmLoc_inj hq (show a + i < 2 ^ 40 by omega) e
    omega

/-- A write of poisoned data marks its line (R301). -/
theorem homePoison_homeWrite {a : Nat} (bytes : List (Nat × Byte)) (by_ : Option Nat) (hw : withdrawn s a = false) :
    homePoison (homeWrite s (.hbm a) bytes true by_) (.hbm a) = true := by
  obtain ⟨ts, ws, hbw⟩ := breakWatches_shape s (.hbm (BitVec.ofNat 4 (stackOf s a))) (a / 64) by_
  have hw' : withdrawn { s with threads := ts, watches := ws } a = false := hw
  simp only [homeWrite, hbw, hbmWrite, hw', Bool.false_eq_true, if_false, if_true, homePoison]
  rw [Bool.or_eq_true]
  exact .inl (NSet.has_add_self _ _)

/-! ### Memory and messages -/

theorem sameMemory_trans {t u : State} (hst : SameMemory s t) (htu : SameMemory t u) : SameMemory s u := by
  obtain ⟨h1, h2, h3⟩ := hst
  obtain ⟨h4, h5, h6⟩ := htu
  exact ⟨fun a => (h4 a).trans (h1 a), fun c o => (h5 c o).trans (h2 c o), fun a => (h6 a).trans (h3 a)⟩

theorem sendMsg_sameMemory (s : State) (cls src dst : Nat) (pay : Payload) : SameMemory s (sendMsg s cls src dst pay) :=
  sameMemory_of_eq rfl rfl rfl rfl rfl

theorem lastSent_sendMsg (s : State) (cls src dst : Nat) (pay : Payload) : LastSent (sendMsg s cls src dst pay) cls src dst pay :=
  ⟨_, List.getLast?_concat, rfl, rfl, rfl, rfl, rfl⟩

theorem lastSent_of_mesh {t : State} {cls src dst : Nat} {pay : Payload} (hmesh : t.mesh = s.mesh) (h : LastSent s cls src dst pay) :
    LastSent t cls src dst pay := by
  rw [LastSent, hmesh]
  exact h

/-! ### One line of a span -/

/-- A span within one line is one piece. -/
theorem pieces_one {a len : Nat} (h0 : 0 < len) (hline : a % 64 + len ≤ 64) : pieces a len = [(0, len)] := by
  have hn : (a % 64 + len + 63) / 64 = 1 := by omega
  have hmin : min len (64 - a % 64) = len := by omega
  have hin : a % 64 < 64 := by omega
  simp [pieces, hn, hmin, h0, hin]

/-- The first piece of a span begins where the span does. -/
theorem pieces_cons {a len : Nat} (h0 : 0 < len) : ∃ n rest, pieces a len = (0, n) :: rest := by
  have hn : (a % 64 + len + 63) / 64 = (a % 64 + len + 63) / 64 - 1 + 1 := by omega
  rw [pieces, hn, List.range_succ_eq_map, List.filterMap_cons]
  have hmin : 0 < min len (64 - a % 64) := by omega
  simp [hmin]

end

end Sys2Proof.Machine
end

section
/-!
PROOFS. What a host reaches through BAR2 (R195, R309, R313, R315): a span of one line of a PF's aperture, read, written or changed by an
AtomicOp.
-/
namespace Sys2Proof.Machine

section
variable {s : State} {p off a len : Nat} {acc : Acc} {ext : Ext}

/-! ### The aperture -/

/-- The host reaches PF 0 of a port, whose function and quadrant answer. -/
structure PfOpen (s : State) (p : Nat) : Prop where
  reaches : hostReaches s p = true
  fabric : fabricUp s = true
  awake : held s (portNode p) = false
  d0 : inD3 s p 0 = false

theorem PfOpen.guard (ho : PfOpen s p) : (!hostReaches s p || !fabricUp s || held s (portNode p)) = false := by
  simp [ho.reaches, ho.fabric, ho.awake]

theorem fabricUp_of_power (h : s.dev.power = .active ∨ s.dev.power = .idle) : fabricUp s = true := by
  rcases h with h | h <;> simp [fabricUp, h]

/-- The device address of an offset in a PF's BAR2 (R313). -/
def pfAddr (s : State) (p off : Nat) : Nat := (port s p).aperture.toNat / 64 * 2 ^ 36 + off

/-- An offset of BAR2 that HBM outside the firmware reserve stands behind. -/
def PfBacked (s : State) (p off : Nat) : Prop := off < 2 ^ 36 ∧ pfAddr s p off < 0xFFC0000000

theorem apertureAddr_eq (s : State) (p off : Nat) : apertureAddr s p off = pfAddr s p off := by
  have := (port s p).aperture.isLt
  simp only [apertureAddr, pfAddr, pfBar2]
  omega

theorem bar2At_backed (hlive : (port s p).apertureDead = false) (hb : PfBacked s p off) (acc : Acc) :
    bar2At s p 0 off acc = some { tgt := .hbm (pfAddr s p off), nc := true, page := none } := by
  obtain ⟨hoff, ha⟩ := hb
  have hout : ¬ pfBar2 ≤ off := by simp only [pfBar2]; omega
  simp [bar2At, hlive, hout, apertureAddr_eq, reserveBase, ha]

theorem bar2At_unbacked (hb : ¬ PfBacked s p off) (acc : Acc) : bar2At s p 0 off acc = none := by
  by_cases hoff : pfBar2 ≤ off
  · simp [bar2At, hoff]
  · have ha : ¬ pfAddr s p off < reserveBase := fun ha => hb ⟨by simp only [pfBar2] at hoff; omega, ha⟩
    simp [bar2At, apertureAddr_eq, ha]

/-- A span within a line of the aperture is within a line of HBM, below the end of the device's own. -/
theorem pfAddr_line (hb : PfBacked s p off) (hline : off % 64 + len ≤ 64) : pfAddr s p off + len ≤ 2 ^ 40 := by
  obtain ⟨-, ha⟩ := hb
  have hmod : pfAddr s p off % 64 = off % 64 := by simp only [pfAddr]; omega
  omega

/-- No write through BAR2 is on its way, no commit holds the line and the home's quadrant runs (R45, R195, R228). -/
structure LineFree (s : State) (p a : Nat) : Prop where
  pending : bar2Pending s p = false
  unlocked : lineLocked s (.hbm a) = false
  awake : homeHeld s (.hbm a) = false

/-! ### Answers -/

@[simp] theorem answerHost_answer (s : State) (p status : Nat) (bytes : List Byte) : (port (answerHost s p status bytes) p).answer = bytes := by
  simp [answerHost]

@[simp] theorem answerHost_status (s : State) (p status : Nat) (bytes : List Byte) : (port (answerHost s p status bytes) p).answerStatus = status := by
  simp [answerHost]

theorem answerHost_sameMemory (s : State) (p status : Nat) (bytes : List Byte) : SameMemory s (answerHost s p status bytes) :=
  sameMemory_of_eq rfl rfl rfl rfl rfl

theorem logAer_sameMemory (s : State) (p code : Nat) : SameMemory s (logAer s p code) := sameMemory_of_eq rfl rfl rfl rfl rfl

theorem hbmByte_answerHost (s : State) (p status : Nat) (bytes : List Byte) (q : Nat) : hbmByte (answerHost s p status bytes) q = hbmByte s q := rfl

/-- A write with EP = 1 is logged as a Poisoned TLP Received (R319). -/
def logPoisoned (s : State) (p : Nat) (ep : Bool) : State := if ep then logAer s p 3 else s

theorem logPoisoned_sameMemory (s : State) (p : Nat) (ep : Bool) : SameMemory s (logPoisoned s p ep) := by
  cases ep <;> exact sameMemory_of_eq rfl rfl rfl rfl rfl

theorem hbmByte_logPoisoned (s : State) (p : Nat) (ep : Bool) (q : Nat) : hbmByte (logPoisoned s p ep) q = hbmByte s q := by cases ep <;> rfl

theorem homePoison_logPoisoned (s : State) (p : Nat) (ep : Bool) (t : Target) : homePoison (logPoisoned s p ep) t = homePoison s t := by cases ep <;> rfl

theorem logPoisoned_ls (s : State) (p : Nat) (ep : Bool) : (logPoisoned s p ep).ls = s.ls := by cases ep <;> rfl

theorem logPoisoned_mesh (s : State) (p : Nat) (ep : Bool) : (logPoisoned s p ep).mesh = s.mesh := by cases ep <;> rfl

/-! ### Reads -/

theorem readPiece_hbm {x : Xlat} (hx : x.tgt = .hbm a) (hlock : lineLocked s (.hbm a) = false) (hheld : homeHeld s (.hbm a) = false) (n : Nat) (e : Ext) :
    readPiece s x n e = .ok (homeRead s (.hbm a) n) (homePoison s (.hbm a)) (holderOf (.hbm a)) s e := by
  simp [readPiece, hx, hlock, hheld]

/-- A read within one line of HBM is answered with its bytes, and with EP where the line is poisoned. -/
theorem bar2Read_line (ho : PfOpen s p) (hlive : (port s p).apertureDead = false) (hb : PfBacked s p off) (h0 : 0 < len)
    (hline : off % 64 + len ≤ 64) (hf : LineFree s p (pfAddr s p off)) :
    bar2Read p 0 off len ext s = answerHost s p (if homePoison s (.hbm (pfAddr s p off)) then 4 else 0) (homeRead s (.hbm (pfAddr s p off)) len) := by
  have hread := readPiece_hbm (x := { tgt := .hbm (pfAddr s p off), nc := true, page := none }) rfl hf.unlocked hf.awake len ext
  have hlines : bar2Lines s p 0 off (pieces off len) ext [] false =
      some (.ok (homeRead s (.hbm (pfAddr s p off)) len) (homePoison s (.hbm (pfAddr s p off))) s ext) := by
    rw [pieces_one h0 hline, bar2Lines, Nat.add_zero, bar2At_backed hlive hb]
    simp only [hread, bar2Lines, List.nil_append, Bool.false_or]
  rw [bar2Read, ho.guard, ho.d0, hf.pending, hlines]
  rfl

/-- A read that begins where nothing stands is a Completer Abort. -/
theorem bar2Read_unbacked (ho : PfOpen s p) (hpend : bar2Pending s p = false) (hb : ¬ PfBacked s p off) (h0 : 0 < len) :
    bar2Read p 0 off len ext s = completerAbort s p := by
  obtain ⟨n, rest, hp⟩ := pieces_cons (a := off) h0
  have hlines : bar2Lines s p 0 off (pieces off len) ext [] false = none := by
    rw [hp, bar2Lines, Nat.add_zero, bar2At_unbacked hb]
  rw [bar2Read, ho.guard, ho.d0, hpend, hlines]
  rfl

/-! ### Writes -/

section
variable {data : List Byte} {ep : Bool}

theorem bar2Targets_line (hlive : (port s p).apertureDead = false) (hb : PfBacked s p off) (h0 : 0 < data.length) (hline : off % 64 + data.length ≤ 64) :
    bar2Targets s p 0 off data (pieces off data.length) = some [({ tgt := .hbm (pfAddr s p off), nc := true, page := none }, data)] := by
  rw [pieces_one h0 hline, bar2Targets, bar2Targets, Nat.add_zero, bar2At_backed hlive hb, List.drop_zero, List.take_length]

theorem bar2Targets_unbacked (hb : ¬ PfBacked s p off) (h0 : 0 < data.length) : bar2Targets s p 0 off data (pieces off data.length) = none := by
  obtain ⟨n, rest, hp⟩ := pieces_cons (a := off) h0
  rw [hp, bar2Targets, Nat.add_zero, bar2At_unbacked hb]

theorem bar2Write_targets {ls : List (Xlat × List Byte)} (ho : PfOpen s p) (hls : bar2Targets s p 0 off data (pieces off data.length) = some ls) :
    bar2Write p 0 off data ep s =
      logPoisoned (ls.foldl (bar2Line p ep (!bar2Pending s p && ls.all fun l => bar2Now s l.1)) s) p ep := by
  rw [bar2Write, ho.guard, hls, ho.d0]
  rfl

theorem bar2Now_iff {x : Xlat} (hx : x.tgt = .hbm a) : (!bar2Pending s p && [(x, data)].all fun l => bar2Now s l.1) = true ↔ LineFree s p a := by
  simp only [List.all_cons, List.all_nil, bar2Now, hx, Bool.and_eq_true, Bool.not_eq_true', Bool.and_true]
  exact ⟨fun ⟨hp, hl, hh⟩ => ⟨hp, hl, hh⟩, fun ⟨hp, hl, hh⟩ => ⟨hp, hl, hh⟩⟩

theorem bar2Line_now (ls : Xlat × List Byte) : bar2Line p ep true s ls = homeWrite s ls.1.tgt (offsets ls.2) ep none := if_pos rfl

theorem bar2Line_later (ls : Xlat × List Byte) :
    bar2Line p ep false s ls = sendMsg s 3 (portNode p) (targetNode s ls.1.tgt) (.write ls.1.tgt (offsets ls.2) ep (.bar2 p)) := if_neg nofun

/-- A write within one line that nothing holds up is performed at its home. -/
theorem bar2Write_now (ho : PfOpen s p) (hlive : (port s p).apertureDead = false) (hb : PfBacked s p off) (h0 : 0 < data.length)
    (hline : off % 64 + data.length ≤ 64) (hf : LineFree s p (pfAddr s p off)) :
    bar2Write p 0 off data ep s =
      logPoisoned (homeWrite s (.hbm (pfAddr s p off)) (offsets data) ep none) p ep := by
  have hnow := (bar2Now_iff (x := { tgt := .hbm (pfAddr s p off), nc := true, page := none }) (data := data) rfl).mpr hf
  rw [bar2Write_targets ho (bar2Targets_line hlive hb h0 hline), hnow, List.foldl_cons, List.foldl_nil, bar2Line_now]

/-- Any other goes to its home as a message (R195). -/
theorem bar2Write_sends (ho : PfOpen s p) (hlive : (port s p).apertureDead = false) (hb : PfBacked s p off) (h0 : 0 < data.length)
    (hline : off % 64 + data.length ≤ 64) (hf : ¬ LineFree s p (pfAddr s p off)) :
    bar2Write p 0 off data ep s =
      logPoisoned (sendMsg s 3 (portNode p) (targetNode s (.hbm (pfAddr s p off)))
        (.write (.hbm (pfAddr s p off)) (offsets data) ep (.bar2 p))) p ep := by
  have hnow := Bool.eq_false_iff.mpr fun h =>
    hf ((bar2Now_iff (x := { tgt := .hbm (pfAddr s p off), nc := true, page := none }) (data := data) rfl).mp h)
  rw [bar2Write_targets ho (bar2Targets_line hlive hb h0 hline), hnow, List.foldl_cons, List.foldl_nil, bar2Line_later]

/-- A write that begins where nothing stands is discarded and logged. -/
theorem bar2Write_unbacked (ho : PfOpen s p) (hb : ¬ PfBacked s p off) (h0 : 0 < data.length) : bar2Write p 0 off data ep s = logAer s p 2 := by
  rw [bar2Write, ho.guard, ho.d0, bar2Targets_unbacked hb h0]
  rfl

end

/-! ### AtomicOps -/

theorem byteOf_mod {n i : Nat} (v : Nat) (hi : i < n) : byteOf (v % 2 ^ (8 * n)) i = byteOf v i := by
  refine BitVec.eq_of_toNat_eq ?_
  have hpow : 2 ^ (8 * n) = 256 ^ i * (256 * 256 ^ (n - i - 1)) := by
    rw [← pow_succ', ← pow_add, show i + (n - i - 1 + 1) = n by omega, pow_mul]
    rfl
  simp only [byteOf, BitVec.toNat_ofNat, hpow]
  rw [Nat.mod_mul_right_div_self, show (2 : Nat) ^ 8 = 256 by rfl, Nat.mod_mul_right_mod]

/-- The value that a PCIe AtomicOp leaves (Table 16.1): `old` and `v` are `n` bytes wide. -/
def pcieNew (op : PcieAtomic) (old v : Nat) (compare : W64) : Nat :=
  match op with | .fetchAdd => old + v | .swap => v | .cas => if old = compare.toNat then v else old

theorem byteOf_atomicNew {op : PcieAtomic} {n i old : Nat} {operand compare : W64} (hcas : op = .cas → n = 8) (hi : i < n) :
    byteOf (atomicNew (pcieAtomicCode op) n old operand compare) i = byteOf (pcieNew op old (operand.toNat % 2 ^ (8 * n)) compare) i := by
  cases op with
  | fetchAdd => exact byteOf_mod _ hi
  | swap => rfl
  | cas =>
    have hcmp : compare.toNat % 2 ^ (8 * n) = compare.toNat := by
      rw [hcas rfl]
      exact Nat.mod_eq_of_lt compare.isLt
    simp only [pcieAtomicCode, atomicNew, pcieNew, hcmp]

theorem atomicop_line {op : PcieAtomic} {n : Nat} {operand compare : W64} (ho : PfOpen s p) (hlive : (port s p).apertureDead = false)
    (hb : PfBacked s p off) (hn : n = 4 ∨ n = 8) (hcas : op = .cas → n = 8) (halign : off % n = 0) (hf : LineFree s p (pfAddr s p off))
    (hpsn : homePoison s (.hbm (pfAddr s p off)) = false) :
    atomicop p 0 off op (8 * n) operand compare s =
      let t := Target.hbm (pfAddr s p off)
      answerHost (homeWrite s t (offsets (leBytes n (atomicNew (pcieAtomicCode op) n (leNat (homeRead s t n)) operand compare))) false none)
        p 0 (homeRead s t n) := by
  have hok : pcieAtomicOk op (8 * n) = true := by
    cases op with
    | cas => simp [pcieAtomicOk, hcas rfl]
    | fetchAdd => rcases hn with rfl | rfl <;> rfl
    | swap => rcases hn with rfl | rfl <;> rfl
  have hdiv : 8 * n / 8 = n := by omega
  simp [atomicop, ho.reaches, ho.fabric, ho.awake, ho.d0, hf.pending, hf.unlocked, hf.awake, hok, hdiv, halign, bar2At_backed hlive hb, hpsn]

/-- Every byte of HBM after the store of an AtomicOp. -/
theorem hbmByte_atomic {op : PcieAtomic} {n old q : Nat} {operand compare : W64} (hcas : op = .cas → n = 8) (hw : withdrawn s a = false)
    (hm : memWf s.hbm = true) (hlen : a + n ≤ 2 ^ 40) (hq : q < 2 ^ 40) :
    hbmByte (homeWrite s (.hbm a) (offsets (leBytes n (atomicNew (pcieAtomicCode op) n old operand compare))) false none) q =
      if a ≤ q ∧ q < a + n then byteOf (pcieNew op old (operand.toNat % 2 ^ (8 * n)) compare) (q - a) else hbmByte s q := by
  rw [hbmByte_homeWrite false none hw hm (by rwa [leBytes_length]) hq, leBytes_length]
  split
  · rw [leBytes_getD _ (by omega), byteOf_atomicNew hcas (by omega)]
  · rfl

/-- A CAS of another width than 64 bits is unsupported. -/
theorem atomicop_cas_width {n : Nat} {operand compare : W64} (ho : PfOpen s p) (hpend : bar2Pending s p = false) (hn : n ≠ 8) :
    atomicop p 0 off .cas (8 * n) operand compare s = unsupported s p := by
  have hok : pcieAtomicOk .cas (8 * n) = false := by
    simp only [pcieAtomicOk, beq_eq_false_iff_ne]
    omega
  simp [atomicop, ho.reaches, ho.fabric, ho.awake, ho.d0, hpend, hok]

end

/-- What a PF's BAR2 reaches: each clause is the line's own lemma above. -/
theorem bar2 : Claims.Bar2 := by
  unfold Claims.Bar2
  intro port_ off ext s hreach hpower hheld hd3 hlive p a
  have ho : PfOpen s p := ⟨hreach, fabricUp_of_power hpower, hheld, hd3⟩
  have ha : a = pfAddr s p off.toNat := rfl
  clear_value a
  subst ha
  refine ⟨?read, ?readNone, ?write, ?writeWaits, ?writeNone, ?atomic, ?casWidth⟩
  case read =>
    rintro len hb h0 hline ⟨hpend, hlock, hhome⟩
    exact ⟨_, congrArg Host.Outcome.next (bar2Read_line ho hlive hb h0 hline ⟨hpend, hlock, hhome⟩), answerHost_sameMemory .., answerHost_answer ..,
      answerHost_status ..⟩
  case readNone =>
    intro len hb h0 hpend
    refine ⟨_, congrArg Host.Outcome.next (bar2Read_unbacked ho hpend hb h0), ⟨?_, ?_⟩, ?_, sameMemory_of_eq rfl rfl rfl rfl rfl⟩ <;>
      simp [p, completerAbort, logAer, answerHost]
  case write =>
    rintro data ep hb h0 hline ⟨hpend, hlock, hhome⟩ hw hm
    obtain ⟨ts, ws, m, ps, hshape⟩ := homeWrite_hbm_shape s (pfAddr s p off.toNat) (offsets data) ep none
    refine ⟨_, congrArg Host.Outcome.next (bar2Write_now ho hlive hb h0 hline ⟨hpend, hlock, hhome⟩), ?_, ?_, fun q hq => ?_⟩
    · rw [logPoisoned_ls, hshape]
    · rintro rfl
      rw [homePoison_logPoisoned, homePoison_homeWrite _ _ hw]
    · rw [hbmByte_logPoisoned, hbmByte_homeWrite ep none hw hm (pfAddr_line hb hline) hq]
  case writeWaits =>
    intro data ep hb h0 hline hfree
    refine ⟨_, congrArg Host.Outcome.next (bar2Write_sends ho hlive hb h0 hline fun h => hfree ⟨h.pending, h.unlocked, h.awake⟩), ?_, ?_⟩
    · exact sameMemory_trans (sendMsg_sameMemory ..) (logPoisoned_sameMemory ..)
    · exact lastSent_of_mesh (logPoisoned_mesh ..) (lastSent_sendMsg ..)
  case writeNone =>
    intro data ep hb h0
    exact ⟨_, congrArg Host.Outcome.next (bar2Write_unbacked ho hb h0), by rw [logAer, port_modPort_self], logAer_sameMemory ..⟩
  case atomic =>
    rintro op n operand compare hb hn hcas halign ⟨hpend, hlock, hhome⟩ hpsn hm
    have hw : withdrawn s (pfAddr s p off.toNat) = false := (Bool.or_eq_false_iff.mp hpsn).2
    have hline : off.toNat % 64 + n ≤ 64 := by rcases hn with rfl | rfl <;> omega
    refine ⟨_, congrArg Host.Outcome.next (atomicop_line ho hlive hb hn hcas halign ⟨hpend, hlock, hhome⟩ hpsn),
      ⟨answerHost_answer .., answerHost_status ..⟩, fun q hq => ?_⟩
    rw [hbmByte_answerHost, hbmByte_atomic hcas hw hm (pfAddr_line hb hline) hq]
    rfl
  case casWidth =>
    intro n operand compare hn hpend
    refine ⟨_, congrArg Host.Outcome.next (atomicop_cas_width ho hpend hn), ?_, sameMemory_of_eq rfl rfl rfl rfl rfl⟩
    constructor <;> simp [p, unsupported, logAer, answerHost]

end Sys2Proof.Machine
end

section
/-!
PROOFS. The registers that a host reaches at a port (R306, R313, R316, R319, R440, R441), and the host's answers to translation requests (R34,
R35).
-/
namespace Sys2Proof.Machine

section
variable {s : State} {p fn off : Nat}

/-! ### The Front Window (R316) -/

/-- A word of the Front Window is answered whole. -/
theorem frontWindowRead_word (hreach : hostReaches s p = true) (hd0 : inD3 s p fn = false) (halign : off % 8 = 0) :
    frontWindowRead p fn off 8 s = answerHost s p 0 ((List.range 8).map (byteOf (frontWord s p fn off))) := by
  have hoff : off / 8 * 8 = off := by omega
  simp [frontWindowRead, hreach, hd0, halign, hoff, leBytes_eq_map]

theorem frontWindowRead_width (hreach : hostReaches s p = true) (hd0 : inD3 s p fn = false) : frontWindowRead p fn off 3 s = completerAbort s p := by
  simp [frontWindowRead, hreach, hd0]

theorem frontWord_ring (i : Nat) (hi : i < 16) (hfn : fn = 0 ∨ i < 4) :
    frontWord s p fn (0x040 + 8 * i) = (ring s (p * 512 + fn * 16 + i)).head.toNat := by
  have hidx : (0x040 + 8 * i - 0x040) / 8 = i := by omega
  have hring : hasRing (p * 512 + fn * 16 + i) = true := by
    simp only [hasRing, Bool.or_eq_true, beq_iff_eq, decide_eq_true_eq]
    omega
  have h0 : ¬ 0x040 + 8 * i = 0 := by omega
  have h8 : ¬ 0x040 + 8 * i = 8 := by omega
  have h16 : ¬ 0x040 + 8 * i = 16 := by omega
  have h24 : ¬ 0x040 + 8 * i = 24 := by omega
  have h32 : ¬ 0x040 + 8 * i = 32 := by omega
  have h40 : ¬ 0x040 + 8 * i = 40 := by omega
  have hin : 0x040 ≤ 0x040 + 8 * i ∧ 0x040 + 8 * i < 0x0C0 := by omega
  simp only [frontWord, h0, h8, h16, h24, h32, h40, if_false, hin, and_self, if_true, hidx, hring]

theorem frontWindow (port_ : BitVec 1) (fn : BitVec 5) (s : State) (hreach : hostReaches s port_.toNat = true) (hd0 : inD3 s port_.toNat fn.toNat = false)
    {off v : Nat} (hlt : off < 4096) (halign : off % 8 = 0) (hword : frontWord s port_.toNat fn.toNat off = v) :
    ∃ t, exec (.frontWindowRead port_ fn (BitVec.ofNat 12 off) 8) s = .next t ∧ (port t port_.toNat).answer = (List.range 8).map (byteOf v) ∧
      (port t port_.toNat).answerStatus = 0 ∧ SameMemory s t := by
  have hoff : (BitVec.ofNat 12 off).toNat = off := by rw [BitVec.toNat_ofNat]; omega
  have hread := frontWindowRead_word hreach hd0 halign
  rw [hword, ← hoff] at hread
  exact ⟨_, congrArg Host.Outcome.next hread, answerHost_answer .., answerHost_status .., answerHost_sameMemory ..⟩

/-! ### The node aperture (R441) -/

theorem clearRegister_errFlags (s : State) (n : Nat) (v : W64) :
    clearRegister s n 0 0x10 0 8 v = some (modNode s n fun x => { x with errFlags := x.errFlags &&& ~~~ (v.setWidth 4) }) := by
  simp [clearRegister, clearMask, rw1c]

/-- The primary port's PF clears the RW1C bits of the node that NODESEL names. -/
theorem apertureWrite_clears {v : W64} (hw : pfWritable s p = true) (hheld : held s (port s p).nodesel.toNat = false) (hprim : s.dev.primary = p) :
    apertureWrite p 0x10 8 v s =
      modNode s (port s p).nodesel.toNat fun x => { x with errFlags := x.errFlags &&& ~~~ (v.setWidth 4) } := by
  simp [apertureWrite, hw, hheld, hprim, regSize, clearRegister_errFlags]

/-- Another port's write is denied, in the node's flags and the port's. -/
theorem apertureWrite_denied {v : W64} (hw : pfWritable s p = true) (hheld : held s (port s p).nodesel.toNat = false) (hprim : s.dev.primary ≠ p) :
    apertureWrite p 0x10 8 v s = logAer (hregFlag (regFlag s (port s p).nodesel.toNat 4 0x10 2) p 4 0x800010) p 2 := by
  simp [apertureWrite, hw, hheld, hprim, regSize]

/-! ### Limits on traffic to a host (R306, R319) -/

section
variable {m a : Nat} {x : Msg} {req : Requester}

theorem reply_sameMemory (s : State) (x : Msg) (pay : Payload) : SameMemory s (reply s x pay) := sameMemory_of_eq rfl rfl rfl rfl rfl

theorem lastSent_reply (s : State) (x : Msg) (pay : Payload) : LastSent (reply s x pay) 1 x.dst x.src pay := lastSent_sendMsg ..

theorem hostWriteTimeout_late {bytes : List (Nat × Byte)} {psn : Bool} (hm : arrived s m = some x) (hheld : held s x.dst = false)
    (hpay : x.pay = .write (.host p a) bytes psn req) (hup : (port s p).linkUp = true) (hlate : 1048576 < pacerSince s x.dst x.arr) :
    hostWriteTimeout m s = reply s x (.error 8 req) := by
  simp [hostWriteTimeout, hm, hpay, hheld, hup, hlate]

theorem completionTimeout_read {len : Nat} (hm : arrived s m = some x) (hheld : held s x.dst = false) (hpay : x.pay = .read (.host p a) len req) :
    completionTimeout m s = reply (logAer s p 4) x (.error 8 req) := by
  simp [completionTimeout, hm, hpay, hheld]

end

end

/-- Each register by its own lemma above. -/
theorem portRegisters : Claims.PortRegisters := by
  unfold Claims.PortRegisters
  refine ⟨?window, ?aperture, ?limits⟩
  case window =>
    intro port_ fn s hreach hd0
    refine ⟨?id, ?state, ?heartbeat, ?stamp, ?uptime, ?peer, ?rings, ?other, ?width⟩
    case id =>
      refine frontWindow port_ fn s hreach hd0 (by decide) rfl ?_
      simp [frontWord, b2n, List.isEmpty_iff]
    case state =>
      intro k hk
      refine frontWindow port_ fn s hreach hd0 (by decide) rfl ?_
      simp [frontWord, hk]
    case heartbeat => exact frontWindow port_ fn s hreach hd0 (by decide) rfl rfl
    case stamp => exact frontWindow port_ fn s hreach hd0 (by decide) rfl rfl
    case uptime => exact frontWindow port_ fn s hreach hd0 (by decide) rfl rfl
    case peer => exact frontWindow port_ fn s hreach hd0 (by decide) rfl rfl
    case rings =>
      intro i hi
      have hlt := i.isLt
      have hfn : fn.toNat = 0 ∨ i.toNat < 4 := hi.imp_left fun h => by simp [h]
      exact frontWindow port_ fn s hreach hd0 (by omega) (by omega) (frontWord_ring i.toNat hlt hfn)
    case other => exact frontWindow port_ fn s hreach hd0 (by decide) rfl rfl
    case width =>
      intro off
      exact ⟨_, congrArg Host.Outcome.next (frontWindowRead_width hreach hd0), by simp [completerAbort, logAer, answerHost]⟩
  case aperture =>
    intro port_ v s hreach hpower hd0
    have hw : pfWritable s port_.toNat = true := by simp [pfWritable, hreach, hd0, fabricUp, hpower]
    refine ⟨?base, ?nodesel, ?clears, ?denied⟩
    case base =>
      refine ⟨_, congrArg Host.Outcome.next (if_pos hw), ?_, ?_, sameMemory_of_eq rfl rfl rfl rfl rfl⟩ <;> rw [port_modPort_self]
    case nodesel =>
      refine ⟨_, congrArg Host.Outcome.next (if_pos hw), ?_, sameMemory_of_eq rfl rfl rfl rfl rfl⟩
      rw [port_modPort_self]
    case clears =>
      intro hheld hprim
      refine ⟨_, congrArg Host.Outcome.next (apertureWrite_clears hw hheld hprim), ?_, sameMemory_of_eq rfl rfl rfl rfl rfl⟩
      rw [node_modNode_self]
    case denied =>
      intro hheld hprim
      refine ⟨_, congrArg Host.Outcome.next (apertureWrite_denied hw hheld hprim), ?_, ?_, sameMemory_of_eq rfl rfl rfl rfl rfl⟩
      · simp [logAer, hregFlag, regFlag]
      · simp only [logAer, hregFlag, port_modPort_self]
        rfl
  case limits =>
    intro m x p a len req s hm hheld
    refine ⟨fun bytes psn hpay hup hlate => ?write, fun hpay => ?read⟩
    case write =>
      exact ⟨_, congrArg Host.Outcome.next (hostWriteTimeout_late hm hheld hpay hup hlate), lastSent_reply .., reply_sameMemory ..⟩
    case read =>
      refine ⟨_, congrArg Host.Outcome.next (completionTimeout_read hm hheld hpay), lastSent_reply .., ?_,
        sameMemory_trans (logAer_sameMemory ..) (reply_sameMemory ..)⟩
      show (port (logAer s p 4) p).aer = _
      rw [logAer, port_modPort_self]

section
variable {s : State} {p pasid lo len : Nat}

/-! ### Invalidations (R35) -/

/-- A host translation of a PASID's context at a port whose untranslated page overlaps a range. -/
def Overlaps (s : State) (p pasid lo len : Nat) (e : TuEntry) : Prop :=
  (∃ x, (e.ctx, x) ∈ s.ctxs ∧ x.port = p ∧ x.pasid = pasid) ∧
    ∃ answer untranslated, e.ats = some (answer, untranslated) ∧ untranslated < lo + len ∧ lo < untranslated + 2 ^ e.log2

theorem mem_pasidContexts {c : Nat} : c ∈ pasidContexts s p pasid ↔ ∃ x, (c, x) ∈ s.ctxs ∧ x.port = p ∧ x.pasid = pasid := by
  simp only [pasidContexts, List.mem_map, List.mem_filter, Bool.and_eq_true, beq_iff_eq]
  constructor
  · rintro ⟨⟨c', x⟩, ⟨hmem, hp, hq⟩, rfl⟩
    exact ⟨x, hmem, hp, hq⟩
  · rintro ⟨x, hmem, hp, hq⟩
    exact ⟨(c, x), ⟨hmem, hp, hq⟩, rfl⟩

theorem atsHit_iff {e : TuEntry} : atsHit (pasidContexts s p pasid) lo len e = true ↔ Overlaps s p pasid lo len e := by
  unfold atsHit Overlaps
  rcases e.ats with _ | ⟨answer, page⟩
  · simp
  · simp only [Bool.and_eq_true, List.contains_iff_mem, mem_pasidContexts, decide_eq_true_eq, Option.some.injEq, Prod.mk.injEq, and_assoc]
    exact and_congr_right fun _ => ⟨fun ⟨h1, h2⟩ => ⟨answer, page, rfl, rfl, h1, h2⟩, fun ⟨_, _, _, rfl, h1, h2⟩ => ⟨h1, h2⟩⟩

/-- The translation is used by an access under way (R32). -/
def entryUsed (s : State) (e : TuEntry) : Bool := rangeInUse s e.ctx (e.vpage * 2 ^ e.log2) (2 ^ e.log2)

theorem any_hits_iff : ((s.benches.flatMap fun b => b.2.tu.filter (atsHit (pasidContexts s p pasid) lo len)).any (entryUsed s)) = true ↔
    ∃ b ∈ s.benches, ∃ e ∈ b.2.tu, Overlaps s p pasid lo len e ∧ entryUsed s e = true := by
  simp only [List.any_eq_true, List.mem_flatMap, List.mem_filter, atsHit_iff]
  exact ⟨fun ⟨e, ⟨b, hb, he, ho⟩, hu⟩ => ⟨b, hb, e, he, ho, hu⟩, fun ⟨b, hb, e, he, ho, hu⟩ => ⟨e, ⟨b, hb, he, ho⟩, hu⟩⟩

/-- A bench without the translations that `hit` names. -/
def dropEntries (hit : TuEntry → Bool) (b : Bench) : Bench := { b with tu := b.tu.filter fun e => !hit e }

/-- The state after an invalidation that nothing holds up. -/
def invalidated (s : State) (p pasid lo len : Nat) : State :=
  modPort { s with benches := s.benches.map fun b => (b.1, dropEntries (atsHit (pasidContexts s p pasid) lo len) b.2) } p
    fun x => { x with invDone := x.invDone ++ [(pasid, lo, len)] }

theorem atsInvalidation_free (hreach : hostReaches s p = true)
    (hfree : ∀ b ∈ s.benches, ∀ e ∈ b.2.tu, Overlaps s p pasid lo len e → entryUsed s e = false) :
    atsInvalidation p pasid lo len s = invalidated s p pasid lo len := by
  have hany := Bool.eq_false_iff.mpr fun h => by
    obtain ⟨b, hb, e, he, ho, hu⟩ := (any_hits_iff (s := s) (p := p) (pasid := pasid) (lo := lo) (len := len)).mp h
    rw [hfree b hb e he ho] at hu
    exact Bool.false_ne_true hu
  rw [atsInvalidation, hreach]
  exact if_neg (by rw [Bool.not_true, Bool.false_or]; exact Bool.eq_false_iff.mp hany)

theorem atsInvalidation_used (hused : ∃ b ∈ s.benches, ∃ e ∈ b.2.tu, Overlaps s p pasid lo len e ∧ entryUsed s e = true) :
    atsInvalidation p pasid lo len s = s :=
  if_pos (by rw [Bool.or_eq_true]; exact .inr (any_hits_iff.mpr hused))

/-- A translation unit after an invalidation. -/
theorem mem_invalidated_tu (n : Nat) (e : TuEntry) :
    e ∈ (bench (invalidated s p pasid lo len) n).tu ↔ e ∈ (bench s n).tu ∧ ¬ Overlaps s p pasid lo len e := by
  have hget : bench (invalidated s p pasid lo len) n =
      ((Tbl.get? s.benches n).map (dropEntries (atsHit (pasidContexts s p pasid) lo len))).getD Bench.init :=
    congrArg (Option.getD · Bench.init) (Tbl.get?_map (fun _ => dropEntries (atsHit (pasidContexts s p pasid) lo len)) s.benches n)
  rw [hget, bench, Tbl.getD]
  cases Tbl.get? s.benches n with
  | none => simp [Bench.init]
  | some b => simp [dropEntries, ← atsHit_iff]

/-! ### Page requests (R34) -/

variable {req : Nat} {r : PageReq}

/-- Keeping a host's translation changes a bench alone. -/
theorem keepHost_shape (s : State) (r : PageReq) (w : Bool) (page len : Nat) : ∃ bs, keepHost s r w page len = { s with benches := bs } := by
  unfold keepHost
  split
  · exact ⟨_, rfl⟩
  · exact ⟨s.benches, rfl⟩

theorem endPageReq_chain {ch : Nat} (hwhy : r.why = .chain ch) :
    endPageReq s req r = modHaul { s with pageReqs := Tbl.erase s.pageReqs req } r.node ch fun h => { h with page := .idle } := by
  simp only [endPageReq, hwhy]

theorem endPageReq_thread (hwhy : ∀ ch, r.why ≠ .chain ch) (hwait : (thr s (r.core * 8 + r.thr)).wait = some (.pri req)) :
    endPageReq s req r = modThr { s with pageReqs := Tbl.erase s.pageReqs req } (r.core * 8 + r.thr) fun t => { t with wait := none } := by
  unfold endPageReq
  split
  · next ch h => exact absurd h (hwhy ch)
  · exact if_pos hwait

theorem refusePage_chain {ch : Nat} (hwhy : r.why = .chain ch) :
    refusePage s req r = modHaul { s with pageReqs := Tbl.erase s.pageReqs req } r.node ch fun h => { h with page := .refused } := by
  simp only [refusePage, hwhy]

/-- PAGE at the instruction that waits. -/
theorem refusePage_instr {e : Exn} (hwhy : r.why = .instr e) (hwait : (thr s (r.core * 8 + r.thr)).wait = some (.pri req)) :
    refusePage s req r = faultAt (modThr { s with pageReqs := Tbl.erase s.pageReqs req } (r.core * 8 + r.thr) fun t => { t with wait := none })
      (r.core * 8 + r.thr) e (thr s (r.core * 8 + r.thr)).pc := by
  have hwait' : (thr { s with pageReqs := Tbl.erase s.pageReqs req } (r.core * 8 + r.thr)).wait = some (.pri req) := hwait
  simp only [refusePage, hwhy, hwait', bne_self_eq_false, Bool.false_eq_true, if_false]
  rfl

section
variable {found rd wr : Bool} {page : Nat}

theorem atsResponse_grants (hr : Tbl.get? s.pageReqs req = some r) (hheld : held s r.node = false) (hpri : r.pri = false)
    (hok : (if r.write then wr else rd) = true) : atsResponse req true rd wr page len s = endPageReq (keepHost s r wr page len) req r := by
  simp only [atsResponse, hr, hpri, hheld, hok, Bool.or_self, Bool.false_eq_true, if_false, Bool.and_self, if_true]

theorem atsResponse_none (hr : Tbl.get? s.pageReqs req = some r) (hheld : held s r.node = false) (hpri : r.pri = false) :
    atsResponse req false rd wr page len s =
      { s with pageReqs := Tbl.set s.pageReqs req { r with pri := true, since := pacerOf s r.node } } := by
  simp only [atsResponse, hr, hpri, hheld, Bool.or_self, Bool.false_eq_true, if_false, Bool.false_and]

theorem pageResponse_pri (hr : Tbl.get? s.pageReqs req = some r) (hheld : held s r.node = false) (hpri : r.pri = true) (granted : Bool) :
    pageResponse req granted s = if granted then endPageReq s req r else refusePage s req r := by
  simp only [pageResponse, hr, hpri, hheld, Bool.not_true, Bool.or_self, Bool.false_eq_true, if_false]

theorem pageRequestTimeout_pri (hr : Tbl.get? s.pageReqs req = some r) (hheld : held s r.node = false) (hpri : r.pri = true) :
    pageRequestTimeout req s = if pacerSince s r.node r.since < 1048576 then s else refusePage s req r := by
  simp only [pageRequestTimeout, hr, hpri, hheld, Bool.not_true, Bool.or_self, Bool.false_or, decide_eq_true_eq]

end

end

/-- What a host's answer to a request of a haul channel's chain does. -/
theorem chainAnswers {req : Nat} {r : PageReq} {s : State} {ch : Nat} (hr : Tbl.get? s.pageReqs req = some r) (hheld : held s r.node = false)
    (hwhy : r.why = .chain ch) :
    (r.pri = false → ∀ (page : BitVec 40) len, ∃ t, exec (.atsResponse req true true true page len) s = .next t ∧
      (haulCh t r.node ch).page = .idle ∧ t.pageReqs = Tbl.erase s.pageReqs req ∧ SameMemory s t) ∧
    (r.pri = true → ∃ t, exec (.pageResponse req true) s = .next t ∧ (haulCh t r.node ch).page = .idle ∧ SameMemory s t) ∧
    (r.pri = true → ∃ t, exec (.pageResponse req false) s = .next t ∧ (haulCh t r.node ch).page = .refused ∧ SameMemory s t) := by
  refine ⟨fun hpri page len => ?answered, fun hpri => ?granted, fun hpri => ?refused⟩
  case answered =>
    obtain ⟨bs, hkeep⟩ := keepHost_shape s r true page.toNat len
    have hgrant := atsResponse_grants (rd := true) (wr := true) (page := page.toNat) (len := len) hr hheld hpri (ite_self _)
    rw [endPageReq_chain hwhy, hkeep] at hgrant
    refine ⟨_, congrArg Host.Outcome.next hgrant, ?_, rfl, sameMemory_of_eq rfl rfl rfl rfl rfl⟩
    rw [haulCh_modHaul_self]
  case granted =>
    have hgrant := pageResponse_pri hr hheld hpri true
    rw [if_pos rfl, endPageReq_chain hwhy] at hgrant
    refine ⟨_, congrArg Host.Outcome.next hgrant, ?_, sameMemory_of_eq rfl rfl rfl rfl rfl⟩
    rw [haulCh_modHaul_self]
  case refused =>
    have hrefuse := pageResponse_pri hr hheld hpri false
    rw [if_neg nofun, refusePage_chain hwhy] at hrefuse
    refine ⟨_, congrArg Host.Outcome.next hrefuse, ?_, sameMemory_of_eq rfl rfl rfl rfl rfl⟩
    rw [haulCh_modHaul_self]

/-- What a host's answers do is each step's own lemma above. -/
theorem hostTranslations : Claims.HostTranslations := by
  unfold Claims.HostTranslations
  refine ⟨?invalidation, ?requests⟩
  case invalidation =>
    intro port_ pasid lo len s hreach
    refine ⟨fun hfree => ?free, fun hused => ?used⟩
    case free =>
      refine ⟨_, congrArg Host.Outcome.next (atsInvalidation_free hreach hfree), sameMemory_of_eq rfl rfl rfl rfl rfl, rfl, ?_,
        fun n e => mem_invalidated_tu n e⟩
      rw [invalidated, port_modPort_self]
      rfl
    case used => exact congrArg Host.Outcome.next (atsInvalidation_used hused)
  case requests =>
    intro req r s hr hheld
    refine ⟨fun ch hwhy => chainAnswers hr hheld hwhy, fun hwait hwhy => ⟨?granted, ?none, fun hpri => ⟨?page, ?refused⟩⟩⟩
    case granted =>
      intro rd wr page len hpri hok
      obtain ⟨bs, hkeep⟩ := keepHost_shape s r wr page.toNat len
      have hgrant := atsResponse_grants (page := page.toNat) (len := len) hr hheld hpri hok
      rw [hkeep, endPageReq_thread (s := { s with benches := bs }) hwhy hwait] at hgrant
      refine ⟨_, congrArg Host.Outcome.next hgrant, ?_, ?_, rfl, sameMemory_of_eq rfl rfl rfl rfl rfl⟩ <;> rw [thr_modThr_self]
      rfl
    case none =>
      intro rd wr page len hpri
      exact ⟨_, congrArg Host.Outcome.next (atsResponse_none hr hheld hpri), rfl, sameMemory_of_eq rfl rfl rfl rfl rfl, Tbl.get?_set_self ..⟩
    case page =>
      have hgrant := pageResponse_pri hr hheld hpri true
      rw [if_pos rfl, endPageReq_thread hwhy hwait] at hgrant
      refine ⟨_, congrArg Host.Outcome.next hgrant, ?_, ?_, rfl, sameMemory_of_eq rfl rfl rfl rfl rfl⟩ <;> rw [thr_modThr_self]
      rfl
    case refused =>
      intro e hinstr
      have hrefuse := pageResponse_pri hr hheld hpri false
      have htimeout := pageRequestTimeout_pri hr hheld hpri
      rw [refusePage_instr hinstr hwait] at hrefuse htimeout
      rw [if_neg nofun] at hrefuse
      refine ⟨congrArg Host.Outcome.next hrefuse, fun hlate => ?_, fun hearly => ?_⟩
      · rw [if_neg (by omega)] at htimeout
        exact congrArg Host.Outcome.next htimeout
      · rw [if_pos hearly] at htimeout
        exact congrArg Host.Outcome.next htimeout

/-- Settles O42: BAR2 by `bar2`, the ports' registers by `portRegisters`, the host's answers by `hostTranslations`. -/
theorem hostAccesses : Obligations.HostAccesses := ⟨bar2, portRegisters, hostTranslations⟩

end Sys2Proof.Machine
end

section
/-!
PROOFS. What the completion of a command leaves unchanged, and where it goes (R328, R332, R347).
-/
namespace Sys2Proof.Machine

section
variable {r : RingRef} {p : Packet} {s u : State} {op rk : Nat}

/-! ### What a completion changes -/

theorem makeRecord_shape (s : State) (node rg scls srcid ty : Nat) (ctx : Option Nat) (w3 w4 w5 w6 w7 : W64) :
    ∃ ms nm sq, makeRecord s node rg scls srcid ty ctx w3 w4 w5 w6 w7 = { s with mesh := ms, nextMsg := nm, seqs := sq } := by
  simp only [makeRecord]
  split
  · exact ⟨_, _, _, rfl⟩
  · exact ⟨s.mesh, s.nextMsg, s.seqs, rfl⟩

theorem answerPacket_shape (s : State) (rk : Nat) (p : Packet) (ty status reason : Nat) (w4 w5 w6 w7 : W64) :
    ∃ ms nm sq es, answerPacket s rk p ty status reason w4 w5 w6 w7 = { s with mesh := ms, nextMsg := nm, seqs := sq, evrings := es } := by
  unfold answerPacket
  dsimp only
  split
  · obtain ⟨ms, nm, sq, h⟩ := makeRecord_shape
      { modEvring s (ownRing rk) fun _ => { EvRing.init with en := true, port := rk / 512, base := _, log2n := _, vector := _ } with
        seqs := s.seqs.filter fun e => e.1 / 2 ^ 20 != ownRing rk }
      (portNode (rk / 512)) (ownRing rk) 0 rk ty none (completionWord (pktTag p) (pktOp p) status (rk % 16) reason) w4 w5 w6 w7
    exact ⟨ms, nm, sq, _, h⟩
  · split
    · exact ⟨s.mesh, s.nextMsg, s.seqs, s.evrings, rfl⟩
    · next rg ctx _ =>
      obtain ⟨ms, nm, sq, h⟩ := makeRecord_shape s (portNode (rk / 512)) rg 0 rk ty ctx
        (completionWord (pktTag p) (pktOp p) status (rk % 16) reason) w4 w5 w6 w7
      exact ⟨ms, nm, sq, s.evrings, h⟩

/-- A completion changes the ring, the actions of contexts, and what a record changes. -/
theorem finish_shape (s : State) (rk status reason : Nat) (w4 w5 w6 w7 : W64) :
    ∃ cs ms nm sq es rs, finish s rk status reason w4 w5 w6 w7 =
      { s with ctxs := cs, mesh := ms, nextMsg := nm, seqs := sq, evrings := es, rings := rs } := by
  unfold finish
  split
  · exact ⟨s.ctxs, s.mesh, s.nextMsg, s.seqs, s.evrings, s.rings, rfl⟩
  · next q _ =>
    obtain ⟨ms, nm, sq, es, h⟩ := answerPacket_shape (ringActs s rk) rk q 1 status reason w4 w5 w6 w7
    rw [h]
    exact ⟨_, ms, nm, sq, es, _, rfl⟩

section
variable (s rk) (status reason : Nat) (w4 w5 w6 w7 : W64)

theorem finish_sameMemory : SameMemory s (finish s rk status reason w4 w5 w6 w7) := by
  obtain ⟨cs, ms, nm, sq, es, rs, h⟩ := finish_shape s rk status reason w4 w5 w6 w7
  rw [h]
  exact sameMemory_of_eq rfl rfl rfl rfl rfl

theorem finish_ls : (finish s rk status reason w4 w5 w6 w7).ls = s.ls := by
  obtain ⟨cs, ms, nm, sq, es, rs, h⟩ := finish_shape s rk status reason w4 w5 w6 w7
  rw [h]

theorem finish_hbm : (finish s rk status reason w4 w5 w6 w7).hbm = s.hbm := by
  obtain ⟨cs, ms, nm, sq, es, rs, h⟩ := finish_shape s rk status reason w4 w5 w6 w7
  rw [h]

theorem finish_benches : (finish s rk status reason w4 w5 w6 w7).benches = s.benches := by
  obtain ⟨cs, ms, nm, sq, es, rs, h⟩ := finish_shape s rk status reason w4 w5 w6 w7
  rw [h]

theorem finish_slots : (finish s rk status reason w4 w5 w6 w7).slots = s.slots := by
  obtain ⟨cs, ms, nm, sq, es, rs, h⟩ := finish_shape s rk status reason w4 w5 w6 w7
  rw [h]

theorem hbmByte_finish (q : Nat) : hbmByte (finish s rk status reason w4 w5 w6 w7) q = hbmByte s q := (finish_sameMemory s rk status reason w4 w5 w6 w7).1 q

theorem storeByte_finish (c o : Nat) : storeByte (finish s rk status reason w4 w5 w6 w7) c o = storeByte s c o :=
  (finish_sameMemory s rk status reason w4 w5 w6 w7).2.1 c o

end

/-! ### Where the completion of a context's command goes -/

theorem begins_ringOwns (hb : Begins r op p s) (hop : namesNoContext op = false) : ringOwns s (ringKey r) (pktCtx p) = true := by
  obtain ⟨-, hpop, -, -, -, -, -, hstatus⟩ := hb
  by_contra howns
  simp only [headerStatus, hpop, hop, Bool.not_eq_true] at hstatus howns
  simp only [howns, Bool.false_eq_true, if_false, Bool.not_false, if_true] at hstatus
  split at hstatus
  · cases hstatus
  · split at hstatus
    · cases hstatus
    · split at hstatus <;> cases hstatus

theorem answerRing_owned (hop : namesNoContext (pktOp p) = false) (howns : ringOwns s rk (pktCtx p) = true) :
    answerRing s rk p = some (pktCtx p, some (pktCtx p)) := by
  simp [answerRing, pktContext, hop, howns]

/-- What a command of a context has done before it completes changes nothing of its completion: the command rings, the event rings, their numbers
and the context's owner. -/
structure SameAnswers (s u : State) (rk ctx : Nat) : Prop where
  rings : u.rings = s.rings
  evrings : u.evrings = s.evrings
  seqs : u.seqs = s.seqs
  dev : u.dev = s.dev
  owns : ringOwns u rk ctx = ringOwns s rk ctx

theorem finish_from {status reason : Nat} {w4 w5 : W64} (hb : Begins r op p s) (hop : namesNoContext op = false)
    (hu : SameAnswers s u (ringKey r) (pktCtx p)) :
    Completed r p s (finish u (ringKey r) status reason w4 w5 0 0) status reason w4 w5 := by
  have howns := begins_ringOwns hb hop
  have ⟨hcur, hpop, _⟩ := hb
  have hring : ring u (ringKey r) = ring s (ringKey r) := by rw [ring, ring, hu.rings, strapGen, strapGen, hu.dev]
  have hev : ∀ rg, evring u rg = evring s rg := fun rg => by rw [evring, evring, hu.evrings]
  have hne : pktOp p ≠ 0x10 := by
    rintro h
    rw [h] at hpop
    rw [← hpop] at hop
    cases hop
  have hop' : namesNoContext (pktOp p) = false := hpop ▸ hop
  obtain ⟨hcurT, hstT, hsent⟩ := finish_completed (s := u) status reason w4 w5 (hring ▸ hcur) hne
  refine ⟨hcurT, hstT, fun rg ctx hans hen => ?_⟩
  rw [answerRing_owned hop' howns] at hans
  obtain ⟨rfl, rfl⟩ := Prod.mk.inj (Option.some.inj hans)
  have hlast := hsent _ _ (answerRing_owned hop' (hu.owns.trans howns)) (by rw [hev]; exact hen)
  rwa [hev, hu.seqs] at hlast

theorem runChecked_ungrouped {check : State → Nat → Packet → Nat} {body : State → Nat → Packet → State} (h : (ring s (ringKey r)).group = none) :
    runChecked check op r body s = runCommand op r body s := by
  simp only [runCommand, runChecked, h]

/-- A command that may be a member of a group, outside of one. -/
theorem runMember_begins (hb : Begins r op p s) (eff : State → Nat → Packet → Effect) :
    runMember op r eff s = complete s (ringKey r) (eff s (ringKey r) p) := by
  have ⟨_, _, _, hgroup, _⟩ := hb
  rw [runMember, runChecked_ungrouped hgroup, runCommand_begins hb]

end

end Sys2Proof.Machine
end

section
/-!
PROOFS. MAP and UNMAP: the walk to the entry of a page, and what setting it changes (R28 to R32, R37, R314).
-/
namespace Sys2Proof.Machine

section
variable {s : State} {p : Packet} {rk ctx va v q sh log2 table : Nat} {rest : List Nat}

/-! ### The walk to an entry -/

/-- The entry of a table at a level leads to a table. -/
def LeadsOn (s : State) (table va sh : Nat) : Prop :=
  bit (readPte s (pteAt table va sh)) 0 = true ∧ bit (readPte s (pteAt table va sh)) 2 = false

/-- The address of the table under the entry of a virtual address. -/
def nextTable (s : State) (va table sh : Nat) : Nat := pteAddr (readPte s (pteAt table va sh))

theorem setLeaf_inner (h : LeadsOn s table va sh) (hsh : sh ≠ log2) :
    setLeaf ctx va log2 v (sh :: rest) s table = setLeaf ctx va log2 v rest s (nextTable s va table sh) := by
  obtain ⟨hvalid, hleaf⟩ := h
  simp [setLeaf, enterTable, nextTable, hvalid, hleaf, hsh]

theorem setLeaf_leaf (h : ¬ LeadsOn s table va log2) (hv : v = 0 → bit (readPte s (pteAt table va log2)) 0 = true) :
    setLeaf ctx va log2 v (log2 :: rest) s table = some (setPte s (pteAt table va log2) v) := by
  have hin : (bit (readPte s (pteAt table va log2)) 0 && !bit (readPte s (pteAt table va log2)) 2) = false :=
    Bool.eq_false_iff.mpr fun hb => h (by simpa [LeadsOn] using hb)
  have hskip : ¬ (v = 0 ∧ (!bit (readPte s (pteAt table va log2)) 0) = true) := fun ⟨h0, hb⟩ => by simp [hv h0] at hb
  simp only [setLeaf, if_neg hskip, if_true, hin, Bool.false_eq_true, if_false]

/-- The last of the four tables of a virtual address. -/
def lastTable (s : State) (va root : Nat) : Nat := nextTable s va (nextTable s va (nextTable s va root 39) 30) 21

/-- Three tables lead to the last one (Table 1.6). -/
def Reaches (s : State) (va root : Nat) : Prop :=
  LeadsOn s root va 39 ∧ LeadsOn s (nextTable s va root 39) va 30 ∧ LeadsOn s (nextTable s va (nextTable s va root 39) 30) va 21

/-- The address of the last level's entry. -/
def leafAt (s : State) (va root : Nat) : Nat := pteAt (lastTable s va root) va 16

/-- Setting one 64 KiB page writes its entry alone. -/
theorem setRange_page {x : Ctx} {f : Nat → Nat} (hx : Tbl.get? s.ctxs ctx = some x) (hr : Reaches s va x.root)
    (hleaf : ¬ LeadsOn s (lastTable s va x.root) va 16) (hv : f 0 = 0 → bit (readPte s (leafAt s va x.root)) 0 = true) :
    setRange ctx va 16 f 1 s = some (setPte s (leafAt s va x.root) (f 0)) := by
  obtain ⟨h39, h30, h21⟩ := hr
  have hone : setRange ctx va 16 f 1 s = setLeaf ctx va 16 (f 0) [39, 30, 21, 16] s x.root := by
    simp [setRange, hx]
  rw [hone, setLeaf_inner h39 (by decide), setLeaf_inner h30 (by decide), setLeaf_inner h21 (by decide)]
  exact setLeaf_leaf hleaf hv

/-! ### What setting an entry and dropping its translations change -/

theorem setPte_shape (s : State) (a v : Nat) : ∃ ts ws m ps, setPte s a v = { s with threads := ts, watches := ws, hbm := m, hbmPoison := ps } :=
  homeWrite_hbm_shape ..

theorem hbmByte_setPte {a : Nat} (hw : withdrawn s a = false) (hm : memWf s.hbm = true) (hlen : a + 8 ≤ 2 ^ 40) (hq : q < 2 ^ 40) :
    hbmByte (setPte s a v) q = if a ≤ q ∧ q < a + 8 then byteOf v (q - a) else hbmByte s q := by
  rw [setPte, hbmByte_homeWrite false none hw hm (by rwa [leBytes_length]) hq, leBytes_length]
  split
  · rw [leBytes_getD _ (by omega)]
  · rfl

/-- The state after an entry is set and the translations of its page are dropped. -/
def remapped (s : State) (ctx va a v : Nat) : State := dropRange (setPte s a v) ctx va 65536

theorem dropRange_memory (s : State) (ctx lo len : Nat) :
    (dropRange s ctx lo len).ls = s.ls ∧ (dropRange s ctx lo len).hbm = s.hbm ∧ (dropRange s ctx lo len).dev = s.dev := by
  obtain ⟨ts, ws, h⟩ := dropRange_shape s ctx lo len
  rw [h]
  exact ⟨rfl, rfl, rfl⟩

theorem remapped_ls (s : State) (ctx va a v : Nat) : (remapped s ctx va a v).ls = s.ls := by
  obtain ⟨ts, ws, m, ps, h⟩ := setPte_shape s a v
  rw [remapped, (dropRange_memory ..).1, h]

theorem hbmByte_remapped {a : Nat} (hw : withdrawn s a = false) (hm : memWf s.hbm = true) (hlen : a + 8 ≤ 2 ^ 40) (hq : q < 2 ^ 40) :
    hbmByte (remapped s ctx va a v) q = if a ≤ q ∧ q < a + 8 then byteOf v (q - a) else hbmByte s q := by
  obtain ⟨-, hhbm, hdev⟩ := dropRange_memory (setPte s a v) ctx va 65536
  rw [remapped, hbmByte_congr hhbm hdev, hbmByte_setPte hw hm hlen hq]

theorem remapped_answers (s : State) (rk ctx va a v : Nat) : SameAnswers s (remapped s ctx va a v) rk ctx := by
  obtain ⟨ts, ws, m, ps, hset⟩ := setPte_shape s a v
  obtain ⟨ts', ws', hdrop⟩ := dropRange_shape (setPte s a v) ctx va 65536
  rw [remapped, hdrop, hset]
  exact ⟨rfl, rfl, rfl, rfl, rfl⟩

/-- A translation of a page of the context that overlaps a range. -/
def InRange (ctx lo len : Nat) (e : TuEntry) : Prop :=
  e.ctx = ctx ∧ e.vpage * 2 ^ e.log2 < lo + len ∧ lo < e.vpage * 2 ^ e.log2 + 2 ^ e.log2

/-- No translation unit holds a translation of the range after it is dropped. -/
theorem not_inRange_of_mem_dropRange (s : State) (ctx lo len n : Nat) (e : TuEntry) (he : e ∈ (bench (dropRange s ctx lo len) n).tu) :
    ¬ InRange ctx lo len e := by
  obtain ⟨ts, ws, h⟩ := dropRange_shape s ctx lo len
  rw [h] at he
  have hget := Tbl.get?_map (fun _ => dropEntries fun t : TuEntry =>
    t.ctx == ctx && (decide (t.vpage * 2 ^ t.log2 < lo + len) && decide (lo < t.vpage * 2 ^ t.log2 + 2 ^ t.log2))) s.benches n
  rintro ⟨hctx, hlo, hhi⟩
  simp only [bench, Tbl.getD] at he
  change e ∈ ((Tbl.get? (s.benches.map fun e => (e.1, dropEntries _ e.2)) n).getD Bench.init).tu at he
  rw [hget] at he
  cases hb : Tbl.get? s.benches n with
  | none => simp [hb, Bench.init] at he
  | some b => simp [hb, dropEntries, hctx, hlo, hhi] at he

/-! ### The effect of MAP and UNMAP -/

/-- One page of 64 KiB through the context's tables, not through a window. -/
structure OnePage (p : Packet) : Prop where
  size : bits (pktP p 2).toNat 1 0 = 0
  count : bits (pktP p 2).toNat 39 8 = 1
  form : bit (pktFlags p) 0 = false

/-- The entry of the page at P0 that a packet sets. -/
def pageEntry (p : Packet) : Nat := if pktOp p = 0x18 then leafEntry (pktP p 2).toNat (pktP p 1).toNat else 0

theorem pageEntry_map (hop : pktOp p = 0x18) : pageEntry p =
    (pktP p 1).toNat / 65536 * 65536 + (if bit (pktP p 2).toNat 7 then 2 ^ 9 else 0) + (if bit (pktP p 2).toNat 6 then 2 ^ 8 else 0) +
      bits (pktP p 2).toNat 5 4 * 2 ^ 6 + (if bit (pktP p 2).toNat 2 then 2 ^ 5 else 0) + (if bit (pktP p 2).toNat 3 then 2 ^ 4 else 0) + 5 := by
  simp only [pageEntry, if_pos hop, leafEntry, b2n, ite_mul, one_mul, zero_mul]

theorem pageEntry_map_ne_zero (hop : pktOp p = 0x18) : pageEntry p ≠ 0 := by
  rw [pageEntry_map hop]
  omega

theorem pageEntry_unmap (hop : pktOp p = 0x19) : pageEntry p = 0 := if_neg (by omega)

theorem byteOf_zero (i : Nat) : byteOf 0 i = 0 := by
  rw [byteOf, Nat.zero_div]
  rfl

theorem applyMap_page {x : Ctx} (ho : OnePage p) (hx : Tbl.get? s.ctxs (pktCtx p) = some x) (hr : Reaches s (pktP p 0).toNat x.root)
    (hleaf : ¬ LeadsOn s (lastTable s (pktP p 0).toNat x.root) (pktP p 0).toNat 16)
    (hv : pageEntry p = 0 → bit (readPte s (leafAt s (pktP p 0).toNat x.root)) 0 = true) (hroom : (applyMap s rk p).isSome = true) :
    applyMap s rk p = some (remapped s (pktCtx p) (pktP p 0).toNat (leafAt s (pktP p 0).toNat x.root) (pageEntry p)) := by
  have hlog : mapLog2 (pktP p 2).toNat = 16 := by simp [mapLog2, ho.size]
  have hset := setRange_page (f := fun i => if pktOp p = 0x18 then leafEntry (pktP p 2).toNat ((pktP p 1).toNat + i * 2 ^ 16) else 0) hx hr hleaf
    (by simpa [pageEntry] using hv)
  have hentry : (if pktOp p = 0x18 then leafEntry (pktP p 2).toNat ((pktP p 1).toNat + 0 * 2 ^ 16) else 0) = pageEntry p := by
    rw [Nat.zero_mul, Nat.add_zero, pageEntry]
  rw [hentry] at hset
  simp only [applyMap, ho.form, ho.count, hlog, hset, Bool.false_eq_true, if_false] at hroom ⊢
  cases hsplit : splitRoom (setPte s (leafAt s (pktP p 0).toNat x.root) (pageEntry p)) with
  | true => rfl
  | false =>
    rw [hsplit] at hroom
    cases hroom

theorem mapEffect_refused {st : Nat} (h : checkMap s rk p = some st) (e : Ext) : mapEffect s rk p e = .refuse st 0 0 := by rw [mapEffect, h]

theorem mapEffect_full (hcheck : checkMap s rk p = none) (happly : applyMap s rk p = none) (e : Ext) : mapEffect s rk p e = .refuse 7 0 0 := by
  rw [mapEffect, hcheck, happly]

theorem mapEffect_ready {t : State} (hcheck : checkMap s rk p = none) (happly : applyMap s rk p = some t) (hready : mapReady s p = true) (e : Ext) :
    mapEffect s rk p e = .ok t 0 e := by
  simp only [mapEffect, hcheck, happly, hready, if_true]

/-- The WIN form binds a slot of the packet's window (R314). -/
theorem mapEffect_window (hform : bit (pktFlags p) 0 = true) (hop : pktOp p = 0x18) (hcheck : checkMap s rk p = none) (e : Ext) :
    mapEffect s rk p e = .ok { s with slots := Tbl.set s.slots (slotOf rk p) (bits (pktP p 1).toNat 21 16, (pktP p 0).toNat) } 0 e := by
  have hready : mapReady s p = true := by simp [mapReady, hform]
  exact mapEffect_ready hcheck (by simp only [applyMap, hform, hop, if_true]) hready e

theorem mapEffect_later {t : State} (hcheck : checkMap s rk p = none) (happly : applyMap s rk p = some t) (hready : mapReady s p = false) (e : Ext) :
    mapEffect s rk p e = .later := by
  simp only [mapEffect, hcheck, happly, hready, Bool.false_eq_true, if_false]

end

end Sys2Proof.Machine
end

section
/-!
PROOFS. FILL and COPY of a span within one line of HBM (R276, R333; log entry 14).
-/
namespace Sys2Proof.Machine

section
variable {s : State} {p : Packet} {ctx a len n f : Nat} {e e1 : Ext} {y z : Xlat}

/-! ### One run of a mover -/

theorem spanOf_run (h0 : 0 < len) (hline : a % 64 + len ≤ 64) : (spanOf a len).run 0 len = len := by
  have haddr : ((spanOf a len).addr 0 % 64).toNat = a % 64 := by
    simp only [Lines.addr, spanOf, Nat.zero_div, Nat.zero_mod]
    omega
  rw [Lines.run, haddr]
  simp only [spanOf, Nat.zero_mod]
  omega

theorem spanOf_addr (a len : Nat) : (spanOf a len).addr 0 = (a : Int) := by simp [Lines.addr, spanOf]

/-- The firmware's accesses for a command go through no translation unit. -/
theorem agentNote_command (s : State) (ctx : Nat) (a : Int) : agentNote s (commandAgent ctx) a = s := by
  simp [agentNote, commandAgent, commandWho, noteTranslate, tuTouch]

theorem writePiece_hbm (hy : y.tgt = .hbm n) (hlock : lineLocked s (.hbm n) = false) (hheld : homeHeld s (.hbm n) = false)
    (bytes : List (Nat × Byte)) (psn : Bool) : writePiece s y bytes psn e = .ok (homeWrite s (.hbm n) bytes psn none) e := by
  simp [writePiece, hy, hlock, hheld]

theorem agentRead_command (hz : agentXlat s (commandAgent ctx) .read (a : Int) = .ok z) (htgt : z.tgt = .hbm n)
    (hlock : lineLocked s (.hbm n) = false) (hheld : homeHeld s (.hbm n) = false) :
    agentRead s (commandAgent ctx) (a : Int) len e = .ok (homeRead s (.hbm n) len) (homePoison s (.hbm n)) s e := by
  simp [agentRead, hz, agentNote_command, readPiece_hbm htgt hlock hheld]

theorem agentWrite_command {bs : List Byte} {psn : Bool} (hy : agentXlat s (commandAgent ctx) .write (a : Int) = .ok y) (htgt : y.tgt = .hbm n)
    (hlock : lineLocked s (.hbm n) = false) (hheld : homeHeld s (.hbm n) = false) :
    agentWrite s (commandAgent ctx) (a : Int) bs psn e = .ok (homeWrite s (.hbm n) (offsets bs) psn none) e := by
  simp [agentWrite, hy, agentNote_command, writePiece_hbm htgt hlock hheld]

theorem moveAll_done {g : Agent} {src : Source} {dst : Lines} {total : Nat} {pr : Prog} (h : total ≤ pr.n) :
    moveAll g src dst total f s e pr = .all s e pr := by
  cases f with
  | zero => rfl
  | succ f => rw [moveAll, if_pos h]

/-- A source that gives a span within one line at once is written at once. -/
theorem moveAll_line {src : Source} {bs : List Byte} {psn : Bool} (h0 : 0 < len) (hline : a % 64 + len ≤ 64) (hsrc : src s 0 len e = .ok bs psn s e1)
    (hy : agentXlat s (commandAgent ctx) .write (a : Int) = .ok y) (htgt : y.tgt = .hbm n) (hlock : lineLocked s (.hbm n) = false)
    (hheld : homeHeld s (.hbm n) = false) :
    moveAll (commandAgent ctx) src (spanOf a len) len len s e { n := 0, psn := false } =
      .all (homeWrite s (.hbm n) (offsets bs) psn none) e1 { n := len, psn := psn } := by
  obtain ⟨f, hf⟩ := Nat.exists_eq_add_of_le' h0
  have hrun : (spanOf a len).run 0 (len - 0) = len := spanOf_run h0 hline
  have hstart : ¬ len ≤ 0 := by omega
  have hwrite := agentWrite_command (bs := bs) (psn := psn) (e := e1) hy htgt hlock hheld
  conv_lhs => arg 5; rw [hf]
  rw [moveAll, if_neg hstart]
  simp only [hrun, hsrc, spanOf_addr, hwrite, Nat.zero_add, Bool.false_or]
  exact moveAll_done (Nat.le_refl len)

/-- The source of a COPY within one line. -/
theorem copySource_line (h0 : 0 < len) (hline : a % 64 + len ≤ 64) (hz : agentXlat s (commandAgent ctx) .read (a : Int) = .ok z)
    (htgt : z.tgt = .hbm n) (hlock : lineLocked s (.hbm n) = false) (hheld : homeHeld s (.hbm n) = false) :
    copySource (commandAgent ctx) (spanOf a len) s s 0 len e = .ok (homeRead s (.hbm n) len) (homePoison s (.hbm n)) s e := by
  have hread := agentRead_command (len := len) (e := e) hz htgt hlock hheld
  have hnone : ∀ f bs psn, gather (commandAgent ctx) (spanOf a len) s f s (0 + len) (len - len) e bs psn = .ok bs psn s e := fun f bs psn => by
    cases f with
    | zero => rfl
    | succ f => rw [gather, if_pos (Nat.sub_self len)]
  obtain ⟨f, hf⟩ := Nat.exists_eq_add_of_le' h0
  rw [copySource]
  conv_lhs => arg 4; rw [hf]
  rw [gather, if_neg (by omega)]
  simp only [spanOf_run h0 hline, spanOf_addr, hread, hnone, overlapped, if_true, List.nil_append, Bool.false_or]

/-! ### The commands -/

/-- What FILL and COPY come to once a span within one line is written: the state before the completion. -/
def moved (s : State) (n : Nat) (bs : List Byte) (psn : Bool) : State :=
  { homeWrite s (.hbm n) (offsets bs) psn none with fresh := (homeWrite s (.hbm n) (offsets bs) psn none).fresh + 1 }

theorem moved_ls (s : State) (n : Nat) (bs : List Byte) (psn : Bool) : (moved s n bs psn).ls = s.ls := by
  obtain ⟨ts, ws, m, ps, h⟩ := homeWrite_hbm_shape s n (offsets bs) psn none
  rw [moved, h]

theorem moved_answers (s : State) (rk ctx n : Nat) (bs : List Byte) (psn : Bool) : SameAnswers s (moved s n bs psn) rk ctx := by
  obtain ⟨ts, ws, m, ps, h⟩ := homeWrite_hbm_shape s n (offsets bs) psn none
  rw [moved, h]
  exact ⟨rfl, rfl, rfl, rfl, rfl⟩

theorem hbmByte_moved {bs : List Byte} {psn : Bool} {q : Nat} (hw : withdrawn s n = false) (hm : memWf s.hbm = true)
    (hlen : n + bs.length ≤ 2 ^ 40) (hq : q < 2 ^ 40) :
    hbmByte (moved s n bs psn) q = if n ≤ q ∧ q < n + bs.length then bs.getD (q - n) 0 else hbmByte s q :=
  (hbmByte_congr rfl rfl q).trans (hbmByte_homeWrite psn none hw hm hlen hq)

/-- The bytes of a FILL. -/
def fillBytes (pattern : W64) (len : Nat) : List Byte := (List.range len).map fun i => byteOf pattern.toNat (i % 8)

theorem fillBytes_length (pattern : W64) (len : Nat) : (fillBytes pattern len).length = len := by rw [fillBytes, List.length_map, List.length_range]

theorem homeRead_length (s : State) (t : Target) (len : Nat) : (homeRead s t len).length = len := by rw [homeRead, List.length_map, List.length_range]

theorem ofNat_b2n (b : Bool) : BitVec.ofNat 64 (b2n b) = if b then 1 else 0 := by cases b <;> rfl

theorem fillSource_start (pattern : W64) : fillSource pattern s 0 len e = .ok (fillBytes pattern len) false s e := by
  simp only [fillSource, fillBytes, byteOf, Nat.zero_add, pow_mul]
  rfl

theorem range_map_getD {g : Nat → Byte} {i : Nat} (hi : i < len) : ((List.range len).map g).getD i 0 = g i := by
  simp [List.getD_eq_getElem?_getD, hi]

section
variable {rk dst : Nat} (hdst : dst = (pktP p 1).toNat) (hlen : len = (pktP p 2).toNat) (h0 : 0 < len) (hline : dst % 64 + len ≤ 64)
  (hy : agentXlat s (commandAgent (pktCtx p)) .write (dst : Int) = .ok y) (htgt : y.tgt = .hbm n) (hlock : lineLocked s (.hbm n) = false)
  (hheld : homeHeld s (.hbm n) = false)
include hdst hlen h0 hline hy htgt hlock hheld

theorem cmdMove_line {src : Nat → Source} {bs : List Byte} {psn : Bool} (hsrc : src len s 0 len e = .ok bs psn s e1) :
    cmdMove src e s rk p =
      finish (moved s n bs psn) rk 0 0 (BitVec.ofNat 64 len) (BitVec.ofNat 64 (if pktOp p = 0x1A then b2n psn else 0)) 0 0 := by
  have hmove := moveAll_line h0 hline hsrc hy htgt hlock hheld
  subst hdst hlen
  simp only [cmdMove, hmove]
  rfl

theorem cmdFill_line (hop : pktOp p = 0x1B) : cmdFill e s rk p = finish (moved s n (fillBytes (pktP p 0) len) false) rk 0 0 (BitVec.ofNat 64 len) 0 0 0 := by
  rw [cmdFill, cmdMove_line hdst hlen h0 hline hy htgt hlock hheld (fillSource_start _), hop]
  rfl

theorem cmdCopy_line {src b : Nat} (hop : pktOp p = 0x1A) (hsrc : src = (pktP p 0).toNat) (hsline : src % 64 + len ≤ 64)
    (hz : agentXlat s (commandAgent (pktCtx p)) .read (src : Int) = .ok z) (hztgt : z.tgt = .hbm b) (hzlock : lineLocked s (.hbm b) = false)
    (hzheld : homeHeld s (.hbm b) = false) :
    cmdCopy e s rk p = finish (moved s n (homeRead s (.hbm b) len) (homePoison s (.hbm b))) rk 0 0 (BitVec.ofNat 64 len)
      (BitVec.ofNat 64 (b2n (homePoison s (.hbm b)))) 0 0 := by
  subst hsrc
  rw [cmdCopy, cmdMove_line hdst hlen h0 hline hy htgt hlock hheld (copySource_line h0 hsline hz hztgt hzlock hzheld), hop]
  rfl

end

end

end Sys2Proof.Machine
end

section
/-!
PROOFS. Writes to local stores at their homes: what every byte reads as after one, after a span and after the same span in several cores
(R178, R179).
-/
namespace Sys2Proof.Machine

section
variable {s t : State} {c c' o q line : Nat}

/-! ### Lists of bytes by offset -/

/-- Bytes given by offset: an address reads as the byte of its offset where that is among those written, else as before. -/
theorem memGet_puts_map {m : Tbl Byte} {base i : Nat} (g : Nat → Byte) (l : List Nat) (hm : memWf m = true) :
    memGet ((l.map fun j => (j, g j)).foldl (fun m (p : Nat × Byte) => memPut m (base + p.1) p.2) m) (base + i) =
      if i ∈ l then g i else memGet m (base + i) := by
  induction l using List.reverseRecOn with
  | nil => simp
  | append_singleton l j ih =>
    rw [List.map_append, List.map_singleton, List.foldl_append, List.foldl_cons, List.foldl_nil]
    by_cases hij : i = j
    · have hwf := memWf_puts (base + ·) (l.map fun j => (j, g j)) m hm
      simp [hij, memGet_memPut_self _ _ _ hwf]
    · rw [memGet_memPut_ne _ _ (by omega : base + i ≠ base + j), ih]
      simp [hij]

theorem memGet_puts_ne {m : Tbl Byte} {key : Nat → Nat} (bytes : List (Nat × Byte)) (hq : ∀ b ∈ bytes, q ≠ key b.1) :
    memGet (bytes.foldl (fun m (p : Nat × Byte) => memPut m (key p.1) p.2) m) q = memGet m q := by
  induction bytes generalizing m with
  | nil => rfl
  | cons b bytes ih =>
    rw [List.foldl_cons, ih fun b' hb' => hq b' (List.mem_cons_of_mem _ hb'), memGet_memPut_ne _ _ (hq b List.mem_cons_self)]

/-! ### A byte of a store -/

/-- The gather buffer's entry for a line of a core. -/
def bufferedLine (s : State) (c line : Nat) : Option GEntry := (core s c).gbuf.find? fun e => e.line.toNat == line

theorem storeByte_buffered (s : State) (c o : Nat) :
    storeByte s c o = match bufferedLine s c (o / 64) with
      | some e => if bit e.mask.toNat (o % 64) then lineByte e.data (o % 64) else memGet s.ls (c * 2 ^ 20 + o)
      | none => memGet s.ls (c * 2 ^ 20 + o) := by
  unfold storeByte bufferedLine
  cases (core s c).gbuf.find? fun e => e.line.toNat == o / 64 <;> rfl

theorem storeByte_unbuffered (h : bufferedLine s c (o / 64) = none) : storeByte s c o = memGet s.ls (c * 2 ^ 20 + o) := by rw [storeByte_buffered, h]

theorem storeByte_congr (hbuf : bufferedLine t c (o / 64) = bufferedLine s c (o / 64)) (hls : memGet t.ls (c * 2 ^ 20 + o) = memGet s.ls (c * 2 ^ 20 + o)) :
    storeByte t c o = storeByte s c o := by
  rw [storeByte_buffered, storeByte_buffered, hbuf, hls]

/-! ### A bank and a gather buffer -/

theorem bankWrite_shape (s : State) (c o : Nat) (bytes : List (Nat × Byte)) (psn : Bool) :
    ∃ lp, bankWrite s c o bytes psn =
      { s with ls := bytes.foldl (fun m (p : Nat × Byte) => memPut m (c * 2 ^ 20 + o + p.1) p.2) s.ls, lsPoison := lp } := by
  simp only [bankWrite]
  split
  · exact ⟨_, rfl⟩
  · split
    · exact ⟨_, rfl⟩
    · exact ⟨s.lsPoison, rfl⟩

theorem gbufFlush_none (h : bufferedLine s c line = none) : gbufFlush s c line = s := by
  unfold bufferedLine at h
  rw [gbufFlush, h]

/-- A core without the gather buffer's entry for a line. -/
def dropBuffered (line : Nat) (x : Core) : Core := { x with gbuf := x.gbuf.filter fun e => e.line.toNat != line }

theorem gbufFlush_some {e : GEntry} (h : bufferedLine s c line = some e) :
    gbufFlush s c line = bankWrite (modCore s c (dropBuffered line)) c (line * 64) (maskBytes e.mask e.data) false := by
  unfold bufferedLine at h
  rw [gbufFlush, h]
  rfl

theorem find?_dropBuffered (l : List GEntry) (line line' : Nat) :
    (l.filter fun e => e.line.toNat != line).find? (fun e => e.line.toNat == line') =
      if line' = line then none else l.find? fun e => e.line.toNat == line' := by
  rw [List.find?_filter]
  split
  · next h => simp [h]
  · next h =>
    congr 1
    funext e
    by_cases he : e.line.toNat = line' <;> simp [he, h]

theorem bufferedLine_dropBuffered (s : State) (c c' line line' : Nat) :
    bufferedLine (modCore s c (dropBuffered line)) c' line' = if c' = c ∧ line' = line then none else bufferedLine s c' line' := by
  unfold bufferedLine
  by_cases hc : c' = c
  · subst hc
    rw [core_modCore_self, dropBuffered, find?_dropBuffered]
    simp
  · rw [core_modCore_ne _ _ hc, if_neg fun h => hc h.1]

theorem bufferedLine_gbufFlush (s : State) (c c' line line' : Nat) :
    bufferedLine (gbufFlush s c line) c' line' = if c' = c ∧ line' = line then none else bufferedLine s c' line' := by
  cases h : bufferedLine s c line with
  | none =>
    rw [gbufFlush_none h]
    split
    · next hin => rw [hin.1, hin.2, h]
    · rfl
  | some e =>
    obtain ⟨lp, hshape⟩ := bankWrite_shape (modCore s c (dropBuffered line)) c (line * 64) (maskBytes e.mask e.data) false
    rw [gbufFlush_some h, hshape]
    exact bufferedLine_dropBuffered s c c' line line'

theorem memGet_maskBytes {m : Tbl Byte} {base i : Nat} (mask : BitVec 64) (d : V512) (hm : memWf m = true) (hi : i < 64) :
    memGet ((maskBytes mask d).foldl (fun m (p : Nat × Byte) => memPut m (base + p.1) p.2) m) (base + i) =
      if bit mask.toNat i then lineByte d i else memGet m (base + i) := by
  rw [maskBytes, memGet_puts_map (lineByte d) _ hm]
  simp [hi]

theorem maskBytes_offset_lt {mask : BitVec 64} {d : V512} {b : Nat × Byte} (h : b ∈ maskBytes mask d) : b.1 < 64 := by
  obtain ⟨i, hi, rfl⟩ := List.mem_map.mp h
  exact List.mem_range.mp (List.mem_filter.mp hi).1

theorem bufferedLine_line {e : GEntry} (h : bufferedLine s c line = some e) : e.line.toNat = line := by
  simpa using List.find?_some h

/-- Writing a gather buffer entry to its bank changes no byte that the store reads as (R178). -/
theorem storeByte_gbufFlush (hm : memWf s.ls = true) (hq : q < 2 ^ 20) : storeByte (gbufFlush s c line) c' q = storeByte s c' q := by
  cases h : bufferedLine s c line with
  | none => rw [gbufFlush_none h]
  | some e =>
    have hline : line < 2 ^ 14 := by
      rw [← bufferedLine_line h]
      exact e.line.isLt
    have hbuf := bufferedLine_gbufFlush s c c' line (q / 64)
    obtain ⟨lp, hshape⟩ := bankWrite_shape (modCore s c (dropBuffered line)) c (line * 64) (maskBytes e.mask e.data) false
    have hls : (gbufFlush s c line).ls =
        (maskBytes e.mask e.data).foldl (fun m (p : Nat × Byte) => memPut m (c * 2 ^ 20 + line * 64 + p.1) p.2) s.ls := by
      rw [gbufFlush_some h, hshape]
      rfl
    by_cases hin : c' = c ∧ q / 64 = line
    · obtain ⟨rfl, rfl⟩ := hin
      have haddr : c' * 2 ^ 20 + q = c' * 2 ^ 20 + q / 64 * 64 + q % 64 := by omega
      rw [if_pos ⟨rfl, rfl⟩] at hbuf
      rw [storeByte_unbuffered hbuf, storeByte_buffered s, h, hls]
      conv_lhs => rw [haddr]
      rw [memGet_maskBytes _ _ hm (Nat.mod_lt _ (by decide)), ← haddr]
    · rw [if_neg hin] at hbuf
      refine storeByte_congr hbuf ?_
      rw [hls]
      refine memGet_puts_ne (key := fun i => c * 2 ^ 20 + line * 64 + i) _ fun b hb => ?_
      have := maskBytes_offset_lt hb
      omega

theorem gbufFlush_memWf (hm : memWf s.ls = true) : memWf (gbufFlush s c line).ls = true := by
  cases h : bufferedLine s c line with
  | none => rwa [gbufFlush_none h]
  | some e =>
    obtain ⟨lp, hshape⟩ := bankWrite_shape (modCore s c (dropBuffered line)) c (line * 64) (maskBytes e.mask e.data) false
    rw [gbufFlush_some h, hshape]
    exact memWf_puts (fun i => c * 2 ^ 20 + line * 64 + i) _ _ hm

theorem gbufFlush_shape (s : State) (c line : Nat) : ∃ cs m lp, gbufFlush s c line = { s with cores := cs, ls := m, lsPoison := lp } := by
  cases h : bufferedLine s c line with
  | none => exact ⟨s.cores, s.ls, s.lsPoison, gbufFlush_none h⟩
  | some e =>
    obtain ⟨lp, hshape⟩ := bankWrite_shape (modCore s c (dropBuffered line)) c (line * 64) (maskBytes e.mask e.data) false
    exact ⟨_, _, lp, (gbufFlush_some h).trans hshape⟩

/-! ### A write within one line -/

section
variable {bs : List Byte} {psn : Bool} {by_ : Option Nat}

theorem homeWrite_store_shape (s : State) (c o : Nat) (bytes : List (Nat × Byte)) (psn : Bool) (by_ : Option Nat) :
    ∃ ts ws cs m lp, homeWrite s (.store c o) bytes psn by_ = { s with threads := ts, watches := ws, cores := cs, ls := m, lsPoison := lp } := by
  obtain ⟨ts, ws, hbreak⟩ := breakWatches_shape s (.store (BitVec.ofNat 11 c)) ((2 ^ 40 + c * 2 ^ 20 + o) / 64) by_
  rw [homeWrite, hbreak]
  obtain ⟨cs, m, lp, hflush⟩ := gbufFlush_shape { s with threads := ts, watches := ws } c (o / 64)
  rw [hflush]
  obtain ⟨lp', hbank⟩ := bankWrite_shape { s with threads := ts, watches := ws, cores := cs, ls := m, lsPoison := lp } c o bytes psn
  exact ⟨ts, ws, cs, _, lp', hbank⟩

/-- The store that a write within one line leaves: the line's buffer is written to its bank first, then the bytes to the bank. -/
theorem homeWrite_store_bank (s : State) (c o : Nat) (bs : List Byte) (psn : Bool) (by_ : Option Nat) :
    ∃ u, (∀ q, q < 2 ^ 20 → memWf s.ls = true → ∀ c', storeByte u c' q = storeByte s c' q) ∧ (memWf s.ls = true → memWf u.ls = true) ∧
      bufferedLine u c (o / 64) = none ∧ (homeWrite s (.store c o) (offsets bs) psn by_).ls = putBytes (fun i => c * 2 ^ 20 + o + i) bs u.ls ∧
      ∀ c' line, bufferedLine (homeWrite s (.store c o) (offsets bs) psn by_) c' line = bufferedLine u c' line := by
  obtain ⟨ts, ws, hbreak⟩ := breakWatches_shape s (.store (BitVec.ofNat 11 c)) ((2 ^ 40 + c * 2 ^ 20 + o) / 64) by_
  obtain ⟨lp, hbank⟩ := bankWrite_shape (gbufFlush { s with threads := ts, watches := ws } c (o / 64)) c o (offsets bs) psn
  refine ⟨gbufFlush { s with threads := ts, watches := ws } c (o / 64),
    fun q hq hm c' => storeByte_gbufFlush (s := { s with threads := ts, watches := ws }) hm hq,
    fun hm => gbufFlush_memWf (s := { s with threads := ts, watches := ws }) hm, ?_, ?_, fun c' line => ?_⟩
  · rw [bufferedLine_gbufFlush, if_pos ⟨rfl, rfl⟩]
  · rw [homeWrite, hbreak, hbank]
    rfl
  · rw [homeWrite, hbreak, hbank]
    rfl

theorem homeWrite_store_memWf (hm : memWf s.ls = true) : memWf (homeWrite s (.store c o) (offsets bs) psn by_).ls = true := by
  obtain ⟨u, -, hwf, -, hls, -⟩ := homeWrite_store_bank s c o bs psn by_
  rw [hls]
  exact putBytes_memWf bs (hwf hm)

/-- Every byte of every store after a write within one line. -/
theorem storeByte_homeWrite (hm : memWf s.ls = true) (hline : o % 64 + bs.length ≤ 64) (hend : o + bs.length ≤ 2 ^ 20) (hq : q < 2 ^ 20) :
    storeByte (homeWrite s (.store c o) (offsets bs) psn by_) c' q =
      if c' = c ∧ o ≤ q ∧ q < o + bs.length then bs.getD (q - o) 0 else storeByte s c' q := by
  obtain ⟨u, hsame, hwf, hfree, hls, hbuf⟩ := homeWrite_store_bank s c o bs psn by_
  split
  · next hin =>
    obtain ⟨rfl, hlo, hhi⟩ := hin
    have hlineq : q / 64 = o / 64 := by omega
    have haddr : c' * 2 ^ 20 + q = c' * 2 ^ 20 + o + (q - o) := by omega
    rw [storeByte_unbuffered (by rw [hbuf, hlineq, hfree]), hls, haddr]
    exact memGet_putBytes (key := fun i => c' * 2 ^ 20 + o + i) (hwf hm) (by omega) fun i j _ _ h => by omega
  · next hout =>
    rw [← hsame q hq hm c']
    refine storeByte_congr (hbuf c' (q / 64)) ?_
    rw [hls]
    exact memGet_putBytes_ne (key := fun i => c * 2 ^ 20 + o + i) fun i hi h => hout (by omega)

end

end

end Sys2Proof.Machine
end

section
/-!
PROOFS. LOAD_IMAGE of one store section: the section in the store of every core of the logical core table (R341, R17).
-/
namespace Sys2Proof.Machine

/-! ### Cutting a span at lines -/

/-- The pieces of a span are its parts in the lines that it meets. -/
theorem mem_pieces_iff {a len : Nat} {pc : Nat × Nat} :
    pc ∈ pieces a len ↔ ∃ i, i < (a % 64 + len + 63) / 64 ∧ i * 64 - a % 64 < min len ((i + 1) * 64 - a % 64) ∧
      pc = (i * 64 - a % 64, min len ((i + 1) * 64 - a % 64) - (i * 64 - a % 64)) := by
  have hstart : ∀ i, (if i = 0 then 0 else i * 64 - a % 64) = i * 64 - a % 64 := fun i => by split <;> omega
  simp only [pieces, hstart, List.mem_filterMap, List.mem_range, Option.ite_none_right_eq_some, Option.some.injEq, @eq_comm _ pc]

theorem mem_pieces {a len : Nat} {pc : Nat × Nat} (h : pc ∈ pieces a len) : (a + pc.1) % 64 + pc.2 ≤ 64 ∧ pc.1 + pc.2 ≤ len := by
  obtain ⟨i, -, hlt, rfl⟩ := mem_pieces_iff.mp h
  dsimp only
  omega

/-- Every byte of a span is in one of its pieces. -/
theorem exists_mem_pieces {a len j : Nat} (hj : j < len) : ∃ pc ∈ pieces a len, pc.1 ≤ j ∧ j < pc.1 + pc.2 := by
  refine ⟨_, mem_pieces_iff.mpr ⟨(a % 64 + j) / 64, ?_, ?_, rfl⟩, ?_⟩
  · omega
  · omega
  · dsimp only
    omega

section
variable {s : State} {b : List Byte} {c c' o q : Nat}

/-! ### A span of a store -/

/-- Write some pieces of a list of bytes into a core's store. -/
def storePieces (s : State) (c o : Nat) (b : List Byte) (l : List (Nat × Nat)) : State :=
  l.foldl (fun s pc => homeWrite s (.store c (o + pc.1)) (offsets ((b.drop pc.1).take pc.2)) false none) s

theorem storePieces_memWf {l : List (Nat × Nat)} (hm : memWf s.ls = true) : memWf (storePieces s c o b l).ls = true := by
  induction l generalizing s with
  | nil => exact hm
  | cons pc l ih => exact ih (homeWrite_store_memWf hm)

theorem storeByte_storePieces {l : List (Nat × Nat)} (hl : ∀ pc ∈ l, (o + pc.1) % 64 + pc.2 ≤ 64 ∧ pc.1 + pc.2 ≤ b.length) (hm : memWf s.ls = true)
    (hend : o + b.length ≤ 2 ^ 20) (hq : q < 2 ^ 20) :
    storeByte (storePieces s c o b l) c' q =
      if c' = c ∧ ∃ pc ∈ l, o + pc.1 ≤ q ∧ q < o + pc.1 + pc.2 then b.getD (q - o) 0 else storeByte s c' q := by
  induction l generalizing s with
  | nil => simp [storePieces]
  | cons pc l ih =>
    obtain ⟨hline, hin⟩ := hl pc List.mem_cons_self
    have hlen : ((b.drop pc.1).take pc.2).length = pc.2 := by
      rw [List.length_take, List.length_drop]
      omega
    have hone := storeByte_homeWrite (c := c) (c' := c') (o := o + pc.1) (bs := (b.drop pc.1).take pc.2) (psn := false) (by_ := none) hm
      (by rw [hlen]; exact hline) (by rw [hlen]; omega) hq
    have hrest := ih (s := homeWrite s (.store c (o + pc.1)) (offsets ((b.drop pc.1).take pc.2)) false none)
      (fun pc' hpc' => hl pc' (List.mem_cons_of_mem _ hpc')) (homeWrite_store_memWf hm)
    rw [hlen] at hone
    have hstep : storePieces s c o b (pc :: l) =
        storePieces (homeWrite s (.store c (o + pc.1)) (offsets ((b.drop pc.1).take pc.2)) false none) c o b l := rfl
    rw [hstep, hrest, hone]
    by_cases hlater : c' = c ∧ ∃ pc' ∈ l, o + pc'.1 ≤ q ∧ q < o + pc'.1 + pc'.2
    · obtain ⟨hc, pc', hpc', hat⟩ := hlater
      rw [if_pos ⟨hc, pc', hpc', hat⟩, if_pos ⟨hc, pc', List.mem_cons_of_mem _ hpc', hat⟩]
    · rw [if_neg hlater]
      by_cases hhere : c' = c ∧ o + pc.1 ≤ q ∧ q < o + pc.1 + pc.2
      · obtain ⟨hc, hat⟩ := hhere
        have hget : ((b.drop pc.1).take pc.2).getD (q - (o + pc.1)) 0 = b.getD (q - o) 0 := by
          rw [List.getD_eq_getElem?_getD, List.getElem?_take_of_lt (by omega), List.getElem?_drop, ← List.getD_eq_getElem?_getD,
            show pc.1 + (q - (o + pc.1)) = q - o by omega]
        rw [if_pos ⟨hc, hat⟩, if_pos ⟨hc, pc, List.mem_cons_self, hat⟩, hget]
      · rw [if_neg hhere, if_neg]
        rintro ⟨hc, pc', hpc', hat⟩
        rcases List.mem_cons.mp hpc' with rfl | hmem
        · exact hhere ⟨hc, hat⟩
        · exact hlater ⟨hc, pc', hmem, hat⟩

theorem storeBytes_eq (s : State) (c o : Nat) (b : List Byte) : storeBytes s c o b = storePieces s c o b (pieces o b.length) := rfl

theorem storeByte_storeBytes (hm : memWf s.ls = true) (hend : o + b.length ≤ 2 ^ 20) (hq : q < 2 ^ 20) :
    storeByte (storeBytes s c o b) c' q = if c' = c ∧ o ≤ q ∧ q < o + b.length then b.getD (q - o) 0 else storeByte s c' q := by
  have hcover : (∃ pc ∈ pieces o b.length, o + pc.1 ≤ q ∧ q < o + pc.1 + pc.2) ↔ o ≤ q ∧ q < o + b.length := by
    constructor
    · rintro ⟨pc, hpc, hlo, hhi⟩
      have := (mem_pieces hpc).2
      omega
    · rintro ⟨hlo, hhi⟩
      obtain ⟨pc, hpc, h1, h2⟩ := exists_mem_pieces (a := o) (show q - o < b.length by omega)
      exact ⟨pc, hpc, by omega, by omega⟩
  rw [storeBytes_eq, storeByte_storePieces (fun pc hpc => mem_pieces hpc) hm hend hq]
  simp only [hcover]

/-! ### The same span in several cores -/

/-- Write the same bytes into the stores of several cores. -/
def storeAll (s : State) (table : List Nat) (o : Nat) (b : List Byte) : State := table.foldl (fun s c => storeBytes s c o b) s

theorem storeByte_storeAll {table : List Nat} (hm : memWf s.ls = true) (hend : o + b.length ≤ 2 ^ 20) (hq : q < 2 ^ 20) :
    storeByte (storeAll s table o b) c q = if c ∈ table ∧ o ≤ q ∧ q < o + b.length then b.getD (q - o) 0 else storeByte s c q := by
  induction table generalizing s with
  | nil => simp [storeAll]
  | cons d table ih =>
    have hstep : storeAll s (d :: table) o b = storeAll (storeBytes s d o b) table o b := rfl
    rw [hstep, ih (s := storeBytes s d o b) (storePieces_memWf hm), storeByte_storeBytes hm hend hq]
    by_cases hat : o ≤ q ∧ q < o + b.length
    · by_cases ht : c ∈ table
      · simp only [List.mem_cons, hat, ht, or_true, and_self, if_true]
      · simp only [List.mem_cons, hat, ht, or_false, and_true, and_self, if_false]
    · simp only [hat, and_false, if_false]

theorem storePieces_shape (s : State) (c o : Nat) (b : List Byte) (l : List (Nat × Nat)) :
    ∃ ts ws cs m lp, storePieces s c o b l = { s with threads := ts, watches := ws, cores := cs, ls := m, lsPoison := lp } := by
  induction l generalizing s with
  | nil => exact ⟨s.threads, s.watches, s.cores, s.ls, s.lsPoison, rfl⟩
  | cons pc l ih =>
    obtain ⟨ts, ws, cs, m, lp, hone⟩ := homeWrite_store_shape s c (o + pc.1) (offsets ((b.drop pc.1).take pc.2)) false none
    obtain ⟨ts', ws', cs', m', lp', hrest⟩ := ih (homeWrite s (.store c (o + pc.1)) (offsets ((b.drop pc.1).take pc.2)) false none)
    refine ⟨ts', ws', cs', m', lp', ?_⟩
    rw [storePieces, List.foldl_cons, ← storePieces, hrest, hone]

theorem storeAll_shape (s : State) (table : List Nat) (o : Nat) (b : List Byte) :
    ∃ ts ws cs m lp, storeAll s table o b = { s with threads := ts, watches := ws, cores := cs, ls := m, lsPoison := lp } := by
  induction table generalizing s with
  | nil => exact ⟨s.threads, s.watches, s.cores, s.ls, s.lsPoison, rfl⟩
  | cons d table ih =>
    obtain ⟨ts, ws, cs, m, lp, hone⟩ := storePieces_shape s d o b (pieces o b.length)
    obtain ⟨ts', ws', cs', m', lp', hrest⟩ := ih (storeBytes s d o b)
    refine ⟨ts', ws', cs', m', lp', ?_⟩
    rw [storeAll, List.foldl_cons, ← storeAll, hrest, storeBytes_eq, hone]

/-! ### Counter modes -/

theorem foldl_modCore_shape (l : List Nat) (f : Nat → Core → Core) (hf : ∀ c x, (f c x).gbuf = x.gbuf) (s : State) :
    ∃ cs, l.foldl (fun s c => modCore s c (f c)) s = { s with cores := cs } ∧ ∀ c, (core { s with cores := cs } c).gbuf = (core s c).gbuf := by
  induction l generalizing s with
  | nil => exact ⟨s.cores, rfl, fun _ => rfl⟩
  | cons d l ih =>
    obtain ⟨cs, hcs, hsame⟩ := ih (modCore s d (f d))
    refine ⟨cs, hcs, fun c => (hsame c).trans ?_⟩
    by_cases hc : c = d
    · rw [hc, core_modCore_self, hf]
    · rw [core_modCore_ne _ _ hc]

/-- A context that holds the weighbridge cells of its map, under virtual allocation. -/
def holdCells (virt : Bool) (cells : List Nat) (y : Ctx) : Ctx := { y with wbHeld := if virt then cells else y.wbHeld }

/-- What an image without Counter Map entries does to counters changes modes and caches of the map, and the context's weighbridge cells. -/
theorem applyCounters_shape {x : Ctx} {l : List Section} (hl : imageEntries l = []) (s : State) (ctx : Nat) (table : List Nat) :
    ∃ cs cells bs cells', applyCounters s ctx x l table =
        modCtx { s with cores := cs, wbCells := cells, benches := bs } ctx (holdCells x.virt cells') ∧
      ∀ c, (core { s with cores := cs } c).gbuf = (core s c).gbuf := by
  unfold applyCounters
  simp only [hl, List.foldl_nil, List.map_nil]
  generalize (if x.virt = true then _ else wordModes table (imageModes l)) = modes
  obtain ⟨cs, hcs, hsame⟩ := foldl_modCore_shape (grantCores s x) (fun c y => { y with ctrMode := BitVec.ofNat 48 (modeWord modes c), ctrDead := false })
    (fun _ _ => rfl) s
  rw [hcs]
  exact ⟨cs, _, _, _, rfl, hsame⟩

end

end Sys2Proof.Machine
end

section
/-!
PROOFS. LOAD_IMAGE of one store section as a command, and the memory commands together (R28 to R32, R276, R314, R333, R341).
-/
namespace Sys2Proof.Machine

section
variable {s : State} {p : Packet} {x : Ctx} {z : Section} {ctx : Nat}

/-! ### Settings of a context -/

theorem modCtx_shape (s : State) (i : Nat) (f : Ctx → Ctx) : ∃ cs, modCtx s i f = { s with ctxs := cs } := by
  unfold modCtx
  split
  · exact ⟨s.ctxs, rfl⟩
  · exact ⟨_, rfl⟩

/-- A change of a context that keeps its port and function keeps its owner. -/
theorem ringOwns_modCtx {f : Ctx → Ctx} (hf : ∀ x, (f x).port = x.port ∧ (f x).fn = x.fn) (s : State) (i rk c : Nat) :
    ringOwns (modCtx s i f) rk c = ringOwns s rk c := by
  unfold modCtx
  cases hi : Tbl.get? s.ctxs i with
  | none => rfl
  | some x =>
    simp only [ringOwns]
    by_cases hc : c = i
    · obtain ⟨hport, hfn⟩ := hf x
      rw [hc, Tbl.get?_set_self, hi]
      simp only [hport, hfn]
    · rw [Tbl.get?_set_ne _ _ hc]

theorem storeByte_modCtx (s : State) (i : Nat) (f : Ctx → Ctx) (c o : Nat) : storeByte (modCtx s i f) c o = storeByte s c o := by
  obtain ⟨cs, h⟩ := modCtx_shape s i f
  rw [h]
  rfl

theorem modCtx_answers {f : Ctx → Ctx} (hf : ∀ x, (f x).port = x.port ∧ (f x).fn = x.fn) (s : State) (i rk c : Nat) :
    SameAnswers s (modCtx s i f) rk c := by
  have howns := ringOwns_modCtx hf s i rk c
  obtain ⟨cs, h⟩ := modCtx_shape s i f
  rw [h] at howns ⊢
  exact ⟨rfl, rfl, rfl, rfl, howns⟩

theorem sameAnswers_trans {t u : State} {rk c : Nat} (hst : SameAnswers s t rk c) (htu : SameAnswers t u rk c) : SameAnswers s u rk c :=
  ⟨htu.rings.trans hst.rings, htu.evrings.trans hst.evrings, htu.seqs.trans hst.seqs, htu.dev.trans hst.dev, htu.owns.trans hst.owns⟩

/-! ### An image of one store section -/

/-- The context once an image of one store section is loaded: the default order of its cores. -/
def imageSettings (table : List Nat) (y : Ctx) : Ctx := { y with order := none, lcore := table, vbase1 := 0 }

theorem applyImage_store (hz : z.kind = 1) (s : State) (ctx : Nat) (x : Ctx) :
    applyImage s ctx x [z] =
      applyCounters (storeAll (modCtx s ctx (imageSettings (coreTable s x none))) (coreTable s x none) z.dest z.data) ctx x [z] (coreTable s x none) := by
  have hof : ∀ k, k ≠ 1 → ofKind [z] k = [] := fun k hk => by simp [ofKind, hz, Ne.symm hk]
  have h1 : ofKind [z] 1 = [z] := by simp [ofKind, hz]
  have horder : imageOrder [z] = none := by rw [imageOrder, hof 2 (by decide)]
  simp only [applyImage, horder, h1, hof 5 (by decide), hof 6 (by decide), List.foldl_cons, List.foldl_nil, List.map_nil]
  rfl

theorem imageEntries_store (hz : z.kind = 1) : imageEntries [z] = [] := by simp [imageEntries, ofKind, hz]

/-- A section that no rule refuses ends below the reserved area of the store. -/
theorem imageBad_none_bound (hz : z.kind = 1) (hbad : imageBad s ctx x [z] = none) : z.dest + z.data.length ≤ 0x78000 := by
  by_contra hlong
  have hsection : ∀ n, sectionOk n z = false := fun n => by simp only [sectionOk, hz, if_true, decide_eq_false_iff_not, hlong, not_false_iff]
  simp [imageBad, hsection] at hbad

theorem storeAll_answers (s : State) (table : List Nat) (o : Nat) (b : List Byte) (rk c : Nat) : SameAnswers s (storeAll s table o b) rk c := by
  obtain ⟨ts, ws, cs, m, lp, h⟩ := storeAll_shape s table o b
  rw [h]
  exact ⟨rfl, rfl, rfl, rfl, rfl⟩

theorem storeAll_hbm (s : State) (table : List Nat) (o : Nat) (b : List Byte) : (storeAll s table o b).hbm = s.hbm := by
  obtain ⟨ts, ws, cs, m, lp, h⟩ := storeAll_shape s table o b
  rw [h]

theorem applyCounters_answers (hz : z.kind = 1) (s : State) (table : List Nat) (rk : Nat) : SameAnswers s (applyCounters s ctx x [z] table) rk ctx := by
  obtain ⟨cs, cells, bs, cells', h, -⟩ := applyCounters_shape (x := x) (imageEntries_store hz) s ctx table
  rw [h]
  exact sameAnswers_trans (t := { s with cores := cs, wbCells := cells, benches := bs }) ⟨rfl, rfl, rfl, rfl, rfl⟩
    (modCtx_answers (f := holdCells x.virt cells') (fun _ => ⟨rfl, rfl⟩) _ ctx rk ctx)

theorem applyCounters_hbm (hz : z.kind = 1) (s : State) (table : List Nat) : (applyCounters s ctx x [z] table).hbm = s.hbm := by
  obtain ⟨cs, cells, bs, cells', h, -⟩ := applyCounters_shape (x := x) (imageEntries_store hz) s ctx table
  rw [h, modCtx_hbm]

theorem storeByte_applyCounters (hz : z.kind = 1) (s : State) (table : List Nat) (c o : Nat) :
    storeByte (applyCounters s ctx x [z] table) c o = storeByte s c o := by
  obtain ⟨cs, cells, bs, cells', h, hgbuf⟩ := applyCounters_shape (x := x) (imageEntries_store hz) s ctx table
  rw [h, storeByte_modCtx]
  refine storeByte_congr ?_ rfl
  unfold bufferedLine
  exact congrArg _ (hgbuf c)

theorem applyImage_answers (hz : z.kind = 1) (s : State) (rk : Nat) : SameAnswers s (applyImage s ctx x [z]) rk ctx := by
  rw [applyImage_store hz]
  exact sameAnswers_trans (modCtx_answers (f := imageSettings (coreTable s x none)) (fun _ => ⟨rfl, rfl⟩) s ctx rk ctx)
    (sameAnswers_trans (storeAll_answers ..) (applyCounters_answers hz ..))

theorem applyImage_hbm (hz : z.kind = 1) (s : State) : (applyImage s ctx x [z]).hbm = s.hbm := by
  rw [applyImage_store hz, applyCounters_hbm hz, storeAll_hbm, modCtx_hbm]

theorem storeByte_applyImage {c o : Nat} (hz : z.kind = 1) (hbad : imageBad s ctx x [z] = none) (hm : memWf s.ls = true) (ho : o < 0x78000) :
    storeByte (applyImage s ctx x [z]) c o =
      if c ∈ coreTable s x none ∧ z.dest ≤ o ∧ o < z.dest + z.data.length then z.data.getD (o - z.dest) 0 else storeByte s c o := by
  have hend := imageBad_none_bound hz hbad
  have hmem : memWf (modCtx s ctx (imageSettings (coreTable s x none))).ls = true := by rwa [modCtx_ls]
  rw [applyImage_store hz, storeByte_applyCounters hz, storeByte_storeAll hmem (by omega) (by omega), storeByte_modCtx]

theorem cmdLoadImage_store {rk : Nat} {ext e : Ext} {img : List Byte} {t : State} (hx : Tbl.get? s.ctxs (pktCtx p) = some x)
    (hidle : ∀ l ∈ s.launches, l.ctx ≠ pktCtx p)
    (hbytes : agentBytes s (commandAgent (pktCtx p)) (pktP p 0).toNat (pktP p 1).toNat ext = .ok img false t e)
    (himg : imageSections img = some [z]) (hz : z.kind = 1) (hbad : imageBad s (pktCtx p) x [z] = none) :
    cmdLoadImage ext s rk p = finishWith (applyImage s (pktCtx p) x [z]) rk 0 := by
  have hbusy : (s.launches.any fun l => l.ctx == pktCtx p) = false := by simpa using hidle
  have h0 : ofKind [z] 0 = [] := by simp [ofKind, hz]
  simp only [cmdLoadImage, cmdCtx, hx, hbytes, himg, hbad, h0, imageWrites, hbusy, Bool.false_eq_true, if_false]

end

section
variable {s : State} {p : Packet} {x : Ctx} {r : RingRef} {ctx : Nat}

/-! ### The commands at their rings -/

/-- A completion that refuses changes no memory. -/
theorem refuse_completes {op status : Nat} (hb : Begins r op p s) (hop : namesNoContext op = false) :
    Completed r p s (finish s (ringKey r) status 0 0 0 0 0) status 0 0 0 ∧ SameMemory s (finish s (ringKey r) status 0 0 0 0 0) :=
  ⟨finish_from hb hop ⟨rfl, rfl, rfl, rfl, rfl⟩, finish_sameMemory ..⟩

/-- What a command of one page must find for its entry to be set. -/
structure PageReady (s : State) (r : RingRef) (p : Packet) (x : Ctx) : Prop where
  ctx : Tbl.get? s.ctxs (pktCtx p) = some x
  memory : memWf s.hbm = true
  page : OnePage p
  check : checkMap s (ringKey r) p = none
  reaches : Reaches s (pktP p 0).toNat x.root
  inHbm : leafAt s (pktP p 0).toNat x.root + 8 ≤ 2 ^ 40
  present : withdrawn s (leafAt s (pktP p 0).toNat x.root) = false
  ready : mapReady s p = true
  room : (applyMap s (ringKey r) p).isSome = true
  leaf : ¬ LeadsOn s (lastTable s (pktP p 0).toNat x.root) (pktP p 0).toNat 16
  mapped : pageEntry p = 0 → bit (readPte s (leafAt s (pktP p 0).toNat x.root)) 0 = true

/-- MAP and UNMAP of one page set its entry and drop its translations. -/
theorem mapPage_completes {op : Nat} (hb : Begins r op p s) (hop : namesNoContext op = false) (hr : PageReady s r p x) :
    ∃ t, runMember op r (fun s rk p => mapEffect s rk p noExt) s = t ∧ Completed r p s t 0 0 0 0 ∧
      (∀ n e, e ∈ (bench t n).tu → ¬ InRange (pktCtx p) (pktP p 0).toNat 65536 e) ∧ t.ls = s.ls ∧
      ∀ q, q < 2 ^ 40 → hbmByte t q =
        if leafAt s (pktP p 0).toNat x.root ≤ q ∧ q < leafAt s (pktP p 0).toNat x.root + 8 then byteOf (pageEntry p) (q - leafAt s (pktP p 0).toNat x.root)
        else hbmByte s q := by
  have happly := applyMap_page hr.page hr.ctx hr.reaches hr.leaf hr.mapped hr.room
  refine ⟨_, ?run, finish_from (u := remapped s (pktCtx p) (pktP p 0).toNat (leafAt s (pktP p 0).toNat x.root) (pageEntry p)) hb hop
    (remapped_answers ..), fun n e he => ?dropped, ?store, fun q hq => ?hbm⟩
  case run =>
    rw [runMember_begins hb, mapEffect_ready hr.check happly hr.ready]
    rfl
  case dropped =>
    rw [bench, finish_benches] at he
    exact not_inRange_of_mem_dropRange _ _ _ _ n e he
  case store => rw [finish_ls, remapped_ls]
  case hbm => rw [hbmByte_finish, hbmByte_remapped hr.present hr.memory hr.inHbm hq]

end

/-- Settles O47: MAP and UNMAP by `mapPage_completes` and the other effects of `mapEffect`, FILL and COPY by `cmdFill_line` and `cmdCopy_line`,
LOAD_IMAGE by `cmdLoadImage_store` and `storeByte_applyImage`. -/
theorem memoryCommands : Obligations.MemoryCommands := by
  unfold Obligations.MemoryCommands
  intro r ext p x s hx hhbm hls
  refine ⟨?map, ?unmap, ?window, ?later, ?full, ?refused, ?move, ?image⟩
  case map =>
    rintro hb ⟨hsize, hcount, hform, hcheck⟩ ⟨h39, h30, h21, hin, hpresent, hready, hroom⟩ hleaf
    have ⟨_, hop, _⟩ := hb
    obtain ⟨t, hrun, hdone, hdrop, hstore, hbytes⟩ := mapPage_completes hb rfl
      { ctx := hx, memory := hhbm, page := ⟨hsize, hcount, hform⟩, check := hcheck, reaches := ⟨h39, h30, h21⟩, inHbm := hin, present := hpresent,
        ready := hready, room := hroom, leaf := hleaf, mapped := fun h0 => absurd h0 (pageEntry_map_ne_zero hop) }
    rw [pageEntry_map hop] at hbytes
    exact ⟨t, congrArg Host.Outcome.next hrun, hdone, hdrop, hstore, hbytes⟩
  case unmap =>
    rintro hb ⟨hsize, hcount, hform, hcheck⟩ ⟨h39, h30, h21, hin, hpresent, hready, hroom⟩ hvalid hleaf
    have ⟨_, hop, _⟩ := hb
    obtain ⟨t, hrun, hdone, hdrop, hstore, hbytes⟩ := mapPage_completes hb rfl
      { ctx := hx, memory := hhbm, page := ⟨hsize, hcount, hform⟩, check := hcheck, reaches := ⟨h39, h30, h21⟩, inHbm := hin, present := hpresent,
        ready := hready, room := hroom, leaf := fun h => Bool.false_ne_true (h.2.symm.trans hleaf), mapped := fun _ => hvalid }
    simp only [pageEntry_unmap hop, byteOf_zero] at hbytes
    exact ⟨t, congrArg Host.Outcome.next hrun, hdone, hdrop, hstore, hbytes⟩
  case window =>
    intro hb hform hcheck
    have ⟨_, hop, _⟩ := hb
    refine ⟨_, congrArg Host.Outcome.next ((runMember_begins hb _).trans (congrArg _ (mapEffect_window hform hop hcheck noExt))),
      finish_from hb rfl ⟨rfl, rfl, rfl, rfl, rfl⟩, sameMemory_trans (sameMemory_of_eq rfl rfl rfl rfl rfl) (finish_sameMemory ..), ?_⟩
    rw [complete, finish_slots, slotOf, slotKey, ringKey_port]
    exact Tbl.get?_set_self ..
  case later =>
    intro hb hcheck hroom hready
    have ⟨hcur, _⟩ := hb
    obtain ⟨t, happly⟩ := Option.isSome_iff_exists.mp hroom
    refine ⟨_, congrArg Host.Outcome.next ((runMember_begins hb _).trans (congrArg _ (mapEffect_later hcheck happly hready noExt))), ?_, ?_,
      sameMemory_of_eq rfl rfl rfl rfl rfl⟩
    · rw [complete, answer, ring_modRing_self]
    · rw [complete, answer, ring_modRing_self]
      exact hcur
  case full =>
    intro hb hcheck happly
    obtain ⟨hdone, hsame⟩ := refuse_completes (status := 7) hb rfl
    exact ⟨_, congrArg Host.Outcome.next ((runMember_begins hb _).trans (congrArg _ (mapEffect_full hcheck happly noExt))), hdone, hsame⟩
  case refused =>
    intro hb hcheck
    obtain ⟨hdone, hsame⟩ := refuse_completes (status := 9) hb rfl
    exact ⟨_, congrArg Host.Outcome.next ((runMember_begins hb _).trans (congrArg _ (mapEffect_refused hcheck noExt))), hdone, hsame⟩
  case move =>
    intro y d hy htgt hend hpresent hlock hheld h0 hline
    refine ⟨fun hb => ?fill, fun z b hz hztgt hzlock hzheld hzline hb => ?copy⟩
    case fill =>
      have ⟨_, hop, _⟩ := hb
      refine ⟨_, congrArg Host.Outcome.next ((runCommand_begins hb _).trans (cmdFill_line rfl rfl h0 hline hy htgt hlock hheld hop)),
        finish_from hb rfl (moved_answers ..), (finish_ls ..).trans (moved_ls ..), fun q hq => ?_⟩
      rw [hbmByte_finish, hbmByte_moved hpresent hhbm (by rwa [fillBytes_length]) hq, fillBytes_length]
      exact ite_congr rfl (fun hat => range_map_getD (by omega)) fun _ => rfl
    case copy =>
      have ⟨_, hop, _⟩ := hb
      have hlen := homeRead_length s (.hbm b) (pktP p 2).toNat
      refine ⟨_, congrArg Host.Outcome.next ((runCommand_begins hb _).trans
        (cmdCopy_line rfl rfl h0 hline hy htgt hlock hheld hop rfl hzline hz hztgt hzlock hzheld)),
        ⟨(finish_ls ..).trans (moved_ls ..), fun q hq => ?_⟩, ?_⟩
      · rw [hbmByte_finish, hbmByte_moved hpresent hhbm (by rwa [hlen]) hq, hlen]
        exact ite_congr rfl (fun hat => range_map_getD (by omega)) fun _ => rfl
      · have hdone := finish_from (status := 0) (reason := 0) (w4 := BitVec.ofNat 64 (pktP p 2).toNat)
          (w5 := BitVec.ofNat 64 (b2n (homePoison s (.hbm b)))) hb rfl
          (moved_answers s (ringKey r) (pktCtx p) d (homeRead s (.hbm b) (pktP p 2).toNat) (homePoison s (.hbm b)))
        rwa [ofNat_b2n] at hdone ⊢
  case image =>
    intro img e z hb hidle hbytes himg hz hbad
    refine ⟨_, congrArg Host.Outcome.next ((runCommand_begins hb _).trans (cmdLoadImage_store hx hidle hbytes himg hz hbad)),
      finish_from hb rfl (applyImage_answers hz s _), (finish_hbm ..).trans (applyImage_hbm hz s), fun c o ho => ?_⟩
    exact (storeByte_finish ..).trans (storeByte_applyImage hz hbad hls ho)

end Sys2Proof.Machine
end

section
/-!
PROOFS. Folds and sets. What a fold over units keeps when each of its steps keeps it, what it does to one unit when only that unit's own step
touches it, and membership in a set after a removal.
-/
namespace Sys2Proof

/-! ### Folds over units -/

section
variable {σ α : Type} {R : σ → σ → Prop} {f : σ → α → σ} {l : List α} {a : α}

/-- What every step of a fold keeps, the fold keeps. -/
theorem foldl_frame (hrefl : ∀ s, R s s) (htrans : ∀ {s t u}, R s t → R t u → R s u) (hstep : ∀ s, ∀ x ∈ l, R s (f s x)) (s : σ) : R s (l.foldl f s) := by
  induction l generalizing s with
  | nil => exact hrefl s
  | cons x l ih =>
    exact htrans (hstep s x List.mem_cons_self) (ih (fun s y hy => hstep s y (List.mem_cons_of_mem x hy)) (f s x))

/-- A fold over a list without repeats takes the step of each of its units once: what the steps of all others keep stands before that step as
at the start, and at the end as after it. -/
theorem foldl_visit (hrefl : ∀ s, R s s) (htrans : ∀ {s t u}, R s t → R t u → R s u) (hother : ∀ s, ∀ x, x ≠ a → R s (f s x))
    (hl : l.Nodup) (ha : a ∈ l) (s : σ) : ∃ u, R s u ∧ R (f u a) (l.foldl f s) := by
  obtain ⟨before, after, rfl⟩ := List.append_of_mem ha
  have hnot : a ∉ before ++ after := (List.nodup_middle.mp hl).notMem
  have hframe : ∀ l' : List α, a ∉ l' → ∀ s, R s (l'.foldl f s) := fun l' h => foldl_frame hrefl htrans fun s x hx => hother s x (ne_of_mem_of_not_mem hx h)
  refine ⟨before.foldl f s, hframe before (fun h => hnot (List.mem_append_left _ h)) s, ?_⟩
  rw [List.foldl_append, List.foldl_cons]
  exact hframe after (fun h => hnot (List.mem_append_right _ h)) _

end

/-! ### Sets -/

theorem NSet.has_del_ne (l : NSet) {k j : Nat} (h : j ≠ k) : NSet.has (NSet.del l k) j = NSet.has l j := by
  induction l with
  | nil => rfl
  | cons a l ih =>
    simp only [NSet.del]
    split
    · next hak => rw [NSet.has, if_neg (by omega)]
    · simp only [NSet.has, ih]

theorem NSet.has_eq_true_iff (l : NSet) (k : Nat) : NSet.has l k = true ↔ k ∈ l := by
  induction l with
  | nil => simp [NSet.has]
  | cons a l ih =>
    rw [NSet.has, List.mem_cons]
    split
    · next hak => simp [hak]
    · next hak => simp [ih, Ne.symm hak]

/-- A number removed from a set in its canonical form is out of it. -/
theorem NSet.has_del_self {l : NSet} (k : Nat) (h : NSet.wf l = true) : NSet.has (NSet.del l k) k = false := by
  rw [NSet.wf_iff] at h
  induction l with
  | nil => rfl
  | cons a l ih =>
    obtain ⟨hlt, hl⟩ := List.pairwise_cons.mp h
    simp only [NSet.del]
    split
    · next hak =>
      subst hak
      rw [← Bool.not_eq_true, NSet.has_eq_true_iff]
      exact fun hmem => lt_irrefl _ (hlt _ hmem)
    · next hak => rw [NSet.has, if_neg hak, ih hl]

end Sys2Proof
end

section
/-!
PROOFS. The queue and time (R47, R49; log entry 2): a step takes one command out of the queue, and an idle step advances the tick, the stamps
and the pacers.
-/
namespace Sys2Proof.Machine

section
variable {s t : State} {f : Nat → Node → Node} {l : List Nat} {m n : Nat}

/-! ### The queue -/

theorem fuseBlow_pending (s : State) : (fuseBlow s).pending = s.pending := by
  unfold fuseBlow
  split <;> rfl

/-- A command changes no entry of the queue behind it. -/
theorem exec_pending {i : Instr} (e : exec i s = .next t) : t.pending = s.pending := by
  by_cases hi : i = .fuseBlow
  · subst hi
    cases e
    exact fuseBlow_pending s
  · have hkeeps := exec_keeps hi (Keeps.refl s)
    rw [e] at hkeeps
    obtain ⟨-, -, hpending⟩ := hkeeps
    exact hpending

theorem step_pending (e : step s = .next t) : t.pending = s.pending.drop 1 := by
  cases hq : s.pending with
  | nil =>
    rw [step_of_pending_nil hq] at e
    obtain ⟨-, -, hpending⟩ : Keeps s (idle s) := idle_keeps (Keeps.refl s)
    rw [← Host.Outcome.next.inj e, hpending, hq, List.drop_nil]
  | cons c rest =>
    rw [step_of_pending_cons hq] at e
    exact exec_pending e

/-! ### A change of several nodes -/

/-- A change of each node of a list changes the table of nodes alone. -/
theorem foldl_modNode_shape (f : Nat → Node → Node) (l : List Nat) (s : State) :
    ∃ ns, l.foldl (fun s n => modNode s n (f n)) s = { s with nodes := ns } := by
  refine foldl_frame (R := fun s t : State => ∃ ns, t = { s with nodes := ns }) (fun s => ⟨s.nodes, rfl⟩) ?_ (fun s n _ => ⟨_, rfl⟩) s
  rintro s t u ⟨ns, rfl⟩ ⟨ns', rfl⟩
  exact ⟨ns', rfl⟩

/-- Each node of a list without repeats is changed once. -/
theorem node_foldl_modNode (s : State) (hl : l.Nodup) (hm : m ∈ l) :
    node (l.foldl (fun s n => modNode s n (f n)) s) m = f m (node s m) := by
  obtain ⟨u, hbefore, hafter⟩ := foldl_visit (R := fun s t : State => node t m = node s m) (f := fun s n => modNode s n (f n))
    (fun _ => rfl) (fun h1 h2 => h2.trans h1) (fun s n hn => node_modNode_ne s (f n) hn.symm) hl hm s
  rw [hafter, node_modNode_self, hbefore]

/-! ### An idle step -/

/-- Before the pacers, an idle step advances the tick and, unless the device is dark, the stamps. -/
theorem idle_eq (s : State) : ∃ ps, idle s =
    if pacersRun s then watchQuiet (tickPacers s.tick (List.range 256) { s with tick := s.tick + 1, ports := ps })
    else { s with tick := s.tick + 1, ports := ps } := by
  unfold idle
  dsimp only
  split
  · exact ⟨s.ports, rfl⟩
  · exact ⟨_, rfl⟩

/-- An idle step changes the tick, the stamps, the pacers and what the weighbridge noted of the contexts. -/
theorem idle_shape (s : State) : ∃ ps ns cs, idle s = { s with tick := s.tick + 1, ports := ps, nodes := ns, ctxs := cs } := by
  obtain ⟨ps, h⟩ := idle_eq s
  rw [h]
  split
  · obtain ⟨ns, hns⟩ := foldl_modNode_shape (fun n x => { x with pacer := x.pacer + BitVec.ofNat 64 (Config.pacerAdvance n s.tick) }) (List.range 256)
      { s with tick := s.tick + 1, ports := ps }
    rw [tickPacers, hns]
    exact ⟨ps, ns, _, rfl⟩
  · exact ⟨ps, s.nodes, s.ctxs, rfl⟩

theorem pacer_idle (hn : n < 256) (hrun : pacersRun s = true) :
    (node (idle s) n).pacer = (node s n).pacer + BitVec.ofNat 64 (Config.pacerAdvance n s.tick) := by
  obtain ⟨ps, h⟩ := idle_eq s
  have hnode : ∀ u : State, node (watchQuiet u) n = node u n := fun _ => rfl
  rw [h, if_pos hrun, hnode, tickPacers, node_foldl_modNode _ List.nodup_range (List.mem_range.mpr hn)]
  rfl

theorem nodes_idle (hstop : pacersRun s = false) : (idle s).nodes = s.nodes := by
  obtain ⟨ps, h⟩ := idle_eq s
  rw [h, hstop]
  rfl

end

/-- Settles O58: the queue by `step_pending`, an idle step by `idle_shape` and `pacer_idle`. -/
theorem queueAndTime : Obligations.QueueAndTime := by
  unfold Obligations.QueueAndTime
  refine ⟨fun _ _ => step_pending, fun s hempty => ⟨idle s, step_of_pending_nil hempty, ?_⟩⟩
  have hpacers : dark s = false → s.dev.power = .active → ∀ n, n < 256 →
      (node (idle s) n).pacer = (node s n).pacer + BitVec.ofNat 64 (Config.pacerAdvance n s.tick) :=
    fun _ hactive n hn => pacer_idle hn (by rw [pacersRun, hactive]; rfl)
  have hdeep : s.dev.power = .deepIdle → (idle s).nodes = s.nodes := fun hdeep => nodes_idle (by rw [pacersRun, hdeep]; rfl)
  obtain ⟨ps, ns, cs, hidle⟩ := idle_shape s
  rw [hidle] at hpacers hdeep ⊢
  exact ⟨rfl, sameMemory_of_eq rfl rfl rfl rfl rfl, rfl, rfl, rfl, rfl, hpacers, hdeep⟩

end Sys2Proof.Machine
end

section
/-!
PROOFS. Clocks and the safety path (R45, R50, R54, R393, R426, R449, R457): calibration, reference clocks, holds, trips and the watchdog.
-/
namespace Sys2Proof.Machine

section
variable {s t : State} {n q : Nat}

theorem not_off_of_lit (h : dark s = false) : s.dev.power ≠ .off := by
  rintro hoff
  rw [dark, hoff] at h
  exact Bool.noConfusion h

theorem waitRst_of_lit (h : dark s = false) : s.dev.waitRst.isSome = false := (Bool.or_eq_false_iff.mp h).2

/-! ### Pacers (R50, R54) -/

theorem pacerCalibration_sets {k : Nat} (hlit : dark s = false) (hrun : s.dev.fwState = 3) (href : s.dev.noRef = false)
    (hawake : s.dev.power ≠ .deepIdle) (hk : k ≠ 0) (hdue : (node s n).lastCal ≠ s.dev.ticks + 1) :
    pacerCalibration n k s =
      modNode s n fun x => { x with period := calPeriod k, calSeq := x.calSeq + 1, calValid := true, lastCal := s.dev.ticks + 1 } := by
  rw [pacerCalibration, if_neg]
  simp [hrun, href, hlit, hawake, hk, hdue]

theorem pacerCalibration_done {k : Nat} (hdone : (node s n).lastCal = s.dev.ticks + 1) : pacerCalibration n k s = s :=
  if_pos (by simp [hdone])

/-- A change of every node that leaves a node at its initial value so. -/
theorem node_map {g : Node → Node} (hinit : g Node.init = Node.init) (s : State) (n : Nat) :
    node { s with nodes := s.nodes.map fun (e : Nat × Node) => (e.1, g e.2) } n = g (node s n) := by
  unfold node Tbl.getD
  rw [Tbl.get?_map fun _ => g]
  cases Tbl.get? s.nodes n with
  | none => exact hinit.symm
  | some x => rfl

/-- Every pacer without its calibration. -/
def uncalibrated (s : State) : State := { s with nodes := s.nodes.map fun (e : Nat × Node) => (e.1, { e.2 with calValid := false }) }

theorem node_uncalibrated (s : State) (n : Nat) : node (uncalibrated s) n = { node s n with calValid := false } :=
  node_map (g := fun x => { x with calValid := false }) rfl s n

/-- The reference clocks that firmware and a boot that follows find. -/
def withClocks (a b : Bool) (s : State) : State :=
  modDev s fun d => { d with refB := !a && b, noRef := !a && !b, waitRst := d.waitRst.map fun w => { w with refclk := if a then 1 else if b then 2 else 0 } }

theorem clockSwitch_lit {a b : Bool} (hon : s.dev.power ≠ .off) :
    clockSwitch a b s = if a || b then withClocks a b s else uncalibrated (withClocks a b s) := if_neg hon

/-! ### HBM reference clocks (R449) -/

theorem hrefFor_own {present : BitVec 4} (hq : q < 4) (h : bit present.toNat q = true) : hrefFor present q = some q := by
  unfold hrefFor
  rw [List.map_cons, List.find?_cons, show (q + 0) % 4 = q by omega, h]

/-- A stack takes its reference clock. -/
def hrefStep (s : State) (n : Nat) : State :=
  match hrefFor s.dev.href (n / 4) with
  | some r => modStack s n fun y => { y with href := r }
  | none => s

theorem takeHref_eq (s : State) : takeHref s = (List.range 16).foldl hrefStep s := rfl

theorem hrefStep_shape (s : State) (n : Nat) : ∃ st, hrefStep s n = { s with hbmStacks := st } := by
  unfold hrefStep
  split
  · exact ⟨_, rfl⟩
  · exact ⟨s.hbmStacks, rfl⟩

theorem stack_hrefStep_ne {m : Nat} (s : State) (h : m ≠ n) : stack (hrefStep s m) n = stack s n := by
  unfold hrefStep
  split
  · exact stack_modStack_ne _ _ h.symm
  · rfl

/-- Taking reference clocks changes the stacks alone. -/
theorem takeHref_shape (s : State) : ∃ st, takeHref s = { s with hbmStacks := st } := by
  refine foldl_frame (R := fun s t : State => ∃ st, t = { s with hbmStacks := st }) (fun s => ⟨s.hbmStacks, rfl⟩) ?_ (fun s n _ => hrefStep_shape s n) s
  rintro s t u ⟨st, rfl⟩ ⟨st', rfl⟩
  exact ⟨st', rfl⟩

/-- A stack whose own clock is present takes it. -/
theorem takeHref_own (hn : n < 16) (h : bit s.dev.href.toNat (n / 4) = true) : (stack (takeHref s) n).href = n / 4 := by
  have hother : ∀ (s : State) (m : Nat), m ≠ n → (hrefStep s m).dev.href = s.dev.href ∧ stack (hrefStep s m) n = stack s n := fun s m hm => by
    obtain ⟨st, hst⟩ := hrefStep_shape s m
    exact ⟨by rw [hst], stack_hrefStep_ne s hm⟩
  obtain ⟨u, ⟨hhref, -⟩, -, hstack⟩ := foldl_visit (R := fun s t : State => t.dev.href = s.dev.href ∧ stack t n = stack s n)
    (fun _ => ⟨rfl, rfl⟩) (fun ⟨h1, h2⟩ ⟨h3, h4⟩ => ⟨h3.trans h1, h4.trans h2⟩) hother List.nodup_range (List.mem_range.mpr hn) s
  rw [takeHref_eq, hstack, hrefStep, hhref, hrefFor_own (by omega) h]
  exact congrArg Stack.href (stack_modStack_self ..)

/-! ### Holds (R45, R393) -/

/-- Link ports with nothing in their FIFOs take nothing. -/
theorem foldl_linkTake_empty (l : List Nat) (s : State) (hempty : ∀ p, (link s p).rx = []) : ∃ ks, l.foldl linkTake s = { s with links := ks } := by
  induction l generalizing s with
  | nil => exact ⟨s.links, rfl⟩
  | cons p l ih =>
    have hone : ∃ ks, linkTake s p = { s with links := ks } ∧ ∀ p', (link { s with links := ks } p').rx = [] := by
      unfold linkTake
      split
      · exact ⟨s.links, rfl, hempty⟩
      · rw [hempty p]
        refine ⟨(modLink s p fun l => { l with rx := [] }).links, rfl, fun p' => ?_⟩
        change (link (modLink s p fun l => { l with rx := [] }) p').rx = []
        by_cases hp : p' = p
        · rw [hp, link_modLink_self]
        · rw [link_modLink_ne _ _ hp, hempty]
    obtain ⟨ks, hks, hempty'⟩ := hone
    rw [List.foldl_cons, hks]
    exact ih { s with links := ks } hempty'

/-- The end of a hold changes the hold, its ticks and the alert, where no link port has flits to take. -/
theorem holdEnd_shape (hlit : dark s = false) (hheld : NSet.has s.gov.held q = true) (htrip : s.dev.thermtrip = false) (hempty : ∀ p, (link s p).rx = []) :
    ∃ ks b, holdEnd q s = { s with gov := { s.gov with held := NSet.del s.gov.held q, holdTicks := Tbl.erase s.gov.holdTicks q },
                                   dev := { s.dev with alertHold := b }, links := ks } := by
  unfold holdEnd
  rw [if_neg (by simp [hlit, htrip, hheld])]
  dsimp only
  obtain ⟨ks, hks⟩ := foldl_linkTake_empty (List.range 8) (modDev (modGov s fun v => { v with held := NSet.del v.held q, holdTicks := Tbl.erase v.holdTicks q })
    fun d => { d with alertHold := d.alertHold && !(longHolds (modGov s fun v => { v with held := NSet.del v.held q, holdTicks := Tbl.erase v.holdTicks q })).isEmpty }) hempty
  exact ⟨ks, _, hks⟩

/-! ### Trips (R457) -/

theorem indexOf_isSome (l : List Nat) (n : Nat) : (indexOf l n).isSome = true ↔ n ∈ l := by
  induction l with
  | nil => simp [indexOf]
  | cons a l ih =>
    rw [indexOf, List.mem_cons]
    split
    · next han => simp [han]
    · next han => simp [ih, Ne.symm han]

theorem isBench_of_mem_homeNodes (h : n ∈ homeNodes) : isBench n = false := by
  simp [isBench, nodeKind, h]

end

/-- A sensor's reading trips: a bench's from 115 °C, in 1/16 °C, a home's stack from 105 °C. -/
def tripsAt (n : BitVec 8) (v : BitVec 16) : Bool :=
  if isBench n.toNat then decide ((1840 : Int) ≤ v.toInt) else (indexOf homeNodes n.toNat).isSome && decide ((105 : Int) ≤ v.toInt)

/-- A trip: THERMTRIP_N, and every quadrant held. -/
def tripped (s : State) : State := modGov (modDev s fun d => { d with thermtrip := true }) fun v => { v with held := [0, 1, 2, 3] }

section
variable {s : State} {n : BitVec 8} {v : BitVec 16}

theorem exec_thermtrip (hlit : dark s = false) : exec (.thermtrip n v) s = .next (if tripsAt n v then tripped s else s) := by
  change Host.Outcome.next (if dark s ∨ !tripsAt n v then s else tripped s) = _
  cases h : tripsAt n v <;> simp [hlit]

theorem exec_thermtrip_hot (hlit : dark s = false) (h : tripsAt n v = true) :
    ∃ t, exec (.thermtrip n v) s = .next t ∧ t.dev.thermtrip = true ∧ ∀ q, q < 4 → heldQuad t q = true := by
  refine ⟨tripped s, by rw [exec_thermtrip hlit, h]; rfl, rfl, fun q hq => ?_⟩
  rw [heldQuad, Bool.or_eq_true]
  refine .inl ((NSet.has_eq_true_iff _ _).mpr (?_ : q ∈ [0, 1, 2, 3]))
  simp
  omega

theorem exec_thermtrip_cool (hlit : dark s = false) (h : tripsAt n v = false) : exec (.thermtrip n v) s = .next s := by
  rw [exec_thermtrip hlit, h]
  rfl

end

/-- Settles O51: each command by the lemma above about its operation. -/
theorem clocksAndSafety : Obligations.ClocksAndSafety := by
  unfold Obligations.ClocksAndSafety
  intro s hlit
  have hon := not_off_of_lit hlit
  have hwait := waitRst_of_lit hlit
  refine ⟨?calibrates, ?calibrated, ?reference, ?href, ?hrefGone, ?droop, ?holdEnds, ?holdStays, ?trip, ?watchdog, fun hstop => ?watchdogStops⟩
  case calibrates =>
    intro n k hrun href hawake hk hdue
    refine ⟨_, congrArg Host.Outcome.next (pacerCalibration_sets hlit hrun href hawake hk hdue), sameMemory_of_eq rfl rfl rfl rfl rfl,
      fun m hm => node_modNode_ne _ _ hm, ?_⟩
    rw [node_modNode_self]
    rfl
  case calibrated => exact fun n k hdone => congrArg Host.Outcome.next (pacerCalibration_done hdone)
  case reference =>
    intro a b
    by_cases hab : a || b
    · exact ⟨_, congrArg Host.Outcome.next ((clockSwitch_lit hon).trans (if_pos hab)), rfl, rfl, fun _ => rfl, fun h => absurd hab (by simp [h])⟩
    · refine ⟨_, congrArg Host.Outcome.next ((clockSwitch_lit hon).trans (if_neg hab)), rfl, rfl, fun h => absurd h hab, fun _ n => ?_⟩
      rw [node_uncalibrated]
      exact ⟨rfl, rfl⟩
  case href =>
    intro h hne
    have hswitch : hrefSwitch h s = takeHref (modDev s fun d => { d with href := h }) :=
      (if_neg hon).trans ((if_neg (by simp [hwait])).trans (if_neg hne))
    have hown : ∀ n, n < 16 → bit h.toNat (n / 4) = true → (stack (hrefSwitch h s) n).href = n / 4 := fun n hn hbit => by
      rw [hswitch]
      exact takeHref_own hn hbit
    obtain ⟨st, hst⟩ := takeHref_shape (modDev s fun d => { d with href := h })
    rw [hswitch, hst] at hown
    exact ⟨_, congrArg Host.Outcome.next (hswitch.trans hst), rfl, rfl, sameMemory_of_eq rfl rfl rfl rfl rfl, hown⟩
  case hrefGone =>
    intro hstate
    have hswitch : hrefSwitch 0 s = hrefGone (modDev s fun d => { d with href := 0 }) :=
      (if_neg hon).trans ((if_neg (by simp [hwait])).trans ((if_pos rfl).trans (if_pos hstate)))
    exact ⟨_, congrArg Host.Outcome.next hswitch, rfl, rfl, rfl, rfl⟩
  case droop =>
    intro q
    refine ⟨_, congrArg Host.Outcome.next (if_neg (by rw [hlit]; exact Bool.false_ne_true)), ?_, fun r hr => ?_, sameMemory_of_eq rfl rfl rfl rfl rfl⟩
    · exact Bool.or_eq_true_iff.mpr (.inl (NSet.has_add_self _ _))
    · exact congrArg (· || dark s) (NSet.has_add_ne _ hr)
  case holdEnds =>
    intro q hheld hwf htrip hempty
    obtain ⟨ks, b, hshape⟩ := holdEnd_shape hlit hheld htrip hempty
    refine ⟨_, congrArg Host.Outcome.next hshape, ?_, fun r hr => ?_, sameMemory_of_eq rfl rfl rfl rfl rfl⟩
    · exact (congrArg (_ || ·) hlit).trans ((Bool.or_false _).trans (NSet.has_del_self _ hwf))
    · exact congrArg (· || dark s) (NSet.has_del_ne _ hr)
  case holdStays => exact fun q htrip => congrArg Host.Outcome.next (if_pos (.inr (.inl htrip)))
  case trip =>
    intro n v
    refine ⟨fun hb hhot => exec_thermtrip_hot hlit ?_, fun hh hhot => exec_thermtrip_hot hlit ?_, fun hb hcool => exec_thermtrip_cool hlit ?_,
      fun hb hh => exec_thermtrip_cool hlit ?_⟩
    · simp [tripsAt, hb, hhot]
    · simp [tripsAt, isBench_of_mem_homeNodes hh, (indexOf_isSome _ _).mpr hh, hhot]
    · simp [tripsAt, hb, hcool]
    · simp [tripsAt, hb, mt (indexOf_isSome _ _).mp hh]
  case watchdog => exact fun hrun => congrArg Host.Outcome.next (if_pos ⟨.inl hrun, by rw [hlit]; rfl⟩)
  case watchdogStops => exact congrArg Host.Outcome.next (if_neg (by simp [hstop]))

end Sys2Proof.Machine
end

section
/-!
PROOFS. The management tick (R53, R320, R321, R389): the sample in the sensor registers, the copies that the endpoints keep, and the times.
-/
namespace Sys2Proof.Machine

section
variable {s : State} {g : GovInputs} {n p : Nat}

/-! ### The sample -/

theorem sampleRails_power (old : Tbl Nat) {ps : List Nat} (hlen : ps.length = 12) : ((sampleRails old (ps.map some)).map (·.2)).sum = ps.sum := by
  have hrails : (sampleRails old (ps.map some)).map (·.2) = ps := by
    refine List.ext_getElem (by simp [sampleRails, hlen]) fun i hi hi' => ?_
    simp [sampleRails, hi']
  rw [hrails]

theorem foldl_modStack_shape {α : Type} (f : α → Nat) (c : α → Prop) [DecidablePred c] (y : α → Stack → Stack) (l : List α) (s : State) :
    ∃ st, l.foldl (fun s e => if c e then modStack s (f e) (y e) else s) s = { s with hbmStacks := st } := by
  refine foldl_frame (R := fun s t : State => ∃ st, t = { s with hbmStacks := st }) (fun s => ⟨s.hbmStacks, rfl⟩) ?_ (fun s e _ => ?_) s
  · rintro s t u ⟨st, rfl⟩ ⟨st', rfl⟩
    exact ⟨st', rfl⟩
  · split
    · exact ⟨_, rfl⟩
    · exact ⟨s.hbmStacks, rfl⟩

/-- What the loops find after a sample. -/
def sampledGov (g : GovInputs) (s : State) : Gov :=
  { s.gov with sample := some g, rails := sampleRails s.gov.rails g.pout, power := ((sampleRails s.gov.rails g.pout).map (·.2)).sum,
               policyNow := (List.range 14).map fun i => (0x0200 + i, policy s (0x0200 + i)), precNow := s.gov.precision, precision := [],
               targetNow := s.gov.target, voutNow := s.gov.vout, ran := [] }

theorem mem_benches (hn : isBench n = true) : n ∈ benches :=
  List.mem_filter.mpr ⟨List.mem_range.mpr (of_decide_eq_true (Bool.and_eq_true_iff.mp hn).1), hn⟩

theorem nodup_benches : benches.Nodup := List.Nodup.filter _ List.nodup_range

/-- A sample changes the nodes' sensors, the stacks' and the governor. -/
theorem takeSample_shape (g : GovInputs) (s : State) : ∃ ns st, takeSample g s = { s with nodes := ns, hbmStacks := st, gov := sampledGov g s } ∧
    ∀ n, isBench n = true → node { s with nodes := ns } n = sampleNode g n (node s n) := by
  obtain ⟨ns, hns⟩ := foldl_modNode_shape (sampleNode g) benches s
  obtain ⟨st, hst⟩ := foldl_modStack_shape (fun e : Nat × Nat => e.1) (fun e => e.1 < 16) (fun e y => { y with temp := e.2, fast := decide (85 < e.2) })
    g.stackTemp { s with nodes := ns }
  refine ⟨ns, st, ?_, fun n hn => ?_⟩
  · rw [takeSample, hns, hst]
    rfl
  · rw [← hns]
    exact node_foldl_modNode s nodup_benches (mem_benches hn)

theorem sampleNode_read {v : BitVec 16} (x : Node) (hg : g.benchTemp = [(n, v)]) : (sampleNode g n x).temp = v ∧ (sampleNode g n x).tempValid = true := by
  simp [sampleNode, hg]

/-- A sensor without a reading keeps its register, marked so (R389). -/
theorem sampleNode_unread {m : Nat} {v : BitVec 16} (x : Node) (hg : g.benchTemp = [(n, v)]) (hm : m ≠ n) :
    (sampleNode g m x).temp = x.temp ∧ (sampleNode g m x).tempValid = false := by
  simp [sampleNode, hg, hm.symm]

/-! ### The endpoints' copies -/

/-- What an endpoint keeps after a tick (R53, R320). -/
def refreshed (s : State) (p : Nat) (x : Port) : Port :=
  { x with uptimeCopy := s.dev.uptime, stateCopy := s.dev.fwState, nctxCopy := contextCounts s p
           downTicks := if x.linkUp then 0 else if x.downTicks = 0xFFFFFFFF then x.downTicks else x.downTicks + 1
           goodCopy := if s.dev.image.isEmpty then 0 else goodCount s }

theorem refreshPort_eq (s : State) (p : Nat) : refreshPort s p = modPort s p (refreshed s p) := rfl

theorem contextCounts_modPort (s : State) (q : Nat) (f : Port → Port) (p : Nat) : contextCounts (modPort s q f) p = contextCounts s p := rfl

theorem refreshed_modPort (s : State) (q : Nat) (f : Port → Port) (p : Nat) (x : Port) : refreshed (modPort s q f) p x = refreshed s p x := by
  rw [refreshed, contextCounts_modPort, goodCount_modPort]
  rfl

theorem refreshed_linkUp (s : State) (p : Nat) (x : Port) : (refreshed s p x).linkUp = x.linkUp := rfl

/-- A port's count of ticks without a link stops at its largest value (Table 16.5). -/
theorem refreshed_downTicks {x : Port} (h : x.linkUp = false) :
    (refreshed s p x).downTicks = if x.downTicks = 0xFFFFFFFF then 0xFFFFFFFF else x.downTicks + 1 := by
  refine (if_neg (ne_true_of_eq_false h)).trans ?_
  split
  · next hmax => exact hmax
  · rfl

theorem port_refreshPorts (s : State) :
    port (refreshPort (refreshPort s 0) 1) 0 = refreshed s 0 (port s 0) ∧ port (refreshPort (refreshPort s 0) 1) 1 = refreshed s 1 (port s 1) := by
  simp only [refreshPort_eq, port_modPort_self, refreshed_modPort, port_modPort_ne _ _ (Nat.zero_ne_one), port_modPort_ne _ _ (Nat.one_ne_zero), and_self]

theorem tellPeers_shape (s : State) : ∃ ps, tellPeers s = { s with ports := ps } := ⟨_, rfl⟩

theorem refreshPort_shape (s : State) (p : Nat) : ∃ ps, refreshPort s p = { s with ports := ps } := ⟨_, rfl⟩

/-- A port after a tick, told of the other (R321). -/
theorem port_tellPeers {p : Nat} (hp : p < 2) (s : State) :
    ∃ d, port (tellPeers s) p = { port s p with peerUp := (port s (1 - p)).linkUp, peerDown := d } := by
  obtain rfl | rfl : p = 0 ∨ p = 1 := by omega
  · exact ⟨_, (port_modPort_ne _ _ Nat.zero_ne_one).trans (port_modPort_self ..)⟩
  · exact ⟨_, (port_modPort_self ..).trans (by rw [port_modPort_ne _ _ Nat.one_ne_zero])⟩

/-- The device-wide state after a tick: one tick and 100 µs more, and a beat while firmware runs (R53). -/
def tickDev (s : State) : Dev :=
  { s.dev with ticks := s.dev.ticks + 1, uptime := s.dev.uptime + 10000, heartbeat := if s.dev.fwState = 3 then s.dev.heartbeat + 1 else s.dev.heartbeat
               idleTicks := if deviceQuiet s then s.dev.idleTicks + 1 else 0 }

/-- The state as a tick counts itself. -/
def ticked (s : State) : State := modDev s fun _ => tickDev s

theorem managementTick_runs (hon : s.dev.power ≠ .off) (href : s.dev.noRef = false) (hwait : s.dev.waitRst = none) :
    managementTick g s = takeSample g (tellPeers (refreshPort (refreshPort (ticked s) 0) 1)) :=
  (if_neg (by simp [hon, href])).trans (if_neg (by simp [hwait]))

/-- The ports after a tick: each refreshed and told of the other. -/
theorem tickPorts_shape (s : State) : ∃ ps, tellPeers (refreshPort (refreshPort s 0) 1) = { s with ports := ps } ∧
    ∀ p, p < 2 → ∃ d, port { s with ports := ps } p = { refreshed s p (port s p) with peerUp := (port s (1 - p)).linkUp, peerDown := d } := by
  obtain ⟨ps0, h0⟩ := refreshPort_shape s 0
  obtain ⟨ps1, h1⟩ := refreshPort_shape (refreshPort s 0) 1
  obtain ⟨ps2, h2⟩ := tellPeers_shape (refreshPort (refreshPort s 0) 1)
  have hall : tellPeers (refreshPort (refreshPort s 0) 1) = { s with ports := ps2 } := by rw [h2, h1, h0]
  refine ⟨ps2, hall, fun p hp => ?_⟩
  obtain ⟨hport0, hport1⟩ := port_refreshPorts s
  obtain ⟨d, hd⟩ := port_tellPeers hp (refreshPort (refreshPort s 0) 1)
  rw [← hall]
  obtain rfl | rfl : p = 0 ∨ p = 1 := by omega
  · exact ⟨d, by rw [hd, hport0, hport1, refreshed_linkUp]⟩
  · exact ⟨d, by rw [hd, hport1, hport0, refreshed_linkUp]⟩

end

theorem managementTick_claims : Claims.ManagementTick := by
  unfold Claims.ManagementTick
  intro g s hon href hwait
  obtain ⟨ps, hports, hport⟩ := tickPorts_shape (ticked s)
  obtain ⟨ns, st, hsample, hnode⟩ := takeSample_shape g { ticked s with ports := ps }
  have htick : managementTick g s = { ticked s with
      ports := ps, nodes := ns, hbmStacks := st, gov := sampledGov g { ticked s with ports := ps } } := by
    rw [managementTick_runs hon href hwait, hports, hsample]
  refine ⟨_, congrArg Host.Outcome.next htick, rfl, rfl, rfl, rfl, rfl, rfl, sameMemory_of_eq rfl rfl rfl rfl rfl, rfl, fun p hp => ?copies,
    fun n v hn hg => ?sensors, fun rails hlen hg => ?power⟩
  case copies =>
    obtain ⟨d, hd⟩ := hport p hp
    exact ⟨(congrArg Port.uptimeCopy hd :), (congrArg Port.stateCopy hd :), (congrArg Port.peerUp hd :), fun hup => (congrArg Port.downTicks hd).trans (if_pos hup),
      fun hdown => (congrArg Port.downTicks hd).trans (refreshed_downTicks (s := ticked s) (p := p) hdown)⟩
  case sensors =>
    obtain ⟨htemp, hvalid⟩ := sampleNode_read (node s n) hg
    refine ⟨(congrArg Node.temp (hnode n hn)).trans htemp, (congrArg Node.tempValid (hnode n hn)).trans hvalid, fun m hm hbench => ?_⟩
    obtain ⟨htemp, hvalid⟩ := sampleNode_unread (node s m) hg hm
    exact ⟨(congrArg Node.temp (hnode m hbench)).trans htemp, (congrArg Node.tempValid (hnode m hbench)).trans hvalid⟩
  case power =>
    change ((sampleRails s.gov.rails g.pout).map (·.2)).sum = rails.sum
    rw [hg, sampleRails_power _ hlen]

end Sys2Proof.Machine
end

section
/-!
PROOFS. The governor's loops over quadrants (R390 to R394, R398): when a loop runs, the safety loop, the precision loop and the voltage loop.
-/
namespace Sys2Proof.Machine

/-- A loop has run in this tick. -/
def ranLoop (i : Nat) (s : State) : State := modGov s fun v => { v with ran := NSet.add v.ran i }

/-- What every step of a loop over quadrants keeps on its way from `s₀` to `s`: the policies, holds, power and read failures that the loop runs on,
the canonical form of the noted conditions, ALERT_N once it is raised, and memory. -/
structure QuadFrame (s₀ s : State) : Prop where
  policy : s.gov.policyNow = s₀.gov.policyNow
  held : s.gov.held = s₀.gov.held
  power : s.gov.power = s₀.gov.power
  pmbus : s.gov.pmbusFails = s₀.gov.pmbusFails
  canonical : NSet.wf s₀.gov.hotPosted = true → NSet.wf s.gov.hotPosted = true
  alert : s₀.dev.alertHold = true → s.dev.alertHold = true
  memory : SameMemory s₀ s

section
variable {s₀ s t u : State} {g : GovInputs} {q r i : Nat}

/-! ### When a loop runs (R390) -/

theorem runLoop_ready {f : GovInputs → State → State} (hg : s.gov.sample = some g) (h : loopReady s i = true) :
    runLoop i f s = ranLoop i (f g s) := by
  rw [runLoop, hg]
  exact if_pos h

theorem runLoop_notReady {f : GovInputs → State → State} (hg : s.gov.sample = some g) (h : loopReady s i = false) : runLoop i f s = s := by
  rw [runLoop, hg]
  exact if_neg (ne_true_of_eq_false h)

theorem sameMemory_refl (s : State) : SameMemory s s := ⟨fun _ => rfl, fun _ _ => rfl, fun _ => rfl⟩

theorem sameMemory_ranLoop (h : SameMemory s t) : SameMemory s (ranLoop i t) := sameMemory_trans h (sameMemory_of_eq rfl rfl rfl rfl rfl)

theorem targetOf_ranLoop (t : State) (i q : Nat) : targetOf (ranLoop i t).gov.target q = targetOf t.gov.target q := rfl

theorem bench_ranLoop (t : State) (i n : Nat) : bench (ranLoop i t) n = bench t n := rfl

theorem link_ranLoop (t : State) (i q : Nat) : link (ranLoop i t) q = link t q := rfl

/-- A loop that is due does what its run on the sample does; one that is not does nothing. -/
theorem loop_runs {c : Instr} {f : GovInputs → State → State} {post : State → Prop} (hexec : exec c s = .next (runLoop i f s)) (hg : s.gov.sample = some g)
    (hmem : SameMemory s (f g s)) (hpost : post (ranLoop i (f g s))) :
    (loopReady s i = true → ∃ t, exec c s = .next t ∧ NSet.has t.gov.ran i = true ∧ SameMemory s t ∧ post t) ∧
      (loopReady s i = false → exec c s = .next s) := by
  refine ⟨fun h => ⟨ranLoop i (f g s), ?_, NSet.has_add_self _ _, sameMemory_ranLoop hmem, hpost⟩, fun h => ?_⟩
  · rw [hexec, runLoop_ready hg h]
  · rw [hexec, runLoop_notReady hg h]

/-! ### What every step of a loop over quadrants keeps -/

theorem QuadFrame.refl (s : State) : QuadFrame s s := ⟨rfl, rfl, rfl, rfl, id, id, sameMemory_refl s⟩

theorem QuadFrame.trans (h : QuadFrame s t) (h' : QuadFrame t u) : QuadFrame s u :=
  ⟨h'.policy.trans h.policy, h'.held.trans h.held, h'.power.trans h.power, h'.pmbus.trans h.pmbus, fun w => h'.canonical (h.canonical w),
    fun a => h'.alert (h.alert a), sameMemory_trans h.memory h'.memory⟩

theorem QuadFrame.polNow (h : QuadFrame s₀ s) (n : Nat) : Machine.polNow s n = Machine.polNow s₀ n := by
  rw [Machine.polNow, Machine.polNow, h.policy]

theorem QuadFrame.overCap (h : QuadFrame s₀ s) : Machine.overCap s = Machine.overCap s₀ := by
  rw [Machine.overCap, Machine.overCap, h.polNow, h.power, h.pmbus]

theorem QuadFrame.ite {c : Prop} [Decidable c] {a b : State} (ha : QuadFrame s₀ a) (hb : QuadFrame s₀ b) : QuadFrame s₀ (if c then a else b) := by
  split
  · exact ha
  · exact hb

theorem thermal_gov (s : State) (ev q node : Nat) (reading : Int) (count : Nat) : (thermal s ev q node reading count).gov = s.gov := recordDev_gov ..

theorem thermal_dev (s : State) (ev q node : Nat) (reading : Int) (count : Nat) : (thermal s ev q node reading count).dev = s.dev := recordDev_dev ..

theorem thermal_sameMemory (s : State) (ev q node : Nat) (reading : Int) (count : Nat) : SameMemory s (thermal s ev q node reading count) :=
  sameMemory_of_eq (recordDev_hbm ..) (recordDev_ls ..) (recordDev_hostMem ..) (recordDev_cores ..) (congrArg Dev.full (thermal_dev ..))

theorem thermal_frame {ev node count : Nat} {reading : Int} (h : QuadFrame s₀ s) : QuadFrame s₀ (thermal s ev q node reading count) := by
  refine h.trans ⟨?_, ?_, ?_, ?_, fun w => ?_, fun a => ?_, thermal_sameMemory ..⟩
  case refine_6 => rw [thermal_dev]; exact a
  all_goals rw [thermal_gov]
  exact w

/-- A change of the governor's books that no loop runs on. -/
theorem modGov_frame {f : Gov → Gov} (h : QuadFrame s₀ s) (hp : (f s.gov).policyNow = s.gov.policyNow) (hh : (f s.gov).held = s.gov.held)
    (hw : (f s.gov).power = s.gov.power) (hf : (f s.gov).pmbusFails = s.gov.pmbusFails) (hc : NSet.wf s.gov.hotPosted = true → NSet.wf (f s.gov).hotPosted = true) :
    QuadFrame s₀ (modGov s f) :=
  h.trans ⟨hp, hh, hw, hf, hc, id, sameMemory_of_eq rfl rfl rfl rfl rfl⟩

/-- A write of a target changes the target, what was sent and the writes to be made again. -/
theorem writeTarget_shape (g : GovInputs) (s : State) (q v : Nat) :
    ∃ vo re, writeTarget g s q v = modGov s fun x => { x with target := Tbl.set x.target q v, vout := vo, retry := re } := by
  unfold writeTarget
  split
  · exact ⟨Tbl.set s.gov.vout q v, NSet.del s.gov.retry q, rfl⟩
  · exact ⟨s.gov.vout, NSet.add s.gov.retry q, rfl⟩

theorem writeTarget_frame {v : Nat} (h : QuadFrame s₀ s) : QuadFrame s₀ (writeTarget g s q v) := by
  obtain ⟨vo, re, hshape⟩ := writeTarget_shape g s q v
  rw [hshape]
  exact modGov_frame h rfl rfl rfl rfl id

theorem targetOf_writeTarget_self (s : State) (q v : Nat) : targetOf (writeTarget g s q v).gov.target q = v := by
  obtain ⟨vo, re, hshape⟩ := writeTarget_shape g s q v
  rw [hshape]
  exact Tbl.getD_set_self _ _ _ _

theorem targetOf_writeTarget_ne (s : State) (v : Nat) (h : r ≠ q) : targetOf (writeTarget g s r v).gov.target q = targetOf s.gov.target q := by
  obtain ⟨vo, re, hshape⟩ := writeTarget_shape g s r v
  rw [hshape]
  exact Tbl.getD_set_ne _ _ _ h.symm

theorem writeTarget_hotPosted (s : State) (q v : Nat) : (writeTarget g s q v).gov.hotPosted = s.gov.hotPosted := by
  obtain ⟨vo, re, hshape⟩ := writeTarget_shape g s q v
  rw [hshape]
  rfl

theorem writeTarget_holdTicks (s : State) (q v : Nat) : (writeTarget g s q v).gov.holdTicks = s.gov.holdTicks := by
  obtain ⟨vo, re, hshape⟩ := writeTarget_shape g s q v
  rw [hshape]
  rfl

/-! ### The safety loop (R393, R394) -/

/-- What the safety loop keeps of quadrant `q`: whether it is noted as hot, its target and its hold's ticks. -/
def safetyEntry (q : Nat) (s : State) : Bool × Nat × Nat := (NSet.has s.gov.hotPosted q, targetOf s.gov.target q, Tbl.getD s.gov.holdTicks q 0)

theorem safetyEntry_thermal (s : State) (ev r node : Nat) (reading : Int) (count : Nat) : safetyEntry q (thermal s ev r node reading count) = safetyEntry q s := by
  rw [safetyEntry, thermal_gov, safetyEntry]

theorem safetyEntry_writeTarget_ne (s : State) (v : Nat) (h : r ≠ q) : safetyEntry q (writeTarget g s r v) = safetyEntry q s := by
  rw [safetyEntry, writeTarget_hotPosted, targetOf_writeTarget_ne s v h, writeTarget_holdTicks, safetyEntry]

theorem countHold_frame (h : QuadFrame s₀ s) : QuadFrame s₀ (countHold g s q) := by
  unfold countHold
  have hticks (n : Nat) : QuadFrame s₀ (modGov s fun v => { v with holdTicks := Tbl.set v.holdTicks q n }) := modGov_frame h rfl rfl rfl rfl id
  refine .ite (.ite (thermal_frame (writeTarget_frame ((hticks (Tbl.getD s.gov.holdTicks q 0 + 1)).trans ?_))) (hticks _)) h
  exact ⟨rfl, rfl, rfl, rfl, id, fun _ => rfl, sameMemory_of_eq rfl rfl rfl rfl rfl⟩

theorem countHold_released (h : NSet.has s.gov.held q = false) : countHold g s q = s := if_neg (ne_true_of_eq_false h)

theorem countHold_entry_ne (s : State) (h : r ≠ q) : safetyEntry q (countHold g s r) = safetyEntry q s := by
  unfold countHold
  have hticks (n : Nat) : safetyEntry q (modGov s fun v => { v with holdTicks := Tbl.set v.holdTicks r n }) = safetyEntry q s :=
    congrArg (fun k => (NSet.has s.gov.hotPosted q, targetOf s.gov.target q, k)) (Tbl.getD_set_ne _ _ _ h.symm)
  split
  · dsimp only
    split
    · rw [safetyEntry_thermal, safetyEntry_writeTarget_ne _ _ h]
      exact hticks _
    · exact hticks _
  · rfl

/-- A hold's ticks count one more, and ALERT_N is raised at HOLD_LIMIT (R393). -/
theorem countHold_held (h : NSet.has s.gov.held q = true) :
    Tbl.getD (countHold g s q).gov.holdTicks q 0 = Tbl.getD s.gov.holdTicks q 0 + 1 ∧
      (Tbl.getD s.gov.holdTicks q 0 + 1 = polNow s 0x0205 → (countHold g s q).dev.alertHold = true) := by
  unfold countHold
  rw [if_pos h]
  dsimp only
  split
  · rw [thermal_gov, thermal_dev, writeTarget_holdTicks]
    refine ⟨Tbl.getD_set_self _ _ _ _, fun _ => ?_⟩
    obtain ⟨vo, re, hshape⟩ := writeTarget_shape g (modDev (modGov s fun v => { v with holdTicks := Tbl.set v.holdTicks q (Tbl.getD s.gov.holdTicks q 0 + 1) })
      fun d => { d with alertHold := true }) q (targetOf s.gov.target q)
    exact (congrArg (fun x : State => x.dev.alertHold) hshape :)
  · next hlimit => exact ⟨Tbl.getD_set_self _ _ _ _, fun hat => absurd hat hlimit⟩

theorem hotStep_frame {key node ev limit : Nat} {t16 : Int} (h : QuadFrame s₀ s) : QuadFrame s₀ (hotStep g key q node ev limit t16 s) := by
  unfold hotStep
  refine .ite (.ite (thermal_frame (modGov_frame h rfl rfl rfl rfl (NSet.wf_del _ _))) h) (.ite (thermal_frame (writeTarget_frame ?_)) h)
  exact modGov_frame h rfl rfl rfl rfl (NSet.wf_add _ _)

theorem hotStep_holdTicks (s : State) (key q node ev limit : Nat) (t16 : Int) : (hotStep g key q node ev limit t16 s).gov.holdTicks = s.gov.holdTicks := by
  unfold hotStep
  split
  · split
    · rw [thermal_gov]
      rfl
    · rfl
  · split
    · rw [thermal_gov, writeTarget_holdTicks]
      rfl
    · rfl

/-- A condition of another key, of another quadrant. -/
theorem hotStep_entry_ne {key : Nat} (s : State) (node ev limit : Nat) (t16 : Int) (hkey : key ≠ q) (hr : r ≠ q) :
    safetyEntry q (hotStep g key r node ev limit t16 s) = safetyEntry q s := by
  have hposted (f : NSet → NSet) (hf : NSet.has (f s.gov.hotPosted) q = NSet.has s.gov.hotPosted q) :
      safetyEntry q (modGov s fun v => { v with hotPosted := f v.hotPosted }) = safetyEntry q s :=
    congrArg (fun b => (b, targetOf s.gov.target q, Tbl.getD s.gov.holdTicks q 0)) hf
  unfold hotStep
  split
  · split
    · rw [safetyEntry_thermal]
      exact hposted (NSet.del · key) (NSet.has_del_ne _ hkey.symm)
    · rfl
  · split
    · rw [safetyEntry_thermal, safetyEntry_writeTarget_ne _ _ hr]
      exact hposted (NSet.add · key) (NSet.has_add_ne _ hkey.symm)
    · rfl

/-- 5 °C above the limit, a condition not noted yet is noted, and the target is VMIN. -/
theorem hotStep_begins {node ev limit : Nat} {t16 : Int} (hnew : NSet.has s.gov.hotPosted q = false) (hhot : 16 * ((limit : Int) + 5) ≤ t16) :
    NSet.has (hotStep g q q node ev limit t16 s).gov.hotPosted q = true ∧ targetOf (hotStep g q q node ev limit t16 s).gov.target q = polNow s 0x0202 := by
  unfold hotStep
  rw [if_neg (ne_true_of_eq_false hnew), if_pos hhot]
  dsimp only
  rw [thermal_gov, writeTarget_hotPosted, targetOf_writeTarget_self]
  exact ⟨NSet.has_add_self _ _, rfl⟩

/-- 3 °C below the limit no condition is noted. -/
theorem hotStep_ends {node ev limit : Nat} {t16 : Int} (hwf : NSet.wf s.gov.hotPosted = true) (hcool : t16 ≤ 16 * ((limit : Int) - 3)) :
    NSet.has (hotStep g q q node ev limit t16 s).gov.hotPosted q = false := by
  unfold hotStep
  split
  · rw [thermal_gov]
    exact NSet.has_del_self _ hwf
  · next hnot => rwa [if_neg (by omega), ← Bool.not_eq_true]

theorem hotQuad_frame (h : QuadFrame s₀ s) : QuadFrame s₀ (hotQuad g s q) := by
  unfold hotQuad
  refine QuadFrame.trans ?_ (foldl_frame (R := QuadFrame) .refl .trans (fun s _ _ => hotStep_frame (.refl s)) _)
  split
  · exact hotStep_frame h
  · exact h

theorem hotQuad_entry_ne (s : State) (hq : q < 4) (h : r ≠ q) : safetyEntry q (hotQuad g s r) = safetyEntry q s := by
  unfold hotQuad
  refine Eq.trans (foldl_frame (R := fun s t : State => safetyEntry q t = safetyEntry q s) (fun _ => rfl) (fun h1 h2 => h2.trans h1)
    (fun s e _ => hotStep_entry_ne s _ _ _ _ (by omega) h) _) ?_
  split
  · exact hotStep_entry_ne s _ _ _ _ h h
  · rfl

/-- A quadrant without stacks in the sample: its bench alone counts. -/
theorem hotQuad_bench {n : Nat} {T : Int} (htemp : quadTemp g q = some (n, T)) (hstacks : quadStacks g q = []) :
    hotQuad g s q = hotStep g q q n 1 (polNow s 0x0203) T s := by
  rw [hotQuad, htemp, hstacks]
  rfl

theorem nodup_quads : [0, 1, 2, 3].Nodup := by decide

theorem mem_quads (h : q < 4) : q ∈ [0, 1, 2, 3] := by
  simp
  omega

/-- What one fold over the quadrants does to quadrant `q` is what that quadrant's step does. -/
theorem foldl_quads {β : Type} {e : State → β} {f : State → Nat → State} (hq : q < 4) (hframe : ∀ {s₀ s r}, QuadFrame s₀ s → QuadFrame s₀ (f s r))
    (hne : ∀ s r, r ≠ q → e (f s r) = e s) (s : State) :
    ∃ u, QuadFrame s u ∧ e u = e s ∧ QuadFrame (f u q) ([0, 1, 2, 3].foldl f s) ∧ e ([0, 1, 2, 3].foldl f s) = e (f u q) := by
  obtain ⟨u, ⟨hu, heu⟩, ht, het⟩ := foldl_visit (R := fun s t : State => QuadFrame s t ∧ e t = e s) (fun s => ⟨.refl s, rfl⟩)
    (fun ⟨h1, h2⟩ ⟨h3, h4⟩ => ⟨h1.trans h3, h4.trans h2⟩) (fun s r hr => ⟨hframe (.refl s), hne s r hr⟩) nodup_quads (mem_quads hq) s
  exact ⟨u, hu, heu, ht, het⟩

theorem foldl_quads_frame {f : State → Nat → State} (hframe : ∀ {s₀ s r}, QuadFrame s₀ s → QuadFrame s₀ (f s r)) (s : State) :
    QuadFrame s ([0, 1, 2, 3].foldl f s) := foldl_frame (R := QuadFrame) .refl .trans (fun s _ _ => hframe (.refl s)) s

theorem safetyRun_frame (g : GovInputs) (s : State) : QuadFrame s (safetyRun g s) :=
  (foldl_quads_frame countHold_frame s).trans (foldl_quads_frame hotQuad_frame _)

/-- What the safety loop comes to for a quadrant: its hold is counted, then its bench's reading is noted. -/
theorem safetyRun_quad {n : Nat} {T : Int} (hq : q < 4) (htemp : quadTemp g q = some (n, T)) (hstacks : quadStacks g q = []) (s : State) :
    ∃ u v, QuadFrame s u ∧ safetyEntry q u = safetyEntry q s ∧ QuadFrame (countHold g u q) v ∧ safetyEntry q v = safetyEntry q (countHold g u q) ∧
      QuadFrame v (safetyRun g s) ∧ safetyEntry q (safetyRun g s) = safetyEntry q (hotStep g q q n 1 (polNow v 0x0203) T v) := by
  obtain ⟨u, hu, heu, hmid, hemid⟩ := foldl_quads hq (e := safetyEntry q) (countHold_frame (g := g)) (fun s r hr => countHold_entry_ne s hr) s
  obtain ⟨v, hv, hev, hend, heend⟩ := foldl_quads hq (e := safetyEntry q) (hotQuad_frame (g := g)) (fun s r hr => hotQuad_entry_ne s hq hr)
    ([0, 1, 2, 3].foldl (countHold g) s)
  rw [hotQuad_bench htemp hstacks] at hend heend
  exact ⟨u, v, hu, heu, hmid.trans hv, hev.trans hemid, (hotStep_frame (.refl v)).trans hend, heend⟩

/-- The safety loop on a sample, for a quadrant with one reading of its bench and none of its stacks. -/
theorem safetyRun_claims {n : Nat} {T : Int} (hq : q < 4) (htemp : quadTemp g q = some (n, T)) (hstacks : quadStacks g q = [])
    (hwf : NSet.wf s.gov.hotPosted = true) :
    (16 * ((polNow s 0x0203 : Int) + 5) ≤ T → NSet.has s.gov.hotPosted q = false → NSet.has s.gov.held q = false →
      NSet.has (safetyRun g s).gov.hotPosted q = true ∧ targetOf (safetyRun g s).gov.target q = polNow s 0x0202) ∧
    (T ≤ 16 * ((polNow s 0x0203 : Int) - 3) → NSet.has (safetyRun g s).gov.hotPosted q = false) ∧
    (NSet.has s.gov.held q = true → Tbl.getD (safetyRun g s).gov.holdTicks q 0 = Tbl.getD s.gov.holdTicks q 0 + 1 ∧
      (Tbl.getD s.gov.holdTicks q 0 + 1 = polNow s 0x0205 → (safetyRun g s).dev.alertHold = true)) := by
  obtain ⟨u, v, hu, heu, hv, hev, hend, heend⟩ := safetyRun_quad hq htemp hstacks s
  have huv : QuadFrame s v := hu.trans ((countHold_frame (.refl u)).trans hv)
  obtain ⟨hhot, htarget, hticks⟩ : _ ∧ _ ∧ _ := by simpa only [safetyEntry, Prod.mk.injEq] using heend
  obtain ⟨-, -, hticksV⟩ : _ ∧ _ ∧ _ := by simpa only [safetyEntry, Prod.mk.injEq] using hev
  obtain ⟨hhotU, -, hticksU⟩ : _ ∧ _ ∧ _ := by simpa only [safetyEntry, Prod.mk.injEq] using heu
  refine ⟨fun hover hnew hfree => ?begins, fun hcool => ?ends, fun hheld => ?holds⟩
  case begins =>
    have hfreeU : NSet.has u.gov.held q = false := by rw [hu.held, hfree]
    rw [countHold_released hfreeU] at hev
    have hnewV : NSet.has v.gov.hotPosted q = false := (congrArg Prod.fst hev).trans (hhotU.trans hnew)
    rw [hhot, htarget]
    obtain ⟨hposted, hmin⟩ := hotStep_begins (g := g) (node := n) (ev := 1) (limit := polNow v 0x0203) (t16 := T) hnewV (by rwa [huv.polNow])
    exact ⟨hposted, hmin.trans (huv.polNow _)⟩
  case ends =>
    rw [hhot]
    exact hotStep_ends (huv.canonical hwf) (by rwa [huv.polNow])
  case holds =>
    obtain ⟨hcount, halert⟩ := countHold_held (g := g) (s := u) (q := q) (by rw [hu.held, hheld])
    rw [hticksU] at hcount halert
    rw [hticks, hotStep_holdTicks, hticksV]
    exact ⟨hcount, fun hlimit => hend.alert (hv.alert (halert (hlimit.trans (hu.polNow _).symm)))⟩

/-! ### The precision loop (R398) -/

theorem precNotice_raises {k tile : Nat} (hctx : (core s (k / 8)).ctx.isSome = true) (hnew : (core s (k / 8)).notice = 0) :
    precNotice s (k, tile) =
      modCore s (k / 8) fun x => { x with irqHost := some (BitVec.ofNat 32 (1 + k % 8 * 2 ^ 8 + tile * 2 ^ 11)), notice := s.dev.ticks + 1 } := by
  rw [precNotice]
  exact if_pos (by simp [hctx, hnew])

/-- A change of a core that leaves its gather buffer alone changes no memory. -/
theorem modCore_sameMemory {c : Nat} {f : Core → Core} (hf : (f (core s c)).gbuf = (core s c).gbuf) : SameMemory s (modCore s c f) := by
  refine ⟨fun a => rfl, fun d o => ?_, fun a => rfl⟩
  have hgbuf : (core (modCore s c f) d).gbuf = (core s d).gbuf := by
    by_cases hd : d = c
    · rw [hd, core_modCore_self, hf]
    · rw [core_modCore_ne _ _ hd]
  rw [storeByte, storeByte, hgbuf]
  rfl

theorem precisionRun_one {k tile : Nat} (hone : s.gov.precNow = [(k, tile)]) (hctx : (core s (k / 8)).ctx.isSome = true)
    (hnew : (core s (k / 8)).notice = 0) :
    SameMemory s (precisionRun g s) ∧
    (polNow s 0x020B = 1 → (core (precisionRun g s) (k / 8)).irqHost = some (BitVec.ofNat 32 (1 + k % 8 * 2 ^ 8 + tile * 2 ^ 11))) ∧
    (polNow s 0x020B ≠ 1 → (precisionRun g s).cores = s.cores) := by
  by_cases hon : polNow s 0x020B = 1
  · rw [precisionRun, if_pos hon, hone, List.foldl_cons, List.foldl_nil, precNotice_raises hctx hnew]
    exact ⟨modCore_sameMemory rfl, fun _ => by rw [core_modCore_self], fun h => absurd hon h⟩
  · rw [precisionRun, if_neg hon]
    exact ⟨sameMemory_refl s, fun h => absurd h hon, fun _ => rfl⟩

/-! ### The voltage loop (R391, R392) -/

/-- The quadrant's bench reads at or above TJ_MAX. -/
def benchHot (g : GovInputs) (s : State) (q : Nat) : Bool :=
  match quadTemp g q with | some (_, t) => decide (16 * (polNow s 0x0203 : Int) ≤ t) | none => false

/-- The first of the quadrant's stacks that reads at or above its limit. -/
def stackHot (g : GovInputs) (s : State) (q : Nat) : Option (Nat × Nat) := (quadStacks g q).find? fun e => decide (polNow s 0x0204 ≤ e.2)

/-- The quadrant's target goes down (R391). -/
def mustFall (g : GovInputs) (s : State) (q : Nat) : Bool := overCap s || benchHot g s q || (stackHot g s q).isSome

/-- The quadrant's target may go up (R391). -/
def mayRise (g : GovInputs) (s : State) (q : Nat) : Bool :=
  decide (s.gov.power + 50000 ≤ polNow s 0x0200 * 1000) && !overCap s &&
    (match quadTemp g q with | some (_, t) => decide (t ≤ 16 * ((polNow s 0x0203 : Int) - 3)) | none => false)

/-- The target that a quadrant's step gives it: none while R394 has set it. -/
def stepTarget (g : GovInputs) (s : State) (q : Nat) : Nat :=
  if quadHot s q then targetOf s.gov.target q
  else nextTarget (targetOf s.gov.target q) (polNow s 0x0202) (polNow s 0x0201) (mustFall g s q) (mayRise g s q)

/-- The write of a quadrant's new target, or of one that failed before. -/
def stepWrite (g : GovInputs) (s : State) (q : Nat) : State :=
  if quadHot s q then s
  else
    let w := nextTarget (targetOf s.gov.target q) (polNow s 0x0202) (polNow s 0x0201) (mustFall g s q) (mayRise g s q)
    if w ≠ targetOf s.gov.target q ∨ NSet.has s.gov.retry q then writeTarget g s q w else s

theorem voltQuad_eq (g : GovInputs) (s : State) (q : Nat) : ∃ n1 n3 r1 r3 b4 b1 b3, voltQuad g s q =
    postAtVmin 3 q n3 r3 b3 (postAtVmin 1 q n1 r1 b1 (postAtVmin 4 q 0 0 b4 (stepWrite g s q))) := ⟨_, _, _, _, _, _, _, rfl⟩

/-- What the voltage loop keeps of quadrant `q`: its target, and the conditions of R394. -/
def voltageEntry (q : Nat) (s : State) : Nat × NSet := (targetOf s.gov.target q, s.gov.hotPosted)

theorem postAtVmin_frame {ev node : Nat} {reading : Int} {now : Bool} (h : QuadFrame s₀ s) : QuadFrame s₀ (postAtVmin ev q node reading now s) := by
  unfold postAtVmin
  exact .ite (.ite h (thermal_frame (modGov_frame h rfl rfl rfl rfl id))) (modGov_frame h rfl rfl rfl rfl id)

theorem postAtVmin_entry (s : State) (ev r node : Nat) (reading : Int) (now : Bool) : voltageEntry q (postAtVmin ev r node reading now s) = voltageEntry q s := by
  unfold postAtVmin
  dsimp only
  split
  · split
    · rfl
    · rw [voltageEntry, thermal_gov]
      rfl
  · rfl

theorem stepWrite_frame (h : QuadFrame s₀ s) : QuadFrame s₀ (stepWrite g s q) := .ite h (.ite (writeTarget_frame h) h)

theorem stepWrite_entry_ne (s : State) (h : r ≠ q) : voltageEntry q (stepWrite g s r) = voltageEntry q s := by
  unfold stepWrite
  dsimp only
  split
  · rfl
  · split
    · rw [voltageEntry, writeTarget_hotPosted, targetOf_writeTarget_ne s _ h, voltageEntry]
    · rfl

theorem stepWrite_target (g : GovInputs) (s : State) (q : Nat) : targetOf (stepWrite g s q).gov.target q = stepTarget g s q := by
  unfold stepWrite stepTarget
  dsimp only
  split
  · rfl
  · split
    · exact targetOf_writeTarget_self ..
    · next hsame => exact (not_or.mp hsame).1 |> not_not.mp |>.symm

theorem voltQuad_frame (h : QuadFrame s₀ s) : QuadFrame s₀ (voltQuad g s q) := by
  obtain ⟨n1, n3, r1, r3, b4, b1, b3, heq⟩ := voltQuad_eq g s q
  rw [heq]
  exact postAtVmin_frame (postAtVmin_frame (postAtVmin_frame (stepWrite_frame h)))

theorem voltQuad_entry (g : GovInputs) (s : State) (r : Nat) : voltageEntry q (voltQuad g s r) = voltageEntry q (stepWrite g s r) := by
  obtain ⟨n1, n3, r1, r3, b4, b1, b3, heq⟩ := voltQuad_eq g s r
  rw [heq, postAtVmin_entry, postAtVmin_entry, postAtVmin_entry]

/-- A run whose reads answer. -/
def pmbusAnswered (s : State) : State := modGov s fun v => { v with pmbusFails := 0, pmbusPosted := false }

theorem countPmbus_answered (h : poutFails g = none) : countPmbus g s = pmbusAnswered s := by
  rw [countPmbus, h]
  rfl

theorem overCap_iff (hread : s.gov.pmbusFails = 0) : overCap s = true ↔ polNow s 0x0200 * 1000 < s.gov.power := by simp [overCap, hread]

theorem benchHot_iff : benchHot g s q = true ↔ ∃ n T, quadTemp g q = some (n, T) ∧ 16 * (polNow s 0x0203 : Int) ≤ T := by
  unfold benchHot
  cases quadTemp g q with
  | none => simp
  | some e => simp [Prod.ext_iff]

theorem stackHot_iff : (stackHot g s q).isSome = true ↔ ∃ e ∈ quadStacks g q, polNow s 0x0204 ≤ e.2 := by
  simp only [stackHot, List.find?_isSome, decide_eq_true_eq]

theorem mustFall_iff (hread : s.gov.pmbusFails = 0) : mustFall g s q = true ↔ polNow s 0x0200 * 1000 < s.gov.power ∨
    (∃ n T, quadTemp g q = some (n, T) ∧ 16 * (polNow s 0x0203 : Int) ≤ T) ∨ ∃ e ∈ quadStacks g q, polNow s 0x0204 ≤ e.2 := by
  rw [mustFall, Bool.or_eq_true, Bool.or_eq_true, overCap_iff hread, benchHot_iff, stackHot_iff, or_assoc]

theorem mayRise_iff (hread : s.gov.pmbusFails = 0) : mayRise g s q = true ↔ s.gov.power + 50000 ≤ polNow s 0x0200 * 1000 ∧
    ∃ n T, quadTemp g q = some (n, T) ∧ T ≤ 16 * ((polNow s 0x0203 : Int) - 3) := by
  have hcap : s.gov.power + 50000 ≤ polNow s 0x0200 * 1000 → overCap s = false := fun h => by
    rw [← Bool.not_eq_true, overCap_iff hread]
    omega
  unfold mayRise
  cases quadTemp g q with
  | none => simp
  | some e => simp +contextual [Prod.ext_iff, hcap]

/-- The rules of R391 for a quadrant's target, by what holds of its sample. -/
theorem stepTarget_claims (hread : s.gov.pmbusFails = 0) :
    let v := targetOf s.gov.target q
    let hotter : Prop := polNow s 0x0200 * 1000 < s.gov.power ∨ (∃ n T, quadTemp g q = some (n, T) ∧ 16 * (polNow s 0x0203 : Int) ≤ T) ∨
      ∃ e ∈ quadStacks g q, polNow s 0x0204 ≤ e.2
    let room : Prop := s.gov.power + 50000 ≤ polNow s 0x0200 * 1000 ∧ ∃ n T, quadTemp g q = some (n, T) ∧ T ≤ 16 * ((polNow s 0x0203 : Int) - 3)
    (quadHot s q = true → stepTarget g s q = v) ∧
    (quadHot s q = false → polNow s 0x0201 < v → stepTarget g s q = max (v - 25) (polNow s 0x0201)) ∧
    (quadHot s q = false → v ≤ polNow s 0x0201 → hotter → stepTarget g s q = max (v - 25) (polNow s 0x0202)) ∧
    (quadHot s q = false → v ≤ polNow s 0x0201 → ¬ hotter → room → stepTarget g s q = min (v + 10) (polNow s 0x0201)) ∧
    (quadHot s q = false → v ≤ polNow s 0x0201 → ¬ hotter → ¬ room → stepTarget g s q = v) := by
  intro v hotter room
  have hfall : mustFall g s q = true ↔ hotter := mustFall_iff hread
  have hrise : mayRise g s q = true ↔ room := mayRise_iff hread
  have hstep (hcold : quadHot s q = false) : stepTarget g s q = nextTarget v (polNow s 0x0202) (polNow s 0x0201) (mustFall g s q) (mayRise g s q) :=
    if_neg (ne_true_of_eq_false hcold)
  refine ⟨fun hhot => if_pos hhot, fun hcold habove => ?_, fun hcold hbelow hhotter => ?_, fun hcold hbelow hcool hroom => ?_, fun hcold hbelow hcool hfull => ?_⟩
  all_goals rw [hstep hcold, nextTarget]
  · rw [if_pos habove]
  · rw [if_neg (by omega), if_pos (hfall.mpr hhotter)]
  · rw [if_neg (by omega), if_neg (mt hfall.mp hcool), if_pos (hrise.mpr hroom)]
  · rw [if_neg (by omega), if_neg (mt hfall.mp hcool), if_neg (mt hrise.mp hfull)]

theorem mustFall_congr (h : QuadFrame s t) : mustFall g t q = mustFall g s q := by
  rw [mustFall, mustFall, h.overCap, benchHot, benchHot, stackHot, stackHot, h.polNow, h.polNow]

theorem mayRise_congr (h : QuadFrame s t) : mayRise g t q = mayRise g s q := by
  rw [mayRise, mayRise, h.overCap, h.power, h.polNow, h.polNow]

/-- A target's step depends on the policies, the power, the quadrant's target and its conditions alone. -/
theorem stepTarget_congr (h : QuadFrame s t) (he : voltageEntry q t = voltageEntry q s) : stepTarget g t q = stepTarget g s q := by
  obtain ⟨htarget, hposted⟩ : _ ∧ _ := by simpa only [voltageEntry, Prod.mk.injEq] using he
  rw [stepTarget, stepTarget, mustFall_congr h, mayRise_congr h, htarget, quadHot, quadHot, hposted, h.polNow, h.polNow]

/-- The voltage loop steps each quadrant's target once. -/
theorem voltageRun_target (hq : q < 4) (hread : poutFails g = none) : targetOf (voltageRun g s).gov.target q = stepTarget g (pmbusAnswered s) q := by
  obtain ⟨u, hu, heu, -, hend⟩ := foldl_quads hq (e := voltageEntry q) (voltQuad_frame (g := g))
    (fun s r hr => (voltQuad_entry g s r).trans (stepWrite_entry_ne s hr)) (pmbusAnswered s)
  obtain ⟨htarget, -⟩ := Prod.mk.inj (hend.trans (voltQuad_entry g u q))
  rw [voltageRun, countPmbus_answered hread, ← stepTarget_congr hu heu, ← stepWrite_target, htarget]

theorem voltageRun_sameMemory (hread : poutFails g = none) : SameMemory s (voltageRun g s) := by
  have hanswered : SameMemory s (pmbusAnswered s) := sameMemory_of_eq rfl rfl rfl rfl rfl
  rw [voltageRun, countPmbus_answered hread]
  exact sameMemory_trans hanswered (foldl_quads_frame (f := voltQuad g) voltQuad_frame _).memory

end

end Sys2Proof.Machine
end

section
/-!
PROOFS. The governor's loops over benches and link ports (R395, R396): the ways of a bench cache, and the rate of a link.
-/
namespace Sys2Proof.Machine

section
variable {s t u : State} {g : GovInputs} {n m p q : Nat}

/-! ### The cache loop (R395) -/

/-- A bench whose counts the loop has noted. -/
def noteCounts (b : Bench) : Bench := { b with lastHits := b.hits, lastMisses := b.misses }

/-- The ways that the loop wants for a bench (R395). -/
def wantedWays (gate capped : Bool) (s : State) (n : Nat) : Nat :=
  let b := bench s n
  let hits := (b.hits - b.lastHits).toNat
  if gate then waysFor (popCount b.wayen.toNat 16) (hits + (b.misses - b.lastMisses).toNat) hits (polNow s 0x0207) capped else 16

theorem cacheBench_eq (gate capped : Bool) (s : State) (n : Nat) : cacheBench gate capped s n =
    if isFenced s 2 n ∨ (bench s n).cleaning then modBench s n noteCounts
    else if wantedWays gate capped s n = popCount (bench s n).wayen.toNat 16 then modBench s n noteCounts
    else setWayen n (modBench s n noteCounts) (lowWays (wantedWays gate capped s n)) := rfl

theorem waysFor_mem (ways look hits hitmin : Nat) : waysFor ways look hits hitmin false ∈ [ways, 4, 8, 16] := by
  unfold waysFor
  simp only [Bool.false_eq_true, false_and, if_false]
  split
  · split <;> simp
  · split <;> simp

theorem setWayen_shape (s : State) (n : Nat) (v : W64) : ∃ f, setWayen n s v = modBench s n f := by
  unfold setWayen
  dsimp only
  split
  · exact ⟨_, rfl⟩
  · exact ⟨_, rfl⟩

/-- Setting the lowest 4, 8 or 16 ways is no write of fewer than 2. -/
theorem setWayen_lowWays (s : State) (n : Nat) {k : Nat} (hk : k ∈ [4, 8, 16]) : ∃ (on : Bench → BitVec 16) (cl : Bench → Bool), setWayen n s (lowWays k) =
    modBench s n fun b => { b with wayen := BitVec.ofNat 16 (2 ^ k - 1), wayon := on b, cleaning := cl b, bypass := false } := by
  have hlow : (lowWays k).setWidth 16 = BitVec.ofNat 16 (2 ^ k - 1) ∧ ¬ popCount (BitVec.ofNat 16 (2 ^ k - 1)).toNat 16 < 2 := by
    simp only [List.mem_cons, List.not_mem_nil, or_false] at hk
    rcases hk with rfl | rfl | rfl <;> decide
  obtain ⟨hwidth, hcount⟩ := hlow
  refine ⟨fun b => b.wayon ||| BitVec.ofNat 16 (2 ^ k - 1), fun b => (b.wayon &&& ~~~ BitVec.ofNat 16 (2 ^ k - 1)) != 0, ?_⟩
  unfold setWayen
  dsimp only
  rw [hwidth, if_neg hcount]

/-- The loop's step for a bench changes that bench alone. -/
theorem cacheBench_shape (gate capped : Bool) (s : State) (m : Nat) : ∃ bs, cacheBench gate capped s m = { s with benches := bs } ∧
    ∀ n, n ≠ m → bench { s with benches := bs } n = bench s n := by
  have hnoted : ∀ n, n ≠ m → bench (modBench s m noteCounts) n = bench s n := fun n hn => bench_modBench_ne _ _ hn
  rw [cacheBench_eq]
  split
  · exact ⟨_, rfl, hnoted⟩
  · split
    · exact ⟨_, rfl, hnoted⟩
    · obtain ⟨f, hf⟩ := setWayen_shape (modBench s m noteCounts) m (lowWays (wantedWays gate capped s m))
      exact ⟨_, hf, fun n hn => (bench_modBench_ne _ _ hn).trans (hnoted n hn)⟩

theorem cacheBench_sameMemory (gate capped : Bool) (s : State) (m : Nat) : SameMemory s (cacheBench gate capped s m) := by
  obtain ⟨bs, hbs, -⟩ := cacheBench_shape gate capped s m
  rw [hbs]
  exact sameMemory_of_eq rfl rfl rfl rfl rfl

/-- A bench in service, of a package not over its cap: its counts are noted, and its ways are those wanted. -/
theorem cacheBench_self (hserve : isFenced s 2 n = false) (hclean : (bench s n).cleaning = false) :
    (bench (cacheBench true false s n) n).lastHits = (bench s n).hits ∧ (bench (cacheBench true false s n) n).lastMisses = (bench s n).misses ∧
    (bench (cacheBench true false s n) n).wayen =
      if wantedWays true false s n = popCount (bench s n).wayen.toNat 16 then (bench s n).wayen else BitVec.ofNat 16 (2 ^ wantedWays true false s n - 1) := by
  have hnoted : bench (modBench s n noteCounts) n = noteCounts (bench s n) := bench_modBench_self ..
  have hruns : ¬ (isFenced s 2 n = true ∨ (bench s n).cleaning = true) := by simp [hserve, hclean]
  rw [cacheBench_eq, if_neg hruns]
  by_cases hsame : wantedWays true false s n = popCount (bench s n).wayen.toNat 16
  · rw [if_pos hsame, if_pos hsame, hnoted]
    exact ⟨rfl, rfl, rfl⟩
  · have hmem : wantedWays true false s n ∈ [4, 8, 16] := (List.mem_cons.mp (waysFor_mem ..)).resolve_left hsame
    obtain ⟨on, cl, hset⟩ := setWayen_lowWays (modBench s n noteCounts) n hmem
    rw [if_neg hsame, if_neg hsame, hset, bench_modBench_self, hnoted]
    exact ⟨rfl, rfl, rfl⟩

/-- The cache loop on a sample, for a bench in service, of a package not over its cap. -/
theorem cacheRun_bench (hn : isBench n = true) (hserve : isFenced s 2 n = false) (hclean : (bench s n).cleaning = false) (hcap : overCap s = false)
    (hgate : polNow s 0x0206 = 1) :
    (bench (cacheRun g s) n).lastHits = (bench s n).hits ∧ (bench (cacheRun g s) n).lastMisses = (bench s n).misses ∧
    (bench (cacheRun g s) n).wayen =
      if wantedWays true false s n = popCount (bench s n).wayen.toNat 16 then (bench s n).wayen else BitVec.ofNat 16 (2 ^ wantedWays true false s n - 1) := by
  have hrun : cacheRun g s = benches.foldl (cacheBench true false) s := by
    rw [cacheRun, hcap, hgate]
    rfl
  have hother : ∀ (s : State) (m : Nat), m ≠ n → (cacheBench true false s m).gov = s.gov ∧ (cacheBench true false s m).dev = s.dev ∧
      bench (cacheBench true false s m) n = bench s n := fun s m hm => by
    obtain ⟨bs, hbs, hsame⟩ := cacheBench_shape true false s m
    rw [hbs]
    exact ⟨rfl, rfl, hsame n hm.symm⟩
  obtain ⟨u, ⟨hgov, hdev, hbench⟩, -, -, hend⟩ := foldl_visit (R := fun s t : State => t.gov = s.gov ∧ t.dev = s.dev ∧ bench t n = bench s n)
    (fun _ => ⟨rfl, rfl, rfl⟩) (fun ⟨h1, h2, h3⟩ ⟨h4, h5, h6⟩ => ⟨h4.trans h1, h5.trans h2, h6.trans h3⟩) hother
    nodup_benches (mem_benches hn) s
  have hwanted : wantedWays true false u n = wantedWays true false s n := by rw [wantedWays, wantedWays, hbench, polNow, polNow, hgov]
  have hself := cacheBench_self (s := u) (n := n) (by rw [isFenced, hdev, ← isFenced, hserve]) (by rw [hbench, hclean])
  rwa [hwanted, hbench, ← hend, ← hrun] at hself

theorem cacheRun_sameMemory (g : GovInputs) (s : State) : SameMemory s (cacheRun g s) :=
  foldl_frame (R := SameMemory) sameMemory_refl sameMemory_trans (fun s m _ => cacheBench_sameMemory _ _ s m) s

/-- The cache loop's answer for a bench in service, by the lookups and hits of its period. -/
theorem waysFor_poor {ways look hits hitmin : Nat} (h : look < 4096 ∨ (65536 ≤ look ∧ hits * 1000 < hitmin * look)) :
    waysFor ways look hits hitmin false = if 8 < ways then 8 else 4 := by simp [waysFor, h]

theorem waysFor_rich {ways look hits hitmin : Nat} (h : ¬ (look < 4096 ∨ (65536 ≤ look ∧ hits * 1000 < hitmin * look))) (hways : ways < 16)
    (hhits : 2 * hitmin * look ≤ hits * 1000) : waysFor ways look hits hitmin false = 16 := by simp [waysFor, h, hways, hhits]

theorem waysFor_same {ways look hits hitmin : Nat} (h : ¬ (look < 4096 ∨ (65536 ≤ look ∧ hits * 1000 < hitmin * look)))
    (hsame : 16 ≤ ways ∨ hits * 1000 < 2 * hitmin * look) : waysFor ways look hits hitmin false = ways := by
  have hnot : ¬ (ways < 16 ∧ 2 * hitmin * look ≤ hits * 1000) := fun ⟨h1, h2⟩ => by omega
  simp [waysFor, h, hnot]

/-- The rules of R395 for a bench in service, by its period's lookups and hits. -/
theorem cacheRun_claims (hn : isBench n = true) (hserve : isFenced s 2 n = false) (hclean : (bench s n).cleaning = false) (hcap : overCap s = false)
    (hgate : polNow s 0x0206 = 1) :
    let b := bench s n
    let hits := (b.hits - b.lastHits).toNat
    let look := hits + (b.misses - b.lastMisses).toNat
    let ways := popCount b.wayen.toNat 16
    let poor : Prop := look < 4096 ∨ (65536 ≤ look ∧ hits * 1000 < polNow s 0x0207 * look)
    let becomes (k : Nat) : Prop := (bench (cacheRun g s) n).wayen = if k = ways then b.wayen else BitVec.ofNat 16 (2 ^ k - 1)
    (bench (cacheRun g s) n).lastHits = b.hits ∧ (bench (cacheRun g s) n).lastMisses = b.misses ∧ (poor → becomes (if 8 < ways then 8 else 4)) ∧
      (¬ poor → ways < 16 → 2 * polNow s 0x0207 * look ≤ hits * 1000 → becomes 16) ∧
      (¬ poor → 16 ≤ ways ∨ hits * 1000 < 2 * polNow s 0x0207 * look → becomes ways) := by
  intro b hits look ways poor becomes
  obtain ⟨hlastHits, hlastMisses, hways⟩ := cacheRun_bench (g := g) hn hserve hclean hcap hgate
  have hwanted {k : Nat} (hk : waysFor ways look hits (polNow s 0x0207) false = k) : becomes k := by
    subst hk
    exact hways
  exact ⟨hlastHits, hlastMisses, fun hpoor => hwanted (waysFor_poor hpoor), fun hgood hfew hrich => hwanted (waysFor_rich hgood hfew hrich),
    fun hgood hsame => hwanted (waysFor_same hgood hsame)⟩

/-! ### What every step of the link loop keeps -/

/-- What every step of the link loop keeps on its way from `s₀` to `s`: the governor, the device's number and straps, and memory. -/
structure LinkFrame (s₀ s : State) : Prop where
  gov : s.gov = s₀.gov
  devId : s.dev.devId = s₀.dev.devId
  straps : s.dev.straps = s₀.dev.straps
  memory : SameMemory s₀ s

theorem LinkFrame.refl (s : State) : LinkFrame s s := ⟨rfl, rfl, rfl, sameMemory_refl s⟩

theorem LinkFrame.trans (h : LinkFrame s t) (h' : LinkFrame t u) : LinkFrame s u :=
  ⟨h'.gov.trans h.gov, h'.devId.trans h.devId, h'.straps.trans h.straps, sameMemory_trans h.memory h'.memory⟩

theorem LinkFrame.ite {c : Prop} [Decidable c] {s₀ a b : State} (ha : LinkFrame s₀ a) (hb : LinkFrame s₀ b) : LinkFrame s₀ (if c then a else b) := by
  split
  · exact ha
  · exact hb

theorem LinkFrame.polNow (h : LinkFrame s t) (i : Nat) : Machine.polNow t i = Machine.polNow s i := by rw [Machine.polNow, Machine.polNow, h.gov]

theorem LinkFrame.strapRate (h : LinkFrame s t) : Machine.strapRate t = Machine.strapRate s := by rw [Machine.strapRate, Machine.strapRate, h.straps]

theorem modLink_linkFrame (s : State) (p : Nat) (f : Link → Link) : LinkFrame s (modLink s p f) := ⟨rfl, rfl, rfl, sameMemory_of_eq rfl rfl rfl rfl rfl⟩

theorem recordDev_linkFrame (s : State) (node scls srcid ty : Nat) (w3 w4 w5 w6 w7 : W64) : LinkFrame s (recordDev s node scls srcid ty w3 w4 w5 w6 w7) := by
  refine ⟨recordDev_gov .., ?_, ?_, sameMemory_of_eq (recordDev_hbm ..) (recordDev_ls ..) (recordDev_hostMem ..) (recordDev_cores ..) ?_⟩
  all_goals rw [recordDev_dev]

theorem link_recordDev (s : State) (node scls srcid ty : Nat) (w3 w4 w5 w6 w7 : W64) : link (recordDev s node scls srcid ty w3 w4 w5 w6 w7) q = link s q := by
  rw [link, recordDev_links, link]

theorem linkFall_linkFrame (s : State) (p state ev : Nat) : LinkFrame s (linkFall s p state ev) := (modLink_linkFrame s p _).trans (recordDev_linkFrame ..)

theorem link_linkFall_ne (s : State) (state ev : Nat) (h : q ≠ p) : link (linkFall s p state ev) q = link s q :=
  (link_recordDev ..).trans (link_modLink_ne _ _ h)

theorem noteFence_linkFrame (s : State) (name reason : Nat) : LinkFrame s (noteFence s name reason) := ⟨rfl, rfl, rfl, sameMemory_of_eq rfl rfl rfl rfl rfl⟩

/-- Fencing a lane changes the fence map, its port and records. -/
theorem fenceLane_linkFrame (s : State) (i reason : Nat) : LinkFrame s (fenceLane s i reason) := by
  unfold fenceLane
  refine .ite (.refl s) ((LinkFrame.trans ?_ (noteFence_linkFrame ..)).trans (recordDev_linkFrame ..))
  have hmap : LinkFrame s (modDev s fun d => { d with fenceMap := NSet.add d.fenceMap (unitName 4 i) }) :=
    ⟨rfl, rfl, rfl, sameMemory_of_eq rfl rfl rfl rfl rfl⟩
  have hlane := hmap.trans (modLink_linkFrame _ (i / 8) fun l => { l with fenced := l.fenced ||| BitVec.ofNat 8 (2 ^ (i % 8)) })
  exact .ite (.ite (hlane.trans (linkFall_linkFrame ..)) (hlane.trans (modLink_linkFrame ..))) hlane

theorem link_fenceLane_ne {i : Nat} (s : State) (reason : Nat) (h : q ≠ i / 8) : link (fenceLane s i reason) q = link s q := by
  unfold fenceLane
  dsimp only
  split
  · rfl
  · refine (link_recordDev ..).trans ?_
    change link (ite _ _ _) q = _
    have hlane (t : State) (f : Link → Link) (ht : link t q = link s q) : link (modLink t (i / 8) f) q = link s q := (link_modLink_ne _ _ h).trans ht
    split
    · split
      · exact (link_linkFall_ne _ _ _ h).trans (hlane _ _ rfl)
      · exact hlane _ _ (hlane _ _ rfl)
    · exact hlane _ _ rfl

theorem worstLane_lt (s : State) (p : Nat) : worstLane s p < 8 := by
  unfold worstLane
  refine List.foldlRecOn (motive := fun best : Nat × Nat => best.1 < 8) _ _ (by decide) fun best hbest i hi => ?_
  dsimp only
  split
  · exact List.mem_range.mp (List.mem_filter.mp hi).1
  · exact hbest

/-! ### The link loop (R396) -/

/-- Errors of a port that the loop has not seen yet: uncorrected codewords, and corrected symbols. -/
def newUncorrected (l : Link) : Nat := (l.fecunc - l.lastUnc).toNat

/-- Corrected symbols that the loop has not seen yet. -/
def newCorrected (l : Link) : Nat := (l.feccor - l.lastCor).toNat

/-- Runs in a row that find a port active and without an uncorrected codeword, with this one. -/
def goodRun (l : Link) : Nat := if l.state = 2 ∧ newUncorrected l = 0 then l.goodRuns + 1 else 0

/-- A port's counts noted. -/
def bookLink (s : State) (p : Nat) : State := modLink s p fun l => { l with lastUnc := l.fecunc, lastCor := l.feccor, goodRuns := goodRun (link s p) }

/-- What the loop does to a port that it acts on, its counts noted: it slows a failing one, or fences its worst lane, and speeds up a good one. -/
def linkTurn (s : State) (p : Nat) : State :=
  if polNow s 0x020A ≤ newUncorrected (link s p) ∨ polNow s 0x0209 ≤ newCorrected (link s p) then
    if (link s p).runRate.toNat < 2 then modLink (bookLink s p) p fun l => { l with rate := l.runRate + 1, state := 1 }
    else if polNow s 0x020D = 1 then fenceLane (bookLink s p) (8 * p + worstLane (bookLink s p) p) 8
    else bookLink s p
  else if 10 ≤ goodRun (link s p) ∧ strapRate s < (link s p).rate.toNat then
    modLink (bookLink s p) p fun l => { l with rate := l.rate - 1, state := 1, goodRuns := 0 }
  else bookLink s p

/-- The loop leaves a port alone: by its policy, because the port is not active, or because the peer has the lower number. -/
def linkSpared (s : State) (p : Nat) : Prop := polNow s 0x0208 ≠ 1 ∨ (link s p).state ≠ 2 ∨ (link s p).gotDev.toNat ≤ s.dev.devId.toNat

theorem linkStep_spared (h : linkSpared s p) : linkStep s p = bookLink s p := if_pos h

theorem linkStep_turn (h : ¬ linkSpared s p) : linkStep s p = linkTurn s p := if_neg h

theorem bookLink_linkFrame (s : State) (p : Nat) : LinkFrame s (bookLink s p) := modLink_linkFrame ..

theorem linkTurn_linkFrame (s : State) (p : Nat) : LinkFrame s (linkTurn s p) := by
  have hbook := bookLink_linkFrame s p
  exact .ite (.ite (hbook.trans (modLink_linkFrame ..)) (.ite (hbook.trans (fenceLane_linkFrame ..)) hbook))
    (.ite (hbook.trans (modLink_linkFrame ..)) hbook)

theorem linkStep_linkFrame (s : State) (p : Nat) : LinkFrame s (linkStep s p) := by
  by_cases h : linkSpared s p
  · rw [linkStep_spared h]
    exact bookLink_linkFrame s p
  · rw [linkStep_turn h]
    exact linkTurn_linkFrame s p

theorem link_bookLink_ne (s : State) (h : q ≠ p) : link (bookLink s p) q = link s q := link_modLink_ne _ _ h

theorem link_linkTurn_ne (s : State) (h : q ≠ p) : link (linkTurn s p) q = link s q := by
  have hbook := link_bookLink_ne s h
  have hlane := worstLane_lt (bookLink s p) p
  have hmod (f : Link → Link) : link (modLink (bookLink s p) p f) q = link s q := (link_modLink_ne _ _ h).trans hbook
  unfold linkTurn
  split
  · split
    · exact hmod _
    · split
      · exact (link_fenceLane_ne _ _ (by omega)).trans hbook
      · exact hbook
  · split
    · exact hmod _
    · exact hbook

theorem link_linkStep_ne (s : State) (h : q ≠ p) : link (linkStep s p) q = link s q := by
  by_cases hspared : linkSpared s p
  · rw [linkStep_spared hspared, link_bookLink_ne s h]
  · rw [linkStep_turn hspared, link_linkTurn_ne s h]

theorem link_bookLink_self (s : State) (p : Nat) :
    link (bookLink s p) p = { link s p with lastUnc := (link s p).fecunc, lastCor := (link s p).feccor, goodRuns := goodRun (link s p) } := link_modLink_self ..

/-- A port whose errors reach a limit trains at the next slower rate. -/
theorem linkTurn_slows (hfail : polNow s 0x020A ≤ newUncorrected (link s p) ∨ polNow s 0x0209 ≤ newCorrected (link s p)) (hrate : (link s p).runRate.toNat < 2) :
    (link (linkTurn s p) p).rate = (link s p).runRate + 1 ∧ (link (linkTurn s p) p).state = 1 := by
  rw [linkTurn, if_pos hfail, if_pos hrate, link_modLink_self, link_bookLink_self]
  exact ⟨rfl, rfl⟩

/-- A port without an error in its tenth good run trains at the next faster rate, down to the strap's code. -/
theorem linkTurn_speeds (hunc : newUncorrected (link s p) < polNow s 0x020A) (hcor : newCorrected (link s p) < polNow s 0x0209) (hactive : (link s p).state = 2)
    (hnone : newUncorrected (link s p) = 0) (hruns : 9 ≤ (link s p).goodRuns) (hrate : strapRate s < (link s p).rate.toNat) :
    (link (linkTurn s p) p).rate = (link s p).rate - 1 ∧ (link (linkTurn s p) p).state = 1 ∧ (link (linkTurn s p) p).goodRuns = 0 := by
  have hgood : goodRun (link s p) = (link s p).goodRuns + 1 := if_pos ⟨hactive, hnone⟩
  rw [linkTurn, if_neg (by omega), if_pos ⟨by omega, hrate⟩, link_modLink_self, link_bookLink_self]
  exact ⟨rfl, rfl, rfl⟩

/-- A port with errors below the limits stays as it is, and its good runs begin anew. -/
theorem linkTurn_stays (hunc : newUncorrected (link s p) < polNow s 0x020A) (hcor : newCorrected (link s p) < polNow s 0x0209) (hactive : (link s p).state = 2)
    (hsome : newUncorrected (link s p) ≠ 0) :
    (link (linkTurn s p) p).rate = (link s p).rate ∧ (link (linkTurn s p) p).state = 2 ∧ (link (linkTurn s p) p).goodRuns = 0 := by
  have hgood : goodRun (link s p) = 0 := if_neg fun h => hsome h.2
  rw [linkTurn, if_neg (by omega), if_neg (by omega), link_bookLink_self]
  exact ⟨rfl, hactive, hgood⟩

/-- The link loop takes each port's turn once, on the policies of the tick. -/
theorem linkRun_port (hq : q < 8) (hon : polNow s 0x0208 = 1) (hactive : (link s q).state = 2) (hlower : s.dev.devId.toNat < (link s q).gotDev.toNat) :
    ∃ u, LinkFrame s u ∧ link u q = link s q ∧ link (linkRun g s) q = link (linkTurn u q) q := by
  obtain ⟨u, ⟨hu, hlink⟩, -, hend⟩ := foldl_visit (R := fun s t : State => LinkFrame s t ∧ link t q = link s q) (fun s => ⟨.refl s, rfl⟩)
    (fun ⟨h1, h2⟩ ⟨h3, h4⟩ => ⟨h1.trans h3, h4.trans h2⟩) (fun s p hp => ⟨linkStep_linkFrame s p, link_linkStep_ne s hp.symm⟩)
    List.nodup_range (List.mem_range.mpr hq) s
  have hturn : ¬ linkSpared u q := by
    rw [linkSpared, hu.polNow, hlink, hu.devId]
    omega
  rw [linkStep_turn hturn] at hend
  exact ⟨u, hu, hlink, hend⟩

/-- The link loop on a sample, for an active port whose peer has the higher number. -/
theorem linkRun_claims (hq : q < 8) (hon : polNow s 0x0208 = 1) (hactive : (link s q).state = 2) (hlower : s.dev.devId.toNat < (link s q).gotDev.toNat) :
    let l := link s q
    (polNow s 0x020A ≤ newUncorrected l ∨ polNow s 0x0209 ≤ newCorrected l → l.runRate.toNat < 2 →
      (link (linkRun g s) q).rate = l.runRate + 1 ∧ (link (linkRun g s) q).state = 1) ∧
    (newUncorrected l < polNow s 0x020A → newCorrected l < polNow s 0x0209 → newUncorrected l = 0 → 9 ≤ l.goodRuns → strapRate s < l.rate.toNat →
      (link (linkRun g s) q).rate = l.rate - 1 ∧ (link (linkRun g s) q).state = 1 ∧ (link (linkRun g s) q).goodRuns = 0) ∧
    (newUncorrected l < polNow s 0x020A → newCorrected l < polNow s 0x0209 → newUncorrected l ≠ 0 →
      (link (linkRun g s) q).rate = l.rate ∧ (link (linkRun g s) q).state = 2 ∧ (link (linkRun g s) q).goodRuns = 0) := by
  obtain ⟨u, hu, hlink, hend⟩ := linkRun_port (g := g) hq hon hactive hlower
  rw [hend, ← hu.polNow 0x020A, ← hu.polNow 0x0209, ← hu.strapRate, ← hlink]
  rw [← hlink] at hactive
  exact ⟨linkTurn_slows, fun hunc hcor => linkTurn_speeds hunc hcor hactive, fun hunc hcor => linkTurn_stays hunc hcor hactive⟩

theorem linkRun_sameMemory (g : GovInputs) (s : State) : SameMemory s (linkRun g s) :=
  (foldl_frame (R := LinkFrame) .refl .trans (fun s p _ => linkStep_linkFrame s p) s).memory

end

end Sys2Proof.Machine
end

section
/-!
PROOFS. Fencing a bench (R381, R388), as the health loop sees it: no step of it changes the governor, the device registers, the Unit Records or a bench's
slow runs but the mark of the fence itself.
-/
namespace Sys2Proof.Machine

/-- `s` has the governor, the device registers, the Unit Records and the slow runs of `s₀`: what no operation on a core's or a bench's work changes. -/
def Spares (s₀ s : State) : Prop :=
  s.gov = s₀.gov ∧ s.dev = s₀.dev ∧ s.units = s₀.units ∧ ∀ n, (bench s n).slowRuns = (bench s₀ n).slowRuns

/-- A bench whose fetches answer other requesters. -/
def mapFetches (f : Requester → Requester) (b : Bench) : Bench :=
  { b with fetches := b.fetches.map fun x => { x with waiting := x.waiting.map fun m => { m with pay := mapReq f m.pay } } }

section
variable {s₀ s t u : State}

theorem Spares.refl (s : State) : Spares s s := ⟨rfl, rfl, rfl, fun _ => rfl⟩

theorem Spares.ite {c : Prop} [Decidable c] {a b : State} (ha : Spares s₀ a) (hb : Spares s₀ b) : Spares s₀ (if c then a else b) := by
  split
  · exact ha
  · exact hb

theorem Spares.foldl {α : Type} {f : State → α → State} {l : List α} (h : Spares s₀ s) (hf : ∀ {s x}, Spares s₀ s → Spares s₀ (f s x)) :
    Spares s₀ (l.foldl f s) := by
  induction l generalizing s with
  | nil => exact h
  | cons x l ih => exact ih (hf h)

/-! ### Parts of a state, event records and memories -/

theorem modBench_spares {n f} (h : Spares s₀ s) (hf : ∀ b, (f b).slowRuns = b.slowRuns) : Spares s₀ (modBench s n f) := by
  obtain ⟨hgov, hdev, hunits, hslow⟩ := h
  refine ⟨hgov, hdev, hunits, fun m => (Eq.trans ?_ (hslow m))⟩
  by_cases hm : m = n
  · rw [hm, bench_modBench_self, hf]
  · rw [bench_modBench_ne _ _ hm]

theorem modHaul_spares {n c f} (h : Spares s₀ s) : Spares s₀ (modHaul s n c f) := modBench_spares h fun _ => rfl

theorem wx_spares {k r v} (h : Spares s₀ s) : Spares s₀ (wx s k r v) := .ite h h

theorem makeRecord_spares {node rg scls srcid ty ctx w3 w4 w5 w6 w7} (h : Spares s₀ s) :
    Spares s₀ (makeRecord s node rg scls srcid ty ctx w3 w4 w5 w6 w7) := .ite h h

theorem recordCtx_spares {node scls srcid ctx ty w3 w4 w5 w6 w7} (h : Spares s₀ s) :
    Spares s₀ (recordCtx s node scls srcid ctx ty w3 w4 w5 w6 w7) := by
  unfold recordCtx
  split
  · exact h
  · exact makeRecord_spares h

theorem recordDev_spares {node scls srcid ty w3 w4 w5 w6 w7} (h : Spares s₀ s) : Spares s₀ (recordDev s node scls srcid ty w3 w4 w5 w6 w7) :=
  makeRecord_spares (makeRecord_spares h)

theorem countInstret_spares {k n} (h : Spares s₀ s) : Spares s₀ (countInstret s k n) := .ite (.ite (recordDev_spares h) h) h

theorem countWrap_spares {node off w wrapped old} (h : Spares s₀ s) : Spares s₀ (countWrap s node off w wrapped old) := .ite (recordDev_spares h) h

theorem countBc_spares {n which amount} (h : Spares s₀ s) : Spares s₀ (countBc s n which amount) := by
  unfold countBc
  have hcount (r : W64) : Spares s₀ (modBench s n fun b =>
      if which = 0 then { b with hits := r } else if which = 1 then { b with misses := r } else { b with wblines := r }) :=
    modBench_spares h fun _ => by split <;> [rfl; split <;> rfl]
  exact .ite (countWrap_spares (modBench_spares (hcount _) fun _ => rfl)) (hcount _)

theorem addAbort_spares {k c} (h : Spares s₀ s) : Spares s₀ (addAbort s k c) := .ite h h

theorem breakWatches_spares {x line by_} (h : Spares s₀ s) : Spares s₀ (breakWatches s x line by_) := Spares.foldl h addAbort_spares

theorem hbmWrite_spares {n bytes poison} (h : Spares s₀ s) : Spares s₀ (hbmWrite s n bytes poison) := .ite h (.ite h (.ite h h))

theorem bankWrite_spares {c o bytes poison} (h : Spares s₀ s) : Spares s₀ (bankWrite s c o bytes poison) := .ite h (.ite h h)

theorem gbufFlush_spares {c line} (h : Spares s₀ s) : Spares s₀ (gbufFlush s c line) := by
  unfold gbufFlush
  split
  · exact h
  · exact bankWrite_spares h

theorem homeWrite_spares {t bytes poison by_} (h : Spares s₀ s) : Spares s₀ (homeWrite s t bytes poison by_) := by
  unfold homeWrite
  split
  · exact hbmWrite_spares (breakWatches_spares h)
  · exact bankWrite_spares (gbufFlush_spares (breakWatches_spares h))
  · exact .ite h h
  · exact h

theorem bcWriteBack_spares {n key} (h : Spares s₀ s) : Spares s₀ (bcWriteBack s n key) := by
  unfold bcWriteBack
  split
  · exact h
  · exact .ite h (modBench_spares (countBc_spares (homeWrite_spares h)) fun _ => rfl)

theorem bcDrain_spares {n} (h : Spares s₀ s) : Spares s₀ (bcDrain s n) := modBench_spares (Spares.foldl h bcWriteBack_spares) fun _ => rfl

theorem bcFlushAll_spares {n} (h : Spares s₀ s) : Spares s₀ (bcFlushAll s n) := bcDrain_spares (modBench_spares h fun _ => rfl)

/-! ### Transactions and commands -/

theorem dropJob_spares {k} (h : Spares s₀ s) : Spares s₀ (dropJob s k) := by
  unfold dropJob
  split
  · exact h
  · exact h

theorem abortTx_spares {k code user detail node} (h : Spares s₀ s) : Spares s₀ (abortTx s k code user detail node) :=
  wx_spares (dropJob_spares (k := k) h)

theorem applyHome_spares {k x} (h : Spares s₀ s) : Spares s₀ (applyHome s k x) := by
  unfold applyHome
  dsimp only
  split
  · exact Spares.foldl h homeWrite_spares
  · exact Spares.foldl h homeWrite_spares

theorem sendStaged_spares {k t i} (h : Spares s₀ s) : Spares s₀ (sendStaged s k t i) := by
  unfold sendStaged
  split
  · exact h
  · split
    · exact h
    · split
      · exact h
      · exact h

theorem retire_spares {k len} (h : Spares s₀ s) : Spares s₀ (retire s k len) := countInstret_spares h

theorem commitEnd_spares {k} (h : Spares s₀ s) : Spares s₀ (commitEnd s k) := by
  unfold commitEnd
  refine retire_spares (show Spares s₀ (List.foldl _ _ _) from ?_)
  exact Spares.foldl h sendStaged_spares

theorem commitFinish_spares {k} (h : Spares s₀ s) : Spares s₀ (commitFinish s k) := by
  unfold commitFinish
  split
  · exact commitEnd_spares (Spares.foldl h applyHome_spares)
  · exact h

theorem finishAt_spares {l} (h : Spares s₀ s) : Spares s₀ (finishAt s l) := Spares.foldl h commitFinish_spares

theorem answerPacket_spares {rk p ty status reason w4 w5 w6 w7} (h : Spares s₀ s) :
    Spares s₀ (answerPacket s rk p ty status reason w4 w5 w6 w7) := by
  unfold answerPacket
  dsimp only
  split
  · exact makeRecord_spares h
  · split
    · exact h
    · exact makeRecord_spares h

theorem finish_spares {rk status reason w4 w5 w6 w7} (h : Spares s₀ s) : Spares s₀ (finish s rk status reason w4 w5 w6 w7) := by
  unfold finish
  split
  · exact h
  · exact answerPacket_spares (s := ringActs s rk) h

theorem failCommand_spares {rk code bytes} (h : Spares s₀ s) : Spares s₀ (failCommand s rk code bytes) := .ite (finish_spares h) h

/-! ### Threads, haul channels and regions -/

theorem stopThread_spares {k} (h : Spares s₀ s) : Spares s₀ (stopThread s k) := by
  unfold stopThread
  refine .ite h (dropJob_spares (k := k) (s := dropArray (dropWait _ k) k) ?_)
  split
  · exact commitFinish_spares h
  · exact .ite (abortTx_spares h) h

theorem haulEnd_spares {n ch code faddr} (h : Spares s₀ s) : Spares s₀ (haulEnd s n ch code faddr) := by
  unfold haulEnd
  dsimp only
  have hquit := modBench_spares (n := n) (f := fun b => { b with haulStop := b.haulStop &&& ~~~(BitVec.ofNat 16 (2 ^ ch)) })
    (modHaul_spares (n := n) (c := ch) (f := fun h => { h.quit with state := if code = 7 then 5 else 4, code := code, faddr := faddr }) h) fun _ => rfl
  refine .ite hquit ?_
  split
  · exact failCommand_spares hquit
  · exact hquit

/-- Haul channels that stop at once. -/
theorem haulStopIf_spares {n p} (h : Spares s₀ s) : Spares s₀ (haulStopIf s n true p) :=
  Spares.foldl h fun h => .ite (.ite h (haulEnd_spares h)) h

theorem mapInFlight_spares {f} (h : Spares s₀ s) : Spares s₀ (mapInFlight s f) := by
  obtain ⟨hgov, hdev, hunits, hslow⟩ := h
  refine ⟨hgov, hdev, hunits, fun m => Eq.trans ?_ (hslow m)⟩
  have hget : Tbl.get? (mapInFlight s f).benches m = (Tbl.get? s.benches m).map (mapFetches f) := Tbl.get?_map (fun _ => mapFetches f) s.benches m
  unfold bench Tbl.getD
  rw [hget]
  cases Tbl.get? s.benches m
  · rfl
  · rfl

theorem modCore_spares {c f} (h : Spares s₀ s) : Spares s₀ (modCore s c f) := h

theorem Spares.setLaunches {v} (h : Spares s₀ s) : Spares s₀ { s with launches := v } := h

theorem orphanCore_spares {c} (h : Spares s₀ s) : Spares s₀ (orphanCore s c) := mapInFlight_spares h

theorem quitCore_spares {c} (h : Spares s₀ s) : Spares s₀ (quitCore s c) := by
  unfold quitCore
  exact modCore_spares (orphanCore_spares (.setLaunches (haulStopIf_spares (Spares.foldl h stopThread_spares))))

theorem peerReports_spares {c} (h : Spares s₀ s) : Spares s₀ (peerReports s c) := by
  unfold peerReports
  refine Spares.foldl h fun {s e} h => ?_
  split
  · exact addAbort_spares h
  · exact h

theorem streamRelease_spares {n} (h : Spares s₀ s) : Spares s₀ (streamRelease s n) := by
  unfold streamRelease
  refine Spares.foldl h fun {s i} h => ?_
  dsimp only
  split
  · exact h
  · exact h

theorem unloadRegion_spares {rid} (h : Spares s₀ s) : Spares s₀ (unloadRegion s rid) := by
  unfold unloadRegion
  split
  · exact h
  · exact Spares.foldl h fun h => streamRelease_spares (modBench_spares h fun _ => rfl)

theorem loseRegion_spares {rid} (h : Spares s₀ s) : Spares s₀ (loseRegion s rid) := by
  unfold loseRegion
  split
  · exact h
  · refine unloadRegion_spares (recordCtx_spares ?_)
    split
    · exact finish_spares h
    · exact h

/-! ### Fencing a bench (R381, R388) -/

theorem fencedRecords_spares {name reason restored pages ctxs} (h : Spares s₀ s) : Spares s₀ (fencedRecords s name reason restored pages ctxs) :=
  Spares.foldl (recordDev_spares h) recordCtx_spares

theorem trimTables_spares (h : Spares s₀ s) : Spares s₀ (trimTables s) := h

/-- A fence is noted alike on two states that `Spares` does not tell apart. -/
theorem noteFence_spares {name reason : Nat} (h : Spares s t) : Spares (noteFence s name reason) (noteFence t name reason) := by
  obtain ⟨hgov, hdev, hunits, hslow⟩ := h
  refine ⟨hgov, hdev, ?_, hslow⟩
  unfold noteFence modUnit unitRec stampOf
  dsimp only
  rw [hdev, hunits]

/-- A bench marked as fenced, for a reason, in the fence map and in its Unit Record. -/
def markBench (s : State) (n reason : Nat) : State :=
  noteFence (modDev s fun d => { d with fenceMap := NSet.add d.fenceMap (unitName 2 n) }) (unitName 2 n) reason

theorem fenceBench_fenced {n reason : Nat} (h : isFenced s 2 n = true) : fenceBench s n reason = s := if_pos h

/-- Fencing a bench marks it, and changes nothing else of what `Spares` names. -/
theorem fenceBench_marks {n : Nat} (reason : Nat) (hnew : ¬ isFenced s 2 n = true) :
    ∃ u, Spares s u ∧ Spares (markBench u n reason) (fenceBench s n reason) := by
  have hcores {s₀ s : State} {cs : List Nat} (h : Spares s₀ s) : Spares s₀ (cs.foldl (fun s c => peerReports (quitCore s c) c) s) :=
    Spares.foldl h fun h => peerReports_spares (quitCore_spares h)
  have hregions {s₀ s : State} {rids : List Nat} (h : Spares s₀ s) : Spares s₀ (rids.foldl (fun s rid => loseRegion s rid) s) :=
    Spares.foldl h loseRegion_spares
  unfold isFenced at hnew
  unfold fenceBench
  dsimp only
  rw [if_neg hnew]
  refine ⟨_, ?_, fencedRecords_spares (noteFence_spares (trimTables_spares (Spares.refl _)))⟩
  exact haulStopIf_spares (modBench_spares (bcFlushAll_spares (hregions (hcores (finishAt_spares (Spares.refl s))))) fun _ => rfl)

end

end Sys2Proof.Machine
end

section
/-!
PROOFS. The health loop (R397), and the loops of the governor together (Table 20.2).
-/
namespace Sys2Proof.Machine

/-- What the health loop's turn of another bench leaves of bench `n`: the sample, its fence, its Unit Record and its slow runs. -/
def HealthFrame (n : Nat) (s t : State) : Prop :=
  t.gov = s.gov ∧ isFenced t 2 n = isFenced s 2 n ∧ unitRec t (unitName 2 n) = unitRec s (unitName 2 n) ∧ (bench t n).slowRuns = (bench s n).slowRuns

section
variable {s t u : State} {g : GovInputs} {m n q : Nat}

/-! ### The mark of a fence -/

theorem Spares.healthFrame (h : Spares s t) (n : Nat) : HealthFrame n s t := by
  obtain ⟨hgov, hdev, hunits, hslow⟩ := h
  exact ⟨hgov, by rw [isFenced, hdev, isFenced], by rw [unitRec, hunits, unitRec], hslow n⟩

theorem HealthFrame.refl (s : State) : HealthFrame n s s := ⟨rfl, rfl, rfl, rfl⟩

theorem HealthFrame.trans (h : HealthFrame n s t) (h' : HealthFrame n t u) : HealthFrame n s u := by
  obtain ⟨hgov, hfence, hunit, hslow⟩ := h
  obtain ⟨hgov', hfence', hunit', hslow'⟩ := h'
  exact ⟨hgov'.trans hgov, hfence'.trans hfence, hunit'.trans hunit, hslow'.trans hslow⟩

theorem HealthFrame.ite {c : Prop} [Decidable c] {a b : State} (ha : HealthFrame n s a) (hb : HealthFrame n s b) : HealthFrame n s (if c then a else b) := by
  split
  · exact ha
  · exact hb

theorem unitName_ne {kind : Nat} (h : m ≠ n) : unitName kind m ≠ unitName kind n := by
  unfold unitName
  omega

theorem noteFence_units (s : State) (name reason : Nat) : ∃ r : UnitRec, (noteFence s name reason).units = Tbl.set s.units name r ∧ r.reason = reason :=
  ⟨_, rfl, rfl⟩

theorem markBench_other (s : State) (reason : Nat) (h : m ≠ n) : HealthFrame n s (markBench s m reason) := by
  refine ⟨rfl, NSet.has_add_ne _ (unitName_ne h.symm), ?_, rfl⟩
  obtain ⟨r, hunits, -⟩ := noteFence_units (modDev s fun d => { d with fenceMap := NSet.add d.fenceMap (unitName 2 m) }) (unitName 2 m) reason
  rw [unitRec, markBench, hunits]
  exact Tbl.getD_set_ne _ _ _ (unitName_ne h.symm)

theorem isFenced_markBench (s : State) (n reason : Nat) : isFenced (markBench s n reason) 2 n = true := NSet.has_add_self _ _

theorem reason_markBench (s : State) (n reason : Nat) : (unitRec (markBench s n reason) (unitName 2 n)).reason = reason := by
  obtain ⟨r, hunits, hreason⟩ := noteFence_units (modDev s fun d => { d with fenceMap := NSet.add d.fenceMap (unitName 2 n) }) (unitName 2 n) reason
  rw [unitRec, markBench, hunits, Tbl.getD_set_self, hreason]

theorem fenceBench_other (s : State) (reason : Nat) (h : m ≠ n) : HealthFrame n s (fenceBench s m reason) := by
  by_cases hfenced : isFenced s 2 m = true
  · rw [fenceBench_fenced hfenced]
    exact .refl s
  · obtain ⟨u, hu, hmarked⟩ := fenceBench_marks reason hfenced
    exact ((hu.healthFrame n).trans (markBench_other u reason h)).trans (hmarked.healthFrame n)

theorem fenceBench_self {reason : Nat} (hnew : ¬ isFenced s 2 n = true) :
    isFenced (fenceBench s n reason) 2 n = true ∧ (unitRec (fenceBench s n reason) (unitName 2 n)).reason = reason := by
  obtain ⟨u, -, hmarked⟩ := fenceBench_marks reason hnew
  obtain ⟨-, hfence, hunit, -⟩ := hmarked.healthFrame n
  rw [hfence, hunit]
  exact ⟨isFenced_markBench .., reason_markBench ..⟩

/-! ### The health loop (R397) -/

theorem modBench_other (s : State) (f : Bench → Bench) (h : m ≠ n) : HealthFrame n s (modBench s m f) :=
  ⟨rfl, rfl, rfl, by rw [bench_modBench_ne _ _ h.symm]⟩

theorem healthBench_other (g : GovInputs) (s : State) (h : m ≠ n) : HealthFrame n s (healthBench g s m) :=
  .ite (modBench_other s _ h) (.ite (modBench_other s _ h) ((modBench_other s _ h).trans (fenceBench_other _ 8 h)))

/-- One bench of the loop, in service: its slow runs count on or begin anew, and the third in a row fences it. -/
theorem healthBench_self (hserve : isFenced s 2 n = false) :
    (benchSlow g s n = false → (bench (healthBench g s n) n).slowRuns = 0) ∧
    (benchSlow g s n = true → (bench s n).slowRuns < 2 →
      (bench (healthBench g s n) n).slowRuns = (bench s n).slowRuns + 1 ∧ isFenced (healthBench g s n) 2 n = false) ∧
    (benchSlow g s n = true → 2 ≤ (bench s n).slowRuns →
      isFenced (healthBench g s n) 2 n = true ∧ (unitRec (healthBench g s n) (unitName 2 n)).reason = 8) := by
  have hnew : ¬ isFenced s 2 n = true := ne_true_of_eq_false hserve
  unfold healthBench
  rw [if_neg hnew]
  dsimp only
  refine ⟨fun hslow => ?_, fun hslow hfew => ?_, fun hslow hmany => ?_⟩
  · rw [if_neg (ne_true_of_eq_false hslow), if_pos (by decide), bench_modBench_self]
    rfl
  · have hk : (bench s n).slowRuns + 1 < 3 := by omega
    rw [if_pos hslow, if_pos hk, bench_modBench_self]
    exact ⟨if_pos hk, hserve⟩
  · rw [if_pos hslow, if_neg (by omega)]
    exact fenceBench_self hnew

theorem benchSlow_of_gov (h : t.gov = s.gov) : benchSlow g t n = benchSlow g s n := by
  unfold benchSlow
  rw [h]

/-- The health loop on a sample, for a bench in service. -/
theorem healthRun_claims (hn : isBench n = true) (hserve : isFenced s 2 n = false) (hon : polNow s 0x020D = 1) :
    (benchSlow g s n = false → (bench (healthRun g s) n).slowRuns = 0) ∧
    (benchSlow g s n = true → (bench s n).slowRuns < 2 →
      (bench (healthRun g s) n).slowRuns = (bench s n).slowRuns + 1 ∧ isFenced (healthRun g s) 2 n = false) ∧
    (benchSlow g s n = true → 2 ≤ (bench s n).slowRuns →
      isFenced (healthRun g s) 2 n = true ∧ (unitRec (healthRun g s) (unitName 2 n)).reason = 8) := by
  obtain ⟨u, ⟨hgov, hfence, -, hslow⟩, -, hfence', hunit', hslow'⟩ := foldl_visit (R := HealthFrame n) .refl .trans
    (fun s m hm => healthBench_other g s hm) nodup_benches (mem_benches hn) s
  rw [healthRun, if_pos hon, hslow', hfence', hunit', ← benchSlow_of_gov hgov, ← hslow]
  exact healthBench_self (hfence.trans hserve)

end

/-! ### The loops of the governor (Table 20.2) -/

theorem loops_claims : Claims.Loops := by
  intro g s hg p runs
  refine ⟨?safety, ?precision, ?voltage, ?cache, ?link, ?health⟩
  case safety =>
    intro q n T hq htemp hstacks hwf
    exact loop_runs rfl hg (safetyRun_frame g s).memory (safetyRun_claims hq htemp hstacks hwf)
  case precision =>
    intro k tile hone hctx hnew
    obtain ⟨hmem, hpost⟩ := precisionRun_one (g := g) hone hctx hnew
    exact loop_runs rfl hg hmem hpost
  case voltage =>
    intro hread
    refine loop_runs rfl hg (voltageRun_sameMemory hread) fun q hq => ?_
    dsimp only
    rw [targetOf_ranLoop, voltageRun_target hq hread]
    exact stepTarget_claims (s := pmbusAnswered s) rfl
  case cache =>
    intro n hn hserve hclean hcap hgate
    refine loop_runs rfl hg (cacheRun_sameMemory g s) ?_
    dsimp only
    rw [bench_ranLoop]
    exact cacheRun_claims hn hserve hclean hcap hgate
  case link =>
    intro q hq hon hactive hlower
    refine loop_runs rfl hg (linkRun_sameMemory g s) ?_
    rw [link_ranLoop]
    exact linkRun_claims hq hon hactive hlower
  case health =>
    intro n hn hserve hon
    have hexec : exec .healthLoop s = .next (runLoop 5 healthRun s) := rfl
    have hpost := healthRun_claims (g := g) hn hserve hon
    refine ⟨fun hready => ⟨ranLoop 5 (healthRun g s), by rw [hexec, runLoop_ready hg hready], NSet.has_add_self _ _, ?_⟩,
      fun hready => by rw [hexec, runLoop_notReady hg hready]⟩
    generalize healthRun g s = t at hpost ⊢
    exact hpost

/-- Settles O50: the management tick, and each loop of the governor on the tick's sample. -/
theorem governorLoops : Obligations.GovernorLoops := ⟨managementTick_claims, loops_claims⟩

end Sys2Proof.Machine
end

section
/-!
PROOFS. The decoder gives back what the encoder spells (R58, R62 to R64, R72, R73): the fields of each format read from its encoding, the
32-bit forms of every row, and the 16-bit forms of Table 3.7.
-/
namespace Sys2Proof

section
open BitVec (extractLsb'_append_eq_of_le extractLsb'_append_eq_of_add_le extractLsb'_eq_self getLsbD_append getLsbD_ofBool)

variable {h : Hart} {m : BitVec 6} {a b c : BitVec 5} {w : BitVec 32}

/-! ### The fields of each 32-bit format -/

theorem fields_encR {fn : BitVec 10} :
    (encR m a b c fn).getLsbD 31 = true ∧ fMajor (encR m a b c fn) = m ∧ fRd (encR m a b c fn) = a ∧ fRs1 (encR m a b c fn) = b ∧
    fRs2 (encR m a b c fn) = c ∧ fFn10 (encR m a b c fn) = fn := by
  simp (disch := decide) only [fMajor, fRd, fRs1, fRs2, fFn10, encR, extractLsb'_append_eq_of_le, extractLsb'_append_eq_of_add_le, extractLsb'_eq_self,
    getLsbD_append, if_neg, BitVec.reduceGetLsb, Nat.reduceSub, -Nat.reduceAdd, and_self]

theorem fields_encI {imm : BitVec 15} :
    (encI m a b imm).getLsbD 31 = true ∧ fMajor (encI m a b imm) = m ∧ fRd (encI m a b imm) = a ∧ fRs1 (encI m a b imm) = b ∧
    fImm15 (encI m a b imm) = imm := by
  simp (disch := decide) only [fMajor, fRd, fRs1, fImm15, encI, extractLsb'_append_eq_of_le, extractLsb'_append_eq_of_add_le, extractLsb'_eq_self,
    getLsbD_append, if_neg, BitVec.reduceGetLsb, Nat.reduceSub, -Nat.reduceAdd, and_self]

theorem fields_encU {imm : BitVec 20} :
    (encU m a imm).getLsbD 31 = true ∧ fMajor (encU m a imm) = m ∧ fRd (encU m a imm) = a ∧ fImm20 (encU m a imm) = imm := by
  simp (disch := decide) only [fMajor, fRd, fImm20, encU, extractLsb'_append_eq_of_le, extractLsb'_append_eq_of_add_le, extractLsb'_eq_self,
    getLsbD_append, if_neg, BitVec.reduceGetLsb, Nat.reduceSub, -Nat.reduceAdd, and_self]

theorem fields_encSy {fn : BitVec 3} {sr : BitVec 12} :
    (encSy fn a b sr).getLsbD 31 = true ∧ fMajor (encSy fn a b sr) = 0x29 ∧ fRd (encSy fn a b sr) = a ∧ fRs1 (encSy fn a b sr) = b ∧
    fFn3 (encSy fn a b sr) = fn ∧ fSr12 (encSy fn a b sr) = sr := by
  simp (disch := decide) only [fMajor, fRd, fRs1, fFn3, fSr12, encSy, extractLsb'_append_eq_of_le, extractLsb'_append_eq_of_add_le, extractLsb'_eq_self,
    getLsbD_append, if_neg, BitVec.reduceGetLsb, Nat.reduceSub, -Nat.reduceAdd, BitVec.ofNat_eq_ofNat, and_self]

theorem fields_encV {f : VFields} {fn : BitVec 4} :
    (encV m f fn).getLsbD 31 = true ∧ fMajor (encV m f fn) = m ∧ fV (encV m f fn) = f ∧ fFn4 (encV m f fn) = fn := by
  simp (disch := decide) only [fMajor, fV, fRd, fRs1, fRs2, fFn4, encV, extractLsb'_append_eq_of_le, extractLsb'_append_eq_of_add_le, extractLsb'_eq_self,
    getLsbD_append, if_neg, BitVec.reduceGetLsb, Nat.reduceSub, -Nat.reduceAdd, and_self]

theorem fields_encTMem {store : Bool} {f : TMemFields} :
    (encTMem store f).getLsbD 31 = true ∧ fMajor (encTMem store f) = 0x38 ∧ fTMem (encTMem store f) = f ∧
    (encTMem store f).getLsbD 11 = store ∧ (encTMem store f).getLsbD 1 = f.q := by
  simp (disch := decide) only [fMajor, fTMem, encTMem, extractLsb'_append_eq_of_le, extractLsb'_append_eq_of_add_le, extractLsb'_eq_self,
    getLsbD_append, if_neg, BitVec.reduceGetLsb, Nat.reduceSub, -Nat.reduceAdd, BitVec.ofNat_eq_ofNat, and_self,
    getLsbD_ofBool, if_pos, decide_true, Bool.true_and]

theorem fields_encTComp {f : TCompFields} {fn : BitVec 4} :
    (encTComp f fn).getLsbD 31 = true ∧ fMajor (encTComp f fn) = 0x39 ∧ fTComp (encTComp f fn) = f ∧ fFn4 (encTComp f fn) = fn := by
  simp (disch := decide) only [fMajor, fTComp, fFn4, encTComp, extractLsb'_append_eq_of_le, extractLsb'_append_eq_of_add_le, extractLsb'_eq_self,
    getLsbD_append, if_neg, BitVec.reduceGetLsb, Nat.reduceSub, -Nat.reduceAdd, BitVec.ofNat_eq_ofNat, and_self,
    getLsbD_ofBool, if_pos, decide_true, Bool.true_and]

theorem fields_encTCtl {f : TCtlFields} {fn : BitVec 4} :
    (encTCtl f fn).getLsbD 31 = true ∧ fMajor (encTCtl f fn) = 0x3A ∧ fTCtl (encTCtl f fn) = f ∧ fFn4 (encTCtl f fn) = fn := by
  simp (disch := decide) only [fMajor, fTCtl, fRd, fRs1, fFn4, encTCtl, extractLsb'_append_eq_of_le, extractLsb'_append_eq_of_add_le, extractLsb'_eq_self,
    getLsbD_append, if_neg, BitVec.reduceGetLsb, Nat.reduceSub, -Nat.reduceAdd, BitVec.ofNat_eq_ofNat, and_self]

theorem fields_encRep {f : RepFields} :
    (encRep f).getLsbD 31 = true ∧ fMajor (encRep f) = 0x2E ∧ fRep (encRep f) = f := by
  simp (disch := decide) only [fMajor, fRep, encRep, extractLsb'_append_eq_of_le, extractLsb'_append_eq_of_add_le, extractLsb'_eq_self,
    getLsbD_append, if_neg, BitVec.reduceGetLsb, Nat.reduceSub, -Nat.reduceAdd, BitVec.ofNat_eq_ofNat, and_self,
    getLsbD_ofBool, if_pos, decide_true, Bool.true_and]

/-! ### Decoding by the fields of a format -/

section
variable {fn : BitVec 10} {fn3 : BitVec 3} {fn4 : BitVec 4} {imm : BitVec 15} {imm20 : BitVec 20} {sr : BitVec 12} {store : Bool} {d : Decoded}

theorem decodes_encR (H : ∀ w, fMajor w = m → fRd w = a → fRs1 w = b → fRs2 w = c → fFn10 w = fn → decodeMajor h w = d) :
    (encR m a b c fn).getLsbD 31 = true ∧ decodeMajor h (encR m a b c fn) = d := by
  obtain ⟨hlong, hm, ha, hb, hc, hfn⟩ := fields_encR (m := m) (a := a) (b := b) (c := c) (fn := fn)
  exact ⟨hlong, H _ hm ha hb hc hfn⟩

theorem decodes_encI (H : ∀ w, fMajor w = m → fRd w = a → fRs1 w = b → fImm15 w = imm → decodeMajor h w = d) :
    (encI m a b imm).getLsbD 31 = true ∧ decodeMajor h (encI m a b imm) = d := by
  obtain ⟨hlong, hm, ha, hb, himm⟩ := fields_encI (m := m) (a := a) (b := b) (imm := imm)
  exact ⟨hlong, H _ hm ha hb himm⟩

theorem decodes_encU (H : ∀ w, fMajor w = m → fRd w = a → fImm20 w = imm20 → decodeMajor h w = d) :
    (encU m a imm20).getLsbD 31 = true ∧ decodeMajor h (encU m a imm20) = d := by
  obtain ⟨hlong, hm, ha, himm⟩ := fields_encU (m := m) (a := a) (imm := imm20)
  exact ⟨hlong, H _ hm ha himm⟩

theorem decodes_encSy (H : ∀ w, fRd w = a → fRs1 w = b → fFn3 w = fn3 → fSr12 w = sr → decodeSys h w = d) :
    (encSy fn3 a b sr).getLsbD 31 = true ∧ decodeMajor h (encSy fn3 a b sr) = d := by
  obtain ⟨hlong, hm, ha, hb, hfn, hsr⟩ := fields_encSy (a := a) (b := b) (fn := fn3) (sr := sr)
  exact ⟨hlong, (Machine.decodeMajor_sys (by rw [hm]; rfl)).trans (H _ ha hb hfn hsr)⟩

theorem decodes_encV {f : VFields} (H : ∀ w, fMajor w = m → fV w = f → fFn4 w = fn4 → decodeMajor h w = d) :
    (encV m f fn4).getLsbD 31 = true ∧ decodeMajor h (encV m f fn4) = d := by
  obtain ⟨hlong, hm, hf, hfn⟩ := fields_encV (m := m) (f := f) (fn := fn4)
  exact ⟨hlong, H _ hm hf hfn⟩

theorem decodes_encTMem {f : TMemFields} (H : ∀ w, fTMem w = f → w.getLsbD 11 = store → w.getLsbD 1 = f.q → decodeTmem h w = d) :
    (encTMem store f).getLsbD 31 = true ∧ decodeMajor h (encTMem store f) = d := by
  obtain ⟨hlong, hm, hf, hstore, hq⟩ := fields_encTMem (store := store) (f := f)
  have htmem : decodeMajor h (encTMem store f) = decodeTmem h (encTMem store f) := by rw [decodeMajor, hm]; rfl
  exact ⟨hlong, htmem.trans (H _ hf hstore hq)⟩

theorem decodes_encTComp {f : TCompFields} (H : ∀ w, fTComp w = f → fFn4 w = fn4 → decodeTcomp h w = d) :
    (encTComp f fn4).getLsbD 31 = true ∧ decodeMajor h (encTComp f fn4) = d := by
  obtain ⟨hlong, hm, hf, hfn⟩ := fields_encTComp (f := f) (fn := fn4)
  have htcomp : decodeMajor h (encTComp f fn4) = decodeTcomp h (encTComp f fn4) := by rw [decodeMajor, hm]; rfl
  exact ⟨hlong, htcomp.trans (H _ hf hfn)⟩

theorem decodes_encTCtl {f : TCtlFields} (H : ∀ w, fTCtl w = f → fFn4 w = fn4 → decodeTctl h w = d) :
    (encTCtl f fn4).getLsbD 31 = true ∧ decodeMajor h (encTCtl f fn4) = d := by
  obtain ⟨hlong, hm, hf, hfn⟩ := fields_encTCtl (f := f) (fn := fn4)
  have htctl : decodeMajor h (encTCtl f fn4) = decodeTctl h (encTCtl f fn4) := by rw [decodeMajor, hm]; rfl
  exact ⟨hlong, htctl.trans (H _ hf hfn)⟩

theorem decodes_encRep {f : RepFields} : (encRep f).getLsbD 31 = true ∧ decodeMajor h (encRep f) = .rep f := by
  obtain ⟨hlong, hm, hf⟩ := fields_encRep (f := f)
  have hrep : decodeMajor h (encRep f) = .rep (fRep (encRep f)) := by rw [decodeMajor, hm]; rfl
  exact ⟨hlong, by rw [hrep, hf]⟩

end

/-! ### The majors whose function field selects the row -/

theorem decodeMajor_tx (hm : fMajor w = 0x2B) : decodeMajor h w = decodeTx h w := by rw [decodeMajor, hm]; rfl
theorem decodeMajor_chan (hm : fMajor w = 0x2C) : decodeMajor h w = decodeChan h w := by rw [decodeMajor, hm]; rfl
theorem decodeMajor_thread (hm : fMajor w = 0x2D) : decodeMajor h w = decodeThread h w := by rw [decodeMajor, hm]; rfl
theorem decodeMajor_vpred (hm : fMajor w = 0x32) : decodeMajor h w = decodeVpred h w := by rw [decodeMajor, hm]; rfl
theorem decodeMajor_vmem (hm : fMajor w = 0x33) : decodeMajor h w = decodeVmem h w := by rw [decodeMajor, hm]; rfl
theorem decodeMajor_vmove (hm : fMajor w = 0x34) : decodeMajor h w = decodeVmove h w := by rw [decodeMajor, hm]; rfl
theorem decodeMajor_vstream (hm : fMajor w = 0x36) : decodeMajor h w = decodeVstream h w := by rw [decodeMajor, hm]; rfl
theorem decodeMajor_vzfma (hm : fMajor w = 0x37) : decodeMajor h w = decodeVzfma h w := by rw [decodeMajor, hm]; rfl

theorem decodeVpred_vcmp (hf : (fFn4 w).toNat < 7) : decodeVpred h w = .instr (.vcmp h (fV w) (fFn4 w)) := by
  have hv : fFn4 w = BitVec.ofNat 4 (fFn4 w).toNat := by simp
  unfold decodeVpred
  generalize (fFn4 w).toNat = n at hf hv
  rw [hv]
  interval_cases n <;> rfl

theorem decodeVzfma_vzfma (hf : (fFn4 w).toNat < 4) : decodeVzfma h w = .instr (.vzfma h (fV w) (fFn4 w)) := by
  have hv : fFn4 w = BitVec.ofNat 4 (fFn4 w).toNat := by simp
  unfold decodeVzfma
  generalize (fFn4 w).toNat = n at hf hv
  rw [hv]
  interval_cases n <;> rfl

/-! ### The 32-bit encodings -/

/-- Two halfwords of which the first begins a 32-bit instruction are decoded by its major (R58). -/
theorem decodeAt_long (hc : h.compact = false) (hw : w.getLsbD 31 = true) :
    decodeAt h (w.extractLsb' 16 16) (w.setWidth 16) = decodeMajor h w := by
  have hfirst : isLong (w.extractLsb' 16 16) = true := by simpa [isLong] using hw
  have hword : w.extractLsb' 16 16 ++ w.setWidth 16 = w := by
    rw [BitVec.setWidth_eq_extractLsb' (by decide)]
    exact BitVec.extractLsb'_append_extractLsb'
  have hh : { h with compact := false } = h := by rw [← hc]
  rw [decodeAt, if_pos hfirst, hword, Machine.decode32_long hw, hh]

/-- What the encoding of an instruction spells: the instruction, or for a repeat its own fields (R80). -/
def spelled (i : Instr) : Decoded :=
  match i with
  | .repI _ src z rs1 count _ => .rep { ni := false, src := src, z := z, rs1 := rs1, count := count }
  | .repN _ src z rs1 count _ => .rep { ni := true, src := src, z := z, rs1 := rs1, count := count }
  | _ => .instr i

theorem decodeMajor_encode {i : Instr} (hh : i.hart? = some h) (hwf : i.wf = true) :
    ∃ w, encode i = some w ∧ w.getLsbD 31 = true ∧ decodeMajor h w = spelled i := by
  cases i with
  | op | op32 | muldiv | bits | loadx | storex | atomic =>
    cases hh
    refine ⟨_, rfl, decodes_encR ?_⟩
    rintro w hm rfl rfl rfl rfl
    rw [decodeMajor, hm]
    rfl
  | addk | andk | ork | xork | cmpltk | cmpltuk | shk | addk32 | lb | lh | lw | ld | lbu | lhu | lwu | sb | sh | sw | sd | beq | bne | blt
    | bge | bltu | bgeu | jalr =>
    cases hh
    refine ⟨_, rfl, decodes_encI ?_⟩
    rintro w hm rfl rfl rfl
    rw [decodeMajor, hm]
    rfl
  | lih | pcaddh | jal =>
    cases hh
    refine ⟨_, rfl, decodes_encU ?_⟩
    rintro w hm rfl rfl
    rw [decodeMajor, hm]
    rfl
  | srd | swr | srs | src =>
    cases hh
    refine ⟨_, rfl, decodes_encSy ?_⟩
    rintro w rfl rfl hfn rfl
    rw [decodeSys, hfn]
    rfl
  | ecall | ebreak | eret | wedgeL | wedgeB | wedgeD | wedgeS =>
    cases hh
    refine ⟨_, rfl, decodes_encSy ?_⟩
    rintro w rfl rfl hfn hsr
    rw [decodeSys, hfn, hsr]
    rfl
  | cinc | cincB | cdec | cwait | cread =>
    cases hh
    refine ⟨_, rfl, decodes_encR ?_⟩
    rintro w hm rfl rfl rfl hfn
    rw [Machine.decodeMajor_counter (by rw [hm]; rfl), decodeCounter, hfn]
    rfl
  | txb | txe | txa =>
    cases hh
    refine ⟨_, rfl, decodes_encR ?_⟩
    rintro w hm rfl rfl rfl hfn
    rw [decodeMajor_tx hm, decodeTx, hfn]
    rfl
  | portCreate | portFree | portPop | dispatch | hset | chanOpen | chanClose | send | tsend | sendM | sendEnd | tsendEnd =>
    cases hh
    refine ⟨_, rfl, decodes_encR ?_⟩
    rintro w hm rfl rfl rfl hfn
    rw [decodeMajor_chan hm, decodeChan, hfn]
    rfl
  | tput | tget | ttryput | tpoll | tsetr | trel | tinfo | tend =>
    cases hh
    refine ⟨_, rfl, decodes_encR ?_⟩
    rintro w hm rfl rfl rfl hfn
    rw [decodeMajor_thread hm, decodeThread, hfn]
    rfl
  | repI | repN =>
    cases hh
    exact ⟨_, rfl, decodes_encRep⟩
  | varith | vfma =>
    cases hh
    refine ⟨_, rfl, decodes_encV ?_⟩
    rintro w hm rfl rfl
    rw [decodeMajor, hm]
    rfl
  | vcmp g f fn =>
    cases hh
    have hlt : fn.toNat < 7 := of_decide_eq_true (Bool.and_eq_true_iff.1 hwf).2
    refine ⟨_, rfl, decodes_encV ?_⟩
    rintro w hm rfl rfl
    rw [decodeMajor_vpred hm, decodeVpred_vcmp hlt]
    rfl
  | vzfma g f fn =>
    cases hh
    have hlt : fn.toNat < 4 := of_decide_eq_true (Bool.and_eq_true_iff.1 hwf).2
    refine ⟨_, rfl, decodes_encV ?_⟩
    rintro w hm rfl rfl
    rw [decodeMajor_vzfma hm, decodeVzfma_vzfma hlt]
    rfl
  | pand | por | pxor | pandn | pwhile | pcount =>
    cases hh
    refine ⟨_, rfl, decodes_encV ?_⟩
    rintro w hm rfl hfn
    rw [decodeMajor_vpred hm, decodeVpred, hfn]
    rfl
  | vld | vst | vlds | vsts | vldb | vld2 | vst2 | vgather | vscatter =>
    cases hh
    refine ⟨_, rfl, decodes_encV ?_⟩
    rintro w hm rfl hfn
    rw [decodeMajor_vmem hm, decodeVmem, hfn]
    rfl
  | vbcast | vext | vins | vcvt | vperm | vredsum | vredmin | vredmax =>
    cases hh
    refine ⟨_, rfl, decodes_encV ?_⟩
    rintro w hm rfl hfn
    rw [decodeMajor_vmove hm, decodeVmove, hfn]
    rfl
  | vzget | vzput | vzpeek | vzpoll =>
    cases hh
    refine ⟨_, rfl, decodes_encV ?_⟩
    rintro w hm rfl hfn
    rw [decodeMajor_vstream hm, decodeVstream, hfn]
    rfl
  | tload g f =>
    cases hh
    have hfq : f.q = false := (Bool.not_eq_true' _).mp (Bool.and_eq_true_iff.1 hwf).2
    refine ⟨_, rfl, decodes_encTMem ?_⟩
    rintro w rfl hstore hq
    rw [decodeTmem, hstore, hq, hfq]
    rfl
  | tloadStream g f =>
    cases hh
    have hfq : f.q = true := (Bool.and_eq_true_iff.1 hwf).2
    refine ⟨_, rfl, decodes_encTMem ?_⟩
    rintro w rfl hstore hq
    rw [decodeTmem, hstore, hq, hfq]
    rfl
  | tstore =>
    cases hh
    refine ⟨_, rfl, decodes_encTMem ?_⟩
    rintro w rfl hstore -
    exact if_pos hstore
  | tmma | tcvt | tzero =>
    cases hh
    refine ⟨_, rfl, decodes_encTComp ?_⟩
    rintro w rfl hfn
    rw [decodeTcomp, hfn]
    rfl
  | tcfg | tstat | tstatC | tseed | tcbld | tcfgr =>
    cases hh
    refine ⟨_, rfl, decodes_encTCtl ?_⟩
    rintro w rfl hfn
    rw [decodeTctl, hfn]
    rfl
  | _ => cases hh

end

section
open BitVec (extractLsb'_append_eq_of_le extractLsb'_append_eq_of_add_le extractLsb'_eq_self getLsbD_append getLsbD_ofBool)
variable {h : Hart} {w : BitVec 16} {r : BitVec 5}

/-! ### The fields of the 16-bit formats -/

section
variable {op : BitVec 4} {a : BitVec 4} {rest : BitVec 7}

theorem fields_enc16 : (enc16 op a rest).getLsbD 15 = false ∧ (enc16 op a rest).extractLsb' 11 4 = op ∧
    cRd (enc16 op a rest) = a.setWidth 5 ∧ cImm7 (enc16 op a rest) = rest := by
  simp (disch := decide) only [cRd, cImm7, enc16, extractLsb'_append_eq_of_le, extractLsb'_append_eq_of_add_le, extractLsb'_eq_self,
    getLsbD_append, if_neg, BitVec.reduceGetLsb, Nat.reduceSub, -Nat.reduceAdd, and_self]

theorem fields_enc16_pair {b : BitVec 4} {f : BitVec 3} : cRs (enc16 op a (b ++ f)) = b.setWidth 5 ∧ cLow3 (enc16 op a (b ++ f)) = f := by
  simp (disch := decide) only [cRs, cLow3, enc16, extractLsb'_append_eq_of_le, extractLsb'_append_eq_of_add_le, extractLsb'_eq_self,
    Nat.reduceSub, -Nat.reduceAdd, and_self]

theorem fields_enc16_shk {q : Bool} {n : BitVec 6} : (enc16 op a (BitVec.ofBool q ++ n)).extractLsb' 0 6 = n ∧
    (enc16 op a (BitVec.ofBool q ++ n)).getLsbD 6 = q := by
  simp (disch := decide) only [enc16, extractLsb'_append_eq_of_add_le, extractLsb'_eq_self,
    getLsbD_append, getLsbD_ofBool, if_pos, if_neg, decide_true, Bool.true_and, Nat.reduceSub, -Nat.reduceAdd, and_self]

theorem fields_jal {imm : BitVec 11} : (0#1 ++ op ++ imm).getLsbD 15 = false ∧ (0#1 ++ op ++ imm).extractLsb' 11 4 = op ∧
    (0#1 ++ op ++ imm).extractLsb' 0 11 = imm := by
  simp (disch := decide) only [extractLsb'_append_eq_of_le, extractLsb'_append_eq_of_add_le, extractLsb'_eq_self,
    getLsbD_append, if_neg, BitVec.reduceGetLsb, Nat.reduceSub, -Nat.reduceAdd, and_self]

end

theorem low4_setWidth (hr : low r = true) : (low4 r).setWidth 5 = r := by
  have hlt : r.toNat < 16 := of_decide_eq_true hr
  apply BitVec.eq_of_toNat_eq
  simp only [low4, BitVec.toNat_setWidth]
  omega

theorem signExtend_setWidth_of_fits {n v : Nat} {imm : BitVec v} (hn : 0 < n) (hv : n ≤ v) (hf : fits n imm = true) :
    (imm.setWidth n).signExtend v = imm := by
  obtain ⟨hlo, hhi⟩ : -(2 : Int) ^ (n - 1) ≤ imm.toInt ∧ imm.toInt < (2 : Int) ^ (n - 1) := by simpa [fits] using hf
  have hpow : (2 : Int) ^ n = 2 * 2 ^ (n - 1) := by rw [← pow_succ', Nat.sub_add_cancel hn]
  apply BitVec.eq_of_toInt_eq
  rw [BitVec.toInt_signExtend_of_le hv, BitVec.toInt_setWidth, ← Int.bmod_bmod_of_dvd (Nat.pow_dvd_pow 2 hv), ← BitVec.toInt_eq_toNat_bmod]
  exact Int.bmod_eq_of_le_mul_two (by push_cast; omega) (by push_cast; omega)

/-- A scaled offset of `n` bits (Table 3.3). -/
theorem shiftLeft_setWidth_shiftRight {n k v : Nat} {imm : BitVec v} (hv : n + k ≤ v) (hlt : imm.toNat < 2 ^ (n + k)) (hk : imm.toNat % 2 ^ k = 0) :
    ((imm >>> k).setWidth n).setWidth v <<< k = imm := by
  have hpow : 2 ^ (n + k) = 2 ^ n * 2 ^ k := pow_add 2 n k
  have hle : 2 ^ n ≤ 2 ^ v := Nat.pow_le_pow_right (by decide) (by omega)
  have hq : imm.toNat / 2 ^ k < 2 ^ n := Nat.div_lt_of_lt_mul (by rwa [Nat.mul_comm, ← hpow])
  apply BitVec.eq_of_toNat_eq
  rw [BitVec.toNat_shiftLeft, BitVec.toNat_setWidth, BitVec.toNat_setWidth, BitVec.toNat_ushiftRight, Nat.shiftRight_eq_div_pow, Nat.shiftLeft_eq,
    Nat.mod_eq_of_lt hq, Nat.mod_eq_of_lt (hq.trans_le hle), Nat.div_mul_cancel (Nat.dvd_of_mod_eq_zero hk), Nat.mod_eq_of_lt imm.isLt]

/-- The immediate of C.SHK: SHLK below 64, SHRK from 4096. -/
theorem shk_imm {imm : BitVec 15} (hi : imm.toNat < 64 ∨ imm.toNat / 64 = 64) :
    (imm.setWidth 6).setWidth 15 ||| (if imm.getLsbD 12 then 0x1000 else 0) = imm := by
  have hbit : imm.getLsbD 12 = decide (imm.toNat / 2 ^ 12 % 2 = 1) := Nat.testBit_eq_decide_div_mod_eq ..
  have hlow : imm.toNat % 64 < 2 ^ 12 := by omega
  have hn : ((imm.setWidth 6).setWidth 15).toNat = imm.toNat % 64 := by
    simp only [BitVec.toNat_setWidth]
    omega
  apply BitVec.eq_of_toNat_eq
  rw [hbit, BitVec.toNat_or, hn]
  rcases hi with hi | hi
  · rw [decide_eq_false (by omega), if_neg Bool.false_ne_true]
    exact (Nat.or_zero _).trans (Nat.mod_eq_of_lt hi)
  · have hor : imm.toNat % 64 ||| 2 ^ 12 * 1 = 2 ^ 12 * 1 + imm.toNat % 64 := by rw [Nat.two_pow_add_eq_or_of_lt hlow, Nat.or_comm]
    rw [decide_eq_true (by omega), if_pos rfl]
    exact hor.trans (by omega)

/-! ### The 16-bit forms -/

/-- The halfword `c` is not the reserved zero, has bit 15 clear and stands for the instruction `i` (R58, R61, Table 3.7). -/
def Spells16 (h : Hart) (c : BitVec 16) (i : Instr) : Prop := c.getLsbD 15 = false ∧ c ≠ 0 ∧ decodeCompact h c = .instr i

theorem Spells16.decodeAt {c : BitVec 16} {i : Instr} (hs : Spells16 h c i) (hc : h.compact = true) (b : BitVec 16) : decodeAt h c b = .instr i := by
  obtain ⟨h15, hne, hdec⟩ := hs
  have hh : { h with compact := true } = h := by rw [← hc]
  have hno : ¬ (c = 0 ∨ c.getLsbD 15 = true) := by
    rw [h15]
    exact fun hor => hor.elim hne Bool.false_ne_true
  rw [Sys2Proof.decodeAt, isLong, h15, if_neg Bool.false_ne_true, decode16, if_neg hno, hh, hdec]

section
variable {op : BitVec 4} {rd rs : BitVec 5} {rest : BitVec 7} {f : BitVec 3} {i : Instr}

theorem spells_enc16 (hop : op ≠ 0) (hrd : low rd = true)
    (H : ∀ w, w.extractLsb' 11 4 = op → cRd w = rd → cImm7 w = rest → decodeCompact h w = .instr i) : Spells16 h (enc16 op (low4 rd) rest) i := by
  obtain ⟨h15, h11, hd, hrest⟩ := fields_enc16 (op := op) (a := low4 rd) (rest := rest)
  refine ⟨h15, ?_, H _ h11 (hd.trans (low4_setWidth hrd)) hrest⟩
  rintro h0
  exact hop (by rw [← h11, h0]; rfl)

theorem spells_enc16_pair (hop : op ≠ 0) (hrd : low rd = true) (hrs : low rs = true)
    (H : ∀ w, w.extractLsb' 11 4 = op → cRd w = rd → cRs w = rs → cLow3 w = f → decodeCompact h w = .instr i) :
    Spells16 h (enc16 op (low4 rd) (low4 rs ++ f)) i := by
  obtain ⟨hs, hf⟩ := fields_enc16_pair (op := op) (a := low4 rd) (b := low4 rs) (f := f)
  obtain ⟨h15, h11, hd, -⟩ := fields_enc16 (op := op) (a := low4 rd) (rest := low4 rs ++ f)
  refine ⟨h15, ?_, H _ h11 (hd.trans (low4_setWidth hrd)) (hs.trans (low4_setWidth hrs)) hf⟩
  rintro h0
  exact hop (by rw [← h11, h0]; rfl)

/-- C.ALU, whose op4 is 0: one of its registers or its fn3 is not. -/
theorem spells_alu (hrd : low rd = true) (hrs : low rs = true) (hne : ¬ (rd = 0 ∧ rs = 0 ∧ f = 0))
    (H : ∀ w, cRd w = rd → cRs w = rs → cLow3 w = f → decodeAlu h w = .instr i) : Spells16 h (enc16 0x0 (low4 rd) (low4 rs ++ f)) i := by
  obtain ⟨hs, hf⟩ := fields_enc16_pair (op := 0x0) (a := low4 rd) (b := low4 rs) (f := f)
  obtain ⟨h15, h11, hd, -⟩ := fields_enc16 (op := 0x0) (a := low4 rd) (rest := low4 rs ++ f)
  have hd := hd.trans (low4_setWidth hrd)
  have hs := hs.trans (low4_setWidth hrs)
  have halu : decodeCompact h (enc16 0x0 (low4 rd) (low4 rs ++ f)) = decodeAlu h (enc16 0x0 (low4 rd) (low4 rs ++ f)) := by
    rw [decodeCompact, h11]
    rfl
  refine ⟨h15, ?_, halu.trans (H _ hd hs hf)⟩
  rintro h0
  rw [h0] at hd hs hf
  exact hne ⟨hd.symm, hs.symm, hf.symm⟩

theorem spells_op {fn : BitVec 10} {rs1 rs2 : BitVec 5} (hwf : compactAlu fn rd rs1 rs2 = true) :
    Spells16 h (enc16 0x0 (low4 rd) (low4 rs2 ++ (if rs1 = rd then aluFn3 fn else 0#3))) (.op h fn rd rs1 rs2) := by
  simp only [compactAlu, Bool.and_eq_true, Bool.or_eq_true, beq_iff_eq, Bool.not_eq_true', List.contains_iff_mem] at hwf
  obtain ⟨⟨hrd, hrs⟩, hform⟩ := hwf
  by_cases heq : rs1 = rd
  · subst heq
    have hfn : fn.toNat ∈ [0, 1, 2, 3, 4, 6, 7] := by
      rcases hform with ⟨⟨rfl, -⟩, -⟩ | ⟨-, hfn⟩
      · simp
      · exact hfn
    have hv : fn = BitVec.ofNat 10 fn.toNat := by simp
    rw [if_pos rfl]
    generalize fn.toNat = n at hfn hv
    subst hv
    simp only [List.mem_cons, List.not_mem_nil, or_false] at hfn
    refine spells_alu hrd hrs (fun hz => ?_) ?_
    · rcases hfn with rfl | rfl | rfl | rfl | rfl | rfl | rfl <;> exact absurd hz.2.2 (by decide)
    · rintro w rfl rfl hf
      rw [decodeAlu, hf]
      rcases hfn with rfl | rfl | rfl | rfl | rfl | rfl | rfl <;> rfl
  · obtain ⟨⟨rfl, rfl⟩, hne⟩ := hform.resolve_right fun hr => heq hr.1
    rw [if_neg heq]
    refine spells_alu hrd hrs (fun hz => ?_) ?_
    · simp [hz] at hne
    · rintro w rfl rfl hf
      rw [decodeAlu, hf]
      rfl

theorem spells_addk {rs1 : BitVec 5} {imm : BitVec 15} (hwf : compactAddk rd rs1 imm = true) :
    Spells16 h (enc16 (if rs1 = rd then 0x1 else 0x2) (low4 rd) (imm.setWidth 7)) (.addk h rd rs1 imm) := by
  simp only [compactAddk, Bool.and_eq_true, Bool.or_eq_true, beq_iff_eq] at hwf
  obtain ⟨⟨hrd, hrs⟩, hfit⟩ := hwf
  have himm := signExtend_setWidth_of_fits (by decide) (by decide) hfit
  by_cases heq : rs1 = rd
  · subst heq
    rw [if_pos rfl]
    refine spells_enc16 (by decide) hrd ?_
    rintro w hop rfl hrest
    rw [decodeCompact, hop, ← himm, ← hrest]
    rfl
  · obtain rfl := hrs.resolve_left heq
    rw [if_neg heq]
    refine spells_enc16 (by decide) hrd ?_
    rintro w hop rfl hrest
    rw [decodeCompact, hop, ← himm, ← hrest]
    rfl

theorem spells_shk {rs1 : BitVec 5} {imm : BitVec 15} (hwf : compactShk rd rs1 imm = true) :
    Spells16 h (enc16 0x3 (low4 rd) (BitVec.ofBool (imm.getLsbD 12) ++ imm.setWidth 6)) (.shk h rd rs1 imm) := by
  simp only [compactShk, Bool.and_eq_true, Bool.or_eq_true, beq_iff_eq, decide_eq_true_eq] at hwf
  obtain ⟨⟨hrd, rfl⟩, hi⟩ := hwf
  obtain ⟨h15, h11, hd, -⟩ := fields_enc16 (op := 0x3) (a := low4 rs1) (rest := BitVec.ofBool (imm.getLsbD 12) ++ imm.setWidth 6)
  obtain ⟨hn, hq⟩ := fields_enc16_shk (op := 0x3) (a := low4 rs1) (q := imm.getLsbD 12) (n := imm.setWidth 6)
  generalize enc16 0x3 (low4 rs1) (BitVec.ofBool (imm.getLsbD 12) ++ imm.setWidth 6) = w at h15 h11 hd hn hq ⊢
  refine ⟨h15, ?_, ?_⟩
  · rintro rfl
    exact absurd h11 (by decide)
  · have himm := shk_imm hi
    rw [← hn, ← hq] at himm
    rw [decodeCompact, h11, hd, low4_setWidth hrd, ← himm]
    rfl

/-- A load or store of 8 or 4 bytes whose base is a low register, by its form's decoding. -/
theorem spells_mem {k : Nat} {imm : BitVec 15} (hop : op ≠ 0) (hrd : low rd = true) (hrs : low rs = true) (hk : 3 + k ≤ 15)
    (hlt : imm.toNat < 2 ^ (3 + k)) (halign : imm.toNat % 2 ^ k = 0)
    (H : ∀ w, w.extractLsb' 11 4 = op → cRd w = rd → cRs w = rs → (cLow3 w).setWidth 15 <<< k = imm → decodeCompact h w = .instr i) :
    Spells16 h (enc16 op (low4 rd) (low4 rs ++ (imm >>> k).setWidth 3)) i := by
  refine spells_enc16_pair hop hrd hrs fun w h11 hd hs hf => H w h11 hd hs ?_
  rw [hf]
  exact shiftLeft_setWidth_shiftRight hk hlt halign

/-- A load or store of 8 bytes from x30, by its form's decoding. -/
theorem spells_stack {imm : BitVec 15} (hop : op ≠ 0) (hrd : low rd = true) (hlt : imm.toNat < 1024) (halign : imm.toNat % 8 = 0)
    (H : ∀ w, w.extractLsb' 11 4 = op → cRd w = rd → (cImm7 w).setWidth 15 <<< 3 = imm → decodeCompact h w = .instr i) :
    Spells16 h (enc16 op (low4 rd) ((imm >>> 3).setWidth 7)) i := by
  refine spells_enc16 hop hrd fun w h11 hd hf => H w h11 hd ?_
  rw [hf]
  exact shiftLeft_setWidth_shiftRight (by decide) hlt halign

theorem compactMem_iff {bytes : Nat} {imm : BitVec 15} : compactMem bytes rd rs imm = true ↔ low rd = true ∧ imm.toNat % bytes = 0 ∧
    (low rs = true ∧ imm.toNat < 8 * bytes ∨ bytes = 8 ∧ rs = 30 ∧ imm.toNat < 1024) := by
  simp [compactMem, and_assoc]

/-- A load or store of 8 bytes, from a low register or from x30. -/
theorem spells_wide {stack : BitVec 4} {imm : BitVec 15} (hop : op ≠ 0) (hstack : stack ≠ 0) (hwf : compactMem 8 rd rs imm = true)
    (H : ∀ w, w.extractLsb' 11 4 = op → cRd w = rd → cRs w = rs → (cLow3 w).setWidth 15 <<< 3 = imm → decodeCompact h w = .instr i)
    (Hstack : ∀ w, rs = 30 → w.extractLsb' 11 4 = stack → cRd w = rd → (cImm7 w).setWidth 15 <<< 3 = imm → decodeCompact h w = .instr i) :
    Spells16 h (encMem op (some stack) 3 rd rs imm) i := by
  obtain ⟨hrd, halign, hform⟩ := compactMem_iff.1 hwf
  by_cases hbase : rs = 30
  · subst hbase
    obtain ⟨-, -, hlt⟩ := hform.resolve_left fun hl => absurd hl.1 (by decide)
    exact spells_stack hstack hrd hlt halign fun w => Hstack w rfl
  · obtain ⟨hrs, hlt⟩ := hform.resolve_right fun hr => hbase hr.2.1
    rw [encMem, if_neg hbase]
    exact spells_mem hop hrd hrs (by decide) hlt halign H

/-- A load or store of 4 bytes. -/
theorem spells_word {imm : BitVec 15} (hop : op ≠ 0) (hwf : compactMem 4 rd rs imm = true)
    (H : ∀ w, w.extractLsb' 11 4 = op → cRd w = rd → cRs w = rs → (cLow3 w).setWidth 15 <<< 2 = imm → decodeCompact h w = .instr i) :
    Spells16 h (encMem op none 2 rd rs imm) i := by
  obtain ⟨hrd, halign, hform⟩ := compactMem_iff.1 hwf
  obtain ⟨hrs, hlt⟩ := hform.resolve_right fun hr => absurd hr.1 (by decide)
  exact spells_mem hop hrd hrs (by decide) hlt halign H

theorem spells_branch {rs2 : BitVec 5} {imm : BitVec 15} (hop : op ≠ 0) (hwf : compactBranch rs rs2 imm = true)
    (H : ∀ w, rs2 = 0 → w.extractLsb' 11 4 = op → cRd w = rs → (cImm7 w).signExtend 15 = imm → decodeCompact h w = .instr i) :
    Spells16 h (enc16 op (low4 rs) (imm.setWidth 7)) i := by
  simp only [compactBranch, Bool.and_eq_true, beq_iff_eq] at hwf
  obtain ⟨⟨hrs, hzero⟩, hfit⟩ := hwf
  refine spells_enc16 hop hrs fun w h11 hd hf => H w hzero h11 hd ?_
  rw [hf]
  exact signExtend_setWidth_of_fits (by decide) (by decide) hfit

theorem spells_jal {imm : BitVec 20} (hwf : compactJal rd imm = true) :
    Spells16 h (0#1 ++ (if rd = 0 then 0xC#4 else 0xD#4) ++ imm.setWidth 11) (.jal h rd imm) := by
  simp only [compactJal, Bool.and_eq_true, Bool.or_eq_true, beq_iff_eq] at hwf
  obtain ⟨hrd, hfit⟩ := hwf
  have himm := signExtend_setWidth_of_fits (by decide) (by decide) hfit
  obtain ⟨h15, h11, hlow⟩ := fields_jal (op := if rd = 0 then 0xC#4 else 0xD#4) (imm := imm.setWidth 11)
  generalize 0#1 ++ (if rd = 0 then 0xC#4 else 0xD#4) ++ imm.setWidth 11 = w at h15 h11 hlow ⊢
  rw [← hlow] at himm
  have hop : (if rd = 0 then 0xC#4 else 0xD#4) ≠ 0 := by split <;> decide
  refine ⟨h15, fun h0 => hop (by rw [← h11, h0]; rfl), ?_⟩
  rw [decodeCompact, h11, ← himm]
  rcases hrd with rfl | rfl <;> rfl

theorem spells_jalr {rs1 : BitVec 5} {imm : BitVec 15} (hwf : compactJalr rd rs1 imm = true) :
    Spells16 h (if rs1 = 31 then enc16 0xE 0 2 else enc16 0xE 0 (low4 rs1 ++ (if rd = 0 then 0#3 else 1#3))) (.jalr h rd rs1 imm) := by
  simp only [compactJalr, Bool.and_eq_true, Bool.or_eq_true, beq_iff_eq] at hwf
  obtain ⟨rfl, hform⟩ := hwf
  by_cases hret : rs1 = 31
  · subst hret
    obtain ⟨rfl, -⟩ := hform.resolve_left fun hl => absurd hl.1 (by decide)
    exact ⟨rfl, by decide, rfl⟩
  · obtain ⟨hrs, hrd⟩ := hform.resolve_right fun hr => hret hr.2
    rw [if_neg hret]
    refine spells_enc16_pair (rd := 0) (by decide) rfl hrs ?_
    rintro w h11 hd rfl hf
    have hjmp : decodeCompact h w = decodeJmp h w := by
      rw [decodeCompact, h11]
      rfl
    rw [hjmp, decodeJmp, if_neg (not_not.2 hd), hf]
    rcases hrd with rfl | rfl <;> rfl

end

theorem form_of_hartOk {form : Bool} (hc : h.compact = true) (hwf : hartOk h form = true) : form = true := by
  simpa [hartOk, hc] using (Bool.and_eq_true_iff.1 hwf).2

theorem not_wideHart (hc : h.compact = true) : ¬ wideHart h = true := fun hwf => Bool.false_ne_true (form_of_hartOk hc hwf)

theorem encodeCompact_spells {i : Instr} (hh : i.hart? = some h) (hc : h.compact = true) (hwf : i.wf = true) :
    ∃ c, encodeCompact i = some c ∧ Spells16 h c i := by
  cases i with
  | op => cases hh; exact ⟨_, rfl, spells_op (form_of_hartOk hc hwf)⟩
  | addk => cases hh; exact ⟨_, rfl, spells_addk (form_of_hartOk hc hwf)⟩
  | shk => cases hh; exact ⟨_, rfl, spells_shk (form_of_hartOk hc hwf)⟩
  | jal => cases hh; exact ⟨_, rfl, spells_jal (form_of_hartOk hc hwf)⟩
  | jalr => cases hh; exact ⟨_, rfl, spells_jalr (form_of_hartOk hc hwf)⟩
  | ld | sd =>
    cases hh
    refine ⟨_, rfl, spells_wide (by decide) (by decide) (form_of_hartOk hc hwf) ?_ ?_⟩
    · rintro w h11 rfl rfl rfl
      rw [decodeCompact, h11]
      rfl
    · rintro w rfl h11 rfl rfl
      rw [decodeCompact, h11]
      rfl
  | lw | sw =>
    cases hh
    refine ⟨_, rfl, spells_word (by decide) (form_of_hartOk hc hwf) ?_⟩
    rintro w h11 rfl rfl rfl
    rw [decodeCompact, h11]
    rfl
  | beq | bne =>
    cases hh
    refine ⟨_, rfl, spells_branch (by decide) (form_of_hartOk hc hwf) ?_⟩
    rintro w rfl h11 rfl rfl
    rw [decodeCompact, h11]
    rfl
  | ebreak | wedgeL =>
    cases hh
    obtain ⟨hrd, hrs⟩ := Bool.and_eq_true_iff.1 (form_of_hartOk hc hwf)
    cases eq_of_beq hrd
    cases eq_of_beq hrs
    exact ⟨_, rfl, rfl, by decide, rfl⟩
  | op32 | muldiv | bits | loadx | storex | atomic | andk | ork | xork | cmpltk | cmpltuk | addk32 | lb | lh | lbu | lhu | lwu | sb | sh | blt | bge
    | bltu | bgeu | lih | pcaddh | srd | swr | srs | src | ecall | eret | wedgeB | wedgeD | wedgeS | cinc | cincB | cdec | cwait | cread | txb | txe
    | txa | portCreate | portFree | portPop | dispatch | hset | chanOpen | chanClose | send | tsend | sendM | sendEnd | tsendEnd | tput | tget
    | ttryput | tpoll | tsetr | trel | tinfo | tend | varith | vfma | pand | por | pxor | pandn | pwhile | pcount | vld | vst | vlds | vsts | vldb
    | vld2 | vst2 | vgather | vscatter | vbcast | vext | vins | vcvt | vperm | vredsum | vredmin | vredmax | vzget | vzput | vzpeek | vzpoll
    | tstore | tmma | tcvt | tzero | tcfg | tstat | tstatC | tseed | tcbld | tcfgr =>
    cases hh
    exact absurd hwf (not_wideHart hc)
  | vcmp | vzfma | tload | tloadStream =>
    cases hh
    exact absurd (Bool.and_eq_true_iff.1 hwf).1 (not_wideHart hc)
  | repI | repN =>
    cases hh
    exact absurd (Bool.and_eq_true_iff.1 (Bool.and_eq_true_iff.1 hwf).1).1 (not_wideHart hc)
  | _ => cases hh

end

/-- Settles O60: a 32-bit form by `decodeMajor_encode`, a 16-bit one by `encodeCompact_spells`. -/
theorem encodingsRoundTrip : Obligations.EncodingsRoundTrip := by
  intro i h hh hwf
  constructor
  · intro hc
    obtain ⟨w, henc, hlong, hdec⟩ := decodeMajor_encode hh hwf
    exact ⟨w, henc, hlong, (decodeAt_long hc hlong).trans hdec⟩
  · intro hc
    obtain ⟨c, henc, hs⟩ := encodeCompact_spells hh hc hwf
    exact ⟨c, henc, hs.1, hs.decodeAt hc⟩

end Sys2Proof
end

section
/-!
PROOFS. OP (R65, Table 3.5): the word operations as arithmetic, and how a ready thread's instruction that completes retires.
-/
namespace Sys2Proof.Machine

section
variable {w : Nat} (a b : BitVec w) (n : Nat)

theorem add_eq_ofNat : a + b = BitVec.ofNat w (a.toNat + b.toNat) := by simp [BitVec.ofNat_add]

theorem sub_eq_ofInt : a - b = BitVec.ofInt w (a.toNat - b.toNat) := by
  rw [Int.sub_eq_add_neg, BitVec.ofInt_add, BitVec.ofInt_neg, BitVec.sub_eq_add_neg]
  simp

theorem shiftLeft_eq_ofNat : a <<< n = BitVec.ofNat w (a.toNat * 2 ^ n) := by
  apply BitVec.eq_of_toNat_eq
  simp [Nat.shiftLeft_eq]

theorem ushiftRight_eq_ofNat : a >>> n = BitVec.ofNat w (a.toNat / 2 ^ n) := by
  apply BitVec.eq_of_toNat_eq
  rw [BitVec.toNat_ushiftRight, Nat.shiftRight_eq_div_pow, BitVec.toNat_ofNat, Nat.mod_eq_of_lt ((Nat.div_le_self ..).trans_lt a.isLt)]

theorem sshiftRight_eq_ofInt : a.sshiftRight n = BitVec.ofInt w (a.toInt / 2 ^ n) := by
  rw [← BitVec.ofInt_toInt (x := a.sshiftRight n), BitVec.toInt_sshiftRight, Int.shiftRight_eq_div_pow]
  norm_cast

theorem rotateRight_eq_ofNat (hn : n < w) : a.rotateRight n = BitVec.ofNat w (a.toNat / 2 ^ n + a.toNat % 2 ^ n * 2 ^ (w - n)) := by
  have hw : 2 ^ w = 2 ^ n * 2 ^ (w - n) := by rw [← pow_add, Nat.add_sub_cancel' hn.le]
  have hlow : a.toNat / 2 ^ n < 2 ^ (w - n) := Nat.div_lt_of_lt_mul (hw ▸ a.isLt)
  have hhigh : a.toNat % 2 ^ n < 2 ^ n := Nat.mod_lt _ (by positivity)
  have hfit : a.toNat / 2 ^ n + 2 ^ (w - n) * (a.toNat % 2 ^ n) < 2 ^ w := by
    calc a.toNat / 2 ^ n + 2 ^ (w - n) * (a.toNat % 2 ^ n) < 2 ^ (w - n) * (a.toNat % 2 ^ n + 1) := by rw [Nat.mul_add]; omega
      _ ≤ 2 ^ (w - n) * 2 ^ n := Nat.mul_le_mul_left _ hhigh
      _ = 2 ^ w := by rw [hw, Nat.mul_comm]
  apply BitVec.eq_of_toNat_eq
  rw [BitVec.toNat_rotateRight, Nat.mod_eq_of_lt hn, Nat.shiftRight_eq_div_pow, Nat.shiftLeft_eq, hw, Nat.mul_mod_mul_right,
    Nat.mul_comm _ (2 ^ (w - n)), Nat.or_comm, ← Nat.two_pow_add_eq_or_of_lt hlow, BitVec.toNat_ofNat, Nat.add_comm, Nat.mod_eq_of_lt hfit]

theorem truth_slt : truth (a.slt b) = if a.toInt < b.toInt then 1 else 0 := by simp [truth, BitVec.slt]

theorem truth_ult : truth (a.ult b) = if a.toNat < b.toNat then 1 else 0 := by simp [truth, BitVec.ult]

theorem ite_slt_eq_min : (if a.slt b then a else b) = BitVec.ofInt w (min a.toInt b.toInt) := by
  rw [BitVec.slt]
  rcases lt_or_ge a.toInt b.toInt with h | h
  · rw [if_pos (decide_eq_true h), min_eq_left h.le, BitVec.ofInt_toInt]
  · rw [if_neg (by simpa using h), min_eq_right h, BitVec.ofInt_toInt]

theorem ite_slt_eq_max : (if a.slt b then b else a) = BitVec.ofInt w (max a.toInt b.toInt) := by
  rw [BitVec.slt]
  rcases lt_or_ge a.toInt b.toInt with h | h
  · rw [if_pos (decide_eq_true h), max_eq_right h.le, BitVec.ofInt_toInt]
  · rw [if_neg (by simpa using h), max_eq_left h, BitVec.ofInt_toInt]

theorem ite_ult_eq_min : (if a.ult b then a else b) = BitVec.ofNat w (min a.toNat b.toNat) := by
  rw [BitVec.ult]
  rcases lt_or_ge a.toNat b.toNat with h | h
  · rw [if_pos (decide_eq_true h), min_eq_left h.le, BitVec.ofNat_toNat, BitVec.setWidth_eq]
  · rw [if_neg (by simpa using h), min_eq_right h, BitVec.ofNat_toNat, BitVec.setWidth_eq]

theorem ite_ult_eq_max : (if a.ult b then b else a) = BitVec.ofNat w (max a.toNat b.toNat) := by
  rw [BitVec.ult]
  rcases lt_or_ge a.toNat b.toNat with h | h
  · rw [if_pos (decide_eq_true h), max_eq_right h.le, BitVec.ofNat_toNat, BitVec.setWidth_eq]
  · rw [if_neg (by simpa using h), max_eq_left h, BitVec.ofNat_toNat, BitVec.setWidth_eq]

end

section
variable {h : Hart} {i : Instr} {regs : List (BitVec 5)} {s t : State}

/-- A ready thread whose instruction completes retires it (R58, R65). -/
theorem issue_done (hr : Ready h regs s) (hh : i.hart? = some h) (hf : Fetches i s) (engine : Nat) {body : State → Nat → Res}
    (hbody : body s h.key = .done t) (hjob : (thr t h.key).job = (thr s h.key).job) :
    issue h i engine regs body s = .next (retire t h.key h.len) := by
  have ⟨_, _, hnone, _, _⟩ := hr
  rw [issue_ready hr hh hf, hbody, applyRes, dropJob_none (hjob.trans hnone)]

@[simp] theorem job_wx (s : State) (k : Nat) (r : BitVec 5) (v : W64) : (thr (wx s k r v) k).job = (thr s k).job := by rw [thr_wx]

/-- A ready thread whose instruction writes one register writes it and retires. -/
theorem issue_writes {rd : BitVec 5} {v : W64} (hr : Ready h regs s) (hh : i.hart? = some h) (hf : Fetches i s) (engine : Nat) {body : State → Nat → Res}
    (hbody : body s h.key = .done (wx s h.key rd v)) : issue h i engine regs body s = .next (retire (wx s h.key rd v) h.key h.len) :=
  issue_done hr hh hf engine hbody (job_wx ..)

end

theorem exec_op {h : Hart} {fn : BitVec 10} {rd rs1 rs2 : BitVec 5} {s : State} {v : W64} (hr : Ready h [rd, rs1, rs2] s)
    (hv : opFn fn (rx s h.key rs1) (rx s h.key rs2) = some v) (hf : Fetches (.op h fn rd rs1 rs2) s) :
    exec (.op h fn rd rs1 rs2) s = .next (retire (wx s h.key rd v) h.key h.len) :=
  issue_writes hr rfl hf 0 (by rw [bodyOp, hv, writeOr])

theorem opResults : Claims.OpResults := by
  intro h rd rs1 rs2 s hr
  have hn : (rx s h.key rs2).toNat % 64 < 64 := Nat.mod_lt _ (by decide)
  refine ⟨?add, ?sub, ?and, ?or, ?xor, ?andn, ?shl, ?shr, ?sar, ?ror, ?slt, ?sltu, ?min, ?max, ?minu, ?maxu⟩
  case add => exact exec_op hr (congrArg some (add_eq_ofNat ..))
  case sub => exact exec_op hr (congrArg some (sub_eq_ofInt ..))
  case and | or | xor | andn => exact exec_op hr rfl
  case shl => exact exec_op hr (congrArg some (shiftLeft_eq_ofNat ..))
  case shr => exact exec_op hr (congrArg some (ushiftRight_eq_ofNat ..))
  case sar => exact exec_op hr (congrArg some (sshiftRight_eq_ofInt ..))
  case ror => exact exec_op hr (congrArg some (rotateRight_eq_ofNat _ _ hn))
  case slt => exact exec_op hr (congrArg some (truth_slt ..))
  case sltu => exact exec_op hr (congrArg some (truth_ult ..))
  case min => exact exec_op hr (congrArg some (ite_slt_eq_min ..))
  case max => exact exec_op hr (congrArg some (ite_slt_eq_max ..))
  case minu => exact exec_op hr (congrArg some (ite_ult_eq_min ..))
  case maxu => exact exec_op hr (congrArg some (ite_ult_eq_max ..))

end Sys2Proof.Machine
end

section
/-!
PROOFS. OP-32 and BITS (R62, R65, Table 3.5).
-/
namespace Sys2Proof.Machine

/-! ### OP-32 -/

section
variable (a b : W64) (n : Nat)

theorem simm_ofInt (v : Int) : simm (BitVec.ofInt 32 v) = BitVec.ofInt 64 (Int.bmod v (2 ^ 32)) := by
  rw [simm, BitVec.signExtend, BitVec.toInt_ofInt]

theorem lo32_eq_ofInt : lo32 a = BitVec.ofInt 32 a.toNat := by
  rw [BitVec.ofInt_natCast, BitVec.ofNat_toNat, lo32]

@[simp] theorem lo32_toNat : (lo32 a).toNat = a.toNat % 2 ^ 32 := BitVec.toNat_setWidth ..

@[simp] theorem lo32_toInt : (lo32 a).toInt = Int.bmod a.toNat (2 ^ 32) := BitVec.toInt_setWidth ..

theorem lo32_toNat_mod_32 : (lo32 b).toNat % 32 = b.toNat % 32 := by
  rw [lo32_toNat]
  omega

theorem lo32_add : lo32 a + lo32 b = BitVec.ofInt 32 (a.toNat + b.toNat) := by
  rw [BitVec.ofInt_add, ← lo32_eq_ofInt, ← lo32_eq_ofInt]

theorem lo32_sub : lo32 a - lo32 b = BitVec.ofInt 32 (a.toNat - b.toNat) := by
  rw [Int.sub_eq_add_neg, BitVec.ofInt_add, BitVec.ofInt_neg, ← lo32_eq_ofInt, ← lo32_eq_ofInt, BitVec.sub_eq_add_neg]

theorem lo32_shiftLeft : lo32 a <<< n = BitVec.ofInt 32 (a.toNat * 2 ^ n) := by
  rw [shiftLeft_eq_ofNat, BitVec.ofNat_mul, BitVec.ofNat_toNat, BitVec.setWidth_eq, lo32, ← BitVec.ofNat_toNat, ← BitVec.ofNat_mul]
  norm_cast

theorem lo32_ushiftRight : lo32 a >>> n = BitVec.ofInt 32 (a.toNat % 2 ^ 32 / 2 ^ n : Nat) := by
  rw [ushiftRight_eq_ofNat, lo32_toNat, BitVec.ofInt_natCast]

theorem lo32_sshiftRight : (lo32 a).sshiftRight n = BitVec.ofInt 32 (Int.bmod a.toNat (2 ^ 32) / 2 ^ n) := by
  rw [sshiftRight_eq_ofInt, lo32_toInt]

end

/-! ### BITS -/

section
variable (a : W64)

theorem toNat_ofNat_of_le_64 {n : Nat} (hn : n ≤ 64) : (BitVec.ofNat 64 n).toNat = n :=
  (BitVec.toNat_ofNat ..).trans (Nat.mod_eq_of_lt (by omega))

theorem toInt_simm_setWidth {n : Nat} (hn : n ≤ 64) : (simm (a.setWidth n)).toInt = Int.bmod a.toNat (2 ^ n) := by
  rw [simm, BitVec.toInt_signExtend_of_le hn, BitVec.toInt_setWidth]

theorem clz64_spec : clz64 a ≤ 64 ∧ a.toNat < 2 ^ (64 - clz64 a) ∧ (clz64 a < 64 → 2 ^ (63 - clz64 a) ≤ a.toNat) := by
  by_cases h0 : a = 0
  · subst h0
    decide
  · have hpos : a.toNat ≠ 0 := fun h => h0 (BitVec.eq_of_toNat_eq h)
    have hlog : a.toNat.log2 < 64 := (Nat.log2_lt hpos).2 a.isLt
    rw [clz64, if_neg h0]
    refine ⟨by omega, ?_, fun _ => ?_⟩
    · rw [show 64 - (63 - a.toNat.log2) = a.toNat.log2 + 1 by omega]
      exact Nat.lt_log2_self
    · rw [show 63 - (63 - a.toNat.log2) = a.toNat.log2 by omega]
      exact Nat.log2_self_le hpos

/-- A number and its two's complement share one 1, the lowest. -/
theorem and_two_pow_sub {k j m : Nat} (hodd : m % 2 = 1) (hlt : m < 2 ^ j) : (2 ^ k * m) &&& (2 ^ k * (2 ^ j - m)) = 2 ^ k := by
  obtain ⟨q, rfl⟩ : ∃ q, m = 2 * q + 1 := ⟨m / 2, by omega⟩
  have hone : (2 * q + 1) &&& (2 ^ j - (2 * q + 1)) = 1 := by
    apply Nat.eq_of_testBit_eq
    intro i
    rw [Nat.testBit_and, Nat.testBit_two_pow_sub_succ (by omega)]
    cases i with
    | zero =>
      have hj : 0 < j := Nat.pos_of_ne_zero fun h => by subst h; omega
      simp [Nat.testBit_zero, hj]
    | succ i =>
      have hq : (2 * q + 1) / 2 = q := by omega
      simpa [Nat.testBit_succ, hq] using fun h _ => h
  rw [Nat.mul_comm, Nat.mul_comm _ (2 ^ j - _), ← Nat.shiftLeft_eq, ← Nat.shiftLeft_eq, ← Nat.shiftLeft_and_distrib, hone, Nat.shiftLeft_eq, Nat.one_mul]

theorem ctz64_spec : ctz64 a ≤ 64 ∧ 2 ^ ctz64 a ∣ a.toNat ∧ (a = 0 → ctz64 a = 64) ∧ (a ≠ 0 → ¬ 2 ^ (ctz64 a + 1) ∣ a.toNat) := by
  by_cases h0 : a = 0
  · subst h0
    decide
  · have hpos : a.toNat ≠ 0 := fun h => h0 (BitVec.eq_of_toNat_eq h)
    obtain ⟨k, m, hodd, hm⟩ := Nat.exists_eq_two_pow_mul_odd hpos
    have hk : 2 ^ k ≤ a.toNat := hm ▸ Nat.le_mul_of_pos_right _ hodd.pos
    have hk64 : k < 64 := (Nat.pow_lt_pow_iff_right (by decide)).1 (hk.trans_lt a.isLt)
    have hpow : 2 ^ 64 = 2 ^ k * 2 ^ (64 - k) := by rw [← pow_add, Nat.add_sub_cancel' hk64.le]
    have hneg : (0 - a).toNat = 2 ^ k * (2 ^ (64 - k) - m) := by
      rw [show 0 - a = -a from BitVec.zero_sub a, BitVec.toNat_neg, Nat.mod_eq_of_lt (by omega), hm, hpow, Nat.mul_sub]
    have hlow : (a &&& (0 - a)).toNat = 2 ^ k := by
      rw [BitVec.toNat_and, hneg, hm]
      exact and_two_pow_sub (Nat.odd_iff.1 hodd) (Nat.lt_of_mul_lt_mul_left (a := 2 ^ k) (by rw [← hm, ← hpow]; exact a.isLt))
    rw [ctz64, if_neg h0, hlow, Nat.log2_two_pow]
    refine ⟨hk64.le, ⟨m, hm⟩, fun h => absurd h h0, fun _ hdvd => ?_⟩
    rw [hm, pow_succ, Nat.mul_dvd_mul_iff_left (by positivity)] at hdvd
    exact Nat.not_even_iff_odd.2 hodd (even_iff_two_dvd.2 hdvd)

theorem popCount_eq_length (n : Nat) : popCount a.toNat n = ((List.range n).filter fun i => a.getLsbD i).length := by
  induction n with
  | zero => rfl
  | succ n ih =>
    have hbit : bit a.toNat n = a.getLsbD n := by
      rw [BitVec.getLsbD, Nat.testBit_eq_decide_div_mod_eq, bit]
      exact beq_eq_decide ..
    rw [popCount, ih, hbit, List.range_succ, List.filter_append, List.length_append, Nat.add_comm]
    cases hb : a.getLsbD n <;> simp [b2n, hb]

/-- Byte `i` of the number that bytes spell. -/
theorem leNat_byte (l : List Byte) (i : Nat) : leNat l / 256 ^ i % 256 = (l.getD i 0).toNat := by
  induction l generalizing i with
  | nil => simp [leNat]
  | cons b t ih =>
    have hb := b.isLt
    cases i with
    | zero =>
      simp only [leNat, pow_zero, Nat.div_one, List.getD_cons_zero]
      omega
    | succ i =>
      rw [leNat, pow_succ', ← Nat.div_div_eq_div_mul, show (b.toNat + 256 * leNat t) / 256 = leNat t by omega, ih, List.getD_cons_succ]

theorem bswap64_spec {i : Nat} (hi : i < 8) : (bswap64 a).toNat / 256 ^ i % 256 = a.toNat / 256 ^ (7 - i) % 256 := by
  have hlt : leNat (leBytes 8 a.toNat).reverse < 2 ^ 64 := by
    refine (leNat_lt _).trans_le ?_
    simp
  rw [bswap64, BitVec.toNat_ofNat, Nat.mod_eq_of_lt hlt, leNat_byte, List.getD_reverse _ (by simpa using hi), leBytes_length, leBytes_getD _ (by omega)]
  simp [byteOf]

end

section
variable {h : Hart} {rd rs1 rs2 : BitVec 5} {fn : BitVec 10} {s : State}

theorem exec_op32 {v : Int} (hr : Ready h [rd, rs1, rs2] s)
    (hv : op32Fn fn (rx s h.key rs1) (rx s h.key rs2) = some (simm (BitVec.ofInt 32 v))) (hf : Fetches (.op32 h fn rd rs1 rs2) s) :
    exec (.op32 h fn rd rs1 rs2) s = .next (retire (wx s h.key rd (BitVec.ofInt 64 (Int.bmod v (2 ^ 32)))) h.key h.len) :=
  issue_writes hr rfl hf 0 (by rw [bodyOp32, hv, writeOr, simm_ofInt])

theorem exec_bits {v : W64} {p : W64 → Prop} (hr : Ready h [rd, rs1] s) (hv : bitsFn fn (rx s h.key rs1) = some v) (hp : p v)
    (hf : Fetches (.bits h fn rd rs1 0) s) : ∃ v, p v ∧ exec (.bits h fn rd rs1 0) s = .next (retire (wx s h.key rd v) h.key h.len) :=
  ⟨v, hp, issue_writes hr rfl hf 0 (by rw [bodyBits, if_neg (not_not.2 rfl), hv, writeOr])⟩

end

theorem op32AndBitsResults : Claims.Op32AndBitsResults := by
  intro h rd rs1 rs2 s hr
  have hr1 : Ready h [rd, rs1] s := ready_mono hr (by simp)
  have hn := lo32_toNat_mod_32 (rx s h.key rs2)
  refine ⟨?add, ?sub, ?shl, ?shr, ?sar, ?clz, ?ctz, ?popc, ?bswap, ?sext8, ?sext16, ?sext32, ?zext32⟩
  case add => exact exec_op32 hr (congrArg (some <| simm ·) (lo32_add ..))
  case sub => exact exec_op32 hr (congrArg (some <| simm ·) (lo32_sub ..))
  case shl => exact exec_op32 hr (congrArg (some <| simm ·) (hn ▸ lo32_shiftLeft ..))
  case shr => exact exec_op32 hr (congrArg (some <| simm ·) (hn ▸ lo32_ushiftRight ..))
  case sar => exact exec_op32 hr (congrArg (some <| simm ·) (hn ▸ lo32_sshiftRight ..))
  case clz =>
    have hc := clz64_spec (rx s h.key rs1)
    exact exec_bits hr1 rfl (by rwa [toNat_ofNat_of_le_64 hc.1])
  case ctz =>
    have hc := ctz64_spec (rx s h.key rs1)
    exact exec_bits hr1 rfl (by rwa [toNat_ofNat_of_le_64 hc.1])
  case popc =>
    have hc := popCount_eq_length (rx s h.key rs1) 64
    have hle : popCount (rx s h.key rs1).toNat 64 ≤ 64 := hc ▸ (List.length_filter_le ..).trans_eq (List.length_range ..)
    exact exec_bits hr1 rfl ((toNat_ofNat_of_le_64 hle).trans hc)
  case bswap => exact exec_bits hr1 rfl fun i hi => bswap64_spec _ hi
  case sext8 => exact exec_bits hr1 rfl (toInt_simm_setWidth _ (by decide))
  case sext16 => exact exec_bits hr1 rfl (toInt_simm_setWidth _ (by decide))
  case sext32 => exact exec_bits hr1 rfl (toInt_simm_setWidth _ (by decide))
  case zext32 => exact exec_bits hr1 rfl ((BitVec.toNat_setWidth_of_le (by decide)).trans (lo32_toNat _))

/-- Settles O2: each function's arithmetic by the lemmas above, its issue by `issue_writes`. -/
theorem opAndBitsResults : Obligations.OpAndBitsResults := ⟨opResults, op32AndBitsResults⟩

end Sys2Proof.Machine
end

section
/-!
PROOFS. Multiplication, division and remainder (R66, Table 3.6).
-/
namespace Sys2Proof.Machine

section
variable (a b : W64)

theorem extractHigh_ofInt (z : Int) : (BitVec.ofInt 128 z).extractLsb' 64 64 = BitVec.ofInt 64 (z / 2 ^ 64) := by
  apply BitVec.eq_of_toNat_eq
  rw [BitVec.extractLsb'_toNat, BitVec.toNat_ofInt, BitVec.toNat_ofInt, Nat.shiftRight_eq_div_pow]
  omega

theorem highHalf_ofInt (p q : Int) : highHalf (BitVec.ofInt 128 p) (BitVec.ofInt 128 q) = BitVec.ofInt 64 (p * q / 2 ^ 64) := by
  rw [highHalf, ← BitVec.ofInt_mul, extractHigh_ofInt]

theorem setWidth_eq_ofInt (n : Nat) : a.setWidth n = BitVec.ofInt n a.toNat := by
  rw [BitVec.ofInt_natCast, BitVec.ofNat_toNat]

theorem highHalf_setWidth : highHalf (a.setWidth 128) (b.setWidth 128) = BitVec.ofInt 64 (a.toNat * b.toNat / 2 ^ 64) := by
  rw [setWidth_eq_ofInt, setWidth_eq_ofInt, highHalf_ofInt]

theorem highHalf_signExtend_setWidth : highHalf (a.signExtend 128) (b.setWidth 128) = BitVec.ofInt 64 (a.toInt * b.toNat / 2 ^ 64) := by
  rw [setWidth_eq_ofInt, BitVec.signExtend, highHalf_ofInt]

theorem lo32_mul : lo32 a * lo32 b = BitVec.ofInt 32 (Int.bmod a.toNat (2 ^ 32) * Int.bmod b.toNat (2 ^ 32)) := by
  rw [BitVec.ofInt_mul, ← lo32_toInt, ← lo32_toInt, BitVec.ofInt_toInt, BitVec.ofInt_toInt]

theorem mul_eq_ofInt : a * b = BitVec.ofInt 64 (a.toNat * b.toNat) := by
  rw [BitVec.ofInt_mul, ← setWidth_eq_ofInt, ← setWidth_eq_ofInt, BitVec.setWidth_eq, BitVec.setWidth_eq]

end

section
variable {w : Nat} (x y : BitVec w)

/-- A quotient truncates toward zero (R66), and a division by zero gives 0. -/
theorem sdiv_eq_ofInt : x.sdiv y = BitVec.ofInt w (x.toInt.tdiv y.toInt) := by
  apply BitVec.eq_of_toInt_eq
  rw [BitVec.toInt_sdiv, BitVec.toInt_ofInt]

/-- A remainder takes the sign of the dividend (R66), and a division by zero leaves the dividend. -/
theorem srem_eq_ofInt : x.srem y = BitVec.ofInt w (x.toInt.tmod y.toInt) := by
  rw [← BitVec.toInt_srem, BitVec.ofInt_toInt]

theorem udiv_eq_ofInt : (if y = 0 then 0 else x / y) = BitVec.ofInt w (x.toNat / y.toNat) := by
  rw [← Int.natCast_ediv, BitVec.ofInt_natCast, ← BitVec.toNat_udiv, BitVec.ofNat_toNat, BitVec.setWidth_eq, ite_eq_right_iff]
  rintro rfl
  exact BitVec.udiv_zero.symm

theorem umod_eq_ofInt : (if y = 0 then x else x % y) = BitVec.ofInt w (x.toNat % y.toNat) := by
  rw [← Int.natCast_emod, BitVec.ofInt_natCast, ← BitVec.toNat_umod, BitVec.ofNat_toNat, BitVec.setWidth_eq, ite_eq_right_iff]
  rintro rfl
  exact BitVec.umod_zero.symm

end

section
variable {h : Hart} {rd rs1 rs2 : BitVec 5} {fn : BitVec 10} {s : State}

theorem exec_muldiv {r : W64} {v : Int} (hr : Ready h [rd, rs1, rs2] s) (hfn : muldivFn fn (rx s h.key rs1) (rx s h.key rs2) = some r)
    (hv : r = BitVec.ofInt 64 v) (hf : Fetches (.muldiv h fn rd rs1 rs2) s) :
    exec (.muldiv h fn rd rs1 rs2) s = .next (retire (wx s h.key rd (BitVec.ofInt 64 v)) h.key h.len) :=
  issue_writes hr rfl hf 0 (by rw [bodyMuldiv, hfn, hv, writeOr])

end

/-- Settles O3: each function is the integer operation of Table 3.6, cut to the width of the result. -/
theorem muldivResults : Obligations.MuldivResults := by
  intro h rd rs1 rs2 s hr k a b x y ux uy
  have issues {fn : BitVec 10} {r : W64} {v v' : Int} (hfn : muldivFn fn a b = some r) (hr' : r = BitVec.ofInt 64 v') (hv : v = v') :=
    exec_muldiv (v := v) hr hfn (hv ▸ hr')
  have hx : (lo32 a).toInt = x := lo32_toInt a
  have hy : (lo32 b).toInt = y := lo32_toInt b
  have hux : (lo32 a).toNat = ux := lo32_toNat a
  have huy : (lo32 b).toNat = uy := lo32_toNat b
  have hzero : (ux : Int).bmod (2 ^ 32) = x := by rw [← hux, ← hx, BitVec.toInt_eq_toNat_bmod]
  have wide {z : BitVec 32} {v : Int} (hz : z = BitVec.ofInt 32 v) : simm z = BitVec.ofInt 64 (Int.bmod v (2 ^ 32)) := (congrArg simm hz).trans (simm_ofInt v)
  clear_value a b x y ux uy
  refine ⟨?mul, ?mulh, ?mulhu, ?mulhsu, ?div, ?divu, ?rem, ?remu, ?mul32, ?div32, ?divu32, ?rem32, ?remu32⟩
  case mul => exact issues rfl (mul_eq_ofInt a b) rfl
  case mulh => exact issues rfl (highHalf_ofInt ..) rfl
  case mulhu => exact issues rfl (highHalf_setWidth a b) rfl
  case mulhsu => exact issues rfl (highHalf_signExtend_setWidth a b) rfl
  case div => exact issues rfl (sdiv_eq_ofInt a b) (ite_eq_right_iff.2 fun hb => by simp [hb])
  case divu => exact issues rfl (udiv_eq_ofInt a b) (ite_eq_right_iff.2 fun hb => by simp [hb])
  case rem => exact issues rfl (srem_eq_ofInt a b) (ite_eq_right_iff.2 fun hb => by simp [hb])
  case remu => exact issues rfl (umod_eq_ofInt a b) (ite_eq_right_iff.2 fun hb => by simp [hb])
  case mul32 => exact issues rfl (wide (lo32_mul a b)) (by simp [← hx, ← hy])
  case div32 => exact issues rfl (wide (sdiv_eq_ofInt ..)) (by rw [hx, hy]; exact ite_eq_right_iff.2 fun hb => by simp [hb])
  case divu32 => exact issues rfl (wide (udiv_eq_ofInt ..)) (by rw [hux, huy]; exact ite_eq_right_iff.2 fun hb => by simp [hb])
  case rem32 =>
    refine issues rfl rfl ?_
    rw [BitVec.toInt_srem, hx, hy]
    exact ite_eq_right_iff.2 fun hb => by simp [hb]
  case remu32 =>
    refine issues rfl (wide (umod_eq_ofInt ..)) ?_
    rw [hux, huy]
    exact ite_eq_right_iff.2 fun hb => by rw [hb, Int.natCast_zero, Int.emod_zero, hzero]

end Sys2Proof.Machine
end

section
/-!
PROOFS. The immediate operations (R67).
-/
namespace Sys2Proof.Machine

section
variable {n : Nat} (imm : BitVec n) (a : W64)

theorem simm_eq_ofInt : simm imm = BitVec.ofInt 64 imm.toInt := rfl

theorem add_simm : a + simm imm = BitVec.ofInt 64 (a.toInt + imm.toInt) := by
  rw [BitVec.ofInt_add, BitVec.ofInt_toInt, simm_eq_ofInt]

theorem simm_shiftLeft (j : Nat) : simm imm <<< j = BitVec.ofInt 64 (imm.toInt * 2 ^ j) := by
  rw [shiftLeft_eq_ofNat, BitVec.ofNat_mul, BitVec.ofNat_toNat, BitVec.setWidth_eq, simm_eq_ofInt, BitVec.ofInt_mul]
  norm_cast

theorem add_simm_shiftLeft (j : Nat) : a + simm imm <<< j = BitVec.ofInt 64 (a.toNat + imm.toInt * 2 ^ j) := by
  rw [simm_shiftLeft, BitVec.ofInt_add, BitVec.ofInt_natCast, BitVec.ofNat_toNat, BitVec.setWidth_eq]

theorem lo32_add_simm : lo32 a + lo32 (simm imm) = BitVec.ofInt 32 (a.toNat + imm.toInt) := by
  have hlow : lo32 (simm imm) = BitVec.ofInt 32 imm.toInt := by
    apply BitVec.eq_of_toNat_eq
    rw [lo32_toNat, simm_eq_ofInt, BitVec.toNat_ofInt, BitVec.toNat_ofInt]
    omega
  rw [BitVec.ofInt_add, ← lo32_eq_ofInt, hlow]

variable (hn : n ≤ 64)
include hn

theorem zimm_toNat : (zimm imm).toNat = imm.toNat := BitVec.toNat_setWidth_of_le hn

theorem toInt_simm : (simm imm).toInt = imm.toInt := BitVec.toInt_signExtend_of_le hn

theorem and_zimm : a &&& zimm imm = BitVec.ofNat 64 (a.toNat &&& imm.toNat) := by
  apply BitVec.eq_of_toNat_eq
  rw [← zimm_toNat imm hn, ← BitVec.toNat_and, BitVec.ofNat_toNat, BitVec.setWidth_eq]

theorem or_zimm : a ||| zimm imm = BitVec.ofNat 64 (a.toNat ||| imm.toNat) := by
  rw [← zimm_toNat imm hn, ← BitVec.toNat_or, BitVec.ofNat_toNat, BitVec.setWidth_eq]

theorem xor_zimm : a ^^^ zimm imm = BitVec.ofNat 64 (a.toNat ^^^ imm.toNat) := by
  rw [← zimm_toNat imm hn, ← BitVec.toNat_xor, BitVec.ofNat_toNat, BitVec.setWidth_eq]

end

/-! ### SHK -/

/-- The shift of a function of SHK by `n` bits. -/
def shift (n : Nat) (a : W64) : Nat → Option W64
  | 0 => some (a <<< n)
  | 1 => some (a >>> n)
  | 2 => some (a.sshiftRight n)
  | 3 => some (a.rotateRight n)
  | 4 => some (simm (lo32 a <<< n))
  | 5 => some (simm (lo32 a >>> n))
  | 6 => some (simm ((lo32 a).sshiftRight n))
  | _ => none

section
variable {imm : BitVec 15} {a : W64} {f : Nat}

theorem shkFn_eq_shift (hf : imm.toNat = f * 4096 + imm.toNat % 64) (hfit : f < 4 ∨ imm.toNat % 64 < 32) :
    shkFn imm a = shift (imm.toNat % 64) a f := by
  have hzero : imm.toNat / 64 % 64 = 0 := by omega
  have hfn : imm.toNat / 4096 = f := by omega
  rw [shkFn, if_neg (not_not.2 hzero), if_neg (by omega), hfn]
  rfl

theorem shkFn_reserved (hr : imm.toNat / 64 % 64 ≠ 0 ∨ imm.toNat / 4096 = 7 ∨ (4 ≤ imm.toNat / 4096 ∧ 32 ≤ imm.toNat % 64)) :
    shkFn imm a = none := by
  rw [shkFn]
  split_ifs with hzero hwide
  · rfl
  · rfl
  · have hfn : imm.toNat / 4096 = 7 := by omega
    rw [hfn]
    rfl

end

/-- Settles O4: each operation's arithmetic by the lemmas above, its issue by `issue_writes`, a reserved SHK by `issue_illegal`. -/
theorem immediateResults : Obligations.ImmediateResults := by
  intro h rd rs1 imm imm20 s hr k a x n gives shk
  have one : Ready h [rd] s := ready_mono hr (by simp)
  have hn : n < 64 := Nat.mod_lt _ (by decide)
  have issues {i : Instr} {body : State → Nat → Res} {v : W64} {v' : Int} {regs : List (BitVec 5)} (hr : Ready h regs s) (hh : i.hart? = some h)
      (hbody : body s k = .done (wx s k rd v)) (hv : v = BitVec.ofInt 64 v') (hf : Fetches i s) :
      issue h i 0 regs body s = .next (retire (wx s k rd (BitVec.ofInt 64 v')) k h.len) := issue_writes hr hh hf 0 (hv ▸ hbody)
  have wide {z : BitVec 32} {v : Int} (hz : z = BitVec.ofInt 32 v) : simm z = BitVec.ofInt 64 (Int.bmod v (2 ^ 32)) :=
    (congrArg simm hz).trans (simm_ofInt v)
  have shifts {f : Nat} {v : W64} {v' : Int} (hv : shift n a f = some v) (hv' : v = BitVec.ofInt 64 v') (hfit : f < 4 ∨ n < 32) : shk f v' :=
    fun hf hfetch => issues hr rfl (congrArg (writeOr s k rd) ((shkFn_eq_shift hf hfit).trans hv)) hv' hfetch
  refine ⟨?addk, ?andk, ?ork, ?xork, ?cmpltk, ?cmpltuk, ?addk32, ?lih, ?pcaddh, ?shl, ?shr, ?sar, ?ror, fun hn32 => ⟨?shl32, ?shr32, ?sar32⟩, ?reserved⟩
  case addk => exact issues hr rfl rfl (add_simm imm a)
  case andk => exact issues hr rfl rfl (and_zimm imm a (by decide))
  case ork => exact issues hr rfl rfl (or_zimm imm a (by decide))
  case xork => exact issues hr rfl rfl (xor_zimm imm a (by decide))
  case cmpltk => exact issues hr rfl rfl (by rw [truth_slt, toInt_simm imm (by decide)]; split <;> rfl)
  case cmpltuk => exact issues hr rfl rfl (by rw [truth_ult, zimm_toNat imm (by decide)]; split <;> rfl)
  case addk32 => exact issues hr rfl rfl (wide (lo32_add_simm imm a))
  case lih => exact issues one rfl rfl (simm_shiftLeft imm20 16)
  case pcaddh => exact issues one rfl rfl (add_simm_shiftLeft imm20 _ 16)
  case shl => exact shifts rfl (shiftLeft_eq_ofNat a n) (by simp)
  case shr => exact shifts rfl (ushiftRight_eq_ofNat a n) (by simp)
  case sar => exact shifts rfl (sshiftRight_eq_ofInt a n) (by simp)
  case ror => exact shifts rfl (rotateRight_eq_ofNat a n hn) (by simp)
  case shl32 => exact shifts rfl (wide (lo32_shiftLeft a n)) (.inr hn32)
  case shr32 => exact shifts rfl (wide (lo32_ushiftRight a n)) (.inr hn32)
  case sar32 =>
    refine shifts rfl (v := simm ((lo32 a).sshiftRight n)) ?_ (.inr hn32)
    rw [simm_eq_ofInt, BitVec.toInt_sshiftRight, lo32_toInt, Int.shiftRight_eq_div_pow]
    norm_cast
  case reserved => exact fun hres hf => issue_illegal hr rfl hf 0 (congrArg (writeOr s k rd) (shkFn_reserved hres))

end Sys2Proof.Machine
end

section
/-!
PROOFS. Branches and jumps (R59, R70).
-/
namespace Sys2Proof.Machine

section
variable {h : Hart} {i : Instr} {regs : List (BitVec 5)} {s t : State}

/-- A ready thread whose instruction jumps goes on at its target (R70). -/
theorem issue_jumps {pc : W64} (hr : Ready h regs s) (hh : i.hart? = some h) (hf : Fetches i s) (engine : Nat) {body : State → Nat → Res}
    (hbody : body s h.key = .jump t pc) (hjob : (thr t h.key).job = (thr s h.key).job) :
    issue h i engine regs body s = .next (countInstret (setPc t h.key pc) h.key 1) := by
  have ⟨_, _, hnone, _, _⟩ := hr
  rw [issue_ready hr hh hf, hbody, applyRes, dropJob_none (hjob.trans hnone)]

/-- A ready thread whose instruction's own meaning is an exception takes it at its PC (R59). -/
theorem issue_traps {e : Exn} (hr : Ready h regs s) (hh : i.hart? = some h) (hf : Fetches i s) (engine : Nat) {body : State → Nat → Res}
    (hbody : body s h.key = .trap s e) : issue h i engine regs body s = .next (faultAt s h.key e (thr s h.key).pc) := by
  have ⟨_, _, hnone, _, _⟩ := hr
  rw [issue_ready hr hh hf, hbody, applyRes, hnone]
  rfl

/-- A branch whose condition says `c` is taken exactly where `c` holds. -/
theorem issue_branch {cond : W64 → W64 → Bool} {rs1 rs2 : BitVec 5} {imm : BitVec 15} {c : Prop} (hr : Ready h regs s) (hh : i.hart? = some h)
    (hc : cond (rx s h.key rs1) (rx s h.key rs2) = true ↔ c) (hf : Fetches i s) :
    (c → issue h i 0 regs (branch cond rs1 rs2 imm) s =
      .next (countInstret (setPc s h.key ((thr s h.key).pc + BitVec.ofInt 64 (imm.toInt * 2))) h.key 1)) ∧
    (¬ c → issue h i 0 regs (branch cond rs1 rs2 imm) s = .next (retire s h.key h.len)) := by
  refine ⟨fun hyes => issue_jumps hr hh hf 0 ?_ rfl, fun hno => issue_done hr hh hf 0 ?_ rfl⟩
  · rw [branch, if_pos (hc.2 hyes), simm_shiftLeft, pow_one]
  · rw [branch, if_neg (fun h => hno (hc.1 h))]

end

theorem link_eq (pc : W64) (h : Hart) : pc + (if h.compact then 2 else 4) = pc + BitVec.ofNat 64 h.len := by
  rw [Hart.len]
  split <;> rfl

theorem bit_zero (n : Nat) : bit n 0 = true ↔ n % 2 = 1 := by simp [bit]

/-- Settles O5: a branch by `issue_branch`, a jump by `issue_jumps`, an odd target by `issue_traps`. -/
theorem branchesAndJumps : Obligations.BranchesAndJumps := by
  intro h rd rs1 rs2 imm imm20 s hr k a b pc link target takes
  have two : Ready h [rs1, rs2] s := ready_mono hr (by simp)
  refine ⟨?beq, ?bne, ?blt, ?bge, ?bltu, ?bgeu, ?jal, fun heven => ?jalr, fun hodd => ?odd⟩
  case beq => exact issue_branch two rfl beq_iff_eq
  case bne => exact issue_branch two rfl bne_iff_ne
  case blt => exact issue_branch two rfl BitVec.slt_iff_toInt_lt
  case bge => exact issue_branch two rfl (by simp [BitVec.slt, a, b, k])
  case bltu => exact issue_branch two rfl BitVec.ult_iff_toNat_lt
  case bgeu => exact issue_branch two rfl (by simp [BitVec.ult, a, b, k])
  case jal =>
    intro hf
    refine issue_jumps (ready_mono hr (by simp)) rfl hf 0 ?_ (job_wx ..)
    rw [bodyJal, link_eq, simm_shiftLeft, pow_one]
  case jalr =>
    intro hf
    refine issue_jumps (ready_mono hr (by simp)) rfl hf 0 ?_ (job_wx ..)
    rw [bodyJalr, link_eq]
    exact if_neg fun hb => by rw [bit_zero] at hb; exact absurd (heven.symm.trans hb) (by decide)
  case odd =>
    intro hf
    exact issue_traps (ready_mono hr (by simp)) rfl hf 0 (if_pos ((bit_zero _).2 hodd))

end Sys2Proof.Machine
end

section
/-!
PROOFS. What the register-only scalar instructions leave unchanged (R60, R65 to R67, R70).
-/
namespace Sys2Proof.Machine

/-! ### Frames compose -/

section
variable {k : Nat} {dests : List (BitVec 5)} {s t u : State}

theorem sameRegs_trans (hst : SameRegs k dests s t) (htu : SameRegs k dests t u) : SameRegs k dests s u := by
  obtain ⟨x, v, p, sys, run, tx, tiles, chans, handles, staged, wait⟩ := hst
  obtain ⟨x', v', p', sys', run', tx', tiles', chans', handles', staged', wait'⟩ := htu
  exact ⟨fun r hr => (x' r hr).trans (x r hr), fun r => (v' r).trans (v r), fun r => (p' r).trans (p r), sys'.trans sys, run'.trans run,
    tx'.trans tx, tiles'.trans tiles, chans'.trans chans, handles'.trans handles, staged'.trans staged, wait'.trans wait⟩

theorem sameRegs_mono {more : List (BitVec 5)} (hsub : ∀ r ∈ dests, r ∈ more) (hst : SameRegs k dests s t) : SameRegs k more s t :=
  ⟨fun r hr => hst.1 r fun hd => hr (hsub r hd), hst.2⟩

theorem sameOthers_trans (hst : SameOthers k s t) (htu : SameOthers k t u) : SameOthers k s u :=
  fun j hj => (htu j hj).trans (hst j hj)

theorem sameUnits_trans (hst : SameUnits s t) (htu : SameUnits t u) : SameUnits s u := by
  simp only [SameUnits] at *
  simp only [htu, hst, and_self]

end

/-! ### A register write, and the step to the next instruction -/

section
variable (s : State) (k : Nat)

theorem sameRegs_wx (r : BitVec 5) (v : W64) : SameRegs k [r] s (wx s k r v) := by
  refine ⟨fun q hq => ?_, fun _ => ?_, fun _ => ?_, ?_⟩
  · have hne : q ≠ r := by simpa using hq
    rw [rx_wx, if_neg hne]
    split
    · next hzero => rw [hzero, rx_zero]
    · rfl
  · rw [rv, thr_wx, rv]
  · rw [rp, thr_wx, rp]
  · simp only [thr_wx, and_self]

theorem sameOthers_wx (r : BitVec 5) (v : W64) : SameOthers k s (wx s k r v) := fun j hj => by
  rw [wx]
  split
  · rfl
  · rw [thr_modThr_ne s _ hj]

theorem sameMemory_wx (r : BitVec 5) (v : W64) : SameMemory s (wx s k r v) := sameMemory_of_eq (by simp) (by simp) (by simp) (by simp) (by simp)

theorem sameUnits_wx (r : BitVec 5) (v : W64) : SameUnits s (wx s k r v) := by simp [SameUnits]

theorem sameMemory_countInstret (n : Nat) : SameMemory s (countInstret s k n) := by
  refine ⟨fun a => hbmByte_congr (countInstret_hbm ..) (countInstret_dev ..) a, fun c o => ?_, fun a => by rw [countInstret_hostMem]⟩
  rw [storeByte, countInstret_core, countInstret_ls, storeByte]

/-- The thread goes on at `pc`, its instruction counted. -/
def goesOn (s : State) (k : Nat) (pc : W64) : State := countInstret (setPc s k pc) k 1

theorem retire_eq_goesOn (len : Nat) : retire s k len = goesOn s k ((thr s k).pc + BitVec.ofNat 64 len) := rfl

variable (pc : W64)

theorem thr_goesOn : thr (goesOn s k pc) k = { thr s k with pc := pc, sys := { (thr s k).sys with instret := (thr s k).sys.instret + 1 } } := by
  rw [goesOn, countInstret_thr_self]
  simp [setPc]

theorem thr_goesOn_ne {j : Nat} (hj : j ≠ k) : thr (goesOn s k pc) j = thr s j := by
  rw [goesOn, countInstret_thr_ne _ _ hj, setPc, thr_modThr_ne s _ hj]

theorem sameRegs_goesOn : SameRegs k [] s (goesOn s k pc) := by
  refine ⟨fun _ _ => ?_, fun _ => ?_, fun _ => ?_, ?_⟩
  · rw [rx, thr_goesOn, rx]
  · rw [rv, thr_goesOn, rv]
  · rw [rp, thr_goesOn, rp]
  · simp only [thr_goesOn, and_self]

theorem sameOthers_goesOn : SameOthers k s (goesOn s k pc) := fun _ hj => by rw [thr_goesOn_ne s k pc hj]

theorem sameMemory_goesOn : SameMemory s (goesOn s k pc) :=
  sameMemory_trans (sameMemory_of_eq rfl rfl rfl rfl rfl) (sameMemory_countInstret (setPc s k pc) k 1)

theorem sameUnits_goesOn : SameUnits s (goesOn s k pc) := by simp [SameUnits, goesOn]

/-- Everything but the x registers of `dests`, the PC and INSTRET of thread `k` is in `t` as in `s`. -/
def Frame (k : Nat) (dests : List (BitVec 5)) (s t : State) : Prop := SameRegs k dests s t ∧ SameOthers k s t ∧ SameMemory s t ∧ SameUnits s t

theorem frame_goesOn : Frame k [] s (goesOn s k pc) :=
  ⟨sameRegs_goesOn s k pc, sameOthers_goesOn s k pc, sameMemory_goesOn s k pc, sameUnits_goesOn s k pc⟩

theorem frame_goesOn_wx (r : BitVec 5) (v : W64) : Frame k [r] s (goesOn (wx s k r v) k pc) :=
  ⟨sameRegs_trans (sameRegs_wx s k r v) (sameRegs_mono (by simp) (sameRegs_goesOn ..)), sameOthers_trans (sameOthers_wx s k r v) (sameOthers_goesOn _ k pc),
    sameMemory_trans (sameMemory_wx s k r v) (sameMemory_goesOn ..), sameUnits_trans (sameUnits_wx s k r v) (sameUnits_goesOn ..)⟩

end

/-! ### Each format -/

section
variable {h : Hart} {i : Instr} {regs : List (BitVec 5)} {rd : BitVec 5} {v : W64} {s t : State} {engine : Nat} {body : State → Nat → Res}

theorem frame_of_writes (hr : Ready h regs s) (hh : i.hart? = some h) (hbody : body s h.key = .done (wx s h.key rd v)) (hf : Fetches i s)
    (ht : issue h i engine regs body s = .next t) : Frame h.key [rd] s t := by
  rw [issue_writes hr hh hf engine hbody] at ht
  cases ht
  exact frame_goesOn_wx ..

theorem frame_of_jumps {pc : W64} (hr : Ready h regs s) (hh : i.hart? = some h) (hbody : body s h.key = .jump (wx s h.key rd v) pc)
    (hf : Fetches i s) (ht : issue h i engine regs body s = .next t) : Frame h.key [rd] s t := by
  rw [issue_jumps hr hh hf engine hbody (job_wx ..)] at ht
  cases ht
  exact frame_goesOn_wx ..

theorem frame_of_branch {cond : W64 → W64 → Bool} {rs1 rs2 : BitVec 5} {imm : BitVec 15} (hr : Ready h regs s) (hh : i.hart? = some h)
    (hf : Fetches i s) (ht : issue h i 0 regs (branch cond rs1 rs2 imm) s = .next t) : Frame h.key [] s t := by
  obtain ⟨htaken, hnot⟩ := issue_branch (imm := imm) hr hh (Iff.rfl (a := cond (rx s h.key rs1) (rx s h.key rs2) = true)) hf
  by_cases hc : cond (rx s h.key rs1) (rx s h.key rs2) = true
  · cases (htaken hc).symm.trans ht
    exact frame_goesOn ..
  · cases (hnot hc).symm.trans ht
    exact frame_goesOn ..

end

/-! ### Functions that are not reserved have a result -/

section
variable {fn : BitVec 10} (a b : W64)

theorem opFn_some (hfn : fn.toNat < 16) : ∃ v, opFn fn a b = some v := by
  rw [opFn]
  interval_cases fn.toNat <;> exact ⟨_, rfl⟩

theorem op32Fn_some (hfn : fn.toNat = 0 ∨ fn.toNat = 1 ∨ fn.toNat = 6 ∨ fn.toNat = 7 ∨ fn.toNat = 8) : ∃ v, op32Fn fn a b = some v := by
  rw [op32Fn]
  obtain hfn | hfn | hfn | hfn | hfn := hfn <;> rw [hfn] <;> exact ⟨_, rfl⟩

theorem bitsFn_some (hfn : fn.toNat < 8) : ∃ v, bitsFn fn a = some v := by
  rw [bitsFn]
  interval_cases fn.toNat <;> exact ⟨_, rfl⟩

theorem muldivFn_some (hfn : fn.toNat < 13) : ∃ v, muldivFn fn a b = some v := by
  rw [muldivFn]
  interval_cases fn.toNat <;> exact ⟨_, rfl⟩

theorem shift_some (n : Nat) {f : Nat} (hf : f < 7) : ∃ v, shift n a f = some v := by
  interval_cases f <;> exact ⟨_, rfl⟩

end

/-- Settles O6: an operation writes its register and goes on (`frame_of_writes`), a branch or a jump goes on elsewhere. -/
theorem scalarFrame : Obligations.ScalarFrame := by
  intro h fn rd rs1 rs2 imm imm20 s t hr k keeps
  have two : Ready h [rd, rs1] s := ready_mono hr (by simp)
  have one : Ready h [rd] s := ready_mono hr (by simp)
  have sources : Ready h [rs1, rs2] s := ready_mono hr (by simp)
  have written {i : Instr} {regs : List (BitVec 5)} {r : Option W64} {body : State → Nat → Res} (hr : Ready h regs s) (hh : i.hart? = some h)
      (hv : ∃ v, r = some v) (hbody : body s k = writeOr s k rd r) (hf : Fetches i s) (ht : issue h i 0 regs body s = .next t) : Frame k [rd] s t := by
    obtain ⟨v, rfl⟩ := hv
    exact frame_of_writes hr hh hbody hf ht
  refine ⟨?op, ?op32, ?bits, ?muldiv, ?addk, ?andk, ?ork, ?xork, ?cmpltk, ?cmpltuk, ?shk, ?addk32, ?lih, ?pcaddh, ?beq, ?bne, ?blt, ?bge, ?bltu,
    ?bgeu, ?jal, ?jalr⟩
  case op => exact fun hfn => written hr rfl (opFn_some _ _ hfn) rfl
  case op32 => exact fun hfn => written hr rfl (op32Fn_some _ _ hfn) rfl
  case bits => exact fun hfn => written two rfl (bitsFn_some _ hfn) rfl
  case muldiv => exact fun hfn => written hr rfl (muldivFn_some _ _ hfn) rfl
  case addk | andk | ork | xork | cmpltk | cmpltuk | addk32 => exact frame_of_writes two rfl rfl
  case lih | pcaddh => exact frame_of_writes one rfl rfl
  case beq | bne | blt | bge | bltu | bgeu => exact frame_of_branch sources rfl
  case jal => exact frame_of_jumps one rfl rfl
  case jalr =>
    intro heven
    refine frame_of_jumps two rfl (if_neg fun hb => ?_)
    rw [bit_zero] at hb
    exact absurd (heven.symm.trans hb) (by decide)
  case shk =>
    intro hlow hzero
    have hspell : imm.toNat = imm.toNat / 4096 * 4096 + imm.toNat % 64 := by omega
    have hfn : imm.toNat / 4096 < 4 := by omega
    refine written two rfl ?_ rfl
    rw [shkFn_eq_shift hspell (.inl hfn)]
    exact shift_some _ _ (by omega)

end Sys2Proof.Machine
end

section
/-!
PROOFS. Scalar loads of the core's own store (R68, R69).
-/
namespace Sys2Proof.Machine

/-- The number that `n` bytes of a core's store spell, extended as the load says (R68). -/
def loadedValue (s : State) (c : Nat) (va : W64) (n : Nat) (signed : Bool) : W64 :=
  let word := leNat ((List.range n).map fun i => storeByte s c (va.toNat + i))
  if signed then BitVec.ofInt 64 (Int.bmod word (2 ^ (8 * n))) else BitVec.ofNat 64 word

theorem loadExtend_homeRead (s : State) (c : Nat) (va : W64) (n : Nat) (signed : Bool) :
    loadExtend n signed (leNat (homeRead s (.store c va.toNat) n)) = loadedValue s c va n signed :=
  loadExtend_eq _ n signed ((leNat_lt _).trans_eq (by simp [homeRead]))

/-! ### The forms of LOADX and STOREX -/

section
variable {fn : BitVec 10} {size : Nat}

/-- The form of MODE 0, 1 and 2 (R69). -/
def form : Nat → XMode
  | 0 => .index
  | 1 => .scaled
  | _ => .postInc

theorem xFields_form {m : Nat} (hfn : fn.toNat = m * 256 + size * 32) (hs : size < 7) (hm : m < 3) :
    xFields fn = some (form m, 2 ^ (size % 4), decide (size < 4)) := by
  have hmode : fn.toNat / 256 = m := by omega
  have hsize : fn.toNat / 32 % 8 = size := by omega
  rw [xFields, hmode, hsize, if_neg (by omega)]
  interval_cases m <;> rfl

theorem xAddress_scaled (j : Nat) (a b : W64) : xAddress .scaled (2 ^ j) a b = a + BitVec.ofNat 64 (b.toNat * 2 ^ j) := by
  rw [xAddress, Nat.log2_two_pow, shiftLeft_eq_ofNat]

end

section
variable {h : Hart} {i : Instr} {regs : List (BitVec 5)} {rd : BitVec 5} {s : State} {va : W64} {n : Nat} {signed : Bool}
  {body : State → Nat → Res}

theorem scalarLoad_loads (fin : State → State) (ho : OwnStore h va n false s) :
    scalarLoad s h.key va n (.load rd n signed) fin = .done (fin (wx s h.key rd (loadedValue s h.core.toNat va n signed))) := by
  rw [scalarLoad_own _ fin ho, sinkValue, loadExtend_homeRead]

/-- An instruction that is a scalar load without a base update: what it writes, and that it faults where it is misaligned. -/
theorem issue_loads (hr : Ready h regs s) (hh : i.hart? = some h) (hbody : body s h.key = scalarLoad s h.key va n (.load rd n signed) id) (hf : Fetches i s) :
    (OwnStore h va n false s →
      issue h i 0 regs body s = .next (retire (wx s h.key rd (loadedValue s h.core.toNat va n signed)) h.key h.len)) ∧
    (va.toNat % n ≠ 0 → issue h i 0 regs body s = .next (faultAt s h.key (scalarExn 3 va) (thr s h.key).pc)) :=
  ⟨fun ho => issue_writes hr hh hf 0 (hbody.trans (scalarLoad_loads id ho)), fun hodd => issue_traps hr hh hf 0 (hbody.trans (scalarLoad_misaligned _ id hodd))⟩

end

/-- Settles O7: a load by `issue_loads`; a post-increment form writes its base after it. -/
theorem loadResults : Obligations.LoadResults := by
  intro h rd rs1 rs2 imm s hr k a b word value gives va
  have two : Ready h [rd, rs1] s := ready_mono hr (by simp)
  have loads {i : Instr} {regs : List (BitVec 5)} {body : State → Nat → Res} {va : W64} {n : Nat} {signed : Bool} (hr : Ready h regs s)
      (hh : i.hart? = some h) (he : exec i s = issue h i 0 regs body s) (hbody : body s k = scalarLoad s k va n (.load rd n signed) id) :
      gives i va n signed := by
    intro hf
    rw [he]
    exact issue_loads hr hh hbody hf
  have plain {n : Nat} {signed : Bool} : bodyLoad n signed rd rs1 imm s k = scalarLoad s k va n (.load rd n signed) id := rfl
  refine ⟨?lb, ?lh, ?lw, ?ld, ?lbu, ?lhu, ?lwu, ?x⟩
  case lb | lh | lw | ld | lbu | lhu | lwu => exact loads two rfl rfl plain
  case x =>
    intro size hs n signed
    refine ⟨?index, ?scaled, ?post⟩
    case index =>
      have hform := xFields_form (fn := BitVec.ofNat 10 (size * 32)) (m := 0) (by rw [BitVec.toNat_ofNat]; omega) hs (by decide)
      exact loads hr rfl rfl (by rw [bodyLoadx, hform]; rfl)
    case scaled =>
      have hform := xFields_form (fn := BitVec.ofNat 10 (256 + size * 32)) (m := 1) (by rw [BitVec.toNat_ofNat]; omega) hs (by decide)
      exact loads hr rfl rfl (by rw [bodyLoadx, hform, ← xAddress_scaled]; rfl)
    case post =>
      intro hne ho hf
      have hform := xFields_form (fn := BitVec.ofNat 10 (512 + size * 32)) (m := 2) (by rw [BitVec.toNat_ofNat]; omega) hs (by decide)
      refine issue_done hr rfl hf 0 ?_ ((job_wx ..).trans (job_wx ..))
      rw [bodyLoadx, hform]
      exact (if_neg fun hpost => hne hpost.2).trans (scalarLoad_loads _ ho)

end Sys2Proof.Machine
end

section
/-!
PROOFS. A byte of a line after one is replaced, and a line's bytes and marks after a narrow store merges into them (R178).
-/
namespace Sys2Proof.Machine

/-! ### One byte of a line -/

section
variable (d : V512) {i j : Nat}

/-- The byte at a place, and everything below and above it. -/
theorem splitByte (n P : Nat) : n = n % P + P * (n / P % 256 + 256 * (n / P / 256)) := by
  rw [Nat.mod_add_div, Nat.mod_add_div]

theorem setByte_eq (n P b : Nat) : n - n / P % 256 * P + b * P = n % P + P * (b + 256 * (n / P / 256)) := by
  conv_lhs => enter [1, 1]; rw [splitByte n P]
  have hcut : n % P + P * (n / P % 256 + 256 * (n / P / 256)) - n / P % 256 * P = n % P + P * (256 * (n / P / 256)) := by
    rw [Nat.mul_add, Nat.mul_comm P (n / P % 256)]
    omega
  rw [hcut]
  ring

theorem digit_same {r x b : Nat} (hr : r < 2 ^ (8 * i)) (hb : b < 256) : (r + 2 ^ (8 * i) * (b + 256 * x)) / 2 ^ (8 * i) % 256 = b := by
  rw [Nat.add_mul_div_left _ _ (by positivity), Nat.div_eq_of_lt hr]
  omega

/-- Any other byte does not depend on the byte at a place. -/
theorem digit_other {r x b b' : Nat} (hr : r < 2 ^ (8 * i)) (hb : b < 256) (hb' : b' < 256) (hne : j ≠ i) :
    (r + 2 ^ (8 * i) * (b + 256 * x)) / 2 ^ (8 * j) % 256 = (r + 2 ^ (8 * i) * (b' + 256 * x)) / 2 ^ (8 * j) % 256 := by
  rcases Nat.lt_or_gt_of_ne hne with hlt | hgt
  · have hpow : 2 ^ (8 * i) = 2 ^ (8 * j) * (256 * 2 ^ (8 * (i - j - 1))) := by
      rw [show (256 : Nat) = 2 ^ 8 by rfl, ← pow_add, ← pow_add]
      congr 1
      omega
    simp only [hpow, Nat.mul_assoc]
    rw [Nat.add_mul_div_left _ _ (by positivity), Nat.add_mul_div_left _ _ (by positivity)]
    omega
  · have hpow : 2 ^ (8 * j) = 2 ^ (8 * i) * 256 * 2 ^ (8 * (j - i - 1)) := by
      rw [show (256 : Nat) = 2 ^ 8 by rfl, ← pow_add, ← pow_add]
      congr 1
      omega
    have above {c : Nat} (hc : c < 256) : (r + 2 ^ (8 * i) * (c + 256 * x)) / 2 ^ (8 * j) = x / 2 ^ (8 * (j - i - 1)) := by
      rw [hpow, ← Nat.div_div_eq_div_mul, ← Nat.div_div_eq_div_mul, Nat.add_mul_div_left _ _ (by positivity), Nat.div_eq_of_lt hr]
      congr 1
      omega
    rw [above hb, above hb']

theorem lineByte_ofNat (n : Nat) (hj : j < 64) : lineByte (BitVec.ofNat 512 n) j = BitVec.ofNat 8 (n / 2 ^ (8 * j) % 256) := by
  refine BitVec.eq_of_getLsbD_eq fun i hi => ?_
  have hin : i + 8 * j < 512 := by omega
  rw [lineByte, BitVec.getLsbD_ofNat, Nat.testBit_div_two_pow, ← BitVec.getLsbD, BitVec.getLsbD_ofNat, BitVec.getLsbD_ofNat,
    show (256 : Nat) = 2 ^ 8 by rfl, Nat.testBit_mod_two_pow, Nat.testBit_div_two_pow]
  simp [hi, hin]

theorem lineByte_eq_digit (hj : j < 64) : lineByte d j = BitVec.ofNat 8 (d.toNat / 2 ^ (8 * j) % 256) := by
  rw [← lineByte_ofNat _ hj, BitVec.ofNat_toNat, BitVec.setWidth_eq]

theorem lineByte_lineSet (b : Byte) (hj : j < 64) : lineByte (lineSet d i b) j = if j = i then b else lineByte d j := by
  have hr : d.toNat % 2 ^ (8 * i) < 2 ^ (8 * i) := Nat.mod_lt _ (by positivity)
  have hb : b.toNat < 256 := b.isLt
  rw [lineSet, lineByte_ofNat _ hj, setByte_eq]
  split
  · next hji => rw [hji, digit_same hr hb, BitVec.ofNat_toNat, BitVec.setWidth_eq]
  · next hji => rw [digit_other (b' := d.toNat / 2 ^ (8 * i) % 256) hr hb (Nat.mod_lt _ (by decide)) hji, ← splitByte, lineByte_eq_digit d hj]

theorem bit_eq_getLsbD {w : Nat} (m : BitVec w) (j : Nat) : bit m.toNat j = m.getLsbD j := by
  rw [BitVec.getLsbD, Nat.testBit_eq_decide_div_mod_eq, bit]
  rfl

theorem bit_or_two_pow (m : BitVec 64) (hj : j < 64) : bit (m ||| BitVec.ofNat 64 (2 ^ i)).toNat j = (bit m.toNat j || decide (j = i)) := by
  rw [bit_eq_getLsbD, bit_eq_getLsbD, BitVec.getLsbD_or, BitVec.getLsbD_ofNat, Nat.testBit_two_pow]
  simp [hj, eq_comm]

end

/-! ### A narrow store merges into a line -/

/-- A line's marks and bytes with the bytes `bs` merged in from place `p`. -/
def merged (p : Nat) (bs : List Byte) (acc : BitVec 64 × V512) : BitVec 64 × V512 :=
  (offsets bs).foldl (fun (acc : BitVec 64 × V512) (b : Nat × Byte) => (acc.1 ||| BitVec.ofNat 64 (2 ^ (p + b.1)), lineSet acc.2 (p + b.1) b.2)) acc

section
variable {p j : Nat} {bs : List Byte} {acc : BitVec 64 × V512}

theorem merged_concat (b : Byte) : merged p (bs ++ [b]) acc =
    ((merged p bs acc).1 ||| BitVec.ofNat 64 (2 ^ (p + bs.length)), lineSet (merged p bs acc).2 (p + bs.length) b) := by
  rw [merged, offsets_concat, List.foldl_append]
  rfl

theorem bit_merged (hj : j < 64) : bit (merged p bs acc).1.toNat j = (bit acc.1.toNat j || decide (p ≤ j ∧ j < p + bs.length)) := by
  induction bs using List.reverseRecOn with
  | nil => simp [merged, offsets]
  | append_singleton bs b ih =>
    rw [merged_concat, bit_or_two_pow _ hj, ih, Bool.or_assoc, ← Bool.decide_or, List.length_append, List.length_singleton]
    congr 2
    exact propext (by omega)

theorem lineByte_merged (hj : j < 64) : lineByte (merged p bs acc).2 j = if p ≤ j ∧ j < p + bs.length then bs.getD (j - p) 0 else lineByte acc.2 j := by
  induction bs using List.reverseRecOn with
  | nil => simp [merged, offsets]
  | append_singleton bs b ih =>
    rw [merged_concat, lineByte_lineSet _ _ hj, ih, List.length_append, List.length_singleton]
    by_cases hlast : j = p + bs.length
    · simp [hlast]
    · rw [if_neg hlast]
      by_cases hin : p ≤ j ∧ j < p + bs.length
      · rw [if_pos hin, if_pos (by omega), List.getD_append _ _ _ _ (by omega)]
      · rw [if_neg hin, if_neg (by omega)]

end

/-! ### The gather buffer after a merge -/

/-- A core whose buffer entry for a line holds other marks and bytes. -/
def rebuffer (line : Nat) (r : BitVec 64 × V512) (x : Core) : Core :=
  { x with gbuf := x.gbuf.map fun e => if e.line.toNat == line then { e with mask := r.1, data := r.2 } else e }

/-- A core with one more buffer entry. -/
def addBuffered (e : GEntry) (x : Core) : Core := { x with gbuf := x.gbuf ++ [e] }

/-- The oldest entry of a full gather buffer goes to its bank (R178). -/
def makeRoom (s : State) (c : Nat) : State :=
  if 8 ≤ (core s c).gbuf.length then
    match (core s c).gbuf with
    | [] => s
    | e :: _ => gbufFlush s c e.line.toNat
  else s

section
variable {s : State} {c c' o q line line' : Nat} {bs : List Byte}

theorem bufferedLine_rebuffer (r : BitVec 64 × V512) (s : State) (c c' line line' : Nat) :
    bufferedLine (modCore s c (rebuffer line r)) c' line' =
      if c' = c ∧ line' = line then (bufferedLine s c line).map fun e => { e with mask := r.1, data := r.2 } else bufferedLine s c' line' := by
  by_cases hc : c' = c
  · subst hc
    have hkeep : (fun e : GEntry => e.line.toNat == line') ∘ (fun e => if e.line.toNat == line then { e with mask := r.1, data := r.2 } else e) =
        fun e => e.line.toNat == line' := by
      funext e
      simp only [Function.comp]
      split <;> rfl
    rw [bufferedLine, core_modCore_self, rebuffer, List.find?_map, hkeep]
    by_cases hl : line' = line
    · subst hl
      rw [if_pos ⟨rfl, rfl⟩]
      refine Option.map_congr fun e he => ?_
      rw [if_pos (List.find?_some he)]
    · rw [if_neg fun h => hl h.2, bufferedLine]
      cases hfind : (core s c').gbuf.find? fun e => e.line.toNat == line' with
      | none => rfl
      | some e =>
        have he : e.line.toNat = line' := by simpa using List.find?_some hfind
        rw [Option.map_some, he, if_neg (by simpa using hl)]
  · rw [bufferedLine, core_modCore_ne _ _ hc, if_neg fun h => hc h.1, bufferedLine]

theorem bufferedLine_addBuffered (e : GEntry) (s : State) (c c' line' : Nat) :
    bufferedLine (modCore s c (addBuffered e)) c' line' =
      if c' = c then (bufferedLine s c line').or (if e.line.toNat = line' then some e else none) else bufferedLine s c' line' := by
  by_cases hc : c' = c
  · subst hc
    rw [bufferedLine, core_modCore_self, addBuffered, List.find?_append, if_pos rfl, bufferedLine, List.find?_singleton]
    simp
  · rw [bufferedLine, core_modCore_ne _ _ hc, if_neg hc, bufferedLine]

theorem makeRoom_cases (s : State) (c : Nat) : makeRoom s c = s ∨ ∃ line, makeRoom s c = gbufFlush s c line := by
  rw [makeRoom]
  split
  · split
    · exact .inl rfl
    · exact .inr ⟨_, rfl⟩
  · exact .inl rfl

theorem bufferedLine_makeRoom (h : bufferedLine s c line = none) : bufferedLine (makeRoom s c) c line = none := by
  obtain hroom | ⟨_, hroom⟩ := makeRoom_cases s c
  · rw [hroom, h]
  · rw [hroom, bufferedLine_gbufFlush, h, ite_self]

theorem storeByte_makeRoom (hm : memWf s.ls = true) (hq : q < 2 ^ 20) : storeByte (makeRoom s c) c' q = storeByte s c' q := by
  obtain hroom | ⟨_, hroom⟩ := makeRoom_cases s c
  · rw [hroom]
  · rw [hroom, storeByte_gbufFlush hm hq]

theorem gbufMerge_some {e : GEntry} (h : bufferedLine s c (o / 64) = some e) :
    let r := merged (o % 64) bs (e.mask, e.data)
    let u := modCore s c (rebuffer (o / 64) r)
    gbufMerge s c o (offsets bs) = if r.1 = BitVec.allOnes 64 then gbufFlush u c (o / 64) else u := by
  unfold bufferedLine at h
  rw [gbufMerge, h]
  rfl

theorem gbufMerge_none (h : bufferedLine s c (o / 64) = none) :
    let r := merged (o % 64) bs (0, 0)
    gbufMerge s c o (offsets bs) = modCore (makeRoom s c) c (addBuffered { line := BitVec.ofNat 14 (o / 64), mask := r.1, data := r.2 }) := by
  unfold bufferedLine at h
  rw [gbufMerge, h]
  rfl

/-- What a merged entry of a line reads as (R178). -/
theorem merged_reads (hq : q / 64 = o / 64) (acc : BitVec 64 × V512) (b : Byte) :
    (if bit (merged (o % 64) bs acc).1.toNat (q % 64) then lineByte (merged (o % 64) bs acc).2 (q % 64) else b) =
      if o ≤ q ∧ q < o + bs.length then bs.getD (q - o) 0 else if bit acc.1.toNat (q % 64) then lineByte acc.2 (q % 64) else b := by
  have hj : q % 64 < 64 := Nat.mod_lt _ (by decide)
  have hin : (o % 64 ≤ q % 64 ∧ q % 64 < o % 64 + bs.length) ↔ (o ≤ q ∧ q < o + bs.length) := by omega
  have hplace : q % 64 - o % 64 = q - o := by omega
  rw [bit_merged hj, lineByte_merged hj, hplace]
  simp only [hin]
  by_cases h : o ≤ q ∧ q < o + bs.length
  · simp only [h, and_self, decide_true, Bool.or_true, if_true]
  · simp only [h, decide_false, Bool.or_false, if_false]

/-- Every byte of every store after a narrow store of a core's own port. -/
theorem storeByte_gbufMerge (hm : memWf s.ls = true) (hline : o % 64 + bs.length ≤ 64) (ho : o < 2 ^ 20) (hq : q < 2 ^ 20) :
    storeByte (gbufMerge s c o (offsets bs)) c' q = if c' = c ∧ o ≤ q ∧ q < o + bs.length then bs.getD (q - o) 0 else storeByte s c' q := by
  have hout (h : ¬ (c' = c ∧ q / 64 = o / 64)) : ¬ (c' = c ∧ o ≤ q ∧ q < o + bs.length) := by omega
  cases h : bufferedLine s c (o / 64) with
  | some e =>
    have hmerged : storeByte (modCore s c (rebuffer (o / 64) (merged (o % 64) bs (e.mask, e.data)))) c' q =
        if c' = c ∧ o ≤ q ∧ q < o + bs.length then bs.getD (q - o) 0 else storeByte s c' q := by
      rw [storeByte_buffered, bufferedLine_rebuffer]
      by_cases hin : c' = c ∧ q / 64 = o / 64
      · obtain ⟨rfl, hl⟩ := hin
        rw [storeByte_buffered s, hl, h, if_pos ⟨rfl, rfl⟩, Option.map_some]
        simp only [true_and]
        exact merged_reads hl ..
      · rw [if_neg hin, if_neg (hout hin), storeByte_buffered s]
        rfl
    rw [gbufMerge_some h]
    split
    · rw [storeByte_gbufFlush (by exact hm) hq, hmerged]
    · exact hmerged
  | none =>
    have hfree := bufferedLine_makeRoom h
    have hlineNat : (BitVec.ofNat 14 (o / 64)).toNat = o / 64 := by rw [BitVec.toNat_ofNat]; omega
    rw [gbufMerge_none h, ← storeByte_makeRoom (c := c) hm hq, storeByte_buffered, storeByte_buffered (makeRoom s c), bufferedLine_addBuffered, hlineNat]
    by_cases hin : c' = c ∧ q / 64 = o / 64
    · obtain ⟨rfl, hl⟩ := hin
      rw [hl, hfree, if_pos rfl, if_pos rfl]
      simp only [true_and]
      exact (merged_reads hl ..).trans (by simp [bit])
    · rw [if_neg (hout hin)]
      by_cases hc : c' = c
      · subst hc
        rw [if_pos rfl, if_neg fun hl => hin ⟨rfl, hl.symm⟩, Option.or_none]
        rfl
      · rw [if_neg hc]
        rfl

end
end Sys2Proof.Machine
end

section
/-!
PROOFS. Scalar stores to the core's own store (R68, R69, R178).
-/
namespace Sys2Proof.Machine

/-! ### A store of a core's own port -/

section
variable {s : State} {k o : Nat} {bs : List Byte}

theorem makeRoom_shape (s : State) (c : Nat) : ∃ cs m lp, makeRoom s c = { s with cores := cs, ls := m, lsPoison := lp } := by
  obtain hroom | ⟨line, hroom⟩ := makeRoom_cases s c
  · exact ⟨s.cores, s.ls, s.lsPoison, hroom⟩
  · rw [hroom]
    exact gbufFlush_shape s c line

theorem gbufMerge_shape (s : State) (c o : Nat) (bs : List Byte) :
    ∃ cs m lp, gbufMerge s c o (offsets bs) = { s with cores := cs, ls := m, lsPoison := lp } := by
  cases h : bufferedLine s c (o / 64) with
  | some e =>
    rw [gbufMerge_some h]
    split
    · obtain ⟨cs, m, lp, hshape⟩ := gbufFlush_shape (modCore s c (rebuffer (o / 64) (merged (o % 64) bs (e.mask, e.data)))) c (o / 64)
      exact ⟨cs, m, lp, hshape⟩
    · exact ⟨_, s.ls, s.lsPoison, rfl⟩
  | none =>
    obtain ⟨cs, m, lp, hshape⟩ := makeRoom_shape s c
    rw [gbufMerge_none h, hshape]
    exact ⟨_, m, lp, rfl⟩

theorem addAbort_ne {k j : Nat} (c : AbortCause) (h : j ≠ k) : thr (addAbort s k c) j = thr s j := by
  rw [addAbort]
  split
  · exact thr_modThr_ne s _ h
  · rfl

theorem addAbort_aborts (s : State) (k : Nat) (c : AbortCause) (j : Nat) : { thr (addAbort s k c) j with aborts := [] } = { thr s j with aborts := [] } := by
  by_cases h : j = k
  · subst h
    rw [addAbort]
    split
    · rw [thr_modThr_self]
    · rfl
  · rw [addAbort_ne c h]

/-- The notices that a write by thread `k` sends go to other threads and change nothing else of them (R223). -/
theorem breakWatches_threads (s : State) (h : HomeId) (line k : Nat) :
    thr (breakWatches s h line (some k)) k = thr s k ∧ SameOthers k s (breakWatches s h line (some k)) := by
  have notices (l : List Watch) (hl : ∀ w ∈ l, w.thr ≠ k) (u : State) :
      let t := l.foldl (fun s w => addAbort s w.thr { code := 1, detail := 1, node := homeNode h }) u
      thr t k = thr u k ∧ SameOthers k u t := by
    induction l generalizing u with
    | nil => exact ⟨rfl, fun _ _ => rfl⟩
    | cons w l ih =>
      obtain ⟨hself, hothers⟩ := ih (fun x hx => hl x (List.mem_cons_of_mem _ hx)) (addAbort u w.thr { code := 1, detail := 1, node := homeNode h })
      exact ⟨hself.trans (addAbort_ne _ (hl w List.mem_cons_self).symm), sameOthers_trans (fun j _ => addAbort_aborts ..) hothers⟩
  refine notices _ (fun w hw => ?_) _
  simp only [List.mem_filter, Bool.and_eq_true, bne_iff_ne, ne_eq, Option.some.injEq] at hw
  exact hw.2.2

theorem coreStore_narrow (hlen : bs.length < 64) : coreStore s k o (offsets bs) =
    gbufMerge (breakWatches s (.store (BitVec.ofNat 11 (k / 8))) ((2 ^ 40 + k / 8 * 2 ^ 20 + o) / 64) (some k)) (k / 8) o (offsets bs) := by
  have hlong : (offsets bs).length ≠ 64 := by simp [offsets]; omega
  rw [coreStore, if_neg hlong]

/-- A narrow store changes the bytes that it writes, watches and notices to other threads, and nothing else that a thread sees. -/
theorem coreStore_own (hm : memWf s.ls = true) (hlen : bs.length < 64) (hline : o % 64 + bs.length ≤ 64) (ho : o < 2 ^ 20) :
    let t := coreStore s k o (offsets bs)
    thr t k = thr s k ∧ SameOthers k s t ∧ (∀ x, hbmByte t x = hbmByte s x) ∧ t.hostMem = s.hostMem ∧
      ∀ c q, q < 2 ^ 20 → storeByte t c q = if c = k / 8 ∧ o ≤ q ∧ q < o + bs.length then bs.getD (q - o) 0 else storeByte s c q := by
  obtain ⟨hself, hothers⟩ := breakWatches_threads s (.store (BitVec.ofNat 11 (k / 8))) ((2 ^ 40 + k / 8 * 2 ^ 20 + o) / 64) k
  obtain ⟨ts, ws, hbreak⟩ := breakWatches_shape s (.store (BitVec.ofNat 11 (k / 8))) ((2 ^ 40 + k / 8 * 2 ^ 20 + o) / 64) (some k)
  rw [coreStore_narrow hlen]
  rw [hbreak] at hself hothers ⊢
  obtain ⟨cs, m, lp, hmerge⟩ := gbufMerge_shape { s with threads := ts, watches := ws } (k / 8) o bs
  refine ⟨?_, ?_, ?_, ?_, fun c q hq => storeByte_gbufMerge (s := { s with threads := ts, watches := ws }) hm hline ho hq⟩
  all_goals rw [hmerge]
  · exact hself
  · exact hothers
  · exact fun x => hbmByte_congr rfl rfl x

end

/-! ### A scalar store -/

section
variable {h : Hart} {i : Instr} {regs : List (BitVec 5)} {s : State} {va v : W64} {n : Nat}

theorem scalarStore_own (fin : State → State) (ho : OwnStore h va n true s) :
    scalarStore s h.key va n v fin = .done (fin (coreStore s h.key va.toNat (offsets (leBytes n v.toNat)))) := by
  have ⟨htr, hnote⟩ := own_translate ho .write
  obtain ⟨-, -, htx, halign, -, hsb, hlock, -⟩ := ho
  have hfind : findTarget s h.key .write va n = .at { tgt := .store h.core.toNat va.toNat, nc := false, page := none } s := by
    simp [findTarget, halign, htr, hnote]
  rw [scalarStore, hfind]
  simp only [writeOut, inTx, htx, plainWriteOut]
  rw [hsb, hlock]
  simp [key_div]

/-- What an access may do after its bytes are stored: it moves x registers of `dests` and nothing else. -/
def MovesOnly (k : Nat) (dests : List (BitVec 5)) (fin : State → State) : Prop :=
  ∀ u, SameRegs k dests u (fin u) ∧ SameOthers k u (fin u) ∧ SameMemory u (fin u) ∧ (fin u).hostMem = u.hostMem ∧
    (thr (fin u) k).pc = (thr u k).pc ∧ (thr (fin u) k).job = (thr u k).job

theorem movesOnly_id (k : Nat) : MovesOnly k [] id := fun u =>
  ⟨⟨fun _ _ => rfl, fun _ => rfl, fun _ => rfl, by simp⟩, fun _ _ => rfl, sameMemory_refl u, rfl, rfl, rfl⟩

theorem movesOnly_wx (k : Nat) (r : BitVec 5) (x : W64) : MovesOnly k [r] (fun u => wx u k r x) := fun u =>
  ⟨sameRegs_wx u k r x, sameOthers_wx u k r x, sameMemory_wx u k r x, wx_hostMem .., by rw [thr_wx], job_wx ..⟩

theorem sameRegs_of_thr {k : Nat} {dests : List (BitVec 5)} {t : State} (ht : thr t k = thr s k) : SameRegs k dests s t := by
  simp only [SameRegs, rx, rv, rp, ht, implies_true, and_self]

/-- Bytes stored to a core's own store: they read as the value's low bytes, low byte first, and everything else as before. -/
def Stores (h : Hart) (va v : W64) (n : Nat) (dests : List (BitVec 5)) (s t : State) : Prop :=
  (thr t h.key).pc = (thr s h.key).pc + BitVec.ofNat 64 h.len ∧
    (∀ c o, o < 2 ^ 20 → storeByte t c o =
      if c = h.core.toNat ∧ va.toNat ≤ o ∧ o < va.toNat + n then BitVec.ofNat 8 (v.toNat / 256 ^ (o - va.toNat)) else storeByte s c o) ∧
    (∀ x, hbmByte t x = hbmByte s x) ∧ t.hostMem = s.hostMem ∧ SameRegs h.key dests s t ∧ SameOthers h.key s t

/-- An aligned access stays within its line. -/
theorem ownStore_line {write : Bool} (ho : OwnStore h va n write s) (hn : n ∣ 64) : va.toNat % 64 + n ≤ 64 := by
  obtain ⟨-, -, -, halign, -⟩ := ho
  obtain ⟨q, hq⟩ := hn
  obtain ⟨r, hr⟩ := Nat.dvd_of_mod_eq_zero ((Nat.mod_mod_of_dvd va.toNat ⟨q, hq⟩).trans halign)
  have hlt : n * r < n * q := by omega
  calc va.toNat % 64 + n = n * (r + 1) := by rw [hr]; ring
    _ ≤ n * q := Nat.mul_le_mul_left _ (Nat.lt_of_mul_lt_mul_left hlt)
    _ = 64 := hq.symm

theorem ownStore_coreStore (hm : memWf s.ls = true) (ho : OwnStore h va n true s) (hn : n ∣ 64) (hn8 : n ≤ 8) :
    let t := coreStore s h.key va.toNat (offsets (leBytes n v.toNat))
    thr t h.key = thr s h.key ∧ SameOthers h.key s t ∧ (∀ x, hbmByte t x = hbmByte s x) ∧ t.hostMem = s.hostMem ∧
      ∀ c q, q < 2 ^ 20 → storeByte t c q =
        if c = h.key / 8 ∧ va.toNat ≤ q ∧ q < va.toNat + (leBytes n v.toNat).length then (leBytes n v.toNat).getD (q - va.toNat) 0 else storeByte s c q := by
  have hline := ownStore_line ho hn
  obtain ⟨-, -, -, -, hlow, -⟩ := ho
  exact coreStore_own hm (by rw [leBytes_length]; omega) (by rwa [leBytes_length]) (by omega)

theorem stores_retire {dests : List (BitVec 5)} {fin : State → State} (hm : memWf s.ls = true) (ho : OwnStore h va n true s) (hn : n ∣ 64) (hn8 : n ≤ 8)
    (hfin : MovesOnly h.key dests fin) :
    Stores h va v n dests s (retire (fin (coreStore s h.key va.toNat (offsets (leBytes n v.toNat)))) h.key h.len) := by
  obtain ⟨hthr, hothers, hhbm, hhost, hbytes⟩ := ownStore_coreStore (v := v) hm ho hn hn8
  rw [leBytes_length, key_div] at hbytes
  generalize coreStore s h.key va.toNat (offsets (leBytes n v.toNat)) = u at *
  obtain ⟨hregs, hothers', ⟨hhbm', hstore', -⟩, hhost', hpc', -⟩ := hfin u
  obtain ⟨hhbm'', hstore'', -⟩ := sameMemory_goesOn (fin u) h.key ((thr (fin u) h.key).pc + BitVec.ofNat 64 h.len)
  refine ⟨?_, fun c o hoff => ?_, fun x => (hhbm'' x).trans ((hhbm' x).trans (hhbm x)), (retire_hostMem ..).trans (hhost'.trans hhost),
    sameRegs_trans (sameRegs_of_thr hthr) (sameRegs_trans hregs (sameRegs_mono (by simp) (sameRegs_goesOn ..))),
    sameOthers_trans hothers (sameOthers_trans hothers' (sameOthers_goesOn _ _ _))⟩
  · rw [retire_thr_self, hpc', hthr]
  · refine ((hstore'' c o).trans ((hstore' c o).trans (hbytes c o hoff))).trans ?_
    split
    · next hin => rw [leBytes_getD _ (by omega), byteOf]
    · rfl

theorem issue_stores {dests : List (BitVec 5)} {body : State → Nat → Res} {fin : State → State} (hr : Ready h regs s) (hm : memWf s.ls = true)
    (hh : i.hart? = some h) (hbody : body s h.key = scalarStore s h.key va n v fin) (hn : n ∣ 64) (hn8 : n ≤ 8) (hfin : MovesOnly h.key dests fin)
    (ho : OwnStore h va n true s) (hf : Fetches i s) :
    ∃ u, issue h i 0 regs body s = .next (retire (fin u) h.key h.len) ∧ Stores h va v n dests s (retire (fin u) h.key h.len) := by
  have hjob : (thr (fin (coreStore s h.key va.toNat (offsets (leBytes n v.toNat)))) h.key).job = (thr s h.key).job := by
    obtain ⟨-, -, -, -, -, hkeep⟩ := hfin (coreStore s h.key va.toNat (offsets (leBytes n v.toNat)))
    rw [hkeep, (ownStore_coreStore hm ho hn hn8).1]
  exact ⟨_, issue_done hr hh hf 0 (hbody.trans (scalarStore_own fin ho)) hjob, stores_retire hm ho hn hn8 hfin⟩

end

theorem storeResults : Claims.StoreResults := by
  intro h rs rs1 rs2 imm s hr hm k a b stores va
  have two : Ready h [rs, rs1] s := ready_mono hr (by simp)
  have plain {i : Instr} {regs : List (BitVec 5)} {body : State → Nat → Res} {va : W64} {n : Nat} (hr : Ready h regs s) (hh : i.hart? = some h)
      (he : exec i s = issue h i 0 regs body s) (hbody : body s k = scalarStore s k va n (rx s k rs) id) (hn : n ∣ 64) (hn8 : n ≤ 8) :
      stores i va n [] false := by
    intro ho hf
    obtain ⟨u, ht, hpc, hbytes, hhbm, hhost, hregs, hothers⟩ := issue_stores hr hm hh hbody hn hn8 (movesOnly_id k) ho hf
    exact ⟨_, he.trans ht, hpc, hbytes, hhbm, hhost, hregs, hothers, nofun⟩
  have direct {n : Nat} : bodyStore n rs rs1 imm s k = scalarStore s k va n (rx s k rs) id := rfl
  refine ⟨?sb, ?sh, ?sw, ?sd, ?x⟩
  case sb | sh | sw | sd => exact plain two rfl rfl direct (by decide) (by decide)
  case x =>
    intro size hs n
    have hmod : size % 4 = size := Nat.mod_eq_of_lt hs
    have hn : n ∣ 64 := Nat.pow_dvd_pow 2 (by omega : size ≤ 6)
    have hn8 : n ≤ 8 := Nat.pow_le_pow_right (by decide) (by omega : size ≤ 3)
    have body {m : Nat} {fn : BitVec 10} (hm : m < 3) (hfn : fn.toNat = m * 256 + size * 32) :
        bodyStorex fn rs rs1 rs2 s k =
          scalarStore s k (xAddress (form m) n a b) n (rx s k rs) fun t => if form m = .postInc then wx t k rs1 (a + b) else t := by
      rw [bodyStorex, xFields_form hfn (by omega) hm, hmod, decide_eq_true hs]
      rfl
    refine ⟨?index, ?scaled, ?post⟩
    case index => exact plain hr rfl rfl (body (m := 0) (by decide) (by rw [BitVec.toNat_ofNat]; omega)) hn hn8
    case scaled =>
      refine plain hr rfl rfl ((body (m := 1) (by decide) (by rw [BitVec.toNat_ofNat]; omega)).trans ?_) hn hn8
      rw [form, xAddress_scaled]
      rfl
    case post =>
      intro ho hf
      have hpost : bodyStorex (BitVec.ofNat 10 (512 + size * 32)) rs rs1 rs2 s k = scalarStore s k a n (rx s k rs) fun t => wx t k rs1 (a + b) :=
        body (m := 2) (by decide) (by rw [BitVec.toNat_ofNat]; omega)
      obtain ⟨u, ht, hpc, hbytes, hhbm, hhost, hregs, hothers⟩ := issue_stores hr hm rfl hpost hn hn8 (movesOnly_wx k rs1 (a + b)) ho hf
      refine ⟨_, ht, hpc, hbytes, hhbm, hhost, hregs, hothers, fun _ hne => ?_⟩
      rw [rx_retire, rx_wx, if_neg hne, if_pos rfl]

end Sys2Proof.Machine
end

section
/-!
PROOFS. An atomic on the core's own store goes to the home of its line (R71, R186).
-/
namespace Sys2Proof.Machine

/-! ### The fields of ATOMIC -/

section
variable {op size : Nat} {ret : Bool} {rd : BitVec 5}

theorem atomicFields_spelled (hop : op ≤ 8) (hsize : size < 2) (hnoret : ret = false → rd = 0) (hswap : op = 6 → ret = true)
    (hcas : op = 7 → size = 1 ∧ ret = true) (h8 : op = 8 → size = 0) :
    atomicFields (BitVec.ofNat 10 (op * 64 + size * 16 + if ret then 8 else 0)) rd = some { op := op, bytes := 4 * (size + 1), ret := ret } := by
  have hv : (BitVec.ofNat 10 (op * 64 + size * 16 + if ret then 8 else 0)).toNat = op * 64 + size * 16 + if ret then 8 else 0 := by
    rw [BitVec.toNat_ofNat]
    split <;> omega
  generalize BitVec.ofNat 10 (op * 64 + size * 16 + if ret then 8 else 0) = fn at hv
  have hopf : fn.toNat / 64 = op := by split at hv <;> omega
  have hsizef : fn.toNat / 16 % 4 = size := by split at hv <;> omega
  have hlow : fn.toNat % 8 = 0 := by split at hv <;> omega
  have hretf : bit fn.toNat 3 = ret := by
    rw [bit, beq_eq_decide]
    cases ret <;> simp at hv ⊢ <;> omega
  rw [atomicFields, hopf, hsizef, hretf, hlow, if_neg (by omega), if_neg (by cases ret <;> simp_all), if_neg (by simp_all), if_neg (by omega), if_neg (by simp_all)]

end

section
variable {s : State} {k : Nat}

theorem mem_mesh_makeRecord {m : Msg} (node rg scls srcid ty : Nat) (ctx : Option Nat) (w3 w4 w5 w6 w7 : W64) (hm : m ∈ s.mesh) :
    m ∈ (makeRecord s node rg scls srcid ty ctx w3 w4 w5 w6 w7).mesh := by
  rw [makeRecord]
  split
  · exact List.mem_append_left _ hm
  · exact hm

theorem mem_mesh_goesOn {m : Msg} (pc : W64) (hm : m ∈ s.mesh) : m ∈ (goesOn s k pc).mesh := by
  simp only [goesOn, countInstret]
  split
  · split
    · exact mem_mesh_makeRecord _ _ _ _ _ _ _ _ _ _ _ (mem_mesh_makeRecord _ _ _ _ _ _ _ _ _ _ _ hm)
    · exact hm
  · exact hm

theorem sb_goesOn (pc : W64) (c : Nat) : (core (goesOn s k pc) c).sb = (core s c).sb := by
  rw [goesOn, countInstret_core, core_setPc]

variable (s k)

/-- The slot of the scoreboard that the next access of a thread's core takes. -/
def freeSlot : Nat := (Tbl.free (core s (k / 8)).sb 0 17).getD 16

theorem sendHeld_message (e : SbEntry) (cls dst : Nat) (pay : Requester → Payload) :
    ∃ m ∈ (sendHeld s k e cls dst pay).mesh, m.cls = cls ∧ m.src = k / 64 ∧ m.dst = dst ∧ m.pay = pay (.access (k / 8) (freeSlot s k)) :=
  ⟨_, List.mem_append_right _ (List.mem_singleton_self _), rfl, rfl, rfl, rfl⟩

theorem core_sendHeld (e : SbEntry) (cls dst : Nat) (pay : Requester → Payload) (c : Nat) :
    core (sendHeld s k e cls dst pay) c = core (modCore s (k / 8) fun x => { x with sb := Tbl.set x.sb (freeSlot s k) e }) c := rfl

theorem sendHeld_slot (e : SbEntry) (cls dst : Nat) (pay : Requester → Payload) :
    Tbl.get? (core (sendHeld s k e cls dst pay) (k / 8)).sb (freeSlot s k) = some e := by
  rw [core_sendHeld, core_modCore_self]
  exact Tbl.get?_set_self ..

theorem sendHeld_sameMemory (e : SbEntry) (cls dst : Nat) (pay : Requester → Payload) : SameMemory s (sendHeld s k e cls dst pay) := by
  refine ⟨fun _ => rfl, fun c o => storeByte_congr ?_ rfl, fun _ => rfl⟩
  rw [bufferedLine, core_sendHeld, bufferedLine]
  by_cases hc : c = k / 8
  · rw [hc, core_modCore_self]
  · rw [core_modCore_ne _ _ hc]

end

theorem key_node (h : Hart) : h.key / 64 = h.core.toNat / 8 := by
  have := key_div h
  omega

/-- The state in which an atomic of the core's own store is on its way to the line's home. -/
def ownAtomic (h : Hart) (s : State) (va : W64) (f : AtomicFields) (rd : BitVec 5) (operand compare : W64) : State :=
  let access : Access1 :=
    { va := va, x := { tgt := .store h.core.toNat va.toNat, nc := false, page := none }, eng := 0, lane := 0, sink := if f.ret then .old rd f.bytes else .none }
  sendHeld s h.key (access.entry h.key true false) 3 (h.core.toNat / 8) (.atomic (.store h.core.toNat va.toNat) f.op f.bytes operand compare)

theorem scalarAtomic_own {h : Hart} {s : State} {va operand compare : W64} {f : AtomicFields} {rd : BitVec 5} (ho : OwnStore h va f.bytes true s) :
    scalarAtomic s h.key va f rd operand compare = .done (ownAtomic h s va f rd operand compare) := by
  have ⟨htr, hnote⟩ := own_translate ho .write
  obtain ⟨-, -, htx, halign, -, hsb, -, -⟩ := ho
  have hfind : findTarget s h.key .write va f.bytes = .at { tgt := .store h.core.toNat va.toNat, nc := false, page := none } s := by
    simp [findTarget, halign, htr, hnote]
  simp only [scalarAtomic, inTx, htx, hfind, hsb]
  rfl

theorem atomicSends : Claims.AtomicSends := by
  intro h op size ret rd rs1 rs2 s hr k va n home hop hsize hnoret hswap hcas h8 ho hf
  have hbody : bodyAtomic (BitVec.ofNat 10 (op * 64 + size * 16 + if ret then 8 else 0)) rd rs1 rs2 s k =
      .done (ownAtomic h s va { op := op, bytes := n, ret := ret } rd (rx s k rs2) (rx s k rd)) := by
    rw [bodyAtomic, atomicFields_spelled hop hsize hnoret hswap hcas h8]
    exact scalarAtomic_own (f := { op := op, bytes := n, ret := ret }) ho
  have hthr : thr (ownAtomic h s va { op := op, bytes := n, ret := ret } rd (rx s k rs2) (rx s k rd)) k = thr s k := rfl
  obtain ⟨m, hm, hcls, hsrc, hdst, hpay⟩ := sendHeld_message s k _ 3 (h.core.toNat / 8) (.atomic home op n (rx s k rs2) (rx s k rd))
  refine ⟨_, m, freeSlot s k, issue_done hr rfl hf 0 hbody rfl, mem_mesh_goesOn _ hm, hcls, hsrc.trans (key_node h), hdst, ?_, ?_, ?_,
    sameRegs_trans (sameRegs_of_thr hthr) (sameRegs_goesOn ..), sameOthers_trans (fun _ _ => rfl) (sameOthers_goesOn _ _ _),
    sameMemory_trans (sendHeld_sameMemory ..) (sameMemory_goesOn ..)⟩
  · rw [hpay, key_div]
  · rw [retire_eq_goesOn, sb_goesOn, ← key_div, ownAtomic, sendHeld_slot]
    rfl
  · rw [retire_thr_self, hthr]

/-- Settles O8: stores by `issue_stores`, atomics by `scalarAtomic_own`. -/
theorem storesAndAtomics : Obligations.StoresAndAtomics := ⟨storeResults, atomicSends⟩

end Sys2Proof.Machine
end

section
/-!
PROOFS. A repeat of ADDK (R79, R80).
-/
namespace Sys2Proof.Machine

/-! ### The bytes of an instruction -/

theorem instrBytes_length {i : Instr} {h : Hart} (hh : i.hart? = some h) (hwf : i.wf = true) : (instrBytes i).length = h.len := by
  obtain ⟨hlong, hshort⟩ := encodingsRoundTrip i h hh hwf
  rw [instrBytes, hh, Hart.len]
  cases hc : h.compact with
  | false =>
    obtain ⟨w, henc, -⟩ := hlong hc
    simp [hc, henc, wordBytes, halfBytes]
  | true =>
    obtain ⟨c, henc, -⟩ := hshort hc
    simp [hc, henc, halfBytes]

/-! ### Iterations -/

/-- From `s` to `t`, thread `k` has run `n` iterations that each add `c` to `rd`, its PC at `p` again. -/
def Ran (k : Nat) (rd : BitVec 5) (p c : W64) (n : Nat) (s t : State) : Prop :=
  rx t k rd = rx s k rd + BitVec.ofNat 64 n * c ∧ (∀ r, r ≠ rd → rx t k r = rx s k r) ∧
    (∃ x, thr t k = { thr s k with
      x := x, pc := p
      sys := { (thr s k).sys with rpc := (thr s k).sys.rpc - BitVec.ofNat 16 n, instret := (thr s k).sys.instret + BitVec.ofNat 64 n } }) ∧
    (∀ d, core t d = { core s d with wrap := (core t d).wrap }) ∧ SameMemory s t ∧ t.gov = s.gov ∧ t.dev = s.dev

section
variable {k : Nat} {rd : BitVec 5} {p c : W64} {m n : Nat} {s t u : State}

theorem ran_refl (hpc : (thr s k).pc = p) : Ran k rd p c 0 s s := by
  subst hpc
  exact ⟨by simp, fun _ _ => rfl, ⟨(thr s k).x, by simp⟩, fun _ => rfl, sameMemory_refl s, rfl, rfl⟩

theorem ran_trans (hst : Ran k rd p c m s t) (htu : Ran k rd p c n t u) : Ran k rd p c (m + n) s u := by
  obtain ⟨hrd, hothers, ⟨x, hthr⟩, hcore, hmem, hgov, hdev⟩ := hst
  obtain ⟨hrd', hothers', ⟨x', hthr'⟩, hcore', hmem', hgov', hdev'⟩ := htu
  refine ⟨?_, fun r hr => (hothers' r hr).trans (hothers r hr), ⟨x', ?_⟩, fun d => ?_, sameMemory_trans hmem hmem', hgov'.trans hgov, hdev'.trans hdev⟩
  · rw [hrd', hrd, BitVec.ofNat_add, BitVec.add_mul, BitVec.add_assoc]
  · rw [hthr', hthr]
    simp [BitVec.ofNat_add, BitVec.add_assoc, sub_sub]
  · rw [hcore', hcore]

theorem canIssue_ran (hr : Ran k rd p c n s t) (htx : (thr s k).tx.depth = 0) : canIssue t k = canIssue s k := by
  obtain ⟨-, -, ⟨x, hthr⟩, hcore, -, hgov, hdev⟩ := hr
  have hheld : held t (k / 64) = held s (k / 64) := by rw [held, heldQuad, dark, hgov, hdev]; rfl
  rw [canIssue, canIssue, hheld, hcore, boundaryWork, boundaryWork, hthr]
  simp [htx]

theorem busyReg_ran (hr : Ran k rd p c n s t) (r : BitVec 5) : busyReg t k r = busyReg s k r := by
  obtain ⟨-, -, -, hcore, -⟩ := hr
  rw [busyReg, hcore, busyReg]

theorem rpc_ran (hr : Ran k rd p c n s t) : (thr t k).sys.rpc = (thr s k).sys.rpc - BitVec.ofNat 16 n := by
  obtain ⟨-, -, ⟨x, hthr⟩, -⟩ := hr
  rw [hthr]

theorem job_ran (hr : Ran k rd p c n s t) : (thr t k).job = (thr s k).job := by
  obtain ⟨-, -, ⟨x, hthr⟩, -⟩ := hr
  rw [hthr]

end

/-! ### One iteration of ADDK -/

section
variable {k : Nat} {rd : BitVec 5} {imm : BitVec 15} {p : W64} {s : State}

/-- The state in which an iteration of ADDK has written its register, the PC at the repeat again. -/
def added (s : State) (k : Nat) (rd : BitVec 5) (imm : BitVec 15) (p : W64) : State :=
  setPc (wx (setPc s k (p + 4)) k rd (rx s k rd + simm imm)) k p

/-- The state after an iteration of ADDK. -/
def iterated (s : State) (k : Nat) (rd : BitVec 5) (imm : BitVec 15) (p : W64) : State :=
  countInstret (modSys (added s k rd imm p) k fun y => { y with rpc := y.rpc - 1 }) k 1

theorem thr_added : ∃ x, thr (added s k rd imm p) k = { thr s k with x := x, pc := p } := by
  refine ⟨(thr (wx (setPc s k (p + 4)) k rd (rx s k rd + simm imm)) k).x, ?_⟩
  rw [added, setPc, thr_modThr_self, thr_wx, setPc, thr_modThr_self]

theorem rx_added (r : BitVec 5) : rx (added s k rd imm p) k r = if r = 0 then 0 else if r = rd then rx s k rd + simm imm else rx s k r := by
  rw [added, rx_modThr_pc, rx_wx, rx_modThr_pc]

theorem thr_iterated : ∃ x, x = (thr (added s k rd imm p) k).x ∧ thr (iterated s k rd imm p) k = { thr s k with
    x := x, pc := p, sys := { (thr s k).sys with rpc := (thr s k).sys.rpc - 1, instret := (thr s k).sys.instret + 1 } } := by
  obtain ⟨x, hx⟩ := thr_added (s := s) (k := k) (rd := rd) (imm := imm) (p := p)
  refine ⟨_, rfl, ?_⟩
  rw [iterated, countInstret_thr_self, modSys, thr_modThr_self, hx]
  rfl

theorem ran_iterated (hrd : rd ≠ 0) : Ran k rd p (BitVec.ofInt 64 imm.toInt) 1 s (iterated s k rd imm p) := by
  obtain ⟨x, hx, hthr⟩ := thr_iterated (s := s) (k := k) (rd := rd) (imm := imm) (p := p)
  have hrx (r : BitVec 5) : rx (iterated s k rd imm p) k r = rx (added s k rd imm p) k r := by rw [rx, hthr, rx, ← hx]
  refine ⟨?_, fun r hr => ?_, ⟨x, hthr⟩, fun d => ?_, ?_, ?_, ?_⟩
  · rw [hrx, rx_added, if_neg hrd, if_pos rfl, simm_eq_ofInt]
    simp
  · rw [hrx, rx_added, if_neg hr]
    split
    · next hzero => rw [hzero, rx_zero]
    · rfl
  · rw [iterated, countInstret_core]
    simp [added]
  · exact sameMemory_trans (sameMemory_of_eq (by simp [added]) (by simp [added]) (by simp [added]) (by simp [added]) (by simp [added])) (sameMemory_countInstret ..)
  · simp [iterated, added]
  · simp [iterated, added]

/-- The follower of a repeat of ADDK (Table 3.12). -/
def addkFollower (rd : BitVec 5) (imm : BitVec 15) : Follower := ⟨0, true, [rd, rd], bodyAddk rd rd imm⟩

theorem backAt_addk : backAt p k (wx (setPc s k (p + 4)) k rd (rx (setPc s k (p + 4)) k rd + simm imm)) = added s k rd imm p := by
  rw [backAt, thr_wx, setPc_pc, if_pos rfl, rx_modThr_pc, added]

theorem repOnce_addk (hjob : (thr s k).job = none) (enc : List Byte) :
    repOnce (addkFollower rd imm) .pass p enc s k =
      (true, if (thr (iterated s k rd imm p) k).sys.rpc = 0 then setPc (iterated s k rd imm p) k (p + BitVec.ofNat 64 enc.length) else iterated s k rd imm p) := by
  have hnone : (thr (added s k rd imm p) k).job = none := by
    obtain ⟨x, hx⟩ := thr_added (s := s) (k := k) (rd := rd) (imm := imm) (p := p)
    rw [hx, hjob]
  have hback : backRes p k ((addkFollower rd imm).body (setPc s k (p + 4)) k) = .done (added s k rd imm p) := congrArg Res.done backAt_addk
  simp only [repOnce, meetChk, hback, dropJob_none hnone]
  rfl

theorem repLoop_ended {f : Follower} {repN : Bool} {enc : List Byte} (fuel : Nat) (chk : Chk) (hrpc : (thr s k).sys.rpc = 0) :
    repLoop f repN p enc k fuel chk s = s := by
  cases fuel with
  | zero => rfl
  | succ fuel => rw [repLoop, if_pos hrpc]

theorem repLoop_step {repN : Bool} {enc : List Byte} (fuel : Nat) (hrpc : (thr s k).sys.rpc ≠ 0) (hjob : (thr s k).job = none)
    (hissue : canIssue s k = true) (hbusy : busyReg s k rd = false) :
    repLoop (addkFollower rd imm) repN p enc k (fuel + 1) .pass s =
      repLoop (addkFollower rd imm) repN p enc k fuel .pass (if (thr (iterated s k rd imm p) k).sys.rpc = 0 then
        setPc (iterated s k rd imm p) k (p + BitVec.ofNat 64 enc.length) else iterated s k rd imm p) := by
  have hgo : ((thr s k).job.isNone && ((!repN && !canIssue s k) || (addkFollower rd imm).regs.any (busyReg s k))) = false := by
    simp [hissue, hbusy, addkFollower]
  rw [repLoop, if_neg hrpc, hgo, repOnce_addk hjob]
  rfl

/-- The loop of a repeat whose count does not exceed what it may run at once (R80). -/
theorem repLoop_addk {repN : Bool} {enc : List Byte} (hrd : rd ≠ 0) (n : Nat) {fuel : Nat} (hfuel : n < fuel) (hrpc : (thr s k).sys.rpc.toNat = n + 1)
    (hjob : (thr s k).job = none) (hissue : canIssue s k = true) (htx : (thr s k).tx.depth = 0) (hbusy : busyReg s k rd = false) :
    ∃ t, Ran k rd p (BitVec.ofInt 64 imm.toInt) (n + 1) s t ∧
      repLoop (addkFollower rd imm) repN p enc k fuel .pass s = setPc t k (p + BitVec.ofNat 64 enc.length) := by
  induction n generalizing fuel s with
  | zero =>
    have hran := ran_iterated (s := s) (k := k) (p := p) (imm := imm) hrd
    have hended : (thr (iterated s k rd imm p) k).sys.rpc = 0 := by
      rw [rpc_ran hran]
      bv_omega
    obtain ⟨fuel, rfl⟩ := Nat.exists_eq_add_of_lt hfuel
    rw [repLoop_step (0 + fuel) (by bv_omega) hjob hissue hbusy, if_pos hended]
    refine ⟨_, hran, repLoop_ended _ _ ?_⟩
    rw [setPc, thr_modThr_self]
    exact hended
  | succ n ih =>
    have hran := ran_iterated (s := s) (k := k) (p := p) (imm := imm) hrd
    have hleft : (thr (iterated s k rd imm p) k).sys.rpc.toNat = n + 1 := by
      rw [rpc_ran hran]
      bv_omega
    obtain ⟨fuel, rfl⟩ := Nat.exists_eq_add_of_lt hfuel
    have htx' : (thr (iterated s k rd imm p) k).tx.depth = 0 := by
      obtain ⟨x, -, hthr⟩ := thr_iterated (s := s) (k := k) (rd := rd) (imm := imm) (p := p)
      rw [hthr, htx]
    obtain ⟨t, ht, hloop⟩ := ih (s := iterated s k rd imm p) (fuel := n + 1 + fuel) (by omega) hleft ((job_ran hran).trans hjob)
      ((canIssue_ran hran htx).trans hissue) htx' ((busyReg_ran hran rd).trans hbusy)
    refine ⟨t, Nat.add_comm 1 (n + 1) ▸ ran_trans hran ht, ?_⟩
    rw [repLoop_step (n + 1 + fuel) (by bv_omega) hjob hissue hbusy, if_neg (by bv_omega), hloop]

end

/-! ### The repeat -/

section
variable {h fh : Hart} {rd : BitVec 5} {imm : BitVec 15} {count : BitVec 16} {s : State} {repN : Bool}

/-- A repeat that stands before its follower runs it. -/
theorem repThread_runs {follower : Instr} (hissue : canIssue s h.key = true) (hjob : (thr s h.key).job = none) (hh : follower.hart? = some fh) (hkey : fh.key = h.key)
    (hrepeat : Stands h (.rep { ni := repN, src := false, z := 0, rs1 := 0, count := count }) (thr s h.key).pc s)
    (hfollower : Stands fh (.instr follower) ((thr s h.key).pc + 4) s) :
    repThread repN h false 0 0 count follower s =
      repRun repN h false 0 0 count follower fh.chk
        (wordBytes (encRep { ni := repN, src := false, z := 0, rs1 := 0, count := count }) ++ instrBytes follower) s h.key := by
  have hk : h.core.toNat * 8 + h.thr.toNat = h.key := rfl
  rw [repThread, hh]
  simp only [hk, hjob, hissue]
  refine (fetched_stands hrepeat (by simp) _).trans ?_
  unfold Stands at hfollower
  rw [hkey] at hfollower
  rw [fetchThen]
  generalize fetchInstr s h.key ((thr s h.key).pc + 4) fh.compact = r at hfollower ⊢
  cases r with
  | bits a b =>
    dsimp only at hfollower ⊢
    rw [hfollower]
    exact if_pos rfl
  | unseen => rfl
  | fault e => exact hfollower.elim
  | wait => exact hfollower.elim
  | ask l p va => exact hfollower.elim

/-- The state in which a repeat has noted its count. -/
def counted (s : State) (k : Nat) (n : Nat) : State := modSys s k fun y => { y with rpc := BitVec.ofNat 16 n }

theorem repRun_addk {k : Nat} {enc : List Byte} (hrpc : (thr s k).sys.rpc = 0) (hbusy : busyReg s k rd = false) :
    repRun repN h false 0 0 count (.addk fh rd rd imm) .pass enc s k =
      if repN = true ∧ 64 < count.toNat then faultAt s k (scalarExn 1 0) (thr s k).pc
      else if count.toNat = 0 then setPc s k ((thr s k).pc + BitVec.ofNat 64 enc.length)
      else repLoop (addkFollower rd imm) repN (thr s k).pc enc k (if repN then 64 else h.slots) .pass (counted s k count.toNat) := by
  have hfollower : followerOf (.addk fh rd rd imm) = some (addkFollower rd imm) := rfl
  have hlegal : followerReserved s k (addkFollower rd imm) = false := rfl
  have hfree : (addkFollower rd imm).regs.any (busyReg s k) = false := by simp [addkFollower, hbusy]
  have hcount : repCount s k repN false 0 count = if repN = true ∧ 64 < count.toNat then none else some count.toNat := by
    have hlt := count.isLt
    cases repN with
    | true => simp [repCount]
    | false => simp [repCount]; omega
  have hpermits : (repN && !(addkFollower rd imm).repN) = false := by simp [addkFollower]
  simp only [repRun, hfollower, hpermits, hlegal, hrpc, hcount]
  by_cases hmany : repN = true ∧ 64 < count.toNat
  · simp [hmany]
  · rw [if_neg hmany, if_neg hmany]
    by_cases hzero : count.toNat = 0
    · simp [hzero]
    · simp [hzero, hfree, counted]

theorem thr_counted (s : State) (k n : Nat) : thr (counted s k n) k = { thr s k with sys := { (thr s k).sys with rpc := BitVec.ofNat 16 n } } := by
  rw [counted, modSys, thr_modThr_self]

/-- What the state behind a repeat that adds `c` to `rd` holds, the PC at `q`. -/
def Ended (k : Nat) (rd : BitVec 5) (c q : W64) (n : Nat) (s t : State) : Prop :=
  rx t k rd = rx s k rd + BitVec.ofNat 64 n * c ∧ (thr t k).pc = q ∧ (thr t k).sys.rpc = 0 ∧
    (thr t k).sys.instret = (thr s k).sys.instret + BitVec.ofNat 64 n ∧ (∀ r, r ≠ rd → rx t k r = rx s k r) ∧ SameMemory s t

theorem ended_setPc {k n : Nat} {p c : W64} {t : State} (q : W64) (hrpc : (thr s k).sys.rpc = BitVec.ofNat 16 n) (hran : Ran k rd p c n s t) :
    Ended k rd c q n s (setPc t k q) := by
  obtain ⟨hrd, hothers, ⟨x, hthr⟩, -, hmem, -⟩ := hran
  refine ⟨(rx_modThr_pc ..).trans hrd, setPc_pc .., ?_, ?_, fun r hr => (rx_modThr_pc ..).trans (hothers r hr),
    sameMemory_trans hmem (sameMemory_of_eq rfl rfl rfl rfl rfl)⟩
  · rw [setPc, thr_modThr_self, hthr, hrpc, BitVec.sub_self]
    rfl
  · rw [setPc, thr_modThr_self, hthr]

theorem ended_counted {k n : Nat} {c q : W64} {t : State} (he : Ended k rd c q n (counted s k n) t) : Ended k rd c q n s t := by
  obtain ⟨hrd, hpc, hrpc, hinstret, hothers, hmem⟩ := he
  have hrx (r : BitVec 5) : rx (counted s k n) k r = rx s k r := by rw [rx, thr_counted, rx]
  exact ⟨by rw [hrd, hrx], hpc, hrpc, by rw [hinstret, thr_counted], fun r hr => (hothers r hr).trans (hrx r),
    sameMemory_trans (sameMemory_of_eq rfl rfl rfl rfl rfl) hmem⟩

/-- A repeat whose count may run at once ends behind its follower (R80). -/
theorem repRun_ended {k : Nat} {enc : List Byte} (hrd : rd ≠ 0) (hrpc : (thr s k).sys.rpc = 0) (hbusy : busyReg s k rd = false) (hjob : (thr s k).job = none)
    (hissue : canIssue s k = true) (htx : (thr s k).tx.depth = 0) (hfit : count.toNat ≤ if repN then 64 else h.slots) :
    Ended k rd (BitVec.ofInt 64 imm.toInt) ((thr s k).pc + BitVec.ofNat 64 enc.length) count.toNat s
      (repRun repN h false 0 0 count (.addk fh rd rd imm) .pass enc s k) := by
  have hfew : ¬ (repN = true ∧ 64 < count.toNat) := by
    rintro ⟨rfl, hmany⟩
    exact absurd hfit (by simpa using hmany)
  rw [repRun_addk hrpc hbusy, if_neg hfew]
  split
  · next hzero =>
    rw [hzero]
    exact ended_setPc _ hrpc (ran_refl rfl)
  · next hnz =>
    have hthr := thr_counted s k count.toNat
    have hnoted : (thr (counted s k count.toNat) k).sys.rpc.toNat = count.toNat - 1 + 1 := by
      rw [hthr, BitVec.ofNat_toNat, BitVec.setWidth_eq]
      dsimp only
      omega
    have hissue' : canIssue (counted s k count.toNat) k = true := by
      rw [← hissue, canIssue, canIssue, boundaryWork, boundaryWork, hthr]
      simp [htx, counted]
    have hfuel : count.toNat - 1 < if repN then 64 else h.slots := by omega
    obtain ⟨t, hran, hloop⟩ := repLoop_addk (p := (thr s k).pc) (imm := imm) (enc := enc) hrd _ hfuel hnoted (by rw [hthr, hjob]) hissue'
      (by rw [hthr, htx]) (by simpa [busyReg, counted] using hbusy)
    rw [hloop]
    rw [Nat.sub_add_cancel (by omega)] at hran
    exact ended_counted (ended_setPc _ (by rw [hthr]) hran)

end

/-- Settles O11: the iterations by `repRun_ended`, a count that REP.N refuses by `repRun_addk`. -/
theorem repeatRuns : Obligations.RepeatRuns := by
  intro h fh rd imm count s hr hcore hthr hpass hrd hwf hfollower hrpc htx k stands runs
  obtain ⟨hexists, hissue, hjob, hregs, -⟩ := hr
  have hbusy := hregs rd (by simp)
  have hkey : fh.key = h.key := by rw [Hart.key, hcore, hthr, Hart.key]
  have hlen (f : RepFields) : (wordBytes (encRep f) ++ instrBytes (.addk fh rd rd imm)).length = 4 + fh.len := by
    rw [List.length_append, instrBytes_length rfl hwf]
    rfl
  have begins {ni : Bool} (hs : stands ni) := repThread_runs hissue hjob rfl hkey hs hfollower
  have ends {ni : Bool} (hs : stands ni) (hfit : count.toNat ≤ if ni then 64 else h.slots) :
      Ended k rd (BitVec.ofInt 64 imm.toInt) ((thr s k).pc + 4 + BitVec.ofNat 64 fh.len) count.toNat s
        (repThread ni h false 0 0 count (.addk fh rd rd imm) s) := by
    have hended := repRun_ended (fh := fh) (imm := imm) (enc := wordBytes (encRep { ni := ni, src := false, z := 0, rs1 := 0, count := count }) ++
      instrBytes (.addk fh rd rd imm)) hrd hrpc hbusy hjob hissue htx hfit
    rw [hlen, BitVec.ofNat_add, ← BitVec.add_assoc] at hended
    rw [begins hs, hpass]
    exact hended
  refine ⟨fun hfit hs => ?repN, fun hfit hs => ?repI, fun hmany hs => ?refused⟩
  case repN =>
    obtain ⟨hrd', hpc, hrpc', hinstret, hothers, hmem⟩ := ends hs hfit
    exact ⟨_, congrArg Host.Outcome.next (if_pos hexists), hrd', hpc, hrpc', hinstret, hothers, hmem⟩
  case repI =>
    obtain ⟨hrd', hpc, hrpc', hinstret, hothers, hmem⟩ := ends hs hfit
    exact ⟨_, congrArg Host.Outcome.next (if_pos hexists), hrd', hpc, hrpc', hinstret, hothers, hmem⟩
  case refused =>
    refine congrArg Host.Outcome.next ((if_pos hexists).trans ?_)
    rw [begins hs, hpass, repRun_addk hrpc hbusy, if_pos ⟨rfl, hmany⟩]

end Sys2Proof.Machine
end

section
/-!
PROOFS. The system registers (R72, R75 to R77, Table 3.9).
-/
namespace Sys2Proof.Machine

/-! ### Reading -/

section
variable {h : Hart} {rd rs1 : BitVec 5} {s : State}

/-- x0 is never busy, so an instruction that also names it is as ready. -/
theorem ready_cons_zero (hr : Ready h [rd] s) : Ready h [rd, 0] s := by
  obtain ⟨hcore, hissue, hjob, hregs, hchk⟩ := hr
  refine ⟨hcore, hissue, hjob, fun r hmem => ?_, hchk⟩
  obtain rfl | hmem := List.mem_cons.1 hmem
  · exact hregs r (by simp)
  · obtain rfl := List.mem_singleton.1 hmem
    rfl

theorem ready_zero_cons (hr : Ready h [rs1] s) : Ready h [0, rs1] s := ready_mono (ready_cons_zero hr) (by simp)

theorem toNat_ofNat_sr {n : Nat} (hn : n < 4096) : (BitVec.ofNat 12 n).toNat = n := (BitVec.toNat_ofNat ..).trans (Nat.mod_eq_of_lt hn)

theorem srFault_none {k : Nat} {sr : BitVec 12} {v : W64} {write : Bool} (hread : readSr s k sr.toNat = some v) (hlevel : sr.toNat / 1024 ≤ lvlOf s k)
    (hwrite : (write && bit sr.toNat 9) = false) : srFault s k sr write = none := by
  rw [srFault, hread, if_neg (by simp), if_neg (by omega), hwrite]
  rfl

/-- SRD writes the register's value to rd (R72). -/
theorem exec_srd {n : Nat} {v : W64} (hr : Ready h [rd] s) (hn : n < 4096) (hread : readSr s h.key n = some v) (hlevel : n / 1024 ≤ (thr s h.key).sys.priv.toNat)
    (hf : Fetches (.srd h rd 0 (BitVec.ofNat 12 n)) s) :
    exec (.srd h rd 0 (BitVec.ofNat 12 n)) s = .next (retire (wx s h.key rd v) h.key h.len) := by
  have hn' := toNat_ofNat_sr hn
  refine issue_writes (ready_cons_zero hr) rfl hf 0 ?_
  rw [bodySrd, if_neg (by simp), srFault_none (v := v) (by rw [hn', hread]) (by rw [hn']; exact hlevel) rfl, hn', hread]
  rfl

end

section
variable {s : State} {h : Hart}

theorem key_mod (h : Hart) : h.key % 8 = h.thr.toNat := by
  have := h.thr.isLt
  rw [Hart.key]
  omega

theorem indexOf_first {l : List Nat} {a n : Nat} (hget : l[n]? = some a) (hfirst : ∀ i, i < n → l[i]? ≠ some a) : indexOf l a = some n := by
  induction l generalizing n with
  | nil => simp at hget
  | cons b l ih =>
    cases n with
    | zero =>
      obtain rfl : b = a := by simpa using hget
      exact if_pos rfl
    | succ n =>
      have hne : b ≠ a := by simpa using hfirst 0 (by omega)
      rw [indexOf, if_neg hne, ih (by simpa using hget) fun i hi => by simpa using hfirst (i + 1) (by omega)]
      rfl

theorem ofNat_toNat_64 {n : Nat} (x : BitVec n) : BitVec.ofNat 64 x.toNat = x.setWidth 64 := BitVec.ofNat_toNat ..

theorem threadId_word {mode f : Nat} (hm : (core s h.core.toNat).mode = mode) (hf : tmodeField mode = f) :
    BitVec.ofNat 64 (threadIdWord s h.key) = h.thr.setWidth 64 + BitVec.ofNat 64 (f * 16) := by
  rw [threadIdWord, key_div, key_mod, hm, hf, BitVec.ofNat_add, ofNat_toNat_64]
  rfl

theorem shiftLeft_ofNat {n : Nat} (x : BitVec n) (j : Nat) : x.setWidth 64 <<< j = BitVec.ofNat 64 (x.toNat * 2 ^ j) := by
  rw [shiftLeft_eq_ofNat, BitVec.ofNat_mul, BitVec.ofNat_mul, BitVec.ofNat_toNat, BitVec.setWidth_setWidth_of_le _ (by omega), ofNat_toNat_64]

theorem b2n_word (b : Bool) (n : Nat) : BitVec.ofNat 64 (b2n b * n) = if b then BitVec.ofNat 64 n else 0 := by
  cases b
  · rw [b2n, if_neg (by decide), Nat.zero_mul]
    rfl
  · rw [b2n, if_pos rfl, Nat.one_mul]
    rfl

theorem pacerCal_word (n : Nat) : BitVec.ofNat 64 (pacerCalWord s n) =
    (node s n).period.setWidth 64 + (node s n).calSeq.setWidth 64 <<< 48 + (if (node s n).calValid then 0x8000000000000000 else 0) := by
  rw [pacerCalWord, BitVec.ofNat_add, BitVec.ofNat_add, ofNat_toNat_64, ← shiftLeft_ofNat, b2n_word]
  rfl

theorem status_word : statusWord s h.key = (thr s h.key).sys.priv.setWidth 64 + (thr s h.key).sys.mask.setWidth 64 <<< 4 +
    (if (core s h.core.toNat).mode = 2 then 0x100 else if (core s h.core.toNat).mode = 4 then 0x200 else if (core s h.core.toNat).mode = 8 then 0x300 else 0) +
    (if (thr s h.key).sys.bks then 0x1000 else 0) := by
  rw [statusWord, key_div, BitVec.ofNat_add, BitVec.ofNat_add, BitVec.ofNat_add, ofNat_toNat_64, ← shiftLeft_ofNat, b2n_word]
  congr 2
  rw [tmodeField]
  split_ifs <;> rfl

theorem entryLevel_word (y : SysRegs) : entryLevel y =
    BitVec.ofNat 64 y.depth + y.recs.setWidth 64 <<< 8 + y.bkLevel.setWidth 64 <<< 24 + (if y.bkRec then 0x4000000 else 0) := by
  rw [entryLevel, BitVec.ofNat_add, BitVec.ofNat_add, BitVec.ofNat_add, ← shiftLeft_ofNat, ← shiftLeft_ofNat, b2n_word]
  rfl

end

theorem systemRegisterReads : Claims.SystemRegisterReads := by
  intro h rd s hr k y m reads
  have gives {n : Nat} {v : W64} (hn : n < 4096) (hread : readSr s k n = some v) : reads n v := exec_srd hr hn hread
  have hcore : k / 8 = h.core.toNat := key_div h
  have hnode : k / 64 = h.core.toNat / 8 := key_node h
  have thread {mode : Nat} (f : Nat) (hf : tmodeField mode = f) (hm : m = mode) : reads 0x20A (h.thr.setWidth 64 + BitVec.ofNat 64 (f * 16)) :=
    gives (by decide) (congrArg some (threadId_word hm hf))
  refine ⟨gives (by decide) rfl, gives (by decide) rfl, gives (by decide) rfl, gives (by decide) rfl, gives (by decide) rfl, gives (by decide) rfl,
    gives (by decide) rfl, gives (by decide) rfl, gives (by decide) rfl, ?inContext, ?coreId, ?noLogical, ?logical, thread 1 rfl, thread 2 rfl, thread 3 rfl, ?pacer, ?cal,
    gives (by decide) rfl, gives (by decide) rfl, gives (by decide) rfl, gives (by decide) rfl, gives (by decide) (congrArg some status_word),
    gives (by decide) rfl, gives (by decide) rfl, gives (by decide) rfl, gives (by decide) rfl, ?tpend, gives (by decide) rfl, gives (by decide) rfl,
    gives (by decide) rfl, gives (by decide) (congrArg some (entryLevel_word y))⟩
  case inContext =>
    intro c x hc hx
    have hvirt : curVirt s k = x.virt := by rw [curVirt, hc, Option.bind_some, hx]
    refine ⟨gives (by decide) (congrArg some ?_), gives (by decide) (congrArg some ?_)⟩
    · rw [featWord, hvirt]
      split <;> rfl
    · rw [hc, Option.getD_some]
  case coreId => exact gives (by decide) (congrArg some (by rw [hcore, ofNat_toNat_64]))
  case noLogical => exact fun hc => gives (by decide) (congrArg some (by rw [hc]; rfl))
  case logical =>
    intro c x n hc hx hget hfirst hgood
    refine gives (by decide) (congrArg some ?_)
    have hctx : (core s h.core.toNat).ctx = some c := by rw [← hcore]; exact hc
    have hlogical : logicalOf s c (k / 8) = n := by
      rw [logicalOf, hx, hcore]
      dsimp only
      rw [indexOf_first hget hfirst, hgood, hctx]
      simp
    rw [hc, ← hlogical]
  case pacer => exact gives (by decide) (congrArg some (by rw [pacerOf, hnode, ofNat_toNat_64, BitVec.setWidth_eq]))
  case cal => exact gives (by decide) (congrArg some (by rw [hnode, pacerCal_word]))
  case tpend => exact gives (by decide) (congrArg some (by rw [hcore]))

/-! ### Writing -/

section
variable {s : State} {k n : Nat} {op : SrOp} {old v w : W64}

/-- The numbers of the registers that take writes (Table 3.9). -/
def writable : List Nat := [0x000, 0x001, 0x400, 0x401, 0x402, 0x403, 0x404, 0x405, 0x406, 0x800, 0x801, 0x802]

theorem writable_bounds (hn : n ∈ writable) : n < 4096 ∧ bit n 9 = false := by
  revert n
  decide

/-- A system register that takes writes depends on the thread's system registers but INSTRET, and on its core but the WRAP bits. -/
theorem readSr_congr {t : State} (hn : n ∈ writable) (hsys : { (thr t k).sys with instret := 0 } = { (thr s k).sys with instret := 0 })
    (hcore : core t (k / 8) = { core s (k / 8) with wrap := (core t (k / 8)).wrap }) : readSr t k n = readSr s k n := by
  have hpriv : (thr t k).sys.priv = (thr s k).sys.priv := (congrArg (fun y => y.priv) hsys :)
  have hmask : (thr t k).sys.mask = (thr s k).sys.mask := (congrArg (fun y => y.mask) hsys :)
  have hbks : (thr t k).sys.bks = (thr s k).sys.bks := (congrArg (fun y => y.bks) hsys :)
  simp only [writable, List.mem_cons, List.not_mem_nil, or_false] at hn
  obtain rfl | rfl | rfl | rfl | rfl | rfl | rfl | rfl | rfl | rfl | rfl | rfl := hn
  · exact congrArg (fun y => some y.tp) hsys
  · exact congrArg (fun y => some y.vprog) hsys
  · exact congrArg (fun y => some (y.rpc.setWidth 64)) hsys
  · refine congrArg some ?_
    rw [statusWord, statusWord, hcore, hpriv, hmask, hbks]
  · exact congrArg (fun y => some y.cause) hsys
  · exact congrArg (fun y => some y.faddr) hsys
  · exact congrArg (fun y => some (y.vbase0 &&& 0xFFFFFFFFFFFFF000)) hsys
  · exact congrArg (fun y => some y.precision) hsys
  · exact (congrArg (fun c => some (c.tpend.setWidth 64)) hcore :)
  · exact congrArg (fun y => some (y.vbase1 &&& 0xFFFFFFFFFFFFF000)) hsys
  · exact congrArg (fun y => some (y.vbase2 &&& 0xFFFFFFFFFFFFF000)) hsys
  · exact congrArg (fun y => some y.backstopSp) hsys

/-- A write of a system register changes nothing of the thread but its system registers. -/
theorem thr_writeSr : ∃ y, thr (writeSr s k n op old v) k = { thr s k with sys := y } := by
  unfold writeSr
  split
  case h_9 | h_13 => exact ⟨(thr s k).sys, rfl⟩
  all_goals exact ⟨_, thr_modThr_self ..⟩

end

section
variable {h : Hart} {i : Instr} {regs : List (BitVec 5)} {rd rs1 : BitVec 5} {n : Nat} {op : SrOp} {old w : W64} {s : State}

/-- A write from a level that may write: the register's new value, the old one in rd, and nothing else of the x registers. -/
theorem issue_srWrite (hr : Ready h regs s) (hh : i.hart? = some h) (hop : op = .swr → rd = 0) (hn : n ∈ writable) (hold : readSr s h.key n = some old)
    (hlevel : n / 1024 ≤ (thr s h.key).sys.priv.toNat) (hw : readSr (writeSr s h.key n op old (rx s h.key rs1)) h.key n = some w) (hf : Fetches i s) :
    ∃ t, issue h i 0 regs (bodySrWrite op rd rs1 (BitVec.ofNat 12 n)) s = .next t ∧ readSr t h.key n = some w ∧
      rx t h.key rd = (if rd = 0 then 0 else old) ∧ (thr t h.key).pc = (thr s h.key).pc + BitVec.ofNat 64 h.len ∧
      ∀ q, q ≠ rd → rx t h.key q = rx s h.key q := by
  obtain ⟨hlt, hbit⟩ := writable_bounds hn
  have hn' := toNat_ofNat_sr hlt
  have hbody : bodySrWrite op rd rs1 (BitVec.ofNat 12 n) s h.key = .done (wx (writeSr s h.key n op old (rx s h.key rs1)) h.key rd old) := by
    rw [bodySrWrite, if_neg (by tauto), srFault_none (v := old) (by rw [hn', hold]) (by rw [hn']; exact hlevel) (by rw [hn', hbit]; rfl), hn', hold]
    rfl
  obtain ⟨y, hthr⟩ := thr_writeSr (s := s) (k := h.key) (n := n) (op := op) (old := old) (v := rx s h.key rs1)
  generalize writeSr s h.key n op old (rx s h.key rs1) = u at hbody hw hthr
  have hrx (q : BitVec 5) : rx u h.key q = rx s h.key q := by rw [rx, hthr, rx]
  refine ⟨_, issue_done hr hh hf 0 hbody ((job_wx ..).trans (by rw [hthr])), ?_, ?_, ?_, fun q hq => ?_⟩
  · rw [← hw]
    refine readSr_congr hn ?_ ?_
    · rw [retire_thr_self, thr_wx]
    · rw [retire_core, core_wx]
  · rw [rx_retire, rx_wx]
    simp
  · rw [retire_thr_self, thr_wx, hthr]
  · rw [rx_retire, rx_wx, if_neg hq, hrx]
    split
    · next hzero => rw [hzero, rx_zero]
    · rfl

end

/-! ### The new values -/

section
variable {s : State} {k : Nat} {op : SrOp} {old v : W64}

theorem thr_modSys (s : State) (k : Nat) (f : SysRegs → SysRegs) : (thr (modSys s k f) k).sys = f (thr s k).sys := by rw [modSys, thr_modThr_self]

/-- The fields of STATUS but MASK (Table 4.3). -/
def statusRest (priv mode : BitVec 2) (bks : Bool) : W64 := BitVec.ofNat 64 (priv.toNat + mode.toNat * 2 ^ 8 + b2n bks * 2 ^ 12)

/-- MASK is apart from every other field of STATUS (Table 4.3). -/
theorem status_split : ∀ (priv mode : BitVec 2) (bks : Bool), statusRest priv mode bks &&& 0x30 = 0 ∧ ∀ mask : BitVec 2,
    BitVec.ofNat 64 (priv.toNat + mask.toNat * 2 ^ 4 + mode.toNat * 2 ^ 8 + b2n bks * 2 ^ 12) = statusRest priv mode bks ||| mask.setWidth 64 <<< 4 ∧
      mask.setWidth 64 <<< 4 &&& (0x30 : W64) = mask.setWidth 64 <<< 4 := by
  decide

theorem mask_field (x : W64) : (x.extractLsb' 4 2).setWidth 64 <<< 4 = x &&& 0x30 := by
  have hfield : ∀ i : Fin 64, (0x30 : W64).getLsbD i = (decide (4 ≤ i.val) && decide (i.val < 6)) := by decide
  refine BitVec.eq_of_getLsbD_eq fun i hi => ?_
  rw [BitVec.getLsbD_and, hfield ⟨i, hi⟩]
  by_cases h4 : 4 ≤ i
  · by_cases h6 : i < 6
    · have hin : i - 4 < 2 := by omega
      have hplace : 4 + (i - 4) = i := by omega
      simp [hi, h4, h6, hin, hplace]
    · have hout : ¬ i - 4 < 2 := by omega
      simp [h6, hout]
  · have hlow : i < 4 := by omega
    simp [h4, hlow]

/-- A field under the mask `c` that takes the new value of a write: what SWR, SRS and SRC make of the whole register. -/
theorem field_write (r m v c : W64) (hr : r &&& c = 0) (hm : m &&& c = m) :
    r ||| (v &&& c) = ((r ||| m) &&& ~~~ c) ||| (v &&& c) ∧ r ||| (((r ||| m) ||| v) &&& c) = (r ||| m) ||| (v &&& c) ∧
      r ||| (((r ||| m) &&& ~~~ v) &&& c) = (r ||| m) &&& ~~~ (v &&& c) := by
  have bitwise : ∀ r m v c : Bool, (r && c) = false → (m && c) = m →
      (r || (v && c)) = ((r || m) && !c || (v && c)) ∧ (r || ((r || m || v) && c)) = (r || m || (v && c)) ∧
        (r || ((r || m) && !v && c)) = ((r || m) && !(v && c)) := by decide
  have bits (i : Nat) (hi : i < 64) := bitwise (r.getLsbD i) (m.getLsbD i) (v.getLsbD i) (c.getLsbD i)
    (by rw [← BitVec.getLsbD_and, hr]; exact BitVec.getLsbD_zero) (by rw [← BitVec.getLsbD_and, hm])
  refine ⟨BitVec.eq_of_getLsbD_eq fun i hi => ?_, BitVec.eq_of_getLsbD_eq fun i hi => ?_, BitVec.eq_of_getLsbD_eq fun i hi => ?_⟩
  · simpa [hi] using (bits i hi).1
  · simpa [hi] using (bits i hi).2.1
  · simpa [hi] using (bits i hi).2.2

theorem tpend_write (x : BitVec 8) (v : W64) : (x &&& ~~~ (v.setWidth 8)).setWidth 64 = x.setWidth 64 &&& ~~~ v := by
  refine BitVec.eq_of_getLsbD_eq fun i hi => ?_
  by_cases h8 : i < 8
  · simp [h8, hi]
  · simp [h8, BitVec.getLsbD_of_ge x i (by omega)]

end

/-! ### What each register reads as after a write -/

section
variable {s : State} {k : Nat} {op : SrOp} {old v : W64}

/-- A register that is a function `g` of the thread's system registers reads as what the write `f` made of them. -/
theorem readSr_of_field {n : Nat} {w : W64} (f : SysRegs → SysRegs) (g : SysRegs → W64) (hwrite : writeSr s k n op old v = modSys s k f)
    (hread : readSr (modSys s k f) k n = some (g (thr (modSys s k f) k).sys)) (hw : g (f (thr s k).sys) = w) : readSr (writeSr s k n op old v) k n = some w := by
  rw [hwrite, hread, thr_modSys, hw]

theorem and_mask_twice (x c : W64) : x &&& c &&& c = x &&& c := by rw [BitVec.and_assoc, BitVec.and_self]

theorem rpc_field (x : W64) : (x.setWidth 16).setWidth 64 = x &&& 0xFFFF := by
  have hfield : ∀ i : Fin 64, (0xFFFF : W64).getLsbD i = decide (i.val < 16) := by decide
  refine BitVec.eq_of_getLsbD_eq fun i hi => ?_
  rw [BitVec.getLsbD_and, hfield ⟨i, hi⟩]
  simp [hi, Bool.and_comm]

/-- The registers whose every field takes the written value, and their fields (Table 3.9). -/
def plainRegs : List (Nat × W64) :=
  [(0x000, BitVec.allOnes 64), (0x001, BitVec.allOnes 64), (0x400, 0xFFFF), (0x402, 0x0000FFFFFFFFFFFF), (0x403, BitVec.allOnes 64),
    (0x404, 0xFFFFFFFFFFFFF000), (0x800, 0xFFFFFFFFFFFFF000), (0x801, 0xFFFFFFFFFFFFF000), (0x802, BitVec.allOnes 64)]

theorem readSr_writeSr_plain {n : Nat} {mask : W64} (hn : (n, mask) ∈ plainRegs) :
    readSr (writeSr s k n op old v) k n = some (srNew op old v &&& mask) := by
  simp only [plainRegs, List.mem_cons, List.not_mem_nil, or_false, Prod.mk.injEq] at hn
  obtain ⟨rfl, rfl⟩ | ⟨rfl, rfl⟩ | ⟨rfl, rfl⟩ | ⟨rfl, rfl⟩ | ⟨rfl, rfl⟩ | ⟨rfl, rfl⟩ | ⟨rfl, rfl⟩ | ⟨rfl, rfl⟩ | ⟨rfl, rfl⟩ := hn
  · exact readSr_of_field (fun y => { y with tp := srNew op old v }) (·.tp) rfl rfl BitVec.and_allOnes.symm
  · exact readSr_of_field (fun y => { y with vprog := srNew op old v }) (·.vprog) rfl rfl BitVec.and_allOnes.symm
  · exact readSr_of_field (fun y => { y with rpc := (srNew op old v).setWidth 16 }) (·.rpc.setWidth 64) rfl rfl (rpc_field _)
  · exact readSr_of_field (fun y => { y with cause := srNew op old v &&& 0x0000FFFFFFFFFFFF }) (·.cause) rfl rfl rfl
  · exact readSr_of_field (fun y => { y with faddr := srNew op old v }) (·.faddr) rfl rfl BitVec.and_allOnes.symm
  · exact readSr_of_field (fun y => { y with vbase0 := srNew op old v &&& 0xFFFFFFFFFFFFF000 }) (·.vbase0 &&& 0xFFFFFFFFFFFFF000) rfl rfl (and_mask_twice ..)
  · exact readSr_of_field (fun y => { y with vbase1 := srNew op old v &&& 0xFFFFFFFFFFFFF000 }) (·.vbase1 &&& 0xFFFFFFFFFFFFF000) rfl rfl (and_mask_twice ..)
  · exact readSr_of_field (fun y => { y with vbase2 := srNew op old v &&& 0xFFFFFFFFFFFFF000 }) (·.vbase2 &&& 0xFFFFFFFFFFFFF000) rfl rfl (and_mask_twice ..)
  · exact readSr_of_field (fun y => { y with backstopSp := srNew op old v }) (·.backstopSp) rfl rfl BitVec.and_allOnes.symm

/-- STATUS takes a write in MASK alone. -/
def statusNew (v : W64) : SrOp → W64 → W64
  | .swr, old => (old &&& ~~~ 0x30) ||| (v &&& 0x30)
  | .srs, old => old ||| (v &&& 0x30)
  | .src, old => old &&& ~~~ (v &&& 0x30)

theorem tmodeField_lt (n : Nat) : tmodeField n < 4 := by
  rw [tmodeField]
  split_ifs <;> decide

/-- STATUS as its MASK and the other fields. -/
theorem statusWord_eq (s : State) (k : Nat) : statusWord s k =
    statusRest (thr s k).sys.priv (BitVec.ofNat 2 (tmodeField (core s (k / 8)).mode)) (thr s k).sys.bks ||| (thr s k).sys.mask.setWidth 64 <<< 4 := by
  rw [← ((status_split ..).2 _).1, BitVec.toNat_ofNat, Nat.mod_eq_of_lt (tmodeField_lt _), statusWord]

theorem readSr_writeSr_status (hold : readSr s k 0x401 = some old) : readSr (writeSr s k 0x401 op old v) k 0x401 = some (statusNew v op old) := by
  have hword : statusWord s k = old := Option.some.inj hold
  have hwritten : readSr (writeSr s k 0x401 op old v) k 0x401 = some (statusRest (thr s k).sys.priv (BitVec.ofNat 2 (tmodeField (core s (k / 8)).mode))
      (thr s k).sys.bks ||| (srNew op old v &&& 0x30)) := by
    refine congrArg some ((statusWord_eq ..).trans ?_)
    rw [← mask_field]
    simp only [writeSr, thr_modSys, core_modSys]
  obtain ⟨hrest, hmask⟩ := status_split (thr s k).sys.priv (BitVec.ofNat 2 (tmodeField (core s (k / 8)).mode)) (thr s k).sys.bks
  obtain ⟨hswr, hsrs, hsrc⟩ := field_write _ _ v _ hrest (hmask (thr s k).sys.mask).2
  rw [statusWord_eq] at hword
  rw [hword] at hswr hsrs hsrc
  rw [hwritten]
  cases op with
  | swr => exact congrArg some hswr
  | srs => exact congrArg some hsrs
  | src => exact congrArg some hsrc

theorem srClear_srs (x v : W64) : x &&& ~~~ srClear .srs v = x := by
  rw [srClear, if_pos rfl]
  exact BitVec.and_allOnes

/-- PRECISION takes a write but in its sticky bit, which a 1 clears (Table 7.9). -/
def precisionNew (v : W64) : SrOp → W64 → W64
  | .swr, old => (v &&& 0x00000002FFFFFFFF) ||| (old &&& 0x0000000100000000 &&& ~~~ v)
  | .srs, old => ((old ||| v) &&& 0x00000002FFFFFFFF) ||| (old &&& 0x0000000100000000)
  | .src, old => ((old &&& ~~~ v) &&& 0x00000002FFFFFFFF) ||| (old &&& 0x0000000100000000 &&& ~~~ v)

theorem readSr_writeSr_precision (hold : readSr s k 0x405 = some old) : readSr (writeSr s k 0x405 op old v) k 0x405 = some (precisionNew v op old) := by
  have hword : (thr s k).sys.precision = old := Option.some.inj hold
  refine readSr_of_field (fun y => { y with precision := (srNew op old v &&& 0x00000002FFFFFFFF) ||| (y.precision &&& 0x0000000100000000 &&& ~~~ srClear op v) })
    (·.precision) rfl rfl ?_
  dsimp only
  rw [hword]
  cases op with
  | swr => rfl
  | src => rfl
  | srs => rw [srClear_srs]; rfl

/-- The pending interrupts are cleared by the 1s of SWR and SRC (Table 4.5). -/
def tpendNew (v : W64) : SrOp → W64 → W64
  | .swr, old => old &&& ~~~ v
  | .srs, old => old
  | .src, old => old &&& ~~~ v

theorem readSr_writeSr_tpend (hold : readSr s k 0x406 = some old) : readSr (writeSr s k 0x406 op old v) k 0x406 = some (tpendNew v op old) := by
  have hword : (core s (k / 8)).tpend.setWidth 64 = old := Option.some.inj hold
  have hwritten : readSr (writeSr s k 0x406 op old v) k 0x406 = some (((core s (k / 8)).tpend &&& ~~~ ((srClear op v).setWidth 8)).setWidth 64) :=
    congrArg (fun c : Core => some (c.tpend.setWidth 64)) (core_modCore_self s (k / 8) _)
  rw [hwritten, tpend_write, hword]
  cases op with
  | swr => rfl
  | src => rfl
  | srs => rw [srClear_srs]; rfl

end

theorem systemRegisterWrites : Claims.SystemRegisterWrites := by
  intro h rd rs1 s hr k v writes acts plain sticky
  have writes_of {op : SrOp} {i : Instr} {dest : BitVec 5} {regs : List (BitVec 5)} {n : Nat} {old w : W64} (hr : Ready h regs s) (hh : i.hart? = some h)
      (he : exec i s = issue h i 0 regs (bodySrWrite op dest rs1 (BitVec.ofNat 12 n)) s) (hop : op = .swr → dest = 0) (hn : n ∈ writable)
      (hold : readSr s k n = some old) (hlevel : n / 1024 ≤ (thr s k).sys.priv.toNat) (hw : readSr (writeSr s k n op old v) k n = some w) :
      writes i n w dest old := fun hf => he ▸ issue_srWrite hr hh hop hn hold hlevel hw hf
  have acts_of {n : Nat} {new : SrOp → W64 → W64} (hn : n ∈ writable)
      (hnew : ∀ op old, readSr s k n = some old → readSr (writeSr s k n op old v) k n = some (new op old)) : acts n (new .swr) (new .srs) (new .src) := by
    intro old hold hlevel
    have hswr : writes (.swr h 0 rs1 (BitVec.ofNat 12 n)) n (new .swr old) 0 old :=
      writes_of (op := .swr) (ready_zero_cons (ready_mono hr (by simp))) rfl rfl (fun _ => rfl) hn hold hlevel (hnew _ _ hold)
    refine ⟨fun hf => ?swr, ?srs, ?src⟩
    case swr =>
      obtain ⟨t, ht, hread, -, hpc, hothers⟩ := hswr hf
      exact ⟨t, ht, hread, rfl, hpc, hothers⟩
    case srs => exact writes_of (op := .srs) hr rfl rfl nofun hn hold hlevel (hnew _ _ hold)
    case src => exact writes_of (op := .src) hr rfl rfl nofun hn hold hlevel (hnew _ _ hold)
  have plain_of {n : Nat} {mask : W64} (hn : n ∈ writable) (hnew : ∀ op old, readSr (writeSr s k n op old v) k n = some (srNew op old v &&& mask)) :
      plain n mask := acts_of (new := fun op old => srNew op old v &&& mask) hn fun op old _ => hnew op old
  refine ⟨?tp, ?vprog, ?rpc, ?cause, ?faddr, ?vbase0, ?vbase1, ?vbase2, ?backstopSp, ?status, ?precision, ?tpend⟩
  case tp | vprog | rpc | cause | faddr | vbase0 | vbase1 | vbase2 | backstopSp => exact plain_of (by decide) fun _ _ => readSr_writeSr_plain (by decide)
  case status => exact acts_of (new := statusNew v) (by decide) fun _ _ => readSr_writeSr_status
  case precision => exact acts_of (new := precisionNew v) (by decide) fun _ _ => readSr_writeSr_precision
  case tpend => exact acts_of (new := tpendNew v) (by decide) fun _ _ => readSr_writeSr_tpend

/-! ### The accesses that fault -/

/-- The numbers of Table 3.9. -/
def listedRegs : List Nat :=
  [0x000, 0x001, 0x200, 0x201, 0x202, 0x203, 0x204, 0x205, 0x206, 0x207, 0x208, 0x209, 0x20A, 0x20B, 0x20C, 0x20D, 0x20E, 0x20F, 0x210, 0x400, 0x401, 0x402,
    0x403, 0x404, 0x405, 0x406, 0x800, 0x801, 0x802, 0xA00]

theorem readSr_isSome {s : State} {k n : Nat} (hn : n ∈ listedRegs) : (readSr s k n).isSome = true := by
  revert n
  simp only [listedRegs, List.forall_mem_cons, readSr, Option.isSome_some, List.not_mem_nil, false_implies, implies_true, and_self]

theorem readSr_isNone {s : State} {k n : Nat} (hn : n ∉ listedRegs) : (readSr s k n).isNone = true := by
  unfold readSr
  dsimp only
  split
  case h_31 => rfl
  all_goals exact absurd (by decide) hn

section
variable {s : State} {k code : Nat} {rd rs1 : BitVec 5} {sr : BitVec 12} {write : Bool} {op : SrOp}

theorem srFault_unlisted (hn : sr.toNat ∉ listedRegs) : srFault s k sr write = some 1 := if_pos (readSr_isNone hn)

theorem srFault_listed (hn : sr.toNat ∈ listedRegs) :
    srFault s k sr write = if lvlOf s k < sr.toNat / 1024 then some 4 else if write && bit sr.toNat 9 then some 1 else none := by
  obtain ⟨v, hv⟩ := Option.isSome_iff_exists.1 (readSr_isSome (s := s) (k := k) hn)
  rw [srFault, hv]
  rfl

theorem bodySrd_trap (hfault : srFault s k sr false = some code) : bodySrd rd 0 sr s k = .trap s (scalarExn code 0) := by
  rw [bodySrd, if_neg (by simp), hfault]

theorem bodySrWrite_trap (hop : op = .swr → rd = 0) (hfault : srFault s k sr true = some code) :
    bodySrWrite op rd rs1 sr s k = .trap s (scalarExn code 0) := by
  rw [bodySrWrite, if_neg (by tauto), hfault]

end

theorem systemRegisterFaults : Claims.SystemRegisterFaults := by
  intro h rd rs1 sr s hr k listed level raises all
  have hzero : Ready h [rd, 0] s := ready_cons_zero (ready_mono hr (by simp))
  have hsource : Ready h [0, rs1] s := ready_zero_cons (ready_mono hr (by simp))
  have reads_raise {code : Nat} (hfault : srFault s k sr false = some code) : raises (.srd h rd 0 sr) code :=
    fun hf => issue_traps hzero rfl hf 0 (bodySrd_trap hfault)
  have writes_raise {code : Nat} (hfault : srFault s k sr true = some code) : all code :=
    ⟨fun hf => issue_traps hsource rfl hf 0 (bodySrWrite_trap (fun _ => rfl) hfault), fun hf => issue_traps hr rfl hf 0 (bodySrWrite_trap nofun hfault),
      fun hf => issue_traps hr rfl hf 0 (bodySrWrite_trap nofun hfault)⟩
  refine ⟨fun hn _ => ⟨reads_raise (srFault_unlisted hn), writes_raise (srFault_unlisted hn)⟩, fun hn hlow => ?privilege, fun hn hlevel hro => ?readOnly⟩
  case privilege =>
    have hfault (write : Bool) : srFault s k sr write = some 4 := (srFault_listed hn).trans (if_pos hlow)
    exact ⟨reads_raise (hfault false), fun _ => writes_raise (hfault true)⟩
  case readOnly =>
    have hbit : bit sr.toNat 9 = true := by
      rw [bit, beq_iff_eq]
      exact hro
    refine writes_raise ((srFault_listed hn).trans ((if_neg (Nat.not_lt.2 hlevel)).trans ?_))
    rw [hbit]
    rfl

/-- Settles O9: reads by `exec_srd`, writes by `issue_srWrite`, faults by `srFault_listed` and `srFault_unlisted`. -/
theorem systemRegisters : Obligations.SystemRegisters := ⟨systemRegisterReads, systemRegisterWrites, systemRegisterFaults⟩

end Sys2Proof.Machine
end

section
/-!
PROOFS. Thread channels, and the instructions that wait on them (R88, R91).
-/
namespace Sys2Proof.Machine

section
variable {h : Hart} {i : Instr} {regs : List (BitVec 5)} {s t : State} {body : State → Nat → Res}

/-- A ready thread whose instruction cannot complete yet waits (R99). -/
theorem issue_waits (hr : Ready h regs s) (hh : i.hart? = some h) (hf : Fetches i s) (engine : Nat) (hbody : body s h.key = .wait t) :
    issue h i engine regs body s = .next t := by
  rw [issue_ready hr hh hf, hbody, applyRes]

theorem inTx_outside {k : Nat} (htx : (thr s k).tx.depth = 0) : inTx s k = false := by simp [inTx, htx]

end

/-! ### What a write of a register, a retirement and a placed word leave of a thread -/

section
variable (s : State) (k j : Nat)

@[simp] theorem chans_wx (r : BitVec 5) (v : W64) : (thr (wx s k r v) j).chans = (thr s j).chans := by
  by_cases hj : j = k
  · rw [hj, thr_wx]
  · unfold wx
    split
    · rfl
    · rw [thr_modThr_ne s _ hj]

@[simp] theorem chans_retire (len : Nat) : (thr (retire s k len) j).chans = (thr s j).chans := by
  by_cases hj : j = k
  · rw [hj, retire_thr_self]
  · rw [retire_thr_ne s len hj]

@[simp] theorem retire_pc (len : Nat) : (thr (retire s k len) k).pc = (thr s k).pc + BitVec.ofNat 64 len := by rw [retire_thr_self]

@[simp] theorem wx_pc (r : BitVec 5) (v : W64) : (thr (wx s k r v) k).pc = (thr s k).pc := by rw [thr_wx]

/-- A word placed in a channel changes that channel of that thread alone. -/
theorem thr_chanPut (c : Nat) (v : W64) : thr (chanPut s k c v) j = { thr s j with chans := if j = k then Tbl.set (thr s k).chans c v else (thr s j).chans } := by
  by_cases hj : j = k
  · subst hj
    simp [chanPut]
  · rw [chanPut, thr_modThr_ne s _ hj, if_neg hj]

@[simp] theorem chanPut_reads (c : Nat) (v : W64) : Tbl.get? (thr (chanPut s k c v) k).chans c = some v := by
  rw [thr_chanPut, if_pos rfl, Tbl.get?_set_self]

theorem rx_of_x {t : State} (hx : (thr t j).x = (thr s k).x) (r : BitVec 5) : rx t j r = rx s k r := by rw [rx, rx, hx]

@[simp] theorem rx_chanPut (d c : Nat) (v : W64) (r : BitVec 5) : rx (chanPut s d c v) k r = rx s k r :=
  rx_of_x s k k (by rw [thr_chanPut]) r

/-- Thread `k` takes the word of one of its channels. -/
def chanTake (c : Nat) : State := modThr s k fun t => { t with chans := Tbl.erase t.chans c }

@[simp] theorem chans_chanTake (c : Nat) : (thr (chanTake s k c) k).chans = Tbl.erase (thr s k).chans c := by rw [chanTake, thr_modThr_self]

/-- A thread that begins to wait keeps the words of its channels. -/
@[simp] theorem chans_setWait (w : Option Wait) : (thr (modThr s k fun t => { t with wait := w }) j).chans = (thr s j).chans := by
  by_cases hj : j = k
  · rw [hj, thr_modThr_self]
  · rw [thr_modThr_ne s _ hj]

@[simp] theorem rx_chanTake (c : Nat) (r : BitVec 5) : rx (chanTake s k c) k r = rx s k r := rx_of_x s k k (by simp [chanTake]) r

end

section
variable {s : State} {k d c : Nat} {v : W64}

theorem chanFull_none (h : Tbl.get? (thr s d).chans c = none) : chanFull s d c = false := by rw [chanFull, h, Option.isSome_none]

theorem chanFull_some {w : W64} (h : Tbl.get? (thr s d).chans c = some w) : chanFull s d c = true := by rw [chanFull, h, Option.isSome_some]

/-- The operand of TPUT: the thread's number in its low bits, the channel above it (R88). -/
theorem chanDest_operand {h : Hart} {d : BitVec 3} (ch : BitVec 2) (hd : d.toNat < (core s h.core.toNat).mode) :
    chanDest s h.key (d.setWidth 64 + (ch.setWidth 64 <<< 4)) = some (h.core.toNat * 8 + d.toNat, ch.toNat) := by
  have fields : ∀ (d : BitVec 3) (ch : BitVec 2), (d.setWidth 64 + (ch.setWidth 64 <<< 4)).toNat % 8 = d.toNat ∧
      (d.setWidth 64 + (ch.setWidth 64 <<< 4)) &&& ~~~ (0x37 : W64) = 0 ∧ bits (d.setWidth 64 + (ch.setWidth 64 <<< 4)).toNat 5 4 = ch.toNat := by decide
  obtain ⟨hthr, hrest, hch⟩ := fields d ch
  rw [chanDest, key_div, hthr, hch, if_neg (by rw [hrest]; simp; exact hd)]

end

/-! ### The instructions -/

section
variable {s : State} {k d c : Nat} {rd rs1 rs2 : BitVec 5} {w : W64}

theorem bodyTput_empty (htx : (thr s k).tx.depth = 0) (hdest : chanDest s k (rx s k rs1) = some (d, c)) (hempty : Tbl.get? (thr s d).chans c = none) :
    bodyTput 0 rs1 rs2 s k = .done (chanPut s d c (rx s k rs2)) := by
  simp [bodyTput, inTx_outside htx, hdest, chanFull_none hempty]

theorem bodyTput_full (htx : (thr s k).tx.depth = 0) (hdest : chanDest s k (rx s k rs1) = some (d, c)) (hfull : Tbl.get? (thr s d).chans c = some w) :
    bodyTput 0 rs1 rs2 s k = .wait (modThr s k fun t => { t with wait := some (.tput d c (rx s k rs2)) }) := by
  simp [bodyTput, inTx_outside htx, hdest, chanFull_some hfull]

theorem bodyTtryput_empty (htx : (thr s k).tx.depth = 0) (hdest : chanDest s k (rx s k rs1) = some (d, c)) (hempty : Tbl.get? (thr s d).chans c = none) :
    bodyTtryput rd rs1 rs2 s k = .done (wx (chanPut s d c (rx s k rs2)) k rd 1) := by
  simp [bodyTtryput, inTx_outside htx, hdest, chanFull_none hempty]

theorem bodyTtryput_full (htx : (thr s k).tx.depth = 0) (hdest : chanDest s k (rx s k rs1) = some (d, c)) (hfull : Tbl.get? (thr s d).chans c = some w) :
    bodyTtryput rd rs1 rs2 s k = .done (wx s k rd 0) := by
  simp [bodyTtryput, inTx_outside htx, hdest, chanFull_some hfull]

/-- The operand of TGET names one of the four channels (R88). -/
theorem channel_operand {ch : BitVec 2} (hch : rx s k rs1 = ch.setWidth 64) : (rx s k rs1).toNat = ch.toNat ∧ ¬ 4 ≤ ch.toNat := by
  refine ⟨by rw [hch, BitVec.toNat_setWidth_of_le (by decide)], ?_⟩
  have := ch.isLt
  omega

theorem bodyTget_full {ch : BitVec 2} (htx : (thr s k).tx.depth = 0) (hch : rx s k rs1 = ch.setWidth 64) (hfull : Tbl.get? (thr s k).chans ch.toNat = some w) :
    bodyTget rd rs1 0 s k = .done (wx (chanTake s k ch.toNat) k rd w) := by
  obtain ⟨hc, hlt⟩ := channel_operand hch
  simp [bodyTget, inTx_outside htx, hc, hlt, hfull, chanTake]

theorem bodyTget_empty {ch : BitVec 2} (htx : (thr s k).tx.depth = 0) (hch : rx s k rs1 = ch.setWidth 64) (hempty : Tbl.get? (thr s k).chans ch.toNat = none) :
    bodyTget rd rs1 0 s k = .wait (modThr s k fun t => { t with wait := some (.tget ch.toNat rd) }) := by
  obtain ⟨hc, hlt⟩ := channel_operand hch
  simp [bodyTget, inTx_outside htx, hc, hlt, hempty]

end

@[simp] theorem job_chanPut (s : State) (k d c : Nat) (v : W64) : (thr (chanPut s d c v) k).job = (thr s k).job := by rw [thr_chanPut]

theorem b2n_mul (b : Bool) (n : Nat) : b2n b * n = if b then n else 0 := by cases b <;> simp [b2n]

theorem threadChannels : Claims.ThreadChannels := by
  intro h rd rs1 rs2 d ch s hr htx k v to_ full
  have sources : Ready h [rs1, rs2] s := ready_mono hr (by simp)
  have twoRegs : Ready h [rd, rs1] s := ready_mono hr (by simp)
  refine ⟨fun hd hop => ?_, fun hch hf => ⟨fun w hfull => ?get, fun hempty => ?getWaits⟩, fun hf => ?poll⟩
  · have hdest : chanDest s k (rx s k rs1) = some (to_, ch.toNat) := hop ▸ chanDest_operand ch hd
    refine ⟨fun hempty => ⟨fun hf => ?put, fun hf => ?tryPut⟩, fun w hfull => ⟨fun hf => ?putWaits, fun hf => ?tryPutFails⟩⟩
    case put =>
      refine ⟨_, issue_done sources rfl hf 0 (bodyTput_empty htx hdest hempty) (job_chanPut ..), ?_, ?_, fun r => ?_⟩
      · simp only [full, chans_retire, chanPut_reads]
        rfl
      · rw [retire_pc, thr_chanPut]
      · rw [rx_retire, rx_chanPut]
    case tryPut =>
      refine ⟨_, issue_done hr rfl hf 0 (bodyTtryput_empty htx hdest hempty) ((job_wx ..).trans (job_chanPut ..)), ?_, ?_, ?_⟩
      · simp only [full, chans_retire, chans_wx, chanPut_reads]
        rfl
      · rw [retire_pc, wx_pc, thr_chanPut]
      · rw [rx_retire, rx_wx, if_pos rfl]
    case putWaits =>
      refine ⟨_, issue_waits sources rfl hf 0 (bodyTput_full htx hdest hfull), rfl, (congrArg (·.get? ch.toNat) (chans_setWait ..)).trans hfull, by rw [thr_modThr_self], by rw [thr_modThr_self]⟩
    case tryPutFails => exact issue_writes hr rfl hf 0 (bodyTtryput_full htx hdest hfull)
  case get =>
    refine ⟨_, issue_done twoRegs rfl hf 0 (bodyTget_full htx hch hfull) (by simp [chanTake]), ?_, ?_, ?_⟩
    · rw [rx_retire, rx_wx, if_pos rfl]
    · exact congrArg (·.get? ch.toNat) ((chans_retire ..).trans ((chans_wx ..).trans (chans_chanTake ..)))
    · rw [retire_pc, wx_pc, chanTake, thr_modThr_self]
  case getWaits => exact ⟨_, issue_waits twoRegs rfl hf 0 (bodyTget_empty htx hch hempty), by rw [thr_modThr_self], by rw [thr_modThr_self]⟩
  case poll =>
    refine issue_writes (ready_mono hr (by simp)) rfl hf 0 ?_
    have hsum : ((List.range 4).map fun c => b2n (chanFull s k c) * 2 ^ c).sum = (if (full s k 0).isSome then 1 else 0) + (if (full s k 1).isSome then 2 else 0) +
        (if (full s k 2).isSome then 4 else 0) + (if (full s k 3).isSome then 8 else 0) := by
      simp [List.range_succ, b2n_mul, chanFull, full, Nat.add_assoc]
    rw [bodyTpoll, if_neg (by simp), hsum]

/-! ### Waiting TPUT and TGET -/

section
variable {s t : State} {k j : Nat} (len : Nat)

/-- A wait that completes: the instruction under way is over, and the thread goes on behind it. -/
theorem thr_completeWait : thr (completeWait s k len) k =
    { thr s k with wait := none, job := none, pc := (thr s k).pc + BitVec.ofNat 64 len, sys := { (thr s k).sys with instret := (thr s k).sys.instret + 1 } } := by
  rw [completeWait, retire_thr_self, thr_modThr_self, dropJob]
  split
  · next hnone => simp [hnone]
  · rw [thr_modThr_self, thr_modCore]

theorem thr_completeWait_ne (hj : j ≠ k) : thr (completeWait s k len) j = thr s j := by
  rw [completeWait, retire_thr_ne _ _ hj, thr_modThr_ne _ _ hj, dropJob]
  split
  · rfl
  · rw [thr_modThr_ne _ _ hj, thr_modCore]

@[simp] theorem chans_completeWait : (thr (completeWait s k len) j).chans = (thr s j).chans := by
  by_cases hj : j = k
  · rw [hj, thr_completeWait]
  · rw [thr_completeWait_ne len hj]

@[simp] theorem rx_completeWait (r : BitVec 5) : rx (completeWait s k len) k r = rx s k r := rx_of_x s k k (by rw [thr_completeWait]) r

end

section
variable {s : State} {k d c : Nat} {v : W64}

/-- A thread of the core with a lower number waits to place a word in the same channel. -/
def EarlierPut (s : State) (k d c : Nat) : Prop := ∃ i < k % 8, ∃ w, (thr s (k / 8 * 8 + i)).wait = some (.tput d c w)

theorem earlierPut_iff : ((List.range (k % 8)).any fun t =>
    match (thr s (k / 8 * 8 + t)).wait with | some (.tput d' c' _) => d' == d && c' == c | _ => false) = true ↔ EarlierPut s k d c := by
  simp only [List.any_eq_true, List.mem_range, EarlierPut]
  refine exists_congr fun i => and_congr_right fun _ => ?_
  generalize (thr s (k / 8 * 8 + i)).wait = w
  split
  · next d' c' w' => simp
  · next hother =>
    refine ⟨nofun, fun ⟨w, hw⟩ => (hother d c w hw).elim⟩

theorem tputPlace_waiting (hwait : (thr s k).wait = some (.tput d c v)) (hempty : Tbl.get? (thr s d).chans c = none) (hfirst : ¬ EarlierPut s k d c) :
    tputPlace s k = completeWait (chanPut s d c v) k 4 := by
  rw [tputPlace, hwait]
  exact if_neg (not_or.2 ⟨by simp [chanFull_none hempty], fun h => hfirst (earlierPut_iff.1 h)⟩)

theorem tputPlace_later (hwait : (thr s k).wait = some (.tput d c v)) (hlater : EarlierPut s k d c) : tputPlace s k = s := by
  rw [tputPlace, hwait]
  exact if_pos (.inr (earlierPut_iff.2 hlater))

theorem tgetDeliver_waiting {rd : BitVec 5} (hwait : (thr s k).wait = some (.tget c rd)) (hfull : Tbl.get? (thr s k).chans c = some v) :
    tgetDeliver s k = completeWait (wx (chanTake s k c) k rd v) k 4 := by
  rw [tgetDeliver, hwait]
  dsimp only
  rw [hfull]
  rfl

end

theorem threadChannelWaits : Claims.ThreadChannelWaits := by
  intro c n s hcore hheld k
  have hk : k / 8 = c.toNat ∧ k % 8 = n.toNat := by
    have := n.isLt
    simp only [k]
    omega
  obtain ⟨hdiv, hmod⟩ := hk
  refine ⟨fun d ch v hwait hempty hnone => ?place, fun d ch v i w hwait hi hfirst => ?later, fun ch rd v hwait hfull => ?deliver⟩
  case place =>
    have hfirst : ¬ EarlierPut s k d ch := by
      rintro ⟨i, hi, w, hw⟩
      rw [hdiv] at hw
      exact hnone i (hmod ▸ hi) w hw
    refine ⟨_, (onThread_next tputPlace hcore hheld).trans (congrArg _ (tputPlace_waiting hwait hempty hfirst)), ?_, ?_, ?_, fun r => ?_⟩
    · rw [chans_completeWait, chanPut_reads]
    · rw [thr_completeWait]
    · rw [thr_completeWait, thr_chanPut]
      rfl
    · rw [rx_completeWait, rx_chanPut]
  case later =>
    have hlater : EarlierPut s k d ch := ⟨i, hmod ▸ hi, w, hdiv ▸ hfirst⟩
    exact (onThread_next tputPlace hcore hheld).trans (congrArg _ (tputPlace_later hwait hlater))
  case deliver =>
    refine ⟨_, (onThread_next tgetDeliver hcore hheld).trans (congrArg _ (tgetDeliver_waiting hwait hfull)), ?_, ?_, ?_, fun r hr => ?_⟩
    · rw [rx_completeWait, rx_wx, if_pos rfl]
    · rw [thr_completeWait]
    · rw [thr_completeWait, thr_wx, chanTake, thr_modThr_self]
      rfl
    · rw [rx_completeWait, rx_wx, if_neg hr, rx_chanTake]
      split
      · next hzero => rw [hzero, rx_zero]
      · rfl

/-- Settles O12: the instructions by their meanings on an empty and on a full channel, the waits by `thr_completeWait`. -/
theorem threadMessages : Obligations.ThreadMessages := ⟨threadChannels, threadChannelWaits⟩

end Sys2Proof.Machine
end

section
/-!
PROOFS. The end of thread 0 counts twice in INSTRET where freeing its ports ends a commit of its own (R92, R218).
-/
namespace Sys2Proof.Machine

/-- A state in which thread 0 of core 0 waits in TEND with no transaction open, while a commit of it in its apply phase still holds
the entry it reserved at port 0 of core 0, which is live. -/
def tendHoldingPort : State :=
  { State.reset with
    threads := [(0, { Thread.init with run := .running, wait := some .tend, tx := { Tx.none with phase := .apply [], reserved := [(0, 0, 0)] } })]
    ls := [(0x7A006, 1)] }

/-- Ending thread 0 frees the port, which ends the commit that holds it: the commit retires once, and the TEND once more. -/
theorem tendHoldingPort_instret : ∀ t, exec (.tendComplete 0 0) tendHoldingPort = .next t → (thr t 0).sys.instret = 2 := by
  have counts : (match exec (.tendComplete 0 0) tendHoldingPort with | .next t => (thr t 0).sys.instret == 2 | _ => true) = true := by decide +kernel
  intro t ht
  rw [ht] at counts
  exact beq_iff_eq.1 counts

/-- Refutes O13: Claims.ThreadEnd leaves free a commit in its apply phase that holds a reservation, and INSTRET then grows by two. -/
theorem not_threadLives : ¬ Obligations.ThreadLives := by
  rintro ⟨-, -, completes⟩
  have hquiet : inFlight tendHoldingPort 0 = false := by decide +kernel
  have halone : ∀ i, 0 < i → i < (core tendHoldingPort 0).mode → (thr tendHoldingPort (0 + i)).run ≠ .running := by
    intro i hpos hi
    exact absurd (hi.trans_le (by decide)) (Nat.not_lt_zero i)
  obtain ⟨t, hnext, -, -, -, hone⟩ := completes 0 tendHoldingPort (by decide) (by decide) rfl hquiet rfl halone
  have htwo : (thr t 0).sys.instret = 2 := tendHoldingPort_instret t hnext
  exact absurd (htwo.symm.trans hone) (by decide)

end Sys2Proof.Machine
end

section
/-!
PROOFS. The end of a kernel can leave a port live: a tuple past its commit point is placed where the port's queue stands, and a queue may
stand over the records of the core's ports (R194, R234, R244).
-/
namespace Sys2Proof.Machine

/-- A LAUNCH of core 0 that waits for nothing any more. -/
def portlessLaunch : Launch :=
  { ring := ⟨0, 0, 0⟩, ctx := 0, tag := 0, cores := [0], lost := [], report := 0, cap := 0, stopped := false, flush := none }

/-- A tuple of a commit past its commit point on its way to port 1 of core 0; its word 0 is the status word of a live port. -/
def liveStatusTuple : Msg :=
  { id := 0, cls := 0, src := 0, dst := 0, pos := 0, inp := .here, flit := 0, pay := .publish 0 1 0 [2 ^ 48] 0 true, since := 0, arr := 0 }

/-- The LAUNCH at its end, port 1 of core 0 live with a queue of one 64-byte entry at 0x7A000, where the record of port 0 stands, and
the tuple on its way there. -/
def queueOverRecords : State :=
  { State.reset with
    launches := [portlessLaunch]
    rings := [(0, { base := 0, en := true, log2n := 0, gen := 0, badtail := false, cfgerr := false, rderr := false, tail := 0, head := 0,
                    attempts := 0, cur := some [1], st := .launched, group := none, discard := 0, readNo := 0 })]
    cores := [(0, { Core.init with partEnded := true })]
    ls := [(0x7A046, 1), (0x7A049, 0xA0), (0x7A04A, 0x07)]
    mesh := [liveStatusTuple] }

/-- Freeing port 1 places the tuple over the record of port 0, which was passed over before. -/
theorem queueOverRecords_portLive : portLive (launchCompletion ⟨0, 0, 0⟩ ⟨[], false, 0⟩ queueOverRecords) 0 0 = true := by decide +kernel

/-- Refutes O44: the clause of Claims.Launches by which no port of the kernel's cores is live once its caches are written back. -/
theorem not_kernelCommands : ¬ Obligations.KernelCommands := by
  rintro ⟨launches, -⟩
  obtain ⟨-, completion, -⟩ := launches ⟨0, 0, 0⟩ ⟨[], false, 0⟩ [1] queueOverRecords
  have hended : ∀ c ∈ portlessLaunch.cores, (core queueOverRecords c).partEnded = true := by decide +kernel
  have hbenches : ∀ n ∈ benchesOf portlessLaunch.cores, (bench queueOverRecords n).pass = none ∧ held queueOverRecords n = false := by decide +kernel
  obtain ⟨ends, -⟩ := completion portlessLaunch (by decide +kernel) (by decide +kernel) (by decide +kernel) (by decide +kernel) hended hbenches
  obtain ⟨t, hnext, -, -, -, hports⟩ := ends rfl (by decide +kernel) (by decide +kernel) (by decide +kernel)
  obtain ⟨-, hdead⟩ := hports 0 (by decide)
  have hlive : portLive t 0 0 = true := by
    injection hnext with ht
    exact ht ▸ queueOverRecords_portLive
  exact absurd (hlive.symm.trans (hdead 0 (by decide))) (by decide)

end Sys2Proof.Machine
end

section
/-!
PROOFS. What a store of a core's own port leaves as it was, and a frame stored in the core's own store (R98, R178).
-/
namespace Sys2Proof.Machine

/-! ### What a store of a core's own port leaves -/

/-- Stores of thread `k` to its own store lead from `s` to `t`: they change bytes of stores, gather buffers, watches and notices to other
threads, and mark no line. -/
structure StoreLeaves (k : Nat) (s t : State) : Prop where
  shape : ∃ ts ws cs m lp, t = { s with threads := ts, watches := ws, cores := cs, ls := m, lsPoison := lp }
  cores : ∀ c, { core t c with gbuf := [] } = { core s c with gbuf := [] }
  marks : ∀ n, NSet.has t.lsPoison n = true → NSet.has s.lsPoison n = true
  wf : memWf s.ls = true → memWf t.ls = true
  self : thr t k = thr s k

section
variable {k c o : Nat} {s t u : State} {bs : List Byte}

theorem StoreLeaves.refl : StoreLeaves k s s := ⟨⟨s.threads, s.watches, s.cores, s.ls, s.lsPoison, rfl⟩, fun _ => rfl, fun _ h => h, fun h => h, rfl⟩

theorem StoreLeaves.trans (hst : StoreLeaves k s t) (htu : StoreLeaves k t u) : StoreLeaves k s u := by
  obtain ⟨ts, ws, cs, m, lp, hu⟩ := htu.shape
  obtain ⟨_, _, _, _, _, ht⟩ := hst.shape
  exact ⟨⟨ts, ws, cs, m, lp, by rw [hu, ht]⟩, fun c => (htu.cores c).trans (hst.cores c), fun n h => hst.marks n (htu.marks n h),
    fun h => htu.wf (hst.wf h), htu.self.trans hst.self⟩

theorem storeLeaves_gbuf {f : Core → Core} (hf : ∀ x, { f x with gbuf := [] } = { x with gbuf := [] }) : StoreLeaves k s (modCore s c f) := by
  refine ⟨⟨s.threads, s.watches, (modCore s c f).cores, s.ls, s.lsPoison, rfl⟩, fun c' => ?_, fun _ h => h, fun h => h, rfl⟩
  by_cases hc : c' = c
  · rw [hc, core_modCore_self, hf]
  · rw [core_modCore_ne _ _ hc]

theorem storeLeaves_bankWrite (bytes : List (Nat × Byte)) : StoreLeaves k s (bankWrite s c o bytes false) := by
  obtain ⟨lp, hshape⟩ := bankWrite_shape s c o bytes false
  refine ⟨⟨s.threads, s.watches, s.cores, _, lp, hshape⟩, fun c' => by rw [hshape]; rfl, fun n h => ?_, fun h => ?_, by rw [hshape]; rfl⟩
  · simp only [bankWrite, Bool.false_eq_true, if_false] at h
    split at h
    · exact (NSet.has_eq_true_iff ..).2 (NSet.mem_del _ _ ((NSet.has_eq_true_iff ..).1 h))
    · exact h
  · rw [hshape]
    exact memWf_puts (fun i => c * 2 ^ 20 + o + i) bytes s.ls h

theorem storeLeaves_dropBuffered (line : Nat) : StoreLeaves k s (modCore s c (dropBuffered line)) := storeLeaves_gbuf fun _ => rfl

theorem storeLeaves_gbufFlush (line : Nat) : StoreLeaves k s (gbufFlush s c line) := by
  cases h : bufferedLine s c line with
  | none => rw [gbufFlush_none h]; exact .refl
  | some e => rw [gbufFlush_some h]; exact (storeLeaves_dropBuffered line).trans (storeLeaves_bankWrite _)

theorem storeLeaves_makeRoom : StoreLeaves k s (makeRoom s c) := by
  obtain hroom | ⟨line, hroom⟩ := makeRoom_cases s c
  · rw [hroom]; exact .refl
  · rw [hroom]; exact storeLeaves_gbufFlush line

theorem storeLeaves_gbufMerge : StoreLeaves k s (gbufMerge s c o (offsets bs)) := by
  cases h : bufferedLine s c (o / 64) with
  | some e =>
    have hmerge (r : BitVec 64 × V512) : StoreLeaves k s (modCore s c (rebuffer (o / 64) r)) := storeLeaves_gbuf fun _ => rfl
    rw [gbufMerge_some h]
    split
    · exact (hmerge _).trans (storeLeaves_gbufFlush _)
    · exact hmerge _
  | none => rw [gbufMerge_none h]; exact storeLeaves_makeRoom.trans (storeLeaves_gbuf fun _ => rfl)

theorem storeLeaves_breakWatches (h : HomeId) (line : Nat) : StoreLeaves k s (breakWatches s h line (some k)) := by
  obtain ⟨ts, ws, hshape⟩ := breakWatches_shape s h line (some k)
  refine ⟨⟨ts, ws, s.cores, s.ls, s.lsPoison, hshape⟩, fun c => ?_, fun n hn => ?_, fun hm => ?_, (breakWatches_threads s h line k).1⟩
  · rw [hshape]; rfl
  · rwa [hshape] at hn
  · rwa [hshape]

/-- The state once a store has broken the watches on its line (R223). -/
def watchesBroken (s : State) (k o : Nat) : State := breakWatches s (.store (BitVec.ofNat 11 (k / 8))) ((2 ^ 40 + k / 8 * 2 ^ 20 + o) / 64) (some k)

theorem coreStore_whole (hlen : bs.length = 64) : coreStore s k o (offsets bs) =
    bankWrite (modCore (watchesBroken s k o) (k / 8) (dropBuffered (o / 64))) (k / 8) o (offsets bs) false := by
  have hlong : (offsets bs).length = 64 := by simpa [offsets] using hlen
  rw [coreStore, if_pos hlong]
  rfl

theorem storeLeaves_coreStore (hlen : bs.length ≤ 64) : StoreLeaves k s (coreStore s k o (offsets bs)) := by
  rcases hlen.lt_or_eq with hlt | hwhole
  · rw [coreStore_narrow hlt]
    exact (storeLeaves_breakWatches ..).trans storeLeaves_gbufMerge
  · rw [coreStore_whole hwhole]
    exact (storeLeaves_breakWatches ..).trans ((storeLeaves_dropBuffered _).trans (storeLeaves_bankWrite _))

/-- A whole aligned line goes to its bank, and the buffer's entry for the line goes. -/
theorem storeByte_coreStore_whole {c q : Nat} (hm : memWf s.ls = true) (hlen : bs.length = 64) (hline : o % 64 = 0) (ho : o < 2 ^ 20) (hq : q < 2 ^ 20) :
    storeByte (coreStore s k o (offsets bs)) c q = if c = k / 8 ∧ o ≤ q ∧ q < o + 64 then bs.getD (q - o) 0 else storeByte s c q := by
  obtain ⟨ts, ws, hbreak⟩ := breakWatches_shape s (.store (BitVec.ofNat 11 (k / 8))) ((2 ^ 40 + k / 8 * 2 ^ 20 + o) / 64) (some k)
  obtain ⟨lp, hbank⟩ := bankWrite_shape (modCore (watchesBroken s k o) (k / 8) (dropBuffered (o / 64))) (k / 8) o (offsets bs) false
  have hls : (coreStore s k o (offsets bs)).ls = putBytes (fun i => k / 8 * 2 ^ 20 + o + i) bs s.ls := by
    rw [coreStore_whole hlen, hbank, watchesBroken, hbreak]
    rfl
  have hbuf : bufferedLine (coreStore s k o (offsets bs)) c (q / 64) = if c = k / 8 ∧ q / 64 = o / 64 then none else bufferedLine s c (q / 64) := by
    rw [coreStore_whole hlen, hbank, watchesBroken, hbreak]
    exact bufferedLine_dropBuffered { s with threads := ts, watches := ws } ..
  split
  · next hin =>
    obtain ⟨rfl, hlo, hhi⟩ := hin
    have haddr : k / 8 * 2 ^ 20 + q = k / 8 * 2 ^ 20 + o + (q - o) := by omega
    rw [storeByte_unbuffered (hbuf.trans (if_pos ⟨rfl, by omega⟩)), hls, haddr]
    exact memGet_putBytes (key := fun i => k / 8 * 2 ^ 20 + o + i) hm (by omega) fun i j _ _ h => by omega
  · next hout =>
    refine storeByte_congr (hbuf.trans (if_neg (by omega))) ?_
    rw [hls]
    exact memGet_putBytes_ne (key := fun i => k / 8 * 2 ^ 20 + o + i) fun i hi h => by omega

/-- Every byte of every store after a store within one line of a core's own port. -/
theorem storeByte_coreStore {c q : Nat} (hm : memWf s.ls = true) (hline : o % 64 + bs.length ≤ 64) (ho : o < 2 ^ 20) (hq : q < 2 ^ 20) :
    storeByte (coreStore s k o (offsets bs)) c q = if c = k / 8 ∧ o ≤ q ∧ q < o + bs.length then bs.getD (q - o) 0 else storeByte s c q := by
  rcases (show bs.length ≤ 64 by omega).lt_or_eq with hlt | hwhole
  · obtain ⟨-, -, -, -, hbytes⟩ := coreStore_own (s := s) (k := k) hm hlt hline ho
    exact hbytes c q hq
  · rw [hwhole]
    exact storeByte_coreStore_whole hm hwhole (by omega) ho hq

end

/-! ### An access to the own store at any level below P2 -/

section
variable {s t : State} {k lvl : Nat} {va : W64}

/-- An address below the reserved area is the core's own store (Table 1.9), and its translation is not counted. -/
theorem translate_own (hl : lvl ≠ 2) (hctx : (ctxOf s k).isSome = true) (hva : va.toNat < 0x78000) (acc : Acc) :
    translate s (threadWho s k lvl) acc va = .ok { tgt := .store (k / 8) va.toNat, nc := false, page := none } ∧
      noteTranslate s (threadWho s k lvl) va = s := by
  obtain ⟨c, hc⟩ := Option.isSome_iff_exists.mp hctx
  have hlow : va.toNat < 0x100000 := by omega
  refine ⟨?_, by simp [noteTranslate, hlow]⟩
  have hallowed : ∀ r, reservedDenied va.toNat r = false := by simp [reservedDenied]; omega
  simp [translate, threadWho, hl, translateVirtual, hc, hlow, hallowed]
  omega

theorem ctxOf_leaves (h : StoreLeaves k s t) : ctxOf t k = ctxOf s k := by
  have hx : ({ core t (k / 8) with gbuf := [] } : Core).ctx = ({ core s (k / 8) with gbuf := [] } : Core).ctx := by rw [h.cores]
  exact hx

theorem sb_leaves (h : StoreLeaves k s t) (c : Nat) : (core t c).sb = (core s c).sb := by
  have hx : ({ core t c with gbuf := [] } : Core).sb = ({ core s c with gbuf := [] } : Core).sb := by rw [h.cores]
  exact hx

theorem locks_leaves (h : StoreLeaves k s t) : t.locks = s.locks := by
  obtain ⟨_, _, _, _, _, ht⟩ := h.shape
  rw [ht]

end

/-! ### A frame in the own store -/

section
variable {s t : State} {k lvl o : Nat} {a : W64} {bs : List Byte} {words : List W64} {l : List (Nat × Nat)}

theorem freeFrame_leaves {write : Bool} (h : StoreLeaves k s t) (hfree : FreeFrame s k o write) : FreeFrame t k o write := by
  intro i hi
  obtain ⟨hlock, hmark, hsb⟩ := hfree i hi
  refine ⟨?_, ?_, ?_⟩
  · rw [← hlock]
    simp only [lineLocked, homeOf, lockHolder, locks_leaves h]
  · exact Bool.eq_false_iff.2 fun hset => Bool.eq_false_iff.1 hmark (h.marks _ hset)
  · rw [← hsb]
    simp only [sbBlocked, sb_leaves h]

/-- A write that nothing in flight or committing stands in the way of is stored at once (R178). -/
theorem plainWriteOut_own {x : Access1} (htgt : x.x.tgt = .store (k / 8) o) (hlock : lineLocked s (.store (k / 8) o) = false)
    (hsb : sbBlocked s k (targetAddr (.store (k / 8) o) / 64) (targetAddr (.store (k / 8) o) / 64) true = false) (bs : List Byte) :
    plainWriteOut s k x bs false = .now [] (coreStore s k o (offsets bs)) := by
  simp only [plainWriteOut, htgt, hsb, hlock, Bool.false_eq_true, if_false, if_true]

/-- Store some pieces of a span of bytes through the core's own port. -/
def portStores (s : State) (k o : Nat) (bs : List Byte) (l : List (Nat × Nat)) : State :=
  l.foldl (fun s pc => coreStore s k (o + pc.1) (offsets ((bs.drop pc.1).take pc.2))) s

theorem piece_length {pc : Nat × Nat} (h : pc.1 + pc.2 ≤ bs.length) : ((bs.drop pc.1).take pc.2).length = pc.2 := by
  rw [List.length_take, List.length_drop]
  omega

theorem piece_getD {pc : Nat × Nat} {j : Nat} (hlo : pc.1 ≤ j) (hhi : j < pc.1 + pc.2) : ((bs.drop pc.1).take pc.2).getD (j - pc.1) 0 = bs.getD j 0 := by
  rw [List.getD_eq_getElem?_getD, List.getElem?_take_of_lt (by omega), List.getElem?_drop, ← List.getD_eq_getElem?_getD,
    show pc.1 + (j - pc.1) = j by omega]

/-- Pieces of a span that each stay within a line. -/
def LinePieces (o n : Nat) (l : List (Nat × Nat)) : Prop := ∀ pc ∈ l, (o + pc.1) % 64 + pc.2 ≤ 64 ∧ pc.1 + pc.2 ≤ n ∧ pc.1 < n

theorem linePieces_pieces (o n : Nat) : LinePieces o n (pieces o n) := by
  intro pc hpc
  obtain ⟨hline, hin⟩ := mem_pieces hpc
  obtain ⟨i, -, hlt, rfl⟩ := mem_pieces_iff.mp hpc
  dsimp only at *
  omega

theorem storeLeaves_portStores (hl : LinePieces o bs.length l) : StoreLeaves k s (portStores s k o bs l) := by
  induction l generalizing s with
  | nil => exact .refl
  | cons pc l ih =>
    obtain ⟨hline, hin, -⟩ := hl pc List.mem_cons_self
    exact (storeLeaves_coreStore (by rw [piece_length hin]; omega)).trans (ih fun pc' hpc' => hl pc' (List.mem_cons_of_mem _ hpc'))

theorem storeByte_portStores {c q : Nat} (hl : LinePieces o bs.length l) (hm : memWf s.ls = true) (hend : o + bs.length ≤ 2 ^ 20) (hq : q < 2 ^ 20) :
    storeByte (portStores s k o bs l) c q =
      if c = k / 8 ∧ ∃ pc ∈ l, o + pc.1 ≤ q ∧ q < o + pc.1 + pc.2 then bs.getD (q - o) 0 else storeByte s c q := by
  induction l generalizing s with
  | nil => simp [portStores]
  | cons pc l ih =>
    obtain ⟨hline, hin, hlt⟩ := hl pc List.mem_cons_self
    have hlen := piece_length hin
    have hone := storeByte_coreStore (s := s) (k := k) (c := c) (o := o + pc.1) (bs := (bs.drop pc.1).take pc.2) hm
      (by rw [hlen]; exact hline) (by omega) hq
    have hleaves : StoreLeaves k s (coreStore s k (o + pc.1) (offsets ((bs.drop pc.1).take pc.2))) := storeLeaves_coreStore (by rw [hlen]; omega)
    have hrest := ih (s := coreStore s k (o + pc.1) (offsets ((bs.drop pc.1).take pc.2)))
      (fun pc' hpc' => hl pc' (List.mem_cons_of_mem _ hpc')) (hleaves.wf hm)
    rw [hlen] at hone
    rw [show portStores s k o bs (pc :: l) = portStores (coreStore s k (o + pc.1) (offsets ((bs.drop pc.1).take pc.2))) k o bs l from rfl, hrest, hone]
    by_cases hlater : c = k / 8 ∧ ∃ pc' ∈ l, o + pc'.1 ≤ q ∧ q < o + pc'.1 + pc'.2
    · obtain ⟨hc, pc', hpc', hat⟩ := hlater
      rw [if_pos ⟨hc, pc', hpc', hat⟩, if_pos ⟨hc, pc', List.mem_cons_of_mem _ hpc', hat⟩]
    · rw [if_neg hlater]
      by_cases hhere : c = k / 8 ∧ o + pc.1 ≤ q ∧ q < o + pc.1 + pc.2
      · obtain ⟨hc, hat⟩ := hhere
        rw [if_pos ⟨hc, hat⟩, if_pos ⟨hc, pc, List.mem_cons_self, hat⟩, ← Nat.sub_sub, piece_getD (by omega) (by omega)]
      · rw [if_neg hhere, if_neg]
        rintro ⟨hc, pc', hpc', hat⟩
        rcases List.mem_cons.mp hpc' with rfl | hmem
        · exact hhere ⟨hc, hat⟩
        · exact hlater ⟨hc, pc', hmem, hat⟩

/-- The pieces of a frame in a free part of the own store are stored one after the other. -/
theorem storeSpan_own (hl : LinePieces a.toNat 64 l) (hlvl : lvl ≠ 2) (hctx : (ctxOf s k).isSome = true) (ha : a.toNat + 64 ≤ 0x78000)
    (hlen : bs.length = 64) (hfree : FreeFrame s k a.toNat true) :
    storeSpan s k lvl a bs l = .ok (portStores s k a.toNat bs l) := by
  induction l generalizing s with
  | nil => rfl
  | cons pc l ih =>
    obtain ⟨hline, hin, hlt⟩ := hl pc List.mem_cons_self
    obtain ⟨hlock, -, hsb⟩ := hfree pc.1 hlt
    have hva : (a + BitVec.ofNat 64 pc.1).toNat = a.toNat + pc.1 := by
      rw [BitVec.toNat_add, BitVec.toNat_ofNat]
      omega
    obtain ⟨htr, hnote⟩ := translate_own (va := a + BitVec.ofNat 64 pc.1) hlvl hctx (by omega) .write
    have hleaves : StoreLeaves k s (coreStore s k (a.toNat + pc.1) (offsets ((bs.drop pc.1).take pc.2))) :=
      storeLeaves_coreStore (by rw [piece_length (by omega)]; omega)
    have hnow := plainWriteOut_own (x := ⟨a + BitVec.ofNat 64 pc.1, ⟨.store (k / 8) (a.toNat + pc.1), false, none⟩, 0, 0, .none⟩) rfl hlock hsb
      ((bs.drop pc.1).take pc.2)
    rw [storeSpan]
    simp only [htr, hnote, hva, hnow]
    exact ih (fun pc' hpc' => hl pc' (List.mem_cons_of_mem _ hpc')) ((ctxOf_leaves hleaves).symm ▸ hctx) (freeFrame_leaves hleaves hfree)

/-- The bytes of some words, low byte first. -/
def wordBytes (words : List W64) : List Byte := words.flatMap fun w => leBytes 8 w.toNat

@[simp] theorem wordBytes_length (words : List W64) : (wordBytes words).length = 8 * words.length := by
  induction words with
  | nil => rfl
  | cons w words ih =>
    rw [wordBytes, List.flatMap_cons, List.length_append, leBytes_length]
    exact (congrArg (8 + ·) ih).trans (by rw [List.length_cons]; omega)

theorem wordBytes_getD {i j : Nat} (hi : i < words.length) (hj : j < 8) : (wordBytes words).getD (8 * i + j) 0 = byteOf (words.getD i 0).toNat j := by
  induction words generalizing i with
  | nil => simp at hi
  | cons w words ih =>
    rw [wordBytes, List.flatMap_cons]
    cases i with
    | zero => rw [List.getD_append _ _ _ _ (by simpa using hj), show 8 * 0 + j = j by omega, leBytes_getD _ hj]; rfl
    | succ i =>
      rw [List.getD_append_right _ _ _ _ (by rw [leBytes_length]; omega), leBytes_length, show 8 * (i + 1) + j - 8 = 8 * i + j by omega, List.getD_cons_succ]
      exact ih (by simpa using hi)

theorem leNat_leBytes (n v : Nat) : leNat (leBytes n v) = v % 256 ^ n := by
  induction n generalizing v with
  | zero => simp [leBytes, leNat, Nat.mod_one]
  | succ n ih =>
    rw [leBytes, leNat, ih, pow_succ', Nat.mod_mul]
    simp

/-- A word of the own store reads as the eight bytes stored there. -/
theorem storeWord_of_bytes {c o : Nat} {w : W64} (h : ∀ j, j < 8 → storeByte t c (o + j) = byteOf w.toNat j) : storeWord t c o = w := by
  have hbytes : (List.range 8).map (fun i => storeByte t c (o + i)) = leBytes 8 w.toNat := by
    rw [leBytes_eq_map]
    exact List.map_congr_left fun j hj => h j (List.mem_range.mp hj)
  have hlt : w.toNat % 256 ^ 8 = w.toNat := Nat.mod_eq_of_lt w.isLt
  rw [storeWord, hbytes, leNat_leBytes, hlt, BitVec.ofNat_toNat, BitVec.setWidth_eq]

/-- The state with a frame of eight words in the own store. -/
def frameStored (s : State) (k o : Nat) (words : List W64) : State := portStores s k o (wordBytes words) (pieces o 64)

theorem storeFrame_own (hlvl : lvl ≠ 2) (hctx : (ctxOf s k).isSome = true) (ha : a.toNat + 64 ≤ 0x78000) (hlen : words.length = 8)
    (hfree : FreeFrame s k a.toNat true) : storeFrame s k lvl a words = .ok (frameStored s k a.toNat words) :=
  storeSpan_own (linePieces_pieces _ _) hlvl hctx ha ((wordBytes_length words).trans (by rw [hlen])) hfree

theorem storeLeaves_frameStored (hlen : words.length = 8) : StoreLeaves k s (frameStored s k o words) :=
  storeLeaves_portStores (by rw [wordBytes_length, hlen]; exact linePieces_pieces _ _)

theorem storeByte_frameStored {c q : Nat} (hlen : words.length = 8) (hm : memWf s.ls = true) (hend : o + 64 ≤ 2 ^ 20) (hq : q < 2 ^ 20) :
    storeByte (frameStored s k o words) c q = if c = k / 8 ∧ o ≤ q ∧ q < o + 64 then (wordBytes words).getD (q - o) 0 else storeByte s c q := by
  have hcover : (∃ pc ∈ pieces o 64, o + pc.1 ≤ q ∧ q < o + pc.1 + pc.2) ↔ o ≤ q ∧ q < o + 64 := by
    constructor
    · rintro ⟨pc, hpc, hlo, hhi⟩
      obtain ⟨-, hin⟩ := mem_pieces hpc
      omega
    · rintro ⟨hlo, hhi⟩
      obtain ⟨pc, hpc, hfrom, hto⟩ := exists_mem_pieces (a := o) (show q - o < 64 by omega)
      exact ⟨pc, hpc, by omega, by omega⟩
  have hbytes : (wordBytes words).length = 64 := by rw [wordBytes_length, hlen]
  rw [frameStored, storeByte_portStores (by rw [hbytes]; exact linePieces_pieces _ _) hm (by rw [hbytes]; exact hend) hq]
  simp only [hcover]

/-- The words of a frame as the store holds them. -/
theorem storeWord_frameStored {i : Nat} (hlen : words.length = 8) (hm : memWf s.ls = true) (hend : o + 64 ≤ 2 ^ 20) (hi : i < 8) :
    storeWord (frameStored s k o words) (k / 8) (o + 8 * i) = words.getD i 0 := by
  refine storeWord_of_bytes fun j hj => ?_
  rw [storeByte_frameStored hlen hm hend (by omega), if_pos ⟨rfl, by omega, by omega⟩, show o + 8 * i + j - o = 8 * i + j by omega,
    wordBytes_getD (by omega) hj]

end

end Sys2Proof.Machine
end

section
/-!
PROOFS. The entry of an exception of class 1 at P1 in the own store, by ECALL, EBREAK and the WAKE interrupt (R95, R96, R98).
-/
namespace Sys2Proof.Machine

/-! ### An entry at P1 -/

section
variable {h : Hart} {s t : State} {e : Exn} {intr : Bool} {pc : W64}

/-- The address of the frame that an entry at P1 of thread `k` stores (R98). -/
def frameBase (s : State) (k : Nat) : W64 := rx s k 30 - 64

/-- The vector of a cause at P1 (R98). -/
def vectorOf (s : State) (k code : Nat) : W64 := ((thr s k).sys.vbase1 &&& 0xFFFFFFFFFFFFF000) + BitVec.ofNat 64 (0x40 * code)

/-- The CAUSE word of an exception that does not escalate. -/
def entryCause (e : Exn) (intr : Bool) : W64 := causeWord e.code intr 0 e.engine e.info

/-- The system registers after an entry at P1 from a level (Table 4.7). -/
def enteredSys (level : Nat) (e : Exn) (intr : Bool) (y : SysRegs) : SysRegs :=
  { pushLevel y level with
    cause := entryCause e intr, faddr := e.faddr, priv := 1, mask := BitVec.ofNat 2 (max y.mask.toNat (exnClass e.code)), rpc := 0, vprog := 0 }

/-- The state in which the frame of an entry at P1 stands. -/
def entryFrame (s : State) (k : Nat) (e : Exn) (intr : Bool) (pc : W64) : State :=
  frameStored s k (frameBase s k).toNat (frameWords s k pc (entryCause e intr) e.faddr false)

/-- The state after an entry at P1. -/
def entered (s : State) (k : Nat) (e : Exn) (intr : Bool) (pc : W64) : State :=
  setPc (wx (modSys (entryFrame s k e intr pc) k (enteredSys (thr s k).sys.priv.toNat e intr)) k 30 (frameBase s k)) k (vectorOf s k e.code)

theorem storeLeaves_entryFrame (s : State) (k : Nat) (e : Exn) (intr : Bool) (pc : W64) : StoreLeaves k s (entryFrame s k e intr pc) := storeLeaves_frameStored rfl

/-- A fetch from a free line of the own store brings a halfword. -/
theorem fetchHalf_own {k lvl : Nat} {va : W64} (hlvl : lvl ≠ 2) (hctx : (ctxOf s k).isSome = true) (hva : va.toNat < 0x78000)
    (hlock : lineLocked s (.store (k / 8) va.toNat) = false) (hmark : homePoison s (.store (k / 8) va.toNat) = false) :
    ∃ w, fetchHalf s k lvl va = .half w := by
  obtain ⟨htr, -⟩ := translate_own hlvl hctx hva .fetch
  simp [fetchHalf, hlvl, htr, hlock, fetchBytes, cacheFor, hmark]

theorem frameBase_toNat (hok : EntryOk h e.code s) : (frameBase s h.key).toNat = (rx s h.key 30).toNat - 64 := by
  obtain ⟨-, -, -, -, -, -, -, hroom, -⟩ := hok
  rw [frameBase, BitVec.toNat_sub_of_le]
  · rfl
  · exact hroom

theorem enterAt_own (hok : EntryOk h e.code s) : enterAt s h.key 1 e intr pc = .ok (entered s h.key e intr pc) := by
  have hbase := frameBase_toNat hok
  obtain ⟨hlvl, -, -, hdepth, -, hctx, halign, hroom, hlow, hfree, hvector, hmark, hlock, -, -⟩ := hok
  have hleaves := storeLeaves_entryFrame s h.key e intr pc
  have hframe : storeFrame s h.key 1 (frameBase s h.key) (frameWords s h.key pc (entryCause e intr) e.faddr false) = .ok (entryFrame s h.key e intr pc) :=
    storeFrame_own (by decide) hctx (by omega) rfl (by rw [hbase]; exact hfree)
  have hva : (vectorOf s h.key e.code).toNat = ((thr s h.key).sys.vbase1 &&& 0xFFFFFFFFFFFFF000).toNat + 0x40 * e.code := by
    rw [vectorOf, BitVec.toNat_add, BitVec.toNat_ofNat]
    omega
  obtain ⟨w, hfetch⟩ : ∃ w, fetchHalf (entryFrame s h.key e intr pc) h.key 1 (vectorOf s h.key e.code) = .half w := by
    refine fetchHalf_own (by decide) ((ctxOf_leaves hleaves).symm ▸ hctx) (hva ▸ hvector) ?_ ?_
    · rw [hva, key_div, ← hlock]
      simp only [lineLocked, homeOf, lockHolder, locks_leaves hleaves]
    · rw [hva, key_div]
      exact Bool.eq_false_iff.2 fun hset => Bool.eq_false_iff.1 hmark (hleaves.marks _ hset)
  have hswitch : decide ((1 : Nat) = 2 ∧ (thr s h.key).sys.priv.toNat < 2) = false := by simp
  have hnotFull : (thr s h.key).sys.depth ≠ 8 := by omega
  have hpc : vbaseOf (thr s h.key).sys 1 + BitVec.ofNat 64 (0x40 * e.code) = vectorOf s h.key e.code := rfl
  simp only [frameBase, entryCause] at hframe
  simp only [enterAt, hswitch, Bool.false_eq_true, if_false, halign, hframe, hpc, hfetch, if_neg hnotFull]
  rfl

/-! ### What the entry leaves -/

theorem thr_entryFrame (s : State) (k : Nat) (e : Exn) (intr : Bool) (pc : W64) : thr (entryFrame s k e intr pc) k = thr s k :=
  (storeLeaves_entryFrame s k e intr pc).self

section
variable (s : State) (k : Nat) (e : Exn) (intr : Bool) (pc : W64)

theorem thr_entered : ∃ x, thr (entered s k e intr pc) k =
    { thr s k with x := x, pc := vectorOf s k e.code, sys := enteredSys (thr s k).sys.priv.toNat e intr (thr s k).sys } := by
  refine ⟨Tbl.set (thr s k).x 30 (frameBase s k), ?_⟩
  rw [entered, setPc, thr_modThr_self, thr_wx, modSys, thr_modThr_self, thr_entryFrame]
  rfl

theorem rx_entered (r : BitVec 5) : rx (entered s k e intr pc) k r = if r = 0 then 0 else if r = 30 then frameBase s k else rx s k r := by
  rw [entered, rx_modThr_pc, rx_wx]
  congr 2
  rw [modSys, rx, thr_modThr_self, thr_entryFrame, rx]

theorem storeByte_entered (c o : Nat) : storeByte (entered s k e intr pc) c o = storeByte (entryFrame s k e intr pc) c o := by
  simp [storeByte, core, entered]

end

theorem storeWord_congr {c o : Nat} (hbytes : ∀ c o, storeByte t c o = storeByte s c o) : storeWord t c o = storeWord s c o := by
  simp only [storeWord, hbytes]

theorem storeWord_entered {i : Nat} (hok : EntryOk h e.code s) (hi : i < 8) : storeWord (entered s h.key e intr pc) h.core.toNat ((rx s h.key 30).toNat - 64 + 8 * i) =
    (frameWords s h.key pc (entryCause e intr) e.faddr false).getD i 0 := by
  have hbase := frameBase_toNat hok
  obtain ⟨-, -, -, -, -, -, -, hroom, hlow, -, -, -, -, hm, -⟩ := hok
  rw [storeWord_congr fun c o => storeByte_entered s h.key e intr pc c o, ← key_div, ← hbase]
  exact storeWord_frameStored rfl hm (by omega) hi

theorem storeByte_entered_ne {c o : Nat} (hok : EntryOk h e.code s) (ho : o < 2 ^ 20)
    (hne : ¬ (c = h.core.toNat ∧ (rx s h.key 30).toNat - 64 ≤ o ∧ o < (rx s h.key 30).toNat - 64 + 64)) :
    storeByte (entered s h.key e intr pc) c o = storeByte s c o := by
  have hbase := frameBase_toNat hok
  obtain ⟨-, -, -, -, -, -, -, hroom, hlow, -, -, -, -, hm, -⟩ := hok
  rw [storeByte_entered, entryFrame, storeByte_frameStored rfl hm (by omega) ho, if_neg (by rw [key_div, hbase]; exact hne)]

theorem testBit_three (i : Nat) (hi : i < 2) : Nat.testBit 3 i = true := by interval_cases i <;> rfl

/-- The newest record of ENTRY_LEVEL is the level that was pushed (Table 4.11). -/
theorem recs_pushLevel (y : SysRegs) {l : Nat} (hl : l < 4) (hd : y.depth < 8) :
    bits (pushLevel y l).recs.toNat (2 * y.depth + 1) (2 * y.depth) = l := by
  have hpow : 4 ^ y.depth = 2 ^ (2 * y.depth) := pow_mul 2 2 y.depth ▸ rfl
  refine Nat.eq_of_testBit_eq fun i => ?_
  rw [bits, show 2 * y.depth + 1 + 1 - 2 * y.depth = 2 by omega, Nat.testBit_mod_two_pow, Nat.testBit_div_two_pow, ← BitVec.getLsbD, pushLevel]
  by_cases hi : i < 2
  · have hin : i + 2 * y.depth < 16 := by omega
    simp only [BitVec.getLsbD_or, BitVec.getLsbD_and, BitVec.getLsbD_not, BitVec.getLsbD_ofNat, hpow, Nat.testBit_mul_two_pow, hi, hin,
      Nat.le_add_left, Nat.add_sub_cancel, testBit_three, decide_true, Bool.true_and, Bool.not_true, Bool.and_false, Bool.false_or]
  · rw [decide_eq_false hi, Bool.false_and, Nat.testBit_lt_two_pow]
    exact hl.trans_le (Nat.pow_le_pow_right (i := 2) (n := 2) (by decide) (by omega))

/-! ### ECALL, EBREAK -/

/-- A trap that is routed to an entry retires its instruction there. -/
theorem issue_trapsNext {i : Instr} {regs : List (BitVec 5)} (hr : Ready h regs s) (hh : i.hart? = some h) (hf : Fetches i s) (engine : Nat)
    {body : State → Nat → Res} (hbody : body s h.key = .trapNext s e) (hfree : frameBusy s h.key = false)
    (hroute : route s h.key e ((thr s h.key).pc + BitVec.ofNat 64 h.len) = .done t) :
    issue h i engine regs body s = .next (countInstret t h.key 1) := by
  rw [issue_ready hr hh hf, hbody]
  simp only [applyRes, hfree, Bool.false_eq_true, if_false, hroute]

theorem enterOr_own (hok : EntryOk h e.code s) : enterOr s h.key 1 e intr pc = .done (entered s h.key e intr pc) := by
  rw [enterOr, enterAt_own hok]

theorem bodyEcall_traps {k : Nat} (htx : (thr s k).tx.depth = 0) : bodyEcall 0 0 s k = .trapNext s (scalarExn 9 0) := by
  simp [bodyEcall, inTx_outside htx]

theorem bodyEbreak_traps {k : Nat} (htx : (thr s k).tx.depth = 0) (hdebug : (core s (k / 8)).debugger = false) :
    bodyEbreak 0 0 s k = .trapNext s (scalarExn 10 0) := by
  simp [bodyEbreak, inTx_outside htx, hdebug]

/-- A thread that may enter is outside transactions, and no access in flight writes a register of the frame. -/
theorem entryOk_boundary {code : Nat} (hok : EntryOk h code s) : (thr s h.key).tx.depth = 0 ∧ frameBusy s h.key = false := by
  obtain ⟨-, -, -, -, htx, -, -, -, -, -, -, -, -, -, hbusy⟩ := hok
  exact ⟨htx, hbusy⟩

/-- ECALL from P0 enters at P1 (R96). -/
theorem route_ecall (hok : EntryOk h 9 s) (hpriv : (thr s h.key).sys.priv = 0) :
    route s h.key (scalarExn 9 0) pc = .done (entered s h.key (scalarExn 9 0) false pc) := by
  have henter := enterOr_own (e := scalarExn 9 0) (intr := false) (pc := pc) hok
  obtain ⟨-, hbks, hmask, -⟩ := hok
  simp [route, hbks, hmask, hpriv, scalarExn, alwaysEscalates, exnClass]
  exact henter

/-- EBREAK of thread 0 enters at P1 from P0 and from P1 (R96). -/
theorem route_ebreak (hok : EntryOk h 10 s) (hthr : h.thr = 0) :
    route s h.key (scalarExn 10 0) pc = .done (entered s h.key (scalarExn 10 0) false pc) := by
  have henter := enterOr_own (e := scalarExn 10 0) (intr := false) (pc := pc) hok
  obtain ⟨hpriv, hbks, hmask, -⟩ := hok
  have hlevel : max 1 (thr s h.key).sys.priv.toNat = 1 := by omega
  have hzero : h.key % 8 = 0 := by rw [key_mod, hthr]; rfl
  simp [route, hbks, hmask, hlevel, hzero, scalarExn, alwaysEscalates, exnClass]
  exact henter

theorem rx_countInstret (s : State) (k n : Nat) (r : BitVec 5) : rx (countInstret s k n) k r = rx s k r := by rw [rx, countInstret_thr_self, rx]

theorem storeByte_countInstret (s : State) (k n c o : Nat) : storeByte (countInstret s k n) c o = storeByte s c o := by
  obtain ⟨-, hstore, -⟩ := sameMemory_countInstret (s := s) (k := k) n
  exact hstore c o

end

theorem trapEntry : Claims.TrapEntry := by
  intro h s hr k c y sp enters
  have entersAt {i : Instr} {code : Nat} (hok : EntryOk h code s) (hclass : exnClass code = 1)
      (hexec : Fetches i s → exec i s = .next (countInstret (entered s k (scalarExn code 0) false ((thr s k).pc + BitVec.ofNat 64 h.len)) k 1)) :
      enters i code := by
    intro hf
    refine ⟨_, hexec hf, ?_⟩
    have word (j : Nat) (hj : j < 8) := (storeWord_congr fun c o => storeByte_countInstret (entered s k (scalarExn code 0) false
      ((thr s k).pc + BitVec.ofNat 64 h.len)) k 1 c o).trans (storeWord_entered hok hj)
    have reg (r : BitVec 5) := (rx_countInstret _ k 1 r).trans (rx_entered s k (scalarExn code 0) false ((thr s k).pc + BitVec.ofNat 64 h.len) r)
    have hcause : entryCause (scalarExn code 0) false = BitVec.ofNat 64 code := by simp [entryCause, causeWord, scalarExn, b2n]
    have hbase : frameBase s k = BitVec.ofNat 64 sp := BitVec.eq_of_toNat_eq <| by
      rw [frameBase_toNat (e := scalarExn code 0) hok, BitVec.toNat_ofNat, Nat.mod_eq_of_lt ((Nat.sub_le _ _).trans_lt (BitVec.isLt _))]
    obtain ⟨x, hthr⟩ := thr_entered s k (scalarExn code 0) false ((thr s k).pc + BitVec.ofNat 64 h.len)
    have hothers {d o : Nat} (ho : o < 2 ^ 20) (hne : ¬ (d = c ∧ sp ≤ o ∧ o < sp + 64)) := (storeByte_countInstret _ k 1 d o).trans
      (storeByte_entered_ne (e := scalarExn code 0) (intr := false) (pc := (thr s k).pc + BitVec.ofNat 64 h.len) hok ho hne)
    obtain ⟨hpriv, -, hmask, hdepth, -⟩ := hok
    have hmaskNat : max (thr s k).sys.mask.toNat (exnClass (scalarExn code 0).code) = 1 := by
      rw [hmask]
      exact hclass
    have hrecs := recs_pushLevel (thr s k).sys (show (thr s k).sys.priv.toNat < 4 from (thr s k).sys.priv.isLt) hdepth
    refine ⟨?pc, ?priv, ?mask, ?cause, ?faddr, ?rpc, ?vprog, ?depth, ?recs, ?instret, ?x30, fun r hr => ?xs, word 0 (by decide), word 1 (by decide),
      (word 2 (by decide)).trans hcause, word 3 (by decide), word 4 (by decide), word 5 (by decide), word 6 (by decide), word 7 (by decide),
      fun d o ho hne => hothers ho hne⟩
    case x30 => rw [reg, hbase]; rfl
    case xs =>
      rw [reg, if_neg hr]
      split
      · next hzero => rw [hzero, rx_zero]
      · rfl
    all_goals rw [countInstret_thr_self, hthr]
    case pc | priv | faddr | rpc | vprog | depth | instret => rfl
    case mask => exact congrArg (BitVec.ofNat 2) hmaskNat
    case cause => exact hcause
    case recs => exact hrecs
  refine ⟨fun hok hpriv => ?ecall, fun hok hthr hdebug => ?ebreak⟩
  case ecall =>
    obtain ⟨htx, hbusy⟩ := entryOk_boundary hok
    exact entersAt hok rfl fun hf => issue_trapsNext hr rfl hf 0 (bodyEcall_traps htx) hbusy (route_ecall hok hpriv)
  case ebreak =>
    obtain ⟨htx, hbusy⟩ := entryOk_boundary hok
    exact entersAt hok rfl fun hf => issue_trapsNext hr rfl hf 0 (bodyEbreak_traps htx (by rw [key_div]; exact hdebug)) hbusy (route_ebreak hok hthr)

end Sys2Proof.Machine
end

section
/-!
PROOFS. The WAKE interrupt of a core, and a deferred fault at the boundary of a thread (R95, R98, R190, R219).
-/
namespace Sys2Proof.Machine

section
variable {s : State} {c : Nat}

/-! ### The WAKE interrupt -/

/-- A thread that neither waits nor is within an instruction has nothing to abandon. -/
theorem abandonWait_idle {k : Nat} (hwait : (thr s k).wait = none) (hjob : (thr s k).job = none) : abandonWait s k = s := by
  simp [abandonWait, firmJob, hjob, hwait]

/-- With WAKE pending and neither FIRMWARE nor THREAD_FAULT, WAKE comes first, before HOST (R95). -/
theorem pendingInterrupts_wake (hwake : (core s c).irqWake = true) (hfw : (core s c).irqFw = false) (htpend : (core s c).tpend = 0) :
    ∃ host, pendingInterrupts s c = (25, 0) :: host ∧ ((core s c).irqHost = none → host = []) := by
  simp only [pendingInterrupts, hwake, hfw, htpend]
  rw [if_neg (by decide), if_neg (by simp [bits])]
  exact ⟨_, rfl, fun hnone => by rw [hnone]; rfl⟩

theorem takeable_wake (hwake : (core s c).irqWake = true) (hfw : (core s c).irqFw = false) (htpend : (core s c).tpend = 0)
    (hbks : (thr s (c * 8)).sys.bks = false) (hmask : (thr s (c * 8)).sys.mask = 0) (hpriv : (thr s (c * 8)).sys.priv.toNat < 2) :
    takeable s c = some (25, 0) := by
  have hlevel : (thr s (c * 8)).sys.priv.toNat ≤ 1 := by omega
  obtain ⟨host, hpending, -⟩ := pendingInterrupts_wake hwake hfw htpend
  rw [takeable, hpending, List.find?_cons_of_pos]
  · simp [hbks]
  · simp [hmask, exnClass, irqTarget, hlevel]

theorem takeable_masked (hwake : (core s c).irqWake = true) (hfw : (core s c).irqFw = false) (htpend : (core s c).tpend = 0)
    (hhost : (core s c).irqHost = none) (hmask : 2 ≤ (thr s (c * 8)).sys.mask.toNat) : takeable s c = none := by
  obtain ⟨host, hpending, hnone⟩ := pendingInterrupts_wake hwake hfw htpend
  rw [takeable, hpending, hnone hhost]
  split
  · rfl
  · simp [exnClass, Nat.not_lt.2 hmask]

/-- WAKE as an exception. -/
def wakeExn : Exn := { code := 25, engine := 0, info := 0, faddr := 0 }

/-- A change of a core that leaves its gather buffer changes no byte of its store. -/
theorem storeByte_modCore {f : Core → Core} (hf : ∀ x, (f x).gbuf = x.gbuf) (s : State) (c d o : Nat) : storeByte (modCore s c f) d o = storeByte s d o := by
  have hbuf : (core (modCore s c f) d).gbuf = (core s d).gbuf := by
    by_cases hd : d = c
    · rw [hd, core_modCore_self, hf]
    · rw [core_modCore_ne _ _ hd]
  rw [storeByte, hbuf]
  rfl

theorem storeByte_clearInterrupt (s : State) (c code d o : Nat) : storeByte (clearInterrupt s c code) d o = storeByte s d o := by
  rw [clearInterrupt, storeByte_modCore]
  exact fun _ => rfl

end

theorem interruptTaken : Claims.InterruptTaken := by
  intro c s hcore hheld k y h hwake hfw htpend hrun hdbg hwait hjob hdef habort
  have hkey : h.key = k := rfl
  have hidle : abandonWait s k = s := abandonWait_idle hwait hjob
  refine ⟨fun hok => ?taken, fun hmask hhost => ?masked⟩
  case masked =>
    refine (onCore_next interruptEntry hcore hheld).trans (congrArg _ ?_)
    rw [interruptEntry, takeable_masked hwake hfw htpend hhost hmask]
  case taken =>
    obtain ⟨htx, hbusy⟩ := entryOk_boundary hok
    have henter := enterOr_own (e := wakeExn) (intr := true) (pc := (thr s k).pc) hok
    have hword := storeWord_entered (e := wakeExn) (intr := true) (pc := (thr s k).pc) (i := 0) hok (by decide)
    obtain ⟨hpriv, hbks, hmask, -⟩ := hok
    have htake := takeable_wake hwake hfw htpend hbks hmask hpriv
    have hstep : interruptEntry s c.toNat = clearInterrupt (entered s k wakeExn true (thr s k).pc) c.toNat 25 := by
      rw [interruptEntry, htake]
      simp only [show c.toNat * 8 = k from rfl, hidle]
      rw [if_neg, if_neg, takeInterrupt]
      · exact congrArg (fun r => match r with | .done t => clearInterrupt t c.toNat 25 | .wait t => t) henter
      · rw [show (thr s k).tx.depth = 0 from htx]
        decide
      · simp [hrun, hdbg, hdef, habort, hwait, firmJob, hjob, show frameBusy s k = false from hbusy]
    obtain ⟨x, hthr⟩ := thr_entered s k wakeExn true (thr s k).pc
    refine ⟨_, (onCore_next interruptEntry hcore hheld).trans (congrArg _ hstep), ?_⟩
    refine ⟨?pc, ?priv, ?mask, ?cause, ?faddr, ?irq, ?word⟩
    case word => exact (storeWord_congr fun c' o => storeByte_clearInterrupt _ c.toNat 25 c' o).trans hword
    case irq => rw [clearInterrupt, core_modCore_self]; simp
    all_goals rw [clearInterrupt, thr_modCore, hthr]
    case pc | priv | faddr | cause => rfl
    case mask => exact congrArg (fun m : BitVec 2 => BitVec.ofNat 2 (max m.toNat 2)) hmask

/-! ### A deferred fault -/

theorem deferredFaultTaken : Claims.DeferredFaultTaken := by
  intro c n e rest s hcore hheld k hdef hrun hdbg hwait hjob hbusy
  have hself : thr (modThr s k fun t => { t with deferred := rest }) k = { thr s k with deferred := rest } := thr_modThr_self ..
  have hstep : exec (.deferredFault c n) s = .next (deferredFault s k) := onThread_next deferredFault hcore hheld
  refine ⟨modThr s k fun t => { t with deferred := rest }, by rw [hself], fun j hj => thr_modThr_ne s _ hj, sameMemory_of_eq rfl rfl rfl rfl rfl, rfl,
    by simp [SameUnits], by rw [hself], fun htx => ?plain, fun htx => ?aborts⟩
  case plain =>
    refine ⟨fun t ht => ?_, fun w hw => ⟨_, hstep, ?_⟩⟩
    · simp [hstep, deferredFault, abandonWait_idle hwait hjob, hdef, hrun, hdbg, hwait, hjob, hbusy, htx, ht]
    · simp [deferredFault, abandonWait_idle hwait hjob, hdef, hrun, hdbg, hwait, hjob, hbusy, htx, hw]
  case aborts =>
    simp [hstep, deferredFault, abandonWait_idle hwait hjob, hdef, hrun, hdbg, hwait, hjob, hbusy, htx]

end Sys2Proof.Machine
end

section
/-!
PROOFS. An access to lanes of the own store that nothing stands in the way of: every piece is read at once (R110), and the return through a
frame (R103).
-/
namespace Sys2Proof.Machine

/-! ### An instruction that reads its own store in pieces -/

theorem tbl_set_set {α : Type} (t : Tbl α) (k : Nat) (v w : α) : Tbl.set (Tbl.set t k v) k w = Tbl.set t k w := by
  induction t with
  | nil => simp [Tbl.set]
  | cons e t ih =>
    obtain ⟨j, u⟩ := e
    simp only [Tbl.set]
    split
    · simp [Tbl.set]
    · split
      · simp [Tbl.set]
      · next hlt hne => simp [Tbl.set, hlt, hne, ih]

theorem modThr_modThr (s : State) (k : Nat) (f g : Thread → Thread) : modThr (modThr s k f) k g = modThr s k fun t => g (f t) := by
  have hself : thr (modThr s k f) k = f (thr s k) := thr_modThr_self ..
  rw [modThr, hself]
  simp only [modThr, tbl_set_set]

/-- Thread `k` is within an instruction that it executes in pieces. -/
def withJob (s : State) (k : Nat) (j : Job) : State := modThr s k fun t => { t with job := some j }

section
variable {s : State} {k : Nat} {j : Job} {p : Part}

@[simp] theorem jobOf_withJob : jobOf (withJob s k j) k = j := by rw [jobOf, withJob, thr_modThr_self]; rfl

@[simp] theorem modJob_withJob (f : Job → Job) : modJob (withJob s k j) k f = withJob s k (f j) := by
  rw [modJob, jobOf_withJob, withJob, modThr_modThr]
  rfl

/-- A piece in the core's own store, on a line that no access of the thread in flight shares, that no commit holds and that is not poisoned. -/
def OwnPart (s : State) (k : Nat) (p : Part) : Prop :=
  ∃ o, p.x.tgt = .store (k / 8) o ∧ lineLocked s (.store (k / 8) o) = false ∧ homePoison s (.store (k / 8) o) = false ∧
    sbBlocked s k (targetAddr (.store (k / 8) o) / 64) (targetAddr (.store (k / 8) o) / 64) false = false

theorem readOut_own {a : Access1} (htx : (thr s k).tx.depth = 0) (hp : OwnPart s k p) (ha : a.x = p.x) :
    readOut (withJob s k j) k a p.len = .now (homeRead s p.x.tgt p.len) (withJob s k j) := by
  obtain ⟨o, htgt, hlock, hmark, hsb⟩ := hp
  have hout : inTx (withJob s k j) k = false := inTx_outside (by rw [withJob, thr_modThr_self]; exact htx)
  have hsb' : sbBlocked (withJob s k j) k (targetAddr (.store (k / 8) o) / 64) (targetAddr (.store (k / 8) o) / 64) false = false := hsb
  have hlock' : lineLocked (withJob s k j) (.store (k / 8) o) = false := hlock
  have hmark' : homePoison (withJob s k j) (.store (k / 8) o) = false := hmark
  simp only [readOut, hout, plainReadOut, ha, htgt, hsb', hlock', hmark', Bool.false_eq_true, if_false, if_true]
  rfl

/-- The next piece of an instruction is answered with the bytes at its address. -/
def pieceRead (s : State) (j : Job) (p : Part) : Job := { j with sent := j.sent + 1, got := Tbl.set j.got j.sent (homeRead s p.x.tgt p.len) }

/-- Pieces in the own store are all answered as they are sent. -/
theorem sendParts_own {pre todo : List Part} (htx : (thr s k).tx.depth = 0) (hkind : j.kind = .lanes) (hsplit : j.parts = pre ++ todo)
    (hsent : j.sent = pre.length) (hown : ∀ p ∈ todo, OwnPart s k p) :
    sendParts k 0 false false (todo.length + 1) (withJob s k j) = .ok (withJob s k (todo.foldl (pieceRead s) j)) := by
  induction todo generalizing j pre with
  | nil =>
    rw [sendParts]
    simp [hsplit, hsent]
  | cons p todo ih =>
    have hget : j.parts[j.sent]? = some p := by simp [hsplit, hsent]
    have hread (a : Access1) (ha : a.x = p.x) := readOut_own (j := j) htx (hown p List.mem_cons_self) ha
    have hdone : partDone (withJob s k { j with sent := j.sent + 1 }) k j.sent (homeRead s p.x.tgt p.len) = withJob s k (pieceRead s j p) := by
      simp [partDone, hkind, pieceRead]
    rw [List.length_cons, sendParts]
    simp only [jobOf_withJob, hget, Bool.false_eq_true, if_false, hread, modJob_withJob, hdone]
    exact ih hkind (by rw [List.append_cons] at hsplit; exact hsplit) (by simp [pieceRead, hsent]) fun q hq => hown q (List.mem_cons_of_mem _ hq)

theorem foldl_pieceRead (s : State) (ps : List Part) (j : Job) :
    (ps.foldl (pieceRead s) j).parts = j.parts ∧ (ps.foldl (pieceRead s) j).bad = j.bad ∧ (ps.foldl (pieceRead s) j).sent = j.sent + ps.length := by
  induction ps generalizing j with
  | nil => simp
  | cons p ps ih =>
    obtain ⟨hparts, hbad, hsent⟩ := ih (pieceRead s j p)
    refine ⟨hparts, hbad, ?_⟩
    rw [List.foldl_cons, hsent, List.length_cons]
    simp only [pieceRead]
    omega

end

section
variable {s : State} {k n : Nat} {firm : Bool} {lanes : List (Nat × W64)} {data : Nat → List Byte} {fin : State → Job → Res} {ps : List Part}

/-- Lanes whose checks pass and whose pieces all lie free in the own store: the instruction reads them and ends (R110). -/
theorem runLanes_own (htx : (thr s k).tx.depth = 0) (hjob : (thr s k).job = none) (hchecks : firstBad s k 0 .read n lanes = none)
    (hparts : chunkParts s k 0 n .read data (laneChunks n lanes) = ps) (hnote : notePieces s k (ps.map (·.va)) = s) (hown : ∀ p ∈ ps, OwnPart s k p)
    (hquiet : (ps.foldl (pieceRead s) (Job.start .lanes firm ps)).quiet = true) :
    let j := ps.foldl (pieceRead s) (Job.start .lanes firm ps)
    runLanes s k 0 n false false firm lanes data fin = fin (withJob s k j) j := by
  intro j
  obtain ⟨hjparts, hjbad, hjsent⟩ := foldl_pieceRead s ps (Job.start .lanes firm ps)
  have hsend : sendAll (withJob s k (Job.start .lanes firm ps)) k 0 false false = .ok (withJob s k j) := by
    rw [sendAll, jobOf_withJob]
    exact sendParts_own (pre := []) htx rfl rfl rfl hown
  have hfine : lowestBad j = none := by
    rw [lowestBad, hjbad]
    rfl
  have hall : j.sent = j.parts.length := by
    rw [hjsent, hjparts]
    exact Nat.zero_add _
  have hbegin : modThr s k (fun t => { t with job := some (Job.start .lanes firm ps) }) = withJob s k (Job.start .lanes firm ps) := rfl
  have hfineStart : lowestBad (Job.start .lanes firm ps) = none := rfl
  have hq : j.quiet = true := hquiet
  simp only [runLanes, hjob, Bool.false_eq_true, if_false, hchecks, hparts, hnote, hbegin, jobOf_withJob, hfineStart, Option.isSome_none, hsend, hfine, hq,
    hall, Bool.not_true, if_true]

end
end Sys2Proof.Machine
end

section
/-!
PROOFS. The frame that ERET reads from the own store (R103).
-/
namespace Sys2Proof.Machine

/-! ### The words of a frame, by line -/

/-- The eight words of a frame as lanes. -/
def frameLanes (a : W64) : List (Nat × W64) := (List.range 8).map fun i => (i, a + BitVec.ofNat 64 (8 * i))

/-- Words of a frame in the first line that it meets. -/
def firstWords (a : W64) : Nat := 8 - a.toNat % 64 / 8

/-- The runs of a frame's words that each lie in a line: the first word of each and how many. -/
def frameRuns (a : W64) : List (Nat × Nat) := if firstWords a = 8 then [(0, 8)] else [(0, firstWords a), (firstWords a, 8 - firstWords a)]

/-- A run of words as a chunk of lanes. -/
def runChunk (a : W64) (r : Nat × Nat) : W64 × List Nat := (a + BitVec.ofNat 64 (8 * r.1), (List.range r.2).map (r.1 + ·))

section
variable {a : W64}

theorem word_toNat (ha : a.toNat + 64 ≤ 0x78000) {i : Nat} (hi : i < 8) : (a + BitVec.ofNat 64 (8 * i)).toNat = a.toNat + 8 * i := by
  rw [BitVec.toNat_add, BitVec.toNat_ofNat]
  omega

theorem addLane_joins {n : Nat} {va b : W64} {ls : List Nat} {rest : List (W64 × List Nat)} {i : Nat} (hnext : b + BitVec.ofNat 64 (n * ls.length) = va)
    (hline : va.toNat / 64 = b.toNat / 64) : addLane n ((b, ls) :: rest) (i, va) = (b, ls ++ [i]) :: rest := if_pos ⟨hnext, hline⟩

theorem addLane_begins {n : Nat} {va b : W64} {ls : List Nat} {rest : List (W64 × List Nat)} {i : Nat} (hline : va.toNat / 64 ≠ b.toNat / 64) :
    addLane n ((b, ls) :: rest) (i, va) = (va, [i]) :: (b, ls) :: rest := if_neg fun h => hline h.2

theorem add_ofNat_words (a : W64) (b n : Nat) : a + BitVec.ofNat 64 (8 * b) + BitVec.ofNat 64 (8 * n) = a + BitVec.ofNat 64 (8 * (b + n)) := by
  rw [BitVec.add_assoc, ← BitVec.ofNat_add, Nat.mul_add]

/-- The chunks of the first words of a frame, the last one first. -/
theorem foldl_addLane (halign : a.toNat % 8 = 0) (ha : a.toNat + 64 ≤ 0x78000) {n : Nat} (h1 : 1 ≤ n) (h8 : n ≤ 8) :
    ((List.range n).map fun i => (i, a + BitVec.ofNat 64 (8 * i))).foldl (addLane 8) [] =
      if n ≤ firstWords a then [runChunk a (0, n)] else [runChunk a (firstWords a, n - firstWords a), runChunk a (0, firstWords a)] := by
  have hfirst : firstWords a = 8 - a.toNat % 64 / 8 := rfl
  have start : runChunk a (0, firstWords a) = (a, List.range (firstWords a)) := by simp [runChunk]
  induction n, h1 using Nat.le_induction with
  | base =>
    rw [if_pos (by omega)]
    simp [runChunk, addLane]
  | succ n h1 ih =>
    have hva := word_toNat ha (i := n) (by omega)
    rw [List.range_succ, List.map_append, List.foldl_append, ih (by omega), List.map_singleton, List.foldl_cons, List.foldl_nil]
    by_cases hin : n + 1 ≤ firstWords a
    · rw [if_pos (by omega), if_pos hin, runChunk, addLane_joins]
      · simp [runChunk, List.range_succ]
      · simp
      · rw [hva]; simp; omega
    · rw [if_neg hin]
      by_cases hnew : n ≤ firstWords a
      · have hn : n = firstWords a := by omega
        rw [if_pos hnew, hn, start, runChunk, addLane_begins]
        · simp
        · rw [← hn, hva]; omega
      · have hb := word_toNat ha (i := firstWords a) (by omega)
        rw [if_neg hnew, runChunk, addLane_joins]
        · rw [runChunk, runChunk, show n + 1 - firstWords a = n - firstWords a + 1 by omega, List.range_succ]
          simp only [List.map_append, List.map_singleton]
          rw [show firstWords a + (n - firstWords a) = n by omega]
        · simp only [List.length_map, List.length_range]
          rw [add_ofNat_words, show firstWords a + (n - firstWords a) = n by omega]
        · rw [hva, hb]; omega

theorem laneChunks_frame (halign : a.toNat % 8 = 0) (ha : a.toNat + 64 ≤ 0x78000) : laneChunks 8 (frameLanes a) = (frameRuns a).map (runChunk a) := by
  rw [laneChunks, frameLanes, foldl_addLane halign ha (by decide) (by decide), frameRuns]
  have hfirst : firstWords a ≤ 8 := Nat.sub_le _ _
  by_cases hwhole : firstWords a = 8
  · rw [if_pos (by omega), if_pos hwhole]
    rfl
  · rw [if_neg (by omega), if_neg hwhole]
    rfl

end

/-! ### Reading the frame -/

section
variable {s : State} {k c o : Nat} {a : W64}

theorem targetByte_store (s : State) (c o i : Nat) : targetByte s (.store c o) i = storeByte s c (o + i) := rfl

/-- A part of the bytes read from a store is what is read from that part. -/
theorem homeRead_slice {len p n : Nat} (h : p + n ≤ len) : ((homeRead s (.store c o) len).drop p).take n = homeRead s (.store c (o + p)) n := by
  refine List.ext_getElem ?_ fun i hi _ => ?_
  · rw [List.length_take, List.length_drop, homeRead_length, homeRead_length]
    omega
  · simp [homeRead, targetByte_store, Nat.add_assoc]

/-- The bytes of a run of words, by word. -/
theorem runWords (s : State) (c o b n : Nat) :
    ((List.range ((List.range n).map (b + ·)).length).zip ((List.range n).map (b + ·))).map
        (fun l => (l.2, ((homeRead s (.store c (o + 8 * b)) (8 * n)).drop (8 * l.1)).take 8)) =
      (List.range n).map fun i => (b + i, homeRead s (.store c (o + 8 * (b + i))) 8) := by
  rw [List.length_map, List.length_range, ← List.map_id (List.range n), List.map_map, List.zip_map', List.map_map, List.map_map]
  refine List.map_congr_left fun i hi => ?_
  have hlt := List.mem_range.mp hi
  simp only [Function.comp, id]
  rw [homeRead_slice (by omega), Nat.add_assoc, ← Nat.mul_add]

/-- The words of a frame joined are its bytes. -/
theorem flatMap_words (s : State) (c o n : Nat) : (List.range n).flatMap (fun i => homeRead s (.store c (o + 8 * i)) 8) = homeRead s (.store c o) (8 * n) := by
  induction n with
  | zero => rfl
  | succ n ih =>
    rw [List.range_succ, List.flatMap_append, ih, List.flatMap_singleton, homeRead, homeRead, homeRead, Nat.mul_succ, List.range_add, List.map_append,
      List.map_map]
    refine congrArg _ (List.map_congr_left fun j _ => ?_)
    simp only [Function.comp, targetByte_store, Nat.add_assoc]

/-- The word of a frame read from the store. -/
theorem frameOf_getD (s : State) (c o : Nat) {i : Nat} (hi : i < 8) : (frameOf (homeRead s (.store c o) 64)).getD i 0 = storeWord s c (o + 8 * i) := by
  rw [frameOf, List.getD_eq_getElem _ _ (by simpa using hi), List.getElem_map, List.getElem_range, homeRead_slice (by omega)]
  rfl

/-- The piece of a run of a frame's words in the own store. -/
def runPart (k : Nat) (a : W64) (r : Nat × Nat) : Part :=
  { place := r.1, side := false, va := a + BitVec.ofNat 64 (8 * r.1), x := { tgt := .store (k / 8) (a.toNat + 8 * r.1), nc := false, page := none },
    len := 8 * r.2, data := [] }

theorem mem_frameRuns {r : Nat × Nat} (h : r ∈ frameRuns a) : r.1 < 8 ∧ 0 < r.2 := by
  have hfirst : firstWords a = 8 - a.toNat % 64 / 8 := rfl
  rw [frameRuns] at h
  split at h
  · rw [List.mem_singleton.1 h]
    exact ⟨by decide, by decide⟩
  · simp only [List.mem_cons, List.not_mem_nil, or_false] at h
    rcases h with rfl | rfl <;> dsimp only <;> omega

/-- The job of an instruction that has read a frame. -/
def frameRead (s : State) (k : Nat) (a : W64) : Job := ((frameRuns a).map (runPart k a)).foldl (pieceRead s) (Job.start .lanes true ((frameRuns a).map (runPart k a)))

theorem frameRead_quiet : (frameRead s k a).quiet = true := by
  rw [frameRead, frameRuns]
  split <;> rfl

theorem lanesGot_frame (halign : a.toNat % 8 = 0) (ha : a.toNat + 64 ≤ 0x78000) :
    lanesGot (frameRead s k a) 8 (frameLanes a) = (List.range 8).map fun i => (i, homeRead s (.store (k / 8) (a.toNat + 8 * i)) 8) := by
  have hfirst : firstWords a ≤ 8 := Nat.sub_le _ _
  rw [lanesGot, laneChunks_frame halign ha, frameRead, frameRuns]
  split
  · have hrun := runWords s (k / 8) a.toNat 0 8
    refine (List.append_nil _).trans (hrun.trans ?_)
    simp only [Nat.zero_add]
  · have hone := runWords s (k / 8) a.toNat 0 (firstWords a)
    have htwo := runWords s (k / 8) a.toNat (firstWords a) (8 - firstWords a)
    refine (congrArg₂ (· ++ ·) hone ((List.append_nil _).trans htwo)).trans ?_
    simp only [Nat.zero_add]
    have hsplit : List.range 8 = List.range (firstWords a) ++ (List.range (8 - firstWords a)).map (firstWords a + ·) := by
      rw [← List.range_add, Nat.add_sub_cancel' hfirst]
    rw [hsplit, List.map_append, List.map_map]
    rfl

end

end Sys2Proof.Machine
end

section
/-!
PROOFS. ERET through a frame in the own store (R103).
-/
namespace Sys2Proof.Machine

section
variable {s : State} {k : Nat} {a va : W64}

/-- A thread below P2 in a context, outside transactions and within no instruction, with a frame at `a` in a free part of its own store. -/
structure FrameReady (s : State) (k : Nat) (a : W64) : Prop where
  level : lvlOf s k ≠ 2
  ctx : (ctxOf s k).isSome = true
  outside : (thr s k).tx.depth = 0
  job : (thr s k).job = none
  aligned : a.toNat % 8 = 0
  room : a.toNat + 64 ≤ 0x78000
  free : FreeFrame s k a.toNat false

theorem checkPiece_own (hr : FrameReady s k a) (place : Nat) (halign : va.toNat % 8 = 0) (hva : va.toNat < 0x78000) :
    checkPiece s k 0 place .read va 8 = .at { tgt := .store (k / 8) va.toNat, nc := false, page := none } := by
  obtain ⟨htr, -⟩ := translate_own hr.level hr.ctx hva .read
  simp [checkPiece, halign, htr, outOfReach]

theorem firstBad_frame (hr : FrameReady s k a) : firstBad s k 0 .read 8 (frameLanes a) = none := by
  have passes (l : List Nat) (hl : ∀ i ∈ l, i < 8) : firstBad s k 0 .read 8 (l.map fun i => (i, a + BitVec.ofNat 64 (8 * i))) = none := by
    induction l with
    | nil => rfl
    | cons i l ih =>
      have hva := word_toNat hr.room (hl i List.mem_cons_self)
      have halign := hr.aligned
      have hroom := hr.room
      have hi := hl i List.mem_cons_self
      rw [List.map_cons, firstBad, checkPiece_own hr i (by omega) (by omega)]
      exact ih fun i hi => hl i (List.mem_cons_of_mem _ hi)
  exact passes _ fun i hi => List.mem_range.mp hi

theorem chunkParts_frame (hr : FrameReady s k a) :
    chunkParts s k 0 8 .read (fun _ => []) (laneChunks 8 (frameLanes a)) = (frameRuns a).map (runPart k a) := by
  rw [laneChunks_frame hr.aligned hr.room, chunkParts, List.filterMap_map, ← List.filterMap_eq_map]
  refine List.filterMap_congr fun r hmem => ?_
  obtain ⟨hfirst, hlen⟩ := mem_frameRuns hmem
  have hva := word_toNat hr.room hfirst
  have halign := hr.aligned
  have hroom := hr.room
  have hhead : ((List.range r.2).map (r.1 + ·)).headD 0 = r.1 := by
    obtain ⟨n, hn⟩ := Nat.exists_eq_succ_of_ne_zero hlen.ne'
    rw [hn, List.range_succ_eq_map]
    rfl
  simp only [Function.comp, runChunk, hhead, checkPiece_own hr r.1 (show (a + BitVec.ofNat 64 (8 * r.1)).toNat % 8 = 0 by omega) (by omega), hva,
    List.length_map, List.length_range]
  simp [runPart]

theorem notePieces_frame (hr : FrameReady s k a) : notePieces s k (((frameRuns a).map (runPart k a)).map (·.va)) = s := by
  have unnoted (vas : List W64) (hvas : ∀ va ∈ vas, va.toNat < 0x78000) : notePieces s k vas = s := by
    induction vas with
    | nil => rfl
    | cons va vas ih =>
      obtain ⟨-, hnote⟩ := translate_own hr.level hr.ctx (hvas va List.mem_cons_self) .read
      rw [notePieces, List.foldl_cons, hnote]
      exact ih fun va hva => hvas va (List.mem_cons_of_mem _ hva)
  refine unnoted _ fun va hva => ?_
  obtain ⟨p, hp, rfl⟩ := List.mem_map.mp hva
  obtain ⟨r, hmem, rfl⟩ := List.mem_map.mp hp
  obtain ⟨hfirst, -⟩ := mem_frameRuns hmem
  have hword := word_toNat hr.room hfirst
  have hroom := hr.room
  show (a + BitVec.ofNat 64 (8 * r.1)).toNat < 0x78000
  omega

theorem ownPart_frame (hr : FrameReady s k a) : ∀ p ∈ (frameRuns a).map (runPart k a), OwnPart s k p := by
  intro p hp
  obtain ⟨r, hmem, rfl⟩ := List.mem_map.mp hp
  obtain ⟨hfirst, -⟩ := mem_frameRuns hmem
  obtain ⟨hlock, hmark, hsb⟩ := hr.free (8 * r.1) (by omega)
  exact ⟨a.toNat + 8 * r.1, rfl, hlock, hmark, hsb⟩

/-- The words of the frame at an address of the own store. -/
def ownFrame (s : State) (k : Nat) (a : W64) : List W64 := frameOf (homeRead s (.store (k / 8) a.toNat) 64)

theorem frameOf_lanesGot (hr : FrameReady s k a) : frameOf ((lanesGot (frameRead s k a) 8 (frameLanes a)).flatMap (·.2)) = ownFrame s k a := by
  rw [lanesGot_frame hr.aligned hr.room, List.flatMap_map]
  exact congrArg frameOf (flatMap_words s (k / 8) a.toNat 8)

/-- What ERET does once its frame is read, where the newest record holds the level `l` (R103). -/
def eretThrough (k l : Nat) (a : W64) (s : State) (j : Job) : Res :=
  let f := frameOf ((lanesGot j 8 (frameLanes a)).flatMap (·.2))
  let p := bits (f.getD 1 0).toNat 1 0
  if p = 3 ∨ l < p then .trap s (scalarExn 17 0) else .jump (returnFrame s k f) (f.getD 0 0 &&& ~~~ 1)

/-- ERET reads its frame at once and, where the frame's level is not above the recorded one, returns through it (R103). -/
theorem bodyEret_own {l : Nat} (hr : FrameReady s k (rx s k 30)) (hrec : recordedLevel (thr s k).sys = some l)
    (hp : ¬ (bits ((ownFrame s k (rx s k 30)).getD 1 0).toNat 1 0 = 3 ∨ l < bits ((ownFrame s k (rx s k 30)).getD 1 0).toNat 1 0)) :
    bodyEret 0 0 s k = .jump (returnFrame (withJob s k (frameRead s k (rx s k 30))) k (ownFrame s k (rx s k 30)))
      ((ownFrame s k (rx s k 30)).getD 0 0 &&& ~~~ 1) := by
  have hread : runLanes s k 0 8 false false true (frameLanes (rx s k 30)) (fun _ => []) (eretThrough k l (rx s k 30)) =
      eretThrough k l (rx s k 30) (withJob s k (frameRead s k (rx s k 30))) (frameRead s k (rx s k 30)) :=
    runLanes_own hr.outside hr.job (firstBad_frame hr) (chunkParts_frame hr) (notePieces_frame hr) (ownPart_frame hr) frameRead_quiet
  have hthrough : eretThrough k l (rx s k 30) (withJob s k (frameRead s k (rx s k 30))) (frameRead s k (rx s k 30)) =
      .jump (returnFrame (withJob s k (frameRead s k (rx s k 30))) k (ownFrame s k (rx s k 30))) ((ownFrame s k (rx s k 30)).getD 0 0 &&& ~~~ 1) := by
    simp only [eretThrough, frameOf_lanesGot hr]
    exact if_neg hp
  simp only [bodyEret, inTx_outside hr.outside, hrec, hr.aligned, ne_eq, not_true_eq_false, or_self, Bool.false_eq_true, if_false]
  exact hread.trans hthrough

/-! ### The return -/

/-- The system registers after a return through a frame of the words `f`, BKS being 0 (R103). -/
def returnedSys (f : List W64) (y : SysRegs) : SysRegs :=
  { y with
    priv := BitVec.ofNat 2 (bits (f.getD 1 0).toNat 1 0), mask := BitVec.ofNat 2 (bits (f.getD 1 0).toNat 5 4), bks := false
    rpc := (f.getD 4 0).setWidth 16, vprog := f.getD 5 0, depth := y.depth - 1, recs := y.recs &&& BitVec.ofNat 16 (4 ^ (y.depth - 1) - 1) }

theorem modSys_congr {g g' : SysRegs → SysRegs} (h : g (thr s k).sys = g' (thr s k).sys) : modSys s k g = modSys s k g' := by
  rw [modSys, modSys, modThr, modThr, h]

/-- A return from a level below P2 with BKS at 0 stays on its stack: it restores x28 and x29 and pops the frame (R103). -/
theorem returnFrame_below (s : State) (k : Nat) (f : List W64) (hbks : (thr s k).sys.bks = false) (hpriv : (thr s k).sys.priv.toNat < 2) :
    returnFrame s k f = modSys (wx (wx (wx s k 28 (f.getD 6 0)) k 29 (f.getD 7 0)) k 30 (rx s k 30 + 64)) k (returnedSys f) := by
  have hne : (thr s k).sys.priv ≠ 2 := by
    intro htwo
    rw [htwo] at hpriv
    exact absurd hpriv (by decide)
  simp only [returnFrame, hbks, hne, decide_false, Bool.false_and, Bool.or_false, Bool.false_eq_true, if_false]
  refine modSys_congr ?_
  simp [thr_wx, hbks, returnedSys]

theorem thr_dropJob (s : State) (k : Nat) : thr (dropJob s k) k = { thr s k with job := none } := by
  rw [dropJob]
  split
  · next hnone => rw [← hnone]
  · rw [thr_modThr_self, thr_modCore]

theorem storeByte_modThr (s : State) (k : Nat) (g : Thread → Thread) (c o : Nat) : storeByte (modThr s k g) c o = storeByte s c o := rfl

theorem sameMemory_dropJob (s : State) (k : Nat) : SameMemory s (dropJob s k) := by
  rw [dropJob]
  split
  · exact sameMemory_refl s
  · refine ⟨fun _ => rfl, fun c o => ?_, fun _ => rfl⟩
    rw [storeByte_modThr, storeByte_modCore]
    exact fun _ => rfl

/-- The state after ERET through the words `f` (R103). -/
def returned (s : State) (k : Nat) (j : Job) (f : List W64) : State :=
  goesOn (dropJob (returnFrame (withJob s k j) k f) k) k (f.getD 0 0 &&& ~~~ 1)

section
variable {j : Job} {f : List W64} (hbks : (thr s k).sys.bks = false) (hpriv : (thr s k).sys.priv.toNat < 2)
include hbks hpriv

theorem returnFrame_withJob : returnFrame (withJob s k j) k f =
    modSys (wx (wx (wx (withJob s k j) k 28 (f.getD 6 0)) k 29 (f.getD 7 0)) k 30 (rx s k 30 + 64)) k (returnedSys f) := by
  have hself : thr (withJob s k j) k = { thr s k with job := some j } := thr_modThr_self ..
  rw [returnFrame_below _ k f (by rw [hself]; exact hbks) (by rw [hself]; exact hpriv), rx_of_x s k k (t := withJob s k j) (by rw [hself])]

theorem thr_returned : ∃ x, thr (returned s k j f) k = { thr s k with
    x := x, job := none, pc := f.getD 0 0 &&& ~~~ 1, sys := { returnedSys f (thr s k).sys with instret := (thr s k).sys.instret + 1 } } := by
  have hself : thr (withJob s k j) k = { thr s k with job := some j } := thr_modThr_self ..
  refine ⟨(thr (returned s k j f) k).x, ?_⟩
  rw [returned, thr_goesOn, thr_dropJob, returnFrame_withJob hbks hpriv, modSys, thr_modThr_self, thr_wx, thr_wx, thr_wx, hself]
  rfl

theorem rx_returned (r : BitVec 5) : rx (returned s k j f) k r =
    if r = 0 then 0 else if r = 30 then rx s k 30 + 64 else if r = 29 then f.getD 7 0 else if r = 28 then f.getD 6 0 else rx s k r := by
  have hregs : rx (withJob s k j) k r = rx s k r := rx_of_x s k k (by rw [withJob, thr_modThr_self]) r
  have hx : (thr (returned s k j f) k).x = (thr (wx (wx (wx (withJob s k j) k 28 (f.getD 6 0)) k 29 (f.getD 7 0)) k 30 (rx s k 30 + 64)) k).x := by
    rw [returned, thr_goesOn, thr_dropJob, returnFrame_withJob hbks hpriv, modSys, thr_modThr_self]
  rw [rx_of_x _ k k hx, rx_wx, rx_wx, rx_wx, hregs]
  split <;> rfl

theorem sameMemory_returned : SameMemory s (returned s k j f) := by
  have hstart : SameMemory s (withJob s k j) := sameMemory_of_eq rfl rfl rfl rfl rfl
  have hregs : SameMemory (withJob s k j) (returnFrame (withJob s k j) k f) := by
    rw [returnFrame_withJob hbks hpriv]
    exact sameMemory_trans (sameMemory_wx ..) (sameMemory_trans (sameMemory_wx ..) (sameMemory_trans (sameMemory_wx ..) (sameMemory_of_eq rfl rfl rfl rfl rfl)))
  exact sameMemory_trans hstart (sameMemory_trans hregs (sameMemory_trans (sameMemory_dropJob ..) (sameMemory_goesOn ..)))

end

end

section
variable {h : Hart} {s : State}

/-- ERET through a frame that stands ready in the own store, its level not above the recorded one (R103). -/
theorem exec_eret_own {l : Nat} (hr : Ready h [28, 29, 30] s) (hf : Fetches (.eret h 0 0) s) (hframe : FrameReady s h.key (rx s h.key 30))
    (hrec : recordedLevel (thr s h.key).sys = some l)
    (hp : ¬ (bits ((ownFrame s h.key (rx s h.key 30)).getD 1 0).toNat 1 0 = 3 ∨ l < bits ((ownFrame s h.key (rx s h.key 30)).getD 1 0).toNat 1 0)) :
    exec (.eret h 0 0) s = .next (returned s h.key (frameRead s h.key (rx s h.key 30)) (ownFrame s h.key (rx s h.key 30))) :=
  (issue_ready hr rfl hf 0 (bodyEret 0 0)).trans (by rw [bodyEret_own hframe hrec hp]; rfl)

theorem recordedLevel_some {y : SysRegs} (hbks : y.bks = false) (hdepth : 0 < y.depth) :
    recordedLevel y = some (bits y.recs.toNat (2 * y.depth - 1) (2 * y.depth - 2)) := by
  rw [recordedLevel, if_neg (by simp [hbks]), if_neg hdepth.ne']

/-- The word of the frame at `a`, as the claims name it. -/
theorem ownFrame_getD (s : State) (h : Hart) (a : W64) {i : Nat} (hi : i < 8) :
    (ownFrame s h.key a).getD i 0 = storeWord s h.core.toNat (a.toNat + 8 * i) := by
  rw [ownFrame, frameOf_getD s _ _ hi, key_div]

end

theorem returnFromException : Claims.ReturnFromException := by
  intro h s hr k c y sp status hpriv hbks hdepth hmax htx hctx halign hroom hfree hf hlevel hvalid
  have hjob : (thr s k).job = none := by
    obtain ⟨-, -, hjob, -⟩ := hr
    exact hjob
  have hframe : FrameReady s k (rx s k 30) := ⟨Nat.ne_of_lt hpriv, hctx, htx, hjob, halign, hroom, hfree⟩
  have word {i : Nat} (hi : i < 8) := ownFrame_getD s h (rx s k 30) hi
  have hfirst : (ownFrame s k (rx s k 30)).getD 0 0 = storeWord s c sp := word (by decide)
  have hstatus : ((ownFrame s k (rx s k 30)).getD 1 0).toNat = status := congrArg BitVec.toNat (word (by decide))
  have hlow : bits status 1 0 = status % 4 := by simp [bits]
  have hstep := exec_eret_own hr hf hframe (recordedLevel_some hbks hdepth) (by
    rw [hstatus, hlow]
    exact not_or.2 ⟨hvalid, Nat.not_lt.2 hlevel⟩)
  generalize frameRead s k (rx s k 30) = j at hstep
  generalize ownFrame s k (rx s k 30) = f at *
  obtain ⟨x, hthr⟩ := thr_returned (j := j) (f := f) hbks hpriv
  have reg (r : BitVec 5) := rx_returned (j := j) (f := f) hbks hpriv r
  refine ⟨_, hstep, ?pc, ?priv, ?mask, ?rpc, ?vprog, ?depth, ?cause, ?instret, ?x28, ?x29, ?x30, fun r h28 h29 h30 => ?xs,
    sameMemory_returned hbks hpriv⟩
  case x30 => exact (reg 30).trans rfl
  case x29 => exact (reg 29).trans (word (i := 7) (by decide))
  case x28 => exact (reg 28).trans (word (i := 6) (by decide))
  case xs =>
    rw [reg, if_neg h30, if_neg h29, if_neg h28]
    split
    · next hzero => rw [hzero, rx_zero]
    · rfl
  all_goals rw [hthr]
  case pc => exact congrArg (· &&& ~~~ 1) hfirst
  case depth | cause => rfl
  case rpc => exact congrArg (BitVec.setWidth 16) (word (i := 4) (by decide))
  case vprog => exact word (i := 5) (by decide)
  case priv | mask =>
    simp only [returnedSys, hstatus]
    simp [bits]

/-- Settles O14: entries by `enterAt_own`, the return by `runLanes_own` and `returnFrame_below`, the boundary by their own cases. -/
theorem trapsAndReturns : Obligations.TrapsAndReturns := ⟨trapEntry, returnFromException, interruptTaken, deferredFaultTaken⟩

end Sys2Proof.Machine
end

section
/-!
PROOFS. Rounding gives the nearest value of the format (R106): the magnitudes of a format's patterns rise, a magnitude lies between two
neighbours as `bracket` says, and the nearer neighbour is the nearest of all.
-/
namespace Sys2Proof.Machine

/-! ### The magnitudes of a format's patterns -/

/-- The rational number that a value stands for; 0 for what is not finite. -/
def Fv.rat : Fv → ℚ
  | .fin n m e => (if n then -1 else 1) * m * (2 : ℚ) ^ e
  | _ => 0

/-- The magnitude that a pattern without its sign stands for. -/
def magOf (f : Fmt) (v : Nat) : ℚ := (magValue f false v).rat

section
variable (f : Fmt)

theorem rat_magValue (neg : Bool) (v : Nat) : (magValue f neg v).rat = (if neg then -1 else 1) * magOf f v := by
  simp only [magOf, magValue]
  split <;> simp only [Fv.rat, Bool.false_eq_true, if_false, one_mul, mul_assoc]

@[simp] theorem magOf_zero : magOf f 0 = 0 := by simp [magOf, magValue, Fv.rat]

/-- The patterns `n` exponents above the subnormals are evenly spaced up to the first of the next exponent. -/
theorem magOf_binade {n v : Nat} (hv : v ≤ 2 * 2 ^ f.mb) (hn : n = 0 ∨ 2 ^ f.mb ≤ v) : magOf f (n * 2 ^ f.mb + v) = v * (2 : ℚ) ^ (f.low + n) := by
  have hpos : 0 < 2 ^ f.mb := by positivity
  have hdiv : (n * 2 ^ f.mb + v) / 2 ^ f.mb = n + v / 2 ^ f.mb := by rw [Nat.add_comm, Nat.add_mul_div_right _ _ hpos, Nat.add_comm]
  have hmod : (n * 2 ^ f.mb + v) % 2 ^ f.mb = v % 2 ^ f.mb := by rw [Nat.add_comm, Nat.add_mul_mod_self_right]
  simp only [magOf, magValue, hdiv, hmod]
  rcases Nat.lt_or_ge v (2 ^ f.mb) with hsub | hnormal
  · obtain rfl : n = 0 := by omega
    simp [Nat.div_eq_of_lt hsub, Fv.rat]
  rcases hv.lt_or_eq with hlt | htop
  · have hone : v / 2 ^ f.mb = 1 := Nat.div_eq_of_lt_le (by omega) (by omega)
    have hsplit : 2 ^ f.mb + v % 2 ^ f.mb = v := by rw [Nat.mod_eq_sub_div_mul, hone]; omega
    have hexp : f.low + ((n + 1 : Nat) : Int) - 1 = f.low + n := by push_cast; ring
    rw [hone, if_neg n.succ_ne_zero, hsplit, hexp]
    simp [Fv.rat]
  · have htwo : v / 2 ^ f.mb = 2 := by rw [htop, Nat.mul_div_cancel _ hpos]
    have hexp : f.low + ((n + 2 : Nat) : Int) - 1 = f.low + n + 1 := by push_cast; ring
    rw [htwo, if_neg (by omega), hexp, htop, Nat.mul_mod_left, Nat.add_zero]
    simp only [Fv.rat, Bool.false_eq_true, if_false, zpow_add₀ (two_ne_zero' ℚ), zpow_one]
    push_cast
    ring

theorem magOf_lt_succ (v : Nat) : magOf f v < magOf f (v + 1) := by
  have hpos : 0 < 2 ^ f.mb := by positivity
  have hmod := Nat.mod_lt v hpos
  have hsplit := Nat.div_add_mod' v (2 ^ f.mb)
  obtain ⟨n, w, hw, hn, rfl⟩ : ∃ n w, w + 1 ≤ 2 * 2 ^ f.mb ∧ (n = 0 ∨ 2 ^ f.mb ≤ w) ∧ n * 2 ^ f.mb + w = v := by
    rcases hd : v / 2 ^ f.mb with _ | d
    · exact ⟨0, v, by rw [hd] at hsplit; omega, .inl rfl, by omega⟩
    · rw [hd, Nat.succ_mul] at hsplit
      exact ⟨d, 2 ^ f.mb + v % 2 ^ f.mb, by omega, .inr (by omega), by omega⟩
  rw [Nat.add_assoc, magOf_binade f (by omega) hn, magOf_binade f hw (hn.imp_right fun h => by omega)]
  have hunit : (0 : ℚ) < 2 ^ (f.low + n) := by positivity
  push_cast
  linarith [add_mul (w : ℚ) 1 (2 ^ (f.low + n))]

theorem magOf_strictMono : StrictMono (magOf f) := strictMono_nat_of_lt_succ (magOf_lt_succ f)

theorem magOf_nonneg (v : Nat) : 0 ≤ magOf f v := (magOf_zero f).symm.le.trans ((magOf_strictMono f).monotone v.zero_le)

end

/-! ### A magnitude between its neighbours -/

/-- A magnitude lies between the magnitudes of the pattern `b.1` and the next one, `b.2.1` of `2 ^ b.2.2` parts of the way up. -/
def Between (f : Fmt) (x : ℚ) (b : Nat × Nat × Nat) : Prop :=
  b.2.1 < 2 ^ b.2.2 ∧ x = magOf f b.1 + (b.2.1 : ℚ) / 2 ^ b.2.2 * (magOf f (b.1 + 1) - magOf f b.1)

/-- A magnitude of `M` units of an exponent and a fraction lies between its neighbours. -/
theorem between_binade {f : Fmt} {x : ℚ} {n M r sh : Nat} (hM : M < 2 * 2 ^ f.mb) (hn : n = 0 ∨ 2 ^ f.mb ≤ M) (hr : r < 2 ^ sh)
    (hx : x = (M + (r : ℚ) / 2 ^ sh) * 2 ^ (f.low + n)) : Between f x (n * 2 ^ f.mb + M, r, sh) := by
  refine ⟨hr, ?_⟩
  dsimp only
  rw [Nat.add_assoc, magOf_binade f hM.le hn, magOf_binade f hM (hn.imp_right fun h => h.trans M.le_succ), hx]
  push_cast
  ring

theorem between_bracket (f : Fmt) (m : Nat) (e : Int) : Between f (m * 2 ^ e) (bracket f m e) := by
  rcases eq_or_ne m 0 with rfl | hm
  · simp [bracket, Between]
  have hlow : 2 ^ m.log2 ≤ m := Nat.log2_self_le hm
  have hhigh : m < 2 ^ (m.log2 + 1) := Nat.lt_log2_self
  have hmb : 2 * 2 ^ f.mb = 2 ^ (f.mb + 1) := (pow_succ' 2 f.mb).symm
  simp only [bracket, if_neg hm]
  obtain ⟨n, hn⟩ : ∃ n : Nat, (n : Int) = max (e + m.log2) (1 - f.bias) - (1 - f.bias) := ⟨_, Int.toNat_of_nonneg (by omega)⟩
  have hq : max (e + m.log2) (1 - f.bias) - f.mb = f.low + n := by rw [hn, Fmt.low]; omega
  have hlowEq : f.low = 1 - f.bias - f.mb := rfl
  rw [← hn, Int.toNat_natCast, hq]
  split
  · next hle =>
    obtain ⟨j, hj⟩ : ∃ j : Nat, e = f.low + n + j := ⟨(e - (f.low + n)).toNat, by omega⟩
    have hshift : (e - (f.low + n)).toNat = j := by omega
    rw [hshift]
    refine between_binade ?_ ?_ (by simp) ?_
    · rw [hmb]
      calc m * 2 ^ j < 2 ^ (m.log2 + 1) * 2 ^ j := Nat.mul_lt_mul_of_pos_right hhigh (by positivity)
        _ = 2 ^ (m.log2 + 1 + j) := (pow_add ..).symm
        _ ≤ 2 ^ (f.mb + 1) := Nat.pow_le_pow_right (by decide) (by omega)
    · refine or_iff_not_imp_left.2 fun hpos => ?_
      calc 2 ^ f.mb ≤ 2 ^ (m.log2 + j) := Nat.pow_le_pow_right (by decide) (by omega)
        _ = 2 ^ m.log2 * 2 ^ j := pow_add ..
        _ ≤ m * 2 ^ j := Nat.mul_le_mul_right _ hlow
    · rw [hj, zpow_add₀ (two_ne_zero' ℚ) (f.low + n), zpow_natCast]
      push_cast
      ring
  · next hgt =>
    obtain ⟨sh, hsh⟩ : ∃ sh : Nat, f.low + n = e + sh := ⟨(f.low + n - e).toNat, by omega⟩
    have hshift : (f.low + n - e).toNat = sh := by omega
    rw [hshift]
    refine between_binade ?_ ?_ (Nat.mod_lt _ (by positivity)) ?_
    · rw [hmb]
      refine Nat.div_lt_of_lt_mul (hhigh.trans_le ?_)
      rw [← pow_add]
      exact Nat.pow_le_pow_right (by decide) (by omega)
    · refine or_iff_not_imp_left.2 fun hpos => ?_
      rw [Nat.le_div_iff_mul_le (by positivity), ← pow_add]
      exact (Nat.pow_le_pow_right (by decide) (by omega)).trans hlow
    · have hsplit : ((m / 2 ^ sh : Nat) : ℚ) * 2 ^ sh + (m % 2 ^ sh : Nat) = m := by exact_mod_cast Nat.div_add_mod' m (2 ^ sh)
      rw [hsh, zpow_add₀ (two_ne_zero' ℚ) e, zpow_natCast, ← hsplit]
      field_simp

/-! ### The nearest pattern -/

section
variable {f : Fmt} {x : ℚ} {b : Nat × Nat × Nat}

/-- No pattern's magnitude lies nearer than that of the neighbour which `nearest` takes. -/
theorem nearest_le (hb : Between f x b) (p : Nat) : |magOf f (nearest b) - x| ≤ |magOf f p - x| := by
  obtain ⟨i, r, sh⟩ := b
  obtain ⟨hr, hx⟩ := hb
  dsimp only at hr hx
  have hstep := magOf_lt_succ f i
  have hpow : (0 : ℚ) < 2 ^ sh := by positivity
  have hr' : (r : ℚ) < 2 ^ sh := by exact_mod_cast hr
  have hfrac : 0 ≤ (r : ℚ) / 2 ^ sh ∧ (r : ℚ) / 2 ^ sh < 1 := ⟨by positivity, (div_lt_one hpow).2 hr'⟩
  generalize hd : magOf f (i + 1) - magOf f i = d at hx
  have hlo : magOf f i ≤ x := by nlinarith
  have hhi : x ≤ magOf f (i + 1) := by nlinarith
  have hp : magOf f p ≤ magOf f i ∨ magOf f (i + 1) ≤ magOf f p :=
    (Nat.lt_or_ge i p).symm.imp (fun h => (magOf_strictMono f).monotone h) fun h => (magOf_strictMono f).monotone h
  simp only [nearest]
  split
  · next hup =>
    have hhalf : (1 : ℚ) / 2 ≤ r / 2 ^ sh := by
      rw [le_div_iff₀ hpow]
      have : 2 ^ sh ≤ 2 * r := by omega
      have : (2 : ℚ) ^ sh ≤ 2 * r := by exact_mod_cast this
      linarith
    have hmid : magOf f (i + 1) - x ≤ x - magOf f i := by nlinarith
    rw [abs_of_nonneg (by linarith)]
    rcases hp with hp | hp
    · exact (by linarith : _ ≤ -(magOf f p - x)).trans (neg_le_abs _)
    · exact (by linarith : _ ≤ magOf f p - x).trans (le_abs_self _)
  · next hdown =>
    have hhalf : (r : ℚ) / 2 ^ sh ≤ 1 / 2 := by
      rw [div_le_iff₀ hpow]
      have : 2 * r ≤ 2 ^ sh := by omega
      have : (2 * r : ℚ) ≤ 2 ^ sh := by exact_mod_cast this
      linarith
    have hmid : x - magOf f i ≤ magOf f (i + 1) - x := by nlinarith
    rw [abs_of_nonpos (by linarith)]
    rcases hp with hp | hp
    · exact (by linarith : _ ≤ -(magOf f p - x)).trans (neg_le_abs _)
    · exact (by linarith : _ ≤ magOf f p - x).trans (le_abs_self _)

end

/-! ### Finite patterns -/

section
variable {f : Fmt} {p : Nat}

theorem infBits_lt (f : Fmt) : f.infBits < 2 ^ (f.eb + f.mb) := by
  have hpos : 0 < 2 ^ f.mb := by positivity
  rw [Fmt.infBits, pow_add]
  exact Nat.mul_lt_mul_of_pos_right (Nat.sub_lt (by positivity) Nat.one_pos) hpos

theorem unpack_finite (hp : p % 2 ^ (f.eb + f.mb) < f.infBits) :
    unpack f p = magValue f (bit p (f.eb + f.mb)) (p % 2 ^ (f.eb + f.mb)) := by
  simp only [unpack]
  rw [if_neg hp.ne, if_neg hp.not_gt]

theorem signed_mod (neg : Bool) {v : Nat} (hv : v < 2 ^ p) : (b2n neg * 2 ^ p + v) % 2 ^ p = v := by
  rw [Nat.mul_comm, Nat.mul_add_mod, Nat.mod_eq_of_lt hv]

theorem signed_bit (neg : Bool) {v : Nat} (hv : v < 2 ^ p) : bit (b2n neg * 2 ^ p + v) p = neg := by
  rw [bit, Nat.mul_comm, Nat.mul_add_div (by positivity), Nat.div_eq_of_lt hv]
  cases neg <;> rfl

/-- A value that rounds to a finite pattern rounds to the nearest pattern of its magnitude, with its sign. -/
theorem unpack_pack_finite {neg : Bool} {m : Nat} {e : Int} (h : pack f (.fin neg m e) % 2 ^ (f.eb + f.mb) < f.infBits) :
    unpack f (pack f (.fin neg m e)) = magValue f neg (nearest (bracket f m e)) := by
  have hmin : min (nearest (bracket f m e)) f.infBits < 2 ^ (f.eb + f.mb) := (min_le_right ..).trans_lt (infBits_lt f)
  have hmod := signed_mod neg hmin
  rw [unpack_finite h]
  simp only [pack] at h ⊢
  rw [hmod] at h ⊢
  rw [signed_bit neg hmin, min_eq_left (by omega)]

/-- A number of a sign is no nearer to a magnitude of a sign than its magnitude to that or than zero. -/
theorem abs_sub_le_signed {x y : ℚ} (hx : 0 ≤ x) (hy : 0 ≤ y) (n n' : Bool) :
    min |y - x| |0 - x| ≤ |(if n' then -1 else 1) * y - (if n then -1 else 1) * x| := by
  rw [zero_sub, abs_neg, abs_of_nonneg hx]
  cases n <;> cases n' <;> simp only [Bool.false_eq_true, if_true, if_false, one_mul, neg_mul]
  · exact min_le_left ..
  · exact (min_le_right ..).trans ((by linarith : x ≤ -(-y - x)).trans (neg_le_abs _))
  · exact (min_le_right ..).trans ((by linarith : x ≤ y - -x).trans (le_abs_self _))
  · rw [show -y - -x = -(y - x) by ring, abs_neg]
    exact min_le_left ..

end

/-- Settles O16: the pattern given is the nearest of its sign by `nearest_le`, and one of the other sign lies behind zero. -/
theorem roundsToNearest : Obligations.RoundsToNearest := by
  intro ty neg m e _ f exact value finite hfin p _ hp
  have hvalue (v : Fv) : value v = v.rat := by cases v <;> rfl
  have hexact : exact = (if neg then -1 else 1) * (m * (2 : ℚ) ^ e) := mul_assoc ..
  have hx : (0 : ℚ) ≤ m * 2 ^ e := by positivity
  have hnear := nearest_le (between_bracket f m e)
  have hzero := hnear 0
  rw [magOf_zero] at hzero
  have hsame (n : Bool) (y : ℚ) : |(if n then -1 else 1) * y - (if n then -1 else 1) * (m * (2 : ℚ) ^ e)| = |y - m * 2 ^ e| := by
    rw [← mul_sub, abs_mul]
    cases n <;> simp
  rw [hvalue, hvalue, unpack_pack_finite hfin, unpack_finite hp, rat_magValue, rat_magValue, hexact, hsame]
  exact (le_min (hnear _) hzero).trans (abs_sub_le_signed hx (magOf_nonneg ..) _ _)

end Sys2Proof.Machine
end

section
/-!
PROOFS. Lanes and predicates of the vector registers (R104, R105): the lanes of a register put together from lanes, the bits of a predicate,
signed lanes, and the issue of an instruction that writes vector registers.
-/
namespace Sys2Proof.Machine

/-! ### Types -/

theorem vBits_cases (ty : Nat) : vBits ty = 8 ∨ vBits ty = 16 ∨ vBits ty = 32 ∨ vBits ty = 64 := by
  unfold vBits
  split <;> decide

theorem vBits_pos (ty : Nat) : 0 < vBits ty := by have := vBits_cases ty; omega

theorem vBits_dvd (ty : Nat) : vBits ty ∣ 512 := by
  rcases vBits_cases ty with h | h | h | h <;> rw [h] <;> decide

theorem vLanes_pos (ty : Nat) : 0 < vLanes ty := by
  rw [vLanes]
  rcases vBits_cases ty with h | h | h | h <;> rw [h] <;> decide

/-! ### Lanes -/

section
variable {e i : Nat}

theorem laneOf_lt (e : Nat) (v : V512) (i : Nat) : laneOf e v i < 2 ^ e := Nat.mod_lt _ (by positivity)

/-- The number whose digits to base `2 ^ e` are `g` of the elements of a list, the first lowest. -/
def packedLanes (e : Nat) (g : Nat → Nat) (l : List Nat) : Nat := l.foldr (fun i acc => g i % 2 ^ e + acc * 2 ^ e) 0

theorem packedLanes_cons (g : Nat → Nat) (j : Nat) (l : List Nat) : packedLanes e g (j :: l) = g j % 2 ^ e + packedLanes e g l * 2 ^ e := rfl

theorem packedLanes_lt (g : Nat → Nat) (l : List Nat) : packedLanes e g l < 2 ^ (e * l.length) := by
  induction l with
  | nil => simp [packedLanes]
  | cons j l ih =>
    have hdigit : g j % 2 ^ e < 2 ^ e := Nat.mod_lt _ (by positivity)
    rw [packedLanes_cons, List.length_cons, Nat.mul_succ, pow_add]
    calc g j % 2 ^ e + packedLanes e g l * 2 ^ e < (packedLanes e g l + 1) * 2 ^ e := by rw [Nat.succ_mul]; omega
      _ ≤ 2 ^ (e * l.length) * 2 ^ e := Nat.mul_le_mul_right _ ih

theorem packedLanes_digit (g : Nat → Nat) (l : List Nat) (hi : i < l.length) : packedLanes e g l / 2 ^ (e * i) % 2 ^ e = g l[i] % 2 ^ e := by
  induction l generalizing i with
  | nil => simp at hi
  | cons j l ih =>
    rw [packedLanes_cons]
    cases i with
    | zero => simp
    | succ i =>
      have hdigit : g j % 2 ^ e < 2 ^ e := Nat.mod_lt _ (by positivity)
      rw [Nat.mul_succ, Nat.add_comm (e * i), pow_add, ← Nat.div_div_eq_div_mul, Nat.add_mul_div_right _ _ (by positivity), Nat.div_eq_of_lt hdigit,
        Nat.zero_add, ih (by simpa using hi), List.getElem_cons_succ]

theorem toNat_ofNat_of_lt {w n : Nat} (hn : n < 2 ^ w) : (BitVec.ofNat w n).toNat = n := (BitVec.toNat_ofNat ..).trans (Nat.mod_eq_of_lt hn)

/-- A lane of a register that is put together from lanes. -/
theorem laneOf_fromLanes (he : e ∣ 512) (g : Nat → Nat) (hi : i < 512 / e) : laneOf e (fromLanes e g) i = g i % 2 ^ e := by
  have hfit : packedLanes e g (List.range (512 / e)) < 2 ^ 512 := by
    refine (packedLanes_lt ..).trans_eq ?_
    rw [List.length_range, Nat.mul_div_cancel' he]
  have hdigit := packedLanes_digit (e := e) (i := i) g (List.range (512 / e)) (by simpa using hi)
  have hnat : (fromLanes e g).toNat = packedLanes e g (List.range (512 / e)) := toNat_ofNat_of_lt hfit
  rw [laneOf, hnat, hdigit, List.getElem_range]

theorem laneActive_iff (s : State) (k : Nat) (pg : BitVec 3) (i : Nat) :
    laneActive s k pg.toNat i = true ↔ pg = 0 ∨ (rp s k pg.toNat).getLsbD i = true := by
  have hzero : pg.toNat = 0 ↔ pg = 0 := ⟨fun h => BitVec.eq_of_toNat_eq h, fun h => by rw [h]; rfl⟩
  rw [laneActive, bit_eq_getLsbD, Bool.or_eq_true, beq_iff_eq, hzero]

/-- A lane of a register whose active lanes take new values (R105). -/
theorem laneOf_mergeLanes (s : State) (k : Nat) (pg : BitVec 3) (he : e ∣ 512) (old : V512) (g : Nat → Nat) (hi : i < 512 / e) :
    laneOf e (mergeLanes s k pg.toNat e old g) i = if pg = 0 ∨ (rp s k pg.toNat).getLsbD i = true then g i % 2 ^ e else laneOf e old i := by
  rw [mergeLanes, laneOf_fromLanes he _ hi]
  simp only [laneActive_iff]
  split
  · rfl
  · exact Nat.mod_eq_of_lt (laneOf_lt ..)

end

/-! ### Predicates -/

section
variable {n : Nat} (g : Nat → Bool)

/-- The number whose bits below `n` are given. -/
def packedBits (n : Nat) (g : Nat → Bool) : Nat := ((List.range n).map fun i => b2n (g i) * 2 ^ i).sum

theorem packedBits_succ : packedBits (n + 1) g = b2n (g n) * 2 ^ n + packedBits n g := by
  rw [packedBits, List.range_succ, List.map_append, List.sum_append, List.map_singleton, List.sum_singleton, Nat.add_comm, packedBits]

theorem packedBits_lt : packedBits n g < 2 ^ n := by
  induction n with
  | zero => simp [packedBits]
  | succ n ih =>
    rw [packedBits_succ, pow_succ]
    cases g n <;> simp only [b2n, Bool.false_eq_true, if_true, if_false] <;> omega

theorem testBit_packedBits (j : Nat) : (packedBits n g).testBit j = (decide (j < n) && g j) := by
  induction n with
  | zero => simp [packedBits]
  | succ n ih =>
    rw [packedBits_succ, Nat.mul_comm, Nat.testBit_two_pow_mul_add _ (packedBits_lt g)]
    split
    · next hlt => rw [ih, decide_eq_true hlt, decide_eq_true (hlt.trans n.lt_succ_self)]
    · next hge =>
      rcases (Nat.not_lt.1 hge).lt_or_eq with hgt | rfl
      · rw [Nat.testBit_lt_two_pow, decide_eq_false (by omega), Bool.false_and]
        exact (show b2n (g n) < 2 by cases g n <;> decide).trans_le (Nat.le_self_pow (by omega) 2)
      · cases h : g n <;> simp [b2n]

theorem getLsbD_fromBits {j : Nat} (hj : j < 64) : (fromBits n g).getLsbD j = (decide (j < n) && g j) := by
  rw [fromBits, ← packedBits, BitVec.getLsbD_ofNat, testBit_packedBits, decide_eq_true hj, Bool.true_and]

end

/-! ### Signed lanes -/

section
variable {e : Nat}

/-- The signed number that the low bits of `v` stand for. -/
theorem bitsInt_eq_bmod (he : 0 < e) (v : Nat) : bitsInt e v = Int.bmod v (2 ^ e) := by
  obtain ⟨d, rfl⟩ := Nat.exists_eq_succ_of_ne_zero he.ne'
  have hpow : 2 ^ (d + 1) = 2 * 2 ^ d := pow_succ' 2 d
  have hcast : (2 : Int) ^ (d + 1) = ((2 ^ (d + 1) : Nat) : Int) := by norm_cast
  have hmod : v % 2 ^ (d + 1) = v % 2 ^ d + 2 ^ d * (v / 2 ^ d % 2) := Nat.mod_pow_succ
  have hlow : v % 2 ^ d < 2 ^ d := Nat.mod_lt _ (by positivity)
  have hbit : bit v d = true ↔ 2 ^ d ≤ v % 2 ^ (d + 1) := by
    rw [bit, beq_iff_eq, hmod]
    rcases Nat.mod_two_eq_zero_or_one (v / 2 ^ d) with h | h <;> rw [h] <;> omega
  rw [bitsInt, Nat.succ_sub_one, Int.bmod_def, hcast, ← Int.natCast_emod]
  simp only [hbit]
  split <;> split <;> omega

end

/-! ### The issue of an instruction that writes vector registers -/

section
variable {k d : Nat} {s t u : State} {v : V512}

/-- Nothing of thread `k` but vector registers differs between `s` and `t`, and no byte of memory. -/
def OnlyVec (k : Nat) (s t : State) : Prop := (∃ vs, thr t k = { thr s k with v := vs }) ∧ SameMemory s t

theorem OnlyVec.trans (hst : OnlyVec k s t) (htu : OnlyVec k t u) : OnlyVec k s u := by
  obtain ⟨⟨vs, ht⟩, hmem⟩ := hst
  obtain ⟨⟨vs', hu⟩, hmem'⟩ := htu
  exact ⟨⟨vs', by rw [hu, ht]⟩, sameMemory_trans hmem hmem'⟩

theorem onlyVec_wv (s : State) (k d : Nat) (v : V512) : OnlyVec k s (wv s k d v) :=
  ⟨⟨_, thr_modThr_self ..⟩, sameMemory_of_eq rfl rfl rfl rfl rfl⟩

/-- After an instruction of length `len` that changed nothing but vector registers: the PC, the other registers and memory. -/
def VecRetired (k len : Nat) (s u : State) : Prop :=
  (thr u k).pc = (thr s k).pc + BitVec.ofNat 64 len ∧ (∀ r, rx u k r = rx s k r) ∧ (∀ r, rp u k r = rp s k r) ∧ SameMemory s u

theorem vecRetired_retire (len : Nat) (h : OnlyVec k s t) : VecRetired k len s (retire t k len) := by
  obtain ⟨⟨vs, ht⟩, hmem⟩ := h
  refine ⟨?_, fun r => ?_, fun r => ?_, sameMemory_trans hmem (sameMemory_goesOn ..)⟩
  · rw [retire_pc, ht]
  · rw [rx_retire, rx, ht, rx]
  · rw [rp_retire, rp, ht, rp]

end

section
variable {h : Hart} {i : Instr} {regs : List (BitVec 5)} {s t : State} {body : State → Nat → Res}

/-- A ready thread's instruction that changes nothing but vector registers and completes. -/
theorem issue_vec (hr : Ready h regs s) (hh : i.hart? = some h) (hf : Fetches i s) (engine : Nat) (hbody : body s h.key = .done t)
    (ht : OnlyVec h.key s t) : ∃ u, issue h i engine regs body s = .next u ∧ VecRetired h.key h.len s u ∧ ∀ r, rv u h.key r = rv t h.key r := by
  have hjob : (thr t h.key).job = (thr s h.key).job := by
    obtain ⟨⟨vs, hthr⟩, -⟩ := ht
    rw [hthr]
  exact ⟨_, issue_done hr hh hf engine hbody hjob, vecRetired_retire _ ht, fun r => rv_retire ..⟩

/-- After a ready thread's instruction that writes the active lanes of its destination (R105). -/
def LanesWritten (h : Hart) (f : VFields) (g : Nat → Nat) (s u : State) : Prop :=
  VecRetired h.key h.len s u ∧
    (∀ l, l < vLanes f.ty.toNat → laneOf (vBits f.ty.toNat) (rv u h.key f.vd.toNat) l =
      if f.pg = 0 ∨ (rp s h.key f.pg.toNat).getLsbD l = true then g l % 2 ^ vBits f.ty.toNat else laneOf (vBits f.ty.toNat) (rv s h.key f.vd.toNat) l) ∧
    ∀ r, r ≠ f.vd.toNat → rv u h.key r = rv s h.key r

theorem issue_wLanes {f : VFields} {g : Nat → Nat} (hr : Ready h regs s) (hh : i.hart? = some h) (hf : Fetches i s) (engine : Nat)
    (hbody : body s h.key = .done (wLanes s h.key f g)) : ∃ u, issue h i engine regs body s = .next u ∧ LanesWritten h f g s u := by
  obtain ⟨u, hu, hret, hregs⟩ := issue_vec hr hh hf engine hbody (onlyVec_wv ..)
  refine ⟨u, hu, hret, fun l hl => ?_, fun r hne => ?_⟩
  · rw [hregs, wLanes, rv_wv, if_pos rfl, laneOf_mergeLanes _ _ _ (vBits_dvd _) _ _ hl]
  · rw [hregs, wLanes, rv_wv, if_neg hne]

/-- A ready thread's instruction that writes one vector register. -/
theorem issue_wv {d : Nat} {v : V512} (hr : Ready h regs s) (hh : i.hart? = some h) (hf : Fetches i s) (engine : Nat)
    (hbody : body s h.key = .done (wv s h.key d v)) :
    ∃ u, issue h i engine regs body s = .next u ∧ VecRetired h.key h.len s u ∧ rv u h.key d = v ∧ ∀ r, r ≠ d → rv u h.key r = rv s h.key r := by
  obtain ⟨u, hu, hret, hregs⟩ := issue_vec hr hh hf engine hbody (onlyVec_wv ..)
  exact ⟨u, hu, hret, by rw [hregs, rv_wv, if_pos rfl], fun r hne => by rw [hregs, rv_wv, if_neg hne]⟩

end

end Sys2Proof.Machine
end

section
/-!
PROOFS. Vector arithmetic, lane by lane (R104 to R107, R109, Tables 5.3 and 5.4).
-/
namespace Sys2Proof.Machine

/-! ### Integer lanes -/

section
variable {e : Nat} {a b : Nat}

theorem intBits_cast (x : Int) : (intBits e x : Int) = x % 2 ^ e := Int.toNat_of_nonneg (Int.emod_nonneg _ (by positivity))

theorem bmod_emod_pow (v : Int) : Int.bmod v (2 ^ e) % 2 ^ e = v % 2 ^ e := by
  have h := Int.bmod_emod (x := v) (m := 2 ^ e)
  exact_mod_cast h

/-- The rows of Table 5.3 for an integer type, before the result is taken modulo the lane's width: of lanes that stand for the numbers `a` and
`b`, and for signed ones as `bmod` says. -/
def intResult (e a b : Nat) : Nat → Option Int
  | 0 => some (a + b)
  | 1 => some (a - b)
  | 2 => some (a * b)
  | 4 => some (min (Int.bmod a (2 ^ e)) (Int.bmod b (2 ^ e)))
  | 5 => some (max (Int.bmod a (2 ^ e)) (Int.bmod b (2 ^ e)))
  | 6 => some (Int.bmod a (2 ^ e)).natAbs
  | 7 => some (-Int.bmod a (2 ^ e))
  | 9 => some (a &&& b : Nat)
  | 10 => some (a ||| b : Nat)
  | 11 => some (a ^^^ b : Nat)
  | 12 => some (a * 2 ^ (b % e) : Nat)
  | 13 => some (a / 2 ^ (b % e) : Nat)
  | 14 => some (Int.bmod a (2 ^ e) / 2 ^ (b % e))
  | _ => none

/-- What the model computes in an integer lane is Table 5.3's result modulo the lane's width. -/
theorem arithInt_eq_intResult (he : 0 < e) (ha : a < 2 ^ e) (hb : b < 2 ^ e) (fn : Nat) :
    ((arithInt e fn).map fun g => (g a b : Int) % 2 ^ e) = (intResult e a b fn).map fun v => v % 2 ^ e := by
  have hsa := bitsInt_eq_bmod he a
  have hsb := bitsInt_eq_bmod he b
  have hma := bmod_emod_pow (e := e) a
  have hmb := bmod_emod_pow (e := e) b
  have hadd : (((a + b) % 2 ^ e : Nat) : Int) % 2 ^ e = (a + b) % 2 ^ e := by push_cast; exact Int.emod_emod ..
  have hsub : (((a + 2 ^ e - b) % 2 ^ e : Nat) : Int) % 2 ^ e = (a - b) % 2 ^ e := by
    push_cast [Nat.cast_sub (hb.le.trans (Nat.le_add_left _ a))]
    rw [Int.emod_emod, add_sub_right_comm, Int.add_emod_right]
  have hmul : ((a * b % 2 ^ e : Nat) : Int) % 2 ^ e = a * b % 2 ^ e := by push_cast; exact Int.emod_emod ..
  have hmin : ((if bitsInt e a ≤ bitsInt e b then a else b : Nat) : Int) % 2 ^ e = min (Int.bmod a (2 ^ e)) (Int.bmod b (2 ^ e)) % 2 ^ e := by
    rw [hsa, hsb, min_def]
    split
    · exact hma.symm
    · exact hmb.symm
  have hmax : ((if bitsInt e a ≤ bitsInt e b then b else a : Nat) : Int) % 2 ^ e = max (Int.bmod a (2 ^ e)) (Int.bmod b (2 ^ e)) % 2 ^ e := by
    rw [hsa, hsb, max_def]
    split
    · exact hmb.symm
    · exact hma.symm
  have hneg : (((2 ^ e - a) % 2 ^ e : Nat) : Int) % 2 ^ e = -Int.bmod a (2 ^ e) % 2 ^ e := by
    push_cast [Nat.cast_sub ha.le]
    calc ((2 ^ e - a) % 2 ^ e : Int) ≡ 2 ^ e - a [ZMOD 2 ^ e] := Int.mod_modEq ..
      _ ≡ -a [ZMOD 2 ^ e] := by rw [sub_eq_neg_add]; exact Int.add_emod_right ..
      _ ≡ -Int.bmod a (2 ^ e) [ZMOD 2 ^ e] := Int.ModEq.neg hma.symm
  have habs : ((if bit a (e - 1) then (2 ^ e - a) % 2 ^ e else a : Nat) : Int) % 2 ^ e = (Int.bmod a (2 ^ e)).natAbs % 2 ^ e := by
    have hcast : (2 : Int) ^ e = (2 ^ e : Nat) := by norm_cast
    have hmod : (a : Int) % 2 ^ e = a := Int.emod_eq_of_lt (Int.natCast_nonneg a) (by exact_mod_cast ha)
    rw [← hsa, bitsInt, hmod]
    split
    · rw [show ((a : Int) - 2 ^ e).natAbs = 2 ^ e - a by omega]
      push_cast
      exact Int.emod_emod ..
    · rw [Int.natAbs_natCast]
  have hshl : ((a * 2 ^ (b % e) % 2 ^ e : Nat) : Int) % 2 ^ e = (a * 2 ^ (b % e) : Nat) % 2 ^ e := by push_cast; exact Int.emod_emod ..
  have hsar : (intBits e (bitsInt e a / 2 ^ (b % e)) : Int) % 2 ^ e = Int.bmod a (2 ^ e) / 2 ^ (b % e) % 2 ^ e := by rw [intBits_cast, hsa, Int.emod_emod]
  match fn with
  | 0 => exact congrArg some hadd
  | 1 => exact congrArg some hsub
  | 2 => exact congrArg some hmul
  | 4 => exact congrArg some hmin
  | 5 => exact congrArg some hmax
  | 6 => exact congrArg some habs
  | 7 => exact congrArg some hneg
  | 12 => exact congrArg some hshl
  | 14 => exact congrArg some hsar
  | 3 | 8 | 9 | 10 | 11 | 13 | _ + 15 => rfl

end

theorem vBits_integer {ty : Nat} (hint : 4 ≤ ty) (hty : ty < 8) : 512 / 8 / 2 ^ (ty - 4) = vBits ty := by
  interval_cases ty <;> rfl

section
variable {h : Hart} {f : VFields} {fn : BitVec 4} {s : State}

/-- VARITH with a function that Table 5.3 gives the type. -/
theorem exec_varith {g : Nat → Nat → Nat} (hr : Ready h [] s) (hg : arithFn f.ty.toNat fn.toNat = some g) (hone : oneOperand fn.toNat = true → f.vs2 = 0)
    (hf : Fetches (.varith h f fn) s) :
    ∃ u, exec (.varith h f fn) s = .next u ∧ LanesWritten h f
      (fun l => g (laneOf (vBits f.ty.toNat) (rv s h.key f.vs1.toNat) l) (laneOf (vBits f.ty.toNat) (rv s h.key f.vs2.toNat) l)) s u := by
  refine issue_wLanes hr rfl hf 1 ?_
  simp only [bodyVarith, hg]
  exact if_neg fun hbad => hbad.2 (hone hbad.1)

end

/-- VARITH on an integer type: each active lane holds Table 5.3's result modulo its width. -/
theorem exec_varith_integer {h : Hart} {f : VFields} {fn : BitVec 4} {s : State} {e : Nat} {g : Nat → Int} (hr : Ready h [] s) (hint : 4 ≤ f.ty.toNat)
    (he : e = vBits f.ty.toNat) (hone : oneOperand fn.toNat = true → f.vs2 = 0)
    (hg : ∀ l, intResult e (laneOf e (rv s h.key f.vs1.toNat) l) (laneOf e (rv s h.key f.vs2.toNat) l) fn.toNat = some (g l))
    (hf : Fetches (.varith h f fn) s) :
    ∃ t, exec (.varith h f fn) s = .next t ∧ (thr t h.key).pc = (thr s h.key).pc + BitVec.ofNat 64 h.len ∧
      (∀ l, l < 512 / e → (laneOf e (rv t h.key f.vd.toNat) l : Int) =
        if f.pg = 0 ∨ (rp s h.key f.pg.toNat).getLsbD l = true then g l % 2 ^ e else laneOf e (rv s h.key f.vd.toNat) l) ∧
      (∀ r, r ≠ f.vd.toNat → rv t h.key r = rv s h.key r) ∧ (∀ r, rx t h.key r = rx s h.key r) ∧ (∀ r, rp t h.key r = rp s h.key r) ∧ SameMemory s t := by
  subst he
  have hresult (l : Nat) := arithInt_eq_intResult (vBits_pos f.ty.toNat) (laneOf_lt _ (rv s h.key f.vs1.toNat) l) (laneOf_lt _ (rv s h.key f.vs2.toNat) l) fn.toNat
  obtain ⟨G, hG⟩ : ∃ G, arithInt (vBits f.ty.toNat) fn.toNat = some G := by
    have hzero := hresult 0
    rw [hg, Option.map_some, Option.map_eq_some_iff] at hzero
    exact hzero.imp fun _ h => h.1
  simp only [hg, hG, Option.map_some, Option.some.injEq] at hresult
  have harith : arithFn f.ty.toNat fn.toNat = some G := by rwa [arithFn, vFloat, decide_eq_false (by omega)]
  obtain ⟨t, ht, ⟨hpc, hx, hp, hmem⟩, hlanes, hother⟩ := exec_varith hr harith hone hf
  refine ⟨t, ht, hpc, fun l hl => ?_, hother, hx, hp, hmem⟩
  rw [hlanes l hl]
  split
  · rw [← hresult l]
    norm_cast
  · rfl

theorem vectorIntegerLanes : Claims.VectorIntegerLanes := by
  intro h f s hr hint k e a b sa sb lanes
  have he : e = vBits f.ty.toNat := vBits_integer hint f.ty.isLt
  have two (fn : BitVec 4) (g : Nat → Int) (htwo : oneOperand fn.toNat = false) (hg : ∀ l, intResult e (a l) (b l) fn.toNat = some (g l)) : lanes fn false g :=
    exec_varith_integer hr hint he (fun hone => absurd (htwo.symm.trans hone) (by decide)) hg
  have one (fn : BitVec 4) (g : Nat → Int) (hg : ∀ l b, intResult e (a l) b fn.toNat = some (g l)) : lanes fn true g :=
    exec_varith_integer (f := { f with vs2 := 0 }) hr hint he (fun _ => rfl) fun l => hg l _
  refine ⟨?add, ?sub, ?mul, ?min, ?max, ?abs, ?neg, ?and, ?or, ?xor, ?shl, ?shr, ?sar⟩
  case abs | neg => exact one _ _ fun _ _ => rfl
  all_goals exact two _ _ rfl fun _ => rfl

end Sys2Proof.Machine
end

section
/-!
PROOFS. Floating lanes and the FMA family (R106, R109, Tables 5.3 and 5.4).
-/
namespace Sys2Proof.Machine

/-! ### What a lane of a floating type holds -/

theorem pack_lt {f : Fmt} (hmb : 0 < f.mb) (x : Fv) : pack f x < 2 ^ (f.eb + f.mb + 1) := by
  have hinf := infBits_lt f
  have hsign (n : Bool) : b2n n * 2 ^ (f.eb + f.mb) ≤ 2 ^ (f.eb + f.mb) := by
    cases n <;> simp [b2n]
  rw [pow_succ]
  cases x with
  | nan =>
    have hquiet : 2 ^ (f.mb - 1) ≤ 2 ^ (f.eb + f.mb) := Nat.pow_le_pow_right (by decide) (by omega)
    simp only [pack, Fmt.nanBits]
    omega
  | inf n =>
    have := hsign n
    simp only [pack]
    omega
  | fin n m e =>
    have := hsign n
    have := min_le_right (nearest (bracket f m e)) f.infBits
    simp only [pack]
    omega

theorem vFmt_spec {ty : Nat} (hty : ty < 4) : 0 < (vFmt ty).mb ∧ (vFmt ty).eb + (vFmt ty).mb + 1 = vBits ty := by
  interval_cases ty <;> decide

theorem pack_vFmt_lt {ty : Nat} (hty : ty < 4) (x : Fv) : pack (vFmt ty) x < 2 ^ vBits ty := by
  obtain ⟨hmb, hbits⟩ := vFmt_spec hty
  exact hbits ▸ pack_lt hmb x

/-! ### The FMA family -/

/-- Table 5.4: the exact result of a form of a lane's old value and the product of its operands. -/
def fmaValue (fn : Nat) (d p : Fv) : Fv :=
  match fn with
  | 0 => d.add p
  | 1 => d.add p.neg
  | 2 => p.add d.neg
  | _ => p.neg.add d.neg

section
variable {ty : Nat} (d a b : Nat)

theorem fmaLane_float (hty : ty < 4) (fn : Nat) :
    fmaLane ty fn d a b = pack (vFmt ty) (fmaValue fn (unpack (vFmt ty) d) ((unpack (vFmt ty) a).mul (unpack (vFmt ty) b))) := by
  have hfloat : vFloat ty = true := decide_eq_true hty
  simp only [fmaLane, hfloat, if_true]
  rfl

theorem fmaLane_add (hty : 4 ≤ ty) : fmaLane ty 0 d a b = ((d + a * b : Int) % 2 ^ vBits ty).toNat := by
  have hfloat : vFloat ty = false := decide_eq_false (by omega)
  simp only [fmaLane, hfloat, Bool.false_eq_true, if_false, if_true]
  norm_cast

theorem fmaLane_sub (hty : 4 ≤ ty) : fmaLane ty 1 d a b = ((d - a * b : Int) % 2 ^ vBits ty).toNat := by
  have hfloat : vFloat ty = false := decide_eq_false (by omega)
  have hle : a * b % 2 ^ vBits ty ≤ d + 2 ^ vBits ty := (Nat.mod_lt _ (by positivity)).le.trans (Nat.le_add_left ..)
  simp only [fmaLane, hfloat, Bool.false_eq_true, if_false, one_ne_zero]
  rw [← Int.toNat_natCast ((d + 2 ^ vBits ty - a * b % 2 ^ vBits ty) % 2 ^ vBits ty)]
  congr 1
  push_cast [Nat.cast_sub hle]
  rw [add_sub_right_comm, Int.add_emod_right, Int.sub_emod, Int.emod_emod, ← Int.sub_emod]

end

/-- The destination of an FMA form in half `j` of a pair. -/
def fmaReg (s : State) (k : Nat) (f : VFields) (op j : Nat) : V512 :=
  mergeLanes s k f.pg.toNat (vBits f.ty.toNat) (rv s k (f.vd.toNat + j)) fun i =>
    fmaLane f.ty.toNat op (laneOf (vBits f.ty.toNat) (rv s k (f.vd.toNat + j)) i) (laneOf (vBits f.ty.toNat) (rv s k (f.vs1.toNat + j)) i)
      (laneOf (vBits f.ty.toNat) (rv s k f.vs2.toNat) i)

section
variable {h : Hart} {f : VFields} {fn : BitVec 4} {s : State} {op k : Nat}

theorem bodyVfma_single (hok : fmaOk f.ty.toNat fn.toNat = true) : bodyVfma f fn s k = .done (wv s k f.vd.toNat (fmaReg s k f fn.toNat 0)) := by
  have hlt : fn.toNat < 4 := by
    rw [fmaOk, Bool.and_eq_true] at hok
    exact of_decide_eq_true hok.1
  have hop : fn.toNat % 8 = fn.toNat := Nat.mod_eq_of_lt (by omega)
  have hsingle : decide (8 ≤ fn.toNat) = false := decide_eq_false (by omega)
  simp only [bodyVfma, hop, hok, hsingle, Bool.not_true, Bool.false_eq_true, if_false]
  rfl

theorem bodyVfma_paired (hfn : fn.toNat = op + 8) (hok : fmaOk f.ty.toNat op = true) (hd : f.vd.toNat % 2 = 0) (ha : f.vs1.toNat % 2 = 0)
    (hb : f.vs2.toNat ≠ f.vd.toNat ∧ f.vs2.toNat ≠ f.vd.toNat + 1) :
    bodyVfma f fn s k = .done (wv (wv s k f.vd.toNat (fmaReg s k f op 0)) k (f.vd.toNat + 1) (fmaReg s k f op 1)) := by
  have hlt : fn.toNat < 16 := fn.isLt
  have hop : fn.toNat % 8 = op := by omega
  have hpaired : decide (8 ≤ fn.toNat) = true := decide_eq_true (by omega)
  simp only [bodyVfma, hop, hok, hpaired, hd, ha, hb, Bool.not_true, Bool.false_eq_true, if_false, if_true, ne_eq, not_true_eq_false, or_self]
  rfl

end

/-! ### Lanes of one register and of a pair -/

/-- After an instruction whose active lanes of `n` registers from its destination on take the values that `g` gives by register and lane. -/
def RegsWritten (h : Hart) (f : VFields) (n : Nat) (g : Nat → Nat → Nat) (s t : State) : Prop :=
  (thr t h.key).pc = (thr s h.key).pc + BitVec.ofNat 64 h.len ∧
    (∀ j, j < n → ∀ l, l < vLanes f.ty.toNat → laneOf (vBits f.ty.toNat) (rv t h.key (f.vd.toNat + j)) l =
      if f.pg = 0 ∨ (rp s h.key f.pg.toNat).getLsbD l = true then g j l else laneOf (vBits f.ty.toNat) (rv s h.key (f.vd.toNat + j)) l) ∧
    (∀ r, (r < f.vd.toNat ∨ f.vd.toNat + n ≤ r) → rv t h.key r = rv s h.key r) ∧ (∀ r, rx t h.key r = rx s h.key r) ∧ SameMemory s t

section
variable {h : Hart} {f : VFields} {fn : BitVec 4} {s t : State} {op : Nat}

theorem regsWritten_of_lanes {G : Nat → Nat} {g : Nat → Nat → Nat} (ht : LanesWritten h f G s t)
    (hG : ∀ l, G l % 2 ^ vBits f.ty.toNat = g 0 l) : RegsWritten h f 1 g s t := by
  obtain ⟨⟨hpc, hx, -, hmem⟩, hlanes, hother⟩ := ht
  refine ⟨hpc, fun j hj l hl => ?_, fun r hr => hother r (by omega), hx, hmem⟩
  obtain rfl : j = 0 := by omega
  rw [← hG l]
  exact hlanes l hl

/-- The lane of a form of the FMA family for half `j` of a pair (R109). -/
def fmaResult (s : State) (k : Nat) (f : VFields) (op j l : Nat) : Nat :=
  fmaLane f.ty.toNat op (laneOf (vBits f.ty.toNat) (rv s k (f.vd.toNat + j)) l) (laneOf (vBits f.ty.toNat) (rv s k (f.vs1.toNat + j)) l)
    (laneOf (vBits f.ty.toNat) (rv s k f.vs2.toNat) l)

theorem laneOf_fmaReg (s : State) (k : Nat) (f : VFields) (op j : Nat) {l : Nat} (hl : l < vLanes f.ty.toNat) :
    laneOf (vBits f.ty.toNat) (fmaReg s k f op j) l =
      if f.pg = 0 ∨ (rp s k f.pg.toNat).getLsbD l = true then fmaResult s k f op j l % 2 ^ vBits f.ty.toNat
      else laneOf (vBits f.ty.toNat) (rv s k (f.vd.toNat + j)) l := laneOf_mergeLanes _ _ _ (vBits_dvd _) _ _ hl

theorem exec_vfma {g : Nat → Nat → Nat} (hr : Ready h [] s) (hok : fmaOk f.ty.toNat fn.toNat = true)
    (hg : ∀ l, fmaResult s h.key f fn.toNat 0 l % 2 ^ vBits f.ty.toNat = g 0 l) (hf : Fetches (.vfma h f fn) s) :
    ∃ t, exec (.vfma h f fn) s = .next t ∧ RegsWritten h f 1 g s t := by
  obtain ⟨t, ht, hlanes⟩ := issue_wLanes (f := f) (g := fmaResult s h.key f fn.toNat 0) hr rfl hf 1 (bodyVfma_single hok)
  exact ⟨t, ht, regsWritten_of_lanes hlanes hg⟩

theorem exec_vfma_paired {g : Nat → Nat → Nat} (hr : Ready h [] s) (hfn : fn.toNat = op + 8) (hok : fmaOk f.ty.toNat op = true)
    (hg : ∀ j l, fmaResult s h.key f op j l % 2 ^ vBits f.ty.toNat = g j l) (hd : f.vd.toNat % 2 = 0) (ha : f.vs1.toNat % 2 = 0)
    (hb : f.vs2 ≠ f.vd) (hb' : f.vs2.toNat ≠ f.vd.toNat + 1) (hf : Fetches (.vfma h f fn) s) :
    ∃ t, exec (.vfma h f fn) s = .next t ∧ RegsWritten h f 2 g s t := by
  have hne : f.vs2.toNat ≠ f.vd.toNat := fun heq => hb (BitVec.eq_of_toNat_eq heq)
  obtain ⟨t, ht, ⟨hpc, hx, -, hmem⟩, hregs⟩ := issue_vec hr rfl hf 1 (bodyVfma_paired hfn hok hd ha ⟨hne, hb'⟩) ((onlyVec_wv ..).trans (onlyVec_wv ..))
  refine ⟨t, ht, hpc, fun j hj l hl => ?_, fun r hr => ?_, hx, hmem⟩
  · rw [← hg j l, ← laneOf_fmaReg s h.key f op j hl, hregs, rv_wv, rv_wv]
    obtain rfl | rfl : j = 0 ∨ j = 1 := by omega
    · rw [if_neg (by omega), if_pos (Nat.add_zero _)]
    · rw [if_pos rfl]
  · rw [hregs, rv_wv, rv_wv, if_neg (by omega), if_neg (by omega)]

end

theorem vectorFloatLanes : Claims.VectorFloatLanes := by
  intro h f s hr k e val writes two one fma
  have rounds {fn : BitVec 4} {f' : VFields} {op : Fv → Fv → Fv} (hty : f'.ty.toNat < 4) (hfn : arithFloat f'.ty.toNat fn.toNat = some (fOp f'.ty.toNat op))
      (hone : oneOperand fn.toNat = true → f'.vs2 = 0) (hf : Fetches (.varith h f' fn) s) :
      ∃ t, exec (.varith h f' fn) s = .next t ∧ RegsWritten h f' 1 (fun _ l => fOp f'.ty.toNat op (laneOf (vBits f'.ty.toNat) (rv s k f'.vs1.toNat) l)
        (laneOf (vBits f'.ty.toNat) (rv s k f'.vs2.toNat) l)) s t := by
    have harith : arithFn f'.ty.toNat fn.toNat = some (fOp f'.ty.toNat op) := by rwa [arithFn, vFloat, decide_eq_true hty]
    obtain ⟨t, ht, hlanes⟩ := exec_varith hr harith hone hf
    exact ⟨t, ht, regsWritten_of_lanes hlanes fun l => Nat.mod_eq_of_lt (pack_vFmt_lt hty _)⟩
  refine ⟨fun hty => ?float, fun hty => ?integer⟩
  case float =>
    have hfloat : vFloat f.ty.toNat = true := decide_eq_true hty
    have binary (fn : BitVec 4) (op : Fv → Fv → Fv) (hfn : arithFloat f.ty.toNat fn.toNat = some (fOp f.ty.toNat op))
        (htwo : oneOperand fn.toNat = false) : two fn op := rounds hty hfn fun hone => absurd (htwo.symm.trans hone) (by decide)
    have unary (fn : BitVec 4) (op : Fv → Fv) (hfn : arithFloat f.ty.toNat fn.toNat = some (fOp f.ty.toNat fun a _ => op a)) : one fn op :=
      rounds (f' := { f with vs2 := 0 }) hty hfn fun _ => rfl
    have family (fn : BitVec 4) (hlt : fn.toNat < 4) : fma fn (fmaValue fn.toNat) := by
      have hok : fmaOk f.ty.toNat fn.toNat = true := by rw [fmaOk, hfloat, decide_eq_true hlt]; rfl
      have hround (j l : Nat) : fmaResult s k f fn.toNat j l % 2 ^ vBits f.ty.toNat = pack (vFmt f.ty.toNat) (fmaValue fn.toNat (val (f.vd.toNat + j) l)
          ((val (f.vs1.toNat + j) l).mul (val f.vs2.toNat l))) := by
        rw [fmaResult, fmaLane_float _ _ _ hty, Nat.mod_eq_of_lt (pack_vFmt_lt hty _)]
      have hpair : (fn + 8).toNat = fn.toNat + 8 := by
        rw [BitVec.toNat_add]
        exact Nat.mod_eq_of_lt (by simp; omega)
      exact ⟨exec_vfma hr hok (hround 0), exec_vfma_paired hr hpair hok hround⟩
    exact ⟨binary 0 Fv.add rfl rfl, binary 1 (fun a b => a.add b.neg) rfl rfl, binary 2 Fv.mul rfl rfl, binary 3 Fv.div rfl rfl, binary 4 Fv.min rfl rfl,
      binary 5 Fv.max rfl rfl, unary 6 Fv.abs rfl, unary 7 Fv.neg rfl, unary 8 Fv.sqrt rfl, family 0 (by decide), family 1 (by decide),
      family 2 (by decide), family 3 (by decide)⟩
  case integer =>
    have hok (fn : BitVec 4) (hlt : fn.toNat < 2) : fmaOk f.ty.toNat fn.toNat = true := by
      rw [fmaOk, decide_eq_true hlt, decide_eq_true (by omega), Bool.or_true, Bool.true_and]
    have hwrap (x : Int) : (x % 2 ^ vBits f.ty.toNat).toNat % 2 ^ vBits f.ty.toNat = (x % 2 ^ vBits f.ty.toNat).toNat :=
      Nat.mod_eq_of_lt (by
        have := Int.emod_lt_of_pos x (show (0 : Int) < 2 ^ vBits f.ty.toNat by positivity)
        zify
        rw [Int.toNat_of_nonneg (Int.emod_nonneg _ (by positivity))]
        exact this)
    refine ⟨exec_vfma hr (hok 0 (by decide)) fun l => ?_, exec_vfma hr (hok 1 (by decide)) fun l => ?_⟩
    · exact (congrArg (· % 2 ^ vBits f.ty.toNat) (fmaLane_add _ _ _ hty)).trans (hwrap _)
    · exact (congrArg (· % 2 ^ vBits f.ty.toNat) (fmaLane_sub _ _ _ hty)).trans (hwrap _)

/-- Settles O15: the integer lanes by Table 5.3's results modulo the lane's width, the floating lanes by the one rounding of `pack`. -/
theorem vectorLanes : Obligations.VectorLanes := ⟨vectorIntegerLanes, vectorFloatLanes⟩

end Sys2Proof.Machine
end

section
/-!
PROOFS. Compares and predicates (R108, Table 5.5).
-/
namespace Sys2Proof.Machine

/-- After a ready thread's instruction that writes the predicate `d`, whose bits are `g` below `n` and zero above (R108). -/
def PredWritten (h : Hart) (d n : Nat) (g : Nat → Prop) (s t : State) : Prop :=
  (thr t h.key).pc = (thr s h.key).pc + BitVec.ofNat 64 h.len ∧
    (∀ j, j < 64 → ((rp t h.key d).getLsbD j = true ↔ j < n ∧ g j)) ∧
    (∀ r, r ≠ d → rp t h.key r = rp s h.key r) ∧ (∀ r, rv t h.key r = rv s h.key r) ∧ (∀ r, rx t h.key r = rx s h.key r) ∧ SameMemory s t

section
variable {h : Hart} {i : Instr} {regs : List (BitVec 5)} {s : State} {body : State → Nat → Res}

theorem thr_wp (s : State) (k d : Nat) (v : W64) : thr (wp s k d v) k = { thr s k with p := Tbl.set (thr s k).p d v } := thr_modThr_self ..

theorem issue_fromBits {d n : Nat} {G : Nat → Bool} {g : Nat → Prop} (hr : Ready h regs s) (hh : i.hart? = some h) (hf : Fetches i s) (engine : Nat)
    (hbody : body s h.key = .done (wp s h.key d (fromBits n G))) (hg : ∀ j, G j = true ↔ g j) :
    ∃ t, issue h i engine regs body s = .next t ∧ PredWritten h d n g s t := by
  refine ⟨_, issue_done hr hh hf engine hbody (by rw [thr_wp]), ?_, fun j hj => ?_, fun r hne => ?_, fun r => ?_, fun r => ?_,
    sameMemory_trans (sameMemory_of_eq rfl rfl rfl rfl rfl) (sameMemory_goesOn ..)⟩
  · rw [retire_pc, thr_wp]
  · rw [rp_retire, rp_wp, if_pos rfl, getLsbD_fromBits G hj, Bool.and_eq_true, decide_eq_true_eq, hg]
  · rw [rp_retire, rp_wp, if_neg hne]
  · rw [rv_retire, rv, thr_wp, rv]
  · rw [rx_retire, rx, thr_wp, rx]

end

section
variable {h : Hart} {f : VFields} {fn : BitVec 4} {s : State}

/-- VCMP with a relation that Table 5.5 gives the type. -/
theorem exec_vcmp {G : Nat → Nat → Bool} {g : Nat → Prop} (hr : Ready h [] s) (hd : f.vd.toNat < 8) (hG : cmpFn f.ty.toNat fn.toNat = some G)
    (hg : ∀ j, G (laneOf (vBits f.ty.toNat) (rv s h.key f.vs1.toNat) j) (laneOf (vBits f.ty.toNat) (rv s h.key f.vs2.toNat) j) = true ↔ g j)
    (hf : Fetches (.vcmp h f fn) s) :
    ∃ t, exec (.vcmp h f fn) s = .next t ∧
      PredWritten h f.vd.toNat (vLanes f.ty.toNat) (fun j => (f.pg = 0 ∨ (rp s h.key f.pg.toNat).getLsbD j = true) ∧ g j) s t := by
  have hpred : isPred f.vd = true := decide_eq_true hd
  have hbody : bodyVcmp f fn s h.key = .done (wp s h.key f.vd.toNat (fromBits (vLanes f.ty.toNat) fun j => laneActive s h.key f.pg.toNat j &&
      G (laneOf (vBits f.ty.toNat) (rv s h.key f.vs1.toNat) j) (laneOf (vBits f.ty.toNat) (rv s h.key f.vs2.toNat) j))) := by
    simp only [bodyVcmp, hpred, hG, Bool.not_true, Bool.false_eq_true, if_false]
  refine issue_fromBits hr rfl hf 1 hbody fun j => ?_
  rw [Bool.and_eq_true, laneActive_iff, hg]

/-- Predicate logic on the lanes of a type. -/
theorem issue_pred {i : Instr} {op : W64 → W64 → W64} {g : Nat → Prop} (hr : Ready h [] s) (hh : i.hart? = some h) (hd : f.vd.toNat < 8)
    (ha : f.vs1.toNat < 8) (hb : f.vs2.toNat < 8) (hpg : f.pg = 0)
    (hg : ∀ j, (op (rp s h.key f.vs1.toNat) (rp s h.key f.vs2.toNat)).getLsbD j = true ↔ g j) (hf : Fetches i s) :
    ∃ t, issue h i 1 [] (bodyPred op f) s = .next t ∧ PredWritten h f.vd.toNat (vLanes f.ty.toNat) g s t := by
  have hpd : isPred f.vd = true := decide_eq_true hd
  have hpa : isPred f.vs1 = true := decide_eq_true ha
  have hpb : isPred f.vs2 = true := decide_eq_true hb
  refine issue_fromBits hr hh hf 1 (by simp only [bodyPred, hpd, hpa, hpb, hpg]; rfl) fun j => ?_
  rw [bit_eq_getLsbD, hg]

end

theorem vectorPredicates : Claims.VectorPredicates := by
  intro h f s hr k n e a b p q sets on f0
  have hr0 : Ready h [] s := ready_mono hr (by simp)
  have signed (r j : Nat) : bitsInt e (laneOf e (rv s k r) j) = Int.bmod (laneOf e (rv s k r) j) (2 ^ e) := bitsInt_eq_bmod (vBits_pos _) _
  have compares (hd : f.vd.toNat < 8) (fn : BitVec 4) (G : Nat → Nat → Bool) (g : Nat → Prop) (hG : cmpFn f.ty.toNat fn.toNat = some G)
      (hg : ∀ j, G (a j) (b j) = true ↔ g j) : sets (.vcmp h f fn) (on g) := exec_vcmp hr0 hd hG hg
  refine ⟨fun hd => ⟨fun hint => ?integer, fun hfloat => ?float, fun ha hb => ?logic, ?pwhile⟩, fun ha hf => ?pcount⟩
  case integer =>
    have hty : vFloat f.ty.toNat = false := decide_eq_false (by omega)
    have hcmp (fn : Nat) : cmpFn f.ty.toNat fn = _ := if_neg (Bool.eq_false_iff.1 hty)
    refine ⟨compares hd 0 _ _ (hcmp 0) fun j => beq_iff_eq, compares hd 1 _ _ (hcmp 1) fun j => bne_iff_ne, compares hd 2 _ _ (hcmp 2) fun j => ?_,
      compares hd 3 _ _ (hcmp 3) fun j => ?_, compares hd 4 _ _ (hcmp 4) fun j => decide_eq_true_iff, compares hd 5 _ _ (hcmp 5) fun j => decide_eq_true_iff⟩
    all_goals rw [decide_eq_true_iff, signed, signed]
  case float =>
    intro u
    have hcmp (fn : Nat) : cmpFn f.ty.toNat fn = _ := if_pos (decide_eq_true hfloat)
    exact ⟨compares hd 0 _ _ (hcmp 0) fun j => Iff.rfl, compares hd 1 _ _ (hcmp 1) fun j => by rw [Bool.not_eq_true'], compares hd 2 _ _ (hcmp 2) fun j => Iff.rfl,
      compares hd 3 _ _ (hcmp 3) fun j => Bool.or_eq_true_iff, compares hd 6 _ _ (hcmp 6) fun j => Bool.or_eq_true_iff⟩
  case logic =>
    refine ⟨issue_pred hr0 rfl hd ha hb rfl fun j => ?_, issue_pred hr0 rfl hd ha hb rfl fun j => ?_, issue_pred hr0 rfl hd ha hb rfl fun j => ?_,
      issue_pred hr0 rfl hd ha hb rfl fun j => ?_⟩
    · rw [BitVec.getLsbD_and, Bool.and_eq_true]
    · rw [BitVec.getLsbD_or, Bool.or_eq_true]
    · rw [BitVec.getLsbD_xor, bne_iff_ne]
    · have hall : j < 64 → (p &&& ~~~ q).getLsbD j = (p.getLsbD j && !q.getLsbD j) := fun hj => by
        rw [BitVec.getLsbD_and, BitVec.getLsbD_not, decide_eq_true hj, Bool.true_and]
      rcases Nat.lt_or_ge j 64 with hj | hj
      · rw [hall hj, Bool.and_eq_true, Bool.not_eq_true']
      · simp [BitVec.getLsbD_of_ge _ _ hj]
  case pwhile =>
    have hpd : isPred f.vd = true := decide_eq_true hd
    have hsources : Ready h [f.vs1, f.vs2] s := ready_mono hr (by simp)
    exact fun hf => issue_fromBits hsources rfl hf 1 (if_neg (by simp [f0, hpd])) fun j => decide_eq_true_iff
  case pcount =>
    have hpa : isPred f.vs1 = true := decide_eq_true ha
    have hdest : Ready h [f.vd] s := ready_mono hr (by simp)
    refine issue_writes hdest rfl hf 1 ((if_neg (by simp [f0, hpa])).trans ?_)
    rw [popCount_eq_length]

end Sys2Proof.Machine
end

section
/-!
PROOFS. Vector moves, conversions and reductions (R111, R112, Table 5.7).
-/
namespace Sys2Proof.Machine

/-! ### Values of lanes -/

theorem sext64_eq (n v : Nat) : sext64 n v = BitVec.ofInt 64 (Int.bmod v (2 ^ n)) := by
  rw [sext64, BitVec.signExtend, ← BitVec.ofInt_natCast, BitVec.toInt_ofInt]

theorem intBits_lt (e : Nat) (x : Int) : intBits e x < 2 ^ e := by
  zify
  rw [intBits_cast]
  exact Int.emod_lt_of_pos _ (by positivity)

/-- A conversion of one lane (R112): of the source's value, rounded once or truncated, or of its low bits. -/
theorem cvtLane_eq (src dst v : Nat) : cvtLane src dst v =
    if src < 4 then (if dst < 4 then pack (vFmt dst) (unpack (vFmt src) v) else (toInt (vBits dst) (unpack (vFmt src) v) % 2 ^ vBits dst).toNat)
    else (if dst < 4 then pack (vFmt dst) (ofInt (Int.bmod v (2 ^ vBits src))) else (Int.bmod v (2 ^ vBits src) % 2 ^ vBits dst).toNat) := by
  simp only [cvtLane, vFloat, decide_eq_true_eq, bitsInt_eq_bmod (vBits_pos src), intBits]

theorem cvtLane_lt (src dst v : Nat) : cvtLane src dst v < 2 ^ vBits dst := by
  by_cases hdst : dst < 4
  · simp only [cvtLane, vFloat, decide_eq_true hdst, if_true]
    split <;> exact pack_vFmt_lt hdst _
  · simp only [cvtLane, vFloat, decide_eq_false hdst, Bool.false_eq_true, if_false]
    split <;> exact intBits_lt ..

/-- A register that holds a number of one lane. -/
theorem laneOf_ofNat {e r l : Nat} (hr : r < 2 ^ e) (he : e ≤ 512) : laneOf e (BitVec.ofNat 512 r) l = if l = 0 then r else 0 := by
  have hfit : 2 ^ e ≤ 2 ^ 512 := pow_le_pow_right₀ one_le_two he
  rw [laneOf, toNat_ofNat_of_lt (hr.trans_le hfit)]
  split
  · next hl => rw [hl, Nat.mul_zero, pow_zero, Nat.div_one, Nat.mod_eq_of_lt hr]
  · next hl => rw [Nat.div_eq_of_lt (hr.trans_le (Nat.pow_le_pow_right (by decide) (Nat.le_mul_of_pos_right _ (Nat.pos_of_ne_zero hl)))), Nat.zero_mod]

/-- The result of a reduction (R111): the active lanes of a register folded in ascending order. -/
def folded (s : State) (k : Nat) (f : VFields) (z : Nat) (op : Nat → Nat → Nat) : Nat :=
  (List.range (vLanes f.ty.toNat)).foldl (fun acc i => if f.pg = 0 ∨ (rp s k f.pg.toNat).getLsbD i = true
    then op acc (laneOf (vBits f.ty.toNat) (rv s k f.vs1.toNat) i) else acc) z

theorem folded_lt {s : State} {k : Nat} {f : VFields} {z : Nat} {op : Nat → Nat → Nat} (hz : z < 2 ^ vBits f.ty.toNat)
    (hop : ∀ a b, a < 2 ^ vBits f.ty.toNat → b < 2 ^ vBits f.ty.toNat → op a b < 2 ^ vBits f.ty.toNat) : folded s k f z op < 2 ^ vBits f.ty.toNat := by
  refine List.foldlRecOn (motive := (· < 2 ^ vBits f.ty.toNat)) _ _ hz fun acc hacc i _ => ?_
  split
  · exact hop _ _ hacc (laneOf_lt ..)
  · exact hacc

theorem redFn_integer {ty : Nat} (hty : 4 ≤ ty) :
    redFn ty 0 = (0, fun a b => (a + b) % 2 ^ vBits ty) ∧
    redFn ty 1 = (2 ^ (vBits ty - 1) - 1, fun (a b : Nat) => if Int.bmod a (2 ^ vBits ty) ≤ Int.bmod b (2 ^ vBits ty) then a else b) ∧
    redFn ty 2 = (2 ^ (vBits ty - 1), fun (a b : Nat) => if Int.bmod a (2 ^ vBits ty) ≤ Int.bmod b (2 ^ vBits ty) then b else a) := by
  have hint : vFloat ty = false := decide_eq_false (by omega)
  simp only [redFn, hint, bitsInt_eq_bmod (vBits_pos ty), Bool.false_eq_true, if_false, and_self]

theorem redFn_float {ty : Nat} (hty : ty < 4) :
    redFn ty 0 = (0, fOp ty Fv.add) ∧ redFn ty 1 = ((vFmt ty).infBits, fOp ty Fv.min) ∧
    redFn ty 2 = (2 ^ ((vFmt ty).eb + (vFmt ty).mb) + (vFmt ty).infBits, fOp ty Fv.max) := by
  have hfloat : vFloat ty = true := decide_eq_true hty
  simp [redFn, hfloat, pack, b2n]

/-! ### The instructions -/

/-- After a ready thread's instruction that writes some lanes of one register. -/
def MoveWritten (h : Hart) (f : VFields) (p : Nat → Prop) (g : Nat → Nat) (s t : State) : Prop :=
  (thr t h.key).pc = (thr s h.key).pc + BitVec.ofNat 64 h.len ∧
    (∀ l, l < vLanes f.ty.toNat → (p l → laneOf (vBits f.ty.toNat) (rv t h.key f.vd.toNat) l = g l) ∧
      (¬ p l → laneOf (vBits f.ty.toNat) (rv t h.key f.vd.toNat) l = laneOf (vBits f.ty.toNat) (rv s h.key f.vd.toNat) l)) ∧
    (∀ r, r ≠ f.vd.toNat → rv t h.key r = rv s h.key r) ∧ (∀ r, rx t h.key r = rx s h.key r) ∧ (∀ r, rp t h.key r = rp s h.key r) ∧ SameMemory s t

section
variable {h : Hart} {i : Instr} {f : VFields} {regs : List (BitVec 5)} {s : State} {body : State → Nat → Res}

theorem issue_active {G g : Nat → Nat} (hr : Ready h regs s) (hh : i.hart? = some h) (hbody : body s h.key = .done (wLanes s h.key f G))
    (hg : ∀ l, G l % 2 ^ vBits f.ty.toNat = g l) (hf : Fetches i s) :
    ∃ t, issue h i 1 regs body s = .next t ∧ MoveWritten h f (fun l => f.pg = 0 ∨ (rp s h.key f.pg.toNat).getLsbD l = true) g s t := by
  obtain ⟨t, ht, ⟨hpc, hx, hp, hmem⟩, hlanes, hother⟩ := issue_wLanes hr hh hf 1 hbody
  refine ⟨t, ht, hpc, fun l hl => ⟨fun hact => ?_, fun hidle => ?_⟩, hother, hx, hp, hmem⟩
  · rw [hlanes l hl, if_pos hact, hg]
  · rw [hlanes l hl, if_neg hidle]

theorem issue_moves {v : V512} {p : Nat → Prop} {g : Nat → Nat} (hr : Ready h regs s) (hh : i.hart? = some h)
    (hbody : body s h.key = .done (wv s h.key f.vd.toNat v))
    (hv : ∀ l, l < vLanes f.ty.toNat → (p l → laneOf (vBits f.ty.toNat) v l = g l) ∧
      (¬ p l → laneOf (vBits f.ty.toNat) v l = laneOf (vBits f.ty.toNat) (rv s h.key f.vd.toNat) l)) (hf : Fetches i s) :
    ∃ t, issue h i 1 regs body s = .next t ∧ MoveWritten h f p g s t := by
  obtain ⟨t, ht, ⟨hpc, hx, hp, hmem⟩, hself, hother⟩ := issue_wv hr hh hf 1 hbody
  exact ⟨t, ht, hpc, fun l hl => hself ▸ hv l hl, hother, hx, hp, hmem⟩

/-- A reduction leaves its result in lane 0 and zero in every other lane (R111). -/
theorem issue_folds {which z : Nat} {op : Nat → Nat → Nat} (hr : Ready h [] s) (hh : i.hart? = some h) (hvs2 : f.vs2 = 0)
    (hred : redFn f.ty.toNat which = (z, op)) (hz : z < 2 ^ vBits f.ty.toNat)
    (hop : ∀ a b, a < 2 ^ vBits f.ty.toNat → b < 2 ^ vBits f.ty.toNat → op a b < 2 ^ vBits f.ty.toNat) (hf : Fetches i s) :
    ∃ t, issue h i 1 [] (bodyVred which f) s = .next t ∧ MoveWritten h f (fun _ => True) (fun l => if l = 0 then folded s h.key f z op else 0) s t := by
  have hbody : bodyVred which f s h.key = .done (wv s h.key f.vd.toNat (BitVec.ofNat 512 (folded s h.key f z op))) := by
    simp only [bodyVred, hvs2, hred, laneActive_iff]
    rfl
  have hbits : vBits f.ty.toNat ≤ 512 := Nat.le_of_dvd (by decide) (vBits_dvd _)
  exact issue_moves hr hh hbody (fun l _ => ⟨fun _ => laneOf_ofNat (folded_lt hz hop) hbits, fun hno => absurd trivial hno⟩) hf

end

theorem vectorMoves : Claims.VectorMoves := by
  intro h f s hr k ty e n lane active writes f0 sel one folds
  have hr0 : Ready h [] s := ready_mono hr (by simp)
  refine ⟨?vbcast, ?vins, ?vperm, fun hf => ?vext, fun hsrc hne => ?vcvt, fun hint => ?integer, fun hfloat => ?float⟩
  case vbcast =>
    exact issue_active (f := one) (ready_mono hr (by simp [one])) rfl (if_neg (by simp [one])) fun l => rfl
  case vins =>
    refine issue_moves (f := f0) (ready_mono hr (by simp [f0])) rfl (if_neg (by simp [f0])) fun l hl => ?_
    rw [laneOf_fromLanes (vBits_dvd _) _ hl]
    refine ⟨fun hsel => by rw [if_pos hsel], fun hother => ?_⟩
    rw [if_neg hother]
    exact Nat.mod_eq_of_lt (laneOf_lt ..)
  case vperm => exact issue_active hr0 rfl rfl fun l => Nat.mod_eq_of_lt (laneOf_lt ..)
  case vext =>
    have hvalue (v : Nat) : (if vFloat ty then BitVec.ofNat 64 v else sext64 e v) = if ty < 4 then BitVec.ofNat 64 v else BitVec.ofInt 64 (Int.bmod v (2 ^ e)) := by
      simp only [vFloat, decide_eq_true_eq, sext64_eq]
    exact issue_writes (ready_mono hr (by simp [f0])) rfl hf 1 ((if_neg (by simp [f0])).trans (congrArg (fun v => Res.done (wx s k f.vd v)) (hvalue _)))
  case vcvt =>
    refine issue_active hr0 rfl (if_neg (by omega)) fun l => ?_
    by_cases hl : l < vLanes f.vs2.toNat
    · rw [if_pos hl, if_neg hl.not_ge, Nat.mod_eq_of_lt (cvtLane_lt ..), cvtLane_eq]
    · rw [if_neg hl, if_pos (Nat.not_lt.1 hl), Nat.zero_mod]
  case integer =>
    intro sg
    obtain ⟨hsum, hmin, hmax⟩ := redFn_integer hint
    have hhalf : 2 ^ (vBits ty - 1) < 2 ^ vBits ty := Nat.pow_lt_pow_right (by decide) (Nat.sub_lt (vBits_pos ty) Nat.one_pos)
    refine ⟨issue_folds (f := one) hr0 rfl rfl hsum (by positivity) fun _ _ _ _ => Nat.mod_lt _ (by positivity),
      issue_folds (f := one) hr0 rfl rfl hmin ((Nat.sub_le ..).trans_lt hhalf) fun a b ha hb => ?_,
      issue_folds (f := one) hr0 rfl rfl hmax hhalf fun a b ha hb => ?_⟩
    · split
      exacts [ha, hb]
    · split
      exacts [hb, ha]
  case float =>
    intro fm op
    obtain ⟨hsum, hmin, hmax⟩ := redFn_float hfloat
    have hinf (n : Bool) := pack_vFmt_lt hfloat (.inf n)
    have hround (g : Fv → Fv → Fv) (a b : Nat) (_ : a < 2 ^ vBits ty) (_ : b < 2 ^ vBits ty) : fOp ty g a b < 2 ^ vBits ty := pack_vFmt_lt hfloat _
    exact ⟨issue_folds (f := one) hr0 rfl rfl hsum (by positivity) (hround _),
      issue_folds (f := one) hr0 rfl rfl hmin (by simpa [pack, b2n] using hinf false) (hround _),
      issue_folds (f := one) hr0 rfl rfl hmax (by simpa [pack, b2n] using hinf true) (hround _)⟩

/-- Settles O17: predicates by their bits, moves lane by lane, reductions by their fold. -/
theorem vectorPredicatesAndMoves : Obligations.VectorPredicatesAndMoves := ⟨vectorPredicates, vectorMoves⟩

end Sys2Proof.Machine
end

section
/-!
PROOFS. Instructions that take and put stream entries (R116, R151, R251, R256).
-/
namespace Sys2Proof.Machine

/-! ### What stream operations leave of the threads and queues -/

section
variable (s : State) (k n q : Nat)

theorem countWrap_threads (node off w old : Nat) (b : Bool) : (countWrap s node off w b old).threads = s.threads := by
  rw [countWrap]
  split
  · exact recordWrap_threads ..
  · rfl

@[simp] theorem countStall_threads (qu : Bool) (i w : Nat) : (countStall s n qu i w).threads = s.threads := by
  rw [countStall]
  split
  · rfl
  · dsimp only
    generalize wrapAdd _ _ = r
    split
    · exact countWrap_threads ..
    · rfl

@[simp] theorem closeQueue_threads : (closeQueue s n q).threads = s.threads := by
  simp only [closeQueue]
  split
  · rfl
  · split <;> rfl

theorem foldl_threads {α : Type} {f : State → α → State} (hf : ∀ s a, (f s a).threads = s.threads) (l : List α) (s : State) :
    (l.foldl f s).threads = s.threads := by
  induction l generalizing s with
  | nil => rfl
  | cons a l ih => exact (ih (f s a)).trans (hf s a)

@[simp] theorem settleBench_threads : (settleBench s n).threads = s.threads := by
  simp only [settleBench, settleRegion]
  split
  · split
    · rfl
    · refine foldl_threads (fun s m => foldl_threads (fun s i => ?_) _ s) _ s
      split
      · exact foldl_threads (fun s (o : Nat × Nat) => closeQueue_threads s o.1 o.2) _ s
      · rfl
  · rfl

theorem squeue_of_benches {t : State} (h : t.benches = s.benches) : squeue t n q = squeue s n q := by rw [squeue, squeue, bench, bench, h]

@[simp] theorem squeue_markStream (m : Nat) : squeue (markStream s k) m q = squeue s m q := by
  by_cases hm : m = k / 64
  · rw [squeue, squeue, hm, markStream, bench_modBench_self]
  · rw [squeue, squeue, markStream, bench_modBench_ne _ _ hm]

theorem squeue_takeHead : squeue (takeHead s n q) n q = { squeue s n q with q := (squeue s n q).q.drop 1, returning := (squeue s n q).returning + 1 } :=
  squeue_modQueue_self ..

@[simp] theorem squeue_retire (len m : Nat) : squeue (retire s k len) m q = squeue s m q := squeue_of_benches s m q (retire_benches ..)

theorem key_div_64 (h : Hart) : h.key / 64 = h.core.toNat / 8 := by rw [← key_div]; omega

end

/-! ### The effect of an operation -/

section
variable {s : State} {k z q m : Nat} {e : SEntry}

theorem zHead_ready {f : State → Nat → V512 → State} (hb : boundTo s (k / 8) z = .input q) (he : headEntry s (k / 64) q = some e) (hp : e.poison = false) :
    zHead s k z f = .done (f s q (presented q e.data)) := by
  simp only [zHead, hb, he, hp, Bool.false_eq_true, if_false]

theorem zHead_poison {f : State → Nat → V512 → State} (hb : boundTo s (k / 8) z = .input q) (he : headEntry s (k / 64) q = some e) (hp : e.poison = true) :
    zHead s k z f = .fault streamPoison := by
  simp only [zHead, hb, he, hp, if_true]

theorem zHead_empty {f : State → Nat → V512 → State} (hb : boundTo s (k / 8) z = .input q) (he : headEntry s (k / 64) q = none) :
    zHead s k z f = .wait (countStall s (k / 64) true q 0) := by
  simp only [zHead, hb, he]

theorem zHead_output {f : State → Nat → V512 → State} (hb : boundTo s (k / 8) z = .output m q) : zHead s k z f = .fault (streamExn z 2) := by
  simp only [zHead, hb]

theorem zHead_unbound {f : State → Nat → V512 → State} (hb : boundTo s (k / 8) z = .none) : zHead s k z f = .fault (streamExn z 1) := by
  simp only [zHead, hb]

theorem zPut_room {v : V512} (hb : boundTo s (k / 8) z = .output m q) (hroom : hasRoom s m q = true) :
    zPut s k z v = .done (markStream (putEntry s m q { data := presented q v, marker := false, poison := false }) k) := by
  simp only [zPut, hb, hroom, if_true]

theorem zPut_full {v : V512} (hb : boundTo s (k / 8) z = .output m q) (hroom : hasRoom s m q = false) : zPut s k z v = .wait (countStall s m true q 1) := by
  simp only [zPut, hb, hroom, Bool.false_eq_true, if_false]

theorem zPut_input {v : V512} (hb : boundTo s (k / 8) z = .input q) : zPut s k z v = .fault (streamExn z 2) := by
  simp only [zPut, hb]

theorem zPut_unbound {v : V512} (hb : boundTo s (k / 8) z = .none) : zPut s k z v = .fault (streamExn z 1) := by
  simp only [zPut, hb]

end

/-! ### The issue of a stream instruction -/

/-- What a stream instruction of a thread outside transactions does with its effect. -/
def zOutcome (op : StreamOp) (f : VFields) (s : State) (k : Nat) : Zres → Res
  | .done t => .done t
  | .fault e => .trap s e
  | .wait t => .wait (settleBench (modThr t k fun x => { x with wait := some (.stream op f false) }) (k / 64))

section
variable {h : Hart} {i : Instr} {f : VFields} {s t : State} {op : StreamOp} {ok : Bool} {k : Nat}

theorem bodyStream_eq (hz : f.vs1.toNat < 8) (hok : ok = true) (htx : (thr s k).tx.depth = 0) :
    bodyStream op ok f s k = zOutcome op f s k (streamStep s k op f) := by
  have hfield : isZ f = true := decide_eq_true hz
  simp only [bodyStream, hfield, hok, inTx_outside htx, Bool.not_true, Bool.or_self, Bool.false_eq_true, if_false]
  cases streamStep s k op f <;> rfl

/-- From `s` to `u`, the thread of `h` has gone on to its next instruction with its x registers as they were. -/
def StreamNext (h : Hart) (s u : State) : Prop := (thr u h.key).pc = (thr s h.key).pc + BitVec.ofNat 64 h.len ∧ ∀ r, rx u h.key r = rx s h.key r

/-- A stream instruction that goes on: its effect leaves the thread as it was but for vector registers. -/
theorem issue_stream_done (hr : Ready h [] s) (hh : i.hart? = some h) (hz : f.vs1.toNat < 8) (hok : ok = true) (htx : (thr s h.key).tx.depth = 0)
    (hstep : streamStep s h.key op f = .done t) (ht : ∃ vs, thr t h.key = { thr s h.key with v := vs }) (hf : Fetches i s) :
    issue h i 1 [] (bodyStream op ok f) s = .next (retire t h.key h.len) ∧ StreamNext h s (retire t h.key h.len) := by
  obtain ⟨vs, hthr⟩ := ht
  refine ⟨issue_done hr hh hf 1 (by rw [bodyStream_eq hz hok htx, hstep, zOutcome]) (by rw [hthr]), ?_, fun r => ?_⟩
  · rw [retire_pc, hthr]
  · rw [rx_retire, rx, hthr, rx]

theorem issue_stream_fault {e : Exn} (hr : Ready h [] s) (hh : i.hart? = some h) (hz : f.vs1.toNat < 8) (hok : ok = true) (htx : (thr s h.key).tx.depth = 0)
    (hstep : streamStep s h.key op f = .fault e) (hf : Fetches i s) :
    issue h i 1 [] (bodyStream op ok f) s = .next (faultAt s h.key e (thr s h.key).pc) :=
  issue_traps hr hh hf 1 (by rw [bodyStream_eq hz hok htx, hstep, zOutcome])

/-- A stream instruction that cannot go on holds its thread with its registers as they are (R116). -/
theorem issue_stream_wait (hr : Ready h [] s) (hh : i.hart? = some h) (hz : f.vs1.toNat < 8) (hok : ok = true) (htx : (thr s h.key).tx.depth = 0)
    (hstep : streamStep s h.key op f = .wait t) (ht : t.threads = s.threads) (hf : Fetches i s) :
    ∃ u, issue h i 1 [] (bodyStream op ok f) s = .next u ∧ (thr u h.key).pc = (thr s h.key).pc ∧ (thr u h.key).wait = some (.stream op f false) ∧
      (∀ r, rx u h.key r = rx s h.key r) ∧ ∀ r, rv u h.key r = rv s h.key r := by
  refine ⟨_, issue_waits hr hh hf 1 (by rw [bodyStream_eq hz hok htx, hstep, zOutcome]), ?_⟩
  have hthr : thr (settleBench (modThr t h.key fun x => { x with wait := some (.stream op f false) }) (h.key / 64)) h.key =
      { thr s h.key with wait := some (.stream op f false) } := by
    rw [thr_of_threads (settleBench_threads ..), thr_modThr_self, thr_of_threads ht]
  refine ⟨by rw [hthr], by rw [hthr], fun r => ?_, fun r => ?_⟩
  · rw [rx, hthr, rx]
  · rw [rv, hthr, rv]

end

/-! ### An entry taken -/

/-- `s` after thread `k` has taken the head of input queue `q`. -/
def headTaken (s : State) (k q : Nat) : State := markStream (takeHead s (k / 64) q) k

section
variable (s : State) (k q : Nat)

@[simp] theorem headTaken_threads : (headTaken s k q).threads = s.threads := rfl

theorem squeue_headTaken :
    squeue (headTaken s k q) (k / 64) q = { squeue s (k / 64) q with q := (squeue s (k / 64) q).q.drop 1, returning := (squeue s (k / 64) q).returning + 1 } := by
  rw [headTaken, squeue_markStream, squeue_takeHead]

end

section
variable {h : Hart} {f : VFields} {s t : State} {q : Nat} {e : SEntry}

/-- The state after a ready thread's instruction whose effect `t` differs from `s` in vector registers of the thread. -/
theorem issue_stream_regs {i : Instr} {op : StreamOp} {ok : Bool} {d : Nat} {v : V512} (hr : Ready h [] s) (hh : i.hart? = some h) (hz : f.vs1.toNat < 8)
    (hok : ok = true) (htx : (thr s h.key).tx.depth = 0) (ht : t.threads = s.threads) (hstep : streamStep s h.key op f = .done (wv t h.key d v))
    (hf : Fetches i s) : ∃ u, issue h i 1 [] (bodyStream op ok f) s = .next u ∧
      StreamNext h s u ∧ rv u h.key d = v ∧
      (∀ m q', squeue u m q' = squeue t m q') ∧ ∀ r, r ≠ d → rv u h.key r = rv s h.key r := by
  have hthr : thr (wv t h.key d v) h.key = { thr s h.key with v := Tbl.set (thr s h.key).v d v } := by
    rw [wv, thr_modThr_self, thr_of_threads ht]
  have hrv (r : Nat) : rv t h.key r = rv s h.key r := by rw [rv, thr_of_threads ht, rv]
  obtain ⟨hnext, hregs⟩ := issue_stream_done hr hh hz hok htx hstep ⟨_, hthr⟩ hf
  refine ⟨_, hnext, hregs, ?_, fun m q' => ?_, fun r hne => ?_⟩
  · rw [rv_retire, rv_wv, if_pos rfl]
  · rw [squeue_retire]
    rfl
  · rw [rv_retire, rv_wv, if_neg hne, hrv]

theorem zfield_mod (hz : f.vs1.toNat < 8) : f.vs1.toNat % 8 = f.vs1.toNat := Nat.mod_eq_of_lt hz

theorem streamStep_get (hz : f.vs1.toNat < 8) : streamStep s h.key .get f = zTake s h.key f.vs1.toNat fun s v => wv s h.key f.vd.toNat v := by
  rw [streamStep, zfield_mod hz]

theorem streamStep_peek (hz : f.vs1.toNat < 8) : streamStep s h.key .peek f = zHead s h.key f.vs1.toNat fun s _ v => wv s h.key f.vd.toNat v := by
  rw [streamStep, zfield_mod hz]

theorem streamStep_put (hz : f.vs1.toNat < 8) : streamStep s h.key .put f = zPut s h.key f.vs1.toNat (rv s h.key f.vd.toNat) := by
  rw [streamStep, zfield_mod hz]

variable (hr : Ready h [] s) (htx : (thr s h.key).tx.depth = 0) (hz : f.vs1.toNat < 8)
variable (hb : boundTo s (h.key / 8) f.vs1.toNat = .input q) (he : headEntry s (h.key / 64) q = some e) (hp : e.poison = false)

include hr htx hz hb he hp

theorem exec_vzget (hpg : f.pg = 0) (hf : Fetches (.vzget h f) s) : ∃ t, exec (.vzget h f) s = .next t ∧
    StreamNext h s t ∧ rv t h.key f.vd.toNat = presented q e.data ∧
    (∀ m q', squeue t m q' = squeue (headTaken s h.key q) m q') ∧ ∀ r, r ≠ f.vd.toNat → rv t h.key r = rv s h.key r :=
  issue_stream_regs hr rfl hz (beq_iff_eq.2 hpg) htx (headTaken_threads s h.key q)
    ((streamStep_get hz).trans (zHead_ready hb he hp)) hf

theorem exec_vzpeek (hpg : f.pg = 0) (hf : Fetches (.vzpeek h f) s) : ∃ t, exec (.vzpeek h f) s = .next t ∧
    StreamNext h s t ∧ rv t h.key f.vd.toNat = presented q e.data ∧
    (∀ m q', squeue t m q' = squeue s m q') ∧ ∀ r, r ≠ f.vd.toNat → rv t h.key r = rv s h.key r :=
  issue_stream_regs hr rfl hz (beq_iff_eq.2 hpg) htx rfl ((streamStep_peek hz).trans (zHead_ready hb he hp)) hf

theorem exec_vzfma {fn : BitVec 4} (hfn : fmaOk f.ty.toNat fn.toNat = true) (hf : Fetches (.vzfma h f fn) s) :
    let b := vBits f.ty.toNat
    ∃ t, exec (.vzfma h f fn) s = .next t ∧
    StreamNext h s t ∧
    (∀ m q', squeue t m q' = squeue (headTaken s h.key q) m q') ∧ (∀ r, r ≠ f.vd.toNat → rv t h.key r = rv s h.key r) ∧
    ∀ l, l < vLanes f.ty.toNat → laneOf b (rv t h.key f.vd.toNat) l =
      if f.pg = 0 ∨ (rp s h.key f.pg.toNat).getLsbD l = true then
        fmaLane f.ty.toNat fn.toNat (laneOf b (rv s h.key f.vd.toNat) l) (laneOf b (presented q e.data) l) (laneOf b (rv s h.key f.vs2.toNat) l) % 2 ^ b
      else laneOf b (rv s h.key f.vd.toNat) l := by
  intro b
  obtain ⟨t, ht, hnext, hrv, hqueue, hother⟩ := issue_stream_regs (op := .fma fn) hr rfl hz hfn htx (headTaken_threads s h.key q)
    (by rw [streamStep, zfield_mod hz]; exact zHead_ready hb he hp) hf
  exact ⟨t, ht, hnext, hqueue, hother, fun l hl => by rw [hrv]; exact laneOf_mergeLanes _ _ _ (vBits_dvd _) _ _ hl⟩

end

/-! ### VZPOLL and VZPUT -/

section
variable {h : Hart} {f : VFields} {s : State} {m q : Nat}
variable (hr : Ready h [] s) (htx : (thr s h.key).tx.depth = 0) (hz : f.vs1.toNat < 8)
include hr htx hz

theorem exec_vzpoll_input (hpg : f.pg = 0) (hd : f.vd.toNat < 8) (hb : boundTo s (h.key / 8) f.vs1.toNat = .input q) (hf : Fetches (.vzpoll h f) s) :
    exec (.vzpoll h f) s = .next (retire (wp s h.key f.vd.toNat (BitVec.ofNat 64 (b2n (headEntry s (h.key / 64) q).isSome))) h.key h.len) := by
  have hfield : isZ f = true := decide_eq_true hz
  have hpred : isPred f.vd = true := decide_eq_true hd
  refine issue_done hr rfl hf 1 ?_ (by rw [thr_wp])
  simp only [bodyVzpoll, hfield, hpred, hpg, inTx_outside htx, zfield_mod hz, hb, bne_self_eq_false, Bool.not_true, Bool.or_self, Bool.false_eq_true, if_false]

theorem exec_vzpoll_output (hpg : f.pg = 0) (hd : f.vd.toNat < 8) (hb : boundTo s (h.key / 8) f.vs1.toNat = .output m q) (hf : Fetches (.vzpoll h f) s) :
    exec (.vzpoll h f) s = .next (retire (wp s h.key f.vd.toNat (BitVec.ofNat 64 (2 * b2n (hasRoom s m q)))) h.key h.len) := by
  have hfield : isZ f = true := decide_eq_true hz
  have hpred : isPred f.vd = true := decide_eq_true hd
  refine issue_done hr rfl hf 1 ?_ (by rw [thr_wp])
  simp only [bodyVzpoll, hfield, hpred, hpg, inTx_outside htx, zfield_mod hz, hb, bne_self_eq_false, Bool.not_true, Bool.or_self, Bool.false_eq_true, if_false]

theorem exec_vzput (hpg : f.pg = 0) (hb : boundTo s (h.key / 8) f.vs1.toNat = .output m q) (hroom : hasRoom s m q = true) (hf : Fetches (.vzput h f) s) :
    ∃ t, exec (.vzput h f) s = .next t ∧
      StreamNext h s t ∧
      squeue t m q = { squeue s m q with lane := (squeue s m q).lane ++ [{ data := presented q (rv s h.key f.vd.toNat), marker := false, poison := false }] } := by
  obtain ⟨hnext, hregs⟩ := issue_stream_done hr rfl hz (beq_iff_eq.2 hpg) htx ((streamStep_put hz).trans (zPut_room hb hroom)) ⟨_, rfl⟩ hf
  refine ⟨_, hnext, hregs, ?_⟩
  rw [squeue_retire, squeue_markStream, putEntry]
  exact squeue_modQueue_self ..

end

/-! ### A stream TLOAD (R151) -/

section
variable (s : State) (k t q r : Nat) (e : SEntry)

theorem tile_modTile_self (f : Tile → Tile) : tile (modTile s k t f) k t = f (tile s k t) := by
  rw [tile, modTile, thr_modThr_self, Tbl.getD_set_self, tile]

theorem tile_modTile_ne (f : Tile → Tile) {j : Nat} (hj : j ≠ t) : tile (modTile s k t f) k j = tile s k j := by
  rw [tile, modTile, thr_modThr_self, Tbl.getD_set_ne _ _ _ hj, tile]

theorem ssEn_takeHead : (bench (takeHead s (k / 64) q) (k / 64)).ssEn = (bench s (k / 64)).ssEn := by
  rw [takeHead, modQueue, bench_modBench_self]

/-- `s` after the head `e` of queue `q` has gone into row `r` of tile `t`. -/
def rowTaken : State := modTile (takeHead s (k / 64) q) k t fun x => { x with data := Tbl.set x.data r (presented q e.data) }

theorem tile_rowTaken_self : tile (rowTaken s k t q r e) k t = { tile s k t with data := Tbl.set (tile s k t).data r (presented q e.data) } :=
  tile_modTile_self ..

theorem tile_rowTaken_ne {j : Nat} (hj : j ≠ t) : tile (rowTaken s k t q r e) k j = tile s k j := tile_modTile_ne _ _ _ _ hj

theorem thr_rowTaken : ∃ ts, thr (rowTaken s k t q r e) k = { thr s k with tiles := ts } := ⟨_, thr_modThr_self ..⟩

theorem squeue_rowTaken : (squeue (rowTaken s k t q r e) (k / 64) q).q = (squeue s (k / 64) q).q.drop 1 := by
  rw [rowTaken, modTile, squeue_modThr, squeue_takeHead]

theorem ssEn_rowTaken : (bench (rowTaken s k t q r e) (k / 64)).ssEn = (bench s (k / 64)).ssEn := ssEn_takeHead ..

end

/-- From `s` to `u`, thread `k` has taken the entries `es` of queue `q`, `rest` left behind them, into the rows of tile `t` from row `r` on. -/
def RowsTaken (k t q r : Nat) (es rest : List SEntry) (s u : State) : Prop :=
  (squeue u (k / 64) q).q = rest ∧
  (∀ i e, es[i]? = some e → Tbl.get? (tile u k t).data (r + i) = some (presented q e.data)) ∧
  (∀ i, i < r → Tbl.get? (tile u k t).data i = Tbl.get? (tile s k t).data i) ∧
  (∀ j, j ≠ t → tile u k j = tile s k j) ∧
  ∃ ts, thr u k = { thr s k with tiles := ts }

section
variable {s u : State} {k t q r : Nat} {e : SEntry} {es rest : List SEntry} {f : TMemFields}

theorem rowsTaken_cons (h : RowsTaken k t q (r + 1) es rest (rowTaken s k t q r e) u) : RowsTaken k t q r (e :: es) rest s u := by
  obtain ⟨hqueue, hrows, hlow, htiles, ts, hthr⟩ := h
  obtain ⟨ts', hthr'⟩ := thr_rowTaken s k t q r e
  refine ⟨hqueue, fun i e' hi => ?_, fun i hi => ?_, fun j hj => ?_, ts, by rw [hthr, hthr']⟩
  · cases i with
    | zero =>
      obtain rfl : e = e' := Option.some.inj hi
      rw [Nat.add_zero, hlow r r.lt_succ_self, tile_rowTaken_self, Tbl.get?_set_self]
    | succ i => rw [← hrows i e' hi, Nat.add_assoc, Nat.add_comm 1 i]
  · rw [hlow i (hi.trans r.lt_succ_self), tile_rowTaken_self, Tbl.get?_set_ne _ _ hi.ne]
  · rw [htiles j hj, tile_rowTaken_ne _ _ _ _ _ _ hj]

theorem takeRows_entries (hon : (bench s (k / 64)).ssEn = true) (hq : (squeue s (k / 64) q).q = es ++ rest)
    (hgood : ∀ e ∈ es, e.marker = false ∧ e.poison = false) :
    ∃ u, takeRows f k t q (List.range' r es.length) s = .done u ∧ RowsTaken k t q r es rest s u := by
  induction es generalizing r s with
  | nil => exact ⟨s, rfl, hq, fun i e hi => by simp at hi, fun i _ => rfl, fun j _ => rfl, _, rfl⟩
  | cons e es ih =>
    obtain ⟨⟨hm, hp⟩, htail⟩ := List.forall_mem_cons.1 hgood
    have hhead : headEntry s (k / 64) q = some e := by simp [headEntry, headOf, hon, hq, hm]
    obtain ⟨u, hu, htaken⟩ := ih (s := rowTaken s k t q r e) (r := r + 1) ((ssEn_rowTaken ..).trans hon) (by rw [squeue_rowTaken, hq]; rfl) htail
    refine ⟨u, ?_, rowsTaken_cons htaken⟩
    rw [List.length_cons, List.range'_succ, takeRows, hhead]
    simp only [hp, Bool.false_eq_true, if_false]
    exact hu

/-- A stream TLOAD whose rows are all there takes them. -/
theorem tloadStreamStep_rows (hb : boundTo s (k / 8) (f.rs1.toNat % 8) = .input q) (hon : (bench s (k / 64)).ssEn = true)
    (hq : (squeue s (k / 64) q).q = es ++ rest) (hlen : es.length = descRows (tile s k f.t.toNat).desc) (hgood : ∀ e ∈ es, e.marker = false ∧ e.poison = false) :
    ∃ u, tloadStreamStep s k f = (u, .done u) ∧ RowsTaken k f.t.toNat q 0 es rest (markStream s k) u := by
  have hon' : (bench (markStream s k) (k / 64)).ssEn = true := by rw [markStream, bench_modBench_self, hon]
  have hq' : (squeue (markStream s k) (k / 64) q).q = es ++ rest := by rw [squeue_markStream, hq]
  have hready : ((squeue s (k / 64) q).q.takeWhile fun e => !e.marker) = es ++ rest.takeWhile fun e => !e.marker := by
    rw [hq, List.takeWhile_append_of_pos fun e he => by simp [(hgood e he).1]]
  have hcount : es.length ≤ goodEntries (es ++ rest.takeWhile fun e => !e.marker) := by
    rw [goodEntries, List.takeWhile_append_of_pos fun e he => by simp [(hgood e he).2], List.length_append]
    exact Nat.le_add_right ..
  obtain ⟨u, hu, htaken⟩ := takeRows_entries (f := f) (t := f.t.toNat) (r := 0) hon' hq' hgood
  refine ⟨u, ?_, htaken⟩
  rw [← List.range_eq_range'] at hu
  simp only [tloadStreamStep, hb, hon, hready, ← hlen, Nat.min_eq_left hcount, hu, List.length_append, Nat.not_lt.2 (Nat.le_add_right ..), lt_irrefl,
    decide_false, Bool.not_true, Bool.or_self, Bool.false_eq_true, if_false]

end

/-- The stream TLOAD of tile `t` from operand `z` in the memory format of FMT `fmt`. -/
def streamLoad (t : BitVec 3) (z fmt : Nat) : TMemFields :=
  { t := t, rs1 := BitVec.ofNat 5 z, rs2 := 0, d := false, mf := BitVec.ofNat 5 (tileMf fmt), scm := 0, rnd := false, q := true, z := 0 }

section
variable {s u : State} {h : Hart} {t : BitVec 3} {z q : Nat} {es rest : List SEntry}

theorem unconfigured_none {k j : Nat} (hrows : descRows (tile s k j).desc ≠ 0) : (unconfigured s k [j]).isSome = false := by
  simp [unconfigured, hrows]

theorem streamLoad_valid {fmt : Nat} (hfmt : fmt = 11 ∨ fmt = 9 ∨ fmt = 10) :
    (streamLoad t z fmt).mf.toNat = tileMf fmt ∧ mfValid (tileMf fmt) = true ∧ tileGroup fmt = 0 := by
  rcases hfmt with rfl | rfl | rfl <;> exact ⟨rfl, rfl, rfl⟩

/-- The checks of a stream TLOAD that finds nothing to refuse. -/
theorem bodyTloadStream_step {k : Nat} (htx : (thr s k).tx.depth = 0) (hz : z < 8) (hrows : descRows (tile s k t.toNat).desc ≠ 0)
    (hwidth : descWidth (tile s k t.toNat).desc = 64)
    (hfmt : descFmt (tile s k t.toNat).desc = 11 ∨ descFmt (tile s k t.toNat).desc = 9 ∨ descFmt (tile s k t.toNat).desc = 10)
    (hstep : tloadStreamStep s k (streamLoad t z (descFmt (tile s k t.toNat).desc)) = (u, .done u)) :
    bodyTloadStream (streamLoad t z (descFmt (tile s k t.toNat).desc)) s k = .done u := by
  obtain ⟨hmf, hvalid, hgroup⟩ := streamLoad_valid (t := t) (z := z) hfmt
  have hz8 : decide (8 ≤ (streamLoad t z (descFmt (tile s k t.toNat).desc)).rs1.toNat) = false :=
    decide_eq_false (by rw [streamLoad, toNat_ofNat_of_lt (by omega)]; omega)
  rw [bodyTloadStream, hstep, hmf, hz8, hvalid]
  simp [streamLoad, inTx_outside htx, unconfigured_none hrows, hgroup, hwidth]

/-- A stream TLOAD takes the first entry of its queue for each row of its tile. -/
theorem exec_tloadStream (hr : Ready h [] s) (htx : (thr s h.key).tx.depth = 0) (hz : z < 8) (hb : boundTo s (h.key / 8) z = .input q)
    (hon : (bench s (h.key / 64)).ssEn = true) (hq : (squeue s (h.key / 64) q).q = es ++ rest)
    (hlen : es.length = descRows (tile s h.key t.toNat).desc) (hgood : ∀ e ∈ es, e.marker = false ∧ e.poison = false)
    (hrows : descRows (tile s h.key t.toNat).desc ≠ 0) (hwidth : descWidth (tile s h.key t.toNat).desc = 64)
    (hfmt : descFmt (tile s h.key t.toNat).desc = 11 ∨ descFmt (tile s h.key t.toNat).desc = 9 ∨ descFmt (tile s h.key t.toNat).desc = 10)
    (hf : Fetches (.tloadStream h (streamLoad t z (descFmt (tile s h.key t.toNat).desc))) s) :
    ∃ u, exec (.tloadStream h (streamLoad t z (descFmt (tile s h.key t.toNat).desc))) s = .next (retire u h.key h.len) ∧
      RowsTaken h.key t.toNat q 0 es rest (markStream s h.key) u := by
  have hfield : (streamLoad t z (descFmt (tile s h.key t.toNat).desc)).rs1.toNat % 8 = z := by
    rw [streamLoad, toNat_ofNat_of_lt (by omega), Nat.mod_eq_of_lt hz]
  obtain ⟨u, hu, htaken⟩ := tloadStreamStep_rows (f := streamLoad t z _) (hfield ▸ hb) hon hq hlen hgood
  refine ⟨u, issue_done hr rfl hf 2 (bodyTloadStream_step htx hz hrows hwidth hfmt hu) ?_, htaken⟩
  obtain ⟨-, -, -, -, ts, hthr⟩ := htaken
  rw [hthr]
  rfl

end

/-! ### A waiting stream instruction -/

section
variable {s : State} {k q : Nat} {f : VFields} {e : SEntry}

theorem streamStep_get_ready (hb : boundTo s (k / 8) (f.vs1.toNat % 8) = .input q) (he : headEntry s (k / 64) q = some e) (hp : e.poison = false) :
    streamStep s k .get f = .done (wv (headTaken s k q) k f.vd.toNat (presented q e.data)) := by
  rw [streamStep]
  exact zHead_ready hb he hp

/-- A waiting VZGET completes when an entry is there (R116). -/
theorem streamWaitDone_get (hw : (thr s k).wait = some (.stream .get f false)) (hb : boundTo s (k / 8) (f.vs1.toNat % 8) = .input q)
    (he : headEntry s (k / 64) q = some e) (hp : e.poison = false) :
    streamWaitDone s k = settleBench (completeWait (wv (headTaken s k q) k f.vd.toNat (presented q e.data)) k 4) (k / 64) := by
  simp only [streamWaitDone, hw, streamStep_get_ready hb he hp, Bool.false_eq_true, if_false]

end

theorem thr_waitTaken (s : State) (k q d : Nat) (v : V512) : thr (settleBench (completeWait (wv (headTaken s k q) k d v) k 4) (k / 64)) k =
    { thr s k with wait := none, job := none, pc := (thr s k).pc + 4, v := Tbl.set (thr s k).v d v,
                   sys := { (thr s k).sys with instret := (thr s k).sys.instret + 1 } } := by
  rw [thr_of_threads (settleBench_threads ..), thr_completeWait, wv, thr_modThr_self, thr_of_threads (headTaken_threads ..)]
  rfl

/-! ### The obligation -/

/-- Settles O35: each stream instruction does what its step on the queue says, and STREAM_WAIT_DONE takes the same step again. -/
theorem streamOperands : Obligations.StreamOperands := by
  refine ⟨fun h f s hr htx hz => ?operands, fun h t z q s hr htx hz => ?tload, fun c m f q e s hc hheld => ?waits⟩
  case operands =>
    intro k n z f0 next_ raises waits_ taken
    have hpg : (f0.pg == 0) = true := rfl
    have hbench : h.key / 64 = n := key_div_64 h
    have bound {b : Bound} (hb : boundTo s h.core.toNat z = b) : boundTo s (h.key / 8) f0.vs1.toNat = b := by rw [key_div]; exact hb
    have head {q : Nat} {b : Option SEntry} (he : headEntry s n q = b) : headEntry s (h.key / 64) q = b := by rw [hbench, he]
    have takes {t : State} {q : Nat} (ht : ∀ m q', squeue t m q' = squeue (headTaken s h.key q) m q') : taken t q := by
      have hq := squeue_headTaken s h.key q
      rw [hbench] at hq
      simp only [taken, ht, hq, and_self]
    have faults {i : Instr} {op : StreamOp} {x : Exn} (hexec : exec i s = issue h i 1 [] (bodyStream op (f0.pg == 0) f0) s) (hh : i.hart? = some h)
        (hstep : streamStep s k op f0 = .fault x) : raises i x := fun hf => hexec.trans (issue_stream_fault hr hh hz hpg htx hstep hf)
    have holds {i : Instr} {op : StreamOp} {t : State} (hexec : exec i s = issue h i 1 [] (bodyStream op (f0.pg == 0) f0) s) (hh : i.hart? = some h)
        (hstep : streamStep s k op f0 = .wait t) (ht : t.threads = s.threads) : waits_ i op f0 := fun hf => by
      rw [hexec]
      exact issue_stream_wait hr hh hz hpg htx hstep ht hf
    refine ⟨fun q e hb he hp => ⟨fun hf => ?get, fun hf => ?peek, fun hd hf => ?pollSome, fun fn hfn hf => ?fma⟩, fun q e hb he hp => ?poisoned,
      fun q hb he => ⟨?getEmpty, ?peekEmpty, fun hd hf => ?pollNone⟩,
      fun m q hb => ⟨fun hroom hf => ?put, fun hroom => ?putFull, fun hd hf => ?pollRoom, ?getOutput⟩, fun q hb => ?putInput, fun hb => ⟨?getNone, ?putNone⟩⟩
    case get =>
      obtain ⟨t, ht, hnext, hv, hqueue, hother⟩ := exec_vzget (f := f0) hr htx hz (bound hb) (head he) hp rfl hf
      exact ⟨t, ht, hnext, hv, takes hqueue, hother⟩
    case peek =>
      obtain ⟨t, ht, hnext, hv, hqueue, hother⟩ := exec_vzpeek (f := f0) hr htx hz (bound hb) (head he) hp rfl hf
      exact ⟨t, ht, hnext, hv, hqueue n q, hother⟩
    case fma =>
      obtain ⟨t, ht, hnext, hqueue, hother, hlanes⟩ := exec_vzfma hr htx hz (bound hb) (head he) hp hfn hf
      exact ⟨t, ht, hnext, takes hqueue, hother, hlanes⟩
    case put =>
      obtain ⟨t, ht, hnext, hqueue⟩ := exec_vzput (f := f0) hr htx hz rfl (bound hb) hroom hf
      exact ⟨t, ht, hnext, by rw [hqueue], by rw [hqueue]⟩
    case pollSome =>
      rw [exec_vzpoll_input (f := f0) hr htx hz rfl hd (bound hb) hf, head he]
      rfl
    case pollNone =>
      rw [exec_vzpoll_input (f := f0) hr htx hz rfl hd (bound hb) hf, head he]
      rfl
    case pollRoom =>
      rw [exec_vzpoll_output (f := f0) hr htx hz rfl hd (bound hb) hf]
      cases hasRoom s m q <;> rfl
    case poisoned => exact faults rfl rfl ((streamStep_get hz).trans (zHead_poison (bound hb) (head he) hp))
    case getEmpty => exact holds rfl rfl ((streamStep_get hz).trans (zHead_empty (bound hb) (head he))) (countStall_threads ..)
    case peekEmpty => exact holds rfl rfl ((streamStep_peek hz).trans (zHead_empty (bound hb) (head he))) (countStall_threads ..)
    case putFull => exact holds rfl rfl ((streamStep_put hz).trans (zPut_full (bound hb) hroom)) (countStall_threads ..)
    case getOutput => exact faults rfl rfl ((streamStep_get hz).trans (zHead_output (bound hb)))
    case putInput => exact faults rfl rfl ((streamStep_put hz).trans (zPut_input (bound hb)))
    case getNone => exact faults rfl rfl ((streamStep_get hz).trans (zHead_unbound (bound hb)))
    case putNone => exact faults rfl rfl ((streamStep_put hz).trans (zPut_unbound (bound hb)))
  case tload =>
    intro k n x rows es i hb hon hlen hgood hrows hwidth hfmt hf
    have hbench : h.key / 64 = n := key_div_64 h
    obtain ⟨u, hu, htaken⟩ := exec_tloadStream (es := es) (rest := (squeue s n q).q.drop rows) hr htx hz (by rw [key_div]; exact hb) (by rw [hbench, hon])
      (by rw [hbench, List.take_append_drop]) hlen hgood hrows hwidth hfmt hf
    obtain ⟨hqueue, hentries, -, htiles, ts, hthr⟩ := htaken
    have htile (j : Nat) : tile (retire u k h.len) k j = tile u k j := by rw [tile, retire_thr_self, tile]
    refine ⟨_, hu, ?_, ?_, fun r e hr => ?_, fun j hj => ?_⟩
    · rw [retire_pc, hthr]
      rfl
    · rw [hbench] at hqueue
      rw [squeue_retire, hqueue]
    · rw [htile, ← hentries r e hr, Nat.zero_add]
    · rw [htile, htiles j hj]
      rfl
  case waits =>
    intro k hw hb he hp
    have hcore : k / 8 = c.toNat := by have := m.isLt; omega
    have hbench : k / 64 = c.toNat / 8 := by omega
    have hthr := thr_waitTaken s k q f.vd.toNat (presented q e.data)
    refine ⟨_, (onThread_next _ hc hheld).trans (congrArg _ (streamWaitDone_get hw (by rw [hcore, hb]) (by rw [hbench, he]) hp)), ?_, ?_, ?_, fun r hr => ?_⟩
    · rw [hthr]
    · rw [hthr]
    · rw [rv, hthr, Tbl.getD_set_self]
    · rw [rv, hthr, Tbl.getD_set_ne _ _ _ hr, rv]

end Sys2Proof.Machine
end

section
/-!
PROOFS. The accesses of a vector instruction to its core's own store, one by one (R110, R113, R178).
-/
namespace Sys2Proof.Machine

/-! ### A thread within an instruction -/

/-- `s` with thread `k` within the instruction `j`, at VPROG `vp` and with the vector registers `vs`. -/
def midway (s : State) (k : Nat) (j : Job) (vp : W64) (vs : Tbl V512) : State :=
  modThr s k fun t => { t with job := some j, v := vs, sys := { t.sys with vprog := vp } }

section
variable {s t u : State} {k : Nat} {j : Job} {vp : W64} {vs : Tbl V512}

@[simp] theorem thr_midway : thr (midway s k j vp vs) k = { thr s k with job := some j, v := vs, sys := { (thr s k).sys with vprog := vp } } :=
  thr_modThr_self ..

@[simp] theorem rx_midway (r : BitVec 5) : rx (midway s k j vp vs) k r = rx s k r := by rw [rx, thr_midway, rx]

@[simp] theorem rp_midway (r : Nat) : rp (midway s k j vp vs) k r = rp s k r := by rw [rp, thr_midway, rp]

@[simp] theorem rv_midway (r : Nat) : rv (midway s k j vp vs) k r = Tbl.getD vs r 0 := by rw [rv, thr_midway]

@[simp] theorem jobOf_midway : jobOf (midway s k j vp vs) k = j := by
  rw [jobOf, thr_midway]
  rfl

theorem modJob_midway (f : Job → Job) : modJob (midway s k j vp vs) k f = midway s k (f j) vp vs := by
  rw [modJob, jobOf_midway, midway, modThr_modThr]
  rfl

theorem modSys_midway (f : W64 → W64) : modSys (midway s k j vp vs) k (fun y => { y with vprog := f y.vprog }) = midway s k j (f vp) vs := by
  rw [modSys, midway, modThr_modThr]
  rfl

theorem wv_midway (d : Nat) (v : V512) : wv (midway s k j vp vs) k d v = midway s k j vp (Tbl.set vs d v) := by
  rw [wv, midway, modThr_modThr]
  rfl

/-- What a store leaves, it leaves of a thread that goes on within its instruction. -/
theorem StoreLeaves.modThr (h : StoreLeaves k s t) (f : Thread → Thread) : StoreLeaves k (modThr s k f) (modThr t k f) := by
  obtain ⟨⟨_, ws, cs, m, lp, rfl⟩, hcores, hmarks, hwf, hself⟩ := h
  exact ⟨⟨_, ws, cs, m, lp, rfl⟩, hcores, hmarks, hwf, by rw [thr_modThr_self, thr_modThr_self, hself]⟩

theorem jobOf_leaves (h : StoreLeaves k (midway s k j vp vs) t) : jobOf t k = j := by rw [jobOf, h.self, thr_midway]; rfl

theorem storeLeaves_modJob (h : StoreLeaves k (midway s k j vp vs) t) (f : Job → Job) : StoreLeaves k (midway s k (f j) vp vs) (modJob t k f) := by
  rw [modJob, jobOf_leaves h, ← modJob_midway, modJob, jobOf_midway]
  exact h.modThr _

theorem storeLeaves_vprog (h : StoreLeaves k (midway s k j vp vs) t) (f : W64 → W64) :
    StoreLeaves k (midway s k j (f vp) vs) (modSys t k fun y => { y with vprog := f y.vprog }) := by
  rw [← modSys_midway]
  exact h.modThr _

end

/-- A ready thread is within no instruction. -/
theorem job_of_ready {h : Hart} {regs : List (BitVec 5)} {s : State} (hr : Ready h regs s) : (thr s h.key).job = none := by
  obtain ⟨-, -, hjob, -⟩ := hr
  exact hjob

/-! ### What stands in the way of an access -/

section
variable {h : Hart} {s t : State} {j : Job} {vp : W64} {vs : Tbl V512} {n : Nat} {va : W64}

theorem sbBlocked_own (ha : OwnAccess h s) (line line' : Nat) (write : Bool) : sbBlocked s h.key line line' write = false := by
  obtain ⟨-, -, -, hflight, hroom⟩ := ha
  rw [inFlight, key_div, List.any_eq_false] at hflight
  rw [sbBlocked, key_div, Bool.or_eq_false_iff]
  refine ⟨List.any_eq_false.2 fun e he => ?_, decide_eq_false (by omega)⟩
  simp [sbConflict, hflight e he]

theorem ownAccess_leaves (hl : StoreLeaves h.key s t) (ha : OwnAccess h s) : OwnAccess h t := by
  obtain ⟨hlvl, hctx, htx, hflight, hroom⟩ := ha
  refine ⟨?_, ?_, ?_, ?_, ?_⟩
  · rwa [lvlOf, hl.self]
  · rwa [ctxOf_leaves hl]
  · rwa [hl.self]
  · rwa [inFlight, sb_leaves hl]
  · rwa [sb_leaves hl]

theorem ownAddr_leaves (hl : StoreLeaves h.key s t) (ho : OwnAddr h s n va) : OwnAddr h t n va := by
  obtain ⟨halign, hva, hlock, hmark⟩ := ho
  refine ⟨halign, hva, ?_, Bool.eq_false_iff.2 fun hset => Bool.eq_false_iff.1 hmark (hl.marks _ hset)⟩
  rw [← hlock]
  simp only [lineLocked, homeOf, lockHolder, locks_leaves hl]

theorem ownAccess_midway (ha : OwnAccess h s) : OwnAccess h (midway s h.key j vp vs) := by
  obtain ⟨hlvl, hctx, htx, hflight, hroom⟩ := ha
  refine ⟨?_, hctx, ?_, hflight, hroom⟩
  · rw [lvlOf, thr_midway]
    exact hlvl
  · rw [thr_midway]
    exact htx

theorem ownAddr_midway (ho : OwnAddr h s n va) : OwnAddr h (midway s h.key j vp vs) n va := ho

/-- The translation of an address of the core's own store. -/
def ownX (h : Hart) (va : W64) : Xlat := { tgt := .store h.core.toNat va.toNat, nc := false, page := none }

theorem checkPiece_lane (ha : OwnAccess h s) (ho : OwnAddr h s n va) (engine place : Nat) (acc : Acc) :
    checkPiece s h.key engine place acc va n = .at (ownX h va) := by
  obtain ⟨hlvl, hctx, -⟩ := ha
  obtain ⟨halign, hva, -⟩ := ho
  obtain ⟨htr, -⟩ := translate_own (lvl := lvlOf s h.key) (by omega) hctx hva acc
  simp [checkPiece, halign, htr, outOfReach, ownX, key_div]

theorem notePieces_own (ha : OwnAccess h s) {l : List W64} (hl : ∀ va ∈ l, va.toNat < 0x78000) : notePieces s h.key l = s := by
  obtain ⟨hlvl, hctx, -⟩ := ha
  have hone (va : W64) (hva : va.toNat < 0x78000) : noteTranslate s (threadWho s h.key (lvlOf s h.key)) va = s :=
    (translate_own (by omega) hctx hva .read).2
  induction l with
  | nil => rfl
  | cons va l ih =>
    obtain ⟨hva, hrest⟩ := List.forall_mem_cons.1 hl
    rw [notePieces, List.foldl_cons, hone va hva]
    exact ih hrest

theorem readOut_lane {a : Access1} {len : Nat} (ha : OwnAccess h s) (ho : OwnAddr h s n va) (hx : a.x = ownX h va) :
    readOut s h.key a len = .now (homeRead s (.store h.core.toNat va.toNat) len) s := by
  have hsb := sbBlocked_own ha (targetAddr (.store h.core.toNat va.toNat) / 64) (targetAddr (.store h.core.toNat va.toNat) / 64) false
  obtain ⟨-, -, htx, -⟩ := ha
  obtain ⟨-, -, hlock, hmark⟩ := ho
  simp only [readOut, inTx_outside htx, plainReadOut, hx, ownX, key_div, hsb, hlock, hmark, Bool.false_eq_true, if_false, if_true]

theorem writeOut_lane {a : Access1} (ha : OwnAccess h s) (ho : OwnAddr h s n va) (hx : a.x = ownX h va) (bs : List Byte) :
    writeOut s h.key a bs false = .now [] (coreStore s h.key va.toNat (offsets bs)) := by
  have hsb := sbBlocked_own ha (targetAddr (.store h.core.toNat va.toNat) / 64) (targetAddr (.store h.core.toNat va.toNat) / 64) true
  obtain ⟨-, -, htx, -⟩ := ha
  obtain ⟨-, -, hlock, -⟩ := ho
  simp only [writeOut, inTx_outside htx, plainWriteOut, hx, ownX, key_div, hsb, hlock, Bool.false_eq_true, if_false, if_true]

end

/-! ### One access sent and answered -/

/-- The next access of thread `k`'s instruction goes and is answered at once: `s` becomes `t`. -/
def Sends (k : Nat) (write posted : Bool) (s t : State) : Prop := ∀ n, sendParts k 1 write posted (n + 1) s = sendParts k 1 write posted n t

/-- An access of `h` to its core's own store: where it goes. -/
def LanePart (h : Hart) (s : State) (p : Part) : Prop := p.x = ownX h p.va ∧ ∃ n, OwnAddr h s n p.va

section
variable {h : Hart} {s t : State} {p : Part} {posted : Bool}

theorem sends_read (ha : OwnAccess h t) (hp : LanePart h t p) (hnext : (jobOf t h.key).parts[(jobOf t h.key).sent]? = some p) :
    Sends h.key false posted t (partDone (modJob t h.key fun j => { j with sent := (jobOf t h.key).sent + 1 }) h.key (jobOf t h.key).sent
      (homeRead t (.store h.core.toNat p.va.toNat) p.len)) := by
  obtain ⟨hx, n, ho⟩ := hp
  intro fuel
  have hread (a : Access1) (hax : a.x = p.x) := readOut_lane (a := a) (len := p.len) ha ho (hax.trans hx)
  rw [sendParts]
  simp only [hnext, Bool.false_eq_true, if_false, hread]

theorem sends_write (ha : OwnAccess h t) (hp : LanePart h t p) (hnext : (jobOf t h.key).parts[(jobOf t h.key).sent]? = some p) :
    Sends h.key true posted t (partDone (modJob (coreStore t h.key p.va.toNat (offsets p.data)) h.key fun j => { j with sent := (jobOf t h.key).sent + 1 })
      h.key (jobOf t h.key).sent []) := by
  obtain ⟨hx, n, ho⟩ := hp
  intro fuel
  have hwrite (a : Access1) (hax : a.x = p.x) := writeOut_lane (a := a) ha ho (hax.trans hx) p.data
  rw [sendParts]
  simp only [hnext, if_true, show ((1 : Nat) == 2) = false from rfl, hwrite]

end

end Sys2Proof.Machine
end

section
/-!
PROOFS. Lanes joined to chunks: what the chunks of some lanes are (R110).
-/
namespace Sys2Proof.Machine

/-- The lanes of a chunk with their addresses. -/
def chunkLanes (n : Nat) (c : W64 × List Nat) : List (Nat × W64) := ((List.range c.2.length).zip c.2).map fun l => (l.2, c.1 + BitVec.ofNat 64 (n * l.1))

/-- A chunk holds a lane, and all its lanes start in one line. -/
def LineChunk (n : Nat) (c : W64 × List Nat) : Prop := c.2 ≠ [] ∧ ∀ l ∈ chunkLanes n c, l.2.toNat / 64 = c.1.toNat / 64

section
variable {n : Nat} {c : W64 × List Nat} {acc : List (W64 × List Nat)} {lane : Nat × W64} {lanes : List (Nat × W64)}

theorem chunkLanes_single (n : Nat) (a : W64) (i : Nat) : chunkLanes n (a, [i]) = [(i, a)] := by simp [chunkLanes]

theorem chunkLanes_concat (n : Nat) (a : W64) (ls : List Nat) (i : Nat) :
    chunkLanes n (a, ls ++ [i]) = chunkLanes n (a, ls) ++ [(i, a + BitVec.ofNat 64 (n * ls.length))] := by
  simp only [chunkLanes, List.length_append, List.length_singleton, List.range_succ]
  rw [List.zip_append (by simp), List.map_append]
  rfl

theorem mem_chunkLanes {p : Nat} (hp : p < c.2.length) : (c.2[p], c.1 + BitVec.ofNat 64 (n * p)) ∈ chunkLanes n c := by
  refine List.mem_map.2 ⟨(p, c.2[p]), List.mem_iff_getElem.2 ⟨p, by simpa using hp, by simp⟩, rfl⟩

theorem lineChunk_single (n : Nat) (lane : Nat × W64) : LineChunk n (lane.2, [lane.1]) := by
  refine ⟨by simp, fun l hl => ?_⟩
  rw [chunkLanes_single, List.mem_singleton] at hl
  rw [hl]

/-- A further lane goes to the end of the chunks, and they stay such. -/
theorem addLane_keeps (hacc : ∀ c ∈ acc, LineChunk n c) :
    (addLane n acc lane).reverse.flatMap (chunkLanes n) = acc.reverse.flatMap (chunkLanes n) ++ [lane] ∧ ∀ c ∈ addLane n acc lane, LineChunk n c := by
  have begins : (addLane n acc lane) = (lane.2, [lane.1]) :: acc →
      (addLane n acc lane).reverse.flatMap (chunkLanes n) = acc.reverse.flatMap (chunkLanes n) ++ [lane] ∧ ∀ c ∈ addLane n acc lane, LineChunk n c := by
    intro heq
    rw [heq]
    refine ⟨?_, List.forall_mem_cons.2 ⟨lineChunk_single n lane, hacc⟩⟩
    rw [List.reverse_cons, List.flatMap_append, List.flatMap_singleton, chunkLanes_single]
  cases acc with
  | nil => exact begins rfl
  | cons c rest =>
    obtain ⟨a, ls⟩ := c
    by_cases hjoin : a + BitVec.ofNat 64 (n * ls.length) = lane.2 ∧ lane.2.toNat / 64 = a.toNat / 64
    · obtain ⟨⟨-, hlines⟩, hrest⟩ := List.forall_mem_cons.1 hacc
      obtain ⟨hnext, hline⟩ := hjoin
      rw [addLane_joins (i := lane.1) (va := lane.2) hnext hline]
      refine ⟨?_, List.forall_mem_cons.2 ⟨⟨by simp, fun l hl => ?_⟩, hrest⟩⟩
      · rw [List.reverse_cons, List.reverse_cons, List.flatMap_append, List.flatMap_append, List.flatMap_singleton, List.flatMap_singleton, chunkLanes_concat,
          hnext, List.append_assoc]
      · rw [chunkLanes_concat, hnext, List.mem_append, List.mem_singleton] at hl
        rcases hl with hl | rfl
        · exact hlines l hl
        · exact hline
    · exact begins (if_neg hjoin)

/-- The chunks of some lanes hold these lanes, in order. -/
theorem laneChunks_keeps (n : Nat) (lanes : List (Nat × W64)) :
    (laneChunks n lanes).flatMap (chunkLanes n) = lanes ∧ ∀ c ∈ laneChunks n lanes, LineChunk n c := by
  have keeps (lanes : List (Nat × W64)) : ∀ acc, (∀ c ∈ acc, LineChunk n c) →
      (lanes.foldl (addLane n) acc).reverse.flatMap (chunkLanes n) = acc.reverse.flatMap (chunkLanes n) ++ lanes ∧
      ∀ c ∈ lanes.foldl (addLane n) acc, LineChunk n c := by
    induction lanes with
    | nil => exact fun acc hacc => ⟨by simp, hacc⟩
    | cons lane lanes ih =>
      intro acc hacc
      obtain ⟨hone, hgood⟩ := addLane_keeps (lane := lane) hacc
      obtain ⟨hrest, hall⟩ := ih _ hgood
      exact ⟨by rw [List.foldl_cons, hrest, hone, List.append_assoc]; rfl, hall⟩
  obtain ⟨hlanes, hgood⟩ := keeps lanes [] (by simp)
  exact ⟨hlanes, fun c hc => hgood c (List.mem_reverse.1 hc)⟩

end

/-! ### Chunks of aligned lanes -/

/-- The sizes of a lane in bytes (R104). -/
def LaneSize (n : Nat) : Prop := n = 1 ∨ n = 2 ∨ n = 4 ∨ n = 8

section
variable {h : Hart} {s : State} {n : Nat} {c : W64 × List Nat} {lanes : List (Nat × W64)} {data : Nat → List Byte}

theorem laneSize_vBits (ty : Nat) : LaneSize (vBits ty / 8) := by
  rcases vBits_cases ty with he | he | he | he <;> rw [he]
  exacts [.inl rfl, .inr (.inl rfl), .inr (.inr (.inl rfl)), .inr (.inr (.inr rfl))]

/-- A chunk of lanes that lie in the core's own store: where its lanes are, and that it stays within a line. -/
theorem chunk_within (hn : LaneSize n) (hc : LineChunk n c) (hown : ∀ l ∈ chunkLanes n c, OwnAddr h s n l.2) :
    OwnAddr h s n c.1 ∧ (∀ p, p < c.2.length → (c.1 + BitVec.ofNat 64 (n * p)).toNat = c.1.toNat + n * p) ∧ c.1.toNat % 64 + n * c.2.length ≤ 64 := by
  obtain ⟨hne, hline⟩ := hc
  have hpos : 0 < c.2.length := List.length_pos_iff.2 hne
  have hhead : OwnAddr h s n c.1 := by simpa using hown _ (mem_chunkLanes hpos)
  have hat : ∀ p, p < c.2.length → (c.1 + BitVec.ofNat 64 (n * p)).toNat = c.1.toNat + n * p := by
    intro p
    induction p with
    | zero => simp
    | succ p ih =>
      intro hp
      obtain ⟨-, hva, -⟩ := hown _ (mem_chunkLanes (n := n) (show p < c.2.length by omega))
      rw [ih (by omega)] at hva
      rw [BitVec.toNat_add, BitVec.toNat_ofNat]
      rcases hn with rfl | rfl | rfl | rfl <;> omega
  refine ⟨hhead, hat, ?_⟩
  obtain ⟨halign, -⟩ := hhead
  have hlast := hline _ (mem_chunkLanes (show c.2.length - 1 < c.2.length by omega))
  rw [hat _ (by omega)] at hlast
  rcases hn with rfl | rfl | rfl | rfl <;> omega

theorem firstBad_lanes (ha : OwnAccess h s) (engine : Nat) (acc : Acc) (hown : ∀ l ∈ lanes, OwnAddr h s n l.2) :
    firstBad s h.key engine acc n lanes = none := by
  induction lanes with
  | nil => rfl
  | cons lane lanes ih =>
    obtain ⟨hlane, hrest⟩ := List.forall_mem_cons.1 hown
    rw [firstBad, checkPiece_lane ha hlane]
    exact ih hrest

theorem mem_of_chunk (hc : c ∈ laneChunks n lanes) (hown : ∀ l ∈ lanes, OwnAddr h s n l.2) : ∀ l ∈ chunkLanes n c, OwnAddr h s n l.2 := by
  intro l hl
  refine hown l ?_
  rw [← (laneChunks_keeps n lanes).1]
  exact List.mem_flatMap.2 ⟨c, hc, hl⟩

/-- The access of a chunk. -/
def chunkPart (h : Hart) (n : Nat) (data : Nat → List Byte) (c : W64 × List Nat) : Part :=
  { place := c.2.headD 0, side := false, va := c.1, x := ownX h c.1, len := n * c.2.length, data := c.2.flatMap data }

theorem chunkParts_lanes (ha : OwnAccess h s) (hn : LaneSize n) (engine : Nat) (acc : Acc) (hown : ∀ l ∈ lanes, OwnAddr h s n l.2) :
    chunkParts s h.key engine n acc data (laneChunks n lanes) = (laneChunks n lanes).map (chunkPart h n data) := by
  rw [chunkParts, ← List.filterMap_eq_map]
  refine List.filterMap_congr fun c hc => ?_
  obtain ⟨hhead, -⟩ := chunk_within hn ((laneChunks_keeps n lanes).2 c hc) (mem_of_chunk hc hown)
  rw [checkPiece_lane ha hhead]
  rfl

theorem lanePart_chunk (hn : LaneSize n) (hc : c ∈ laneChunks n lanes) (hown : ∀ l ∈ lanes, OwnAddr h s n l.2) : LanePart h s (chunkPart h n data c) :=
  ⟨rfl, n, (chunk_within hn ((laneChunks_keeps n lanes).2 c hc) (mem_of_chunk hc hown)).1⟩

end

/-! ### The bytes that the lanes get -/

theorem flatMap_range_zip {α β : Type} {l : List α} {g : Nat × α → List β} {g' : α → List β} (hg : ∀ i a, l[i]? = some a → g (i, a) = g' a) :
    ((List.range l.length).zip l).flatMap g = l.flatMap g' := by
  have hsnd : l.flatMap g' = ((List.range l.length).zip l).flatMap fun p => g' p.2 := by
    conv_lhs => rw [← List.map_snd_zip (l₁ := List.range l.length) (l₂ := l) (by simp)]
    rw [List.flatMap_map]
  rw [hsnd]
  refine List.flatMap_congr fun p hp => hg p.1 p.2 ?_
  obtain ⟨i, hi, rfl⟩ := List.mem_iff_getElem.1 hp
  simp at hi
  simp [hi]

section
variable {h : Hart} {s : State} {n : Nat} {lanes : List (Nat × W64)} {j : Job}

/-- The bytes of a chunk, lane by lane. -/
theorem chunk_bytes {c : W64 × List Nat} (hn : LaneSize n) (hc : LineChunk n c) (hown : ∀ l ∈ chunkLanes n c, OwnAddr h s n l.2) :
    (((List.range c.2.length).zip c.2).map fun l => (l.2, ((homeRead s (.store h.core.toNat c.1.toNat) (n * c.2.length)).drop (n * l.1)).take n)) =
      (chunkLanes n c).map fun l => (l.1, homeRead s (.store h.core.toNat l.2.toNat) n) := by
  obtain ⟨-, hat, -⟩ := chunk_within hn hc hown
  rw [chunkLanes, List.map_map]
  refine List.map_congr_left fun l hl => ?_
  have hlt : l.1 < c.2.length := List.mem_range.1 (List.of_mem_zip hl).1
  have hin : n * l.1 + n ≤ n * c.2.length := by
    rw [← Nat.mul_succ]
    exact Nat.mul_le_mul_left n hlt
  simp only [Function.comp, hat _ hlt, homeRead_slice hin]

/-- The bytes that each lane gets once every chunk has been read. -/
theorem lanesGot_lanes (hn : LaneSize n) (hown : ∀ l ∈ lanes, OwnAddr h s n l.2)
    (hgot : ∀ i c, (laneChunks n lanes)[i]? = some c → Tbl.getD j.got i [] = homeRead s (.store h.core.toNat c.1.toNat) (n * c.2.length)) :
    lanesGot j n lanes = lanes.map fun l => (l.1, homeRead s (.store h.core.toNat l.2.toNat) n) := by
  conv_rhs => rw [← (laneChunks_keeps n lanes).1]
  rw [lanesGot, List.map_flatMap]
  refine flatMap_range_zip fun i c hi => ?_
  have hc := List.mem_of_getElem? hi
  simp only [hgot i c hi]
  exact chunk_bytes hn ((laneChunks_keeps n lanes).2 c hc) (mem_of_chunk hc hown)

end

end Sys2Proof.Machine
end

section
/-!
PROOFS. The accesses of a vector instruction to its core's own store, sent and answered one after the other (R110, R113 to R115).
-/
namespace Sys2Proof.Machine

/-! ### Accesses that are all answered -/

/-- The next access is answered with `bs`. -/
def Job.answer (j : Job) (bs : List Byte) : Job := { j with sent := j.sent + 1, got := Tbl.set j.got j.sent bs }

/-- Every access sent has been answered, and none has failed. -/
def Job.Answered (j : Job) : Prop := j.got.length = j.sent ∧ (∀ e ∈ j.got, e.1 < j.sent) ∧ j.bad = []

theorem Tbl.set_last {α : Type} (t : Tbl α) (k : Nat) (v : α) (h : ∀ e ∈ t, e.1 < k) : Tbl.set t k v = t ++ [(k, v)] := by
  induction t with
  | nil => rfl
  | cons e t ih =>
    obtain ⟨hlt, hrest⟩ := List.forall_mem_cons.1 h
    rw [Tbl.set, if_neg (by omega), if_neg (by omega), ih hrest]
    rfl

section
variable {s t : State} {k : Nat} {j : Job} {bs : List Byte}

theorem answered_start (kind : JobKind) (firm : Bool) (parts : List Part) : (Job.start kind firm parts).Answered := ⟨rfl, by simp [Job.start], rfl⟩

theorem answered_answer (h : j.Answered) : (j.answer bs).Answered := by
  obtain ⟨hlen, hkeys, hbad⟩ := h
  have hgot : (j.answer bs).got = j.got ++ [(j.sent, bs)] := Tbl.set_last _ _ _ hkeys
  refine ⟨by rw [hgot, List.length_append, hlen]; rfl, fun e he => ?_, hbad⟩
  rw [hgot, List.mem_append, List.mem_singleton] at he
  rcases he with he | rfl
  · exact (hkeys e he).trans (Nat.lt_succ_self _)
  · exact Nat.lt_succ_self _

theorem quiet_answered (h : j.Answered) : j.quiet = true := by
  obtain ⟨hlen, -⟩ := h
  simp [Job.quiet, Job.open, hlen]

theorem lowestBad_answered (h : j.Answered) : lowestBad j = none := by
  obtain ⟨-, -, hbad⟩ := h
  rw [lowestBad, hbad]
  rfl

theorem jobOf_modJob (f : Job → Job) : jobOf (modJob t k f) k = f (jobOf t k) := by
  rw [jobOf, modJob, thr_modThr_self]
  rfl

theorem modJob_modJob (f g : Job → Job) : modJob (modJob t k f) k g = modJob t k fun j => g (f j) := by
  rw [modJob, jobOf_modJob, modJob, modThr_modThr]
  rfl

/-- The answer of an access of an all-or-nothing instruction. -/
theorem partDone_lanes (hkind : (jobOf t k).kind = .lanes) :
    partDone (modJob t k fun j => { j with sent := (jobOf t k).sent + 1 }) k (jobOf t k).sent bs = modJob t k fun j => j.answer bs := by
  simp only [partDone, modJob_modJob, jobOf_modJob, hkind]
  rw [modJob, modJob]
  rfl

/-- The answer of an access of a gather or scatter outside transactions. -/
theorem partDone_gather {f : VFields} {write : Bool} {p : Part} (hkind : (jobOf t k).kind = .gather f write) (htx : (thr t k).tx.depth = 0)
    (hnext : (jobOf t k).parts[(jobOf t k).sent]? = some p) :
    partDone (modJob t k fun j => { j with sent := (jobOf t k).sent + 1 }) k (jobOf t k).sent bs =
      laneDone (modJob t k fun j => j.answer bs) k f write p.place bs := by
  have hout : inTx (modJob t k fun j => j.answer bs) k = false := inTx_outside (by rw [modJob, thr_modThr_self]; exact htx)
  have hstep : (modJob t k fun j => { { j with sent := (jobOf t k).sent + 1 } with got := Tbl.set j.got (jobOf t k).sent bs }) =
      modJob t k fun j => j.answer bs := by
    rw [modJob, modJob]
    rfl
  have hkind' : ((jobOf t k).answer bs).kind = .gather f write := hkind
  have hnext' : ((jobOf t k).answer bs).parts[(jobOf t k).sent]? = some p := hnext
  simp only [partDone, modJob_modJob, hstep, jobOf_modJob, hkind', hnext', hout]
  rfl

end

/-! ### An all-or-nothing instruction whose accesses are all answered -/

section
variable {h : Hart} {s t u : State} {n : Nat} {write posted firm : Bool} {lanes : List (Nat × W64)} {data : Nat → List Byte} {fin : State → Job → Res}

/-- The instruction that makes the accesses `ps`. -/
def begun (s : State) (k : Nat) (firm : Bool) (ps : List Part) : State := midway s k (Job.start .lanes firm ps) (thr s k).sys.vprog (thr s k).v

theorem runLanes_sent (ha : OwnAccess h s) (hjob : (thr s h.key).job = none) (hn : LaneSize n) (hown : ∀ l ∈ lanes, OwnAddr h s n l.2)
    (hsend : sendAll (begun s h.key firm ((laneChunks n lanes).map (chunkPart h n data))) h.key 1 write posted = .ok u)
    (hans : (jobOf u h.key).Answered) (hall : (jobOf u h.key).sent = (jobOf u h.key).parts.length) :
    runLanes s h.key 1 n write posted firm lanes data fin = fin u (jobOf u h.key) := by
  have hnote : notePieces s h.key (((laneChunks n lanes).map (chunkPart h n data)).map (·.va)) = s := by
    refine notePieces_own ha fun va hva => ?_
    rw [List.map_map] at hva
    obtain ⟨c, hc, rfl⟩ := List.mem_map.1 hva
    obtain ⟨⟨-, hlow, -⟩, -⟩ := chunk_within hn ((laneChunks_keeps n lanes).2 c hc) (mem_of_chunk hc hown)
    exact hlow
  have hbegin : (modThr s h.key fun t => { t with job := some (Job.start .lanes firm ((laneChunks n lanes).map (chunkPart h n data))) }) =
      begun s h.key firm ((laneChunks n lanes).map (chunkPart h n data)) := rfl
  have hstart : lowestBad (jobOf (begun s h.key firm ((laneChunks n lanes).map (chunkPart h n data))) h.key) = none := by
    rw [begun, jobOf_midway]
    rfl
  simp only [runLanes, hjob, firstBad_lanes ha _ _ hown, chunkParts_lanes ha hn _ _ hown, hnote, hbegin, hstart, Option.isSome_none, Bool.false_eq_true,
    if_false, hsend, quiet_answered hans, lowestBad_answered hans, hall, Bool.not_true, if_true]

end

/-! ### Reads -/

section
variable {h : Hart} {s : State} {n : Nat} {j : Job} {vp : W64} {vs : Tbl V512} {pre todo ps : List Part} {p : Part}

theorem next_part (hsplit : j.parts = pre ++ p :: todo) (hsent : j.sent = pre.length) : j.parts[j.sent]? = some p := by simp [hsplit, hsent]

theorem sendParts_reads (ha : OwnAccess h s) (hkind : j.kind = .lanes) (hsplit : j.parts = pre ++ todo) (hsent : j.sent = pre.length)
    (hown : ∀ p ∈ todo, LanePart h s p) (posted : Bool) :
    sendParts h.key 1 false posted (todo.length + 1) (midway s h.key j vp vs) = .ok (midway s h.key (todo.foldl (pieceRead s) j) vp vs) := by
  induction todo generalizing j pre with
  | nil =>
    have hend : (jobOf (midway s h.key j vp vs) h.key).parts[(jobOf (midway s h.key j vp vs) h.key).sent]? = none := by simp [hsplit, hsent]
    rw [sendParts]
    simp only [hend]
    rfl
  | cons p todo ih =>
    obtain ⟨hp, hrest⟩ := List.forall_mem_cons.1 hown
    have hnext : (jobOf (midway s h.key j vp vs) h.key).parts[(jobOf (midway s h.key j vp vs) h.key).sent]? = some p := by
      rw [jobOf_midway]
      exact next_part hsplit hsent
    have hstep := sends_read (posted := posted) (ownAccess_midway (j := j) (vp := vp) (vs := vs) ha) hp hnext
    rw [partDone_lanes (by rw [jobOf_midway]; exact hkind), modJob_midway] at hstep
    have hread : j.answer (homeRead (midway s h.key j vp vs) (.store h.core.toNat p.va.toNat) p.len) = pieceRead s j p := by
      obtain ⟨hx, -⟩ := hp
      rw [pieceRead, hx]
      rfl
    rw [List.length_cons, hstep, hread]
    exact ih hkind (by rw [List.append_cons] at hsplit; exact hsplit) (by simp [pieceRead, hsent]) hrest

theorem answered_reads (hj : j.Answered) : (ps.foldl (pieceRead s) j).Answered := by
  induction ps generalizing j with
  | nil => exact hj
  | cons p ps ih => exact ih (answered_answer hj)

theorem got_reads (s : State) (ps : List Part) (j : Job) :
    (∀ i, i < j.sent → Tbl.getD (ps.foldl (pieceRead s) j).got i [] = Tbl.getD j.got i []) ∧
    ∀ i p, ps[i]? = some p → Tbl.getD (ps.foldl (pieceRead s) j).got (j.sent + i) [] = homeRead s p.x.tgt p.len := by
  induction ps generalizing j with
  | nil => exact ⟨fun _ _ => rfl, fun i p hi => by simp at hi⟩
  | cons p ps ih =>
    obtain ⟨hold, hnew⟩ := ih (pieceRead s j p)
    refine ⟨fun i hi => ?_, fun i p' hi => ?_⟩
    · rw [List.foldl_cons, hold i (hi.trans (Nat.lt_succ_self _))]
      exact Tbl.getD_set_ne _ _ _ hi.ne
    · cases i with
      | zero =>
        obtain rfl : p = p' := Option.some.inj hi
        rw [List.foldl_cons, Nat.add_zero, hold _ (Nat.lt_succ_self _)]
        exact Tbl.getD_set_self ..
      | succ i =>
        have hsent : j.sent + (i + 1) = (pieceRead s j p).sent + i := by simp only [pieceRead]; omega
        rw [List.foldl_cons, hsent]
        exact hnew i p' hi

/-- An all-or-nothing read of lanes of the core's own store ends with the bytes of each (R110). -/
theorem runLanes_reads {lanes : List (Nat × W64)} {data : Nat → List Byte} {fin : State → Job → Res} {posted firm : Bool} (ha : OwnAccess h s)
    (hjob : (thr s h.key).job = none) (hn : LaneSize n) (hown : ∀ l ∈ lanes, OwnAddr h s n l.2) :
    ∃ j, runLanes s h.key 1 n false posted firm lanes data fin = fin (midway s h.key j (thr s h.key).sys.vprog (thr s h.key).v) j ∧
      lanesGot j n lanes = (lanes.map fun l => (l.1, homeRead s (.store h.core.toNat l.2.toNat) n)) ∧
      ∀ i c, (laneChunks n lanes)[i]? = some c → Tbl.getD j.got i [] = homeRead s (.store h.core.toNat c.1.toNat) (n * c.2.length) := by
  have hparts (p : Part) (hp : p ∈ (laneChunks n lanes).map (chunkPart h n data)) : LanePart h s p := by
    obtain ⟨c, hc, rfl⟩ := List.mem_map.1 hp
    exact lanePart_chunk hn hc hown
  obtain ⟨hjparts, -, hjsent⟩ := foldl_pieceRead s ((laneChunks n lanes).map (chunkPart h n data))
    (Job.start .lanes firm ((laneChunks n lanes).map (chunkPart h n data)))
  have hsend := sendParts_reads (pre := []) (j := Job.start .lanes firm ((laneChunks n lanes).map (chunkPart h n data)))
    (vp := (thr s h.key).sys.vprog) (vs := (thr s h.key).v) ha rfl rfl rfl hparts posted
  generalize hj : ((laneChunks n lanes).map (chunkPart h n data)).foldl (pieceRead s)
    (Job.start .lanes firm ((laneChunks n lanes).map (chunkPart h n data))) = j at *
  have hgot (i : Nat) (c : W64 × List Nat) (hi : (laneChunks n lanes)[i]? = some c) :
      Tbl.getD j.got i [] = homeRead s (.store h.core.toNat c.1.toNat) (n * c.2.length) := by
    have hpart : ((laneChunks n lanes).map (chunkPart h n data))[i]? = some (chunkPart h n data c) := by rw [List.getElem?_map, hi]; rfl
    have hread := (got_reads s _ (Job.start .lanes firm ((laneChunks n lanes).map (chunkPart h n data)))).2 i _ hpart
    rw [hj, show (Job.start .lanes firm ((laneChunks n lanes).map (chunkPart h n data))).sent + i = i from Nat.zero_add i] at hread
    exact hread
  have hrun := runLanes_sent (fin := fin) ha hjob hn hown (u := midway s h.key j (thr s h.key).sys.vprog (thr s h.key).v) (posted := posted) (write := false) (firm := firm)
    (data := data) (by rw [sendAll, begun, jobOf_midway]; exact hsend) (by rw [jobOf_midway, ← hj]; exact answered_reads (answered_start ..))
    (by rw [jobOf_midway, hjsent, hjparts]; exact Nat.zero_add _)
  rw [jobOf_midway] at hrun
  exact ⟨j, hrun, lanesGot_lanes hn hown hgot, hgot⟩

end

end Sys2Proof.Machine
end

section
/-!
PROOFS. Vector loads of the core's own store (R110, R113).
-/
namespace Sys2Proof.Machine

/-! ### The end of a load -/

/-- From `s` to `u`, thread `k` has come to the end of an instruction: nothing of it but vector registers and VPROG, now zero, has changed, and no
byte of memory. -/
def VecEnd (k : Nat) (s u : State) : Prop :=
  (∃ job vs, thr u k = { thr s k with job := job, v := vs, sys := { (thr s k).sys with vprog := 0 } }) ∧ SameMemory s u

section
variable {h : Hart} {i : Instr} {regs : List (BitVec 5)} {s u : State} {body : State → Nat → Res}

theorem issue_drops (hr : Ready h regs s) (hh : i.hart? = some h) (hf : Fetches i s) (engine : Nat) (hbody : body s h.key = .done u) :
    issue h i engine regs body s = .next (retire (dropJob u h.key) h.key h.len) := by
  rw [issue_ready hr hh hf, hbody]
  rfl

theorem issue_vecEnd (hr : Ready h regs s) (hh : i.hart? = some h) (hf : Fetches i s) (engine : Nat) (hbody : body s h.key = .done u)
    (hu : VecEnd h.key s u) :
    ∃ t, issue h i engine regs body s = .next t ∧ (thr t h.key).pc = (thr s h.key).pc + BitVec.ofNat 64 h.len ∧ (thr t h.key).sys.vprog = 0 ∧
      (∀ r, rv t h.key r = rv u h.key r) ∧ (∀ r, rx t h.key r = rx s h.key r) ∧ SameMemory s t := by
  obtain ⟨⟨job, vs, hthr⟩, hmem⟩ := hu
  have hend := retire_thr_self (dropJob u h.key) h.key h.len
  rw [thr_dropJob] at hend
  refine ⟨_, issue_drops hr hh hf engine hbody, ?_, ?_, fun r => ?_, fun r => ?_,
    sameMemory_trans hmem (sameMemory_trans (sameMemory_dropJob ..) (sameMemory_goesOn ..))⟩
  · rw [hend, hthr]
  · rw [hend, hthr]
  · rw [rv, hend, rv]
  · rw [rx, hend, hthr, rx]

end

theorem vecEnd_midway {s : State} {k : Nat} {j : Job} {vs : Tbl V512} : VecEnd k s (midway s k j 0 vs) :=
  ⟨⟨_, _, thr_midway⟩, sameMemory_of_eq rfl rfl rfl rfl rfl⟩

/-! ### The lanes of an access -/

/-- The address of lane `l` of a contiguous or strided access, the lanes of a pair's second register after those of its first. -/
def laneAddr (s : State) (k : Nat) (f : VFields) (strided : Bool) (l : Nat) : W64 :=
  let n := vLanes f.ty.toNat
  if strided then rx s k f.vs1 + BitVec.ofNat 64 (l % n) * rx s k f.vs2
  else rx s k f.vs1 + rx s k f.vs2 + BitVec.ofNat 64 (64 * (l / n) + l % n * (vBits f.ty.toNat / 8))

/-- The active lanes of some registers. -/
def activeLanes (s : State) (k : Nat) (f : VFields) (regs : Nat) : List Nat :=
  (List.range (regs * vLanes f.ty.toNat)).filter fun l => laneActive s k f.pg.toNat (l % vLanes f.ty.toNat)

section
variable {s : State} {k : Nat} {f : VFields}

theorem activeLanes_succ (s : State) (k : Nat) (f : VFields) (j : Nat) : activeLanes s k f (j + 1) = activeLanes s k f j ++
    ((List.range (vLanes f.ty.toNat)).filter fun i => laneActive s k f.pg.toNat i).map (j * vLanes f.ty.toNat + ·) := by
  rw [activeLanes, Nat.succ_mul, List.range_add, List.filter_append, List.filter_map, activeLanes]
  refine congrArg _ (congrArg _ (List.filter_congr fun i hi => ?_))
  rw [Function.comp, Nat.mul_add_mod', Nat.mod_eq_of_lt (List.mem_range.1 hi)]

theorem accessLanes_eq (s : State) (k : Nat) (f : VFields) (strided pair : Bool) :
    accessLanes s k f strided pair = (activeLanes s k f (if pair then 2 else 1)).map fun l => (l, laneAddr s k f strided l) := by
  have one (j : Nat) : (((List.range (vLanes f.ty.toNat)).filter fun i => laneActive s k f.pg.toNat i).map fun i =>
      (j * vLanes f.ty.toNat + i, if strided then rx s k f.vs1 + BitVec.ofNat 64 i * rx s k f.vs2
        else rx s k f.vs1 + rx s k f.vs2 + BitVec.ofNat 64 (64 * j + i * (vBits f.ty.toNat / 8)))) =
      (((List.range (vLanes f.ty.toNat)).filter fun i => laneActive s k f.pg.toNat i).map (j * vLanes f.ty.toNat + ·)).map
        fun l => (l, laneAddr s k f strided l) := by
    rw [List.map_map]
    refine List.map_congr_left fun i hi => ?_
    have hlt := List.mem_range.1 (List.mem_of_mem_filter hi)
    have hdiv : (j * vLanes f.ty.toNat + i) / vLanes f.ty.toNat = j := by
      rw [Nat.mul_comm, Nat.mul_add_div (vLanes_pos _), Nat.div_eq_of_lt hlt, Nat.add_zero]
    simp only [Function.comp, laneAddr, hdiv, Nat.mul_add_mod', Nat.mod_eq_of_lt hlt]
  have hzero : activeLanes s k f 0 = [] := by simp [activeLanes]
  simp only [accessLanes, one]
  cases pair
  · simp only [Bool.false_eq_true, if_false, activeLanes_succ s k f 0, hzero, List.nil_append]
  · simp only [if_true, activeLanes_succ s k f 1, activeLanes_succ s k f 0, hzero, List.nil_append, List.map_append]

theorem mem_activeLanes {regs l : Nat} : l ∈ activeLanes s k f regs ↔ l < regs * vLanes f.ty.toNat ∧ laneActive s k f.pg.toNat (l % vLanes f.ty.toNat) = true := by
  rw [activeLanes, List.mem_filter, List.mem_range]

end

/-! ### Lanes put into registers -/

section
variable {e x m l : Nat} {p : Nat → Bool} {g : Nat → List Byte}

/-- A lane among those that were read. -/
theorem find_lane (x m : Nat) (p : Nat → Bool) (g : Nat → List Byte) :
    (((List.range m).filter p).map fun l => (l, g l)).find? (fun y => y.1 == x) = if x < m ∧ p x = true then some (x, g x) else none := by
  induction m with
  | zero => simp
  | succ m ih =>
    rw [List.range_succ, List.filter_append, List.map_append, List.find?_append, ih]
    by_cases hin : x < m ∧ p x = true
    · obtain ⟨hlt, hp⟩ := hin
      rw [if_pos ⟨hlt, hp⟩, if_pos ⟨by omega, hp⟩]
      rfl
    · rw [if_neg hin, Option.none_or]
      by_cases hlast : x = m
      · subst hlast
        cases hp : p x <;> simp [hp]
      · rw [if_neg fun hin' => hin ⟨by omega, hin'.2⟩]
        cases hp : p m <;> simp [hp, Ne.symm hlast]

theorem laneOf_putLanes (he : e ∣ 512) (old : V512) (first : Nat) (hl : l < 512 / e) :
    laneOf e (putLanes e old first (((List.range m).filter p).map fun l => (l, g l))) l =
      if first + l < m ∧ p (first + l) = true then leNat (g (first + l)) % 2 ^ e else laneOf e old l := by
  rw [putLanes, laneOf_fromLanes he _ hl, find_lane]
  by_cases hin : first + l < m ∧ p (first + l) = true
  · simp only [if_pos hin]
  · simp only [if_neg hin]
    exact Nat.mod_eq_of_lt (laneOf_lt ..)

end

/-! ### Contiguous and strided loads -/

section
variable {h : Hart} {s u : State} {f : VFields} {strided pair : Bool}

theorem leNat_homeRead_lt (s : State) (c o ty : Nat) : leNat (homeRead s (.store c o) (vBits ty / 8)) < 2 ^ vBits ty := by
  have hlt := leNat_lt (homeRead s (.store c o) (vBits ty / 8))
  have height : 8 * (vBits ty / 8) = vBits ty := by rcases vBits_cases ty with he | he | he | he <;> rw [he]
  rwa [homeRead_length, height] at hlt

/-- The active lanes of `regs` registers from `vd` on hold in `u` the elements at their addresses, the others what they held, and the other registers
are as before. -/
def LanesLoaded (h : Hart) (f : VFields) (regs : Nat) (addr : Nat → W64) (s u : State) : Prop :=
  (∀ j l, j < regs → l < vLanes f.ty.toNat →
    laneOf (vBits f.ty.toNat) (rv u h.key (f.vd.toNat + j)) l =
      if laneActive s h.key f.pg.toNat l = true then storeNat s h.core.toNat (addr (j * vLanes f.ty.toNat + l)).toNat (vBits f.ty.toNat / 8)
      else laneOf (vBits f.ty.toNat) (rv s h.key (f.vd.toNat + j)) l) ∧
  ∀ r, (r < f.vd.toNat ∨ f.vd.toNat + regs ≤ r) → rv u h.key r = rv s h.key r

/-- The bytes of the lanes of an access. -/
def laneBytes (h : Hart) (s : State) (f : VFields) (strided : Bool) (l : Nat) : List Byte :=
  homeRead s (.store h.core.toNat (laneAddr s h.key f strided l).toNat) (vBits f.ty.toNat / 8)

/-- Register `j` of a load with the lanes that were read. -/
def loadedReg (h : Hart) (s : State) (f : VFields) (strided : Bool) (regs j : Nat) : V512 :=
  putLanes (vBits f.ty.toNat) (rv s h.key (f.vd.toNat + j)) (j * vLanes f.ty.toNat) ((activeLanes s h.key f regs).map fun l => (l, laneBytes h s f strided l))

theorem laneOf_loadedReg {regs j l : Nat} (hj : j < regs) (hl : l < vLanes f.ty.toNat) :
    laneOf (vBits f.ty.toNat) (loadedReg h s f strided regs j) l =
      if laneActive s h.key f.pg.toNat l = true then
        storeNat s h.core.toNat (laneAddr s h.key f strided (j * vLanes f.ty.toNat + l)).toNat (vBits f.ty.toNat / 8)
      else laneOf (vBits f.ty.toNat) (rv s h.key (f.vd.toNat + j)) l := by
  have hlt : j * vLanes f.ty.toNat + l < regs * vLanes f.ty.toNat :=
    calc j * vLanes f.ty.toNat + l < j * vLanes f.ty.toNat + vLanes f.ty.toNat := by omega
      _ = (j + 1) * vLanes f.ty.toNat := (Nat.succ_mul ..).symm
      _ ≤ regs * vLanes f.ty.toNat := Nat.mul_le_mul_right _ hj
  rw [loadedReg, activeLanes, laneOf_putLanes (vBits_dvd _) _ _ hl, Nat.mul_add_mod', Nat.mod_eq_of_lt hl]
  simp only [hlt, true_and]
  refine if_congr Iff.rfl ?_ rfl
  exact Nat.mod_eq_of_lt (leNat_homeRead_lt ..)

theorem lanesLoaded_of_regs {regs : Nat}
    (hregs : ∀ r, rv u h.key r = if f.vd.toNat ≤ r ∧ r < f.vd.toNat + regs then loadedReg h s f strided regs (r - f.vd.toNat) else rv s h.key r) :
    LanesLoaded h f regs (laneAddr s h.key f strided) s u := by
  refine ⟨fun j l hj hl => ?_, fun r hr => by rw [hregs, if_neg (by omega)]⟩
  rw [hregs, if_pos (by omega), Nat.add_sub_cancel_left, laneOf_loadedReg hj hl]

theorem rv_loadStart (s : State) (k : Nat) (j : Job) (vp : W64) (r : Nat) : rv (midway s k j vp (thr s k).v) k r = rv s k r := rv_midway r

/-- The end of a load. -/
def loadFin (f : VFields) (pair : Bool) (n : Nat) (lanes : List (Nat × W64)) (k : Nat) (t : State) (j : Job) : Res :=
  let got := lanesGot j n lanes
  let s1 := wv t k f.vd.toNat (putLanes (vBits f.ty.toNat) (rv t k f.vd.toNat) 0 got)
  .done (if pair then wv s1 k (f.vd.toNat + 1) (putLanes (vBits f.ty.toNat) (rv t k (f.vd.toNat + 1)) (vLanes f.ty.toNat) got) else s1)

/-- A contiguous or strided load of the core's own store. -/
theorem bodyVload_own (ha : OwnAccess h s) (hjob : (thr s h.key).job = none) (hvp : (thr s h.key).sys.vprog = 0)
    (hd : (pair && f.vd.toNat % 2 != 0) = false)
    (hown : ∀ l ∈ activeLanes s h.key f (if pair then 2 else 1), OwnAddr h s (vBits f.ty.toNat / 8) (laneAddr s h.key f strided l)) :
    ∃ u, bodyVload strided pair f s h.key = .done u ∧ VecEnd h.key s u ∧ LanesLoaded h f (if pair then 2 else 1) (laneAddr s h.key f strided) s u := by
  have hlanes : ∀ l ∈ accessLanes s h.key f strided pair, OwnAddr h s (vBits f.ty.toNat / 8) l.2 := by
    rw [accessLanes_eq]
    intro lane hlane
    obtain ⟨l, hl, rfl⟩ := List.mem_map.1 hlane
    exact hown l hl
  obtain ⟨j, hrun, hgot, -⟩ := runLanes_reads (data := fun _ => []) (posted := false) (firm := true)
    (fin := loadFin f pair (vBits f.ty.toNat / 8) (accessLanes s h.key f strided pair) h.key) ha hjob (laneSize_vBits _) hlanes
  rw [accessLanes_eq, List.map_map, ← accessLanes_eq] at hgot
  have hbody : bodyVload strided pair f s h.key = _ := (if_neg (Bool.eq_false_iff.1 hd)).trans hrun
  rw [loadFin, hgot, hvp] at hbody
  cases pair
  · simp only [Bool.false_eq_true, if_false] at hbody ⊢
    refine ⟨_, hbody, by rw [wv_midway]; exact vecEnd_midway, lanesLoaded_of_regs fun r => ?_⟩
    rw [rv_wv, rv_loadStart, rv_loadStart]
    by_cases hr : r = f.vd.toNat
    · rw [if_pos hr, if_pos (by omega), hr, Nat.sub_self, loadedReg, Nat.zero_mul]
      rfl
    · rw [if_neg hr, if_neg (by omega)]
  · simp only [if_true] at hbody ⊢
    refine ⟨_, hbody, by rw [wv_midway, wv_midway]; exact vecEnd_midway, lanesLoaded_of_regs fun r => ?_⟩
    rw [rv_wv, rv_wv, rv_loadStart, rv_loadStart, rv_loadStart]
    by_cases hr : r = f.vd.toNat + 1
    · rw [if_pos hr, if_pos (by omega), hr, Nat.add_sub_cancel_left, loadedReg, Nat.one_mul]
      rfl
    · rw [if_neg hr]
      by_cases hr' : r = f.vd.toNat
      · rw [if_pos hr', if_pos (by omega), hr', Nat.sub_self, loadedReg, Nat.zero_mul]
        rfl
      · rw [if_neg hr', if_neg (by omega)]

/-! ### VLDB -/

theorem laneChunks_single (n i : Nat) (va : W64) : laneChunks n [(i, va)] = [(va, [i])] := rfl

/-- VLDB: the element at one address into every active lane. -/
theorem bodyVldb_own (ha : OwnAccess h s) (hjob : (thr s h.key).job = none) (hvp : (thr s h.key).sys.vprog = 0)
    (hown : ∀ l, l < vLanes f.ty.toNat → laneActive s h.key f.pg.toNat l = true → OwnAddr h s (vBits f.ty.toNat / 8) (rx s h.key f.vs1 + rx s h.key f.vs2)) :
    ∃ u, bodyVldb f s h.key = .done u ∧ VecEnd h.key s u ∧ LanesLoaded h f 1 (fun _ => rx s h.key f.vs1 + rx s h.key f.vs2) s u := by
  cases hfind : (List.range (vLanes f.ty.toNat)).find? fun i => laneActive s h.key f.pg.toNat i with
  | none =>
    have hidle (l : Nat) (hl : l < vLanes f.ty.toNat) : ¬ laneActive s h.key f.pg.toNat l = true := List.find?_eq_none.1 hfind l (List.mem_range.2 hl)
    refine ⟨s, by simp only [bodyVldb, hfind], ⟨⟨_, _, by rw [← hvp]⟩, sameMemory_refl s⟩, fun j l hj hl => ?_, fun r hr => rfl⟩
    rw [if_neg (hidle l hl)]
  | some i =>
    have hlanes : ∀ l ∈ [(i, rx s h.key f.vs1 + rx s h.key f.vs2)], OwnAddr h s (vBits f.ty.toNat / 8) l.2 := fun l hl => by
      rw [List.mem_singleton.1 hl]
      exact hown i (List.mem_range.1 (List.mem_of_find?_eq_some hfind)) (List.find?_some hfind)
    obtain ⟨j, hrun, -, hgot⟩ := runLanes_reads (data := fun _ => []) (posted := false) (firm := true)
      (fin := fun t j => .done (wLanes t h.key f fun _ => leNat (Tbl.getD j.got 0 []))) ha hjob (laneSize_vBits f.ty.toNat) hlanes
    have hbody : bodyVldb f s h.key = _ := (by simp only [bodyVldb, hfind] : bodyVldb f s h.key = _).trans hrun
    rw [hgot 0 _ (by rw [laneChunks_single]; rfl), hvp] at hbody
    refine ⟨_, hbody, by rw [wLanes, wv_midway]; exact vecEnd_midway, fun j l hj hl => ?_, fun r hr => ?_⟩
    · obtain rfl : j = 0 := by omega
      rw [Nat.add_zero, wLanes, rv_wv, if_pos rfl, laneOf_mergeLanes _ _ _ (vBits_dvd _) _ _ hl, rv_loadStart, rp_midway]
      refine if_congr (laneActive_iff s h.key f.pg l).symm ?_ rfl
      rw [List.length_singleton, Nat.mul_one]
      exact Nat.mod_eq_of_lt (leNat_homeRead_lt ..)
    · rw [wLanes, rv_wv, if_neg (by omega), rv_loadStart]

end

/-! ### The loads of the claim, all but the gather -/

section
variable {h : Hart} {s : State} {f : VFields} {i : Instr} {regs : Nat} {addr : Nat → Nat → W64}

/-- What the claim asks of a load of `regs` registers with the addresses `addr`, by register and lane. -/
def LoadsOwn (h : Hart) (f : VFields) (s : State) (i : Instr) (regs : Nat) (addr : Nat → Nat → W64) : Prop :=
  let k := h.key
  let e := vBits f.ty.toNat
  let active (i : Nat) : Prop := f.pg = 0 ∨ (rp s k f.pg.toNat).getLsbD i = true
  (∀ j l, j < regs → l < vLanes f.ty.toNat → active l → OwnAddr h s (e / 8) (addr j l)) → Fetches i s →
  ∃ t, exec i s = .next t ∧ (thr t k).pc = (thr s k).pc + BitVec.ofNat 64 h.len ∧ (thr t k).sys.vprog = 0 ∧
    (∀ j l, j < regs → l < vLanes f.ty.toNat →
      (active l → laneOf e (rv t k (f.vd.toNat + j)) l = storeNat s h.core.toNat (addr j l).toNat (e / 8)) ∧
      (¬ active l → laneOf e (rv t k (f.vd.toNat + j)) l = laneOf e (rv s k (f.vd.toNat + j)) l)) ∧
    (∀ r, (r < f.vd.toNat ∨ f.vd.toNat + regs ≤ r) → rv t k r = rv s k r) ∧ (∀ r, rx t k r = rx s k r) ∧ SameMemory s t

/-- A load is what the claim asks once its body ends with the lanes loaded. -/
theorem loadsOwn_of_body {names : List (BitVec 5)} {body : State → Nat → Res} {addr' : Nat → W64} (hr : Ready h names s) (hh : i.hart? = some h)
    (hexec : exec i s = issue h i 1 names body s) (haddr : ∀ j l, j < regs → l < vLanes f.ty.toNat → addr' (j * vLanes f.ty.toNat + l) = addr j l)
    (hbody : (∀ j l, j < regs → l < vLanes f.ty.toNat → laneActive s h.key f.pg.toNat l = true → OwnAddr h s (vBits f.ty.toNat / 8) (addr j l)) →
      ∃ u, body s h.key = .done u ∧ VecEnd h.key s u ∧ LanesLoaded h f regs addr' s u) : LoadsOwn h f s i regs addr := by
  intro hown hf
  obtain ⟨u, hu, hend, hlanes, hother⟩ := hbody fun j l hj hl hact => hown j l hj hl ((laneActive_iff ..).1 hact)
  obtain ⟨t, ht, hpc, hvp, hrv, hrx, hmem⟩ := issue_vecEnd hr hh hf 1 hu hend
  refine ⟨t, hexec.trans ht, hpc, hvp, fun j l hj hl => ⟨fun hact => ?_, fun hidle => ?_⟩, fun r hr => by rw [hrv, hother r hr], hrx, hmem⟩
  · rw [hrv, hlanes j l hj hl, if_pos ((laneActive_iff ..).2 hact), haddr j l hj hl]
  · rw [hrv, hlanes j l hj hl, if_neg fun hact => hidle ((laneActive_iff ..).1 hact)]

/-- The address of lane `l` of register `j`. -/
theorem laneAddr_at (s : State) (k : Nat) (f : VFields) (strided : Bool) (j : Nat) {l : Nat} (hl : l < vLanes f.ty.toNat) :
    laneAddr s k f strided (j * vLanes f.ty.toNat + l) = if strided then rx s k f.vs1 + BitVec.ofNat 64 l * rx s k f.vs2
      else rx s k f.vs1 + rx s k f.vs2 + BitVec.ofNat 64 (64 * j + l * (vBits f.ty.toNat / 8)) := by
  have hdiv : (j * vLanes f.ty.toNat + l) / vLanes f.ty.toNat = j := by
    rw [Nat.mul_comm, Nat.mul_add_div (vLanes_pos _), Nat.div_eq_of_lt hl, Nat.add_zero]
  rw [laneAddr, hdiv, Nat.mul_add_mod', Nat.mod_eq_of_lt hl]

/-- An active lane of some registers is a lane of one of them. -/
theorem exists_of_mem_activeLanes {k l : Nat} (hl : l ∈ activeLanes s k f regs) :
    ∃ j i, j < regs ∧ i < vLanes f.ty.toNat ∧ laneActive s k f.pg.toNat i = true ∧ l = j * vLanes f.ty.toNat + i := by
  obtain ⟨hlt, hact⟩ := mem_activeLanes.1 hl
  exact ⟨l / vLanes f.ty.toNat, l % vLanes f.ty.toNat, (Nat.div_lt_iff_lt_mul (vLanes_pos _)).2 hlt, Nat.mod_lt _ (vLanes_pos _), hact,
    (Nat.div_add_mod' ..).symm⟩

theorem loadsOwn_vload {strided pair : Bool} (hr : Ready h [f.vs1, f.vs2] s) (ha : OwnAccess h s) (hvp : (thr s h.key).sys.vprog = 0)
    (hh : i.hart? = some h) (hexec : exec i s = issue h i 1 [f.vs1, f.vs2] (bodyVload strided pair f) s) (hd : (pair && f.vd.toNat % 2 != 0) = false)
    (haddr : ∀ j l, j < (if pair then 2 else 1) → l < vLanes f.ty.toNat → laneAddr s h.key f strided (j * vLanes f.ty.toNat + l) = addr j l) :
    LoadsOwn h f s i (if pair then 2 else 1) addr := by
  have hjob := job_of_ready hr
  refine loadsOwn_of_body hr hh hexec haddr fun hown => bodyVload_own ha hjob hvp hd fun l hl => ?_
  obtain ⟨j, i, hj, hi, hact, rfl⟩ := exists_of_mem_activeLanes hl
  rw [haddr j i hj hi]
  exact hown j i hj hi hact

theorem loadsOwn_vldb (hr : Ready h [f.vs1, f.vs2] s) (ha : OwnAccess h s) (hvp : (thr s h.key).sys.vprog = 0) :
    LoadsOwn h f s (.vldb h f) 1 fun _ _ => rx s h.key f.vs1 + rx s h.key f.vs2 := by
  have hjob := job_of_ready hr
  exact loadsOwn_of_body hr rfl rfl (addr' := fun _ => rx s h.key f.vs1 + rx s h.key f.vs2) (fun _ _ _ _ => rfl)
    fun hown => bodyVldb_own ha hjob hvp fun l hl hact => hown 0 l Nat.one_pos hl hact

end

end Sys2Proof.Machine
end

section
/-!
PROOFS. Gathers and scatters in the core's own store, lane by lane (R113 to R115).
-/
namespace Sys2Proof.Machine

/-! ### The lane that is issued next -/

section
variable {h : Hart} {s t u : State} {k i n : Nat} {f : VFields} {write : Bool} {pre todo : List Nat}

/-- Every access that the instruction of a thread has made is that of one of the lanes `pre`, and is answered. -/
def LanesAnswered (j : Job) (f : VFields) (write : Bool) (pre : List Nat) : Prop :=
  j.kind = .gather f write ∧ j.Answered ∧ j.sent = j.parts.length ∧ j.parts.map (·.place) = pre

/-- Where the lanes `pre` are issued and `todo` are left, the first of these is next. -/
theorem nextLane_eq (hjob : LanesAnswered (jobOf t k) f write pre)
    (hlanes : ((List.range (vLanes f.ty.toNat)).filter fun l => laneActive t k f.pg.toNat l) = pre ++ todo)
    (hbits : ∀ l ∈ todo, bit (thr t k).sys.vprog.toNat l = false) (hpre : ∀ l ∈ pre, l ∉ todo) : nextLane t k f = todo.head? := by
  obtain ⟨-, -, -, hplaces⟩ := hjob
  have hissued (l : Nat) : ((jobOf t k).parts.any fun p => p.place == l) = decide (l ∈ pre) := by
    rw [← hplaces, Bool.eq_iff_iff, List.any_eq_true, decide_eq_true_iff, List.mem_map]
    simp only [beq_iff_eq]
  have hleft : ((pre ++ todo).filter fun l => !bit (thr t k).sys.vprog.toNat l && !decide (l ∈ pre)) = todo := by
    rw [List.filter_append, List.filter_eq_nil_iff.2 fun l hl => by simp [hl], List.nil_append]
    exact List.filter_eq_self.2 fun l hl => by simp [hbits l hl, show l ∉ pre from fun hp => hpre l hp hl]
  have hall : ((List.range (vLanes f.ty.toNat)).filter fun l => laneActive t k f.pg.toNat l && !bit (thr t k).sys.vprog.toNat l && !decide (l ∈ pre)) = todo := by
    rw [← hleft, ← hlanes, List.filter_filter]
    exact List.filter_congr fun l _ => by rw [Bool.and_assoc, Bool.and_comm]
  simp only [nextLane, hissued]
  rw [← List.head?_filter, hall]

/-! ### One lane, and the end -/

/-- A further access is to be sent. -/
def Job.withPart (j : Job) (p : Part) : Job := { j with parts := j.parts ++ [p] }

/-- The access of a lane. -/
def gatherPart (h : Hart) (f : VFields) (t : State) (i : Nat) : Part :=
  { place := i, side := false, va := gatherAddr t h.key f i, x := ownX h (gatherAddr t h.key f i), len := vBits f.ty.toNat / 8,
    data := leBytes (vBits f.ty.toNat / 8) (laneOf (vBits f.ty.toNat) (rv t h.key f.vd.toNat) i) }

/-- `t` with the access of lane `i` to be sent. -/
def laneIssued (h : Hart) (f : VFields) (t : State) (i : Nat) : State := modJob t h.key fun j => j.withPart (gatherPart h f t i)

/-- A lane in the core's own store goes and is answered. -/
theorem gatherGo_lane (ha : OwnAccess h t) (hjob : LanesAnswered (jobOf t h.key) f write pre) (hnext : nextLane t h.key f = some i)
    (ho : OwnAddr h t (vBits f.ty.toNat / 8) (gatherAddr t h.key f i)) (hsend : Sends h.key write false (laneIssued h f t i) u)
    (hu : (jobOf u h.key).sent = (jobOf u h.key).parts.length) (n : Nat) : gatherGo f write h.key (n + 1) t = gatherGo f write h.key n u := by
  obtain ⟨-, hans, -, -⟩ := hjob
  have hsent : sendParts h.key 1 write false 1 (laneIssued h f t i) = .ok u := hsend 0
  have hnote : notePieces t h.key [gatherAddr t h.key f i] = t := notePieces_own ha fun va hva => by
    rw [List.mem_singleton.1 hva]
    obtain ⟨-, hlow, -⟩ := ho
    exact hlow
  rw [laneIssued] at hsent
  simp only [gatherPart, Job.withPart] at hsent
  rw [gatherGo]
  simp only [lowestBad_answered hans, Option.isSome_none, Bool.false_eq_true, if_false, hnext, checkPiece_lane ha ho, hnote, hsent, hu, if_true]

/-- A gather or scatter ends once no lane is left. -/
theorem gatherGo_none (htx : (thr t k).tx.depth = 0) (hjob : LanesAnswered (jobOf t k) f write pre) (hnext : nextLane t k f = none) (n : Nat) :
    gatherGo f write k n t = .done (modSys t k fun y => { y with vprog := 0 }) := by
  obtain ⟨-, hans, -, -⟩ := hjob
  have hend : gatherEnd t k f write = .done (modSys t k fun y => { y with vprog := 0 }) := by
    simp only [gatherEnd, quiet_answered hans, lowestBad_answered hans, hnext, gatherFin, inTx_outside htx, Bool.not_true, Bool.false_eq_true, if_false,
      Option.isNone_none, if_true]
  cases n with
  | zero => exact hend
  | succ n => simp only [gatherGo, lowestBad_answered hans, Option.isSome_none, Bool.false_eq_true, if_false, hnext, hend]

/-- The answer of the lane that was issued. -/
theorem lanesAnswered_answer {j : Job} {p : Part} {bs : List Byte} (hj : LanesAnswered j f write pre) :
    LanesAnswered ((j.withPart p).answer bs) f write (pre ++ [p.place]) := by
  obtain ⟨hkind, hans, hall, hplaces⟩ := hj
  refine ⟨hkind, answered_answer hans, ?_, ?_⟩
  · simp [Job.answer, Job.withPart, hall]
  · simp [Job.answer, Job.withPart, hplaces]

theorem next_of_answered {j : Job} {p : Part} (hj : LanesAnswered j f write pre) : (j.withPart p).parts[j.sent]? = some p := by
  obtain ⟨-, -, hall, -⟩ := hj
  simp [Job.withPart, hall]

/-- The bits of VPROG but that of a lane that completes. -/
theorem bit_setLane (vp : W64) {l : Nat} (hne : l ≠ i) : bit (vp ||| BitVec.ofNat 64 (2 ^ i)).toNat l = bit vp.toNat l := by
  rw [bit_eq_getLsbD, bit_eq_getLsbD, BitVec.getLsbD_or, BitVec.getLsbD_ofNat, Nat.testBit_two_pow]
  simp [Ne.symm hne]

end

/-! ### Gathers -/

section
variable {h : Hart} {s : State} {f : VFields} {j : Job} {vp : W64} {vs : Tbl V512} {pre todo : List Nat} {i : Nat}

/-- A register with lane `i` replaced by what was read for it. -/
def gatheredReg (f : VFields) (v : V512) (i : Nat) (bs : List Byte) : V512 :=
  fromLanes (vBits f.ty.toNat) fun l => if l = i then leNat bs else laneOf (vBits f.ty.toNat) v l

theorem laneDone_midway_read (s : State) (k : Nat) (bs : List Byte) : laneDone (midway s k j vp vs) k f false i bs =
    midway s k j (vp ||| BitVec.ofNat 64 (2 ^ i)) (Tbl.set vs f.vd.toNat (gatheredReg f (Tbl.getD vs f.vd.toNat 0) i bs)) := by
  rw [← modSys_midway fun x => x ||| BitVec.ofNat 64 (2 ^ i), ← wv_midway, ← rv_midway (s := s) (k := k) (j := j) (vp := vp)]
  rfl

theorem laneOf_gatheredReg (v : V512) {l : Nat} (hl : l < vLanes f.ty.toNat) (c o : Nat) :
    laneOf (vBits f.ty.toNat) (gatheredReg f v i (homeRead s (.store c o) (vBits f.ty.toNat / 8))) l =
      if l = i then storeNat s c o (vBits f.ty.toNat / 8) else laneOf (vBits f.ty.toNat) v l := by
  rw [gatheredReg, laneOf_fromLanes (vBits_dvd _) _ hl]
  split
  · exact Nat.mod_eq_of_lt (leNat_homeRead_lt ..)
  · exact Nat.mod_eq_of_lt (laneOf_lt ..)

theorem laneActive_midway (k l : Nat) : laneActive (midway s k j vp vs) k f.pg.toNat l = laneActive s k f.pg.toNat l := by
  rw [laneActive, rp_midway, laneActive]

theorem gatherAddr_midway (k : Nat) (hidx : laneOf (vBits f.ty.toNat) (Tbl.getD vs f.vs2.toNat 0) i = laneOf (vBits f.ty.toNat) (rv s k f.vs2.toNat) i) :
    gatherAddr (midway s k j vp vs) k f i = gatherAddr s k f i := by
  rw [gatherAddr, rx_midway, rv_midway, hidx, gatherAddr]

/-- One lane of a gather: it is read, written into its register and marked in VPROG (R113). -/
theorem gatherGo_read (ha : OwnAccess h s) (hjob : LanesAnswered j f false pre)
    (hnext : nextLane (midway s h.key j vp vs) h.key f = some i)
    (hidx : laneOf (vBits f.ty.toNat) (Tbl.getD vs f.vs2.toNat 0) i = laneOf (vBits f.ty.toNat) (rv s h.key f.vs2.toNat) i)
    (ho : OwnAddr h s (vBits f.ty.toNat / 8) (gatherAddr s h.key f i)) (n : Nat) :
    ∃ j', LanesAnswered j' f false (pre ++ [i]) ∧ gatherGo f false h.key (n + 1) (midway s h.key j vp vs) =
      gatherGo f false h.key n (midway s h.key j' (vp ||| BitVec.ofNat 64 (2 ^ i)) (Tbl.set vs f.vd.toNat (gatheredReg f (Tbl.getD vs f.vd.toNat 0) i
        (homeRead s (.store h.core.toNat (gatherAddr s h.key f i).toNat) (vBits f.ty.toNat / 8))))) := by
  have haddr : gatherAddr (midway s h.key j vp vs) h.key f i = gatherAddr s h.key f i := gatherAddr_midway h.key hidx
  generalize hp : gatherPart h f (midway s h.key j vp vs) i = p
  have hpart : LanePart h s p := by
    rw [← hp, gatherPart, haddr]
    exact ⟨rfl, _, ho⟩
  have hissue : laneIssued h f (midway s h.key j vp vs) i = midway s h.key (j.withPart p) vp vs := by
    rw [laneIssued, hp, modJob_midway]
  have hsend := sends_read (posted := false) (ownAccess_midway (j := j.withPart p) (vp := vp) (vs := vs) ha) hpart
    (by rw [jobOf_midway]; exact next_of_answered hjob)
  obtain ⟨hkind, -⟩ := id hjob
  obtain ⟨-, -, htx, -⟩ := id ha
  rw [partDone_gather (by rw [jobOf_midway]; exact hkind) (by rw [thr_midway]; exact htx) (by rw [jobOf_midway]; exact next_of_answered hjob),
    modJob_midway, laneDone_midway_read] at hsend
  have hplace : p.place = i := by rw [← hp]; rfl
  have hva : p.va = gatherAddr s h.key f i := by rw [← hp, ← haddr]; rfl
  have hlen : p.len = vBits f.ty.toNat / 8 := by rw [← hp]; rfl
  have hdone := lanesAnswered_answer (p := p) (bs := homeRead s (.store h.core.toNat p.va.toNat) p.len) hjob
  rw [hplace] at hdone hsend
  rw [← hva, ← hlen]
  refine ⟨_, hdone, ?_⟩
  refine gatherGo_lane (ownAccess_midway ha) (by rwa [jobOf_midway]) hnext (by rw [haddr]; exact ho) (by rw [hissue]; exact hsend) ?_ n
  rw [jobOf_midway]
  obtain ⟨-, -, hall, -⟩ := hdone
  exact hall

theorem nextLane_midway {write : Bool} {k : Nat} (hjob : LanesAnswered j f write pre)
    (hlanes : ((List.range (vLanes f.ty.toNat)).filter fun l => laneActive s k f.pg.toNat l) = pre ++ todo)
    (hbits : ∀ l ∈ todo, bit vp.toNat l = false) : nextLane (midway s k j vp vs) k f = todo.head? := by
  have hnodup : (pre ++ todo).Nodup := hlanes ▸ List.nodup_range.filter _
  refine nextLane_eq (by rwa [jobOf_midway]) ?_ (by rwa [thr_midway]) fun l hl hl' => List.disjoint_of_nodup_append hnodup hl hl'
  simp only [laneActive_midway, hlanes]

/-- A lane that is left is active, and is left once. -/
theorem lane_left {s : State} {k : Nat} (hlanes : ((List.range (vLanes f.ty.toNat)).filter fun l => laneActive s k f.pg.toNat l) = pre ++ i :: todo) :
    (∀ l ∈ i :: todo, l < vLanes f.ty.toNat) ∧ ∀ l ∈ todo, l ≠ i := by
  have hnodup : (pre ++ i :: todo).Nodup := hlanes ▸ List.nodup_range.filter _
  have hfresh : i ∉ todo := (List.nodup_cons.1 (List.nodup_append.1 hnodup).2.1).1
  refine ⟨fun l hl => ?_, fun l hl hli => hfresh (hli ▸ hl)⟩
  have hmem : l ∈ (List.range (vLanes f.ty.toNat)).filter fun l => laneActive s k f.pg.toNat l := hlanes ▸ List.mem_append_right pre hl
  exact List.mem_range.1 (List.mem_of_mem_filter hmem)

/-- A gather of the core's own store: each lane left takes its bytes, every other keeps its own. -/
theorem gatherGo_reads (ha : OwnAccess h s) (hjob : LanesAnswered j f false pre)
    (hlanes : ((List.range (vLanes f.ty.toNat)).filter fun l => laneActive s h.key f.pg.toNat l) = pre ++ todo)
    (hbits : ∀ l ∈ todo, bit vp.toNat l = false)
    (hidx : ∀ l ∈ todo, laneOf (vBits f.ty.toNat) (Tbl.getD vs f.vs2.toNat 0) l = laneOf (vBits f.ty.toNat) (rv s h.key f.vs2.toNat) l)
    (hown : ∀ l ∈ todo, OwnAddr h s (vBits f.ty.toNat / 8) (gatherAddr s h.key f l)) {fuel : Nat} (hfuel : todo.length ≤ fuel) :
    ∃ j' vs', gatherGo f false h.key fuel (midway s h.key j vp vs) = .done (midway s h.key j' 0 vs') ∧
      (∀ l, l < vLanes f.ty.toNat → laneOf (vBits f.ty.toNat) (Tbl.getD vs' f.vd.toNat 0) l =
        if l ∈ todo then storeNat s h.core.toNat (gatherAddr s h.key f l).toNat (vBits f.ty.toNat / 8) else laneOf (vBits f.ty.toNat) (Tbl.getD vs f.vd.toNat 0) l) ∧
      ∀ r, r ≠ f.vd.toNat → Tbl.getD vs' r 0 = Tbl.getD vs r 0 := by
  induction todo generalizing j vp vs pre fuel with
  | nil =>
    obtain ⟨-, -, htx, -⟩ := ha
    refine ⟨j, vs, ?_, fun l _ => by simp, fun r _ => rfl⟩
    rw [gatherGo_none (by rw [thr_midway]; exact htx) (by rwa [jobOf_midway]) (nextLane_midway hjob hlanes hbits)]
    exact congrArg _ (modSys_midway fun _ => 0)
  | cons i todo ih =>
    obtain ⟨fuel, rfl⟩ := Nat.exists_eq_succ_of_ne_zero (show fuel ≠ 0 by rw [List.length_cons] at hfuel; omega)
    obtain ⟨hlt, hapart⟩ := lane_left hlanes
    obtain ⟨hi, hrest⟩ := List.forall_mem_cons.1 hown
    obtain ⟨j', hjob', hstep⟩ := gatherGo_read ha hjob (nextLane_midway hjob hlanes hbits) (hidx i List.mem_cons_self) hi fuel
    have hkeep (r l : Nat) (hl : l < vLanes f.ty.toNat) (hne : l ≠ i) : laneOf (vBits f.ty.toNat) (Tbl.getD (Tbl.set vs f.vd.toNat (gatheredReg f
        (Tbl.getD vs f.vd.toNat 0) i (homeRead s (.store h.core.toNat (gatherAddr s h.key f i).toNat) (vBits f.ty.toNat / 8)))) r 0) l =
        laneOf (vBits f.ty.toNat) (Tbl.getD vs r 0) l := by
      by_cases hr : r = f.vd.toNat
      · rw [hr, Tbl.getD_set_self, laneOf_gatheredReg _ hl, if_neg hne]
      · rw [Tbl.getD_set_ne _ _ _ hr]
    obtain ⟨j'', vs'', hend, hin, hother⟩ := ih (fuel := fuel) hjob' (by rw [hlanes, List.append_cons])
      (fun l hl => (bit_setLane vp (hapart l hl)).trans (hbits l (List.mem_cons_of_mem _ hl)))
      (fun l hl => (hkeep _ l (hlt l (List.mem_cons_of_mem _ hl)) (hapart l hl)).trans (hidx l (List.mem_cons_of_mem _ hl)))
      hrest (by rw [List.length_cons] at hfuel; omega)
    refine ⟨j'', vs'', hstep.trans hend, fun l hl => ?_, fun r hr => ?_⟩
    · rw [hin l hl]
      by_cases hli : l = i
      · rw [hli, if_neg fun hit => hapart i hit rfl, if_pos List.mem_cons_self, Tbl.getD_set_self, laneOf_gatheredReg _ (hli ▸ hl), if_pos rfl]
      · rw [hkeep _ l hl hli]
        simp only [List.mem_cons, hli, false_or]
    · rw [hother r hr, Tbl.getD_set_ne _ _ _ hr]

/-- A gather or scatter that has not made an access yet. -/
def gatherJob (f : VFields) (write : Bool) : Job := Job.start (.gather f write) false []

theorem lanesAnswered_start (f : VFields) (write : Bool) : LanesAnswered (gatherJob f write) f write [] := ⟨rfl, answered_start .., rfl, rfl⟩

/-- A gather or scatter of a type that it permits, with VPROG clear, begins with its first lane. -/
theorem bodyGather_start {k : Nat} (hjob : (thr s k).job = none) (hvp : (thr s k).sys.vprog = 0) (hty : f.ty.toNat % 4 < 2) (write : Bool) (slots : Nat) :
    bodyGather write f slots s k = gatherGo f write k slots (midway s k (gatherJob f write) 0 (thr s k).v) := by
  have htypes : ∀ t : BitVec 3, t.toNat % 4 < 2 → (t == 0 || t == 1 || t == 4 || t == 5) = true := by decide
  have hok : gatherOk s k f = true := by
    rw [gatherOk, htypes f.ty hty, hvp, Bool.true_and]
    exact decide_eq_true (by positivity)
  have hstart : (modJob s k fun j => { j with kind := .gather f write, firm := false }) = midway s k (gatherJob f write) 0 (thr s k).v := by
    rw [modJob, jobOf, hjob, ← hvp]
    rfl
  rw [bodyGather, hok, hstart]
  rfl

theorem gatherAddr_eq (s : State) (k : Nat) (f : VFields) (l : Nat) : gatherAddr s k f l =
    rx s k f.vs1 + BitVec.ofInt 64 (Int.bmod (laneOf (vBits f.ty.toNat) (rv s k f.vs2.toNat) l) (2 ^ vBits f.ty.toNat)) := by
  rw [gatherAddr, sext64, BitVec.signExtend, BitVec.toInt_ofNat']

theorem bodyGather_own {slots : Nat} (ha : OwnAccess h s) (hjob : (thr s h.key).job = none) (hvp : (thr s h.key).sys.vprog = 0)
    (hty : f.ty.toNat % 4 < 2) (hslots : vLanes f.ty.toNat ≤ slots)
    (hown : ∀ l, l < vLanes f.ty.toNat → laneActive s h.key f.pg.toNat l = true → OwnAddr h s (vBits f.ty.toNat / 8) (gatherAddr s h.key f l)) :
    ∃ u, bodyGather false f slots s h.key = .done u ∧ VecEnd h.key s u ∧ LanesLoaded h f 1 (gatherAddr s h.key f) s u := by
  obtain ⟨j, vs, hend, hlanes, hother⟩ := gatherGo_reads (vp := 0) (vs := (thr s h.key).v) (fuel := slots) ha (lanesAnswered_start f false)
    (todo := (List.range (vLanes f.ty.toNat)).filter fun l => laneActive s h.key f.pg.toNat l) rfl (fun l _ => by simp [bit]) (fun l _ => rfl)
    (fun l hl => hown l (List.mem_range.1 (List.mem_of_mem_filter hl)) (List.of_mem_filter hl))
    ((List.length_filter_le ..).trans (by rwa [List.length_range]))
  refine ⟨_, (bodyGather_start hjob hvp hty false slots).trans hend, vecEnd_midway, fun j l hj hl => ?_, fun r hr => ?_⟩
  · obtain rfl : j = 0 := by omega
    rw [rv_midway, Nat.add_zero, hlanes l hl, Nat.zero_mul, Nat.zero_add]
    refine if_congr ?_ rfl rfl
    rw [List.mem_filter, List.mem_range]
    exact and_iff_right hl
  · rw [rv_midway]
    exact hother r (by omega)

theorem loadsOwn_vgather (hr : Ready h [f.vs1, f.vs2] s) (ha : OwnAccess h s) (hvp : (thr s h.key).sys.vprog = 0) (hty : f.ty.toNat % 4 < 2)
    (hslots : vLanes f.ty.toNat ≤ h.slots) : LoadsOwn h f s (.vgather h f) 1 fun _ l =>
      rx s h.key f.vs1 + BitVec.ofInt 64 (Int.bmod (laneOf (vBits f.ty.toNat) (rv s h.key f.vs2.toNat) l) (2 ^ vBits f.ty.toNat)) := by
  have hjob := job_of_ready hr
  refine loadsOwn_of_body (ready_mono hr (by simp)) rfl rfl (addr' := gatherAddr s h.key f) (fun j l hj _ => ?_)
    fun hown => bodyGather_own ha hjob hvp hty hslots fun l hl hact => ?_
  · obtain rfl : j = 0 := by omega
    rw [Nat.zero_mul, Nat.zero_add, gatherAddr_eq]
  · rw [gatherAddr_eq]
    exact hown 0 l Nat.one_pos hl hact

end

theorem vectorLoads : Claims.VectorLoads := by
  intro h f s hr ha k e n base o active loads hvp
  refine ⟨?vld, ?vlds, loadsOwn_vldb hr ha hvp, fun hd => ?vld2, fun hty hslots => loadsOwn_vgather hr ha hvp hty hslots⟩
  case vld =>
    refine loadsOwn_vload (strided := false) (pair := false) hr ha hvp rfl rfl rfl fun j l hj hl => (laneAddr_at s k f false j hl).trans ?_
    obtain rfl : j = 0 := Nat.lt_one_iff.1 hj
    rw [if_neg Bool.false_ne_true, Nat.mul_zero, Nat.zero_add]
  case vlds => exact loadsOwn_vload (strided := true) (pair := false) hr ha hvp rfl rfl rfl fun j l _ hl => laneAddr_at s k f true j hl
  case vld2 => exact loadsOwn_vload (strided := false) (pair := true) hr ha hvp rfl rfl (by simp [hd]) fun j l _ hl => laneAddr_at s k f false j hl

end Sys2Proof.Machine
end

section
/-!
PROOFS. Vector stores to the core's own store (R110, R115, R178).
-/
namespace Sys2Proof.Machine

/-! ### Bytes written one piece after the other -/

/-- The byte at `q`, `b` before, after some writes of bytes at addresses: the last that covers it stands. -/
def byteAfter (q : Nat) (b : Byte) (ws : List (Nat × List Byte)) : Byte :=
  ws.foldl (fun b w => if w.1 ≤ q ∧ q < w.1 + w.2.length then w.2.getD (q - w.1) 0 else b) b

section
variable {q n : Nat} {b : Byte} {data : Nat → List Byte}

theorem byteAfter_append (ws ws' : List (Nat × List Byte)) : byteAfter q b (ws ++ ws') = byteAfter q (byteAfter q b ws) ws' := List.foldl_append ..

theorem byteAfter_single (w : Nat × List Byte) : byteAfter q b [w] = if w.1 ≤ q ∧ q < w.1 + w.2.length then w.2.getD (q - w.1) 0 else b := rfl

/-- A write in two parts. -/
theorem byteAfter_split (o : Nat) (bs bs' : List Byte) : byteAfter q b [(o, bs ++ bs')] = byteAfter q (byteAfter q b [(o, bs)]) [(o + bs.length, bs')] := by
  simp only [byteAfter_single, List.length_append]
  by_cases hlo : o ≤ q ∧ q < o + bs.length
  · rw [if_pos (by omega), if_neg (by omega), if_pos hlo, List.getD_append _ _ _ _ (by omega)]
  · by_cases hhi : o + bs.length ≤ q ∧ q < o + bs.length + bs'.length
    · rw [if_pos (by omega), if_pos hhi, List.getD_append_right _ _ _ _ (by omega), Nat.sub_sub]
    · rw [if_neg (by omega), if_neg hhi, if_neg hlo]

/-- A chunk is written as its lanes would be, one after the other. -/
theorem byteAfter_chunk {a : W64} {ls : List Nat} (hat : ∀ p, p < ls.length → (a + BitVec.ofNat 64 (n * p)).toNat = a.toNat + n * p)
    (hdata : ∀ l, (data l).length = n) :
    byteAfter q b [(a.toNat, ls.flatMap data)] = byteAfter q b ((chunkLanes n (a, ls)).map fun l => (l.2.toNat, data l.1)) := by
  induction ls using List.reverseRecOn with
  | nil =>
    rw [byteAfter_single, if_neg (by simp)]
    rfl
  | append_singleton ls i ih =>
    have hlen : (ls.flatMap data).length = n * ls.length := by
      rw [List.length_flatMap, List.map_congr_left fun l _ => hdata l, List.map_const', List.sum_replicate, smul_eq_mul, Nat.mul_comm]
    rw [List.flatMap_append, List.flatMap_singleton, byteAfter_split, ih fun p hp => hat p (by rw [List.length_append]; omega), hlen, chunkLanes_concat,
      List.map_append, byteAfter_append, ← hat _ (by simp)]
    rfl

/-- The last lane that covers a byte gives it. -/
theorem byteAfter_last {m l : Nat} {p : Nat → Bool} {w : Nat → Nat × List Byte} (hl : l < m) (hp : p l = true)
    (hin : (w l).1 ≤ q ∧ q < (w l).1 + (w l).2.length)
    (hlast : ∀ l', l < l' → l' < m → p l' = true → ¬ ((w l').1 ≤ q ∧ q < (w l').1 + (w l').2.length)) :
    byteAfter q b (((List.range m).filter p).map w) = (w l).2.getD (q - (w l).1) 0 := by
  induction m with
  | zero => omega
  | succ m ih =>
    rw [List.range_succ, List.filter_append, List.map_append, byteAfter_append]
    by_cases hm : l = m
    · subst hm
      rw [List.filter_singleton, hp]
      exact (byteAfter_single _).trans (if_pos hin)
    · have hrest := ih (by omega) fun l' hlt hlt' => hlast l' hlt (by omega)
      cases hpm : p m
      · rw [List.filter_singleton, hpm, hrest]
        rfl
      · rw [List.filter_singleton, hpm, hrest]
        exact (byteAfter_single _).trans (if_neg (hlast m (by omega) m.lt_succ_self hpm))

/-- A byte that no write covers stays. -/
theorem byteAfter_none {ws : List (Nat × List Byte)} (hout : ∀ w ∈ ws, ¬ (w.1 ≤ q ∧ q < w.1 + w.2.length)) : byteAfter q b ws = b := by
  induction ws generalizing b with
  | nil => rfl
  | cons w ws ih =>
    obtain ⟨hw, hrest⟩ := List.forall_mem_cons.1 hout
    exact (ih hrest).trans (if_neg hw)

end

/-! ### One access that stores -/

/-- In `t` the local stores read as in `s` after the writes `ws` to that of the core of `h`. -/
def StoreWrote (h : Hart) (s t : State) (ws : List (Nat × List Byte)) : Prop :=
  ∀ d q, q < 2 ^ 20 → storeByte t d q = if d = h.core.toNat then byteAfter q (storeByte s d q) ws else storeByte s d q

section
variable {h : Hart} {s t u : State} {j : Job} {vp : W64} {vs : Tbl V512} {p : Part} {pre todo : List Part} {ws ws' : List (Nat × List Byte)}

theorem StoreWrote.refl : StoreWrote h s s [] := fun _ _ _ => (ite_self _).symm

theorem StoreWrote.trans (hst : StoreWrote h s t ws) (htu : StoreWrote h t u ws') : StoreWrote h s u (ws ++ ws') := by
  intro d q hq
  rw [htu d q hq, hst d q hq, byteAfter_append]
  split <;> rfl

/-- An access that stores within a line of the core's own store. -/
theorem coreStore_lane (hl : StoreLeaves h.key s t) (hm : memWf t.ls = true) (hp : LanePart h s p) (hline : p.va.toNat % 64 + p.data.length ≤ 64) :
    let u := coreStore t h.key p.va.toNat (offsets p.data)
    StoreLeaves h.key s u ∧ memWf u.ls = true ∧ StoreWrote h t u [(p.va.toNat, p.data)] := by
  intro u
  obtain ⟨-, n, -, hva, -⟩ := hp
  have hleaves : StoreLeaves h.key t u := storeLeaves_coreStore (by omega)
  refine ⟨hl.trans hleaves, hleaves.wf hm, fun d q hq => ?_⟩
  rw [storeByte_coreStore hm hline (by omega) hq, key_div, byteAfter_single]
  by_cases hd : d = h.core.toNat
  · simp only [hd, true_and, if_true]
  · rw [if_neg hd, if_neg fun hin => hd hin.1]

theorem lanePart_midway (hp : LanePart h s p) : LanePart h (midway s h.key j vp vs) p := hp

theorem lanePart_leaves (hl : StoreLeaves h.key (midway s h.key j vp vs) t) (hp : LanePart h s p) : LanePart h t p := by
  obtain ⟨hx, n, ho⟩ := hp
  exact ⟨hx, n, ownAddr_leaves hl (ownAddr_midway ho)⟩

/-- The accesses of an all-or-nothing store are stored as they are sent. -/
theorem sendParts_writes (ha : OwnAccess h s) (hl : StoreLeaves h.key (midway s h.key j vp vs) t) (hm : memWf t.ls = true) (hj : j.Answered)
    (hkind : j.kind = .lanes) (hsplit : j.parts = pre ++ todo) (hsent : j.sent = pre.length)
    (hown : ∀ p ∈ todo, LanePart h s p ∧ p.va.toNat % 64 + p.data.length ≤ 64) (posted : Bool) :
    ∃ u j', sendParts h.key 1 true posted (todo.length + 1) t = .ok u ∧ StoreLeaves h.key (midway s h.key j' vp vs) u ∧ j'.Answered ∧
      j'.sent = j'.parts.length ∧ StoreWrote h t u (todo.map fun p => (p.va.toNat, p.data)) := by
  induction todo generalizing j pre t with
  | nil =>
    have hend : (jobOf t h.key).parts[(jobOf t h.key).sent]? = none := by rw [jobOf_leaves hl]; simp [hsplit, hsent]
    refine ⟨t, j, ?_, hl, hj, by simp [hsplit, hsent], .refl⟩
    rw [sendParts]
    simp only [hend]
  | cons p todo ih =>
    obtain ⟨⟨hp, hline⟩, hrest⟩ := List.forall_mem_cons.1 hown
    obtain ⟨hleaves, hwf, hbytes⟩ := coreStore_lane hl hm (lanePart_midway hp) hline
    generalize hv : coreStore t h.key p.va.toNat (offsets p.data) = v at hleaves hwf hbytes
    have hstep := sends_write (posted := posted) (ownAccess_leaves hl (ownAccess_midway ha)) (lanePart_leaves hl hp)
      (by rw [jobOf_leaves hl]; exact next_part hsplit hsent)
    rw [hv, jobOf_leaves hl, ← jobOf_leaves hleaves, partDone_lanes (by rw [jobOf_leaves hleaves]; exact hkind)] at hstep
    obtain ⟨u, j', hu, hlu, hans, hall, hstored⟩ := ih (storeLeaves_modJob hleaves fun j => j.answer []) hwf (answered_answer hj) hkind
      (by rw [List.append_cons] at hsplit; exact hsplit) (by simp [Job.answer, hsent]) hrest
    refine ⟨u, j', (hstep _).trans hu, hlu, hans, hall, ?_⟩
    exact hbytes.trans (hstored : StoreWrote h v u _)

/-- The writes of some lanes. -/
def laneWrites (data : Nat → List Byte) (lanes : List (Nat × W64)) : List (Nat × List Byte) := lanes.map fun l => (l.2.toNat, data l.1)

theorem byteAfter_chunks {n q : Nat} {b : Byte} {data : Nat → List Byte} {chunks : List (W64 × List Nat)} (hdata : ∀ l, (data l).length = n)
    (hat : ∀ c ∈ chunks, ∀ p, p < c.2.length → (c.1 + BitVec.ofNat 64 (n * p)).toNat = c.1.toNat + n * p) :
    byteAfter q b (chunks.map fun c => (c.1.toNat, c.2.flatMap data)) = byteAfter q b (laneWrites data (chunks.flatMap (chunkLanes n))) := by
  induction chunks generalizing b with
  | nil => rfl
  | cons c chunks ih =>
    obtain ⟨hc, hrest⟩ := List.forall_mem_cons.1 hat
    have hone := byteAfter_chunk (q := q) (b := b) hc hdata
    rw [List.flatMap_cons, laneWrites, List.map_append, byteAfter_append, List.map_cons, ← List.singleton_append, byteAfter_append, hone]
    exact ih hrest

/-- An all-or-nothing store of lanes to the core's own store writes them one after the other (R110, R115). -/
theorem runLanes_writes {n : Nat} {lanes : List (Nat × W64)} {data : Nat → List Byte} {fin : State → Job → Res} {posted firm : Bool} (ha : OwnAccess h s)
    (hm : memWf s.ls = true) (hjob : (thr s h.key).job = none) (hn : LaneSize n) (hown : ∀ l ∈ lanes, OwnAddr h s n l.2) (hdata : ∀ l, (data l).length = n) :
    ∃ u j, runLanes s h.key 1 n true posted firm lanes data fin = fin u j ∧
      StoreLeaves h.key (midway s h.key j (thr s h.key).sys.vprog (thr s h.key).v) u ∧ StoreWrote h s u (laneWrites data lanes) := by
  have hwithin (c : W64 × List Nat) (hc : c ∈ laneChunks n lanes) := chunk_within hn ((laneChunks_keeps n lanes).2 c hc) (mem_of_chunk hc hown)
  have hparts : ∀ p ∈ (laneChunks n lanes).map (chunkPart h n data), LanePart h s p ∧ p.va.toNat % 64 + p.data.length ≤ 64 := by
    intro p hp
    obtain ⟨c, hc, rfl⟩ := List.mem_map.1 hp
    obtain ⟨-, -, hline⟩ := hwithin c hc
    have hlen : (c.2.flatMap data).length = n * c.2.length := by
      rw [List.length_flatMap, List.map_congr_left fun l _ => hdata l, List.map_const', List.sum_replicate, smul_eq_mul, Nat.mul_comm]
    exact ⟨lanePart_chunk hn hc hown, by rw [chunkPart, hlen]; exact hline⟩
  obtain ⟨u, j, hu, hleaves, hans, hall, hbytes⟩ := sendParts_writes (pre := []) (vp := (thr s h.key).sys.vprog) (vs := (thr s h.key).v)
    (t := begun s h.key firm ((laneChunks n lanes).map (chunkPart h n data))) ha .refl hm (answered_start ..) rfl rfl rfl hparts posted
  have hrun := runLanes_sent (fin := fin) (u := u) (posted := posted) (write := true) (firm := firm) (data := data) ha hjob hn hown
    (by rw [sendAll, begun, jobOf_midway]; exact hu) (by rwa [jobOf_leaves hleaves]) (by rwa [jobOf_leaves hleaves])
  rw [jobOf_leaves hleaves] at hrun
  refine ⟨u, j, hrun, hleaves, fun d q hq => ?_⟩
  have hchunks := byteAfter_chunks (q := q) (b := storeByte s d q) hdata fun c hc => (hwithin c hc).2.1
  rw [(laneChunks_keeps n lanes).1] at hchunks
  rw [← hchunks, hbytes d q hq, List.map_map]
  rfl

end

/-! ### The end of a store -/

/-- From `s` to `u`, thread `k` has come to the end of an instruction that stored to its core's own store. -/
def StoreEnd (k : Nat) (s u : State) : Prop := ∃ j, StoreLeaves k (midway s k j 0 (thr s k).v) u

section
variable {h : Hart} {i : Instr} {names : List (BitVec 5)} {s u : State} {body : State → Nat → Res} {k len : Nat}

theorem hbmByte_leaves {t : State} (hl : StoreLeaves k s t) (a : Nat) : hbmByte t a = hbmByte s a := by
  obtain ⟨_, _, _, _, _, rfl⟩ := hl.shape
  rfl

theorem hostMem_leaves {t : State} (hl : StoreLeaves k s t) : t.hostMem = s.hostMem := by
  obtain ⟨_, _, _, _, _, rfl⟩ := hl.shape
  rfl

theorem hostMem_dropJob (s : State) (k : Nat) : (dropJob s k).hostMem = s.hostMem := by
  rw [dropJob]
  split <;> rfl

/-- What a store that ends leaves as it was. -/
theorem retire_storeEnd (hvp : (thr s k).sys.vprog = 0) (hu : StoreEnd k s u) :
    (thr (retire (dropJob u k) k len) k).pc = (thr s k).pc + BitVec.ofNat 64 len ∧ SameRegs k [] s (retire (dropJob u k) k len) ∧
      (∀ a, hbmByte (retire (dropJob u k) k len) a = hbmByte s a) ∧ (retire (dropJob u k) k len).hostMem = s.hostMem ∧
      ∀ d q, storeByte (retire (dropJob u k) k len) d q = storeByte u d q := by
  obtain ⟨j, hl⟩ := hu
  have hend := retire_thr_self (dropJob u k) k len
  rw [thr_dropJob, hl.self, thr_midway] at hend
  obtain ⟨hhbm, hstore, -⟩ := sameMemory_trans (sameMemory_dropJob u k) (sameMemory_goesOn _ k ((thr (dropJob u k) k).pc + BitVec.ofNat 64 len))
  refine ⟨by rw [hend], ?_, fun a => (hhbm a).trans ((hbmByte_leaves hl a).trans rfl), ?_, hstore⟩
  · refine ⟨fun r _ => ?_, fun r => ?_, fun r => ?_, ?_⟩
    · rw [rx, hend, rx]
    · rw [rv, hend, rv]
    · rw [rp, hend, rp]
    · rw [hend, ← hvp]
      exact ⟨rfl, rfl, rfl, rfl, rfl, rfl, rfl, rfl⟩
  · rw [retire_hostMem, hostMem_dropJob, hostMem_leaves hl]
    rfl

end

/-! ### The stores of the claim -/

section
variable {h : Hart} {s : State} {f : VFields} {i : Instr} {regs : Nat} {addr : Nat → W64}

/-- The bytes that lane `l` stores, the lanes of a pair's second register after those of its first. -/
def storedBytes (s : State) (k : Nat) (f : VFields) (l : Nat) : List Byte :=
  let n := vLanes f.ty.toNat
  leBytes (vBits f.ty.toNat / 8) (laneOf (vBits f.ty.toNat) (rv s k (f.vd.toNat + l / n)) (l % n))

/-- What the claim asks of a store of `regs` registers with the addresses `addr`, by lane. -/
def StoresOwn (h : Hart) (f : VFields) (s : State) (i : Instr) (regs : Nat) (addr : Nat → W64) : Prop :=
  let k := h.key
  let c := h.core.toNat
  let e := vBits f.ty.toNat
  let n := vLanes f.ty.toNat
  let active (i : Nat) : Prop := f.pg = 0 ∨ (rp s k f.pg.toNat).getLsbD (i % n) = true
  let covers (l p : Nat) : Prop := l < regs * n ∧ active l ∧ (addr l).toNat ≤ p ∧ p < (addr l).toNat + e / 8
  (∀ l, l < regs * n → active l → OwnAddr h s (e / 8) (addr l)) → Fetches i s →
  ∃ t, exec i s = .next t ∧ (thr t k).pc = (thr s k).pc + BitVec.ofNat 64 h.len ∧
    (∀ l p, covers l p → (∀ m, l < m → ¬ covers m p) →
      storeByte t c p = byteOf (laneOf e (rv s k (f.vd.toNat + l / n)) (l % n)) (p - (addr l).toNat)) ∧
    (∀ d p, p < 2 ^ 20 → (d = c → ∀ l, ¬ covers l p) → storeByte t d p = storeByte s d p) ∧
    (∀ a, hbmByte t a = hbmByte s a) ∧ t.hostMem = s.hostMem ∧ SameRegs k [] s t

/-- A store is what the claim asks once its body ends with its active lanes written in ascending order. -/
theorem storesOwn_of_body {names : List (BitVec 5)} {body : State → Nat → Res} {addr' : Nat → W64} (hr : Ready h names s) (hh : i.hart? = some h)
    (hvp : (thr s h.key).sys.vprog = 0) (hexec : exec i s = issue h i 1 names body s) (haddr : ∀ l, l < regs * vLanes f.ty.toNat → addr' l = addr l)
    (hbody : (∀ l ∈ activeLanes s h.key f regs, OwnAddr h s (vBits f.ty.toNat / 8) (addr' l)) →
      ∃ u, body s h.key = .done u ∧ StoreEnd h.key s u ∧ StoreWrote h s u (laneWrites (storedBytes s h.key f) ((activeLanes s h.key f regs).map fun l => (l, addr' l)))) :
    StoresOwn h f s i regs addr := by
  intro hown hf
  have hact (l : Nat) : laneActive s h.key f.pg.toNat (l % vLanes f.ty.toNat) = true ↔
      f.pg = 0 ∨ (rp s h.key f.pg.toNat).getLsbD (l % vLanes f.ty.toNat) = true := laneActive_iff ..
  have hlen (l : Nat) : (storedBytes s h.key f l).length = vBits f.ty.toNat / 8 := leBytes_length ..
  obtain ⟨u, hu, hend, hwrote⟩ := hbody fun l hl => by
    obtain ⟨hlt, hl⟩ := mem_activeLanes.1 hl
    rw [haddr l hlt]
    exact hown l hlt ((hact l).1 hl)
  have hwrites : laneWrites (storedBytes s h.key f) ((activeLanes s h.key f regs).map fun l => (l, addr' l)) =
      (activeLanes s h.key f regs).map fun l => ((addr' l).toNat, storedBytes s h.key f l) := List.map_map
  obtain ⟨hpc, hregs, hhbm, hhost, hstore⟩ := retire_storeEnd (len := h.len) hvp hend
  refine ⟨_, hexec.trans (issue_drops hr hh hf 1 hu), hpc, fun l p hcov hlast => ?_, fun d p hp hout => ?_, hhbm, hhost, hregs⟩
  · obtain ⟨hl, hon, hin⟩ := hcov
    have hlow : p < 2 ^ 20 := by
      obtain ⟨-, hva, -⟩ := hown l hl hon
      have hsize := laneSize_vBits f.ty.toNat
      rcases hsize with hsize | hsize | hsize | hsize <;> omega
    rw [hstore, hwrote _ _ hlow, if_pos rfl, hwrites, activeLanes,
      byteAfter_last (p := fun l => laneActive s h.key f.pg.toNat (l % vLanes f.ty.toNat)) hl ((hact l).2 hon)]
    · rw [haddr l hl]
      exact leBytes_getD _ (by omega)
    · rw [hlen, haddr l hl]
      exact hin
    · intro m hlm hm hon' hin'
      rw [hlen, haddr m hm] at hin'
      exact hlast m hlm ⟨hm, (hact m).1 hon', hin'⟩
  · rw [hstore, hwrote _ _ hp]
    split
    · next hd =>
      rw [hwrites]
      refine byteAfter_none fun w hw hin => ?_
      obtain ⟨l, hl, rfl⟩ := List.mem_map.1 hw
      obtain ⟨hlt, hon⟩ := mem_activeLanes.1 hl
      rw [hlen, haddr l hlt] at hin
      exact hout hd l ⟨hlt, (hact l).1 hon, hin⟩
    · rfl

theorem storesOwn_vstore {strided pair : Bool} (hr : Ready h [f.vs1, f.vs2] s) (ha : OwnAccess h s) (hm : memWf s.ls = true)
    (hvp : (thr s h.key).sys.vprog = 0) (hh : i.hart? = some h) (hexec : exec i s = issue h i 1 [f.vs1, f.vs2] (bodyVstore strided pair f) s)
    (hd : (pair && f.vd.toNat % 2 != 0) = false)
    (haddr : ∀ l, l < (if pair then 2 else 1) * vLanes f.ty.toNat → laneAddr s h.key f strided l = addr l) :
    StoresOwn h f s i (if pair then 2 else 1) addr := by
  have hjob := job_of_ready hr
  refine storesOwn_of_body hr hh hvp hexec haddr fun hown => ?_
  have hlanes : ∀ l ∈ accessLanes s h.key f strided pair, OwnAddr h s (vBits f.ty.toNat / 8) l.2 := by
    rw [accessLanes_eq]
    intro lane hlane
    obtain ⟨l, hl, rfl⟩ := List.mem_map.1 hlane
    exact hown l hl
  obtain ⟨u, j, hrun, hleaves, hwrote⟩ := runLanes_writes (data := storedBytes s h.key f) (fin := fun t _ => .done t) (posted := true) (firm := true) ha hm
    hjob (laneSize_vBits _) hlanes fun l => leBytes_length ..
  rw [hvp] at hleaves
  rw [accessLanes_eq] at hwrote
  exact ⟨u, (if_neg (Bool.eq_false_iff.1 hd)).trans hrun, ⟨j, hleaves⟩, hwrote⟩

end

end Sys2Proof.Machine
end

section
/-!
PROOFS. Scatters to the core's own store, and the obligation (R113 to R115).
-/
namespace Sys2Proof.Machine

section
variable {h : Hart} {s t : State} {f : VFields} {j : Job} {vp : W64} {vs : Tbl V512} {pre todo : List Nat} {i : Nat}

theorem rx_leaves (hl : StoreLeaves h.key s t) (r : BitVec 5) : rx t h.key r = rx s h.key r := by rw [rx, hl.self, rx]

theorem rv_leaves (hl : StoreLeaves h.key s t) (r : Nat) : rv t h.key r = rv s h.key r := by rw [rv, hl.self, rv]

theorem gatherAddr_leaves (hl : StoreLeaves h.key (midway s h.key j vp (thr s h.key).v) t) (i : Nat) : gatherAddr t h.key f i = gatherAddr s h.key f i := by
  rw [gatherAddr, rx_leaves hl, rv_leaves hl, rx_midway, rv_midway, gatherAddr, rv]

theorem gatherPart_leaves (hl : StoreLeaves h.key (midway s h.key j vp (thr s h.key).v) t) (i : Nat) : gatherPart h f t i = gatherPart h f s i := by
  rw [gatherPart, gatherAddr_leaves hl, rv_leaves hl, rv_midway, gatherPart, rv]

theorem nextLane_leaves (hl : StoreLeaves h.key (midway s h.key j vp vs) t) : nextLane t h.key f = nextLane (midway s h.key j vp vs) h.key f := by
  simp only [nextLane, jobOf, laneActive, rp, hl.self]

/-- The write of a lane of a scatter. -/
def scatterWrite (h : Hart) (s : State) (f : VFields) (l : Nat) : Nat × List Byte :=
  ((gatherAddr s h.key f l).toNat, leBytes (vBits f.ty.toNat / 8) (laneOf (vBits f.ty.toNat) (rv s h.key f.vd.toNat) l))

/-- One lane of a scatter: it is stored and marked in VPROG (R114, R115). -/
theorem gatherGo_write (ha : OwnAccess h s) (hl : StoreLeaves h.key (midway s h.key j vp (thr s h.key).v) t) (hm : memWf t.ls = true)
    (hjob : LanesAnswered j f true pre) (hnext : nextLane t h.key f = some i) (ho : OwnAddr h s (vBits f.ty.toNat / 8) (gatherAddr s h.key f i)) (n : Nat) :
    ∃ u j', LanesAnswered j' f true (pre ++ [i]) ∧ gatherGo f true h.key (n + 1) t = gatherGo f true h.key n u ∧
      StoreLeaves h.key (midway s h.key j' (vp ||| BitVec.ofNat 64 (2 ^ i)) (thr s h.key).v) u ∧ memWf u.ls = true ∧ StoreWrote h t u [scatterWrite h s f i] := by
  have hat : OwnAccess h t := ownAccess_leaves hl (ownAccess_midway ha)
  have hot : OwnAddr h t (vBits f.ty.toNat / 8) (gatherAddr t h.key f i) := by
    rw [gatherAddr_leaves hl]
    exact ownAddr_leaves hl (ownAddr_midway ho)
  have hpart : LanePart h s (gatherPart h f s i) := ⟨rfl, _, ho⟩
  have hline : (gatherPart h f s i).va.toNat % 64 + (gatherPart h f s i).data.length ≤ 64 := by
    obtain ⟨halign, -⟩ := ho
    have hlen : (gatherPart h f s i).data.length = vBits f.ty.toNat / 8 := leBytes_length ..
    have hva : (gatherPart h f s i).va = gatherAddr s h.key f i := rfl
    rw [hlen, hva]
    rcases laneSize_vBits f.ty.toNat with hn | hn | hn | hn <;> rw [hn] at halign ⊢ <;> omega
  obtain ⟨hkind, -, -, -⟩ := id hjob
  obtain ⟨-, -, htx, -⟩ := id ha
  generalize hp : gatherPart h f s i = p at hpart hline
  have hissue : StoreLeaves h.key (midway s h.key (j.withPart p) vp (thr s h.key).v) (laneIssued h f t i) := by
    rw [laneIssued, gatherPart_leaves hl, hp]
    exact storeLeaves_modJob hl fun j => j.withPart p
  obtain ⟨hleaves, hwf, hbytes⟩ := coreStore_lane hissue hm (lanePart_midway hpart) hline
  have hsend := sends_write (posted := false) (ownAccess_leaves hissue (ownAccess_midway ha)) (lanePart_leaves hissue hpart)
    (by rw [jobOf_leaves hissue]; exact next_of_answered hjob)
  generalize hv : coreStore (laneIssued h f t i) h.key p.va.toNat (offsets p.data) = v at hleaves hwf hbytes hsend
  rw [jobOf_leaves hissue, ← jobOf_leaves hleaves, partDone_gather (p := p) (by rw [jobOf_leaves hleaves]; exact hkind)
    (by rw [hleaves.self, thr_midway]; exact htx) (by rw [jobOf_leaves hleaves]; exact next_of_answered hjob)] at hsend
  have hplace : p.place = i := by rw [← hp]; rfl
  rw [hplace] at hsend
  have hdone := lanesAnswered_answer (p := p) (bs := []) hjob
  rw [hplace] at hdone
  have hend := storeLeaves_vprog (storeLeaves_modJob hleaves fun j => j.answer []) fun x => x ||| BitVec.ofNat 64 (2 ^ i)
  refine ⟨_, _, hdone, gatherGo_lane hat (by rwa [jobOf_leaves hl]) hnext hot hsend ?_ n, hend, hwf, ?_⟩
  · refine (congrArg (fun j : Job => j.sent = j.parts.length) (jobOf_leaves hend)).mpr ?_
    obtain ⟨-, -, hall, -⟩ := hdone
    exact hall
  · rw [show scatterWrite h s f i = (p.va.toNat, p.data) by rw [← hp]; rfl]
    exact hbytes

/-- A scatter to the core's own store writes its lanes in ascending order. -/
theorem gatherGo_writes (ha : OwnAccess h s) (hl : StoreLeaves h.key (midway s h.key j vp (thr s h.key).v) t) (hm : memWf t.ls = true)
    (hjob : LanesAnswered j f true pre)
    (hlanes : ((List.range (vLanes f.ty.toNat)).filter fun l => laneActive s h.key f.pg.toNat l) = pre ++ todo)
    (hbits : ∀ l ∈ todo, bit vp.toNat l = false) (hown : ∀ l ∈ todo, OwnAddr h s (vBits f.ty.toNat / 8) (gatherAddr s h.key f l)) {fuel : Nat}
    (hfuel : todo.length ≤ fuel) :
    ∃ u, gatherGo f true h.key fuel t = .done u ∧ StoreEnd h.key s u ∧ StoreWrote h t u (todo.map (scatterWrite h s f)) := by
  have hnext := (nextLane_leaves (f := f) hl).trans (nextLane_midway hjob hlanes hbits)
  induction todo generalizing j vp pre t fuel with
  | nil =>
    obtain ⟨-, -, htx, -⟩ := ha
    exact ⟨_, gatherGo_none (by rw [hl.self, thr_midway]; exact htx) (by rwa [jobOf_leaves hl]) hnext fuel, ⟨j, storeLeaves_vprog hl fun _ => 0⟩, .refl⟩
  | cons i todo ih =>
    obtain ⟨fuel, rfl⟩ := Nat.exists_eq_succ_of_ne_zero (show fuel ≠ 0 by rw [List.length_cons] at hfuel; omega)
    obtain ⟨-, hapart⟩ := lane_left hlanes
    obtain ⟨hi, hrest⟩ := List.forall_mem_cons.1 hown
    obtain ⟨v, j', hjob', hstep, hlv, hwf, hone⟩ := gatherGo_write ha hl hm hjob hnext hi fuel
    have hlanes' : ((List.range (vLanes f.ty.toNat)).filter fun l => laneActive s h.key f.pg.toNat l) = pre ++ [i] ++ todo := by rw [hlanes, List.append_cons]
    have hbits' : ∀ l ∈ todo, bit (vp ||| BitVec.ofNat 64 (2 ^ i)).toNat l = false := fun l hl' =>
      (bit_setLane vp (hapart l hl')).trans (hbits l (List.mem_cons_of_mem _ hl'))
    obtain ⟨u, hu, hend, hwrote⟩ := ih (fuel := fuel) hlv hwf hjob' hlanes' hbits' hrest (by rw [List.length_cons] at hfuel; omega)
      ((nextLane_leaves hlv).trans (nextLane_midway hjob' hlanes' hbits'))
    exact ⟨u, hstep.trans hu, hend, hone.trans hwrote⟩

theorem storesOwn_vscatter (hr : Ready h [f.vs1, f.vs2] s) (ha : OwnAccess h s) (hm : memWf s.ls = true) (hvp : (thr s h.key).sys.vprog = 0)
    (hty : f.ty.toNat % 4 < 2) (hslots : vLanes f.ty.toNat ≤ h.slots) : StoresOwn h f s (.vscatter h f) 1 fun l =>
      rx s h.key f.vs1 + BitVec.ofInt 64 (Int.bmod (laneOf (vBits f.ty.toNat) (rv s h.key f.vs2.toNat) l) (2 ^ vBits f.ty.toNat)) := by
  have hjob := job_of_ready hr
  have hlanes : activeLanes s h.key f 1 = (List.range (vLanes f.ty.toNat)).filter fun l => laneActive s h.key f.pg.toNat l := by
    rw [activeLanes_succ, show activeLanes s h.key f 0 = [] by simp [activeLanes], List.nil_append, Nat.zero_mul]
    simp
  refine storesOwn_of_body (ready_mono hr (by simp)) rfl hvp rfl (addr' := gatherAddr s h.key f) (fun l _ => gatherAddr_eq s h.key f l) fun hown => ?_
  obtain ⟨u, hu, hend, hwrote⟩ := gatherGo_writes (fuel := h.slots) ha (.refl (s := midway s h.key (gatherJob f true) 0 (thr s h.key).v)) hm
    (lanesAnswered_start f true) (pre := []) rfl (fun l _ => by simp [bit]) (hlanes ▸ hown) ((List.length_filter_le ..).trans (by rwa [List.length_range]))
  refine ⟨u, (bodyGather_start hjob hvp hty true h.slots).trans hu, hend, ?_⟩
  have hwrites : laneWrites (storedBytes s h.key f) ((activeLanes s h.key f 1).map fun l => (l, gatherAddr s h.key f l)) =
      ((List.range (vLanes f.ty.toNat)).filter fun l => laneActive s h.key f.pg.toNat l).map (scatterWrite h s f) := by
    rw [laneWrites, List.map_map, hlanes]
    refine List.map_congr_left fun l hl => ?_
    have hlt := List.mem_range.1 (List.mem_of_mem_filter hl)
    simp only [Function.comp, storedBytes, scatterWrite, Nat.div_eq_of_lt hlt, Nat.mod_eq_of_lt hlt, Nat.add_zero]
  rw [hwrites]
  exact hwrote

end

/-- The address of lane `l` of a single register. -/
theorem laneAddr_low (s : State) (k : Nat) (f : VFields) (strided : Bool) {l : Nat} (hl : l < vLanes f.ty.toNat) :
    laneAddr s k f strided l = if strided then rx s k f.vs1 + BitVec.ofNat 64 l * rx s k f.vs2
      else rx s k f.vs1 + rx s k f.vs2 + BitVec.ofNat 64 (l * (vBits f.ty.toNat / 8)) := by
  rw [← Nat.zero_add l, ← Nat.zero_mul (vLanes f.ty.toNat), laneAddr_at s k f strided 0 hl, Nat.mul_zero, Nat.zero_mul, Nat.zero_add, Nat.zero_add]

theorem vectorStores : Claims.VectorStores := by
  intro h f s hr ha hm k c e n base o active stores hvp
  refine ⟨?vst, ?vsts, fun hd => ?vst2, fun hty hslots => storesOwn_vscatter hr ha hm hvp hty hslots⟩
  case vst =>
    refine storesOwn_vstore (strided := false) (pair := false) hr ha hm hvp rfl rfl rfl fun l hl => (laneAddr_low s k f false (by simpa using hl)).trans ?_
    rw [if_neg Bool.false_ne_true]
  case vsts =>
    exact storesOwn_vstore (strided := true) (pair := false) hr ha hm hvp rfl rfl rfl fun l hl => laneAddr_low s k f true (by simpa using hl)
  case vst2 => exact storesOwn_vstore (strided := false) (pair := true) hr ha hm hvp rfl rfl (by simp [hd]) fun l _ => rfl

/-- Settles O18: a vector access of the own store is a list of accesses within a line each, answered one after the other. -/
theorem vectorMemory : Obligations.VectorMemory := ⟨vectorLoads, vectorStores⟩

end Sys2Proof.Machine
end
